-- ==== Sys2Proof/Word.lean ====
section
/-! DEFINITION. The word types of the Limutre Q4 and the sparse table. -/

namespace Sys2Proof

abbrev Byte := BitVec 8
abbrev Half := BitVec 16
abbrev Word := BitVec 32
abbrev Dword := BitVec 64

/-- The 64 data bytes of an F register or of C (R12). -/
abbrev RegData := BitVec 512
/-- The 32 sidecar bytes of an F register or of C (R12). -/
abbrev RegSide := BitVec 256
/-- The 8x8 tray of 32-bit elements (R12); element (r,c) is bits [32(8r+c)+31 : 32(8r+c)]. -/
abbrev TrayData := BitVec 2048
/-- A 128-byte line (R211, R247). -/
abbrev LineData := BitVec 1024
/-- One bit for each byte of a line (R247). -/
abbrev LineMask := BitVec 128

/-- A sparse table: keys strictly rising; a key that is not listed reads as the table's default. -/
abbrev Tab (β : Type) := List (Nat × β)

end Sys2Proof
end

