-- ==== Sys2Proof/Config.lean ====
section
/-! DEFINITION. What the spec leaves to the part, without a body: a statement holds whatever these are. -/

namespace Sys2Proof.Config

/-- R167: FRSQ, FEXP2 and FLOG2 under FP32 return the correctly rounded value or its neighbour on the other side of
the exact one, a fixed function of the input and FRM.  True takes the neighbour (DESIGN CHOICE, log entry 3).
Operation 0 FRSQ, 1 FEXP2, 2 FLOG2. -/
opaque sfOther : Nat → Nat → BitVec 2 → Bool

/-- R27, R80: which physical core has which as its east neighbour at facing edges (DESIGN CHOICE, log entry 4). -/
opaque eastOf : Nat → Nat → Bool
/-- R27, R80: the same southwards. -/
opaque southOf : Nat → Nat → Bool

/-- R375: the vendor's RSA modulus and SLH-DSA public key in the boot ROM (DESIGN CHOICE, log entry 5). -/
opaque vendorRsa : BitVec 3072
opaque vendorSlh : BitVec 384
/-- R376: RSA-3072 signature of a digest by the device identity key, whose private part never leaves the root of trust. -/
opaque rsaSign : BitVec 384 → BitVec 3072
/-- R376: the same by the SLH-DSA-SHA2-192s identity key: 16,224 bytes. -/
opaque slhSign : BitVec 384 → BitVec 129792
/-- R377: device serial, identity keys and endorsements, made at manufacture. -/
opaque serial : BitVec 128
opaque identityRsa : BitVec 3072
opaque identitySlh : BitVec 384
opaque endorseRsa : BitVec 3072
opaque endorseSlh : BitVec 129792

/-- R338: a byte that the Orangery writes where software has changed the record; draw n (DESIGN CHOICE, log entry 56). -/
opaque recordByte : Nat → BitVec 8

end Sys2Proof.Config
end

