-- ==== Sys2Proof/Syntax.lean ====
section
/-! DEFINITION. The operations of the Limutre Q4: one constructor for every row of the opcode table.

The slot rows (Y, S, W, E) carry the fields of the encoding tables R34, R35, R42, R49, R50 and R56 as raw
bits, the epilogue words those of R197.  A row whose code lies in fn, in d or in b (ALU, FPU, AMO, CACHE, CSCAN,
PSET, CXF, CSTAT, CAADD, MTR) has that code fixed by its constructor.  The event rows have no encoding: their
arguments name the unit they act on (a core, a line, a team, a packet). -/

namespace Sys2Proof

inductive Instr where
  -- Y slot (R34, R35): sync instructions and header forms; `s` is the stall count
  /-- R39: Y-slot no-operation that does nothing besides applying its stall count. -/
  | nopy (s : BitVec 4)
  /-- R217: Holds the bundle until counting flag k reaches n, then acts as a DEVICE-scope acquire. -/
  | kwait (s : BitVec 4) (k : BitVec 4) (n : BitVec 16)
  /-- R218: Adds n to counting flag k of the named or own core as a DEVICE-scope release. -/
  | kpost (s : BitVec 4) (k : BitVec 4) (n : BitVec 8) (c : BitVec 6) (f : BitVec 1)
  /-- R218: Sets counting flag k of its own core to n at the end of its bundle. -/
  | kset (s : BitVec 4) (k : BitVec 4) (n : BitVec 16)
  /-- R218: Arrives at barrier b of the named or own core as a DEVICE-scope release. -/
  | barr (s : BitVec 4) (b : BitVec 10) (c : BitVec 6) (f : BitVec 1)
  /-- R217: Holds the bundle until the barrier phase differs from ph, then acts as a DEVICE-scope acquire. -/
  | bwait (s : BitVec 4) (b : BitVec 10) (p : BitVec 1)
  /-- R218: Adds G a to the pending byte count of barrier b of its own core. -/
  | bexp (s : BitVec 4) (b : BitVec 10) (a : BitVec 5)
  /-- R217: Holds the bundle n cycles beyond the previous bundle's stall. -/
  | dly (s : BitVec 4) (n : BitVec 16)
  /-- R217: Holds the bundle until the array is empty. -/
  | wquiet (s : BitVec 4)
  /-- R217: Holds the bundle until every issued step of edge e is fed or captured, processed and written. -/
  | lwait (s : BitVec 4) (e : BitVec 2)
  /-- R110: Header form supplying upper immediate bits to MOVI or an S-slot immediate instruction. -/
  | imx (s : BitVec 4) (i : BitVec 24)
  /-- R128: Header form that issues its bundle as count repeats with stepped register fields. -/
  | rep (s : BitVec 4) (c : BitVec 6) (m : BitVec 6) (t : BitVec 4)
  /-- R129: Header form directing the bundle's E instruction to a chain follower position. -/
  | xtgt (s : BitVec 4) (p : BitVec 2)
  -- S slot (R42 to R49)
  /-- R39: S-slot no-operation. -/
  | nops
  /-- R106: G d := G a + G b modulo 2^64. -/
  | aluAdd (d : BitVec 5) (a : BitVec 5) (b : BitVec 5)
  /-- R106: G d := G a - G b modulo 2^64. -/
  | aluSub (d : BitVec 5) (a : BitVec 5) (b : BitVec 5)
  /-- R106: G d := bitwise AND of G a and G b. -/
  | aluAnd (d : BitVec 5) (a : BitVec 5) (b : BitVec 5)
  /-- R106: G d := bitwise OR of G a and G b. -/
  | aluOr (d : BitVec 5) (a : BitVec 5) (b : BitVec 5)
  /-- R106: G d := bitwise XOR of G a and G b. -/
  | aluXor (d : BitVec 5) (a : BitVec 5) (b : BitVec 5)
  /-- R106: G d := G a shifted left by G b[5:0]. -/
  | aluShl (d : BitVec 5) (a : BitVec 5) (b : BitVec 5)
  /-- R106: G d := G a shifted right by G b[5:0] with zero fill. -/
  | aluShr (d : BitVec 5) (a : BitVec 5) (b : BitVec 5)
  /-- R106: G d := G a shifted right by G b[5:0] with sign fill. -/
  | aluSar (d : BitVec 5) (a : BitVec 5) (b : BitVec 5)
  /-- R106: G d := low 64 bits of G a times G b. -/
  | aluMul (d : BitVec 5) (a : BitVec 5) (b : BitVec 5)
  /-- R106: G d := high 64 bits of the signed 128-bit product. -/
  | aluMulh (d : BitVec 5) (a : BitVec 5) (b : BitVec 5)
  /-- R106: G d := high 64 bits of the unsigned 128-bit product. -/
  | aluMulhu (d : BitVec 5) (a : BitVec 5) (b : BitVec 5)
  /-- R107: G d := signed quotient truncated towards zero, with fixed edge results. -/
  | aluDiv (d : BitVec 5) (a : BitVec 5) (b : BitVec 5)
  /-- R107: G d := unsigned quotient, all ones on division by zero. -/
  | aluDivu (d : BitVec 5) (a : BitVec 5) (b : BitVec 5)
  /-- R107: G d := signed remainder taking the dividend's sign. -/
  | aluRem (d : BitVec 5) (a : BitVec 5) (b : BitVec 5)
  /-- R107: G d := unsigned remainder. -/
  | aluRemu (d : BitVec 5) (a : BitVec 5) (b : BitVec 5)
  /-- R106: G d := signed minimum of G a and G b. -/
  | aluMin (d : BitVec 5) (a : BitVec 5) (b : BitVec 5)
  /-- R106: G d := signed maximum of G a and G b. -/
  | aluMax (d : BitVec 5) (a : BitVec 5) (b : BitVec 5)
  /-- R106: G d := unsigned minimum of G a and G b. -/
  | aluMinu (d : BitVec 5) (a : BitVec 5) (b : BitVec 5)
  /-- R106: G d := unsigned maximum of G a and G b. -/
  | aluMaxu (d : BitVec 5) (a : BitVec 5) (b : BitVec 5)
  /-- R106: G d := 1 if G a < G b signed, else 0. -/
  | aluSlt (d : BitVec 5) (a : BitVec 5) (b : BitVec 5)
  /-- R106: G d := 1 if G a < G b unsigned, else 0. -/
  | aluSltu (d : BitVec 5) (a : BitVec 5) (b : BitVec 5)
  /-- R106: G d := 1 if G a equals G b, else 0. -/
  | aluSeq (d : BitVec 5) (a : BitVec 5) (b : BitVec 5)
  /-- R106: G d := number of leading zero bits of G a. -/
  | aluClz (d : BitVec 5) (a : BitVec 5)
  /-- R106: G d := number of one bits of G a. -/
  | aluPopc (d : BitVec 5) (a : BitVec 5)
  /-- R109: G d := G a plus the sign-extended immediate. -/
  | addi (d : BitVec 5) (a : BitVec 5) (i : BitVec 16)
  /-- R109: G d := G a AND the zero-extended immediate. -/
  | andi (d : BitVec 5) (a : BitVec 5) (i : BitVec 16)
  /-- R109: G d := G a OR the zero-extended immediate. -/
  | ori (d : BitVec 5) (a : BitVec 5) (i : BitVec 16)
  /-- R109: G d := G a XOR the zero-extended immediate. -/
  | xori (d : BitVec 5) (a : BitVec 5) (i : BitVec 16)
  /-- R109: G d := G a shifted by an immediate amount of the immediate's kind. -/
  | shi (d : BitVec 5) (a : BitVec 5) (k : BitVec 2) (n : BitVec 6)
  /-- R109: G d := imm16 shifted left by 16. -/
  | lui (d : BitVec 5) (i : BitVec 16)
  /-- R109: G d := 1 if G a is below the sign-extended immediate, signed. -/
  | slti (d : BitVec 5) (a : BitVec 5) (i : BitVec 16)
  /-- R109: G d := 1 if G a is below the zero-extended immediate, unsigned. -/
  | sltiu (d : BitVec 5) (a : BitVec 5) (i : BitVec 16)
  /-- R109: G d := (G d shifted left 16) OR imm16. -/
  | lis (d : BitVec 5) (i : BitVec 16)
  /-- R111: Scalar floating-point add rounded by FRM, flags into SXF. -/
  | fpuFadd (d : BitVec 5) (a : BitVec 5) (b : BitVec 5) (w : BitVec 1)
  /-- R111: Scalar floating-point subtract rounded by FRM. -/
  | fpuFsub (d : BitVec 5) (a : BitVec 5) (b : BitVec 5) (w : BitVec 1)
  /-- R111: Scalar floating-point multiply rounded by FRM. -/
  | fpuFmul (d : BitVec 5) (a : BitVec 5) (b : BitVec 5) (w : BitVec 1)
  /-- R111: Scalar floating-point divide rounded by FRM. -/
  | fpuFdiv (d : BitVec 5) (a : BitVec 5) (b : BitVec 5) (w : BitVec 1)
  /-- R111: Scalar floating-point square root rounded by FRM. -/
  | fpuFsqrt (d : BitVec 5) (a : BitVec 5) (w : BitVec 1)
  /-- R111: Scalar floating-point minimum with -0 below +0. -/
  | fpuFmin (d : BitVec 5) (a : BitVec 5) (b : BitVec 5) (w : BitVec 1)
  /-- R111: Scalar floating-point maximum with -0 below +0. -/
  | fpuFmax (d : BitVec 5) (a : BitVec 5) (b : BitVec 5) (w : BitVec 1)
  /-- R111: G d := 1 if the floats are equal, else 0. -/
  | fpuFeq (d : BitVec 5) (a : BitVec 5) (b : BitVec 5) (w : BitVec 1)
  /-- R111: G d := 1 if a is less than b, else 0. -/
  | fpuFlt (d : BitVec 5) (a : BitVec 5) (b : BitVec 5) (w : BitVec 1)
  /-- R111: G d := 1 if a is less than or equal to b, else 0. -/
  | fpuFle (d : BitVec 5) (a : BitVec 5) (b : BitVec 5) (w : BitVec 1)
  /-- R111: G d := a times b plus G d with one rounding. -/
  | fpuFfma (d : BitVec 5) (a : BitVec 5) (b : BitVec 5) (w : BitVec 1)
  /-- R111: Converts FP32 to FP64 exactly. -/
  | fpuCvtS2d (d : BitVec 5) (a : BitVec 5)
  /-- R111: Converts FP64 to FP32 rounded by FRM. -/
  | fpuCvtD2s (d : BitVec 5) (a : BitVec 5)
  /-- R111: Converts FP32 to a signed 64-bit integer, saturating. -/
  | fpuCvtS2i (d : BitVec 5) (a : BitVec 5)
  /-- R111: Converts a signed 64-bit integer to FP32. -/
  | fpuCvtI2s (d : BitVec 5) (a : BitVec 5)
  /-- R111: Converts FP64 to a signed 64-bit integer, saturating. -/
  | fpuCvtD2i (d : BitVec 5) (a : BitVec 5)
  /-- R111: Converts a signed 64-bit integer to FP64. -/
  | fpuCvtI2d (d : BitVec 5) (a : BitVec 5)
  /-- R113: Branches unconditionally by a bundle offset. -/
  | br (o : BitVec 26)
  /-- R113: Branches by a bundle offset and links into G31. -/
  | bl (o : BitVec 26)
  /-- R113: Jumps to the bundle index in G a. -/
  | jr (a : BitVec 5)
  /-- R113: Jumps to the bundle index in G a and links into G31. -/
  | jlr (a : BitVec 5)
  /-- R113: Branches when G a compares to G b under the condition. -/
  | bc (c : BitVec 4) (a : BitVec 5) (b : BitVec 5) (o : BitVec 12)
  /-- R115: Branches on an edge-flag group word masked by G a. -/
  | bef (c : BitVec 4) (a : BitVec 5) (g : BitVec 5) (o : BitVec 12)
  /-- R116: Loads a sign-extended value into G d, optionally as a scoped acquire. -/
  | ld (d : BitVec 5) (a : BitVec 5) (c : BitVec 3) (z : BitVec 2) (o : BitVec 11)
  /-- R116: Loads a zero-extended value into G d, optionally as a scoped acquire. -/
  | ldu (d : BitVec 5) (a : BitVec 5) (c : BitVec 3) (z : BitVec 2) (o : BitVec 11)
  /-- R116: Stores G s to memory or a copy channel, optionally as a scoped release. -/
  | st (s : BitVec 5) (a : BitVec 5) (c : BitVec 3) (z : BitVec 2) (o : BitVec 11)
  /-- R276: Performs a release then an acquire at scope sc. -/
  | fence (c : BitVec 3)
  /-- R279: Writes a line's dirty bytes outward to the scope boundary, keeping clean copies. -/
  | cacheWb (a : BitVec 5) (c : BitVec 3) (o : BitVec 11)
  /-- R279: Drops clean copies of a line within the scope. -/
  | cacheInv (a : BitVec 5) (c : BitVec 3) (o : BitVec 11)
  /-- R279: Writes back then drops every copy of a line within the scope. -/
  | cacheWbinv (a : BitVec 5) (c : BitVec 3) (o : BitVec 11)
  /-- R236: Drops a line from every level within scope as a capacity eviction would. -/
  | cacheEvict (a : BitVec 5) (c : BitVec 3) (o : BitVec 11)
  /-- R284: Atomically adds G b to the location. -/
  | amoAdd (d : BitVec 5) (a : BitVec 5) (b : BitVec 5) (c : BitVec 3) (z : BitVec 2) (r : BitVec 1)
  /-- R284: Atomically ANDs G b into the location. -/
  | amoAnd (d : BitVec 5) (a : BitVec 5) (b : BitVec 5) (c : BitVec 3) (z : BitVec 2) (r : BitVec 1)
  /-- R284: Atomically ORs G b into the location. -/
  | amoOr (d : BitVec 5) (a : BitVec 5) (b : BitVec 5) (c : BitVec 3) (z : BitVec 2) (r : BitVec 1)
  /-- R284: Atomically XORs G b into the location. -/
  | amoXor (d : BitVec 5) (a : BitVec 5) (b : BitVec 5) (c : BitVec 3) (z : BitVec 2) (r : BitVec 1)
  /-- R284: Atomically stores the signed minimum. -/
  | amoMin (d : BitVec 5) (a : BitVec 5) (b : BitVec 5) (c : BitVec 3) (z : BitVec 2) (r : BitVec 1)
  /-- R284: Atomically stores the signed maximum. -/
  | amoMax (d : BitVec 5) (a : BitVec 5) (b : BitVec 5) (c : BitVec 3) (z : BitVec 2) (r : BitVec 1)
  /-- R284: Atomically stores the unsigned minimum. -/
  | amoMinu (d : BitVec 5) (a : BitVec 5) (b : BitVec 5) (c : BitVec 3) (z : BitVec 2) (r : BitVec 1)
  /-- R284: Atomically stores the unsigned maximum. -/
  | amoMaxu (d : BitVec 5) (a : BitVec 5) (b : BitVec 5) (c : BitVec 3) (z : BitVec 2) (r : BitVec 1)
  /-- R284: Atomically replaces the location with G b. -/
  | amoSwap (d : BitVec 5) (a : BitVec 5) (b : BitVec 5) (c : BitVec 3) (z : BitVec 2) (r : BitVec 1)
  /-- R285: Atomically replaces the location with G b when it equals G d, returning the old value. -/
  | amoCas (d : BitVec 5) (a : BitVec 5) (b : BitVec 5) (c : BitVec 3) (z : BitVec 2)
  /-- R286: Atomic bounded increment that wraps to 0 at the bound. -/
  | amoIncw (d : BitVec 5) (a : BitVec 5) (b : BitVec 5) (c : BitVec 3) (z : BitVec 2) (r : BitVec 1)
  /-- R287: Atomic bounded fetch-add clipped to the bound in G b. -/
  | amoFaddb (d : BitVec 5) (a : BitVec 5) (b : BitVec 5) (c : BitVec 3) (z : BitVec 2)
  /-- R288: Atomically adds an FP32 value in RNE. -/
  | amoFaddF32 (d : BitVec 5) (a : BitVec 5) (b : BitVec 5) (c : BitVec 3) (r : BitVec 1)
  /-- R288: Atomically adds a BF16 value in RNE or with stochastic rounding. -/
  | amoFaddBf16 (d : BitVec 5) (a : BitVec 5) (b : BitVec 5) (c : BitVec 3) (r : BitVec 1) (s : BitVec 1)
  /-- R212: Clears the full bits of c lines of a HOME=01 page. -/
  | spclr (a : BitVec 5) (b : BitVec 5)
  /-- R118: Reads a control register into G d. -/
  | ctlrd (d : BitVec 5) (n : BitVec 12)
  /-- R118: Writes G a to a control register, effective from the next bundle. -/
  | ctlwr (a : BitVec 5) (n : BitVec 12)
  /-- R313: Reads the active value of a schedule register from the tile generator. -/
  | schrd (d : BitVec 5) (n : BitVec 5)
  /-- R313: Writes G a into the team's pending copy of a schedule register. -/
  | schwr (a : BitVec 5) (n : BitVec 5)
  /-- R314: Asks the generator to commit the pending schedule registers and returns a status. -/
  | schcommit (d : BitVec 5)
  /-- R122: Loads the row and column masks of selector M d from G a and G b. -/
  | msel (d : BitVec 5) (a : BitVec 5) (b : BitVec 5)
  /-- R123: Reads an edge-flag group word into G d. -/
  | efrd (d : BitVec 5) (g : BitVec 16)
  /-- R124: Sets the active window and wave origin once the array is empty. -/
  | awin (a : BitVec 5) (o : BitVec 2) (w : BitVec 5) (h : BitVec 5)
  /-- R125: Takes a software trap after its bundle commits. -/
  | trap (c : BitVec 16)
  /-- R126: Returns from a trap handler, thaws the array and resumes at TRAPPC. -/
  | rett
  /-- R320: Ends the running task: release, join update, loader disarm, generator cut and scheduler. -/
  | retire
  /-- R317: Pushes a copy of a continuation record onto the team queue and counts it on its join record. -/
  | spawn (d : BitVec 5) (a : BitVec 5)
  /-- R318: Starts waiting for a join record's COUNT to reach zero. -/
  | joinw (d : BitVec 4) (a : BitVec 5)
  /-- R315: Asks the tile generator for this core's next tile. -/
  | tilenext (d : BitVec 4)
  /-- R316: Releases at DEVICE scope and marks named quanta of the current tile DONE. -/
  | cvmark (a : BitVec 5)
  /-- R326: Registers an episode record with the Orangery. -/
  | rjreg (d : BitVec 5) (a : BitVec 5)
  /-- R323: Reads a REWARD image and sends it to the Orangery. -/
  | rjpost (a : BitVec 5)
  /-- R329: Asks the Orangery for the oldest entry of a learner ring. -/
  | rjpop (d : BitVec 5) (a : BitVec 5)
  /-- R325: Writes G a into a control field of a learner queue. -/
  | rjctl (a : BitVec 5) (f : BitVec 4) (q : BitVec 4)
  -- W slot (R50 to R54)
  /-- R39: W-slot no-operation that injects nothing. -/
  | cnop
  /-- R89: Vector floating-point add in selected cells. -/
  | fadd (m : BitVec 4) (d : BitVec 5) (a : BitVec 5) (b : BitVec 5) (n : BitVec 1) (t : BitVec 4) (p : BitVec 1)
  /-- R89: Vector floating-point subtract. -/
  | fsub (m : BitVec 4) (d : BitVec 5) (a : BitVec 5) (b : BitVec 5) (n : BitVec 1) (t : BitVec 4) (p : BitVec 1)
  /-- R89: Vector floating-point multiply. -/
  | fmul (m : BitVec 4) (d : BitVec 5) (a : BitVec 5) (b : BitVec 5) (n : BitVec 1) (t : BitVec 4) (p : BitVec 1)
  /-- R89: Vector fused multiply-add into d. -/
  | ffma (m : BitVec 4) (d : BitVec 5) (a : BitVec 5) (b : BitVec 5) (n : BitVec 1) (t : BitVec 4) (p : BitVec 1)
  /-- R89: Vector fused d minus a times b. -/
  | ffms (m : BitVec 4) (d : BitVec 5) (a : BitVec 5) (b : BitVec 5) (n : BitVec 1) (t : BitVec 4) (p : BitVec 1)
  /-- R89: Vector floating-point minimum. -/
  | fmin (m : BitVec 4) (d : BitVec 5) (a : BitVec 5) (b : BitVec 5) (n : BitVec 1) (t : BitVec 4) (p : BitVec 1)
  /-- R89: Vector floating-point maximum. -/
  | fmax (m : BitVec 4) (d : BitVec 5) (a : BitVec 5) (b : BitVec 5) (n : BitVec 1) (t : BitVec 4) (p : BitVec 1)
  /-- R89: Clears the sign bit of each element. -/
  | fabs (m : BitVec 4) (d : BitVec 5) (a : BitVec 5) (n : BitVec 1) (t : BitVec 4) (p : BitVec 1)
  /-- R89: Inverts the sign bit of each element. -/
  | fneg (m : BitVec 4) (d : BitVec 5) (a : BitVec 5) (n : BitVec 1) (t : BitVec 4) (p : BitVec 1)
  /-- R90: Writes a floating-point comparison into P. -/
  | fcmp (m : BitVec 4) (c : BitVec 5) (a : BitVec 5) (b : BitVec 5) (n : BitVec 1) (t : BitVec 4) (p : BitVec 1)
  /-- R91: Selects each slice from a or b by P. -/
  | sel (m : BitVec 4) (d : BitVec 5) (a : BitVec 5) (b : BitVec 5) (n : BitVec 1)
  /-- R93: Vector integer add, wrapping or saturating under Q types. -/
  | iadd (m : BitVec 4) (d : BitVec 5) (a : BitVec 5) (b : BitVec 5) (n : BitVec 1) (t : BitVec 4) (p : BitVec 1)
  /-- R93: Vector integer subtract, wrapping or saturating under Q types. -/
  | isub (m : BitVec 4) (d : BitVec 5) (a : BitVec 5) (b : BitVec 5) (n : BitVec 1) (t : BitVec 4) (p : BitVec 1)
  /-- R93: Vector integer multiply keeping the low bits. -/
  | imul (m : BitVec 4) (d : BitVec 5) (a : BitVec 5) (b : BitVec 5) (n : BitVec 1) (t : BitVec 4) (p : BitVec 1)
  /-- R93: Vector integer multiply-accumulate into d. -/
  | imac (m : BitVec 4) (d : BitVec 5) (a : BitVec 5) (b : BitVec 5) (n : BitVec 1) (t : BitVec 4) (p : BitVec 1)
  /-- R93: Fixed-point multiply rounded half up and saturated. -/
  | qmul (m : BitVec 4) (d : BitVec 5) (a : BitVec 5) (b : BitVec 5) (n : BitVec 1) (t : BitVec 4) (p : BitVec 1)
  /-- R93: Fixed-point multiply-accumulate saturated once. -/
  | qmac (m : BitVec 4) (d : BitVec 5) (a : BitVec 5) (b : BitVec 5) (n : BitVec 1) (t : BitVec 4) (p : BitVec 1)
  /-- R93: Vector bitwise AND. -/
  | wAnd (m : BitVec 4) (d : BitVec 5) (a : BitVec 5) (b : BitVec 5) (n : BitVec 1) (t : BitVec 4) (p : BitVec 1)
  /-- R93: Vector bitwise OR. -/
  | wOr (m : BitVec 4) (d : BitVec 5) (a : BitVec 5) (b : BitVec 5) (n : BitVec 1) (t : BitVec 4) (p : BitVec 1)
  /-- R93: Vector bitwise XOR. -/
  | wXor (m : BitVec 4) (d : BitVec 5) (a : BitVec 5) (b : BitVec 5) (n : BitVec 1) (t : BitVec 4) (p : BitVec 1)
  /-- R93: Vector shift left by element b. -/
  | wShl (m : BitVec 4) (d : BitVec 5) (a : BitVec 5) (b : BitVec 5) (n : BitVec 1) (t : BitVec 4) (p : BitVec 1)
  /-- R93: Vector logical shift right by element b. -/
  | wShr (m : BitVec 4) (d : BitVec 5) (a : BitVec 5) (b : BitVec 5) (n : BitVec 1) (t : BitVec 4) (p : BitVec 1)
  /-- R93: Vector arithmetic shift right by element b. -/
  | wSar (m : BitVec 4) (d : BitVec 5) (a : BitVec 5) (b : BitVec 5) (n : BitVec 1) (t : BitVec 4) (p : BitVec 1)
  /-- R94: Writes an integer comparison into P. -/
  | icmp (m : BitVec 4) (c : BitVec 5) (a : BitVec 5) (b : BitVec 5) (n : BitVec 1) (t : BitVec 4) (p : BitVec 1)
  /-- R93: Vector signed minimum. -/
  | imin (m : BitVec 4) (d : BitVec 5) (a : BitVec 5) (b : BitVec 5) (n : BitVec 1) (t : BitVec 4) (p : BitVec 1)
  /-- R93: Vector signed maximum. -/
  | imax (m : BitVec 4) (d : BitVec 5) (a : BitVec 5) (b : BitVec 5) (n : BitVec 1) (t : BitVec 4) (p : BitVec 1)
  /-- R166: Starts a special-function divide whose result is delivered 14 cycles later. -/
  | fdiv (m : BitVec 4) (d : BitVec 5) (a : BitVec 5) (b : BitVec 5) (n : BitVec 1) (t : BitVec 4) (p : BitVec 1)
  /-- R166: Starts a special-function square root. -/
  | fsqrt (m : BitVec 4) (d : BitVec 5) (a : BitVec 5) (n : BitVec 1) (t : BitVec 4) (p : BitVec 1)
  /-- R166: Starts a special-function reciprocal. -/
  | frcp (m : BitVec 4) (d : BitVec 5) (a : BitVec 5) (n : BitVec 1) (t : BitVec 4) (p : BitVec 1)
  /-- R166: Starts a special-function reciprocal square root. -/
  | frsq (m : BitVec 4) (d : BitVec 5) (a : BitVec 5) (n : BitVec 1) (t : BitVec 4) (p : BitVec 1)
  /-- R166: Starts a special-function base-2 exponential. -/
  | fexp2 (m : BitVec 4) (d : BitVec 5) (a : BitVec 5) (n : BitVec 1) (t : BitVec 4) (p : BitVec 1)
  /-- R166: Starts a special-function base-2 logarithm. -/
  | flog2 (m : BitVec 4) (d : BitVec 5) (a : BitVec 5) (n : BitVec 1) (t : BitVec 4) (p : BitVec 1)
  /-- R172: Copies a register within one side under P. -/
  | mov (m : BitVec 4) (d : BitVec 5) (a : BitVec 5) (p : BitVec 1)
  /-- R172: Copies a register between cluster A and cluster B. -/
  | movx (m : BitVec 4) (d : BitVec 5) (a : BitVec 5) (p : BitVec 1)
  /-- R174: Writes an immediate into every element of Fd. -/
  | movi (m : BitVec 4) (d : BitVec 5) (i : BitVec 10) (t : BitVec 4) (p : BitVec 1)
  /-- R176: Converts elements from the source type to the destination type. -/
  | cvt (m : BitVec 4) (d : BitVec 5) (a : BitVec 5) (b : BitVec 5) (n : BitVec 1) (t : BitVec 4) (p : BitVec 1)
  /-- R178: Converts float elements with stochastic rounding, stepping the generator. -/
  | cvtsr (m : BitVec 4) (d : BitVec 5) (a : BitVec 5) (b : BitVec 5) (n : BitVec 1) (t : BitVec 4) (p : BitVec 1)
  /-- R179: Seeds the converter generator of each selected cell. -/
  | srand (m : BitVec 4) (a : BitVec 5)
  /-- R173: Rotates a register by slices. -/
  | lane (m : BitVec 4) (d : BitVec 5) (a : BitVec 5) (r : BitVec 5) (p : BitVec 1)
  /-- R96: Passes a neighbour's C along the chain and captures it in selected cells. -/
  | cpass (m : BitVec 4) (d : BitVec 5) (a : BitVec 5) (p : BitVec 1)
  /-- R96: Injects Fa into C of selected cells while unselected cells forward. -/
  | cinj (m : BitVec 4) (a : BitVec 5) (b : BitVec 5)
  /-- R97: Prefix-sums along the chain into C and an F register. -/
  | cscanAdd (m : BitVec 4) (d : BitVec 3) (a : BitVec 5) (b : BitVec 5) (n : BitVec 1) (t : BitVec 4) (p : BitVec 1)
  /-- R97: Running maximum along the chain. -/
  | cscanMax (m : BitVec 4) (d : BitVec 3) (a : BitVec 5) (b : BitVec 5) (n : BitVec 1) (t : BitVec 4) (p : BitVec 1)
  /-- R97: Running minimum along the chain. -/
  | cscanMin (m : BitVec 4) (d : BitVec 3) (a : BitVec 5) (b : BitVec 5) (n : BitVec 1) (t : BitVec 4) (p : BitVec 1)
  /-- R97: Running bitwise OR along the chain. -/
  | cscanOr (m : BitVec 4) (d : BitVec 3) (a : BitVec 5) (b : BitVec 5) (n : BitVec 1) (t : BitVec 4) (p : BitVec 1)
  /-- R96: Writes Fa into C of selected cells without forwarding. -/
  | cwr (m : BitVec 4) (a : BitVec 5)
  /-- R96: Copies own or a neighbour's C into an F register. -/
  | crd (m : BitVec 4) (d : BitVec 5) (a : BitVec 5) (p : BitVec 1)
  /-- R99: Loads a register from the cell store and post-increments A. -/
  | cld (m : BitVec 4) (d : BitVec 5) (s : BitVec 1) (n : BitVec 2) (i : BitVec 5) (p : BitVec 1)
  /-- R99: Stores a register to the cell store and post-increments A. -/
  | cst (m : BitVec 4) (d : BitVec 5) (s : BitVec 1) (n : BitVec 2) (i : BitVec 5) (p : BitVec 1)
  /-- R100: Adds a scaled immediate to a cell address register. -/
  | caaddAdd (m : BitVec 4) (n : BitVec 2) (i : BitVec 10)
  /-- R100: Sets a cell address register to a scaled immediate. -/
  | caaddSet (m : BitVec 4) (n : BitVec 2) (i : BitVec 10)
  /-- R24: Sets each selected cell's edge-flag output from P and gathers a new edge-flag group. -/
  | cflag (m : BitVec 4) (d : BitVec 5)
  /-- R102: Sets P to all ones. -/
  | psetOnes (m : BitVec 4)
  /-- R102: Clears P. -/
  | psetZero (m : BitVec 4)
  /-- R102: Inverts P. -/
  | psetInv (m : BitVec 4)
  /-- R102: Loads P from bits [31:0] of a source. -/
  | psetLoad (m : BitVec 4) (a : BitVec 5)
  /-- R102: Saves P into bits [31:0] of Fb. -/
  | psetSave (m : BitVec 4) (b : BitVec 5)
  /-- R102: ANDs bits of a source into P. -/
  | psetAndl (m : BitVec 4) (a : BitVec 5)
  /-- R102: ORs bits of a source into P. -/
  | psetOrl (m : BitVec 4) (a : BitVec 5)
  /-- R103: Writes an image of XF into Fd. -/
  | cxfRead (m : BitVec 4) (d : BitVec 5) (p : BitVec 1)
  /-- R103: Clears masked XF flags. -/
  | cxfClear (m : BitVec 4) (k : BitVec 5) (p : BitVec 1)
  /-- R103: Reads and clears XF in one step. -/
  | cxfReadclr (m : BitVec 4) (d : BitVec 5) (k : BitVec 5) (p : BitVec 1)
  /-- R104: Writes SF into Fd. -/
  | cstatRead (m : BitVec 4) (d : BitVec 5)
  /-- R104: Clears masked SF bits. -/
  | cstatClear (m : BitVec 4) (k : BitVec 2)
  /-- R104: Reads and clears SF in one step. -/
  | cstatReadclr (m : BitVec 4) (d : BitVec 5) (k : BitVec 2)
  /-- R104: Sets P to all ones when masked SF bits are set, else zero. -/
  | cstatTest (m : BitVec 4) (k : BitVec 2)
  /-- R186: Zeroes a tray in selected cells. -/
  | mzero (m : BitVec 4) (r : BitVec 2)
  /-- R187: Pushes a neighbour's C into Fd and C, forwarding through unselected cells. -/
  | mpush (m : BitVec 4) (d : BitVec 5) (a : BitVec 5)
  /-- R188: Sets C to a neighbour's C in every window cell. -/
  | mshift (m : BitVec 4) (a : BitVec 5)
  /-- R189: Starts a matrix multiply-accumulate into a tray, optionally passing A on. -/
  | macc (m : BitVec 4) (k : BitVec 1) (r : BitVec 2) (a : BitVec 5) (b : BitVec 5) (n : BitVec 1) (y : BitVec 4) (p : BitVec 1)
  /-- R192: Starts a 2:4 sparse matrix multiply-accumulate into a tray. -/
  | maccs (m : BitVec 4) (k : BitVec 1) (r : BitVec 2) (a : BitVec 5) (b : BitVec 5) (n : BitVec 1) (y : BitVec 4) (p : BitVec 1)
  /-- R193: Moves a tray quarter into C, optionally zeroing it, while unselected cells forward. -/
  | mdrain (m : BitVec 4) (z : BitVec 1) (r : BitVec 2) (a : BitVec 5) (q : BitVec 2)
  /-- R194: Copies a tray quarter into an F register, optionally zeroing it. -/
  | mtrOut (m : BitVec 4) (z : BitVec 1) (r : BitVec 2) (a : BitVec 5) (q : BitVec 2)
  /-- R194: Copies an F register into a tray quarter. -/
  | mtrIn (m : BitVec 4) (r : BitVec 2) (a : BitVec 5) (q : BitVec 2)
  -- E slot (R55, R56)
  /-- R39: E-slot no-operation. -/
  | nope
  /-- R144: Arms an edge loader with a record, offset register and step count. -/
  | larm (e : BitVec 2) (h : BitVec 12) (o : BitVec 3) (m : BitVec 9)
  /-- R146: Disarms an edge loader after its bundle's W step. -/
  | ldis (e : BitVec 2)
  /-- R145: Sets an offset register to an immediate. -/
  | oset (o : BitVec 3) (i : BitVec 9)
  /-- R145: Adds a signed immediate to an offset register. -/
  | oinc (o : BitVec 3) (i : BitVec 9)
  /-- R147: Drops a handle's cached tensor record. -/
  | rcflush (h : BitVec 12)
  /-- R201: Arms an edge loader as a drain through an epilogue program. -/
  | edrain (e : BitVec 2) (h : BitVec 12) (o : BitVec 3) (p : BitVec 3) (c : BitVec 6)
  /-- R200: Loads and checks an epilogue table entry into a program slot. -/
  | epld (x : BitVec 12) (p : BitVec 3)
  -- epilogue words (R57, R197)
  /-- R198: Ends an epilogue program. -/
  | estop
  /-- R198: Leaves the working values unchanged. -/
  | epass
  /-- R198: Adds a constant to each working value. -/
  | eadd (i : BitVec 12)
  /-- R198: Multiplies each working value by a constant. -/
  | emul (i : BitVec 12)
  /-- R198: Rectifies each working value. -/
  | erelu
  /-- R198: Clamps each working value to plus or minus a constant. -/
  | eclmp (i : BitVec 11)
  /-- R199: Converts each working value to a type, optionally stochastically. -/
  | ecvt (t : BitVec 4) (s : BitVec 1)
  -- steps without an encoding
  /-- R18: An issued W instruction reaches a window cell at its distance and the cell executes or forwards it. -/
  | wavefrontReach (core : Nat) (tag : Nat)
  /-- R166: A special-function result is delivered into Fd, XF and SF 14 cycles after reach. -/
  | sfDeliver (core row col : Nat)
  /-- R195: A pending tray sum lands with its XF bits and fault detection. -/
  | traySumLand (core row col : Nat)
  /-- R25: The edge-flag group of a CFLAG becomes valid after h+w+1 cycles. -/
  | flagGroupValid (core : Nat)
  /-- R41: A pending checked scalar result is written when its latency elapses. -/
  | scalarResultLand (core : Nat)
  /-- R11: The data of an LD or LDU returns to its G register. -/
  | loadReturn (core idx : Nat)
  /-- R133: A tensor record fetch completes into the record cache. -/
  | recordFetch (core handle : Nat)
  /-- R139: A loader's feed fetch for a step completes, waiting for full bits where needed. -/
  | feedFetch (core edge : Nat)
  /-- R140: A loader writes a captured step to memory in step order. -/
  | drainWrite (core edge : Nat)
  /-- R202: The epilogue unit runs its program over one captured register. -/
  | epilogueProcess (core : Nat)
  /-- R204: A copy request reaches the head of its channel and reads and checks its template. -/
  | copyStart (core ch : Nat)
  /-- R206: A copy line lands, decrementing the barrier, setting the full bit and CPWP. -/
  | copyLineLand (core ch : Nat)
  /-- R218: A KPOST or BARR from another core reaches this core's flag or barrier. -/
  | remotePostArrive (src dst : Nat)
  /-- R247: A store buffer entry is written into L1. -/
  | storeBufferDrain (core : Nat)
  /-- R240: A queued page walk runs and installs a translation or raises a fault. -/
  | pageWalk (die asid : Nat) (va : BitVec 64)
  /-- R282: The atomic unit performs a committed AMO after its release and WriteOwnLine. -/
  | amoAtomic (core idx : Nat)
  /-- R223: A pending trap is taken at a bundle boundary, freezing the array and entering the handler. -/
  | trapEntry (core : Nat)
  /-- R225: Folop's RESUME reply resumes a waiting core as RETT would. -/
  | folopResume (core : Nat)
  /-- R225: Folop's END reply ends the waiting core's task as faulted. -/
  | folopEnd (core : Nat)
  /-- R307: The scheduler requests pre-emption of victim teams for a waiting team. -/
  | preemptRequest (team : Nat)
  /-- R228: A core is frozen at its next boundary and its context is written to its context area. -/
  | coreSave (core : Nat)
  /-- R229: A saved core is reloaded, replays posts and thaws at its resume bundle. -/
  | coreRestore (core : Nat)
  /-- R309: A draining core still running at the deadline is saved at its next boundary. -/
  | drainDeadline (core : Nat)
  /-- R233: An outgoing partition's cores are frozen and their state exchanged with the shadow state. -/
  | partitionSwap (outgoing incoming : Nat)
  /-- R303: A team's tasks, saved contexts and queued records are discarded and its LAUNCH completes killed. -/
  | teamKill (team : Nat)
  /-- R306: The scheduler binds a waiting team once a placement is free. -/
  | teamBind (team : Nat) (cores : List Nat)
  /-- R362: At the chosen timebase tick every bound core issues bundle 0. -/
  | teamRelease (team : Nat)
  /-- R297: An idle core starts its first-place continuation record once the array is empty. -/
  | taskStart (core : Nat)
  /-- R318: A JOINW's reread finds COUNT zero and returns the counts as a DEVICE acquire. -/
  | joinwComplete (core : Nat)
  /-- R295: All cores idle with no queued work, copies or owed captures: the team ends and its LAUNCH completes. -/
  | teamEnd (team : Nat)
  /-- R293: The tile generator serves the events of a cycle and reverts, gives and claims tiles. -/
  | generatorCut (team : Nat)
  /-- R312: The generator serves an SCHRD or SCHWR request in its single order. -/
  | schedRegisterServe (team : Nat)
  /-- R251: A read-for-shared request arrives at a line's home. -/
  | rds (line die : Nat)
  /-- R251: A read-for-exclusive request arrives at a line's home. -/
  | rdx (line die : Nat)
  /-- R251: A sharer asks the home to make its copy exclusive. -/
  | upg (line die : Nat)
  /-- R251: An owner returns dirty bytes and drops the line. -/
  | wbx (line die : Nat) (data : BitVec 1024) (mask : BitVec 128)
  /-- R251: A sharer or clean owner reports a dropped copy. -/
  | evs (line die : Nat)
  /-- R256: A one-shot I/O read of device memory arrives at the home. -/
  | rdio (line : Nat)
  /-- R256: A one-shot I/O write with byte mask arrives at the home. -/
  | wrio (line : Nat) (data : BitVec 1024) (mask : BitVec 128)
  /-- R251: A requester acknowledges a grant, completing the transient state. -/
  | ack (line die : Nat)
  /-- R250: A sharer receives an invalidation and drops its copy. -/
  | inv (line die : Nat)
  /-- R251: The home receives an invalidation acknowledgement. -/
  | invack (line die : Nat)
  /-- R250: An owner returns dirty bytes and keeps a shared copy. -/
  | rcls (line die : Nat)
  /-- R250: An owner returns dirty bytes and drops the line. -/
  | rcli (line die : Nat)
  /-- R251: The home receives a recall acknowledgement and merges the bytes. -/
  | rclack (line die : Nat) (held : Bool) (data : BitVec 1024) (mask : BitVec 128)
  /-- R250: An owner forwards a line to the I/O agent and its dirty bytes home. -/
  | fwdio (line die : Nat)
  /-- R251: The home receives a forward acknowledgement and merges the bytes. -/
  | fwdack (line die : Nat) (held : Bool) (data : BitVec 1024) (mask : BitVec 128)
  /-- R365: Folop broadcasts a TLB invalidation by ASID and VA range. -/
  | tlbInvalidate (asid : Nat) (va bytes : Nat)
  /-- R246: Every TLB and walk cache has dropped matching entries and old walks have finished. -/
  | tlbInvalidateComplete
  /-- R256: A posted host-window store is delivered to the host link. -/
  | hostPostedDeliver
  /-- R334: The Orangery serves a REWARD message from RJPOST or the fabric. -/
  | reward (pn : Nat) (traj : BitVec 64) (step : BitVec 16) (done : Bool) (value : BitVec 32)
  /-- R326: The Orangery serves an RJREG and answers its status. -/
  | registrationServe (core : Nat)
  /-- R329: The Orangery returns the oldest ring entry to an RJPOP. -/
  | popServe (core : Nat)
  /-- R325: The Orangery applies an RJCTL field write. -/
  | controlServe (core : Nat)
  /-- R334: An open episode's deadline passes and it is dropped or zero-filled. -/
  | deadlineExpiry
  /-- R334: A held orphan reward outlives OLIFE and is dropped. -/
  | orphanExpiry
  /-- R336: The Orangery computes advantages and returns, routes and appends the record. -/
  | backwardScan
  /-- R337: A release waiting on a full ring is appended once a pop frees an entry. -/
  | ringAppend (queue : Nat) (stale : Bool)
  /-- R369: A fabric port receives a 256-byte flit and hands on its messages. -/
  | fabricFlit (flit : List (BitVec 8))
  /-- R350: A doorbell store updates a queue's WRITE and posts its event. -/
  | doorbellWrite (queue : Nat) (w : BitVec 64)
  /-- R353: A Pavilion core takes a queue's event and starts its packets in order. -/
  | queueEvent (pav : Nat)
  /-- R361: Checks an image, places the team, allocates its area, loads cores and releases it. -/
  | launch (pkt : Nat)
  /-- R346: Starts running a graph at the named node. -/
  | graph (pkt : Nat)
  /-- R358: Waits until a signal word meets its condition. -/
  | waitsig (pkt : Nat)
  /-- R358: A waiting WAITSIG rereads its word after a signal store or each microsecond. -/
  | waitsigPoll (pkt : Nat)
  /-- R358: A WAITSIG reaches its time-out and completes with status 8. -/
  | waitsigTimeout (pkt : Nat)
  /-- R358: Stores VALUE into a signal word with a SYSTEM release. -/
  | signalStore (pkt : Nat)
  /-- R358: Adds VALUE to a signal word at its atomic unit. -/
  | signalAdd (pkt : Nat)
  /-- R359: Moves bytes between addresses through the I/O die's DMA. -/
  | copy (pkt : Nat)
  /-- R360: Copies a region block image in and links it under its parent. -/
  | regionInsert (pkt : Nat)
  /-- R360: Rewrites the Folop-owned fields of a region block. -/
  | regionUpdate (pkt : Nat)
  /-- R360: Unlinks a region block with no child and no team. -/
  | regionRemove (pkt : Nat)
  /-- R360: Kills every team of a region subtree. -/
  | regionKill (pkt : Nat)
  /-- R355: After its work a packet releases, stores its completion signal and hands on its interrupt. -/
  | packetComplete (pkt : Nat)
  /-- R346: A KERNEL node launches a team and waits for it to end. -/
  | graphKernel (pkt : Nat)
  /-- R347: A LOOP node reads its predicate and enters its body or leaves. -/
  | graphLoop (pkt : Nat)
  /-- R347: A COND node reads its predicate and chooses THEN or ELSE. -/
  | graphCond (pkt : Nat)
  /-- R348: A SIGNAL node writes its word and hands an interrupt to the coalescer. -/
  | graphSignal (pkt : Nat)
  /-- R346: An END node completes the graph's packet. -/
  | graphEnd (pkt : Nat)
  /-- R363: The coalescing window elapses and the interrupt is written to IRQADDR. -/
  | irqSend (queue : Nat)
  /-- R364: A dying ASID's outstanding counter reaches zero and Folop frees it. -/
  | asidDrained (asid : Nat)
  /-- R367: Mailbox command that allocates a live ASID with an empty root table. -/
  | asidnew
  /-- R367: Mailbox command that tears down an ASID. -/
  | asiddel
  /-- R367: Mailbox command that maps pages under an ASID. -/
  | mapPages
  /-- R367: Mailbox command that unmaps pages under an ASID. -/
  | unmapPages
  /-- R367: Mailbox command that creates an active user queue. -/
  | qnew
  /-- R367: Mailbox command that stops or activates a queue. -/
  | qctl
  /-- R367: Mailbox command that configures a partition's cores, queues and ways. -/
  | part
  /-- R376: Mailbox command that returns a signed attestation report. -/
  | attest
  /-- R367: Mailbox command that maps and returns a queue's device doorbell address. -/
  | doorbell
  /-- R372: Power command setting an island to A0. -/
  | islandToA0 (isl : Nat) (seq : BitVec 8)
  /-- R372: Power command setting an island to A1. -/
  | islandToA1 (isl : Nat) (seq : BitVec 8)
  /-- R372: Power command setting an island to A2. -/
  | islandToA2 (isl : Nat) (seq : BitVec 8)
  /-- R372: Power command putting an island into retention. -/
  | islandToRet (isl : Nat) (seq : BitVec 8)
  /-- R372: Power command switching an island off. -/
  | islandToOff (isl : Nat) (seq : BitVec 8)
  /-- R372: A clock change or RET exit finishes and PSTAT reports the result. -/
  | powerCommandDone
  /-- R371: A write of 1 clears an island's TRIP bit. -/
  | tripClear (isl : Nat)
  /-- R374: A write of PCAP resets the compute-die power budget shares. -/
  | pcapWrite (value : BitVec 64)
  /-- R374: A die lends unused budget units to another over the sideband. -/
  | budgetLend (lender borrower units : Nat)
  /-- R374: A die repays a budget loan on request. -/
  | budgetRepay (borrower lender units : Nat)
  /-- R373: An island reaching 110 degrees drops to A2 and sets TRIP. -/
  | thermalTrip (isl : Nat)
  /-- R373: At 120 degrees every island except 20 goes off. -/
  | thermalShutdown
  /-- R375: Power-on reset starts the boot ROM, which verifies and runs the firmware images. -/
  | powerOnReset
  /-- R378: A correctable ECC error is corrected in place and counted. -/
  | eccCorrected (block : Nat)
  /-- R378: An uncorrectable ECC error is retried once and counted as transient or lasting. -/
  | eccUncorrectable (block : Nat) (core : Nat) (unit row col : Nat) (retryOk : Bool)
  /-- R379: The lifetime counters are written to flash at least hourly. -/
  | counterFlush
  /-- R379: An orderly power-off writes the lifetime counters to flash. -/
  | orderlyPowerOff
  /-- R7: A write to a register with no row of its own acts under its access codes. -/
  | registerWrite (offset : Nat) (bytes : Nat) (value : BitVec 64)
  /-- R367: A host write to the mailbox RING whose tag is not DONE + 1, or whose CODE is unknown, runs no command and sets RESULT to 3 or 1. -/
  | ringOutOfSequence (tag : BitVec 64)
  /-- R371: A PCMD write with a reserved STATE of 5 to 7 changes no island and reports RESULT 1 in PSTAT. -/
  | pcmdReservedState (isl : Nat) (seq : BitVec 8)
  /-- R379: Power is lost without an orderly power-off, and the lifetime counts since the last flash write are lost. -/
  | suddenLossOfPower
deriving DecidableEq, Repr

end Sys2Proof
end

