-- ==== Sys2Proof/WellFormed.lean ====
section
/-! DEFINITION. Which operand values an instruction may carry (R6, R43 to R56, R59): every field value that the
encoding tables leave out is reserved, and an instruction that holds one is an illegal instruction at decode.
For the steps that have no encoding the check is that their arguments name a unit the device has. -/

namespace Sys2Proof.WellFormed

/-- Codes 0-23 name F0-F23 (R51). -/
def regF (c : BitVec 5) : Bool := decide (c.toNat ≤ 23)
/-- F0-F11, fragment cluster A (R12). -/
def regA (c : BitVec 5) : Bool := decide (c.toNat ≤ 11)
/-- F12-F23, fragment cluster B (R12). -/
def regB (c : BitVec 5) : Bool := decide (12 ≤ c.toNat) && decide (c.toNat ≤ 23)
/-- The neighbour codes 28-31 (R51). -/
def nbr (c : BitVec 5) : Bool := decide (28 ≤ c.toNat)
/-- A destination: F0-F23 or C; 25-27 are reserved and a cell writes no neighbour (R51). -/
def dst (c : BitVec 5) : Bool := decide (c.toNat ≤ 24)
/-- A source: F0-F23, C or a neighbour; 25-27 are reserved (R51). -/
def src (c : BitVec 5) : Bool := decide (c.toNat ≤ 24) || nbr c
/-- FP32, BF16, FP16, FP8E4M3, FP8E5M2 (R52). -/
def flt (t : BitVec 4) : Bool := decide (t.toNat ≤ 4)
/-- INT32, INT16, INT8. -/
def intTy (t : BitVec 4) : Bool := decide (6 ≤ t.toNat) && decide (t.toNat ≤ 8)
/-- Q31, Q15. -/
def fixTy (t : BitVec 4) : Bool := decide (9 ≤ t.toNat) && decide (t.toNat ≤ 10)
def fixOrInt (t : BitVec 4) : Bool := intTy t || fixTy t
/-- Every type but FP4. -/
def elemTy (t : BitVec 4) : Bool := flt t || fixOrInt t
/-- The destination type of a conversion, a ty code in the b field (R54, R175). -/
def convTy (b : BitVec 5) : Bool := decide (b.toNat ≤ 10) && (b != 5)
/-- The numbers of the control-register map (R119). -/
def ctlNumber (n : BitVec 12) : Bool :=
  let k := n.toNat
  decide (k ≤ 4) || k == 0x008 || (decide (0x010 ≤ k) && decide (k ≤ 0x015)) ||
  (decide (0x020 ≤ k) && decide (k ≤ 0x022)) || (decide (0x030 ≤ k) && decide (k ≤ 0x033)) ||
  (decide (0x040 ≤ k) && decide (k ≤ 0x07F))
/-- The control registers that R119 does not mark RO. -/
def ctlWritable (n : BitVec 12) : Bool :=
  let k := n.toNat
  (decide (1 ≤ k) && decide (k ≤ 4)) || k == 0x008 || k == 0x011 || k == 0x014
/-- The schedule registers that R289 marks RW. -/
def schedWritable (n : BitVec 5) : Bool :=
  let k := n.toNat
  k == 0 || (decide (5 ≤ k) && decide (k ≤ 8)) || k == 0x0D
/-- An epilogue constant whose exponent bits [10:6] are not all ones (R197). -/
def finiteImm (i : BitVec 12) : Bool := (i >>> 6) &&& 0x1F != 0x1F

end Sys2Proof.WellFormed

namespace Sys2Proof
open WellFormed

/-- No field of the instruction holds a value that its page leaves out. -/
def Instr.wf : Instr → Bool
  | .nopy _ => true
  | .kwait _ _ _ => true
  | .kpost _ _ _ c f => f == 0 || c == 0
  | .kset _ _ _ => true
  | .barr _ _ c f => f == 0 || c == 0
  | .bwait _ _ _ => true
  | .bexp _ _ _ => true
  | .dly _ _ => true
  | .wquiet _ => true
  | .lwait _ _ => true
  | .imx _ _ => true
  | .rep _ _ _ _ => true
  | .xtgt _ _ => true
  | .nops => true
  | .aluAdd _ _ _ => true
  | .aluSub _ _ _ => true
  | .aluAnd _ _ _ => true
  | .aluOr _ _ _ => true
  | .aluXor _ _ _ => true
  | .aluShl _ _ _ => true
  | .aluShr _ _ _ => true
  | .aluSar _ _ _ => true
  | .aluMul _ _ _ => true
  | .aluMulh _ _ _ => true
  | .aluMulhu _ _ _ => true
  | .aluDiv _ _ _ => true
  | .aluDivu _ _ _ => true
  | .aluRem _ _ _ => true
  | .aluRemu _ _ _ => true
  | .aluMin _ _ _ => true
  | .aluMax _ _ _ => true
  | .aluMinu _ _ _ => true
  | .aluMaxu _ _ _ => true
  | .aluSlt _ _ _ => true
  | .aluSltu _ _ _ => true
  | .aluSeq _ _ _ => true
  | .aluClz _ _ => true
  | .aluPopc _ _ => true
  | .addi _ _ _ => true
  | .andi _ _ _ => true
  | .ori _ _ _ => true
  | .xori _ _ _ => true
  | .shi _ _ k _ => decide (k.toNat ≤ 2)
  | .lui _ _ => true
  | .slti _ _ _ => true
  | .sltiu _ _ _ => true
  | .lis _ _ => true
  | .fpuFadd _ _ _ _ => true
  | .fpuFsub _ _ _ _ => true
  | .fpuFmul _ _ _ _ => true
  | .fpuFdiv _ _ _ _ => true
  | .fpuFsqrt _ _ _ => true
  | .fpuFmin _ _ _ _ => true
  | .fpuFmax _ _ _ _ => true
  | .fpuFeq _ _ _ _ => true
  | .fpuFlt _ _ _ _ => true
  | .fpuFle _ _ _ _ => true
  | .fpuFfma _ _ _ _ => true
  | .fpuCvtS2d _ _ => true
  | .fpuCvtD2s _ _ => true
  | .fpuCvtS2i _ _ => true
  | .fpuCvtI2s _ _ => true
  | .fpuCvtD2i _ _ => true
  | .fpuCvtI2d _ _ => true
  | .br _ => true
  | .bl _ => true
  | .jr _ => true
  | .jlr _ => true
  | .bc c _ _ _ => decide (c.toNat ≤ 5)
  | .bef c _ g _ => decide (c.toNat ≤ 3) && decide (g.toNat ≤ 4)
  | .ld _ _ c _ _ => decide (c.toNat ≤ 5)
  | .ldu _ _ c z _ => decide (c.toNat ≤ 5) && (z != 3)
  | .st _ _ c _ _ => decide (c.toNat ≤ 5)
  | .fence c => decide (1 ≤ c.toNat) && decide (c.toNat ≤ 5)
  | .cacheWb _ c _ => decide (2 ≤ c.toNat) && decide (c.toNat ≤ 5)
  | .cacheInv _ c _ => decide (2 ≤ c.toNat) && decide (c.toNat ≤ 5)
  | .cacheWbinv _ c _ => decide (2 ≤ c.toNat) && decide (c.toNat ≤ 5)
  | .cacheEvict _ c _ => decide (2 ≤ c.toNat) && decide (c.toNat ≤ 5)
  | .amoAdd d _ _ c z r => decide (c.toNat ≤ 5) && decide (2 ≤ z.toNat) && (r == 1 || d == 0)
  | .amoAnd d _ _ c z r => decide (c.toNat ≤ 5) && decide (2 ≤ z.toNat) && (r == 1 || d == 0)
  | .amoOr d _ _ c z r => decide (c.toNat ≤ 5) && decide (2 ≤ z.toNat) && (r == 1 || d == 0)
  | .amoXor d _ _ c z r => decide (c.toNat ≤ 5) && decide (2 ≤ z.toNat) && (r == 1 || d == 0)
  | .amoMin d _ _ c z r => decide (c.toNat ≤ 5) && decide (2 ≤ z.toNat) && (r == 1 || d == 0)
  | .amoMax d _ _ c z r => decide (c.toNat ≤ 5) && decide (2 ≤ z.toNat) && (r == 1 || d == 0)
  | .amoMinu d _ _ c z r => decide (c.toNat ≤ 5) && decide (2 ≤ z.toNat) && (r == 1 || d == 0)
  | .amoMaxu d _ _ c z r => decide (c.toNat ≤ 5) && decide (2 ≤ z.toNat) && (r == 1 || d == 0)
  | .amoSwap d _ _ c z r => decide (c.toNat ≤ 5) && decide (2 ≤ z.toNat) && (r == 1 || d == 0)
  | .amoCas _ _ _ c z => decide (c.toNat ≤ 5) && decide (2 ≤ z.toNat)
  | .amoIncw d _ _ c z r => decide (c.toNat ≤ 5) && decide (2 ≤ z.toNat) && (r == 1 || d == 0)
  | .amoFaddb _ _ _ c z => decide (c.toNat ≤ 5) && decide (2 ≤ z.toNat)
  | .amoFaddF32 d _ _ c r => decide (c.toNat ≤ 5) && (r == 1 || d == 0)
  | .amoFaddBf16 d _ _ c r _ => decide (c.toNat ≤ 5) && (r == 1 || d == 0)
  | .spclr _ _ => true
  | .ctlrd _ n => ctlNumber n
  | .ctlwr _ n => ctlWritable n
  | .schrd _ n => decide (n.toNat ≤ 0x12)
  | .schwr _ n => schedWritable n
  | .schcommit _ => true
  | .msel d _ _ => decide (1 ≤ d.toNat) && decide (d.toNat ≤ 15)
  | .efrd _ g => decide (g.toNat ≤ 4)
  | .awin _ _ _ _ => true
  | .trap _ => true
  | .rett => true
  | .retire => true
  | .spawn _ _ => true
  | .joinw d _ => d != 0
  | .tilenext d => d != 0
  | .cvmark _ => true
  | .rjreg _ _ => true
  | .rjpost _ => true
  | .rjpop _ _ => true
  | .rjctl _ f q => decide (f.toNat ≤ 7) || (f == 15 && q == 0)
  | .cnop => true
  | .fadd _ d a b _ t _ => dst d && src a && src b && flt t
  | .fsub _ d a b _ t _ => dst d && src a && src b && flt t
  | .fmul _ d a b _ t _ => dst d && src a && src b && flt t
  | .ffma _ d a b _ t _ => dst d && src a && src b && flt t
  | .ffms _ d a b _ t _ => dst d && src a && src b && flt t
  | .fmin _ d a b _ t _ => dst d && src a && src b && flt t
  | .fmax _ d a b _ t _ => dst d && src a && src b && flt t
  | .fabs _ d a _ t _ => dst d && src a && flt t
  | .fneg _ d a _ t _ => dst d && src a && flt t
  | .fcmp _ c a b _ t _ => decide (c.toNat ≤ 7) && src a && src b && flt t
  | .sel _ d a b _ => dst d && src a && src b
  | .iadd _ d a b _ t _ => dst d && src a && src b && fixOrInt t
  | .isub _ d a b _ t _ => dst d && src a && src b && fixOrInt t
  | .imul _ d a b _ t _ => dst d && src a && src b && intTy t
  | .imac _ d a b _ t _ => dst d && src a && src b && intTy t
  | .qmul _ d a b _ t _ => dst d && src a && src b && fixTy t
  | .qmac _ d a b _ t _ => dst d && src a && src b && fixTy t
  | .wAnd _ d a b _ t _ => dst d && src a && src b && intTy t
  | .wOr _ d a b _ t _ => dst d && src a && src b && intTy t
  | .wXor _ d a b _ t _ => dst d && src a && src b && intTy t
  | .wShl _ d a b _ t _ => dst d && src a && src b && intTy t
  | .wShr _ d a b _ t _ => dst d && src a && src b && intTy t
  | .wSar _ d a b _ t _ => dst d && src a && src b && intTy t
  | .icmp _ c a b _ t _ => src a && src b && fixOrInt t && decide (c.toNat ≤ 9) && (intTy t || decide (c.toNat ≤ 5))
  | .imin _ d a b _ t _ => dst d && src a && src b && fixOrInt t
  | .imax _ d a b _ t _ => dst d && src a && src b && fixOrInt t
  | .fdiv _ d a b _ t _ => regB d && regB a && regB b && decide (t.toNat ≤ 2)
  | .fsqrt _ d a _ t _ => regB d && regB a && decide (t.toNat ≤ 2)
  | .frcp _ d a _ t _ => regB d && regB a && decide (t.toNat ≤ 2)
  | .frsq _ d a _ t _ => regB d && regB a && decide (t.toNat ≤ 2)
  | .fexp2 _ d a _ t _ => regB d && regB a && decide (t.toNat ≤ 2)
  | .flog2 _ d a _ t _ => regB d && regB a && decide (t.toNat ≤ 2)
  | .mov _ d a _ => dst d && src a && (regB d == regB a)
  | .movx _ d a _ => regF d && regF a && (regB d != regB a)
  | .movi _ d _ t _ => dst d && elemTy t
  | .cvt _ d a b _ t _ => dst d && src a && elemTy t && convTy b
  | .cvtsr _ d a b _ t _ => dst d && src a && decide (t.toNat ≤ 2) && decide (1 ≤ b.toNat) && decide (b.toNat ≤ 4) && (b.toNat != t.toNat)
  | .srand _ a => src a
  | .lane _ d a _ _ => dst d && src a && (regB d == regB a)
  | .cpass _ d a _ => regA d && nbr a
  | .cinj _ a b => regA a && nbr b
  | .cscanAdd _ _ a b _ t _ => nbr a && regA b && elemTy t
  | .cscanMax _ _ a b _ t _ => nbr a && regA b && elemTy t
  | .cscanMin _ _ a b _ t _ => nbr a && regA b && elemTy t
  | .cscanOr _ _ a b _ t _ => nbr a && regA b && intTy t
  | .cwr _ a => regA a
  | .crd _ d a _ => regA d && (a == 24 || nbr a)
  | .cld _ d s _ _ p => dst d && (s == 0 || p == 0)
  | .cst _ d s _ _ p => dst d && (s == 0 || p == 0)
  | .caaddAdd _ _ _ => true
  | .caaddSet _ _ _ => true
  | .cflag _ d => decide (d.toNat ≤ 1)
  | .psetOnes _ => true
  | .psetZero _ => true
  | .psetInv _ => true
  | .psetLoad _ a => src a
  | .psetSave _ b => regF b
  | .psetAndl _ a => src a
  | .psetOrl _ a => src a
  | .cxfRead _ d _ => dst d
  | .cxfClear _ _ _ => true
  | .cxfReadclr _ d _ _ => dst d
  | .cstatRead _ d => dst d
  | .cstatClear _ _ => true
  | .cstatReadclr _ d _ => dst d
  | .cstatTest _ _ => true
  | .mzero _ _ => true
  | .mpush _ d a => regA d && nbr a
  | .mshift _ a => nbr a
  | .macc _ _ _ a b _ y _ => (regA a || a == 24 || nbr a) && regA b && (flt y || y == 5 || y == 8)
  | .maccs _ _ _ a b _ y _ => (regA a || a == 24 || nbr a) && regA b && (b &&& 1 == 0) && (flt y || y == 8)
  | .mdrain _ _ _ a _ => nbr a
  | .mtrOut _ _ _ a _ => regF a
  | .mtrIn _ _ a _ => regF a
  | .nope => true
  | .larm _ _ _ m => !(m.getLsbD 6 && m.getLsbD 8)
  | .ldis _ => true
  | .oset _ _ => true
  | .oinc _ _ => true
  | .rcflush _ => true
  | .edrain _ _ _ _ _ => true
  | .epld _ _ => true
  | .estop => true
  | .epass => true
  | .eadd i => finiteImm i
  | .emul i => finiteImm i
  | .erelu => true
  | .eclmp i => finiteImm (BitVec.zeroExtend 12 i)
  | .ecvt t s => decide (t.toNat ≤ 10) && (s == 0 || (decide (1 ≤ t.toNat) && decide (t.toNat ≤ 4)))
  | .wavefrontReach core _ => decide (core < 64)
  | .sfDeliver core row col => decide (core < 64) && decide (row < 32) && decide (col < 32)
  | .traySumLand core row col => decide (core < 64) && decide (row < 32) && decide (col < 32)
  | .flagGroupValid core => decide (core < 64)
  | .scalarResultLand core => decide (core < 64)
  | .loadReturn core _ => decide (core < 64)
  | .recordFetch core _ => decide (core < 64)
  | .feedFetch core edge => decide (core < 64) && decide (edge < 4)
  | .drainWrite core edge => decide (core < 64) && decide (edge < 4)
  | .epilogueProcess core => decide (core < 64)
  | .copyStart core ch => decide (core < 64) && decide (ch < 64)
  | .copyLineLand core ch => decide (core < 64) && decide (ch < 64)
  | .remotePostArrive src dst => decide (src < 64) && decide (dst < 64)
  | .storeBufferDrain core => decide (core < 64)
  | .pageWalk die asid _ => decide (die < 4) && decide (asid < 4096)
  | .amoAtomic core _ => decide (core < 64)
  | .trapEntry core => decide (core < 64)
  | .folopResume core => decide (core < 64)
  | .folopEnd core => decide (core < 64)
  | .preemptRequest _ => true
  | .coreSave core => decide (core < 64)
  | .coreRestore core => decide (core < 64)
  | .drainDeadline core => decide (core < 64)
  | .partitionSwap outgoing incoming => decide (outgoing < 16) && decide (incoming < 16)
  | .teamKill _ => true
  | .teamBind _ _ => true
  | .teamRelease _ => true
  | .taskStart core => decide (core < 64)
  | .joinwComplete core => decide (core < 64)
  | .teamEnd _ => true
  | .generatorCut _ => true
  | .schedRegisterServe _ => true
  | .rds _ die => decide (die ≤ 4)
  | .rdx _ die => decide (die ≤ 4)
  | .upg _ die => decide (die ≤ 4)
  | .wbx _ die _ _ => decide (die ≤ 4)
  | .evs _ die => decide (die ≤ 4)
  | .rdio _ => true
  | .wrio _ _ _ => true
  | .ack _ die => decide (die ≤ 4)
  | .inv _ die => decide (die ≤ 4)
  | .invack _ die => decide (die ≤ 4)
  | .rcls _ die => decide (die ≤ 4)
  | .rcli _ die => decide (die ≤ 4)
  | .rclack _ die _ _ _ => decide (die ≤ 4)
  | .fwdio _ die => decide (die ≤ 4)
  | .fwdack _ die _ _ _ => decide (die ≤ 4)
  | .tlbInvalidate asid _ _ => decide (asid < 4096)
  | .tlbInvalidateComplete => true
  | .hostPostedDeliver => true
  | .reward pn _ _ _ _ => decide (pn < 16)
  | .registrationServe core => decide (core < 64)
  | .popServe core => decide (core < 64)
  | .controlServe core => decide (core < 64)
  | .deadlineExpiry => true
  | .orphanExpiry => true
  | .backwardScan => true
  | .ringAppend queue _ => decide (queue < 16)
  | .fabricFlit flit => decide (flit.length = 256)
  | .doorbellWrite queue _ => decide (queue < 4096)
  | .queueEvent pav => decide (1 ≤ pav) && decide (pav ≤ 11)
  | .launch _ => true
  | .graph _ => true
  | .waitsig _ => true
  | .waitsigPoll _ => true
  | .waitsigTimeout _ => true
  | .signalStore _ => true
  | .signalAdd _ => true
  | .copy _ => true
  | .regionInsert _ => true
  | .regionUpdate _ => true
  | .regionRemove _ => true
  | .regionKill _ => true
  | .packetComplete _ => true
  | .graphKernel _ => true
  | .graphLoop _ => true
  | .graphCond _ => true
  | .graphSignal _ => true
  | .graphEnd _ => true
  | .irqSend queue => decide (queue < 4096)
  | .asidDrained asid => decide (asid < 4096)
  | .asidnew => true
  | .asiddel => true
  | .mapPages => true
  | .unmapPages => true
  | .qnew => true
  | .qctl => true
  | .part => true
  | .attest => true
  | .doorbell => true
  | .islandToA0 isl _ => decide (isl < 32)
  | .islandToA1 isl _ => decide (isl < 32)
  | .islandToA2 isl _ => decide (isl < 32)
  | .islandToRet isl _ => decide (isl < 32)
  | .islandToOff isl _ => decide (isl < 32)
  | .powerCommandDone => true
  | .tripClear isl => decide (isl < 24)
  | .pcapWrite _ => true
  | .budgetLend lender borrower _ => decide (lender < 4) && decide (borrower < 4)
  | .budgetRepay borrower lender _ => decide (lender < 4) && decide (borrower < 4)
  | .thermalTrip isl => decide (isl < 24)
  | .thermalShutdown => true
  | .powerOnReset => true
  | .eccCorrected block => decide (block < 155)
  | .eccUncorrectable block core _ _ _ _ => decide (block < 155) && decide (core < 64)
  | .counterFlush => true
  | .orderlyPowerOff => true
  | .registerWrite _ _ _ => true
  | .ringOutOfSequence _ => true
  | .pcmdReservedState isl _ => decide (isl < 32)
  | .suddenLossOfPower => true

end Sys2Proof
end

