-- ==== Sys2Proof/Decode.lean ====
section
/-! DEFINITION. From words to instructions and back (R31, R34, R35, R42 to R59).

A word is decoded in the slot that it stands in: the four slots share one space of words.  Decoding is total:
a word that is no instruction is rejected by the reason R59 gives. -/

namespace Sys2Proof

/-- The slots of a bundle (R31), and the epilogue program words (R57). -/
inductive Slot where
  | y | s | w | e | epilogue
deriving DecidableEq, Repr

/-- Why a word is not an instruction (R59). -/
inductive Reject where
  /-- a reserved opcode, form or function code -/
  | opcode
  /-- a nonzero reserved bit -/
  | bits
  /-- a reserved field value, a reserved combination, an operand in the wrong cluster -/
  | field
  /-- a combination of slots that R36, R37 or R126 rules out -/
  | bundle
deriving DecidableEq, Repr

/-- A decoded instruction stands only if no field holds a reserved value. -/
def checkFields : Except Reject Instr → Except Reject Instr
  | .ok i => if i.wf then .ok i else .error .field
  | .error r => .error r

/-- The Y slot with h = 0 (R34). -/
def rawSync (w : Word) : Except Reject Instr :=
  match (w.extractLsb' 21 6).toNat with
  | 0 => if w.extractLsb' 0 21 == 0 then .ok (.nopy (w.extractLsb' 27 4)) else .error .bits
  | 1 => if w.extractLsb' 0 1 == 0 then .ok (.kwait (w.extractLsb' 27 4) (w.extractLsb' 17 4) (w.extractLsb' 1 16)) else .error .bits
  | 2 => if w.extractLsb' 0 2 == 0 then .ok (.kpost (w.extractLsb' 27 4) (w.extractLsb' 17 4) (w.extractLsb' 9 8) (w.extractLsb' 3 6) (w.extractLsb' 2 1)) else .error .bits
  | 3 => if w.extractLsb' 0 1 == 0 then .ok (.kset (w.extractLsb' 27 4) (w.extractLsb' 17 4) (w.extractLsb' 1 16)) else .error .bits
  | 4 => if w.extractLsb' 0 4 == 0 then .ok (.barr (w.extractLsb' 27 4) (w.extractLsb' 11 10) (w.extractLsb' 5 6) (w.extractLsb' 4 1)) else .error .bits
  | 5 => if w.extractLsb' 0 10 == 0 then .ok (.bwait (w.extractLsb' 27 4) (w.extractLsb' 11 10) (w.extractLsb' 10 1)) else .error .bits
  | 6 => if w.extractLsb' 0 6 == 0 then .ok (.bexp (w.extractLsb' 27 4) (w.extractLsb' 11 10) (w.extractLsb' 6 5)) else .error .bits
  | 7 => if w.extractLsb' 17 4 == 0 && w.extractLsb' 0 1 == 0 then .ok (.dly (w.extractLsb' 27 4) (w.extractLsb' 1 16)) else .error .bits
  | 8 => if w.extractLsb' 0 21 == 0 then .ok (.wquiet (w.extractLsb' 27 4)) else .error .bits
  | 9 => if w.extractLsb' 0 19 == 0 then .ok (.lwait (w.extractLsb' 27 4) (w.extractLsb' 19 2)) else .error .bits
  | _ => .error .opcode

/-- The Y slot with h = 1 (R35). -/
def rawHeader (w : Word) : Except Reject Instr :=
  match (w.extractLsb' 24 3).toNat with
  | 0 => .ok (.imx (w.extractLsb' 27 4) (w.extractLsb' 0 24))
  | 1 => if w.extractLsb' 0 8 == 0 then .ok (.rep (w.extractLsb' 27 4) (w.extractLsb' 18 6) (w.extractLsb' 12 6) (w.extractLsb' 8 4)) else .error .bits
  | 2 => if w.extractLsb' 0 22 == 0 then .ok (.xtgt (w.extractLsb' 27 4) (w.extractLsb' 22 2)) else .error .bits
  | _ => .error .opcode

def rawY (w : Word) : Except Reject Instr :=
  if w.getLsbD 31 then rawHeader w else rawSync w

/-- ALU register forms, by function code (R46). -/
def rawAlu (w : Word) : Except Reject Instr :=
  if w.extractLsb' 0 11 == 0 then .ok (.aluAdd (w.extractLsb' 21 5) (w.extractLsb' 16 5) (w.extractLsb' 11 5))
  else if w.extractLsb' 0 11 == 1 then .ok (.aluSub (w.extractLsb' 21 5) (w.extractLsb' 16 5) (w.extractLsb' 11 5))
  else if w.extractLsb' 0 11 == 2 then .ok (.aluAnd (w.extractLsb' 21 5) (w.extractLsb' 16 5) (w.extractLsb' 11 5))
  else if w.extractLsb' 0 11 == 3 then .ok (.aluOr (w.extractLsb' 21 5) (w.extractLsb' 16 5) (w.extractLsb' 11 5))
  else if w.extractLsb' 0 11 == 4 then .ok (.aluXor (w.extractLsb' 21 5) (w.extractLsb' 16 5) (w.extractLsb' 11 5))
  else if w.extractLsb' 0 11 == 5 then .ok (.aluShl (w.extractLsb' 21 5) (w.extractLsb' 16 5) (w.extractLsb' 11 5))
  else if w.extractLsb' 0 11 == 6 then .ok (.aluShr (w.extractLsb' 21 5) (w.extractLsb' 16 5) (w.extractLsb' 11 5))
  else if w.extractLsb' 0 11 == 7 then .ok (.aluSar (w.extractLsb' 21 5) (w.extractLsb' 16 5) (w.extractLsb' 11 5))
  else if w.extractLsb' 0 11 == 8 then .ok (.aluMul (w.extractLsb' 21 5) (w.extractLsb' 16 5) (w.extractLsb' 11 5))
  else if w.extractLsb' 0 11 == 9 then .ok (.aluMulh (w.extractLsb' 21 5) (w.extractLsb' 16 5) (w.extractLsb' 11 5))
  else if w.extractLsb' 0 11 == 10 then .ok (.aluMulhu (w.extractLsb' 21 5) (w.extractLsb' 16 5) (w.extractLsb' 11 5))
  else if w.extractLsb' 0 11 == 11 then .ok (.aluDiv (w.extractLsb' 21 5) (w.extractLsb' 16 5) (w.extractLsb' 11 5))
  else if w.extractLsb' 0 11 == 12 then .ok (.aluDivu (w.extractLsb' 21 5) (w.extractLsb' 16 5) (w.extractLsb' 11 5))
  else if w.extractLsb' 0 11 == 13 then .ok (.aluRem (w.extractLsb' 21 5) (w.extractLsb' 16 5) (w.extractLsb' 11 5))
  else if w.extractLsb' 0 11 == 14 then .ok (.aluRemu (w.extractLsb' 21 5) (w.extractLsb' 16 5) (w.extractLsb' 11 5))
  else if w.extractLsb' 0 11 == 15 then .ok (.aluMin (w.extractLsb' 21 5) (w.extractLsb' 16 5) (w.extractLsb' 11 5))
  else if w.extractLsb' 0 11 == 16 then .ok (.aluMax (w.extractLsb' 21 5) (w.extractLsb' 16 5) (w.extractLsb' 11 5))
  else if w.extractLsb' 0 11 == 17 then .ok (.aluMinu (w.extractLsb' 21 5) (w.extractLsb' 16 5) (w.extractLsb' 11 5))
  else if w.extractLsb' 0 11 == 18 then .ok (.aluMaxu (w.extractLsb' 21 5) (w.extractLsb' 16 5) (w.extractLsb' 11 5))
  else if w.extractLsb' 0 11 == 19 then .ok (.aluSlt (w.extractLsb' 21 5) (w.extractLsb' 16 5) (w.extractLsb' 11 5))
  else if w.extractLsb' 0 11 == 20 then .ok (.aluSltu (w.extractLsb' 21 5) (w.extractLsb' 16 5) (w.extractLsb' 11 5))
  else if w.extractLsb' 0 11 == 21 then .ok (.aluSeq (w.extractLsb' 21 5) (w.extractLsb' 16 5) (w.extractLsb' 11 5))
  else if w.extractLsb' 0 16 == 22 then .ok (.aluClz (w.extractLsb' 21 5) (w.extractLsb' 16 5))
  else if w.extractLsb' 0 16 == 23 then .ok (.aluPopc (w.extractLsb' 21 5) (w.extractLsb' 16 5))
  else .error .bits

/-- Scalar floating point, by function code (R47). -/
def rawFpu (w : Word) : Except Reject Instr :=
  if w.extractLsb' 6 5 == 0 && w.extractLsb' 0 5 == 0 then .ok (.fpuFadd (w.extractLsb' 21 5) (w.extractLsb' 16 5) (w.extractLsb' 11 5) (w.extractLsb' 5 1))
  else if w.extractLsb' 6 5 == 0 && w.extractLsb' 0 5 == 1 then .ok (.fpuFsub (w.extractLsb' 21 5) (w.extractLsb' 16 5) (w.extractLsb' 11 5) (w.extractLsb' 5 1))
  else if w.extractLsb' 6 5 == 0 && w.extractLsb' 0 5 == 2 then .ok (.fpuFmul (w.extractLsb' 21 5) (w.extractLsb' 16 5) (w.extractLsb' 11 5) (w.extractLsb' 5 1))
  else if w.extractLsb' 6 5 == 0 && w.extractLsb' 0 5 == 3 then .ok (.fpuFdiv (w.extractLsb' 21 5) (w.extractLsb' 16 5) (w.extractLsb' 11 5) (w.extractLsb' 5 1))
  else if w.extractLsb' 6 10 == 0 && w.extractLsb' 0 5 == 4 then .ok (.fpuFsqrt (w.extractLsb' 21 5) (w.extractLsb' 16 5) (w.extractLsb' 5 1))
  else if w.extractLsb' 6 5 == 0 && w.extractLsb' 0 5 == 5 then .ok (.fpuFmin (w.extractLsb' 21 5) (w.extractLsb' 16 5) (w.extractLsb' 11 5) (w.extractLsb' 5 1))
  else if w.extractLsb' 6 5 == 0 && w.extractLsb' 0 5 == 6 then .ok (.fpuFmax (w.extractLsb' 21 5) (w.extractLsb' 16 5) (w.extractLsb' 11 5) (w.extractLsb' 5 1))
  else if w.extractLsb' 6 5 == 0 && w.extractLsb' 0 5 == 7 then .ok (.fpuFeq (w.extractLsb' 21 5) (w.extractLsb' 16 5) (w.extractLsb' 11 5) (w.extractLsb' 5 1))
  else if w.extractLsb' 6 5 == 0 && w.extractLsb' 0 5 == 8 then .ok (.fpuFlt (w.extractLsb' 21 5) (w.extractLsb' 16 5) (w.extractLsb' 11 5) (w.extractLsb' 5 1))
  else if w.extractLsb' 6 5 == 0 && w.extractLsb' 0 5 == 9 then .ok (.fpuFle (w.extractLsb' 21 5) (w.extractLsb' 16 5) (w.extractLsb' 11 5) (w.extractLsb' 5 1))
  else if w.extractLsb' 6 5 == 0 && w.extractLsb' 0 5 == 10 then .ok (.fpuFfma (w.extractLsb' 21 5) (w.extractLsb' 16 5) (w.extractLsb' 11 5) (w.extractLsb' 5 1))
  else if w.extractLsb' 0 16 == 16 then .ok (.fpuCvtS2d (w.extractLsb' 21 5) (w.extractLsb' 16 5))
  else if w.extractLsb' 0 16 == 17 then .ok (.fpuCvtD2s (w.extractLsb' 21 5) (w.extractLsb' 16 5))
  else if w.extractLsb' 0 16 == 18 then .ok (.fpuCvtS2i (w.extractLsb' 21 5) (w.extractLsb' 16 5))
  else if w.extractLsb' 0 16 == 19 then .ok (.fpuCvtI2s (w.extractLsb' 21 5) (w.extractLsb' 16 5))
  else if w.extractLsb' 0 16 == 20 then .ok (.fpuCvtD2i (w.extractLsb' 21 5) (w.extractLsb' 16 5))
  else if w.extractLsb' 0 16 == 21 then .ok (.fpuCvtI2d (w.extractLsb' 21 5) (w.extractLsb' 16 5))
  else .error .bits

/-- Cache maintenance, by operation (R45). -/
def rawCache (w : Word) : Except Reject Instr :=
  if w.extractLsb' 21 5 == 0 && w.extractLsb' 11 2 == 0 then .ok (.cacheWb (w.extractLsb' 16 5) (w.extractLsb' 13 3) (w.extractLsb' 0 11))
  else if w.extractLsb' 21 5 == 1 && w.extractLsb' 11 2 == 0 then .ok (.cacheInv (w.extractLsb' 16 5) (w.extractLsb' 13 3) (w.extractLsb' 0 11))
  else if w.extractLsb' 21 5 == 2 && w.extractLsb' 11 2 == 0 then .ok (.cacheWbinv (w.extractLsb' 16 5) (w.extractLsb' 13 3) (w.extractLsb' 0 11))
  else if w.extractLsb' 21 5 == 3 && w.extractLsb' 11 2 == 0 then .ok (.cacheEvict (w.extractLsb' 16 5) (w.extractLsb' 13 3) (w.extractLsb' 0 11))
  else .error .bits

/-- Atomics, by function code (R49). -/
def rawAmo (w : Word) : Except Reject Instr :=
  if w.extractLsb' 4 4 == 0 && w.extractLsb' 0 1 == 0 then .ok (.amoAdd (w.extractLsb' 21 5) (w.extractLsb' 16 5) (w.extractLsb' 11 5) (w.extractLsb' 8 3) (w.extractLsb' 2 2) (w.extractLsb' 1 1))
  else if w.extractLsb' 4 4 == 1 && w.extractLsb' 0 1 == 0 then .ok (.amoAnd (w.extractLsb' 21 5) (w.extractLsb' 16 5) (w.extractLsb' 11 5) (w.extractLsb' 8 3) (w.extractLsb' 2 2) (w.extractLsb' 1 1))
  else if w.extractLsb' 4 4 == 2 && w.extractLsb' 0 1 == 0 then .ok (.amoOr (w.extractLsb' 21 5) (w.extractLsb' 16 5) (w.extractLsb' 11 5) (w.extractLsb' 8 3) (w.extractLsb' 2 2) (w.extractLsb' 1 1))
  else if w.extractLsb' 4 4 == 3 && w.extractLsb' 0 1 == 0 then .ok (.amoXor (w.extractLsb' 21 5) (w.extractLsb' 16 5) (w.extractLsb' 11 5) (w.extractLsb' 8 3) (w.extractLsb' 2 2) (w.extractLsb' 1 1))
  else if w.extractLsb' 4 4 == 4 && w.extractLsb' 0 1 == 0 then .ok (.amoMin (w.extractLsb' 21 5) (w.extractLsb' 16 5) (w.extractLsb' 11 5) (w.extractLsb' 8 3) (w.extractLsb' 2 2) (w.extractLsb' 1 1))
  else if w.extractLsb' 4 4 == 5 && w.extractLsb' 0 1 == 0 then .ok (.amoMax (w.extractLsb' 21 5) (w.extractLsb' 16 5) (w.extractLsb' 11 5) (w.extractLsb' 8 3) (w.extractLsb' 2 2) (w.extractLsb' 1 1))
  else if w.extractLsb' 4 4 == 6 && w.extractLsb' 0 1 == 0 then .ok (.amoMinu (w.extractLsb' 21 5) (w.extractLsb' 16 5) (w.extractLsb' 11 5) (w.extractLsb' 8 3) (w.extractLsb' 2 2) (w.extractLsb' 1 1))
  else if w.extractLsb' 4 4 == 7 && w.extractLsb' 0 1 == 0 then .ok (.amoMaxu (w.extractLsb' 21 5) (w.extractLsb' 16 5) (w.extractLsb' 11 5) (w.extractLsb' 8 3) (w.extractLsb' 2 2) (w.extractLsb' 1 1))
  else if w.extractLsb' 4 4 == 8 && w.extractLsb' 0 1 == 0 then .ok (.amoSwap (w.extractLsb' 21 5) (w.extractLsb' 16 5) (w.extractLsb' 11 5) (w.extractLsb' 8 3) (w.extractLsb' 2 2) (w.extractLsb' 1 1))
  else if w.extractLsb' 4 4 == 9 && w.extractLsb' 0 2 == 2 then .ok (.amoCas (w.extractLsb' 21 5) (w.extractLsb' 16 5) (w.extractLsb' 11 5) (w.extractLsb' 8 3) (w.extractLsb' 2 2))
  else if w.extractLsb' 4 4 == 10 && w.extractLsb' 0 1 == 0 then .ok (.amoIncw (w.extractLsb' 21 5) (w.extractLsb' 16 5) (w.extractLsb' 11 5) (w.extractLsb' 8 3) (w.extractLsb' 2 2) (w.extractLsb' 1 1))
  else if w.extractLsb' 4 4 == 11 && w.extractLsb' 0 2 == 2 then .ok (.amoFaddb (w.extractLsb' 21 5) (w.extractLsb' 16 5) (w.extractLsb' 11 5) (w.extractLsb' 8 3) (w.extractLsb' 2 2))
  else if w.extractLsb' 2 6 == 50 && w.extractLsb' 0 1 == 0 then .ok (.amoFaddF32 (w.extractLsb' 21 5) (w.extractLsb' 16 5) (w.extractLsb' 11 5) (w.extractLsb' 8 3) (w.extractLsb' 1 1))
  else if w.extractLsb' 2 6 == 53 then .ok (.amoFaddBf16 (w.extractLsb' 21 5) (w.extractLsb' 16 5) (w.extractLsb' 11 5) (w.extractLsb' 8 3) (w.extractLsb' 1 1) (w.extractLsb' 0 1))
  else .error .bits

/-- The S slot (R42 to R49). -/
def rawS (w : Word) : Except Reject Instr :=
  match (w.extractLsb' 26 6).toNat with
  | 0x0 =>
    if w.extractLsb' 0 26 == 0 then .ok (.nops)
    else .error .bits
  | 0x1 => rawAlu w
  | 0x2 =>
    .ok (.addi (w.extractLsb' 21 5) (w.extractLsb' 16 5) (w.extractLsb' 0 16))
  | 0x3 =>
    .ok (.andi (w.extractLsb' 21 5) (w.extractLsb' 16 5) (w.extractLsb' 0 16))
  | 0x4 =>
    .ok (.ori (w.extractLsb' 21 5) (w.extractLsb' 16 5) (w.extractLsb' 0 16))
  | 0x5 =>
    .ok (.xori (w.extractLsb' 21 5) (w.extractLsb' 16 5) (w.extractLsb' 0 16))
  | 0x6 =>
    if w.extractLsb' 8 8 == 0 then .ok (.shi (w.extractLsb' 21 5) (w.extractLsb' 16 5) (w.extractLsb' 6 2) (w.extractLsb' 0 6))
    else .error .bits
  | 0x7 =>
    if w.extractLsb' 16 5 == 0 then .ok (.lui (w.extractLsb' 21 5) (w.extractLsb' 0 16))
    else .error .bits
  | 0x8 =>
    .ok (.slti (w.extractLsb' 21 5) (w.extractLsb' 16 5) (w.extractLsb' 0 16))
  | 0x9 =>
    .ok (.sltiu (w.extractLsb' 21 5) (w.extractLsb' 16 5) (w.extractLsb' 0 16))
  | 0xa =>
    if w.extractLsb' 16 5 == 0 then .ok (.lis (w.extractLsb' 21 5) (w.extractLsb' 0 16))
    else .error .bits
  | 0xc => rawFpu w
  | 0x10 =>
    .ok (.br (w.extractLsb' 0 26))
  | 0x11 =>
    .ok (.bl (w.extractLsb' 0 26))
  | 0x12 =>
    if w.extractLsb' 21 5 == 0 && w.extractLsb' 0 16 == 0 then .ok (.jr (w.extractLsb' 16 5))
    else .error .bits
  | 0x13 =>
    if w.extractLsb' 21 5 == 0 && w.extractLsb' 0 16 == 0 then .ok (.jlr (w.extractLsb' 16 5))
    else .error .bits
  | 0x14 =>
    .ok (.bc (w.extractLsb' 22 4) (w.extractLsb' 17 5) (w.extractLsb' 12 5) (w.extractLsb' 0 12))
  | 0x15 =>
    .ok (.bef (w.extractLsb' 22 4) (w.extractLsb' 17 5) (w.extractLsb' 12 5) (w.extractLsb' 0 12))
  | 0x18 =>
    .ok (.ld (w.extractLsb' 21 5) (w.extractLsb' 16 5) (w.extractLsb' 13 3) (w.extractLsb' 11 2) (w.extractLsb' 0 11))
  | 0x19 =>
    .ok (.ldu (w.extractLsb' 21 5) (w.extractLsb' 16 5) (w.extractLsb' 13 3) (w.extractLsb' 11 2) (w.extractLsb' 0 11))
  | 0x1a =>
    .ok (.st (w.extractLsb' 21 5) (w.extractLsb' 16 5) (w.extractLsb' 13 3) (w.extractLsb' 11 2) (w.extractLsb' 0 11))
  | 0x1b =>
    if w.extractLsb' 16 10 == 0 && w.extractLsb' 0 13 == 0 then .ok (.fence (w.extractLsb' 13 3))
    else .error .bits
  | 0x1c => rawCache w
  | 0x1d => rawAmo w
  | 0x1e =>
    if w.extractLsb' 21 5 == 0 && w.extractLsb' 0 11 == 0 then .ok (.spclr (w.extractLsb' 16 5) (w.extractLsb' 11 5))
    else .error .bits
  | 0x20 =>
    if w.extractLsb' 12 9 == 0 then .ok (.ctlrd (w.extractLsb' 21 5) (w.extractLsb' 0 12))
    else .error .bits
  | 0x21 =>
    if w.extractLsb' 21 5 == 0 && w.extractLsb' 12 4 == 0 then .ok (.ctlwr (w.extractLsb' 16 5) (w.extractLsb' 0 12))
    else .error .bits
  | 0x22 =>
    if w.extractLsb' 5 16 == 0 then .ok (.schrd (w.extractLsb' 21 5) (w.extractLsb' 0 5))
    else .error .bits
  | 0x23 =>
    if w.extractLsb' 21 5 == 0 && w.extractLsb' 5 11 == 0 then .ok (.schwr (w.extractLsb' 16 5) (w.extractLsb' 0 5))
    else .error .bits
  | 0x24 =>
    if w.extractLsb' 0 21 == 0 then .ok (.schcommit (w.extractLsb' 21 5))
    else .error .bits
  | 0x25 =>
    if w.extractLsb' 0 11 == 0 then .ok (.msel (w.extractLsb' 21 5) (w.extractLsb' 16 5) (w.extractLsb' 11 5))
    else .error .bits
  | 0x26 =>
    if w.extractLsb' 16 5 == 0 then .ok (.efrd (w.extractLsb' 21 5) (w.extractLsb' 0 16))
    else .error .bits
  | 0x27 =>
    if w.extractLsb' 21 5 == 0 && w.extractLsb' 12 4 == 0 then .ok (.awin (w.extractLsb' 16 5) (w.extractLsb' 10 2) (w.extractLsb' 5 5) (w.extractLsb' 0 5))
    else .error .bits
  | 0x28 =>
    if w.extractLsb' 16 10 == 0 then .ok (.trap (w.extractLsb' 0 16))
    else .error .bits
  | 0x29 =>
    if w.extractLsb' 0 26 == 0 then .ok (.rett)
    else .error .bits
  | 0x2a =>
    if w.extractLsb' 0 26 == 0 then .ok (.retire)
    else .error .bits
  | 0x2b =>
    if w.extractLsb' 0 16 == 0 then .ok (.spawn (w.extractLsb' 21 5) (w.extractLsb' 16 5))
    else .error .bits
  | 0x2c =>
    if w.extractLsb' 21 1 == 0 && w.extractLsb' 0 16 == 0 then .ok (.joinw (w.extractLsb' 22 4) (w.extractLsb' 16 5))
    else .error .bits
  | 0x2d =>
    if w.extractLsb' 0 22 == 0 then .ok (.tilenext (w.extractLsb' 22 4))
    else .error .bits
  | 0x2e =>
    if w.extractLsb' 21 5 == 0 && w.extractLsb' 0 16 == 0 then .ok (.cvmark (w.extractLsb' 16 5))
    else .error .bits
  | 0x30 =>
    if w.extractLsb' 0 16 == 0 then .ok (.rjreg (w.extractLsb' 21 5) (w.extractLsb' 16 5))
    else .error .bits
  | 0x31 =>
    if w.extractLsb' 21 5 == 0 && w.extractLsb' 0 16 == 0 then .ok (.rjpost (w.extractLsb' 16 5))
    else .error .bits
  | 0x32 =>
    if w.extractLsb' 0 16 == 0 then .ok (.rjpop (w.extractLsb' 21 5) (w.extractLsb' 16 5))
    else .error .bits
  | 0x33 =>
    if w.extractLsb' 21 5 == 0 && w.extractLsb' 8 8 == 0 then .ok (.rjctl (w.extractLsb' 16 5) (w.extractLsb' 4 4) (w.extractLsb' 0 4))
    else .error .bits
  | _ => .error .opcode

/-- CSCAN, by its operation (R54). -/
def rawScan (w : Word) : Except Reject Instr :=
  if w.extractLsb' 19 2 == 0 then .ok (.cscanAdd (w.extractLsb' 21 4) (w.extractLsb' 16 3) (w.extractLsb' 11 5) (w.extractLsb' 6 5) (w.extractLsb' 5 1) (w.extractLsb' 1 4) (w.extractLsb' 0 1))
  else if w.extractLsb' 19 2 == 1 then .ok (.cscanMax (w.extractLsb' 21 4) (w.extractLsb' 16 3) (w.extractLsb' 11 5) (w.extractLsb' 6 5) (w.extractLsb' 5 1) (w.extractLsb' 1 4) (w.extractLsb' 0 1))
  else if w.extractLsb' 19 2 == 2 then .ok (.cscanMin (w.extractLsb' 21 4) (w.extractLsb' 16 3) (w.extractLsb' 11 5) (w.extractLsb' 6 5) (w.extractLsb' 5 1) (w.extractLsb' 1 4) (w.extractLsb' 0 1))
  else if w.extractLsb' 19 2 == 3 then .ok (.cscanOr (w.extractLsb' 21 4) (w.extractLsb' 16 3) (w.extractLsb' 11 5) (w.extractLsb' 6 5) (w.extractLsb' 5 1) (w.extractLsb' 1 4) (w.extractLsb' 0 1))
  else .error .bits

/-- CAADD, add or set (R54). -/
def rawCaadd (w : Word) : Except Reject Instr :=
  if w.extractLsb' 18 3 == 0 && w.extractLsb' 0 6 == 0 then .ok (.caaddAdd (w.extractLsb' 21 4) (w.extractLsb' 16 2) (w.extractLsb' 6 10))
  else if w.extractLsb' 18 3 == 1 && w.extractLsb' 0 6 == 0 then .ok (.caaddSet (w.extractLsb' 21 4) (w.extractLsb' 16 2) (w.extractLsb' 6 10))
  else .error .bits

/-- PSET, by its operation (R54). -/
def rawPset (w : Word) : Except Reject Instr :=
  if w.extractLsb' 0 21 == 0 then .ok (.psetOnes (w.extractLsb' 21 4))
  else if w.extractLsb' 0 21 == 262144 then .ok (.psetZero (w.extractLsb' 21 4))
  else if w.extractLsb' 0 21 == 524288 then .ok (.psetInv (w.extractLsb' 21 4))
  else if w.extractLsb' 16 5 == 12 && w.extractLsb' 0 11 == 0 then .ok (.psetLoad (w.extractLsb' 21 4) (w.extractLsb' 11 5))
  else if w.extractLsb' 11 10 == 512 && w.extractLsb' 0 6 == 0 then .ok (.psetSave (w.extractLsb' 21 4) (w.extractLsb' 6 5))
  else if w.extractLsb' 16 5 == 20 && w.extractLsb' 0 11 == 0 then .ok (.psetAndl (w.extractLsb' 21 4) (w.extractLsb' 11 5))
  else if w.extractLsb' 16 5 == 24 && w.extractLsb' 0 11 == 0 then .ok (.psetOrl (w.extractLsb' 21 4) (w.extractLsb' 11 5))
  else .error .bits

/-- CXF, by its operation (R54). -/
def rawCxf (w : Word) : Except Reject Instr :=
  if w.extractLsb' 1 15 == 0 then .ok (.cxfRead (w.extractLsb' 21 4) (w.extractLsb' 16 5) (w.extractLsb' 0 1))
  else if w.extractLsb' 16 5 == 0 && w.extractLsb' 1 10 == 32 then .ok (.cxfClear (w.extractLsb' 21 4) (w.extractLsb' 11 5) (w.extractLsb' 0 1))
  else if w.extractLsb' 1 10 == 64 then .ok (.cxfReadclr (w.extractLsb' 21 4) (w.extractLsb' 16 5) (w.extractLsb' 11 5) (w.extractLsb' 0 1))
  else .error .bits

/-- CSTAT, by its operation (R54). -/
def rawCstat (w : Word) : Except Reject Instr :=
  if w.extractLsb' 0 16 == 0 then .ok (.cstatRead (w.extractLsb' 21 4) (w.extractLsb' 16 5))
  else if w.extractLsb' 13 8 == 0 && w.extractLsb' 0 11 == 64 then .ok (.cstatClear (w.extractLsb' 21 4) (w.extractLsb' 11 2))
  else if w.extractLsb' 13 3 == 0 && w.extractLsb' 0 11 == 128 then .ok (.cstatReadclr (w.extractLsb' 21 4) (w.extractLsb' 16 5) (w.extractLsb' 11 2))
  else if w.extractLsb' 13 8 == 0 && w.extractLsb' 0 11 == 192 then .ok (.cstatTest (w.extractLsb' 21 4) (w.extractLsb' 11 2))
  else .error .bits

/-- MTR, out or in (R54). -/
def rawMtr (w : Word) : Except Reject Instr :=
  if w.extractLsb' 19 2 == 0 && w.extractLsb' 8 3 == 0 && w.extractLsb' 0 6 == 0 then .ok (.mtrOut (w.extractLsb' 21 4) (w.extractLsb' 18 1) (w.extractLsb' 16 2) (w.extractLsb' 11 5) (w.extractLsb' 6 2))
  else if w.extractLsb' 18 3 == 2 && w.extractLsb' 8 3 == 0 && w.extractLsb' 0 6 == 0 then .ok (.mtrIn (w.extractLsb' 21 4) (w.extractLsb' 16 2) (w.extractLsb' 11 5) (w.extractLsb' 6 2))
  else .error .bits

/-- The W slot (R50 to R54). -/
def rawW (w : Word) : Except Reject Instr :=
  match (w.extractLsb' 25 7).toNat with
  | 0x0 =>
    if w.extractLsb' 0 25 == 0 then .ok (.cnop)
    else .error .bits
  | 0x1 =>
    .ok (.fadd (w.extractLsb' 21 4) (w.extractLsb' 16 5) (w.extractLsb' 11 5) (w.extractLsb' 6 5) (w.extractLsb' 5 1) (w.extractLsb' 1 4) (w.extractLsb' 0 1))
  | 0x2 =>
    .ok (.fsub (w.extractLsb' 21 4) (w.extractLsb' 16 5) (w.extractLsb' 11 5) (w.extractLsb' 6 5) (w.extractLsb' 5 1) (w.extractLsb' 1 4) (w.extractLsb' 0 1))
  | 0x3 =>
    .ok (.fmul (w.extractLsb' 21 4) (w.extractLsb' 16 5) (w.extractLsb' 11 5) (w.extractLsb' 6 5) (w.extractLsb' 5 1) (w.extractLsb' 1 4) (w.extractLsb' 0 1))
  | 0x4 =>
    .ok (.ffma (w.extractLsb' 21 4) (w.extractLsb' 16 5) (w.extractLsb' 11 5) (w.extractLsb' 6 5) (w.extractLsb' 5 1) (w.extractLsb' 1 4) (w.extractLsb' 0 1))
  | 0x5 =>
    .ok (.ffms (w.extractLsb' 21 4) (w.extractLsb' 16 5) (w.extractLsb' 11 5) (w.extractLsb' 6 5) (w.extractLsb' 5 1) (w.extractLsb' 1 4) (w.extractLsb' 0 1))
  | 0x6 =>
    .ok (.fmin (w.extractLsb' 21 4) (w.extractLsb' 16 5) (w.extractLsb' 11 5) (w.extractLsb' 6 5) (w.extractLsb' 5 1) (w.extractLsb' 1 4) (w.extractLsb' 0 1))
  | 0x7 =>
    .ok (.fmax (w.extractLsb' 21 4) (w.extractLsb' 16 5) (w.extractLsb' 11 5) (w.extractLsb' 6 5) (w.extractLsb' 5 1) (w.extractLsb' 1 4) (w.extractLsb' 0 1))
  | 0x8 =>
    if w.extractLsb' 6 5 == 0 then .ok (.fabs (w.extractLsb' 21 4) (w.extractLsb' 16 5) (w.extractLsb' 11 5) (w.extractLsb' 5 1) (w.extractLsb' 1 4) (w.extractLsb' 0 1))
    else .error .bits
  | 0x9 =>
    if w.extractLsb' 6 5 == 0 then .ok (.fneg (w.extractLsb' 21 4) (w.extractLsb' 16 5) (w.extractLsb' 11 5) (w.extractLsb' 5 1) (w.extractLsb' 1 4) (w.extractLsb' 0 1))
    else .error .bits
  | 0xa =>
    .ok (.fcmp (w.extractLsb' 21 4) (w.extractLsb' 16 5) (w.extractLsb' 11 5) (w.extractLsb' 6 5) (w.extractLsb' 5 1) (w.extractLsb' 1 4) (w.extractLsb' 0 1))
  | 0xb =>
    if w.extractLsb' 0 5 == 0 then .ok (.sel (w.extractLsb' 21 4) (w.extractLsb' 16 5) (w.extractLsb' 11 5) (w.extractLsb' 6 5) (w.extractLsb' 5 1))
    else .error .bits
  | 0x10 =>
    .ok (.iadd (w.extractLsb' 21 4) (w.extractLsb' 16 5) (w.extractLsb' 11 5) (w.extractLsb' 6 5) (w.extractLsb' 5 1) (w.extractLsb' 1 4) (w.extractLsb' 0 1))
  | 0x11 =>
    .ok (.isub (w.extractLsb' 21 4) (w.extractLsb' 16 5) (w.extractLsb' 11 5) (w.extractLsb' 6 5) (w.extractLsb' 5 1) (w.extractLsb' 1 4) (w.extractLsb' 0 1))
  | 0x12 =>
    .ok (.imul (w.extractLsb' 21 4) (w.extractLsb' 16 5) (w.extractLsb' 11 5) (w.extractLsb' 6 5) (w.extractLsb' 5 1) (w.extractLsb' 1 4) (w.extractLsb' 0 1))
  | 0x13 =>
    .ok (.imac (w.extractLsb' 21 4) (w.extractLsb' 16 5) (w.extractLsb' 11 5) (w.extractLsb' 6 5) (w.extractLsb' 5 1) (w.extractLsb' 1 4) (w.extractLsb' 0 1))
  | 0x14 =>
    .ok (.qmul (w.extractLsb' 21 4) (w.extractLsb' 16 5) (w.extractLsb' 11 5) (w.extractLsb' 6 5) (w.extractLsb' 5 1) (w.extractLsb' 1 4) (w.extractLsb' 0 1))
  | 0x15 =>
    .ok (.qmac (w.extractLsb' 21 4) (w.extractLsb' 16 5) (w.extractLsb' 11 5) (w.extractLsb' 6 5) (w.extractLsb' 5 1) (w.extractLsb' 1 4) (w.extractLsb' 0 1))
  | 0x16 =>
    .ok (.wAnd (w.extractLsb' 21 4) (w.extractLsb' 16 5) (w.extractLsb' 11 5) (w.extractLsb' 6 5) (w.extractLsb' 5 1) (w.extractLsb' 1 4) (w.extractLsb' 0 1))
  | 0x17 =>
    .ok (.wOr (w.extractLsb' 21 4) (w.extractLsb' 16 5) (w.extractLsb' 11 5) (w.extractLsb' 6 5) (w.extractLsb' 5 1) (w.extractLsb' 1 4) (w.extractLsb' 0 1))
  | 0x18 =>
    .ok (.wXor (w.extractLsb' 21 4) (w.extractLsb' 16 5) (w.extractLsb' 11 5) (w.extractLsb' 6 5) (w.extractLsb' 5 1) (w.extractLsb' 1 4) (w.extractLsb' 0 1))
  | 0x19 =>
    .ok (.wShl (w.extractLsb' 21 4) (w.extractLsb' 16 5) (w.extractLsb' 11 5) (w.extractLsb' 6 5) (w.extractLsb' 5 1) (w.extractLsb' 1 4) (w.extractLsb' 0 1))
  | 0x1a =>
    .ok (.wShr (w.extractLsb' 21 4) (w.extractLsb' 16 5) (w.extractLsb' 11 5) (w.extractLsb' 6 5) (w.extractLsb' 5 1) (w.extractLsb' 1 4) (w.extractLsb' 0 1))
  | 0x1b =>
    .ok (.wSar (w.extractLsb' 21 4) (w.extractLsb' 16 5) (w.extractLsb' 11 5) (w.extractLsb' 6 5) (w.extractLsb' 5 1) (w.extractLsb' 1 4) (w.extractLsb' 0 1))
  | 0x1c =>
    .ok (.icmp (w.extractLsb' 21 4) (w.extractLsb' 16 5) (w.extractLsb' 11 5) (w.extractLsb' 6 5) (w.extractLsb' 5 1) (w.extractLsb' 1 4) (w.extractLsb' 0 1))
  | 0x1d =>
    .ok (.imin (w.extractLsb' 21 4) (w.extractLsb' 16 5) (w.extractLsb' 11 5) (w.extractLsb' 6 5) (w.extractLsb' 5 1) (w.extractLsb' 1 4) (w.extractLsb' 0 1))
  | 0x1e =>
    .ok (.imax (w.extractLsb' 21 4) (w.extractLsb' 16 5) (w.extractLsb' 11 5) (w.extractLsb' 6 5) (w.extractLsb' 5 1) (w.extractLsb' 1 4) (w.extractLsb' 0 1))
  | 0x20 =>
    .ok (.fdiv (w.extractLsb' 21 4) (w.extractLsb' 16 5) (w.extractLsb' 11 5) (w.extractLsb' 6 5) (w.extractLsb' 5 1) (w.extractLsb' 1 4) (w.extractLsb' 0 1))
  | 0x21 =>
    if w.extractLsb' 6 5 == 0 then .ok (.fsqrt (w.extractLsb' 21 4) (w.extractLsb' 16 5) (w.extractLsb' 11 5) (w.extractLsb' 5 1) (w.extractLsb' 1 4) (w.extractLsb' 0 1))
    else .error .bits
  | 0x22 =>
    if w.extractLsb' 6 5 == 0 then .ok (.frcp (w.extractLsb' 21 4) (w.extractLsb' 16 5) (w.extractLsb' 11 5) (w.extractLsb' 5 1) (w.extractLsb' 1 4) (w.extractLsb' 0 1))
    else .error .bits
  | 0x23 =>
    if w.extractLsb' 6 5 == 0 then .ok (.frsq (w.extractLsb' 21 4) (w.extractLsb' 16 5) (w.extractLsb' 11 5) (w.extractLsb' 5 1) (w.extractLsb' 1 4) (w.extractLsb' 0 1))
    else .error .bits
  | 0x24 =>
    if w.extractLsb' 6 5 == 0 then .ok (.fexp2 (w.extractLsb' 21 4) (w.extractLsb' 16 5) (w.extractLsb' 11 5) (w.extractLsb' 5 1) (w.extractLsb' 1 4) (w.extractLsb' 0 1))
    else .error .bits
  | 0x25 =>
    if w.extractLsb' 6 5 == 0 then .ok (.flog2 (w.extractLsb' 21 4) (w.extractLsb' 16 5) (w.extractLsb' 11 5) (w.extractLsb' 5 1) (w.extractLsb' 1 4) (w.extractLsb' 0 1))
    else .error .bits
  | 0x28 =>
    if w.extractLsb' 1 10 == 0 then .ok (.mov (w.extractLsb' 21 4) (w.extractLsb' 16 5) (w.extractLsb' 11 5) (w.extractLsb' 0 1))
    else .error .bits
  | 0x29 =>
    if w.extractLsb' 1 10 == 0 then .ok (.movx (w.extractLsb' 21 4) (w.extractLsb' 16 5) (w.extractLsb' 11 5) (w.extractLsb' 0 1))
    else .error .bits
  | 0x2a =>
    if w.extractLsb' 5 1 == 0 then .ok (.movi (w.extractLsb' 21 4) (w.extractLsb' 16 5) (w.extractLsb' 6 10) (w.extractLsb' 1 4) (w.extractLsb' 0 1))
    else .error .bits
  | 0x2b =>
    .ok (.cvt (w.extractLsb' 21 4) (w.extractLsb' 16 5) (w.extractLsb' 11 5) (w.extractLsb' 6 5) (w.extractLsb' 5 1) (w.extractLsb' 1 4) (w.extractLsb' 0 1))
  | 0x2c =>
    .ok (.cvtsr (w.extractLsb' 21 4) (w.extractLsb' 16 5) (w.extractLsb' 11 5) (w.extractLsb' 6 5) (w.extractLsb' 5 1) (w.extractLsb' 1 4) (w.extractLsb' 0 1))
  | 0x2d =>
    if w.extractLsb' 16 5 == 0 && w.extractLsb' 0 11 == 0 then .ok (.srand (w.extractLsb' 21 4) (w.extractLsb' 11 5))
    else .error .bits
  | 0x2e =>
    if w.extractLsb' 1 5 == 0 then .ok (.lane (w.extractLsb' 21 4) (w.extractLsb' 16 5) (w.extractLsb' 11 5) (w.extractLsb' 6 5) (w.extractLsb' 0 1))
    else .error .bits
  | 0x30 =>
    if w.extractLsb' 1 10 == 0 then .ok (.cpass (w.extractLsb' 21 4) (w.extractLsb' 16 5) (w.extractLsb' 11 5) (w.extractLsb' 0 1))
    else .error .bits
  | 0x31 =>
    if w.extractLsb' 16 5 == 24 && w.extractLsb' 0 6 == 0 then .ok (.cinj (w.extractLsb' 21 4) (w.extractLsb' 11 5) (w.extractLsb' 6 5))
    else .error .bits
  | 0x32 => rawScan w
  | 0x33 =>
    if w.extractLsb' 16 5 == 24 && w.extractLsb' 0 11 == 0 then .ok (.cwr (w.extractLsb' 21 4) (w.extractLsb' 11 5))
    else .error .bits
  | 0x34 =>
    if w.extractLsb' 1 10 == 0 then .ok (.crd (w.extractLsb' 21 4) (w.extractLsb' 16 5) (w.extractLsb' 11 5) (w.extractLsb' 0 1))
    else .error .bits
  | 0x38 =>
    if w.extractLsb' 14 2 == 0 && w.extractLsb' 1 5 == 0 then .ok (.cld (w.extractLsb' 21 4) (w.extractLsb' 16 5) (w.extractLsb' 13 1) (w.extractLsb' 11 2) (w.extractLsb' 6 5) (w.extractLsb' 0 1))
    else .error .bits
  | 0x39 =>
    if w.extractLsb' 14 2 == 0 && w.extractLsb' 1 5 == 0 then .ok (.cst (w.extractLsb' 21 4) (w.extractLsb' 16 5) (w.extractLsb' 13 1) (w.extractLsb' 11 2) (w.extractLsb' 6 5) (w.extractLsb' 0 1))
    else .error .bits
  | 0x3a => rawCaadd w
  | 0x40 =>
    if w.extractLsb' 0 16 == 0 then .ok (.cflag (w.extractLsb' 21 4) (w.extractLsb' 16 5))
    else .error .bits
  | 0x41 => rawPset w
  | 0x42 => rawCxf w
  | 0x43 => rawCstat w
  | 0x48 =>
    if w.extractLsb' 18 3 == 0 && w.extractLsb' 0 16 == 0 then .ok (.mzero (w.extractLsb' 21 4) (w.extractLsb' 16 2))
    else .error .bits
  | 0x49 =>
    if w.extractLsb' 0 11 == 0 then .ok (.mpush (w.extractLsb' 21 4) (w.extractLsb' 16 5) (w.extractLsb' 11 5))
    else .error .bits
  | 0x4a =>
    if w.extractLsb' 16 5 == 24 && w.extractLsb' 0 11 == 0 then .ok (.mshift (w.extractLsb' 21 4) (w.extractLsb' 11 5))
    else .error .bits
  | 0x4b =>
    if w.extractLsb' 19 2 == 0 then .ok (.macc (w.extractLsb' 21 4) (w.extractLsb' 18 1) (w.extractLsb' 16 2) (w.extractLsb' 11 5) (w.extractLsb' 6 5) (w.extractLsb' 5 1) (w.extractLsb' 1 4) (w.extractLsb' 0 1))
    else .error .bits
  | 0x4c =>
    if w.extractLsb' 19 2 == 0 then .ok (.maccs (w.extractLsb' 21 4) (w.extractLsb' 18 1) (w.extractLsb' 16 2) (w.extractLsb' 11 5) (w.extractLsb' 6 5) (w.extractLsb' 5 1) (w.extractLsb' 1 4) (w.extractLsb' 0 1))
    else .error .bits
  | 0x4d =>
    if w.extractLsb' 19 2 == 0 && w.extractLsb' 8 3 == 0 && w.extractLsb' 0 6 == 0 then .ok (.mdrain (w.extractLsb' 21 4) (w.extractLsb' 18 1) (w.extractLsb' 16 2) (w.extractLsb' 11 5) (w.extractLsb' 6 2))
    else .error .bits
  | 0x4e => rawMtr w
  | _ => .error .opcode

/-- The E slot (R55, R56). -/
def rawE (w : Word) : Except Reject Instr :=
  match (w.extractLsb' 26 6).toNat with
  | 0x0 =>
    if w.extractLsb' 0 26 == 0 then .ok (.nope)
    else .error .bits
  | 0x1 =>
    .ok (.larm (w.extractLsb' 24 2) (w.extractLsb' 12 12) (w.extractLsb' 9 3) (w.extractLsb' 0 9))
  | 0x2 =>
    if w.extractLsb' 0 24 == 0 then .ok (.ldis (w.extractLsb' 24 2))
    else .error .bits
  | 0x3 =>
    if w.extractLsb' 12 14 == 0 then .ok (.oset (w.extractLsb' 9 3) (w.extractLsb' 0 9))
    else .error .bits
  | 0x4 =>
    if w.extractLsb' 12 14 == 0 then .ok (.oinc (w.extractLsb' 9 3) (w.extractLsb' 0 9))
    else .error .bits
  | 0x5 =>
    if w.extractLsb' 24 2 == 0 && w.extractLsb' 0 12 == 0 then .ok (.rcflush (w.extractLsb' 12 12))
    else .error .bits
  | 0x6 =>
    .ok (.edrain (w.extractLsb' 24 2) (w.extractLsb' 12 12) (w.extractLsb' 9 3) (w.extractLsb' 6 3) (w.extractLsb' 0 6))
  | 0x7 =>
    if w.extractLsb' 24 2 == 0 && w.extractLsb' 9 3 == 0 && w.extractLsb' 0 6 == 0 then .ok (.epld (w.extractLsb' 12 12) (w.extractLsb' 6 3))
    else .error .bits
  | _ => .error .opcode

/-- An epilogue word (R57, R197). -/
def rawEpilogue (w : Half) : Except Reject Instr :=
  match (w.extractLsb' 12 4).toNat with
  | 0x0 =>
    if w.extractLsb' 0 12 == 0 then .ok (.estop)
    else .error .bits
  | 0x1 =>
    if w.extractLsb' 0 12 == 0 then .ok (.epass)
    else .error .bits
  | 0x2 =>
    .ok (.eadd (w.extractLsb' 0 12))
  | 0x3 =>
    .ok (.emul (w.extractLsb' 0 12))
  | 0x4 =>
    if w.extractLsb' 0 12 == 0 then .ok (.erelu)
    else .error .bits
  | 0x5 =>
    if w.extractLsb' 11 1 == 0 then .ok (.eclmp (w.extractLsb' 0 11))
    else .error .bits
  | 0x6 =>
    if w.extractLsb' 0 7 == 0 then .ok (.ecvt (w.extractLsb' 8 4) (w.extractLsb' 7 1))
    else .error .bits
  | _ => .error .opcode

/-- The instruction that a word stands for in a slot. -/
def decodeSlot (sl : Slot) (w : Word) : Except Reject Instr :=
  match sl with
  | .y => checkFields (rawY w)
  | .s => checkFields (rawS w)
  | .w => checkFields (rawW w)
  | .e => checkFields (rawE w)
  | .epilogue => if w.extractLsb' 16 16 == 0 then checkFields (rawEpilogue (w.extractLsb' 0 16)) else .error .bits

/-- An instruction word and the slot it belongs to; an epilogue word stands in the low half. -/
structure Code where
  slot : Slot
  word : Word
deriving DecidableEq, Repr

/-- The word of an instruction, written from the same encoding tables; a step without an encoding has none. -/
def encode : Instr → Option Code

  | .nopy s => some ⟨.y, 0#1 ++ s ++ 0#27⟩
  | .kwait s k n => some ⟨.y, 0#1 ++ s ++ 1#6 ++ k ++ n ++ 0#1⟩
  | .kpost s k n c f => some ⟨.y, 0#1 ++ s ++ 2#6 ++ k ++ n ++ c ++ f ++ 0#2⟩
  | .kset s k n => some ⟨.y, 0#1 ++ s ++ 3#6 ++ k ++ n ++ 0#1⟩
  | .barr s b c f => some ⟨.y, 0#1 ++ s ++ 4#6 ++ b ++ c ++ f ++ 0#4⟩
  | .bwait s b p => some ⟨.y, 0#1 ++ s ++ 5#6 ++ b ++ p ++ 0#10⟩
  | .bexp s b a => some ⟨.y, 0#1 ++ s ++ 6#6 ++ b ++ a ++ 0#6⟩
  | .dly s n => some ⟨.y, 0#1 ++ s ++ 112#10 ++ n ++ 0#1⟩
  | .wquiet s => some ⟨.y, 0#1 ++ s ++ 16777216#27⟩
  | .lwait s e => some ⟨.y, 0#1 ++ s ++ 9#6 ++ e ++ 0#19⟩
  | .imx s i => some ⟨.y, 1#1 ++ s ++ 0#3 ++ i⟩
  | .rep s c m t => some ⟨.y, 1#1 ++ s ++ 1#3 ++ c ++ m ++ t ++ 0#8⟩
  | .xtgt s p => some ⟨.y, 1#1 ++ s ++ 2#3 ++ p ++ 0#22⟩
  | .nops => some ⟨.s, 0#32⟩
  | .aluAdd d a b => some ⟨.s, 1#6 ++ d ++ a ++ b ++ 0#11⟩
  | .aluSub d a b => some ⟨.s, 1#6 ++ d ++ a ++ b ++ 1#11⟩
  | .aluAnd d a b => some ⟨.s, 1#6 ++ d ++ a ++ b ++ 2#11⟩
  | .aluOr d a b => some ⟨.s, 1#6 ++ d ++ a ++ b ++ 3#11⟩
  | .aluXor d a b => some ⟨.s, 1#6 ++ d ++ a ++ b ++ 4#11⟩
  | .aluShl d a b => some ⟨.s, 1#6 ++ d ++ a ++ b ++ 5#11⟩
  | .aluShr d a b => some ⟨.s, 1#6 ++ d ++ a ++ b ++ 6#11⟩
  | .aluSar d a b => some ⟨.s, 1#6 ++ d ++ a ++ b ++ 7#11⟩
  | .aluMul d a b => some ⟨.s, 1#6 ++ d ++ a ++ b ++ 8#11⟩
  | .aluMulh d a b => some ⟨.s, 1#6 ++ d ++ a ++ b ++ 9#11⟩
  | .aluMulhu d a b => some ⟨.s, 1#6 ++ d ++ a ++ b ++ 10#11⟩
  | .aluDiv d a b => some ⟨.s, 1#6 ++ d ++ a ++ b ++ 11#11⟩
  | .aluDivu d a b => some ⟨.s, 1#6 ++ d ++ a ++ b ++ 12#11⟩
  | .aluRem d a b => some ⟨.s, 1#6 ++ d ++ a ++ b ++ 13#11⟩
  | .aluRemu d a b => some ⟨.s, 1#6 ++ d ++ a ++ b ++ 14#11⟩
  | .aluMin d a b => some ⟨.s, 1#6 ++ d ++ a ++ b ++ 15#11⟩
  | .aluMax d a b => some ⟨.s, 1#6 ++ d ++ a ++ b ++ 16#11⟩
  | .aluMinu d a b => some ⟨.s, 1#6 ++ d ++ a ++ b ++ 17#11⟩
  | .aluMaxu d a b => some ⟨.s, 1#6 ++ d ++ a ++ b ++ 18#11⟩
  | .aluSlt d a b => some ⟨.s, 1#6 ++ d ++ a ++ b ++ 19#11⟩
  | .aluSltu d a b => some ⟨.s, 1#6 ++ d ++ a ++ b ++ 20#11⟩
  | .aluSeq d a b => some ⟨.s, 1#6 ++ d ++ a ++ b ++ 21#11⟩
  | .aluClz d a => some ⟨.s, 1#6 ++ d ++ a ++ 22#16⟩
  | .aluPopc d a => some ⟨.s, 1#6 ++ d ++ a ++ 23#16⟩
  | .addi d a i => some ⟨.s, 2#6 ++ d ++ a ++ i⟩
  | .andi d a i => some ⟨.s, 3#6 ++ d ++ a ++ i⟩
  | .ori d a i => some ⟨.s, 4#6 ++ d ++ a ++ i⟩
  | .xori d a i => some ⟨.s, 5#6 ++ d ++ a ++ i⟩
  | .shi d a k n => some ⟨.s, 6#6 ++ d ++ a ++ 0#8 ++ k ++ n⟩
  | .lui d i => some ⟨.s, 7#6 ++ d ++ 0#5 ++ i⟩
  | .slti d a i => some ⟨.s, 8#6 ++ d ++ a ++ i⟩
  | .sltiu d a i => some ⟨.s, 9#6 ++ d ++ a ++ i⟩
  | .lis d i => some ⟨.s, 10#6 ++ d ++ 0#5 ++ i⟩
  | .fpuFadd d a b w => some ⟨.s, 12#6 ++ d ++ a ++ b ++ 0#5 ++ w ++ 0#5⟩
  | .fpuFsub d a b w => some ⟨.s, 12#6 ++ d ++ a ++ b ++ 0#5 ++ w ++ 1#5⟩
  | .fpuFmul d a b w => some ⟨.s, 12#6 ++ d ++ a ++ b ++ 0#5 ++ w ++ 2#5⟩
  | .fpuFdiv d a b w => some ⟨.s, 12#6 ++ d ++ a ++ b ++ 0#5 ++ w ++ 3#5⟩
  | .fpuFsqrt d a w => some ⟨.s, 12#6 ++ d ++ a ++ 0#10 ++ w ++ 4#5⟩
  | .fpuFmin d a b w => some ⟨.s, 12#6 ++ d ++ a ++ b ++ 0#5 ++ w ++ 5#5⟩
  | .fpuFmax d a b w => some ⟨.s, 12#6 ++ d ++ a ++ b ++ 0#5 ++ w ++ 6#5⟩
  | .fpuFeq d a b w => some ⟨.s, 12#6 ++ d ++ a ++ b ++ 0#5 ++ w ++ 7#5⟩
  | .fpuFlt d a b w => some ⟨.s, 12#6 ++ d ++ a ++ b ++ 0#5 ++ w ++ 8#5⟩
  | .fpuFle d a b w => some ⟨.s, 12#6 ++ d ++ a ++ b ++ 0#5 ++ w ++ 9#5⟩
  | .fpuFfma d a b w => some ⟨.s, 12#6 ++ d ++ a ++ b ++ 0#5 ++ w ++ 10#5⟩
  | .fpuCvtS2d d a => some ⟨.s, 12#6 ++ d ++ a ++ 16#16⟩
  | .fpuCvtD2s d a => some ⟨.s, 12#6 ++ d ++ a ++ 17#16⟩
  | .fpuCvtS2i d a => some ⟨.s, 12#6 ++ d ++ a ++ 18#16⟩
  | .fpuCvtI2s d a => some ⟨.s, 12#6 ++ d ++ a ++ 19#16⟩
  | .fpuCvtD2i d a => some ⟨.s, 12#6 ++ d ++ a ++ 20#16⟩
  | .fpuCvtI2d d a => some ⟨.s, 12#6 ++ d ++ a ++ 21#16⟩
  | .br o => some ⟨.s, 16#6 ++ o⟩
  | .bl o => some ⟨.s, 17#6 ++ o⟩
  | .jr a => some ⟨.s, 576#11 ++ a ++ 0#16⟩
  | .jlr a => some ⟨.s, 608#11 ++ a ++ 0#16⟩
  | .bc c a b o => some ⟨.s, 20#6 ++ c ++ a ++ b ++ o⟩
  | .bef c a g o => some ⟨.s, 21#6 ++ c ++ a ++ g ++ o⟩
  | .ld d a c z o => some ⟨.s, 24#6 ++ d ++ a ++ c ++ z ++ o⟩
  | .ldu d a c z o => some ⟨.s, 25#6 ++ d ++ a ++ c ++ z ++ o⟩
  | .st s a c z o => some ⟨.s, 26#6 ++ s ++ a ++ c ++ z ++ o⟩
  | .fence c => some ⟨.s, 27648#16 ++ c ++ 0#13⟩
  | .cacheWb a c o => some ⟨.s, 896#11 ++ a ++ c ++ 0#2 ++ o⟩
  | .cacheInv a c o => some ⟨.s, 897#11 ++ a ++ c ++ 0#2 ++ o⟩
  | .cacheWbinv a c o => some ⟨.s, 898#11 ++ a ++ c ++ 0#2 ++ o⟩
  | .cacheEvict a c o => some ⟨.s, 899#11 ++ a ++ c ++ 0#2 ++ o⟩
  | .amoAdd d a b c z r => some ⟨.s, 29#6 ++ d ++ a ++ b ++ c ++ 0#4 ++ z ++ r ++ 0#1⟩
  | .amoAnd d a b c z r => some ⟨.s, 29#6 ++ d ++ a ++ b ++ c ++ 1#4 ++ z ++ r ++ 0#1⟩
  | .amoOr d a b c z r => some ⟨.s, 29#6 ++ d ++ a ++ b ++ c ++ 2#4 ++ z ++ r ++ 0#1⟩
  | .amoXor d a b c z r => some ⟨.s, 29#6 ++ d ++ a ++ b ++ c ++ 3#4 ++ z ++ r ++ 0#1⟩
  | .amoMin d a b c z r => some ⟨.s, 29#6 ++ d ++ a ++ b ++ c ++ 4#4 ++ z ++ r ++ 0#1⟩
  | .amoMax d a b c z r => some ⟨.s, 29#6 ++ d ++ a ++ b ++ c ++ 5#4 ++ z ++ r ++ 0#1⟩
  | .amoMinu d a b c z r => some ⟨.s, 29#6 ++ d ++ a ++ b ++ c ++ 6#4 ++ z ++ r ++ 0#1⟩
  | .amoMaxu d a b c z r => some ⟨.s, 29#6 ++ d ++ a ++ b ++ c ++ 7#4 ++ z ++ r ++ 0#1⟩
  | .amoSwap d a b c z r => some ⟨.s, 29#6 ++ d ++ a ++ b ++ c ++ 8#4 ++ z ++ r ++ 0#1⟩
  | .amoCas d a b c z => some ⟨.s, 29#6 ++ d ++ a ++ b ++ c ++ 9#4 ++ z ++ 2#2⟩
  | .amoIncw d a b c z r => some ⟨.s, 29#6 ++ d ++ a ++ b ++ c ++ 10#4 ++ z ++ r ++ 0#1⟩
  | .amoFaddb d a b c z => some ⟨.s, 29#6 ++ d ++ a ++ b ++ c ++ 11#4 ++ z ++ 2#2⟩
  | .amoFaddF32 d a b c r => some ⟨.s, 29#6 ++ d ++ a ++ b ++ c ++ 50#6 ++ r ++ 0#1⟩
  | .amoFaddBf16 d a b c r s => some ⟨.s, 29#6 ++ d ++ a ++ b ++ c ++ 53#6 ++ r ++ s⟩
  | .spclr a b => some ⟨.s, 960#11 ++ a ++ b ++ 0#11⟩
  | .ctlrd d n => some ⟨.s, 32#6 ++ d ++ 0#9 ++ n⟩
  | .ctlwr a n => some ⟨.s, 1056#11 ++ a ++ 0#4 ++ n⟩
  | .schrd d n => some ⟨.s, 34#6 ++ d ++ 0#16 ++ n⟩
  | .schwr a n => some ⟨.s, 1120#11 ++ a ++ 0#11 ++ n⟩
  | .schcommit d => some ⟨.s, 36#6 ++ d ++ 0#21⟩
  | .msel d a b => some ⟨.s, 37#6 ++ d ++ a ++ b ++ 0#11⟩
  | .efrd d g => some ⟨.s, 38#6 ++ d ++ 0#5 ++ g⟩
  | .awin a o w h => some ⟨.s, 1248#11 ++ a ++ 0#4 ++ o ++ w ++ h⟩
  | .trap c => some ⟨.s, 40960#16 ++ c⟩
  | .rett => some ⟨.s, 2751463424#32⟩
  | .retire => some ⟨.s, 2818572288#32⟩
  | .spawn d a => some ⟨.s, 43#6 ++ d ++ a ++ 0#16⟩
  | .joinw d a => some ⟨.s, 44#6 ++ d ++ 0#1 ++ a ++ 0#16⟩
  | .tilenext d => some ⟨.s, 45#6 ++ d ++ 0#22⟩
  | .cvmark a => some ⟨.s, 1472#11 ++ a ++ 0#16⟩
  | .rjreg d a => some ⟨.s, 48#6 ++ d ++ a ++ 0#16⟩
  | .rjpost a => some ⟨.s, 1568#11 ++ a ++ 0#16⟩
  | .rjpop d a => some ⟨.s, 50#6 ++ d ++ a ++ 0#16⟩
  | .rjctl a f q => some ⟨.s, 1632#11 ++ a ++ 0#8 ++ f ++ q⟩
  | .cnop => some ⟨.w, 0#32⟩
  | .fadd m d a b n t p => some ⟨.w, 1#7 ++ m ++ d ++ a ++ b ++ n ++ t ++ p⟩
  | .fsub m d a b n t p => some ⟨.w, 2#7 ++ m ++ d ++ a ++ b ++ n ++ t ++ p⟩
  | .fmul m d a b n t p => some ⟨.w, 3#7 ++ m ++ d ++ a ++ b ++ n ++ t ++ p⟩
  | .ffma m d a b n t p => some ⟨.w, 4#7 ++ m ++ d ++ a ++ b ++ n ++ t ++ p⟩
  | .ffms m d a b n t p => some ⟨.w, 5#7 ++ m ++ d ++ a ++ b ++ n ++ t ++ p⟩
  | .fmin m d a b n t p => some ⟨.w, 6#7 ++ m ++ d ++ a ++ b ++ n ++ t ++ p⟩
  | .fmax m d a b n t p => some ⟨.w, 7#7 ++ m ++ d ++ a ++ b ++ n ++ t ++ p⟩
  | .fabs m d a n t p => some ⟨.w, 8#7 ++ m ++ d ++ a ++ 0#5 ++ n ++ t ++ p⟩
  | .fneg m d a n t p => some ⟨.w, 9#7 ++ m ++ d ++ a ++ 0#5 ++ n ++ t ++ p⟩
  | .fcmp m c a b n t p => some ⟨.w, 10#7 ++ m ++ c ++ a ++ b ++ n ++ t ++ p⟩
  | .sel m d a b n => some ⟨.w, 11#7 ++ m ++ d ++ a ++ b ++ n ++ 0#5⟩
  | .iadd m d a b n t p => some ⟨.w, 16#7 ++ m ++ d ++ a ++ b ++ n ++ t ++ p⟩
  | .isub m d a b n t p => some ⟨.w, 17#7 ++ m ++ d ++ a ++ b ++ n ++ t ++ p⟩
  | .imul m d a b n t p => some ⟨.w, 18#7 ++ m ++ d ++ a ++ b ++ n ++ t ++ p⟩
  | .imac m d a b n t p => some ⟨.w, 19#7 ++ m ++ d ++ a ++ b ++ n ++ t ++ p⟩
  | .qmul m d a b n t p => some ⟨.w, 20#7 ++ m ++ d ++ a ++ b ++ n ++ t ++ p⟩
  | .qmac m d a b n t p => some ⟨.w, 21#7 ++ m ++ d ++ a ++ b ++ n ++ t ++ p⟩
  | .wAnd m d a b n t p => some ⟨.w, 22#7 ++ m ++ d ++ a ++ b ++ n ++ t ++ p⟩
  | .wOr m d a b n t p => some ⟨.w, 23#7 ++ m ++ d ++ a ++ b ++ n ++ t ++ p⟩
  | .wXor m d a b n t p => some ⟨.w, 24#7 ++ m ++ d ++ a ++ b ++ n ++ t ++ p⟩
  | .wShl m d a b n t p => some ⟨.w, 25#7 ++ m ++ d ++ a ++ b ++ n ++ t ++ p⟩
  | .wShr m d a b n t p => some ⟨.w, 26#7 ++ m ++ d ++ a ++ b ++ n ++ t ++ p⟩
  | .wSar m d a b n t p => some ⟨.w, 27#7 ++ m ++ d ++ a ++ b ++ n ++ t ++ p⟩
  | .icmp m c a b n t p => some ⟨.w, 28#7 ++ m ++ c ++ a ++ b ++ n ++ t ++ p⟩
  | .imin m d a b n t p => some ⟨.w, 29#7 ++ m ++ d ++ a ++ b ++ n ++ t ++ p⟩
  | .imax m d a b n t p => some ⟨.w, 30#7 ++ m ++ d ++ a ++ b ++ n ++ t ++ p⟩
  | .fdiv m d a b n t p => some ⟨.w, 32#7 ++ m ++ d ++ a ++ b ++ n ++ t ++ p⟩
  | .fsqrt m d a n t p => some ⟨.w, 33#7 ++ m ++ d ++ a ++ 0#5 ++ n ++ t ++ p⟩
  | .frcp m d a n t p => some ⟨.w, 34#7 ++ m ++ d ++ a ++ 0#5 ++ n ++ t ++ p⟩
  | .frsq m d a n t p => some ⟨.w, 35#7 ++ m ++ d ++ a ++ 0#5 ++ n ++ t ++ p⟩
  | .fexp2 m d a n t p => some ⟨.w, 36#7 ++ m ++ d ++ a ++ 0#5 ++ n ++ t ++ p⟩
  | .flog2 m d a n t p => some ⟨.w, 37#7 ++ m ++ d ++ a ++ 0#5 ++ n ++ t ++ p⟩
  | .mov m d a p => some ⟨.w, 40#7 ++ m ++ d ++ a ++ 0#10 ++ p⟩
  | .movx m d a p => some ⟨.w, 41#7 ++ m ++ d ++ a ++ 0#10 ++ p⟩
  | .movi m d i t p => some ⟨.w, 42#7 ++ m ++ d ++ i ++ 0#1 ++ t ++ p⟩
  | .cvt m d a b n t p => some ⟨.w, 43#7 ++ m ++ d ++ a ++ b ++ n ++ t ++ p⟩
  | .cvtsr m d a b n t p => some ⟨.w, 44#7 ++ m ++ d ++ a ++ b ++ n ++ t ++ p⟩
  | .srand m a => some ⟨.w, 45#7 ++ m ++ 0#5 ++ a ++ 0#11⟩
  | .lane m d a r p => some ⟨.w, 46#7 ++ m ++ d ++ a ++ r ++ 0#5 ++ p⟩
  | .cpass m d a p => some ⟨.w, 48#7 ++ m ++ d ++ a ++ 0#10 ++ p⟩
  | .cinj m a b => some ⟨.w, 49#7 ++ m ++ 24#5 ++ a ++ b ++ 0#6⟩
  | .cscanAdd m d a b n t p => some ⟨.w, 50#7 ++ m ++ 0#2 ++ d ++ a ++ b ++ n ++ t ++ p⟩
  | .cscanMax m d a b n t p => some ⟨.w, 50#7 ++ m ++ 1#2 ++ d ++ a ++ b ++ n ++ t ++ p⟩
  | .cscanMin m d a b n t p => some ⟨.w, 50#7 ++ m ++ 2#2 ++ d ++ a ++ b ++ n ++ t ++ p⟩
  | .cscanOr m d a b n t p => some ⟨.w, 50#7 ++ m ++ 3#2 ++ d ++ a ++ b ++ n ++ t ++ p⟩
  | .cwr m a => some ⟨.w, 51#7 ++ m ++ 24#5 ++ a ++ 0#11⟩
  | .crd m d a p => some ⟨.w, 52#7 ++ m ++ d ++ a ++ 0#10 ++ p⟩
  | .cld m d s n i p => some ⟨.w, 56#7 ++ m ++ d ++ 0#2 ++ s ++ n ++ i ++ 0#5 ++ p⟩
  | .cst m d s n i p => some ⟨.w, 57#7 ++ m ++ d ++ 0#2 ++ s ++ n ++ i ++ 0#5 ++ p⟩
  | .caaddAdd m n i => some ⟨.w, 58#7 ++ m ++ 0#3 ++ n ++ i ++ 0#6⟩
  | .caaddSet m n i => some ⟨.w, 58#7 ++ m ++ 1#3 ++ n ++ i ++ 0#6⟩
  | .cflag m d => some ⟨.w, 64#7 ++ m ++ d ++ 0#16⟩
  | .psetOnes m => some ⟨.w, 65#7 ++ m ++ 0#21⟩
  | .psetZero m => some ⟨.w, 65#7 ++ m ++ 262144#21⟩
  | .psetInv m => some ⟨.w, 65#7 ++ m ++ 524288#21⟩
  | .psetLoad m a => some ⟨.w, 65#7 ++ m ++ 12#5 ++ a ++ 0#11⟩
  | .psetSave m b => some ⟨.w, 65#7 ++ m ++ 512#10 ++ b ++ 0#6⟩
  | .psetAndl m a => some ⟨.w, 65#7 ++ m ++ 20#5 ++ a ++ 0#11⟩
  | .psetOrl m a => some ⟨.w, 65#7 ++ m ++ 24#5 ++ a ++ 0#11⟩
  | .cxfRead m d p => some ⟨.w, 66#7 ++ m ++ d ++ 0#15 ++ p⟩
  | .cxfClear m k p => some ⟨.w, 66#7 ++ m ++ 0#5 ++ k ++ 32#10 ++ p⟩
  | .cxfReadclr m d k p => some ⟨.w, 66#7 ++ m ++ d ++ k ++ 64#10 ++ p⟩
  | .cstatRead m d => some ⟨.w, 67#7 ++ m ++ d ++ 0#16⟩
  | .cstatClear m k => some ⟨.w, 67#7 ++ m ++ 0#8 ++ k ++ 64#11⟩
  | .cstatReadclr m d k => some ⟨.w, 67#7 ++ m ++ d ++ 0#3 ++ k ++ 128#11⟩
  | .cstatTest m k => some ⟨.w, 67#7 ++ m ++ 0#8 ++ k ++ 192#11⟩
  | .mzero m r => some ⟨.w, 72#7 ++ m ++ 0#3 ++ r ++ 0#16⟩
  | .mpush m d a => some ⟨.w, 73#7 ++ m ++ d ++ a ++ 0#11⟩
  | .mshift m a => some ⟨.w, 74#7 ++ m ++ 24#5 ++ a ++ 0#11⟩
  | .macc m k r a b n y p => some ⟨.w, 75#7 ++ m ++ 0#2 ++ k ++ r ++ a ++ b ++ n ++ y ++ p⟩
  | .maccs m k r a b n y p => some ⟨.w, 76#7 ++ m ++ 0#2 ++ k ++ r ++ a ++ b ++ n ++ y ++ p⟩
  | .mdrain m z r a q => some ⟨.w, 77#7 ++ m ++ 0#2 ++ z ++ r ++ a ++ 0#3 ++ q ++ 0#6⟩
  | .mtrOut m z r a q => some ⟨.w, 78#7 ++ m ++ 0#2 ++ z ++ r ++ a ++ 0#3 ++ q ++ 0#6⟩
  | .mtrIn m r a q => some ⟨.w, 78#7 ++ m ++ 2#3 ++ r ++ a ++ 0#3 ++ q ++ 0#6⟩
  | .nope => some ⟨.e, 0#32⟩
  | .larm e h o m => some ⟨.e, 1#6 ++ e ++ h ++ o ++ m⟩
  | .ldis e => some ⟨.e, 2#6 ++ e ++ 0#24⟩
  | .oset o i => some ⟨.e, 49152#20 ++ o ++ i⟩
  | .oinc o i => some ⟨.e, 65536#20 ++ o ++ i⟩
  | .rcflush h => some ⟨.e, 20#8 ++ h ++ 0#12⟩
  | .edrain e h o p c => some ⟨.e, 6#6 ++ e ++ h ++ o ++ p ++ c⟩
  | .epld x p => some ⟨.e, 28#8 ++ x ++ 0#3 ++ p ++ 0#6⟩
  | .estop => some ⟨.epilogue, 0#16 ++ (0#16)⟩
  | .epass => some ⟨.epilogue, 0#16 ++ (4096#16)⟩
  | .eadd i => some ⟨.epilogue, 0#16 ++ 2#4 ++ i⟩
  | .emul i => some ⟨.epilogue, 0#16 ++ 3#4 ++ i⟩
  | .erelu => some ⟨.epilogue, 0#16 ++ (16384#16)⟩
  | .eclmp i => some ⟨.epilogue, 0#16 ++ 10#5 ++ i⟩
  | .ecvt t s => some ⟨.epilogue, 0#16 ++ 6#4 ++ t ++ s ++ 0#7⟩
  | .wavefrontReach _ _ => none
  | .sfDeliver _ _ _ => none
  | .traySumLand _ _ _ => none
  | .flagGroupValid _ => none
  | .scalarResultLand _ => none
  | .loadReturn _ _ => none
  | .recordFetch _ _ => none
  | .feedFetch _ _ => none
  | .drainWrite _ _ => none
  | .epilogueProcess _ => none
  | .copyStart _ _ => none
  | .copyLineLand _ _ => none
  | .remotePostArrive _ _ => none
  | .storeBufferDrain _ => none
  | .pageWalk _ _ _ => none
  | .amoAtomic _ _ => none
  | .trapEntry _ => none
  | .folopResume _ => none
  | .folopEnd _ => none
  | .preemptRequest _ => none
  | .coreSave _ => none
  | .coreRestore _ => none
  | .drainDeadline _ => none
  | .partitionSwap _ _ => none
  | .teamKill _ => none
  | .teamBind _ _ => none
  | .teamRelease _ => none
  | .taskStart _ => none
  | .joinwComplete _ => none
  | .teamEnd _ => none
  | .generatorCut _ => none
  | .schedRegisterServe _ => none
  | .rds _ _ => none
  | .rdx _ _ => none
  | .upg _ _ => none
  | .wbx _ _ _ _ => none
  | .evs _ _ => none
  | .rdio _ => none
  | .wrio _ _ _ => none
  | .ack _ _ => none
  | .inv _ _ => none
  | .invack _ _ => none
  | .rcls _ _ => none
  | .rcli _ _ => none
  | .rclack _ _ _ _ _ => none
  | .fwdio _ _ => none
  | .fwdack _ _ _ _ _ => none
  | .tlbInvalidate _ _ _ => none
  | .tlbInvalidateComplete => none
  | .hostPostedDeliver => none
  | .reward _ _ _ _ _ => none
  | .registrationServe _ => none
  | .popServe _ => none
  | .controlServe _ => none
  | .deadlineExpiry => none
  | .orphanExpiry => none
  | .backwardScan => none
  | .ringAppend _ _ => none
  | .fabricFlit _ => none
  | .doorbellWrite _ _ => none
  | .queueEvent _ => none
  | .launch _ => none
  | .graph _ => none
  | .waitsig _ => none
  | .waitsigPoll _ => none
  | .waitsigTimeout _ => none
  | .signalStore _ => none
  | .signalAdd _ => none
  | .copy _ => none
  | .regionInsert _ => none
  | .regionUpdate _ => none
  | .regionRemove _ => none
  | .regionKill _ => none
  | .packetComplete _ => none
  | .graphKernel _ => none
  | .graphLoop _ => none
  | .graphCond _ => none
  | .graphSignal _ => none
  | .graphEnd _ => none
  | .irqSend _ => none
  | .asidDrained _ => none
  | .asidnew => none
  | .asiddel => none
  | .mapPages => none
  | .unmapPages => none
  | .qnew => none
  | .qctl => none
  | .part => none
  | .attest => none
  | .doorbell => none
  | .islandToA0 _ _ => none
  | .islandToA1 _ _ => none
  | .islandToA2 _ _ => none
  | .islandToRet _ _ => none
  | .islandToOff _ _ => none
  | .powerCommandDone => none
  | .tripClear _ => none
  | .pcapWrite _ => none
  | .budgetLend _ _ _ => none
  | .budgetRepay _ _ _ => none
  | .thermalTrip _ => none
  | .thermalShutdown => none
  | .powerOnReset => none
  | .eccCorrected _ => none
  | .eccUncorrectable _ _ _ _ _ _ => none
  | .counterFlush => none
  | .orderlyPowerOff => none
  | .registerWrite _ _ _ => none
  | .ringOutOfSequence _ => none
  | .pcmdReservedState _ _ => none
  | .suddenLossOfPower => none

/-- A bundle: one instruction for each slot (R31). -/
structure Bundle where
  y : Instr
  s : Instr
  w : Instr
  e : Instr
deriving DecidableEq, Repr

/-- A bundle in which every slot is empty (R39). -/
def Bundle.empty : Bundle := ⟨.nopy 0, .nops, .cnop, .nope⟩

/-- The little-endian bytes of a value (R4). -/
def leBytes : Nat → Nat → List Byte
  | 0, _ => []
  | n + 1, v => BitVec.ofNat 8 v :: leBytes n (v / 256)

/-- The value that little-endian bytes hold (R4). -/
def leNat : List Byte → Nat
  | [] => 0
  | b :: bs => b.toNat + 256 * leNat bs

/-- The S word holds one of the opcodes after which REP is illegal (R37): the branches, TRAP, RETT, RETIRE, SPAWN, JOINW,
SCHCOMMIT, TILENEXT, CVMARK. -/
def noRepeat (sw : Word) : Bool :=
  [0x10, 0x11, 0x12, 0x13, 0x14, 0x15, 0x24, 0x28, 0x29, 0x2A, 0x2B, 0x2C, 0x2D, 0x2E].contains (sw.extractLsb' 26 6).toNat

/-- The S word holds one of the opcodes whose immediate IMX may extend (R36). -/
def takesImx (sw : Word) : Bool := [0x02, 0x03, 0x04, 0x05, 0x08, 0x09].contains (sw.extractLsb' 26 6).toNat

/-- The W word holds MOVI (R36). -/
def holdsMovi (ww : Word) : Bool := (ww.extractLsb' 25 7).toNat == 0x2A

/-- The plain register fields d, a and b of an S word (R37, R45): a field that holds an operation, a condition, a
group code or an immediate, or that must be 0 (the d of an AMO with ret = 0, R49), is no register field. -/
def sRegFields (w : Word) : Bool × Bool × Bool :=
  match (w.extractLsb' 26 6).toNat with
  | 0x01 => (true, true, !(w.extractLsb' 0 11 == 0x16 || w.extractLsb' 0 11 == 0x17))
  | 0x02 | 0x03 | 0x04 | 0x05 | 0x06 | 0x08 | 0x09 => (true, true, false)
  | 0x07 | 0x0A => (true, false, false)
  | 0x0C => (true, true, !(w.extractLsb' 0 5 == 4 || w.getLsbD 4))
  | 0x18 | 0x19 | 0x1A => (true, true, false)
  | 0x1C => (false, true, false)
  | 0x1D => (w.getLsbD 1, true, true)
  | 0x1E => (false, true, true)
  | 0x20 | 0x22 => (true, false, false)
  | 0x21 | 0x23 | 0x31 | 0x33 => (false, true, false)
  | 0x25 => (true, true, true)
  | 0x26 => (true, false, false)
  | 0x27 => (false, true, false)
  | 0x30 | 0x32 => (true, true, false)
  | _ => (false, false, false)

/-- The plain register fields d, a and b of a W word (R37, R54). -/
def wRegFields (w : Word) : Bool × Bool × Bool :=
  match (w.extractLsb' 25 7).toNat with
  | 0x01 | 0x02 | 0x03 | 0x04 | 0x05 | 0x06 | 0x07 | 0x0B => (true, true, true)
  | 0x08 | 0x09 => (true, true, false)
  | 0x0A | 0x1C => (false, true, true)
  | 0x10 | 0x11 | 0x12 | 0x13 | 0x14 | 0x15 | 0x16 | 0x17 | 0x18 | 0x19 | 0x1A | 0x1B | 0x1D | 0x1E =>
    (true, true, true)
  | 0x20 => (true, true, true)
  | 0x21 | 0x22 | 0x23 | 0x24 | 0x25 => (true, true, false)
  | 0x28 | 0x29 | 0x2B | 0x2C | 0x2E => (true, true, false)
  | 0x2A => (true, false, false)
  | 0x2D => (false, true, false)
  | 0x30 | 0x34 => (true, true, false)
  | 0x31 | 0x33 => (false, true, false)
  | 0x32 => (false, true, true)
  | 0x38 | 0x39 => (true, false, false)
  | 0x41 => match (w.extractLsb' 18 3).toNat with
            | 3 | 5 | 6 => (false, true, false)
            | 4 => (false, false, true)
            | _ => (false, false, false)
  | 0x42 => (w.extractLsb' 6 2 == 0 || w.extractLsb' 6 2 == 2, false, false)
  | 0x43 => (w.extractLsb' 6 2 == 0 || w.extractLsb' 6 2 == 2, false, false)
  | 0x49 => (true, true, false)
  | 0x4A => (false, true, false)
  | 0x4B | 0x4C => (false, true, true)
  | 0x4D | 0x4E => (false, true, false)
  | _ => (false, false, false)

/-- The step mask names only plain register fields (R37). -/
def repMaskOk (mask : BitVec 6) (sw ww : Word) : Bool :=
  let (sd, sa, sb) := sRegFields sw
  let (wd, wa, wb) := wRegFields ww
  (!mask.getLsbD 0 || sd) && (!mask.getLsbD 1 || sa) && (!mask.getLsbD 2 || sb) &&
  (!mask.getLsbD 3 || wd) && (!mask.getLsbD 4 || wa) && (!mask.getLsbD 5 || wb)

/-- One five-bit field of a word, stepped by `n` modulo 32, and whether it wrapped past 31 (R37, R128). -/
def stepField (lo n : Nat) (on : Bool) (w : Word × Bool) : Word × Bool :=
  if !on then w
  else
    let f := (w.1.extractLsb' lo 5).toNat + n
    ((w.1 &&& ~~~(BitVec.ofNat 32 (31 <<< lo))) ||| BitVec.ofNat 32 (f % 32 <<< lo), w.2 || decide (31 < f))

/-- A slot's word with the fields that three bits of a step mask name stepped by `n`: d at bit `hi`, a and b below it. -/
def stepWord (hi n : Nat) (m : BitVec 3) (w : Word) : Word × Bool :=
  stepField (hi - 10) n (m.getLsbD 2) (stepField (hi - 5) n (m.getLsbD 1) (stepField hi n (m.getLsbD 0) (w, false)))

/-- The S and W words of repeat `k` of a bundle, with what wrapped (R128); without REP they are the bundle's own. -/
def repeatS (y : Instr) (k : Nat) (sw : Word) : Word × Bool :=
  match y with
  | .rep _ _ m t => stepWord 21 (k * (t.toNat + 1)) (m.extractLsb' 0 3) sw
  | _ => (sw, false)
def repeatW (y : Instr) (k : Nat) (ww : Word) : Word × Bool :=
  match y with
  | .rep _ _ m t => stepWord 16 (k * (t.toNat + 1)) (m.extractLsb' 3 3) ww
  | _ => (ww, false)

/-- A header stands beside words that it may have (R36, R37). -/
def headerOk (y : Instr) (sw ww : Word) : Bool :=
  match y with
  | .imx _ _ => holdsMovi ww || takesImx sw
  | .rep _ _ m _ => !noRepeat sw && repMaskOk m sw ww
  | _ => true

/-- The lowest-numbered slot at fault, its word, and the reason (R59, R61). -/
structure BadSlot where
  slot : Nat
  word : Word
  why : Reject
deriving DecidableEq, Repr

/-- The words of a bundle (R31). -/
structure BundleWords where
  y : Word
  s : Word
  w : Word
  e : Word
deriving DecidableEq, Repr

/-- A stepped word that wrapped is illegal whatever it spells (R37). -/
def decodeStepped (sl : Slot) (w : Word × Bool) : Except Reject Instr := if w.2 then .error .field else decodeSlot sl w.1

/-- Decoding of the four words of repeat `k` of a bundle, lowest slot first (R32, R36, R37, R59, R126, R128).  Of a header
that its bundle may not have the Y slot is at fault, of a RETT that is not alone the S slot (R61).
DESIGN CHOICE (log entry 58): WORD of a step that wraps past 31 holds the field modulo 32. -/
def decodeWords (b : BundleWords) (k : Nat) : Except BadSlot Bundle :=
  match decodeSlot .y b.y with
  | .error r => .error ⟨0, b.y, r⟩
  | .ok y =>
    let sw := repeatS y k b.s
    let ww := repeatW y k b.w
    if !headerOk y b.s b.w then .error ⟨0, b.y, .bundle⟩
    else
      match decodeStepped .s sw with
      | .error r => .error ⟨1, sw.1, r⟩
      | .ok s =>
        if s == .rett && !(y == .nopy 0 && b.w == 0 && b.e == 0) then .error ⟨1, sw.1, .bundle⟩
        else
          match decodeStepped .w ww with
          | .error r => .error ⟨2, ww.1, r⟩
          | .ok w =>
            match decodeSlot .e b.e with
            | .error r => .error ⟨3, b.e, r⟩
            | .ok e => .ok ⟨y, s, w, e⟩

/-- The four words of the sixteen bytes of a bundle, slot 0 at the lowest address (R4, R31). -/
def wordsOfBytes (bs : List Byte) : BundleWords :=
  let at4 (n : Nat) : Word := BitVec.ofNat 32 (leNat ((bs.drop n).take 4))
  ⟨at4 0, at4 4, at4 8, at4 12⟩

def bytesOfWords (b : BundleWords) : List Byte :=
  leBytes 4 b.y.toNat ++ leBytes 4 b.s.toNat ++ leBytes 4 b.w.toNat ++ leBytes 4 b.e.toNat

def decodeBytes (bs : List Byte) (k : Nat) : Except BadSlot Bundle := decodeWords (wordsOfBytes bs) k

/-- Bits of a word that its row of the opcode table fixes; NOPY, whose words are zero but for a stall count, gives way. -/
def Instr.fixedBits : Instr → Nat
  | .nopy .. => 3
  | .imx .. => 4
  | .addi .. | .andi .. | .ori .. | .xori .. | .slti .. | .sltiu .. | .br .. | .bl .. | .bc .. | .bef .. | .ld ..
  | .ldu .. | .st .. | .larm .. | .edrain .. => 6
  | .fadd .. | .fsub .. | .fmul .. | .ffma .. | .ffms .. | .fmin .. | .fmax .. | .fcmp .. | .iadd .. | .isub ..
  | .imul .. | .imac .. | .qmul .. | .qmac .. | .wAnd .. | .wOr .. | .wXor .. | .wShl .. | .wShr .. | .wSar ..
  | .icmp .. | .imin .. | .imax .. | .fdiv .. | .cvt .. | .cvtsr .. => 7
  | .kwait .. | .kset .. | .movi .. => 8
  | .kpost .. | .cscanAdd .. | .cscanMax .. | .cscanMin .. | .cscanOr .. | .macc .. | .maccs .. => 9
  | .barr .. | .lui .. | .lis .. | .amoAdd .. | .amoAnd .. | .amoOr .. | .amoXor .. | .amoMin .. | .amoMax ..
  | .amoMinu .. | .amoMaxu .. | .amoSwap .. | .amoIncw .. | .efrd .. => 11
  | .dly .. | .rep .. | .amoCas .. | .amoFaddb .. | .amoFaddBf16 .. | .fabs .. | .fneg .. | .sel .. | .fsqrt ..
  | .frcp .. | .frsq .. | .fexp2 .. | .flog2 .. | .lane .. => 12
  | .bexp .. | .cacheWb .. | .cacheInv .. | .cacheWbinv .. | .cacheEvict .. | .amoFaddF32 .. => 13
  | .shi .. | .cld .. | .cst .. => 14
  | .ctlrd .. | .ctlwr .. | .awin .. => 15
  | .fpuFadd .. | .fpuFsub .. | .fpuFmul .. | .fpuFdiv .. | .fpuFmin .. | .fpuFmax .. | .fpuFeq .. | .fpuFlt ..
  | .fpuFle .. | .fpuFfma .. | .trap .. | .caaddAdd .. | .caaddSet .. => 16
  | .cinj .. | .mpush .. | .mdrain .. | .mtrOut .. => 18
  | .rjctl .. | .mtrIn .. => 19
  | .oset .. | .oinc .. | .rcflush .. => 20
  | .fpuFsqrt .. | .cstatReadclr .. => 21
  | .aluClz .. | .aluPopc .. | .fpuCvtS2d .. | .fpuCvtD2s .. | .fpuCvtS2i .. | .fpuCvtI2s .. | .fpuCvtD2i ..
  | .fpuCvtI2d .. | .spclr .. | .schrd .. | .schwr .. | .spawn .. | .rjreg .. | .rjpop .. | .cxfRead ..
  | .cxfClear .. => 22
  | .joinw .. | .srand .. | .cwr .. | .cflag .. | .psetLoad .. | .psetSave .. | .psetAndl .. | .psetOrl ..
  | .cstatRead .. | .mshift .. => 23
  | .lwait .. | .xtgt .. | .cstatClear .. | .cstatTest .. | .mzero .. => 26
  | .jr .. | .jlr .. | .schcommit .. | .cvmark .. | .rjpost .. => 27
  | .wquiet .. | .tilenext .. | .psetOnes .. | .psetZero .. | .psetInv .. => 28
  | .fence .. => 29
  | .ldis .. => 30
  | .nops .. | .rett .. | .retire .. | .cnop .. | .nope .. => 32
  | _ => 17

/-- The slot of a lone table word (DESIGN CHOICE, log entry 2): the four slots share one space of words, so a word alone does not say
its slot.  Of the slots that decode it, the one whose row fixes most bits; between equals S, W, E, Y in this order. -/
def tableSlot (w : Word) : Option Slot :=
  ([Slot.s, .w, .e, .y].foldl (fun (b : Option (Nat × Slot)) sl =>
    match decodeSlot sl w with
    | .error _ => b
    | .ok i =>
      match b with
      | none => some (i.fixedBits, sl)
      | some c => if c.1 < i.fixedBits then some (i.fixedBits, sl) else b) none).map (·.2)

/-- A lone word of a slot in an otherwise empty bundle.  IMX is legal only beside an instruction that it extends
(R36): it is given ADDI G0 := G0 + 0, whose result is discarded. -/
def loneWords (sl : Slot) (w : Word) : BundleWords :=
  match sl with
  | .y => ⟨w, if w.extractLsb' 31 1 == 1 && w.extractLsb' 24 3 == 0 then 0x08000000 else 0, 0, 0⟩
  | .s => ⟨0, w, 0, 0⟩
  | .w => ⟨0, 0, w, 0⟩
  | .e => ⟨0, 0, 0, w⟩
  | .epilogue => ⟨0, 0, 0, 0⟩

def Bundle.at (b : Bundle) : Slot → Instr
  | .y => b.y
  | .s => b.s
  | .w => b.w
  | .e => b.e
  | .epilogue => .nope

/-- The instruction this decoder reads from a table word: a 16-bit word is an epilogue word, a 32-bit word is laid
out as its slot's four bytes in a bundle's sixteen, and the bundle is decoded. -/
def decodeTableWord (nbits w : Nat) : Option Instr :=
  if nbits = 16 then
    match decodeSlot .epilogue (BitVec.ofNat 32 (leNat (leBytes 2 w))) with
    | .ok i => some i
    | .error _ => none
  else if nbits = 32 then
    match tableSlot (BitVec.ofNat 32 w) with
    | none => none
    | some sl =>
      match decodeBytes (bytesOfWords (loneWords sl (BitVec.ofNat 32 w))) 0 with
      | .ok b => some (b.at sl)
      | .error _ => none
  else none

end Sys2Proof
end

