-- ==== Sys2Proof/Machine/Flags.lean ====
section
/-! DEFINITION. Number formats, rounding, and every flag computation of the spec (R89, R93, R111, R150 to R162,
R167, R168, R176 to R178).

A floating-point element is its raw bits, a `Nat` below 2^bits.  A finite value is the exact real m·2^e (`Dyad`);
a quotient is rounded from its exact numerator and denominator.  Flags are the five bits of R103's order. -/

namespace Sys2Proof

/-- The five XF flags, in the bit order of R103. -/
abbrev Flags5 := BitVec 5
def flagNX : Flags5 := 1
def flagUF : Flags5 := 2
def flagOF : Flags5 := 4
def flagDZ : Flags5 := 8
def flagNV : Flags5 := 16

/-- FRM.MODE (R120). -/
inductive RMode where
  | rne | rtz | rdn | rup
deriving DecidableEq, Repr

def RMode.ofBits (b : BitVec 2) : RMode :=
  if b = 0 then .rne else if b = 1 then .rtz else if b = 2 then .rdn else .rup

/-- How a format encodes infinities and NaNs (R150). -/
inductive Special where
  /-- the all-ones exponent holds infinities and NaNs -/
  | ieee
  /-- E4M3: the one magnitude 0x7F is a NaN, no infinity -/
  | nanOnly
  /-- E2M1: neither -/
  | none
deriving DecidableEq, Repr

/-- A floating-point format (R150). -/
structure Fmt where
  bits : Nat
  mant : Nat
  bias : Nat
  /-- the magnitude bits of the largest finite value -/
  maxMag : Nat
  special : Special
deriving DecidableEq, Repr

def fp32 : Fmt := ⟨32, 23, 127, 0x7F7FFFFF, .ieee⟩
def bf16 : Fmt := ⟨16, 7, 127, 0x7F7F, .ieee⟩
def fp16 : Fmt := ⟨16, 10, 15, 0x7BFF, .ieee⟩
def e4m3 : Fmt := ⟨8, 3, 7, 0x7E, .nanOnly⟩
def e5m2 : Fmt := ⟨8, 2, 15, 0x7B, .ieee⟩
def e2m1 : Fmt := ⟨4, 1, 1, 0x7, .none⟩
/-- FP64, the .D format of the scalar FPU (R111). -/
def fp64 : Fmt := ⟨64, 52, 1023, 0x7FEFFFFFFFFFFFFF, .ieee⟩

namespace Fmt
def expBits (f : Fmt) : Nat := f.bits - 1 - f.mant
def expOnes (f : Fmt) : Nat := 2 ^ f.expBits - 1
def signBit (f : Fmt) : Nat := 2 ^ (f.bits - 1)
/-- EMin: the exponent of the smallest normal value (R156). -/
def emin (f : Fmt) : Int := 1 - (f.bias : Int)
def sign (f : Fmt) (x : Nat) : Bool := f.signBit ≤ x % 2 ^ f.bits
def mag (f : Fmt) (x : Nat) : Nat := x % f.signBit
def expField (f : Fmt) (x : Nat) : Nat := f.mag x / 2 ^ f.mant
def mantField (f : Fmt) (x : Nat) : Nat := x % 2 ^ f.mant
def isNaN (f : Fmt) (x : Nat) : Bool :=
  match f.special with
  | .ieee => f.expField x = f.expOnes && f.mantField x ≠ 0
  | .nanOnly => f.mag x = f.signBit - 1
  | .none => false
def isInf (f : Fmt) (x : Nat) : Bool :=
  match f.special with
  | .ieee => f.expField x = f.expOnes && f.mantField x = 0
  | _ => false
/-- Signalling: the top mantissa bit of a NaN is 0 (R151); E4M3 has none. -/
def isSNaN (f : Fmt) (x : Nat) : Bool :=
  f.special == .ieee && f.isNaN x && f.mantField x < 2 ^ (f.mant - 1)
def isZero (f : Fmt) (x : Nat) : Bool := f.mag x = 0
/-- Set the quiet bit, keep every other bit (R151). -/
def quiet (f : Fmt) (x : Nat) : Nat := if f.isSNaN x then x + 2 ^ (f.mant - 1) else x
/-- The canonical quiet NaN (R151, R111). -/
def canonNaN (f : Fmt) : Nat :=
  match f.special with
  | .ieee => f.expOnes * 2 ^ f.mant + 2 ^ (f.mant - 1)
  | .nanOnly => f.signBit - 1
  | .none => f.maxMag
def withSign (f : Fmt) (s : Bool) (m : Nat) : Nat := if s then f.signBit + m else m
/-- An infinity; in a format without one, the largest finite value (R157). -/
def infBits (f : Fmt) (s : Bool) : Nat :=
  match f.special with
  | .ieee => f.withSign s (f.expOnes * 2 ^ f.mant)
  | _ => f.withSign s f.maxMag
end Fmt

/-- The exact real m·2^e. -/
structure Dyad where
  m : Int
  e : Int
deriving DecidableEq, Repr

namespace Dyad
def zero : Dyad := ⟨0, 0⟩
def pow2 (n : Int) : Nat := 2 ^ n.toNat
/-- The mantissas of two reals over their common lower exponent. -/
def align (a b : Dyad) : Int × Int × Int :=
  let e := min a.e b.e
  (a.m * pow2 (a.e - e), b.m * pow2 (b.e - e), e)
def add (a b : Dyad) : Dyad := let (x, y, e) := align a b; ⟨x + y, e⟩
def neg (a : Dyad) : Dyad := ⟨-a.m, a.e⟩
def mul (a b : Dyad) : Dyad := ⟨a.m * b.m, a.e + b.e⟩
def lt (a b : Dyad) : Bool := let (x, y, _) := align a b; x < y
def le (a b : Dyad) : Bool := let (x, y, _) := align a b; x ≤ y
def beq (a b : Dyad) : Bool := let (x, y, _) := align a b; x = y
/-- The real as numerator over denominator, without its sign. -/
def absNum (a : Dyad) : Nat := a.m.natAbs * pow2 a.e
def absDen (a : Dyad) : Nat := pow2 (-a.e)
end Dyad

/-- The exact value of a finite element (R150). -/
def Fmt.value (f : Fmt) (x : Nat) : Dyad :=
  let e := f.expField x
  let m := f.mantField x
  let mm : Nat := if e = 0 then m else 2 ^ f.mant + m
  let ee : Int := (if e = 0 then 1 else (e : Int)) - f.bias - f.mant
  ⟨if f.sign x then -(mm : Int) else mm, ee⟩

/-- Floor of log2 of the positive rational num/den. -/
def floorLog2 (num den : Nat) : Int :=
  let k : Int := (Nat.log2 num : Int) - Nat.log2 den
  if num * Dyad.pow2 (-k) < den * Dyad.pow2 k then k - 1 else k

/-- num/den divided by 2^q, as a rational. -/
def scaleDown (num den : Nat) (q : Int) : Nat × Nat := (num * Dyad.pow2 (-q), den * Dyad.pow2 q)

/-- The integer that a nonnegative rational N/D rounds to in a mode, for a value of sign `s` (R156). -/
def roundNat (mode : RMode) (s : Bool) (num den : Nat) : Nat :=
  let n := num / den
  let r := num % den
  match mode with
  | .rne => if 2 * r < den then n else if den < 2 * r then n + 1 else if n % 2 = 0 then n else n + 1
  | .rtz => n
  | .rdn => if s && r ≠ 0 then n + 1 else n
  | .rup => if !s && r ≠ 0 then n + 1 else n

/-- OverflowResult (R157). -/
def overflowResult (f : Fmt) (mode : RMode) (s : Bool) : Nat :=
  match f.special with
  | .ieee =>
    match mode, s with
    | .rne, _ => f.infBits s
    | .rtz, _ => f.withSign s f.maxMag
    | .rdn, false => f.withSign false f.maxMag
    | .rdn, true => f.infBits true
    | .rup, false => f.infBits false
    | .rup, true => f.withSign true f.maxMag
  | _ => f.withSign s f.maxMag

/-- The magnitude bits of n·2^q, where q is the exponent of one unit in the last place. -/
def packMag (f : Fmt) (n : Nat) (q : Int) : Nat :=
  if n < 2 ^ f.mant then n
  else (q + f.mant - f.emin + 1).toNat * 2 ^ f.mant + (n - 2 ^ f.mant)

/-- A nonzero real is tiny: rounded in the same mode to mant+1 significant bits with no lower bound on the
exponent, its magnitude lies below 2^EMin (R156). -/
def isTiny (f : Fmt) (mode : RMode) (s : Bool) (num den : Nat) : Bool :=
  let k := floorLog2 num den
  if f.emin ≤ k then false else
  let q := k - f.mant
  let (n, d) := scaleDown num den q
  let r := roundNat mode s n d
  !(f.emin ≤ k + 1 && 2 ^ (f.mant + 1) ≤ r)

/-- RoundToFormat (R156) of the real (-1)^s · num/den, with the flags that rounding raises.  Zero is the caller's. -/
def roundRat (f : Fmt) (mode : RMode) (s : Bool) (num den : Nat) : Nat × Flags5 :=
  if num = 0 then (f.withSign s 0, 0) else
  let q := max (floorLog2 num den) f.emin - f.mant
  let (n, d) := scaleDown num den q
  let r := roundNat mode s n d
  let m := packMag f r q
  if f.maxMag < m then (overflowResult f mode s, flagOF ||| flagNX)
  else
    let inexact := n % d ≠ 0
    let fl : Flags5 := if inexact then
        (if isTiny f mode s num den then flagUF ||| flagNX else flagNX) else 0
    (f.withSign s m, fl)

/-- RoundToFormat of an exact real; an exact zero gets the sign `zs`. -/
def roundDyad (f : Fmt) (mode : RMode) (zs : Bool) (x : Dyad) : Nat × Flags5 :=
  if x.m = 0 then (f.withSign zs 0, 0)
  else roundRat f mode (x.m < 0) x.absNum x.absDen

/-- The sign of an exact zero sum of values that are not zeros of one sign (R89). -/
def zeroSumSign (mode : RMode) : Bool := mode == .rdn

/-- RoundStochastic (R162), with the flags of R156 and tininess judged on the result. -/
def roundStochastic (f : Fmt) (s : Bool) (num den rnd : Nat) : Nat × Flags5 :=
  if num = 0 then (f.withSign s 0, 0) else
  let q := max (floorLog2 num den) f.emin - f.mant
  let (n, d) := scaleDown num den q
  let r := (n * 65536 + rnd * d) / (d * 65536)
  let m := packMag f r q
  if f.maxMag < m then (overflowResult f .rne s, flagOF ||| flagNX)
  else
    let inexact := n % d ≠ 0
    let fl : Flags5 := if inexact then (if m < 2 ^ f.mant then flagUF ||| flagNX else flagNX) else 0
    (f.withSign s m, fl)

/-- The first NaN of a list of operands, quieted, and NV when any of them signals (R89). -/
def firstNaN (f : Fmt) (xs : List Nat) : Option (Nat × Flags5) :=
  match xs.find? f.isNaN with
  | none => none
  | some x => some (f.quiet x, if xs.any f.isSNaN then flagNV else 0)

/-- a + b (R89). -/
def fAdd (f : Fmt) (mode : RMode) (a b : Nat) : Nat × Flags5 :=
  match firstNaN f [a, b] with
  | some r => r
  | none =>
    if f.isInf a then
      if f.isInf b && f.sign a != f.sign b then (f.canonNaN, flagNV) else (a, 0)
    else if f.isInf b then (b, 0)
    else
      let zs := if f.isZero a && f.isZero b && f.sign a == f.sign b then f.sign a else zeroSumSign mode
      roundDyad f mode zs ((f.value a).add (f.value b))

/-- The element with its sign bit inverted; a NaN is not quieted (R89). -/
def fNeg (f : Fmt) (a : Nat) : Nat := if f.sign a then a % 2 ^ f.bits - f.signBit else a % 2 ^ f.bits + f.signBit

/-- a - b: a sum with b's sign inverted, a NaN operand kept as it is (R89). -/
def fSub (f : Fmt) (mode : RMode) (a b : Nat) : Nat × Flags5 :=
  match firstNaN f [a, b] with
  | some r => r
  | none => fAdd f mode a (fNeg f b)

/-- a · b (R89). -/
def fMul (f : Fmt) (mode : RMode) (a b : Nat) : Nat × Flags5 :=
  match firstNaN f [a, b] with
  | some r => r
  | none =>
    let s := f.sign a != f.sign b
    if f.isInf a || f.isInf b then
      if f.isZero a || f.isZero b then (f.canonNaN, flagNV) else (f.infBits s, 0)
    else roundDyad f mode s ((f.value a).mul (f.value b))

/-- a · b + d with one rounding; `neg` negates the product, so that d - a · b is formed (R88, R89). -/
def fFma (f : Fmt) (mode : RMode) (neg : Bool) (a b d : Nat) : Nat × Flags5 :=
  let zeroTimesInf := (f.isInf a && f.isZero b) || (f.isZero a && f.isInf b)
  match firstNaN f [a, b, d] with
  | some (v, g) => (v, if zeroTimesInf then g ||| flagNV else g)
  | none =>
    let sp := (f.sign a != f.sign b) != neg
    if zeroTimesInf then (f.canonNaN, flagNV)
    else if f.isInf a || f.isInf b then
      if f.isInf d && f.sign d != sp then (f.canonNaN, flagNV) else (f.infBits sp, 0)
    else if f.isInf d then (d, 0)
    else
      let p := (f.value a).mul (f.value b)
      let p := if neg then p.neg else p
      let pz := f.isZero a || f.isZero b
      let zs := if pz && f.isZero d && sp == f.sign d then sp else zeroSumSign mode
      roundDyad f mode zs (p.add (f.value d))

/-- The order of two elements that are no NaN, -0 below +0 when `zeros` is set. -/
def fLt (f : Fmt) (zeros : Bool) (a b : Nat) : Bool :=
  if f.isZero a && f.isZero b then zeros && f.sign a && !f.sign b
  else if f.isInf a then f.sign a && !(f.isInf b && f.sign b)
  else if f.isInf b then !f.sign b
  else (f.value a).lt (f.value b)

def fEq (f : Fmt) (a b : Nat) : Bool := (f.isZero a && f.isZero b) || f.mag a = f.mag b && f.sign a == f.sign b

/-- The lesser of a and b (R89). -/
def fMin (f : Fmt) (a b : Nat) : Nat × Flags5 :=
  match firstNaN f [a, b] with
  | some r => r
  | none => (if fLt f true b a then b else a, 0)

/-- The greater of a and b (R89). -/
def fMax (f : Fmt) (a b : Nat) : Nat × Flags5 :=
  match firstNaN f [a, b] with
  | some r => r
  | none => (if fLt f true a b then b else a, 0)

/-- FCMP's conditions and NV (R90). -/
def fCompare (f : Fmt) (cond a b : Nat) : Bool × Flags5 :=
  let un := f.isNaN a || f.isNaN b
  let sn := f.isSNaN a || f.isSNaN b
  let lt := !un && fLt f false a b
  let gt := !un && fLt f false b a
  let eq := !un && fEq f a b
  let quietNV := cond = 1 || cond = 2 || cond = 3 || cond = 4
  let fl : Flags5 := if sn || (quietNV && un) then flagNV else 0
  let t := match cond with
    | 0 => eq
    | 1 => lt
    | 2 => lt || eq
    | 3 => gt
    | 4 => gt || eq
    | 5 => un || !eq
    | 6 => un
    | _ => !un
  (t, fl)

/-- a / b, correctly rounded (R148, R168, R111); an infinity by a finite value or a zero, and a zero by an infinity, as IEEE 754
has them (DEDUCED, log entry 80). -/
def fDiv (f : Fmt) (mode : RMode) (a b : Nat) : Nat × Flags5 :=
  match firstNaN f [a, b] with
  | some r => r
  | none =>
    let s := f.sign a != f.sign b
    if f.isInf a then if f.isInf b then (f.canonNaN, flagNV) else (f.infBits s, 0)
    else if f.isInf b then (f.withSign s 0, 0)
    else if f.isZero b then if f.isZero a then (f.canonNaN, flagNV) else (f.infBits s, flagDZ)
    else if f.isZero a then (f.withSign s 0, 0)
    else
      let x := f.value a
      let y := f.value b
      roundRat f mode s (x.absNum * y.absDen) (x.absDen * y.absNum)

/-- The floor of a square root, from its bit n-1 down. -/
def isqrtFrom (x : Nat) : Nat → Nat → Nat
  | 0, r => r
  | n + 1, r => isqrtFrom x n (if (r + 2 ^ n) * (r + 2 ^ n) ≤ x then r + 2 ^ n else r)
def isqrt (x : Nat) : Nat := isqrtFrom x (Nat.log2 x / 2 + 1) 0

/-- The square root of the rational num/den as a rational that every rounding to at most 60 significant bits treats
alike: 2^-k·(floor + 1/2 when inexact), with k chosen so that the floor has at least 64 bits. -/
def sqrtRat (num den : Nat) : Nat × Nat :=
  let k := 128 + Nat.log2 den
  let x := num * 2 ^ (2 * k) / den
  let r := isqrt x
  let exact := r * r * den = num * 2 ^ (2 * k)
  (2 * r + (if exact then 0 else 1), 2 ^ (k + 1))

/-- The square root, correctly rounded (R148, R168, R111). -/
def fSqrt (f : Fmt) (mode : RMode) (a : Nat) : Nat × Flags5 :=
  match firstNaN f [a] with
  | some r => r
  | none =>
    if f.isZero a then (a, 0)
    else if f.sign a then (f.canonNaN, flagNV)
    else if f.isInf a then (a, 0)
    else
      let x := f.value a
      let (n, d) := sqrtRat x.absNum x.absDen
      roundRat f mode false n d

/-! ### Special functions (R165 to R168) -/

/-- A fixed-point 2^(1/2^(i+1)) for i = 0, 1, …, by repeated square roots, with `p` fraction bits. -/
def halfPowers (p : Nat) : Nat → Nat → List Nat
  | 0, _ => []
  | n + 1, x => let r := isqrt (x * 2 ^ p); r :: halfPowers p n r

/-- The product of the half powers that the bits of a fraction select, most significant bit first. -/
def pickPowers (p : Nat) : List Nat → List Bool → Nat → Nat
  | w :: ws, b :: bs, acc => pickPowers p ws bs (if b then acc * w / 2 ^ p else acc)
  | _, _, acc => acc

/-- 2^a for a finite nonzero a, as (sign of the power's deviation is kept) a rational close enough for rounding;
`none` when it is an exact power of two (a is an integer), with that exponent. -/
def exp2Rat (a : Dyad) : Int ⊕ (Nat × Nat × Int) :=
  let num := a.m
  -- integer part and a 192-bit fraction
  let p := 192
  let scaled : Int := if 0 ≤ a.e then num * 2 ^ (a.e.toNat + p) else (num * 2 ^ p) / (2 ^ (-a.e).toNat : Int)
  let lost : Bool := a.e < 0 && (num * 2 ^ p) % (2 ^ (-a.e).toNat : Int) ≠ 0
  let ip := scaled / (2 ^ p : Int)
  let fr := (scaled % (2 ^ p : Int)).toNat
  if fr = 0 && !lost then .inl ip
  else
    let bits := (List.range 160).map fun i => fr.testBit (p - 1 - i)
    let v := pickPowers 256 (halfPowers 256 160 (2 * 2 ^ 256)) bits (2 ^ 256)
    -- v lies below the true value by far less than 2^-100, and never on a representable value's boundary
    .inr (2 * v + 1, 2 ^ 257, ip)

/-- The binary digits of log2 of x (x a fixed-point value in [1,2) with `p` fraction bits). -/
def log2Bits (p : Nat) : Nat → Nat → Nat → Nat
  | 0, _, acc => acc
  | n + 1, x, acc =>
    let y := x * x / 2 ^ p
    if 2 ^ (p + 1) ≤ y then log2Bits p n (y / 2) (2 * acc + 1) else log2Bits p n y (2 * acc)

/-- log2 of a positive rational, as an integer or as (negative?, numerator, denominator). -/
def log2Rat (num den : Nat) : Int ⊕ (Bool × Nat × Nat) :=
  let k := floorLog2 num den
  let (n, d) := scaleDown num den k
  if n = d then .inl k
  else
    let p := 512
    let frac := log2Bits p 160 (n * 2 ^ p / d) 0
    -- the exact logarithm is k + (frac + θ)/2^160 with 0 < θ < 1, and is irrational
    let t : Int := (2 * ((k * 2 ^ 160 : Int) + frac)) + 1
    .inr (t < 0, t.natAbs, 2 ^ 161)

/-- The three special functions whose FP32 results R167 leaves one unit of choice. -/
inductive Approx where
  | rsq | exp2 | log2
deriving DecidableEq, Repr

/-- The value one unit in the last place from `v` on the side of larger (`up`) or smaller reals. -/
def neighbour (f : Fmt) (v : Nat) (up : Bool) : Nat :=
  let s := f.sign v
  let m := f.mag v
  if m = 0 then f.withSign (!up) 1
  else if s == up then f.withSign s (m - 1) else f.withSign s (m + 1)

/-- Rounding of an exact nonzero real under R167: correctly rounded, or, for FP32 and where `other` holds, the
representable value on the other side of the exact one.  An overflow always gives OverflowResult (R157), and an infinity
is no value one unit in the last place away. -/
def roundApprox (f : Fmt) (mode : RMode) (s : Bool) (num den : Nat) (other : Bool) : Nat × Flags5 :=
  let (v, fl) := roundRat f mode s num den
  if !other || f != fp32 || fl &&& flagOF != 0 || fl &&& flagNX == 0 then (v, fl)
  else
    let x := f.value v
    -- is the exact real larger than v?
    let lhs : Int := (if s then -(num : Int) else num) * x.absDen
    let rhs : Int := (if x.m < 0 then -(x.absNum : Int) else x.absNum) * den
    let w := neighbour f v (rhs < lhs)
    if f.isInf w then (v, fl) else (w, if f.mag w < 2 ^ f.mant then flagUF ||| flagNX else flagNX)

/-- 1 / a (R168). -/
def fRcp (f : Fmt) (mode : RMode) (a : Nat) : Nat × Flags5 :=
  match firstNaN f [a] with
  | some r => r
  | none =>
    let s := f.sign a
    if f.isInf a then (f.withSign s 0, 0)
    else if f.isZero a then (f.infBits s, flagDZ)
    else let x := f.value a; roundRat f mode s x.absDen x.absNum

/-- 1 / √a (R168). -/
def fRsq (f : Fmt) (mode : RMode) (other : Bool) (a : Nat) : Nat × Flags5 :=
  match firstNaN f [a] with
  | some r => r
  | none =>
    let s := f.sign a
    if f.isZero a then (f.infBits s, flagDZ)
    else if s then (f.canonNaN, flagNV)
    else if f.isInf a then (0, 0)
    else
      let x := f.value a
      let (n, d) := sqrtRat x.absDen x.absNum
      roundApprox f mode false n d other

/-- 2^a (R168). -/
def fExp2 (f : Fmt) (mode : RMode) (other : Bool) (a : Nat) : Nat × Flags5 :=
  match firstNaN f [a] with
  | some r => r
  | none =>
    if f.isInf a then (if f.sign a then 0 else a, 0)
    else if f.isZero a then roundRat f mode false 1 1
    else
      let x := f.value a
      -- beyond ±2048 every format of the unit overflows or underflows
      let x : Dyad := if (Dyad.mk 2048 0).lt x then ⟨2048, 0⟩ else if x.lt ⟨-2048, 0⟩ then ⟨-2048, 0⟩ else x
      match exp2Rat x with
      | .inl k => roundRat f mode false (Dyad.pow2 k) (Dyad.pow2 (-k))
      | .inr (n, d, k) => roundApprox f mode false (n * Dyad.pow2 k) (d * Dyad.pow2 (-k)) other

/-- log2 a (R168). -/
def fLog2 (f : Fmt) (mode : RMode) (other : Bool) (a : Nat) : Nat × Flags5 :=
  match firstNaN f [a] with
  | some r => r
  | none =>
    if f.isZero a then (f.infBits true, flagDZ)
    else if f.sign a then (f.canonNaN, flagNV)
    else if f.isInf a then (a, 0)
    else
      let x := f.value a
      match log2Rat x.absNum x.absDen with
      | .inl k => if k = 0 then (0, 0) else roundRat f mode (k < 0) k.natAbs 1
      | .inr (s, n, d) => roundApprox f mode s n d other

/-! ### Integers and fixed point (R93, R155) -/

/-- The signed value of the low `w` bits. -/
def sInt (w x : Nat) : Int := if 2 ^ (w - 1) ≤ x % 2 ^ w then (x % 2 ^ w : Nat) - (2 ^ w : Int) else (x % 2 ^ w : Nat)
/-- The low `w` bits of an integer. -/
def lowBits (w : Nat) (x : Int) : Nat := (x % (2 ^ w : Int)).toNat
/-- Saturation to the signed range of `w` bits, with OF (R93). -/
def satInt (w : Nat) (x : Int) : Nat × Flags5 :=
  let hi : Int := 2 ^ (w - 1) - 1
  let lo : Int := -(2 ^ (w - 1))
  if hi < x then (lowBits w hi, flagOF) else if x < lo then (lowBits w lo, flagOF) else (lowBits w x, 0)
/-- RoundHalfUp(n / 2^k): the floor of n/2^k + 1/2 (R93). -/
def roundHalfUp (n : Int) (k : Nat) : Int := (2 * n + 2 ^ k) / (2 ^ (k + 1) : Int)

/-- ICMP's conditions (R94). -/
def iCompare (w cond a b : Nat) : Bool :=
  let x := sInt w a
  let y := sInt w b
  match cond with
  | 0 => a = b
  | 1 => x < y
  | 2 => x ≤ y
  | 3 => y < x
  | 4 => y ≤ x
  | 5 => a ≠ b
  | 6 => a < b
  | 7 => a ≤ b
  | 8 => b < a
  | _ => b ≤ a

/-! ### Conversions (R176 to R178) -/

/-- The element types of R52. -/
inductive Ty where
  | flt (f : Fmt)
  | int (w : Nat)
  | fix (w : Nat)
deriving DecidableEq, Repr

def tyOf (code : Nat) : Ty :=
  match code with
  | 0 => .flt fp32
  | 1 => .flt bf16
  | 2 => .flt fp16
  | 3 => .flt e4m3
  | 4 => .flt e5m2
  | 5 => .flt e2m1
  | 6 => .int 32
  | 7 => .int 16
  | 8 => .int 8
  | 9 => .fix 32
  | _ => .fix 16

def Ty.width : Ty → Nat
  | .flt f => f.bits
  | .int w => w
  | .fix w => w

/-- A NaN carried from one float format to another (R177); E2M1 has none and takes its greatest value (DESIGN CHOICE, log entry
77). -/
def convNaN (src dst : Fmt) (x : Nat) : Nat :=
  let s := src.sign x
  match dst.special with
  | .ieee =>
    let m := src.mantField x
    let m := if dst.mant ≤ src.mant then m / 2 ^ (src.mant - dst.mant) else m * 2 ^ (dst.mant - src.mant)
    let m := if m < 2 ^ (dst.mant - 1) then m + 2 ^ (dst.mant - 1) else m
    dst.withSign s (dst.expOnes * 2 ^ dst.mant + m)
  | .nanOnly => dst.withSign s (dst.signBit - 1)
  | .none => dst.withSign s dst.maxMag

/-- Float to float (R176, R177). -/
def convFF (src dst : Fmt) (mode : RMode) (x : Nat) : Nat × Flags5 :=
  if src.isNaN x then (convNaN src dst x, if src.isSNaN x then flagNV else 0)
  else if src.isInf x then (dst.infBits (src.sign x), if dst.special == .ieee then 0 else flagNV)
  else roundDyad dst mode (src.sign x) (src.value x)

/-- A real rounded to an integer (R176). -/
def roundToInt (mode : RMode) (x : Dyad) : Int :=
  let n := roundNat mode (x.m < 0) x.absNum x.absDen
  if x.m < 0 then -(n : Int) else n

/-- Float to a signed integer of `w` bits: a NaN gives 0, out of range saturates, NV in both cases (R111, R176). -/
def convFI (src : Fmt) (w : Nat) (mode : RMode) (x : Nat) : Nat × Flags5 :=
  if src.isNaN x then (0, flagNV)
  else if src.isInf x then (if src.sign x then 2 ^ (w - 1) else 2 ^ (w - 1) - 1, flagNV)
  else
    let v := src.value x
    let n := roundToInt mode v
    let (r, g) := satInt w n
    (r, if g != 0 then flagNV else if (Dyad.mk n 0).beq v then 0 else flagNX)

/-- Float to Q (R176). -/
def convFQ (src : Fmt) (w : Nat) (mode : RMode) (x : Nat) : Nat × Flags5 :=
  if src.isNaN x then (0, flagNV)
  else if src.isInf x then (if src.sign x then 2 ^ (w - 1) else 2 ^ (w - 1) - 1, flagNV)
  else
    let v := (src.value x).mul ⟨1, (w : Int) - 1⟩
    let n := roundToInt mode v
    let (r, g) := satInt w n
    (r, g ||| (if (Dyad.mk (sInt w r) 0).beq v then 0 else flagNX))

/-- Convert (R176), in a rounding mode: integers and Q types to a float too (DEDUCED, log entry 79). -/
def convert (src dst : Ty) (mode : RMode) (x : Nat) : Nat × Flags5 :=
  match src, dst with
  | .flt f, .flt g => convFF f g mode x
  | .flt f, .int w => convFI f w mode x
  | .flt f, .fix w => convFQ f w mode x
  | .int w, .flt g => let n := sInt w x; roundDyad g mode false ⟨n, 0⟩
  | .fix w, .flt g => let n := sInt w x; roundDyad g mode false ⟨n, 1 - (w : Int)⟩
  | .int w, .int v => satInt v (sInt w x)
  | .fix w, .fix v =>
    if w = v then (x, 0)
    else if v < w then satInt v (roundHalfUp (sInt w x) (w - v))
    else (lowBits v (sInt w x * 2 ^ (v - w)), 0)
  | .int w, .fix v =>
    let n := sInt w x
    if 1 ≤ n then (2 ^ (v - 1) - 1, flagOF)
    else if n = 0 then (0, 0)
    else (2 ^ (v - 1), if n < -1 then flagOF else 0)
  | .fix w, .int v => (lowBits v (roundHalfUp (sInt w x) (w - 1)), 0)

/-- ConvertSR: as float to float, but a finite element is rounded by RoundStochastic (R178). -/
def convertSR (src dst : Fmt) (rnd x : Nat) : Nat × Flags5 :=
  if src.isNaN x || src.isInf x then convFF src dst .rne x
  else let v := src.value x
       if v.m = 0 then (dst.withSign (src.sign x) 0, 0)
       else roundStochastic dst (v.m < 0) v.absNum v.absDen rnd

/-! ### Stochastic-rounding generators (R160, R161, R162) -/

def genStep (x : Word) : Word :=
  let x := x ^^^ (x <<< 13)
  let x := x ^^^ (x >>> 17)
  x ^^^ (x <<< 5)

def genMix (r c : Nat) : Word := BitVec.ofNat 32 ((32 * r + c + 1) * 0x9E3779B9)

def genSeed (s : Word) (r c : Nat) : Word :=
  let x := s ^^^ genMix r c
  if x = 0 then genMix r c else x

/-- The 16 random bits of element i (R162). -/
def genBits (x : Word) (i : Nat) : Nat := (x.rotateLeft ((5 * i) % 32)).toNat % 65536

end Sys2Proof
end

