-- ==== Sys2Proof/Machine/State.lean ====
section
/-! DEFINITION. The whole state of the device: 64 cores with their arrays, sequencers, loaders and caches, the
directory, the scheduler and its teams, the tile generators, the Orangery, the Pavilion with its queues and
graphs, Folop's tables, the power islands and the error counters.  Everything is plain data.

A `Tab` lists only what differs from its default, so a core, cell, barrier or byte that nothing has touched is not
listed.  Physical cores are 0-63; core 16d + 4g + i is core i of cluster g of die d (R2, R237). -/

namespace Sys2Proof.Machine
open Sys2Proof

/-! ### Stops -/

/-- The machine stops. -/
inductive Fault where
  /-- Raised by `step` when the part has no power: nothing moves until power-on reset (R379).  Safe. -/
  | noPower
deriving DecidableEq, Repr

/-- The model gives no meaning. -/
inductive Refusal where
  /-- An arm of `exec` without a meaning.  No arm of this model answers it.  Safe. -/
  | notModelled (mnemonic : String)
deriving DecidableEq, Repr

/-! ### Cells (R12 to R15) -/

/-- 64 data bytes with their 32-byte sidecar. -/
structure FReg where
  data : RegData
  side : RegSide
deriving DecidableEq, Repr

def FReg.zero : FReg := ⟨0, 0⟩

/-- A special-function result in flight in a cell (R166, R170). -/
structure SfEntry where
  /-- the issue cycle of its delivery -/
  due : Nat
  tag : Nat
  bundle : Nat
  d : Nat
  /-- the slices chosen at reach -/
  lanes : Word
  data : RegData
  /-- an XF image: entry j in bits [5j+4:5j] -/
  xf : BitVec 160
  npiv : Bool
  nf : Bool
  trapen : BitVec 7
deriving DecidableEq, Repr

/-- A tray sum in the adder (R189, R195). -/
structure TrayEntry where
  due : Nat
  tag : Nat
  bundle : Nat
  tray : Nat
  /-- the elements it updates -/
  mask : BitVec 64
  data : TrayData
  xf : BitVec 160
  spm : Bool
  nf : Bool
  trapen : BitVec 7
deriving DecidableEq, Repr

/-- One cell (R12). -/
structure CellSt where
  f : Tab FReg
  c : FReg
  /-- T0-T3 as landed -/
  t : Tab TrayData
  /-- T0-T3 as the latest instruction in issue order left them: what a MACC reads through forwarding (R195) -/
  tv : Tab TrayData
  p : Word
  a : Tab Half
  xf : BitVec 160
  sf : Word
  edgeFlag : Bool
  /-- the converter's stochastic-rounding generator -/
  gen : Word
  /-- the cell store's program area, by byte address; what the shadow bank holds (R232) is in `Sched.shadow` -/
  store : Tab Byte
  sfq : List SfEntry
  tq : List TrayEntry
deriving DecidableEq, Repr

/-- A cell at launch (R14, R161); key 32·row + column. -/
def CellSt.reset (key : Nat) : CellSt :=
  { f := [], c := .zero, t := [], tv := [], p := 0, a := [], xf := 0, sf := 0, edgeFlag := false,
    gen := genSeed 0 (key / 32) (key % 32), store := [], sfq := [], tq := [] }

/-! ### The array -/

/-- The wave origin (R17, R18). -/
inductive Origin where
  | nw | ne | sw | se
deriving DecidableEq, Repr

structure Window where
  row0 : Nat
  col0 : Nat
  h : Nat
  w : Nat
  origin : Origin
deriving DecidableEq, Repr

def Window.launch : Window := ⟨0, 0, 32, 32, .nw⟩

/-- The edge-flag group (R24). -/
structure FlagGroup where
  rowAny : Word
  rowAll : Word
  colAny : Word
  colAll : Word
  summary : BitVec 2
deriving DecidableEq, Repr

def FlagGroup.zero : FlagGroup := ⟨0, 0, 0, 0, 0⟩

/-- A CFLAG whose group is not yet valid (R25). -/
structure PendGroup where
  due : Nat
  tag : Nat
  group : FlagGroup
deriving DecidableEq, Repr

/-- The values that one loader presents for one W instruction, by edge position (R139). -/
structure Feed where
  core : Nat
  edge : Nat
  regs : List FReg
deriving DecidableEq, Repr

/-- A drain step that a W instruction owes (R140): which loader, and the capture's number. -/
structure Owed where
  core : Nat
  edge : Nat
  cap : Nat
deriving DecidableEq, Repr

/-- An issued W instruction travelling the window (R18, R21, R121, R226). -/
structure Wave where
  tag : Nat
  instr : Instr
  imx : Option (BitVec 24)
  bundle : Nat
  start : Nat
  /-- the distance that it reaches next -/
  next : Nat
  rows : Word
  cols : Word
  frm : BitVec 2
  trapen : BitVec 7
  win : Window
  feeds : List Feed
  drains : List Owed
  /-- what a CFLAG has gathered so far -/
  acc : FlagGroup
deriving DecidableEq, Repr

/-- A pending deferred fault (R221). -/
structure Deferred where
  cause : Nat
  wavetag : Nat
  info : Dword
  /-- core cycle of the detection -/
  at_ : Nat
deriving DecidableEq, Repr

/-- A checked result that the scoreboard still counts (R41): class (1 F, 2 T), number, issue cycle of readiness. -/
structure Busy where
  cls : Nat
  num : Nat
  due : Nat
deriving DecidableEq, Repr

/-- An array event: a wave reaches its next distance, or leaves the last position of a chain; a special-function result
or a tray sum is due in a cell of a core; a flag group becomes valid; and, behind a chain's links (R28), a follower's cell
changes, its capture is taken, or a fault that it detects is. -/
inductive ArrEv where
  | reach (tag : Nat)
  | leave (tag : Nat)
  | sf (core row col : Nat)
  | tray (core row col : Nat)
  | group
  | capture (core edge cap pos : Nat) (v : FReg)
  | fault (cause bundle tag : Nat) (info : Dword)
  /-- an instruction reaches a follower's cell, or a result of it lands there: what the cell holds from now on, and the bytes that
  its store takes (R28) -/
  | cell (core row col : Nat) (x : CellSt) (bytes : List (Nat × Byte))
deriving DecidableEq, Repr

structure Arr where
  /-- issue cycles: core cycles with the frozen ones left out (R227) -/
  acyc : Nat
  frozen : Bool
  win : Window
  /-- cells by 32·row + column -/
  cells : Tab CellSt
  /-- of a follower behind slow links: what a cell will hold once all that is on its way to it has come (R28) -/
  ahead : Tab CellSt
  /-- issued W instructions that have not reached every cell, oldest first -/
  waves : List Wave
  /-- array events and the issue cycles at which they happen, in order -/
  due : List (Nat × ArrEv)
  group : FlagGroup
  groups : List PendGroup
  busy : List Busy
  /-- issue cycles of the latest special-function instructions (R16) -/
  sfIssued : List Nat
  nextTag : Nat
  /-- (tag, cause) of deferred faults already raised (R221) -/
  raised : List (Nat × Nat)
deriving DecidableEq, Repr

def Arr.reset : Arr :=
  { acyc := 0, frozen := false, win := .launch, cells := [], ahead := [], waves := [], due := [], group := .zero, groups := [],
    busy := [], sfIssued := [], nextTag := 0, raised := [] }

/-! ### The sequencer (R26) -/

structure Sel where
  rows : Word
  cols : Word
deriving DecidableEq, Repr

def Sel.zero : Sel := ⟨0, 0⟩

/-- A barrier (R213). -/
structure Barrier where
  target : Nat
  count : Nat
  pend : Nat
  phase : Bool
deriving DecidableEq, Repr

def Barrier.zero : Barrier := ⟨0, 0, 0, false⟩

/-- A checked scalar result that has not reached its latency (R40, R41). -/
structure ScalarRes where
  due : Nat
  reg : Nat
  value : Dword
  flags : Flags5
deriving DecidableEq, Repr

structure Seq where
  /-- G1-G31 -/
  g : Tab Dword
  /-- M1-M15 -/
  m : Tab Sel
  /-- counting flags K0-K15 -/
  k : Tab Half
  /-- B0-B1023 -/
  bars : Tab Barrier
  /-- offset registers O0-O7 -/
  o : Tab Half
  /-- the bundle that issues next -/
  pc : Nat
  /-- the bundle after the one that is issuing -/
  npc : Nat
  /-- the bundle that issued last: its accesses are the core's latest (R220) -/
  last : Nat
  /-- core cycles -/
  cyc : Nat
  /-- the first cycle in which the next bundle may issue (R32) -/
  readyAt : Nat
  /-- the Y-slot header of the bundle that is issuing: IMX payload, XTGT position, REP count -/
  imx : Option (BitVec 24)
  xtgt : Option (BitVec 2)
  rep : Option Nat
  /-- the repeat that issues next (R128) -/
  repK : Nat
  /-- pending scalar results, in order of issue -/
  pend : List ScalarRes
  /-- registers whose unchecked result is not present (R40), loads and atomics apart -/
  unchk : List Nat
deriving DecidableEq, Repr

def Seq.reset : Seq :=
  { g := [], m := [], k := [], bars := [], o := [], pc := 0, npc := 0, last := 0, cyc := 0, readyAt := 0, imx := none,
    xtgt := none, rep := none, repK := 0, pend := [], unchk := [] }

/-- The control registers (R119, R120). -/
structure Ctl where
  frm : BitVec 2
  chk : Bool
  trapen : BitVec 7
  sxf : Flags5
  repcnt : BitVec 7
  cause : BitVec 8
  trappc : BitVec 15
  info : Dword
  wavetag : BitVec 14
  tvec : BitVec 14
  inh : Bool
  asid : BitVec 12
  rcptr : Dword
  skew : Tab (BitVec 5)
  cpwp : Tab Dword
deriving DecidableEq, Repr

def Ctl.reset : Ctl :=
  { frm := 0, chk := false, trapen := 0, sxf := 0, repcnt := 0, cause := 0, trappc := 0, info := 0, wavetag := 0,
    tvec := 0, inh := false, asid := 0, rcptr := 0, skew := [], cpwp := [] }

/-! ### Loaders and the epilogue unit (R130, R196) -/

/-- The 192 bytes of a tensor layout record (R131). -/
abbrev RecBits := BitVec 1536

/-- An armed loader's binding (R130, R144, R201). -/
structure Binding where
  drain : Bool
  unfold : Bool
  /-- effective order: true is column (R135) -/
  column : Bool
  recd : RecBits
  handle : Nat
  o : Nat
  q0 : Nat
  e0 : Nat
  /-- steps taken -/
  taken : Nat
  /-- W instructions still bound -/
  left : Nat
  prog : Option (List Half)
deriving DecidableEq, Repr

/-- What a feed fetch gives at one edge position: the register, or the deferred loader fault's KIND and line. -/
inductive FetchRes where
  | reg (r : FReg)
  | bad (kind : Nat) (line : Nat)
deriving DecidableEq, Repr

/-- A fetched feed step: the value for each of the 32 edge positions. -/
structure FetchedStep where
  q : Nat
  vals : List FetchRes
deriving DecidableEq, Repr

/-- A captured drain step (R140). -/
structure Capture where
  id : Nat
  /-- capture order across the core's edges -/
  order : Nat
  bundle : Nat
  bind : Binding
  q : Nat
  len : Nat
  /-- the captured registers by edge position -/
  regs : Tab FReg
  /-- positions that have been captured -/
  got : Nat
  /-- positions that the epilogue unit has processed, with its output values and types -/
  done : Nat
  /-- the next position to write -/
  wpos : Nat
deriving DecidableEq, Repr

structure Loader where
  bind : Option Binding
  fetched : List FetchedStep
  caps : List Capture
deriving DecidableEq, Repr

def Loader.reset : Loader := ⟨none, [], []⟩

/-- The epilogue unit at work on one captured register (R196). -/
structure EpiRun where
  edge : Nat
  cap : Nat
  pos : Nat
  words : List Half
  /-- the 16 working values, as raw elements of the working type -/
  vals : List Nat
  /-- the working type, a ty code -/
  ty : Nat
  fmt : Nat
deriving DecidableEq, Repr

structure EdgeSt where
  loaders : Tab Loader
  /-- the record cache, most recently used first (R133) -/
  recs : List (Nat × RecBits)
  /-- program slots 0-7; an empty slot holds no word -/
  progs : Tab (List Half)
  egen : Word
  epi : Option EpiRun
  /-- captured registers that await the epilogue unit, in capture order (R202): edge, capture, position -/
  epq : List (Nat × Nat × Nat)
  nextCap : Nat
deriving DecidableEq, Repr

def EdgeSt.reset : EdgeSt := ⟨[], [], [], 0, none, [], 0⟩

/-! ### A core's memory path (R235, R247) -/

/-- A store-buffer entry: eight aligned bytes, with the placement of their page. -/
structure StoreEnt where
  pa : Nat
  data : Dword
  mask : Byte
  home : BitVec 2
  nc : Bool
  seq : Nat
deriving DecidableEq, Repr

/-- A cached line with a dirty mask. -/
structure CLine where
  line : Nat
  data : LineData
  dirty : LineMask
  nc : Bool
  /-- an acquire has passed it: its other bytes come from below again (R261) -/
  stale : Bool
deriving DecidableEq, Repr

/-- A load that has issued and not returned (R11). -/
structure PendLoad where
  reg : Nat
  pa : Nat
  n : Nat
  signed : Bool
  sc : Nat
  home : BitVec 2
  nc : Bool
  seq : Nat
deriving DecidableEq, Repr

/-- A committed AMO that has not acted (R282). -/
structure PendAmo where
  fn : Nat
  pa : Nat
  n : Nat
  v : Nat
  e : Nat
  sc : Nat
  ret : Bool
  sr : Bool
  reg : Nat
  home : BitVec 2
  nc : Bool
  seq : Nat
deriving DecidableEq, Repr

/-- A store with a scope, a release, that has issued and not been performed (R259, R260). -/
structure PendStore where
  pa : Nat
  n : Nat
  v : Nat
  sc : Nat
  home : BitVec 2
  nc : Bool
  seq : Nat
deriving DecidableEq, Repr

/-- A remote KPOST or BARR under way (R218). -/
structure Post where
  team : Nat
  bundle : Nat
  src : Nat
  dst : Nat
  bar : Bool
  idx : Nat
  n : Nat
deriving DecidableEq, Repr

/-- A release with no bytes of its own that has not completed (R260): of a copy request, or of a post to another core, which
then sets out. -/
structure PendRel where
  sc : Nat
  seq : Nat
  post : Option Post
deriving DecidableEq, Repr

/-- An access that has issued and not been performed. -/
inductive PendAcc where
  | load (l : PendLoad)
  | amo (a : PendAmo)
  | store (w : PendStore)
  | release (r : PendRel)
deriving DecidableEq, Repr

/-- A copy request as stored (R182). -/
structure CopyReq where
  word : Dword
  team : Nat
  bundle : Nat
  asid : Nat
  rcptr : Nat
  region : Nat
  /-- the place in program order of the release that it comes after, while that has a scope (R260) -/
  after : Option Nat
deriving DecidableEq, Repr

/-- A request that has started (R204 to R206). -/
structure CopyJob where
  req : CopyReq
  tmpl : Nat
  src : Nat
  dsts : List Nat
  srcSwz : BitVec 3
  dstSwz : BitVec 3
  n : Nat
  off : Nat
  di : Nat
  nob : Bool
  bar : Nat
  post : Option (Nat × Nat × Nat)
  /-- the bytes, by physical address, that source addresses held before this request wrote them (R205) -/
  saved : Tab Byte
  /-- bytes of the source, from `off` on, of the lines that have been read -/
  buf : List Byte
deriving DecidableEq, Repr

structure Chan where
  queue : List CopyReq
  job : Option CopyJob
  /-- stopped by a fault until RETT (R209) -/
  stopped : Bool
  /-- lines of the cluster's other channels that have landed while this one had a line ready (R206) -/
  waited : Nat
deriving DecidableEq, Repr

def Chan.reset : Chan := ⟨[], none, false, 0⟩

structure MemPath where
  sb : List StoreEnt
  /-- L1 lines, most recently used first -/
  l1 : List CLine
  /-- in order of issue -/
  pend : List PendAcc
  chans : Tab Chan
  nextSeq : Nat
deriving DecidableEq, Repr

def MemPath.reset : MemPath := ⟨[], [], [], [], 0⟩

/-! ### Tasks -/

/-- A core's running task (R295). -/
structure Task where
  team : Nat
  lcore : Nat
  root : Bool
  join : Nat
  /-- the 64 bytes of the record it started from -/
  record : BitVec 512
  /-- bundles issued since the task's start or its last TILENEXT (R308) -/
  bundles : Nat
deriving DecidableEq, Repr

/-- Why an idle or busy core does not run (R225, R228). -/
inductive RunState where
  | idle
  | running
  /-- frozen; a fault event is with Folop -/
  | waitFolop
  /-- a chain follower (R27) -/
  | follower (master : Nat)
deriving DecidableEq, Repr

/-- What a core owes the scheduler at its next boundary (R309). -/
inductive Yield where
  | no | save | drain | discard
deriving DecidableEq, Repr

/-- A JOINW that waits (R318). -/
structure JoinWait where
  d : Nat
  addr : Nat
  /-- a trap handler issued it; the others stand still while a handler runs (R319) -/
  handler : Bool
deriving DecidableEq, Repr

structure Core where
  seq : Seq
  ctl : Ctl
  arr : Arr
  edge : EdgeSt
  mem : MemPath
  /-- instruction memory by bundle index; a bundle that is not listed is empty (R31, R114) -/
  code : Tab (BitVec 128)
  /-- the partition's instruction-memory quota in bundles (R231) -/
  imemQuota : Nat
  /-- the partition's cell-store quota in bytes (R231) -/
  storeQuota : Nat
  run : RunState
  task : Option Task
  /-- two places of continuation records (R299), each with its place in the order in which they left the team queue -/
  localq : List (Nat × BitVec 512)
  /-- JOINWs that wait, oldest first -/
  joinw : List JoinWait
  /-- FENCEs that wait for acquires of earlier bundles, oldest first: the scope, and whether a trap handler issued it (R260, R277) -/
  fences : List (Nat × Bool)
  deferred : List Deferred
  /-- the code of a TRAP whose bundle has issued and whose boundary has not come (R125, R223) -/
  soft : Option Half
  /-- physical cores of the chain, master first; empty when unchained (R27) -/
  chain : List Nat
  chainEW : Bool
  /-- what becomes due at the next boundary (R221, R309) -/
  yield_ : Yield
  part : Nat
  /-- the logical core number that the latest binding gave it -/
  lcore : Nat
  /-- Folop's answer that came while the core was saved (R229): true is RESUME -/
  answer : Option Bool
  /-- posts that reached the saved core, in arrival order (R230): barrier?, index, increment -/
  tail : List Post
  /-- requests to the Orangery, oldest first (R342): kind (0 RJREG, 1 RJPOST, 2 RJPOP, 3 RJCTL; 4 and 5: an RJREG and an RJPOP
  whose answer is refused), register or field, value, and partition, ASID or message fields -/
  rjq : List (Nat × Nat × Dword × Dword)
deriving DecidableEq, Repr

def Core.reset : Core :=
  { seq := .reset, ctl := .reset, arr := .reset, edge := .reset, mem := .reset, code := [], imemQuota := 16384,
    storeQuota := 0x7400, run := .idle, task := none, localq := [], joinw := [], fences := [], deferred := [], soft := none,
    chain := [], chainEW := false, yield_ := .no, part := 0, lcore := 0, answer := none, tail := [], rjq := [] }

/-! ### Caches below the core and the directory (R247 to R254) -/

/-- A die L2's copy of a line homed on another die. -/
structure L2Line where
  line : Nat
  data : LineData
  dirty : LineMask
  excl : Bool
  nc : Bool
  /-- of an NC line that an acquire has passed: its other bytes come from the home again (R255, R261) -/
  stale : Bool
deriving DecidableEq, Repr

/-- A request at a line's home (R250, R251). -/
inductive DirReq where
  | rds (die : Nat)
  | rdx (die : Nat)
  | upg (die : Nat)
  | homeRead
  | homeWrite (data : LineData) (mask : LineMask)
  | rdio
  | wrio (data : LineData) (mask : LineMask)
  /-- the entry is a victim: its copies are called back, and it is freed (R253) -/
  | victim
deriving DecidableEq, Repr

/-- The states of a directory entry; a line without an entry is in U (R249, R251). -/
inductive DirState where
  | us (die : Nat)
  | ux (die : Nat)
  | s
  | sx (req : DirReq)
  | x
  | xs (req : DirReq)
  | xu (req : DirReq)
deriving DecidableEq, Repr

/-- A directory message (R250), named as the row of its event. -/
inductive DirMsg where
  | rds (line die : Nat)
  | rdx (line die : Nat)
  | upg (line die : Nat)
  | wbx (line die : Nat) (data : LineData) (mask : LineMask)
  | evs (line die : Nat)
  | rdio (line : Nat)
  | wrio (line : Nat) (data : LineData) (mask : LineMask)
  | ack (line die : Nat)
  | inv (line die : Nat)
  | invack (line die : Nat)
  | rcls (line die : Nat)
  | rcli (line die : Nat)
  | rclack (line die : Nat) (held : Bool) (data : LineData) (mask : LineMask)
  | fwdio (line die : Nat)
  | fwdack (line die : Nat) (held : Bool) (data : LineData) (mask : LineMask)
deriving DecidableEq, Repr

structure DirEntry where
  state : DirState
  sharers : BitVec 5
  /-- acknowledgements still to come -/
  acks : Nat
  /-- requests that wait for a stable state, in arrival order (R252) -/
  queue : List DirReq
  /-- time of last use, for the LRU rank -/
  used : Nat
deriving DecidableEq, Repr

/-- A request that waits for a way of its line's set: for the end of a victim, or, when every way is transient, for the
first that becomes stable (R253). -/
structure SetWaiter where
  msg : DirMsg
  line : Nat
  victim : Option Nat
deriving DecidableEq, Repr

structure TlbEntry where
  /-- 0-63 sequencer micro-TLBs, 64-127 loader micro-TLBs, 128-131 die TLBs -/
  unit : Nat
  asid : Nat
  va : Nat
  size : Nat
  leaf : Dword
deriving DecidableEq, Repr

/-- A posted host-window store in the I/O die's write path (R256). -/
structure Posted where
  pa : Nat
  data : Dword
  mask : Byte
deriving DecidableEq, Repr

/-- A pointer entry in a die's walk cache (R245): the level below it, the VA bits that led to it, the table. -/
structure WalkEntry where
  die : Nat
  asid : Nat
  /-- the lowest VA bit of the prefix -/
  shift : Nat
  pre : Nat
  table : Nat
deriving DecidableEq, Repr

structure MemSys where
  /-- the home copies: HBM, scratchpads and host memory, by physical byte address -/
  mem : List Host.Cell
  /-- cluster cache ways, by cluster 0-15 -/
  ways : Tab (List CLine)
  /-- die L2 copies of remote lines, by die 0-3; agent 4 is the I/O agent -/
  l2 : Tab (List L2Line)
  dir : Tab DirEntry
  /-- uses of directory entries so far, for the LRU rank -/
  clock : Nat
  /-- directory messages in flight, oldest first -/
  msgs : List DirMsg
  /-- requests that wait for a way of a full directory set, oldest first (R253) -/
  setWait : List SetWaiter
  /-- full bits of scratchpad lines, by line number (R211) -/
  full : Tab Bool
  tlb : List TlbEntry
  /-- walk caches, newest first -/
  walks : List WalkEntry
  /-- TLB invalidations that are not complete: ASID, VA, bytes (R246) -/
  inval : List (Nat × Nat × Nat)
  posts : List Post
  posted : List Posted
  /-- host writes of device memory that are not performed, oldest first (R274) -/
  hostw : List (Nat × LineData × LineMask)
  /-- what RdIOs have returned to the host: line and data, oldest first (R256, R257) -/
  reads : List (Nat × LineData)
  /-- atomic-unit generators, 16 home slices and 4 cluster memories a die: key 20·die + unit -/
  agen : Tab Word
  /-- pinned lines held in ways (R242) -/
  pinned : List Nat
  /-- DOVRS, DOVRX, DOVWT, DPINOV by die: key 4·die + register (R242, R254) -/
  ctr : Tab Nat
  /-- S_g scratchpad ways by cluster (R237), pinned ways by die (R242) -/
  scratch : Tab Nat
  pinWays : Tab Nat
deriving DecidableEq, Repr

def MemSys.reset : MemSys :=
  { mem := [], ways := [], l2 := [], dir := [], clock := 0, msgs := [], setWait := [], full := [], tlb := [], walks := [],
    inval := [], posts := [], posted := [], hostw := [], reads := [], agen := [], pinned := [], ctr := [], scratch := [], pinWays := [] }

/-! ### Teams, generator, regions (R295 to R310, R380) -/

/-- What LAUNCH takes from a team image (R76 to R80). -/
structure Image where
  cores : Nat
  discard : Bool
  tilelen : Nat
  /-- adjacency: core a, core b, relation -/
  adj : List (Nat × Nat × Nat)
  /-- by logical core: chain number (255 none), position, code -/
  ents : List (Nat × Nat × List (BitVec 128))
  tensors : List Byte
  tensorN : Nat
  templates : List Byte
  templateN : Nat
  epilogues : List Byte
  epilogueN : Nat
  kinit : List (Nat × Nat × Nat)
  barrier : List (Nat × Nat × Nat × Nat)
  sched : Option (List Nat)
deriving DecidableEq, Repr

def Image.empty : Image :=
  { cores := 1, discard := false, tilelen := 0, adj := [], ents := [], tensors := [], tensorN := 0, templates := [],
    templateN := 0, epilogues := [], epilogueN := 0, kinit := [], barrier := [], sched := none }

/-- A tile: its origin in points, its quantum cut and its quanta numbers with their mask bits (R291, R293). -/
structure Tile where
  origin : List Nat
  /-- n0, n1, n2, n3 -/
  dims : List Nat
  mask : BitVec 48
  /-- map quantum of each set mask bit -/
  quanta : List (Nat × Nat)
deriving DecidableEq, Repr

/-- A request at the tile generator (R312): kind 0 SCHWR, 1 SCHRD, 2 CVMARK, 3 SCHCOMMIT, 4 TILENEXT, 5 RETIRE, 6 a change
from outside that makes a cut. -/
structure GenReq where
  kind : Nat
  lcore : Nat
  core : Nat
  d : Nat
  num : Nat
  value : Dword
  /-- of a CVMARK the quanta that it names (R292) -/
  quanta : List Nat
  at_ : Nat
deriving DecidableEq, Repr

structure Gen where
  /-- active and pending schedule registers by number (R289) -/
  act : Tab Dword
  pen : Tab Dword
  ver : Dword
  last : Byte
  doneN : Nat
  claimN : Nat
  poisonN : Nat
  reqs : List GenReq
  /-- by logical core: the claimed unstarted tile, the current tile, the d of each waiting TILENEXT, the bits that CVMARKs
  have named -/
  claimed : Tab Tile
  current : Tab Tile
  waiting : Tab (List Nat)
  named : Tab (BitVec 48)
  /-- logical cores that a DRAIN has saved before their TILENEXT issued (R293, R309) -/
  drained : List Nat
  /-- tiles to run again: failing core, tile, given (R302) -/
  retry : List (Nat × Tile × Bool)
  /-- its map has met a fault: nothing more is served (R380) -/
  lost : Bool
deriving DecidableEq, Repr

def Gen.reset : Gen :=
  { act := [], pen := [], ver := 0, last := 0, doneN := 0, claimN := 0, poisonN := 0, reqs := [], claimed := [],
    current := [], waiting := [], named := [], drained := [], retry := [], lost := false }

/-- A SPAWN that has reached the scheduler: its cycle, logical core, the register of its result (R298, R317). -/
structure Push where
  at_ : Nat
  lcore : Nat
  d : Nat
  record : BitVec 512
deriving DecidableEq, Repr

inductive TeamState where
  | waiting
  | bound
  | running
  /-- yielding to a pre-emption (R309) -/
  | yielding
  | ended
deriving DecidableEq, Repr

structure Team where
  img : Image
  asid : Nat
  part : Nat
  region : Nat
  pkt : Nat
  args : Dword
  state : TeamState
  /-- logical to physical core -/
  place : List Nat
  rcptr : Nat
  /-- the team queue (R298): position of its head in the ring of 4,096, and records queued -/
  qhead : Nat
  qlen : Nat
  /-- records put back at the head of a full ring, first one first (R309) -/
  front : List (BitVec 512)
  /-- pushes to be queued, in order; records that have left the queue -/
  pushes : List Push
  popped : Nat
  gen : Option Gen
  /-- beat since which it waits, and its order of arrival and of binding -/
  since : Nat
  arrival : Nat
  bindOrder : Nat
  hasSaved : Bool
  /-- the cells' program areas were spilled with the contexts (R309) -/
  spilled : Bool
  /-- 0 done, 1 faulted, 2 killed (R356) -/
  status : Nat
  /-- the tick at which bundle 0 issues (R362) -/
  releaseAt : Option Nat
deriving DecidableEq, Repr

/-- A region control block (R304). -/
structure Region where
  parent : Nat
  child : Nat
  sibling : Nat
  ovr : Half
  prio : Byte
  flags : Byte
  asid : Half
  cores : Byte
  part : Byte
  mem : Dword
  copies : Word
  pdl : Word
  cused : Nat
  copyused : Nat
  mused : Nat
  swa : BitVec 512
deriving DecidableEq, Repr

/-- A partition as PART sets it (R367), with the context areas that Folop reserves for its cores (R228): by physical
core, a physical address. -/
structure Partition where
  root : Nat
  cores : Dword
  lqueues : Half
  areas : Tab Nat
deriving DecidableEq, Repr

structure AsidEntry where
  v : Bool
  dying : Bool
  root : Nat
  /-- beat at which DYING was set -/
  since : Nat
deriving DecidableEq, Repr

def AsidEntry.reset : AsidEntry := ⟨false, false, 0, 0⟩

structure Sched where
  teams : Tab Team
  nextTeam : Nat
  order : Nat
  regions : Tab Region
  parts : Tab Partition
  /-- pre-emptions that run: team, DRAIN deadline in beats -/
  drains : List (Nat × Nat)
  /-- contexts in the context areas (R228): 64·team + physical core -/
  saved : Tab Core
  /-- live state of partitions that are swapped out, by physical core (R231, R233) -/
  shadow : Tab Core
  /-- the scheduler has its waiting teams to go through (R306) -/
  sweep : Bool
  /-- a partition swap that runs: outgoing, incoming (R233) -/
  swap : Option (Nat × Nat)
  /-- physical cores that a swap has halted: those of a partition that is swapped out stay so -/
  halted : List Nat
deriving DecidableEq, Repr

def Sched.reset : Sched :=
  { teams := [], nextTeam := 0, order := 0, regions := [], parts := [], drains := [], saved := [], shadow := [], sweep := false,
    swap := none, halted := [] }

/-! ### The Orangery (R322 to R340) -/

inductive EpState where
  | open_ | scan | wait_
deriving DecidableEq, Repr

structure Episode where
  part : Nat
  traj : Dword
  addr : Nat
  asid : Nat
  steps : Nat
  lq : Nat
  pver : Word
  /-- deadline tick; none when TMO is 0 -/
  deadline : Option Nat
  filled : Nat
  state : EpState
  joined : Bool
  timeout : Bool
  orphan : Bool
  stale : Bool
  missing : Nat
  /-- the tick at which it joined or timed out (R329) -/
  doneAt : Nat
  /-- γ and λ as its scan has read them at its start (R328, R336) -/
  coef : Option (Word × Word)
deriving DecidableEq, Repr

structure Orphan where
  part : Nat
  traj : Dword
  step : Half
  done : Bool
  reward : Word
  arrival : Nat
deriving DecidableEq, Repr

structure Released where
  part : Nat
  traj : Dword
  lq : Nat
  time : Nat
deriving DecidableEq, Repr

/-- A learner queue's fields and rings (R325, R338). -/
structure LQueue where
  gamma : Word
  lambda : Word
  tmo : Word
  policy : BitVec 2
  curver : Word
  lag : Word
  ring : Dword
  ringAsid : Nat
  sring : Dword
  sringAsid : Nat
  head : Nat
  tail : Nat
  shead : Nat
  stail : Nat
deriving DecidableEq, Repr

def LQueue.reset : LQueue := ⟨0, 0, 0, 0, 0, 0, 0, 0, 0, 0, 0, 0, 0, 0⟩

structure Orangery where
  table : List Episode
  orphans : List Orphan
  filter : List Released
  lq : Tab LQueue
  olife : Word
  /-- queue n's counters at 16·n + index, device-wide at 256 + index (R340) -/
  ctr : Tab Nat
  /-- keys handed to the scan, in order; the scan of the first one has started -/
  scans : List (Nat × Dword)
  /-- scanned episodes that wait for one of the same tick with a lower TRAJ (R329) -/
  held : List (Nat × Dword)
  /-- episodes whose release waits for ring space, in release order -/
  waits : List (Nat × Dword)
  /-- the latest tick in which a registration, a reward, a control write or a pop has been served (R334) -/
  served : Option Nat
  /-- the model's own (R338): the bytes of the held records as the Orangery left them, by ASID and address -/
  image : Tab Byte
  /-- the model's own (R338): how many free bytes have been drawn -/
  draws : Nat
deriving DecidableEq, Repr

def Orangery.reset : Orangery := ⟨[], [], [], [], 0, [], [], [], [], none, [], 0⟩

/-! ### The Pavilion and the host (R349 to R369) -/

structure Queue where
  base : Nat
  logsz : Nat
  priv : Bool
  asid : Nat
  coal : Nat
  region : Nat
  irqaddr : Nat
  irqdata : Word
  state : BitVec 2
  err : Byte
  read : Nat
  write : Nat
  /-- beat at which the pending interrupt is sent -/
  irqAt : Option Nat
  /-- the queue's event is posted -/
  posted : Bool
deriving DecidableEq, Repr

def Queue.reset : Queue := ⟨0, 4, false, 0, 0, 0, 0, 0, 0, 0, 0, 0, none, false⟩

/-- A started packet (R353). -/
structure Pkt where
  queue : Nat
  idx : Nat
  bits : BitVec 512
  /-- the team that its LAUNCH or KERNEL node waits for -/
  team : Option Nat
  /-- the graph node that runs next, and its 64 bytes as the graph found them when it came to it -/
  node : Nat
  cur : BitVec 512
  /-- physical cores that its teams have used -/
  cores : List Nat
  /-- beat at which a WAITSIG times out -/
  deadline : Option Nat
  /-- its work has begun; its work is over, with a STATUS -/
  begun : Bool
  status : Option Nat
deriving DecidableEq, Repr

/-- Folop's host mailbox (R367). -/
structure Mailbox where
  code : Half
  args : Tab Dword
  done : Dword
  result : Word
  out : Dword
  /-- the command that Folop has taken and not finished: its tag, code and operands as RING found them -/
  tag : Option Dword
  runs : Half
  ops : Tab Dword
deriving DecidableEq, Repr

/-- A fault event (R225): the core, the team, the ASID and the five registers. -/
structure FaultEv where
  core : Nat
  team : Nat
  asid : BitVec 12
  cause : BitVec 8
  info : Dword
  trappc : BitVec 15
  wavetag : BitVec 14
  repcnt : BitVec 7
deriving DecidableEq, Repr

/-- A page that Folop has mapped: its leaf entry, and the region that it counts against (R243, R305, R367). -/
structure Mapping where
  asid : Nat
  va : Nat
  size : Nat
  leaf : Dword
  region : Nat
deriving DecidableEq, Repr

structure Pav where
  queues : Tab Queue
  events : List Nat
  pkts : Tab Pkt
  nextPkt : Nat
  mbox : Mailbox
  /-- fault events sent to Folop, oldest first (R225) -/
  faults : List FaultEv
  /-- the pages that Folop maps when a fault asks for them (R224) -/
  serve : List Mapping
  maps : List Mapping
  asids : Tab AsidEntry
  /-- doorbell stores that have reached the I/O die: queue, W -/
  bells : List (Nat × Nat)
  /-- the next physical page that Folop takes for a table or a team area -/
  pool : Nat
  /-- team areas that no team uses: ASID, address -/
  areas : List (Nat × Nat)
  /-- lasting errors reported to Folop (R378): block, unit -/
  lasting : List (Nat × Nat)
  /-- what host reads of BAR0 have returned (R7, R368): offset and doubleword, oldest first -/
  reads : List (Nat × Dword)
deriving DecidableEq, Repr

def Pav.reset : Pav :=
  { queues := [], events := [], pkts := [], nextPkt := 0, mbox := ⟨0, [], 0, 0, 0, none, 0, []⟩, faults := [], serve := [], maps := [],
    asids := [], bells := [], pool := 0x1D00000000, areas := [], lasting := [], reads := [] }

/-! ### Power, boot, errors (R370 to R379) -/

inductive IslState where
  | a0 | a1 | a2 | ret | off
deriving DecidableEq, Repr

structure Power where
  islands : Tab IslState
  trip : Tab Bool
  seqDone : Byte
  result : BitVec 3
  busy : Bool
  /-- the command that runs: island, state, SEQ -/
  cmd : Option (Nat × IslState × Byte)
  pcap : BitVec 10
  /-- loans: lender, borrower, units -/
  loans : List (Nat × Nat × Nat)
  /-- what the compute dies draw, in units, by die -/
  draw : Tab Nat
  powered : Bool
  shut : Bool
  boot : Word
  /-- the firmware images in flash, in the order in which they are loaded: loader, Folop, power controller -/
  flash : List (List Byte)
  /-- the security version in the flash fuses -/
  fuses : Nat
  /-- the measurement log: sequence, kind, security version, digest -/
  log : List (Nat × Nat × Nat × BitVec 384)
  /-- lifetime counters by their BAR0 offset: as counted and as last written to flash (R379) -/
  live : Tab Nat
  kept : Tab Nat
  /-- by island: beats in A0, A1 or A2 since the last whole hour of them, and the beat up to which they are counted -/
  islOn : Tab Nat
  islAt : Tab Nat
  /-- the overflow events of the dies that OVR has taken in (R254, R379) -/
  ovrSeen : Nat
  /-- the 5 °C bin that the sensors report (R379) -/
  bin : Nat
deriving DecidableEq, Repr

def Power.reset : Power :=
  { islands := [], trip := [], seqDone := 0, result := 0, busy := false, cmd := none, pcap := 560, loans := [],
    draw := [], powered := true, shut := false, boot := 0, flash := [], fuses := 0, log := [], live := [], kept := [], islOn := [], islAt := [], ovrSeen := 0,
    bin := 5 }

/-! ### The device -/

/-- What the outside world, or a freedom of the device, lets move next. -/
inductive Move where
  /-- a step without an encoding -/
  | ev (i : Instr)
  /-- core c issues its next bundle if it can -/
  | core (c : Nat)
  /-- a fabric beat passes -/
  | beat
  /-- a capacity eviction: an L1 line of a core, a way of a cluster, an L2 copy of a die (R247, R275) -/
  | evictL1 (core line : Nat)
  | evictWay (cluster line : Nat)
  | evictL2 (die line : Nat)
  /-- a store other than the oldest leaves a core's store buffer (R275) -/
  | drain (core idx : Nat)
  /-- an access of a core that has issued is performed (R275) -/
  | perform (core idx : Nat)
  /-- what a die draws changes (R374) -/
  | draw (die units : Nat)
  /-- the host reads a register of BAR0 (R368) -/
  | hostRead (offset : Nat)
  /-- Folop takes a page among those that it maps when a fault asks for them (R224) -/
  | serve (m : Mapping)
  /-- a record leaves a core's record cache (R134) -/
  | dropRecord (core handle : Nat)
  /-- the sensors report a 5 °C bin (R379) -/
  | bin (n : Nat)
deriving DecidableEq, Repr

structure State where
  cores : Tab Core
  /-- the physical core whose bundle is issuing -/
  me : Nat
  /-- fabric beats of 1.8 GHz since power-on: 3 to an array cycle at A0; TIME is ⌊5·beat/9⌋ ns -/
  beat : Nat
  sys : MemSys
  sched : Sched
  ora : Orangery
  pav : Pav
  power : Power
  /-- what moves next, oldest first; when it is empty the machine takes its own pending work in a fixed order -/
  agenda : List Move
deriving DecidableEq, Repr

/-- The device at power-on reset: the boot ROM starts, no core runs, no table of Folop's holds an entry. -/
def State.reset : State :=
  { cores := [], me := 0, beat := 0, sys := .reset, sched := .reset, ora := .reset, pav := .reset, power := .reset, agenda := [] }

end Sys2Proof.Machine
end

