-- ==== Sys2Proof/Machine/Table.lean ====
section
/-! DEFINITION. Sparse tables, lists by position, and bytes.

A table keeps one canonical form: keys strictly rising, and no entry that equals the default.  Reading finds the
first entry of a key; writing drops the key's entries and inserts the new one unless it is the default. -/

namespace Sys2Proof.Machine
open Sys2Proof

abbrev Out := Host.Outcome State Fault Refusal

/-! ### Tables -/

def Tab.get {β : Type} (d : β) : Tab β → Nat → β
  | [], _ => d
  | (j, v) :: t, k => if j = k then v else Tab.get d t k

def Tab.insert {β : Type} (k : Nat) (v : β) : Tab β → Tab β
  | [] => [(k, v)]
  | (j, w) :: t => if k < j then (k, v) :: (j, w) :: t else (j, w) :: Tab.insert k v t

def Tab.erase {β : Type} (k : Nat) : Tab β → Tab β
  | [] => []
  | (j, w) :: t => if j = k then Tab.erase k t else (j, w) :: Tab.erase k t

def Tab.set {β : Type} [DecidableEq β] (d : β) (t : Tab β) (k : Nat) (v : β) : Tab β :=
  if v = d then Tab.erase k t else Tab.insert k v (Tab.erase k t)

/-- An entry that may be absent. -/
def Tab.look {β : Type} : Tab β → Nat → Option β
  | [], _ => none
  | (j, v) :: t, k => if j = k then some v else Tab.look t k

def Tab.put {β : Type} (t : Tab β) (k : Nat) (v : β) : Tab β := Tab.insert k v (Tab.erase k t)

/-- Keys strictly rising, and every key above `lo`. -/
def Tab.above {β : Type} : Nat → Tab β → Bool
  | _, [] => true
  | lo, (j, _) :: t => decide (lo < j) && Tab.above j t

/-- The canonical form: keys strictly rising, no entry equal to the default. -/
def Tab.wf {β : Type} [DecidableEq β] (d : β) : Tab β → Bool
  | [] => true
  | (j, v) :: t => Tab.above j t && decide (v ≠ d) && Tab.wf d t

/-! ### Lists by position -/

def listSet {β : Type} : List β → Nat → β → List β
  | [], _, _ => []
  | _ :: t, 0, v => v :: t
  | x :: t, n + 1, v => x :: listSet t n v

def listDrop {β : Type} : List β → Nat → List β
  | [], _ => []
  | _ :: t, 0 => t
  | x :: t, n + 1 => x :: listDrop t n

/-! ### Bytes -/

/-- The value of a list of bytes, least significant first (R4). -/
def bytesNat : List Byte → Nat
  | [] => 0
  | b :: t => b.toNat + 256 * bytesNat t

/-- The low `n` bytes of a value, least significant first (R4). -/
def natBytes : Nat → Nat → List Byte
  | 0, _ => []
  | n + 1, v => BitVec.ofNat 8 v :: natBytes n (v / 256)

/-- Bits [hi:lo] of a value. -/
def bitsOf (x lo n : Nat) : Nat := x / 2 ^ lo % 2 ^ n

/-- A signed field. -/
def sext (w x : Nat) : Int := if 2 ^ (w - 1) ≤ x % 2 ^ w then (x % 2 ^ w : Nat) - (2 ^ w : Int) else (x % 2 ^ w : Nat)

end Sys2Proof.Machine
end

