-- ==== Sys2Proof/Machine/Access.lean ====
section
/-! DEFINITION. Reading and updating the named pieces of the state. -/

namespace Sys2Proof.Machine
open Sys2Proof

/-! ### Cores -/

def coreAt (s : State) (c : Nat) : Core := Tab.get Core.reset s.cores c
def setCore (s : State) (c : Nat) (k : Core) : State := { s with cores := Tab.set Core.reset s.cores c k }
def modCore (s : State) (c : Nat) (f : Core → Core) : State := setCore s c (f (coreAt s c))
def modSeq (s : State) (c : Nat) (f : Seq → Seq) : State := modCore s c fun k => { k with seq := f k.seq }
def modCtl (s : State) (c : Nat) (f : Ctl → Ctl) : State := modCore s c fun k => { k with ctl := f k.ctl }
def modArr (s : State) (c : Nat) (f : Arr → Arr) : State := modCore s c fun k => { k with arr := f k.arr }
def modEdge (s : State) (c : Nat) (f : EdgeSt → EdgeSt) : State := modCore s c fun k => { k with edge := f k.edge }
def modMem (s : State) (c : Nat) (f : MemPath → MemPath) : State := modCore s c fun k => { k with mem := f k.mem }
def modSys (s : State) (f : MemSys → MemSys) : State := { s with sys := f s.sys }
def modSched (s : State) (f : Sched → Sched) : State := { s with sched := f s.sched }
def modOra (s : State) (f : Orangery → Orangery) : State := { s with ora := f s.ora }
def modPav (s : State) (f : Pav → Pav) : State := { s with pav := f s.pav }
def modPower (s : State) (f : Power → Power) : State := { s with power := f s.power }

def setMe (s : State) (c : Nat) : State := { s with me := c }
def nextBeat (s : State) : State := { s with beat := s.beat + 1 }
def setAgenda (s : State) (l : List Move) : State := { s with agenda := l }

/-- Cluster and die of a physical core (R2, R237). -/
def clusterOf (c : Nat) : Nat := c / 4
def dieOf (c : Nat) : Nat := c / 16

/-! ### The sequencer (R26) -/

/-- G0 reads 0. -/
def readG (k : Core) (r : BitVec 5) : Dword := if r = 0 then 0 else Tab.get 0 k.seq.g r.toNat
/-- A write to G0 is discarded (R26, R108). -/
def putG (g : Tab Dword) (r : Nat) (v : Dword) : Tab Dword := if r = 0 then g else Tab.set 0 g r v
def writeG (s : State) (c : Nat) (r : BitVec 5) (v : Dword) : State :=
  modSeq s c fun q => { q with g := putG q.g r.toNat v }

/-- M0 is all ones (R21, R26). -/
def readM (k : Core) (m : BitVec 4) : Sel :=
  if m = 0 then ⟨BitVec.allOnes 32, BitVec.allOnes 32⟩ else Tab.get .zero k.seq.m m.toNat

/-- The timebase, in ticks of 1 ns (R5): fabric beats of 1.8 GHz. -/
def timebase (s : State) : Nat := 5 * s.beat / 9

/-! ### Cells -/

def cellKey (r c : Nat) : Nat := 32 * r + c
def cellAt (a : Arr) (key : Nat) : CellSt := Tab.get (CellSt.reset key) a.cells key
def setCell (a : Arr) (key : Nat) (x : CellSt) : Arr :=
  { a with cells := Tab.set (CellSt.reset key) a.cells key x }
def readF (x : CellSt) (n : Nat) : FReg := Tab.get .zero x.f n
def writeF (x : CellSt) (n : Nat) (v : FReg) : CellSt := { x with f := Tab.set .zero x.f n v }

/-- The window's cells in ascending row and column (R17). -/
def Window.rows (w : Window) : List Nat := (List.range w.h).map (w.row0 + ·)
def Window.cols (w : Window) : List Nat := (List.range w.w).map (w.col0 + ·)
def Window.cells (w : Window) : List (Nat × Nat) := w.rows.flatMap fun r => w.cols.map fun c => (r, c)
def Window.has (w : Window) (r c : Nat) : Bool :=
  decide (w.row0 ≤ r) && decide (r < w.row0 + w.h) && decide (w.col0 ≤ c) && decide (c < w.col0 + w.w)

/-- D(i,j) over an h by w window (R18). -/
def distance (o : Origin) (h w i j : Nat) : Nat :=
  match o with
  | .nw => i + j
  | .ne => i + (w - 1 - j)
  | .sw => (h - 1 - i) + j
  | .se => (h - 1 - i) + (w - 1 - j)

/-! ### Loaders -/

def loaderAt (e : EdgeSt) (n : Nat) : Loader := Tab.get .reset e.loaders n
def setLoader (e : EdgeSt) (n : Nat) (l : Loader) : EdgeSt := { e with loaders := Tab.set .reset e.loaders n l }
def modLoader (s : State) (c e : Nat) (f : Loader → Loader) : State :=
  modEdge s c fun x => setLoader x e (f (loaderAt x e))
/-- O0-O7 (R26). -/
def readO (k : Core) (o : Nat) : Half := Tab.get 0 k.seq.o o
def writeO (s : State) (c o : Nat) (v : Half) : State := modSeq s c fun q => { q with o := Tab.set 0 q.o o v }

/-! ### Teams, queues -/

def teamAt (s : State) (t : Nat) : Option Team := Tab.look s.sched.teams t
def setTeam (s : State) (t : Nat) (x : Team) : State := modSched s fun d => { d with teams := Tab.put d.teams t x }
def modTeam (s : State) (t : Nat) (f : Team → Team) : State :=
  match teamAt s t with
  | none => s
  | some x => setTeam s t (f x)
/-- The team of a core's running task. -/
def teamOf (s : State) (c : Nat) : Option Team := (coreAt s c).task.bind fun k => teamAt s k.team
/-- A core of a bound team is not saved, and its partition is the one that runs on the core (R228, R233). -/
def liveHere (s : State) (t c : Nat) : Bool :=
  (Tab.look s.sched.saved (64 * t + c)).isNone &&
    (match teamAt s t with | some x => (coreAt s c).part == x.part | none => true)
/-- A core of a team, wherever its state is: live, in its context area, or in the shadow. -/
def contextAt (s : State) (t c : Nat) : Core :=
  match Tab.look s.sched.saved (64 * t + c) with
  | some k => k
  | none => if liveHere s t c then coreAt s c else Tab.get .reset s.sched.shadow c
def modContext (s : State) (t c : Nat) (f : Core → Core) : State :=
  match Tab.look s.sched.saved (64 * t + c) with
  | some k => modSched s fun d => { d with saved := Tab.put d.saved (64 * t + c) (f k) }
  | none =>
    if liveHere s t c then modCore s c f
    else modSched s fun d => { d with shadow := Tab.set .reset d.shadow c (f (Tab.get .reset d.shadow c)) }
def queueAt (s : State) (q : Nat) : Queue := Tab.get .reset s.pav.queues q
def setQueue (s : State) (q : Nat) (x : Queue) : State :=
  modPav s fun p => { p with queues := Tab.set .reset p.queues q x }
def pktAt (s : State) (p : Nat) : Option Pkt := Tab.look s.pav.pkts p
def setPkt (s : State) (p : Nat) (x : Pkt) : State := modPav s fun v => { v with pkts := Tab.put v.pkts p x }

/-! ### Islands (R370) -/

def islandAt (s : State) (i : Nat) : IslState := Tab.get .a0 s.power.islands i
/-- A clock as a fraction of A0's, in quarters; 0 when it stands. -/
def speed : IslState → Nat
  | .a0 => 4
  | .a1 => 3
  | .a2 => 2
  | .ret => 0
  | .off => 0
/-- Some uncore or HBM island stands: what reaches device memory waits (DESIGN CHOICE, log entry 68). -/
def memoryStands (s : State) : Bool := [16, 17, 18, 19, 22, 23].any fun i => speed (islandAt s i) == 0
/-- The island's clock stands or is changing: its cores hold at a bundle boundary, and their cycles do not pass (R372). -/
def islandHolds (s : State) (i : Nat) : Bool :=
  speed (islandAt s i) == 0 || (match s.power.cmd with | some (j, _, _) => j == i | none => false)

end Sys2Proof.Machine
end

