-- ==== Sys2Proof/Machine/Coherence.lean ====
section
/-! DEFINITION. Physical memory, the directory and the die L2s, the cluster ways (R237, R241 to R256).

A directory message has the name of its row; `msgs` holds those in flight, oldest first.  A request that the model
makes for a core's access pushes its message and lets the messages run until none is left (DESIGN CHOICE, log entry 7); a row
that `agenda` places runs by itself. -/

namespace Sys2Proof.Machine
open Sys2Proof

/-! ### Bytes of physical memory -/

/-- What a byte that nothing has written reads as is 0 (DESIGN CHOICE, log entry 8). -/
def memByte (m : List Host.Cell) (pa : Nat) : Byte := Tab.get 0 m pa
def memRead (m : List Host.Cell) (pa : Nat) : Nat → List Byte
  | 0 => []
  | n + 1 => memByte m pa :: memRead m (pa + 1) n
def memWrite (m : List Host.Cell) (pa : Nat) : List Byte → List Host.Cell
  | [] => m
  | b :: t => memWrite (Tab.set 0 m pa b) (pa + 1) t

/-- Write the bytes of a doubleword that an eight-bit mask names (R256). -/
def memMask (m : List Host.Cell) (pa : Nat) (data : Dword) (mask : Byte) : Nat → List Host.Cell
  | 0 => m
  | n + 1 =>
    let m' := memMask m pa data mask n
    if mask.getLsbD n then Tab.set 0 m' (pa + n) (data.extractLsb' (8 * n) 8) else m'
/-- Bytes that keep their values; the others read as nothing has written them. -/
def memKeep (m : List Host.Cell) (p : Nat → Bool) : List Host.Cell := m.filter fun x => p x.1

/-- The canonical form of memory: addresses strictly rising, no entry that an unlisted address reads as. -/
def Memory.wf (m : List Host.Cell) : Bool := Tab.wf (0 : Byte) m

def memLine (m : List Host.Cell) (line : Nat) : LineData :=
  BitVec.ofNat 1024 (bytesNat (memRead m (128 * line) 128))

/-- The bytes that a mask of `n` bytes names, as bits. -/
def maskNat (f : Nat → Bool) : Nat → Nat
  | 0 => 0
  | n + 1 => maskNat f n + (if f n then 255 * 256 ^ n else 0)
def maskBits (m : LineMask) : LineData := BitVec.ofNat 1024 (maskNat m.getLsbD 128)
/-- New bytes replace old ones by byte mask (R250). -/
def mergeLine (old new : LineData) (m : LineMask) : LineData :=
  (old &&& ~~~ maskBits m) ||| (new &&& maskBits m)

/-- Write the bytes that the mask names. -/
def memMerge (m : List Host.Cell) (line : Nat) (data : LineData) (mask : LineMask) : Nat → List Host.Cell
  | 0 => m
  | n + 1 =>
    let m' := memMerge m line data mask n
    if mask.getLsbD n then Tab.set 0 m' (128 * line + n) (data.extractLsb' (8 * n) 8) else m'

def homeMerge (s : State) (line : Nat) (data : LineData) (mask : LineMask) : State :=
  modSys s fun y => { y with mem := memMerge y.mem line data mask 128 }

/-- The bytes at offset `off` of a line, as a line of data and its mask. -/
def lineSpan (off : Nat) (bs : List Byte) : LineData × LineMask :=
  (BitVec.ofNat 1024 (bytesNat bs * 256 ^ off), BitVec.ofNat 128 ((2 ^ bs.length - 1) * 2 ^ off))

def lineBytes (d : LineData) (off n : Nat) : List Byte := natBytes n (d.toNat / 256 ^ off)

/-! ### The physical map (R237) -/

def hbmBytes : Nat := 0x1DCD650000
def homeDie (pa : Nat) : Nat := pa / 2 ^ 37 % 4
def inHbm (pa : Nat) : Bool := decide (pa < 4 * 2 ^ 37) && decide (pa % 2 ^ 37 < hbmBytes)
def scratchBase : Nat := 0x10000000000
/-- The cluster whose scratchpad window holds an address. -/
def scratchCluster (s : State) (pa : Nat) : Option Nat :=
  if scratchBase ≤ pa && pa < scratchBase + 16 * 0x2000000 then
    let g := (pa - scratchBase) / 0x2000000
    if (pa - scratchBase) % 0x2000000 < Tab.get 0 s.sys.scratch g * 0x100000 then some g else none
  else none
def inDoorbell (pa : Nat) : Bool := decide (0x7FF0000000000 ≤ pa) && decide (pa < 0x7FF0001000000)
/-- The Orangery's counter page (R340), whose physical address the spec does not give (DESIGN CHOICE, log entry 64). -/
def inCounters (pa : Nat) : Bool := decide (0x7FF0001000000 ≤ pa) && decide (pa < 0x7FF0001001000)
def inHost (pa : Nat) : Bool := decide (2 ^ 51 ≤ pa) && decide (pa < 2 ^ 52)
/-- The whole page is backed by one thing. -/
def backed (s : State) (pa n : Nat) : Bool :=
  (inHbm pa && inHbm (pa + n - 1) && homeDie pa == homeDie (pa + n - 1)) ||
  ((scratchCluster s pa).isSome && scratchCluster s pa == scratchCluster s (pa + n - 1)) ||
  (inDoorbell pa && inDoorbell (pa + n - 1)) || (inCounters pa && inCounters (pa + n - 1)) || (inHost pa && inHost (pa + n - 1))

/-- The home of a line stands: its die's uncore, or the PHY of its memory (R370). -/
def homeStands (s : State) (line : Nat) : Bool :=
  speed (islandAt s (16 + homeDie (128 * line))) == 0 || (inHbm (128 * line) && speed (islandAt s (22 + homeDie (128 * line) / 2)) == 0)

/-- HomeSlice (R248). -/
def homeSlice (pa : Nat) : Nat :=
  bitsOf pa 8 4 ^^^ bitsOf pa 12 4 ^^^ bitsOf pa 16 4 ^^^ bitsOf pa 20 4 ^^^ bitsOf pa 24 4 ^^^ bitsOf pa 28 4 ^^^
    bitsOf pa 32 4 ^^^ bitsOf pa 36 1

/-- Two lines share a directory set (R249): the home die, the slice and PA[19:7]. -/
def sameSet (l m : Nat) : Bool :=
  homeDie (128 * l) == homeDie (128 * m) && homeSlice (128 * l) == homeSlice (128 * m) && l % 8192 == m % 8192

/-! ### Counters (R242, R254) -/

def ctrMax : Nat := 2 ^ 48 - 1
def countDie (s : State) (die reg : Nat) : State :=
  modSys s fun y => { y with ctr := Tab.set 0 y.ctr (4 * die + reg) (min ctrMax (Tab.get 0 y.ctr (4 * die + reg) + 1)) }

/-! ### Die L2 copies -/

def l2Of (s : State) (agent : Nat) : List L2Line := Tab.get [] s.sys.l2 agent
def l2Find (s : State) (agent line : Nat) : Option L2Line := (l2Of s agent).find? fun x => x.line == line
def setL2 (s : State) (agent : Nat) (xs : List L2Line) : State :=
  modSys s fun y => { y with l2 := Tab.set [] y.l2 agent xs }
def l2Drop (s : State) (agent line : Nat) : State := setL2 s agent ((l2Of s agent).filter fun x => x.line != line)

/-! ### The directory (R249 to R253) -/

def dirAt (s : State) (line : Nat) : Option DirEntry := Tab.look s.sys.dir line
def setDir (s : State) (line : Nat) (e : DirEntry) : State :=
  modSys s fun y => { y with dir := Tab.put y.dir line { e with used := y.clock }, clock := y.clock + 1 }
def freeDir (s : State) (line : Nat) : State := modSys s fun y => { y with dir := Tab.erase line y.dir }
def sendMsg (s : State) (i : DirMsg) : State := modSys s fun y => { y with msgs := y.msgs ++ [i] }
def sendMsgs (s : State) (l : List DirMsg) : State := modSys s fun y => { y with msgs := y.msgs ++ l }

/-- The die L2 set of a line: its slice and the low bits of its number (DESIGN CHOICE, log entry 21). -/
def sameL2Set (l m : Nat) : Bool := homeSlice (128 * l) == homeSlice (128 * m) && l % 4096 == m % 4096
/-- The pinned lines of a die that share the set of a line. -/
def pinnedBeside (s : State) (die line : Nat) : List Nat :=
  s.sys.pinned.filter fun m => homeDie (128 * m) == die && sameL2Set m line
/-- Ways of a line's set in a die L2 that can hold copies of remote lines: those that are neither kept for pinned lines nor
hold one (R242, R247). -/
def l2Ways (s : State) (die line : Nat) : Nat := 16 - max (Tab.get 0 s.sys.pinWays die) (pinnedBeside s die line).length
/-- The copy that leaves a full set: the one that came first.  The I/O agent's copies have no stated number. -/
def l2Victim (s : State) (agent line : Nat) : Option L2Line :=
  let same := (l2Of s agent).filter fun x => sameL2Set x.line line
  if agent < 4 && l2Ways s agent line < same.length then same.getLast? else none
/-- A copy leaves: an NC line's dirty bytes go home, a coherent line sends WbX or EvS (R250, R255). -/
def l2Out (s : State) (agent : Nat) (x : L2Line) : State :=
  let s := l2Drop s agent x.line
  if x.nc then homeMerge s x.line x.data x.dirty
  else sendMsg s (if x.dirty = 0 then .evs x.line agent else .wbx x.line agent x.data x.dirty)
/-- A copy enters, or takes new contents; another leaves when the set is full (R247). -/
def l2Put (s : State) (agent : Nat) (x : L2Line) : State :=
  let s := setL2 s agent (x :: (l2Of s agent).filter fun y => y.line != x.line)
  match l2Victim s agent x.line with
  | none => s
  | some v => l2Out s agent v

/-- Copies that no way of their set holds any more leave, the oldest first (R242, R247). -/
def trimL2 (s : State) (die : Nat) : State :=
  (l2Of s die).reverse.foldl (fun s x => match l2Victim s die x.line with | none => s | some v => l2Out s die v) s

def reqMsg (line : Nat) : DirReq → Option DirMsg
  | .rds d => some (.rds line d)
  | .rdx d => some (.rdx line d)
  | .upg d => some (.upg line d)
  | .rdio => some (.rdio line)
  | .wrio d m => some (.wrio line d m)
  | .homeRead => none
  | .homeWrite _ _ => none
  | .victim => none

/-- The request that the end of a line's transient state lets go on: the one that waits for this victim, else the
oldest that waits for a stable way of the set (R253). -/
def nextWaiter (l : List SetWaiter) (line : Nat) : Option SetWaiter :=
  match l.find? fun w => w.victim == some line with
  | some w => some w
  | none => l.find? fun w => w.victim.isNone && sameSet w.line line
/-- A request that waits for a way, and then the waiting requests of a line in arrival order, come to their turn again
(R252, R253). -/
def wake (s : State) (line : Nat) (q : List DirReq) : State :=
  match nextWaiter s.sys.setWait line with
  | some w => modSys s fun y => { y with msgs := w.msg :: q.filterMap (reqMsg line) ++ y.msgs, setWait := y.setWait.erase w }
  | none => modSys s fun y => { y with msgs := q.filterMap (reqMsg line) ++ y.msgs }

/-- The entry takes a stable state. -/
def stable (s : State) (line : Nat) (e : DirEntry) (st : DirState) (sharers : BitVec 5) : State :=
  wake (setDir s line { e with state := st, sharers := sharers, acks := 0, queue := [] }) line e.queue
/-- The line returns to U. -/
def toU (s : State) (line : Nat) (e : DirEntry) : State := wake (freeDir s line) line e.queue

def bit5 (d : Nat) : BitVec 5 := BitVec.ofNat 5 (2 ^ d)
def holders (b : BitVec 5) : List Nat := (List.range 5).filter fun d => b.getLsbD d
def ownerOf (b : BitVec 5) : Nat := (holders b).headD 0

/-- Send the data of the home copy to a caching die. -/
def installCopy (s : State) (line die : Nat) (excl : Bool) : State :=
  l2Put s die { line := line, data := memLine s.sys.mem line, dirty := 0, excl := excl, nc := false, stale := false }
/-- A grant without data. -/
def grantCopy (s : State) (line die : Nat) : State :=
  match l2Find s die line with
  | none => installCopy s line die true
  | some x => l2Put s die { x with excl := true }

/-- The least recently used entry of a state among some entries. -/
def lruEntry (st : DirState) (l : List (Nat × DirEntry)) : Option (Nat × DirEntry) :=
  (l.filter fun p => p.2.state == st).foldl (fun b p =>
    match b with
    | none => some p
    | some q => if p.2.used < q.2.used then some p else some q) none

def newEntry (st : DirState) : DirEntry := { state := st, sharers := 0, acks := 0, queue := [], used := 0 }
def enqueue (s : State) (line : Nat) (e : DirEntry) (r : DirReq) : State :=
  setDir s line { e with queue := e.queue ++ [r] }

/-- A host write has been performed: the next one that the link has delivered goes to its home (R274). -/
def hostNext (s : State) : State :=
  match s.sys.hostw with
  | [] => s
  | _ :: t =>
    let s := modSys s fun y => { y with hostw := t }
    match t with
    | [] => s
    | (l, d, m) :: _ => sendMsg s (.wrio l d m)
/-- After the write that a request stands for. -/
def wrote (s : State) (r : DirReq) : State :=
  match r with
  | .wrio _ _ => hostNext s
  | _ => s
/-- A RdIO returns a line to the host (R256, R257). -/
def hostGets (s : State) (line : Nat) (d : LineData) : State := modSys s fun y => { y with reads := y.reads ++ [(line, d)] }

/-- The last InvAck has come (R251). -/
def finishSx (s : State) (line : Nat) (e : DirEntry) (r : DirReq) : State :=
  match r with
  | .rdx d => sendMsg (setDir (installCopy s line d true) line { e with state := .ux d, sharers := 0 }) (.ack line d)
  | .upg d =>
    let s := if e.sharers.getLsbD d then grantCopy s line d else installCopy s line d true
    sendMsg (setDir s line { e with state := .ux d, sharers := 0 }) (.ack line d)
  | .homeWrite x m => toU (homeMerge s line x m) line e
  | .wrio x m => hostNext (toU (homeMerge s line x m) line e)
  | _ => toU s line e

/-- Inv to the given sharers of a line in S; the request waits for their acknowledgements (R251). -/
def invalidate (s : State) (line : Nat) (e : DirEntry) (who : List Nat) (r : DirReq) : State :=
  if who.isEmpty then finishSx s line e r
  else sendMsgs (setDir s line { e with state := .sx r, acks := who.length }) (who.map fun d => .inv line d)

/-- A way of the line's set is free. -/
def wayFree (s : State) (line : Nat) : Bool := decide ((s.sys.dir.filter fun p => sameSet p.1 line).length < 16)
/-- A victim's copies are called back; its entry is freed after the last acknowledgement (R253). -/
def evictVictim (s : State) (line : Nat) (e : DirEntry) : State :=
  let die := homeDie (128 * line)
  if e.state == .x then sendMsg (setDir (countDie s die 1) line { e with state := .xu .victim }) (.rcli line (ownerOf e.sharers))
  else invalidate (countDie s die 0) line e (holders e.sharers) .victim
/-- The request waits for a way: the victim is the least recently used entry in S, else in X; when every way of the set is
transient, it waits for the first that becomes stable (R253). -/
def waitForWay (s : State) (i : DirMsg) (line : Nat) : State :=
  let l := s.sys.dir.filter fun p => sameSet p.1 line
  match (lruEntry .s l).orElse fun _ => lruEntry .x l with
  | some (m, e) => evictVictim (modSys s fun y => { y with setWait := y.setWait ++ [⟨i, line, some m⟩] }) m e
  | none => countDie (modSys s fun y => { y with setWait := y.setWait ++ [⟨i, line, none⟩] }) (homeDie (128 * line)) 2

/-- RdS (R251). -/
def dirRds (s : State) (line die : Nat) : State :=
  match dirAt s line with
  | none =>
    if !wayFree s line then waitForWay s (.rds line die) line
    else sendMsg (setDir (installCopy s line die false) line (newEntry (.us die))) (.ack line die)
  | some e =>
    match e.state with
    | .s => sendMsg (setDir (installCopy s line die false) line { e with state := .us die }) (.ack line die)
    | .x => sendMsg (setDir s line { e with state := .xs (.rds die) }) (.rcls line (ownerOf e.sharers))
    | _ => enqueue s line e (.rds die)

/-- RdX (R251). -/
def dirRdx (s : State) (line die : Nat) : State :=
  match dirAt s line with
  | none =>
    if !wayFree s line then waitForWay s (.rdx line die) line
    else sendMsg (setDir (installCopy s line die true) line (newEntry (.ux die))) (.ack line die)
  | some e =>
    match e.state with
    | .s => invalidate s line e ((holders e.sharers).filter (· != die)) (.rdx die)
    | .x => sendMsg (setDir s line { e with state := .xu (.rdx die) }) (.rcli line (ownerOf e.sharers))
    | _ => enqueue s line e (.rdx die)

/-- Upg (R251); in any state but S it is a RdX, since the sender's bit is clear there. -/
def dirUpg (s : State) (line die : Nat) : State :=
  match dirAt s line with
  | none => dirRdx s line die
  | some e =>
    match e.state with
    | .s =>
      if e.sharers.getLsbD die then invalidate s line e ((holders e.sharers).filter (· != die)) (.upg die)
      else dirRdx s line die
    | .x => dirRdx s line die
    | _ => enqueue s line e (.upg die)

/-- Ack (R251). -/
def dirAck (s : State) (line die : Nat) : State :=
  match dirAt s line with
  | none => s
  | some e =>
    match e.state with
    | .us d => if d = die then stable s line e .s (e.sharers ||| bit5 d) else s
    | .ux d => if d = die then stable s line e .x (bit5 d) else s
    | _ => s

/-- Inv reaches a sharer (R250). -/
def dirInv (s : State) (line die : Nat) : State := sendMsg (l2Drop s die line) (.invack line die)

/-- InvAck (R251). -/
def dirInvAck (s : State) (line die : Nat) : State :=
  match dirAt s line with
  | none => s
  | some e =>
    match e.state with
    | .sx r =>
      let e := { e with sharers := e.sharers &&& ~~~ bit5 die, acks := e.acks - 1 }
      if e.acks = 0 then finishSx s line e r else setDir s line e
    | _ => s

/-- RclS or FwdIO reaches the owner: dirty bytes go home, the copy stays shared (R250). -/
def ownerShares (s : State) (line die : Nat) : State × Bool × LineData × LineMask :=
  match l2Find s die line with
  | none => (s, false, 0, 0)
  | some x => (l2Put s die { x with excl := false, dirty := 0 }, true, x.data, x.dirty)

def dirRcls (s : State) (line die : Nat) : State :=
  let (s, h, d, m) := ownerShares s line die
  sendMsg s (.rclack line die h d m)
/-- FwdIO: the owner's line goes to the I/O agent as well. -/
def dirFwdio (s : State) (line die : Nat) : State :=
  let (s, h, d, m) := ownerShares s line die
  sendMsg (if h then hostGets s line d else s) (.fwdack line die h d m)
/-- RclI reaches the owner: dirty bytes go home, the line is dropped (R250). -/
def dirRcli (s : State) (line die : Nat) : State :=
  match l2Find s die line with
  | none => sendMsg s (.rclack line die false 0 0)
  | some x => sendMsg (l2Drop s die line) (.rclack line die true x.data x.dirty)

/-- RclAck and FwdAck (R251, R252). -/
def dirRclAck (s : State) (line die : Nat) (h : Bool) (data : LineData) (mask : LineMask) : State :=
  match dirAt s line with
  | none => s
  | some e =>
    match e.state with
    | .xs r =>
      let s := if h then homeMerge s line data mask else s
      let sh : BitVec 5 := if h && e.sharers.getLsbD die then bit5 die else 0
      match r with
      | .rds d => sendMsg (setDir (installCopy s line d false) line { e with state := .us d, sharers := sh }) (.ack line d)
      | _ =>
        let s := if r == .rdio && !h then hostGets s line (memLine s.sys.mem line) else s
        if sh = 0 then toU s line e else stable s line e .s sh
    | .xu r =>
      let s := if h then homeMerge s line data mask else s
      finishSx s line { e with sharers := 0 } r
    | _ => s

/-- WbX (R250 to R252): the owner's bytes merge and its copy is gone. -/
def dirWbx (s : State) (line die : Nat) (data : LineData) (mask : LineMask) : State :=
  match dirAt s line with
  | none => s
  | some e =>
    if e.sharers.getLsbD die then
      match e.state with
      | .x => toU (homeMerge (l2Drop s die line) line data mask) line e
      | .xs _ => setDir (homeMerge (l2Drop s die line) line data mask) line { e with sharers := 0 }
      | .xu _ => setDir (homeMerge (l2Drop s die line) line data mask) line { e with sharers := 0 }
      | _ => s
    else s

/-- EvS (R250 to R252): a clean copy is gone. -/
def dirEvs (s : State) (line die : Nat) : State :=
  match dirAt s line with
  | none => s
  | some e =>
    if !e.sharers.getLsbD die || (l2Find s die line).any (fun x => x.dirty != 0) then s
    else
      let s := l2Drop s die line
      let e := { e with sharers := e.sharers &&& ~~~ bit5 die }
      match e.state with
      | .s => if e.sharers = 0 then toU s line e else setDir s line e
      | .x => toU s line e
      | _ => setDir s line e

/-- RdIO (R251, R256): the value goes out to the host; a line in X is forwarded. -/
def dirRdio (s : State) (line : Nat) : State :=
  match dirAt s line with
  | none => hostGets s line (memLine s.sys.mem line)
  | some e =>
    match e.state with
    | .s => hostGets (setDir s line e) line (memLine s.sys.mem line)
    | .x => sendMsg (setDir s line { e with state := .xs .rdio }) (.fwdio line (ownerOf e.sharers))
    | _ => enqueue s line e .rdio

/-- A write into the home copy (R251): `r` is the request it waits as. -/
def dirWrite (s : State) (line : Nat) (data : LineData) (mask : LineMask) (r : DirReq) : State :=
  match dirAt s line with
  | none => wrote (homeMerge s line data mask) r
  | some e =>
    match e.state with
    | .s => invalidate s line e (holders e.sharers) r
    | .x => sendMsg (setDir s line { e with state := .xu r }) (.rcli line (ownerOf e.sharers))
    | _ => enqueue s line e r

/-- One message reaches its end. -/
def deliverMsg (s : State) : DirMsg → State
  | .rds l d => dirRds s l d
  | .rdx l d => dirRdx s l d
  | .upg l d => dirUpg s l d
  | .ack l d => dirAck s l d
  | .inv l d => dirInv s l d
  | .invack l d => dirInvAck s l d
  | .rcls l d => dirRcls s l d
  | .rcli l d => dirRcli s l d
  | .fwdio l d => dirFwdio s l d
  | .rclack l d h x m => dirRclAck s l d h x m
  | .fwdack l d h x m => dirRclAck s l d h x m
  | .wbx l d x m => dirWbx s l d x m
  | .evs l d => dirEvs s l d
  | .rdio l => dirRdio s l
  | .wrio l x m => dirWrite s l x m (.wrio x m)

/-- The line of a message, and whether it is a request. -/
def msgLine : DirMsg → Nat
  | .rds line _ => line
  | .rdx line _ => line
  | .upg line _ => line
  | .wbx line _ _ _ => line
  | .evs line _ => line
  | .rdio line => line
  | .wrio line _ _ => line
  | .ack line _ => line
  | .inv line _ => line
  | .invack line _ => line
  | .rcls line _ => line
  | .rcli line _ => line
  | .rclack line _ _ _ _ => line
  | .fwdio line _ => line
  | .fwdack line _ _ _ _ => line
def isRequest : DirMsg → Bool
  | .rds .. => true
  | .rdx .. => true
  | .upg .. => true
  | .rdio .. => true
  | .wrio .. => true
  | _ => false
/-- The die that has sent a message to the home. -/
def sender : DirMsg → Option Nat
  | .rds _ d => some d
  | .rdx _ d => some d
  | .upg _ d => some d
  | .wbx _ d _ _ => some d
  | .evs _ d => some d
  | .invack _ d => some d
  | .rclack _ d _ _ _ => some d
  | .fwdack _ d _ _ _ => some d
  | _ => none
/-- A message leaves the network. -/
def takeMsg (s : State) (m : DirMsg) : State := modSys s fun y => { y with msgs := y.msgs.erase m }
/-- The oldest request to a line that the network, or its queue at the home, holds. -/
def nextRequest (s : State) (line : Nat) : Option DirMsg := s.sys.msgs.find? fun m => isRequest m && msgLine m == line
/-- The oldest message about a line that a die has sent and that has not come to the home. -/
def nextFrom (s : State) (line : Nat) (d : Option Nat) : Option DirMsg := s.sys.msgs.find? fun m => msgLine m == line && sender m == d
/-- A message can be delivered: its line's home runs (R370), a request comes after the older ones of its line, and what a die sends
about a line comes in order: an acknowledgement after the write-back that it sent before (R252). -/
def msgRuns (s : State) (m : DirMsg) : Bool :=
  !homeStands s (msgLine m) && (!isRequest m || nextRequest s (msgLine m) == some m) &&
    ((sender m).isNone || nextFrom s (msgLine m) (sender m) == some m)

/-- A request from the host comes to its home, behind those of its line that wait there (R252). -/
def hostAsks (s : State) (m : DirMsg) : State :=
  if (nextRequest s (msgLine m)).isSome then sendMsg s m else deliverMsg s m
/-- The host link delivers a write: it is performed after those delivered before it (R274). -/
def hostWrite (s : State) (line : Nat) (data : LineData) (mask : LineMask) : State :=
  let t := modSys s fun y => { y with hostw := y.hostw ++ [(line, data, mask)] }
  if s.sys.hostw.isEmpty then hostAsks t (.wrio line data mask) else t
/-- A write of the host to the line has been delivered and waits for earlier ones: a read of the host comes after it (R261,
R263). -/
def hostBehind (s : State) (line : Nat) : Bool := (s.sys.hostw.drop 1).any fun w => w.1 == line

/-- The messages in flight run, oldest first, until none is left that can. -/
def runMsgs : Nat → State → State
  | 0, s => s
  | n + 1, s =>
    match s.sys.msgs.find? (msgRuns s) with
    | none => s
    | some m => runMsgs n (deliverMsg (takeMsg s m) m)

/-- Messages that one settling may run. -/
def msgFuel : Nat := 4096
def settle (s : State) : State := runMsgs msgFuel s

/-- A home-die read that misses: an owner is recalled to S (R251); an entry in S is used (R253). -/
def homeFetch (s : State) (line : Nat) : State :=
  let s := settle s
  match dirAt s line with
  | none => s
  | some e =>
    if e.state == .x then
      settle (sendMsg (setDir s line { e with state := .xs .homeRead }) (.rcls line (ownerOf e.sharers)))
    else if e.state == .s then setDir s line e
    else s

/-- A home-die write (R251). -/
def homeWrite (s : State) (line : Nat) (data : LineData) (mask : LineMask) : State :=
  settle (dirWrite (settle s) line data mask (.homeWrite data mask))

/-- Read at the home slice; a line of an NC page has no entry (R255). -/
def sliceRead (s : State) (line : Nat) (nc : Bool) : State × LineData :=
  let s := if nc then s else homeFetch s line
  (s, memLine s.sys.mem line)
/-- Write at the home slice. -/
def sliceWrite (s : State) (line : Nat) (data : LineData) (mask : LineMask) (nc : Bool) : State :=
  if mask = 0 then s else if nc then homeMerge s line data mask else homeWrite s line data mask

/-- Bytes at the home copy, read coherently: page tables, records of Folop, the Pavilion's reads (R240, R256). -/
def coherentRead (s : State) (pa n : Nat) : State × List Byte :=
  let s := homeFetch s (pa / 128)
  let s := if (pa + n - 1) / 128 = pa / 128 then s else homeFetch s ((pa + n - 1) / 128)
  (s, memRead s.sys.mem pa n)

/-! ### The die L2 (R247, R251, R255) -/

/-- A line as the die L2 gives it: the home copy on its home die, else the die's own copy, fetched if need be. -/
def dieRead (s : State) (die line : Nat) (nc : Bool) : State × LineData :=
  if homeDie (128 * line) = die then sliceRead s line nc
  else
    match l2Find s die line with
    | some x =>
      if x.stale then
        let d := mergeLine (memLine s.sys.mem line) x.data x.dirty
        (l2Put s die { x with data := d, stale := false }, d)
      else (s, x.data)
    | none =>
      if nc then
        let d := memLine s.sys.mem line
        (l2Put s die { line := line, data := d, dirty := 0, excl := false, nc := true, stale := false }, d)
      else
        let s := settle (sendMsg (settle s) (.rds line die))
        (s, match l2Find s die line with | some x => x.data | none => memLine s.sys.mem line)

/-- Bytes written into the die L2: the home slice on the home die, else the die's copy, held in X (R259). -/
def dieWrite (s : State) (die line : Nat) (data : LineData) (mask : LineMask) (nc : Bool) : State :=
  if mask = 0 then s
  else if homeDie (128 * line) = die then sliceWrite s line data mask nc
  else
    let s := if nc then (dieRead s die line nc).1 else
      let s := settle s
      match l2Find s die line with
      | some x => if x.excl then s else settle (sendMsg s (.upg line die))
      | none => settle (sendMsg s (.rdx line die))
    match l2Find s die line with
    | some x => l2Put s die { x with data := mergeLine x.data data mask, dirty := x.dirty ||| mask }
    | none => homeMerge s line data mask

/-- The die's copy of a remote line goes home and is dropped: a capacity eviction, EVICT, WBINV (R236, R250, R255). -/
def dieEvict (s : State) (die line : Nat) : State :=
  let s := settle s
  match l2Find s die line with
  | none => s
  | some x => settle (l2Out s die x)

/-- Every dirty NC line of a die goes home (R255). -/
def ncWriteBack (s : State) (die : Nat) : State :=
  let s := (l2Of s die).foldl (fun s x => if x.nc then homeMerge s x.line x.data x.dirty else s) s
  setL2 s die ((l2Of s die).map fun x => if x.nc then { x with dirty := 0 } else x)
/-- Every clean NC line leaves the die's L2 (R255); of a dirty one only the dirty bytes stay good (R261). -/
def ncDrop (s : State) (die : Nat) : State :=
  setL2 s die (((l2Of s die).filter fun x => !(x.nc && x.dirty == 0)).map fun x => if x.nc then { x with stale := true } else x)
/-- The dirty bytes of one NC line of a die go home, and its copy is dropped. -/
def ncFlush (s : State) (die line : Nat) : State :=
  match l2Find s die line with
  | some x => if x.nc then l2Out s die x else s
  | none => s

/-! ### The cluster ways (R247) -/

def waysOf (s : State) (g : Nat) : List CLine := Tab.get [] s.sys.ways g
def setWays (s : State) (g : Nat) (xs : List CLine) : State :=
  modSys s fun y => { y with ways := Tab.set [] y.ways g xs }
def clineFind (l : List CLine) (line : Nat) : Option CLine := l.find? fun x => x.line == line
def clineDrop (l : List CLine) (line : Nat) : List CLine := l.filter fun x => x.line != line
/-- The line that leaves when its set of `sets` holds more than `assoc` lines: the least recently used. -/
def clineVictim (l : List CLine) (line sets assoc : Nat) : Option CLine :=
  let same := l.filter fun x => x.line % sets == line % sets
  if assoc < same.length then same.getLast? else none

/-- A line leaves a cluster's ways for the die L2, dirty bytes by mask. -/
def evictWay (s : State) (g line : Nat) : State :=
  match clineFind (waysOf s g) line with
  | none => s
  | some x => dieWrite (setWays s g (clineDrop (waysOf s g) line)) (g / 4) line x.data x.dirty x.nc

def wayAssoc (s : State) (g : Nat) : Nat := 24 - Tab.get 0 s.sys.scratch g
def putWay (s : State) (g : Nat) (x : CLine) : State :=
  let s := setWays s g (x :: clineDrop (waysOf s g) x.line)
  match clineVictim (waysOf s g) x.line 8192 (wayAssoc s g) with
  | none => s
  | some v => evictWay s g v.line

/-- A line as a cluster's ways give it, filled from the die L2 on a miss. -/
def wayRead (s : State) (g line : Nat) (nc : Bool) : State × LineData :=
  match clineFind (waysOf s g) line with
  | some x =>
    if x.stale then
      let (s, d) := dieRead s (g / 4) line nc
      let d := mergeLine d x.data x.dirty
      (setWays s g ({ x with data := d, stale := false } :: clineDrop (waysOf s g) line), d)
    else (setWays s g (x :: clineDrop (waysOf s g) line), x.data)
  | none =>
    let (s, d) := dieRead s (g / 4) line nc
    (putWay s g { line := line, data := d, dirty := 0, nc := nc, stale := false }, d)

def wayWrite (s : State) (g line : Nat) (data : LineData) (mask : LineMask) (nc : Bool) : State :=
  if mask = 0 then s else
  let (s, old) := wayRead s g line nc
  let dirty := match clineFind (waysOf s g) line with | some x => x.dirty | none => 0
  putWay s g { line := line, data := mergeLine old data mask, dirty := dirty ||| mask, nc := nc, stale := false }

/-- Dirty bytes of a cluster's line go to the die L2 (`toHome` false) or the home slice; the line stays, clean. -/
def cleanWay (s : State) (g : Nat) (toHome : Bool) (x : CLine) : State :=
  if x.dirty = 0 then s else
  let s := setWays s g ((waysOf s g).map fun y => if y.line == x.line then { y with dirty := 0 } else y)
  if toHome then
    let s := sliceWrite s x.line x.data x.dirty x.nc
    match l2Find s (g / 4) x.line with
    | some z => if x.nc then l2Put s (g / 4) { z with data := mergeLine z.data x.data x.dirty, dirty := z.dirty &&& ~~~ x.dirty } else s
    | none => s
  else dieWrite s (g / 4) x.line x.data x.dirty x.nc

def cleanWays (s : State) (g : Nat) (toHome : Bool) : State := (waysOf s g).foldl (fun s x => cleanWay s g toHome x) s
/-- What an acquire leaves of some lines: those that hold a dirty byte, whose other bytes come from below again (R259,
R261). -/
def keepDirty (l : List CLine) : List CLine := (l.filter fun x => x.dirty != 0).map fun x => { x with stale := true }
def dropCleanWays (s : State) (g : Nat) : State := setWays s g (keepDirty (waysOf s g))

/-! ### Full bits and pinned ways (R211, R242) -/

def fullBit (s : State) (line : Nat) : Bool := Tab.get false s.sys.full line
def setFull (s : State) (line : Nat) (b : Bool) : State :=
  modSys s fun y => { y with full := Tab.set false y.full line b }

/-- An access to a HOME=10 line: it takes a pinned way of its set when one is free, else it is counted (R242). -/
def touchPinned (s : State) (line : Nat) : State :=
  if s.sys.pinned.contains line then s
  else
    let die := homeDie (128 * line)
    if (pinnedBeside s die line).length < Tab.get 0 s.sys.pinWays die then modSys s fun y => { y with pinned := line :: y.pinned }
    else countDie s die 3

end Sys2Proof.Machine
end

