-- ==== Sys2Proof/Machine/Memory.lean ====
section
/-! DEFINITION. Translation (R237 to R246) and a core's memory path: store buffer, L1, the releases and acquires of
every scope, loads, stores, cache operations and atomics as they are performed (R116, R117, R235, R236, R255 to
R264, R276 to R288). -/

namespace Sys2Proof.Machine
open Sys2Proof

/-! ### Lifetime counters (R379) -/

def lifetime (p : Power) (off : Nat) : Nat := Tab.get 0 p.live off
def countLife (s : State) (off : Nat) : State :=
  modPower s fun p => { p with live := Tab.set 0 p.live off (min ctrMax (lifetime p off + 1)) }

/-! ### Translation -/

/-- Why a translation gives no access: not canonical, no valid leaf, W = 0, or an ASID that is being torn down. -/
inductive XErr where
  | nonCanon | invalid | perm | dead
deriving DecidableEq, Repr

/-- The cause code (R220). -/
def XErr.cause : XErr → Nat
  | .perm => 7
  | _ => 6

/-- A translated access. -/
structure Xl where
  pa : Nat
  home : BitVec 2
  nc : Bool
deriving DecidableEq, Repr

/-- Bits [63:56] are all equal (R116, R237). -/
def canonical (va : Nat) : Bool := va / 2 ^ 56 % 256 == 0 || va / 2 ^ 56 % 256 == 255

/-- A leaf entry (R239, R240) and its page size, or a fault. -/
def checkLeaf (s : State) (lv e : Nat) : Except XErr (Nat × Nat) :=
  let ps64 := e.testBit 5
  let size := if lv = 1 then 2 ^ 30 else if lv = 2 then 2 ^ 21 else if ps64 then 2 ^ 16 else 2 ^ 12
  let frame := bitsOf e 12 40 * 4096
  let home := bitsOf e 6 2
  if lv = 0 || bitsOf e 3 2 ≠ 0 || bitsOf e 9 3 ≠ 0 || e.testBit 63 || (ps64 && lv ≠ 3) then .error .invalid
  else if frame % size ≠ 0 || !backed s frame size then .error .invalid
  else if (home = 1) != (scratchCluster s frame).isSome then .error .invalid
  else if (inDoorbell frame || inCounters frame) && home ≠ 3 then .error .invalid
  else .ok (e, size)

/-- The levels of a walk (R238): level and the lowest VA bit of its index. -/
def walkLevels : List (Nat × Nat) := [(0, 39), (1, 30), (2, 21), (3, 12)]

/-- The entry of a level's table that an address takes (R238). -/
def walkIndex (lv sh va : Nat) : Nat := va / 2 ^ sh % (if lv = 0 then 2 ^ 18 else 512)
/-- A walk (R240) from a table on: each entry is read coherently at its home; with the pointer entries that it read.  A pointer
with a bit that R239 says must be 0, and one at level 3, are no valid entries (DESIGN CHOICE, log entry 93). -/
def walkFrom (s : State) (die asid va tbl : Nat) : List (Nat × Nat) → State × Except XErr (Nat × Nat × List WalkEntry)
  | [] => (s, .error .invalid)
  | (lv, sh) :: t =>
    let (s, bs) := coherentRead s (tbl + 8 * walkIndex lv sh va) 8
    let e := bytesNat bs
    if e % 4 = 1 then
      if bitsOf e 2 10 ≠ 0 || e.testBit 63 then (s, .error .invalid)
      else
        let next := bitsOf e 12 40 * 4096
        match walkFrom s die asid va next t with
        | (s, .error x) => (s, .error x)
        | (s, .ok (leaf, size, ps)) => (s, .ok (leaf, size, ⟨die, asid, sh, va / 2 ^ sh, next⟩ :: ps))
    else if e % 4 = 2 then (s, (checkLeaf s lv e).map fun x => (x.1, x.2, []))
    else (s, .error .invalid)

def asidAt (s : State) (a : Nat) : AsidEntry := Tab.get .reset s.pav.asids a

/-- The walk cache of a die holds 1,024 pointer entries, the newest (R245; DESIGN CHOICE, log entry 9). -/
def trimWalks (die : Nat) : Nat → List WalkEntry → List WalkEntry
  | _, [] => []
  | cap, w :: r =>
    if w.die ≠ die then w :: trimWalks die cap r
    else if cap = 0 then trimWalks die 0 r else w :: trimWalks die (cap - 1) r
def walkFind (s : State) (die asid va sh : Nat) : Option WalkEntry :=
  s.sys.walks.find? fun w => w.die == die && w.asid == asid && w.shift == sh && w.pre == va / 2 ^ sh
/-- The lowest table that the walk cache knows, and the levels that are left; else the root. -/
def walkStart (s : State) (die asid va root : Nat) : Nat × List (Nat × Nat) :=
  match walkFind s die asid va 21 with
  | some w => (w.table, [(3, 12)])
  | none =>
    match walkFind s die asid va 30 with
    | some w => (w.table, [(2, 21), (3, 12)])
    | none =>
      match walkFind s die asid va 39 with
      | some w => (w.table, [(1, 30), (2, 21), (3, 12)])
      | none => (root, walkLevels)
/-- A walk under an ASID (R244): a walk that does not fault leaves its pointer entries in the walk cache (R245). -/
def walk (s : State) (die asid va : Nat) : State × Except XErr (Nat × Nat) :=
  let e := asidAt s asid
  if !e.v then (s, .error .invalid)
  else if e.dying then (s, .error .dead)
  else
    let (tbl, levels) := walkStart s die asid va e.root
    match walkFrom s die asid va tbl levels with
    | (s, .error x) => (s, .error x)
    | (s, .ok (leaf, size, ps)) => (modSys s fun y => { y with walks := trimWalks die 1024 (ps ++ y.walks) }, .ok (leaf, size))

def tlbFind (s : State) (unit asid va : Nat) : Option TlbEntry :=
  s.sys.tlb.find? fun t => t.unit == unit && t.asid == asid && va / t.size == t.va / t.size

/-- Two entries of one unit contend: any two of a micro-TLB, two of one set of a die TLB (R245). -/
def tlbClash (a b : TlbEntry) : Bool :=
  a.unit == b.unit && (a.unit < 128 || a.va / a.size % 2048 == b.va / b.size % 2048)
/-- Keep at most `cap` of the entries that contend with one, the newest (DESIGN CHOICE, log entry 9). -/
def trimUnit (x : TlbEntry) : Nat → List TlbEntry → List TlbEntry
  | _, [] => []
  | cap, t :: r =>
    if !tlbClash x t then t :: trimUnit x cap r
    else if cap = 0 then trimUnit x 0 r else t :: trimUnit x (cap - 1) r

def tlbCap (unit : Nat) : Nat := if unit < 128 then 64 else 8
def tlbInstall (s : State) (t : TlbEntry) : State :=
  modSys s fun y => { y with tlb := trimUnit t (tlbCap t.unit) (t :: y.tlb) }

/-- The leaf of a page: from the unit's micro-TLB, else from the die's TLB, else by a walk, which both then hold
(R245). -/
def findLeaf (s : State) (unit die asid va : Nat) : State × Except XErr (Nat × Nat) :=
  match tlbFind s unit asid va with
  | some t => (s, .ok (t.leaf.toNat, t.size))
  | none =>
    match tlbFind s (128 + die) asid va with
    | some t => (tlbInstall s { t with unit := unit }, .ok (t.leaf.toNat, t.size))
    | none =>
      match walk s die asid va with
      | (s, .error e) => (s, .error e)
      | (s, .ok (leaf, size)) =>
        let t : TlbEntry := { unit := 128 + die, asid := asid, va := va / size * size, size := size, leaf := BitVec.ofNat 64 leaf }
        let s := tlbInstall s t
        (if unit = 128 + die then s else tlbInstall s { t with unit := unit }, .ok (leaf, size))

/-- Translate an address: the leaf, the permission, the physical address (R239, R245). -/
def translate (s : State) (unit die asid : Nat) (va : Nat) (write : Bool) : State × Except XErr Xl :=
  if !canonical va then (s, .error .nonCanon) else
  let va := va % 2 ^ 57
  match findLeaf s unit die asid va with
  | (s, .error e) => (s, .error e)
  | (s, .ok (leaf, size)) =>
    if write && !leaf.testBit 2 then (s, .error .perm)
    else
      let pa := bitsOf leaf 12 40 * 4096 + va % size
      if inHost pa then (s, .ok ⟨pa, 3, false⟩) else (s, .ok ⟨pa, BitVec.ofNat 2 (bitsOf leaf 6 2), leaf.testBit 8⟩)

/-- A sequencer's translation (R116). -/
def seqTranslate (s : State) (c va : Nat) (write : Bool) : State × Except XErr Xl :=
  translate s c (dieOf c) (coreAt s c).ctl.asid.toNat va write
/-- A loader's translation: its own micro-TLB (R245).  At the copy aperture's address it and the next are as at any other (DESIGN
CHOICE, log entry 81). -/
def loaderTranslate (s : State) (c va : Nat) (write : Bool) : State × Except XErr Xl :=
  translate s (64 + c) (dieOf c) (coreAt s c).ctl.asid.toNat va write
/-- The copy engines use the die's TLB alone (R245); so does the I/O die's walk for the Pavilion, unit 132. -/
def dieTranslate (s : State) (die asid va : Nat) (write : Bool) : State × Except XErr Xl :=
  translate s (128 + die) die asid va write

/-! ### Single copies (R241, R242, R256) -/

/-- Every posted host-window store reaches the host (R256, R257). -/
def deliverPosted (s : State) : State :=
  modSys s fun y =>
    { y with posted := [], mem := y.posted.foldl (fun m p => memMask m p.pa p.data p.mask 8) y.mem }

/-- Bytes enter the I/O die's posted write path, an entry for each aligned doubleword (R262). -/
def postBytes (s : State) (pa : Nat) (bs : List Byte) : State :=
  let off := pa % 8
  let v := bytesNat bs * 256 ^ off
  let m := (2 ^ bs.length - 1) * 2 ^ off
  modSys s fun y => { y with posted := y.posted ++ (List.range ((off + bs.length + 7) / 8)).map fun i =>
    { pa := pa / 8 * 8 + 8 * i, data := BitVec.ofNat 64 (v / 256 ^ (8 * i)), mask := BitVec.ofNat 8 (m / 2 ^ (8 * i)) } }

/-! ### Doorbells (R350, R351) -/

def queueError (s : State) (q code : Nat) : State :=
  setQueue s q { queueAt s q with state := if (queueAt s q).state = 3 then 3 else 2, err := BitVec.ofNat 8 code }
/-- Post the queue's event if none is pending. -/
def postEvent (s : State) (q : Nat) : State :=
  if (queueAt s q).posted then s
  else modPav (setQueue s q { queueAt s q with posted := true }) fun p => { p with events := p.events ++ [q] }
/-- R350. -/
def doorbell (s : State) (q w : Nat) : State :=
  let x := queueAt s q
  if x.state ≠ 1 || w ≤ x.write then s
  else if 2 ^ x.logsz < w - x.read then queueError s q 1
  else postEvent (setQueue s q { x with write := w }) q
/-- The Pavilion's clock runs (R370): its island is not in RET or OFF. -/
def pavRuns (s : State) : Bool :=
  match Tab.get .a0 s.power.islands 20 with
  | .ret => false
  | .off => false
  | _ => true
/-- A doorbell store reaches the I/O die, which applies it, or keeps it until the Pavilion runs (R351); host writes that have been
delivered before are performed before it (R274, R355). -/
def ringBell (s : State) (q w : Nat) : State :=
  if pavRuns s && s.pav.bells.isEmpty then doorbell (settle s) q w else modPav s fun p => { p with bells := p.bells ++ [(q, w)] }

/-- A doubleword of the Orangery's counter page: queue n's counters at 128·n, the device-wide ones at 0x800 (R340). -/
def oraCounter (s : State) (off : Nat) : Nat :=
  let i := off % 128 / 8
  if off < 0x800 then (if i < 10 then Tab.get 0 s.ora.ctr (16 * (off / 128) + i) else 0)
  else if off / 8 - 256 < 5 then Tab.get 0 s.ora.ctr (256 + (off / 8 - 256))
  else if off / 8 = 261 then s.ora.table.length
  else 0
/-- A byte of the page; bits [63:48] of each doubleword are RES. -/
def oraCounterByte (s : State) (off : Nat) : Byte := BitVec.ofNat 8 (bitsOf (oraCounter s off % 2 ^ 48) (8 * (off % 8)) 8)

/-- Read bytes of a line that has a single copy; a load of the host window comes behind the stores that are posted there, whichever
core's they are (DESIGN CHOICE, log entry 95). -/
def singleRead (s : State) (x : Xl) (n : Nat) : State × List Byte :=
  if inDoorbell x.pa then (s, List.replicate n 0)
  else if inCounters x.pa then (s, (List.range n).map fun i => oraCounterByte s (x.pa % 4096 + i))
  else
    let s := if inHost x.pa then deliverPosted s else if x.home = 2 then touchPinned s (x.pa / 128) else s
    (s, memRead s.sys.mem x.pa n)

/-- Write bytes of an aligned doubleword that has a single copy. -/
def singleWrite (s : State) (pa : Nat) (data : Dword) (mask : Byte) (home : BitVec 2) : State :=
  if inDoorbell pa then
    if pa % 4096 = 0 && mask = 255 then ringBell s ((pa - 0x7FF0000000000) / 4096) data.toNat else s
  else if inCounters pa then s
  else if inHost pa then modSys s fun y => { y with posted := y.posted ++ [⟨pa, data, mask⟩] }
  else
    let s := if home = 2 then touchPinned s (pa / 128) else s
    modSys s fun y => { y with mem := memMask y.mem pa data mask 8 }

/-- The doublewords of a line that a mask names, for the host window. -/
def linePosts (pa : Nat) (d : LineData) (m : LineMask) : List Posted :=
  (List.range 16).filterMap fun i =>
    if (m.toNat / 2 ^ (8 * i)) % 256 = 0 then none
    else some { pa := pa + 8 * i, data := d.extractLsb' (64 * i) 64, mask := m.extractLsb' (8 * i) 8 }
def postLine (s : State) (pa : Nat) (d : LineData) (m : LineMask) : State :=
  modSys s fun y => { y with posted := y.posted ++ linePosts pa d m }
/-- Write bytes of a line that has a single copy, in one write: a doorbell and the counters take none of a loader or a copy. -/
def singleLine (s : State) (x : Xl) (d : LineData) (m : LineMask) : State :=
  if inDoorbell x.pa || inCounters x.pa then s
  else if inHost x.pa then postLine s (x.pa / 128 * 128) d m
  else homeMerge (if x.home = 2 then touchPinned s (x.pa / 128) else s) (x.pa / 128) d m

/-! ### L1 (R247) -/

def l1Of (s : State) (c : Nat) : List CLine := (coreAt s c).mem.l1
def setL1 (s : State) (c : Nat) (l : List CLine) : State := modMem s c fun m => { m with l1 := l }

def evictL1 (s : State) (c line : Nat) : State :=
  match clineFind (l1Of s c) line with
  | none => s
  | some x => wayWrite (setL1 s c (clineDrop (l1Of s c) line)) (clusterOf c) line x.data x.dirty x.nc

def putL1 (s : State) (c : Nat) (x : CLine) : State :=
  let s := setL1 s c (x :: clineDrop (l1Of s c) x.line)
  match clineVictim (l1Of s c) x.line 128 4 with
  | none => s
  | some v => evictL1 s c v.line

def l1Read (s : State) (c line : Nat) (nc : Bool) : State × LineData :=
  match clineFind (l1Of s c) line with
  | some x =>
    if x.stale then
      let (s, d) := wayRead s (clusterOf c) line nc
      let d := mergeLine d x.data x.dirty
      (setL1 s c ({ x with data := d, stale := false } :: clineDrop (l1Of s c) line), d)
    else (setL1 s c (x :: clineDrop (l1Of s c) line), x.data)
  | none =>
    let (s, d) := wayRead s (clusterOf c) line nc
    (putL1 s c { line := line, data := d, dirty := 0, nc := nc, stale := false }, d)

def l1Write (s : State) (c line : Nat) (data : LineData) (mask : LineMask) (nc : Bool) : State :=
  let (s, old) := l1Read s c line nc
  let dirty := match clineFind (l1Of s c) line with | some x => x.dirty | none => 0
  putL1 s c { line := line, data := mergeLine old data mask, dirty := dirty ||| mask, nc := nc, stale := false }

/-- Dirty bytes of an L1 line go into the ways; the line stays, clean. -/
def cleanL1 (s : State) (c : Nat) (x : CLine) : State :=
  if x.dirty = 0 then s else
  wayWrite (setL1 s c ((l1Of s c).map fun y => if y.line == x.line then { y with dirty := 0 } else y))
    (clusterOf c) x.line x.data x.dirty x.nc
def cleanL1All (s : State) (c : Nat) : State := (l1Of s c).foldl (fun s x => cleanL1 s c x) s
def dropCleanL1 (s : State) (c : Nat) : State := setL1 s c (keepDirty (l1Of s c))

/-- The dirty bytes of one line go from the L1 into the ways. -/
def cleanL1Line (s : State) (c line : Nat) : State :=
  match clineFind (l1Of s c) line with
  | some x => cleanL1 s c x
  | none => s
/-- The dirty bytes of one line leave a cluster's ways. -/
def cleanWayLine (s : State) (g : Nat) (toHome : Bool) (line : Nat) : State :=
  match clineFind (waysOf s g) line with
  | some x => cleanWay s g toHome x
  | none => s

/-! ### The store buffer (R117, R247) -/

def sbOf (s : State) (c : Nat) : List StoreEnt := (coreAt s c).mem.sb

/-- One entry leaves the buffer. -/
def landStore (s : State) (c : Nat) (e : StoreEnt) : State :=
  if e.home = 0 then
    let (d, _) := lineSpan (e.pa % 128) (natBytes 8 e.data.toNat)
    l1Write s c (e.pa / 128) d (BitVec.ofNat 128 (e.mask.toNat * 2 ^ (e.pa % 128))) e.nc
  else singleWrite s e.pa e.data e.mask e.home

/-- Every entry leaves the buffer, oldest first. -/
def drainSb (s : State) (c : Nat) : State :=
  let l := sbOf s c
  l.foldl (fun s e => landStore s c e) (modMem s c fun m => { m with sb := [] })
/-- The entries that a test names leave the buffer, oldest first. -/
def drainSome (s : State) (c : Nat) (f : StoreEnt → Bool) : State :=
  let l := (sbOf s c).filter f
  l.foldl (fun s e => landStore s c e) (modMem s c fun m => { m with sb := m.sb.filter fun e => !f e })
/-- The entries of one line leave the buffer; of the host window every entry, for their order stays (R256). -/
def drainSbLine (s : State) (c line : Nat) : State :=
  drainSome s c fun e => e.pa / 128 == line || (inHost (128 * line) && inHost e.pa)

/-- Eight data bits for each set mask bit. -/
def byteMask8 (m : Byte) : Dword := BitVec.ofNat 64 (maskNat m.getLsbD 8)
def mergeDword (old new : Dword) (m : Byte) : Dword := (old &&& ~~~ byteMask8 m) ||| (new &&& byteMask8 m)

/-- The entry that a store merges into: the newest one of its doubleword (R247), but not when a load or a release waits
between the two (`l`, its place in order), and not past another store to the host window (R256). -/
def mergesInto (l : Nat) (e x : StoreEnt) (rest : List StoreEnt) : Bool :=
  x.pa == e.pa && x.home == e.home && l ≤ x.seq && !(rest.any fun y => y.pa == e.pa || (inHost e.pa && inHost y.pa))
/-- A store enters the buffer. -/
def pushStore (l : Nat) (e : StoreEnt) : List StoreEnt → List StoreEnt
  | [] => [e]
  | x :: t =>
    if mergesInto l e x t then
      { x with data := mergeDword x.data e.data e.mask, mask := x.mask ||| e.mask, seq := e.seq } :: t
    else x :: pushStore l e t

/-- The bytes that the buffer holds for an access, by address: of each byte the newest. -/
def sbForward (l : List StoreEnt) (pa n : Nat) : Tab Byte :=
  (List.range n).foldl (fun t i =>
    match l.reverse.find? fun e => e.pa == (pa + i) / 8 * 8 && e.mask.getLsbD ((pa + i) % 8) with
    | some e => Tab.put t (pa + i) (e.data.extractLsb' (8 * ((pa + i) % 8)) 8)
    | none => t) []

/-- Bytes overlaid by forwarded ones. -/
def overlay (fwd : Tab Byte) (pa : Nat) : List Byte → List Byte
  | [] => []
  | b :: t => ((Tab.look fwd pa).getD b) :: overlay fwd (pa + 1) t

/-! ### Releases and acquires (R235, R255, R259) -/

/-- The write-backs of a release at scope `sc` (1 CORE to 5 SYSTEM) from L1 on. -/
def writeBacks (s : State) (c sc : Nat) : State :=
  let s := cleanL1All s c
  if sc ≤ 2 then s
  else if sc = 3 then cleanWays s (clusterOf c) false
  else
    let s := ncWriteBack (cleanWays s (clusterOf c) true) (dieOf c)
    if sc = 5 then deliverPosted s else s
/-- The write-backs of a release, after the earlier accesses have been performed. -/
def releaseActs (s : State) (c sc : Nat) : State := writeBacks (drainSb s c) c sc
/-- Those of the release at a place in program order: later stores stay in the buffer (R264). -/
def releaseOlder (s : State) (c sc seq : Nat) : State := writeBacks (drainSome s c fun e => e.seq < seq) c sc

/-- The drops of an acquire at scope `sc`, after its read. -/
def acquireActs (s : State) (c sc : Nat) : State :=
  let s := dropCleanL1 s c
  if sc ≤ 2 then s
  else
    let s := dropCleanWays s (clusterOf c)
    if sc = 3 then s else ncDrop s (dieOf c)

/-- WriteOwnLine (R283): the line's dirty bytes of the core's store buffer and L1 and of its ways go to the single
copy; the L1 and the ways drop it.  So does the die L2 with its own copy of an NC line, whose bytes are older (R255,
R264, R269). -/
def writeOwnLine (s : State) (c line : Nat) : State :=
  let s := cleanL1Line (drainSbLine s c line) c line
  let s := ncFlush (setL1 s c (clineDrop (l1Of s c) line)) (dieOf c) line
  let s := cleanWayLine s (clusterOf c) true line
  setWays s (clusterOf c) (clineDrop (waysOf s (clusterOf c)) line)

/-! ### Atomics (R284 to R288) -/

/-- The seed of an atomic unit's generator (R160, R163, R288): key 20·die + unit, home slices 0-15, cluster memories
16-19. -/
def unitSeed (key : Nat) : Word := BitVec.ofNat 32 ((64 * (key / 20) + key % 20 + 1) * 0x9E3779B9)

/-- AmoResult: the new value; none is no write.  `rnd` is the draw of R288. -/
def amoResult (fn n old v e : Nat) (sr : Bool) (rnd : Nat) : Option Nat :=
  let w := 8 * n
  match fn with
  | 0 => some ((old + v) % 2 ^ w)
  | 1 => some (old &&& v)
  | 2 => some (old ||| v)
  | 3 => some (old ^^^ v)
  | 4 => some (if sInt w v < sInt w old then v else old)
  | 5 => some (if sInt w old < sInt w v then v else old)
  | 6 => some (min old v)
  | 7 => some (max old v)
  | 8 => some v
  | 9 => if old = e then some v else none
  | 10 => some (if v ≤ old then 0 else old + 1)
  | 11 => if v < old then none else some (min (old + e) v)
  | 12 => some (fAdd fp32 .rne old v).1
  | _ =>
    if !sr then some (fAdd bf16 .rne old v).1
    else if bf16.isNaN old || bf16.isNaN v || bf16.isInf old || bf16.isInf v then some (fAdd bf16 .rne old v).1
    else
      let x := (bf16.value old).add (bf16.value v)
      if x.m = 0 then some (fAdd bf16 .rne old v).1
      else some (roundStochastic bf16 (decide (x.m < 0)) x.absNum x.absDen rnd).1

/-- The unit that performs atomics on an address. -/
def atomicUnit (s : State) (pa : Nat) : Nat :=
  match scratchCluster s pa with
  | some g => 20 * (g / 4) + 16 + g % 4
  | none => 20 * homeDie pa + homeSlice pa

/-- Step the unit's generator and draw element 0's bits (R160, R288). -/
def unitDraw (s : State) (pa : Nat) : State × Nat :=
  let u := atomicUnit s pa
  let x := genStep (Tab.get (unitSeed u) s.sys.agen u)
  (modSys s fun y => { y with agen := Tab.set (unitSeed u) y.agen u x }, genBits x 0)

/-- The directory's copies of a coherent line are invalidated or recalled; a HOME=10 line may take a pinned way. -/
def claimLine (s : State) (x : Xl) : State :=
  if x.home = 2 then touchPinned s (x.pa / 128)
  else if x.home = 0 && !x.nc then homeWrite s (x.pa / 128) 0 0
  else s
/-- The draw of a stochastic FADD.BF16 (R288). -/
def atomicDraw (s : State) (pa fn : Nat) (sr : Bool) : State × Nat := if fn = 13 && sr then unitDraw s pa else (s, 0)
/-- One read-modify-write at the single copy's atomic unit (R282, R283). -/
def atomicAt (s : State) (x : Xl) (fn n v e : Nat) (sr : Bool) : State × Nat :=
  let (s, rnd) := atomicDraw (claimLine s x) x.pa fn sr
  let old := bytesNat (memRead s.sys.mem x.pa n)
  match amoResult fn n old v e sr rnd with
  | none => (s, old)
  | some w => (modSys s fun y => { y with mem := memWrite y.mem x.pa (natBytes n w) }, old)

/-! ### Performing accesses -/

/-- The acquire of an access with a scope, the release of one (R259); none for a plain access. -/
def acquireIf (s : State) (c sc : Nat) : State := if sc = 0 then s else acquireActs s c sc
def releaseIf (s : State) (c sc seq : Nat) : State := if sc = 0 then s else releaseOlder s c sc seq
/-- A line read at DEVICE scope from a die: at the home slice, on another die through the directory with RdS, whatever copy that
die holds (R235, R251); an NC line at the home copy. -/
def deviceLine (s : State) (die line : Nat) (nc : Bool) : State × LineData :=
  if nc then (s, memLine s.sys.mem line)
  else if homeDie (128 * line) = die then sliceRead s line false
  else
    let s := settle (sendMsg (settle s) (.rds line die))
    (s, match l2Find s die line with | some x => x.data | none => memLine s.sys.mem line)
/-- A line read where a scope of 2 or more reads it: cluster ways, die L2, home slice (R235). -/
def scopedRead (s : State) (c line sc : Nat) (nc : Bool) : State × LineData :=
  if sc = 2 then wayRead s (clusterOf c) line nc
  else if sc = 3 then dieRead (cleanWayLine s (clusterOf c) false line) (clusterOf c / 4) line nc
  else deviceLine (writeOwnLine s c line) (dieOf c) line nc

/-- The stores in the buffer that are before a place in program order. -/
def olderStores (s : State) (c seq : Nat) : List StoreEnt := (sbOf s c).filter fun e => e.seq < seq

/-- The bytes that a load of scope `sc` reads, with its acquire (R235, R259); a plain one finds the bytes of its core's
earlier stores in the buffer. -/
def loadBytes (s : State) (c : Nat) (x : Xl) (n sc seq : Nat) : State × List Byte :=
  let line := x.pa / 128
  let fwd := sbForward (olderStores s c seq) x.pa n
  if x.home ≠ 0 then
    let (s, bs) := singleRead (if sc = 0 then s else drainSbLine s c line) x n
    (acquireIf s c sc, overlay (if inDoorbell x.pa then [] else fwd) x.pa bs)
  else if sc ≤ 1 then
    let (s, d) := l1Read s c line x.nc
    (acquireIf s c sc, overlay fwd x.pa (lineBytes d (x.pa % 128) n))
  else
    let (s, d) := scopedRead (cleanL1Line (drainSbLine s c line) c line) c line sc x.nc
    (acquireActs s c sc, lineBytes d (x.pa % 128) n)

/-- A loaded value (R116). -/
def loadValue (bs : List Byte) (signed : Bool) : Dword :=
  let v := bytesNat bs
  if signed then BitVec.ofInt 64 (sext (8 * bs.length) v) else BitVec.ofNat 64 v

def pendSeq : PendAcc → Nat
  | .load l => l.seq
  | .amo a => a.seq
  | .store w => w.seq
  | .release r => r.seq
/-- A release without bytes touches no line: its number is past the last one. -/
def pendLine : PendAcc → Nat
  | .load l => l.pa / 128
  | .amo a => a.pa / 128
  | .store w => w.pa / 128
  | .release _ => 2 ^ 45
def pendScope : PendAcc → Nat
  | .load l => l.sc
  | .amo a => a.sc
  | .store w => w.sc
  | .release r => r.sc
/-- An acquire, a release, that has not been performed (R260). -/
def pendAcquire : PendAcc → Bool
  | .load l => l.sc != 0
  | .amo a => a.sc != 0
  | .store _ => false
  | .release _ => false
def pendRelease : PendAcc → Bool
  | .load _ => false
  | .amo a => a.sc != 0
  | .store w => w.sc != 0
  | .release r => r.sc != 0
def isLoad : PendAcc → Bool
  | .load _ => true
  | .amo _ => false
  | .store _ => false
  | .release _ => false
/-- The first byte that an access touches, and how many it does; a release without bytes touches none. -/
def pendPa : PendAcc → Nat
  | .load l => l.pa
  | .amo a => a.pa
  | .store w => w.pa
  | .release _ => 2 ^ 52
def pendLen : PendAcc → Nat
  | .load l => l.n
  | .amo a => a.n
  | .store w => w.n
  | .release _ => 0
/-- Two accesses have a byte in common. -/
def meet (x y : PendAcc) : Bool := decide (pendPa x < pendPa y + pendLen y) && decide (pendPa y < pendPa x + pendLen x)
/-- The register whose result is not present (R11, R40). -/
def pendReg : PendAcc → Nat
  | .load l => l.reg
  | .amo a => if a.ret then a.reg else 0
  | .store _ => 0
  | .release _ => 0

def pendOf (s : State) (c : Nat) : List PendAcc := (coreAt s c).mem.pend

/-- The core's own copies of a line above its level take the new bytes; those that went home are dirty no more. -/
def patchL1 (s : State) (c line : Nat) (d : LineData) (m : LineMask) : State :=
  setL1 s c ((l1Of s c).map fun y => if y.line == line then { y with data := mergeLine y.data d m } else y)
def patchWays (s : State) (g line : Nat) (d : LineData) (m : LineMask) : State :=
  setWays s g ((waysOf s g).map fun y => if y.line == line then { y with data := mergeLine y.data d m } else y)
def patchL2 (s : State) (die line : Nat) (d : LineData) (m : LineMask) : State :=
  match l2Find s die line with
  | some z => l2Put s die { z with data := mergeLine z.data d m, dirty := z.dirty &&& ~~~ m }
  | none => s
/-- A line written where a scope writes it (R235); the core's L1 follows where it holds the line, and takes in none (DESIGN CHOICE,
log entry 92). -/
def scopedWrite (s : State) (c line sc : Nat) (d : LineData) (m : LineMask) (nc : Bool) : State :=
  let g := clusterOf c
  let s := patchL1 s c line d m
  if sc ≤ 2 then wayWrite s g line d m nc
  else if sc = 3 then dieWrite (patchWays s g line d m) (g / 4) line d m nc
  else
    let s := sliceWrite (patchWays s g line d m) line d m nc
    if nc then patchL2 s (g / 4) line d m else s

/-- The bytes of a release are written, after its write-backs (R235, R259). -/
def storeScoped (s : State) (c : Nat) (w : PendStore) : State :=
  let bs := natBytes w.n w.v
  let off := w.pa % 8
  if w.home ≠ 0 then
    singleWrite s (w.pa / 8 * 8) (BitVec.ofNat 64 (bytesNat bs * 256 ^ off)) (BitVec.ofNat 8 ((2 ^ w.n - 1) * 2 ^ off)) w.home
  else scopedWrite s c (w.pa / 128) w.sc (lineSpan (w.pa % 128) bs).1 (lineSpan (w.pa % 128) bs).2 w.nc

/-- An access is performed and its result written. -/
def performAcc (s : State) (c : Nat) : PendAcc → State
  | .load l =>
    let (s, bs) := loadBytes s c ⟨l.pa, l.home, l.nc⟩ l.n l.sc l.seq
    writeG s c (BitVec.ofNat 5 l.reg) (loadValue bs l.signed)
  | .amo a =>
    let s := releaseIf s c a.sc a.seq
    let (s, old) := atomicAt (if a.home = 0 then writeOwnLine s c (a.pa / 128) else drainSbLine s c (a.pa / 128))
      ⟨a.pa, a.home, a.nc⟩ a.fn a.n a.v a.e a.sr
    let s := acquireIf s c a.sc
    if a.ret then writeG s c (BitVec.ofNat 5 a.reg) (BitVec.ofNat 64 old) else s
  | .store w => storeScoped (releaseIf s c w.sc w.seq) c w
  | .release r =>
    let s := releaseIf s c r.sc r.seq
    match r.post with
    | none => s
    | some p => modSys s fun y => { y with posts := y.posts ++ [p] }

/-- A scratchpad of a cluster whose clock stands (R370). -/
def scratchStands (s : State) (pa : Nat) : Bool :=
  match scratchCluster s pa with
  | some g => speed (islandAt s g) == 0
  | none => false
/-- Some cluster's clock stands. -/
def someStands (s : State) : Bool := (List.range 16).any fun g => speed (islandAt s g) == 0
/-- A doorbell store of the core has not reached the Pavilion, whose clock stands: it completes when the Pavilion applies it
(R351), and the core's accesses wait behind it; so they do behind an access to a scratchpad whose clock stands (R370; DESIGN CHOICE,
log entry 68). -/
def bellHeld (s : State) (c : Nat) : Bool :=
  (!pavRuns s && ((sbOf s c).any (fun e => inDoorbell e.pa) || (pendOf s c).any fun p => !isLoad p && inDoorbell (128 * pendLine p))) ||
    (sbOf s c).any (fun e => scratchStands s e.pa) || (pendOf s c).any fun p => scratchStands s (pendPa p)

/-- Perform the accesses that have issued, in order of issue. -/
def performAll (s : State) (c : Nat) : List PendAcc → State
  | [] => s
  | p :: t => performAll (performAcc (modMem s c fun m => { m with pend := t }) c p) c t
def quiesce (s : State) (c : Nat) : State := performAll s c (pendOf s c)

/-- Does an earlier access have to be performed before a later one: it is an acquire, they have a byte in common, it is an atomic
or a store of the same line, the later one is a release, or both have a scope (R259, R260, R275, R283). -/
def blocks (x y : PendAcc) : Bool :=
  pendAcquire x || meet x y || (!isLoad x && pendLine x == pendLine y) || pendRelease y || (pendScope x != 0 && pendScope y != 0)

/-- Perform the pending access at a position; when an earlier one must come first, the oldest is performed. -/
def performAt (s : State) (c i : Nat) : State :=
  let l := pendOf s c
  match l[i]? with
  | none => s
  | some p =>
    let i := if (l.take i).any fun x => blocks x p then 0 else i
    match l[i]? with
    | none => s
    | some p => performAcc (modMem s c fun m => { m with pend := listDrop m.pend i }) c p

/-- Before an access of a later bundle to a line: pending acquires, and atomics and releases on the line, are performed
(R260, R283). -/
def beforeAccess (s : State) (c line : Nat) : State :=
  if (pendOf s c).any fun p => pendAcquire p || (pendLine p == line && !isLoad p) then quiesce s c else s
/-- Before what a later bundle lets its loaders and copies read: pending acquires are performed (R260). -/
def afterAcquires (s : State) (c : Nat) : State := if (pendOf s c).any pendAcquire then quiesce s c else s

/-- A release (R259): every earlier sequencer access is performed first. -/
def release (s : State) (c sc : Nat) : State := releaseActs (quiesce s c) c sc
/-- An acquire without a read: earlier acquires and releases take effect first (R260). -/
def acquire (s : State) (c sc : Nat) : State :=
  acquireActs (if (pendOf s c).any fun p => pendScope p != 0 then quiesce s c else s) c sc
/-- A FENCE acts: its release, then its acquire (R276). -/
def fenceActs (s : State) (c sc : Nat) : State := acquire (release s c sc) c sc

/-- A buffer entry writes a byte of an access. -/
def entryMeets (e : StoreEnt) (p : PendAcc) : Bool :=
  (List.range 8).any fun i => e.mask.getLsbD i && decide (pendPa p ≤ e.pa + i) && decide (e.pa + i < pendPa p + pendLen p)
/-- An access that a buffer entry must not pass: an earlier load of its bytes, an earlier atomic or release of its line, in the host
window any earlier one to the window (R117, R256, R275, R283). -/
def holdsStore (e : StoreEnt) (p : PendAcc) : Bool :=
  pendSeq p < e.seq && (entryMeets e p || (!isLoad p && pendLine p == e.pa / 128) || (inHost (128 * pendLine p) && inHost e.pa))
/-- A buffer entry is written into L1 or to its single copy (R247), after what it must not pass. -/
def drainEntry (s : State) (c i : Nat) : State :=
  match (sbOf s c)[i]? with
  | none => s
  | some e =>
    let s := if (pendOf s c).any (holdsStore e) then quiesce s c else s
    match (sbOf s c)[i]? with
    | none => s
    | some e => landStore (modMem s c fun m => { m with sb := listDrop m.sb i }) c e
/-- The oldest one. -/
def drainOldest (s : State) (c : Nat) : State := drainEntry s c 0
/-- Another one: not past an older one of its doubleword, nor, in the host window, past any (R117, R256, R275). -/
def drainLater (s : State) (c i : Nat) : State :=
  match (sbOf s c)[i]? with
  | none => s
  | some e =>
    if ((sbOf s c).take i).any fun y => y.pa == e.pa || (inHost y.pa && inHost e.pa) then s else drainEntry s c i

/-- The newest access that waits and that a store does not merge past: a load of its line, a release (R259, R264). -/
def lastFence (s : State) (c pa : Nat) : Nat :=
  (pendOf s c).foldl (fun m p => if pendRelease p || (isLoad p && pendLine p == pa / 128) then max m (pendSeq p) else m) 0
/-- A plain store enters the buffer, whose oldest entry leaves first when it is full. -/
def bufferStore (s : State) (c : Nat) (e : StoreEnt) : State :=
  modMem (if 16 ≤ (sbOf s c).length then drainOldest s c else s) c fun m => { m with sb := pushStore (lastFence s c e.pa) e m.sb }
/-- A store issues (R116): a plain one enters the buffer, a release is performed after the accesses before it (R259). -/
def storeBytes (s : State) (c : Nat) (x : Xl) (bs : List Byte) (sc : Nat) : State :=
  let s := beforeAccess s c (x.pa / 128)
  let n := (coreAt s c).mem.nextSeq
  let s := modMem s c fun m => { m with nextSeq := n + 1 }
  let off := x.pa % 8
  if sc = 0 then
    bufferStore s c { pa := x.pa / 8 * 8, data := BitVec.ofNat 64 (bytesNat bs * 256 ^ off), mask := BitVec.ofNat 8 ((2 ^ bs.length - 1) * 2 ^ off), home := x.home, nc := x.nc, seq := n }
  else modMem s c fun m => { m with pend := m.pend ++ [.store { pa := x.pa, n := bs.length, v := bytesNat bs, sc := sc, home := x.home, nc := x.nc, seq := n }] }

/-- A load issues (R116): it is performed when it returns. -/
def issueLoad (s : State) (c : Nat) (x : Xl) (n sc : Nat) (signed : Bool) (reg : Nat) : State :=
  let s := beforeAccess s c (x.pa / 128)
  modMem s c fun m => { m with
    nextSeq := m.nextSeq + 1
    pend := m.pend ++ [.load { reg := reg, pa := x.pa, n := n, signed := signed, sc := sc, home := x.home, nc := x.nc, seq := m.nextSeq }] }

/-- An atomic commits (R282). -/
def issueAmo (s : State) (c : Nat) (x : Xl) (fn n v e sc : Nat) (ret sr : Bool) (reg : Nat) : State :=
  let s := beforeAccess s c (x.pa / 128)
  modMem s c fun m => { m with
    nextSeq := m.nextSeq + 1
    pend := m.pend ++ [.amo { fn := fn, pa := x.pa, n := n, v := v, e := e, sc := sc, ret := ret, sr := sr, reg := reg, home := x.home, nc := x.nc, seq := m.nextSeq }] }

/-- A release without bytes issues; what it covers is written back when it is performed (R260). -/
def issueRelease (s : State) (c sc : Nat) (p : Option Post) : State :=
  modMem s c fun m => { m with nextSeq := m.nextSeq + 1, pend := m.pend ++ [.release ⟨sc, m.nextSeq, p⟩] }

/-- The write-back of a line down to the level of a scope (R236, R279). -/
def dieWriteBack (s : State) (die line : Nat) : State :=
  match l2Find s die line with
  | none => s
  | some x =>
    if x.nc then l2Put (homeMerge s line x.data x.dirty) die { x with dirty := 0 }
    else if x.excl then dieEvict s die line else s
def cacheClean (s : State) (c sc line : Nat) : State :=
  let s := cleanL1Line s c line
  if sc ≤ 2 then s
  else
    let s := cleanWayLine s (clusterOf c) false line
    if sc ≤ 3 || homeDie (128 * line) = dieOf c then s else dieWriteBack s (dieOf c) line
/-- The copies of a line without a dirty byte are dropped, down to the level of a scope; of a copy with one the other bytes come
from below again (R279, R280). -/
def dieDropClean (s : State) (die line : Nat) : State :=
  match l2Find s die line with
  | none => s
  | some x => if x.dirty = 0 then dieEvict s die line else if x.nc then l2Put s die { x with stale := true } else s
def dropClean (line : Nat) (l : List CLine) : List CLine :=
  (l.filter fun x => !(x.line == line && x.dirty == 0)).map fun x => if x.line == line then { x with stale := true } else x
def cacheDrop (s : State) (c sc line : Nat) : State :=
  let s := setL1 s c (dropClean line (l1Of s c))
  if sc ≤ 2 then s
  else
    let s := setWays s (clusterOf c) (dropClean line (waysOf s (clusterOf c)))
    if sc ≤ 3 || homeDie (128 * line) = dieOf c then s else dieDropClean s (dieOf c) line
/-- Every copy of a line is evicted, down to the level of a scope. -/
def cacheEvict (s : State) (c sc line : Nat) : State :=
  let s := evictL1 s c line
  if sc ≤ 2 then s
  else
    let s := evictWay s (clusterOf c) line
    if sc ≤ 3 || homeDie (128 * line) = dieOf c then s else dieEvict s (dieOf c) line

/-- WB, INV and WBINV come after every earlier sequencer access: loads and atomics have been performed, stores to a single
copy have reached it; the line's own bytes go into L1 (R259, R279, R280). -/
def cacheAfter (s : State) (c line : Nat) : State :=
  drainSbLine (drainSome (quiesce s c) c fun e => e.home != 0) c line
/-- The cache operations (R236, R279): 0 WB, 1 INV, 2 WBINV, 3 EVICT on a HOME=00 line.  EVICT comes after its core's own pending
scoped store to the line (DESIGN CHOICE, log entry 83). -/
def cacheOp (s : State) (c op sc line : Nat) : State :=
  if op = 3 then cacheEvict (beforeAccess s c line) c sc line
  else
    let s := cacheAfter s c line
    if op = 0 then cacheClean s c sc line
    else if op = 1 then cacheDrop s c sc line
    else cacheDrop (cacheClean s c sc line) c sc line
/-- The same on a line that has a single copy: nothing but the order. -/
def cacheSingle (s : State) (c op line : Nat) : State := if op = 3 then beforeAccess s c line else cacheAfter s c line

/-! ### Reads and writes of loaders and copies (R247, R262) -/

/-- A read through the cluster ways and the die L2. -/
def clusterRead (s : State) (c : Nat) (x : Xl) (n : Nat) : State × List Byte :=
  if x.home ≠ 0 then singleRead s x n
  else
    let (s, d) := wayRead s (clusterOf c) (x.pa / 128) x.nc
    (s, lineBytes d (x.pa % 128) n)

/-- A drain write of bytes of one line through the cluster ways (R262). -/
def clusterWrite (s : State) (c : Nat) (x : Xl) (d : LineData) (m : LineMask) : State :=
  if x.home ≠ 0 then singleLine s x d m else wayWrite s (clusterOf c) (x.pa / 128) d m x.nc

/-- A write at the place that serves the address at DEVICE scope (R206). -/
def deviceWrite (s : State) (x : Xl) (bs : List Byte) : State :=
  if x.home ≠ 0 then
    if inDoorbell x.pa || inCounters x.pa then s
    else if inHost x.pa then postBytes s x.pa bs
    else
      let s := if x.home = 2 then touchPinned s (x.pa / 128) else s
      modSys s fun y => { y with mem := memWrite y.mem x.pa bs }
  else
    let (d, m) := lineSpan (x.pa % 128) bs
    sliceWrite s (x.pa / 128) d m x.nc

/-- The I/O agent's reads and writes, for the Pavilion and the Orangery: it keeps copies under bit 4 like a die (R256); an NC
line has none. -/
def agentRead (s : State) (x : Xl) (n : Nat) : State × List Byte :=
  if x.home ≠ 0 then singleRead s x n
  else
    let (s, d) := if x.nc then (s, memLine s.sys.mem (x.pa / 128)) else dieRead s 4 (x.pa / 128) false
    (s, lineBytes d (x.pa % 128) n)
def agentWrite (s : State) (x : Xl) (bs : List Byte) : State :=
  if x.home ≠ 0 then deviceWrite s x bs
  else
    let (d, m) := lineSpan (x.pa % 128) bs
    if x.nc then homeMerge s (x.pa / 128) d m else dieWrite s 4 (x.pa / 128) d m false

/-- A read at DEVICE scope: the home slice, through the directory. -/
def deviceRead (s : State) (x : Xl) (n : Nat) : State × List Byte :=
  if x.home ≠ 0 then singleRead s x n
  else
    let (s, d) := sliceRead s (x.pa / 128) x.nc
    (s, lineBytes d (x.pa % 128) n)

end Sys2Proof.Machine
end

