-- ==== Sys2Proof/Machine/Generator.lean ====
section
/-! DEFINITION. The tile generator and its coverage map (R289 to R294, R302, R312 to R316, R380). -/

namespace Sys2Proof.Machine
open Sys2Proof

/-! ### Schedule registers (R289) -/

def schExt (g : Gen) (d : Nat) : Nat := (Tab.get 0 g.act (1 + d)).toNat % 65536
def schTile (act : Tab Dword) (d : Nat) : Nat := (Tab.get 0 act (5 + d)).toNat
def schQnt (g : Gen) (d : Nat) : Nat := (Tab.get 0 g.act (9 + d)).toNat % 65536
def schPlace (g : Gen) : Dword := Tab.get 0 g.act 13
def placedCore (g : Gen) (l : Nat) : Bool := (schPlace g).getLsbD l
def ceilDiv (a b : Nat) : Nat := (a + b - 1) / b
/-- N_d: quanta of dimension d. -/
def schN (g : Gen) (d : Nat) : Nat := ceilDiv (schExt g d) (schQnt g d)
def schTotal (g : Gen) : Nat := schN g 0 * schN g 1 * schN g 2 * schN g 3
/-- SCH_STAT.FIN. -/
def schFin (g : Gen) : Bool := g.doneN + g.poisonN == schTotal g

/-- SCH_ORD and the SIZE registers keep only their fields; bits outside are RES (R289). -/
def schMask (n : Nat) (v : Dword) : Dword :=
  if n = 0 then v &&& 0xFF else if 1 ≤ n && n ≤ 12 then v &&& 0xFFFF else v

/-- What SCHRD reads (R313). -/
def schRead (g : Gen) (n : Nat) : Dword :=
  match n with
  | 15 => g.ver
  | 16 => BitVec.ofNat 64 (g.last.toNat + (if schFin g then 256 else 0))
  | 17 => BitVec.ofNat 64 (g.doneN % 2 ^ 48)
  | 18 => BitVec.ofNat 64 (g.claimN % 2 ^ 48)
  | _ => Tab.get 0 g.act n

/-! ### The map in memory -/

/-- The Pavilion's, the generator's and the scheduler's translations: the I/O die's walk (R245), through a TLB, unit 132, and a walk
cache of its own, like a compute die's (DESIGN CHOICE, log entry 94). -/
def pavTranslate (s : State) (asid va : Nat) (write : Bool) : State × Except XErr Xl := dieTranslate s 4 asid va write

def mapAddr (g : Gen) (q : Nat) : Nat := (Tab.get 0 g.act 14).toNat + q / 4

/-- The code of a quantum; none where the map's page does not translate (R289, R380). -/
def mapCode (s : State) (asid : Nat) (g : Gen) (q : Nat) : State × Option Nat :=
  match pavTranslate s asid (mapAddr g q) true with
  | (s, .error _) => (s, none)
  | (s, .ok x) =>
    let (s, bs) := deviceRead s x 1
    (s, some (bitsOf (bytesNat bs) (2 * (q % 4)) 2))

/-- Change a quantum's code at the map's atomic unit (R283, R293). -/
def mapSet (s : State) (asid : Nat) (g : Gen) (q code : Nat) : State :=
  match pavTranslate s asid (mapAddr g q) true with
  | (s, .error _) => s
  | (s, .ok x) =>
    let s := claimLine s x
    let old := (memByte s.sys.mem x.pa).toNat
    let p := 4 ^ (q % 4)
    let new := old - bitsOf old (2 * (q % 4)) 2 * p + code * p
    modSys s fun y => { y with mem := Tab.set 0 y.mem x.pa (BitVec.ofNat 8 new) }

def modGen (s : State) (t : Nat) (f : Gen → Gen) : State :=
  modTeam s t fun x => { x with gen := x.gen.map f }

/-- The generator of a team, as long as its map has met no fault. -/
def genOf (s : State) (t : Nat) : Option (Team × Gen) :=
  match teamAt s t with
  | none => none
  | some x =>
    match x.gen with
    | none => none
    | some g => if g.lost then none else some (x, g)
/-- The generator meets a fault on its map: nothing more is served, and the team is killed (R380). -/
def mapLost (s : State) (t : Nat) : State := modGen s t fun g => { g with lost := true }

/-- A CLAIMED quantum has taken a code: 0 FREE, 2 DONE, 3 POISON. -/
def countQuantum (code : Nat) (g : Gen) : Gen :=
  { g with
    claimN := g.claimN - 1
    doneN := if code = 2 then g.doneN + 1 else g.doneN
    poisonN := if code = 3 then g.poisonN + 1 else g.poisonN }
/-- Move the quanta of a list that are CLAIMED to a code; a fault on the map ends it, but for POISON, which goes on with
the pages that translate (R303, R380). -/
def moveClaimed (s : State) (t code : Nat) : List Nat → State
  | [] => s
  | q :: r =>
    match teamAt s t with
    | none => s
    | some x =>
      match x.gen with
      | none => s
      | some g =>
        match mapCode s x.asid g q with
        | (s, none) => if code = 3 then moveClaimed s t code r else mapLost s t
        | (s, some k) =>
          moveClaimed (if k = 1 then modGen (mapSet s x.asid g q code) t (countQuantum code) else s) t code r

/-- FREE quanta become CLAIMED. -/
def claimQuanta (s : State) (t : Nat) (asid : Nat) (g : Gen) (qs : List Nat) : State :=
  modGen (qs.foldl (fun s q => mapSet s asid g q 1) s) t fun g => { g with claimN := g.claimN + qs.length }

def tileQuanta (t : Tile) : List Nat := (t.quanta.filter fun p => t.mask.getLsbD p.1).map (·.2)

/-! ### Tiles (R291, R293) -/

/-- The loop coordinates of tile number k under DIMS, innermost first. -/
def loopCoords (g : Gen) : List Nat → Nat → List (Nat × Nat)
  | [], _ => []
  | d :: t, k =>
    let n := ceilDiv (schExt g d) (schTile g.act d)
    (d, k % n) :: loopCoords g t (k / n)
def schDims (g : Gen) : List Nat := (List.range 4).map fun i => bitsOf (Tab.get 0 g.act 0).toNat (2 * i) 2
def tileCount (g : Gen) : Nat := ((List.range 4).map fun d => ceilDiv (schExt g d) (schTile g.act d)).foldl (· * ·) 1

/-- The mask bits of a tile and the map quanta behind them. -/
def cutQuanta (g : Gen) (first dims : List Nat) : List (Nat × Nat) :=
  let n := dims.getD
  (List.range (n 0 0)).flatMap fun j0 => (List.range (n 1 0)).flatMap fun j1 =>
    (List.range (n 2 0)).flatMap fun j2 => (List.range (n 3 0)).map fun j3 =>
      let q (d j : Nat) := first.getD d 0 + j
      (j0 + n 0 0 * (j1 + n 1 0 * (j2 + n 2 0 * j3)),
        q 0 j0 + schN g 0 * (q 1 j1 + schN g 1 * (q 2 j2 + schN g 2 * q 3 j3)))

/-- Tile number k with an empty mask. -/
def cutTile (g : Gen) (k : Nat) : Tile :=
  let cs := loopCoords g (schDims g) k
  let at_ (d : Nat) : Nat := ((cs.find? fun p => p.1 == d).map (·.2)).getD 0
  let origin := (List.range 4).map fun d => at_ d * schTile g.act d
  let dims := (List.range 4).map fun d =>
    ceilDiv (min (schTile g.act d) (schExt g d - origin.getD d 0)) (schQnt g d)
  let first := (List.range 4).map fun d => origin.getD d 0 / schQnt g d
  { origin := origin, dims := dims, mask := 0, quanta := cutQuanta g first dims }

/-- Keep the quanta that are FREE and not held for a retry; none where the map faults (R380). -/
def freeMask (s : State) (asid : Nat) (g : Gen) (held : List Nat) : List (Nat × Nat) → State × Option Nat
  | [] => (s, some 0)
  | (j, q) :: r =>
    match mapCode s asid g q with
    | (s, none) => (s, none)
    | (s, some k) =>
      match freeMask s asid g held r with
      | (s, none) => (s, none)
      | (s, some m) => (s, some (if k = 0 && !held.contains q then m + 2 ^ j else m))

/-- The next tile in loop order that holds a FREE quantum, if one does; the outer none where the map faults. -/
def findTile (s : State) (asid : Nat) (g : Gen) (held : List Nat) : Nat → Nat → State × Option (Option Tile)
  | 0, _ => (s, some none)
  | n + 1, k =>
    let t := cutTile g k
    match freeMask s asid g held t.quanta with
    | (s, none) => (s, none)
    | (s, some m) => if m = 0 then findTile s asid g held n (k + 1) else (s, some (some { t with mask := BitVec.ofNat 48 m }))

/-- The two registers of a TILENEXT answer (R291). -/
def tileWords (t : Tile) : Dword × Dword :=
  let o := t.origin.getD
  let n := t.dims.getD
  (BitVec.ofNat 64 (o 0 0 + o 1 0 * 2 ^ 16 + o 2 0 * 2 ^ 32 + o 3 0 * 2 ^ 48),
    BitVec.ofNat 64 (t.mask.toNat + (n 0 1 - 1) * 2 ^ 48 + (n 1 1 - 1) * 2 ^ 52 + (n 2 1 - 1) * 2 ^ 56 + (n 3 1 - 1) * 2 ^ 60))
def endWords : Dword × Dword := (0, BitVec.ofNat 64 (2 ^ 63))

/-! ### Answers into a core, running, frozen or saved (R315) -/

/-- Write late results into the core that a logical core of the team runs on, or into its saved context. -/
def answerRegs (s : State) (t l : Nat) (rs : List (Nat × Dword)) : State :=
  match teamAt s t with
  | none => s
  | some x =>
    let c := x.place.getD l 0
    let f : Core → Core := fun k => { k with seq := { k.seq with
      g := rs.foldl (fun g r => putG g r.1 r.2) k.seq.g
      unchk := k.seq.unchk.filter fun r => !(rs.any fun p => p.1 == r) } }
    modContext s t c f

/-- The first waiting TILENEXT of a core is answered; another one of it goes on waiting. -/
def answered (l : Nat) (g : Gen) : Tab (List Nat) := Tab.set [] g.waiting l ((Tab.get [] g.waiting l).drop 1)
/-- A TILENEXT of the core waits. -/
def waitsTile (g : Gen) (l : Nat) : Bool := !(Tab.get [] g.waiting l).isEmpty

/-- Change the generator unless its map has met a fault: its tiles then stay, and the kill poisons them (R303, R380). -/
def unlessLost (s : State) (t : Nat) (f : Gen → Gen) : State :=
  match genOf s t with
  | none => s
  | some _ => modGen s t f
/-- Hand back the unfinished quanta of the current tile of a logical core. -/
def handBack (s : State) (t l : Nat) : State :=
  match genOf s t with
  | none => s
  | some (_, g) =>
    let s := match Tab.look g.current l with
      | none => s
      | some x => moveClaimed s t 0 (tileQuanta x)
    unlessLost s t fun g => { g with current := Tab.erase l g.current, named := Tab.erase l g.named }

/-- A tile starts on its core; the tile that is claimed for it stays unless it is this one (R293).  A TILENEXT that waits behind the
answered one has reached the generator already: it hands the tile back, and is answered in turn (R291; DESIGN CHOICE, log
entry 62). -/
def startTile (s : State) (t l : Nat) (x : Tile) : State :=
  match genOf s t with
  | none => s
  | some (_, g) =>
    match Tab.get [] g.waiting l with
    | [] => s
    | d :: more =>
      let (a, b) := tileWords x
      let s := modGen s t fun g => { g with
        current := Tab.put g.current l x, waiting := answered l g, named := Tab.erase l g.named
        claimed := if Tab.look g.claimed l = some x then Tab.erase l g.claimed else g.claimed }
      let s := answerRegs s t l [(d, a), (d + 1, b)]
      if more.isEmpty then s else handBack s t l

/-! ### Serving requests (R290, R292, R293, R312 to R316) -/

/-- The status of a commit: the first code that applies (R290). -/
def commitStatus (g : Gen) (teamSize : Nat) : Nat :=
  let p := g.pen
  let tile := schTile p
  let ds := (List.range 4).map fun i => bitsOf (Tab.get 0 p 0).toNat (2 * i) 2
  let place := (Tab.get 0 p 13).toNat
  let nq (d : Nat) := tile d / schQnt g d
  if (List.range 4).any fun d => tile d = 0 || tile d % schQnt g d ≠ 0 then 1
  else if place = 0 || 2 ^ teamSize ≤ place then 2
  else if !((List.range 4).all fun d => ds.contains d) then 3
  else
    let n (d : Nat) := min (nq d) (schN g d)
    if 48 < n 0 * n 1 * n 2 * n 3 then 4
    else if 16 < n 0 || 16 < n 1 || 16 < n 2 || 8 < n 3 then 5
    else 0

/-- The claimed, unstarted tile of a logical core reverts to FREE. -/
def revertClaim (s : State) (t l : Nat) : State :=
  match genOf s t with
  | none => s
  | some (_, g) =>
    match Tab.look g.claimed l with
    | none => s
    | some x => unlessLost (moveClaimed s t 0 (tileQuanta x)) t fun g => { g with claimed := Tab.erase l g.claimed }

/-- The waiting TILENEXTs of a logical core are withdrawn: no tile is given for them (R315). -/
def withdraw (s : State) (t l : Nat) : State :=
  modGen s t fun g => { g with
    waiting := Tab.erase l g.waiting, reqs := g.reqs.filter fun r => !(r.kind == 4 && r.lcore == l) }

/-- Serve one request. -/
def serveReq (s : State) (t : Nat) (r : GenReq) : State :=
  match genOf s t with
  | none => s
  | some (x, g) =>
    match r.kind with
    | 0 => modGen s t fun g => { g with pen := Tab.set 0 g.pen r.num (schMask r.num r.value) }
    | 1 => answerRegs s t r.lcore [(r.d, schRead g r.num)]
    | 2 => moveClaimed s t 2 r.quanta
    | 3 =>
      let st := commitStatus g x.img.cores
      let s := modGen s t fun g => { g with
        last := BitVec.ofNat 8 st
        act := if st = 0 then g.pen else g.act
        ver := if st = 0 then g.ver + 1 else g.ver }
      answerRegs s t r.lcore [(r.d, BitVec.ofNat 64 st)]
    | 4 => modGen (handBack s t r.lcore) t fun g => { g with
      waiting := Tab.set [] g.waiting r.lcore (Tab.get [] g.waiting r.lcore ++ [r.d]), drained := g.drained.filter (· != r.lcore) }
    -- a RETIRE: its core takes no part until its next TILENEXT (R320)
    | 5 => modGen (revertClaim (handBack s t r.lcore) t r.lcore) t fun g => { g with waiting := Tab.erase r.lcore g.waiting }
    | _ => s

/-- The CVMARKs of some logical cores that have issued turn their quanta DONE before anything happens to the tiles (R292, R316; DESIGN
CHOICE, log entry 98). -/
def serveMarks (s : State) (t : Nat) (f : Nat → Bool) : State :=
  match genOf s t with
  | none => s
  | some (_, g) =>
    let mine (r : GenReq) : Bool := r.kind == 2 && f r.lcore
    (g.reqs.filter mine).foldl (fun s r => serveReq s t r) (modGen s t fun g => { g with reqs := g.reqs.filter fun r => !mine r })

/-- The single order: arrival, then kind, then logical core (R312). -/
def reqBefore (a b : GenReq) : Bool :=
  a.at_ < b.at_ || (a.at_ == b.at_ && (a.kind < b.kind || (a.kind == b.kind && a.lcore < b.lcore)))
def insertReq (r : GenReq) : List GenReq → List GenReq
  | [] => [r]
  | x :: t => if reqBefore r x then r :: x :: t else x :: insertReq r t

/-- A request reaches the generator. -/
def sendReq (s : State) (t : Nat) (r : GenReq) : State := modGen s t fun g => { g with reqs := insertReq r g.reqs }

/-- The quanta that wait for a retry (R302). -/
def heldQuanta (g : Gen) : List Nat := (g.retry.filter fun p => !p.2.2).flatMap fun p => tileQuanta p.2.1

/-- The core that a retried tile goes to: the lowest waiting placed one but the failing core, which takes it only when no
other is placed (R302). -/
def retryCore (tm : Team) (g : Gen) (bad : Nat) : Option Nat :=
  let placed := (List.range tm.img.cores).filter fun l => placedCore g l
  let others := placed.filter (· != bad)
  (if others.isEmpty then placed else others).find? fun l => waitsTile g l && !g.drained.contains l
/-- The quanta of a tile that can be given go to a core as a tile of that mask. -/
def giveTile (s : State) (t asid : Nat) (g : Gen) (l : Nat) (x : Tile) : State := startTile (claimQuanta s t asid g (tileQuanta x)) t l x
/-- The retry of a tile has been given. -/
def markGiven (bad : Nat) (x : Tile) (g : Gen) : Gen :=
  { g with retry := g.retry.map fun p => if p.1 == bad && p.2.1 == x then (p.1, p.2.1, true) else p }

/-- Give the retried tiles (R302). -/
def giveRetries (s : State) (t : Nat) : List (Nat × Tile × Bool) → State
  | [] => s
  | (bad, x, given) :: r =>
    match genOf s t with
    | none => s
    | some (tm, g) =>
      let s :=
        match if given then none else retryCore tm g bad with
        | none => s
        | some l =>
          match freeMask s tm.asid g [] (x.quanta.filter fun p => x.mask.getLsbD p.1) with
          | (s, none) => mapLost s t
          | (s, some 0) => s
          | (s, some m) => giveTile (modGen s t (markGiven bad x)) t tm.asid g l { x with mask := BitVec.ofNat 48 m }
      giveRetries s t r

/-- Answer the first waiting TILENEXT of a core, if it can be answered (R291, R293). -/
def giveOne (s : State) (t l : Nat) : State :=
  match genOf s t with
  | none => s
  | some (tm, g) =>
    match Tab.get [] g.waiting l with
    | [] => s
    | d :: _ =>
      if schFin g then
        answerRegs (modGen s t fun g => { g with waiting := answered l g }) t l [(d, endWords.1), (d + 1, endWords.2)]
      else if !placedCore g l || g.drained.contains l then s
      else
        match Tab.look g.claimed l with
        | some x => startTile s t l x
        | none =>
          match findTile s tm.asid g (heldQuanta g) (tileCount g) 0 with
          | (s, none) => mapLost s t
          | (s, some none) => s
          | (s, some (some x)) => giveTile s t tm.asid g l x
/-- TILENEXTs of a core that wait. -/
def tileWaits (s : State) (t l : Nat) : Nat :=
  match genOf s t with
  | none => 0
  | some (_, g) => (Tab.get [] g.waiting l).length
/-- All of them that can be answered, one after the other. -/
def giveAll : Nat → State → Nat → Nat → State
  | 0, s, _, _ => s
  | n + 1, s, t, l =>
    let u := giveOne s t l
    if 0 < tileWaits u t l && tileWaits u t l < tileWaits s t l then giveAll n u t l else u

/-- Step 2: answer the waiting cores, in increasing logical core number. -/
def giveTiles (s : State) (t : Nat) : List Nat → State
  | [] => s
  | l :: r =>
    match genOf s t with
    | none => s
    | some _ => giveTiles (giveAll (tileWaits s t l) s t l) t r

/-- Step 3: claim the next tile of each placed core that takes part. -/
def claimTiles (s : State) (t : Nat) : List Nat → State
  | [] => s
  | l :: r =>
    match genOf s t with
    | none => s
    | some (tm, g) =>
      let takesPart := (waitsTile g l || (Tab.look g.current l).isSome) && !g.drained.contains l
      let s :=
        if !placedCore g l || (Tab.look g.claimed l).isSome || !takesPart then s
        else
          match findTile s tm.asid g (heldQuanta g) (tileCount g) 0 with
          | (s, none) => mapLost s t
          | (s, some none) => s
          | (s, some (some x)) =>
            modGen (claimQuanta s t tm.asid g (tileQuanta x)) t fun g => { g with claimed := Tab.put g.claimed l x }
      claimTiles s t r

/-- A retry entry is freed when its quanta are all DONE or POISON; one whose quanta are all DONE has succeeded, a transient
error (R302). -/
def freeRetries (s : State) (t : Nat) : State :=
  match genOf s t with
  | none => s
  | some (tm, g) =>
    let code (q : Nat) : Nat := (mapCode s tm.asid g q).2.getD 3
    let busy := g.retry.filter fun p => (tileQuanta p.2.1).any fun q => code q < 2
    let good := g.retry.filter fun p => p.2.2 && (tileQuanta p.2.1).all fun q => code q == 2
    good.foldl (fun s _ => countLife s 0xE800) (modGen s t fun g => { g with retry := busy })

/-- What the generator does after the last event of a cut (R293). -/
def afterCut (s : State) (t : Nat) : State :=
  match genOf s t with
  | none => s
  | some (tm, g) =>
    let ls := List.range tm.img.cores
    let s := ls.foldl (fun s l => if placedCore g l then s else revertClaim s t l) s
    freeRetries (claimTiles (giveTiles (giveRetries s t g.retry) t ls) t ls) t

/-- The head of the request list is served alone when it is an SCHRD or SCHWR (R312). -/
def serveRegister (s : State) (t : Nat) : State :=
  match genOf s t with
  | none => s
  | some (_, g) =>
    match g.reqs with
    | [] => s
    | r :: q => if r.kind ≤ 1 then serveReq (modGen s t fun g => { g with reqs := q }) t r else s

/-- An event of a cut is among the requests of the earliest cycle (R293, R312). -/
def hasCut (g : Gen) : Bool :=
  match g.reqs with
  | r :: _ => (g.reqs.filter fun q => q.at_ == r.at_).any fun q => 2 ≤ q.kind
  | [] => false
/-- One cut: the events of the earliest cycle, then the steps of R293. -/
def runCut (s : State) (t : Nat) : State :=
  match genOf s t with
  | none => s
  | some (_, g) =>
    let now := (g.reqs.head?.map (·.at_)).getD 0
    let cut := g.reqs.filter fun r => r.at_ == now
    let s := modGen s t fun g => { g with reqs := g.reqs.filter fun r => r.at_ != now }
    afterCut (cut.foldl (fun s r => serveReq s t r) s) t

/-! ### Launch and loss (R302, R303, R380) -/

/-- Count the codes of the map at launch, a CLAIMED quantum written FREE; none where a page does not translate. -/
def loadMap (s : State) (asid : Nat) (g : Gen) : Nat → State × Option (Nat × Nat)
  | 0 => (s, some (0, 0))
  | q + 1 =>
    match loadMap s asid g q with
    | (s, none) => (s, none)
    | (s, some (d, p)) =>
      match mapCode s asid g q with
      | (s, none) => (s, none)
      | (s, some k) =>
        let s := if k = 1 then mapSet s asid g q 0 else s
        (s, some (if k = 2 then d + 1 else d, if k = 3 then p + 1 else p))

def loadGen (s : State) (asid : Nat) (regs : List Nat) : State × Option Gen :=
  let act : Tab Dword := (List.range 15).foldl (fun t n => Tab.set 0 t n (schMask n (BitVec.ofNat 64 (regs.getD n 0)))) []
  let g : Gen := { Gen.reset with act := act, pen := act }
  match loadMap s asid g (schTotal g) with
  | (s, none) => (s, none)
  | (s, some (d, p)) => (s, some { g with doneN := d, poisonN := p })

/-- A kill: generated quanta still CLAIMED become POISON and nothing more is served (R303). -/
def poisonAll (s : State) (t : Nat) : State :=
  let s := serveMarks s t fun _ => true
  match (teamAt s t).bind (·.gen) with
  | none => s
  | some g =>
    let qs := (g.current.map (·.2) ++ g.claimed.map (·.2)).flatMap tileQuanta
    modGen (moveClaimed s t 3 qs) t fun g => { g with current := [], claimed := [], waiting := [], named := [], reqs := [] }

/-- The current tile of a core that a retryable fault ended (R302): it is kept for another core, or poisoned. -/
def failTile (s : State) (t l : Nat) : State :=
  let s := serveMarks s t fun x => x == l
  match genOf s t with
  | none => s
  | some (_, g) =>
    match Tab.look g.current l with
    | none => s
    | some x =>
      let again := g.retry.any fun p => p.2.2 && (tileQuanta p.2.1).any fun q => (tileQuanta x).contains q
      if again || 64 ≤ g.retry.length then
        modGen (moveClaimed s t 3 (tileQuanta x)) t fun g => { g with current := Tab.erase l g.current }
      else
        unlessLost (moveClaimed s t 0 (tileQuanta x)) t fun g => { g with
          current := Tab.erase l g.current, named := Tab.erase l g.named, retry := g.retry ++ [(l, x, false)] }

end Sys2Proof.Machine
end

