-- ==== Sys2Proof/Machine/Tasks.lean ====
section
/-! DEFINITION. Tasks and their ends: region values, join records, the team queue and the local queues, the start
of a task, retirement, faults and kills (R224, R295 to R305, R317, R320). -/

namespace Sys2Proof.Machine
open Sys2Proof

/-! ### Regions (R304, R305) -/

def regionAt (s : State) (a : Nat) : Option Region := Tab.look s.sched.regions a
def setRegion (s : State) (a : Nat) (r : Region) : State :=
  modSched s fun d => { d with regions := Tab.put d.regions a r }

/-- Depth to which a region tree is followed: no path is longer than the blocks that there are. -/
def regionDepth (s : State) : Nat := s.sched.regions.length

/-- The region and its ancestors, the region first. -/
def regionChain (s : State) : Nat → Nat → List Nat
  | 0, _ => []
  | n + 1, a =>
    match regionAt s a with
    | none => []
    | some r => a :: (if r.parent = 0 then [] else regionChain s n r.parent)

/-- A field's effective value: the first block upwards whose override bit is set. -/
def effective {β : Type} (s : State) (bit : Nat) (f : Region → β) (d : β) (a : Nat) : β :=
  match ((regionChain s (regionDepth s) a).filterMap (regionAt s)).find? fun r => r.ovr.getLsbD bit with
  | some r => f r
  | none => d

def effCores (s : State) (a : Nat) : Nat := effective s 0 (fun r => r.cores.toNat) 0 a
def effMem (s : State) (a : Nat) : Nat := effective s 1 (fun r => r.mem.toNat) 0 a
def effCopies (s : State) (a : Nat) : Nat := effective s 2 (fun r => r.copies.toNat) 0 a
def effPrio (s : State) (a : Nat) : Nat := effective s 3 (fun r => r.prio.toNat % 16) 0 a
def effDomain (s : State) (a : Nat) : Bool := effective s 4 (fun r => r.flags.getLsbD 0) false a
def effAsid (s : State) (a : Nat) : Nat := effective s 5 (fun r => r.asid.toNat % 4096) 0 a
def effPdl (s : State) (a : Nat) : Nat := effective s 6 (fun r => r.pdl.toNat) 0 a
def effCskeep (s : State) (a : Nat) : Bool := effective s 7 (fun r => r.flags.getLsbD 1) false a

/-- Change a Q4-written count of a region and of every ancestor. -/
def chargeRegions (s : State) (a : Nat) (f : Region → Region) : State :=
  (regionChain s (regionDepth s) a).foldl (fun s b =>
    match regionAt s b with | some r => setRegion s b (f r) | none => s) s

/-- A team lies in a region's subtree. -/
def inSubtree (s : State) (root a : Nat) : Bool := (regionChain s (regionDepth s) a).contains root

/-! ### Join records (R300) -/

/-- Read the five words of a join record at its atomic unit. -/
def joinRead (s : State) (asid addr : Nat) : State × Option (List Nat) :=
  match pavTranslate s asid addr false with
  | (s, .error _) => (s, none)
  | (s, .ok x) =>
    let (s, bs) := deviceRead s x 20
    (s, some ((List.range 5).map fun i => bitsOf (bytesNat bs) (32 * i) 32))

/-- Change a join record at the atomic unit of its single copy, after the directory copies of its line are gone. -/
def joinWrite (s : State) (asid addr : Nat) (f : List Nat → List Nat) : State :=
  match pavTranslate s asid addr true with
  | (s, .error _) => s
  | (s, .ok x) =>
    let s := claimLine s x
    let ws := (List.range 5).map fun i => bitsOf (bytesNat (memRead s.sys.mem (x.pa + 4 * i) 4)) 0 32
    modSys s fun y => { y with mem := memWrite y.mem x.pa ((f ws).flatMap (natBytes 4)) }

inductive TaskEnd where
  | retired
  | faulted
  | killed (lost domain : Bool)
deriving DecidableEq, Repr

/-- The update that a child's end makes. -/
def joinFields (e : TaskEnd) (ws : List Nat) : List Nat :=
  let w := ws.getD
  let under := if w 0 0 = 0 then 4 else 0
  let bits := match e with
    | .killed lost domain => (if lost then 1 else 0) + (if domain then 2 else 0)
    | _ => 0
  [w 0 0 - 1,
    (w 1 0 + (if e = .retired then 1 else 0)) % 2 ^ 32,
    (w 2 0 + (if e = .faulted then 1 else 0)) % 2 ^ 32,
    (w 3 0 + (match e with | .killed _ _ => 1 | _ => 0)) % 2 ^ 32,
    w 4 0 ||| under ||| bits]

def joinEnd (s : State) (asid join : Nat) (e : TaskEnd) : State :=
  if join = 0 then s else joinWrite s asid join (joinFields e)

/-! ### Continuation records and queues (R296 to R299) -/

def recField (r : BitVec 512) (off n : Nat) : Nat := bitsOf r.toNat (8 * off) (8 * n)
def recCode (r : BitVec 512) : Nat := recField r 0 4
def recRetried (r : BitVec 512) : Bool := r.getLsbD 32
def recJoin (r : BitVec 512) : Nat := recField r 16 8
/-- The checks of R296 and R297 other than CODE and RETRIED. -/
def recordOk (r : BitVec 512) : Bool :=
  recCode r < 2 ^ 14 && recField r 4 2 < 2 && recField r 6 2 == 0 && recField r 0x1E 2 == 0 &&
    recField r 0x28 24 == 0 && recJoin r % 32 == 0

def queueSlot (t : Team) (i : Nat) : Nat := t.rcptr + 0x100000 + 64 * ((t.qhead + i) % 4096)

/-- The record at a translated place; nothing is read or written where the place does not translate. -/
def recordAt (s : State) : Except XErr Xl → State × BitVec 512
  | .error _ => (s, 0)
  | .ok x => let (s, bs) := deviceRead s x 64; (s, BitVec.ofNat 512 (bytesNat bs))
def putRecord (s : State) (r : BitVec 512) : Except XErr Xl → State
  | .error _ => s
  | .ok x => deviceWrite s x (natBytes 64 r.toNat)
def slotPlace (s : State) (t : Team) (i : Nat) (write : Bool) : State × Except XErr Xl := pavTranslate s t.asid (queueSlot t i) write
def readSlot (s : State) (t : Team) (i : Nat) : State × BitVec 512 := recordAt (slotPlace s t i false).1 (slotPlace s t i false).2
def writeSlot (s : State) (t : Team) (i : Nat) (r : BitVec 512) : State :=
  putRecord (slotPlace s t i true).1 r (slotPlace s t i true).2

/-- Records that the team queue holds: those of its ring, and those put back before a full one. -/
def queueLen (x : Team) : Nat := x.front.length + x.qlen
/-- A record joins the tail of the team queue. -/
def pushTail (s : State) (t : Nat) (r : BitVec 512) : State :=
  match teamAt s t with
  | none => s
  | some x => modTeam (writeSlot s x x.qlen r) t fun x => { x with qlen := x.qlen + 1 }
/-- A record goes back to the head of the team queue (R302, R309); before a full ring the scheduler holds it itself
(DESIGN CHOICE, log entry 63). -/
def pushHead (s : State) (t : Nat) (r : BitVec 512) : State :=
  match teamAt s t with
  | none => s
  | some x =>
    if 4096 ≤ x.qlen || !x.front.isEmpty then setTeam s t { x with front := r :: x.front }
    else
      let x := { x with qhead := (x.qhead + 4095) % 4096, qlen := x.qlen + 1 }
      writeSlot (setTeam s t x) x 0 r
/-- The head of the team queue leaves it. -/
def popHead (s : State) (t : Nat) : State × Option (BitVec 512) :=
  match teamAt s t with
  | none => (s, none)
  | some x =>
    match x.front with
    | r :: f => (setTeam s t { x with front := f, popped := x.popped + 1 }, some r)
    | [] =>
      if x.qlen = 0 then (s, none)
      else
        let (s, r) := readSlot s x 0
        (modTeam s t fun x => { x with qhead := (x.qhead + 1) % 4096, qlen := x.qlen - 1, popped := x.popped + 1 }, some r)

/-- The team's physical cores in increasing logical core number. -/
def teamCores (s : State) (t : Nat) : List Nat := match teamAt s t with | some x => x.place | none => []

def coreIdle (k : Core) : Bool := k.run == .idle && k.task.isNone
/-- A JOINW's wait goes on: while a trap handler runs or the core waits for Folop, only the handler's own (R319). -/
def joinOpen (k : Core) (j : JoinWait) : Bool := k.run == .running && (j.handler || !k.ctl.inh)

/-- The generator has still to serve the end of the core's task: until then the core is not idle (R320). -/
def retiring (x : Team) (c : Nat) : Bool := match x.gen with | some g => g.reqs.any fun r => r.kind == 5 && r.core == c | none => false

/-- One step of R299, if one applies. -/
def dispatchOnce (s : State) (t : Nat) : Option State :=
  match teamAt s t with
  | none => none
  | some x =>
    let free := x.place.filter fun c => liveHere s t c
    let idle (c : Nat) : Bool := coreIdle (coreAt s c) && !retiring x c
    let give (c : Nat) : Option State :=
      match popHead s t with
      | (s, some r) => some (modCore s c fun k => { k with localq := k.localq ++ [(x.popped, r)] })
      | (_, none) => none
    if queueLen x = 0 then
      -- step 3: an idle core takes a busy core's second-place record
      match free.find? fun c => idle c && (coreAt s c).localq.isEmpty with
      | none => none
      | some c =>
        match free.find? fun c => !idle c && (coreAt s c).localq.length == 2 with
        | none => none
        | some d =>
          match (coreAt s d).localq with
          | [a, b] => some (modCore (modCore s d fun k => { k with localq := [a] }) c fun k => { k with localq := [b] })
          | _ => none
    else
      match free.find? fun c => idle c && (coreAt s c).localq.isEmpty with
      | some c => give c
      | none =>
        match free.find? fun c => (coreAt s c).localq.isEmpty with
        | some c => give c
        | none =>
          match free.find? fun c => (coreAt s c).localq.length == 1 with
          | some c => give c
          | none => none

/-- The steps of R299 until none applies. -/
def dispatchFuel : Nat → State → Nat → State
  | 0, s, _ => s
  | n + 1, s, t =>
    match dispatchOnce s t with
    | none => s
    | some s => dispatchFuel n s t
def dispatchRecords (s : State) (t : Nat) : State :=
  match teamAt s t with
  | some x => if x.state == .running then dispatchFuel 256 s t else s
  | none => s

/-- A push is served (R298, R317): refused by a full queue, else counted on its join record, written and queued. -/
def servePush (s : State) (t : Nat) (p : Push) : State :=
  match teamAt s t with
  | none => s
  | some x =>
    if 4096 ≤ queueLen x then answerRegs s t p.lcore [(p.d, 1)]
    else
      let s := if recJoin p.record = 0 then s
        else joinWrite s x.asid (recJoin p.record) fun ws => ((ws.getD 0 0 + 1) % 2 ^ 32) :: ws.drop 1
      answerRegs (dispatchRecords (pushTail s t p.record) t) t p.lcore [(p.d, 0)]
/-- Pushes of one cycle come in increasing logical core number (R298). -/
def pushBefore (a b : Push) : Bool := a.at_ < b.at_ || (a.at_ == b.at_ && a.lcore < b.lcore)
def insertPush (p : Push) : List Push → List Push
  | [] => [p]
  | x :: t => if pushBefore p x then p :: x :: t else x :: insertPush p t
/-- The first push of an earlier cycle. -/
def nextPush (s : State) (t : Nat) : Option State :=
  match teamAt s t with
  | none => none
  | some x =>
    match x.pushes with
    | [] => none
    | p :: r => if p.at_ < s.beat then some (servePush (setTeam s t { x with pushes := r }) t p) else none
/-- The results of a core's pushes are not taken any more. -/
def forgetPushes (s : State) (t l : Nat) : State :=
  modTeam s t fun x => { x with pushes := x.pushes.map fun p => if p.lcore = l then { p with d := 0 } else p }

/-! ### The array when a task starts or ends -/

/-- Every cell of the window has no special-function result and no tray sum under way (R23). -/
def cellsQuiet (a : Arr) : Bool :=
  a.cells.all fun p => !(a.win.has (p.1 / 32) (p.1 % 32)) || (p.2.sfq.isEmpty && p.2.tq.isEmpty)
/-- The positions of a core's chain, itself alone when unchained. -/
def positions (k : Core) (c : Nat) : List Nat := if k.chain.isEmpty then [c] else k.chain
/-- The array is empty (R23); the captures that a wave owes are taken as it passes. -/
def arrayEmpty (s : State) (c : Nat) : Bool :=
  (coreAt s c).arr.waves.isEmpty && (positions (coreAt s c) c).all fun p => cellsQuiet (coreAt s p).arr

/-- R224: the latched instructions, results in flight and pending sums are dropped; what has not come to a follower's cell
never does (R226). -/
def discardArr (a : Arr) : Arr :=
  { a with
    frozen := false, ahead := [], waves := [], due := [], groups := [], busy := [], sfIssued := [], raised := []
    cells := (a.cells.map fun p => (p.1, { p.2 with sfq := [], tq := [], tv := p.2.t })).filter (fun p => p.2 != CellSt.reset p.1) }
/-- Bindings disarmed; steps not used are discarded. -/
def disarmAll (e : EdgeSt) : EdgeSt :=
  { e with loaders := (e.loaders.map fun p => (p.1, { p.2 with bind := none, fetched := [] })).filter (fun p => p.2 != Loader.reset) }
/-- Captures owed are not taken: those not complete are dropped. -/
def dropOwed (e : EdgeSt) : EdgeSt :=
  { e with loaders := (e.loaders.map fun p => (p.1, { p.2 with caps := p.2.caps.filter (fun c => c.got == c.len) })).filter (fun p => p.2 != Loader.reset) }

/-- Bytes of a cell's store. -/
def putBytes (t : Tab Byte) (bs : List (Nat × Byte)) : Tab Byte := bs.foldl (fun t b => Tab.set 0 t b.1 b.2) t
/-- The changes that are on their way to a cell of position p, in order: the bytes that each stores (R28). -/
def onWay (m : Arr) (p key : Nat) : List (List (Nat × Byte)) :=
  m.due.filterMap fun d => match d.2 with | .cell q r c _ bs => if q = p && cellKey r c = key then some bs else none | _ => none
/-- Over a position's stores as they are now come the bytes that are on their way to them (R28, R309). -/
def aheadStores (s : State) (m p : Nat) : State :=
  modArr s p fun a => { a with ahead := a.ahead.map fun q =>
    (q.1, { q.2 with store := putBytes (cellAt a q.1).store (onWay (coreAt s m).arr p q.1).flatten }) }

/-- The fault of a copy channel that stays stopped is still to be taken (R209). -/
def keepsFault (k : Core) (d : Deferred) : Bool := d.cause == 0x13 && k.mem.chans.any fun p => p.1 == d.info.toNat % 64 && p.2.stopped
/-- The frozen state of a core and of its chain is discarded (R224), and with it the other deferred faults that are pending
(DESIGN CHOICE, log entry 91). -/
def discardFrozen (s : State) (c : Nat) : State :=
  (positions (coreAt s c) c).foldl (fun s p =>
    modCore s p fun k => { k with arr := discardArr k.arr, edge := dropOwed (disarmAll k.edge), deferred := k.deferred.filter (keepsFault k) }) s

/-- A request to the Orangery whose answer nobody takes any more (R343): kind 0 RJREG becomes 4, kind 2 RJPOP becomes 5. -/
def refuseAnswer (r : Nat × Nat × Dword × Dword) : Nat × Nat × Dword × Dword :=
  (if r.1 = 0 then 4 else if r.1 = 2 then 5 else r.1, r.2)

/-- The core and its followers have no task any more. -/
def makeIdle (s : State) (c : Nat) : State :=
  (positions (coreAt s c) c).foldl (fun s p =>
    modCore s p fun k => { k with
      run := .idle, task := none, joinw := [], fences := [], soft := none, answer := none, rjq := k.rjq.map refuseAnswer
      seq := { k.seq with pend := [], unchk := [], repK := 0 }, ctl := { k.ctl with inh := false } }) s

/-- A copy request is over: it no longer counts against its region (R305). -/
def copyEnds (s : State) (region : Nat) : State := chargeRegions s region fun b => { b with copyused := b.copyused - 1 }
/-- The regions of the requests that a channel holds. -/
def chanRegions (x : Chan) : List Nat := x.queue.map (·.region) ++ (match x.job with | some j => [j.req.region] | none => [])

/-- Requests that a fault has stopped are dropped with their team (R208, R303). -/
def dropStopped (s : State) (c : Nat) : State :=
  let gone := (coreAt s c).mem.chans.filter fun p => p.2.stopped
  let s := modMem s c fun m => { m with chans := m.chans.filter fun p => !p.2.stopped }
  (gone.flatMap fun p => chanRegions p.2).foldl copyEnds s

/-- Of the cells, only the program area of the store stays (R14). -/
def keepStores (cells : Tab CellSt) : Tab CellSt :=
  (cells.map fun p => (p.1, { CellSt.reset p.1 with store := p.2.store })).filter fun p => p.2 != CellSt.reset p.1
/-- The physical core after its context has gone. -/
def vacated (k : Core) : Core :=
  { Core.reset with
    seq := { Seq.reset with cyc := k.seq.cyc, readyAt := k.seq.cyc }
    arr := { Arr.reset with cells := keepStores k.arr.cells }
    mem := { MemPath.reset with nextSeq := k.mem.nextSeq }
    imemQuota := k.imemQuota, storeQuota := k.storeQuota, part := k.part }

/-! ### Kills (R303) -/

/-- The wait of a team's core for Folop is over: its fault event is not answered any more (R225). -/
def endWait (s : State) (t c : Nat) : State := modPav s fun p => { p with faults := p.faults.filter fun f => !(f.team == t && f.core == c) }

/-- A core's task of a killed team ends; a saved one is discarded. -/
def killCore (s : State) (t c : Nat) (e : TaskEnd) : State :=
  let asid := match teamAt s t with | some x => x.asid | none => 0
  if !liveHere s t c then
    let k := contextAt s t c
    let s := (k.mem.chans.flatMap fun p => if p.2.stopped then chanRegions p.2 else []).foldl copyEnds (endWait s t c)
    let s := match Tab.look s.sched.saved (64 * t + c) with
      | some _ => modSched s fun d => { d with saved := Tab.erase (64 * t + c) d.saved }
      | none => modContext s t c vacated
    let s := match k.task with | some x => joinEnd s asid x.join e | none => s
    k.localq.foldl (fun s r => joinEnd s asid (recJoin r.2) e) s
  else
    let k := coreAt s c
    match k.task with
    | none => s
    | some x =>
      if x.team ≠ t then s
      else
        let s := joinEnd (release (discardFrozen (endWait s t c) c) c 4) asid x.join e
        makeIdle s c

/-- Queued records are discarded, each counted on its own join record. -/
def killQueue (s : State) (t : Nat) (e : TaskEnd) : Nat → State
  | 0 => s
  | n + 1 =>
    match teamAt s t with
    | none => s
    | some x =>
      match popHead s t with
      | (s, none) => s
      | (s, some r) => killQueue (joinEnd s x.asid (recJoin r) e) t e n

def killLocal (s : State) (t c : Nat) (e : TaskEnd) : State :=
  let asid := match teamAt s t with | some x => x.asid | none => 0
  let l := (coreAt s c).localq
  modCore (l.foldl (fun s r => joinEnd s asid (recJoin r.2) e) s) c fun k => { k with localq := [], deferred := [], yield_ := .no, arr := { k.arr with frozen := false } }

/-- A kill of a team: its LAUNCH completes with `status` once its copies have had their last event. -/
def killTeam (s : State) (t status : Nat) (e : TaskEnd) : State :=
  match teamAt s t with
  | none => s
  | some x =>
    if x.state == .ended then s
    else
      let s := x.place.foldl (fun s c => killCore s t c e) s
      let s := killQueue s t e (queueLen x)
      let s := if x.state == .waiting then s else (x.place.filter fun c => liveHere s t c).foldl (fun s c => dropStopped (killLocal s t c e) c) s
      let s := poisonAll s t
      modTeam s t fun y => { y with
        status := max y.status status, gen := none, hasSaved := false, pushes := []
        releaseAt := none, state := if y.state == .waiting then .ended else .running }

/-- The fault domain of the team of a faulted task (R303): the faulting team completes with status 1, the other teams
of the region with status 2 (DEDUCED, log entry 10). -/
def callDomain (s : State) (t : Nat) : State :=
  match teamAt s t with
  | none => s
  | some x =>
    let s := modTeam s t fun y => { y with status := 1 }
    let s := killTeam s t 1 (.killed false true)
    if effDomain s x.region then
      (s.sched.teams.filter fun p => p.1 != t && inSubtree s x.region p.2.region).foldl
        (fun s p => killTeam s p.1 2 (.killed false true)) s
    else s

/-! ### Ends of a task (R301, R302, R320) -/

/-- A request of a core at its team's generator. -/
def coreReq (s : State) (c kind d num : Nat) (value : Dword) : State :=
  match (coreAt s c).task with
  | none => s
  | some k => sendReq s k.team { kind := kind, lcore := k.lcore, core := c, d := d, num := num, value := value, quanta := [], at_ := s.beat }

/-- A task ends as faulted (R224): by 0x18 its tile is kept for a retry, and a record is queued again, once (R302); any other
end updates its join record and calls the fault domain (R303).  A waiting TILENEXT is withdrawn (R315), and the tile claimed for a
core that goes on with other work goes back (DEDUCED, log entry 57). -/
def faultTask (s : State) (c cause : Nat) : State :=
  match (coreAt s c).task with
  | none => makeIdle s c
  | some k =>
    let asid := match teamAt s k.team with | some x => x.asid | none => 0
    let s := forgetPushes (withdraw (release (discardFrozen s c) c 4) k.team k.lcore) k.team k.lcore
    let s := if cause = 0x18 then failTile s k.team k.lcore else s
    if cause = 0x18 && !k.root && !recRetried k.record then
      dispatchRecords (pushHead (makeIdle (revertClaim s k.team k.lcore) c) k.team (k.record ||| BitVec.ofNat 512 (2 ^ 32))) k.team
    else callDomain (makeIdle (joinEnd s asid k.join .faulted) c) k.team

/-- RETIRE with INH = 0, after its bundle (R320): of a team with a generator the core is idle for the scheduler once the generator has
served the request. -/
def retireTask (s : State) (c : Nat) : State :=
  match (coreAt s c).task with
  | none => makeIdle s c
  | some k =>
    let asid := match teamAt s k.team with | some x => x.asid | none => 0
    let s := joinEnd (release s c 4) asid k.join .retired
    -- a record that was run again has succeeded: a transient error (R302)
    let s := if !k.root && recRetried k.record then countLife s 0xE800 else s
    let s := (positions (coreAt s c) c).foldl (fun s p => modEdge s p disarmAll) s
    let s := coreReq s c 5 0 0 0
    dispatchRecords (makeIdle s c) k.team

/-! ### Starts (R297) -/

/-- The registers of a task that starts from a record. -/
def recordG (lcore size : Nat) (r : BitVec 512) : Tab Dword :=
  let put (t : Tab Dword) (n v : Nat) : Tab Dword := putG t n (BitVec.ofNat 64 v)
  put (put (put (put (put (put (put (put [] 1 lcore) 2 size) 3 (recField r 0x20 8)) 4 (recField r 0x18 2))
    5 (recField r 0x1A 2)) 6 (recField r 0x1C 2)) 7 (recJoin r)) 8 (recField r 8 8)

/-- The sequencer, control registers and loaders as a record's task finds them; cell registers, K, B, TVEC, the
epilogue slots and the record cache stay. -/
def startRecord (k : Core) (t lcore size : Nat) (r : BitVec 512) : Core :=
  { k with
    seq := { k.seq with
      g := recordG lcore size r, m := [], o := [], pc := recCode r, npc := recCode r, readyAt := k.seq.cyc + 1
      imx := none, xtgt := none, rep := none, repK := 0, pend := [], unchk := [] }
    ctl := { k.ctl with frm := 0, chk := false, trapen := 0, sxf := 0, repcnt := 0 }
    arr := { k.arr with win := .launch, group := .zero, groups := [], frozen := false }
    edge := disarmAll k.edge
    run := .running
    chain := []
    task := some { team := t, lcore := lcore, root := false, join := recJoin r, record := r, bundles := 0 } }

/-- The core belongs to no chain any more. -/
def unchain (s : State) (c : Nat) : State :=
  (s.cores.filter fun p => p.2.chain.contains c).foldl (fun s p => modCore s p.1 fun k => { k with chain := [] }) s

/-- An idle core starts its first-place record (R297, R299). -/
def startTask (s : State) (c t lcore : Nat) : State :=
  match (coreAt s c).localq, teamAt s t with
  | (_, r) :: q, some x =>
    let count := match x.img.ents[lcore]? with | some e => e.2.2.length | none => 0
    let s := modCore (unchain s c) c fun k => { k with localq := q }
    if recordOk r && recCode r < count then
      dispatchRecords (acquire (modCore s c fun k => startRecord k t lcore x.img.cores r) c 4) t
    else
      -- it ends at once as faulted with cause 0x02, TRAPPC holding CODE
      let s := modCore s c fun k =>
        { startRecord k t lcore x.img.cores r with ctl := { k.ctl with cause := 2, trappc := BitVec.ofNat 15 (recCode r) } }
      faultTask s c 2
  | _, _ => s

/-- A team has ended (R295): nothing runs, waits, copies or is owed, in the core or in its context; a pre-emption that has begun
changes nothing.  One whose map has met a fault is killed instead (R380). -/
def teamDone (s : State) (t : Nat) : Bool :=
  match teamAt s t with
  | none => false
  | some x =>
    (x.state == .running || x.state == .yielding) && queueLen x == 0 && x.pushes.isEmpty && x.releaseAt.isNone &&
      (match x.gen with | some g => g.reqs.isEmpty && !g.lost | none => true) &&
      x.place.all fun c =>
        let k := contextAt s t c
        (match k.run with | .running => false | .waitFolop => false | _ => k.task.isNone) && k.localq.isEmpty && k.mem.chans.all (fun p => p.2.queue.isEmpty && p.2.job.isNone) &&
          k.edge.loaders.all fun p => p.2.caps.isEmpty

/-- The team's cores go back to the free ones; the packet that launched it sees it ended. -/
def endTeam (s : State) (t : Nat) : State :=
  match teamAt s t with
  | none => s
  | some x =>
    let s := chargeRegions s x.region fun r => { r with cused := r.cused - x.place.length }
    let s := modSched s fun d => { d with saved := d.saved.filter (fun p => p.1 / 64 != t), drains := d.drains.filter fun y => y.1 != t }
    setTeam s t { x with state := .ended, gen := none }

end Sys2Proof.Machine
end

