-- ==== Sys2Proof/Machine/Ops.lean ====
section
/-! DEFINITION. Taking a trap and returning from one (R61, R125, R126, R220 to R227), the scalar results that a trap
lands (R41), barriers and counting flags (R213 to R219), and the bundle that a core issues next (R31, R128). -/

namespace Sys2Proof.Machine
open Sys2Proof

/-! ### Instruction memory (R31, R114, R231) -/

/-- The bundle at an index: memory beyond the image holds empty bundles. -/
def bundleAt (k : Core) (pc : Nat) : BitVec 128 := Tab.get 0 k.code pc
def bundleWords (b : BitVec 128) : BundleWords :=
  ⟨b.extractLsb' 0 32, b.extractLsb' 32 32, b.extractLsb' 64 32, b.extractLsb' 96 32⟩

/-- The repeat count of a bundle that carries REP (R35, R128). -/
def repCount (b : BitVec 128) : Option Nat :=
  match rawY (b.extractLsb' 0 32) with
  | .ok (.rep _ c _ _) => some (if c = 0 then 64 else c.toNat)
  | _ => none

/-- An index that the core may issue from: below 16,384 and below the partition's quota. -/
def inImem (k : Core) (pc : Nat) : Bool := pc < 16384 && pc < k.imemQuota

/-! ### Scalar results (R40, R41, R108, R112) -/

/-- A scalar result is written and its flags are ORed into SXF. -/
def landScalar (s : State) (c : Nat) (r : ScalarRes) : State :=
  modCtl (modSeq s c fun q => { q with g := putG q.g r.reg r.value }) c fun x => { x with sxf := x.sxf ||| r.flags }
/-- The result that lands first: the one that is due first, of two in one cycle the one that issued first.
DESIGN CHOICE (log entry 60): R41 orders only a later landing. -/
def firstScalar : List ScalarRes → Option ScalarRes
  | [] => none
  | r :: t =>
    match firstScalar t with
    | none => some r
    | some x => if x.due < r.due then some x else some r
def landFirst (s : State) (c : Nat) : State :=
  match firstScalar (coreAt s c).seq.pend with
  | none => s
  | some r => landScalar (modSeq s c fun q => { q with pend := q.pend.erase r }) c r
def landAll : Nat → State → Nat → State
  | 0, s, _ => s
  | n + 1, s, c => landAll n (landFirst s c) c
/-- The first result whose latency is over (R40). -/
def dueScalar (k : Core) : Option ScalarRes := (firstScalar k.seq.pend).filter fun r => r.due ≤ k.seq.cyc
/-- Results still pending when the sequencer traps are written before the handler's first bundle (R41). -/
def flushScalars (s : State) (c : Nat) : State := landAll (coreAt s c).seq.pend.length s c

/-! ### TRAPINFO (R61, R222) -/

/-- The memory layout, in which the bits above NCAN are reserved: of REPT, which an example of R129's page names, it has no bit (DEDUCED,
log entry 87): ACC 0 load, 1 store, 2 record fetch, 3 epilogue fetch, 4 SPCLR, 5 AMO or CACHE. -/
def memInfo (va acc : Nat) (ncan : Bool) : Dword :=
  BitVec.ofNat 64 (va % 2 ^ 57 + acc * 2 ^ 57 + if ncan then 2 ^ 60 else 0)
/-- R61: slot 0 Y to 3 E, REPT, RCLASS, RNUM, LEFT, the slot's word. -/
def bundleInfo (slot : Nat) (rept : Bool) (cls num left : Nat) (w : Word) : Dword :=
  BitVec.ofNat 64 (slot + (if rept then 4 else 0) + cls * 2 ^ 8 + num * 2 ^ 11 + min left 65535 * 2 ^ 16 + w.toNat * 2 ^ 32)
/-- The cell layout. -/
def cellInfo (kind flags row col addr : Nat) : Dword :=
  BitVec.ofNat 64 (kind + flags * 8 + row * 2 ^ 8 + col * 2 ^ 16 + addr * 2 ^ 32)
/-- The loader layout. -/
def loaderInfo (edge kind line : Nat) : Dword := BitVec.ofNat 64 (edge + kind * 4 + line % 2 ^ 50 * 2 ^ 8)

def slotNumber : Slot → Nat
  | .y => 0
  | .s => 1
  | .w => 2
  | .e => 3
  | .epilogue => 0

/-! ### Deferred faults (R221) -/

/-- A deferred fault is detected; an instruction that has raised the cause before raises nothing more. -/
def detect (s : State) (c cause wavetag : Nat) (info : Dword) (tag : Option Nat) : State :=
  let k := coreAt s c
  let seen := match tag with | some t => k.arr.raised.contains (t, cause) | none => false
  if seen then s
  else modCore s c fun k => { k with
    deferred := k.deferred ++ [{ cause := cause, wavetag := wavetag, info := info, at_ := k.seq.cyc }]
    arr := { k.arr with raised := match tag with | some t => (t, cause) :: k.arr.raised | none => k.arr.raised } }

/-- Which of two pending faults is taken first: the earlier detection, then 0x18, then the lower code. -/
def faultBefore (a b : Deferred) : Bool :=
  a.at_ < b.at_ || (a.at_ == b.at_ && b.cause != 0x18 && (a.cause == 0x18 || a.cause < b.cause))
/-- The first of them; of two of one cycle and code the one that was detected first in the model's order (DESIGN CHOICE, log
entry 90). -/
def firstFault : List Deferred → Option Deferred
  | [] => none
  | d :: t =>
    match firstFault t with
    | none => some d
    | some e => if faultBefore e d then some e else some d

/-! ### Acquires that wait (R260, R277, R301, R317, R330) -/

/-- A JOINW of an earlier bundle waits, or a SPAWN has not had its answer. -/
def waitsForTasks (s : State) (c : Nat) : Bool :=
  let k := coreAt s c
  k.joinw.any (joinOpen k) ||
    (match k.task, teamOf s c with | some y, some x => x.pushes.any fun p => p.lcore == y.lcore | _, _ => false)
/-- An RJPOP of an earlier bundle has not been served. -/
def popsWait (s : State) (c : Nat) : Bool := (coreAt s c).rjq.any fun r => r.1 == 2
/-- The FENCE can act: no trap handler stands before it, as before a waiting JOINW (R319). -/
def fenceOpen (k : Core) (f : Nat × Bool) : Bool := k.run == .running && (f.2 || !k.ctl.inh)
/-- A FENCE of an earlier bundle is not complete (R277). -/
def fencesOpen (s : State) (c : Nat) : Bool := (coreAt s c).fences.any (fenceOpen (coreAt s c))
/-- A FENCE waits until the acquires of earlier bundles are complete (R260, R301, R330). -/
def fenceWaits (s : State) (c : Nat) : Bool := waitsForTasks s c || popsWait s c
/-- A trap, a save or a halt lets the FENCEs that have issued act (R277); one behind a JOINW that still waits acts again once that has
its record (DESIGN CHOICE, log entry 96). -/
def fencesAct (s : State) (c : Nat) : State := (coreAt s c).fences.foldl (fun s f => fenceActs s c f.1) s

/-! ### Taking a trap (R223 to R226) -/

/-- Freeze the arrays of a core's chain. -/
def freeze (s : State) (c : Nat) : State :=
  (positions (coreAt s c) c).foldl (fun s p => modArr s p fun a => { a with frozen := true }) s
/-- The thaw occurs in the next cycle (R227): the issue cycle of the freeze is the one that follows. -/
def thaw (s : State) (c : Nat) : State :=
  (positions (coreAt s c) c).foldl (fun s p =>
    modArr s p fun a => if a.frozen then { a with frozen := false, acyc := a.acyc - 1 } else a) s

/-- The registers that a trap sets. -/
def trapRegs (x : Ctl) (cause n : Nat) (info : Dword) (wt : Option Nat) (rc : Nat) : Ctl :=
  { x with
    trappc := BitVec.ofNat 15 n, cause := BitVec.ofNat 8 cause, info := info, repcnt := BitVec.ofNat 7 rc, inh := true
    wavetag := match wt with | some b => BitVec.ofNat 14 b | none => x.wavetag }

/-- The fault event of a core whose trap registers are set (R225). -/
def faultEvent (s : State) (c : Nat) : FaultEv :=
  let k := coreAt s c
  let team := match k.task with | some t => t.team | none => 0
  { core := c, team := team, asid := k.ctl.asid, cause := k.ctl.cause, info := k.ctl.info, trappc := k.ctl.trappc, wavetag := k.ctl.wavetag, repcnt := k.ctl.repcnt }

/-- A trap is taken at the boundary before bundle `n`: `rc` is REPCNT (R128), `start` the first cycle in which the
handler may issue.  While TSTATE.INH = 1 it is a double trap and the task ends as faulted (R224).  With TVEC 0 the
core waits, frozen, and Folop receives a fault event (R225). -/
def takeTrap (s : State) (c cause n : Nat) (info : Dword) (wt : Option Nat) (rc start : Nat) : State :=
  if (coreAt s c).ctl.inh then faultTask s c cause
  else
    let s := freeze (fencesAct (quiesce (flushScalars s c) c) c) c
    let s := modCtl s c fun x => trapRegs x cause n info wt rc
    let k := coreAt s c
    if k.ctl.tvec = 0 then
      modPav (modCore s c fun k => { k with run := .waitFolop, seq := { k.seq with pc := n, npc := n, repK := 0 } }) fun p =>
        { p with faults := p.faults ++ [faultEvent s c] }
    else
      modSeq s c fun q => { q with pc := k.ctl.tvec.toNat, npc := k.ctl.tvec.toNat, repK := 0, readyAt := start }

/-- Repeats not yet issued at a trap of the repeat that the core issues (R128). -/
def repLeft (k : Core) : Nat :=
  if k.seq.repK = 0 then 0 else match repCount (bundleAt k k.seq.pc) with | some n => n - k.seq.repK | none => 0

/-- A precise trap of the bundle that core `me` issues: no slot commits. -/
def preciseTrap (s : State) (cause : Nat) (info : Dword) : State :=
  let k := coreAt s s.me
  takeTrap s s.me cause k.seq.pc info none (repLeft k) (k.seq.cyc + 2)

/-- A precise trap with the layout of R61. -/
def bundleTrap (s : State) (cause slot cls num left : Nat) (w : Word) : State :=
  preciseTrap s cause (bundleInfo slot (decide (0 < (coreAt s s.me).seq.repK)) cls num left w)

/-- An illegal operand of an instruction (R60, R61). -/
def illegalOperand (s : State) (i : Instr) : State :=
  match encode i with
  | some x => bundleTrap s 2 (slotNumber x.slot) 0 0 0 x.word
  | none => bundleTrap s 2 0 0 0 0 0

/-- A translation or permission fault of an access (R116, R222). -/
def memoryTrap (s : State) (e : XErr) (va acc : Nat) : State :=
  preciseTrap s e.cause (memInfo va acc (e == .nonCanon))
def alignmentTrap (s : State) (va acc : Nat) : State := preciseTrap s 5 (memInfo va acc false)

/-! ### Returning (R126, R225, R227) -/

/-- The repeat from which a resumed bundle runs. -/
def resumeRepeat (b : BitVec 128) (k : Nat) : Nat :=
  match repCount b with
  | some n => if 0 < k && k ≤ n then n - k else 0
  | none => 0

/-- The fault that has stopped a copy channel has not been taken yet (R209, R210). -/
def channelFaulted (k : Core) (ch : Nat) : Bool :=
  k.deferred.any fun d => d.cause == 0x13 && d.info.toNat % 64 == ch && d.info.toNat / 256 % 4 != 2
/-- The channels of a position, all but those whose fault core `m` has not taken. -/
def goOn (m : Core) (y : MemPath) : MemPath :=
  { y with chans := y.chans.map fun q => (q.1, { q.2 with stopped := q.2.stopped && channelFaulted m q.1 }) }
/-- After RETT the channels whose fault has been taken go on (R209). -/
def restartChans (s : State) (c : Nat) : State :=
  (positions (coreAt s c) c).foldl (fun t p => modMem t p (goOn (coreAt s c))) s

/-- Fetches that failed are made again after the return (R141): what they gave is dropped. -/
def dropFailed (s : State) (c : Nat) : State :=
  (positions (coreAt s c) c).foldl (fun s p => modEdge s p fun e =>
    { e with loaders := e.loaders.map fun l => (l.1, { l.2 with fetched := l.2.fetched.map fun f =>
      { f with vals := f.vals.takeWhile fun v => match v with | .reg _ => true | .bad .. => false } }) }) s

/-- A pending deferred fault is taken again instead of resuming; else the array thaws and TRAPPC issues next. -/
def resumeCore (s : State) (c : Nat) : State :=
  let k := coreAt s c
  let pc := k.ctl.trappc.toNat
  let rc := k.ctl.repcnt.toNat
  let s := modCtl (restartChans s c) c fun x => { x with inh := false, repcnt := 0 }
  match firstFault k.deferred with
  | some d =>
    let s := modCore s c fun k => { k with deferred := k.deferred.erase d, run := .running }
    takeTrap s c d.cause pc d.info (some d.wavetag) rc (k.seq.cyc + 2)
  | none =>
    thaw (modCore (dropFailed s c) c fun k => { k with
      run := .running
      seq := { k.seq with pc := pc, npc := pc, repK := resumeRepeat (bundleAt k pc) rc, readyAt := k.seq.cyc + 1 } }) c

/-- RETT (R126), and a RESUME reply of Folop (R225). -/
def returnFromTrap (s : State) (c : Nat) (bad : State → State) : State :=
  let k := coreAt s c
  if !inImem k k.ctl.trappc.toNat then bad s else resumeCore s c

/-! ### Barriers and counting flags (R213 to R215) -/

def barrierAt (k : Core) (b : Nat) : Barrier := Tab.get .zero k.seq.bars b
def setBarrier (s : State) (c b : Nat) (x : Barrier) : State :=
  modSeq s c fun q => { q with bars := Tab.set .zero q.bars b x }
/-- The phase completes when every arrival and every byte has come. -/
def completeBarrier (x : Barrier) : Barrier :=
  if x.count = x.target && x.pend = 0 then { x with phase := !x.phase, count := 0 } else x

/-- The layout of R214. -/
def barrierInfo (b core kind : Nat) : Dword := BitVec.ofNat 64 (b + core * 2 ^ 10 + kind * 2 ^ 16)

/-- The logical core number of a physical core. -/
def lcoreOf (s : State) (c : Nat) : Nat := (coreAt s c).lcore

/-- A barrier fault is detected on a core of a team, in its context when the core is saved or swapped out (R214, R221). -/
def barrierFault (s : State) (t src bundle : Nat) (info : Dword) : State :=
  if liveHere s t src then detect s src 0x14 bundle info none
  else modContext s t src fun k => { k with deferred := k.deferred ++ [{ cause := 0x14, wavetag := bundle, info := info, at_ := k.seq.cyc }] }
/-- An event at barrier `b` of core `c`; a fault goes to core `src` of team `t` with a bundle index (R214). -/
def barrierEvent (s : State) (t c b src bundle : Nat) (f : Barrier → Except Nat Barrier) : State :=
  match f (barrierAt (coreAt s c) b) with
  | .ok x => setBarrier s c b x
  | .error kind => barrierFault s t src bundle (barrierInfo b (lcoreOf s c) kind)

/-- BEXP never completes a phase. -/
def expectBytes (n : Nat) (x : Barrier) : Except Nat Barrier :=
  if 2 ^ 48 ≤ x.pend + n then .error 1 else .ok { x with pend := x.pend + n }
def landBytes (n : Nat) (x : Barrier) : Except Nat Barrier :=
  if x.pend < n then .error 0 else .ok (completeBarrier { x with pend := x.pend - n })
def arrive (x : Barrier) : Except Nat Barrier :=
  if x.target < x.count + 1 then .error 2 else .ok (completeBarrier { x with count := x.count + 1 })

def readK (k : Core) (i : Nat) : Half := Tab.get 0 k.seq.k i
def setK (s : State) (c i : Nat) (v : Half) : State := modSeq s c fun q => { q with k := Tab.set 0 q.k i v }
/-- A post saturates at 65,535. -/
def postK (s : State) (c i n : Nat) : State :=
  setK s c i (BitVec.ofNat 16 (min 65535 ((readK (coreAt s c) i).toNat + n)))

/-- A post or an arrival reaches a core (R213, R215). -/
def applyPost (s : State) (t src dst bundle : Nat) (bar : Bool) (idx n : Nat) : State :=
  if bar then barrierEvent s t dst idx src bundle arrive else postK s dst idx n
/-- The posts that reached a core's context, in their order (R230). -/
def applyTail (s : State) (c : Nat) (l : List Post) : State :=
  l.foldl (fun s p => applyPost s p.team p.src c p.bundle p.bar p.idx p.n) s

/-- The same for a core of a team: a saved core finds it in its context area, in arrival order (R230). -/
def deliverPost (s : State) (p : Post) : State :=
  if liveHere s p.team p.dst then applyPost s p.team p.src p.dst p.bundle p.bar p.idx p.n
  else modContext s p.team p.dst fun k => { k with tail := k.tail ++ [p] }

/-- Take out the first post from one core to another: two such posts keep their order (R218). -/
def takePost (src dst : Nat) : List Post → Option (Post × List Post)
  | [] => none
  | p :: t =>
    if p.src = src && p.dst = dst then some (p, t)
    else match takePost src dst t with
      | none => none
      | some (q, r) => some (q, p :: r)

/-! ### The team of the issuing core -/

def teamSize (s : State) (c : Nat) : Nat := match teamOf s c with | some x => x.img.cores | none => 1
def teamNumber (s : State) (c : Nat) : Nat := match (coreAt s c).task with | some k => k.team | none => 0
/-- The physical core of a logical one. -/
def physCore (s : State) (c l : Nat) : Nat := match teamOf s c with | some x => x.place.getD l c | none => c

/-- The next bundle issues no earlier than t + 1 + s (R32). -/
def applyStall (s : State) (n : Nat) : State :=
  modSeq s s.me fun q => { q with readyAt := q.cyc + 1 + n }

end Sys2Proof.Machine
end

