-- ==== Sys2Proof/Machine/Operands.lean ====
section
/-! DEFINITION. The operand forms of a cell (R15, R83 to R87, R96), what one cell's execution takes and gives, and the
injection of a W instruction into the window (R18, R21, R39, R87, R121, R136, R139, R140, R226). -/

namespace Sys2Proof.Machine
open Sys2Proof

/-! ### Elements, slices, lanes (R15, R84, R136) -/

/-- Element `e` of width `w`. -/
def elem (w : Nat) (x : RegData) (e : Nat) : Nat := (x.extractLsb' (w * e) w).toNat
def putElem (w : Nat) (x : RegData) (e v : Nat) : RegData :=
  (x &&& ~~~ (BitVec.ofNat 512 (2 ^ w - 1) <<< (w * e))) ||| (BitVec.ofNat 512 (v % 2 ^ w) <<< (w * e))
/-- The lowest slice of the lane that holds element `e`. -/
def lowSlice (w e : Nat) : Nat := if w = 32 then 2 * e else if w = 16 then e else if w = 8 then e / 2 else e / 4
/-- The element width of a ty code. -/
def tyWidth (t : BitVec 4) : Nat := (tyOf t.toNat).width
/-- The slices that an instruction with this p bit updates (R15). -/
def laneMask (p : BitVec 1) (pr : Word) : Word := if p = 0 then BitVec.allOnes 32 else pr
/-- Entry j of XF gains flags. -/
def orXf (xf : BitVec 160) (j : Nat) (fl : Flags5) : BitVec 160 := xf ||| (fl.setWidth 160 <<< (5 * j))
def xfAt (xf : BitVec 160) (j : Nat) : Flags5 := xf.extractLsb' (5 * j) 5

/-- New elements with the flags that they raise: the data, the flags by XF entry, and all flags together. -/
structure Elems where
  data : RegData
  xf : BitVec 160
  all : Flags5
deriving DecidableEq, Repr

/-- Every chosen element of the first `n` becomes f's value (R89's loop). -/
def mapFirst (n w : Nat) (lanes : Word) (old : RegData) (f : Nat → Nat × Flags5) : Elems :=
  (List.range n).foldl (fun acc e =>
    if lanes.getLsbD (lowSlice w e) then
      let (v, g) := f e
      { data := putElem w acc.data e v, xf := orXf acc.xf (lowSlice w e) g, all := acc.all ||| g }
    else acc) ⟨old, 0, 0⟩
def mapElems (w : Nat) (lanes : Word) (old : RegData) (f : Nat → Nat × Flags5) : Elems := mapFirst (512 / w) w lanes old f
/-- The slices that the chosen lanes of width `w` cover. -/
def spreadLanes (w : Nat) (lanes : Word) : Word :=
  if w = 32 then
    (List.range 16).foldl (fun (m : Word) i => if lanes.getLsbD (2 * i) then m ||| BitVec.ofNat 32 (3 * 2 ^ (2 * i)) else m) 0
  else lanes

/-- The slices of `new` that the mask chooses, over `old`. -/
def pickSlices (lanes : Word) (old new : RegData) : RegData :=
  (List.range 32).foldl (fun acc j => if lanes.getLsbD j then putElem 16 acc j (elem 16 new j) else acc) old

/-! ### One cell's execution (R22, R83, R86) -/

/-- What an instruction brings to a cell. -/
structure CellIn where
  /-- selected (R21) -/
  sel : Bool
  row : Nat
  col : Nat
  frm : BitVec 2
  trapen : BitVec 7
  imx : Option (BitVec 24)
  /-- the C of the neighbours by edge code N, E, S, W, or what a loader presents (R19, R20) -/
  nbr : Nat → FReg
  /-- the issue cycle in which it reaches the cell -/
  now : Nat
  tag : Nat
  bundle : Nat
  /-- bytes of the cell store that the partition owns (R14, R231) -/
  limit : Nat

/-- The cell afterwards and the deferred faults that it detects, by cause. -/
structure CellOut where
  cell : CellSt
  faults : List (Nat × Dword)
deriving DecidableEq, Repr

def cellDone (k : CellSt) : CellOut := ⟨k, []⟩
/-- Only a selected cell acts (R22). -/
def whenSel (x : CellIn) (k : CellSt) (f : CellSt → CellOut) : CellOut := if x.sel then f k else cellDone k

def CellIn.mode (x : CellIn) : RMode := RMode.ofBits x.frm

/-- ReadNeighbour (R83): codes 28-31 are N, E, S, W (R51). -/
def readNbr (x : CellIn) (code : BitVec 5) : FReg := x.nbr (code.toNat - 28)
/-- ReadOperand (R83). -/
def readOperand (x : CellIn) (k : CellSt) (code : BitVec 5) : FReg :=
  if code.toNat ≤ 23 then readF k code.toNat else if code = 24 then k.c else readNbr x code
/-- A destination: an F register, or C for code 24. -/
def readDst (k : CellSt) (d : BitVec 5) : FReg := if d = 24 then k.c else readF k d.toNat
def writeDst (k : CellSt) (d : BitVec 5) (v : FReg) : CellSt :=
  if d = 24 then { k with c := v } else writeF k d.toNat v
/-- A write of data bytes that leaves the sidecar (R85). -/
def writeData (k : CellSt) (d : BitVec 5) (v : RegData) : CellSt := writeDst k d { readDst k d with data := v }
/-- WriteSlices (R96): the sidecar moves when p = 0. -/
def writeSlices (k : CellSt) (d : BitVec 5) (v : FReg) (p : BitVec 1) : CellSt :=
  writeDst k d
    { data := pickSlices (laneMask p k.p) (readDst k d).data v.data
      side := if p = 0 then v.side else (readDst k d).side }

/-- The deferred FP fault of flags whose enable is set (R84, R89, R120). -/
def fpFault (x : CellIn) (nf : BitVec 1) (fl : Flags5) : List (Nat × Dword) :=
  let e := fl &&& x.trapen.setWidth 5
  if nf = 0 && e != 0 then [(0x11, cellInfo 3 e.toNat x.row x.col 0)] else []
/-- Flags into XF unless nf = 1 (R84). -/
def raiseXf (k : CellSt) (nf : BitVec 1) (xf : BitVec 160) : CellSt :=
  if nf = 0 then { k with xf := k.xf ||| xf } else k

/-- A typed element-by-element operation into d (R84, R85, R89). -/
def typedOp (x : CellIn) (k : CellSt) (d : BitVec 5) (nf : BitVec 1) (w : Nat) (p : BitVec 1)
    (f : Nat → Nat × Flags5) : CellOut :=
  let r := mapElems w (laneMask p k.p) (readDst k d).data f
  ⟨raiseXf (writeData k d r.data) nf r.xf, fpFault x nf r.all⟩

/-- The format of a float ty code 0-5. -/
def fmtOf (t : BitVec 4) : Fmt := match tyOf t.toNat with | .flt f => f | _ => fp32

/-- The float members of R89, over elements of a, b and d. -/
def floatOp (x : CellIn) (k : CellSt) (d a b : BitVec 5) (nf : BitVec 1) (t : BitVec 4) (p : BitVec 1)
    (f : Fmt → RMode → Nat → Nat → Nat → Nat × Flags5) : CellOut :=
  let w := tyWidth t
  let u := (readOperand x k a).data
  let v := (readOperand x k b).data
  let o := (readDst k d).data
  typedOp x k d nf w p fun e => f (fmtOf t) x.mode (elem w u e) (elem w v e) (elem w o e)

/-- The integer and fixed-point members of R93, over elements of a, b and d; `q` says whether ty is a Q type. -/
def intOp (x : CellIn) (k : CellSt) (d a b : BitVec 5) (nf : BitVec 1) (t : BitVec 4) (p : BitVec 1)
    (f : Nat → Bool → Nat → Nat → Nat → Nat × Flags5) : CellOut :=
  let w := tyWidth t
  let u := (readOperand x k a).data
  let v := (readOperand x k b).data
  let o := (readDst k d).data
  typedOp x k d nf w p fun e => f w (9 ≤ t.toNat) (elem w u e) (elem w v e) (elem w o e)

/-- A compare into P (R90, R94): a lane's result in every slice that it covers; an 8-bit lane needs both elements. -/
def compareP (w : Nat) (lanes : Word) (f : Nat → Bool) (old : Word) : Word :=
  (List.range 32).foldl (fun acc j =>
    if lanes.getLsbD (if w = 32 then j / 2 * 2 else j) then
      let r := if w = 32 then f (j / 2) else if w = 16 then f j else f (2 * j) && f (2 * j + 1)
      let bit : Word := BitVec.ofNat 32 (2 ^ j)
      if r then acc ||| bit else acc &&& ~~~ bit
    else acc) old

/-! ### What an instruction says about the array -/

/-- A special-function instruction (R165). -/
def isSf : Instr → Bool
  | .fdiv .. | .fsqrt .. | .frcp .. | .frsq .. | .fexp2 .. | .flog2 .. => true
  | _ => false
/-- A tray sum (R189, R192). -/
def isMacc : Instr → Bool
  | .macc .. | .maccs .. => true
  | _ => false
def isCflag : Instr → Bool
  | .cflag .. => true
  | _ => false

/-- The checked results that a W instruction leaves pending, beyond latency 1 (R40). -/
def wBusy (now : Nat) : Instr → List Busy
  | .fdiv _ d _ _ _ _ _ => [⟨1, d.toNat, now + 14⟩]
  | .fsqrt _ d _ _ _ _ => [⟨1, d.toNat, now + 14⟩]
  | .frcp _ d _ _ _ _ => [⟨1, d.toNat, now + 14⟩]
  | .frsq _ d _ _ _ _ => [⟨1, d.toNat, now + 14⟩]
  | .fexp2 _ d _ _ _ _ => [⟨1, d.toNat, now + 14⟩]
  | .flog2 _ d _ _ _ _ => [⟨1, d.toNat, now + 14⟩]
  | .macc _ _ r _ _ _ _ _ => [⟨2, r.toNat, now + 4⟩]
  | .maccs _ _ r _ _ _ _ _ => [⟨2, r.toNat, now + 4⟩]
  | _ => []

/-! ### Chains (R27 to R30) -/

/-- The number of positions of core c's chain. -/
def chainLen (k : Core) : Nat := if k.chain.isEmpty then 1 else k.chain.length
/-- The window as the whole chain sees it (R28). -/
def globalH (k : Core) : Nat := if k.chainEW then k.arr.win.h else chainLen k * k.arr.win.h
def globalW (k : Core) : Nat := if k.chainEW then chainLen k * k.arr.win.w else k.arr.win.w
/-- E_n (R28): CHAINSKEW1 to CHAINSKEWn less one each. -/
def linkDelay (k : Core) (n : Nat) : Nat := ((List.range n).map fun i => (Tab.get 0 k.ctl.skew (i + 1)).toNat - 1).sum
/-- E_k for the last position. -/
def chainDelay (k : Core) : Nat := linkDelay k (chainLen k - 1)
/-- The position of core p in the chain of core k. -/
def chainPos (k : Core) (p : Nat) : Nat := if k.chain.isEmpty then 0 else k.chain.idxOf p
/-- The distance D of window cell (i,j) of position n over the whole chain (R28). -/
def waveDist (k : Core) (w : Window) (n i j : Nat) : Nat :=
  if k.chainEW then distance w.origin w.h (chainLen k * w.w) i (n * w.w + j)
  else distance w.origin (chainLen k * w.h) w.w (n * w.h + i) j

/-- The core whose clock and wave list the array of core c follows. -/
def masterOf (s : State) (c : Nat) : Nat := match s.cores.find? fun p => p.2.chain.contains c with | some p => p.1 | none => c

/-! ### Loader steps (R136, R139, R140) -/

/-- L of an edge (R130): edges N and S have the window's width. -/
def edgeLen (w : Window) (e : Nat) : Nat := if e % 2 = 0 then w.w else w.h

/-- The edge's loader has a step for the next W instruction. -/
def boundStep (k : Core) (e : Nat) : Option Binding :=
  match (loaderAt k.edge e).bind with
  | some b => if 0 < b.left then some b else none
  | none => none

/-- The fetched step that a binding presents next, once it is there for every position below L. -/
def nextStep (k : Core) (e : Nat) (b : Binding) : Option (List FetchRes) :=
  match (loaderAt k.edge e).fetched.find? fun f => f.q == b.q0 + b.taken with
  | none => none
  | some f => if edgeLen k.arr.win e ≤ f.vals.length then some (f.vals.take (edgeLen k.arr.win e)) else none
/-- The registers that it presents. -/
def presentable (k : Core) (e : Nat) (b : Binding) : Option (List FReg) :=
  (nextStep k e b).map fun vs => vs.map fun v => match v with | .reg r => r | .bad .. => .zero

/-- The binding after a step (R144): it ends after its last. -/
def advance (b : Binding) : Option Binding :=
  if b.left ≤ 1 then none else some { b with taken := b.taken + 1, left := b.left - 1 }

/-- One edge's step at the issue of a W instruction: O[o] := q + 1 (R144). -/
def takeStep (s : State) (p e bundle : Nat) : State × List Feed × List Owed :=
  let k := coreAt s p
  match boundStep k e with
  | none => (s, [], [])
  | some b =>
    let q := b.q0 + b.taken
    let s := writeO s p b.o (BitVec.ofNat 16 (q + 1))
    if b.drain then
      let id := k.edge.nextCap
      let cap : Capture :=
        { id := id, order := id, bundle := bundle, bind := b, q := q, len := edgeLen k.arr.win e, regs := [], got := 0
          done := 0, wpos := 0 }
      (modEdge s p fun x =>
        { setLoader x e { loaderAt x e with bind := advance b, caps := (loaderAt x e).caps ++ [cap] } with nextCap := id + 1 },
       [], [⟨p, e, id⟩])
    else
      (modLoader s p e fun l => { l with bind := advance b, fetched := l.fetched.filter fun f => f.q != q },
       [⟨p, e, (presentable k e b).getD []⟩], [])

def takeEdges (s : State) (p bundle : Nat) : List Nat → State × List Feed × List Owed
  | [] => (s, [], [])
  | e :: es =>
    let (s, f, o) := takeStep s p e bundle
    let (s, f', o') := takeEdges s p bundle es
    (s, f ++ f', o ++ o')
def takeSteps (s : State) (bundle : Nat) : List Nat → State × List Feed × List Owed
  | [] => (s, [], [])
  | p :: ps =>
    let (s, f, o) := takeEdges s p bundle [0, 1, 2, 3]
    let (s, f', o') := takeSteps s bundle ps
    (s, f ++ f', o ++ o')

/-! ### Holds of a W instruction (R16, R139, R140) -/

/-- A feed whose step is not present, or a 17th unwritten drain step; a fetch that faulted is no hold (R141). -/
def edgeHold (k : Core) (e : Nat) : Bool :=
  match boundStep k e with
  | none => false
  | some b => if b.drain then 16 ≤ (loaderAt k.edge e).caps.length else (presentable k e b).isNone
def sfHold (k : Core) : Bool := 4 ≤ (k.arr.sfIssued.filter fun t => k.arr.acyc < t + 14).length
def wHold (s : State) (i : Instr) : Bool :=
  (isSf i && sfHold (coreAt s s.me)) ||
    (positions (coreAt s s.me) s.me).any fun p => [0, 1, 2, 3].any fun e => edgeHold (coreAt s p) e

/-! ### Injection -/

/-- Faults of one cycle are detected behind everything else of it, in increasing row, then column (R222). -/
def eventRank : ArrEv → Nat
  | .fault _ _ _ info => 1 + 32 * (info.extractLsb' 8 5).toNat + (info.extractLsb' 16 5).toNat
  | _ => 0
/-- An array event joins the others of its core, behind those of the same issue cycle. -/
def insertDue (t : Nat) (v : ArrEv) : List (Nat × ArrEv) → List (Nat × ArrEv)
  | [] => [(t, v)]
  | (u, w) :: l => if t < u || (t == u && eventRank v < eventRank w) then (t, v) :: (u, w) :: l else (u, w) :: insertDue t v l
def schedule (s : State) (c t : Nat) (v : ArrEv) : State := modArr s c fun a => { a with due := insertDue t v a.due }

/-- The group that a CFLAG starts from: AND over nothing yet. -/
def groupStart (w : Window) : FlagGroup :=
  let rows := w.rows.foldl (fun (m : Word) r => m ||| BitVec.ofNat 32 (2 ^ r)) 0
  let cols := w.cols.foldl (fun (m : Word) c => m ||| BitVec.ofNat 32 (2 ^ c)) 0
  { rowAny := 0, rowAll := rows, colAny := 0, colAll := cols, summary := 2 }

/-- The wave of an instruction that issues now. -/
def newWave (k : Core) (i : Instr) (sel : Sel) (feeds : List Feed) (drains : List Owed) : Wave :=
  { tag := k.arr.nextTag, instr := i, imx := k.seq.imx, bundle := k.seq.pc, start := k.arr.acyc, next := 0
    rows := sel.rows, cols := sel.cols, frm := k.ctl.frm, trapen := k.ctl.trapen, win := k.arr.win
    feeds := feeds, drains := drains, acc := groupStart k.arr.win }

/-- Issue of a W instruction under selector m: loader steps are taken, the wave starts at distance 0. -/
def inject (s : State) (m : BitVec 4) (i : Instr) : State :=
  let c := s.me
  let k := coreAt s c
  let (s, feeds, drains) := takeSteps s k.seq.pc (positions k c)
  let w := newWave k i (readM k m) feeds drains
  let now := k.arr.acyc
  let s := modArr s c fun a => { a with
    waves := a.waves ++ [w], nextTag := a.nextTag + 1, due := insertDue now (.reach w.tag) a.due
    busy := (a.busy.filter fun b => now < b.due) ++ wBusy now i
    sfIssued := if isSf i then (a.sfIssued.filter fun t => now < t + 14) ++ [now] else a.sfIssued }
  if isCflag i then
    let t := now + globalH k + globalW k + chainDelay k + 1
    schedule (modArr s c fun a => { a with groups := a.groups ++ [⟨t, w.tag, w.acc⟩] }) c t .group
  else s

/-- A W instruction issues once nothing holds it. -/
def issueW (s : State) (m : BitVec 4) (i : Instr) : Out := if wHold s i then .next s else .next (inject s m i)

/-- R39: the W slot's no-operation injects nothing; it is no W instruction for a loader. -/
def execCnop (s : State) : Out := .next s

/-! ### Deliveries on their way -/

/-- A special-function result enters the pipeline (R166). -/
def pushSf (k : CellSt) (e : SfEntry) : CellSt := { k with sfq := k.sfq ++ [e] }
/-- A tray sum enters the adder (R189). -/
def pushTray (k : CellSt) (e : TrayEntry) : CellSt := { k with tq := k.tq ++ [e] }

def trayAt (t : Tab TrayData) (n : Nat) : TrayData := Tab.get 0 t n
def setTray (t : Tab TrayData) (n : Nat) (v : TrayData) : Tab TrayData := Tab.set 0 t n v

end Sys2Proof.Machine
end

