-- ==== Sys2Proof/Machine/CellFlag.lean ====
section
/-! DEFINITION. The cell flag and status instructions: CFLAG's output, P, XF and SF (R24, R101 to R104). -/

namespace Sys2Proof.Machine
open Sys2Proof

/-- An image of XF: bits [4:0] of slice j hold entry j (R103). -/
def xfImage (xf : BitVec 160) : RegData :=
  (List.range 32).foldl (fun (acc : RegData) j => acc ||| ((xfAt xf j).setWidth 512 <<< (16 * j))) 0
/-- XF with the masked flags of the chosen entries cleared. -/
def clearXf (xf : BitVec 160) (mask : BitVec 5) (lanes : Word) : BitVec 160 :=
  (List.range 32).foldl (fun (acc : BitVec 160) j =>
    if lanes.getLsbD j then acc &&& ~~~ ((mask.setWidth 160) <<< (5 * j)) else acc) xf
/-- WriteSlices of the image; no sidecar moves. -/
def writeImage (k : CellSt) (d : BitVec 5) (p : BitVec 1) : CellSt :=
  writeData k d (pickSlices (laneMask p k.p) (readDst k d).data (xfImage k.xf))
/-- Bits [31:0] of a source. -/
def lowWord (v : FReg) : Word := v.data.setWidth 32

/-- R24. -/
def cellCflag (d : BitVec 5) (x : CellIn) (k : CellSt) : CellOut :=
  whenSel x k fun k => cellDone { k with edgeFlag := if d = 0 then k.p != 0 else k.p == BitVec.allOnes 32 }
def execCflag (m : BitVec 4) (d : BitVec 5) (s : State) : Out := issueW s m (.cflag m d)

/-- R102. -/
def cellPsetOnes (x : CellIn) (k : CellSt) : CellOut :=
  whenSel x k fun k => cellDone { k with p := BitVec.allOnes 32 }
def execPsetOnes (m : BitVec 4) (s : State) : Out := issueW s m (.psetOnes m)

/-- R102. -/
def cellPsetZero (x : CellIn) (k : CellSt) : CellOut :=
  whenSel x k fun k => cellDone { k with p := 0 }
def execPsetZero (m : BitVec 4) (s : State) : Out := issueW s m (.psetZero m)

/-- R102. -/
def cellPsetInv (x : CellIn) (k : CellSt) : CellOut :=
  whenSel x k fun k => cellDone { k with p := ~~~ k.p }
def execPsetInv (m : BitVec 4) (s : State) : Out := issueW s m (.psetInv m)

/-- R102. -/
def cellPsetLoad (a : BitVec 5) (x : CellIn) (k : CellSt) : CellOut :=
  whenSel x k fun k => cellDone { k with p := lowWord (readOperand x k a) }
def execPsetLoad (m : BitVec 4) (a : BitVec 5) (s : State) : Out := issueW s m (.psetLoad m a)

/-- R102. -/
def cellPsetSave (b : BitVec 5) (x : CellIn) (k : CellSt) : CellOut :=
  whenSel x k fun k => cellDone (writeData k b (putElem 32 (readDst k b).data 0 k.p.toNat))
def execPsetSave (m : BitVec 4) (b : BitVec 5) (s : State) : Out := issueW s m (.psetSave m b)

/-- R102. -/
def cellPsetAndl (a : BitVec 5) (x : CellIn) (k : CellSt) : CellOut :=
  whenSel x k fun k => cellDone { k with p := k.p &&& lowWord (readOperand x k a) }
def execPsetAndl (m : BitVec 4) (a : BitVec 5) (s : State) : Out := issueW s m (.psetAndl m a)

/-- R102. -/
def cellPsetOrl (a : BitVec 5) (x : CellIn) (k : CellSt) : CellOut :=
  whenSel x k fun k => cellDone { k with p := k.p ||| lowWord (readOperand x k a) }
def execPsetOrl (m : BitVec 4) (a : BitVec 5) (s : State) : Out := issueW s m (.psetOrl m a)

/-- R103. -/
def cellCxfRead (d : BitVec 5) (p : BitVec 1) (x : CellIn) (k : CellSt) : CellOut :=
  whenSel x k fun k => cellDone (writeImage k d p)
def execCxfRead (m : BitVec 4) (d : BitVec 5) (p : BitVec 1) (s : State) : Out := issueW s m (.cxfRead m d p)

/-- R103. -/
def cellCxfClear (k_ : BitVec 5) (p : BitVec 1) (x : CellIn) (k : CellSt) : CellOut :=
  whenSel x k fun y => cellDone { y with xf := clearXf y.xf k_ (laneMask p y.p) }
def execCxfClear (m : BitVec 4) (k_ : BitVec 5) (p : BitVec 1) (s : State) : Out := issueW s m (.cxfClear m k_ p)

/-- R103. -/
def cellCxfReadclr (d k_ : BitVec 5) (p : BitVec 1) (x : CellIn) (k : CellSt) : CellOut :=
  whenSel x k fun y => cellDone { writeImage y d p with xf := clearXf y.xf k_ (laneMask p y.p) }
def execCxfReadclr (m : BitVec 4) (d k_ : BitVec 5) (p : BitVec 1) (s : State) : Out := issueW s m (.cxfReadclr m d k_ p)

/-- R104. -/
def cellCstatRead (d : BitVec 5) (x : CellIn) (k : CellSt) : CellOut :=
  whenSel x k fun k => cellDone (writeData k d (k.sf.setWidth 512))
def execCstatRead (m : BitVec 4) (d : BitVec 5) (s : State) : Out := issueW s m (.cstatRead m d)

/-- R104. -/
def cellCstatClear (k_ : BitVec 2) (x : CellIn) (k : CellSt) : CellOut :=
  whenSel x k fun y => cellDone { y with sf := y.sf &&& ~~~ k_.setWidth 32 }
def execCstatClear (m : BitVec 4) (k_ : BitVec 2) (s : State) : Out := issueW s m (.cstatClear m k_)

/-- R104. -/
def cellCstatReadclr (d : BitVec 5) (k_ : BitVec 2) (x : CellIn) (k : CellSt) : CellOut :=
  whenSel x k fun y => cellDone { writeData y d (y.sf.setWidth 512) with sf := y.sf &&& ~~~ k_.setWidth 32 }
def execCstatReadclr (m : BitVec 4) (d : BitVec 5) (k_ : BitVec 2) (s : State) : Out := issueW s m (.cstatReadclr m d k_)

/-- R104. -/
def cellCstatTest (k_ : BitVec 2) (x : CellIn) (k : CellSt) : CellOut :=
  whenSel x k fun y => cellDone { y with p := if y.sf &&& k_.setWidth 32 != 0 then BitVec.allOnes 32 else 0 }
def execCstatTest (m : BitVec 4) (k_ : BitVec 2) (s : State) : Out := issueW s m (.cstatTest m k_)

end Sys2Proof.Machine
end

