-- ==== Sys2Proof/Machine/Scalar.lean ====
section
/-! DEFINITION. The integer ALU, the immediates, the scalar FPU and the branches of the S slot (R106 to R115). -/

namespace Sys2Proof.Machine
open Sys2Proof

/-- Write a scalar result of the issuing core: at the end of its bundle when its latency is 1, else when its latency
has passed (R33, R40, R41).  A result for G0 is discarded; its flags still reach SXF (R108, R112). -/
def scalarResult (s : State) (d : BitVec 5) (v : Dword) (lat : Nat) (fl : Flags5) : State :=
  let c := s.me
  if lat ≤ 1 then modCtl (writeG s c d v) c fun x => { x with sxf := x.sxf ||| fl }
  else if d = 0 && fl = 0 then s
  else modSeq s c fun q => { q with pend := q.pend ++ [{ due := q.cyc + lat, reg := d.toNat, value := v, flags := fl }] }

/-- G a of the issuing core. -/
def srcG (s : State) (a : BitVec 5) : Dword := readG (coreAt s s.me) a

/-! ### ALU (R106, R107) -/

/-- DIV: truncated towards zero (R106, R107). -/
def scalarDiv (x y : Dword) : Dword := if y = 0 then BitVec.allOnes 64 else BitVec.ofInt 64 (Int.tdiv x.toInt y.toInt)
/-- REM: the dividend's sign (R106, R107). -/
def scalarRem (x y : Dword) : Dword := if y = 0 then x else BitVec.ofInt 64 (Int.tmod x.toInt y.toInt)

/-- An ALU operation on two registers. -/
def aluOp (s : State) (d a b : BitVec 5) (lat : Nat) (f : Dword → Dword → Dword) : Out :=
  .next (scalarResult s d (f (srcG s a) (srcG s b)) lat 0)

/-- R106. -/
def aluAddValue (x y : Dword) : Dword := x + y
def execAluAdd (d a b : BitVec 5) (s : State) : Out := aluOp s d a b 1 aluAddValue

/-- R106. -/
def aluSubValue (x y : Dword) : Dword := x - y
def execAluSub (d a b : BitVec 5) (s : State) : Out := aluOp s d a b 1 aluSubValue

/-- R106. -/
def aluAndValue (x y : Dword) : Dword := x &&& y
def execAluAnd (d a b : BitVec 5) (s : State) : Out := aluOp s d a b 1 aluAndValue

/-- R106. -/
def aluOrValue (x y : Dword) : Dword := x ||| y
def execAluOr (d a b : BitVec 5) (s : State) : Out := aluOp s d a b 1 aluOrValue

/-- R106. -/
def aluXorValue (x y : Dword) : Dword := x ^^^ y
def execAluXor (d a b : BitVec 5) (s : State) : Out := aluOp s d a b 1 aluXorValue

/-- R106. -/
def aluShlValue (x y : Dword) : Dword := x <<< (y.toNat % 64)
def execAluShl (d a b : BitVec 5) (s : State) : Out := aluOp s d a b 1 aluShlValue

/-- R106. -/
def aluShrValue (x y : Dword) : Dword := x >>> (y.toNat % 64)
def execAluShr (d a b : BitVec 5) (s : State) : Out := aluOp s d a b 1 aluShrValue

/-- R106. -/
def aluSarValue (x y : Dword) : Dword := x.sshiftRight (y.toNat % 64)
def execAluSar (d a b : BitVec 5) (s : State) : Out := aluOp s d a b 1 aluSarValue

/-- R106. -/
def aluMulValue (x y : Dword) : Dword := x * y
def execAluMul (d a b : BitVec 5) (s : State) : Out := aluOp s d a b 3 aluMulValue

/-- R106. -/
def aluMulhValue (x y : Dword) : Dword := BitVec.ofInt 64 (x.toInt * y.toInt / 2 ^ 64)
def execAluMulh (d a b : BitVec 5) (s : State) : Out := aluOp s d a b 3 aluMulhValue

/-- R106. -/
def aluMulhuValue (x y : Dword) : Dword := BitVec.ofNat 64 (x.toNat * y.toNat / 2 ^ 64)
def execAluMulhu (d a b : BitVec 5) (s : State) : Out := aluOp s d a b 3 aluMulhuValue

/-- R106, R107. -/
def aluDivValue (x y : Dword) : Dword := scalarDiv x y
def execAluDiv (d a b : BitVec 5) (s : State) : Out := aluOp s d a b 18 aluDivValue

/-- R106, R107. -/
def aluDivuValue (x y : Dword) : Dword := if y = 0 then BitVec.allOnes 64 else x / y
def execAluDivu (d a b : BitVec 5) (s : State) : Out := aluOp s d a b 18 aluDivuValue

/-- R106, R107. -/
def aluRemValue (x y : Dword) : Dword := scalarRem x y
def execAluRem (d a b : BitVec 5) (s : State) : Out := aluOp s d a b 18 aluRemValue

/-- R106, R107. -/
def aluRemuValue (x y : Dword) : Dword := if y = 0 then x else x % y
def execAluRemu (d a b : BitVec 5) (s : State) : Out := aluOp s d a b 18 aluRemuValue

/-- R106. -/
def aluMinValue (x y : Dword) : Dword := if y.toInt < x.toInt then y else x
def execAluMin (d a b : BitVec 5) (s : State) : Out := aluOp s d a b 1 aluMinValue

/-- R106. -/
def aluMaxValue (x y : Dword) : Dword := if x.toInt < y.toInt then y else x
def execAluMax (d a b : BitVec 5) (s : State) : Out := aluOp s d a b 1 aluMaxValue

/-- R106. -/
def aluMinuValue (x y : Dword) : Dword := if y.toNat < x.toNat then y else x
def execAluMinu (d a b : BitVec 5) (s : State) : Out := aluOp s d a b 1 aluMinuValue

/-- R106. -/
def aluMaxuValue (x y : Dword) : Dword := if x.toNat < y.toNat then y else x
def execAluMaxu (d a b : BitVec 5) (s : State) : Out := aluOp s d a b 1 aluMaxuValue

/-- R106. -/
def aluSltValue (x y : Dword) : Dword := if x.toInt < y.toInt then 1 else 0
def execAluSlt (d a b : BitVec 5) (s : State) : Out := aluOp s d a b 1 aluSltValue

/-- R106. -/
def aluSltuValue (x y : Dword) : Dword := if x.toNat < y.toNat then 1 else 0
def execAluSltu (d a b : BitVec 5) (s : State) : Out := aluOp s d a b 1 aluSltuValue

/-- R106. -/
def aluSeqValue (x y : Dword) : Dword := if x = y then 1 else 0
def execAluSeq (d a b : BitVec 5) (s : State) : Out := aluOp s d a b 1 aluSeqValue

/-- Leading zero bits among the low `n` bits. -/
def leadingZeros (x : Nat) : Nat → Nat
  | 0 => 0
  | n + 1 => if x.testBit n then 0 else 1 + leadingZeros x n
/-- One bits among the low `n` bits. -/
def onesCount (x : Nat) : Nat → Nat
  | 0 => 0
  | n + 1 => (if x.testBit n then 1 else 0) + onesCount x n

/-- R106: 64 when x = 0. -/
def execAluClz (d a : BitVec 5) (s : State) : Out :=
  .next (scalarResult s d (BitVec.ofNat 64 (leadingZeros (srcG s a).toNat 64)) 1 0)
/-- R106. -/
def execAluPopc (d a : BitVec 5) (s : State) : Out :=
  .next (scalarResult s d (BitVec.ofNat 64 (onesCount (srcG s a).toNat 64)) 1 0)

/-! ### Immediates (R109, R110) -/

/-- IMX's payload above imm16, 40 bits (R110). -/
def wideImm (i : BitVec 16) : Option (BitVec 24) → Nat × Nat
  | none => (16, i.toNat)
  | some h => (40, h.toNat * 2 ^ 16 + i.toNat)
/-- The immediate of a bundle, sign-extended. -/
def immSigned (s : State) (i : BitVec 16) : Dword :=
  let (w, v) := wideImm i (coreAt s s.me).seq.imx
  BitVec.ofInt 64 (sext w v)
/-- The immediate of a bundle, zero-extended. -/
def immUnsigned (s : State) (i : BitVec 16) : Dword := BitVec.ofNat 64 (wideImm i (coreAt s s.me).seq.imx).2

def execAddi (d a : BitVec 5) (i : BitVec 16) (s : State) : Out := .next (scalarResult s d (srcG s a + immSigned s i) 1 0)
def execAndi (d a : BitVec 5) (i : BitVec 16) (s : State) : Out := .next (scalarResult s d (srcG s a &&& immUnsigned s i) 1 0)
def execOri (d a : BitVec 5) (i : BitVec 16) (s : State) : Out := .next (scalarResult s d (srcG s a ||| immUnsigned s i) 1 0)
def execXori (d a : BitVec 5) (i : BitVec 16) (s : State) : Out := .next (scalarResult s d (srcG s a ^^^ immUnsigned s i) 1 0)
/-- R9: kind 0 SHL, 1 SHR, 2 SAR. -/
def execShi (d a : BitVec 5) (k : BitVec 2) (n : BitVec 6) (s : State) : Out :=
  let x := srcG s a
  .next (scalarResult s d (if k = 0 then x <<< n.toNat else if k = 1 then x >>> n.toNat else x.sshiftRight n.toNat) 1 0)
def execLui (d : BitVec 5) (i : BitVec 16) (s : State) : Out := .next (scalarResult s d (BitVec.ofNat 64 (i.toNat * 2 ^ 16)) 1 0)
def execSlti (d a : BitVec 5) (i : BitVec 16) (s : State) : Out :=
  .next (scalarResult s d (if (srcG s a).toInt < (immSigned s i).toInt then 1 else 0) 1 0)
def execSltiu (d a : BitVec 5) (i : BitVec 16) (s : State) : Out :=
  .next (scalarResult s d (if (srcG s a).toNat < (immUnsigned s i).toNat then 1 else 0) 1 0)
/-- R109: it reads G d. -/
def execLis (d : BitVec 5) (i : BitVec 16) (s : State) : Out :=
  .next (scalarResult s d ((srcG s d <<< 16) ||| BitVec.ofNat 64 i.toNat) 1 0)

/-! ### The scalar FPU (R111, R112) -/

def fpuFmt (w : BitVec 1) : Fmt := if w = 0 then fp32 else fp64
/-- A .S operand is bits [31:0], a .D operand the whole register. -/
def fpuSrc (s : State) (w : BitVec 1) (a : BitVec 5) : Nat := if w = 0 then (srcG s a).toNat % 2 ^ 32 else (srcG s a).toNat
def frmMode (s : State) : RMode := RMode.ofBits (coreAt s s.me).ctl.frm
def fpuWrite (s : State) (d : BitVec 5) (lat : Nat) (r : Nat × Flags5) : Out :=
  .next (scalarResult s d (BitVec.ofNat 64 r.1) lat r.2)

def execFpuFadd (d a b : BitVec 5) (w : BitVec 1) (s : State) : Out :=
  fpuWrite s d 4 (fAdd (fpuFmt w) (frmMode s) (fpuSrc s w a) (fpuSrc s w b))
def execFpuFsub (d a b : BitVec 5) (w : BitVec 1) (s : State) : Out :=
  fpuWrite s d 4 (fSub (fpuFmt w) (frmMode s) (fpuSrc s w a) (fpuSrc s w b))
def execFpuFmul (d a b : BitVec 5) (w : BitVec 1) (s : State) : Out :=
  fpuWrite s d 4 (fMul (fpuFmt w) (frmMode s) (fpuSrc s w a) (fpuSrc s w b))
/-- R40: 12 cycles in .S, 22 in .D. -/
def fpuSlow (w : BitVec 1) : Nat := if w = 0 then 12 else 22
def execFpuFdiv (d a b : BitVec 5) (w : BitVec 1) (s : State) : Out :=
  fpuWrite s d (fpuSlow w) (fDiv (fpuFmt w) (frmMode s) (fpuSrc s w a) (fpuSrc s w b))
def execFpuFsqrt (d a : BitVec 5) (w : BitVec 1) (s : State) : Out :=
  fpuWrite s d (fpuSlow w) (fSqrt (fpuFmt w) (frmMode s) (fpuSrc s w a))
def execFpuFmin (d a b : BitVec 5) (w : BitVec 1) (s : State) : Out :=
  fpuWrite s d 4 (fMin (fpuFmt w) (fpuSrc s w a) (fpuSrc s w b))
def execFpuFmax (d a b : BitVec 5) (w : BitVec 1) (s : State) : Out :=
  fpuWrite s d 4 (fMax (fpuFmt w) (fpuSrc s w a) (fpuSrc s w b))
/-- A comparison writes 1 or 0 in all 64 bits: 0 FEQ, 1 FLT, 2 FLE. -/
def fpuCompare (s : State) (d a b : BitVec 5) (w : BitVec 1) (cond : Nat) : Out :=
  let (t, fl) := fCompare (fpuFmt w) cond (fpuSrc s w a) (fpuSrc s w b)
  fpuWrite s d 4 (if t then 1 else 0, fl)
def execFpuFeq (d a b : BitVec 5) (w : BitVec 1) (s : State) : Out := fpuCompare s d a b w 0
def execFpuFlt (d a b : BitVec 5) (w : BitVec 1) (s : State) : Out := fpuCompare s d a b w 1
def execFpuFle (d a b : BitVec 5) (w : BitVec 1) (s : State) : Out := fpuCompare s d a b w 2
/-- It reads G d. -/
def execFpuFfma (d a b : BitVec 5) (w : BitVec 1) (s : State) : Out :=
  fpuWrite s d 4 (fFma (fpuFmt w) (frmMode s) false (fpuSrc s w a) (fpuSrc s w b) (fpuSrc s w d))
def execFpuCvtS2d (d a : BitVec 5) (s : State) : Out := fpuWrite s d 4 (convFF fp32 fp64 (frmMode s) (fpuSrc s 0 a))
def execFpuCvtD2s (d a : BitVec 5) (s : State) : Out := fpuWrite s d 4 (convFF fp64 fp32 (frmMode s) (fpuSrc s 1 a))
def execFpuCvtS2i (d a : BitVec 5) (s : State) : Out := fpuWrite s d 4 (convFI fp32 64 (frmMode s) (fpuSrc s 0 a))
def execFpuCvtI2s (d a : BitVec 5) (s : State) : Out := fpuWrite s d 4 (convert (.int 64) (.flt fp32) (frmMode s) (fpuSrc s 1 a))
def execFpuCvtD2i (d a : BitVec 5) (s : State) : Out := fpuWrite s d 4 (convFI fp64 64 (frmMode s) (fpuSrc s 1 a))
def execFpuCvtI2d (d a : BitVec 5) (s : State) : Out := fpuWrite s d 4 (convert (.int 64) (.flt fp64) (frmMode s) (fpuSrc s 1 a))

/-! ### Branches (R113 to R115) -/

/-- The bundle index of the issuing bundle, displaced. -/
def branchTarget (s : State) (w off : Nat) : Int := ((coreAt s s.me).seq.pc : Int) + sext w off

/-- Take a branch to an index, or trap where no bundle stands (R114). -/
def branchTo (s : State) (i : Instr) (t : Int) (link : Bool) : Out :=
  let c := s.me
  let k := coreAt s c
  if t < 0 || !inImem k t.toNat then .next (illegalOperand s i)
  else
    let s := if link then writeG s c 31 (BitVec.ofNat 64 (k.seq.pc + 1)) else s
    .next (modSeq s c fun q => { q with npc := t.toNat })

def execBr (o : BitVec 26) (s : State) : Out := branchTo s (.br o) (branchTarget s 26 o.toNat) false
def execBl (o : BitVec 26) (s : State) : Out := branchTo s (.bl o) (branchTarget s 26 o.toNat) true
def execJr (a : BitVec 5) (s : State) : Out := branchTo s (.jr a) (srcG s a).toNat false
/-- With a = 31 it jumps to the old G31 (R113). -/
def execJlr (a : BitVec 5) (s : State) : Out := branchTo s (.jlr a) (srcG s a).toNat true

/-- R48, R113. -/
def bcTaken (cond : BitVec 4) (x y : Dword) : Bool :=
  match cond.toNat with
  | 0 => x == y
  | 1 => x != y
  | 2 => decide (x.toInt < y.toInt)
  | 3 => decide (y.toInt ≤ x.toInt)
  | 4 => decide (x.toNat < y.toNat)
  | _ => decide (y.toNat ≤ x.toNat)
def execBc (c : BitVec 4) (a b : BitVec 5) (o : BitVec 12) (s : State) : Out :=
  if bcTaken c (srcG s a) (srcG s b) then branchTo s (.bc c a b o) (branchTarget s 12 o.toNat) false else .next s

/-- A word of the edge-flag group, as the last valid CFLAG left it (R9, R24, R25). -/
def groupWord (g : FlagGroup) (sel : Nat) : Word :=
  match sel with
  | 0 => g.rowAny
  | 1 => g.rowAll
  | 2 => g.colAny
  | 3 => g.colAll
  | _ => g.summary.setWidth 32
def readGroup (s : State) (sel : Nat) : Word := groupWord (coreAt s s.me).arr.group sel

/-- R115. -/
def befTaken (cond : BitVec 4) (g m : Word) : Bool :=
  match cond.toNat with
  | 0 => (g &&& m) != 0
  | 1 => (g &&& m) == m
  | 2 => (g &&& m) == 0
  | _ => (g &&& m) != m
def execBef (c : BitVec 4) (a g : BitVec 5) (o : BitVec 12) (s : State) : Out :=
  if befTaken c (readGroup s g.toNat) ((srcG s a).setWidth 32) then branchTo s (.bef c a g o) (branchTarget s 12 o.toNat) false
  else .next s

end Sys2Proof.Machine
end

