-- ==== Sys2Proof/Machine/MemInstr.lean ====
section
/-! DEFINITION. Loads, stores and the copy aperture, fences, cache operations, atomics and SPCLR (R116, R182, R212,
R236, R276 to R288, R351). -/

namespace Sys2Proof.Machine
open Sys2Proof

/-- Size(sz) in bytes (R43). -/
def sizeOf (z : BitVec 2) : Nat := 2 ^ z.toNat

/-- G a + SignExtend(off11)·n (R116). -/
def effAddr (s : State) (a : BitVec 5) (o : BitVec 11) (n : Nat) : Nat :=
  (srcG s a + BitVec.ofInt 64 (sext 11 o.toNat * n)).toNat

/-- The copy aperture (R182). -/
def apertureBase : Nat := 0xFFFFFFFFFFFFF000
def inAperture (va : Nat) : Bool := decide (apertureBase ≤ va) && decide (va < apertureBase + 512)

/-- A checked access: the trap it takes, or its translation. -/
inductive Access where
  | trap (s : State)
  | ok (s : State) (x : Xl)

/-- The checks of R116 and R282 in their order, ending with the translation: instruction, address, size, write, ACC. -/
def checkAccess (s : State) (i : Instr) (va n : Nat) (write : Bool) (acc : Nat) : Access :=
  if !canonical va then .trap (memoryTrap s .nonCanon va acc)
  else if inAperture va then .trap (illegalOperand s i)
  else if va % n ≠ 0 then .trap (alignmentTrap s va acc)
  else
    match seqTranslate s s.me va write with
    | (s, .error e) => .trap (memoryTrap s e va acc)
    | (s, .ok x) => .ok s x

/-- LD and LDU (R116): the access issues; its result comes with its return. -/
def loadInstr (s : State) (i : Instr) (d a : BitVec 5) (c : BitVec 3) (z : BitVec 2) (o : BitVec 11) (signed : Bool) : Out :=
  match checkAccess s i (effAddr s a o (sizeOf z)) (sizeOf z) false 0 with
  | .trap s => .next s
  | .ok s x => .next (issueLoad s s.me x (sizeOf z) c.toNat signed d.toNat)

def execLd (d a : BitVec 5) (c : BitVec 3) (z : BitVec 2) (o : BitVec 11) (s : State) : Out :=
  loadInstr s (.ld d a c z o) d a c z o true
def execLdu (d a : BitVec 5) (c : BitVec 3) (z : BitVec 2) (o : BitVec 11) (s : State) : Out :=
  loadInstr s (.ldu d a c z o) d a c z o false

/-! ### The copy aperture (R182) -/

def chanAt (k : Core) (ch : Nat) : Chan := Tab.get .reset k.mem.chans ch
def setChan (s : State) (c ch : Nat) (x : Chan) : State :=
  modMem s c fun m => { m with chans := Tab.set .reset m.chans ch x }
/-- Requests that a channel holds: queued, or running. -/
def chanLoad (x : Chan) : Nat := x.queue.length + (if x.job.isSome then 1 else 0)

/-- A request word that starts something: template in range, reserved bits 0, DISP a multiple of 64. -/
def requestOk (templates : Nat) (w : Dword) : Bool :=
  decide ((w.extractLsb' 0 12).toNat < templates) && w.extractLsb' 24 8 == 0 && w.extractLsb' 32 6 == 0

/-- Store a request into channel `ch`. -/
def copyRequest (s : State) (ch : Nat) (w : Dword) (after : Option Nat) : State :=
  let c := s.me
  let k := coreAt s c
  let region := match teamOf s c with | some t => t.region | none => 0
  let r : CopyReq := { word := w, team := teamNumber s c, bundle := k.seq.pc, asid := k.ctl.asid.toNat, rcptr := k.ctl.rcptr.toNat, region := region, after := after }
  let s := chargeRegions s region fun b => { b with copyused := b.copyused + 1 }
  setChan s c ch { chanAt k ch with queue := (chanAt k ch).queue ++ [r] }

/-- ST (R116): a release at its scope when sc is not 0; a doubleword in the aperture is a copy request (R182). -/
def execSt (src a : BitVec 5) (c : BitVec 3) (z : BitVec 2) (o : BitVec 11) (s : State) : Out :=
  let i := Instr.st src a c z o
  let n := sizeOf z
  let va := effAddr s a o n
  if inAperture va && n = 8 && va % 8 = 0 then
    let templates := match teamOf s s.me with | some t => t.img.templateN | none => 0
    if requestOk templates (srcG s src) then
      let w := srcG s src
      let s := afterAcquires s s.me
      let n := (coreAt s s.me).mem.nextSeq
      .next (if c = 0 then copyRequest s ((va - apertureBase) / 8) w none
        else copyRequest (issueRelease s s.me c.toNat none) ((va - apertureBase) / 8) w (some n))
    else .next (illegalOperand s i)
  else
    match checkAccess s i va n true 1 with
    | .trap s => .next s
    | .ok s x =>
      if inDoorbell x.pa && n ≠ 8 then .next (illegalOperand s i)
      else .next (storeBytes s s.me x (natBytes n (srcG s src).toNat) c.toNat)

/-- FENCE (R276, R277): a release, then an acquire without a read, behind the acquires of earlier bundles (R260). -/
def execFence (c : BitVec 3) (s : State) : Out :=
  .next (if fenceWaits s s.me then modCore s s.me fun k => { k with fences := k.fences ++ [(c.toNat, k.ctl.inh)] }
    else fenceActs s s.me c.toNat)

/-! ### CACHE (R236, R278, R279) -/

/-- The line operated on: G a + 128·SignExtend(off11), bits [6:0] cleared. -/
def cacheLine (s : State) (a : BitVec 5) (o : BitVec 11) : Nat := effAddr s a o 128 / 128 * 128

/-- Operation 0 WB, 1 INV, 2 WBINV, 3 EVICT. -/
def cacheInstr (s : State) (i : Instr) (op : Nat) (a : BitVec 5) (c : BitVec 3) (o : BitVec 11) : Out :=
  match checkAccess s i (cacheLine s a o) 1 (op = 1 || op = 2) 5 with
  | .trap s => .next s
  | .ok s x =>
    if inDoorbell x.pa then .next (illegalOperand s i)
    else if x.home ≠ 0 then .next (cacheSingle s s.me op (x.pa / 128))
    else .next (cacheOp s s.me op c.toNat (x.pa / 128))

def execCacheWb (a : BitVec 5) (c : BitVec 3) (o : BitVec 11) (s : State) : Out := cacheInstr s (.cacheWb a c o) 0 a c o
def execCacheInv (a : BitVec 5) (c : BitVec 3) (o : BitVec 11) (s : State) : Out := cacheInstr s (.cacheInv a c o) 1 a c o
def execCacheWbinv (a : BitVec 5) (c : BitVec 3) (o : BitVec 11) (s : State) : Out := cacheInstr s (.cacheWbinv a c o) 2 a c o
def execCacheEvict (a : BitVec 5) (c : BitVec 3) (o : BitVec 11) (s : State) : Out := cacheInstr s (.cacheEvict a c o) 3 a c o

/-! ### AMO (R281 to R288) -/

/-- The checks of R282; then the atomic commits and is performed exactly once. -/
def amoInstr (s : State) (i : Instr) (fn : Nat) (d a b : BitVec 5) (c : BitVec 3) (n : Nat) (ret sr : Bool) : Out :=
  let va := (srcG s a).toNat
  match checkAccess s i va n true 5 with
  | .trap s => .next s
  | .ok s x =>
    if inHost x.pa || inDoorbell x.pa then .next (illegalOperand s i)
    else
      let w := 2 ^ (8 * n)
      .next (issueAmo s s.me x fn n ((srcG s b).toNat % w) ((srcG s d).toNat % w) c.toNat ret sr d.toNat)

def execAmoAdd (d a b : BitVec 5) (c : BitVec 3) (z : BitVec 2) (r : BitVec 1) (s : State) : Out :=
  amoInstr s (.amoAdd d a b c z r) 0 d a b c (sizeOf z) (r = 1) false
def execAmoAnd (d a b : BitVec 5) (c : BitVec 3) (z : BitVec 2) (r : BitVec 1) (s : State) : Out :=
  amoInstr s (.amoAnd d a b c z r) 1 d a b c (sizeOf z) (r = 1) false
def execAmoOr (d a b : BitVec 5) (c : BitVec 3) (z : BitVec 2) (r : BitVec 1) (s : State) : Out :=
  amoInstr s (.amoOr d a b c z r) 2 d a b c (sizeOf z) (r = 1) false
def execAmoXor (d a b : BitVec 5) (c : BitVec 3) (z : BitVec 2) (r : BitVec 1) (s : State) : Out :=
  amoInstr s (.amoXor d a b c z r) 3 d a b c (sizeOf z) (r = 1) false
def execAmoMin (d a b : BitVec 5) (c : BitVec 3) (z : BitVec 2) (r : BitVec 1) (s : State) : Out :=
  amoInstr s (.amoMin d a b c z r) 4 d a b c (sizeOf z) (r = 1) false
def execAmoMax (d a b : BitVec 5) (c : BitVec 3) (z : BitVec 2) (r : BitVec 1) (s : State) : Out :=
  amoInstr s (.amoMax d a b c z r) 5 d a b c (sizeOf z) (r = 1) false
def execAmoMinu (d a b : BitVec 5) (c : BitVec 3) (z : BitVec 2) (r : BitVec 1) (s : State) : Out :=
  amoInstr s (.amoMinu d a b c z r) 6 d a b c (sizeOf z) (r = 1) false
def execAmoMaxu (d a b : BitVec 5) (c : BitVec 3) (z : BitVec 2) (r : BitVec 1) (s : State) : Out :=
  amoInstr s (.amoMaxu d a b c z r) 7 d a b c (sizeOf z) (r = 1) false
def execAmoSwap (d a b : BitVec 5) (c : BitVec 3) (z : BitVec 2) (r : BitVec 1) (s : State) : Out :=
  amoInstr s (.amoSwap d a b c z r) 8 d a b c (sizeOf z) (r = 1) false
def execAmoIncw (d a b : BitVec 5) (c : BitVec 3) (z : BitVec 2) (r : BitVec 1) (s : State) : Out :=
  amoInstr s (.amoIncw d a b c z r) 10 d a b c (sizeOf z) (r = 1) false
def execAmoCas (d a b : BitVec 5) (c : BitVec 3) (z : BitVec 2) (s : State) : Out :=
  amoInstr s (.amoCas d a b c z) 9 d a b c (sizeOf z) true false
def execAmoFaddb (d a b : BitVec 5) (c : BitVec 3) (z : BitVec 2) (s : State) : Out :=
  amoInstr s (.amoFaddb d a b c z) 11 d a b c (sizeOf z) true false
def execAmoFaddF32 (d a b : BitVec 5) (c : BitVec 3) (r : BitVec 1) (s : State) : Out :=
  amoInstr s (.amoFaddF32 d a b c r) 12 d a b c 4 (r = 1) false
def execAmoFaddBf16 (d a b : BitVec 5) (c : BitVec 3) (r sr : BitVec 1) (s : State) : Out :=
  amoInstr s (.amoFaddBf16 d a b c r sr) 13 d a b c 2 (r = 1) (sr = 1)

/-! ### SPCLR (R212) -/

/-- Translate every page of a range, 4 KiB at a time: the lines' physical numbers, or the trap. -/
def clearPages (s : State) (i : Instr) (va last : Nat) : Nat → State × Except State (List Nat)
  | 0 => (s, .ok [])
  | n + 1 =>
    if last < va then (s, .ok [])
    else if inAperture (va % 2 ^ 64) then (s, .error (illegalOperand s i))
    else
      match seqTranslate s s.me (va % 2 ^ 64) true with
      | (s, .error e) => (s, .error (memoryTrap s e (va % 2 ^ 64) 4))
      | (s, .ok x) =>
        if x.home ≠ 1 then (s, .error (illegalOperand s i))
        else
          let next := va / 4096 * 4096 + 4096
          let lines := (min next (last + 1) - va + 127) / 128
          match clearPages s i next last n with
          | (s, .error t) => (s, .error t)
          | (s, .ok l) => (s, .ok ((List.range lines).map (x.pa / 128 + ·) ++ l))

/-- The steps that a core's loaders have fetched ahead are fetched again: each bound to a later W instruction sees the clear. -/
def dropFetched (e : EdgeSt) : EdgeSt :=
  { e with loaders := (e.loaders.map fun p => (p.1, { p.2 with fetched := [] })).filter (fun p => p.2 != Loader.reset) }
def dropSteps (s : State) (c : Nat) : State := (positions (coreAt s c) c).foldl (fun t p => modEdge t p dropFetched) s

/-- R212: an access of a later bundle than an acquire that is not complete comes after it (R260). -/
def execSpclr (a b : BitVec 5) (s : State) : Out :=
  let x := (srcG s a).toNat
  let n := (srcG s b).toNat
  let i := Instr.spclr a b
  if n = 0 then .next s
  else if x % 128 ≠ 0 || 65536 < n then .next (illegalOperand s i)
  else
    match clearPages s i x (x + 128 * n - 1) (n / 32 + 2) with
    | (_, .error t) => .next t
    | (s, .ok l) => .next (dropSteps (l.foldl (fun s line => setFull s line false) (afterAcquires s s.me)) s.me)

end Sys2Proof.Machine
end

