-- ==== Sys2Proof/Machine/Control.lean ====
section
/-! DEFINITION. Control registers, schedule registers, selectors, edge flags, the window, software traps and returns,
and the task instructions (R9, R17, R21 to R25, R27, R118 to R126, R289 to R292, R311 to R320). -/

namespace Sys2Proof.Machine
open Sys2Proof

/-! ### Control registers (R118 to R120) -/

def originCode : Origin → Nat
  | .nw => 0
  | .ne => 1
  | .sw => 2
  | .se => 3
def originOf (o : BitVec 2) : Origin := if o = 0 then .nw else if o = 1 then .ne else if o = 2 then .sw else .se

/-- AWINV. -/
def windowWord (w : Window) : Dword :=
  BitVec.ofNat 64 ((w.h - 1) + (w.w - 1) * 2 ^ 5 + originCode w.origin * 2 ^ 10 + w.row0 * 2 ^ 32 + w.col0 * 2 ^ 40)

/-- What CTLRD reads; RES bits read 0. -/
def ctlRead (s : State) (k : Core) (n : Nat) : Dword :=
  let x := k.ctl
  match n with
  | 0x000 => BitVec.ofNat 64 (timebase s)
  | 0x001 => x.frm.setWidth 64
  | 0x002 => if x.chk then 1 else 0
  | 0x003 => x.trapen.setWidth 64
  | 0x004 => x.sxf.setWidth 64
  | 0x008 => x.repcnt.setWidth 64
  | 0x010 => x.cause.setWidth 64
  | 0x011 => x.trappc.setWidth 64
  | 0x012 => x.info
  | 0x013 => x.wavetag.setWidth 64
  | 0x014 => x.tvec.setWidth 64
  | 0x015 => if x.inh then 1 else 0
  | 0x020 => windowWord k.arr.win
  | 0x021 => x.asid.setWidth 64
  | 0x022 => x.rcptr
  | n => if n < 0x040 then (Tab.get 0 x.skew (n - 0x030)).setWidth 64 else Tab.get 0 x.cpwp (n - 0x040)

/-- What CTLWR changes, by each field's access code (R7): SXF is W1C. -/
def ctlWrite (x : Ctl) (n : Nat) (v : Dword) : Ctl :=
  match n with
  | 0x001 => { x with frm := v.setWidth 2 }
  | 0x002 => { x with chk := v.getLsbD 0 }
  | 0x003 => { x with trapen := v.setWidth 7 }
  | 0x004 => { x with sxf := x.sxf &&& ~~~ v.setWidth 5 }
  | 0x008 => { x with repcnt := v.setWidth 7 }
  | 0x011 => { x with trappc := v.setWidth 15 }
  | 0x014 => { x with tvec := v.setWidth 14 }
  | _ => x

/-- R117, R118.  The read of TIME is an unchecked result (R40) for which the spec gives no latency: it is written with its bundle,
and no reader holds for it (DESIGN CHOICE, log entry 72). -/
def execCtlrd (d : BitVec 5) (n : BitVec 12) (s : State) : Out :=
  .next (scalarResult s d (ctlRead s (coreAt s s.me) n.toNat) 1 0)
def execCtlwr (a : BitVec 5) (n : BitVec 12) (s : State) : Out :=
  .next (modCtl s s.me fun x => ctlWrite x n.toNat (srcG s a))

/-! ### Selectors, edge flags, the window -/

/-- R122: the masks are bits [31:0] of the sources. -/
def execMsel (d a b : BitVec 5) (s : State) : Out :=
  .next (modSeq s s.me fun q => { q with m := Tab.set .zero q.m d.toNat ⟨(srcG s a).setWidth 32, (srcG s b).setWidth 32⟩ })

/-- R123. -/
def execEfrd (d : BitVec 5) (g : BitVec 16) (s : State) : Out :=
  .next (scalarResult s d ((readGroup s g.toNat).setWidth 64) 1 0)

/-- The window that AWIN's operands name (R9). -/
def awinWindow (g : Dword) (o : BitVec 2) (w h : BitVec 5) : Window :=
  { row0 := bitsOf g.toNat 0 5, col0 := bitsOf g.toNat 8 5, h := h.toNat + 1, w := w.toNat + 1, origin := originOf o }
/-- The conditions of R17, and in a chain the origin of R27. -/
def awinOk (k : Core) (g : Dword) (x : Window) : Bool :=
  g &&& ~~~ (0x1F1F : Dword) == 0 && decide (x.row0 + x.h ≤ 32) && decide (x.col0 + x.w ≤ 32) &&
    (k.chain.isEmpty || (if k.chainEW then x.origin == .nw || x.origin == .sw else x.origin == .nw || x.origin == .ne))
/-- R17, R23, R124: it holds until the array is empty; then it sets every position's window. -/
def execAwin (a : BitVec 5) (o : BitVec 2) (w h : BitVec 5) (s : State) : Out :=
  let c := s.me
  let k := coreAt s c
  let x := awinWindow (srcG s a) o w h
  if !arrayEmpty s c then .next s
  else if !awinOk k (srcG s a) x then .next (illegalOperand s (.awin a o w h))
  else .next ((positions k c).foldl (fun s p => modArr s p fun r => { r with win := x }) s)

/-! ### Software traps and return (R125, R126) -/

/-- R125: the bundle commits; the trap is taken at the boundary before bundle index + 1, when the bundle's stall is over (R223;
DEDUCED, log entry 11). -/
def execTrap (code : BitVec 16) (s : State) : Out :=
  .next (modCore s s.me fun k => { k with soft := some code, seq := { k.seq with npc := k.seq.pc + 1, repK := 0 } })

/-- R126. -/
def execRett (s : State) : Out :=
  if (coreAt s s.me).ctl.inh then .next (returnFromTrap s s.me fun s => illegalOperand s .rett)
  else .next (illegalOperand s .rett)

/-! ### Tasks (R311 to R320) -/

/-- R320; with TSTATE.INH = 1 the frozen state is discarded and the task retires as faulted (R224). -/
def execRetire (s : State) : Out :=
  if (coreAt s s.me).ctl.inh then .next (faultTask s s.me 0) else .next (retireTask s s.me)

/-- Registers whose unchecked result is not present (R40). -/
def markUnchk (s : State) (c : Nat) (rs : List Nat) : State := modSeq s c fun q => { q with unchk := q.unchk ++ rs }

/-- The team's image has a SCHED section (R290, R321). -/
def hasSched (s : State) : Bool := match teamOf s s.me with | some t => t.img.sched.isSome | none => false

/-- R290, R313: it is served by the generator. -/
def execSchrd (d n : BitVec 5) (s : State) : Out :=
  if !hasSched s then .next (illegalOperand s (.schrd d n))
  else .next (coreReq (markUnchk s s.me [d.toNat]) s.me 1 d.toNat n.toNat 0)
def execSchwr (a n : BitVec 5) (s : State) : Out :=
  if !hasSched s then .next (illegalOperand s (.schwr a n)) else .next (coreReq s s.me 0 0 n.toNat (srcG s a))
/-- R290, R314. -/
def execSchcommit (d : BitVec 5) (s : State) : Out :=
  if !hasSched s then .next (illegalOperand s (.schcommit d))
  else .next (coreReq (markUnchk s s.me [d.toNat]) s.me 3 d.toNat 0 0)
/-- R291, R315: d is the even register 2·(field). -/
def execTilenext (d : BitVec 4) (s : State) : Out :=
  if !hasSched s then .next (illegalOperand s (.tilenext d))
  else .next (coreReq (markUnchk s s.me [2 * d.toNat, 2 * d.toNat + 1]) s.me 4 (2 * d.toNat) 0 0)

/-- A TILENEXT of the core has reached the generator and is not answered: the core has no current tile any more (R291; DEDUCED, log
entry 75). -/
def asksTile (g : Gen) (l : Nat) : Bool := waitsTile g l || g.reqs.any fun r => r.kind == 4 && r.lcore == l
/-- R292: the mask against the core's record of its current tile. -/
def cvmarkOk (s : State) (m : Dword) : Bool :=
  let k := coreAt s s.me
  match k.task, (teamOf s s.me).bind (·.gen) with
  | some t, some g =>
    m == 0 || (m.extractLsb' 48 16 == 0 && !asksTile g t.lcore &&
      match Tab.look g.current t.lcore with
      | none => false
      | some x => m.setWidth 48 &&& ~~~ (x.mask &&& ~~~ (Tab.get 0 g.named t.lcore)) == 0)
  | _, _ => m == 0
/-- The quanta of its current tile that a core's mask names. -/
def namedQuanta (s : State) (m : Dword) : List Nat :=
  let k := coreAt s s.me
  match k.task, (teamOf s s.me).bind (·.gen) with
  | some t, some g => match Tab.look g.current t.lcore with | some x => (x.quanta.filter fun p => m.getLsbD p.1).map (·.2) | none => []
  | _, _ => []
/-- A core's marks go to the generator. -/
def sendMarks (s : State) (m : Dword) : State :=
  match (coreAt s s.me).task with
  | none => s
  | some k => sendReq s k.team { kind := 2, lcore := k.lcore, core := s.me, d := 0, num := 0, value := m, quanta := namedQuanta s m, at_ := s.beat }
/-- R292, R316: a release at DEVICE scope, then the marks. -/
def execCvmark (a : BitVec 5) (s : State) : Out :=
  let m := srcG s a
  if !hasSched s || !cvmarkOk s m then .next (illegalOperand s (.cvmark a))
  else if m = 0 then .next s
  else
    let s := release s s.me 4
    let l := lcoreOf s s.me
    let s := modGen s (teamNumber s s.me) fun g => { g with named := Tab.set 0 g.named l (Tab.get 0 g.named l ||| m.setWidth 48) }
    .next (sendMarks s m)

/-- A sequencer load of whole bytes, made at issue (R117). -/
def readNow (s : State) (c : Nat) (x : Xl) (n : Nat) : State × List Byte :=
  let s := beforeAccess s c (x.pa / 128)
  loadBytes s c x n 0 (coreAt s c).mem.nextSeq

/-- R317: after its checks and its release the push goes to the scheduler, which gives its result. -/
def sendPush (s : State) (d : BitVec 5) (r : BitVec 512) : State :=
  let c := s.me
  let s := markUnchk (release s c 4) c [d.toNat]
  match (coreAt s c).task with
  | none => s
  | some k => modTeam s k.team fun x => { x with pushes := insertPush { at_ := s.beat, lcore := k.lcore, d := d.toNat, record := r } x.pushes }
def execSpawn (d a : BitVec 5) (s : State) : Out :=
  let i := Instr.spawn d a
  match checkAccess s i (srcG s a).toNat 64 false 0 with
  | .trap s => .next s
  | .ok s x =>
    let (s, bs) := readNow s s.me x 64
    let r : BitVec 512 := BitVec.ofNat 512 (bytesNat bs)
    if !recordOk r || recRetried r then .next (illegalOperand s i)
    else if recJoin r = 0 then .next (sendPush s d r)
    else
      match checkAccess s i (recJoin r) 32 true 5 with
      | .trap s => .next s
      | .ok s _ => .next (sendPush s d r)

/-- R318: the wait starts; it is completed when a reading finds COUNT 0. -/
def execJoinw (d : BitVec 4) (a : BitVec 5) (s : State) : Out :=
  let c := s.me
  let ea := (srcG s a).toNat
  match checkAccess s (.joinw d a) ea 32 false 0 with
  | .trap s => .next s
  | .ok s _ =>
    let s := markUnchk (afterAcquires s c) c [2 * d.toNat, 2 * d.toNat + 1]
    .next (modCore s c fun k => { k with joinw := k.joinw ++ [{ d := 2 * d.toNat, addr := ea, handler := k.ctl.inh }] })

end Sys2Proof.Machine
end

