-- ==== Sys2Proof/Machine/Convert.lean ====
section
/-! DEFINITION. Moves, lane rotation, immediates, conversions and the converter's generator (R171 to R179). -/

namespace Sys2Proof.Machine
open Sys2Proof

/-- R172. -/
def cellMov (d a : BitVec 5) (p : BitVec 1) (x : CellIn) (k : CellSt) : CellOut :=
  whenSel x k fun k => cellDone (writeSlices k d (readOperand x k a) p)
def execMov (m : BitVec 4) (d a : BitVec 5) (p : BitVec 1) (s : State) : Out := issueW s m (.mov m d a p)

/-- R172. -/
def cellMovx (d a : BitVec 5) (p : BitVec 1) (x : CellIn) (k : CellSt) : CellOut :=
  whenSel x k fun k => cellDone (writeSlices k d (readF k a.toNat) p)
def execMovx (m : BitVec 4) (d a : BitVec 5) (p : BitVec 1) (s : State) : Out := issueW s m (.movx m d a p)

/-- R174. The upper bits come from IMX. -/
def cellMovi (d : BitVec 5) (i : BitVec 10) (t : BitVec 4) (p : BitVec 1) (x : CellIn) (k : CellSt) : CellOut :=
  whenSel x k fun k =>
    let v := i.toNat + match x.imx with | some u => u.toNat * 2 ^ 10 | none => 0
    typedOp x k d 0 (tyWidth t) p fun _ => (v, 0)
def execMovi (m : BitVec 4) (d : BitVec 5) (i : BitVec 10) (t : BitVec 4) (p : BitVec 1) (s : State) : Out := issueW s m (.movi m d i t p)

/-- R176. Elements from the smaller count up stay. -/
def cellCvt (d a b : BitVec 5) (n : BitVec 1) (t : BitVec 4) (p : BitVec 1) (x : CellIn) (k : CellSt) : CellOut :=
  whenSel x k fun k =>
    let w := tyWidth t
    let v := (tyOf b.toNat).width
    let src := (readOperand x k a).data
    let r := mapFirst (min (512 / w) (512 / v)) v (laneMask p k.p) (readDst k d).data fun e =>
      convert (tyOf t.toNat) (tyOf b.toNat) x.mode (elem w src e)
    ⟨raiseXf (writeData k d r.data) n r.xf, fpFault x n r.all⟩
def execCvt (m : BitVec 4) (d a b : BitVec 5) (n : BitVec 1) (t : BitVec 4) (p : BitVec 1) (s : State) : Out := issueW s m (.cvt m d a b n t p)

/-- R178. One step of the generator first. -/
def cellCvtsr (d a b : BitVec 5) (n : BitVec 1) (t : BitVec 4) (p : BitVec 1) (x : CellIn) (k : CellSt) : CellOut :=
  whenSel x k fun k =>
    let w := tyWidth t
    let v := (tyOf b.toNat).width
    let src := (readOperand x k a).data
    let g := genStep k.gen
    let r := mapFirst (min (512 / w) (512 / v)) v (laneMask p k.p) (readDst k d).data fun e =>
      convertSR (fmtOf t) (match tyOf b.toNat with | .flt f => f | _ => fp32) (genBits g e) (elem w src e)
    ⟨raiseXf { writeData k d r.data with gen := g } n r.xf, fpFault x n r.all⟩
def execCvtsr (m : BitVec 4) (d a b : BitVec 5) (n : BitVec 1) (t : BitVec 4) (p : BitVec 1) (s : State) : Out := issueW s m (.cvtsr m d a b n t p)

/-- R179. -/
def cellSrand (a : BitVec 5) (x : CellIn) (k : CellSt) : CellOut :=
  whenSel x k fun k => cellDone { k with gen := genSeed ((readOperand x k a).data.setWidth 32) x.row x.col }
def execSrand (m : BitVec 4) (a : BitVec 5) (s : State) : Out := issueW s m (.srand m a)

/-- R173. -/
def cellLane (d a r : BitVec 5) (p : BitVec 1) (x : CellIn) (k : CellSt) : CellOut :=
  whenSel x k fun k =>
    let v := (readOperand x k a).data
    cellDone (writeData k d (pickSlices (laneMask p k.p) (readDst k d).data (v.rotateRight (16 * r.toNat))))
def execLane (m : BitVec 4) (d a r : BitVec 5) (p : BitVec 1) (s : State) : Out := issueW s m (.lane m d a r p)

end Sys2Proof.Machine
end

