-- ==== Sys2Proof/Machine/Edge.lean ====
section
/-! DEFINITION. The edge loaders: tensor layout records and their cache, the addresses of a step, feed fetches, drain
writes, and the E slot (R10, R29, R130 to R147, R152 to R154, R200, R201). -/

namespace Sys2Proof.Machine
open Sys2Proof

/-! ### Record fields (R131, R132) -/

def recByte (r : RecBits) (off n : Nat) : Nat := (r.extractLsb' (8 * off) (8 * n)).toNat
def recBase (r : RecBits) : Nat := recByte r 0 8
def recExt (r : RecBits) (d : Nat) : Nat := recByte r (8 + 4 * d) 4
def recStr (r : RecBits) (d : Nat) : Int := sext 64 (recByte r (0x20 + 8 * d) 8)
def recFmt (r : RecBits) : Nat := recByte r 0x48 1
def recOrder (r : RecBits) : Bool := r.getLsbD (8 * 0x49)
def recPaired (r : RecBits) : Bool := r.getLsbD (8 * 0x49 + 1)
/-- True is M16. -/
def recKind (r : RecBits) : Bool := r.getLsbD (8 * 0x49 + 2)
def recSwz (r : RecBits) : Nat := recByte r 0x4C 1 % 8
def recPad (r : RecBits) : Nat := recByte r 0x50 8
def recSbase (r : RecBits) : Nat := recByte r 0x58 8
def recSstr (r : RecBits) (d : Nat) : Int := sext 64 (recByte r (0x58 + 8 * d) 8)
def recBbase (r : RecBits) : Nat := recByte r 0x80 8
def recBstr (r : RecBits) (d : Nat) : Int := sext 32 (recByte r (0x80 + 4 * d) 4)
def recOw (r : RecBits) : Nat := recByte r 0x98 2
def recOh (r : RecBits) : Nat := recByte r 0x9A 2
/-- KW, KH, SX, SY, DX, DY, PX, PY. -/
def recTap (r : RecBits) (i : Nat) : Nat := recByte r (0x9C + i) 1
def recCb (r : RecBits) : Nat := recByte r 0xA4 2

def fmtBits (f : Nat) : Nat := (tyOf f).width
/-- NL (R136). -/
def fmtCount (f : Nat) : Nat := 512 / fmtBits f

/-- The first failing row of R135's table. -/
def checkRecord (r : RecBits) (column unfold drain : Bool) : Option Nat :=
  let f := recFmt r
  let eb := fmtBits f / 8
  let strs := (List.range 5).map (recStr r)
  let row0 := (List.range 5).any (fun d => recExt r d == 0) || 10 < f || recByte r 0x1C 4 != 0 || recByte r 0x49 1 / 8 != 0 ||
    recByte r 0x4A 2 != 0 || recByte r 0x4C 4 / 8 != 0 || recByte r 0x94 4 != 0 || recByte r 0xA6 26 != 0 ||
    (recKind r && f != 5)
  let row1 := f != 5 && (!canonical (recBase r) || recBase r % eb != 0 || strs.any fun x => x % (eb : Int) != 0)
  let row2 := f == 5 && recStr r 0 != 0
  let row3 := column && (recStr r 0 != (eb : Int) || recExt r 0 * fmtBits f % 1024 != 0 || recBase r % 128 != 0 ||
    (strs.drop 1).any fun x => x % 128 != 0)
  let row4 := f == 5 && !column && drain && recExt r 0 % 2 == 1
  let row5 := unfold && (column || recExt r 4 != 1 || recOw r == 0 || recOh r == 0 ||
    (List.range 6).any (fun i => recTap r i == 0) || recCb r == 0)
  if row0 then some 0 else if row1 then some 1 else if row2 then some 2 else if row3 then some 3
  else if row4 then some 4 else if row5 then some 5 else none

/-! ### Fetching through the loader path (R133, R134, R200) -/

/-- Bytes that lie inside aligned 64-byte blocks, block by block. -/
def fetchBlocks (s : State) (p va : Nat) : Nat → State × Except (XErr × Nat) (List Byte)
  | 0 => (s, .ok [])
  | n + 1 =>
    match loaderTranslate s p (va % 2 ^ 64) false with
    | (s, .error e) => (s, .error (e, va % 2 ^ 64))
    | (s, .ok x) =>
      let (s, bs) := clusterRead s p x 64
      match fetchBlocks s p (va + 64) n with
      | (s, .error e) => (s, .error e)
      | (s, .ok more) => (s, .ok (bs ++ more))

/-- Up to 64 records, the most recently used first. -/
def cachePut (l : List (Nat × RecBits)) (h : Nat) (r : RecBits) : List (Nat × RecBits) :=
  ((h, r) :: l.filter fun x => x.1 != h).take 64

/-- The record of a handle: the cached copy, or a fetch. -/
def recordFor (s : State) (p h : Nat) : State × Except (XErr × Nat) RecBits :=
  match (coreAt s p).edge.recs.find? fun x => x.1 == h with
  | some x => (modEdge s p fun e => { e with recs := cachePut e.recs h x.2 }, .ok x.2)
  | none =>
    match fetchBlocks s p ((coreAt s p).ctl.rcptr.toNat + 192 * h) 3 with
    | (s, .error e) => (s, .error e)
    | (s, .ok bs) =>
      let r : RecBits := BitVec.ofNat 1536 (bytesNat bs)
      (modEdge s p fun e => { e with recs := cachePut e.recs h r }, .ok r)

/-- The bundle that core m issues next. -/
def nextBundle (k : Core) : Option Bundle :=
  match decodeWords (bundleWords (bundleAt k k.seq.pc)) k.seq.repK with
  | .ok b => some b
  | .error _ => none
/-- An acquire of an earlier bundle is not complete (R260, R301, R330). -/
def acquiresOpen (s : State) (c : Nat) : Bool :=
  (pendOf s c).any pendAcquire || waitsForTasks s c || popsWait s c || fencesOpen s c
/-- The next bundle of the core that drives p's loaders arms one of them with the handle; beside a FENCE or a wait it fetches the
record only when it issues (R133, R134, R219); nor does it pass an acquire that is not complete (R260). -/
def wantsRecord (s : State) (p h : Nat) : Bool :=
  let m := masterOf s p
  let k := coreAt s m
  match nextBundle k with
  | none => false
  | some b =>
    let target := match b.y with | .xtgt _ pos => if pos = 0 then some m else k.chain[pos.toNat]? | _ => some m
    k.run == .running && target == some p && !acquiresOpen s m && (match b.s with | .fence _ => false | _ => true) && (match b.y with | .kwait .. => false | .bwait .. => false | _ => true) &&
      (match b.e with | .larm _ n _ _ => n.toNat == h | .edrain _ n _ _ _ => n.toNat == h | _ => false)
/-- R133: the record that a waiting LARM asks for completes into the cache; one that faults leaves it to the LARM. -/
def execRecordFetch (core handle : Nat) (s : State) : Out :=
  .next (if wantsRecord s core handle then (recordFor s core handle).1 else s)

/-! ### The E slot's target (R29, R129) -/

/-- The core whose loaders the bundle's E instruction addresses, if the position exists. -/
def edgeTarget (s : State) : Option Nat :=
  let k := coreAt s s.me
  match k.seq.xtgt with
  | none => some s.me
  | some pos => if pos = 0 then some s.me else k.chain[pos.toNat]?

/-- The edge faces a chain link (R29). -/
def facesLink (s : State) (p e : Nat) : Bool :=
  let k := coreAt s s.me
  let n := k.chain.length
  match k.chain.idxOf? p with
  | none => false
  | some i =>
    if k.chainEW then (e == 1 && i + 1 < n) || (e == 3 && 0 < i) else (e == 2 && i + 1 < n) || (e == 0 && 0 < i)

/-- A loader has steps left and uses O[o]; `e` is left out of the search when given. -/
def offsetBusy (k : Core) (o : Nat) (e : Option Nat) : Bool :=
  [0, 1, 2, 3].any fun x => some x != e && match boundStep k x with | some b => b.o == o | none => false

/-- The effective order (R135): true is column. -/
def columnOrder (r : RecBits) (order : Bool) : Bool := recOrder r != order

/-- Arm a loader (R144): the checks of LARM and EDRAIN, in R181's order, then the binding. -/
def armLoader (s : State) (i : Instr) (e h o count : Nat) (drain order unfold : Bool)
    (prog : Core → Except Unit (Option (List Half))) : Out :=
  match edgeTarget s with
  | none => .next (illegalOperand s i)
  | some p =>
    if facesLink s p e then .next (illegalOperand s i)
    else if offsetBusy (coreAt s p) o (some e) then .next (illegalOperand s i)
    else
      match prog (coreAt s p) with
      | .error _ => .next (illegalOperand s i)
      | .ok pg =>
        match recordFor (afterAcquires s s.me) p h with
        | (s, .error (x, va)) => .next (memoryTrap s x va 2)
        | (s, .ok r) =>
          match checkRecord r (columnOrder r order) unfold drain with
          | some row => .next (preciseTrap s 8 (BitVec.ofNat 64 (h + row * 4096)))
          | none =>
            let k := coreAt s p
            let b : Binding :=
              { drain := drain, unfold := unfold, column := columnOrder r order, recd := r, handle := h, o := o
                q0 := (readO k o).toNat, e0 := if recPaired r then (readO k (o ^^^ 1)).toNat else 0
                taken := 0, left := count, prog := pg }
            .next (modLoader s p e fun l => { l with bind := some b, fetched := [] })

/-- R144; count 0 means 64 (R10). -/
def execLarm (e : BitVec 2) (h : BitVec 12) (o : BitVec 3) (m : BitVec 9) (s : State) : Out :=
  let n := m.toNat % 64
  armLoader s (.larm e h o m) e.toNat h.toNat o.toNat (if n = 0 then 64 else n) (m.getLsbD 8) (m.getLsbD 7) (m.getLsbD 6)
    fun _ => .ok none

/-- R201: through the program of a slot, of which the binding takes a copy; an empty slot traps. -/
def execEdrain (e : BitVec 2) (h : BitVec 12) (o : BitVec 3) (p : BitVec 3) (c : BitVec 6) (s : State) : Out :=
  armLoader s (.edrain e h o p c) e.toNat h.toNat o.toNat (if c = 0 then 64 else c.toNat) true false false fun k =>
    match Tab.get [] k.edge.progs p.toNat with
    | [] => .error ()
    | ws => .ok (some ws)

/-- An E instruction acts at its target.  Of a chain position that does not exist TRAPINFO names the E slot and its word
(DESIGN CHOICE, log entry 58). -/
def atTarget (s : State) (i : Instr) (f : Nat → Out) : Out :=
  match edgeTarget s with
  | none => .next (illegalOperand s i)
  | some p => f p

/-- R146. -/
def execLdis (e : BitVec 2) (s : State) : Out :=
  atTarget s (.ldis e) fun p =>
    if facesLink s p e.toNat then .next s
    else .next (modLoader s p e.toNat fun l => { l with bind := none, fetched := [] })

/-- R145. -/
def execOset (o : BitVec 3) (i : BitVec 9) (s : State) : Out :=
  atTarget s (.oset o i) fun p =>
    if offsetBusy (coreAt s p) o.toNat none then .next (illegalOperand s (.oset o i))
    else .next (writeO s p o.toNat (i.setWidth 16))
def execOinc (o : BitVec 3) (i : BitVec 9) (s : State) : Out :=
  atTarget s (.oinc o i) fun p =>
    if offsetBusy (coreAt s p) o.toNat none then .next (illegalOperand s (.oinc o i))
    else .next (writeO s p o.toNat (readO (coreAt s p) o.toNat + i.signExtend 16))

/-- R147. -/
def execRcflush (h : BitVec 12) (s : State) : Out :=
  atTarget s (.rcflush h) fun p =>
    .next (modEdge s p fun e => { e with recs := e.recs.filter fun x => x.1 != h.toNat })

/-- R39. -/
def execNope (s : State) : Out := .next s

/-! ### Epilogue programs (R58, R200) -/

/-- The words up to and including the first ESTOP. -/
def programWords : List Half → List Half
  | [] => []
  | w :: t => if w = 0 then [w] else w :: programWords t
def wordOk (w : Half) : Bool := match decodeSlot .epilogue (w.setWidth 32) with | .ok _ => true | .error _ => false

/-- The epilogue programs that the team's image lists, the address of one, and its load (R58, R200): a program with
a word that the epilogue unit does not have empties the slot and raises a deferred loader fault of KIND 3, whose EDGE is 0 (DESIGN
CHOICE, log entry 76). -/
def imagePrograms (s : State) : Nat := match teamOf s s.me with | some t => t.img.epilogueN | none => 0
def programVa (s : State) (c : Nat) (x : BitVec 12) : Nat :=
  ((coreAt s c).ctl.rcptr.toNat + 0x140000 + 32 * x.toNat) % 2 ^ 64
def putProgram (s : State) (c : Nat) (p : BitVec 3) (va : Nat) (ws : List Half) : State :=
  if ws.all wordOk then modEdge s c fun e => { e with progs := Tab.set [] e.progs p.toNat ws }
  else
    detect (modEdge s c fun e => { e with progs := Tab.set [] e.progs p.toNat [] }) s.me 0x12 (coreAt s s.me).seq.pc
      (loaderInfo 0 3 (va / 128)) none
def loadProgram (s : State) (c : Nat) (p : BitVec 3) (va : Nat) (t : Xl) : State :=
  putProgram (clusterRead s c t 32).1 c p va
    (programWords ((List.range 16).map fun i => BitVec.ofNat 16 (bitsOf (bytesNat (clusterRead s c t 32).2) (16 * i) 16)))
/-- R200. -/
def execEpld (x : BitVec 12) (p : BitVec 3) (s : State) : Out :=
  atTarget s (.epld x p) fun c =>
    if imagePrograms s ≤ x.toNat then .next (illegalOperand s (.epld x p))
    else
      match loaderTranslate (afterAcquires s s.me) c (programVa s c x) false with
      | (s, .error e) => .next (memoryTrap s e (programVa s c x) 3)
      | (s, .ok t) => .next (loadProgram s c p (programVa s c x) t)

/-! ### From a step to addresses (R136, R137, R142) -/

/-- The indices of an element; none when the whole step is padding. -/
def elemIndex (b : Binding) (q e l : Nat) : Option (List Int) :=
  let r := b.recd
  if b.unfold then
    let cbs := recCb r
    let kw := recTap r 0
    if cbs * kw * recTap r 1 ≤ q then none
    else
      let pos := b.e0 + e
      let ow := recOw r
      let ox := pos % ow
      let oy := pos / ow % recOh r
      let kx := q / cbs % kw
      let ky := q / (cbs * kw) % recTap r 1
      some [(q % cbs * fmtCount (recFmt r) + l : Nat), (ox * recTap r 2 + kx * recTap r 4 : Nat) - (recTap r 6 : Int),
        (oy * recTap r 3 + ky * recTap r 5 : Nat) - (recTap r 7 : Int), (pos / (ow * recOh r) : Nat), 0]
  else
    let i01 : List Nat := if b.column then [b.e0 + e, l] else [l, b.e0 + e]
    some ((i01 ++ [q % recExt r 2, q / recExt r 2 % recExt r 3, q / (recExt r 2 * recExt r 3)]).map fun (n : Nat) => (n : Int))

/-- The element's indices when it is stored, none when it is padding. -/
def storedIndex (b : Binding) (q e l : Nat) : Option (List Nat) :=
  match elemIndex b q e l with
  | none => none
  | some ix =>
    if (List.range 5).all fun d => let i := ix.getD d 0; decide (0 ≤ i) && decide (i < (recExt b.recd d : Int)) then
      some (ix.map Int.toNat)
    else none

/-- A sum of index times stride over some dimensions, from a base. -/
def strided (base : Nat) (ds : List Nat) (str : Nat → Int) (ix : List Nat) : Nat :=
  ((base : Int) + (ds.map fun d => (ix.getD d 0 : Int) * str d).sum % 2 ^ 64).toNat % 2 ^ 64

/-- R137. -/
def swizzle (x mask : Nat) : Nat := x ^^^ ((x / 128 % 8 &&& mask % 8) * 16)

/-- The byte address of an element; FP4 packs two to a byte. -/
def elemAddr (r : RecBits) (ix : List Nat) : Nat :=
  let base := strided (recBase r) [1, 2, 3, 4] (recStr r) ix
  let off : Int := if recFmt r = 5 then ((ix.getD 0 0 / 2 : Nat) : Int) else (ix.getD 0 0 : Int) * recStr r 0
  swizzle (((base : Int) + off) % 2 ^ 64).toNat (recSwz r)

/-! ### Feed fetches (R138 to R141, R154) -/

/-- What one access of a fetch gives. -/
inductive Fetch (β : Type) where
  | ok (v : β)
  | bad (kind line : Nat)
  /-- a full bit is clear (R211), or the scratchpad's clock stands (R370) -/
  | wait
deriving DecidableEq, Repr

def errKind (e : XErr) : Nat := if e = .nonCanon then 2 else if e = .perm then 1 else 0

/-- The lines that one step's fetch has read, each once (R262). -/
abbrev LineBuf := List (Nat × LineData)
/-- Bytes of a line that the step's fetch has read, or reads now. -/
def bufRead (s : State) (buf : LineBuf) (p : Nat) (x : Xl) (n : Nat) : State × LineBuf × Nat :=
  match buf.find? fun l => l.1 == x.pa / 128 with
  | some l => (s, buf, bytesNat (lineBytes l.2 (x.pa % 128) n))
  | none =>
    let (s, bs) := clusterRead s p { x with pa := x.pa / 128 * 128 } 128
    let d : LineData := BitVec.ofNat 1024 (bytesNat bs)
    (s, (x.pa / 128, d) :: buf, bytesNat (lineBytes d (x.pa % 128) n))
/-- One read of the loader. -/
def loaderRead (s : State) (buf : LineBuf) (p va n : Nat) : State × LineBuf × Fetch Nat :=
  match loaderTranslate s p va false with
  | (s, .error e) => (s, buf, .bad (errKind e) (va / 128))
  | (s, .ok x) =>
    if (x.home = 1 && !fullBit s (x.pa / 128)) || scratchStands s x.pa then (s, buf, .wait)
    else let (s, buf, v) := bufRead s buf p x n; (s, buf, .ok v)

/-- An element as fetched: its bits, and for FP4 the scale byte, the micro-exponent bit, the band scale and the address
of its block scale; `pad` for a padding element. -/
structure FetchedElem where
  bits : Nat
  pad : Bool
  scale : Nat
  micro : Bool
  band : Nat
  at_ : Nat
deriving DecidableEq, Repr

/-- One element of a feed. -/
def fetchElem (s : State) (buf : LineBuf) (p : Nat) (b : Binding) (q e l : Nat) : State × LineBuf × Fetch FetchedElem :=
  let r := b.recd
  let f := recFmt r
  match storedIndex b q e l with
  | none => (s, buf, .ok ⟨recPad r % 2 ^ fmtBits f, true, 0, false, 0, 0⟩)
  | some ix =>
    if f ≠ 5 then
      match loaderRead s buf p (elemAddr r ix) (fmtBits f / 8) with
      | (s, buf, .ok v) => (s, buf, .ok ⟨v, false, 0, false, 0, 0⟩)
      | (s, buf, .bad k l) => (s, buf, .bad k l)
      | (s, buf, .wait) => (s, buf, .wait)
    else
      let i0 := ix.getD 0 0
      match loaderRead s buf p (elemAddr r ix) 1 with
      | (s, buf, .bad k l) => (s, buf, .bad k l)
      | (s, buf, .wait) => (s, buf, .wait)
      | (s, buf, .ok v) =>
        let bits := if i0 % 2 = 0 then v % 16 else v / 16
        if recKind r then
          let sa := (strided (recSbase r) [1, 2, 3, 4] (recSstr r) ix + 2 * (i0 / 16)) % 2 ^ 64
          match loaderRead s buf p sa 1 with
          | (s, buf, .bad k l) => (s, buf, .bad k l)
          | (s, buf, .wait) => (s, buf, .wait)
          | (s, buf, .ok x) =>
            match loaderRead s buf p ((sa + 1) % 2 ^ 64) 1 with
            | (s, buf, .bad k l) => (s, buf, .bad k l)
            | (s, buf, .wait) => (s, buf, .wait)
            | (s, buf, .ok m) => (s, buf, .ok ⟨bits, false, x, m.testBit (i0 % 16 / 2), 0, sa⟩)
        else
          let sa := (strided (recSbase r) [1, 2, 3, 4] (recSstr r) ix + i0 / 8) % 2 ^ 64
          let ba := (strided (recBbase r) [2, 3, 4] (recBstr r) ix + 2 * (ix.getD 1 0 / 64)) % 2 ^ 64
          match loaderRead s buf p sa 1 with
          | (s, buf, .bad k l) => (s, buf, .bad k l)
          | (s, buf, .wait) => (s, buf, .wait)
          | (s, buf, .ok x) =>
            match loaderRead s buf p ba 1 with
            | (s, buf, .bad k l) => (s, buf, .bad k l)
            | (s, buf, .wait) => (s, buf, .wait)
            | (s, buf, .ok b0) =>
              match loaderRead s buf p ((ba + 1) % 2 ^ 64) 1 with
              | (s, buf, .bad k l) => (s, buf, .bad k l)
              | (s, buf, .wait) => (s, buf, .wait)
              | (s, buf, .ok b1) => (s, buf, .ok ⟨bits, false, x, false, b0 + 256 * b1, sa⟩)

/-- The elements from position `l` up. -/
def fetchElems (s : State) (buf : LineBuf) (p : Nat) (b : Binding) (q e l : Nat) : Nat → State × LineBuf × Fetch (List FetchedElem)
  | 0 => (s, buf, .ok [])
  | n + 1 =>
    match fetchElem s buf p b q e l with
    | (s, buf, .bad k x) => (s, buf, .bad k x)
    | (s, buf, .wait) => (s, buf, .wait)
    | (s, buf, .ok v) =>
      match fetchElems s buf p b q e (l + 1) n with
      | (s, buf, .bad k x) => (s, buf, .bad k x)
      | (s, buf, .wait) => (s, buf, .wait)
      | (s, buf, .ok vs) => (s, buf, .ok (v :: vs))

/-- The entry of a scale group: in column order all its elements must agree (R154); in row order it is the stored block's
(DESIGN CHOICE, log entry 13).  A conflict names the line of the first element that differs (DESIGN CHOICE, log entry 78). -/
def groupEntry (column : Bool) (els : List FetchedElem) (f : FetchedElem → Nat) : Except Nat Nat :=
  if column then
    match els with
    | [] => .ok 0
    | x :: t => match t.find? fun y => f y != f x with | some y => .error y.at_ | none => .ok (f x)
  else .ok (match els.find? fun x => !x.pad with | some x => f x | none => 0)

def bandOf (els : List FetchedElem) : Nat := match els.find? fun x => !x.pad with | some x => x.band | none => 0

/-- The sidecar bytes of FP4 groups, or the address of a scale that disagrees. -/
def sideBytes (column kind : Bool) (els : List FetchedElem) : Nat → Nat → Except Nat (List Nat)
  | _, 0 => .ok []
  | g, n + 1 =>
    let one : Except Nat (List Nat) :=
      if kind then
        let grp := (els.drop (16 * g)).take 16
        match groupEntry column grp (·.scale) with
        | .error a => .error a
        | .ok x =>
          let pairs := (List.range 8).map fun i => groupEntry column ((grp.drop (2 * i)).take 2) fun y => if y.micro then 1 else 0
          match pairs.find? fun y => match y with | .error _ => true | .ok _ => false with
          | some (.error a) => .error a
          | _ => .ok [x, ((List.range 8).map fun i => match pairs.getD i (.ok 0) with | .ok 1 => 2 ^ i | _ => 0).sum]
      else
        match groupEntry column ((els.drop (8 * g)).take 8) (·.scale) with
        | .error a => .error a
        | .ok x => .ok [x]
    match one with
    | .error a => .error a
    | .ok bs =>
      match sideBytes column kind els (g + 1) n with
      | .error a => .error a
      | .ok more => .ok (bs ++ more)

/-- The register that a position presents (R138). -/
def buildReg (b : Binding) (els : List FetchedElem) : FetchRes :=
  let f := recFmt b.recd
  let w := fmtBits f
  let data : RegData := BitVec.ofNat 512 ((List.range els.length).map fun l => (els.getD l ⟨0, true, 0, false, 0, 0⟩).bits % 2 ^ w * 2 ^ (w * l)).sum
  if f ≠ 5 then .reg ⟨data, 0⟩
  else
    let kind := recKind b.recd
    match sideBytes b.column kind els 0 (if kind then 8 else 16) with
    | .error a => .bad 4 (a / 128)
    | .ok bs =>
      let lo := if b.column then els.take 64 else els
      let hi := if b.column then els.drop 64 else els
      let bands := if kind then [0, 0, 0, 0] else [bandOf lo % 256, bandOf lo / 256, bandOf hi % 256, bandOf hi / 256]
      let all := bs ++ bands ++ List.replicate 11 0 ++ [if kind then 1 else 0]
      .reg ⟨data, BitVec.ofNat 256 (bytesNat (all.map (BitVec.ofNat 8)))⟩

/-- The positions from `e` up; none while a line's full bit is clear. -/
def fetchPositions (s : State) (buf : LineBuf) (p : Nat) (b : Binding) (q e : Nat) : Nat → State × Option (List FetchRes)
  | 0 => (s, some [])
  | n + 1 =>
    match fetchElems s buf p b q e 0 (fmtCount (recFmt b.recd)) with
    | (s, _, .wait) => (s, none)
    | (s, buf, r) =>
      let v : FetchRes := match r with | .ok els => buildReg b els | .bad k l => .bad k l | .wait => .bad 0 0
      match fetchPositions s buf p b q (e + 1) n with
      | (s, none) => (s, none)
      | (s, some vs) => (s, some (v :: vs))

/-- The next step of a feed that is not fetched for the whole edge.  Fetches run at most four steps ahead
(DESIGN CHOICE, log entry 61: R139 gives no depth). -/
def nextFetch (k : Core) (e : Nat) (b : Binding) : Option Nat :=
  ((List.range (min b.left 4)).map fun i => b.q0 + b.taken + i).find? fun q =>
    !(loaderAt k.edge e).fetched.any fun f => f.q == q && edgeLen k.arr.win e ≤ f.vals.length

/-- The positions of a step that are there already. -/
def heldVals (k : Core) (e q : Nat) : List FetchRes :=
  match (loaderAt k.edge e).fetched.find? fun f => f.q == q with
  | some f => f.vals
  | none => []
/-- R139: the next feed step is fetched, where it is not there yet; while a full bit is clear, or the array is frozen (R226),
nothing changes. -/
def fetchStep (s : State) (p e : Nat) : State :=
  match boundStep (coreAt s p) e with
  | none => s
  | some b =>
    if b.drain || (coreAt s p).arr.frozen then s
    else
      match nextFetch (coreAt s p) e b with
      | none => s
      | some q =>
        let held := heldVals (coreAt s p) e q
        match fetchPositions s [] p b q held.length (edgeLen (coreAt s p).arr.win e - held.length) with
        | (_, none) => s
        | (s, some vs) => modLoader s p e fun l => { l with fetched := (l.fetched.filter fun f => f.q != q) ++ [⟨q, held ++ vs⟩] }
def execFeedFetch (core edge : Nat) (s : State) : Out := .next (fetchStep s core edge)

/-- The fault of the next feed step, if it has one: KIND and line of its lowest position (R141). -/
def feedFault (k : Core) (e : Nat) : Option (Nat × Nat) :=
  match boundStep k e with
  | none => none
  | some b =>
    if b.drain then none
    else
      match nextStep k e b with
      | none => none
      | some vs => vs.findSome? fun v => match v with | .bad a b => some (a, b) | .reg _ => none

/-! ### The feed fault of a bundle (R141) -/

/-- The E instruction arms a loader for its own bundle's W instruction (R10, R33). -/
def armedEdge : Instr → Option Nat
  | .larm e _ _ _ => some e.toNat
  | .edrain e _ _ _ _ => some e.toNat
  | _ => none
/-- The S instruction governs its own bundle's W instruction (R23, R33). -/
def setsWindow : Instr → Bool
  | .awin _ _ _ _ => true
  | _ => false
def isCnop : Instr → Bool
  | .cnop => true
  | _ => false

/-- The feed fault of the steps that a W instruction of core c is bound to: core, edge, KIND, line.  Of several it is the one of the
lowest chain position, there of the lowest edge code, there of the lowest edge position, and of that the first access that failed
(DESIGN CHOICE, log entry 89). -/
def boundFault (s : State) (c : Nat) (w : Instr) : Option (Nat × Nat × Nat × Nat) :=
  if isCnop w then none
  else
    (positions (coreAt s c) c).findSome? fun p => [0, 1, 2, 3].findSome? fun e =>
      (feedFault (coreAt s p) e).map fun f => (p, e, f.1, f.2)

/-- The instruction that a slot's word spells by itself, or the slot's no-operation. -/
def slotOr (n : Instr) (d : Except Reject Instr) : Instr := match d with | .ok i => i | .error _ => n
/-- What the slots of a bundle that does not decode spell one by one. -/
def rawBundle (b : BundleWords) (k : Nat) : Bundle :=
  let y := slotOr (.nopy 0) (decodeSlot .y b.y)
  ⟨y, slotOr .nops (decodeStepped .s (repeatS y k b.s)), slotOr .cnop (decodeStepped .w (repeatW y k b.w)), slotOr .nope (decodeSlot .e b.e)⟩
/-- The bundle at the program counter, as far as its words spell instructions. -/
def upcoming (k : Core) : Bundle :=
  match decodeWords (bundleWords (bundleAt k k.seq.pc)) k.seq.repK with
  | .ok b => b
  | .error _ => rawBundle (bundleWords (bundleAt k k.seq.pc)) k.seq.repK
/-- The fault of a step that was fetched ahead is pending at the boundary before the bundle, whatever else holds it or is
illegal in it; a bundle that sets the window or arms a loader has its steps only when it issues (R141, R221). -/
def earlyFault (s : State) (c : Nat) : Option (Nat × Nat × Nat × Nat) :=
  let k := coreAt s c
  let b := upcoming k
  if !inImem k k.seq.pc || setsWindow b.s || (armedEdge b.e).isSome then none else boundFault s c b.w

/-! ### Drain writes (R140, R141, R196) -/

/-- What a drain step writes into one line: bits of data, and which of the line's bits they are. -/
structure LineWrite where
  x : Xl
  data : LineData
  bits : LineData
deriving DecidableEq, Repr

/-- An element of `n` bits comes to its place in its line; a later one replaces the bits of an earlier one. -/
def addBits (x : Xl) (n v at_ : Nat) : List LineWrite → List LineWrite
  | [] => [⟨x, BitVec.ofNat 1024 (v % 2 ^ n * 2 ^ at_), BitVec.ofNat 1024 ((2 ^ n - 1) * 2 ^ at_)⟩]
  | w :: t =>
    if w.x.pa / 128 == x.pa / 128 then
      let b := BitVec.ofNat 1024 ((2 ^ n - 1) * 2 ^ at_)
      { w with data := (w.data &&& ~~~ b) ||| BitVec.ofNat 1024 (v % 2 ^ n * 2 ^ at_), bits := w.bits ||| b } :: t
    else w :: addBits x n v at_ t
/-- The place of an element in its line, in bits: of FP4 the low nibble holds the even index (R136). -/
def elemPlace (f : Nat) (ix : List Nat) (pa : Nat) : Nat := 8 * (pa % 128) + (if f = 5 && ix.getD 0 0 % 2 == 1 then 4 else 0)
/-- The stored elements of a position by line, or KIND and line of the first that faults; then none is written (DESIGN CHOICE, log
entry 84). -/
def drainElems (s : State) (p : Nat) (b : Binding) (q e : Nat) (data : RegData) (ws : List LineWrite) :
    List Nat → State × Except (Nat × Nat) (List LineWrite)
  | [] => (s, .ok ws)
  | l :: t =>
    let f := recFmt b.recd
    match storedIndex b q e l with
    | none => drainElems s p b q e data ws t
    | some ix =>
      match loaderTranslate s p (elemAddr b.recd ix) true with
      | (s, .error x) => (s, .error (errKind x, elemAddr b.recd ix / 128))
      | (s, .ok x) => drainElems s p b q e data (addBits x (fmtBits f) (elem (fmtBits f) data l) (elemPlace f ix x.pa) ws) t
/-- The bytes of which some bit is written. -/
def touchedBytes (bits : LineData) : LineMask :=
  BitVec.ofNat 128 (((List.range 128).map fun i => if bits.extractLsb' (8 * i) 8 = 0 then 0 else 2 ^ i).sum)
/-- The bits of a line are written in one write (R262); the other half of an FP4 byte stays. -/
def writeBits (p : Nat) (s : State) (w : LineWrite) : State :=
  let m := touchedBytes w.bits
  if maskBits m = w.bits then clusterWrite s p w.x w.data m
  else
    let (s, old) := clusterRead s p { w.x with pa := w.x.pa / 128 * 128 } 128
    clusterWrite s p w.x ((BitVec.ofNat 1024 (bytesNat old) &&& ~~~ w.bits) ||| (w.data &&& w.bits)) m

/-- The capture that is written next: its step is complete and processed. -/
def writable (k : Core) (e : Nat) : Option Capture :=
  match (loaderAt k.edge e).caps with
  | c :: _ => if c.got = c.len && (c.bind.prog.isNone || c.done = c.len) then some c else none
  | [] => none

/-- A failed write waits for its trap and for the return from it (R141), while a task can take them. -/
def drainBlocked (s : State) (p e : Nat) : Bool :=
  let k := coreAt s (masterOf s p)
  let mine (info : Dword) : Bool := info.toNat % 4 == e && info.toNat / 4 % 8 < 3
  k.task.isSome && (k.deferred.any (fun d => d.cause == 0x12 && mine d.info) || (k.ctl.inh && k.ctl.cause == 0x12 && mine k.ctl.info))

/-- A position of a captured step has been written; after the last one the step goes. -/
def positionWritten (c : Capture) (l : Loader) : Loader :=
  let next (x : Capture) : Capture := if x.id == c.id then { x with wpos := x.wpos + 1 } else x
  { l with caps := if c.len ≤ c.wpos + 1 then l.caps.drop 1 else l.caps.map next }
/-- The write of a position of a captured step fails.  After the task's end no trap and no return can come: the position is over
unwritten, so that the team can end (R303; DESIGN CHOICE, log entry 97). -/
def drainFails (s : State) (p e : Nat) (c : Capture) (kind line : Nat) : State :=
  if (coreAt s (masterOf s p)).task.isSome then detect s (masterOf s p) 0x12 c.bundle (loaderInfo e kind line) none
  else modLoader s p e (positionWritten c)
/-- What the next position of a captured step writes. -/
def drainWrites (s : State) (p : Nat) (c : Capture) : State × Except (Nat × Nat) (List LineWrite) :=
  let n := fmtCount (recFmt c.bind.recd)
  let ls := List.range (if c.bind.prog.isSome then min 16 n else n)
  drainElems s p c.bind c.q c.wpos (Tab.get .zero c.regs c.wpos).data [] ls
/-- A line of it lies in a scratchpad whose clock stands (R370; DESIGN CHOICE, log entry 68). -/
def drainStands (s : State) (p : Nat) (c : Capture) : Bool :=
  someStands s && (match (drainWrites s p c).2 with | .ok ws => ws.any fun w => scratchStands s w.x.pa | .error _ => false)
/-- The captured step of an edge whose next position can be written now. -/
def drainReady (s : State) (p e : Nat) : Option Capture :=
  (writable (coreAt s p) e).filter fun c => !drainBlocked s p e && !drainStands s p c
/-- One position of the oldest captured step is written. -/
def drainStep (s : State) (p e : Nat) : State :=
  match drainReady s p e with
  | none => s
  | some c =>
    match drainWrites s p c with
    | (s, .error (k, line)) => drainFails s p e c k line
    | (s, .ok ws) => modLoader (ws.foldl (writeBits p) s) p e (positionWritten c)
def execDrainWrite (core edge : Nat) (s : State) : Out := .next (drainStep s core edge)

end Sys2Proof.Machine
end

