-- ==== Sys2Proof/Machine/Epilogue.lean ====
section
/-! DEFINITION. The epilogue unit (R57, R196 to R202): a captured register's 16 working values, the seven words, and
the register's way through a program. -/

namespace Sys2Proof.Machine
open Sys2Proof

/-! ### Values -/

/-- A working value read exactly: its sign and, unless it is special, the real. -/
inductive EVal where
  | nan
  | inf (neg : Bool)
  | fin (neg : Bool) (x : Dyad)
deriving DecidableEq, Repr

def exactVal (ty v : Nat) : EVal :=
  match tyOf ty with
  | .flt f => if f.isNaN v then .nan else if f.isInf v then .inf (f.sign v) else .fin (f.sign v) (f.value v)
  | .int w => .fin (decide (sInt w v < 0)) ⟨sInt w v, 0⟩
  | .fix w => .fin (decide (sInt w v < 0)) ⟨sInt w v, 1 - (w : Int)⟩

/-- A NaN becomes FP32, quieted, sign and payload kept (R198). -/
def nanVal (ty v : Nat) : Nat := match tyOf ty with | .flt f => (convFF f fp32 .rne v).1 | _ => fp32.canonNaN

/-- The constant of an imm12 (R197): an FP16 value. -/
def epiConst (imm : Nat) : Dyad × Bool := (fp16.value (imm * 16), fp16.sign (imm * 16))

/-- V + K (R198). -/
def epiAdd (ty imm v : Nat) : Nat :=
  let (k, ks) := epiConst imm
  match exactVal ty v with
  | .nan => nanVal ty v
  | .inf s => fp32.infBits s
  | .fin s x => (roundDyad fp32 .rne (s && ks) (x.add k)).1
/-- V · K. -/
def epiMul (ty imm v : Nat) : Nat :=
  let (k, ks) := epiConst imm
  match exactVal ty v with
  | .nan => nanVal ty v
  | .inf s => if k.m = 0 then fp32.canonNaN else fp32.infBits (s != ks)
  | .fin s x => (roundDyad fp32 .rne (s != ks) (x.mul k)).1
/-- +0 when negative or -0; a NaN stays. -/
def epiRelu (ty v : Nat) : Nat :=
  match exactVal ty v with
  | .nan => v
  | .inf s => if s then 0 else v
  | .fin s _ => if s then 0 else v
/-- min(max(V, -K), K), rounded to FP32; an FP32 NaN stays, one of another type becomes FP32 as R198's other words make it:
quieted, sign and payload kept (DEDUCED, log entry 74). -/
def epiClamp (ty imm v : Nat) : Nat :=
  let (k, _) := epiConst imm
  match exactVal ty v with
  | .nan => if ty = 0 then v else nanVal ty v
  | .inf s => (roundDyad fp32 .rne s (if s then k.neg else k)).1
  | .fin s x =>
    if x.lt k.neg then (roundDyad fp32 .rne true k.neg).1
    else if k.lt x then (roundDyad fp32 .rne false k).1
    else (roundDyad fp32 .rne s x).1

/-! ### The unit -/

/-- The working type at the start (R196). -/
def startTy (fmt : Nat) : Nat := if fmt = 6 || fmt = 9 then fmt else if fmt = 7 || fmt = 8 then 6 else if fmt = 10 then 9 else 0

/-- A word acts on every working value of the issuing core's unit. -/
def epiWord (s : State) (f : EpiRun → EpiRun) : Out :=
  .next (modEdge s s.me fun e => { e with epi := e.epi.map f })
def mapVals (r : EpiRun) (ty : Nat) (f : Nat → Nat) : EpiRun := { r with vals := r.vals.map f, ty := ty }

/-- The register leaves: converted to FMT where the working type differs, value l at element position l (R196). -/
def leaveEpi (s : State) (c : Nat) : State :=
  match (coreAt s c).edge.epi with
  | none => s
  | some r =>
    let w := fmtBits r.fmt
    let out (v : Nat) : Nat := if r.ty = r.fmt then v else (convert (tyOf r.ty) (tyOf r.fmt) .rne v).1
    let data : RegData := BitVec.ofNat 512 ((List.range 16).map fun l => out (r.vals.getD l 0) % 2 ^ w * 2 ^ (w * l)).sum
    let put (x : Capture) : Capture :=
      if x.id == r.cap then { x with regs := Tab.set .zero x.regs r.pos ⟨data, 0⟩, done := x.done + 1 } else x
    let s := modLoader s c r.edge fun l => { l with caps := l.caps.map put }
    modEdge s c fun e => { e with epi := none }

/-- R198: the program ends. -/
def execEstop (s : State) : Out := .next (leaveEpi s s.me)
/-- R198. -/
def execEpass (s : State) : Out := epiWord s id
/-- R198. -/
def execEadd (i : BitVec 12) (s : State) : Out := epiWord s fun r => mapVals r 0 (epiAdd r.ty i.toNat)
/-- R198. -/
def execEmul (i : BitVec 12) (s : State) : Out := epiWord s fun r => mapVals r 0 (epiMul r.ty i.toNat)
/-- R198. -/
def execErelu (s : State) : Out := epiWord s fun r => mapVals r r.ty (epiRelu r.ty)
/-- R198. -/
def execEclmp (i : BitVec 11) (s : State) : Out := epiWord s fun r => mapVals r 0 (epiClamp r.ty i.toNat)

/-- Conversion of the values with stochastic rounding, element number l (R199). -/
def convertVals (g : Word) (ty : Nat) (vals : List Nat) : List Nat :=
  (List.range vals.length).map fun l =>
    (convertSR fp32 (match tyOf ty with | .flt f => f | _ => fp32) (genBits g l) (vals.getD l 0)).1
/-- R198, R199: with sr = 1 and working type FP32 the unit's generator steps once. -/
def execEcvt (t : BitVec 4) (sr : BitVec 1) (s : State) : Out :=
  match (coreAt s s.me).edge.epi with
  | none => .next s
  | some r =>
    if sr = 1 && r.ty = 0 then
      .next (modEdge s s.me fun e =>
        { e with egen := genStep e.egen, epi := some { r with vals := convertVals (genStep e.egen) t.toNat r.vals, ty := t.toNat } })
    else epiWord s fun r => mapVals r t.toNat fun v => (convert (tyOf r.ty) (tyOf t.toNat) .rne v).1

/-! ### One captured register (R196, R202) -/

/-- The next captured register enters the unit, in capture order. -/
def enterEpi (s : State) (c : Nat) : State :=
  let e := (coreAt s c).edge
  match e.epi, e.epq with
  | none, (edge, cap, pos) :: q =>
    let s := modEdge s c fun e => { e with epq := q }
    match (loaderAt e edge).caps.find? fun x => x.id == cap with
    | none => s
    | some x =>
      let v := (Tab.get .zero x.regs pos).data
      let fmt := recFmt x.bind.recd
      let run : EpiRun :=
        { edge := edge, cap := cap, pos := pos, words := x.bind.prog.getD [], vals := (List.range 16).map (elem 32 v)
          ty := startTy fmt, fmt := fmt }
      modEdge s c fun e => { e with epi := some run }
  | _, _ => s

/-- The meaning of an epilogue word. -/
def runWord (w : Half) (s : State) : Out :=
  match decodeSlot .epilogue (w.setWidth 32) with
  | .ok .estop => execEstop s
  | .ok .epass => execEpass s
  | .ok (.eadd i) => execEadd i s
  | .ok (.emul i) => execEmul i s
  | .ok .erelu => execErelu s
  | .ok (.eclmp i) => execEclmp i s
  | .ok (.ecvt t sr) => execEcvt t sr s
  | _ => .next s

/-- The first word of the register in the unit; past the last the register leaves. -/
def stepEpi (s : State) (c : Nat) : State :=
  match (coreAt s c).edge.epi with
  | none => s
  | some r =>
    match r.words with
    | [] => leaveEpi s c
    | w :: ws =>
      let s := modEdge (setMe s c) c fun e => { e with epi := some { r with words := ws } }
      match runWord w s with
      | .next s => s
      | _ => s

def runEpi : Nat → State → Nat → State
  | 0, s, _ => s
  | n + 1, s, c => if (coreAt s c).edge.epi.isNone then s else runEpi n (stepEpi s c) c

/-- R202: the program runs over one captured register. -/
def processEpi (s : State) (c : Nat) : State :=
  setMe (runEpi 17 (enterEpi s c) c) s.me
def execEpilogueProcess (core : Nat) (s : State) : Out := .next (processEpi s core)

end Sys2Proof.Machine
end

