-- ==== Sys2Proof/Machine/Crypto.lean ====
section
/-! DEFINITION. The functions that R375 to R377 name: SHA-384 with the SHA-2 functions that SLH-DSA rests on, RSASSA-PSS
verification (RFC 8017) and SLH-DSA-SHA2-192s verification (FIPS 205).  R375 names the schemes; how they compute is taken from
those standards (PRESUMED, log entry 5). -/

namespace Sys2Proof.Machine
open Sys2Proof

/-- Big-endian bytes. -/
def beBytes (n v : Nat) : List Byte := (natBytes n v).reverse
def beNat (bs : List Byte) : Nat := bytesNat bs.reverse
/-- Bytes `n` at a time. -/
def groups (n : Nat) : Nat → List Byte → List (List Byte)
  | 0, _ => []
  | k + 1, bs => bs.take n :: groups n k (bs.drop n)

/-! ### SHA-2 -/

/-- One function of the family: word bits, rounds, the rotations of the two state sums and of the two schedule sums (a
shift last). -/
structure Sha2 where
  w : Nat
  k : List Nat
  big0 : Nat × Nat × Nat
  big1 : Nat × Nat × Nat
  small0 : Nat × Nat × Nat
  small1 : Nat × Nat × Nat
deriving DecidableEq, Repr

/-- The round constants of SHA-512. -/
def shaK : List Nat :=
  [0x428A2F98D728AE22, 0x7137449123EF65CD, 0xB5C0FBCFEC4D3B2F, 0xE9B5DBA58189DBBC,
   0x3956C25BF348B538, 0x59F111F1B605D019, 0x923F82A4AF194F9B, 0xAB1C5ED5DA6D8118,
   0xD807AA98A3030242, 0x12835B0145706FBE, 0x243185BE4EE4B28C, 0x550C7DC3D5FFB4E2,
   0x72BE5D74F27B896F, 0x80DEB1FE3B1696B1, 0x9BDC06A725C71235, 0xC19BF174CF692694] ++
  [0xE49B69C19EF14AD2, 0xEFBE4786384F25E3, 0x0FC19DC68B8CD5B5, 0x240CA1CC77AC9C65,
   0x2DE92C6F592B0275, 0x4A7484AA6EA6E483, 0x5CB0A9DCBD41FBD4, 0x76F988DA831153B5,
   0x983E5152EE66DFAB, 0xA831C66D2DB43210, 0xB00327C898FB213F, 0xBF597FC7BEEF0EE4,
   0xC6E00BF33DA88FC2, 0xD5A79147930AA725, 0x06CA6351E003826F, 0x142929670A0E6E70] ++
  [0x27B70A8546D22FFC, 0x2E1B21385C26C926, 0x4D2C6DFC5AC42AED, 0x53380D139D95B3DF,
   0x650A73548BAF63DE, 0x766A0ABB3C77B2A8, 0x81C2C92E47EDAEE6, 0x92722C851482353B,
   0xA2BFE8A14CF10364, 0xA81A664BBC423001, 0xC24B8B70D0F89791, 0xC76C51A30654BE30,
   0xD192E819D6EF5218, 0xD69906245565A910, 0xF40E35855771202A, 0x106AA07032BBD1B8] ++
  [0x19A4C116B8D2D0C8, 0x1E376C085141AB53, 0x2748774CDF8EEB99, 0x34B0BCB5E19B48A8,
   0x391C0CB3C5C95A63, 0x4ED8AA4AE3418ACB, 0x5B9CCA4F7763E373, 0x682E6FF3D6B2B8A3,
   0x748F82EE5DEFB2FC, 0x78A5636F43172F60, 0x84C87814A1F0AB72, 0x8CC702081A6439EC,
   0x90BEFFFA23631E28, 0xA4506CEBDE82BDE9, 0xBEF9A3F7B2C67915, 0xC67178F2E372532B] ++
  [0xCA273ECEEA26619C, 0xD186B8C721C0C207, 0xEADA7DD6CDE0EB1E, 0xF57D4F7FEE6ED178,
   0x06F067AA72176FBA, 0x0A637DC5A2C898A6, 0x113F9804BEF90DAE, 0x1B710B35131C471B,
   0x28DB77F523047D84, 0x32CAAB7B40C72493, 0x3C9EBE0A15C9BEBC, 0x431D67C49C100D4C,
   0x4CC5D4BECB3E42B6, 0x597F299CFC657E2A, 0x5FCB6FAB3AD6FAEC, 0x6C44198C4A475817]
def shaIv512 : List Nat :=
  [0x6A09E667F3BCC908, 0xBB67AE8584CAA73B, 0x3C6EF372FE94F82B, 0xA54FF53A5F1D36F1,
   0x510E527FADE682D1, 0x9B05688C2B3E6C1F, 0x1F83D9ABFB41BD6B, 0x5BE0CD19137E2179]
def shaIv384 : List Nat :=
  [0xCBBB9D5DC1059ED8, 0x629A292A367CD507, 0x9159015A3070DD17, 0x152FECD8F70E5939,
   0x67332667FFC00B31, 0x8EB44A8768581511, 0xDB0C2E0D64F98FA7, 0x47B5481DBEFA4FA4]
/-- SHA-256's constants are the upper halves of those of SHA-512. -/
def upperHalf (x : Nat) : Nat := x / 2 ^ 32

def sha512Fn : Sha2 := { w := 64, k := shaK, big0 := (28, 34, 39), big1 := (14, 18, 41), small0 := (1, 8, 7), small1 := (19, 61, 6) }
def sha256Fn : Sha2 :=
  { w := 32, k := (shaK.take 64).map upperHalf, big0 := (2, 13, 22), big1 := (6, 11, 25), small0 := (7, 18, 3), small1 := (17, 19, 10) }

def rotr (w n x : Nat) : Nat := x / 2 ^ n + x % 2 ^ n * 2 ^ (w - n)
def bigSum (f : Sha2) (r : Nat × Nat × Nat) (x : Nat) : Nat := rotr f.w r.1 x ^^^ rotr f.w r.2.1 x ^^^ rotr f.w r.2.2 x
def smallSum (f : Sha2) (r : Nat × Nat × Nat) (x : Nat) : Nat := rotr f.w r.1 x ^^^ rotr f.w r.2.1 x ^^^ (x / 2 ^ r.2.2)

/-- The words of the schedule from a window of the next 16. -/
def shaSchedule (f : Sha2) : Nat → List Nat → List Nat
  | 0, _ => []
  | n + 1, win =>
    let w := win.getD
    let new := (smallSum f f.small1 (w 14 0) + w 9 0 + smallSum f f.small0 (w 1 0) + w 0 0) % 2 ^ f.w
    w 0 0 :: shaSchedule f n (win.drop 1 ++ [new])
/-- One round on the eight working words. -/
def shaRound (f : Sha2) (v : List Nat) (kw : Nat × Nat) : List Nat :=
  let x := v.getD
  let a := x 0 0
  let e := x 4 0
  let ch := (e &&& x 5 0) ^^^ ((2 ^ f.w - 1 - e) &&& x 6 0)
  let maj := (a &&& x 1 0) ^^^ (a &&& x 2 0) ^^^ (x 1 0 &&& x 2 0)
  let t1 := x 7 0 + bigSum f f.big1 e + ch + kw.1 + kw.2
  let t2 := bigSum f f.big0 a + maj
  [(t1 + t2) % 2 ^ f.w, a, x 1 0, x 2 0, (x 3 0 + t1) % 2 ^ f.w, e, x 5 0, x 6 0]
/-- One block. -/
def shaBlock (f : Sha2) (h : List Nat) (block : List Byte) : List Nat :=
  let ws := shaSchedule f f.k.length ((groups (f.w / 8) 16 block).map beNat)
  let v := (f.k.zip ws).foldl (shaRound f) h
  (h.zip v).map fun p => (p.1 + p.2) % 2 ^ f.w
/-- The padded message. -/
def shaPad (f : Sha2) (m : List Byte) : List Byte :=
  let size := 2 * f.w
  let tail := f.w / 4
  let zeros := (size - (m.length + 1 + tail) % size) % size
  m ++ [0x80] ++ List.replicate zeros 0 ++ beBytes tail (8 * m.length)
def shaHash (f : Sha2) (iv : List Nat) (m : List Byte) : List Byte :=
  let p := shaPad f m
  ((groups (2 * f.w) (p.length / (2 * f.w)) p).foldl (shaBlock f) iv).flatMap fun x => beBytes (f.w / 8) x

def sha512 (m : List Byte) : List Byte := shaHash sha512Fn shaIv512 m
def sha384 (m : List Byte) : List Byte := (shaHash sha512Fn shaIv384 m).take 48
def sha256 (m : List Byte) : List Byte := shaHash sha256Fn (shaIv512.map upperHalf) m
/-- MGF1 with a hash of `hLen` bytes. -/
def mgf1 (h : List Byte → List Byte) (hLen : Nat) (seed : List Byte) (n : Nat) : List Byte :=
  ((List.range (n / hLen + 1)).flatMap fun i => h (seed ++ beBytes 4 i)).take n

/-! ### RSASSA-PSS, 3,072 bits, exponent 65,537, salt of 48 bytes -/

def squareMod (n : Nat) : Nat → Nat → Nat
  | 0, x => x
  | k + 1, x => squareMod n k (x * x % n)
/-- x to the power 65,537. -/
def rsaPublic (n x : Nat) : Nat := squareMod n 16 x * x % n
/-- EMSA-PSS-VERIFY of a 384-byte encoded message. -/
def pssOk (mHash em : List Byte) : Bool :=
  let masked := em.take 335
  let h := (em.drop 335).take 48
  let bytes := (masked.zip (mgf1 sha384 48 h 335)).map fun p => p.1 ^^^ p.2
  let db := (bytes.headD 0 &&& 0x7F) :: bytes.drop 1
  em.drop 383 == [0xBC] && (masked.headD 0).toNat < 128 && db.take 287 == List.replicate 286 0 ++ [1] &&
    sha384 (List.replicate 8 0 ++ mHash ++ db.drop 287) == h
def rsaVerify (modulus : Nat) (mHash sig : List Byte) : Bool :=
  sig.length == 384 && beNat sig < modulus && pssOk mHash (beBytes 384 (rsaPublic modulus (beNat sig)))

/-! ### SLH-DSA-SHA2-192s -/

/-- An address (FIPS 205, section 4): layer, tree, type, key pair, chain or height, hash or index. -/
structure SlhAdrs where
  layer : Nat
  tree : Nat
  type : Nat
  pair : Nat
  height : Nat
  index : Nat
deriving DecidableEq, Repr

/-- The compressed form of the SHA2 sets. -/
def slhAdrsBytes (a : SlhAdrs) : List Byte :=
  beBytes 1 a.layer ++ beBytes 8 a.tree ++ beBytes 1 a.type ++ beBytes 4 a.pair ++ beBytes 4 a.height ++ beBytes 4 a.index
def slhType (a : SlhAdrs) (ty pair : Nat) : SlhAdrs := { a with type := ty, pair := pair, height := 0, index := 0 }
/-- F. -/
def slhF (seed : List Byte) (a : SlhAdrs) (m : List Byte) : List Byte :=
  (sha256 (seed ++ List.replicate 40 0 ++ slhAdrsBytes a ++ m)).take 24
/-- H and the T functions. -/
def slhT (seed : List Byte) (a : SlhAdrs) (m : List Byte) : List Byte :=
  (sha512 (seed ++ List.replicate 104 0 ++ slhAdrsBytes a ++ m)).take 24
/-- Digits of `b` bits, the most significant first. -/
def slhDigits (b n : Nat) (bs : List Byte) : List Nat :=
  (List.range n).map fun i => beNat bs / 2 ^ (8 * bs.length - b * (i + 1)) % 2 ^ b

/-- Walk up a tree: `k` levels, from the node at index `i`. -/
def slhClimb (seed : List Byte) : List (List Byte) → Nat → Nat → SlhAdrs → List Byte → List Byte
  | [], _, _, _, node => node
  | auth :: t, lvl, i, a, node =>
    let a : SlhAdrs := { a with height := lvl + 1, index := a.index / 2 }
    slhClimb seed t (lvl + 1) (i / 2) a (slhT seed a (if i % 2 = 0 then node ++ auth else auth ++ node))
/-- A hash chain of `n` steps from step `i`. -/
def slhChain (seed : List Byte) (a : SlhAdrs) : Nat → Nat → List Byte → List Byte
  | 0, _, x => x
  | n + 1, i, x => slhChain seed a n (i + 1) (slhF seed { a with index := i } x)
/-- WOTS+ public key of a signature of 51 chains. -/
def wotsKey (seed : List Byte) (a : SlhAdrs) (sig : List Byte) (m : List Byte) : List Byte :=
  let ds := slhDigits 4 48 m
  let sum := (ds.map fun d => 15 - d).foldl (· + ·) 0
  let all := ds ++ slhDigits 4 3 (beBytes 2 (16 * sum))
  let tops := ((groups 24 51 sig).zip (all.zip (List.range 51))).flatMap fun p =>
    slhChain seed { a with height := p.2.2 } (15 - p.2.1) p.2.1 p.1
  slhT seed (slhType a 1 a.pair) tops
/-- XMSS root of one layer's signature. -/
def xmssRoot (seed : List Byte) (a : SlhAdrs) (leaf : Nat) (sig : List Byte) (m : List Byte) : List Byte :=
  let node := wotsKey seed (slhType a 0 leaf) (sig.take 1224) m
  slhClimb seed (groups 24 9 (sig.drop 1224)) 0 leaf { slhType a 2 0 with index := leaf } node
/-- The hypertree: seven layers. -/
def hyperRoot (seed : List Byte) : List (List Byte) → Nat → Nat → Nat → List Byte → List Byte
  | [], _, _, _, node => node
  | sig :: t, layer, tree, leaf, node =>
    hyperRoot seed t (layer + 1) (tree / 512) (tree % 512)
      (xmssRoot seed { layer := layer, tree := tree, type := 0, pair := 0, height := 0, index := 0 } leaf sig node)
/-- FORS: 17 trees of height 14. -/
def forsKey (seed : List Byte) (a : SlhAdrs) (sig md : List Byte) : List Byte :=
  let roots := ((groups 360 17 sig).zip ((slhDigits 14 17 md).zip (List.range 17))).flatMap fun p =>
    let a : SlhAdrs := { a with index := p.2.2 * 2 ^ 14 + p.2.1 }
    slhClimb seed (groups 24 14 (p.1.drop 24)) 0 p.2.1 a (slhF seed a (p.1.take 24))
  slhT seed (slhType a 4 a.pair) roots
/-- Verification in the pure form with an empty context: key 48 bytes, signature 16,224. -/
def slhVerify (key m sig : List Byte) : Bool :=
  let seed := key.take 24
  let r := sig.take 24
  let d := mgf1 sha512 64 (r ++ seed ++ sha512 (r ++ key ++ [0, 0] ++ m)) 39
  let tree := beNat ((d.drop 30).take 7) % 2 ^ 54
  let leaf := beNat ((d.drop 37).take 2) % 2 ^ 9
  let a : SlhAdrs := { layer := 0, tree := tree, type := 3, pair := leaf, height := 0, index := 0 }
  let fors := forsKey seed a ((sig.drop 24).take 6120) (d.take 30)
  sig.length == 16224 && key.length == 48 && hyperRoot seed (groups 1440 7 (sig.drop 6144)) 0 tree leaf fors == key.drop 24

end Sys2Proof.Machine
end

