-- ==== Sys2Proof/Machine/Copies.lean ====
section
/-! DEFINITION. The copy engine: a request starts, its lines land, its faults (R182, R203 to R210). -/

namespace Sys2Proof.Machine
open Sys2Proof

/-! ### Reads and faults -/

/-- The layout of R210. -/
def copyInfo (ch kind line : Nat) : Dword := BitVec.ofNat 64 (ch + kind * 2 ^ 8 + line % 2 ^ 50 * 2 ^ 10)
/-- A deferred copy fault on the requesting core; WAVETAG is the aperture store's bundle. -/
def copyFault (s : State) (c ch kind va : Nat) (r : CopyReq) : State :=
  detect s (masterOf s c) 0x13 r.bundle (copyInfo ch kind (va % 2 ^ 57 / 128)) none
/-- The channel stops until RETT (R209); it has no line ready, so none waits (R206). -/
def stopChan (s : State) (c ch kind va : Nat) (r : CopyReq) : State :=
  let s := setChan (copyFault s c ch kind va r) c ch { chanAt (coreAt s c) ch with stopped := true, waited := 0 }
  match teamAt s r.team with
  | some t => if t.status = 0 then s else dropStopped s c
  | none => dropStopped s c

/-- A read of the copy engine inside one line. -/
def copyRead (s : State) (c asid va n : Nat) : State × Except Nat (List Byte) :=
  match dieTranslate s (dieOf c) asid va false with
  | (s, .error _) => (s, .error va)
  | (s, .ok x) => let (s, bs) := clusterRead s c x n; (s, .ok bs)
def copyBlocks (s : State) (c asid va : Nat) : Nat → State × Except Nat (List Byte)
  | 0 => (s, .ok [])
  | n + 1 =>
    match copyRead s c asid (va % 2 ^ 64) 64 with
    | (s, .error e) => (s, .error e)
    | (s, .ok bs) =>
      match copyBlocks s c asid (va + 64) n with
      | (s, .error e) => (s, .error e)
      | (s, .ok more) => (s, .ok (bs ++ more))

/-- The record that SH or DH names, read from memory (R204). -/
def copyRecord (s : State) (c : Nat) (r : CopyReq) (on : Bool) (h : Nat) : State × Except Nat (Option RecBits) :=
  if !on then (s, .ok none)
  else match copyBlocks s c r.asid (r.rcptr + 192 * (h % 4096)) 3 with
    | (s, .error e) => (s, .error e)
    | (s, .ok bs) => (s, .ok (some (BitVec.ofNat 1536 (bytesNat bs))))

/-! ### Start (R203 to R206) -/

/-- A field of a template. -/
def tmplField (t off n : Nat) : Nat := bitsOf t (8 * off) (8 * n)
def tmplSh (t : Nat) : Bool := t.testBit (8 * 0x16)
def tmplDh (t : Nat) : Bool := t.testBit (8 * 0x16 + 1)
def tmplPost (t : Nat) : Bool := t.testBit (8 * 0x16 + 2)
def tmplNob (t : Nat) : Bool := t.testBit (8 * 0x16 + 3)

/-- The request that a template and its records give. -/
def copyJob (r : CopyReq) (t : Nat) (sr dr : Option RecBits) : CopyJob :=
  let len := bitsOf r.word.toNat 12 12
  let disp := sext 32 (bitsOf r.word.toNat 32 32)
  let sbase := match sr with | some x => recBase x | none => tmplField t 0 8
  let dbase := match dr with | some x => recBase x | none => tmplField t 8 8
  let mc := if tmplField t 0x1A 2 = 0 then 1 else tmplField t 0x1A 2
  let mstr := sext 64 (tmplField t 0x20 8)
  { req := r, tmpl := r.word.toNat % 4096
    src := (((sbase : Int) + disp) % 2 ^ 64).toNat
    dsts := ((List.range 16).filter fun k => mc.testBit k).map fun k => (((dbase : Int) + k * mstr) % 2 ^ 64).toNat
    srcSwz := BitVec.ofNat 3 (match sr with | some x => recSwz x | none => 0)
    dstSwz := BitVec.ofNat 3 (match dr with | some x => recSwz x | none => 0)
    n := if len = 0 then tmplField t 0x10 4 else 64 * len
    off := 0, di := 0, nob := tmplNob t, bar := tmplField t 0x14 2 % 1024
    post := if tmplPost t then some (tmplField t 0x18 1, tmplField t 0x17 1 % 16, tmplField t 0x19 1) else none
    saved := [], buf := [] }

/-- A named record passes R135's checks in its own default order. -/
def recordValid : Option RecBits → Bool
  | none => true
  | some x => (checkRecord x (recOrder x) false false).isNone

/-- The checks of R204, with the zeros that R203 asks for. -/
def copyOk (size t : Nat) (j : CopyJob) (sr dr : Option RecBits) : Bool :=
  let mstr := sext 64 (tmplField t 0x20 8)
  tmplField t 0x16 1 < 16 && tmplField t 0x14 2 < 1024 && tmplField t 0x17 1 < 16 && tmplField t 0x1C 4 == 0 &&
    tmplField t 0x28 24 == 0 && (!tmplSh t || tmplField t 0 8 < 4096) && (!tmplDh t || tmplField t 8 8 < 4096) &&
    tmplField t 0x10 4 != 0 && tmplField t 0x10 4 % 64 == 0 && j.n != 0 &&
    j.src % 64 == 0 && (j.dsts.all fun d => d % 64 == 0) && mstr % 128 == 0 &&
    (if tmplPost t then tmplField t 0x18 1 < size && tmplField t 0x19 1 != 0
     else tmplField t 0x17 1 == 0 && tmplField t 0x18 1 == 0 && tmplField t 0x19 1 == 0) &&
    (1 < tmplField t 0x1A 2 || mstr == 0) && recordValid sr && recordValid dr

/-- The size of the team that made a request. -/
def requestTeamSize (s : State) (r : CopyReq) : Nat := match teamAt s r.team with | some t => t.img.cores | none => 1

/-- The template and the records that a request names, or the address that faults. -/
def templateAddr (r : CopyReq) : Nat := r.rcptr + 0xC0000 + 64 * (r.word.toNat % 4096)
def copyRecords (s : State) (c : Nat) (r : CopyReq) (t : Nat) : State × Except Nat (Nat × Option RecBits × Option RecBits) :=
  match copyRecord s c r (tmplSh t) (tmplField t 0 8) with
  | (s, .error va) => (s, .error va)
  | (s, .ok sr) =>
    match copyRecord s c r (tmplDh t) (tmplField t 8 8) with
    | (s, .error va) => (s, .error va)
    | (s, .ok dr) => (s, .ok (t, sr, dr))
def withTemplate (s : State) (c : Nat) (r : CopyReq) : Except Nat (List Byte) → State × Except Nat (Nat × Option RecBits × Option RecBits)
  | .error va => (s, .error va)
  | .ok bs => copyRecords s c r (bytesNat bs)
def copySetup (s : State) (c : Nat) (r : CopyReq) : State × Except Nat (Nat × Option RecBits × Option RecBits) :=
  let x := copyRead s c r.asid (templateAddr r % 2 ^ 64) 64
  withTemplate x.1 c r x.2
/-- The channel takes the request, or refuses its template or records. -/
def beginCopy (s : State) (c ch : Nat) (x : Chan) (r : CopyReq) (q : List CopyReq) (t : Nat) (sr dr : Option RecBits) : State :=
  let j := copyJob r t sr dr
  if copyOk (requestTeamSize s r) t j sr dr then
    modCtl (setChan s c ch { x with queue := q, job := some j }) c fun y =>
      { y with cpwp := Tab.set 0 y.cpwp ch (BitVec.ofNat 64 (j.dsts.headD 0)) }
  else copyEnds (copyFault (setChan s c ch { x with queue := q }) c ch 2 (templateAddr r) r) r.region
/-- The release of an aperture store has completed before its request starts (R260). -/
def releasedFor (s : State) (c : Nat) (r : CopyReq) : State :=
  match r.after with
  | none => s
  | some n => if (pendOf s c).any fun p => pendRelease p && pendSeq p == n then quiesce s c else s
/-- The request at the head of the channel starts: its template and records are read and checked (R204). -/
def copyStart (s : State) (c ch : Nat) : State :=
  let x := chanAt (coreAt s c) ch
  match x.job, x.queue with
  | none, r :: q =>
    if x.stopped then s
    else
      match copySetup (releasedFor s c r) c r with
      | (s, .error va) => stopChan s c ch 3 va r
      | (s, .ok (t, sr, dr)) => beginCopy s c ch x r q t sr dr
  | _, _ => s
def execCopyStart (core ch : Nat) (s : State) : Out := .next (copyStart s core ch)

/-! ### Landing (R205, R206) -/

/-- The 16-byte chunks of a piece: virtual addresses after the swizzle. -/
def chunks (base n : Nat) (swz : BitVec 3) : List Nat := (List.range (n / 16)).map fun i => swizzle ((base + 16 * i) % 2 ^ 64) swz.toNat

/-- Where the line of an address is; or the address, when it does not translate. -/
def copyPlace (s : State) (c asid va : Nat) (write : Bool) : State × Except Nat Xl :=
  match dieTranslate s (dieOf c) asid va write with
  | (s, .error _) => (s, .error va)
  | (s, .ok x) => (s, .ok { x with pa := x.pa / 128 * 128 })

/-- The 16 bytes of a line at a chunk, as the request finds them: those that it has overwritten are kept in `saved` (R205). -/
def chunkBytes (saved : Tab Byte) (x : Xl) (line : List Byte) (va : Nat) : List Byte :=
  (List.range 16).map fun i =>
    match Tab.look saved (x.pa + va % 128 + i) with
    | some b => b
    | none => line.getD (va % 128 + i) 0
/-- Read the source line at the end of what has been read: all bytes of the request in it (R205). -/
def readLine (s : State) (c : Nat) (j : CopyJob) : State × Except Nat CopyJob :=
  let from_ := j.src + j.off + j.buf.length
  let len := min (j.n - j.off - j.buf.length) (128 - from_ % 128)
  match copyPlace s c j.req.asid (from_ % 2 ^ 64) false with
  | (s, .error va) => (s, .error va)
  | (s, .ok x) =>
    let (s, line) := clusterRead s c x 128
    (s, .ok { j with buf := j.buf ++ (chunks from_ len j.srcSwz).flatMap (chunkBytes j.saved x line) })
/-- Read on until `len` bytes are there: a piece meets at most two source lines. -/
def readAhead (s : State) (c len : Nat) (j : CopyJob) : Nat → State × Except Nat CopyJob
  | 0 => (s, .ok j)
  | n + 1 =>
    if len ≤ j.buf.length then (s, .ok j)
    else
      match readLine s c j with
      | (s, .error va) => (s, .error va)
      | (s, .ok j) => readAhead s c len j n

/-- The 16-byte places that the rest of the source still has to be read from, as far as they translate. -/
def sourcePlaces (s : State) (c : Nat) (j : CopyJob) : List Nat :=
  (chunks (j.src + j.off + j.buf.length) (j.n - j.off - j.buf.length) j.srcSwz).filterMap fun va =>
    match (dieTranslate s (dieOf c) j.req.asid va false).2 with
    | .ok x => some (x.pa / 16)
    | .error _ => none

/-- Bytes about to be written that the source still needs are kept as they were (R205). -/
def keepOld (s : State) (c : Nat) (need : List Nat) (x : Xl) (vas : List Nat) (saved : Tab Byte) : Tab Byte :=
  vas.foldl (fun m va =>
    let pa := x.pa + va % 128
    if need.contains (pa / 16) && (Tab.look m pa).isNone then
      let bs := (clusterRead s c { x with pa := pa } 16).2
      (List.range 16).foldl (fun m i => Tab.put m (pa + i) (bs.getD i 0)) m
    else m) saved

/-- The bytes of a piece at their places in the destination line. -/
def pieceLine : List Nat → List Byte → LineData × LineMask
  | [], _ => (0, 0)
  | va :: t, bs =>
    let (d, m) := lineSpan (va % 128) (bs.take 16)
    let (d', m') := pieceLine t (bs.drop 16)
    (d ||| d', m ||| m')
/-- The requesting core's own clean bytes of a line follow what its copy has written (R263). -/
def patchClean (s : State) (g line : Nat) (d : LineData) (m : LineMask) : State :=
  setWays s g ((waysOf s g).map fun y => if y.line == line then { y with data := mergeLine y.data d (m &&& ~~~ y.dirty) } else y)
/-- So do its die's of an NC line: a dirty byte goes home later (R255, R272). -/
def patchClean2 (s : State) (die line : Nat) (d : LineData) (m : LineMask) : State :=
  match l2Find s die line with
  | some z => l2Put s die { z with data := mergeLine z.data d (m &&& ~~~ z.dirty) }
  | none => s
/-- A line is written at the place that serves it at DEVICE scope (R206), in one write. -/
def landLine (s : State) (c : Nat) (x : Xl) (d : LineData) (m : LineMask) : State :=
  if x.home ≠ 0 then singleLine s x d m
  else
    let s := patchClean (sliceWrite s (x.pa / 128) d m x.nc) (clusterOf c) (x.pa / 128) d m
    if x.nc then patchClean2 s (dieOf c) (x.pa / 128) d m else s

/-- A later piece of the request writes into the line of `dst`: lines by their virtual addresses (DESIGN CHOICE, log entry 88). -/
def laterWrite (j : CopyJob) (dst len : Nat) : Bool :=
  (List.range j.dsts.length).any fun k =>
    let d := j.dsts.getD k 0
    let from_ := d + (if k ≤ j.di then j.off + len else j.off)
    from_ < d + j.n && from_ / 128 ≤ dst / 128 && dst / 128 ≤ (d + j.n - 1) / 128

/-- What a landing does at the place served (R206): the barrier, the full bit, CPWP. -/
def landed (s : State) (c ch : Nat) (j : CopyJob) (dst len : Nat) (x : Xl) : State :=
  let s := if j.nob then s else barrierEvent s j.req.team c j.bar (masterOf s c) j.req.bundle (landBytes len)
  let s := if x.home = 1 && !laterWrite j dst len then setFull s (x.pa / 128) true else s
  if j.di = 0 then modCtl s c fun y => { y with cpwp := Tab.set 0 y.cpwp ch (BitVec.ofNat 64 (dst + len)) } else s

/-- The last event of a request: the post, and the channel goes on. -/
def copyDone (s : State) (c ch : Nat) (j : CopyJob) : State :=
  let s := setChan s c ch { chanAt (coreAt s c) ch with job := none }
  let s := copyEnds s j.req.region
  match j.post with
  | none => s
  | some (l, k, n) =>
    let dst := match teamAt s j.req.team with | some t => t.place.getD l c | none => c
    if dst = c then postK s c k n
    else modSys s fun y => { y with posts := y.posts ++ [{ team := j.req.team, bundle := j.req.bundle, src := c, dst := dst, bar := false, idx := k, n := n }] }

/-- The destination of the next piece, and its bytes. -/
def pieceDst (j : CopyJob) : Nat := (j.dsts.getD j.di 0 + j.off) % 2 ^ 64
def pieceLen (j : CopyJob) : Nat := min (j.n - j.off) (128 - pieceDst j % 128)
/-- A copy waits for a scratchpad whose clock stands: the destination's, or that of a line to be read (R370; DESIGN CHOICE, log
entry 68). -/
def lineStands (s : State) (c : Nat) (j : CopyJob) : Bool :=
  let stands (va : Nat) (write : Bool) : Bool :=
    match (dieTranslate s (dieOf c) j.req.asid (va % 2 ^ 64) write).2 with
    | .ok x => scratchStands s x.pa
    | .error _ => false
  let from_ := j.src + j.off + j.buf.length
  someStands s && (stands (swizzle (pieceDst j) j.dstSwz.toNat) true ||
    (decide (j.buf.length < pieceLen j) && (stands from_ false || stands (from_ + (128 - from_ % 128)) false)))
/-- Channels of a cluster that have a line ready: core, channel, lines waited. -/
def readyChans (s : State) (g : Nat) : List (Nat × Nat × Nat) :=
  [4 * g, 4 * g + 1, 4 * g + 2, 4 * g + 3].flatMap fun c => (coreAt s c).mem.chans.filterMap fun p =>
    if (match p.2.job with | some j => !lineStands s c j | none => false) && !p.2.stopped then some (c, p.1, p.2.waited) else none
/-- After a line of one channel every other ready channel has waited one line more. -/
def countWaits (s : State) (c ch : Nat) : State :=
  (readyChans s (clusterOf c)).foldl (fun s p =>
    setChan s p.1 p.2.1 { chanAt (coreAt s p.1) p.2.1 with waited := if p.1 = c && p.2.1 = ch then 0 else p.2.2 + 1 }) s
/-- No ready channel has waited behind more than 255 lines, and each can still land one before it has (R206). -/
def servedFairly (s : State) (g : Nat) : Bool :=
  let l := readyChans s g
  (l.all fun p => p.2.2 ≤ 255) && (List.range 256).all fun k => (l.filter fun p => 255 ≤ p.2.2 + k).length ≤ k + 1
/-- The ready channel of a cluster that has waited longest, the first of several. -/
def nextChan (s : State) (g : Nat) : Option (Nat × Nat × Nat) :=
  (readyChans s g).foldl (fun b p =>
    match b with
    | none => some p
    | some q => if q.2.2 < p.2.2 then some p else some q) none

/-- A piece that has been read and translated lands at one destination. -/
def landPiece (s : State) (c ch : Nat) (j : CopyJob) (dst len : Nat) (x : Xl) : State :=
  let vas := chunks dst len j.dstSwz
  let saved := keepOld s c (sourcePlaces s c j) x vas j.saved
  let (d, m) := pieceLine vas j.buf
  let s := landed (landLine s c x d m) c ch j dst len x
  let last := j.dsts.length ≤ j.di + 1
  let j : CopyJob := if last then { j with off := j.off + len, di := 0, saved := saved, buf := j.buf.drop len } else { j with di := j.di + 1, saved := saved }
  let s := countWaits (setChan s c ch { chanAt (coreAt s c) ch with job := some j }) c ch
  if j.n ≤ j.off then copyDone s c ch j else s
/-- One line lands at one destination. -/
def copyLine (s : State) (c ch : Nat) : State :=
  let x := chanAt (coreAt s c) ch
  match x.job with
  | none => s
  | some j =>
    if x.stopped || lineStands s c j then s
    else
      let dst := pieceDst j
      let len := pieceLen j
      match readAhead s c len j 2 with
      | (s, .error va) => stopChan s c ch 0 va j.req
      | (s, .ok j) =>
        match copyPlace s c j.req.asid (swizzle dst j.dstSwz.toNat) true with
        | (s, .error va) => stopChan (setChan s c ch { chanAt (coreAt s c) ch with job := some j }) c ch 1 va j.req
        | (s, .ok x) => landPiece s c ch j dst len x
/-- R206: a line whose landing leaves every other channel of the cluster its turn. -/
def execCopyLineLand (core ch : Nat) (s : State) : Out :=
  let t := copyLine s core ch
  .next (if servedFairly t (clusterOf core) then t else s)

end Sys2Proof.Machine
end

