-- ==== Sys2Proof/Machine/Reward.lean ====
section
/-! DEFINITION. The Orangery and the reward instructions: registrations, rewards, time-outs, orphans, the backward
scan, the rings, the control fields and the counters (R322 to R344). -/

namespace Sys2Proof.Machine
open Sys2Proof

/-! ### Counters (R340) -/

/-- Queue counters: 0 RELJ, 1 RELT, 2 DROPT, 3 RELS, 4 DROPS, 5 DUP, 6 LATE, 7 RANGE, 8 RINGW, 9 BADMAP. -/
def countLq (s : State) (q i : Nat) : State :=
  modOra s fun o => { o with ctr := Tab.set 0 o.ctr (16 * q + i) (min ctrMax (Tab.get 0 o.ctr (16 * q + i) + 1)) }
/-- Device-wide counters: 0 ORPHJ, 1 ORPHEXP, 2 ORPHFULL, 3 REGFULL, 4 BADMSG. -/
def countOra (s : State) (i : Nat) : State :=
  modOra s fun o => { o with ctr := Tab.set 0 o.ctr (256 + i) (min ctrMax (Tab.get 0 o.ctr (256 + i) + 1)) }
/-- LIVE. -/
def liveEpisodes (s : State) : Nat := s.ora.table.length

def lqAt (s : State) (q : Nat) : LQueue := Tab.get .reset s.ora.lq q
def setLq (s : State) (q : Nat) (x : LQueue) : State := modOra s fun o => { o with lq := Tab.set .reset o.lq q x }

/-- Folop has assigned the queue to the partition (R333). -/
def lqAssigned (s : State) (part q : Nat) : Bool :=
  match Tab.look s.sched.parts part with
  | some p => p.lqueues.getLsbD q
  | none => false

/-! ### Memory as the Orangery sees it (R336, R339) -/

def oraRead (s : State) (asid va n : Nat) : State × Option Nat :=
  match pavTranslate s asid (va % 2 ^ 64) false with
  | (s, .error _) => (s, none)
  | (s, .ok x) => let (s, bs) := agentRead s x n; (s, some (bytesNat bs))
/-- A write of bytes; false when it meets a fault, or an ASID that is being torn down. -/
def oraPut (s : State) (asid va : Nat) (bs : List Byte) : State × Bool :=
  if (asidAt s asid).dying then (s, false)
  else
  match pavTranslate s asid (va % 2 ^ 64) true with
  | (s, .error _) => (s, false)
  | (s, .ok x) => (agentWrite s x bs, true)
/-- A write of n bytes. -/
def oraWrite (s : State) (asid va n v : Nat) : State × Bool := oraPut s asid va (natBytes n v)
/-- Writes that go on while none has met a fault; those made before a fault stand (R339). -/
def thenWrite (r : State × Bool) (f : State → State × Bool) : State × Bool := if r.2 then f r.1 else r

/-! ### Records that software changes (R338)

From its registration on, the Orangery's view of a record's bytes is noted in `image`.  Where memory holds another byte
when the Orangery writes, software has changed that byte, and what is written there is a free value (DESIGN CHOICE, log entry 56). -/

def recKey (asid va : Nat) : Nat := asid * 2 ^ 64 + va % 2 ^ 64
/-- The noted bytes; none of a byte that could not be read when the record was registered. -/
def recSeen (s : State) (asid va n : Nat) : List (Option Byte) := (List.range n).map fun i => Tab.look s.ora.image (recKey asid (va + i))
/-- The bytes that memory holds. -/
def recNow (s : State) (asid va n : Nat) : List Byte := natBytes n ((oraRead s asid va n).2.getD 0)
def noteBytes (asid : Nat) : Nat → List Byte → Tab Byte → Tab Byte
  | _, [], m => m
  | va, b :: t, m => noteBytes asid (va + 1) t (Tab.put m (recKey asid va) b)
/-- Memory holds the byte that was noted. -/
def sameByte (o : Byte) : Option Byte → Bool
  | none => true
  | some i => o == i
/-- The bytes that are written, from those that memory holds, those noted and those to write, and the next draw. -/
def recMix (d : Nat) : List Byte → List (Option Byte) → List Byte → List Byte × Nat
  | o :: os, i :: is, b :: bs =>
    let r := recMix (if sameByte o i then d else d + 1) os is bs
    ((if sameByte o i then b else Config.recordByte d) :: r.1, r.2)
  | _, _, bs => (bs, d)
/-- A write into a record that the Orangery holds. -/
def recWrite (s : State) (asid va n v : Nat) : State × Bool :=
  let m := recMix s.ora.draws (recNow s asid va n) (recSeen s asid va n) (natBytes n v)
  match oraPut s asid va m.1 with
  | (s, false) => (s, false)
  | (s, true) => (modOra s fun o => { o with image := noteBytes asid va m.1 o.image, draws := m.2 }, true)
/-- What an earlier registration has noted of these bytes is no more. -/
def forgetNotes (s : State) (asid va n : Nat) : State :=
  modOra s fun o => { o with image := o.image.filter fun p =>
    !(p.1 / 2 ^ 64 == asid && decide ((p.1 % 2 ^ 64 + 2 ^ 64 - va % 2 ^ 64) % 2 ^ 64 < n)) }
/-- Note the record as it stands, in blocks of 16 bytes, those that can be read. -/
def noteRecord (asid : Nat) : Nat → Nat → State → State
  | 0, _, s => s
  | n + 1, va, s =>
    noteRecord asid n (va + 16) (match (oraRead s asid va 16).2 with
      | some v => modOra s fun o => { o with image := noteBytes asid va (natBytes 16 v) o.image }
      | none => s)

/-! ### The tables (R332) -/

/-- R332. -/
def rjHash (part : Nat) (traj : Nat) : Nat :=
  bitsOf traj 0 15 ^^^ bitsOf traj 15 15 ^^^ bitsOf traj 30 15 ^^^ bitsOf traj 45 15 ^^^ (bitsOf traj 60 4 * 2 ^ 11) ^^^ (part * 2 ^ 7)

def isKey (part : Nat) (traj : Dword) (e : Episode) : Bool := e.part == part && e.traj == traj
def episodeAt (s : State) (part : Nat) (traj : Dword) : Option Episode := s.ora.table.find? (isKey part traj)
def setEpisode (s : State) (e : Episode) : State :=
  modOra s fun o => { o with table := o.table.map fun x => if isKey e.part e.traj x then e else x }
/-- The entry is freed and its key enters the release filter (R332). -/
def freeEpisode (s : State) (e : Episode) : State :=
  modOra s fun o => { o with
    table := o.table.filter (fun x => !isKey e.part e.traj x)
    filter := (o.filter ++ [(⟨e.part, e.traj, e.lq, timebase s⟩ : Released)]).drop (o.filter.length + 1 - 16384) }
/-- The scan of the first entry handed to it reads γ and λ at the start of its own run (R328, R336). -/
def startScan (s : State) : State :=
  match s.ora.scans with
  | [] => s
  | w :: _ =>
    match episodeAt s w.1 w.2 with
    | none => s
    | some e => if e.coef.isSome then s else setEpisode s { e with coef := some ((lqAt s e.lq).gamma, (lqAt s e.lq).lambda) }
/-- A write of the record met a fault (R339): the episode is neither scanned nor appended any more. -/
def dropBadMap (s : State) (e : Episode) : State :=
  let other (w : Nat × Dword) : Bool := w != (e.part, e.traj)
  countLq (startScan (modOra (freeEpisode s e) fun o =>
    { o with scans := o.scans.filter other, held := o.held.filter other, waits := o.waits.filter other })) e.lq 9

/-- The byte and bit of mark bit n. -/
def markAddr (e : Episode) (n : Nat) : Nat := e.addr + 64 + 16 * e.steps + n / 8
def markBit (s : State) (e : Episode) (n : Nat) : State × Option Bool :=
  match oraRead s e.asid (markAddr e n) 1 with
  | (s, none) => (s, none)
  | (s, some b) => (s, some (b.testBit (n % 8)))
/-- Set the mark bits of a step. -/
def setMark (s : State) (e : Episode) (step : Nat) (done : Bool) : State × Bool :=
  match oraRead s e.asid (markAddr e (2 * step)) 1 with
  | (s, none) => (s, false)
  | (s, some b) => recWrite s e.asid (markAddr e (2 * step)) 1 (b ||| ((if done then 3 else 1) * 2 ^ (2 * step % 8)))

/-! ### Rewards (R327, R334, R335) -/

/-- Staleness as CURVER and LAG stand (R329). -/
def staleNow (s : State) (e : Episode) : Bool :=
  let x := lqAt s e.lq
  x.lag.toNat ≤ x.curver.toNat && e.pver.toNat < x.curver.toNat - x.lag.toNat
/-- The entry goes to the scan, behind those already handed to it; its scan starts when none is ahead (R336). -/
def toScan (s : State) (e : Episode) : State :=
  let s := setEpisode s { e with state := .scan, doneAt := timebase s }
  startScan (modOra s fun o => { o with scans := o.scans ++ [(e.part, e.traj)] })
/-- The first entry handed to the scan has waited for the end of its tick. -/
def scanDue (s : State) : Bool :=
  match s.ora.scans with
  | [] => false
  | w :: _ => match episodeAt s w.1 w.2 with | some e => e.doneAt < timebase s | none => true

/-- A reward meets a registered episode. -/
def rewardEpisode (s : State) (e : Episode) (step : Nat) (done : Bool) (value : Word) : State :=
  if e.steps ≤ step then countLq s e.lq 7
  else
    match markBit s e (2 * step) with
    | (s, none) => dropBadMap s e
    | (s, some true) => countLq s e.lq 5
    | (s, some false) =>
      if e.state != .open_ then countLq s e.lq 6
      else
        match thenWrite (recWrite s e.asid (e.addr + 64 + 16 * step) 4 value.toNat) fun s => setMark s e step done with
        | (s, false) => dropBadMap s e
        | (s, true) =>
          let e := { e with filled := e.filled + 1 }
          if e.filled = e.steps then toScan s { e with joined := true } else setEpisode s e

/-- A REWARD message (R334). -/
def rewardMessage (s : State) (part : Nat) (traj : Dword) (step : Half) (done : Bool) (value : Word) : State :=
  match episodeAt s part traj with
  | some e => rewardEpisode s e step.toNat done value
  | none =>
    match s.ora.filter.reverse.find? fun r =>
        r.part == part && r.traj == traj && timebase s ≤ r.time + 1000 * s.ora.olife.toNat with
    | some r => countLq s r.lq 6
    | none =>
      if 16384 ≤ s.ora.orphans.length then countOra s 2
      else modOra s fun o => { o with orphans := o.orphans ++ [⟨part, traj, step, done, value, timebase s⟩] }

/-- The tick has come to registrations, posts, control writes and pops: its expiries are over (R334). -/
def noteServed (s : State) : State := modOra s fun o => { o with served := some (timebase s) }
/-- R334. -/
def execReward (pn : Nat) (traj : BitVec 64) (step : BitVec 16) (done : Bool) (value : BitVec 32) (s : State) : Out :=
  .next (rewardMessage (noteServed s) pn traj step done value)

/-! ### Requests of a core (R342, R343) -/

/-- Take the oldest request, which is served now. -/
def popRequest (s : State) (c : Nat) : State := modCore (noteServed s) c fun k => { k with rjq := k.rjq.drop 1 }
/-- The answer reaches G d. -/
def answerCore (s : State) (c d : Nat) (v : Dword) : State :=
  modSeq s c fun q => { q with g := putG q.g d v, unchk := q.unchk.filter (fun r => r != d) }

/-- Orphans of the new episode's key join, in arrival order (R335). -/
def joinOrphans (s : State) (part : Nat) (traj : Dword) : List Orphan → State
  | [] => s
  | o :: t =>
    let s :=
      match episodeAt s part traj with
      -- an earlier one's write has dropped the episode (R339): the message meets what there is now
      | none => rewardMessage s part traj o.step o.done o.reward
      | some e => rewardEpisode (countOra (setEpisode s { e with orphan := true }) 0) { e with orphan := true } o.step.toNat o.done o.reward
    joinOrphans s part traj t

/-- The zeros that RJREG writes: STATUS, RTIME and the mark area (R324). -/
def clearMarks (asid va : Nat) : Nat → State → State × Bool
  | 0, s => (s, true)
  | n + 1, s => thenWrite (oraWrite s asid va 16 0) fun s => clearMarks asid (va + 16) n s
def clearRecord (s : State) (e : Episode) : State × Bool :=
  thenWrite (thenWrite (oraWrite s e.asid (e.addr + 0x14) 4 0) fun s => oraWrite s e.asid (e.addr + 0x18) 8 0) fun s =>
    clearMarks e.asid (e.addr + 64 + 16 * e.steps) ((e.steps + 63) / 64) s

/-- A registration (R326): the state and the status. -/
def register (s : State) (part asid addr : Nat) : State × Nat :=
  match oraRead s asid addr 64 with
  | (s, none) => (s, 3)
  | (s, some h) =>
    let steps := bitsOf h (8 * 0x0C) 16
    let lq := bitsOf h (8 * 0x0E) 4
    let traj : Dword := BitVec.ofNat 64 (bitsOf h 0 64)
    if steps = 0 || 4096 < steps || bitsOf h (8 * 0x0E + 4) 12 ≠ 0 || bitsOf h (8 * 0x20) 256 ≠ 0 || (lqAt s lq).ring = 0 then (s, 3)
    else if (episodeAt s part traj).isSome then (s, 2)
    else if 8 ≤ (s.ora.table.filter fun e => rjHash e.part e.traj.toNat == rjHash part traj.toNat).length then (countOra s 3, 1)
    else
      let e : Episode :=
        { part := part, traj := traj, addr := addr, asid := asid, steps := steps, lq := lq, pver := BitVec.ofNat 32 (bitsOf h 64 32)
          deadline := if (lqAt s lq).tmo = 0 then none else some (timebase s + 1000 * (lqAt s lq).tmo.toNat)
          filled := 0, state := .open_, joined := false, timeout := false, orphan := false, stale := false, missing := 0, doneAt := 0, coef := none }
      let s := modOra s fun o => { o with table := o.table ++ [e] }
      match clearRecord s e with
      | (s, false) => (dropBadMap s e, 0)
      | (s, true) =>
        let blocks := 4 + e.steps + (e.steps + 63) / 64
        let s := noteRecord e.asid blocks e.addr (forgetNotes s e.asid e.addr (16 * blocks))
        let mine := s.ora.orphans.filter fun o => o.part == part && o.traj == traj
        let s := modOra s fun o => { o with orphans := o.orphans.filter fun x => !(x.part == part && x.traj == traj) }
        (joinOrphans s part traj mine, 0)

/-- R326: the core's oldest request is an RJREG. -/
def execRegistrationServe (core : Nat) (s : State) : Out :=
  match (coreAt s core).rjq with
  | (kind, d, a, x) :: _ =>
    if kind = 0 || kind = 4 then
      let (s, st) := register (popRequest s core) (x.toNat / 4096) (x.toNat % 4096) a.toNat
      .next (if kind = 0 then answerCore s core d (BitVec.ofNat 64 st) else s)
    else .next s
  | [] => .next s

/-- The base, ASID, head and tail of a ring of a queue. -/
def ringOf (q : LQueue) (stale : Bool) : Nat × Nat × Nat × Nat :=
  if stale then (q.sring.toNat, q.sringAsid, q.shead, q.stail) else (q.ring.toNat, q.ringAsid, q.head, q.tail)

/-- R329, R338: the oldest entry of the ring, or 0; a nonzero answer acquires at DEVICE scope (R330). -/
def popEntry (s : State) (q : Nat) (stale : Bool) : State × Nat :=
  let x := lqAt s q
  let (base, asid, head, tail) := ringOf x stale
  if base = 0 || head = tail then (s, 0)
  else
    match oraRead s asid (base + 8 * (head % 4096)) 8 with
    | (s, none) => (s, 0)
    | (s, some v) => (setLq s q (if stale then { x with shead := head + 1 } else { x with head := head + 1 }), v)
def execPopServe (core : Nat) (s : State) : Out :=
  match (coreAt s core).rjq with
  | (kind, d, a, _) :: _ =>
    if kind = 5 then .next (popRequest s core)
    else if kind = 2 then
      let (s, v) := popEntry (popRequest s core) (a.toNat % 16) (a.getLsbD 4)
      let s := if v = 0 then s else acquire s core 4
      .next (answerCore s core d (BitVec.ofNat 64 v))
    else .next s
  | [] => .next s

/-- A control field's write (R325). -/
def applyControl (s : State) (field q : Nat) (v : Dword) (asid : Nat) : State :=
  let x := lqAt s q
  let w : Word := v.setWidth 32
  match field with
  | 0 => setLq s q { x with gamma := w }
  | 1 => setLq s q { x with lambda := w }
  | 2 => setLq s q { x with tmo := w }
  | 3 => setLq s q { x with policy := v.setWidth 2 }
  | 4 => setLq s q { x with curver := w }
  | 5 => setLq s q { x with lag := w }
  | 6 => setLq s q { x with ring := v, ringAsid := asid, head := 0, tail := 0 }
  | 7 => setLq s q { x with sring := v, sringAsid := asid, shead := 0, stail := 0 }
  | 15 => modOra s fun o => { o with olife := w }
  | _ => s
def execControlServe (core : Nat) (s : State) : Out :=
  match (coreAt s core).rjq with
  | (3, f, v, x) :: _ => .next (applyControl (popRequest s core) (f / 16) (f % 16) v (x.toNat % 4096))
  | _ => .next s

/-- The oldest request is a posted reward. -/
def servePost (s : State) (c : Nat) : State :=
  match (coreAt s c).rjq with
  | (1, part, traj, x) :: _ => rewardMessage (popRequest s c) part traj (x.setWidth 16) (x.getLsbD 16) (x.extractLsb' 32 32)
  | _ => s

/-! ### Expiries (R329, R334) -/

/-- The open episode whose deadline is due first. -/
def firstDue (now : Nat) : List Episode → Option Episode
  | [] => none
  | e :: t =>
    let rest := firstDue now t
    match e.state, e.deadline with
    | .open_, some d =>
      if now < d then rest
      else
        match rest with
        | none => some e
        | some f =>
          let fd := f.deadline.getD 0
          if d < fd || (d = fd && (e.part < f.part || (e.part = f.part && e.traj.toNat < f.traj.toNat))) then some e else some f
    | _, _ => rest

/-- Zero into every unfilled REWARD. -/
def zeroFill (s : State) (e : Episode) : List Nat → State × Bool
  | [] => (s, true)
  | t :: ts =>
    match markBit s e (2 * t) with
    | (s, none) => (s, false)
    | (s, some true) => zeroFill s e ts
    | (s, some false) => thenWrite (recWrite s e.asid (e.addr + 64 + 16 * t) 4 0) fun s => zeroFill s e ts

/-- The tick's expiries are over (R334). -/
def expiriesOver (s : State) : Bool := s.ora.served == some (timebase s)
/-- The episode whose deadline expires now. -/
def dueEpisode (s : State) : Option Episode := if expiriesOver s then none else firstDue (timebase s) s.ora.table
def execDeadlineExpiry (s : State) : Out :=
  match dueEpisode s with
  | none => .next s
  | some e =>
    if (lqAt s e.lq).policy.getLsbD 0 then .next (countLq (freeEpisode s e) e.lq 2)
    else
      match zeroFill s e (List.range e.steps) with
      | (s, false) => .next (dropBadMap s e)
      | (s, true) => .next (toScan s { e with timeout := true, missing := e.steps - e.filled })

/-- The oldest orphan has outlived OLIFE. -/
def orphanDue (s : State) : Bool :=
  !expiriesOver s && (match s.ora.orphans with
    | o :: _ => decide (o.arrival + 1000 * s.ora.olife.toNat ≤ timebase s)
    | [] => false)
def execOrphanExpiry (s : State) : Out :=
  if orphanDue s then .next (countOra (modOra s fun o => { o with orphans := o.orphans.drop 1 }) 1) else .next s

/-! ### The backward scan and the release (R328, R329, R336, R337) -/

def round32 (v : Nat) : Nat := fp32.quiet v
/-- One step of R328 and R336: the advantage, and the return. -/
def scanStep (gamma gl r v vn a : Nat) (done : Bool) : Nat × Nat :=
  let u := if done then round32 r else (fFma fp32 .rne false gamma vn r).1
  let delta := (fSub fp32 .rne u v).1
  let a := if done then round32 delta else (fFma fp32 .rne false gl a delta).1
  (a, (fAdd fp32 .rne a v).1)

/-- The steps from t - 1 down; higher steps are written first. -/
def scanSteps (s : State) (e : Episode) (gamma gl : Nat) : Nat → Nat → Nat → State × Bool
  | 0, _, _ => (s, true)
  | t + 1, vn, a =>
    match oraRead s e.asid (e.addr + 64 + 16 * t) 8, markBit s e (2 * t + 1) with
    | (s, some rv), (_, some done) =>
      let v := bitsOf rv 32 32
      let (a, ret) := scanStep gamma gl (bitsOf rv 0 32) v vn a done
      thenWrite (recWrite s e.asid (e.addr + 64 + 16 * t + 8) 8 (a + ret * 2 ^ 32)) fun s => scanSteps s e gamma gl t v a
    | _, _ => (s, false)

/-- Append the record's address to its ring (R338); the entry is freed. -/
def appendRing (s : State) (e : Episode) : State :=
  let x := lqAt s e.lq
  let (base, asid, _, tail) := ringOf x e.stale
  match oraWrite s asid (base + 8 * (tail % 4096)) 8 e.addr with
  | (s, false) => dropBadMap s e
  | (s, true) =>
    let s := setLq s e.lq (if e.stale then { x with stail := tail + 1 } else { x with tail := tail + 1 })
    countLq (freeEpisode s e) e.lq (if e.stale then 3 else if e.joined then 0 else 1)

def ringFull (s : State) (q : Nat) (stale : Bool) : Bool :=
  let (_, _, head, tail) := ringOf (lqAt s q) stale
  4096 ≤ tail - head
/-- Releases of that ring wait already. -/
def ringWaits (s : State) (q : Nat) (stale : Bool) : Bool :=
  s.ora.waits.any fun w => match episodeAt s w.1 w.2 with | some e => e.lq == q && e.stale == stale | none => false

/-- STATUS (R324). -/
def statusWord (e : Episode) : Nat :=
  (if e.joined then 1 else 0) + (if e.timeout then 2 else 0) + (if e.stale then 4 else 0) + (if e.orphan then 8 else 0) + e.missing * 2 ^ 16

/-- Staleness is judged, STATUS and RTIME are written, the record is appended or waits. -/
def releaseEpisode (s : State) (e : Episode) : State :=
  let x := lqAt s e.lq
  let stale := staleNow s e
  if stale && (x.policy.getLsbD 1 || x.sring = 0) then countLq (freeEpisode s e) e.lq 4
  else
    let e := { e with stale := stale }
    match thenWrite (recWrite s e.asid (e.addr + 0x14) 4 (statusWord e)) fun s => recWrite s e.asid (e.addr + 0x18) 8 (timebase s) with
    | (s, false) => dropBadMap s e
    | (s, true) =>
      if ringFull s e.lq stale || ringWaits s e.lq stale then
        countLq (modOra (setEpisode s { e with state := .wait_ }) fun o => { o with waits := o.waits ++ [(e.part, e.traj)] }) e.lq 8
      else appendRing s e

/-- An episode that completed in the same tick for the same queue, with a lower TRAJ, has not been released (R329); which ring each
goes to does not matter (DESIGN CHOICE, log entry 99). -/
def goesBefore (s : State) (e : Episode) (w : Nat × Dword) : Bool :=
  match episodeAt s w.1 w.2 with
  | some x => x.doneAt == e.doneAt && x.lq == e.lq && decide (w.2.toNat < e.traj.toNat)
  | none => false
/-- A scanned episode that can be released. -/
def releasable (s : State) : Option Episode :=
  s.ora.held.findSome? fun w =>
    match episodeAt s w.1 w.2 with
    | none => none
    | some e => if (s.ora.scans ++ s.ora.held).any (goesBefore s e) then none else some e
/-- The scanned episodes are released, as far as they can be, those of one tick in increasing TRAJ (R329). -/
def releaseHeld : Nat → State → State
  | 0, s => s
  | n + 1, s =>
    match releasable s with
    | none => s
    | some e => releaseHeld n (releaseEpisode (modOra s fun o => { o with held := o.held.filter fun w => w != (e.part, e.traj) }) e)
/-- The record's values are computed and written, with γ and λ as read at the start of the scan. -/
def scanEpisode (s : State) (e : Episode) : State × Bool :=
  let c := e.coef.getD ((lqAt s e.lq).gamma, (lqAt s e.lq).lambda)
  match oraRead s e.asid (e.addr + 0x10) 4 with
  | (s, none) => (s, false)
  | (s, some boot) => scanSteps s e c.1.toNat (fMul fp32 .rne c.1.toNat c.2.toNat).1 e.steps boot 0
/-- The scan of the first entry handed to it is over: the next one starts, and what can be released is. -/
def runScan (s : State) : State :=
  match s.ora.scans with
  | [] => s
  | w :: t =>
    match episodeAt s w.1 w.2 with
    | none => startScan (modOra s fun o => { o with scans := t })
    | some e =>
      match scanEpisode s e with
      | (s, false) => dropBadMap s e
      | (s, true) =>
        let s := startScan (modOra s fun o => { o with scans := t, held := o.held ++ [w] })
        releaseHeld s.ora.held.length s
/-- R336: not before the tick is over in which the entry was handed to the scan (R329). -/
def execBackwardScan (s : State) : Out := .next (if scanDue s then runScan s else s)

/-- R337: a pop has freed an entry, and the first waiting release of the ring is appended. -/
def execRingAppend (queue : Nat) (stale : Bool) (s : State) : Out :=
  if ringFull s queue stale then .next s
  else
    match s.ora.waits.find? fun w => match episodeAt s w.1 w.2 with | some e => e.lq == queue && e.stale == stale | none => false with
    | none => .next s
    | some w =>
      let s := modOra s fun o => { o with waits := o.waits.filter fun y => y != w }
      match episodeAt s w.1 w.2 with
      | none => .next s
      | some e => .next (appendRing s e)

/-! ### The instructions (R322, R333, R342, R344) -/

/-- A core's queue of 16 requests is full: the bundle holds. -/
def rjFull (s : State) : Bool := 16 ≤ (coreAt s s.me).rjq.length
/-- A request joins the core's queue. -/
def sendRequest (s : State) (kind d : Nat) (v x : Dword) : State :=
  modCore s s.me fun k => { k with rjq := k.rjq ++ [(kind, d, v, x)] }
/-- Partition and ASID of the issuing team. -/
def issuer (s : State) : Nat × Nat := ((coreAt s s.me).part, (coreAt s s.me).ctl.asid.toNat)
def issuerWord (s : State) : Dword := BitVec.ofNat 64 ((issuer s).1 * 4096 + (issuer s).2)

/-- R326, R342, R344: a release at DEVICE scope, then the request. -/
def execRjreg (d a : BitVec 5) (s : State) : Out :=
  if rjFull s then .next s
  else
    match checkAccess s (.rjreg d a) (srcG s a).toNat 64 true 0 with
    | .trap s => .next s
    | .ok s x =>
      let (s, bs) := readNow s s.me { x with pa := x.pa + 0x0E } 1
      if !lqAssigned s (issuer s).1 (bytesNat bs % 16) then .next (illegalOperand s (.rjreg d a))
      else .next (markUnchk (sendRequest (release s s.me 4) 0 d.toNat (srcG s a) (issuerWord s)) s.me [d.toNat])

/-- R323, R342, R344: the image is read as a sequencer load. -/
def execRjpost (a : BitVec 5) (s : State) : Out :=
  if rjFull s then .next s
  else
    match checkAccess s (.rjpost a) (srcG s a).toNat 32 false 0 with
    | .trap s => .next s
    | .ok s x =>
      let (s, bs) := readNow s s.me x 32
      let v := bytesNat bs
      if bitsOf v (8 * 0x0A + 1) 15 ≠ 0 || bitsOf v (8 * 0x18) 64 ≠ 0 then .next (illegalOperand s (.rjpost a))
      else
        let m := bitsOf v 64 16 + bitsOf v 80 1 * 2 ^ 16 + bitsOf v 96 32 * 2 ^ 32
        .next (sendRequest (release s s.me 4) 1 (issuer s).1 (BitVec.ofNat 64 (bitsOf v 0 64)) (BitVec.ofNat 64 m))

/-- R329, R342, R344. -/
def execRjpop (d a : BitVec 5) (s : State) : Out :=
  let g := srcG s a
  if rjFull s then .next s
  else if g.toNat / 32 ≠ 0 || !lqAssigned s (issuer s).1 (g.toNat % 16) then .next (illegalOperand s (.rjpop d a))
  else .next (markUnchk (sendRequest s 2 d.toNat g (issuerWord s)) s.me [d.toNat])

/-- The value and ring conditions of R325 and the partition conditions of R333. -/
def controlOk (s : State) (f q : Nat) (v : Dword) : Bool :=
  let x := lqAt s q
  let width := if f = 6 || f = 7 then 64 else if f = 3 then 2 else 32
  v.toNat < 2 ^ width &&
    (if f = 15 then (issuer s).1 == 0 else lqAssigned s (issuer s).1 q) &&
    (!(f == 6 || f == 7) || (v.toNat % 128 == 0 && canonical v.toNat)) &&
    (f != 6 || x.head == x.tail) && (f != 7 || x.shead == x.stail)
/-- R325, R342, R344. -/
def execRjctl (a : BitVec 5) (f q : BitVec 4) (s : State) : Out :=
  if rjFull s then .next s
  else if !controlOk s f.toNat q.toNat (srcG s a) then .next (illegalOperand s (.rjctl a f q))
  else .next (sendRequest s 3 (16 * f.toNat + q.toNat) (srcG s a) (issuerWord s))

end Sys2Proof.Machine
end

