-- ==== Sys2Proof/Machine/Paging.lean ====
section
/-! DEFINITION. Folop's page tables: its own memory, table entries, mapping, unmapping, invalidation, and the bytes
that the command processor reads and writes under an ASID (R237 to R246, R258, R365, R366). -/

namespace Sys2Proof.Machine
open Sys2Proof

/-! ### Folop's own memory (DESIGN CHOICE, log entry 14) -/

/-- Folop takes its tables and the team areas from the top of die C0's memory. -/
def poolBase : Nat := 0x1D00000000
/-- Take `n` bytes. -/
def takePool (s : State) (n align : Nat) : Option (State × Nat) :=
  let a := ceilDiv s.pav.pool align * align
  if a + n ≤ hbmBytes then some (modPav s fun p => { p with pool := a + n }, a) else none

/-! ### Entries (R238, R239) -/

/-- Folop's own accesses to device memory are the I/O agent's (R256). -/
def folopPlace (a : Nat) : Xl := ⟨a, 0, false⟩
def readEntry (s : State) (a : Nat) : State × Nat :=
  let (s, bs) := agentRead s (folopPlace a) 8
  (s, bytesNat bs)
def writeEntry (s : State) (a v : Nat) : State := agentWrite s (folopPlace a) (natBytes 8 v)

/-- The table that an entry points to, made when there is none; none when a leaf is in the way or memory is short. -/
def tableBelow (s : State) (a : Nat) : Option (State × Nat) :=
  let (s, e) := readEntry s a
  if e % 4 = 1 then some (s, bitsOf e 12 40 * 4096)
  else if e % 4 = 2 then none
  else
    match takePool s 4096 4096 with
    | none => none
    | some (s, t) => some (writeEntry s a (1 + t), t)

/-- Page sizes by their MAP code. -/
def pageSize (code : Nat) : Nat := if code = 0 then 2 ^ 12 else if code = 1 then 2 ^ 16 else if code = 2 then 2 ^ 21 else 2 ^ 30
/-- The lowest VA bit that a page size's leaf index uses. -/
def leafShift (size : Nat) : Nat := if size = 2 ^ 30 then 30 else if size = 2 ^ 21 then 21 else 12
/-- The levels above a leaf: the lowest VA bit and the entries of each table. -/
def levelsAbove (size : Nat) : List (Nat × Nat) :=
  if size = 2 ^ 30 then [(39, 2 ^ 18)]
  else if size = 2 ^ 21 then [(39, 2 ^ 18), (30, 512)]
  else [(39, 2 ^ 18), (30, 512), (21, 512)]

/-- Down to the table that holds the leaves of a page size. -/
def leafTable (s : State) (va tbl : Nat) : List (Nat × Nat) → Option (State × Nat)
  | [] => some (s, tbl)
  | (sh, n) :: t =>
    match tableBelow s (tbl + 8 * (va / 2 ^ sh % n)) with
    | none => none
    | some (s, tbl) => leafTable s va tbl t

/-- Entries of one leaf: 16 for a 64 KiB page (R240). -/
def leafCount (size : Nat) : Nat := if size = 2 ^ 16 then 16 else 1
/-- Write a page's leaf entries. -/
def putLeaf (s : State) (asid va size leaf : Nat) : Option State :=
  match leafTable s va (asidAt s asid).root (levelsAbove size) with
  | none => none
  | some (s, tbl) =>
    let i := va / 2 ^ leafShift size % 512
    some ((List.range (leafCount size)).foldl (fun s j => writeEntry s (tbl + 8 * (i + j)) leaf) s)

/-- A leaf entry (R239). -/
def leafWord (pa size : Nat) (w nc : Bool) (home : Nat) : Nat :=
  2 + (if w then 4 else 0) + (if size = 2 ^ 16 then 32 else 0) + home * 64 + (if nc then 256 else 0) + pa / 4096 * 4096

/-! ### Invalidation (R246, R365) -/

def rangesMeet (a n b m : Nat) : Bool := decide (a < b + m) && decide (b < a + n)
/-- The virtual addresses that a walk-cache entry covers. -/
def walkBase (w : WalkEntry) : Nat := w.pre * 2 ^ w.shift
/-- Every translation structure drops the entries of a range. -/
def dropTlb (s : State) (asid va bytes : Nat) : State :=
  modSys s fun y => { y with
    tlb := y.tlb.filter fun t => !(t.asid == asid && rangesMeet t.va t.size va bytes)
    walks := y.walks.filter fun w => !(w.asid == asid && rangesMeet (walkBase w) (2 ^ w.shift) va bytes) }

/-- R365: the command is broadcast. -/
def execTlbInvalidate (asid va bytes : Nat) (s : State) : Out :=
  .next (modSys s fun y => { y with inval := y.inval ++ [(asid, va, bytes)] })
/-- R246: the oldest invalidation is complete. -/
def execTlbInvalidateComplete (s : State) : Out :=
  match s.sys.inval with
  | [] => .next s
  | (a, va, n) :: t => .next (dropTlb (modSys s fun y => { y with inval := t }) a va n)

/-! ### Mapping (R242, R243, R305, R367) -/

def mapLeafPa (m : Mapping) : Nat := bitsOf m.leaf.toNat 12 40 * 4096
def mapHome (m : Mapping) : Nat := bitsOf m.leaf.toNat 6 2
/-- Another mapping names a line HOME=10. -/
def pinnedElsewhere (s : State) (line : Nat) : Bool :=
  s.pav.maps.any fun m => mapHome m == 2 && rangesMeet (128 * line) 128 (mapLeafPa m) m.size
/-- A page goes out of Folop's list. -/
def forgetPage (s : State) (m : Mapping) : State :=
  let s := chargeRegions s m.region fun r => { r with mused := r.mused - m.size }
  modPav s fun p => { p with maps := p.maps.filter (· != m) }
/-- The pinned lines of pages that have gone free their ways, but for those that a mapping still names HOME=10, or names so
again (R242). -/
def freePins (s : State) (old : List Mapping) : State :=
  modSys s fun y => { y with pinned := y.pinned.filter fun l =>
    !(old.any fun m => mapHome m == 2 && rangesMeet (128 * l) 128 (mapLeafPa m) m.size) || pinnedElsewhere s l }

/-- Unmap one page: its entries are cleared and its translations dropped. -/
def unmapPage (s : State) (m : Mapping) : State :=
  let s := (putLeaf s m.asid m.va m.size 0).getD s
  dropTlb (forgetPage s m) m.asid m.va m.size

/-- Map one page. -/
def mapPage (s : State) (m : Mapping) : Option State :=
  match putLeaf s m.asid m.va m.size m.leaf.toNat with
  | none => none
  | some s =>
    let s := chargeRegions s m.region fun r => { r with mused := r.mused + m.size }
    let s := modPav s fun p => { p with maps := p.maps ++ [m] }
    -- the full bits of a page that is mapped HOME=01 are clear (R211)
    let s := if mapHome m = 1 then
        modSys s fun y => { y with full := y.full.filter fun f => !rangesMeet (128 * f.1) 128 (mapLeafPa m) m.size }
      else s
    some (dropTlb s m.asid m.va m.size)

def mapPageList (s : State) : List Mapping → Option State
  | [] => some s
  | m :: t => (mapPage s m).bind fun s => mapPageList s t

/-- The mappings of an ASID that a range meets. -/
def mappingsIn (s : State) (asid va bytes : Nat) : List Mapping :=
  s.pav.maps.filter fun m => m.asid == asid && rangesMeet m.va m.size va bytes
/-- Every one of them lies whole in the range. -/
def wholePages (va bytes : Nat) (l : List Mapping) : Bool := l.all fun m => va ≤ m.va && m.va + m.size ≤ va + bytes

/-- The region that the mappings of an ASID count against: the first block that names it (DEDUCED, log entry 15). -/
def asidRegion (s : State) (asid : Nat) : Nat :=
  match s.sched.regions.find? fun p => p.2.ovr.getLsbD 5 && p.2.asid.toNat % 4096 == asid with
  | some p => p.1
  | none => 0
/-- R305: MUSED stays within each nonzero effective MEM. -/
def memFits (s : State) (region bytes : Nat) : Bool :=
  (regionChain s (regionDepth s) region).all fun a =>
    effMem s a == 0 || (match regionAt s a with | some r => r.mused + bytes ≤ effMem s a | none => true)
/-- R243. -/
def sameAttributes (s : State) (m : Mapping) : Bool :=
  s.pav.maps.all fun x =>
    !rangesMeet (mapLeafPa x) x.size (mapLeafPa m) m.size || (bitsOf x.leaf.toNat 6 3 == bitsOf m.leaf.toNat 6 3)
/-- A HOME=10 page homed on a die. -/
def pinnedPage (die : Nat) (m : Mapping) : Bool := mapHome m == 2 && inHbm (mapLeafPa m) && homeDie (mapLeafPa m) == die
/-- R242: the HOME=10 pages homed on a die, each once, against its pinned capacity, where the request maps one there. -/
def pinnedFits (s : State) (ms : List Mapping) : Bool :=
  (List.range 4).all fun die => !ms.any (pinnedPage die) ||
    let pages := ((s.pav.maps ++ ms).filter (pinnedPage die)).map fun m => (mapLeafPa m, m.size)
    (pages.eraseDups.map (·.2)).foldl (· + ·) 0 ≤ 16 * Tab.get 0 s.sys.pinWays die * 0x80000

/-- The conditions of R242, R243 and R305. -/
def mapAllowed (s : State) (ms : List Mapping) : Bool :=
  ms.all (sameAttributes s) && pinnedFits s ms &&
    memFits s (match ms.head? with | some m => m.region | none => 0) ((ms.map (·.size)).foldl (· + ·) 0)
/-- Physical memory that Folop keeps for itself. -/
def inPool (pa n : Nat) : Bool := rangesMeet pa n poolBase (hbmBytes - poolBase)
/-- A range of physical pages that meets the doorbell window is the one page of a queue of the ASID, mapped HOME=11 (R351); one
that meets the counter page is that page, HOME=11 and read-only (R340). -/
def windowOk (s : State) (asid pa n home : Nat) (w nc : Bool) : Bool :=
  if rangesMeet pa n 0x7FF0000000000 0x1000000 then
    n == 4096 && home == 3 && w && !nc && (Tab.look s.pav.queues ((pa - 0x7FF0000000000) / 4096)).any fun q => q.asid == asid && q.state != 3
  else if rangesMeet pa n 0x7FF0001000000 4096 then n == 4096 && home == 3 && !w && !nc
  else true
/-- Map a page that the conditions allow. -/
def mapChecked (s : State) (m : Mapping) : Option State :=
  if windowOk s m.asid (mapLeafPa m) m.size (mapHome m) (m.leaf.getLsbD 2) (m.leaf.getLsbD 8) && !inPool (mapLeafPa m) m.size && mapAllowed s [m] then
    mapPage s m
  else none

/-- The pages of a MAP command. -/
def mapRange (asid va pa size n leafBits region : Nat) : List Mapping :=
  (List.range n).map fun i =>
    { asid := asid, va := va + size * i, size := size, leaf := BitVec.ofNat 64 (leafBits + pa + size * i), region := region }

/-! ### Bytes under an ASID -/

/-- Read bytes at DEVICE scope, a line at a time; the address that faults, or the bytes. -/
def readVa (s : State) (asid : Nat) : Nat → Nat → Nat → State × Except XErr (List Byte)
  | 0, _, _ => (s, .ok [])
  | f + 1, va, n =>
    if n = 0 then (s, .ok [])
    else
      let k := min n (128 - va % 128)
      match pavTranslate s asid (va % 2 ^ 64) false with
      | (s, .error e) => (s, .error e)
      | (s, .ok x) =>
        let (s, bs) := agentRead s x k
        match readVa s asid f (va + k) (n - k) with
        | (s, .error e) => (s, .error e)
        | (s, .ok more) => (s, .ok (bs ++ more))
def readBytes (s : State) (asid va n : Nat) : State × Except XErr (List Byte) := readVa s asid (n / 128 + 2) va n
def readNum (s : State) (asid va n : Nat) : State × Except XErr Nat :=
  match readBytes s asid va n with
  | (s, .error e) => (s, .error e)
  | (s, .ok bs) => (s, .ok (bytesNat bs))

/-- Write bytes inside one line at DEVICE scope. -/
def writeNum (s : State) (asid va n v : Nat) : State × Except XErr Unit :=
  match pavTranslate s asid (va % 2 ^ 64) true with
  | (s, .error e) => (s, .error e)
  | (s, .ok x) => (agentWrite s x (natBytes n v), .ok ())

/-- Write a block at a physical address, a line at a time. -/
def writeBlock : Nat → State → Nat → List Byte → State
  | 0, s, _, _ => s
  | f + 1, s, pa, bs => if bs.isEmpty then s else writeBlock f (agentWrite s (folopPlace pa) (bs.take 128)) (pa + 128) (bs.drop 128)
def placeBlock (s : State) (pa : Nat) (bs : List Byte) : State := writeBlock (bs.length / 128 + 1) s pa bs
/-- The lines of a block that writing zeros changes, or whose directory set it does; of the others the copies come and go unseen. -/
def zeroLines (s : State) (pa n : Nat) : List Nat :=
  let kept : List Nat := s.sys.mem.map fun x => x.1 / 128
  let tracked : List Nat := s.sys.dir.map fun x => x.1
  let listed := ((tracked ++ kept).filter fun l => rangesMeet (128 * l) 128 pa n).eraseDups
  if s.sys.dir.length < 16 then listed
  else ((List.range (n / 128)).map (pa / 128 + ·)).filter fun l => listed.contains l || !wayFree s l
/-- A line is written by the I/O agent, whose copy then goes home (R250, R256). -/
def zeroLine (s : State) (line : Nat) : State := dieEvict (dieWrite s 4 line 0 (BitVec.allOnes 128) false) 4 line
/-- Folop zeroes a block through the I/O agent (R366). -/
def zeroBlock (s : State) (pa n : Nat) : State := (zeroLines s pa n).foldl zeroLine s

end Sys2Proof.Machine
end

