-- ==== Sys2Proof/Machine/Scheduler.lean ====
section
/-! DEFINITION. The scheduler: placement, binding and release of teams, pre-emption, saving and restoring cores,
partition swaps, the starts and ends of tasks and teams, the generator's turns (R27, R28, R80, R224 to R234, R293,
R295 to R310, R312, R318, R361, R362). -/

namespace Sys2Proof.Machine
open Sys2Proof

/-! ### Boundaries (R221, R223) -/

/-- The deferred faults that are pending at the boundary before the core's next bundle; the fault of a feed step that its W
instruction is bound to is detected there (R141). -/
def boundaryFaults (s : State) (c : Nat) : List Deferred :=
  let k := coreAt s c
  match earlyFault s c with
  | some f => k.deferred ++ [{ cause := 0x12, wavetag := k.seq.pc, info := loaderInfo f.2.1 f.2.2.1 f.2.2.2, at_ := k.seq.cyc }]
  | none => k.deferred
/-- The trap that is taken at the boundary before the core's next bundle: the software trap of the bundle before it (R125; before a
deferred fault: DESIGN CHOICE, log entry 73), or the first pending deferred fault (R221). -/
def boundaryTrap (s : State) (c : Nat) : Option State :=
  let k := coreAt s c
  if k.run != .running then none
  else
    match k.soft with
    | some code => some (takeTrap (modCore s c fun k => { k with soft := none }) c 4 k.seq.pc (code.setWidth 64) none 0 (k.seq.cyc + 2))
    | none =>
      if k.ctl.inh then none
      else
        (firstFault (boundaryFaults s c)).map fun d =>
          takeTrap (modCore s c fun k => { k with deferred := k.deferred.erase d }) c d.cause k.seq.pc d.info (some d.wavetag) (repLeft k)
            (k.seq.cyc + 2)
def isFollower (k : Core) : Bool := match k.run with | .follower _ => true | _ => false
/-- The next bundle could issue now. -/
def atBoundary (k : Core) : Bool := k.run != .running || decide (k.seq.readyAt ≤ k.seq.cyc)
def isHalted (s : State) (c : Nat) : Bool := s.sched.halted.contains c
/-- R223: at the boundary, when the stall of the bundle before is over (R32); a core that a swap has halted comes to none. -/
def execTrapEntry (core : Nat) (s : State) : Out :=
  .next (if atBoundary (coreAt s core) && !isHalted s core then (boundaryTrap s core).getD s else s)

/-! ### Placement (R80, R306) -/

/-- The root of a region's tree names its partition. -/
def regionPart (s : State) (a : Nat) : Nat :=
  match ((regionChain s (regionDepth s) a).getLast?).bind (regionAt s) with
  | some r => r.part.toNat
  | none => 0
def partCores (s : State) (p : Nat) : List Nat :=
  match Tab.look s.sched.parts p with
  | some x => (List.range 64).filter fun c => x.cores.getLsbD c
  | none => []
def holdsCores : TeamState → Bool
  | .bound => true
  | .running => true
  | .yielding => true
  | .waiting => false
  | .ended => false
/-- Cores of a partition that bound teams of it hold. -/
def heldCores (s : State) (p : Nat) : List Nat :=
  (s.sched.teams.filter fun t => t.2.part == p && holdsCores t.2.state).flatMap fun t => t.2.place
/-- The cores that no bound team of the partition holds; a cluster whose clock stands has none to give (R370, R372; DEDUCED, log
entry 68). -/
def freeCores (s : State) (p : Nat) : List Nat :=
  (partCores s p).filter fun c => !(heldCores s p).contains c && speed (islandAt s (clusterOf c)) != 0

/-- An adjacency entry holds of two physical cores (R80). -/
def related (rel a b : Nat) : Bool :=
  if rel = 1 then Config.eastOf a b
  else if rel = 2 then Config.southOf a b
  else if rel = 3 then clusterOf a == clusterOf b
  else if rel = 4 then dieOf a == dieOf b
  else false
/-- The entries hold of the cores placed so far. -/
def adjacent (adj : List (Nat × Nat × Nat)) (pl : List Nat) : Bool :=
  adj.all fun e =>
    match pl[e.1]?, pl[e.2.1]? with
    | some a, some b => related e.2.2 a b
    | _, _ => true
/-- Place `n` more logical cores. -/
def placeFrom (adj : List (Nat × Nat × Nat)) (avail : List Nat) : Nat → List Nat → Option (List Nat)
  | 0, pl => some pl
  | n + 1, pl => avail.findSome? fun c =>
      if pl.contains c || !adjacent adj (pl ++ [c]) then none else placeFrom adj avail n (pl ++ [c])
/-- A placement: the team's cores by logical number, distinct, with every entry holding. -/
def placeOk (adj : List (Nat × Nat × Nat)) (avail : List Nat) (n : Nat) (pl : List Nat) : Bool :=
  pl.length == n && pl.all (fun c => avail.contains c) && pl.eraseDups.length == n && adjacent adj pl

/-- A free placement of a waiting team; one with saved contexts goes back to the cores that hold them (R309). -/
def placement (s : State) (x : Team) (extra : List Nat) : Option (List Nat) :=
  let avail := (partCores s x.part).filter fun c => (freeCores s x.part).contains c || extra.contains c
  if x.hasSaved then (if x.place.all fun c => avail.contains c then some x.place else none)
  else placeFrom x.img.adj avail x.img.cores []

/-! ### Order of binding (R305, R306) -/

/-- 2 ms in beats. -/
def ageBeats : Nat := 3600000
def teamPrio (s : State) (x : Team) : Nat :=
  if x.state == .waiting then min 15 (effPrio s x.region + (s.beat - x.since) / ageBeats) else effPrio s x.region
/-- CUSED of every region above stays within each nonzero effective CORES. -/
def eligible (s : State) (x : Team) : Bool :=
  (regionChain s (regionDepth s) x.region).all fun a =>
    effCores s a == 0 || (match regionAt s a with | some r => r.cused + x.img.cores ≤ effCores s a | none => true)
def waitsBefore (s : State) (a b : Nat × Team) : Bool :=
  teamPrio s b.2 < teamPrio s a.2 || (teamPrio s a.2 == teamPrio s b.2 && a.2.arrival < b.2.arrival)
/-- The first eligible waiting team of a partition. -/
def firstWaiting (s : State) (p : Nat) : Option (Nat × Team) :=
  (s.sched.teams.filter fun t => t.2.part == p && t.2.state == .waiting && eligible s t.2).foldl (fun b t =>
    match b with
    | none => some t
    | some u => if waitsBefore s t u then some t else some u) none

/-! ### Loading a core (R14, R26, R28, R361) -/

/-- The logical cores of a chain, master first. -/
def chainCores (img : Image) (ch : Nat) : List Nat :=
  (List.range 4).filterMap fun p => (List.range img.cores).find? fun l =>
    match img.ents[l]? with | some e => e.1 == ch && e.2.1 == p | none => false
/-- The chain that a logical core belongs to, or nothing. -/
def chainOf (img : Image) (l : Nat) : List Nat :=
  match img.ents[l]? with
  | some e => if e.1 = 255 then [] else chainCores img e.1
  | none => []
/-- The chain runs west to east. -/
def chainIsEw (img : Image) (ls : List Nat) : Bool :=
  match ls with
  | a :: b :: _ => img.adj.any fun e => e.1 == a && e.2.1 == b && e.2.2 == 1
  | _ => false
/-- CHAINSKEWk: the cycles of the link into position k (R28). -/
def chainSkew (place ls : List Nat) : Tab (BitVec 5) :=
  (List.range (ls.length - 1)).foldl (fun t i =>
    let a := place.getD (ls.getD i 0) 0
    let b := place.getD (ls.getD (i + 1) 0) 0
    Tab.set 0 t (i + 1) (if dieOf a = dieOf b then 1 else 18)) []

def codeOf (img : Image) (l : Nat) : Tab (BitVec 128) :=
  match img.ents[l]? with
  | some e => ((List.range e.2.2.length).zip e.2.2).filter fun p => p.2 != 0
  | none => []
/-- Of a KINIT entry k counts modulo 16, of a BARRIER entry b modulo 1,024 and the phase modulo 2, and any target is stored as it
is: the spec names no check (DESIGN CHOICE, log entry 85). -/
def kinitOf (img : Image) (l : Nat) : Tab Half :=
  (img.kinit.filter fun e => e.1 == l).foldl (fun t e => Tab.set 0 t (e.2.1 % 16) (BitVec.ofNat 16 e.2.2)) []
/-- The same of the BARRIER entries (DESIGN CHOICE, log entry 85). -/
def barriersOf (img : Image) (l : Nat) : Tab Barrier :=
  (img.barrier.filter fun e => e.1 == l).foldl (fun t e =>
    Tab.set .zero t (e.2.2.1 % 1024) { target := e.2.2.2, count := 0, pend := 0, phase := e.2.1 % 2 == 1 }) []

/-- The presets of a root task. -/
def rootG (l size : Nat) (args : Dword) : Tab Dword :=
  putG (putG (putG [] 1 (BitVec.ofNat 64 l)) 2 (BitVec.ofNat 64 size)) 3 args

/-- A core at the launch of a team, as it finds physical core `old` (R26, R361). -/
def launchCore (t l : Nat) (x : Team) (old : Core) : Core :=
  let ls := chainOf x.img l
  let master := ls.head? == some l
  { Core.reset with
    seq := { Seq.reset with
      g := rootG l x.img.cores x.args, k := kinitOf x.img l, bars := barriersOf x.img l, cyc := old.seq.cyc, readyAt := old.seq.cyc }
    ctl := { Ctl.reset with
      asid := BitVec.ofNat 12 x.asid, rcptr := BitVec.ofNat 64 x.rcptr, skew := chainSkew x.place ls }
    arr := { Arr.reset with cells := if old.part = x.part then keepStores old.arr.cells else [] }
    edge := { EdgeSt.reset with egen := genSeed 0 32 l }
    mem := old.mem, rjq := old.rjq
    code := codeOf x.img l, imemQuota := old.imemQuota, storeQuota := old.storeQuota
    run := if ls.isEmpty || master then .running else .follower (x.place.getD (ls.headD 0) 0)
    task := if ls.isEmpty || master then some { team := t, lcore := l, root := true, join := 0, record := 0, bundles := 0 } else none
    chain := if master then ls.map fun j => x.place.getD j 0 else []
    chainEW := chainIsEw x.img ls, part := x.part, lcore := l }

/-! ### The team area (R203, R298, R361; DESIGN CHOICE, log entry 14) -/

def areaBase : Nat := 2 ^ 55
def areaBytes : Nat := 0x160000
/-- The pages of a new team area. -/
def areaPages (asid pa : Nat) : List Mapping := mapRange asid (areaBase + pa) pa 0x10000 22 (leafWord 0 0x10000 true false 0) 0
def mappedArea (asid : Nat) : Option (State × Nat) → Option (State × Nat)
  | none => none
  | some (s, pa) => (mapPageList s (areaPages asid pa)).map fun s => (s, areaBase + pa)
/-- A zeroed team area under an ASID, mapped. -/
def takeArea (s : State) (asid : Nat) : Option (State × Nat) :=
  match s.pav.areas.find? fun a => a.1 == asid with
  | some a => some (zeroBlock (modPav s fun p => { p with areas := p.areas.erase a }) (a.2 - areaBase) areaBytes, a.2)
  | none => mappedArea asid (takePool s areaBytes 0x10000)
/-- A table of a section: as many entries as the image counts, 4,096 at most; the rest of the area is zero (R203, R361). -/
def tableBytes (n size : Nat) (bs : List Byte) : List Byte := bs.take (size * min n 4096)
/-- The tables of the image. -/
def fillArea (s : State) (rcptr : Nat) (img : Image) : State :=
  let pa := rcptr - areaBase
  let s := placeBlock s pa (tableBytes img.tensorN 192 img.tensors)
  let s := placeBlock s (pa + 0xC0000) (tableBytes img.templateN 64 img.templates)
  placeBlock s (pa + 0x140000) (tableBytes img.epilogueN 32 img.epilogues)

/-! ### Clocks (R5, R370) -/

/-- Beats of an array cycle. -/
def cycleBeats : IslState → Nat
  | .a0 => 3
  | .a1 => 4
  | .a2 => 6
  | .ret => 0
  | .off => 0
/-- An array cycle of the core begins in this beat; none does while the island's clock changes (R372). -/
def ticks (s : State) (c : Nat) : Bool :=
  let n := cycleBeats (islandAt s (clusterOf c))
  n != 0 && s.beat % n == 0 && !islandHolds s (clusterOf c)

/-! ### Binding and release (R306, R361, R362) -/

/-- What makes the scheduler go through its waiting teams: a launch, a team's end, a pre-emption, a change of a region
block (R306). -/
def callSched (s : State) : State := modSched s fun d => { d with sweep := true }

def acqOf (bits : BitVec 512) : Nat := bitsOf bits.toNat 8 3
/-- A packet's acquire on behalf of every core that its work uses (R355). -/
def acquireCores (s : State) (sc : Nat) (cs : List Nat) : State :=
  if sc = 0 then s else cs.foldl (fun s c => acquireActs s c sc) s

/-- The acquire scope that a team's launch performs: the packet's, with the kernel node's where a graph launches it. -/
def launchAcq (s : State) (x : Team) : Nat :=
  match pktAt s x.pkt with
  | some p => if bitsOf p.bits.toNat 0 8 = 2 then max (acqOf p.bits) (bitsOf p.cur.toNat 8 3) else acqOf p.bits
  | none => 0

/-- 1 µs, in ticks of the timebase (R362). -/
def releaseDelay : Nat := 1000

/-- Bind a waiting team to cores. -/
def bindTeam (s : State) (t : Nat) (x : Team) (cs : List Nat) : State :=
  let s := chargeRegions s x.region fun r => { r with cused := r.cused + x.img.cores }
  let s := modSched s fun d => { d with order := d.order + 1 }
  let x := { x with place := cs, state := .bound, bindOrder := s.sched.order }
  if x.hasSaved then setTeam s t x
  else
    match takeArea s x.asid with
    | none =>
      let s := chargeRegions s x.region fun r => { r with cused := r.cused - x.img.cores }
      setTeam s t { x with place := [], state := .ended, status := 3 }
    | some (s, rcptr) =>
      let x := { x with rcptr := rcptr, releaseAt := some (timebase s + releaseDelay) }
      let s := setTeam (fillArea s rcptr x.img) t x
      let s := (List.range x.img.cores).foldl (fun s l => modContext s t (cs.getD l 0) fun k => launchCore t l x k) s
      acquireCores s (launchAcq s x) cs

/-- R306: the scheduler binds the team that it comes to, on a free placement. -/
def execTeamBind (team : Nat) (cores : List Nat) (s : State) : Out :=
  match teamAt s team with
  | none => .next s
  | some x =>
    let avail := freeCores s x.part
    let fits := if x.hasSaved then cores == x.place && cores.all (fun c => avail.contains c)
      else placeOk x.img.adj avail x.img.cores cores
    if s.sched.sweep && (firstWaiting s x.part).map (·.1) = some team && fits then .next (bindTeam s team x cores) else .next s

/-- A core's task starts at the release: an acquire at DEVICE scope (R297, R353), and bundle 0 from the first array cycle
that begins at or after the tick (R362). -/
def releaseOne (t : Nat) (s : State) (c : Nat) : State :=
  modContext (acquireActs s c 4) t c fun k => { k with seq := { k.seq with readyAt := if ticks s c then k.seq.cyc else k.seq.cyc + 1 } }
/-- R362. -/
def execTeamRelease (team : Nat) (s : State) : Out :=
  match teamAt s team with
  | none => .next s
  | some x =>
    match x.releaseAt with
    | none => .next s
    | some at_ =>
      if timebase s < at_ then .next s
      else
        let s := x.place.foldl (releaseOne team) s
        .next (setTeam s team { x with releaseAt := none, state := if x.state == .bound then .running else x.state })

/-! ### The estimator and the choice (R307, R308) -/

/-- The clock of a core's island in MHz (R370). -/
def clockMhz (s : State) (c : Nat) : Nat :=
  match islandAt s (clusterOf c) with
  | .a0 => 600
  | .a1 => 450
  | .a2 => 300
  | .ret => 0
  | .off => 0

/-- Cores of a team that run a task. -/
def runningCores (s : State) (t : Nat) (x : Team) : List Nat := x.place.filter fun c => (contextAt s t c).task.isSome

/-- DONE and issued quanta of the current generated tile of a core. -/
def tileProgress (s : State) (x : Team) (l : Nat) : Option (Nat × Nat) :=
  match x.gen with
  | none => none
  | some g =>
    match Tab.look g.current l with
    | none => none
    | some tile =>
      let qs := tileQuanta tile
      some ((qs.filter fun q => (mapCode s x.asid g q).2 == some 2).length, qs.length)

/-- Est ≤ deadline (in ns), core by core: rem / clock with rem = L·(1 - min(f, 1)); never with L = 0. -/
def withinDeadline (s : State) (t : Nat) (x : Team) (deadline : Nat) : Bool :=
  let L := x.img.tilelen
  L != 0 && (runningCores s t x).all fun c =>
    let k := contextAt s t c
    let b := match k.task with | some y => y.bundles | none => 0
    let mhz := clockMhz s c
    (L - b) * 1000 ≤ deadline * mhz ||
      (match tileProgress s x k.lcore with | some (d, n) => L * (n - d) * 1000 ≤ deadline * mhz * n | none => false)
/-- f < 1/2 on every running core. -/
def earlyEverywhere (s : State) (t : Nat) (x : Team) : Bool :=
  (runningCores s t x).all fun c =>
    let k := contextAt s t c
    let b := match k.task with | some y => y.bundles | none => 0
    (x.img.tilelen == 0 || 2 * b < x.img.tilelen) &&
      (match tileProgress s x k.lcore with | some (d, n) => 2 * d < n | none => true)
/-- R308. -/
def yieldChoice (s : State) (t : Nat) (x : Team) (deadline : Nat) : Yield :=
  if withinDeadline s t x deadline then .drain
  else if x.img.discard && earlyEverywhere s t x then .discard
  else .save

/-! ### Pre-emption (R307, R309) -/

/-- Sets of `n` members. -/
def chooseSets {β : Type} : Nat → List β → List (List β)
  | 0, _ => [[]]
  | _ + 1, [] => []
  | n + 1, x :: t => (chooseSets n t).map (x :: ·) ++ chooseSets (n + 1) t

/-- The orders of binding of a set, latest first. -/
def insertDesc (n : Nat) : List Nat → List Nat
  | [] => [n]
  | x :: t => if x ≤ n then n :: x :: t else x :: insertDesc n t
def bindOrders (l : List (Nat × Team)) : List Nat := l.foldl (fun r t => insertDesc t.2.bindOrder r) []
/-- The first list is bound later. -/
def boundLater : List Nat → List Nat → Bool
  | a :: s, b :: t => b < a || (a == b && boundLater s t)
  | _, _ => false
def highestPrio (s : State) (l : List (Nat × Team)) : Nat := l.foldl (fun m t => max m (effPrio s t.2.region)) 0
def betterSet (s : State) (a b : List (Nat × Team)) : Bool :=
  highestPrio s a < highestPrio s b || (highestPrio s a == highestPrio s b && boundLater (bindOrders a) (bindOrders b))

/-- The best set of `n` victims whose cores, with the free ones, give a placement. -/
def victimsOf (s : State) (x : Team) (cand : List (Nat × Team)) (n : Nat) : Option (List (Nat × Team)) :=
  ((chooseSets n cand).filter fun l => (placement s x (l.flatMap fun t => t.2.place)).isSome).foldl (fun b l =>
    match b with
    | none => some l
    | some m => if betterSet s l m then some l else some m) none
/-- R307: the fewest teams first; a bound team that yields already is one of them. -/
def chooseVictims (s : State) (x : Team) : Option (List (Nat × Team)) :=
  let cand := s.sched.teams.filter fun t => t.2.part == x.part && holdsCores t.2.state && effPrio s t.2.region < teamPrio s x
  ((List.range cand.length).map (· + 1)).findSome? fun n => victimsOf s x cand n
/-- Of the victims, the teams that have not been asked. -/
def newVictims (s : State) (x : Team) : List (Nat × Team) := ((chooseVictims s x).getD []).filter fun v => v.2.state != .yielding

/-- Records by their place in the order in which they left the team queue, latest first. -/
def insertLater (r : Nat × BitVec 512) : List (Nat × BitVec 512) → List (Nat × BitVec 512)
  | [] => [r]
  | x :: t => if x.1 ≤ r.1 then r :: x :: t else x :: insertLater r t
/-- Cores of a team whose state is not in a context area: live, or swapped out with their partition. -/
def unsavedCores (s : State) (t : Nat) (x : Team) : List Nat := x.place.filter fun c => (Tab.look s.sched.saved (64 * t + c)).isNone
/-- Local-queue records go back to the head of the team queue, in their order (R309). -/
def returnLocal (s : State) (t : Nat) (x : Team) : State :=
  let cs := unsavedCores s t x
  let l := (cs.flatMap fun c => (contextAt s t c).localq).foldl (fun l r => insertLater r l) []
  l.foldl (fun s r => pushHead s t r.2) (cs.foldl (fun s c => modContext s t c fun k => { k with localq := [] }) s)

/-- A victim begins to yield; one whose partition is swapped out goes on with it once that runs again. -/
def startYield (s : State) (deadline : Nat) (v : Nat × Team) : State :=
  match teamAt s v.1 with
  | none => s
  | some x =>
    let how := yieldChoice s v.1 x deadline
    let s := returnLocal s v.1 x
    let s := (unsavedCores s v.1 x).foldl (fun s c => modContext s v.1 c fun k => { k with yield_ := how }) s
    let s := modTeam s v.1 fun y => { y with state := .yielding, spilled := effCskeep s y.region }
    if how = .drain then modSched s fun d => { d with drains := d.drains ++ [(v.1, s.beat + ceilDiv (9 * deadline) 5)] } else s

/-- R307: the scheduler has stopped at the team. -/
def execPreemptRequest (team : Nat) (s : State) : Out :=
  match teamAt s team with
  | none => .next s
  | some x =>
    if !s.sched.sweep || (firstWaiting s x.part).map (·.1) ≠ some team || (placement s x []).isSome then .next s
    else .next ((newVictims s x).foldl (fun s v => startYield s (effPdl s x.region) v) s)

/-- R309: a core of a draining team still runs at the deadline. -/
def execDrainDeadline (core : Nat) (s : State) : Out :=
  let late := s.sched.drains.any fun d => d.2 ≤ s.beat && (teamCores s d.1).contains core && liveHere s d.1 core
  if late && (coreAt s core).yield_ = .drain then .next (modCore s core fun k => { k with yield_ := .save }) else .next s

/-! ### Saving (R228 to R230, R309) -/

/-- The bound team of a physical core's running partition. -/
def bindingOf (s : State) (c : Nat) : Option (Nat × Team) :=
  s.sched.teams.find? fun t => holdsCores t.2.state && t.2.place.contains c && (coreAt s c).part == t.2.part

def nextOf (s : State) : Out → State
  | .next t => t
  | _ => s
/-- An expiry of the Orangery that is due at this tick; it writes the record, so it waits while memory stands (R370). -/
def expireOnce (s : State) : Option State :=
  if memoryStands s then none
  else if (dueEpisode s).isSome then some (nextOf s (execDeadlineExpiry s))
  else if orphanDue s then some (nextOf s (execOrphanExpiry s)) else none
/-- The expiries that are due come before anything else that the Orangery serves at that tick (R334). -/
def settleExpiries : Nat → State → State
  | 0, s => s
  | n + 1, s =>
    match expireOnce s with
    | none => s
    | some s => settleExpiries n s
def expire (s : State) : State := settleExpiries (s.ora.table.length + s.ora.orphans.length) s
/-- A request of the core's queue to the Orangery is served. -/
def serveOldest (s : State) (c : Nat) : State :=
  let s := expire s
  match (coreAt s c).rjq with
  | [] => s
  | (kind, _) :: _ =>
    if kind = 0 || kind = 4 then nextOf s (execRegistrationServe c s)
    else if kind = 1 then servePost s c
    else if kind = 3 then nextOf s (execControlServe c s)
    else nextOf s (execPopServe c s)
def serveAllRequests (s : State) (c : Nat) : State :=
  (List.range (coreAt s c).rjq.length).foldl (fun s _ => serveOldest s c) s

/-- No channel of the core has a request that runs. -/
def copiesQuiet (k : Core) : Bool := k.mem.chans.all fun p => p.2.stopped || (p.2.queue.isEmpty && p.2.job.isNone)

/-- What a context area holds of a core: with its cells' program areas when they are spilled. -/
def savedImage (spill : Bool) (k : Core) : Core :=
  { k with
    arr := { k.arr with cells := if spill then k.arr.cells else
      (k.arr.cells.map fun p => (p.1, { p.2 with store := [] })).filter fun p => p.2 != CellSt.reset p.1 }
    mem := { k.mem with sb := [], l1 := [], pend := [], chans := k.mem.chans.filter fun p => p.2.stopped }
    localq := [], rjq := [], yield_ := .no }
/-- The core's L1 is written back and invalidated, with everything that it issued before (R228). -/
def writeOut (s : State) (c : Nat) : State := setL1 (release (serveAllRequests s c) c 4) c []

/-- Write one position's context. -/
def saveOne (s : State) (t : Nat) (spill : Bool) (c : Nat) : State :=
  let s := writeOut s c
  let k := coreAt s c
  setCore (modSched s fun d => { d with saved := Tab.put d.saved (64 * t + c) (savedImage spill k) }) c (vacated k)

/-- DISCARD on one core (R309): a record's task is queued again, a root task starts again from its launch presets. -/
def discardTask (s : State) (t : Nat) (x : Team) (c : Nat) : State :=
  match (coreAt s c).task with
  | none => s
  | some k =>
    let ps := positions (coreAt s c) c
    let s := handBack (serveMarks s t fun l => l == k.lcore) t k.lcore
    let s := forgetPushes (revertClaim (withdraw s t k.lcore) t k.lcore) t k.lcore
    let s := makeIdle (discardFrozen (endWait s t c) c) c
    if k.root then ps.foldl (fun s p => modCore s p fun old => { launchCore t old.lcore x old with deferred := old.deferred }) s
    else pushHead s t k.record

/-- R228, R309: a core whose save or discard is due, the end of whose task the generator has served (R320).  A pending deferred fault comes first; copies that run go on to
their end before the context is written (R208). -/
def execCoreSave (core : Nat) (s : State) : Out :=
  let k := coreAt s core
  match bindingOf s core with
  | none => .next s
  | some (t, x) =>
    if x.state != .yielding || !(k.yield_ == .save || k.yield_ == .discard) || isFollower k || !atBoundary k || !liveHere s t core || teamDone s t || retiring x core then .next s
    else
      match boundaryTrap s core with
      | some s => .next s
      | none =>
        let ps := positions k core
        let s := freeze (fencesAct s core) core
        if !(ps.all fun p => copiesQuiet (coreAt s p)) then .next s
        else
          let s := if k.yield_ = .discard then discardTask s t x core else s
          .next (ps.foldl (fun s p => saveOne s t x.spilled p) s)

/-- DRAIN at a TILENEXT (R309): the core is saved without issuing it. -/
def drainAtTile (s : State) (c : Nat) : State :=
  match (coreAt s c).task with
  | none => s
  | some k =>
    let s := revertClaim s k.team k.lcore
    let s := modGen s k.team fun g => { g with drained := k.lcore :: g.drained }
    (positions (coreAt s c) c).foldl (fun s p => modCore s p fun k => { k with yield_ := .save }) s

/-- A draining core whose task has ended goes with the others once every core has stopped. -/
def drainOver (s : State) (t : Nat) (x : Team) : Bool :=
  x.place.all fun c => (contextAt s t c).yield_ == .save || (coreIdle (contextAt s t c) && !retiring x c) || (Tab.look s.sched.saved (64 * t + c)).isSome
/-- The last core of a victim has been saved: the team waits again (R309). -/
def finishYield (s : State) (t : Nat) : State :=
  match teamAt s t with
  | none => s
  | some x =>
    if x.state != .yielding then s
    else if x.place.all fun c => (Tab.look s.sched.saved (64 * t + c)).isSome then
      let s := chargeRegions s x.region fun r => { r with cused := r.cused - x.img.cores }
      let s := modSched s fun d => { d with drains := d.drains.filter (fun y => y.1 != t), order := d.order + 1 }
      callSched (setTeam s t { x with state := .waiting, hasSaved := true, releaseAt := none, since := s.beat, arrival := s.sched.order })
    else if drainOver s t x then (unsavedCores s t x).foldl (fun s c => modContext s t c fun k => { k with yield_ := .save }) s
    else s

/-! ### Restoring (R229, R230) -/

/-- The live program areas come back under the context unless it brought its own (R309). -/
def mergeStores (spill : Bool) (live : Tab CellSt) (cells : Tab CellSt) : Tab CellSt :=
  if spill then cells
  else
    let base := live.foldl (fun t p => Tab.set (CellSt.reset p.1) t p.1
      { Tab.get (CellSt.reset p.1) cells p.1 with store := p.2.store }) cells
    base

/-- Reload one position; requests to the Orangery that an earlier task of the core left are still served (R342). -/
def restoreOne (s : State) (t : Nat) (spill thawIt : Bool) (c : Nat) : State :=
  match Tab.look s.sched.saved (64 * t + c) with
  | none => s
  | some k =>
    let live := coreAt s c
    let s := modSched s fun d => { d with saved := Tab.erase (64 * t + c) d.saved }
    let s := setCore s c { k with
      arr := { k.arr with cells := mergeStores spill live.arr.cells k.arr.cells, frozen := !thawIt }
      mem := { k.mem with nextSeq := max k.mem.nextSeq live.mem.nextSeq }
      tail := [], rjq := live.rjq }
    let s := applyTail s c k.tail
    -- a request that a fault had stopped is replayed, unless its fault is still to be taken or handled (R208, R209)
    let s := if k.ctl.inh || k.run == .waitFolop then s else modMem s c (goOn (coreAt s c))
    acquire s c 4

/-- Folop's answer reaches a core that waits (R225). -/
def applyAnswer (s : State) (c : Nat) (resume : Bool) : State :=
  let s := modCore s c fun k => { k with answer := none }
  if resume then returnFromTrap s c fun s => faultTask s c 2 else faultTask s c (coreAt s c).ctl.cause.toNat

/-- R229. -/
def restoreCore (s : State) (t : Nat) (x : Team) (c : Nat) : State :=
  match Tab.look s.sched.saved (64 * t + c) with
  | none => s
  | some k =>
    match k.run with
    | .follower _ => s
    | _ =>
      let s := (positions k c).foldl (fun s p => restoreOne s t x.spilled (!k.ctl.inh) p) s
      let s := (positions k c).foldl (fun s p => aheadStores s c p) s
      let s := match k.answer with | some a => if isHalted s c then s else applyAnswer s c a | none => s
      -- when the last core is back, the team runs
      if x.place.all fun p => (Tab.look s.sched.saved (64 * t + p)).isNone then
        dispatchRecords (modTeam s t fun y => { y with state := if y.state == .bound then .running else y.state, hasSaved := false }) t
      else s
def execCoreRestore (core : Nat) (s : State) : Out :=
  match bindingOf s core with
  | some (t, x) => if x.state == .bound then .next (restoreCore s t x core) else .next s
  | none => .next s

/-! ### Folop's answers (R224, R225) -/

/-- The oldest fault event of a core. -/
def faultOf (s : State) (c : Nat) : Option FaultEv := s.pav.faults.find? fun f => f.core == c
/-- The page of a fault that Folop may service. -/
def holdsFault (f : FaultEv) (m : Mapping) : Bool :=
  f.cause == 6 && !f.info.getLsbD 60 && m.asid == f.asid.toNat && m.va ≤ f.info.toNat % 2 ^ 57 && f.info.toNat % 2 ^ 57 < m.va + m.size
/-- The state in which Folop answers RESUME: the page has been mapped meanwhile, or Folop maps it now. -/
def serviced (s : State) (f : FaultEv) : Option State :=
  if s.pav.maps.any (holdsFault f) then some s else (s.pav.serve.find? (holdsFault f)).bind (mapChecked s)
/-- The answer reaches the core, or waits in its context while it is saved or a swap has halted it (R229). -/
def answerFault (s : State) (f : FaultEv) (resume : Bool) : State :=
  let s := modPav s fun p => { p with faults := p.faults.erase f }
  if (contextAt s f.team f.core).run != .waitFolop then s
  else if liveHere s f.team f.core && !isHalted s f.core then applyAnswer s f.core resume
  else modContext s f.team f.core fun k => { k with answer := some resume }
/-- RESUME, after the page has been mapped and the invalidation is complete. -/
def execFolopResume (core : Nat) (s : State) : Out :=
  match faultOf s core with
  | none => .next s
  | some f =>
    match serviced s f with
    | none => .next s
    | some s => .next (answerFault s f true)
/-- END: any other cause, and a fault that Folop declines. -/
def execFolopEnd (core : Nat) (s : State) : Out :=
  match faultOf s core with
  | none => .next s
  | some f => .next (answerFault s f false)

/-! ### Partition swaps (R231 to R233) -/

/-- The cores on which a partition is the one that runs. -/
def liveCores (s : State) (p : Nat) : List Nat := (partCores s p).filter fun c => (coreAt s c).part == p
/-- A core of the outgoing partition halts at its boundary, a chain as one: a pending deferred fault comes first, then the
array stands. -/
def haltCore (s : State) (c : Nat) : State :=
  let k := coreAt s c
  if isHalted s c || isFollower k || !atBoundary k then s
  else
    match boundaryTrap s c with
    | some s => s
    | none => modSched (freeze (fencesAct s c) c) fun d => { d with halted := d.halted ++ positions k c }

/-- The state of a partition's core that no team of it has used yet. -/
def freshShadow (p : Nat) (k : Core) : Core :=
  { Core.reset with imemQuota := k.imemQuota, storeQuota := k.storeQuota, part := p, seq := { Seq.reset with cyc := k.seq.cyc, readyAt := k.seq.cyc } }
/-- A core of the incoming partition thaws, unless its trap handler or Folop holds it. -/
def thawIn (s : State) (c : Nat) : State :=
  let s := modSched s fun d => { d with halted := d.halted.filter (· != c) }
  let m := coreAt s (masterOf s c)
  let s := modArr s c fun a => { a with frozen := m.ctl.inh || m.run == .waitFolop }
  match (coreAt s c).answer with
  | some a => applyAnswer s c a
  | none => s
/-- Exchange the live state of one core with its shadow; what reached the shadow meanwhile is applied before the thaw (R230). -/
def swapOne (s : State) (incoming c : Nat) : State :=
  let k := coreAt s c
  let other := match Tab.look s.sched.shadow c with | some y => if y.part = incoming then y else freshShadow incoming k | none => freshShadow incoming k
  let s := modSched s fun d => { d with shadow := Tab.set .reset d.shadow c { k with mem := { k.mem with sb := [], l1 := [] } } }
  applyTail (setCore s c { other with tail := [] }) c other.tail
/-- Once every core has halted and its copies are over (R208): their L1 is written back, shared cores exchange their state,
and the incoming partition thaws. -/
def exchange (s : State) (outgoing incoming : Nat) : State :=
  let outs := liveCores s outgoing
  let s := outs.foldl writeOut s
  let s := (outs.filter fun c => (partCores s incoming).contains c).foldl (fun s c => swapOne s incoming c) s
  let s := (liveCores s incoming).foldl thawIn s
  modSched s fun d => { d with swap := none }
/-- A swap goes on: each core halts at its own boundary, the last one's halt lets the exchange happen. -/
def swapStep (s : State) (outgoing incoming : Nat) : State :=
  let s := (liveCores s outgoing).foldl haltCore s
  if (liveCores s outgoing).all fun c => isHalted s c && copiesQuiet (coreAt s c) then exchange s outgoing incoming else s
/-- R233. -/
def execPartitionSwap (outgoing incoming : Nat) (s : State) : Out :=
  match s.sched.swap with
  | some (a, b) => .next (if a = outgoing && b = incoming then swapStep s a b else s)
  | none =>
    if outgoing = incoming then .next s
    else .next (swapStep (modSched s fun d => { d with swap := some (outgoing, incoming) }) outgoing incoming)

/-! ### Tasks and teams -/

/-- R297: the idle core's first-place record starts once the array is empty. -/
def execTaskStart (core : Nat) (s : State) : Out :=
  match bindingOf s core with
  | none => .next s
  | some (t, x) =>
    if x.state == .running && liveHere s t core && !isHalted s core && coreIdle (coreAt s core) && !retiring x core && arrayEmpty s (masterOf s core) && arrayEmpty s core then
      .next (startTask s core t (coreAt s core).lcore)
    else .next s

/-- R318: a reading finds COUNT 0, and the counts are written behind an acquire at DEVICE scope. -/
def finishJoin (s : State) (c : Nat) (j : JoinWait) (ws : List Nat) : State :=
  let w := ws.getD
  let s := acquire s c 4
  modCore s c fun k => { k with
    joinw := k.joinw.erase j
    seq := { k.seq with
      g := putG (putG k.seq.g j.d (BitVec.ofNat 64 (w 2 0 + w 3 0 * 2 ^ 32))) (j.d + 1) (BitVec.ofNat 64 (w 4 0 + w 1 0 * 2 ^ 32))
      unchk := k.seq.unchk.filter fun r => !(r == j.d || r == j.d + 1) } }
/-- The first waiting JOINW of a core whose record has COUNT 0, with the record's words. -/
def joinReady (s : State) (c : Nat) : Option (JoinWait × List Nat) :=
  let asid := (coreAt s c).ctl.asid.toNat
  let k := coreAt s c
  (if isHalted s c then [] else k.joinw.filter (joinOpen k)).findSome? fun j =>
    match (joinRead s asid j.addr).2 with
    | some ws => if ws.getD 0 0 = 0 then some (j, ws) else none
    | none => none
def execJoinwComplete (core : Nat) (s : State) : Out :=
  match joinReady s core with
  | none => .next s
  | some (j, ws) => .next (finishJoin s core j ws)

/-- R303. -/
def execTeamKill (team : Nat) (s : State) : Out := .next (killTeam s team 2 (.killed false false))

/-- The packet that launched a team: LAUNCH takes the team's status; a graph sees the end of its kernel by itself. -/
def finishTeam (s : State) (t : Nat) (x : Team) : State :=
  let drop (s : State) : State := callSched (modSched s fun d => { d with teams := Tab.erase t d.teams })
  match pktAt s x.pkt with
  | none => drop s
  | some p =>
    let p := { p with cores := x.place ++ p.cores }
    if bitsOf p.bits.toNat 0 8 = 1 then drop (setPkt s x.pkt { p with team := none, status := some (p.status.getD x.status) })
    else if p.team = some t && p.status.isNone then s
    else if p.team = some t then drop (setPkt s x.pkt { p with team := none })
    else drop s

/-- R295: the team is over; its cores are free, its area can be used again. -/
def execTeamEnd (team : Nat) (s : State) : Out :=
  match teamAt s team with
  | none => .next s
  | some x =>
    if teamDone s team then
      let s := modPav (callSched (endTeam s team)) fun p => { p with areas := p.areas ++ [(x.asid, x.rcptr)] }
      .next (finishTeam s team x)
    else if x.state == .ended then .next (finishTeam s team x)
    else .next s

/-- The requests of the earliest beat have all come: the beat is over. -/
def cutReady (s : State) (g : Gen) : Bool := match g.reqs with | r :: _ => decide (r.at_ < s.beat) | [] => false
/-- The generator's turn: a cut where an event of R293 is among those requests, after which the core of a RETIRE is idle (R320). -/
def genCut (s : State) (t : Nat) : State :=
  match genOf s t with
  | none => s
  | some (_, g) => if cutReady s g && hasCut g then dispatchRecords (runCut s t) t else s
/-- R293. -/
def execGeneratorCut (team : Nat) (s : State) : Out := .next (genCut s team)
/-- R312. -/
def execSchedRegisterServe (team : Nat) (s : State) : Out :=
  .next (match genOf s team with | some (_, g) => if cutReady s g then serveRegister s team else s | none => s)

end Sys2Proof.Machine
end

