-- ==== Sys2Proof/Machine/Pavilion.lean ====
section
/-! DEFINITION. The command processor: doorbells, queue events and packet checks, team images and launches, signal
waits, copies, regions, graphs, completions and interrupts (R76 to R82, R304, R345 to R364, R380, R381). -/

namespace Sys2Proof.Machine
open Sys2Proof

/-! ### Packets (R354, R357) -/

/-- A field of a packet, a node or a block image: offset and bytes. -/
def fld (x off n : Nat) : Nat := bitsOf x (8 * off) (8 * n)
def pktType (p : Pkt) : Nat := fld p.bits.toNat 0 1
def pktFld (p : Pkt) (off n : Nat) : Nat := fld p.bits.toNat off n
def pktRel (p : Pkt) : Nat := bitsOf p.bits.toNat 11 3
def pktSoc (b : Nat) : Bool := b.testBit 15
def pktAsid (s : State) (p : Pkt) : Nat := (queueAt s p.queue).asid
/-- The first byte past the listed fields of a body. -/
def bodyEnd (ty : Nat) : Nat := if ty = 2 then 0x20 else if ty = 3 then 0x30 else 0x28
/-- The reserved bits and bytes of a packet (R354, R357). -/
def reservedOk (b : Nat) : Bool :=
  let ty := fld b 0 1
  fld b 2 1 < 2 && fld b 3 5 == 0 && fld b (bodyEnd ty) (64 - bodyEnd ty) == 0 &&
    (ty != 3 || fld b 0x28 4 < 4) && (ty != 6 || fld b 0x20 8 < 4)
/-- The ranges of the body's fields. -/
def bodyOk (b : Nat) : Bool :=
  match fld b 0 1 with
  | 3 => fld b 0x10 8 % 8 == 0 && fld b 0x28 4 != 3
  | 4 => fld b 0x10 8 % 8 == 0 && fld b 0x20 8 < 2
  | 5 => fld b 0x10 8 % 64 == 0 && fld b 0x18 8 % 64 == 0 && fld b 0x20 8 % 64 == 0 && 64 ≤ fld b 0x20 8 && fld b 0x20 8 ≤ 2 ^ 40
  | 6 => fld b 0x10 8 % 256 == 0
  | _ => true
/-- SIG, SOC and IRQ against each other (R352, R354). -/
def signalOk (b : Nat) : Bool :=
  fld b 8 8 % 8 == 0 && (fld b 8 8 != 0) == pktSoc b && (!b.testBit 16 || pktSoc b)
/-- The lowest queue error code that applies, 0 for none (R352). -/
def packetError (b : Nat) : Nat :=
  if fld b 0 1 = 0 || 6 < fld b 0 1 then 2
  else if !reservedOk b then 3
  else if 5 < bitsOf b 8 3 || 5 < bitsOf b 11 3 then 4
  else if !signalOk b then 5
  else if !bodyOk b then 6
  else 0

/-! ### Queues (R349 to R353) -/

/-- R350: a host's store, or a device's that came while the Pavilion stood.  The host's earlier writes have been performed
(R274, R355). -/
def execDoorbellWrite (queue : Nat) (w : BitVec 64) (s : State) : Out :=
  let s := modPav (settle s) fun p => { p with bells := p.bells.erase (queue, w.toNat) }
  .next (doorbell s queue w.toNat)

/-- Started packets of a queue that have not completed. -/
def openPackets (s : State) (q : Nat) : Nat := (s.pav.pkts.filter fun p => p.2.queue == q).length

/-- Take packets of a queue in index order until the event ends (R353). -/
def takePackets : Nat → State → Nat → State
  | 0, s, _ => s
  | n + 1, s, q =>
    let x := queueAt s q
    if x.state ≠ 1 || x.write ≤ x.read || 64 ≤ openPackets s q then s
    else
      match readBytes s x.asid (x.base + 64 * (x.read % 2 ^ x.logsz)) 64 with
      | (s, .error _) => queueError s q 7
      | (s, .ok bs) =>
        let b := bytesNat bs
        if packetError b ≠ 0 then queueError s q (packetError b)
        else if b.testBit 14 && openPackets s q ≠ 0 then s
        else
          let p : Pkt := { queue := q, idx := x.read, bits := BitVec.ofNat 512 b, team := none, node := 0, cur := 0, cores := [], deadline := none, begun := false, status := none }
          let k := s.pav.nextPkt
          let s := setQueue s q { queueAt s q with read := x.read + 1 }
          takePackets n (modPav s fun v => { v with pkts := Tab.put v.pkts k p, nextPkt := k + 1 }) q

/-- R353: a free Pavilion core among 1 to 11 takes the oldest event.  A packet starts behind the host writes that came before
it (R274, R355). -/
def execQueueEvent (pav : Nat) (s : State) : Out :=
  if pav = 0 || 11 < pav then .next s
  else
    match s.pav.events with
    | [] => .next s
    | q :: t =>
      let s := setQueue (modPav s fun p => { p with events := t }) q { queueAt s q with posted := false }
      .next (takePackets 65 (settle s) q)

/-! ### Interrupts (R348, R363) -/

/-- A posted store of IRQDATA to IRQADDR. -/
def sendIrq (s : State) (q : Nat) : State :=
  let x := queueAt s q
  postBytes (setQueue s q { x with irqAt := none }) x.irqaddr (natBytes 4 x.irqdata.toNat)
def usBeats : Nat := 1800
/-- Hand an interrupt to the coalescer of a queue. -/
def coalesce (s : State) (q : Nat) : State :=
  let x := queueAt s q
  if x.coal = 0 then sendIrq s q
  else if x.irqAt.isSome then s
  else setQueue s q { x with irqAt := some (s.beat + usBeats * x.coal) }
/-- R363. -/
def execIrqSend (queue : Nat) (s : State) : Out :=
  match (queueAt s queue).irqAt with
  | none => .next s
  | some b => if b ≤ s.beat then .next (sendIrq s queue) else .next s

/-! ### Completion (R355, R356) -/

/-- A packet's work is over with a status. -/
def workDone (s : State) (p st : Nat) : State :=
  match pktAt s p with
  | none => s
  | some x => setPkt s p { x with begun := true, status := some (x.status.getD st) }

/-- The writes of a packet's work are released at a scope: those of the cores that it used, and posted ones (R257, R355). -/
def releaseWork (s : State) (sc : Nat) (cs : List Nat) : State :=
  if sc = 0 then s
  else
    let s := cs.foldl (fun s c => releaseActs s c sc) s
    if sc = 5 then deliverPosted s else s

/-- R355. -/
def execPacketComplete (pkt : Nat) (s : State) : Out :=
  match pktAt s pkt with
  | none => .next s
  | some p =>
    match p.status, p.team with
    | some st, none =>
      let s := releaseWork s (pktRel p) p.cores
      let s :=
        if !pktSoc p.bits.toNat then s
        else
          match writeNum s (pktAsid s p) (pktFld p 8 8) 8 (2 ^ 63 + st) with
          | (s, .error _) => queueError s p.queue 8
          | (s, .ok _) => if p.bits.getLsbD 16 then coalesce s p.queue else s
      let s := modPav s fun v => { v with pkts := Tab.erase pkt v.pkts }
      let x := queueAt s p.queue
      .next (if x.state = 1 && x.read < x.write then postEvent s p.queue else s)
    | _, _ => .next s

/-! ### Team images (R76, R77, R80, R82) -/

/-- A section header. -/
structure Section where
  kind : Nat
  off : Nat
  size : Nat
deriving DecidableEq, Repr

def sectionAt (hdrs i : Nat) : Section :=
  { kind := fld hdrs (48 * i + 4) 2, off := fld hdrs (48 * i + 0x10) 8, size := fld hdrs (48 * i + 0x18) 8 }
/-- Section kinds 1 to 17, after the null header. -/
def sectionsOk (l : List Section) : Bool := l.tail.all fun x => 0 < x.kind && x.kind < 18

/-- The bytes of the first section of a kind, as a number; a kind that is missing is empty. -/
def readSection (s : State) (asid va : Nat) (x : Option Section) : State × Except XErr (List Byte) :=
  match x with
  | none => (s, .ok [])
  | some x => readBytes s asid (va + x.off) x.size
/-- The first section of a kind: a second one of a table's kind, which dxld's merging never leaves (R82), is not looked at
(DESIGN CHOICE, log entry 66). -/
def findKind (l : List Section) (k : Nat) : Option Section := l.find? fun x => x.kind == k
/-- The section that an index of the file header names; index 0 is the null header, an absent table (DESIGN
CHOICE, log entry 65). -/
def indexOk (l : List Section) (i k : Nat) : Bool := i == 0 || (l[i]?.map (·.kind)) == some k
def indexed (l : List Section) (i : Nat) : Option Section := if i = 0 then none else l[i]?

def bundlesOf (bs : List Byte) : Nat → List (BitVec 128)
  | 0 => []
  | n + 1 => BitVec.ofNat 128 (bytesNat (bs.take 16)) :: bundlesOf (bs.drop 16) n

/-- The core entries by logical core, each with its code. -/
def readEnts (s : State) (asid va team cores : Nat) (l : List Section) : Nat → State × Except XErr (Option (List (Nat × Nat × List (BitVec 128))))
  | 0 => (s, .ok (some []))
  | n + 1 =>
    match readEnts s asid va team cores l n with
    | (s, .ok (some es)) =>
      match (List.range cores).find? fun i => fld team (0x20 + 16 * i) 1 == n with
      | none => (s, .ok none)
      | some i =>
        match l[fld team (0x20 + 16 * i + 4) 4]? with
        | none => (s, .ok none)
        | some x =>
          match readSection s asid va (some x) with
          | (s, .error e) => (s, .error e)
          | (s, .ok bs) =>
            let count := fld team (0x20 + 16 * i + 8) 4
            if x.kind ≠ 1 || 16384 < count || bs.length < 16 * count then (s, .ok none)
            else (s, .ok (some (es ++ [(fld team (0x20 + 16 * i + 1) 1, fld team (0x20 + 16 * i + 2) 1, bundlesOf bs count)])))
    | r => r

/-- A NUL-terminated string of the string table. -/
def nameAt (strs : List Byte) (off : Nat) : List Byte := (strs.drop off).takeWhile fun b => b != 0
/-- An import is resolved when a symbol of its name is there and none of that name is undefined (R78, R82; DEDUCED, log
entry 16). -/
def importsOk (team cores adjN n : Nat) (syms strs : List Byte) : Bool :=
  let v := bytesNat syms
  (List.range n).all fun i =>
    let name := nameAt strs (fld team (0x20 + 16 * cores + 8 * adjN + 8 * i) 4)
    let mine := (List.range (syms.length / 24)).filter fun j => nameAt strs (fld v (24 * j) 4) == name
    !mine.isEmpty && mine.all fun j => fld v (24 * j + 4) 4 != 0

/-- Entries of 8 bytes. -/
def rows8 (bs : List Byte) : List Nat := (List.range (bs.length / 8)).map fun i => fld (bytesNat bs) (8 * i) 8

/-- The image of checked parts. -/
def buildImage (team cores adjN : Nat) (es : List (Nat × Nat × List (BitVec 128))) (tens tmpl epi kin bar : List Byte)
    (sch : Option (List Byte)) : Image :=
  { cores := cores, discard := (fld team 6 2).testBit 0, tilelen := fld team 8 4
    adj := (List.range adjN).map fun i =>
      (fld team (0x20 + 16 * cores + 8 * i) 1, fld team (0x20 + 16 * cores + 8 * i + 1) 1, fld team (0x20 + 16 * cores + 8 * i + 2) 1)
    ents := es, tensors := tens, tensorN := fld team 0x10 2, templates := tmpl, templateN := fld team 0x12 2
    epilogues := epi, epilogueN := fld team 0x14 2
    kinit := (rows8 kin).map fun r => (fld r 0 1, fld r 1 1, fld r 2 2)
    barrier := (rows8 bar).map fun r => (fld r 0 1, fld r 1 1, fld r 2 2, fld r 4 2)
    sched := sch.map rows8 }

/-- Read a list of sections' bytes. -/
def readAll (s : State) (asid va : Nat) : List (Option Section) → State × Except XErr (List (List Byte))
  | [] => (s, .ok [])
  | x :: t =>
    match readSection s asid va x with
    | (s, .error e) => (s, .error e)
    | (s, .ok b) =>
      match readAll s asid va t with
      | (s, .error e) => (s, .error e)
      | (s, .ok bs) => (s, .ok (b :: bs))

/-- The fields of a DOF header that R76 fixes. -/
def headerOk (h : Nat) : Bool :=
  fld h 0 4 == 0x464F447F && fld h 4 2 == 1 && fld h 6 2 == 2 && fld h 8 4 < 4 && fld h 0x20 4 < fld h 0x0C 4 && fld h 0x24 4 == 0 && fld h 0x38 8 == 0
/-- The image at a DOF header; none where it fails its checks (which malformations those are: DESIGN CHOICE, log entry 65).
Bit 1 of the TEAM flags decides whether there is a schedule: without it a SCHED section is not looked at, with it and no such
section the schedule registers are zero (DESIGN CHOICE, log entry 86). -/
def readImage (s : State) (asid va : Nat) : State × Except XErr (Option Image) :=
  match readNum s asid va 64 with
  | (s, .error e) => (s, .error e)
  | (s, .ok h) =>
    let n := fld h 0x0C 4
    let teamNdx := fld h 0x20 4
    if !headerOk h then (s, .ok none)
    else
      match readNum s asid (va + fld h 0x10 8) (48 * n) with
      | (s, .error e) => (s, .error e)
      | (s, .ok hdrs) =>
        let l := (List.range n).map (sectionAt hdrs)
        let str := fld h 0x18 4
        let sym := fld h 0x1C 4
        match readSection s asid va l[teamNdx]? with
        | (s, .error e) => (s, .error e)
        | (s, .ok tb) =>
          let team := bytesNat tb
          let cores := fld team 4 2
          let adjN := fld team 0x0C 2
          if fld hdrs 0 48 ≠ 0 || !sectionsOk l || (l[teamNdx]?.map (·.kind)) != some 15 || !indexOk l sym 5 || !indexOk l str 6 ||
              cores = 0 || 64 < cores then (s, .ok none)
          else
            match readEnts s asid va team cores l cores with
            | (s, .error e) => (s, .error e)
            | (s, .ok none) => (s, .ok none)
            | (s, .ok (some es)) =>
              match readAll s asid va [findKind l 8, findKind l 9, findKind l 10, findKind l 11, findKind l 12, indexed l sym, findKind l 13, indexed l str] with
              | (s, .error e) => (s, .error e)
              | (s, .ok bs) =>
                let b := bs.getD
                let img := buildImage team cores adjN es (b 0 []) (b 1 []) (b 2 []) (b 3 []) (b 4 [])
                  (if (fld team 6 2).testBit 1 then some (b 6 []) else none)
                let ok := importsOk team cores adjN (fld team 0x0E 2) (b 5 []) (b 7 []) &&
                  img.adj.all fun e => e.1 < cores && e.2.1 < cores && 0 < e.2.2 && e.2.2 < 5
                (s, .ok (if ok then some img else none))

/-! ### Launch (R361, R380) -/

/-- The team could be bound if every core of its partition were free. -/
def everBindable (s : State) (img : Image) (region : Nat) : Bool :=
  let p := regionPart s region
  img.cores ≤ (partCores s p).length &&
    ((regionChain s (regionDepth s) region).all fun a => effCores s a == 0 || img.cores ≤ effCores s a) &&
    (placeFrom img.adj (partCores s p) img.cores []).isSome

/-- Step 1 of a launch, and its team placed as waiting; or the status that it fails with. -/
def launchTeam (s : State) (pkt asid region va : Nat) (args : Dword) : State × Except Nat Nat :=
  match readImage s asid va with
  | (s, .error e) => (s, .error (if e = .dead then 7 else 6))
  | (s, .ok none) => (s, .error 3)
  | (s, .ok (some img)) =>
    if (regionAt s region).isNone || effAsid s region ≠ asid || !everBindable s img region then (s, .error 3)
    else
      let (s, gen) := match img.sched with
        | none => (s, some none)
        | some regs => match loadGen s asid regs with | (s, some g) => (s, some (some g)) | (s, none) => (s, none)
      match gen with
      | none => (s, .error 3)
      | some g =>
        let t := s.sched.nextTeam
        let x : Team :=
          { img := img, asid := asid, part := regionPart s region, region := region, pkt := pkt, args := args, state := .waiting, place := []
            rcptr := 0, qhead := 0, qlen := 0, front := [], pushes := [], popped := 0, gen := g, since := s.beat, arrival := s.sched.order, bindOrder := 0, hasSaved := false
            spilled := false, status := 0, releaseAt := none }
        (callSched (setTeam (modSched s fun d => { d with nextTeam := t + 1, order := d.order + 1 }) t x), .ok t)

/-- The region that a field names: 0 takes another. -/
def regionOr (r other : Nat) : Nat := if r = 0 then other else r

/-- R361. -/
def execLaunch (pkt : Nat) (s : State) : Out :=
  match pktAt s pkt with
  | none => .next s
  | some p =>
    if pktType p ≠ 1 || p.begun then .next s
    else
      let q := queueAt s p.queue
      match launchTeam (settle s) pkt q.asid (regionOr (pktFld p 0x20 8) q.region) (pktFld p 0x10 8) (BitVec.ofNat 64 (pktFld p 0x18 8)) with
      | (s, .error st) => .next (workDone s pkt st)
      | (s, .ok t) => .next (setPkt s pkt { p with begun := true, team := some t })

/-! ### WAITSIG and SIGNAL (R358) -/

def waitCond (cond word mask value : Nat) : Bool :=
  let w := word &&& mask
  if cond = 0 then w == value else if cond = 1 then w != value else value ≤ w
/-- Read the word again. -/
def pollSignal (s : State) (pkt : Nat) (p : Pkt) : State :=
  match readNum s (pktAsid s p) (pktFld p 0x10 8) 8 with
  | (s, .error _) => workDone s pkt 6
  | (s, .ok w) =>
    if waitCond (pktFld p 0x28 4) w (pktFld p 0x20 8) (pktFld p 0x18 8) then workDone s pkt 0 else s
def execWaitsig (pkt : Nat) (s : State) : Out :=
  match pktAt s pkt with
  | none => .next s
  | some p =>
    if pktType p ≠ 3 || p.begun then .next s
    else
      let tmo := pktFld p 0x2C 4
      let p := { p with begun := true, deadline := if tmo = 0 then none else some (s.beat + usBeats * tmo) }
      .next (pollSignal (setPkt (settle s) pkt p) pkt p)
/-- A WAITSIG that waits. -/
def waiting (p : Pkt) : Bool := pktType p == 3 && p.begun && p.status.isNone
def execWaitsigPoll (pkt : Nat) (s : State) : Out :=
  match pktAt s pkt with
  | none => .next s
  | some p => if waiting p then .next (pollSignal s pkt p) else .next s
def execWaitsigTimeout (pkt : Nat) (s : State) : Out :=
  match pktAt s pkt with
  | none => .next s
  | some p =>
    match p.deadline with
    | none => .next s
    | some b => if waiting p && b ≤ s.beat then .next (workDone s pkt 8) else .next s

/-- A store into a signal word, behind a SYSTEM release. -/
def storeSignal (s : State) (asid va v : Nat) : State × Bool :=
  match writeNum (deliverPosted s) asid va 8 v with
  | (s, .error _) => (s, false)
  | (s, .ok _) => (s, true)
/-- An addition at the word's atomic unit. -/
def addSignal (s : State) (asid va v : Nat) : State × Bool :=
  match pavTranslate (deliverPosted s) asid va true with
  | (s, .error _) => (s, false)
  | (s, .ok x) => ((atomicAt s x 0 8 v 0 false).1, true)
def signalWork (s : State) (pkt op : Nat) (f : State → Nat → Nat → Nat → State × Bool) : Out :=
  match pktAt s pkt with
  | none => .next s
  | some p =>
    if pktType p ≠ 4 || p.begun || pktFld p 0x20 8 ≠ op then .next s
    else
      let (s, ok) := f (settle s) (pktAsid s p) (pktFld p 0x10 8) (pktFld p 0x18 8)
      .next (workDone s pkt (if ok then 0 else 6))
def execSignalStore (pkt : Nat) (s : State) : Out := signalWork s pkt 0 storeSignal
def execSignalAdd (pkt : Nat) (s : State) : Out := signalWork s pkt 1 addSignal

/-! ### COPY (R359) -/

/-- The source's pieces of 64 bytes up to the first that faults. -/
def readPieces (s : State) (asid va : Nat) : Nat → State × List (List Byte) × Bool
  | 0 => (s, [], true)
  | n + 1 =>
    match readBytes s asid (va % 2 ^ 64) 64 with
    | (s, .error _) => (s, [], false)
    | (s, .ok b) =>
      let (s, bs, ok) := readPieces s asid (va + 64) n
      (s, b :: bs, ok)
/-- A piece lands; with the last one of its line the line is full (R206, R211). -/
def landOne (s : State) (va : Nat) (x : Xl) (b : List Byte) (last : Bool) : State :=
  let s := deviceWrite s x b
  if x.home = 1 && (va % 128 = 64 || last) then setFull s (x.pa / 128) true else s
/-- Land them up to the first write that faults. -/
def landPieces (s : State) (asid va : Nat) : List (List Byte) → State × Bool
  | [] => (s, true)
  | b :: t =>
    match pavTranslate s asid (va % 2 ^ 64) true with
    | (s, .error _) => (s, false)
    | (s, .ok x) => landPieces (landOne s va x b t.isEmpty) asid (va + 64) t
/-- R359: overlapping ranges give the bytes that the source held (R205). -/
def execCopy (pkt : Nat) (s : State) : Out :=
  match pktAt s pkt with
  | none => .next s
  | some p =>
    if pktType p ≠ 5 || p.begun then .next s
    else
      let (s, bs, read) := readPieces (settle s) (pktAsid s p) (pktFld p 0x10 8) (pktFld p 0x20 8 / 64)
      let (s, wrote) := landPieces s (pktAsid s p) (pktFld p 0x18 8) bs
      .next (workDone s pkt (if read && wrote then 0 else 6))

/-! ### Regions (R304, R360) -/

/-- A block image (R304). -/
def regionOf (v : Nat) : Region :=
  { parent := fld v 0 8, child := fld v 8 8, sibling := fld v 0x10 8, ovr := BitVec.ofNat 16 (fld v 0x18 2), prio := BitVec.ofNat 8 (fld v 0x1A 1)
    flags := BitVec.ofNat 8 (fld v 0x1B 1), asid := BitVec.ofNat 16 (fld v 0x1C 2), cores := BitVec.ofNat 8 (fld v 0x1E 1)
    part := BitVec.ofNat 8 (fld v 0x1F 1), mem := BitVec.ofNat 64 (fld v 0x20 8), copies := BitVec.ofNat 32 (fld v 0x28 4)
    pdl := BitVec.ofNat 32 (fld v 0x2C 4), cused := fld v 0x30 1, copyused := fld v 0x34 4, mused := fld v 0x38 8, swa := BitVec.ofNat 512 (fld v 0x40 64) }
/-- The conditions under which Folop takes a block. -/
def blockOk (v : Nat) : Bool :=
  let root := (fld v 0x1B 1).testBit 2
  fld v 0x18 2 < 256 && fld v 0x1A 1 < 16 && fld v 0x1B 1 < 8 && fld v 0x1C 2 < 4096 && fld v 0x1E 1 ≤ 64 && fld v 0x1F 1 < 16 &&
    fld v 0x31 3 == 0 && fld v 0x80 128 == 0 && root == (fld v 0 8 == 0) && (!root || fld v 0x18 2 == 255)

/-- Put a block in under its parent. -/
def linkRegion (s : State) (a v : Nat) : Option State :=
  let r := regionOf v
  if !blockOk v || (regionAt s a).isSome || a = 0 then none
  else if r.parent = 0 then some (callSched (setRegion s a r))
  else
    match regionAt s r.parent with
    | none => none
    | some p => some (callSched (setRegion (setRegion s r.parent { p with child := a }) a { r with sibling := p.child }))

/-- A region's children lose one. -/
def unlinkRegion (s : State) (a : Nat) (r : Region) : State :=
  let s := modSched s fun d => { d with regions := (Tab.erase a d.regions).map fun p =>
    (p.1, if p.2.sibling = a then { p.2 with sibling := r.sibling } else p.2) }
  match regionAt s r.parent with
  | none => s
  | some p => if p.child = a then setRegion s r.parent { p with child := r.sibling } else s
/-- A bound or waiting team names the block. -/
def regionBusy (s : State) (a : Nat) : Bool := s.sched.teams.any fun t => t.2.region == a && t.2.state != .ended

/-- A REGION packet of one operation: the block's address and its image's bytes where it has one. -/
def regionWork (s : State) (pkt op : Nat) (f : State → Nat → Nat → Option State) : Out :=
  match pktAt s pkt with
  | none => .next s
  | some p =>
    if pktType p ≠ 6 || p.begun || pktFld p 0x20 8 ≠ op then .next s
    else if !(queueAt s p.queue).priv then .next (workDone s pkt 5)
    else
      let img := if op < 2 then readNum (settle s) (pktAsid s p) (pktFld p 0x18 8) 256 else (s, .ok 0)
      match img with
      | (s, .error _) => .next (workDone s pkt 6)
      | (s, .ok v) =>
        match f s (pktFld p 0x10 8) v with
        | none => .next (workDone s pkt 5)
        | some t => .next (workDone t pkt 0)
def execRegionInsert (pkt : Nat) (s : State) : Out := regionWork s pkt 0 linkRegion
/-- The fields that Folop owns are rewritten; the counts that the Q4 writes stay. -/
def updateRegion (s : State) (a v : Nat) : Option State :=
  match regionAt s a with
  | none => none
  | some r =>
    if !blockOk v then none
    else some (callSched (setRegion s a { regionOf v with cused := r.cused, copyused := r.copyused }))
def execRegionUpdate (pkt : Nat) (s : State) : Out := regionWork s pkt 1 updateRegion
def removeRegion (s : State) (a : Nat) (_ : Nat) : Option State :=
  match regionAt s a with
  | none => none
  | some r => if r.child ≠ 0 || regionBusy s a then none else some (callSched (unlinkRegion s a r))
def execRegionRemove (pkt : Nat) (s : State) : Out := regionWork s pkt 2 removeRegion
def killRegion (s : State) (a : Nat) (_ : Nat) : Option State :=
  if (regionAt s a).isNone then none
  else some ((s.sched.teams.filter fun t => inSubtree s a t.2.region).foldl (fun s t => killTeam s t.1 2 (.killed false false)) s)
def execRegionKill (pkt : Nat) (s : State) : Out := regionWork s pkt 3 killRegion

/-! ### Graphs (R345 to R348, R381) -/

/-- The reserved fields and ranges of a node (R345). -/
def nodeOk (v : Nat) : Bool :=
  let w (i : Nat) : Nat := fld v (8 * i) 8
  let b := fld v 1 1
  fld v 2 6 == 0 && fld v 0x30 16 == 0 &&
    match fld v 0 1 with
    | 1 => b < 64 && b % 8 < 6 && b / 8 < 6 && w 1 % 64 == 0 && w 5 == 0
    | 2 => b < 2 && w 1 % 64 == 0 && w 2 % 64 == 0 && w 3 % 8 == 0 && w 4 == 0 && fld v 0x28 4 != 0
    | 3 => b == 0 && w 1 == 0 && w 2 % 8 == 0 && w 3 % 64 == 0 && w 4 % 64 == 0 && w 5 == 0
    | 4 => b == 0 && w 1 % 64 == 0 && w 2 % 8 == 0 && w 4 == 0 && w 5 < 2
    | 5 => b == 0 && w 1 == 0 && w 2 == 0 && w 3 == 0 && w 4 == 0 && w 5 == 0
    | _ => false

/-- A graph that runs. -/
def runsGraph (p : Pkt) : Bool := pktType p == 2 && p.begun && p.status.isNone
def gotoNode (s : State) (pkt : Nat) (p : Pkt) (a : Nat) : State := setPkt s pkt { p with team := none, node := a }

/-- KERNEL: launch, then wait for the team's end. -/
def kernelNode (s : State) (pkt : Nat) (p : Pkt) (v : Nat) : State :=
  let q := queueAt s p.queue
  match p.team with
  | none =>
    let region := regionOr (fld v 0x20 8) (regionOr (pktFld p 0x18 8) q.region)
    match launchTeam s pkt q.asid region (fld v 0x10 8) (BitVec.ofNat 64 (fld v 0x18 8)) with
    | (s, .error st) => workDone s pkt st
    | (s, .ok t) => setPkt s pkt { p with team := some t, cur := BitVec.ofNat 512 v }
  | some t =>
    let ended (s : State) (cs : List Nat) (st : Nat) : State :=
      let p := { p with cores := cs ++ p.cores }
      let s := releaseWork (callSched (modSched s fun d => { d with teams := Tab.erase t d.teams })) (fld v 1 1 / 8 % 8) cs
      if st ≠ 0 then workDone (setPkt s pkt { p with team := none }) pkt st else gotoNode s pkt p (fld v 8 8)
    match teamAt s t with
    | none => ended s [] 0
    | some x => if x.state == .ended then ended s x.place x.status else s

/-- The visit of a LOOP node after ACTIVE and COUNT are set. -/
def loopVisit (s : State) (pkt : Nat) (p : Pkt) (asid v count : Nat) : State :=
  match readNum s asid (fld v 0x18 8) 8 with
  | (s, .error _) => workDone s pkt 6
  | (s, .ok pred) =>
    if pred = 0 || count = fld v 0x28 4 then
      match writeNum s asid (p.node + 1) 1 0 with
      | (s, .error _) => workDone s pkt 6
      | (s, .ok _) => gotoNode s pkt p (fld v 8 8)
    else
      match writeNum s asid (p.node + 0x2C) 4 (count + 1) with
      | (s, .error _) => workDone s pkt 6
      | (s, .ok _) => gotoNode s pkt p (fld v 0x10 8)
def loopNode (s : State) (pkt : Nat) (p : Pkt) (v : Nat) : State :=
  let asid := pktAsid s p
  if v.testBit 8 then loopVisit s pkt p asid v (fld v 0x2C 4)
  else
    match writeNum s asid (p.node + 1) 1 1 with
    | (s, .error _) => workDone s pkt 6
    | (s, .ok _) =>
      match writeNum s asid (p.node + 0x2C) 4 0 with
      | (s, .error _) => workDone s pkt 6
      | (s, .ok _) => loopVisit s pkt p asid v 0
def condNode (s : State) (pkt : Nat) (p : Pkt) (v : Nat) : State :=
  match readNum s (pktAsid s p) (fld v 0x10 8) 8 with
  | (s, .error _) => workDone s pkt 6
  | (s, .ok pred) => gotoNode s pkt p (if pred = 0 then fld v 0x20 8 else fld v 0x18 8)
def signalNode (s : State) (pkt : Nat) (p : Pkt) (v : Nat) : State :=
  match storeSignal s (pktAsid s p) (fld v 0x10 8) (fld v 0x18 8) with
  | (s, false) => workDone s pkt 6
  | (s, true) => gotoNode (if fld v 0x28 4 = 1 then coalesce s p.queue else s) pkt p (fld v 8 8)
def endNode (s : State) (pkt : Nat) (_ : Pkt) (_ : Nat) : State := workDone s pkt 0

/-- The node that a graph is at: as it found it, while the node's kernel runs, else read now. -/
def nodeBytes (s : State) (p : Pkt) : State × Except XErr Nat :=
  if p.team.isSome then (s, .ok p.cur.toNat) else readNum s (pktAsid s p) p.node 64
/-- A running graph comes to its node; a node of another kind leaves it where it is (kind 0 takes any). -/
def atNode (s : State) (pkt kind : Nat) (f : State → Nat → Pkt → Nat → State) : State :=
  match pktAt s pkt with
  | none => s
  | some p =>
    if !runsGraph p then s
    else if p.node % 64 ≠ 0 then workDone s pkt 4
    else
      match nodeBytes s p with
      | (s, .error _) => workDone s pkt 6
      | (s, .ok v) =>
        if !nodeOk v then workDone s pkt 4
        else if kind = 0 || fld v 0 1 = kind then f s pkt p v
        else s

/-- R346. -/
def execGraph (pkt : Nat) (s : State) : Out :=
  match pktAt s pkt with
  | none => .next s
  | some p => if pktType p ≠ 2 || p.begun then .next s else .next (setPkt (settle s) pkt { p with begun := true, node := pktFld p 0x10 8 })
def execGraphKernel (pkt : Nat) (s : State) : Out := .next (atNode s pkt 1 kernelNode)
/-- R347. -/
def execGraphLoop (pkt : Nat) (s : State) : Out := .next (atNode s pkt 2 loopNode)
def execGraphCond (pkt : Nat) (s : State) : Out := .next (atNode s pkt 3 condNode)
/-- R348. -/
def execGraphSignal (pkt : Nat) (s : State) : Out := .next (atNode s pkt 4 signalNode)
def execGraphEnd (pkt : Nat) (s : State) : Out := .next (atNode s pkt 5 endNode)
/-- The node that a running graph is at, whatever its kind. -/
def graphStep (s : State) (pkt : Nat) : State :=
  atNode s pkt 0 fun s pkt p v =>
    match fld v 0 1 with
    | 1 => kernelNode s pkt p v
    | 2 => loopNode s pkt p v
    | 3 => condNode s pkt p v
    | 4 => signalNode s pkt p v
    | _ => endNode s pkt p v

end Sys2Proof.Machine
end

