-- ==== Sys2Proof/Machine/Folop.lean ====
section
/-! DEFINITION. Folop's management service: the host mailbox and its commands, and the teardown of ASIDs (R231, R242 to
R246, R349, R351, R364, R366, R367, R376, R377). -/

namespace Sys2Proof.Machine
open Sys2Proof

/-! ### The mailbox (R367) -/

def modMbox (s : State) (f : Mailbox → Mailbox) : State := modPav s fun p => { p with mbox := f p.mbox }
/-- An operand of the command that runs. -/
def mboxArg (s : State) (i : Nat) : Nat := (Tab.get 0 s.pav.mbox.ops i).toNat
/-- Folop accepts its mailbox. -/
def folopReady (s : State) : Bool := s.power.boot == 3
def knownCode (c : Half) : Bool := decide (1 ≤ c.toNat) && decide (c.toNat ≤ 9)

/-- Finish the command that runs: OUT and RESULT, then DONE. -/
def finishCommand (s : State) (out : Option Nat) (result : Nat) : State :=
  modMbox s fun m =>
    { m with
      out := match out with | some v => BitVec.ofNat 64 v | none => m.out
      result := BitVec.ofNat 32 result, done := m.tag.getD m.done, tag := none }
def refuse (s : State) (result : Nat) : State := finishCommand s none result
def succeed (s : State) (out : Nat) : State := finishCommand s (some out) 0

/-- A write of RING: out of sequence, of an unknown code, or the start of a command. -/
def ringWrite (s : State) (tag : Dword) : State :=
  let m := s.pav.mbox
  if !folopReady s then s
  else if tag ≠ m.done + 1 then modMbox s fun m => { m with result := 3 }
  else if m.tag.isSome then s
  else if !knownCode m.code then modMbox s fun m => { m with result := 1, done := tag }
  else modMbox s fun m => { m with tag := some tag, runs := m.code, ops := m.args }
def execRingOutOfSequence (tag : BitVec 64) (s : State) : Out :=
  let m := s.pav.mbox
  if tag ≠ m.done + 1 || (m.tag.isNone && !knownCode m.code) then .next (ringWrite s tag) else .next s

/-- A command runs when it is the one that Folop has taken. -/
def command (s : State) (code : Nat) (f : State → State) : Out :=
  if s.pav.mbox.tag.isSome && s.pav.mbox.runs.toNat = code then .next (f s) else .next s

/-! ### ASIDs (R244, R364) -/

def setAsid (s : State) (a : Nat) (e : AsidEntry) : State := modPav s fun p => { p with asids := Tab.set .reset p.asids a e }
def asidLive (s : State) (a : Nat) : Bool := decide (a < 4096) && (asidAt s a).v && !(asidAt s a).dying
def rootBytes : Nat := 2 ^ 21

/-- An empty root table: the one that a freed ASID left, or a new one. -/
def emptyRoot (s : State) (a : Nat) : Option (State × Nat) :=
  let r := (asidAt s a).root
  if r ≠ 0 then some (zeroBlock s r rootBytes, r) else takePool s rootBytes rootBytes
/-- The lowest ASID from `a` on that is free; ASID 0 is Folop's own (DESIGN CHOICE, log entry 67). -/
def findAsid (s : State) : Nat → Nat → Option Nat
  | 0, _ => none
  | n + 1, a => if (asidAt s a).v then findAsid s n (a + 1) else some a
def asidNew (s : State) : State :=
  match findAsid s 4095 1 with
  | none => refuse s 2
  | some a =>
    match emptyRoot s a with
    | none => refuse s 2
    | some (s, r) => succeed (setAsid s a { v := true, dying := false, root := r, since := 0 }) a
def execAsidnew (s : State) : Out := command s 1 asidNew

/-- Copies in flight under an ASID: what the outstanding counter can still count between steps. -/
def asidBusy (s : State) (a : Nat) : Bool :=
  s.cores.any fun p => p.2.mem.chans.any fun c =>
    (c.2.queue.any fun r => r.asid == a) || (match c.2.job with | some j => j.req.asid == a | none => false)

/-- DYING is set: the queues die, started packets complete with status 7, their teams are killed. -/
def startDying (s : State) (a : Nat) : State :=
  let s := setAsid s a { asidAt s a with dying := true, since := s.beat }
  let s := modPav s fun p => { p with queues := p.queues.map fun q => (q.1, if q.2.asid = a then { q.2 with state := 3 } else q.2) }
  let s := modPav s fun p => { p with pkts := p.pkts.map fun k =>
    (k.1, if (queueAt s k.2.queue).asid = a then { k.2 with begun := true, status := some 7 } else k.2) }
  (s.sched.teams.filter fun t => t.2.asid == a).foldl (fun s t => killTeam s t.1 2 (.killed false false)) s
def asidDel (s : State) : State :=
  let a := mboxArg s 0
  if 4096 ≤ a then refuse s 1 else if a = 0 || !asidLive s a then refuse s 2 else startDying s a
/-- It finishes when the ASID has drained. -/
def execAsiddel (s : State) : Out :=
  if (asidAt s (mboxArg s 0)).dying then .next s else command s 2 asidDel

/-- A dying ASID with nothing in flight is free again. -/
def freeAsid (s : State) (a : Nat) : State :=
  let e := asidAt s a
  let old := s.pav.maps.filter fun m => m.asid == a
  let s := freePins (old.foldl forgetPage s) old
  let s := modSys s fun y => { y with tlb := y.tlb.filter (fun t => t.asid != a), walks := y.walks.filter fun w => w.asid != a }
  let s := modPav s fun p => { p with areas := p.areas.filter fun x => x.1 != a }
  let s := setAsid s a { v := false, dying := false, root := e.root, since := 0 }
  if s.pav.mbox.tag.isSome && s.pav.mbox.runs = 2 && mboxArg s 0 = a then succeed s (5 * (s.beat - e.since) / 9) else s
/-- R364. -/
def execAsidDrained (asid : Nat) (s : State) : Out :=
  if (asidAt s asid).dying && !asidBusy s asid then .next (freeAsid s asid) else .next s

/-! ### MAP and UNMAP -/

/-- The pages of a MAP, or the refusal's RESULT. -/
def mapRequest (s : State) : Except Nat (List Mapping) :=
  let asid := mboxArg s 0
  let va := mboxArg s 1
  let pa := mboxArg s 2
  let n := mboxArg s 3
  let opts := mboxArg s 4
  let size := pageSize (opts % 4)
  if 4096 ≤ asid || 64 ≤ opts then .error 1
  else if !asidLive s asid || !canonical va || va % size ≠ 0 || pa % size ≠ 0 || n % size ≠ 0 || 2 ^ 57 < va % 2 ^ 57 + n || 2 ^ 52 < pa + n || inPool pa n ||
      !windowOk s asid pa n (bitsOf opts 3 2) (opts.testBit 2) (opts.testBit 5) then .error 2
  else .ok (mapRange asid (va % 2 ^ 57) pa size (n / size)
    (leafWord 0 size (opts.testBit 2) (opts.testBit 5) (bitsOf opts 3 2)) (asidRegion s asid))
def mapCommand (s : State) : State :=
  match mapRequest s with
  | .error e => refuse s e
  | .ok ms =>
    let asid := mboxArg s 0
    let va := mboxArg s 1 % 2 ^ 57
    let old := mappingsIn s asid va (mboxArg s 3)
    if !wholePages va (mboxArg s 3) old then refuse s 2
    else
      let t := old.foldl unmapPage s
      if !mapAllowed t ms then refuse s 2
      else match mapPageList t ms with
        | none => refuse s 2
        | some t => succeed (freePins t old) 0
def execMapPages (s : State) : Out := command s 3 mapCommand

def unmapCommand (s : State) : State :=
  let asid := mboxArg s 0
  let va := mboxArg s 1 % 2 ^ 57
  let old := mappingsIn s asid va (mboxArg s 2)
  if 4096 ≤ asid then refuse s 1
  else if !asidLive s asid || !canonical (mboxArg s 1) || !wholePages va (mboxArg s 2) old then refuse s 2
  else succeed (freePins (old.foldl unmapPage s) old) 0
def execUnmapPages (s : State) : Out := command s 4 unmapCommand

/-! ### Queues (R349, R351) -/

def queueExists (s : State) (q : Nat) : Bool := (Tab.look s.pav.queues q).isSome
def qNew (s : State) : State :=
  let a := mboxArg s
  if 4096 ≤ a 0 || 2 ^ 32 ≤ a 6 then refuse s 1
  else if !asidLive s (a 0) || a 2 < 4 || 16 < a 2 || a 1 % (64 * 2 ^ a 2) ≠ 0 || 1000 < a 3 || a 5 % 4 ≠ 0 || !inHost (a 5) then refuse s 2
  else
    match (List.range 4096).find? fun q => !queueExists s q with
    | none => refuse s 2
    | some q =>
      let x : Queue := { Queue.reset with
        base := a 1, logsz := a 2, priv := a 0 == 0, asid := a 0, coal := a 3, region := a 4, irqaddr := a 5, irqdata := BitVec.ofNat 32 (a 6), state := 1 }
      succeed (setQueue s q x) q
def execQnew (s : State) : Out := command s 5 qNew
def qCtl (s : State) : State :=
  let q := mboxArg s 0
  let st := mboxArg s 1
  if 1 < st then refuse s 1
  else if !queueExists s q || (queueAt s q).state = 3 then refuse s 2
  else
    let s := setQueue s q { queueAt s q with state := BitVec.ofNat 2 st }
    succeed (if st = 1 && (queueAt s q).read < (queueAt s q).write then postEvent s q else s) 0
def execQctl (s : State) : Out := command s 6 qCtl

def doorbellAddr (q : Nat) : Nat := 0x7FF0000000000 + 4096 * q
def doorbellCommand (s : State) : State :=
  let q := mboxArg s 0
  if !queueExists s q || (queueAt s q).state = 3 then refuse s 2
  else
    let va := doorbellAddr q
    let asid := (queueAt s q).asid
    let old := mappingsIn s asid va 4096
    let t := old.foldl unmapPage s
    match mapChecked t { asid := asid, va := va, size := 4096, leaf := BitVec.ofNat 64 (leafWord va 4096 true false 3), region := 0 } with
    | none => refuse s 2
    | some t => succeed (freePins t old) va
def execDoorbell (s : State) : Out := command s 9 doorbellCommand

/-! ### Partitions (R231, R242, R333, R367) -/

/-- The partition's root block: one that Folop holds, or the block image at that physical address (DESIGN CHOICE, log entry 17). -/
def loadRoot (s : State) (a : Nat) : Option State :=
  if (regionAt s a).isSome then some s
  else
    let (s, bs) := agentRead s (folopPlace a) 128
    let (s, cs) := agentRead s (folopPlace (a + 128)) 128
    linkRegion s a (bytesNat (bs ++ cs))
def partRoot (s : State) (p a : Nat) : Option State :=
  match loadRoot s a with
  | none => none
  | some s => match regionAt s a with | some r => if r.parent = 0 && r.part.toNat = p then some s else none | none => none

/-- Another partition's mask names the core. -/
def sharedWith (s : State) (p c : Nat) : Bool := s.sched.parts.any fun x => x.1 != p && x.2.cores.getLsbD c
/-- The core's quotas, live and in the shadow: with two partitions each has half (R231; DESIGN CHOICE, log entry 18). -/
def setQuotas (s : State) (both : Bool) (c : Nat) : State :=
  let quotas (k : Core) : Core := { k with imemQuota := if both then 8192 else 16384, storeQuota := if both then 0x3A00 else 0x7400 }
  let s := modSched s fun d => { d with shadow := match Tab.look d.shadow c with | some k => Tab.set .reset d.shadow c (quotas k) | none => d.shadow }
  modCore s c quotas
/-- A bound team of the partition that runs on the core holds it. -/
def coreHeld (s : State) (c : Nat) : Bool := (heldCores s (coreAt s c).part).contains c
/-- A core comes to a partition with its cells clear. -/
def clearCore (s : State) (p c : Nat) : State :=
  modCore (modSched s fun d => { d with halted := d.halted.filter (· != c) }) c fun k => { vacated k with part := p, arr := Arr.reset }
/-- A core comes to a partition alone: with what the partition's shadow holds, as at a swap (R229, R230, R233), else clear.  What it
has issued is performed first, its requests to the Orangery too (R343). -/
def handOver (s : State) (p c : Nat) : State :=
  let s := writeOut s c
  match Tab.look s.sched.shadow c with
  | some k => if k.part = p then thawIn (modSched (swapOne s p c) fun d => { d with shadow := Tab.erase c d.shadow }) c else clearCore s p c
  | none => clearCore s p c
/-- A core that the new mask names. -/
def giveCore (s : State) (p c : Nat) : State :=
  let both := sharedWith s p c
  let s := if both || (coreAt s c).part = p || coreHeld s c then s else handOver s p c
  setQuotas s both c
/-- The partition other than `p` whose mask names a core. -/
def otherPart (s : State) (p c : Nat) : Option Nat := (s.sched.parts.find? fun x => x.1 != p && x.2.cores.getLsbD c).map (·.1)
/-- A core that the new mask names no more: what the partition had in its shadow is gone (R232). -/
def takeCore (s : State) (p c : Nat) : State :=
  let s := modSched s fun d => { d with shadow := if (Tab.look d.shadow c).any fun k => k.part == p then Tab.erase c d.shadow else d.shadow }
  match otherPart s p c with
  | none => s
  | some q => setQuotas (if (coreAt s c).part = p && !coreHeld s c then handOver s q c else s) false c

def contextBytes : Nat := 5 * 2 ^ 20
def contextAlign : Nat := 2 ^ 16
def contextArea (s : State) : Option (State × Nat) := takePool s contextBytes contextAlign
/-- A context area for a core that has none: 5 MiB, 64 KiB aligned (R228). -/
def areaFor (r : Option (State × Tab Nat)) (c : Nat) : Option (State × Tab Nat) :=
  r.bind fun x => if (Tab.look x.2 c).isSome then r else (contextArea x.1).map fun y => (y.1, Tab.put x.2 c y.2)
def reserveAreas (s : State) (areas : Tab Nat) (cs : List Nat) : Option (State × Tab Nat) := cs.foldl areaFor (some (s, areas))
def maskCores (m : Nat) : List Nat := (List.range 64).filter fun c => m.testBit c
/-- The counters of the learner queues that a partition is given are cleared (R340). -/
def clearCounters (s : State) (old new : Nat) : State :=
  modOra s fun o => { o with ctr := o.ctr.filter fun p => !(p.1 < 256 && new.testBit (p.1 / 16) && !old.testBit (p.1 / 16)) }
/-- The assignment of a PART: masks, root, areas. -/
def assignPart (s : State) (p : Nat) (x : Partition) (old : Partition) : State :=
  let s := modSched s fun d => { d with parts := Tab.put d.parts p x }
  let s := (maskCores (old.cores.toNat - (old.cores &&& x.cores).toNat)).foldl (fun s c => takeCore s p c) s
  let s := (maskCores x.cores.toNat).foldl (fun s c => giveCore s p c) s
  clearCounters s old.lqueues.toNat x.lqueues.toNat
/-- One or two partitions may be resident on a core (R231). -/
def twoResidents (s : State) (p m : Nat) : Bool :=
  (maskCores m).all fun c => (s.sched.parts.filter fun x => x.1 != p && x.2.cores.getLsbD c).length < 2

/-- The ways of a cluster go to the caches below before their number changes. -/
def setScratch (s : State) (g n : Nat) : State :=
  if Tab.get 0 s.sys.scratch g = n then s
  else
    let s := (waysOf s g).foldl (fun s x => evictWay s g x.line) s
    modSys s fun y => { y with scratch := Tab.set 0 y.scratch g n }
def partCommand (s : State) : State :=
  let a := mboxArg s
  let ways (g : Nat) : Nat := bitsOf (if g < 8 then a 4 else a 5) (5 * (g % 8)) 5
  let pins (d : Nat) : Nat := bitsOf (a 6) (4 * d) 4
  if 16 ≤ a 0 || 2 ^ 16 ≤ a 3 || 2 ^ 40 ≤ a 4 || 2 ^ 40 ≤ a 5 || 2 ^ 16 ≤ a 6 then refuse s 1
  else if !((List.range 16).all fun g => ways g ≤ 24) || !((List.range 4).all fun d => pins d ≤ 8) || !twoResidents s (a 0) (a 2) then refuse s 2
  else
    let old := (Tab.look s.sched.parts (a 0)).getD ⟨0, 0, 0, []⟩
    match partRoot s (a 0) (a 1) with
    | none => refuse s 2
    | some t =>
      match reserveAreas t old.areas (maskCores (a 2)) with
      | none => refuse s 2
      | some (t, areas) =>
        let t := assignPart t (a 0) ⟨a 1, BitVec.ofNat 64 (a 2), BitVec.ofNat 16 (a 3), areas⟩ old
        let t := (List.range 16).foldl (fun t g => setScratch t g (ways g)) t
        let t := modSys t fun y => { y with pinWays := (List.range 4).foldl (fun m d => Tab.set 0 m d (pins d)) y.pinWays }
        succeed ((List.range 4).foldl trimL2 t) 0
def execPart (s : State) : Out := command s 7 partCommand

/-! ### Attestation (R376, R377) -/

/-- A measurement entry (R375). -/
def measureBytes (e : Nat × Nat × Nat × BitVec 384) : List Byte :=
  natBytes 4 e.1 ++ natBytes 4 e.2.1 ++ natBytes 4 e.2.2.1 ++ natBytes 4 0 ++ beBytes 48 e.2.2.2.toNat
def identityKeys : List Byte := beBytes 384 Config.identityRsa.toNat ++ beBytes 48 Config.identitySlh.toNat
/-- The report up to the first identity signature. -/
def reportBody (s : State) (nonce : List Byte) : List Byte :=
  natBytes 4 0x4C514154 ++ natBytes 4 1 ++ natBytes 16 Config.serial.toNat ++ nonce ++ natBytes 4 s.power.log.length ++ natBytes 4 0 ++
    s.power.log.flatMap measureBytes ++ identityKeys ++ beBytes 384 Config.endorseRsa.toNat ++ beBytes 16224 Config.endorseSlh.toNat
/-- Both vendor signatures are over the digest of the serial and the identity keys (R377). -/
def endorsed : Bool :=
  let d := sha384 (natBytes 16 Config.serial.toNat ++ identityKeys)
  rsaVerify Config.vendorRsa.toNat d (beBytes 384 Config.endorseRsa.toNat) &&
    slhVerify (beBytes 48 Config.vendorSlh.toNat) d (beBytes 16224 Config.endorseSlh.toNat)
/-- The identity signatures of a digest, where both verify under the identity keys. -/
def identitySigs (d : List Byte) : Option (List Byte) :=
  let r := beBytes 384 (Config.rsaSign (BitVec.ofNat 384 (beNat d))).toNat
  let l := beBytes 16224 (Config.slhSign (BitVec.ofNat 384 (beNat d))).toNat
  if rsaVerify Config.identityRsa.toNat d r && slhVerify (beBytes 48 Config.identitySlh.toNat) d l then some (r ++ l) else none
/-- A report of a Q4: its endorsement and both of its signatures verify (R376). -/
def report (s : State) (nonce : List Byte) : Option (List Byte) :=
  let b := reportBody s nonce
  if endorsed then (identitySigs (sha384 b)).map fun sigs => b ++ sigs else none
/-- A host physical address in the device's map (R237). -/
def hostPa (a : Nat) : Nat := 2 ^ 51 + a % 2 ^ 51
def attestCommand (s : State) : State :=
  let s := deliverPosted s
  match report s (memRead s.sys.mem (hostPa (mboxArg s 0)) 48) with
  | some r => succeed (postBytes s (hostPa (mboxArg s 1)) r) r.length
  -- what the root of trust makes verifies; anything else is no report (log entry 5)
  | none => refuse s 2
def execAttest (s : State) : Out := command s 8 attestCommand

end Sys2Proof.Machine
end

