-- ==== Sys2Proof/Machine/Vector.lean ====
section
/-! DEFINITION. The vector instructions: floating point, integer, fixed point, bitwise, shifts, compares and SEL
(R88 to R94). -/

namespace Sys2Proof.Machine
open Sys2Proof

/-! ### Element functions -/

/-- IADD (R93): a Q type saturates. -/
def elAdd (w : Nat) (q : Bool) (u v : Nat) : Nat × Flags5 :=
  if q then satInt w (sInt w u + sInt w v) else ((u + v) % 2 ^ w, 0)
def elSub (w : Nat) (q : Bool) (u v : Nat) : Nat × Flags5 :=
  if q then satInt w (sInt w u - sInt w v) else (lowBits w ((u : Int) - v), 0)
def elMul (w u v : Nat) : Nat × Flags5 := (u * v % 2 ^ w, 0)
def elMac (w u v o : Nat) : Nat × Flags5 := ((o + u * v) % 2 ^ w, 0)
def elQmul (w u v : Nat) : Nat × Flags5 := satInt w (roundHalfUp (sInt w u * sInt w v) (w - 1))
/-- One saturation of the exact sum. -/
def elQmac (w u v o : Nat) : Nat × Flags5 := satInt w (sInt w o + roundHalfUp (sInt w u * sInt w v) (w - 1))
/-- The shift amount is unsigned; W or more gives 0, or the sign in every bit. -/
def elShl (w u v : Nat) : Nat × Flags5 := (if w ≤ v then 0 else u * 2 ^ v % 2 ^ w, 0)
def elShr (w u v : Nat) : Nat × Flags5 := (if w ≤ v then 0 else u / 2 ^ v, 0)
def elSar (w u v : Nat) : Nat × Flags5 := (lowBits w (sInt w u / 2 ^ min v w), 0)
def elMin (w u v : Nat) : Nat × Flags5 := (if sInt w v < sInt w u then v else u, 0)
def elMax (w u v : Nat) : Nat × Flags5 := (if sInt w u < sInt w v then v else u, 0)

/-- R89. -/
def cellFadd (d a b : BitVec 5) (n : BitVec 1) (t : BitVec 4) (p : BitVec 1) (x : CellIn) (k : CellSt) : CellOut :=
  whenSel x k fun k => floatOp x k d a b n t p fun f m u v _ => fAdd f m u v
def execFadd (m : BitVec 4) (d a b : BitVec 5) (n : BitVec 1) (t : BitVec 4) (p : BitVec 1) (s : State) : Out := issueW s m (.fadd m d a b n t p)

/-- R89. -/
def cellFsub (d a b : BitVec 5) (n : BitVec 1) (t : BitVec 4) (p : BitVec 1) (x : CellIn) (k : CellSt) : CellOut :=
  whenSel x k fun k => floatOp x k d a b n t p fun f m u v _ => fSub f m u v
def execFsub (m : BitVec 4) (d a b : BitVec 5) (n : BitVec 1) (t : BitVec 4) (p : BitVec 1) (s : State) : Out := issueW s m (.fsub m d a b n t p)

/-- R89. -/
def cellFmul (d a b : BitVec 5) (n : BitVec 1) (t : BitVec 4) (p : BitVec 1) (x : CellIn) (k : CellSt) : CellOut :=
  whenSel x k fun k => floatOp x k d a b n t p fun f m u v _ => fMul f m u v
def execFmul (m : BitVec 4) (d a b : BitVec 5) (n : BitVec 1) (t : BitVec 4) (p : BitVec 1) (s : State) : Out := issueW s m (.fmul m d a b n t p)

/-- R89. -/
def cellFfma (d a b : BitVec 5) (n : BitVec 1) (t : BitVec 4) (p : BitVec 1) (x : CellIn) (k : CellSt) : CellOut :=
  whenSel x k fun k => floatOp x k d a b n t p fun f m u v o => fFma f m false u v o
def execFfma (m : BitVec 4) (d a b : BitVec 5) (n : BitVec 1) (t : BitVec 4) (p : BitVec 1) (s : State) : Out := issueW s m (.ffma m d a b n t p)

/-- R89. -/
def cellFfms (d a b : BitVec 5) (n : BitVec 1) (t : BitVec 4) (p : BitVec 1) (x : CellIn) (k : CellSt) : CellOut :=
  whenSel x k fun k => floatOp x k d a b n t p fun f m u v o => fFma f m true u v o
def execFfms (m : BitVec 4) (d a b : BitVec 5) (n : BitVec 1) (t : BitVec 4) (p : BitVec 1) (s : State) : Out := issueW s m (.ffms m d a b n t p)

/-- R89. -/
def cellFmin (d a b : BitVec 5) (n : BitVec 1) (t : BitVec 4) (p : BitVec 1) (x : CellIn) (k : CellSt) : CellOut :=
  whenSel x k fun k => floatOp x k d a b n t p fun f _ u v _ => fMin f u v
def execFmin (m : BitVec 4) (d a b : BitVec 5) (n : BitVec 1) (t : BitVec 4) (p : BitVec 1) (s : State) : Out := issueW s m (.fmin m d a b n t p)

/-- R89. -/
def cellFmax (d a b : BitVec 5) (n : BitVec 1) (t : BitVec 4) (p : BitVec 1) (x : CellIn) (k : CellSt) : CellOut :=
  whenSel x k fun k => floatOp x k d a b n t p fun f _ u v _ => fMax f u v
def execFmax (m : BitVec 4) (d a b : BitVec 5) (n : BitVec 1) (t : BitVec 4) (p : BitVec 1) (s : State) : Out := issueW s m (.fmax m d a b n t p)

/-- R89. -/
def cellFabs (d a : BitVec 5) (n : BitVec 1) (t : BitVec 4) (p : BitVec 1) (x : CellIn) (k : CellSt) : CellOut :=
  whenSel x k fun k => floatOp x k d a a n t p fun f _ u _ _ => (f.mag u, 0)
def execFabs (m : BitVec 4) (d a : BitVec 5) (n : BitVec 1) (t : BitVec 4) (p : BitVec 1) (s : State) : Out := issueW s m (.fabs m d a n t p)

/-- R89. -/
def cellFneg (d a : BitVec 5) (n : BitVec 1) (t : BitVec 4) (p : BitVec 1) (x : CellIn) (k : CellSt) : CellOut :=
  whenSel x k fun k => floatOp x k d a a n t p fun f _ u _ _ => (fNeg f u, 0)
def execFneg (m : BitVec 4) (d a : BitVec 5) (n : BitVec 1) (t : BitVec 4) (p : BitVec 1) (s : State) : Out := issueW s m (.fneg m d a n t p)

/-- R90. -/
def cellFcmp (c a b : BitVec 5) (n : BitVec 1) (t : BitVec 4) (p : BitVec 1) (x : CellIn) (k : CellSt) : CellOut :=
  whenSel x k fun k =>
    let w := tyWidth t
    let u := (readOperand x k a).data
    let v := (readOperand x k b).data
    let cmp (e : Nat) : Bool × Flags5 := fCompare (fmtOf t) c.toNat (elem w u e) (elem w v e)
    let r := mapElems w (laneMask p k.p) 0 fun e => (0, (cmp e).2)
    ⟨raiseXf { k with p := compareP w (laneMask p k.p) (fun e => (cmp e).1) k.p } n r.xf, fpFault x n r.all⟩
def execFcmp (m : BitVec 4) (c a b : BitVec 5) (n : BitVec 1) (t : BitVec 4) (p : BitVec 1) (s : State) : Out := issueW s m (.fcmp m c a b n t p)

/-- R91. -/
def cellSel (d a b : BitVec 5) (_n : BitVec 1) (x : CellIn) (k : CellSt) : CellOut :=
  whenSel x k fun k =>
    cellDone (writeData k d (pickSlices k.p (readOperand x k b).data (readOperand x k a).data))
def execSel (m : BitVec 4) (d a b : BitVec 5) (n : BitVec 1) (s : State) : Out := issueW s m (.sel m d a b n)

/-- R93. -/
def cellIadd (d a b : BitVec 5) (n : BitVec 1) (t : BitVec 4) (p : BitVec 1) (x : CellIn) (k : CellSt) : CellOut :=
  whenSel x k fun k => intOp x k d a b n t p fun w q u v _ => elAdd w q u v
def execIadd (m : BitVec 4) (d a b : BitVec 5) (n : BitVec 1) (t : BitVec 4) (p : BitVec 1) (s : State) : Out := issueW s m (.iadd m d a b n t p)

/-- R93. -/
def cellIsub (d a b : BitVec 5) (n : BitVec 1) (t : BitVec 4) (p : BitVec 1) (x : CellIn) (k : CellSt) : CellOut :=
  whenSel x k fun k => intOp x k d a b n t p fun w q u v _ => elSub w q u v
def execIsub (m : BitVec 4) (d a b : BitVec 5) (n : BitVec 1) (t : BitVec 4) (p : BitVec 1) (s : State) : Out := issueW s m (.isub m d a b n t p)

/-- R93. -/
def cellImul (d a b : BitVec 5) (n : BitVec 1) (t : BitVec 4) (p : BitVec 1) (x : CellIn) (k : CellSt) : CellOut :=
  whenSel x k fun k => intOp x k d a b n t p fun w _ u v _ => elMul w u v
def execImul (m : BitVec 4) (d a b : BitVec 5) (n : BitVec 1) (t : BitVec 4) (p : BitVec 1) (s : State) : Out := issueW s m (.imul m d a b n t p)

/-- R93. -/
def cellImac (d a b : BitVec 5) (n : BitVec 1) (t : BitVec 4) (p : BitVec 1) (x : CellIn) (k : CellSt) : CellOut :=
  whenSel x k fun k => intOp x k d a b n t p fun w _ u v o => elMac w u v o
def execImac (m : BitVec 4) (d a b : BitVec 5) (n : BitVec 1) (t : BitVec 4) (p : BitVec 1) (s : State) : Out := issueW s m (.imac m d a b n t p)

/-- R93. -/
def cellQmul (d a b : BitVec 5) (n : BitVec 1) (t : BitVec 4) (p : BitVec 1) (x : CellIn) (k : CellSt) : CellOut :=
  whenSel x k fun k => intOp x k d a b n t p fun w _ u v _ => elQmul w u v
def execQmul (m : BitVec 4) (d a b : BitVec 5) (n : BitVec 1) (t : BitVec 4) (p : BitVec 1) (s : State) : Out := issueW s m (.qmul m d a b n t p)

/-- R93. -/
def cellQmac (d a b : BitVec 5) (n : BitVec 1) (t : BitVec 4) (p : BitVec 1) (x : CellIn) (k : CellSt) : CellOut :=
  whenSel x k fun k => intOp x k d a b n t p fun w _ u v o => elQmac w u v o
def execQmac (m : BitVec 4) (d a b : BitVec 5) (n : BitVec 1) (t : BitVec 4) (p : BitVec 1) (s : State) : Out := issueW s m (.qmac m d a b n t p)

/-- R93. -/
def cellWAnd (d a b : BitVec 5) (n : BitVec 1) (t : BitVec 4) (p : BitVec 1) (x : CellIn) (k : CellSt) : CellOut :=
  whenSel x k fun k => intOp x k d a b n t p fun _ _ u v _ => (u &&& v, 0)
def execWAnd (m : BitVec 4) (d a b : BitVec 5) (n : BitVec 1) (t : BitVec 4) (p : BitVec 1) (s : State) : Out := issueW s m (.wAnd m d a b n t p)

/-- R93. -/
def cellWOr (d a b : BitVec 5) (n : BitVec 1) (t : BitVec 4) (p : BitVec 1) (x : CellIn) (k : CellSt) : CellOut :=
  whenSel x k fun k => intOp x k d a b n t p fun _ _ u v _ => (u ||| v, 0)
def execWOr (m : BitVec 4) (d a b : BitVec 5) (n : BitVec 1) (t : BitVec 4) (p : BitVec 1) (s : State) : Out := issueW s m (.wOr m d a b n t p)

/-- R93. -/
def cellWXor (d a b : BitVec 5) (n : BitVec 1) (t : BitVec 4) (p : BitVec 1) (x : CellIn) (k : CellSt) : CellOut :=
  whenSel x k fun k => intOp x k d a b n t p fun _ _ u v _ => (u ^^^ v, 0)
def execWXor (m : BitVec 4) (d a b : BitVec 5) (n : BitVec 1) (t : BitVec 4) (p : BitVec 1) (s : State) : Out := issueW s m (.wXor m d a b n t p)

/-- R93. -/
def cellWShl (d a b : BitVec 5) (n : BitVec 1) (t : BitVec 4) (p : BitVec 1) (x : CellIn) (k : CellSt) : CellOut :=
  whenSel x k fun k => intOp x k d a b n t p fun w _ u v _ => elShl w u v
def execWShl (m : BitVec 4) (d a b : BitVec 5) (n : BitVec 1) (t : BitVec 4) (p : BitVec 1) (s : State) : Out := issueW s m (.wShl m d a b n t p)

/-- R93. -/
def cellWShr (d a b : BitVec 5) (n : BitVec 1) (t : BitVec 4) (p : BitVec 1) (x : CellIn) (k : CellSt) : CellOut :=
  whenSel x k fun k => intOp x k d a b n t p fun w _ u v _ => elShr w u v
def execWShr (m : BitVec 4) (d a b : BitVec 5) (n : BitVec 1) (t : BitVec 4) (p : BitVec 1) (s : State) : Out := issueW s m (.wShr m d a b n t p)

/-- R93. -/
def cellWSar (d a b : BitVec 5) (n : BitVec 1) (t : BitVec 4) (p : BitVec 1) (x : CellIn) (k : CellSt) : CellOut :=
  whenSel x k fun k => intOp x k d a b n t p fun w _ u v _ => elSar w u v
def execWSar (m : BitVec 4) (d a b : BitVec 5) (n : BitVec 1) (t : BitVec 4) (p : BitVec 1) (s : State) : Out := issueW s m (.wSar m d a b n t p)

/-- R94. -/
def cellIcmp (c a b : BitVec 5) (_n : BitVec 1) (t : BitVec 4) (p : BitVec 1) (x : CellIn) (k : CellSt) : CellOut :=
  whenSel x k fun k =>
    let w := tyWidth t
    let u := (readOperand x k a).data
    let v := (readOperand x k b).data
    cellDone { k with p := compareP w (laneMask p k.p) (fun e => iCompare w c.toNat (elem w u e) (elem w v e)) k.p }
def execIcmp (m : BitVec 4) (c a b : BitVec 5) (n : BitVec 1) (t : BitVec 4) (p : BitVec 1) (s : State) : Out := issueW s m (.icmp m c a b n t p)

/-- R93. -/
def cellImin (d a b : BitVec 5) (n : BitVec 1) (t : BitVec 4) (p : BitVec 1) (x : CellIn) (k : CellSt) : CellOut :=
  whenSel x k fun k => intOp x k d a b n t p fun w _ u v _ => elMin w u v
def execImin (m : BitVec 4) (d a b : BitVec 5) (n : BitVec 1) (t : BitVec 4) (p : BitVec 1) (s : State) : Out := issueW s m (.imin m d a b n t p)

/-- R93. -/
def cellImax (d a b : BitVec 5) (n : BitVec 1) (t : BitVec 4) (p : BitVec 1) (x : CellIn) (k : CellSt) : CellOut :=
  whenSel x k fun k => intOp x k d a b n t p fun w _ u v _ => elMax w u v
def execImax (m : BitVec 4) (d a b : BitVec 5) (n : BitVec 1) (t : BitVec 4) (p : BitVec 1) (s : State) : Out := issueW s m (.imax m d a b n t p)

end Sys2Proof.Machine
end

