-- ==== Sys2Proof/Machine/Pass.lean ====
section
/-! DEFINITION. The pass family: the movement of C along a chain (R95 to R97). -/

namespace Sys2Proof.Machine
open Sys2Proof

/-- An unselected cell of a chain forwards the neighbour's C whole (R22, R96). -/
def forward (x : CellIn) (k : CellSt) (a : BitVec 5) : CellOut := cellDone { k with c := readNbr x a }

/-- CSCAN in a selected cell, forwarding elsewhere (R97): the neighbour plays a, Fb plays b. -/
def scanOp (x : CellIn) (k : CellSt) (d : BitVec 3) (a b : BitVec 5) (nf : BitVec 1) (t : BitVec 4) (p : BitVec 1)
    (fop : Fmt → RMode → Nat → Nat → Nat × Flags5) (iop : Nat → Bool → Nat → Nat → Nat × Flags5) : CellOut :=
  if !x.sel then forward x k a
  else
    let w := tyWidth t
    let lanes := laneMask p k.p
    let nb := readNbr x a
    let v := (readF k b.toNat).data
    let r := mapElems w lanes nb.data fun e =>
      if t.toNat ≤ 5 then fop (fmtOf t) x.mode (elem w nb.data e) (elem w v e)
      else iop w (9 ≤ t.toNat) (elem w nb.data e) (elem w v e)
    let old := readF k d.toNat
    let k := writeF { k with c := ⟨r.data, nb.side⟩ } d.toNat
      { old with data := pickSlices (spreadLanes w lanes) old.data r.data }
    ⟨raiseXf k nf r.xf, fpFault x nf r.all⟩

/-- R96. -/
def cellCpass (d a : BitVec 5) (p : BitVec 1) (x : CellIn) (k : CellSt) : CellOut :=
  if x.sel then cellDone (writeSlices { k with c := readNbr x a } d (readNbr x a) p) else forward x k a
def execCpass (m : BitVec 4) (d a : BitVec 5) (p : BitVec 1) (s : State) : Out := issueW s m (.cpass m d a p)

/-- R96. -/
def cellCinj (a b : BitVec 5) (x : CellIn) (k : CellSt) : CellOut :=
  if x.sel then cellDone { k with c := readF k a.toNat } else forward x k b
def execCinj (m : BitVec 4) (a b : BitVec 5) (s : State) : Out := issueW s m (.cinj m a b)

/-- R97. -/
def cellCscanAdd (d : BitVec 3) (a b : BitVec 5) (n : BitVec 1) (t : BitVec 4) (p : BitVec 1) (x : CellIn) (k : CellSt) : CellOut :=
  scanOp x k d a b n t p
    (fun f m u v => fAdd f m u v) (fun w q u v => elAdd w q u v)
def execCscanAdd (m : BitVec 4) (d : BitVec 3) (a b : BitVec 5) (n : BitVec 1) (t : BitVec 4) (p : BitVec 1) (s : State) : Out := issueW s m (.cscanAdd m d a b n t p)

/-- R97. -/
def cellCscanMax (d : BitVec 3) (a b : BitVec 5) (n : BitVec 1) (t : BitVec 4) (p : BitVec 1) (x : CellIn) (k : CellSt) : CellOut :=
  scanOp x k d a b n t p
    (fun f _ u v => fMax f u v) (fun w _ u v => elMax w u v)
def execCscanMax (m : BitVec 4) (d : BitVec 3) (a b : BitVec 5) (n : BitVec 1) (t : BitVec 4) (p : BitVec 1) (s : State) : Out := issueW s m (.cscanMax m d a b n t p)

/-- R97. -/
def cellCscanMin (d : BitVec 3) (a b : BitVec 5) (n : BitVec 1) (t : BitVec 4) (p : BitVec 1) (x : CellIn) (k : CellSt) : CellOut :=
  scanOp x k d a b n t p
    (fun f _ u v => fMin f u v) (fun w _ u v => elMin w u v)
def execCscanMin (m : BitVec 4) (d : BitVec 3) (a b : BitVec 5) (n : BitVec 1) (t : BitVec 4) (p : BitVec 1) (s : State) : Out := issueW s m (.cscanMin m d a b n t p)

/-- R97. -/
def cellCscanOr (d : BitVec 3) (a b : BitVec 5) (n : BitVec 1) (t : BitVec 4) (p : BitVec 1) (x : CellIn) (k : CellSt) : CellOut :=
  scanOp x k d a b n t p
    (fun _ _ u v => (u ||| v, 0)) (fun _ _ u v => (u ||| v, 0))
def execCscanOr (m : BitVec 4) (d : BitVec 3) (a b : BitVec 5) (n : BitVec 1) (t : BitVec 4) (p : BitVec 1) (s : State) : Out := issueW s m (.cscanOr m d a b n t p)

/-- R96. -/
def cellCwr (a : BitVec 5) (x : CellIn) (k : CellSt) : CellOut :=
  whenSel x k fun k => cellDone { k with c := readF k a.toNat }
def execCwr (m : BitVec 4) (a : BitVec 5) (s : State) : Out := issueW s m (.cwr m a)

/-- R96. -/
def cellCrd (d a : BitVec 5) (p : BitVec 1) (x : CellIn) (k : CellSt) : CellOut :=
  whenSel x k fun k => cellDone (writeSlices k d (readOperand x k a) p)
def execCrd (m : BitVec 4) (d a : BitVec 5) (p : BitVec 1) (s : State) : Out := issueW s m (.crd m d a p)

end Sys2Proof.Machine
end

