-- ==== Sys2Proof/Machine/Matrix.lean ====
section
/-! DEFINITION. The matrix beats and the landing of tray sums (R152, R153, R158, R159, R184 to R195). -/

namespace Sys2Proof.Machine
open Sys2Proof

/-! ### Operand values -/

/-- A factor of a product: a NaN with the NV that it raises, an infinity, or an exact real with its sign. -/
inductive MVal where
  | nan (nv : Bool)
  | inf (neg : Bool)
  | fin (neg : Bool) (x : Dyad)
deriving DecidableEq, Repr

def fltVal (f : Fmt) (v : Nat) : MVal :=
  if f.isNaN v then .nan (f.isSNaN v) else if f.isInf v then .inf (f.sign v) else .fin (f.sign v) (f.value v)

/-- A byte of a sidecar. -/
def sideByte (s : RegSide) (i : Nat) : Nat := (s.extractLsb' (8 * i) 8).toNat
/-- E3M5 (R152). -/
def e3m5 (b : Nat) : Dyad := if b / 32 = 0 then ⟨b, -7⟩ else ⟨32 + b % 32, (b / 32 : Int) - 8⟩
/-- The effective value of FP4 element l under its register's sidecar (R152, R153). -/
def fp4Val (s : RegSide) (l v : Nat) : MVal :=
  let x := e2m1.value v
  let neg := e2m1.sign v
  if sideByte s 31 % 2 = 0 then
    let b := sideByte s (l / 8)
    let band := sideByte s (16 + 2 * (l / 64)) + 256 * sideByte s (17 + 2 * (l / 64))
    if b = 0xFF || bf16.isNaN band then .nan true
    else if bf16.isInf band then .nan false
    else .fin (neg != bf16.sign band) ((x.mul (e3m5 b)).mul (bf16.value band))
  else
    let g := l / 16
    let e := sideByte s (2 * g)
    let half := (sideByte s (2 * g + 1)).testBit (l % 16 / 2)
    if e = 0xFF then .nan true
    else .fin neg ⟨x.m, x.e + (e : Int) - 127 - (if half then 1 else 0)⟩

/-- Element l of an operand register. -/
def operandVal (ty : BitVec 4) (r : FReg) (l : Nat) : MVal :=
  if ty = 5 then fp4Val r.side l (elem 4 r.data l) else fltVal (fmtOf ty) (elem (tyWidth ty) r.data l)

def MVal.isNan : MVal → Bool
  | .nan _ => true
  | _ => false
def MVal.nv : MVal → Bool
  | .nan b => b
  | _ => false
def MVal.neg : MVal → Bool
  | .nan _ => false
  | .inf b => b
  | .fin b _ => b
def MVal.isInf : MVal → Bool
  | .inf _ => true
  | _ => false
def MVal.isZero : MVal → Bool
  | .fin _ x => x.m == 0
  | _ => false
def MVal.real : MVal → Dyad
  | .fin _ x => x
  | _ => .zero

/-- The exact sum of the tray value and the products, rounded once (R158, R159).
DESIGN CHOICE (log entry 59): a nonzero negative sum that rounds to zero gives −0, as R156 says of a zero from rounding;
the rows of R159's table are taken in their order, so a NaN beside a product 0 · ∞ raises only what the NaN row says. -/
def matrixSum (t : Nat) (ps : List (MVal × MVal)) : Nat × Flags5 :=
  let tv := fltVal fp32 t
  if tv.isNan || ps.any fun q => q.1.isNan || q.2.isNan then
    (fp32.canonNaN, if ps.any fun q => q.1.nv || q.2.nv then flagNV else 0)
  else if ps.any fun q => (q.1.isInf && q.2.isZero) || (q.1.isZero && q.2.isInf) then (fp32.canonNaN, flagNV)
  else
    let infs := ((if tv.isInf then [tv.neg] else []) : List Bool) ++
      (ps.filter fun q => q.1.isInf || q.2.isInf).map fun q => q.1.neg != q.2.neg
    if infs.contains true && infs.contains false then (fp32.canonNaN, flagNV)
    else match infs with
      | b :: _ => (fp32.infBits b, 0)
      | [] =>
        let sum := ps.foldl (fun (acc : Dyad) q => acc.add (q.1.real.mul q.2.real)) tv.real
        let minus := tv.isZero && tv.neg && ps.all fun q => (q.1.isZero || q.2.isZero) && q.1.neg != q.2.neg
        roundDyad fp32 .rne minus sum

/-- The wrapping INT32 sum of INT8 products (R158). -/
def matrixInt (t : Nat) (ps : List (Nat × Nat)) : Nat :=
  lowBits 32 (ps.foldl (fun (acc : Int) q => acc + sInt 8 q.1 * sInt 8 q.2) (sInt 32 t))

/-! ### Which products (R180, R191, R192) -/

/-- The k of R184. -/
def fragK (ty : BitVec 4) : Nat := 64 / tyWidth ty
/-- Element positions of the factors of tray element (r,c): A's, and B's with its register (0 Fb, 1 F(b+1)); none for a
product of an illegal group. -/
def densePairs (k r c : Nat) : List (Option (Nat × Nat × Nat)) := (List.range k).map fun j => some (k * r + j, 0, k * c + j)
def nibble (s : RegSide) (n : Nat) : Nat := (s.extractLsb' (4 * n) 4).toNat
def groupLegal (nib : Nat) : Bool := nib % 4 < nib / 4
def sparsePairs (s : RegSide) (k r c : Nat) : List (Option (Nat × Nat × Nat)) :=
  (List.range (k / 2)).flatMap fun g =>
    let nib := nibble s (r * (k / 2) + g)
    let at_ (i j : Nat) : Option (Nat × Nat × Nat) := some (k * r + 2 * g + i, j / k, k * c + j % k)
    if groupLegal nib then [at_ 0 (4 * g + nib % 4), at_ 1 (4 * g + nib / 4)] else [none, none]
/-- Some group of some row is illegal (R192). -/
def badMetadata (s : RegSide) (k : Nat) : Bool := (List.range (8 * (k / 2))).any fun n => !groupLegal (nibble s n)

/-! ### The sum's start and landing (R189, R195) -/

def trayEl (t : TrayData) (i : Nat) : Nat := (t.extractLsb' (32 * i) 32).toNat
def putTrayEl (t : TrayData) (i v : Nat) : TrayData :=
  (t &&& ~~~ (BitVec.ofNat 2048 (2 ^ 32 - 1) <<< (32 * i))) ||| (BitVec.ofNat 2048 (v % 2 ^ 32) <<< (32 * i))
/-- The elements of `new` that the mask chooses, over `old`. -/
def pickTray (mask : BitVec 64) (old new : TrayData) : TrayData :=
  (List.range 64).foldl (fun acc i => if mask.getLsbD i then putTrayEl acc i (trayEl new i) else acc) old
/-- P of element (r,c) is bit (8r + c) mod 32. -/
def trayMask (lanes : Word) : BitVec 64 := lanes.setWidth 64 ||| (lanes.setWidth 64 <<< 32)

/-- The new value and flags of tray element i. -/
def sumElement (ty : BitVec 4) (a b b1 : FReg) (t : Nat) (ps : List (Option (Nat × Nat × Nat))) : Nat × Flags5 :=
  let breg (n : Nat) : FReg := if n = 0 then b else b1
  if ty = 8 then
    (matrixInt t (ps.map fun q => match q with
      | some (i, n, j) => (elem 8 a.data i, elem 8 (breg n).data j)
      | none => (0, 0)), 0)
  else
    matrixSum t (ps.map fun q => match q with
      | some (i, n, j) => (operandVal ty a i, operandVal ty (breg n) j)
      | none => (.fin false .zero, .fin false .zero))

/-- MACC, and MACCS when `sparse`: the tray is read as the latest earlier instruction left it, the sum lands four issue
cycles later; pass = 1 moves A on. -/
def sumOp (x : CellIn) (k : CellSt) (pass : BitVec 1) (tray : BitVec 2) (a b : BitVec 5) (nf : BitVec 1) (ty : BitVec 4)
    (p : BitVec 1) (sparse : Bool) : CellOut :=
  let ra := readOperand x k a
  let rb := readF k b.toNat
  let rb1 := readF k (b.toNat + 1)
  let n := fragK ty
  let old := trayAt k.tv tray.toNat
  let mask := trayMask (laneMask p k.p)
  let step (acc : TrayData × BitVec 160) (i : Nat) : TrayData × BitVec 160 :=
    if mask.getLsbD i then
      let ps := if sparse then sparsePairs ra.side n (i / 8) (i % 8) else densePairs n (i / 8) (i % 8)
      let (v, g) := sumElement ty ra rb rb1 (trayEl old i) ps
      (putTrayEl acc.1 i v, orXf acc.2 (i % 32) g)
    else acc
  let (data, xf) := (List.range 64).foldl step (old, 0)
  let k := pushTray { k with tv := setTray k.tv tray.toNat data }
    { due := x.now + 4, tag := x.tag, bundle := x.bundle, tray := tray.toNat, mask := mask, data := data, xf := xf
      spm := sparse && badMetadata ra.side n, nf := nf == 1, trapen := x.trapen }
  cellDone (if pass = 1 then { k with c := ra } else k)

/-- The sum replaces the elements that it updates; its XF bits, SPM and faults take effect with it. -/
def landTray (k : CellSt) (e : TrayEntry) (row col : Nat) : CellOut :=
  let k := { k with t := setTray k.t e.tray (pickTray e.mask (trayAt k.t e.tray) e.data) }
  let k := if e.nf then k else { k with xf := k.xf ||| e.xf }
  let k := if e.spm then { k with sf := k.sf ||| 2 } else k
  let g := (List.range 32).foldl (fun (g : Flags5) j => g ||| xfAt e.xf j) 0 &&& e.trapen.setWidth 5
  ⟨k, (if e.spm && e.trapen.getLsbD 6 then [(0x10, cellInfo 2 0 row col 0)] else []) ++
      (if !e.nf && g != 0 then [(0x11, cellInfo 3 g.toNat row col 0)] else [])⟩

/-! ### Quarters (R180) -/

/-- Quarter q is elements 16q to 16q + 15. -/
def quarter (t : TrayData) (q : BitVec 2) : RegData := t.extractLsb' (512 * q.toNat) 512
def putQuarter (t : TrayData) (q : BitVec 2) (v : RegData) : TrayData :=
  (t &&& ~~~ (BitVec.ofNat 2048 (2 ^ 512 - 1) <<< (512 * q.toNat))) ||| (v.setWidth 2048 <<< (512 * q.toNat))
/-- A quarter write, seen by a following MACC and by every reader of T. -/
def writeQuarter (k : CellSt) (r q : BitVec 2) (v : RegData) : CellSt :=
  { k with
    t := setTray k.t r.toNat (putQuarter (trayAt k.t r.toNat) q v)
    tv := setTray k.tv r.toNat (putQuarter (trayAt k.tv r.toNat) q v) }
def zeroQuarter (k : CellSt) (z : BitVec 1) (r q : BitVec 2) : CellSt := if z = 1 then writeQuarter k r q 0 else k

/-- R186. -/
def cellMzero (r : BitVec 2) (x : CellIn) (k : CellSt) : CellOut :=
  whenSel x k fun k => cellDone { k with t := setTray k.t r.toNat 0, tv := setTray k.tv r.toNat 0 }
def execMzero (m : BitVec 4) (r : BitVec 2) (s : State) : Out := issueW s m (.mzero m r)

/-- R187. -/
def cellMpush (d a : BitVec 5) (x : CellIn) (k : CellSt) : CellOut :=
  if x.sel then cellDone (writeF { k with c := readNbr x a } d.toNat (readNbr x a)) else forward x k a
def execMpush (m : BitVec 4) (d a : BitVec 5) (s : State) : Out := issueW s m (.mpush m d a)

/-- R188. -/
def cellMshift (a : BitVec 5) (x : CellIn) (k : CellSt) : CellOut :=
  forward x k a
def execMshift (m : BitVec 4) (a : BitVec 5) (s : State) : Out := issueW s m (.mshift m a)

/-- R189. -/
def cellMacc (k_ : BitVec 1) (r : BitVec 2) (a b : BitVec 5) (n : BitVec 1) (y : BitVec 4) (p : BitVec 1) (x : CellIn) (k : CellSt) : CellOut :=
  whenSel x k fun cell => sumOp x cell k_ r a b n y p false
def execMacc (m : BitVec 4) (k_ : BitVec 1) (r : BitVec 2) (a b : BitVec 5) (n : BitVec 1) (y : BitVec 4) (p : BitVec 1) (s : State) : Out := issueW s m (.macc m k_ r a b n y p)

/-- R192. -/
def cellMaccs (k_ : BitVec 1) (r : BitVec 2) (a b : BitVec 5) (n : BitVec 1) (y : BitVec 4) (p : BitVec 1) (x : CellIn) (k : CellSt) : CellOut :=
  whenSel x k fun cell => sumOp x cell k_ r a b n y p true
def execMaccs (m : BitVec 4) (k_ : BitVec 1) (r : BitVec 2) (a b : BitVec 5) (n : BitVec 1) (y : BitVec 4) (p : BitVec 1) (s : State) : Out := issueW s m (.maccs m k_ r a b n y p)

/-- R193. -/
def cellMdrain (z : BitVec 1) (r : BitVec 2) (a : BitVec 5) (q : BitVec 2) (x : CellIn) (k : CellSt) : CellOut :=
  if x.sel then cellDone (zeroQuarter { k with c := ⟨quarter (trayAt k.t r.toNat) q, 0⟩ } z r q) else forward x k a
def execMdrain (m : BitVec 4) (z : BitVec 1) (r : BitVec 2) (a : BitVec 5) (q : BitVec 2) (s : State) : Out := issueW s m (.mdrain m z r a q)

/-- R194. -/
def cellMtrOut (z : BitVec 1) (r : BitVec 2) (a : BitVec 5) (q : BitVec 2) (x : CellIn) (k : CellSt) : CellOut :=
  whenSel x k fun k => cellDone (zeroQuarter (writeF k a.toNat ⟨quarter (trayAt k.t r.toNat) q, 0⟩) z r q)
def execMtrOut (m : BitVec 4) (z : BitVec 1) (r : BitVec 2) (a : BitVec 5) (q : BitVec 2) (s : State) : Out := issueW s m (.mtrOut m z r a q)

/-- R194. -/
def cellMtrIn (r : BitVec 2) (a : BitVec 5) (q : BitVec 2) (x : CellIn) (k : CellSt) : CellOut :=
  whenSel x k fun k => cellDone (writeQuarter k r q (readF k a.toNat).data)
def execMtrIn (m : BitVec 4) (r : BitVec 2) (a : BitVec 5) (q : BitVec 2) (s : State) : Out := issueW s m (.mtrIn m r a q)

end Sys2Proof.Machine
end

