-- ==== Sys2Proof/Machine/Special.lean ====
section
/-! DEFINITION. The special-function instructions and their delivery (R165 to R170). -/

namespace Sys2Proof.Machine
open Sys2Proof

/-- A special-function instruction reaches a cell (R166): operands, lanes, FRM and TRAPEN are latched; `piv` says which
inputs set NPIV (R168). -/
def sfOp (x : CellIn) (k : CellSt) (d a b : BitVec 5) (nf : BitVec 1) (t : BitVec 4) (p : BitVec 1) (piv : Bool)
    (f : Fmt → RMode → Nat → Nat → Nat × Flags5) : CellOut :=
  let w := tyWidth t
  let fm := fmtOf t
  let lanes := laneMask p k.p
  let u := (readOperand x k a).data
  let v := (readOperand x k b).data
  let r := mapElems w lanes 0 fun e => f fm x.mode (elem w u e) (elem w v e)
  let low (e : Nat) : Bool :=
    let y := elem w u e
    lanes.getLsbD (lowSlice w e) && (fm.isZero y || (fm.sign y && !fm.isNaN y))
  cellDone (pushSf k
    { due := x.now + 14, tag := x.tag, bundle := x.bundle, d := d.toNat, lanes := spreadLanes w lanes, data := r.data
      xf := r.xf, npiv := piv && (List.range (512 / w)).any low, nf := nf == 1, trapen := x.trapen })

/-- All the flags of an XF image together. -/
def xfUnion (xf : BitVec 160) : Flags5 := (List.range 32).foldl (fun (g : Flags5) j => g ||| xfAt xf j) 0

/-- The result is written in the lanes chosen at reach, its flags and NPIV are set (R166, R168); TRAPEN at issue
governs the faults (R169). -/
def deliverSf (k : CellSt) (e : SfEntry) (row col : Nat) : CellOut :=
  let old := readF k e.d
  let k := writeF k e.d { old with data := pickSlices e.lanes old.data e.data }
  let k := if e.nf then k else { k with xf := k.xf ||| e.xf }
  let k := if e.npiv then { k with sf := k.sf ||| 1 } else k
  let g := xfUnion e.xf &&& e.trapen.setWidth 5
  ⟨k, (if e.npiv && e.trapen.getLsbD 5 then [(0x10, cellInfo 1 0 row col 0)] else []) ++
      (if !e.nf && g != 0 then [(0x11, cellInfo 3 g.toNat row col 0)] else [])⟩

/-- R166. -/
def cellFdiv (d a b : BitVec 5) (n : BitVec 1) (t : BitVec 4) (p : BitVec 1) (x : CellIn) (k : CellSt) : CellOut :=
  whenSel x k fun k => sfOp x k d a b n t p false fun f m u v => fDiv f m u v
def execFdiv (m : BitVec 4) (d a b : BitVec 5) (n : BitVec 1) (t : BitVec 4) (p : BitVec 1) (s : State) : Out := issueW s m (.fdiv m d a b n t p)

/-- R166. -/
def cellFsqrt (d a : BitVec 5) (n : BitVec 1) (t : BitVec 4) (p : BitVec 1) (x : CellIn) (k : CellSt) : CellOut :=
  whenSel x k fun k => sfOp x k d a a n t p true fun f m u _ => fSqrt f m u
def execFsqrt (m : BitVec 4) (d a : BitVec 5) (n : BitVec 1) (t : BitVec 4) (p : BitVec 1) (s : State) : Out := issueW s m (.fsqrt m d a n t p)

/-- R166. -/
def cellFrcp (d a : BitVec 5) (n : BitVec 1) (t : BitVec 4) (p : BitVec 1) (x : CellIn) (k : CellSt) : CellOut :=
  whenSel x k fun k => sfOp x k d a a n t p false fun f m u _ => fRcp f m u
def execFrcp (m : BitVec 4) (d a : BitVec 5) (n : BitVec 1) (t : BitVec 4) (p : BitVec 1) (s : State) : Out := issueW s m (.frcp m d a n t p)

/-- R166. -/
def cellFrsq (d a : BitVec 5) (n : BitVec 1) (t : BitVec 4) (p : BitVec 1) (x : CellIn) (k : CellSt) : CellOut :=
  whenSel x k fun k => sfOp x k d a a n t p true fun f m u _ => fRsq f m (Config.sfOther 0 u x.frm) u
def execFrsq (m : BitVec 4) (d a : BitVec 5) (n : BitVec 1) (t : BitVec 4) (p : BitVec 1) (s : State) : Out := issueW s m (.frsq m d a n t p)

/-- R166. -/
def cellFexp2 (d a : BitVec 5) (n : BitVec 1) (t : BitVec 4) (p : BitVec 1) (x : CellIn) (k : CellSt) : CellOut :=
  whenSel x k fun k => sfOp x k d a a n t p false fun f m u _ => fExp2 f m (Config.sfOther 1 u x.frm) u
def execFexp2 (m : BitVec 4) (d a : BitVec 5) (n : BitVec 1) (t : BitVec 4) (p : BitVec 1) (s : State) : Out := issueW s m (.fexp2 m d a n t p)

/-- R166. -/
def cellFlog2 (d a : BitVec 5) (n : BitVec 1) (t : BitVec 4) (p : BitVec 1) (x : CellIn) (k : CellSt) : CellOut :=
  whenSel x k fun k => sfOp x k d a a n t p false fun f m u _ => fLog2 f m (Config.sfOther 2 u x.frm) u
def execFlog2 (m : BitVec 4) (d a : BitVec 5) (n : BitVec 1) (t : BitVec 4) (p : BitVec 1) (s : State) : Out := issueW s m (.flog2 m d a n t p)

end Sys2Proof.Machine
end

