-- ==== Sys2Proof/Machine/Store.lean ====
section
/-! DEFINITION. The cell store and its address registers (R98 to R100). -/

namespace Sys2Proof.Machine
open Sys2Proof

/-- Bytes of the cell store, least significant first. -/
def storeBytesAt (k : CellSt) (a n : Nat) : List Byte := (List.range n).map fun i => Tab.get 0 k.store (a + i)
def storePut (k : CellSt) (a : Nat) : List Byte → CellSt
  | [] => k
  | b :: t => storePut { k with store := Tab.set 0 k.store a b } (a + 1) t
def addrReg (k : CellSt) (an : BitVec 2) : Nat := (Tab.get 0 k.a an.toNat).toNat
def setAddr (k : CellSt) (an : BitVec 2) (v : Int) : CellSt := { k with a := Tab.set 0 k.a an.toNat (BitVec.ofInt 16 v) }

/-- The range check of R14 and R99, on every selected cell whatever P holds; the post-increment follows. -/
def storeOp (x : CellIn) (k : CellSt) (sc : BitVec 1) (an : BitVec 2) (inc : BitVec 5) (f : CellSt → Nat → CellSt) : CellOut :=
  let a := addrReg k an
  if x.limit < a + (if sc = 1 then 128 else 64) || (sc = 1 && a / 64 % 2 == 1) then
    ⟨k, [(0x10, cellInfo 0 0 x.row x.col a)]⟩
  else cellDone (setAddr (f k a) an ((a : Int) + 64 * inc.toInt))

/-- The slices of a register that P chooses, into the store. -/
def storeSlices (k : CellSt) (a : Nat) (v : RegData) (lanes : Word) : CellSt :=
  (List.range 32).foldl (fun k j => if lanes.getLsbD j then storePut k (a + 2 * j) (natBytes 2 (elem 16 v j)) else k) k

/-- R99. -/
def cellCld (d : BitVec 5) (s_ : BitVec 1) (n : BitVec 2) (i : BitVec 5) (p : BitVec 1) (x : CellIn) (k : CellSt) : CellOut :=
  whenSel x k fun k => storeOp x k s_ n i fun k a =>
    let k := writeData k d (pickSlices (laneMask p k.p) (readDst k d).data (BitVec.ofNat 512 (bytesNat (storeBytesAt k a 64))))
    if s_ = 1 then writeDst k d { readDst k d with side := BitVec.ofNat 256 (bytesNat (storeBytesAt k (a + 64) 32)) } else k
def execCld (m : BitVec 4) (d : BitVec 5) (s_ : BitVec 1) (n : BitVec 2) (i : BitVec 5) (p : BitVec 1) (s : State) : Out := issueW s m (.cld m d s_ n i p)

/-- R99. -/
def cellCst (d : BitVec 5) (s_ : BitVec 1) (n : BitVec 2) (i : BitVec 5) (p : BitVec 1) (x : CellIn) (k : CellSt) : CellOut :=
  whenSel x k fun k => storeOp x k s_ n i fun k a =>
    let v := readDst k d
    let k := storeSlices k a v.data (laneMask p k.p)
    if s_ = 1 then storePut k (a + 64) (natBytes 32 v.side.toNat) else k
def execCst (m : BitVec 4) (d : BitVec 5) (s_ : BitVec 1) (n : BitVec 2) (i : BitVec 5) (p : BitVec 1) (s : State) : Out := issueW s m (.cst m d s_ n i p)

/-- R100. -/
def cellCaaddAdd (n : BitVec 2) (i : BitVec 10) (x : CellIn) (k : CellSt) : CellOut :=
  whenSel x k fun k => cellDone (setAddr k n ((addrReg k n : Int) + 64 * i.toInt))
def execCaaddAdd (m : BitVec 4) (n : BitVec 2) (i : BitVec 10) (s : State) : Out := issueW s m (.caaddAdd m n i)

/-- R100. -/
def cellCaaddSet (n : BitVec 2) (i : BitVec 10) (x : CellIn) (k : CellSt) : CellOut :=
  whenSel x k fun k => cellDone (setAddr k n (64 * i.toNat : Nat))
def execCaaddSet (m : BitVec 4) (n : BitVec 2) (i : BitVec 10) (s : State) : Out := issueW s m (.caaddSet m n i)

end Sys2Proof.Machine
end

