-- ==== Sys2Proof/Machine/Wave.lean ====
section
/-! DEFINITION. A W instruction on its way: what a cell sees of its neighbours (R17, R19, R20, R27, R28), the captures
of drains (R87, R140), the gathering of edge flags (R24, R25, R30), and the results that come later (R166, R195). -/

namespace Sys2Proof.Machine
open Sys2Proof


/-! ### What each W instruction does in a cell (R22) -/

/-- One cell's execution of a W instruction. -/
def cellRun (i : Instr) (x : CellIn) (cell : CellSt) : CellOut :=
  match i with
  | .fadd _ d a b n t p => Sys2Proof.Machine.cellFadd d a b n t p x cell
  | .fsub _ d a b n t p => Sys2Proof.Machine.cellFsub d a b n t p x cell
  | .fmul _ d a b n t p => Sys2Proof.Machine.cellFmul d a b n t p x cell
  | .ffma _ d a b n t p => Sys2Proof.Machine.cellFfma d a b n t p x cell
  | .ffms _ d a b n t p => Sys2Proof.Machine.cellFfms d a b n t p x cell
  | .fmin _ d a b n t p => Sys2Proof.Machine.cellFmin d a b n t p x cell
  | .fmax _ d a b n t p => Sys2Proof.Machine.cellFmax d a b n t p x cell
  | .fabs _ d a n t p => Sys2Proof.Machine.cellFabs d a n t p x cell
  | .fneg _ d a n t p => Sys2Proof.Machine.cellFneg d a n t p x cell
  | .fcmp _ c a b n t p => Sys2Proof.Machine.cellFcmp c a b n t p x cell
  | .sel _ d a b n => Sys2Proof.Machine.cellSel d a b n x cell
  | .iadd _ d a b n t p => Sys2Proof.Machine.cellIadd d a b n t p x cell
  | .isub _ d a b n t p => Sys2Proof.Machine.cellIsub d a b n t p x cell
  | .imul _ d a b n t p => Sys2Proof.Machine.cellImul d a b n t p x cell
  | .imac _ d a b n t p => Sys2Proof.Machine.cellImac d a b n t p x cell
  | .qmul _ d a b n t p => Sys2Proof.Machine.cellQmul d a b n t p x cell
  | .qmac _ d a b n t p => Sys2Proof.Machine.cellQmac d a b n t p x cell
  | .wAnd _ d a b n t p => Sys2Proof.Machine.cellWAnd d a b n t p x cell
  | .wOr _ d a b n t p => Sys2Proof.Machine.cellWOr d a b n t p x cell
  | .wXor _ d a b n t p => Sys2Proof.Machine.cellWXor d a b n t p x cell
  | .wShl _ d a b n t p => Sys2Proof.Machine.cellWShl d a b n t p x cell
  | .wShr _ d a b n t p => Sys2Proof.Machine.cellWShr d a b n t p x cell
  | .wSar _ d a b n t p => Sys2Proof.Machine.cellWSar d a b n t p x cell
  | .icmp _ c a b n t p => Sys2Proof.Machine.cellIcmp c a b n t p x cell
  | .imin _ d a b n t p => Sys2Proof.Machine.cellImin d a b n t p x cell
  | .imax _ d a b n t p => Sys2Proof.Machine.cellImax d a b n t p x cell
  | .fdiv _ d a b n t p => Sys2Proof.Machine.cellFdiv d a b n t p x cell
  | .fsqrt _ d a n t p => Sys2Proof.Machine.cellFsqrt d a n t p x cell
  | .frcp _ d a n t p => Sys2Proof.Machine.cellFrcp d a n t p x cell
  | .frsq _ d a n t p => Sys2Proof.Machine.cellFrsq d a n t p x cell
  | .fexp2 _ d a n t p => Sys2Proof.Machine.cellFexp2 d a n t p x cell
  | .flog2 _ d a n t p => Sys2Proof.Machine.cellFlog2 d a n t p x cell
  | .mov _ d a p => Sys2Proof.Machine.cellMov d a p x cell
  | .movx _ d a p => Sys2Proof.Machine.cellMovx d a p x cell
  | .movi _ d i t p => Sys2Proof.Machine.cellMovi d i t p x cell
  | .cvt _ d a b n t p => Sys2Proof.Machine.cellCvt d a b n t p x cell
  | .cvtsr _ d a b n t p => Sys2Proof.Machine.cellCvtsr d a b n t p x cell
  | .srand _ a => Sys2Proof.Machine.cellSrand a x cell
  | .lane _ d a r p => Sys2Proof.Machine.cellLane d a r p x cell
  | .cpass _ d a p => Sys2Proof.Machine.cellCpass d a p x cell
  | .cinj _ a b => Sys2Proof.Machine.cellCinj a b x cell
  | .cscanAdd _ d a b n t p => Sys2Proof.Machine.cellCscanAdd d a b n t p x cell
  | .cscanMax _ d a b n t p => Sys2Proof.Machine.cellCscanMax d a b n t p x cell
  | .cscanMin _ d a b n t p => Sys2Proof.Machine.cellCscanMin d a b n t p x cell
  | .cscanOr _ d a b n t p => Sys2Proof.Machine.cellCscanOr d a b n t p x cell
  | .cwr _ a => Sys2Proof.Machine.cellCwr a x cell
  | .crd _ d a p => Sys2Proof.Machine.cellCrd d a p x cell
  | .cld _ d s n i p => Sys2Proof.Machine.cellCld d s n i p x cell
  | .cst _ d s n i p => Sys2Proof.Machine.cellCst d s n i p x cell
  | .caaddAdd _ n i => Sys2Proof.Machine.cellCaaddAdd n i x cell
  | .caaddSet _ n i => Sys2Proof.Machine.cellCaaddSet n i x cell
  | .cflag _ d => Sys2Proof.Machine.cellCflag d x cell
  | .psetOnes _ => Sys2Proof.Machine.cellPsetOnes  x cell
  | .psetZero _ => Sys2Proof.Machine.cellPsetZero  x cell
  | .psetInv _ => Sys2Proof.Machine.cellPsetInv  x cell
  | .psetLoad _ a => Sys2Proof.Machine.cellPsetLoad a x cell
  | .psetSave _ b => Sys2Proof.Machine.cellPsetSave b x cell
  | .psetAndl _ a => Sys2Proof.Machine.cellPsetAndl a x cell
  | .psetOrl _ a => Sys2Proof.Machine.cellPsetOrl a x cell
  | .cxfRead _ d p => Sys2Proof.Machine.cellCxfRead d p x cell
  | .cxfClear _ k p => Sys2Proof.Machine.cellCxfClear k p x cell
  | .cxfReadclr _ d k p => Sys2Proof.Machine.cellCxfReadclr d k p x cell
  | .cstatRead _ d => Sys2Proof.Machine.cellCstatRead d x cell
  | .cstatClear _ k => Sys2Proof.Machine.cellCstatClear k x cell
  | .cstatReadclr _ d k => Sys2Proof.Machine.cellCstatReadclr d k x cell
  | .cstatTest _ k => Sys2Proof.Machine.cellCstatTest k x cell
  | .mzero _ r => Sys2Proof.Machine.cellMzero r x cell
  | .mpush _ d a => Sys2Proof.Machine.cellMpush d a x cell
  | .mshift _ a => Sys2Proof.Machine.cellMshift a x cell
  | .macc _ k r a b n y p => Sys2Proof.Machine.cellMacc k r a b n y p x cell
  | .maccs _ k r a b n y p => Sys2Proof.Machine.cellMaccs k r a b n y p x cell
  | .mdrain _ z r a q => Sys2Proof.Machine.cellMdrain z r a q x cell
  | .mtrOut _ z r a q => Sys2Proof.Machine.cellMtrOut z r a q x cell
  | .mtrIn _ r a q => Sys2Proof.Machine.cellMtrIn r a q x cell
  | _ => cellDone cell

/-! ### Neighbours -/

/-- The cell that faces (r,c) across edge `e` of position `n`: its core and array coordinates, or none when it is missing. -/
def facing (s : State) (m : Nat) (win : Window) (n e r c : Nat) : Option (Nat × Nat × Nat) :=
  let k := coreAt s m
  let ps := positions k m
  let here := ps.getD n m
  let ew := k.chainEW && !k.chain.isEmpty
  let ns := !k.chainEW && !k.chain.isEmpty
  match e with
  | 0 =>
    if win.row0 < r then some (here, r - 1, c)
    else if ns && 0 < n then some (ps.getD (n - 1) m, win.row0 + win.h - 1, c) else none
  | 1 =>
    if c + 1 < win.col0 + win.w then some (here, r, c + 1)
    else if ew && n + 1 < ps.length then some (ps.getD (n + 1) m, r, win.col0) else none
  | 2 =>
    if r + 1 < win.row0 + win.h then some (here, r + 1, c)
    else if ns && n + 1 < ps.length then some (ps.getD (n + 1) m, win.row0, c) else none
  | _ =>
    if win.col0 < c then some (here, r, c - 1)
    else if ew && 0 < n then some (ps.getD (n - 1) m, r, win.col0 + win.w - 1) else none

/-- The edge position of a cell (R130). -/
def edgePos (win : Window) (e r c : Nat) : Nat := if e % 2 = 0 then c - win.col0 else r - win.row0

/-- What the loader of an edge presents for this instruction, or zero (R20). -/
def presented (w : Wave) (p e pos : Nat) : FReg :=
  match w.feeds.find? fun f => f.core == p && f.edge == e with
  | some f => f.regs.getD pos .zero
  | none => .zero

/-- E of position p of core m's chain (R28). -/
def delayOf (s : State) (m p : Nat) : Nat := linkDelay (coreAt s m) (chainPos (coreAt s m) p)
/-- A cell of position p as the instructions that are on their way to it find it: an instruction that a link delays finds what those
before it will have left there, and so does a neighbour's read across the link, whatever the delay (R19, R20, R28; DEDUCED, log
entry 12). -/
def frontCell (s : State) (m p key : Nat) : CellSt :=
  let a := (coreAt s p).arr
  if delayOf s m p = 0 then cellAt a key else (Tab.look a.ahead key).getD (cellAt a key)

/-- What edge `e` of a cell reads (R20). -/
def neighbourC (s : State) (m : Nat) (w : Wave) (n r c e : Nat) : FReg :=
  match facing s m w.win n e r c with
  | some (p, r', c') => (frontCell s m p (cellKey r' c')).c
  | none => presented w ((positions (coreAt s m) m).getD n m) e (edgePos w.win e r c)

/-! ### One distance of one wave -/

/-- A loader takes a captured register; one with a program sends it to the epilogue unit (R140, R202). -/
def takeCapture (s : State) (p edge cap pos : Nat) (v : FReg) : State :=
  let epi := (loaderAt (coreAt s p).edge edge).caps.any fun x => x.id == cap && x.bind.prog.isSome
  modEdge s p fun y =>
    { setLoader y edge { loaderAt y edge with caps := (loaderAt y edge).caps.map fun x =>
        if x.id == cap then { x with regs := Tab.set .zero x.regs pos v, got := x.got + 1 } else x } with
      epq := if epi then y.epq ++ [(edge, cap, pos)] else y.epq }
/-- What position n of core m's chain shows comes E_n cycles later (R28). -/
def behindLink (s : State) (m n : Nat) (v : ArrEv) (f : State → State) : State :=
  let e := linkDelay (coreAt s m) n
  if e = 0 then f s else schedule s m ((coreAt s m).arr.acyc + e) v
/-- A deferred fault of a cell of position n; in a chain with a slow link the faults of one cycle meet in the master's list,
so that the lowest row, then column, is the first detecting cell (R222). -/
def cellFault (s : State) (m n bundle tag : Nat) (f : Nat × Dword) : State :=
  let k := coreAt s m
  if chainDelay k = 0 then detect s m f.1 bundle f.2 (some tag)
  else schedule s m (k.arr.acyc + linkDelay k n) (.fault f.1 bundle tag f.2)
/-- The bytes that a cell's store takes. -/
def storeDiff (a b : Tab Byte) : List (Nat × Byte) :=
  (a ++ b).filterMap fun p => if Tab.get 0 a p.1 = Tab.get 0 b p.1 then none else some (p.1, Tab.get 0 b p.1)
/-- The cell takes what an instruction or a result leaves in it, E_n cycles later behind links (R28). -/
def putCell (s : State) (m p r c : Nat) (x : CellSt) : State :=
  let e := delayOf s m p
  let old := frontCell s m p (cellKey r c)
  if e = 0 then modArr s p fun a => setCell a (cellKey r c) x
  else if x = old then s
  else schedule (modArr s p fun a => { a with ahead := Tab.put a.ahead (cellKey r c) x }) m ((coreAt s m).arr.acyc + e)
    (.cell p r c x (storeDiff old.store x.store))
/-- What was on its way to a follower's cell comes to it. -/
def cellComes (s : State) (m p r c : Nat) (x : CellSt) (bs : List (Nat × Byte)) : State :=
  let s := modArr s p fun a => setCell a (cellKey r c) { x with store := putBytes (cellAt a (cellKey r c)).store bs }
  if (onWay (coreAt s m).arr p (cellKey r c)).isEmpty then modArr s p fun a => { a with ahead := Tab.erase (cellKey r c) a.ahead } else s

/-- A drain capture of the edge cell's C after it has executed (R87, R140); those of one cycle come in the order in which the model
runs the cells (DESIGN CHOICE, log entry 82). -/
def capture (s : State) (m n : Nat) (w : Wave) (p r c : Nat) (v : FReg) : State :=
  w.drains.foldl (fun s o =>
    let edge := match o.edge with
      | 0 => r == w.win.row0
      | 1 => c + 1 == w.win.col0 + w.win.w
      | 2 => r + 1 == w.win.row0 + w.win.h
      | _ => c == w.win.col0
    if o.core == p && edge then
      let pos := edgePos w.win o.edge r c
      behindLink s m n (.capture p o.edge o.cap pos v) fun s => takeCapture s p o.edge o.cap pos v
    else s) s

/-- A cell's output joins the group (R24, R30). -/
def gather (g : FlagGroup) (r c : Nat) (v : Bool) : FlagGroup :=
  let rb : Word := BitVec.ofNat 32 (2 ^ r)
  let cb : Word := BitVec.ofNat 32 (2 ^ c)
  if v then { g with rowAny := g.rowAny ||| rb, colAny := g.colAny ||| cb, summary := g.summary ||| 1 }
  else { g with rowAll := g.rowAll &&& ~~~ rb, colAll := g.colAll &&& ~~~ cb, summary := g.summary &&& 1 }

/-- One cell executes or forwards the instruction, at t + D as far as its chain's links take no cycle; what it leaves comes E_n
later (R28). -/
def reachCell (s : State) (m : Nat) (w : Wave) (n r c : Nat) : State × Wave :=
  let p := (positions (coreAt s m) m).getD n m
  let sel := w.rows.getLsbD r && w.cols.getLsbD c
  let now := (coreAt s m).arr.acyc
  let x : CellIn :=
    { sel := sel, row := r, col := c, frm := w.frm, trapen := w.trapen, imx := w.imx
      nbr := fun e => neighbourC s m w n r c e
      now := now, tag := w.tag, bundle := w.bundle, limit := (coreAt s p).storeQuota }
  let o := cellRun w.instr x (frontCell s m p (cellKey r c))
  let s := putCell s m p r c o.cell
  let s := o.faults.foldl (fun s f => cellFault s m n w.bundle w.tag f) s
  let s := if sel && isSf w.instr then schedule s m (now + 14) (.sf p r c) else s
  let s := if sel && isMacc w.instr then schedule s m (now + 4) (.tray p r c) else s
  (capture s m n w p r c o.cell.c, if isCflag w.instr then { w with acc := gather w.acc r c o.cell.edgeFlag } else w)

/-- The window cells of every position at one distance, in increasing row, then column. -/
def cellsAt (s : State) (m : Nat) (w : Wave) (d : Nat) : List (Nat × Nat × Nat) :=
  let k := coreAt s m
  w.win.cells.flatMap fun rc =>
    ((List.range (chainLen k)).filter fun n => waveDist k w.win n (rc.1 - w.win.row0) (rc.2 - w.win.col0) == d).map
      fun n => (n, rc.1, rc.2)

def reachAll (s : State) (m : Nat) (w : Wave) : List (Nat × Nat × Nat) → State × Wave
  | [] => (s, w)
  | (n, r, c) :: t =>
    let (s, w) := reachCell s m w n r c
    reachAll s m w t

/-- The distance of the last cell reached (R18). -/
def lastDistance (k : Core) (w : Window) : Nat :=
  if k.chainEW then w.h + chainLen k * w.w - 2 else chainLen k * w.h + w.w - 2

/-- A wave has executed in every cell. -/
def endWave (s : State) (m tag : Nat) : State := modArr s m fun a => { a with waves := a.waves.filter fun v => v.tag != tag }

/-- The wave reaches its next distance; past the last one it has left the window, E_n cycles later in a chain (R28). -/
def reachWave (s : State) (m tag : Nat) : State :=
  match (coreAt s m).arr.waves.find? fun w => w.tag == tag with
  | none => s
  | some w =>
    let (s, w) := reachAll s m w (cellsAt s m w w.next)
    let now := (coreAt s m).arr.acyc
    let s := if isCflag w.instr then
        modArr s m fun a => { a with groups := a.groups.map fun g => if g.tag == tag then { g with group := w.acc } else g }
      else s
    let s := modArr s m fun a => { a with waves := a.waves.map fun v => if v.tag == tag then { w with next := w.next + 1 } else v }
    if w.next < lastDistance (coreAt s m) w.win then schedule s m (now + 1) (.reach tag)
    else if chainDelay (coreAt s m) = 0 then endWave s m tag
    else schedule s m (now + chainDelay (coreAt s m)) (.leave tag)

/-! ### Later results -/

/-- The oldest result of the cell's special-function pipeline is delivered (R166). -/
def sfLand (s : State) (c row col : Nat) : State :=
  let key := cellKey row col
  let m := masterOf s c
  match (frontCell s m c key).sfq with
  | [] => s
  | e :: t =>
    let o := deliverSf { frontCell s m c key with sfq := t } e row col
    let n := chainPos (coreAt s m) c
    o.faults.foldl (fun s f => cellFault s m n e.bundle e.tag f) (putCell s m c row col o.cell)

/-- The oldest pending sum of the cell lands (R195). -/
def trayLand (s : State) (c row col : Nat) : State :=
  let key := cellKey row col
  let m := masterOf s c
  match (frontCell s m c key).tq with
  | [] => s
  | e :: t =>
    let o := landTray { frontCell s m c key with tq := t } e row col
    let n := chainPos (coreAt s m) c
    o.faults.foldl (fun s f => cellFault s m n e.bundle e.tag f) (putCell s m c row col o.cell)

/-- The oldest pending group replaces the group whole (R24, R25). -/
def groupLand (s : State) (c : Nat) : State :=
  match (coreAt s c).arr.groups with
  | [] => s
  | g :: t => modArr s c fun a => { a with group := g.group, groups := t }

/-! ### When an array event happens (R18, R25, R149, R195, R226, R227) -/

/-- One array event of a core. -/
def arrayEvent (s : State) (c : Nat) : ArrEv → State
  | .reach tag => reachWave s c tag
  | .leave tag => endWave s c tag
  | .sf core row col => sfLand s core row col
  | .tray core row col => trayLand s core row col
  | .group => groupLand s c
  | .capture core edge cap pos v => takeCapture s core edge cap pos v
  | .fault cause bundle tag info => detect s c cause bundle info (some tag)
  | .cell core row col x bs => cellComes s c core row col x bs

/-- The array event that happens next, with its issue cycle: the first of the cycles that are over, else a flag group
that is valid from this cycle (R25).  A frozen array's issue cycle stands still (R226). -/
def nextArr (a : Arr) : Option (Nat × ArrEv) :=
  match a.due with
  | [] => none
  | d :: _ => if d.1 < a.acyc then some d else a.due.find? fun d => d.1 ≤ a.acyc && d.2 == .group

/-- An array event that was scheduled for an issue cycle happens in it. -/
def inCycle (s : State) (c t : Nat) (f : State → State) : State :=
  let k := coreAt s c
  let s := modCore s c fun k => { k with arr := { k.arr with acyc := t }, seq := { k.seq with cyc := k.seq.cyc - 1 } }
  modCore (f s) c fun j => { j with arr := { j.arr with acyc := k.arr.acyc }, seq := { j.seq with cyc := k.seq.cyc } }

/-- The event leaves the list and happens in its cycle. -/
def takeArr (s : State) (c : Nat) (d : Nat × ArrEv) : State :=
  let s := modArr s c fun a => { a with due := a.due.erase d }
  if d.1 < (coreAt s c).arr.acyc then inCycle s c d.1 fun s => arrayEvent s c d.2 else arrayEvent s c d.2

/-- A core's array event happens when it is the next one; else nothing does. -/
def whenDue (s : State) (c : Nat) (v : ArrEv) : State :=
  match nextArr (coreAt s c).arr with
  | some d => if d.2 = v then takeArr s c d else s
  | none => s

/-- R18: one distance of one wave, in its cycle. -/
def execWavefrontReach (core tag : Nat) (s : State) : Out := .next (whenDue s core (.reach tag))
/-- R149, R166. -/
def execSfDeliver (core row col : Nat) (s : State) : Out := .next (whenDue s (masterOf s core) (.sf core row col))
/-- R195. -/
def execTraySumLand (core row col : Nat) (s : State) : Out := .next (whenDue s (masterOf s core) (.tray core row col))
/-- R25. -/
def execFlagGroupValid (core : Nat) (s : State) : Out := .next (whenDue s core .group)

end Sys2Proof.Machine
end

