-- ==== Sys2Proof/Machine/Power.lean ====
section
/-! DEFINITION. Islands, the power budget, the thermal rules, boot, errors and counters, and the host's register writes
in BAR0 (R7, R368, R370 to R379). -/

namespace Sys2Proof.Machine
open Sys2Proof

/-! ### Lifetime counters (R379) -/

/-- DOVRS and DOVRX of every die (R254). -/
def overflows (s : State) : Nat := ((List.range 4).map fun d => Tab.get 0 s.sys.ctr (4 * d) + Tab.get 0 s.sys.ctr (4 * d + 1)).foldl (· + ·) 0
def addLife (s : State) (off n : Nat) : State :=
  modPower s fun p => { p with live := Tab.set 0 p.live off (min ctrMax (lifetime p off + n)) }
/-- OVR as it stands. -/
def ovrNow (s : State) : Nat := min ctrMax (lifetime s.power 0xE810 + (overflows s - s.power.ovrSeen))
/-- OVR takes in the events since it last did (R379). -/
def collectOvr (s : State) : State :=
  modPower s fun p => { p with live := Tab.set 0 p.live 0xE810 (ovrNow s), ovrSeen := overflows s }

/-! ### Islands (R370 to R372) -/

def secondBeats : Nat := 1800000000
/-- The island's beats in A0 to A2 up to now; ISLn counts the whole hours of them. -/
def accrue (s : State) (i : Nat) : State :=
  let on := Tab.get 0 s.power.islOn i + (if speed (islandAt s i) = 0 then 0 else s.beat - Tab.get 0 s.power.islAt i)
  let hour := 3600 * secondBeats
  modPower (addLife s (0xE980 + 8 * i) (on / hour)) fun p => { p with
    islOn := Tab.set 0 p.islOn i (on % hour), islAt := Tab.set 0 p.islAt i s.beat }
def setIsland (s : State) (i : Nat) (x : IslState) : State :=
  modPower (accrue s i) fun p => { p with islands := Tab.set .a0 p.islands i x }
def tripAt (s : State) (i : Nat) : Bool := Tab.get false s.power.trip i
/-- A bound team holds a core of cluster island i. -/
def clusterBound (s : State) (i : Nat) : Bool :=
  s.sched.teams.any fun t => holdsCores t.2.state && t.2.place.any fun c => clusterOf c == i
def anyBound (s : State) : Bool := s.sched.teams.any fun t => holdsCores t.2.state
/-- Two cores of one chain would run at different clocks. -/
def chainMismatch (s : State) (i : Nat) (x : IslState) : Bool :=
  let at_ (c : Nat) : Nat := if clusterOf c = i then speed x else speed (islandAt s (clusterOf c))
  -- a chain's cores wherever their state is: live, in the shadow, or in a context area
  (s.cores ++ s.sched.shadow ++ s.sched.saved).any fun k => k.2.chain.any fun a => k.2.chain.any fun b =>
    at_ a != at_ b && (clusterOf a == i || clusterOf b == i)

/-- A command raises a clock while a trip is set, or after the shutdown of R373. -/
def hot (s : State) (i : Nat) (x : IslState) : Bool :=
  speed (islandAt s i) < speed x && (s.power.trip.any (·.2) || s.power.shut)
/-- A command's RESULT before anything changes. -/
def powerResult (s : State) (i : Nat) (x : IslState) : Nat :=
  let stops := x == .ret || x == .off
  if 24 ≤ i || (22 ≤ i && (x == .a1 || x == .a2)) then 1
  else if stops && ((i < 16 && clusterBound s i) || (16 ≤ i && i ≠ 20 && anyBound s)) then 2
  else if i < 16 && chainMismatch s i x then 3
  else if hot s i x then 4
  else 0

/-- The teams with a context in an area of an HBM (R228, R370). -/
def contextsIn (s : State) (i : Nat) : List Nat :=
  (s.sched.teams.filter fun t => s.sched.saved.any fun k => k.1 / 64 == t.1 &&
    (match Tab.look s.sched.parts t.2.part with
      | some p => match Tab.look p.areas (k.1 % 64) with | some a => inHbm a && homeDie a / 2 == i - 22 | none => false
      | none => false)).map (·.1)
/-- OFF loses every SRAM and register of an island (R370): of an uncore the home slices' ways with the pinned lines, whose bytes
are gone (DESIGN CHOICE, log entry 68); of an HBM the contexts that it holds, whose teams are killed as for a lost context (R234;
DESIGN CHOICE, log entry 68). -/
def loseIsland (s : State) (i : Nat) : State :=
  if i < 16 then
    let s := (List.range 4).foldl (fun s j =>
      modCore s (4 * i + j) fun k => { Core.reset with imemQuota := k.imemQuota, storeQuota := k.storeQuota, part := k.part }) s
    let s := (List.range 4).foldl (fun s j => modSched s fun d => { d with shadow := Tab.erase (4 * i + j) d.shadow }) s
    let s := setWays s i []
    let unit := 20 * (i / 4) + 16 + i % 4
    let lo := scratchBase + i * 0x2000000
    modSys s fun y => { y with
      tlb := y.tlb.filter fun t => !(t.unit < 128 && t.unit % 64 / 4 == i)
      agen := Tab.set (unitSeed unit) y.agen unit (unitSeed unit)
      mem := memKeep y.mem fun a => !(lo ≤ a && a < lo + 0x2000000)
      full := y.full.filter fun f => !(lo ≤ 128 * f.1 && 128 * f.1 < lo + 0x2000000) }
  else if i < 20 then
    let die := i - 16
    let s := modSys (collectOvr s) fun y => { y with
      agen := y.agen.filter fun p => !(20 * die ≤ p.1 && p.1 < 20 * die + 16)
      ctr := y.ctr.filter fun p => p.1 / 4 != die
      mem := memKeep y.mem fun a => !(y.pinned.contains (a / 128) && homeDie a == die)
      pinned := y.pinned.filter fun l => homeDie (128 * l) != die
      walks := y.walks.filter fun w => w.die != die
      l2 := Tab.set [] y.l2 (i - 16) [], dir := y.dir.filter fun p => homeDie (128 * p.1) != i - 16
      tlb := y.tlb.filter fun t => t.unit != 128 + (i - 16) }
    modPower s fun p => { p with ovrSeen := overflows s }
  else if i = 20 then modPav (modSched s fun d => { d with teams := [] }) fun _ => .reset
  else if i = 22 || i = 23 then
    let s := (contextsIn s i).foldl (fun s t => killTeam s t 2 (.killed true false)) s
    modSys s fun y => { y with mem := memKeep y.mem fun a => !(inHbm a && homeDie a / 2 == i - 22) }
  else s

/-- An island comes to a state; out of OFF it comes reset, and with island 20 Folop starts again (R372).  A cluster that runs again
has cores for the scheduler. -/
def enterState (s : State) (i : Nat) (x : IslState) : State :=
  let wakes := speed (islandAt s i) == 0 && speed x != 0 && i < 16
  let s :=
    if islandAt s i = .off && x != .off then
      let s := loseIsland s i
      let s := if i = 20 && s.power.boot = 3 then modPower s fun p => { p with boot := 2 } else s
      setIsland s i x
    else setIsland s i x
  if wakes then callSched s else s
/-- PSTAT reports a command. -/
def powerReport (s : State) (seq : Byte) (result : Nat) : State :=
  modPower s fun p => { p with seqDone := seq, result := BitVec.ofNat 3 result, busy := false, cmd := none }
/-- PCMD (R371, R372): a change of clock, or a way out of RET, takes until POWER_COMMAND_DONE. -/
def powerCommand (s : State) (i : Nat) (x : IslState) (seq : Byte) : State :=
  if s.power.busy then s
  else if powerResult s i x ≠ 0 then powerReport s seq (powerResult s i x)
  else if x = .ret then powerReport (enterState s i .ret) seq 0
  else if x = .off then powerReport (setIsland (loseIsland s i) i .off) seq 0
  else if islandAt s i = x then powerReport s seq 0
  else modPower s fun p => { p with busy := true, cmd := some (i, x, seq) }

def execIslandToA0 (isl : Nat) (seq : BitVec 8) (s : State) : Out := .next (powerCommand s isl .a0 seq)
def execIslandToA1 (isl : Nat) (seq : BitVec 8) (s : State) : Out := .next (powerCommand s isl .a1 seq)
def execIslandToA2 (isl : Nat) (seq : BitVec 8) (s : State) : Out := .next (powerCommand s isl .a2 seq)
def execIslandToRet (isl : Nat) (seq : BitVec 8) (s : State) : Out := .next (powerCommand s isl .ret seq)
def execIslandToOff (isl : Nat) (seq : BitVec 8) (s : State) : Out := .next (powerCommand s isl .off seq)
/-- A reserved STATE (R371). -/
def execPcmdReservedState (isl : Nat) (seq : BitVec 8) (s : State) : Out :=
  let _ := isl
  if s.power.busy then .next s else .next (powerReport s seq 1)
/-- The change is over; a trip, or a chain bound meanwhile, refuses it. -/
def execPowerCommandDone (s : State) : Out :=
  match s.power.cmd with
  | none => .next s
  | some (i, x, seq) =>
    if powerResult s i x ≠ 0 then .next (powerReport s seq (powerResult s i x))
    else .next (powerReport (enterState s i x) seq 0)

/-! ### Thermal rules (R373) -/

def execTripClear (isl : Nat) (s : State) : Out := .next (modPower s fun p => { p with trip := Tab.set false p.trip isl false })
/-- 110 °C: to A2, with TRIP. -/
def execThermalTrip (isl : Nat) (s : State) : Out :=
  if 24 ≤ isl then .next s
  else
    let s := modPower s fun p => { p with trip := Tab.set false p.trip isl true, bin := 22 }
    let down := isl < 22 && 2 < speed (islandAt s isl)
    .next (if down then setIsland s isl .a2 else s)
/-- 120 °C: every island but 20 goes off until a power-on reset. -/
def execThermalShutdown (s : State) : Out :=
  let s := ((List.range 24).filter fun i => i != 20).foldl (fun s i => setIsland (loseIsland s i) i .off) s
  .next (modPower s fun p => { p with shut := true, bin := 24, busy := false, cmd := none })

/-! ### The budget (R374) -/

/-- A die's share of the cap. -/
def dieShare (s : State) (d : Nat) : Nat :=
  s.power.pcap.toNat / 4 + (if d = 0 then s.power.pcap.toNat % 4 else 0)
def lent (s : State) (d : Nat) : Nat := ((s.power.loans.filter fun l => l.1 == d).map (·.2.2)).foldl (· + ·) 0
def borrowed (s : State) (d : Nat) : Nat := ((s.power.loans.filter fun l => l.2.1 == d).map (·.2.2)).foldl (· + ·) 0
/-- What a die may draw. -/
def allowance (s : State) (d : Nat) : Nat := dieShare s d + borrowed s d - lent s d
/-- The loan of one die to another, 0 for none. -/
def loanOf (s : State) (a b : Nat) : Nat := ((s.power.loans.filter fun l => l.1 == a && l.2.1 == b).map (·.2.2)).foldl (· + ·) 0
def setLoan (s : State) (a b n : Nat) : State :=
  modPower s fun p => { p with
    loans := (p.loans.filter fun l => !(l.1 == a && l.2.1 == b)) ++ (if n = 0 then [] else [(a, b, n)]) }
/-- What a die draws, in units. -/
def drawOf (s : State) (d : Nat) : Nat := Tab.get 0 s.power.draw d
/-- The die would exceed its allowance: its cores hold issue (R374); a core that issues draws a unit at least (DESIGN CHOICE,
log entry 69). -/
def overBudget (s : State) (d : Nat) : Bool := allowance s d < max 1 (drawOf s d)
/-- A die lends units that it does not use. -/
def execBudgetLend (lender borrower units : Nat) (s : State) : Out :=
  if lender < 4 && borrower < 4 && lender ≠ borrower && units + drawOf s lender ≤ allowance s lender then
    .next (setLoan s lender borrower (loanOf s lender borrower + units))
  else .next s
/-- A die that has lent more than it may: it calls back its first loan, as far as it needs. -/
def shortDie (s : State) : Option Nat := (List.range 4).find? fun d => dieShare s d + borrowed s d < lent s d
def callBack (s : State) (d : Nat) : State :=
  match s.power.loans.find? fun l => l.1 == d with
  | none => s
  | some l => setLoan s d l.2.1 (loanOf s d l.2.1 - (lent s d - (dieShare s d + borrowed s d)))
/-- Until none is short; each call takes units or a loan off the list. -/
def cover : Nat → State → State
  | 0, s => s
  | n + 1, s =>
    match shortDie s with
    | none => s
    | some d => cover n (callBack s d)
def loanSum (s : State) : Nat := (s.power.loans.map (·.2.2)).sum
/-- A loan is repaid on request; a borrower that has lent the units on calls them back (R374). -/
def execBudgetRepay (borrower lender units : Nat) (s : State) : Out :=
  let t := setLoan s lender borrower (loanOf s lender borrower - units)
  .next (cover (loanSum t + t.power.loans.length) t)
/-- PCAP [9:0]: RW, so a write sets the field (R7); R371 gives its range as 0 to 560 and no outcome of a write above it, which
the model takes like any other (DESIGN CHOICE, log entry 69).  Borrowed units are repaid when a die's share falls. -/
def setCap (s : State) (v : Nat) : State :=
  let t := modPower s fun p => { p with pcap := BitVec.ofNat 10 v }
  if (List.range 4).any fun d => dieShare t d < dieShare s d then modPower t fun p => { p with loans := [] } else t
def execPcapWrite (value : BitVec 64) (s : State) : Out := .next (setCap s value.toNat)
/-- The draw of a die changes. -/
def setDraw (s : State) (d units : Nat) : State := modPower s fun p => { p with draw := Tab.set 0 p.draw d units }

/-! ### Boot (R375) -/

/-- Bytes of an image. -/
def imageAt (f : List Byte) (off n : Nat) : List Byte := (f.drop off).take n
def imageBody (f : List Byte) : List Byte := f.drop 0x40F0
/-- D: the digest of the header's first 16 bytes and the body. -/
def firmwareDigest (f : List Byte) : List Byte := sha384 (imageAt f 0 16 ++ imageBody f)
def firmwareVersion (f : List Byte) : Nat := bytesNat (imageAt f 4 4)
/-- A well-formed image whose two signatures verify under the vendor keys. -/
def firmwareSigned (f : List Byte) : Bool :=
  bytesNat (imageAt f 0 4) == 0x4C514657 && bytesNat (imageAt f 8 8) == (imageBody f).length &&
    rsaVerify Config.vendorRsa.toNat (firmwareDigest f) (imageAt f 0x10 384) &&
    slhVerify (beBytes 48 Config.vendorSlh.toNat) (firmwareDigest f) (imageAt f 0x190 16224)
/-- The measurement of image number `i`, 0 to 2. -/
def measure (p : Power) (i : Nat) (f : List Byte) : Power :=
  { p with log := p.log ++ [(i, i + 1, firmwareVersion f, BitVec.ofNat 384 (beNat (firmwareDigest f)))], boot := if i = 2 then 2 else 1 }
def bootFails (s : State) (code : Word) : State := modPower s fun p => { p with boot := code }
/-- Folop is ready, with its own ASID 0 live (DESIGN CHOICE, log entry 67). -/
def folopReadies (s : State) : State :=
  let s := modPower s fun p => { p with boot := 3 }
  match emptyRoot s 0 with
  | none => s
  | some (s, r) => setAsid s 0 { v := true, dying := false, root := r, since := 0 }
/-- The boot ROM comes to its next image, in the order loader, Folop, power controller: it is measured and runs, or the device
stays in recovery. -/
def bootStep (s : State) : State :=
  let i := s.power.log.length
  if s.power.boot = 2 then folopReadies s
  else
    match s.power.flash[i]? with
    | none => bootFails s 0xDEAD0001
    | some f =>
      if !firmwareSigned f then bootFails s 0xDEAD0001
      else if firmwareVersion f < s.power.fuses then bootFails s 0xDEAD0002
      else modPower s fun p => measure p i f
/-- The ROM still has an image to verify, or Folop to start. -/
def booting (s : State) : Bool := s.power.boot == 0 || s.power.boot == 1 || s.power.boot == 2

/-- R375: everything is at its reset value but what flash and fuses hold; the lifetime counters start as they were last
written.  The host's memory and what the outside does next are no state of the part (DESIGN CHOICE, log entry 25). -/
def rebooted (s : State) : State :=
  let p := s.power
  { State.reset with
    power := { Power.reset with flash := p.flash, fuses := p.fuses, live := p.kept, kept := p.kept, bin := p.bin }
    sys := { MemSys.reset with mem := memKeep s.sys.mem inHost }
    agenda := s.agenda }
def execPowerOnReset (s : State) : Out := .next (rebooted s)

/-! ### Errors (R234, R378) -/

/-- CECn. -/
def execEccCorrected (block : Nat) (s : State) : Out := if block < 155 then .next (countLife s (0xE000 + 8 * block)) else .next s

/-- The layout of R222 for cause 0x18. -/
def errorInfo (unit row col : Nat) : Dword :=
  let place := unit = 0 || unit = 1 || unit = 5
  BitVec.ofNat 64 (unit % 16 + (if place then row % 32 * 2 ^ 8 + col % 32 * 2 ^ 16 else 0))
/-- The team whose context a core's shadow holds. -/
def shadowTeam (s : State) (c : Nat) : Option Nat :=
  (s.sched.teams.find? fun t => holdsCores t.2.state && t.2.place.contains c && (Tab.look s.sched.saved (64 * t.1 + c)).isNone &&
    (Tab.look s.sched.shadow c).any fun k => k.part == t.2.part).map (·.1)
/-- The team whose context an element of a core holds, when a save or a swap reads it (R234): at a swap of what is live, or of
what is in the shadow; instruction memory is no part of a context (R228).  A chain comes to its boundary as one. -/
def readInCore (s : State) (c unit : Nat) (shadow : Bool) : Option Nat :=
  if unit = 2 then none
  else if shadow then (if isHalted s c then shadowTeam s c else none)
  else
    match bindingOf s c with
    | none => none
    | some (t, x) =>
      let k := coreAt s c
      let stopping := x.state == .yielding && (k.yield_ == .save || k.yield_ == .discard) && atBoundary (coreAt s (masterOf s c))
      if liveHere s t c && (stopping || isHalted s c) then some t else none
/-- The team whose context a restore of a core reads in its context area. -/
def readInArea (s : State) (c : Nat) : Option Nat :=
  match bindingOf s c with
  | none => none
  | some (t, x) => if x.state == .bound && (Tab.look s.sched.saved (64 * t + c)).isSome then some t else none
/-- The bundle whose access met the error (R220): the fetched one, that of the W instruction that reached the cell last, or the
core's latest (DESIGN CHOICE, log entry 70). -/
def errorBundle (s : State) (c unit row col : Nat) : Nat :=
  let m := coreAt s (masterOf s c)
  let n := (positions m (masterOf s c)).findIdx (· == c)
  let reached (w : Wave) : Bool := w.win.has row col && w.start + waveDist m w.win n (row - w.win.row0) (col - w.win.col0) + linkDelay m n < m.arr.acyc
  if unit = 2 then m.seq.pc
  else if unit = 0 || unit = 1 || unit = 5 then
    match m.arr.waves.reverse.find? reached with
    | some w => w.bundle
    | none => m.seq.last
  else m.seq.last
/-- The retry failed in a core: a context that was being read is lost; else the access's bundle takes cause 0x18.  No access reads
an element of the shadow. -/
def lastingError (s : State) (c unit row col : Nat) (shadow : Bool) : State :=
  match readInCore s c unit shadow with
  | some t => killTeam s t 2 (.killed true false)
  | none =>
    if shadow then s
    else
    match bindingOf s c with
    | none => s
    | some (t, _) =>
      if liveHere s t c then detect s (masterOf s c) 0x18 (errorBundle s c unit row col) (errorInfo unit row col) none else s
/-- It failed elsewhere. -/
def lostContext (s : State) (c : Nat) : State :=
  match readInArea s c with
  | some t => killTeam s t 2 (.killed true false)
  | none => s
/-- R378: RETT counts a retry that succeeded, RETL one that failed, whose unit is reported to Folop.  Blocks 0 to 63 are cores;
there `core` is the block itself for an element of the live context and any other number for one of the shadow.  For another block
`core` names the core whose context is being read (DESIGN CHOICE, log entry 47). -/
def execEccUncorrectable (block core unit row col : Nat) (retryOk : Bool) (s : State) : Out :=
  if retryOk then .next (countLife s 0xE800)
  else
    let s := modPav (countLife s 0xE808) fun p => { p with lasting := p.lasting ++ [(block, unit)] }
    .next (if block < 64 then lastingError s block unit row col (core ≠ block) else lostContext s core)

/-- The counters are written to flash. -/
def flushCounters (s : State) : State :=
  modPower ((List.range 24).foldl accrue (collectOvr s)) fun p => { p with kept := p.live }
def execCounterFlush (s : State) : Out := .next (flushCounters s)
def execOrderlyPowerOff (s : State) : Out := .next (modPower (flushCounters s) fun p => { p with powered := false })
def execSuddenLossOfPower (s : State) : Out := .next (modPower s fun p => { p with powered := false, live := p.kept })

/-- What time moves: THn each second; once an hour the counters go to flash. -/
def countTime (s : State) : State :=
  let s := if s.beat % secondBeats = 0 then countLife s (0xE880 + 8 * min 25 s.power.bin) else s
  if s.beat % (3600 * secondBeats) = 0 then flushCounters s else s

/-! ### Register writes (R7, R368) -/

def islStateOf (n : Nat) : IslState := if n = 0 then .a0 else if n = 1 then .a1 else if n = 2 then .a2 else if n = 3 then .ret else .off
/-- PCMD. -/
def pcmdWrite (s : State) (v : Nat) : State :=
  let st := bitsOf v 5 3
  let seq := BitVec.ofNat 8 (bitsOf v 8 8)
  if 4 < st then (if s.power.busy then s else powerReport s seq 1) else powerCommand s (v % 32) (islStateOf st) seq
/-- The bytes written over an old doubleword. -/
def mergeBytes (old : Nat) (off bytes v : Nat) : Nat :=
  let lo := 2 ^ (8 * off)
  let n := 2 ^ (8 * bytes)
  old - bitsOf old (8 * off) (8 * bytes) * lo + v % n * lo
/-- A host write of 1, 2, 4 or 8 aligned bytes into BAR0 by the registers' access codes: RO and RES bits keep.  Of a write-only
doubleword (PCMD, RING) the spec gives no partial write: the bytes that are not written count as 0, and the write starts the command
(DESIGN CHOICE, log entry 71). -/
def barWrite (s : State) (off bytes v : Nat) : State :=
  let base := off / 8 * 8
  let sub := off % 8
  let w := v % 2 ^ (8 * bytes) * 2 ^ (8 * sub)
  if base = 0x1000 then
    modMbox s fun m => { m with code := BitVec.ofNat 16 (mergeBytes m.code.toNat sub bytes v % 2 ^ 16) }
  else if 0x1008 ≤ base && base < 0x1040 then
    let i := (base - 0x1008) / 8
    modMbox s fun m => { m with args := Tab.set 0 m.args i (BitVec.ofNat 64 (mergeBytes (Tab.get 0 m.args i).toNat sub bytes v)) }
  else if base = 0x1040 then ringWrite s (BitVec.ofNat 64 w)
  else if base = 0xF000 then pcmdWrite s w
  else if base = 0xF010 then setCap s (mergeBytes s.power.pcap.toNat sub bytes v)
  else if 0xF100 ≤ base && base < 0xF1C0 then
    (if w.testBit 3 then modPower s fun p => { p with trip := Tab.set false p.trip ((base - 0xF100) / 8) false } else s)
  else s
/-! ### Register reads (R7, R367, R368, R371, R375, R379) -/

def islCode : IslState → Nat
  | .a0 => 0
  | .a1 => 1
  | .a2 => 2
  | .ret => 3
  | .off => 4
/-- Folop's mailbox. -/
def mboxRead (m : Mailbox) (off : Nat) : Nat :=
  if off = 0x1000 then m.code.toNat
  else if 0x1008 ≤ off && off < 0x1040 then (Tab.get 0 m.args ((off - 0x1008) / 8)).toNat
  else if off = 0x1048 then m.done.toNat
  else if off = 0x1050 then m.result.toNat
  else if off = 0x1058 then m.out.toNat
  else 0
/-- ISLn, hours counted to now. -/
def islNow (s : State) (i : Nat) : Nat := lifetime (accrue s i).power (0xE980 + 8 * i)
/-- The lifetime counters. -/
def counterRead (s : State) (off : Nat) : Nat :=
  if off = 0xE810 then ovrNow s
  else if 0xE980 ≤ off && off < 0xEA40 then islNow s ((off - 0xE980) / 8)
  else if off < 0xE4D8 || off = 0xE800 || off = 0xE808 || (0xE880 ≤ off && off < 0xE950) then lifetime s.power off
  else 0
/-- The power mailbox. -/
def powerRead (s : State) (off : Nat) : Nat :=
  if off = 0xF008 then s.power.seqDone.toNat + 2 ^ 8 * s.power.result.toNat + (if s.power.busy then 2 ^ 11 else 0)
  else if off = 0xF010 then s.power.pcap.toNat
  else if 0xF100 ≤ off && off < 0xF1C0 then
    let i := (off - 0xF100) / 8
    islCode (islandAt s i) + (if tripAt s i then 8 else 0)
  else 0
/-- The doubleword of BAR0 that a host read returns: WO and RES read 0. -/
def barRead (s : State) (off : Nat) : Nat :=
  let off := off / 8 * 8
  if off = 0 then s.power.boot.toNat
  else if off < 0x2000 then mboxRead s.pav.mbox off
  else if 0xE000 ≤ off && off < 0xF000 then counterRead s off
  else if 0xF000 ≤ off then powerRead s off
  else 0
/-- A host read returns its doubleword. -/
def hostReads (s : State) (off : Nat) : State :=
  if off < 0x10000 then modPav s fun p => { p with reads := p.reads ++ [(off / 8 * 8, BitVec.ofNat 64 (barRead s off))] } else s

def execRegisterWrite (offset bytes : Nat) (value : BitVec 64) (s : State) : Out :=
  if (bytes = 1 || bytes = 2 || bytes = 4 || bytes = 8) && offset % bytes = 0 then .next (barWrite s offset bytes value.toNat) else .next s

end Sys2Proof.Machine
end

