-- ==== Sys2Proof/Machine/Events.lean ====
section
/-! DEFINITION. Steps of a core's memory path, of the directory, of posts, the host link and the fabric that no other
file holds, and the S slot's no-operation (R39, R41, R218, R240, R247, R250, R251, R256, R282, R331, R369). -/

namespace Sys2Proof.Machine
open Sys2Proof

/-- R39. -/
def execNops (s : State) : Out := .next s

/-! ### A core's results and its memory path -/

/-- R40, R41: the pending result whose latency is over first; none before its latency is over. -/
def execScalarResultLand (core : Nat) (s : State) : Out :=
  .next (if (dueScalar (coreAt s core)).isSome then landFirst s core else s)
/-- R11, R235: the load at a position among the accesses that have issued. -/
def execLoadReturn (core idx : Nat) (s : State) : Out :=
  match (pendOf s core)[idx]? with
  | some (.load _) => .next (performAt s core idx)
  | _ => .next s
/-- R282. -/
def execAmoAtomic (core idx : Nat) (s : State) : Out :=
  match (pendOf s core)[idx]? with
  | some (.amo _) => .next (performAt s core idx)
  | _ => .next s
/-- R247. -/
def execStoreBufferDrain (core : Nat) (s : State) : Out := .next (drainOldest s core)
/-- R240, R245: a walk on a die installs its translation, or faults and installs nothing. -/
def execPageWalk (die asid : Nat) (va : BitVec 64) (s : State) : Out := .next (dieTranslate s die asid va.toNat false).1
/-- R218: two posts from one core to another arrive in their order. -/
def execRemotePostArrive (src dst : Nat) (s : State) : Out :=
  match takePost src dst s.sys.posts with
  | none => .next s
  | some (p, rest) => .next (deliverPost (modSys s fun y => { y with posts := rest }) p)
/-- R256: the oldest posted store reaches the host. -/
def execHostPostedDeliver (s : State) : Out :=
  match s.sys.posted with
  | [] => .next s
  | p :: t => .next (modSys s fun y => { y with
      posted := t
      mem := memMask y.mem p.pa p.data p.mask 8 })

/-! ### Directory messages (R250, R251) -/

/-- A message that is in flight arrives. -/
def arrives (s : State) (m : DirMsg) : Out := .next (if s.sys.msgs.contains m && msgRuns s m then deliverMsg (takeMsg s m) m else s)
def execRds (line die : Nat) (s : State) : Out := arrives s (.rds line die)
def execRdx (line die : Nat) (s : State) : Out := arrives s (.rdx line die)
def execUpg (line die : Nat) (s : State) : Out := arrives s (.upg line die)
def execWbx (line die : Nat) (data : BitVec 1024) (mask : BitVec 128) (s : State) : Out := arrives s (.wbx line die data mask)
def execEvs (line die : Nat) (s : State) : Out := arrives s (.evs line die)
/-- A host access through BAR4 comes from outside; the link holds it while its home stands (R256, R370), a read also behind
the host's own earlier write of the line (R261). -/
def execRdio (line : Nat) (s : State) : Out := .next (if homeStands s line || hostBehind s line then s else hostAsks s (.rdio line))
/-- Writes are performed in the order in which the link delivers them (R274). -/
def execWrio (line : Nat) (data : BitVec 1024) (mask : BitVec 128) (s : State) : Out :=
  .next (if homeStands s line then s else hostWrite s line data mask)
def execAck (line die : Nat) (s : State) : Out := arrives s (.ack line die)
def execInv (line die : Nat) (s : State) : Out := arrives s (.inv line die)
def execInvack (line die : Nat) (s : State) : Out := arrives s (.invack line die)
def execRcls (line die : Nat) (s : State) : Out := arrives s (.rcls line die)
def execRcli (line die : Nat) (s : State) : Out := arrives s (.rcli line die)
def execRclack (line die : Nat) (held : Bool) (data : BitVec 1024) (mask : BitVec 128) (s : State) : Out :=
  arrives s (.rclack line die held data mask)
def execFwdio (line die : Nat) (s : State) : Out := arrives s (.fwdio line die)
def execFwdack (line die : Nat) (held : Bool) (data : BitVec 1024) (mask : BitVec 128) (s : State) : Out :=
  arrives s (.fwdack line die held data mask)

/-! ### The fabric (R331, R369) -/

/-- The reserved bits of a message. -/
def messageOk (m : Nat) : Bool :=
  fld m 0 1 == 0x52 && fld m 1 1 < 16 && fld m 2 2 == 0 && fld m 8 8 == 0 && fld m 0x1A 1 < 2 && fld m 0x1B 1 == 0 && fld m 0x28 8 == 0
/-- One message: a REWARD, or one that is discarded and counted. -/
def fabricMessage (s : State) (m : Nat) : State :=
  if messageOk m then
    rewardMessage (noteServed s) (fld m 1 1) (BitVec.ofNat 64 (fld m 0x10 8)) (BitVec.ofNat 16 (fld m 0x18 2)) ((fld m 0x1A 1).testBit 0)
      (BitVec.ofNat 32 (fld m 0x1C 4))
  else countOra s 4
/-- R369: a flit that is not of 256 bytes, not of messages, or malformed, is discarded whole. -/
def flitOk (v : Nat) (n : Nat) : Bool :=
  n == 256 && fld v 0 1 == 1 && 1 ≤ fld v 1 1 && fld v 1 1 ≤ 5 && fld v 2 2 == 0 && fld v 0x0E 2 == 0
def execFabricFlit (flit : List (BitVec 8)) (s : State) : Out :=
  let v := bytesNat flit
  -- a port whose island stands takes no flit (R370)
  if flitOk v flit.length && speed (islandAt s 21) != 0 then
    .next ((List.range (fld v 1 1)).foldl (fun s i => fabricMessage s (fld v (16 + 48 * i) 48)) s)
  else .next s

end Sys2Proof.Machine
end

