-- ==== Sys2Proof/Machine/Sync.lean ====
section
/-! DEFINITION. The Y slot: the no-operation, the sync instructions (R34, R216 to R219) and the header forms (R35,
R127 to R129).  A wait whose condition does not hold leaves the state as it is: its bundle has not issued. -/

namespace Sys2Proof.Machine
open Sys2Proof

/-- The Y slot's stall, then its effect. -/
def syncDone (s : State) (st : BitVec 4) : Out := .next (applyStall s st.toNat)

/-- R39. -/
def execNopy (st : BitVec 4) (s : State) : Out := syncDone s st

/-- KWAIT's condition (R217). -/
def kwaitMet (s : State) (k : BitVec 4) (n : BitVec 16) : Bool := n ≤ readK (coreAt s s.me) k.toNat
/-- R217, R219: a completed wait is an acquire at DEVICE scope. -/
def execKwait (st : BitVec 4) (k : BitVec 4) (n : BitVec 16) (s : State) : Out :=
  if kwaitMet s k n then syncDone (acquire s s.me 4) st else .next s

/-- A post or an arrival at a core of the team: the release, then the event (R218, R219).  At the own core both come with the
bundle (log entry 7); to another core the event sets out when the release is complete (R260). -/
def sendPost (s : State) (own : Bool) (core : BitVec 6) (bar : Bool) (idx n : Nat) : State :=
  let c := s.me
  let bundle := (coreAt s c).seq.pc
  let dst := if own then c else physCore s c core.toNat
  if dst = c then applyPost (release s c 4) (teamNumber s c) c c bundle bar idx n
  else issueRelease s c 4 (some { team := teamNumber s c, bundle := bundle, src := c, dst := dst, bar := bar, idx := idx, n := n })

/-- R218, R219; a core number not below the team size traps (R34, R60). -/
def execKpost (st : BitVec 4) (k : BitVec 4) (n : BitVec 8) (core : BitVec 6) (own : BitVec 1) (s : State) : Out :=
  if own = 0 && decide (teamSize s s.me ≤ core.toNat) then .next (illegalOperand s (.kpost st k n core own))
  else syncDone (sendPost s (own = 1) core false k.toNat n.toNat) st

/-- R218: K[k] := n. -/
def execKset (st : BitVec 4) (k : BitVec 4) (n : BitVec 16) (s : State) : Out :=
  syncDone (setK s s.me k.toNat n) st

/-- R218, R219. -/
def execBarr (st : BitVec 4) (b : BitVec 10) (core : BitVec 6) (own : BitVec 1) (s : State) : Out :=
  if own = 0 && decide (teamSize s s.me ≤ core.toNat) then .next (illegalOperand s (.barr st b core own))
  else syncDone (sendPost s (own = 1) core true b.toNat 1) st

/-- BWAIT's condition (R217). -/
def bwaitMet (s : State) (b : BitVec 10) (ph : BitVec 1) : Bool :=
  (barrierAt (coreAt s s.me) b.toNat).phase != (ph == 1)
/-- R217, R219. -/
def execBwait (st : BitVec 4) (b : BitVec 10) (ph : BitVec 1) (s : State) : Out :=
  if bwaitMet s b ph then syncDone (acquire s s.me 4) st else .next s

/-- R213, R214, R218: PEND := PEND + G a. -/
def execBexp (st : BitVec 4) (b : BitVec 10) (a : BitVec 5) (s : State) : Out :=
  let c := s.me
  syncDone (barrierEvent s (teamNumber s c) c b.toNat c (coreAt s c).seq.pc (expectBytes (readG (coreAt s c) a).toNat)) st

/-- DLY's condition: the previous bundle's stall and n cycles more have passed (R217). -/
def dlyMet (s : State) (n : BitVec 16) : Bool :=
  let q := (coreAt s s.me).seq
  decide (q.readyAt + n.toNat ≤ q.cyc)
/-- R217. -/
def execDly (st : BitVec 4) (n : BitVec 16) (s : State) : Out := if dlyMet s n then syncDone s st else .next s

/-- R217: the array is empty (R23). -/
def execWquiet (st : BitVec 4) (s : State) : Out := if arrayEmpty s s.me then syncDone s st else .next s

/-- The distance at which the last edge position of core k's own array is fed (R139). -/
def fedDistance (k : Core) (w : Window) (e : Nat) : Nat :=
  ((List.range (edgeLen w e)).map fun p =>
    match e with
    | 0 => waveDist k w 0 0 p
    | 1 => waveDist k w 0 p (w.w - 1)
    | 2 => waveDist k w 0 (w.h - 1) p
    | _ => waveDist k w 0 p 0).foldl max 0
/-- LWAIT's condition: every step of the edge whose W instruction has issued is fed at every position, or captured,
processed and written (R217). -/
def lwaitMet (s : State) (e : BitVec 2) : Bool :=
  let k := coreAt s s.me
  (loaderAt k.edge e.toNat).caps.isEmpty &&
    k.arr.waves.all fun w => w.feeds.all fun f => !(f.core == s.me && f.edge == e.toNat) || fedDistance k w.win e.toNat < w.next
/-- R217. -/
def execLwait (st : BitVec 4) (e : BitVec 2) (s : State) : Out := if lwaitMet s e then syncDone s st else .next s

/-- R127: it supplies upper immediate bits to its bundle. -/
def execImx (st : BitVec 4) (i : BitVec 24) (s : State) : Out :=
  syncDone (modSeq s s.me fun q => { q with imx := some i }) st

/-- R128: its bundle issues as `count` repeats; the issue of a bundle steps the fields. -/
def execRep (st : BitVec 4) (count : BitVec 6) (_mask : BitVec 6) (_step : BitVec 4) (s : State) : Out :=
  syncDone (modSeq s s.me fun q => { q with rep := some (if count = 0 then 64 else count.toNat) }) st

/-- R129: its bundle's E instruction addresses a chain position. -/
def execXtgt (st : BitVec 4) (p : BitVec 2) (s : State) : Out :=
  syncDone (modSeq s s.me fun q => { q with xtgt := some p }) st

end Sys2Proof.Machine
end

