-- ==== Sys2Proof/Machine/Dispatch.lean ====
section
/-! DEFINITION. One arm for every row of the opcode table, each a call of that row's meaning. -/

namespace Sys2Proof.Machine
open Sys2Proof

def exec (i : Instr) (s : State) : Host.Outcome State Fault Refusal :=
  match i with
  | .nopy vs => Sys2Proof.Machine.execNopy vs s
  | .kwait vs k n => Sys2Proof.Machine.execKwait vs k n s
  | .kpost vs k n c f => Sys2Proof.Machine.execKpost vs k n c f s
  | .kset vs k n => Sys2Proof.Machine.execKset vs k n s
  | .barr vs b c f => Sys2Proof.Machine.execBarr vs b c f s
  | .bwait vs b p => Sys2Proof.Machine.execBwait vs b p s
  | .bexp vs b a => Sys2Proof.Machine.execBexp vs b a s
  | .dly vs n => Sys2Proof.Machine.execDly vs n s
  | .wquiet vs => Sys2Proof.Machine.execWquiet vs s
  | .lwait vs e => Sys2Proof.Machine.execLwait vs e s
  | .imx vs vi => Sys2Proof.Machine.execImx vs vi s
  | .rep vs c m t => Sys2Proof.Machine.execRep vs c m t s
  | .xtgt vs p => Sys2Proof.Machine.execXtgt vs p s
  | .nops => Sys2Proof.Machine.execNops s
  | .aluAdd d a b => Sys2Proof.Machine.execAluAdd d a b s
  | .aluSub d a b => Sys2Proof.Machine.execAluSub d a b s
  | .aluAnd d a b => Sys2Proof.Machine.execAluAnd d a b s
  | .aluOr d a b => Sys2Proof.Machine.execAluOr d a b s
  | .aluXor d a b => Sys2Proof.Machine.execAluXor d a b s
  | .aluShl d a b => Sys2Proof.Machine.execAluShl d a b s
  | .aluShr d a b => Sys2Proof.Machine.execAluShr d a b s
  | .aluSar d a b => Sys2Proof.Machine.execAluSar d a b s
  | .aluMul d a b => Sys2Proof.Machine.execAluMul d a b s
  | .aluMulh d a b => Sys2Proof.Machine.execAluMulh d a b s
  | .aluMulhu d a b => Sys2Proof.Machine.execAluMulhu d a b s
  | .aluDiv d a b => Sys2Proof.Machine.execAluDiv d a b s
  | .aluDivu d a b => Sys2Proof.Machine.execAluDivu d a b s
  | .aluRem d a b => Sys2Proof.Machine.execAluRem d a b s
  | .aluRemu d a b => Sys2Proof.Machine.execAluRemu d a b s
  | .aluMin d a b => Sys2Proof.Machine.execAluMin d a b s
  | .aluMax d a b => Sys2Proof.Machine.execAluMax d a b s
  | .aluMinu d a b => Sys2Proof.Machine.execAluMinu d a b s
  | .aluMaxu d a b => Sys2Proof.Machine.execAluMaxu d a b s
  | .aluSlt d a b => Sys2Proof.Machine.execAluSlt d a b s
  | .aluSltu d a b => Sys2Proof.Machine.execAluSltu d a b s
  | .aluSeq d a b => Sys2Proof.Machine.execAluSeq d a b s
  | .aluClz d a => Sys2Proof.Machine.execAluClz d a s
  | .aluPopc d a => Sys2Proof.Machine.execAluPopc d a s
  | .addi d a vi => Sys2Proof.Machine.execAddi d a vi s
  | .andi d a vi => Sys2Proof.Machine.execAndi d a vi s
  | .ori d a vi => Sys2Proof.Machine.execOri d a vi s
  | .xori d a vi => Sys2Proof.Machine.execXori d a vi s
  | .shi d a k n => Sys2Proof.Machine.execShi d a k n s
  | .lui d vi => Sys2Proof.Machine.execLui d vi s
  | .slti d a vi => Sys2Proof.Machine.execSlti d a vi s
  | .sltiu d a vi => Sys2Proof.Machine.execSltiu d a vi s
  | .lis d vi => Sys2Proof.Machine.execLis d vi s
  | .fpuFadd d a b w => Sys2Proof.Machine.execFpuFadd d a b w s
  | .fpuFsub d a b w => Sys2Proof.Machine.execFpuFsub d a b w s
  | .fpuFmul d a b w => Sys2Proof.Machine.execFpuFmul d a b w s
  | .fpuFdiv d a b w => Sys2Proof.Machine.execFpuFdiv d a b w s
  | .fpuFsqrt d a w => Sys2Proof.Machine.execFpuFsqrt d a w s
  | .fpuFmin d a b w => Sys2Proof.Machine.execFpuFmin d a b w s
  | .fpuFmax d a b w => Sys2Proof.Machine.execFpuFmax d a b w s
  | .fpuFeq d a b w => Sys2Proof.Machine.execFpuFeq d a b w s
  | .fpuFlt d a b w => Sys2Proof.Machine.execFpuFlt d a b w s
  | .fpuFle d a b w => Sys2Proof.Machine.execFpuFle d a b w s
  | .fpuFfma d a b w => Sys2Proof.Machine.execFpuFfma d a b w s
  | .fpuCvtS2d d a => Sys2Proof.Machine.execFpuCvtS2d d a s
  | .fpuCvtD2s d a => Sys2Proof.Machine.execFpuCvtD2s d a s
  | .fpuCvtS2i d a => Sys2Proof.Machine.execFpuCvtS2i d a s
  | .fpuCvtI2s d a => Sys2Proof.Machine.execFpuCvtI2s d a s
  | .fpuCvtD2i d a => Sys2Proof.Machine.execFpuCvtD2i d a s
  | .fpuCvtI2d d a => Sys2Proof.Machine.execFpuCvtI2d d a s
  | .br o => Sys2Proof.Machine.execBr o s
  | .bl o => Sys2Proof.Machine.execBl o s
  | .jr a => Sys2Proof.Machine.execJr a s
  | .jlr a => Sys2Proof.Machine.execJlr a s
  | .bc c a b o => Sys2Proof.Machine.execBc c a b o s
  | .bef c a g o => Sys2Proof.Machine.execBef c a g o s
  | .ld d a c z o => Sys2Proof.Machine.execLd d a c z o s
  | .ldu d a c z o => Sys2Proof.Machine.execLdu d a c z o s
  | .st vs a c z o => Sys2Proof.Machine.execSt vs a c z o s
  | .fence c => Sys2Proof.Machine.execFence c s
  | .cacheWb a c o => Sys2Proof.Machine.execCacheWb a c o s
  | .cacheInv a c o => Sys2Proof.Machine.execCacheInv a c o s
  | .cacheWbinv a c o => Sys2Proof.Machine.execCacheWbinv a c o s
  | .cacheEvict a c o => Sys2Proof.Machine.execCacheEvict a c o s
  | .amoAdd d a b c z r => Sys2Proof.Machine.execAmoAdd d a b c z r s
  | .amoAnd d a b c z r => Sys2Proof.Machine.execAmoAnd d a b c z r s
  | .amoOr d a b c z r => Sys2Proof.Machine.execAmoOr d a b c z r s
  | .amoXor d a b c z r => Sys2Proof.Machine.execAmoXor d a b c z r s
  | .amoMin d a b c z r => Sys2Proof.Machine.execAmoMin d a b c z r s
  | .amoMax d a b c z r => Sys2Proof.Machine.execAmoMax d a b c z r s
  | .amoMinu d a b c z r => Sys2Proof.Machine.execAmoMinu d a b c z r s
  | .amoMaxu d a b c z r => Sys2Proof.Machine.execAmoMaxu d a b c z r s
  | .amoSwap d a b c z r => Sys2Proof.Machine.execAmoSwap d a b c z r s
  | .amoCas d a b c z => Sys2Proof.Machine.execAmoCas d a b c z s
  | .amoIncw d a b c z r => Sys2Proof.Machine.execAmoIncw d a b c z r s
  | .amoFaddb d a b c z => Sys2Proof.Machine.execAmoFaddb d a b c z s
  | .amoFaddF32 d a b c r => Sys2Proof.Machine.execAmoFaddF32 d a b c r s
  | .amoFaddBf16 d a b c r vs => Sys2Proof.Machine.execAmoFaddBf16 d a b c r vs s
  | .spclr a b => Sys2Proof.Machine.execSpclr a b s
  | .ctlrd d n => Sys2Proof.Machine.execCtlrd d n s
  | .ctlwr a n => Sys2Proof.Machine.execCtlwr a n s
  | .schrd d n => Sys2Proof.Machine.execSchrd d n s
  | .schwr a n => Sys2Proof.Machine.execSchwr a n s
  | .schcommit d => Sys2Proof.Machine.execSchcommit d s
  | .msel d a b => Sys2Proof.Machine.execMsel d a b s
  | .efrd d g => Sys2Proof.Machine.execEfrd d g s
  | .awin a o w h => Sys2Proof.Machine.execAwin a o w h s
  | .trap c => Sys2Proof.Machine.execTrap c s
  | .rett => Sys2Proof.Machine.execRett s
  | .retire => Sys2Proof.Machine.execRetire s
  | .spawn d a => Sys2Proof.Machine.execSpawn d a s
  | .joinw d a => Sys2Proof.Machine.execJoinw d a s
  | .tilenext d => Sys2Proof.Machine.execTilenext d s
  | .cvmark a => Sys2Proof.Machine.execCvmark a s
  | .rjreg d a => Sys2Proof.Machine.execRjreg d a s
  | .rjpost a => Sys2Proof.Machine.execRjpost a s
  | .rjpop d a => Sys2Proof.Machine.execRjpop d a s
  | .rjctl a f q => Sys2Proof.Machine.execRjctl a f q s
  | .cnop => Sys2Proof.Machine.execCnop s
  | .fadd m d a b n t p => Sys2Proof.Machine.execFadd m d a b n t p s
  | .fsub m d a b n t p => Sys2Proof.Machine.execFsub m d a b n t p s
  | .fmul m d a b n t p => Sys2Proof.Machine.execFmul m d a b n t p s
  | .ffma m d a b n t p => Sys2Proof.Machine.execFfma m d a b n t p s
  | .ffms m d a b n t p => Sys2Proof.Machine.execFfms m d a b n t p s
  | .fmin m d a b n t p => Sys2Proof.Machine.execFmin m d a b n t p s
  | .fmax m d a b n t p => Sys2Proof.Machine.execFmax m d a b n t p s
  | .fabs m d a n t p => Sys2Proof.Machine.execFabs m d a n t p s
  | .fneg m d a n t p => Sys2Proof.Machine.execFneg m d a n t p s
  | .fcmp m c a b n t p => Sys2Proof.Machine.execFcmp m c a b n t p s
  | .sel m d a b n => Sys2Proof.Machine.execSel m d a b n s
  | .iadd m d a b n t p => Sys2Proof.Machine.execIadd m d a b n t p s
  | .isub m d a b n t p => Sys2Proof.Machine.execIsub m d a b n t p s
  | .imul m d a b n t p => Sys2Proof.Machine.execImul m d a b n t p s
  | .imac m d a b n t p => Sys2Proof.Machine.execImac m d a b n t p s
  | .qmul m d a b n t p => Sys2Proof.Machine.execQmul m d a b n t p s
  | .qmac m d a b n t p => Sys2Proof.Machine.execQmac m d a b n t p s
  | .wAnd m d a b n t p => Sys2Proof.Machine.execWAnd m d a b n t p s
  | .wOr m d a b n t p => Sys2Proof.Machine.execWOr m d a b n t p s
  | .wXor m d a b n t p => Sys2Proof.Machine.execWXor m d a b n t p s
  | .wShl m d a b n t p => Sys2Proof.Machine.execWShl m d a b n t p s
  | .wShr m d a b n t p => Sys2Proof.Machine.execWShr m d a b n t p s
  | .wSar m d a b n t p => Sys2Proof.Machine.execWSar m d a b n t p s
  | .icmp m c a b n t p => Sys2Proof.Machine.execIcmp m c a b n t p s
  | .imin m d a b n t p => Sys2Proof.Machine.execImin m d a b n t p s
  | .imax m d a b n t p => Sys2Proof.Machine.execImax m d a b n t p s
  | .fdiv m d a b n t p => Sys2Proof.Machine.execFdiv m d a b n t p s
  | .fsqrt m d a n t p => Sys2Proof.Machine.execFsqrt m d a n t p s
  | .frcp m d a n t p => Sys2Proof.Machine.execFrcp m d a n t p s
  | .frsq m d a n t p => Sys2Proof.Machine.execFrsq m d a n t p s
  | .fexp2 m d a n t p => Sys2Proof.Machine.execFexp2 m d a n t p s
  | .flog2 m d a n t p => Sys2Proof.Machine.execFlog2 m d a n t p s
  | .mov m d a p => Sys2Proof.Machine.execMov m d a p s
  | .movx m d a p => Sys2Proof.Machine.execMovx m d a p s
  | .movi m d vi t p => Sys2Proof.Machine.execMovi m d vi t p s
  | .cvt m d a b n t p => Sys2Proof.Machine.execCvt m d a b n t p s
  | .cvtsr m d a b n t p => Sys2Proof.Machine.execCvtsr m d a b n t p s
  | .srand m a => Sys2Proof.Machine.execSrand m a s
  | .lane m d a r p => Sys2Proof.Machine.execLane m d a r p s
  | .cpass m d a p => Sys2Proof.Machine.execCpass m d a p s
  | .cinj m a b => Sys2Proof.Machine.execCinj m a b s
  | .cscanAdd m d a b n t p => Sys2Proof.Machine.execCscanAdd m d a b n t p s
  | .cscanMax m d a b n t p => Sys2Proof.Machine.execCscanMax m d a b n t p s
  | .cscanMin m d a b n t p => Sys2Proof.Machine.execCscanMin m d a b n t p s
  | .cscanOr m d a b n t p => Sys2Proof.Machine.execCscanOr m d a b n t p s
  | .cwr m a => Sys2Proof.Machine.execCwr m a s
  | .crd m d a p => Sys2Proof.Machine.execCrd m d a p s
  | .cld m d vs n vi p => Sys2Proof.Machine.execCld m d vs n vi p s
  | .cst m d vs n vi p => Sys2Proof.Machine.execCst m d vs n vi p s
  | .caaddAdd m n vi => Sys2Proof.Machine.execCaaddAdd m n vi s
  | .caaddSet m n vi => Sys2Proof.Machine.execCaaddSet m n vi s
  | .cflag m d => Sys2Proof.Machine.execCflag m d s
  | .psetOnes m => Sys2Proof.Machine.execPsetOnes m s
  | .psetZero m => Sys2Proof.Machine.execPsetZero m s
  | .psetInv m => Sys2Proof.Machine.execPsetInv m s
  | .psetLoad m a => Sys2Proof.Machine.execPsetLoad m a s
  | .psetSave m b => Sys2Proof.Machine.execPsetSave m b s
  | .psetAndl m a => Sys2Proof.Machine.execPsetAndl m a s
  | .psetOrl m a => Sys2Proof.Machine.execPsetOrl m a s
  | .cxfRead m d p => Sys2Proof.Machine.execCxfRead m d p s
  | .cxfClear m k p => Sys2Proof.Machine.execCxfClear m k p s
  | .cxfReadclr m d k p => Sys2Proof.Machine.execCxfReadclr m d k p s
  | .cstatRead m d => Sys2Proof.Machine.execCstatRead m d s
  | .cstatClear m k => Sys2Proof.Machine.execCstatClear m k s
  | .cstatReadclr m d k => Sys2Proof.Machine.execCstatReadclr m d k s
  | .cstatTest m k => Sys2Proof.Machine.execCstatTest m k s
  | .mzero m r => Sys2Proof.Machine.execMzero m r s
  | .mpush m d a => Sys2Proof.Machine.execMpush m d a s
  | .mshift m a => Sys2Proof.Machine.execMshift m a s
  | .macc m k r a b n y p => Sys2Proof.Machine.execMacc m k r a b n y p s
  | .maccs m k r a b n y p => Sys2Proof.Machine.execMaccs m k r a b n y p s
  | .mdrain m z r a q => Sys2Proof.Machine.execMdrain m z r a q s
  | .mtrOut m z r a q => Sys2Proof.Machine.execMtrOut m z r a q s
  | .mtrIn m r a q => Sys2Proof.Machine.execMtrIn m r a q s
  | .nope => Sys2Proof.Machine.execNope s
  | .larm e h o m => Sys2Proof.Machine.execLarm e h o m s
  | .ldis e => Sys2Proof.Machine.execLdis e s
  | .oset o vi => Sys2Proof.Machine.execOset o vi s
  | .oinc o vi => Sys2Proof.Machine.execOinc o vi s
  | .rcflush h => Sys2Proof.Machine.execRcflush h s
  | .edrain e h o p c => Sys2Proof.Machine.execEdrain e h o p c s
  | .epld x p => Sys2Proof.Machine.execEpld x p s
  | .estop => Sys2Proof.Machine.execEstop s
  | .epass => Sys2Proof.Machine.execEpass s
  | .eadd vi => Sys2Proof.Machine.execEadd vi s
  | .emul vi => Sys2Proof.Machine.execEmul vi s
  | .erelu => Sys2Proof.Machine.execErelu s
  | .eclmp vi => Sys2Proof.Machine.execEclmp vi s
  | .ecvt t vs => Sys2Proof.Machine.execEcvt t vs s
  | .wavefrontReach core tag => Sys2Proof.Machine.execWavefrontReach core tag s
  | .sfDeliver core row col => Sys2Proof.Machine.execSfDeliver core row col s
  | .traySumLand core row col => Sys2Proof.Machine.execTraySumLand core row col s
  | .flagGroupValid core => Sys2Proof.Machine.execFlagGroupValid core s
  | .scalarResultLand core => Sys2Proof.Machine.execScalarResultLand core s
  | .loadReturn core idx => Sys2Proof.Machine.execLoadReturn core idx s
  | .recordFetch core handle => Sys2Proof.Machine.execRecordFetch core handle s
  | .feedFetch core edge => Sys2Proof.Machine.execFeedFetch core edge s
  | .drainWrite core edge => Sys2Proof.Machine.execDrainWrite core edge s
  | .epilogueProcess core => Sys2Proof.Machine.execEpilogueProcess core s
  | .copyStart core ch => Sys2Proof.Machine.execCopyStart core ch s
  | .copyLineLand core ch => Sys2Proof.Machine.execCopyLineLand core ch s
  | .remotePostArrive src dst => Sys2Proof.Machine.execRemotePostArrive src dst s
  | .storeBufferDrain core => Sys2Proof.Machine.execStoreBufferDrain core s
  | .pageWalk die asid va => Sys2Proof.Machine.execPageWalk die asid va s
  | .amoAtomic core idx => Sys2Proof.Machine.execAmoAtomic core idx s
  | .trapEntry core => Sys2Proof.Machine.execTrapEntry core s
  | .folopResume core => Sys2Proof.Machine.execFolopResume core s
  | .folopEnd core => Sys2Proof.Machine.execFolopEnd core s
  | .preemptRequest team => Sys2Proof.Machine.execPreemptRequest team s
  | .coreSave core => Sys2Proof.Machine.execCoreSave core s
  | .coreRestore core => Sys2Proof.Machine.execCoreRestore core s
  | .drainDeadline core => Sys2Proof.Machine.execDrainDeadline core s
  | .partitionSwap outgoing incoming => Sys2Proof.Machine.execPartitionSwap outgoing incoming s
  | .teamKill team => Sys2Proof.Machine.execTeamKill team s
  | .teamBind team cores => Sys2Proof.Machine.execTeamBind team cores s
  | .teamRelease team => Sys2Proof.Machine.execTeamRelease team s
  | .taskStart core => Sys2Proof.Machine.execTaskStart core s
  | .joinwComplete core => Sys2Proof.Machine.execJoinwComplete core s
  | .teamEnd team => Sys2Proof.Machine.execTeamEnd team s
  | .generatorCut team => Sys2Proof.Machine.execGeneratorCut team s
  | .schedRegisterServe team => Sys2Proof.Machine.execSchedRegisterServe team s
  | .rds line die => Sys2Proof.Machine.execRds line die s
  | .rdx line die => Sys2Proof.Machine.execRdx line die s
  | .upg line die => Sys2Proof.Machine.execUpg line die s
  | .wbx line die data mask => Sys2Proof.Machine.execWbx line die data mask s
  | .evs line die => Sys2Proof.Machine.execEvs line die s
  | .rdio line => Sys2Proof.Machine.execRdio line s
  | .wrio line data mask => Sys2Proof.Machine.execWrio line data mask s
  | .ack line die => Sys2Proof.Machine.execAck line die s
  | .inv line die => Sys2Proof.Machine.execInv line die s
  | .invack line die => Sys2Proof.Machine.execInvack line die s
  | .rcls line die => Sys2Proof.Machine.execRcls line die s
  | .rcli line die => Sys2Proof.Machine.execRcli line die s
  | .rclack line die held data mask => Sys2Proof.Machine.execRclack line die held data mask s
  | .fwdio line die => Sys2Proof.Machine.execFwdio line die s
  | .fwdack line die held data mask => Sys2Proof.Machine.execFwdack line die held data mask s
  | .tlbInvalidate asid va bytes => Sys2Proof.Machine.execTlbInvalidate asid va bytes s
  | .tlbInvalidateComplete => Sys2Proof.Machine.execTlbInvalidateComplete s
  | .hostPostedDeliver => Sys2Proof.Machine.execHostPostedDeliver s
  | .reward pn traj step done value => Sys2Proof.Machine.execReward pn traj step done value s
  | .registrationServe core => Sys2Proof.Machine.execRegistrationServe core s
  | .popServe core => Sys2Proof.Machine.execPopServe core s
  | .controlServe core => Sys2Proof.Machine.execControlServe core s
  | .deadlineExpiry => Sys2Proof.Machine.execDeadlineExpiry s
  | .orphanExpiry => Sys2Proof.Machine.execOrphanExpiry s
  | .backwardScan => Sys2Proof.Machine.execBackwardScan s
  | .ringAppend queue stale => Sys2Proof.Machine.execRingAppend queue stale s
  | .fabricFlit flit => Sys2Proof.Machine.execFabricFlit flit s
  | .doorbellWrite queue w => Sys2Proof.Machine.execDoorbellWrite queue w s
  | .queueEvent pav => Sys2Proof.Machine.execQueueEvent pav s
  | .launch pkt => Sys2Proof.Machine.execLaunch pkt s
  | .graph pkt => Sys2Proof.Machine.execGraph pkt s
  | .waitsig pkt => Sys2Proof.Machine.execWaitsig pkt s
  | .waitsigPoll pkt => Sys2Proof.Machine.execWaitsigPoll pkt s
  | .waitsigTimeout pkt => Sys2Proof.Machine.execWaitsigTimeout pkt s
  | .signalStore pkt => Sys2Proof.Machine.execSignalStore pkt s
  | .signalAdd pkt => Sys2Proof.Machine.execSignalAdd pkt s
  | .copy pkt => Sys2Proof.Machine.execCopy pkt s
  | .regionInsert pkt => Sys2Proof.Machine.execRegionInsert pkt s
  | .regionUpdate pkt => Sys2Proof.Machine.execRegionUpdate pkt s
  | .regionRemove pkt => Sys2Proof.Machine.execRegionRemove pkt s
  | .regionKill pkt => Sys2Proof.Machine.execRegionKill pkt s
  | .packetComplete pkt => Sys2Proof.Machine.execPacketComplete pkt s
  | .graphKernel pkt => Sys2Proof.Machine.execGraphKernel pkt s
  | .graphLoop pkt => Sys2Proof.Machine.execGraphLoop pkt s
  | .graphCond pkt => Sys2Proof.Machine.execGraphCond pkt s
  | .graphSignal pkt => Sys2Proof.Machine.execGraphSignal pkt s
  | .graphEnd pkt => Sys2Proof.Machine.execGraphEnd pkt s
  | .irqSend queue => Sys2Proof.Machine.execIrqSend queue s
  | .asidDrained asid => Sys2Proof.Machine.execAsidDrained asid s
  | .asidnew => Sys2Proof.Machine.execAsidnew s
  | .asiddel => Sys2Proof.Machine.execAsiddel s
  | .mapPages => Sys2Proof.Machine.execMapPages s
  | .unmapPages => Sys2Proof.Machine.execUnmapPages s
  | .qnew => Sys2Proof.Machine.execQnew s
  | .qctl => Sys2Proof.Machine.execQctl s
  | .part => Sys2Proof.Machine.execPart s
  | .attest => Sys2Proof.Machine.execAttest s
  | .doorbell => Sys2Proof.Machine.execDoorbell s
  | .islandToA0 isl seq => Sys2Proof.Machine.execIslandToA0 isl seq s
  | .islandToA1 isl seq => Sys2Proof.Machine.execIslandToA1 isl seq s
  | .islandToA2 isl seq => Sys2Proof.Machine.execIslandToA2 isl seq s
  | .islandToRet isl seq => Sys2Proof.Machine.execIslandToRet isl seq s
  | .islandToOff isl seq => Sys2Proof.Machine.execIslandToOff isl seq s
  | .powerCommandDone => Sys2Proof.Machine.execPowerCommandDone s
  | .tripClear isl => Sys2Proof.Machine.execTripClear isl s
  | .pcapWrite value => Sys2Proof.Machine.execPcapWrite value s
  | .budgetLend lender borrower units => Sys2Proof.Machine.execBudgetLend lender borrower units s
  | .budgetRepay borrower lender units => Sys2Proof.Machine.execBudgetRepay borrower lender units s
  | .thermalTrip isl => Sys2Proof.Machine.execThermalTrip isl s
  | .thermalShutdown => Sys2Proof.Machine.execThermalShutdown s
  | .powerOnReset => Sys2Proof.Machine.execPowerOnReset s
  | .eccCorrected block => Sys2Proof.Machine.execEccCorrected block s
  | .eccUncorrectable block core unit row col retryOk => Sys2Proof.Machine.execEccUncorrectable block core unit row col retryOk s
  | .counterFlush => Sys2Proof.Machine.execCounterFlush s
  | .orderlyPowerOff => Sys2Proof.Machine.execOrderlyPowerOff s
  | .registerWrite offset bytes value => Sys2Proof.Machine.execRegisterWrite offset bytes value s
  | .ringOutOfSequence tag => Sys2Proof.Machine.execRingOutOfSequence tag s
  | .pcmdReservedState isl seq => Sys2Proof.Machine.execPcmdReservedState isl seq s
  | .suddenLossOfPower => Sys2Proof.Machine.execSuddenLossOfPower s

end Sys2Proof.Machine
end

