-- ==== Sys2Proof/Machine/Issue.lean ====
section
/-! DEFINITION. How a core issues a bundle: the holds, the stall check, traps of execution, the order of the slots, and
the repeats of REP (R31 to R41, R59 to R61, R128, R133, R139, R141, R221, R224). -/

namespace Sys2Proof.Machine
open Sys2Proof

/-- The state after an instruction. -/
def run (s : State) (i : Instr) : State := nextOf s (exec i s)

/-! ### The registers that a bundle names (R40, R41) -/

def sizeD (z : BitVec 2) : Bool := z == 3

/-- G registers that an S instruction names as source or destination. -/
def sNames : Instr → List Nat
  | .aluAdd d a b => [d.toNat, a.toNat, b.toNat]
  | .aluSub d a b => [d.toNat, a.toNat, b.toNat]
  | .aluAnd d a b => [d.toNat, a.toNat, b.toNat]
  | .aluOr d a b => [d.toNat, a.toNat, b.toNat]
  | .aluXor d a b => [d.toNat, a.toNat, b.toNat]
  | .aluShl d a b => [d.toNat, a.toNat, b.toNat]
  | .aluShr d a b => [d.toNat, a.toNat, b.toNat]
  | .aluSar d a b => [d.toNat, a.toNat, b.toNat]
  | .aluMul d a b => [d.toNat, a.toNat, b.toNat]
  | .aluMulh d a b => [d.toNat, a.toNat, b.toNat]
  | .aluMulhu d a b => [d.toNat, a.toNat, b.toNat]
  | .aluDiv d a b => [d.toNat, a.toNat, b.toNat]
  | .aluDivu d a b => [d.toNat, a.toNat, b.toNat]
  | .aluRem d a b => [d.toNat, a.toNat, b.toNat]
  | .aluRemu d a b => [d.toNat, a.toNat, b.toNat]
  | .aluMin d a b => [d.toNat, a.toNat, b.toNat]
  | .aluMax d a b => [d.toNat, a.toNat, b.toNat]
  | .aluMinu d a b => [d.toNat, a.toNat, b.toNat]
  | .aluMaxu d a b => [d.toNat, a.toNat, b.toNat]
  | .aluSlt d a b => [d.toNat, a.toNat, b.toNat]
  | .aluSltu d a b => [d.toNat, a.toNat, b.toNat]
  | .aluSeq d a b => [d.toNat, a.toNat, b.toNat]
  | .aluClz d a => [d.toNat, a.toNat]
  | .aluPopc d a => [d.toNat, a.toNat]
  | .addi d a _ => [d.toNat, a.toNat]
  | .andi d a _ => [d.toNat, a.toNat]
  | .ori d a _ => [d.toNat, a.toNat]
  | .xori d a _ => [d.toNat, a.toNat]
  | .shi d a _ _ => [d.toNat, a.toNat]
  | .lui d _ => [d.toNat]
  | .slti d a _ => [d.toNat, a.toNat]
  | .sltiu d a _ => [d.toNat, a.toNat]
  | .lis d _ => [d.toNat]
  | .fpuFadd d a b _ => [d.toNat, a.toNat, b.toNat]
  | .fpuFsub d a b _ => [d.toNat, a.toNat, b.toNat]
  | .fpuFmul d a b _ => [d.toNat, a.toNat, b.toNat]
  | .fpuFdiv d a b _ => [d.toNat, a.toNat, b.toNat]
  | .fpuFsqrt d a _ => [d.toNat, a.toNat]
  | .fpuFmin d a b _ => [d.toNat, a.toNat, b.toNat]
  | .fpuFmax d a b _ => [d.toNat, a.toNat, b.toNat]
  | .fpuFeq d a b _ => [d.toNat, a.toNat, b.toNat]
  | .fpuFlt d a b _ => [d.toNat, a.toNat, b.toNat]
  | .fpuFle d a b _ => [d.toNat, a.toNat, b.toNat]
  | .fpuFfma d a b _ => [d.toNat, a.toNat, b.toNat]
  | .fpuCvtS2d d a => [d.toNat, a.toNat]
  | .fpuCvtD2s d a => [d.toNat, a.toNat]
  | .fpuCvtS2i d a => [d.toNat, a.toNat]
  | .fpuCvtI2s d a => [d.toNat, a.toNat]
  | .fpuCvtD2i d a => [d.toNat, a.toNat]
  | .fpuCvtI2d d a => [d.toNat, a.toNat]
  | .bl _ => [31]
  | .jr a => [a.toNat]
  | .jlr a => [31, a.toNat]
  | .bc _ a b _ => [a.toNat, b.toNat]
  | .bef _ a _ _ => [a.toNat]
  | .ld d a _ _ _ => [d.toNat, a.toNat]
  | .ldu d a _ _ _ => [d.toNat, a.toNat]
  | .st d a _ _ _ => [d.toNat, a.toNat]
  | .cacheWb a _ _ => [a.toNat]
  | .cacheInv a _ _ => [a.toNat]
  | .cacheWbinv a _ _ => [a.toNat]
  | .cacheEvict a _ _ => [a.toNat]
  | .amoAdd d a b _ _ _ => [d.toNat, a.toNat, b.toNat]
  | .amoAnd d a b _ _ _ => [d.toNat, a.toNat, b.toNat]
  | .amoOr d a b _ _ _ => [d.toNat, a.toNat, b.toNat]
  | .amoXor d a b _ _ _ => [d.toNat, a.toNat, b.toNat]
  | .amoMin d a b _ _ _ => [d.toNat, a.toNat, b.toNat]
  | .amoMax d a b _ _ _ => [d.toNat, a.toNat, b.toNat]
  | .amoMinu d a b _ _ _ => [d.toNat, a.toNat, b.toNat]
  | .amoMaxu d a b _ _ _ => [d.toNat, a.toNat, b.toNat]
  | .amoSwap d a b _ _ _ => [d.toNat, a.toNat, b.toNat]
  | .amoCas d a b _ _ => [d.toNat, a.toNat, b.toNat]
  | .amoIncw d a b _ _ _ => [d.toNat, a.toNat, b.toNat]
  | .amoFaddb d a b _ _ => [d.toNat, a.toNat, b.toNat]
  | .amoFaddF32 d a b _ _ => [d.toNat, a.toNat, b.toNat]
  | .amoFaddBf16 d a b _ _ _ => [d.toNat, a.toNat, b.toNat]
  | .spclr a b => [a.toNat, b.toNat]
  | .ctlrd d _ => [d.toNat]
  | .ctlwr a _ => [a.toNat]
  | .schrd d _ => [d.toNat]
  | .schwr a _ => [a.toNat]
  | .schcommit d => [d.toNat]
  | .msel _ a b => [a.toNat, b.toNat]
  | .efrd d _ => [d.toNat]
  | .awin a _ _ _ => [a.toNat]
  | .spawn d a => [d.toNat, a.toNat]
  | .joinw d a => [2 * d.toNat, 2 * d.toNat + 1, a.toNat]
  | .tilenext d => [2 * d.toNat, 2 * d.toNat + 1]
  | .cvmark a => [a.toNat]
  | .rjreg d a => [d.toNat, a.toNat]
  | .rjpost a => [a.toNat]
  | .rjpop d a => [d.toNat, a.toNat]
  | .rjctl a _ _ => [a.toNat]
  | _ => []

/-- G registers that a Y instruction names. -/
def yNames : Instr → List Nat
  | .bexp _ _ a => [a.toNat]
  | _ => []

/-- Of operand codes, the F register numbers (R51). -/
def fCodes (l : List (BitVec 5)) : List Nat := (l.filter fun c => c.toNat ≤ 23).map (·.toNat)

/-- F registers that a W instruction names as source or destination. -/
def wNames : Instr → List Nat
  | .fadd _ d a b _ _ _ => fCodes [d, a, b]
  | .fsub _ d a b _ _ _ => fCodes [d, a, b]
  | .fmul _ d a b _ _ _ => fCodes [d, a, b]
  | .ffma _ d a b _ _ _ => fCodes [d, a, b]
  | .ffms _ d a b _ _ _ => fCodes [d, a, b]
  | .fmin _ d a b _ _ _ => fCodes [d, a, b]
  | .fmax _ d a b _ _ _ => fCodes [d, a, b]
  | .fabs _ d a _ _ _ => fCodes [d, a]
  | .fneg _ d a _ _ _ => fCodes [d, a]
  | .fcmp _ _ a b _ _ _ => fCodes [a, b]
  | .sel _ d a b _ => fCodes [d, a, b]
  | .iadd _ d a b _ _ _ => fCodes [d, a, b]
  | .isub _ d a b _ _ _ => fCodes [d, a, b]
  | .imul _ d a b _ _ _ => fCodes [d, a, b]
  | .imac _ d a b _ _ _ => fCodes [d, a, b]
  | .qmul _ d a b _ _ _ => fCodes [d, a, b]
  | .qmac _ d a b _ _ _ => fCodes [d, a, b]
  | .wAnd _ d a b _ _ _ => fCodes [d, a, b]
  | .wOr _ d a b _ _ _ => fCodes [d, a, b]
  | .wXor _ d a b _ _ _ => fCodes [d, a, b]
  | .wShl _ d a b _ _ _ => fCodes [d, a, b]
  | .wShr _ d a b _ _ _ => fCodes [d, a, b]
  | .wSar _ d a b _ _ _ => fCodes [d, a, b]
  | .icmp _ _ a b _ _ _ => fCodes [a, b]
  | .imin _ d a b _ _ _ => fCodes [d, a, b]
  | .imax _ d a b _ _ _ => fCodes [d, a, b]
  | .fdiv _ d a b _ _ _ => fCodes [d, a, b]
  | .fsqrt _ d a _ _ _ => fCodes [d, a]
  | .frcp _ d a _ _ _ => fCodes [d, a]
  | .frsq _ d a _ _ _ => fCodes [d, a]
  | .fexp2 _ d a _ _ _ => fCodes [d, a]
  | .flog2 _ d a _ _ _ => fCodes [d, a]
  | .mov _ d a _ => fCodes [d, a]
  | .movx _ d a _ => fCodes [d, a]
  | .movi _ d _ _ _ => fCodes [d]
  | .cvt _ d a _ _ _ _ => fCodes [d, a]
  | .cvtsr _ d a _ _ _ _ => fCodes [d, a]
  | .srand _ a => fCodes [a]
  | .lane _ d a _ _ => fCodes [d, a]
  | .cpass _ d a _ => fCodes [d, a]
  | .cinj _ a _ => fCodes [a]
  | .cscanAdd _ d a b _ _ _ => d.toNat :: fCodes [a, b]
  | .cscanMax _ d a b _ _ _ => d.toNat :: fCodes [a, b]
  | .cscanMin _ d a b _ _ _ => d.toNat :: fCodes [a, b]
  | .cscanOr _ d a b _ _ _ => d.toNat :: fCodes [a, b]
  | .cwr _ a => fCodes [a]
  | .crd _ d a _ => fCodes [d, a]
  | .cld _ d _ _ _ _ => fCodes [d]
  | .cst _ d _ _ _ _ => fCodes [d]
  | .psetLoad _ a => fCodes [a]
  | .psetSave _ b => fCodes [b]
  | .psetAndl _ a => fCodes [a]
  | .psetOrl _ a => fCodes [a]
  | .cxfRead _ d _ => fCodes [d]
  | .cxfReadclr _ d _ _ => fCodes [d]
  | .cstatRead _ d => fCodes [d]
  | .cstatReadclr _ d _ => fCodes [d]
  | .mpush _ d a => fCodes [d, a]
  | .mshift _ a => fCodes [a]
  | .macc _ _ _ a b _ _ _ => fCodes [a, b]
  | .maccs _ _ _ a b _ _ _ => fCodes [a, b]
  | .mdrain _ _ _ a _ => fCodes [a]
  | .mtrOut _ _ _ d _ => fCodes [d]
  | .mtrIn _ _ a _ => fCodes [a]
  | _ => []

/-- Trays that a W instruction other than a tray sum names: a MACC or MACCS on the same tray has latency 1 (R40). -/
def tNames : Instr → List Nat
  | .mzero _ r => [r.toNat]
  | .mdrain _ _ r _ _ => [r.toNat]
  | .mtrOut _ _ r _ _ => [r.toNat]
  | .mtrIn _ r _ _ => [r.toNat]
  | _ => []

/-! ### Holds (R16, R25, R32, R40, R133, R139, R140, R182, R305, R342) -/

/-- A wait of the Y slot whose condition does not hold (R217). -/
def yWaits (s : State) : Instr → Bool
  | .kwait _ k n => !kwaitMet s k n
  | .bwait _ b p => !bwaitMet s b p
  | .dly _ n => !dlyMet s n
  | .wquiet _ => !arrayEmpty s s.me
  | .lwait _ e => !lwaitMet s e
  | _ => false

/-- A copy request that finds its channel full, or an ancestor's COPIES used up (R182, R305). -/
def copyHold (s : State) (src a : BitVec 5) (z : BitVec 2) (o : BitVec 11) : Bool :=
  let va := effAddr s a o (sizeOf z)
  let templates := match teamOf s s.me with | some t => t.img.templateN | none => 0
  let region := match teamOf s s.me with | some t => t.region | none => 0
  inAperture va && sizeD z && va % 8 == 0 && requestOk templates (srcG s src) &&
    (4 ≤ chanLoad (chanAt (coreAt s s.me) ((va - apertureBase) / 8)) ||
      (regionChain s (regionDepth s) region).any fun r =>
        effCopies s r != 0 && (match regionAt s r with | some b => effCopies s r < b.copyused + 1 | none => false))

/-- S instructions that access memory, or that are a release of the accesses before them; a FENCE issues without a hold
(R277). -/
def accessS : Instr → Bool
  | .ld .. | .ldu .. | .st .. | .cacheWb .. | .cacheInv .. | .cacheWbinv .. | .cacheEvict .. => true
  | .amoAdd .. | .amoAnd .. | .amoOr .. | .amoXor .. | .amoMin .. | .amoMax .. | .amoMinu .. | .amoMaxu .. => true
  | .amoSwap .. | .amoCas .. | .amoIncw .. | .amoFaddb .. | .amoFaddF32 .. | .amoFaddBf16 .. => true
  | .spclr .. | .spawn .. | .joinw .. | .cvmark _ | .retire | .rjreg .. | .rjpost _ => true
  | _ => false
/-- The same of the Y slot, and of the E slot, whose bindings read and write memory. -/
def accessY : Instr → Bool
  | .kpost .. | .barr .. | .kwait .. | .bwait .. => true
  | _ => false
def accessE : Instr → Bool
  | .larm .. | .edrain .. | .epld .. => true
  | _ => false
/-- No access of a later bundle is performed before an acquire is complete: JOINW, RJPOP and a FENCE behind them are such, and a
push reaches the scheduler first (R260, R277, R301, R317, R330). -/
def orderHold (s : State) (b : Bundle) : Bool :=
  ((waitsForTasks s s.me || popsWait s s.me || fencesOpen s s.me) && (accessS b.s || accessY b.y || accessE b.e)) ||
    (waitsForTasks s s.me && (match b.s with | .rjpop .. => true | _ => false))

/-- Holds of the S slot. -/
def sHolds (s : State) : Instr → Bool
  | .awin _ _ _ _ => !arrayEmpty s s.me
  | .efrd _ _ => (coreAt s s.me).ctl.chk && !(coreAt s s.me).arr.groups.isEmpty
  | .bef _ _ _ _ => (coreAt s s.me).ctl.chk && !(coreAt s s.me).arr.groups.isEmpty
  | .st src a _ z o => copyHold s src a z o
  | .rjreg _ _ => rjFull s
  | .rjpost _ => rjFull s
  | .rjpop _ _ => rjFull s
  | .rjctl _ _ _ => rjFull s
  | _ => false

/-- Registers whose unchecked result is not present (R11, R40). -/
def absentG (k : Core) : List Nat := (k.mem.pend.map pendReg ++ k.seq.unchk).filter (· != 0)
def namesG (b : Bundle) : List Nat := yNames b.y ++ sNames b.s
def uncheckedHold (k : Core) (b : Bundle) : Bool := (namesG b).any fun r => (absentG k).contains r

/-- The header of the Y slot reaches the other slots. -/
def headers (s : State) (y : Instr) : State :=
  modSeq s s.me fun q =>
    match y with
    | .imx _ i => { q with imx := some i }
    | .xtgt _ p => { q with xtgt := some p }
    | .rep _ n _ _ => { q with rep := some (if n = 0 then 64 else n.toNat) }
    | _ => q

/-- The S instruction acts before its bundle's E and W instructions: AWIN; FENCE, which a LARM of its own bundle comes
after (R134); and the requests to the Orangery, whose checks read memory (R344). -/
def actsFirst : Instr → Bool
  | .awin .. | .fence _ | .rjreg .. | .rjpost _ | .rjpop .. | .rjctl .. => true
  | _ => false

/-- The steps that the W instruction is bound to and that are not there for the window of this bundle, or were armed by
it, are fetched before the bundle issues (R23, R139). -/
def fetchFirst (s : State) (w : Instr) : State :=
  if isCnop w then s
  else
    (positions (coreAt s s.me) s.me).foldl (fun s p =>
      [0, 1, 2, 3].foldl (fun s e => if edgeHold (coreAt s p) e then fetchStep s p e else s) s) s

/-- The slots that act before the W slot (R23, R33, R134). -/
def beforeW (s : State) (b : Bundle) : State :=
  let s := if actsFirst b.s then run s b.s else s
  let s := if (armedEdge b.e).isSome then run s b.e else s
  if setsWindow b.s || (armedEdge b.e).isSome then fetchFirst s b.w else s

/-- Its trap comes after its bundle, or it ends the handler or the task. -/
def isTrap : Instr → Bool
  | .trap _ => true
  | _ => false
def isRetire : Instr → Bool
  | .retire => true
  | _ => false
def isRett : Instr → Bool
  | .rett => true
  | _ => false
def endsBundle (inh : Bool) (i : Instr) : Bool := isTrap i || isRetire i || (inh && isRett i)
/-- CAUSE and TRAPINFO of the precise trap that an instruction takes when it executes on a state, if it takes one (R60). -/
def trialTrap (s : State) (i : Instr) : Option (Nat × Dword) :=
  if endsBundle (coreAt s s.me).ctl.inh i then none
  else
    let k := coreAt (run (modCtl s s.me fun x => { x with inh := false }) i) s.me
    if k.ctl.inh then some (k.ctl.cause.toNat, k.ctl.info) else none
/-- The state that the other slots find: an acquire, or a release, of the Y slot comes first (R217 to R219). -/
def afterY (s : State) (y : Instr) : State :=
  match y with
  | .kwait .. | .bwait .. | .kpost .. | .barr .. => run s y
  | _ => s
/-- The state that the E slot finds (R134, R344). -/
def afterS (s : State) (i : Instr) : State := if actsFirst i then run s i else s
/-- The lowest slot's trap, each slot tried on the state that it runs on; a W instruction has none of this kind.  The trap is
taken on the state before the bundle: no slot has committed. -/
def executionTrap (s : State) (b : Bundle) : Option State :=
  let t := afterY s b.y
  ((trialTrap s b.y).orElse fun _ => (trialTrap t b.s).orElse fun _ => trialTrap (afterS t b.s) b.e).map fun x => preciseTrap s x.1 x.2

/-- The loader that the bundle arms has no step of its old binding for the bundle's W instruction (R10, R33). -/
def withoutArmed (s : State) (b : Bundle) : State :=
  match armedEdge b.e, edgeTarget s with
  | some e, some p => modLoader s p e fun l => { l with bind := none, fetched := [] }
  | _, _ => s
/-- The state in which the W slot issues, as far as nothing before it traps (R135). -/
def staged (s : State) (b : Bundle) : State :=
  if (executionTrap s b).isSome then withoutArmed s b else beforeW (afterY s b.y) b

/-- Everything that holds the bundle. -/
def holds (s : State) (b : Bundle) : Bool :=
  yWaits s b.y || sHolds s b.s || orderHold s b || uncheckedHold (coreAt s s.me) b || (!isCnop b.w && wHold (staged s b) b.w)

/-- The feed fault of a bundle that sets the window or arms a loader: it has its steps only when it issues (R141). -/
def loaderFault (s : State) (b : Bundle) : Option (Nat × Nat × Nat × Nat) := boundFault (staged s b) s.me b.w

/-- The deferred loader fault is taken, the bundle is not issued, and the access is repeated after RETT (R141). -/
def takeLoaderFault (s : State) (f : Nat × Nat × Nat × Nat) : State :=
  let k := coreAt s s.me
  takeTrap s s.me 0x12 k.seq.pc (loaderInfo f.2.1 f.2.2.1 f.2.2.2) (some k.seq.pc) (repLeft k) (k.seq.cyc + 2)

/-! ### The stall check (R41, R61) -/

/-- Cycles until the latest pending result of G r. -/
def gLeft (k : Core) (r : Nat) : Nat :=
  ((k.seq.pend.filter fun p => p.reg == r).map fun p => p.due - k.seq.cyc).foldl max 0
/-- The same for an F register (class 1) or a tray (class 2), in issue cycles. -/
def busyLeft (k : Core) (cls n : Nat) : Nat :=
  ((k.arr.busy.filter fun b => b.cls == cls && b.num == n).map fun b => b.due - k.arr.acyc).foldl max 0

/-- The first register of a list that is named early: class, number, cycles left. -/
def firstEarly (cls : Nat) (left : Nat → Nat) (l : List Nat) : Option (Nat × Nat × Nat) :=
  l.findSome? fun r => if 0 < left r && !(cls == 0 && r == 0) then some (cls, r, left r) else none
/-- The lowest slot that reads or writes early, with its instruction. -/
def stallFault (k : Core) (b : Bundle) : Option (Nat × Instr × Nat × Nat × Nat) :=
  let g (slot : Nat) (i : Instr) (l : List Nat) := (firstEarly 0 (gLeft k) l).map fun f => (slot, i, f)
  if !k.ctl.chk then none
  else
    (g 0 b.y (yNames b.y)).orElse fun _ => (g 1 b.s (sNames b.s)).orElse fun _ =>
      ((firstEarly 1 (busyLeft k 1) (wNames b.w)).orElse fun _ => firstEarly 2 (busyLeft k 2) (tNames b.w)).map fun f => (2, b.w, f)

def wordOf (i : Instr) : Word := match encode i with | some x => x.word | none => 0
def takeStallFault (s : State) (f : Nat × Instr × Nat × Nat × Nat) : State :=
  bundleTrap s 3 f.1 f.2.2.1 f.2.2.2.1 f.2.2.2.2 (wordOf f.2.1)

/-! ### Illegal bundles -/

/-- The lowest slot that a trap handler may not use (R224), with its word. -/
def inhibited (k : Core) (b : Bundle) : Option (Nat × Word) :=
  let wait := match b.y with | .wquiet _ => true | .lwait _ _ => true | _ => false
  if !k.ctl.inh then none
  else if wait then some (0, wordOf b.y)
  else if !isCnop b.w then some (2, wordOf b.w)
  else if b.e != .nope then some (3, wordOf b.e)
  else none

/-! ### Issue (R32, R33, R128) -/

/-- Where the core goes after the bundle, unless the bundle branches: to the next repeat, or to the next bundle. -/
def stepPc (q : Seq) : Seq :=
  match q.rep with
  | some n => if q.repK + 1 < n then { q with npc := q.pc, repK := q.repK + 1 } else { q with npc := q.pc + 1, repK := 0 }
  | none => { q with npc := q.pc + 1, repK := 0 }
/-- The bundle is over. -/
def endPc (q : Seq) : Seq := { q with pc := q.npc, last := q.pc, imx := none, xtgt := none, rep := none }

/-- Beside a MOVI in the W slot IMX does not extend the S slot's immediate (R36). -/
def spendImx (s : State) (b : Bundle) : State :=
  match b.w with
  | .movi .. => modSeq s s.me fun q => { q with imx := none }
  | _ => s
/-- The four slots of a bundle that nothing holds or traps. -/
def runSlots (s : State) (b : Bundle) : State :=
  let s := run s b.y
  let s := run (beforeW s b) b.w
  let s := if (armedEdge b.e).isSome then s else run s b.e
  if actsFirst b.s then s else run (spendImx s b) b.s

def isTilenext : Instr → Bool
  | .tilenext _ => true
  | _ => false
/-- Bundles since the task's start or its last TILENEXT, which is not counted (R308). -/
def countBundle (b : Bundle) (t : Task) : Task := { t with bundles := if isTilenext b.s then 0 else t.bundles + 1 }
/-- The bundle issues. -/
def commitBundle (s : State) (b : Bundle) : State :=
  let s := runSlots (modSeq s s.me stepPc) b
  modCore s s.me fun k => { k with seq := endPc k.seq, task := k.task.map (countBundle b) }

/-- A core that drains comes to a TILENEXT (R309). -/
def drainsHere (k : Core) (b : Bundle) : Bool :=
  k.yield_ == .drain && isTilenext b.s

/-- A decoded bundle: it holds, traps or issues. -/
def issueDecoded (s : State) (b : Bundle) : Option State :=
  let k := coreAt s s.me
  match inhibited k b with
  | some (slot, w) => some (bundleTrap s 1 slot 0 0 0 w)
  | none =>
    if drainsHere k b then some (drainAtTile s s.me)
    else
      let t := headers s b.y
      if holds t b then none
      else
        match loaderFault t b with
        | some f => some (takeLoaderFault s f)
        | none =>
          match stallFault k b with
          | some f => some (takeStallFault s f)
          | none =>
            match executionTrap t b with
            | some u => some (modSeq u s.me fun q => { q with imx := none, xtgt := none, rep := none })
            | none => some (commitBundle t b)

/-- The bundle at the program counter. -/
def issueBundle (s : State) : Option State :=
  let k := coreAt s s.me
  if !inImem k k.seq.pc then some (bundleTrap s 2 0 0 0 0 0)
  else
    match decodeWords (bundleWords (bundleAt k k.seq.pc)) k.seq.repK with
    | .error x => some (bundleTrap s 1 x.slot 0 0 0 x.word)
    | .ok b => issueDecoded s b

/-- The core issues bundles now (R27, R32, R227, R309, R351, R362, R372); none does while memory stands, when no team is bound
(R372; log entry 68). -/
def canIssue (s : State) (c : Nat) : Bool :=
  let k := coreAt s c
  k.run == .running && (match teamOf s c with | some t => t.releaseAt.isNone | none => true) &&
    !(k.yield_ == .save || k.yield_ == .discard) && decide (k.seq.readyAt ≤ k.seq.cyc) && (!k.arr.frozen || k.ctl.inh) &&
    !isHalted s c && !overBudget s (dieOf c) && !islandHolds s (clusterOf c) && !bellHeld s c && !memoryStands s

/-- A boundary of a core: a trap that is pending there first, then its next bundle (R221). -/
def boundary (s : State) (c : Nat) : Option State :=
  if !canIssue s c then none
  else
    match boundaryTrap s c with
    | some t => some t
    | none => issueBundle (setMe s c)

/-! ### A core's own events -/

/-- The array event that is due. -/
def arrayWork (s : State) (c : Nat) : Option State := (nextArr (coreAt s c).arr).map (takeArr s c)
/-- A scalar result whose latency is over lands (R41). -/
def scalarWork (s : State) (c : Nat) : Option State := if (dueScalar (coreAt s c)).isSome then some (landFirst s c) else none
def ownWork (s : State) (c : Nat) : Option State := (arrayWork s c).orElse fun _ => scalarWork s c
/-- All of them; what an event schedules for a cycle that is over is one of them. -/
def landDue : Nat → State → Nat → State
  | 0, s, _ => s
  | n + 1, s, c =>
    match ownWork s c with
    | none => s
    | some s => landDue n s c
def settleCore (s : State) (c : Nat) : State :=
  landDue (256 * ((coreAt s c).arr.due.length + (coreAt s c).seq.pend.length)) s c
/-- Every core's: what was scheduled for a cycle that is over has happened before anything freezes or discards (R226). -/
def settleAll (s : State) : State := (s.cores.map (·.1)).foldl settleCore s

end Sys2Proof.Machine
end

