-- ==== Sys2Proof/Machine/Work.lean ====
section
/-! DEFINITION. What the device does by itself: the work that is pending in each unit, the order in which the model takes
it, the passing of a fabric beat, and the moves of the agenda (R32, R41, R202, R218, R225, R235, R293, R299, R306, R312,
R334, R346, R353, R355, R363, R367, R370; DESIGN CHOICE, log entry 19). -/

namespace Sys2Proof.Machine
open Sys2Proof

/-- The first of some states. -/
def firstOf : List (State → Option State) → State → Option State
  | [], _ => none
  | f :: t, s =>
    match f s with
    | some u => some u
    | none => firstOf t s

/-- An event of the opcode table that is due. -/
def due (cond : Bool) (o : Out) (s : State) : Option State := if cond then some (nextOf s o) else none

/-! ### A core -/

/-- The epilogue unit (R196, R202): one word of the register in it, or the next register. -/
def epiWork (c : Nat) (s : State) : Option State :=
  let e := (coreAt s c).edge
  if e.epi.isSome then
    some (setMe (stepEpi s c) s.me)
  else if e.epq.isEmpty then none
  else some (enterEpi s c)
/-- The oldest access that has issued is performed; then the oldest store leaves the buffer. -/
def accessWork (c : Nat) (s : State) : Option State :=
  if bellHeld s c then none
  else if !(pendOf s c).isEmpty then some (performAt s c 0)
  else if !(sbOf s c).isEmpty then some (drainOldest s c)
  else none
/-- A copy channel: a request that starts, or the line whose turn it is in the cluster (R206). -/
def chanWork (c : Nat) (s : State) : Option State :=
  match (coreAt s c).mem.chans.find? fun p => !p.2.stopped && p.2.job.isNone && !p.2.queue.isEmpty with
  | some p => if bellHeld s c then none else some (copyStart s c p.1)
  | none =>
    match nextChan s (clusterOf c) with
    | none => none
    | some (d, ch, _) => if d = c then some (copyLine s c ch) else none
/-- A feed fetch that gets its data, then a drain write. -/
def feedWork (c : Nat) (s : State) : Option State :=
  [0, 1, 2, 3].findSome? fun e =>
    match boundStep (coreAt s c) e with
    | none => none
    | some b =>
      if b.drain || isHalted s c || (nextFetch (coreAt s c) e b).isNone then none
      else
        let t := fetchStep s c e
        if nextFetch (coreAt t c) e b = nextFetch (coreAt s c) e b then none else some t
def drainWork (c : Nat) (s : State) : Option State :=
  [0, 1, 2, 3].findSome? fun e =>
    if (drainReady s c e).isSome then some (drainStep s c e) else none
def joinWork (c : Nat) (s : State) : Option State := due (!bellHeld s c && (joinReady s c).isSome) (execJoinwComplete c s) s
/-- The oldest FENCE that can act does, once nothing that it comes after waits (R277). -/
def fenceWork (c : Nat) (s : State) : Option State :=
  if bellHeld s c || fenceWaits s c || isHalted s c then none
  else
    match (coreAt s c).fences.find? (fenceOpen (coreAt s c)) with
    | none => none
    | some f => some (fenceActs (modCore s c fun k => { k with fences := k.fences.erase f }) c f.1)
def rewardWork (c : Nat) (s : State) : Option State :=
  if (coreAt s c).rjq.isEmpty then none else some (serveOldest s c)
/-- The core saves itself at its boundary. -/
def saveWork (c : Nat) (s : State) : Option State :=
  let k := coreAt s c
  match bindingOf s c with
  | none => none
  | some (t, x) =>
    due (!bellHeld s c && x.state == .yielding && (k.yield_ == .save || k.yield_ == .discard) && !isFollower k && atBoundary k && liveHere s t c && !teamDone s t && !retiring x c &&
      -- once it is frozen it waits for its copies (R208)
      ((boundaryTrap s c).isSome || !k.arr.frozen || (positions k c).all fun p => copiesQuiet (coreAt s p)))
      (execCoreSave c s) s
def restoreWork (c : Nat) (s : State) : Option State :=
  match bindingOf s c with
  | none => none
  | some (t, x) =>
    match Tab.look s.sched.saved (64 * t + c) with
    | none => none
    | some k => due (x.state == .bound && !isFollower k) (execCoreRestore c s) s
def startWork (c : Nat) (s : State) : Option State :=
  match bindingOf s c with
  | none => none
  | some (t, x) =>
    due (!(coreAt s c).localq.isEmpty && !isHalted s c && x.state == .running && liveHere s t c && coreIdle (coreAt s c) && !retiring x c &&
      arrayEmpty s (masterOf s c) && arrayEmpty s c) (execTaskStart c s) s
def deadlineWork (c : Nat) (s : State) : Option State :=
  due ((coreAt s c).yield_ == .drain && s.sched.drains.any fun d => d.2 ≤ s.beat && (teamCores s d.1).contains c && liveHere s d.1 c)
    (execDrainDeadline c s) s

/-- The work of one core. -/
def coreWork (c : Nat) : State → Option State :=
  firstOf [fun s => ownWork s c, accessWork c, chanWork c, feedWork c, drainWork c, joinWork c, fenceWork c, rewardWork c, deadlineWork c,
    saveWork c, restoreWork c, startWork c]
def coreNumbers (s : State) : List Nat := s.cores.map (·.1)
def anyCore (f : Nat → State → Option State) (s : State) : Option State := (coreNumbers s).findSome? fun c => f c s

/-! ### Links -/

def postWork (s : State) : Option State :=
  match s.sys.posts with
  | [] => none
  | p :: _ => some (nextOf s (execRemotePostArrive p.src p.dst s))
def messageWork (s : State) : Option State :=
  match s.sys.msgs.find? (msgRuns s) with
  | none => none
  | some m => some (deliverMsg (takeMsg s m) m)
def postedWork (s : State) : Option State := due (!s.sys.posted.isEmpty) (execHostPostedDeliver s) s
def invalWork (s : State) : Option State := due (!s.sys.inval.isEmpty) (execTlbInvalidateComplete s) s

/-! ### The Orangery: expiries come before requests of the same beat (R334) -/

def expiryWork : State → Option State := expireOnce
def scanWork (s : State) : Option State := due (scanDue s) (execBackwardScan s) s
/-- The first waiting release whose ring has room. -/
def ringWork (s : State) : Option State :=
  s.ora.waits.findSome? fun w =>
    match episodeAt s w.1 w.2 with
    | none => none
    | some e => due (!ringFull s e.lq e.stale) (execRingAppend e.lq e.stale s) s

/-! ### Teams -/

def teamReleaseWork (t : Nat) (x : Team) (s : State) : Option State :=
  match x.releaseAt with
  | none => none
  | some n => due (decide (n ≤ timebase s)) (execTeamRelease t s) s
/-- The generator serves what came in earlier beats. -/
def generatorWork (t : Nat) (x : Team) (s : State) : Option State :=
  match x.gen with
  | none => none
  | some g =>
    -- the map has met a fault: the team is killed (R380)
    if g.lost then (if x.state == .ended then none else some (killTeam s t 2 (.killed false false)))
    else match g.reqs with
    | [] => none
    | r :: _ =>
      if s.beat ≤ r.at_ then none
      else if hasCut g then some (genCut s t)
      else some (serveRegister s t)
def yieldWork (t : Nat) (x : Team) (s : State) : Option State :=
  if x.state != .yielding then none
  else if (x.place.all fun c => (Tab.look s.sched.saved (64 * t + c)).isSome) ||
      (drainOver s t x && x.place.any fun c => liveHere s t c && (coreAt s c).yield_ != .save) then some (finishYield s t)
  else none
/-- The team's packet still has to see the end by itself. -/
def graphWaits (s : State) (t : Nat) (x : Team) : Bool :=
  match pktAt s x.pkt with
  | none => false
  | some p => pktType p != 1 && p.team == some t && p.status.isNone
def endWork (t : Nat) (x : Team) (s : State) : Option State :=
  due (teamDone s t || (x.state == .ended && !graphWaits s t x)) (execTeamEnd t s) s
def teamWork (s : State) : Option State :=
  s.sched.teams.findSome? fun p => firstOf [teamReleaseWork p.1 p.2, (fun s => nextPush s p.1), generatorWork p.1 p.2, yieldWork p.1 p.2, endWork p.1 p.2] s

/-- The scheduler of one partition: the first eligible waiting team is bound; where it stops, it asks for the victims that have
not been asked (R306, R307). -/
def bindWork (p : Nat) (s : State) : Option State :=
  match firstWaiting s p with
  | none => none
  | some (t, x) =>
    match placement s x [] with
    | some cs => some (nextOf s (execTeamBind t cs s))
    | none => due (!(newVictims s x).isEmpty) (execPreemptRequest t s) s
def bindNext (s : State) : Option State := (s.sched.parts.map (·.1)).findSome? fun p => bindWork p s
/-- The scheduler goes through its partitions until it has nothing more to do. -/
def schedWork (s : State) : Option State :=
  if !s.sched.sweep then none
  else
    match bindNext s with
    | some t => some t
    | none => some (modSched s fun d => { d with sweep := false })
/-- A partition swap: a core that can halt now, or the exchange (R233). -/
def swapWork (s : State) : Option State :=
  match s.sched.swap with
  | none => none
  | some (a, b) =>
    let cs := liveCores s a
    due (!cs.any (bellHeld s) && (cs.any fun c => !isHalted s c && !isFollower (coreAt s c) && atBoundary (coreAt s c)) ||
      !cs.any (bellHeld s) && cs.all fun c => isHalted s c && copiesQuiet (coreAt s c)) (execPartitionSwap a b s) s

/-! ### The Pavilion (island 20) -/

def bellWork (s : State) : Option State :=
  match s.pav.bells with
  | [] => none
  | (q, w) :: _ => some (nextOf s (execDoorbellWrite q (BitVec.ofNat 64 w) s))
def eventWork (s : State) : Option State := due (!s.pav.events.isEmpty) (execQueueEvent 1 s) s
/-- A packet's work begins. -/
def beginPacket (s : State) (k : Nat) (p : Pkt) : State :=
  let op := pktFld p 0x20 8
  match pktType p with
  | 1 => nextOf s (execLaunch k s)
  | 2 => nextOf s (execGraph k s)
  | 3 => nextOf s (execWaitsig k s)
  | 4 => nextOf s (if op = 0 then execSignalStore k s else execSignalAdd k s)
  | 5 => nextOf s (execCopy k s)
  | _ => nextOf s (if op = 0 then execRegionInsert k s else if op = 1 then execRegionUpdate k s
      else if op = 2 then execRegionRemove k s else execRegionKill k s)
def packetWork (s : State) : Option State :=
  s.pav.pkts.findSome? fun kp =>
    let k := kp.1
    let p := kp.2
    if p.status.isSome then due p.team.isNone (execPacketComplete k s) s
    else if !p.begun then some (beginPacket s k p)
    else if waiting p then
      let t := pollSignal s k p
      if (match pktAt t k with | some q => q.status.isSome | none => false) then some t
      else due (match p.deadline with | some b => b ≤ s.beat | none => false) (execWaitsigTimeout k s) s
    else none
def irqWork (s : State) : Option State :=
  s.pav.queues.findSome? fun q => due (match q.2.irqAt with | some b => b ≤ s.beat | none => false) (execIrqSend q.1 s) s
/-- A running graph goes on: to a node that is not a running kernel. -/
def graphReady (s : State) (p : Pkt) : Bool :=
  runsGraph p && (match p.team with | none => true | some t => match teamAt s t with | none => true | some x => x.state == .ended)
/-- Each running graph takes one node in a beat. -/
def graphBeat (s : State) : State :=
  if islandHolds s 20 || memoryStands s then s
  else (s.pav.pkts.filter fun p => graphReady s p.2).foldl (fun s p => graphStep s p.1) s

/-! ### Folop -/

/-- The commands that reach device memory: the ASIDs' and partitions' tables, and the page tables. -/
def commandStores (code : Nat) : Bool := [1, 3, 4, 7, 9].contains code
/-- The command that Folop has taken. -/
def commandWork (s : State) : Option State :=
  if s.pav.mbox.tag.isNone || (memoryStands s && commandStores s.pav.mbox.runs.toNat) then none
  else
    match s.pav.mbox.runs.toNat with
    | 1 => some (nextOf s (execAsidnew s))
    | 2 => due (!(asidAt s (mboxArg s 0)).dying) (execAsiddel s) s
    | 3 => some (nextOf s (execMapPages s))
    | 4 => some (nextOf s (execUnmapPages s))
    | 5 => some (nextOf s (execQnew s))
    | 6 => some (nextOf s (execQctl s))
    | 7 => some (nextOf s (execPart s))
    | 8 => some (nextOf s (execAttest s))
    | 9 => some (nextOf s (execDoorbell s))
    | _ => none
/-- The oldest fault event: RESUME where Folop maps the page, else END (R225). -/
def faultWork (s : State) : Option State :=
  match s.pav.faults with
  | [] => none
  | f :: _ =>
    match serviced s f with
    | some t => some (answerFault t f true)
    | none => some (answerFault s f false)
def drainedWork (s : State) : Option State :=
  s.pav.asids.findSome? fun p =>
    due (p.2.dying && !asidBusy s p.1 && !s.sched.teams.any fun t => t.2.asid == p.1) (execAsidDrained p.1 s) s
def pavilionWork (s : State) : Option State :=
  if islandHolds s 20 then none
  else if memoryStands s then firstOf [bellWork, irqWork, commandWork, drainedWork] s
  else firstOf [bellWork, eventWork, packetWork, irqWork, commandWork, faultWork, drainedWork] s

def powerWork (s : State) : Option State := due s.power.cmd.isSome (execPowerCommandDone s) s
def bootWork (s : State) : Option State := if booting s && !islandHolds s 20 then some (bootStep s) else none

/-! ### The order -/

/-- The first pending work of the device, in the model's fixed order. -/
def fullWork : State → Option State :=
  firstOf [anyCore epiWork, anyCore fun c s => ownWork s c, messageWork, postWork, postedWork, invalWork, expiryWork, anyCore coreWork, scanWork, ringWork,
    powerWork, bootWork, teamWork, swapWork, schedWork, pavilionWork]
/-- While an uncore or HBM island stands: what needs no device memory (R370; DESIGN CHOICE, log entry 68). -/
def drySteps : State → Option State :=
  firstOf [anyCore epiWork, anyCore fun c s => ownWork s c, messageWork, postWork, postedWork, invalWork, powerWork, pavilionWork]
def pickWork (s : State) : Option State := if memoryStands s then drySteps s else fullWork s

/-! ### Time (R5, R227, R370) -/

/-- A cycle of a core passes; a frozen array does not count it, and outside a handler, or in a core that a swap has halted,
neither does the sequencer, whose pending results keep their distance (R227). -/
def tick (halted : Bool) (k : Core) : Core :=
  { k with
    seq := { k.seq with cyc := if halted || (k.arr.frozen && !k.ctl.inh) then k.seq.cyc else k.seq.cyc + 1 }
    arr := { k.arr with acyc := if halted || k.arr.frozen then k.arr.acyc else k.arr.acyc + 1 } }
/-- A beat of the fabric clock: what is due before it has happened, the Orangery's expiries included (R334). -/
def beatStep (s : State) : State :=
  let s := countTime (nextBeat (expire (settleAll s)))
  let s := (coreNumbers s).foldl (fun s c => if ticks s c then modCore s c (tick (isHalted s c)) else s) s
  graphBeat s

/-! ### The agenda -/

/-- Steps that have no encoding. -/
def isEvent (i : Instr) : Bool := (encode i).isNone
/-- Requests that the Orangery serves. -/
def orangeryServes : Instr → Bool
  | .reward .. => true
  | .fabricFlit .. => true
  | .registrationServe .. => true
  | .popServe .. => true
  | .controlServe .. => true
  | _ => false
/-- Steps of the Pavilion, which its island's clock drives (R370). -/
def pavilionRuns : Instr → Bool
  | .queueEvent .. => true
  | .launch .. => true
  | .graph .. => true
  | .waitsig .. => true
  | .waitsigPoll .. => true
  | .waitsigTimeout .. => true
  | .signalStore .. => true
  | .signalAdd .. => true
  | .copy .. => true
  | .regionInsert .. => true
  | .regionUpdate .. => true
  | .regionRemove .. => true
  | .regionKill .. => true
  | .packetComplete .. => true
  | .graphKernel .. => true
  | .graphLoop .. => true
  | .graphCond .. => true
  | .graphSignal .. => true
  | .graphEnd .. => true
  | .irqSend .. => true
  | .asidDrained .. => true
  | .folopResume .. => true
  | .folopEnd .. => true
  | .doorbellWrite .. => true
  | .asidnew => true
  | .asiddel => true
  | .mapPages => true
  | .unmapPages => true
  | .qnew => true
  | .qctl => true
  | .part => true
  | .attest => true
  | .doorbell => true
  | _ => false
/-- Steps that need no device memory, or come from outside: they go on while an uncore or HBM island stands; a directory message
asks for its own home (R370; DESIGN CHOICE, log entry 68). -/
def needsNoMemory : Instr → Bool
  | .wavefrontReach .. => true
  | .sfDeliver .. => true
  | .traySumLand .. => true
  | .flagGroupValid .. => true
  | .scalarResultLand .. => true
  | .epilogueProcess .. => true
  | .remotePostArrive .. => true
  | .rds .. => true
  | .rdx .. => true
  | .upg .. => true
  | .wbx .. => true
  | .evs .. => true
  | .rdio .. => true
  | .wrio .. => true
  | .ack .. => true
  | .inv .. => true
  | .invack .. => true
  | .rcls .. => true
  | .rcli .. => true
  | .rclack .. => true
  | .fwdio .. => true
  | .fwdack .. => true
  | .tlbInvalidate .. => true
  | .tlbInvalidateComplete => true
  | .hostPostedDeliver => true
  | .orphanExpiry => true
  | .preemptRequest .. => true
  | .drainDeadline .. => true
  | .doorbellWrite .. => true
  | .irqSend .. => true
  | .asidDrained .. => true
  | .asiddel => true
  | .qnew => true
  | .qctl => true
  | .attest => true
  | .islandToA0 .. => true
  | .islandToA1 .. => true
  | .islandToA2 .. => true
  | .islandToRet .. => true
  | .islandToOff .. => true
  | .powerCommandDone => true
  | .tripClear .. => true
  | .pcapWrite .. => true
  | .budgetLend .. => true
  | .budgetRepay .. => true
  | .thermalTrip .. => true
  | .thermalShutdown => true
  | .powerOnReset => true
  | .eccCorrected .. => true
  | .eccUncorrectable .. => true
  | .counterFlush => true
  | .orderlyPowerOff => true
  | .registerWrite .. => true
  | .ringOutOfSequence .. => true
  | .pcmdReservedState .. => true
  | .suddenLossOfPower => true
  | _ => false
/-- The cores whose accesses an event would perform. -/
def performsFor (s : State) : Instr → List Nat
  | .loadReturn c _ => [c]
  | .amoAtomic c _ => [c]
  | .storeBufferDrain c => [c]
  | .copyStart c _ => [c]
  | .joinwComplete c => [c]
  | .trapEntry c => [c]
  | .coreSave c => [c]
  | .partitionSwap a _ => liveCores s a
  | _ => []
/-- An event of the agenda waits: for the Pavilion's clock, for memory, or behind a doorbell store (R351, R370). -/
def eventWaits (s : State) (i : Instr) : Bool :=
  (pavilionRuns i && islandHolds s 20) || (memoryStands s && !needsNoMemory i) ||
    (performsFor s i).any (bellHeld s)
/-- A core's own results, which come by themselves. -/
def ownEvent : Instr → Bool
  | .wavefrontReach .. => true
  | .sfDeliver .. => true
  | .traySumLand .. => true
  | .flagGroupValid .. => true
  | .scalarResultLand .. => true
  | _ => false
/-- What is due before an event: every core's own results, and the expiries of the Orangery where it serves (R226, R334). -/
def settleFor (i : Instr) (s : State) : State :=
  let s := if ownEvent i then s else settleAll s
  if orangeryServes i then expire s else s
/-- An event that the agenda names. -/
def runEvent (s : State) (i : Instr) : State :=
  if !isEvent i || eventWaits s i then s
  else run (settleFor i s) i
def runMove (s : State) : Move → State
  | .ev i => runEvent s i
  | .core c => (boundary (settleAll s) c).getD (settleAll s)
  | .beat => beatStep s
  | .evictL1 c line => if memoryStands s then s else evictL1 s c line
  | .evictWay g line => if memoryStands s then s else evictWay s g line
  | .evictL2 d line => if memoryStands s then s else dieEvict s d line
  | .drain c i => if memoryStands s || bellHeld s c then s else drainLater s c i
  | .perform c i => if memoryStands s || bellHeld s c then s else performAt s c i
  | .draw d n => setDraw s d n
  | .hostRead off => hostReads s off
  | .serve m => modPav s fun p => { p with serve := p.serve ++ [m] }
  | .dropRecord c h => modEdge s c fun e => { e with recs := e.recs.filter fun r => r.1 != h }
  | .bin n => modPower s fun p => { p with bin := min 25 n }

/-- With nothing asked from outside: pending work, else the first core that can issue, else a beat. -/
def runFree (s : State) : State :=
  match pickWork s with
  | some t => t
  | none =>
    match anyCore (fun c s => boundary s c) s with
    | some t => t
    | none => beatStep s

/-- A power-on reset is the next move. -/
def powersOn : Move → Bool
  | .ev .powerOnReset => true
  | _ => false

/-! ### Placing one instruction (the model's `withFetchWord`) -/

/-- A core that issues next the one bundle that stands at its program counter. -/
def placeBundle (k : Core) (b : BitVec 128) : Core :=
  let pc := if inImem k k.seq.pc then k.seq.pc else 0
  { k with
    code := if b = 0 then Tab.erase pc k.code else Tab.put k.code pc b
    run := .running, deferred := [], soft := none, fences := [], yield_ := .no
    imemQuota := if k.imemQuota = 0 then 16384 else k.imemQuota
    ctl := { k.ctl with inh := false }
    arr := { k.arr with frozen := false }
    seq := { k.seq with pc := pc, readyAt := 0, repK := 0 } }
/-- An epilogue unit that processes next the one word. -/
def placeWord (k : Core) (w : Half) : Core :=
  { k with edge := { k.edge with epi := some { edge := 0, cap := 0, pos := 0, words := [w], vals := List.replicate 16 0, ty := 0, fmt := 0 } } }
def joinWords (b : BundleWords) : BitVec 128 := b.e ++ b.w ++ b.s ++ b.y

end Sys2Proof.Machine
end

