-- ==== Sys2Proof/Machine/Step.lean ====
section
/-! DEFINITION. One step of the device, and the placing of one instruction where the next step fetches. -/

namespace Sys2Proof.Machine
open Sys2Proof

/-- One step: the next move of the agenda, or what the device does by itself.  Without power only a power-on reset
moves it (R379). -/
def step (s : State) : Host.Outcome State Fault Refusal :=
  match s.agenda with
  | m :: rest => if s.power.powered || powersOn m then .next (runMove (setAgenda s rest) m) else .fault .noPower
  | [] => if s.power.powered then .next (runFree s) else .fault .noPower

/-- The word where the next step fetches: a 16-bit word in the epilogue unit of core 0, a 32-bit word in its slot of
the bundle at core 0's program counter. -/
def State.withFetchWord (s : State) (nbits w : Nat) : State :=
  if nbits = 16 then setAgenda (modCore s 0 fun k => placeWord k (BitVec.ofNat 16 w)) []
  else
    match tableSlot (BitVec.ofNat 32 w) with
    | none => setAgenda (modCore s 0 fun k => placeBundle k (joinWords ⟨0, BitVec.ofNat 32 w, 0, 0⟩)) [.core 0]
    | some sl => setAgenda (modCore s 0 fun k => placeBundle k (joinWords (loneWords sl (BitVec.ofNat 32 w)))) [.core 0]

end Sys2Proof.Machine
end

