-- ==== Sys2Proof/Safety.lean ====
section
/-! DEFINITION. A run of the device that stops at no fault and no refusal. -/

namespace Sys2Proof
open Machine

/-- `n` steps from `s` all answer a next state. -/
def SafeRun : Nat → State → Prop
  | 0, _ => True
  | n + 1, s => ∃ t, step s = .next t ∧ SafeRun n t

/-- The state after `n` steps, when none of them stops. -/
def runsTo : Nat → State → State → Prop
  | 0, s, t => s = t
  | n + 1, s, t => ∃ u, step s = .next u ∧ runsTo n u t

end Sys2Proof
end

