-- ==== Sys2Proof/Certificates/Slice0/Obligations.lean ====
section
/-! DEFINITION. The statements for the provers, each a `def Obligations.<Name> : Prop`, and the words they are made of. -/

namespace Sys2Proof.Claims
open Sys2Proof Sys2Proof.Machine

/-! ### Words for frames -/

/-- Only core c of the device differs: every other core and every other part of the device is as before. -/
def OnlyCore (s t : State) (c : Nat) : Prop :=
  (∀ c', c' ≠ c → coreAt t c' = coreAt s c') ∧ { t with cores := s.cores } = s

/-- Core c became k and nothing else in the device changed. -/
def CoreIs (s t : State) (c : Nat) (k : Core) : Prop := coreAt t c = k ∧ OnlyCore s t c

/-- In the device only one general register changed: G d of the issuing core now reads v; a write of G0 changes nothing. -/
def WritesG (s t : State) (d : BitVec 5) (v : Dword) : Prop :=
  (∀ r : BitVec 5, readG (coreAt t s.me) r = if r = d ∧ d ≠ 0 then v else readG (coreAt s s.me) r) ∧
  { coreAt t s.me with seq := { (coreAt t s.me).seq with g := (coreAt s s.me).seq.g } } = coreAt s s.me ∧
  OnlyCore s t s.me

/-- In the device only one result joined the pending ones of the issuing core: register d, value v and flags fl, due
`lat` cycles after this one. -/
def Pends (s t : State) (d : BitVec 5) (v : Dword) (fl : Flags5) (lat : Nat) : Prop :=
  CoreIs s t s.me
    { coreAt s s.me with
      seq := { (coreAt s s.me).seq with
        pend := (coreAt s s.me).seq.pend ++ [⟨(coreAt s s.me).seq.cyc + lat, d.toNat, v, fl⟩] } }

/-- G a of the issuing core. -/
def gr (s : State) (a : BitVec 5) : Dword := readG (coreAt s s.me) a

/-! ### Scalar arithmetic as the tables give it -/

/-- R106: the functions of latency 1 over x = G a and y = G b. -/
def aluFast (d a b : BitVec 5) (x y : Dword) : List (Instr × Dword) :=
  [(.aluAdd d a b, x + y), (.aluSub d a b, x - y), (.aluAnd d a b, x &&& y), (.aluOr d a b, x ||| y), (.aluXor d a b, x ^^^ y),
   (.aluShl d a b, BitVec.ofNat 64 (x.toNat * 2 ^ (y.toNat % 64))), (.aluShr d a b, BitVec.ofNat 64 (x.toNat / 2 ^ (y.toNat % 64))),
   (.aluSar d a b, BitVec.ofInt 64 (x.toInt / 2 ^ (y.toNat % 64))),
   (.aluMin d a b, BitVec.ofInt 64 (min x.toInt y.toInt)), (.aluMax d a b, BitVec.ofInt 64 (max x.toInt y.toInt)),
   (.aluMinu d a b, BitVec.ofNat 64 (min x.toNat y.toNat)), (.aluMaxu d a b, BitVec.ofNat 64 (max x.toNat y.toNat)),
   (.aluSlt d a b, if x.toInt < y.toInt then 1 else 0), (.aluSltu d a b, if x.toNat < y.toNat then 1 else 0),
   (.aluSeq d a b, if x = y then 1 else 0)]

/-- R106, R107, R40: the functions of latency 3 and 18. -/
def aluSlow (d a b : BitVec 5) (x y : Dword) : List (Instr × Dword × Nat) :=
  [(.aluMul d a b, BitVec.ofNat 64 (x.toNat * y.toNat), 3), (.aluMulh d a b, BitVec.ofInt 64 (x.toInt * y.toInt / 2 ^ 64), 3),
   (.aluMulhu d a b, BitVec.ofNat 64 (x.toNat * y.toNat / 2 ^ 64), 3),
   (.aluDiv d a b, if y = 0 then BitVec.allOnes 64 else BitVec.ofInt 64 (Int.tdiv x.toInt y.toInt), 18),
   (.aluDivu d a b, if y = 0 then BitVec.allOnes 64 else BitVec.ofNat 64 (x.toNat / y.toNat), 18),
   (.aluRem d a b, if y = 0 then x else BitVec.ofInt 64 (Int.tmod x.toInt y.toInt), 18),
   (.aluRemu d a b, if y = 0 then x else BitVec.ofNat 64 (x.toNat % y.toNat), 18)]

/-- R109, R110: an immediate of 16 bits, or of 40 with the payload of an IMX in the bundle. -/
def immNat (imx : Option (BitVec 24)) (i : BitVec 16) : Nat :=
  match imx with
  | none => i.toNat
  | some u => u.toNat * 2 ^ 16 + i.toNat
def immBits (imx : Option (BitVec 24)) : Nat := if imx.isSome then 40 else 16
/-- The value of the immediate's bits as a signed number of that width. -/
def immInt (imx : Option (BitVec 24)) (i : BitVec 16) : Int :=
  if immNat imx i < 2 ^ (immBits imx - 1) then immNat imx i else (immNat imx i : Int) - 2 ^ immBits imx

/-- R109: the immediate instructions over x = G a and the old G d. -/
def immTable (d a : BitVec 5) (i : BitVec 16) (k : BitVec 2) (n : BitVec 6) (x old : Dword) (imx : Option (BitVec 24)) : List (Instr × Dword) :=
  [(.addi d a i, BitVec.ofInt 64 (x.toInt + immInt imx i)), (.andi d a i, x &&& BitVec.ofNat 64 (immNat imx i)),
   (.ori d a i, x ||| BitVec.ofNat 64 (immNat imx i)), (.xori d a i, x ^^^ BitVec.ofNat 64 (immNat imx i)),
   (.shi d a k n, if k = 0 then BitVec.ofNat 64 (x.toNat * 2 ^ n.toNat) else if k = 1 then BitVec.ofNat 64 (x.toNat / 2 ^ n.toNat)
     else BitVec.ofInt 64 (x.toInt / 2 ^ n.toNat)),
   (.lui d i, BitVec.ofNat 64 (i.toNat * 2 ^ 16)), (.slti d a i, if x.toInt < immInt imx i then 1 else 0),
   (.sltiu d a i, if x.toNat < immNat imx i then 1 else 0), (.lis d i, BitVec.ofNat 64 (old.toNat * 2 ^ 16 + i.toNat))]

/-- R47, R40, R111: the FPU operations over the bits of their sources; `w` is 0 for .S and 1 for .D. -/
def fpuTable (d a b : BitVec 5) (w : BitVec 1) (m : RMode) (src : BitVec 1 → BitVec 5 → Nat) : List (Instr × (Nat × Flags5) × Nat) :=
  let f : Fmt := if w = 0 then fp32 else fp64
  let slow : Nat := if w = 0 then 12 else 22
  let cmp (c : Nat) : Nat × Flags5 := ((if (fCompare f c (src w a) (src w b)).1 then 1 else 0), (fCompare f c (src w a) (src w b)).2)
  [(.fpuFadd d a b w, fAdd f m (src w a) (src w b), 4), (.fpuFsub d a b w, fSub f m (src w a) (src w b), 4),
   (.fpuFmul d a b w, fMul f m (src w a) (src w b), 4), (.fpuFdiv d a b w, fDiv f m (src w a) (src w b), slow),
   (.fpuFsqrt d a w, fSqrt f m (src w a), slow), (.fpuFmin d a b w, fMin f (src w a) (src w b), 4),
   (.fpuFmax d a b w, fMax f (src w a) (src w b), 4), (.fpuFeq d a b w, cmp 0, 4), (.fpuFlt d a b w, cmp 1, 4),
   (.fpuFle d a b w, cmp 2, 4), (.fpuFfma d a b w, fFma f m false (src w a) (src w b) (src w d), 4),
   (.fpuCvtS2d d a, convFF fp32 fp64 m (src 0 a), 4), (.fpuCvtD2s d a, convFF fp64 fp32 m (src 1 a), 4),
   (.fpuCvtS2i d a, convFI fp32 64 m (src 0 a), 4), (.fpuCvtI2s d a, convert (.int 64) (.flt fp32) m (src 1 a), 4),
   (.fpuCvtD2i d a, convFI fp64 64 m (src 1 a), 4), (.fpuCvtI2d d a, convert (.int 64) (.flt fp64) m (src 1 a), 4)]

end Sys2Proof.Claims

open Sys2Proof Sys2Proof.Machine Sys2Proof.Claims

/-! ### Encoding -/

/-- R31, R34, R35, R42 to R59: for every instruction with a word, the word decodes in its slot to the instruction. -/
def Obligations.EveryWordDecodesBack : Prop :=
  ∀ i : Instr, i.wf = true → ∀ x, encode i = some x → decodeSlot x.slot x.word = .ok i

/-- R34, R35, R42 to R57: in every slot no two words are one instruction: the word that decodes to an instruction is its
encoding, bit for bit, and the instruction is well formed. -/
def Obligations.DecodedWordIsTheEncoding : Prop :=
  ∀ (sl : Slot) (w : Word) (i : Instr), decodeSlot sl w = .ok i → i.wf = true ∧ encode i = some ⟨sl, w⟩

/-- Words written out in the spec decode to the instructions that stand beside them. -/
def Obligations.SpecWordsDecode : Prop :=
  decodeSlot .s 0x054A7003 = .ok (.aluOr 10 10 14) ∧ decodeSlot .s 0x28A089AB = .ok (.lis 5 0x89AB) ∧
  decodeSlot .s 0x30C7402A = .ok (.fpuFfma 6 7 8 1) ∧ decodeSlot .s 0x5156C006 = .ok (.bc 5 11 12 6) ∧
  decodeSlot .s 0x511D1FFB = .ok (.bc 4 14 17 0xFFB) ∧ decodeSlot .s 0x43FFFFF9 = .ok (.br 0x3FFFFF9) ∧
  decodeSlot .e 0x07000001 = .ok (.larm 3 0 0 1) ∧ decodeSlot .y 0x8000000E = .ok (.imx 0 14)

/-! ### The sequencer's arithmetic -/

/-- R26: in every state G0 reads 0 and M0 reads all ones, and a write of G0 changes no register. -/
def Obligations.HardwiredRegisters : Prop :=
  ∀ (s : State) (c : Nat) (v : Dword),
    readG (coreAt s c) 0 = 0 ∧ readM (coreAt s c) 0 = ⟨BitVec.allOnes 32, BitVec.allOnes 32⟩ ∧
    (∀ r, readG (coreAt (writeG s c 0 v) c) r = readG (coreAt s c) r) ∧
    (∀ (d r : BitVec 5), d ≠ 0 → readG (coreAt (writeG s c d v) c) r = if r = d then v else readG (coreAt s c) r)

/-- R106: each function of latency 1 completes in every state with its value in G d and changes nothing else. -/
def Sys2Proof.Claims.AluWritesItsValue : Prop :=
  ∀ (s : State) (d a b : BitVec 5), ∀ p ∈ aluFast d a b (gr s a) (gr s b), ∃ t, exec p.1 s = .next t ∧ WritesG s t d p.2

/-- R106: CLZ gives the number n of leading zero bits, 64 for zero, POPC the number of ones; both change nothing else. -/
def Sys2Proof.Claims.AluCountsBits : Prop :=
  ∀ (s : State) (d a : BitVec 5),
    (∃ n : Nat, n ≤ 64 ∧ (∀ i, 64 - n ≤ i → i < 64 → (gr s a).getLsbD i = false) ∧ (n < 64 → (gr s a).getLsbD (63 - n) = true) ∧
      ∃ t, exec (.aluClz d a) s = .next t ∧ WritesG s t d (BitVec.ofNat 64 n)) ∧
    (∃ t, exec (.aluPopc d a) s = .next t ∧
      WritesG s t d (BitVec.ofNat 64 ((List.range 64).filter fun i => (gr s a).getLsbD i).length))

/-- R106, R107, R108, R40: multiplies and divisions complete in every state; the result, with the fixed ones at y = 0,
is pending for 3 or 18 cycles, and nothing is pending for G0. -/
def Sys2Proof.Claims.AluSlowResults : Prop :=
  ∀ (s : State) (d a b : BitVec 5), ∀ p ∈ aluSlow d a b (gr s a) (gr s b),
    (d ≠ 0 → ∃ t, exec p.1 s = .next t ∧ Pends s t d p.2.1 0 p.2.2) ∧ (d = 0 → exec p.1 s = .next s)

/-- R109, R110: each immediate instruction completes in every state with its value in G d and changes nothing else;
SHI's kind 3 is reserved (R9). -/
def Obligations.ImmediatesWriteTheirValue : Prop :=
  ∀ (s : State) (d a : BitVec 5) (i : BitVec 16) (k : BitVec 2) (n : BitVec 6), k ≠ 3 →
    ∀ p ∈ immTable d a i k n (gr s a) (gr s d) (coreAt s s.me).seq.imx, ∃ t, exec p.1 s = .next t ∧ WritesG s t d p.2

/-- R111, R112, R40: every FPU operation completes in every state, never traps, and leaves its result and flags pending;
with G0 as its destination it leaves only flags, and nothing when it raises none. -/
def Obligations.FpuResultsPend : Prop :=
  ∀ (s : State) (d a b : BitVec 5) (w : BitVec 1),
    ∀ p ∈ fpuTable d a b w (RMode.ofBits (coreAt s s.me).ctl.frm) (fun w r => if w = 0 then (gr s r).toNat % 2 ^ 32 else (gr s r).toNat),
      (d = 0 ∧ p.2.1.2 = 0 → exec p.1 s = .next s) ∧
      (¬ (d = 0 ∧ p.2.1.2 = 0) → ∃ t, exec p.1 s = .next t ∧ Pends s t d (BitVec.ofNat 64 p.2.1.1) p.2.1.2 p.2.2)

/-- R40, R41, R112: when its latency is over, the pending result that is due first lands: its register (never G0) gets the
value, its flags are ORed into SXF, it is pending no more, and nothing else changes; before that, and with nothing
pending, the event does nothing.  That of two results due in one cycle the one that issued first lands first is the model's choice (log
entry 60). -/
def Obligations.ScalarResultLands : Prop :=
  (∀ (s : State) (c : Nat) (r : ScalarRes), firstScalar (coreAt s c).seq.pend = some r →
    r ∈ (coreAt s c).seq.pend ∧ (∀ x ∈ (coreAt s c).seq.pend, r.due ≤ x.due) ∧
    (r.due ≤ (coreAt s c).seq.cyc → ∃ t g, exec (.scalarResultLand c) s = .next t ∧
      CoreIs s t c { coreAt s c with
        seq := { (coreAt s c).seq with g := g, pend := (coreAt s c).seq.pend.erase r }
        ctl := { (coreAt s c).ctl with sxf := (coreAt s c).ctl.sxf ||| r.flags } } ∧
      ∀ x : BitVec 5, readG (coreAt t c) x = if x.toNat = r.reg ∧ x ≠ 0 then r.value else readG (coreAt s c) x) ∧
    ((coreAt s c).seq.cyc < r.due → exec (.scalarResultLand c) s = .next s)) ∧
  (∀ (s : State) (c : Nat), (coreAt s c).seq.pend = [] → exec (.scalarResultLand c) s = .next s)


/-! ### Branches -/

namespace Sys2Proof.Claims

/-- Only the next bundle index of the issuing core changed, to n, and G31 when the branch links: it gets the index after
the branch's own. -/
def Jumps (s t : State) (n : Nat) (link : Bool) : Prop :=
  (coreAt t s.me).seq.npc = n ∧
  (∀ r : BitVec 5, readG (coreAt t s.me) r = if link = true ∧ r = 31 then BitVec.ofNat 64 ((coreAt s s.me).seq.pc + 1) else gr s r) ∧
  { coreAt t s.me with seq := { (coreAt t s.me).seq with npc := (coreAt s s.me).seq.npc, g := (coreAt s s.me).seq.g } } = coreAt s s.me ∧
  OnlyCore s t s.me

/-- R114, R231: a bundle index that the core may issue from. -/
def HasBundle (s : State) (n : Int) : Prop := 0 ≤ n ∧ n < 16384 ∧ n < (coreAt s s.me).imemQuota

/-- R48, R113: the condition of BC over x = G a and y = G b. -/
def bcHolds (c : BitVec 4) (x y : Dword) : Prop :=
  (c = 0 ∧ x = y) ∨ (c = 1 ∧ x ≠ y) ∨ (c = 2 ∧ x.toInt < y.toInt) ∨ (c = 3 ∧ y.toInt ≤ x.toInt) ∨
  (c = 4 ∧ x.toNat < y.toNat) ∨ (c = 5 ∧ y.toNat ≤ x.toNat)

/-- R24, R115: the word of the edge-flag group that b names. -/
def groupOf (g : FlagGroup) (b : BitVec 5) : Word :=
  if b = 0 then g.rowAny else if b = 1 then g.rowAll else if b = 2 then g.colAny else if b = 3 then g.colAll
  else BitVec.ofNat 32 g.summary.toNat

/-- R115: the condition of BEF over the group's word g and m = G a[31:0]. -/
def befHolds (c : BitVec 4) (g m : Word) : Prop :=
  (c = 0 ∧ g &&& m ≠ 0) ∨ (c = 1 ∧ g &&& m = m) ∨ (c = 2 ∧ g &&& m = 0) ∨ (c = 3 ∧ g &&& m ≠ m)

/-- The branches that are taken: instruction, target, link (R113, R115). -/
def takenBranches (s : State) (a b : BitVec 5) (o : BitVec 26) (p : BitVec 12) (c : BitVec 4) : List (Instr × Int × Bool × Prop) :=
  let pc : Int := (coreAt s s.me).seq.pc
  [(.br o, pc + o.toInt, false, True), (.bl o, pc + o.toInt, true, True), (.jr a, ((gr s a).toNat : Int), false, True),
   (.jlr a, ((gr s a).toNat : Int), true, True), (.bc c a b p, pc + p.toInt, false, bcHolds c (gr s a) (gr s b)),
   (.bef c a b p, pc + p.toInt, false, b.toNat ≤ 4 ∧ befHolds c (groupOf (coreAt s s.me).arr.group b) ((gr s a).setWidth 32))]

/-- The layout of R61: the slot's number, REPT, and the slot's word; no register and no count. -/
def operandInfo (slot : Nat) (repeated : Bool) (w : Word) : Dword :=
  BitVec.ofNat 64 (slot + (if repeated then 4 else 0) + w.toNat * 2 ^ 32)

/-- What a precise trap of the issuing bundle does when nothing is pending (R128, R223, R225, R226): the trap registers, INH, the
frozen arrays of the whole chain, and the handler's bundle, or the wait for Folop's answer when TVEC is 0.
REPCNT is what `repLeft` leaves of a repeat, and 0 at a trap off a repeat (log entry 22). -/
def TrapTaken (s t : State) (cause : Nat) (info : Dword) : Prop :=
  let k := coreAt s s.me
  let ctl : Ctl := { k.ctl with
    cause := BitVec.ofNat 8 cause, trappc := BitVec.ofNat 15 k.seq.pc, info := info, inh := true
    repcnt := BitVec.ofNat 7 (repLeft k) }
  let arr : Arr := { k.arr with frozen := true }
  (∀ c, c ≠ s.me → coreAt t c =
    if c ∈ positions k s.me then { coreAt s c with arr := { (coreAt s c).arr with frozen := true } } else coreAt s c) ∧
  if k.ctl.tvec = 0 then
    coreAt t s.me = { k with
      ctl := ctl, arr := arr, run := .waitFolop, seq := { k.seq with pc := k.seq.pc, npc := k.seq.pc, repK := 0 } } ∧
    t.pav.faults = s.pav.faults ++ [faultEvent t s.me] ∧
    { t with cores := s.cores, pav := { t.pav with faults := s.pav.faults } } = s
  else
    coreAt t s.me = { k with
      ctl := ctl, arr := arr
      seq := { k.seq with pc := k.ctl.tvec.toNat, npc := k.ctl.tvec.toNat, repK := 0, readyAt := k.seq.cyc + 2 } } ∧
    { t with cores := s.cores } = s

/-- A core, unchained or the master of its chain, with no result, load or atomic on its way and no FENCE that waits, outside a
handler. -/
def Quiet (s : State) : Prop :=
  (coreAt s s.me).ctl.inh = false ∧ ((coreAt s s.me).chain = [] ∨ s.me ∈ (coreAt s s.me).chain) ∧ (coreAt s s.me).seq.pend = [] ∧
  (coreAt s s.me).mem.pend = [] ∧ (coreAt s s.me).fences = []

end Sys2Proof.Claims

/-- R113, R115: a taken branch whose target has a bundle completes: the next bundle is the target, the linking forms set
G31 (JLR jumps to the old G31), and nothing else changes. -/
def Sys2Proof.Claims.TakenBranchesJump : Prop :=
  ∀ (s : State) (a b : BitVec 5) (o : BitVec 26) (q : BitVec 12) (c : BitVec 4),
    ∀ p ∈ takenBranches s a b o q c, p.2.2.2 → HasBundle s p.2.1 →
      ∃ t, exec p.1 s = .next t ∧ Jumps s t p.2.1.toNat p.2.2.1

/-- R113, R114, R115: a conditional branch that is not taken changes nothing, wherever its target lies. -/
def Sys2Proof.Claims.UntakenBranchesDoNothing : Prop :=
  ∀ (s : State) (a b : BitVec 5) (q : BitVec 12) (c : BitVec 4),
    (c.toNat ≤ 5 → ¬ bcHolds c (gr s a) (gr s b) → exec (.bc c a b q) s = .next s) ∧
    (c.toNat ≤ 3 → b.toNat ≤ 4 → ¬ befHolds c (groupOf (coreAt s s.me).arr.group b) ((gr s a).setWidth 32) →
      exec (.bef c a b q) s = .next s)

/-- R60, R61, R114: a taken branch whose target has no bundle takes the precise illegal-operand trap, cause 2, of slot S. -/
def Sys2Proof.Claims.BranchOutsideMemoryTraps : Prop :=
  ∀ (s : State) (a b : BitVec 5) (o : BitVec 26) (q : BitVec 12) (c : BitVec 4),
    ∀ p ∈ takenBranches s a b o q c, p.2.2.2 → ¬ HasBundle s p.2.1 → Quiet s →
      ∃ t x, encode p.1 = some x ∧ exec p.1 s = .next t ∧
        TrapTaken s t 2 (operandInfo 1 (decide (0 < (coreAt s s.me).seq.repK)) x.word)

/-! ### Traps -/

/-- R125: TRAP completes in every state: its bundle commits, and the software trap with its code is pending at the boundary
before the next bundle, off any repeat. -/
def Sys2Proof.Claims.TrapIsPending : Prop :=
  ∀ (s : State) (code : BitVec 16), ∃ t, exec (.trap code) s = .next t ∧
    CoreIs s t s.me { coreAt s s.me with
      soft := some code, seq := { (coreAt s s.me).seq with npc := (coreAt s s.me).seq.pc + 1, repK := 0 } }

/-- R223, R226: a software trap that is pending is taken at the boundary, once the stall of its bundle is over: cause 4 and
code in TRAPINFO, TRAPPC the bundle at the boundary, REPCNT 0, INH set, the array frozen there, and the handler's bundle next, or
the wait for Folop's answer when TVEC is 0.  While the stall runs nothing happens. -/
def Sys2Proof.Claims.SoftwareTrapIsTaken : Prop :=
  ∀ (s : State) (code : BitVec 16), Quiet s → (coreAt s s.me).run = .running → (coreAt s s.me).soft = some code →
    isHalted s s.me = false → (coreAt s s.me).seq.repK = 0 →
    ((coreAt s s.me).seq.readyAt ≤ (coreAt s s.me).seq.cyc →
      ∃ u t, CoreIs s u s.me { coreAt s s.me with soft := none } ∧ u.me = s.me ∧ exec (.trapEntry s.me) s = .next t ∧
        TrapTaken u t 4 (code.setWidth 64)) ∧
    ((coreAt s s.me).seq.cyc < (coreAt s s.me).seq.readyAt → exec (.trapEntry s.me) s = .next s)

/-- R125, R223, R226: TRAP commits its bundle and leaves a software trap pending, which the core takes at the boundary after it,
when the stall is over.  That it comes before a deferred fault that is pending there is the model's choice (log entry 73), that the
handler's bundle may issue two cycles later too (log entry 11); REPCNT 0 is its reading (log entry 22, DEDUCED). -/
def Obligations.TrapInstructionTakesItsTrap : Prop := TrapIsPending ∧ SoftwareTrapIsTaken

/-- R126, R227: RETT with INH = 1, no deferred fault and TRAPPC inside instruction memory completes: INH and REPCNT are
cleared, the array thaws, and TRAPPC issues next, from the repeat that REPCNT named. -/
def Sys2Proof.Claims.ReturnResumesTheProgram : Prop :=
  ∀ s : State, (coreAt s s.me).ctl.inh = true → (coreAt s s.me).chain = [] → (coreAt s s.me).deferred = [] →
    (coreAt s s.me).ctl.trappc.toNat < 16384 → (coreAt s s.me).ctl.trappc.toNat < (coreAt s s.me).imemQuota →
    ∃ t, exec .rett s = .next t ∧ OnlyCore s t s.me ∧
      (coreAt t s.me).ctl = { (coreAt s s.me).ctl with inh := false, repcnt := 0 } ∧
      (coreAt t s.me).arr.frozen = false ∧ (coreAt t s.me).run = .running ∧
      (coreAt t s.me).seq.pc = (coreAt s s.me).ctl.trappc.toNat ∧
      (∀ n, repCount (bundleAt (coreAt s s.me) (coreAt s s.me).ctl.trappc.toNat) = some n →
        0 < (coreAt s s.me).ctl.repcnt.toNat → (coreAt s s.me).ctl.repcnt.toNat ≤ n →
        (coreAt t s.me).seq.repK = n - (coreAt s s.me).ctl.repcnt.toNat) ∧
      (coreAt t s.me).seq.g = (coreAt s s.me).seq.g

/-- R126, R60: RETT with INH = 0 is an illegal operand: it takes the trap with cause 2. -/
def Sys2Proof.Claims.ReturnOutsideAHandlerTraps : Prop :=
  ∀ s : State, Quiet s →
    ∃ t, exec .rett s = .next t ∧ TrapTaken s t 2 (operandInfo 1 (decide (0 < (coreAt s s.me).seq.repK)) 0xA4000000)

/-! ### Loads, stores and atomics -/

namespace Sys2Proof.Claims

/-- R116: G a + SignExtend(off11)·n. -/
def address (s : State) (a : BitVec 5) (o : BitVec 11) (n : Nat) : Nat := (gr s a + BitVec.ofInt 64 (o.toInt * n)).toNat

/-- R116: bits [63:56] are all equal, and the access is aligned and not in the copy aperture (R182). -/
def Plain (va n : Nat) : Prop :=
  (va / 2 ^ 56 = 0 ∨ va / 2 ^ 56 = 255) ∧ (va < 0xFFFFFFFFFFFFF000 ∨ 0xFFFFFFFFFFFFF000 + 512 ≤ va) ∧ va % n = 0

/-- R35, R116: the accesses of the sequencer, with their address, size, and ACC code (R222). -/
def accesses (s : State) (d a b : BitVec 5) (c : BitVec 3) (z : BitVec 2) (o : BitVec 11) (r : BitVec 1) :
    List (Instr × Nat × Nat × Nat) :=
  let n := 2 ^ z.toNat
  let x := (gr s a).toNat
  [(.ld d a c z o, address s a o n, n, 0), (.ldu d a c z o, address s a o n, n, 0), (.st d a c z o, address s a o n, n, 1),
   (.amoAdd d a b c z r, x, n, 5), (.amoAnd d a b c z r, x, n, 5), (.amoOr d a b c z r, x, n, 5), (.amoXor d a b c z r, x, n, 5),
   (.amoMin d a b c z r, x, n, 5), (.amoMax d a b c z r, x, n, 5), (.amoMinu d a b c z r, x, n, 5), (.amoMaxu d a b c z r, x, n, 5),
   (.amoSwap d a b c z r, x, n, 5), (.amoCas d a b c z, x, n, 5), (.amoIncw d a b c z r, x, n, 5), (.amoFaddb d a b c z, x, n, 5),
   (.amoFaddF32 d a b c r, x, 4, 5), (.amoFaddBf16 d a b c r 0, x, 2, 5), (.amoFaddBf16 d a b c r 1, x, 2, 5)]

/-- R49, R281: the atomics by their function number, with their size and whether they return the old value. -/
def atomics (d a b : BitVec 5) (c : BitVec 3) (z : BitVec 2) (r sr : BitVec 1) : List (Instr × Nat × Nat × Bool × Bool) :=
  let n := 2 ^ z.toNat
  [(.amoAdd d a b c z r, 0, n, r == 1, false), (.amoAnd d a b c z r, 1, n, r == 1, false), (.amoOr d a b c z r, 2, n, r == 1, false),
   (.amoXor d a b c z r, 3, n, r == 1, false), (.amoMin d a b c z r, 4, n, r == 1, false), (.amoMax d a b c z r, 5, n, r == 1, false),
   (.amoMinu d a b c z r, 6, n, r == 1, false), (.amoMaxu d a b c z r, 7, n, r == 1, false),
   (.amoSwap d a b c z r, 8, n, r == 1, false), (.amoCas d a b c z, 9, n, true, false), (.amoIncw d a b c z r, 10, n, r == 1, false),
   (.amoFaddb d a b c z, 11, n, true, false), (.amoFaddF32 d a b c r, 12, 4, r == 1, false),
   (.amoFaddBf16 d a b c r sr, 13, 2, r == 1, sr == 1)]

/-- R284 to R287: the new value of the integer atomics over the old value, the operand and G d, n bytes wide; none is no
write. -/
def newValue (fn n old v e : Nat) : Option Nat :=
  let signed (x : Nat) : Int := if x < 2 ^ (8 * n - 1) then x else (x : Int) - 2 ^ (8 * n)
  if fn = 0 then some ((old + v) % 2 ^ (8 * n)) else if fn = 1 then some (old &&& v) else if fn = 2 then some (old ||| v)
  else if fn = 3 then some (old ^^^ v) else if fn = 4 then some (if signed v < signed old then v else old)
  else if fn = 5 then some (if signed old < signed v then v else old) else if fn = 6 then some (min old v)
  else if fn = 7 then some (max old v) else if fn = 8 then some v else if fn = 9 then (if old = e then some v else none)
  else if fn = 10 then some (if v ≤ old then 0 else old + 1)
  else if v < old then none else some (min (old + e) v)

/-- The register file of core c with n written into register g; register 0 is never written. -/
def LoadedG (u t : State) (c g : Nat) (v : Dword) : Prop :=
  (∀ r : BitVec 5, readG (coreAt t c) r = if r.toNat = g ∧ r ≠ 0 then v else readG (coreAt u c) r) ∧
  { coreAt t c with seq := { (coreAt t c).seq with g := (coreAt u c).seq.g } } = coreAt u c ∧ OnlyCore u t c

/-- A value of n little-endian bytes, sign-extended or zero-extended to 64 bits (R4, R116). -/
def extended (bs : List Byte) (signed : Bool) : Dword :=
  if signed = true ∧ 2 ^ (8 * bs.length - 1) ≤ bytesNat bs then BitVec.ofInt 64 ((bytesNat bs : Int) - 2 ^ (8 * bs.length))
  else BitVec.ofNat 64 (bytesNat bs)

/-- R247: the byte that a store buffer holds for an address: that of the newest store of its doubleword that wrote it. -/
def heldByte (sb : List StoreEnt) (q : Nat) : Option Byte :=
  (sb.reverse.find? fun e => e.pa == q / 8 * 8 && e.mask.getLsbD (q % 8)).map fun e => e.data.extractLsb' (8 * (q % 8)) 8
/-- The same among the stores before a place in program order. -/
def earlierByte (sb : List StoreEnt) (seq q : Nat) : Option Byte := heldByte (sb.filter fun e => decide (e.seq < seq)) q

/-- A byte of the home copies: HBM, scratchpads and host memory. -/
def byteAt (s : State) (a : Nat) : Byte := memByte s.sys.mem a

end Sys2Proof.Claims

/-- R116: a load of an aligned canonical address outside the aperture that translates completes: it joins the accesses
on their way, after those that must come before it, with its register, size and scope; memory is as before. -/
def Sys2Proof.Claims.LoadsIssue : Prop :=
  ∀ (s u : State) (x : Xl) (d a : BitVec 5) (c : BitVec 3) (z : BitVec 2) (o : BitVec 11),
    Plain (address s a o (2 ^ z.toNat)) (2 ^ z.toNat) → seqTranslate s s.me (address s a o (2 ^ z.toNat)) false = (u, .ok x) →
    ∀ p ∈ [(Instr.ld d a c z o, true), (Instr.ldu d a c z o, false)],
      ∃ t, exec p.1 s = .next t ∧ t.sys = (beforeAccess u s.me (x.pa / 128)).sys ∧
        CoreIs (beforeAccess u s.me (x.pa / 128)) t s.me
          (let k := coreAt (beforeAccess u s.me (x.pa / 128)) s.me
           { k with mem := { k.mem with
              nextSeq := k.mem.nextSeq + 1
              pend := k.mem.pend ++ [.load ⟨d.toNat, x.pa, 2 ^ z.toNat, p.2, c.toNat, x.home, x.nc,
                k.mem.nextSeq⟩] } })

namespace Sys2Proof.Claims

/-- Byte i of a line of data. -/
def lineByte (d : LineData) (i : Nat) : Byte := d.extractLsb' (8 * i) 8

/-- R241, R242, R256, R340, R351: byte i of an access to a line with a single copy: a doorbell reads 0, the counter page its
counters (bits [63:48] are 0), the host window what it holds once every posted store has reached it. -/
def singleByte (s : State) (pa i : Nat) : Byte :=
  if inDoorbell pa = true then 0
  else if inCounters pa = true then BitVec.ofNat 8 (oraCounter s (pa % 4096 + i) % 2 ^ 48 / 256 ^ ((pa % 4096 + i) % 8))
  else if inHost pa = true then byteAt (deliverPosted s) (pa + i)
  else byteAt s (pa + i)

/-- R250, R251: byte i of a coherent line at its home: a dirty byte of the die that owns the line, else the home copy's. -/
def homeByte (s : State) (line i : Nat) : Byte :=
  match dirAt s line with
  | none => byteAt s (128 * line + i)
  | some e =>
    if e.state = .x then
      match l2Find s (ownerOf e.sharers) line with
      | some y => if y.dirty.getLsbD i = true then lineByte y.data i else byteAt s (128 * line + i)
      | none => byteAt s (128 * line + i)
    else byteAt s (128 * line + i)

/-- R247, R259: byte i of a copy: after an acquire only its dirty bytes are good, and the others come from below. -/
def copyByte (data : LineData) (dirty : LineMask) (stale : Bool) (below : Nat → Byte) (i : Nat) : Byte :=
  if stale = true ∧ dirty.getLsbD i = false then below i else lineByte data i

/-- R247, R255: byte i of a line as a die gives it: on its home die at the home slice, elsewhere the die's own copy, or one fetched
from the home; an NC line comes from the home copy without the directory. -/
def dieByte (s : State) (die line : Nat) (nc : Bool) (i : Nat) : Byte :=
  let home := if nc = true then byteAt s (128 * line + i) else homeByte s line i
  if homeDie (128 * line) = die then home
  else
    match l2Find s die line with
    | some y => copyByte y.data y.dirty y.stale (fun j => byteAt s (128 * line + j)) i
    | none => home
/-- R247: the same as a cluster's ways give it, and as a core's L1 gives it. -/
def wayByte (s : State) (g line : Nat) (nc : Bool) (i : Nat) : Byte :=
  match clineFind (waysOf s g) line with
  | some y => copyByte y.data y.dirty y.stale (dieByte s (g / 4) line nc) i
  | none => dieByte s (g / 4) line nc i
def l1Byte (s : State) (c line : Nat) (nc : Bool) (i : Nat) : Byte :=
  match clineFind (coreAt s c).mem.l1 line with
  | some y => copyByte y.data y.dirty y.stale (wayByte s (clusterOf c) line nc) i
  | none => wayByte s (clusterOf c) line nc i

/-- A copy whose bytes are all good. -/
def FreshIn (l : List CLine) (line : Nat) : Prop := ∃ y, clineFind l line = some y ∧ y.stale = false
/-- The copies of a line in some lines have no dirty byte. -/
def CleanIn (l : List CLine) (line : Nat) : Prop := ∀ y, clineFind l line = some y → y.dirty = 0
/-- A copy of a line fits into a die's L2 without another leaving. -/
def Room (s : State) (die line : Nat) : Prop :=
  4 ≤ die ∨ ((l2Of s die).filter fun y => y.line != line && sameL2Set y.line line).length < l2Ways s die line

/-- R251: the home of a line runs, nothing is on its way there, and the line is in U, in S, or in X with one owner. -/
def HomeIdle (s : State) (line : Nat) : Prop :=
  s.sys.msgs = [] ∧ s.sys.setWait = [] ∧ homeStands s line = false ∧
  ∀ e, dirAt s line = some e → e.queue = [] ∧ (e.state = .s ∨ e.state = .x ∧ ∃ o, o < 5 ∧ e.sharers = bit5 o ∧ Room s o line)
/-- Die `die` can read the line at its home: for another die there is a place for the copy, and for its entry. -/
def HomeReads (s : State) (die line : Nat) : Prop :=
  HomeIdle s line ∧ (homeDie (128 * line) ≠ die → Room s die line ∧ (dirAt s line = none → wayFree s line = true))
/-- The die can give the line. -/
def DieServes (s : State) (die line : Nat) (nc : Bool) : Prop :=
  nc = true ∨ (homeDie (128 * line) ≠ die ∧ (l2Find s die line).isSome = true) ∨ HomeReads s die line

/-- A value has returned to core c: register g (never G0) reads v, no access of the core is on its way, its store buffer is as
before, and of the device only the core's L1 and registers and the memory system differ. -/
def Returned (s t : State) (c g : Nat) (v : Dword) : Prop :=
  (∀ r : BitVec 5, readG (coreAt t c) r = if r.toNat = g ∧ r ≠ 0 then v else readG (coreAt s c) r) ∧
  (coreAt t c).mem = { (coreAt s c).mem with pend := [], l1 := (coreAt t c).mem.l1 } ∧
  { coreAt t c with seq := { (coreAt t c).seq with g := (coreAt s c).seq.g }, mem := (coreAt s c).mem } = coreAt s c ∧
  (∀ c', c' ≠ c → coreAt t c' = coreAt s c') ∧ { t with cores := s.cores, sys := s.sys } = s

/-- R235, R259, R261: what an acquire at a scope leaves: of the L1 only lines with a dirty byte, whose other bytes it will read
again; from DIE on of the cluster's ways too, from DEVICE on of the die's NC lines. -/
def Acquired (t : State) (c sc : Nat) : Prop :=
  (∀ y ∈ (coreAt t c).mem.l1, y.dirty ≠ 0 ∧ y.stale = true) ∧
  (3 ≤ sc → ∀ y ∈ waysOf t (clusterOf c), y.dirty ≠ 0 ∧ y.stale = true) ∧
  (4 ≤ sc → ∀ y ∈ l2Of t (dieOf c), y.nc = true → y.dirty ≠ 0 ∧ y.stale = true)

end Sys2Proof.Claims

/-- R11, R116, R247: a plain load that is alone on its way to a line of a cluster memory, or one that no cache keeps, returns:
its register gets, of each byte, what the newest of the core's earlier stores in the buffer holds, else the byte of memory,
sign-extended for LD and zero-extended for LDU; nothing else changes. -/
def Sys2Proof.Claims.LoadReturnsItsValue : Prop :=
  ∀ (s : State) (c : Nat) (l : PendLoad), (coreAt s c).mem.pend = [.load l] → l.sc = 0 → (l.home = 1 ∨ l.home = 3) → l.reg < 32 →
    inDoorbell l.pa = false → inCounters l.pa = false → inHost l.pa = false →
    ∃ t, exec (.loadReturn c 0) s = .next t ∧
      LoadedG (modMem s c fun m => { m with pend := [] }) t c l.reg
        (extended ((List.range l.n).map fun i =>
          (earlierByte (coreAt s c).mem.sb l.seq (l.pa + i)).getD (byteAt s (l.pa + i))) l.signed)

/-- R116, R241, R242, R256, R340, R351: a plain load that is alone on its way to any line with a single copy returns what the
core's earlier stores in the buffer hold, else the single copy's bytes; of a doorbell always 0.  That a load of the host window comes
behind every posted store is the model's choice (log entry 95). -/
def Sys2Proof.Claims.SingleCopyLoadsReturn : Prop :=
  ∀ (s : State) (c : Nat) (l : PendLoad), (coreAt s c).mem.pend = [.load l] → l.sc = 0 → l.home ≠ 0 → l.reg < 32 →
    ∃ t, exec (.loadReturn c 0) s = .next t ∧ (coreAt t c).mem.l1 = (coreAt s c).mem.l1 ∧
      Returned s t c l.reg (extended ((List.range l.n).map fun i =>
        if inDoorbell l.pa = true then 0 else (earlierByte (coreAt s c).mem.sb l.seq (l.pa + i)).getD (singleByte s l.pa i)) l.signed)

/-- R116, R235, R247, R259: a load of a HOME=00 line, plain or at CORE scope, that is alone on its way returns, of each byte,
what the newest of the core's earlier stores in the buffer holds, else the byte of the first level that has it: the L1, the
cluster's ways, the die L2, the home.  A plain hit in the L1 reaches no other level. -/
def Sys2Proof.Claims.CachedLoadsReturn : Prop :=
  ∀ (s : State) (c : Nat) (l : PendLoad), (coreAt s c).mem.pend = [.load l] → l.sc ≤ 1 → l.home = 0 → l.reg < 32 →
    l.pa % 128 + l.n ≤ 128 →
    (FreshIn (coreAt s c).mem.l1 (l.pa / 128) ∨ FreshIn (waysOf s (clusterOf c)) (l.pa / 128) ∨ DieServes s (dieOf c) (l.pa / 128) l.nc) →
    ∃ t, exec (.loadReturn c 0) s = .next t ∧
      Returned s t c l.reg (extended ((List.range l.n).map fun i =>
        (earlierByte (coreAt s c).mem.sb l.seq (l.pa + i)).getD (l1Byte s c (l.pa / 128) l.nc (l.pa % 128 + i))) l.signed) ∧
      (FreshIn (coreAt s c).mem.l1 (l.pa / 128) → t.sys = s.sys) ∧ (l.sc = 1 → Acquired t c 1)

/-- R235, R251, R255, R259, R261: a load with a scope above CORE that is alone on its way, with an empty store buffer and no dirty
byte of its line in the core's own copies, reads where its scope does: CLUSTER the ways, DIE the die L2, DEVICE and SYSTEM the home,
whatever copy its die has; then it acquires.  A line with a single copy is read there. -/
def Sys2Proof.Claims.ScopedLoadsReturn : Prop :=
  ∀ (s : State) (c : Nat) (l : PendLoad), (coreAt s c).mem.pend = [.load l] → (coreAt s c).mem.sb = [] → l.reg < 32 →
    l.pa % 128 + l.n ≤ 128 →
    (l.home ≠ 0 → 1 ≤ l.sc → ∃ t, exec (.loadReturn c 0) s = .next t ∧ Acquired t c l.sc ∧
      Returned s t c l.reg (extended ((List.range l.n).map fun i => singleByte s l.pa i) l.signed)) ∧
    (l.home = 0 → 2 ≤ l.sc → CleanIn (coreAt s c).mem.l1 (l.pa / 128) → CleanIn (waysOf s (clusterOf c)) (l.pa / 128) →
      (∀ y, l2Find s (dieOf c) (l.pa / 128) = some y → y.nc = true → y.dirty = 0) →
      (if l.sc = 2 then FreshIn (waysOf s (clusterOf c)) (l.pa / 128) ∨ DieServes s (dieOf c) (l.pa / 128) l.nc
        else if l.sc = 3 then DieServes s (dieOf c) (l.pa / 128) l.nc else l.nc = true ∨ HomeReads s (dieOf c) (l.pa / 128)) →
      ∃ t, exec (.loadReturn c 0) s = .next t ∧ Acquired t c l.sc ∧
        Returned s t c l.reg (extended ((List.range l.n).map fun i =>
          let j := l.pa % 128 + i
          if l.sc = 2 then wayByte s (clusterOf c) (l.pa / 128) l.nc j
          else if l.sc = 3 then dieByte s (dieOf c) (l.pa / 128) l.nc j
          else if l.nc = true then byteAt s (l.pa + i) else homeByte s (l.pa / 128) j) l.signed))

/-- R116, R247: a plain store that translates completes into the store buffer: each stored byte is what the buffer then
holds for its address, every other byte is held as before, and memory and every other part of the device stay as they
are. -/
def Sys2Proof.Claims.StoresEnterTheBuffer : Prop :=
  ∀ (s u : State) (x : Xl) (src a : BitVec 5) (z : BitVec 2) (o : BitVec 11),
    Plain (address s a o (2 ^ z.toNat)) (2 ^ z.toNat) → seqTranslate s s.me (address s a o (2 ^ z.toNat)) true = (u, .ok x) →
    x.pa % 2 ^ z.toNat = 0 → (inDoorbell x.pa = true → z = 3) → (coreAt u s.me).mem.pend = [] → (coreAt u s.me).mem.sb.length < 16 →
    ∃ t, exec (.st src a 0 z o) s = .next t ∧ OnlyCore u t s.me ∧
      { coreAt t s.me with mem := (coreAt u s.me).mem } = coreAt u s.me ∧
      { (coreAt t s.me).mem with sb := (coreAt u s.me).mem.sb, nextSeq := (coreAt u s.me).mem.nextSeq } = (coreAt u s.me).mem ∧
      (∀ i, i < 2 ^ z.toNat → heldByte (coreAt t s.me).mem.sb (x.pa + i) = some ((gr s src).extractLsb' (8 * i) 8)) ∧
      (∀ q, q < x.pa ∨ x.pa + 2 ^ z.toNat ≤ q → heldByte (coreAt t s.me).mem.sb q = heldByte (coreAt u s.me).mem.sb q)

/-- R116, R259: a store with a scope that translates completes: it joins the accesses on their way, after those that must
come before it, with its address, size, value and scope; memory is as before. -/
def Sys2Proof.Claims.ReleasingStoresIssue : Prop :=
  ∀ (s u : State) (x : Xl) (src a : BitVec 5) (c : BitVec 3) (z : BitVec 2) (o : BitVec 11), c ≠ 0 →
    Plain (address s a o (2 ^ z.toNat)) (2 ^ z.toNat) → seqTranslate s s.me (address s a o (2 ^ z.toNat)) true = (u, .ok x) →
    (inDoorbell x.pa = true → z = 3) →
    ∃ t, exec (.st src a c z o) s = .next t ∧
      CoreIs (beforeAccess u s.me (x.pa / 128)) t s.me
        (let k := coreAt (beforeAccess u s.me (x.pa / 128)) s.me
         { k with mem := { k.mem with
            nextSeq := k.mem.nextSeq + 1
            pend := k.mem.pend ++ [.store ⟨x.pa, 2 ^ z.toNat, (gr s src).toNat % 2 ^ (8 * 2 ^ z.toNat), c.toNat, x.home, x.nc,
              k.mem.nextSeq⟩] } })

/-- R247: the oldest entry of a store buffer that writes a line with a single copy lands: the bytes of its mask get
their values, every other byte of memory is as before, and the entry leaves. -/
def Sys2Proof.Claims.StoreBufferDrainsToMemory : Prop :=
  ∀ (s : State) (c : Nat) (e : StoreEnt) (rest : List StoreEnt), (coreAt s c).mem.sb = e :: rest → (coreAt s c).mem.pend = [] →
    e.home = 1 → inDoorbell e.pa = false → inCounters e.pa = false → inHost e.pa = false →
    ∃ t, exec (.storeBufferDrain c) s = .next t ∧ (coreAt t c).mem.sb = rest ∧
      (∀ i, i < 8 → e.mask.getLsbD i = true → byteAt t (e.pa + i) = e.data.extractLsb' (8 * i) 8) ∧
      (∀ q, (∀ i, i < 8 → e.mask.getLsbD i = true → q ≠ e.pa + i) → byteAt t q = byteAt s q) ∧
      { coreAt t c with mem := (coreAt s c).mem } = coreAt s c ∧ (∀ c', c' ≠ c → coreAt t c' = coreAt s c') ∧
      { t with cores := s.cores, sys := { t.sys with mem := s.sys.mem } } = s

namespace Sys2Proof.Claims

/-- The home copy of a line gets the bytes that a mask names, and every other byte of memory is as before. -/
def HomeGets (s t : State) (line : Nat) (d : LineData) (m : LineMask) : Prop :=
  (∀ i, i < 128 → m.getLsbD i = true → byteAt t (128 * line + i) = d.extractLsb' (8 * i) 8) ∧
  (∀ q, (∀ i, i < 128 → m.getLsbD i = true → q ≠ 128 * line + i) → byteAt t q = byteAt s q)

/-- R249: no die caches the line, or one caches it in S and no request waits for it. -/
def UncachedOrShared (s : State) (line : Nat) : Prop :=
  dirAt s line = none ∨ ∃ e d, d < 5 ∧ dirAt s line = some e ∧ e.state = .s ∧ e.sharers = bit5 d ∧ e.queue = []
/-- R249: one die owns the line in X and no request waits for it. -/
def Owned (s : State) (line : Nat) : Prop :=
  ∃ e o, o < 5 ∧ dirAt s line = some e ∧ e.state = .x ∧ e.sharers = bit5 o ∧ e.queue = []

/-- What a line's write at home leaves: U in the directory, and no copy with its sharers (R251). -/
def Uncached (s t : State) (line : Nat) : Prop :=
  dirAt t line = none ∧ ∀ e, dirAt s line = some e → ∀ d, d < 5 → e.sharers.getLsbD d = true → l2Find t d line = none

/-- The bytes of a line that an access of n bytes at an address writes: byte j of the line is one. -/
def inSpan (pa n j : Nat) : Prop := pa % 128 ≤ j ∧ j < pa % 128 + n

end Sys2Proof.Claims

/-- R235, R247: the oldest entry of a store buffer that writes a HOME=00 line lands in the L1, which fetches the line when it does
not hold it: of the L1's copy the bytes of the mask have their values and are dirty, and the others are as a load would have found
them.  A line that the L1 holds, in a set that is not over-full, is written there and nowhere else. -/
def Sys2Proof.Claims.StoreBufferDrainsToTheL1 : Prop :=
  ∀ (s : State) (c : Nat) (e : StoreEnt) (rest : List StoreEnt), (coreAt s c).mem.sb = e :: rest → (coreAt s c).mem.pend = [] →
    e.home = 0 → e.pa % 8 = 0 →
    (FreshIn (coreAt s c).mem.l1 (e.pa / 128) ∨ FreshIn (waysOf s (clusterOf c)) (e.pa / 128) ∨ DieServes s (dieOf c) (e.pa / 128) e.nc) →
    ∃ t y, exec (.storeBufferDrain c) s = .next t ∧ (coreAt t c).mem.sb = rest ∧
      clineFind (coreAt t c).mem.l1 (e.pa / 128) = some y ∧ y.stale = false ∧ y.nc = e.nc ∧
      (∀ j, j < 128 →
        (inSpan e.pa 8 j ∧ e.mask.getLsbD (j - e.pa % 128) = true →
          lineByte y.data j = e.data.extractLsb' (8 * (j - e.pa % 128)) 8 ∧ y.dirty.getLsbD j = true) ∧
        (¬ (inSpan e.pa 8 j ∧ e.mask.getLsbD (j - e.pa % 128) = true) →
          lineByte y.data j = l1Byte s c (e.pa / 128) e.nc j ∧
          y.dirty.getLsbD j = ((clineFind (coreAt s c).mem.l1 (e.pa / 128)).map (·.dirty.getLsbD j)).getD false)) ∧
      (FreshIn (coreAt s c).mem.l1 (e.pa / 128) →
        ((coreAt s c).mem.l1.filter fun x => x.line % 128 == e.pa / 128 % 128).length ≤ 4 → t.sys = s.sys) ∧
      { coreAt t c with mem := (coreAt s c).mem } = coreAt s c ∧
      (coreAt t c).mem = { (coreAt s c).mem with sb := rest, l1 := (coreAt t c).mem.l1 } ∧
      (∀ c', c' ≠ c → coreAt t c' = coreAt s c') ∧ { t with cores := s.cores, sys := s.sys } = s

/-- R235, R247, R251, R259: a store with a scope that is alone on its way to a HOME=00 line, with nothing of its core or its
caches to write back before it, is performed where its scope writes: CORE and CLUSTER in the cluster's ways, which fetch the line and
hold the bytes dirty; DIE on the line's home die, and DEVICE and SYSTEM, in the home copy, whose sharer is invalidated. -/
def Sys2Proof.Claims.ScopedStoresArePerformed : Prop :=
  ∀ (s : State) (c : Nat) (w : PendStore), (coreAt s c).mem.pend = [.store w] → (coreAt s c).mem.sb = [] → (coreAt s c).mem.l1 = [] →
    waysOf s (clusterOf c) = [] → l2Of s (dieOf c) = [] → s.sys.posted = [] → bellHeld s c = false → w.home = 0 → 1 ≤ w.sc →
    (w.n = 1 ∨ w.n = 2 ∨ w.n = 4 ∨ w.n = 8) → w.pa % w.n = 0 → w.v < 2 ^ (8 * w.n) →
    (w.sc ≤ 2 → 1 ≤ wayAssoc s (clusterOf c) → DieServes s (dieOf c) (w.pa / 128) w.nc →
      ∃ t y, accessWork c s = some t ∧ (coreAt t c).mem.pend = [] ∧ clineFind (waysOf t (clusterOf c)) (w.pa / 128) = some y ∧
        y.stale = false ∧
        ∀ j, j < 128 → (inSpan w.pa w.n j → (lineByte y.data j).toNat = w.v / 256 ^ (j - w.pa % 128) % 256 ∧ y.dirty.getLsbD j = true) ∧
          (¬ inSpan w.pa w.n j → lineByte y.data j = dieByte s (dieOf c) (w.pa / 128) w.nc j ∧ y.dirty.getLsbD j = false)) ∧
    (3 ≤ w.sc → (w.sc = 3 → homeDie w.pa = dieOf c) → s.sys.msgs = [] → s.sys.setWait = [] → homeStands s (w.pa / 128) = false →
      (if w.nc = true then dirAt s (w.pa / 128) = none else UncachedOrShared s (w.pa / 128)) →
      ∃ t, accessWork c s = some t ∧ (coreAt t c).mem.pend = [] ∧ Uncached s t (w.pa / 128) ∧
        (∀ i, i < w.n → (byteAt t (w.pa + i)).toNat = w.v / 256 ^ i % 256) ∧
        (∀ q, q < w.pa ∨ w.pa + w.n ≤ q → byteAt t q = byteAt s q))

/-- R116, R282, R222: an access whose address is not canonical takes the translation fault, cause 6, with NCAN set and
its ACC; one that is canonical, outside the aperture and misaligned takes the alignment fault, cause 5. -/
def Obligations.BadAddressesTrap : Prop :=
  ∀ (s : State) (d a b : BitVec 5) (c : BitVec 3) (z : BitVec 2) (o : BitVec 11) (r : BitVec 1), Quiet s →
    ∀ p ∈ accesses s d a b c z o r,
      let va := p.2.1
      (¬ (va / 2 ^ 56 = 0 ∨ va / 2 ^ 56 = 255) →
        ∃ t, exec p.1 s = .next t ∧ TrapTaken s t 6 (BitVec.ofNat 64 (va % 2 ^ 57 + p.2.2.2 * 2 ^ 57 + 2 ^ 60))) ∧
      ((va / 2 ^ 56 = 0 ∨ va / 2 ^ 56 = 255) → (va < 0xFFFFFFFFFFFFF000 ∨ 0xFFFFFFFFFFFFF000 + 512 ≤ va) → va % p.2.2.1 ≠ 0 →
        ∃ t, exec p.1 s = .next t ∧ TrapTaken s t 5 (BitVec.ofNat 64 (va % 2 ^ 57 + p.2.2.2 * 2 ^ 57)))

namespace Sys2Proof.Claims

/-- R182: a request word whose template the image has and whose reserved bits are 0. -/
def legalRequest (tm : Team) (w : Dword) : Prop :=
  (w.extractLsb' 0 12).toNat < tm.img.templateN ∧ w.extractLsb' 24 8 = 0 ∧ w.extractLsb' 32 6 = 0

/-- R305: no region on the path from a team's region to the root has used up its copies (0 is no limit). -/
def copiesLeft (s : State) (tm : Team) : Prop :=
  ∀ r ∈ regionChain s (regionDepth s) tm.region, ∀ b, regionAt s r = some b → effCopies s r = 0 ∨ b.copyused + 1 ≤ effCopies s r

/-- R182, R305: the request is stored in the channel, with the release `after` that it comes after, and the region of the team
and each of its ancestors is charged one copy (each stands once in a tree's path). -/
def RequestStored (s t : State) (tm : Team) (ch : Nat) (w : Dword) (after : Option Nat) : Prop :=
  (chanAt (coreAt t s.me) ch).queue = (chanAt (coreAt s s.me) ch).queue ++
    [⟨w, teamNumber s s.me, (coreAt s s.me).seq.pc, (coreAt s s.me).ctl.asid.toNat, (coreAt s s.me).ctl.rcptr.toNat, tm.region, after⟩] ∧
  (∀ h, h ≠ ch → chanAt (coreAt t s.me) h = chanAt (coreAt s s.me) h) ∧
  (∀ r, regionAt t r = (regionAt s r).map fun b =>
    { b with copyused := b.copyused + (regionChain s (regionDepth s) tm.region).count r }) ∧
  { coreAt t s.me with mem := { (coreAt t s.me).mem with chans := (coreAt s s.me).mem.chans } } = coreAt s s.me ∧
  (∀ c', c' ≠ s.me → coreAt t c' = coreAt s c') ∧
  { t with cores := s.cores, sched := { t.sched with regions := s.sched.regions } } = s

end Sys2Proof.Claims

/-- R182, R305, R260: ST of an aligned doubleword into the copy aperture whose request word is legal, with a place in its
channel and a copy left to its team, completes: the request joins the queue of the channel that the address names, the region
of the team and its ancestors are charged one copy each, and nothing reaches memory.  An acquire that waits is performed
first; with a scope a release joins the pending accesses, in its place of program order, and the request comes after it. -/
def Sys2Proof.Claims.ApertureRequestIsQueued : Prop :=
  ∀ (s u : State) (tm : Team) (src a : BitVec 5) (c : BitVec 3) (o : BitVec 11) (ch : Nat),
    address s a o 8 = 0xFFFFFFFFFFFFF000 + 8 * ch → ch < 64 → teamOf s s.me = some tm → legalRequest tm (gr s src) →
    chanLoad (chanAt (coreAt s s.me) ch) < 4 → copiesLeft s tm →
    u = (if (coreAt s s.me).mem.pend.any pendAcquire then quiesce s s.me else s) →
    let n := (coreAt u s.me).mem.nextSeq
    let v := if c = 0 then u else modMem u s.me fun m =>
      { m with nextSeq := n + 1, pend := m.pend ++ [.release ⟨c.toNat, n, none⟩] }
    ∃ t, exec (.st src a c 3 o) s = .next t ∧ RequestStored v t tm ch (gr s src) (if c = 0 then none else some n)

/-- R182, R305: while the channel holds four requests, or a region on the path has used up its copies, the bundle of such
a store holds. -/
def Sys2Proof.Claims.ApertureRequestHolds : Prop :=
  ∀ (s : State) (tm : Team) (src a : BitVec 5) (c : BitVec 3) (o : BitVec 11) (ch : Nat) (b : Bundle),
    address s a o 8 = 0xFFFFFFFFFFFFF000 + 8 * ch → ch < 64 → teamOf s s.me = some tm → legalRequest tm (gr s src) →
    b.s = .st src a c 3 o → (4 ≤ chanLoad (chanAt (coreAt s s.me) ch) ∨ ¬ copiesLeft s tm) → holds s b = true

/-- R182, R305, R260: ST of a legal request word into the copy aperture, with fewer than four requests in its channel and no region on the
path that has used up its COPIES, is stored in the channel and charges the team's region and each of its ancestors one request; with
four requests, or a region whose COPIES are used up, the bundle holds. -/
def Obligations.ApertureStoresQueueARequest : Prop := ApertureRequestIsQueued ∧ ApertureRequestHolds

/-- R281, R282: an atomic on an aligned canonical address that translates to memory completes: it joins the accesses on
their way with its operands, of its size; memory is as before. -/
def Sys2Proof.Claims.AtomicsIssue : Prop :=
  ∀ (s u : State) (x : Xl) (d a b : BitVec 5) (c : BitVec 3) (z : BitVec 2) (r sr : BitVec 1),
    ∀ p ∈ atomics d a b c z r sr,
      Plain (gr s a).toNat p.2.2.1 → seqTranslate s s.me (gr s a).toNat true = (u, .ok x) →
      inHost x.pa = false → inDoorbell x.pa = false →
      ∃ t, exec p.1 s = .next t ∧
        CoreIs (beforeAccess u s.me (x.pa / 128)) t s.me
          (let k := coreAt (beforeAccess u s.me (x.pa / 128)) s.me
           { k with mem := { k.mem with
              nextSeq := k.mem.nextSeq + 1
              pend := k.mem.pend ++ [.amo ⟨p.2.1, x.pa, p.2.2.1, (gr s b).toNat % 2 ^ (8 * p.2.2.1), (gr s d).toNat % 2 ^ (8 * p.2.2.1),
                c.toNat, p.2.2.2.1, p.2.2.2.2, d.toNat, x.home, x.nc, k.mem.nextSeq⟩] } })

/-- R282 to R287: an integer atomic that is alone on its way to a line with a single copy, with nothing of the line in
the store buffer, reads, modifies and writes once: its bytes become the new value of its function (CAS and FADDB may
write nothing), every other byte of memory is as before, and with ret = 1 its register gets the old value. -/
def Sys2Proof.Claims.AtomicActsOnce : Prop :=
  ∀ (s : State) (c : Nat) (l : PendAmo), (coreAt s c).mem.pend = [.amo l] → (coreAt s c).mem.sb = [] → l.sc = 0 → l.home = 1 →
    l.fn ≤ 11 → l.reg < 32 → (l.n = 1 ∨ l.n = 2 ∨ l.n = 4 ∨ l.n = 8) → l.v < 2 ^ (8 * l.n) → l.e < 2 ^ (8 * l.n) →
    let old := bytesNat ((List.range l.n).map fun i => byteAt s (l.pa + i))
    ∃ t, exec (.amoAtomic c 0) s = .next t ∧
      (∀ i, i < l.n → (byteAt t (l.pa + i)).toNat = (newValue l.fn l.n old l.v l.e).getD old / 256 ^ i % 256) ∧
      (∀ q, q < l.pa ∨ l.pa + l.n ≤ q → byteAt t q = byteAt s q) ∧
      (∀ r : BitVec 5, readG (coreAt t c) r =
        if l.ret = true ∧ r.toNat = l.reg ∧ r ≠ 0 then BitVec.ofNat 64 old else readG (coreAt s c) r) ∧
      (coreAt t c).mem.pend = [] ∧ (∀ c', c' ≠ c → coreAt t c' = coreAt s c')

/-- R282, R283, R251: an integer atomic that is alone on its way to a HOME=00 line, with an empty store buffer and no dirty byte
of the line in its core's own copies, acts once at the home: every die's copy is invalidated or recalled, the old value is the
home's with the owner's dirty bytes, the new bytes are written there, and every other byte of the line is what it was; the L1 and the
cluster's ways drop the line; with ret = 1 the register gets the old value. -/
def Sys2Proof.Claims.AtomicRecallsTheLine : Prop :=
  ∀ (s : State) (c : Nat) (l : PendAmo), (coreAt s c).mem.pend = [.amo l] → (coreAt s c).mem.sb = [] → l.sc = 0 → l.home = 0 →
    l.fn ≤ 11 → l.reg < 32 → (l.n = 1 ∨ l.n = 2 ∨ l.n = 4 ∨ l.n = 8) → l.pa % l.n = 0 → l.v < 2 ^ (8 * l.n) → l.e < 2 ^ (8 * l.n) →
    CleanIn (coreAt s c).mem.l1 (l.pa / 128) → CleanIn (waysOf s (clusterOf c)) (l.pa / 128) →
    (∀ y, l2Find s (dieOf c) (l.pa / 128) = some y → y.nc = l.nc ∧ (y.nc = true → y.dirty = 0)) →
    (l.nc = false → s.sys.msgs = [] ∧ s.sys.setWait = [] ∧ homeStands s (l.pa / 128) = false ∧
      (UncachedOrShared s (l.pa / 128) ∨ Owned s (l.pa / 128))) →
    let at_ (q : Nat) : Byte := if l.nc = false ∧ q / 128 = l.pa / 128 then homeByte s (l.pa / 128) (q % 128) else byteAt s q
    let old := bytesNat ((List.range l.n).map fun i => at_ (l.pa + i))
    ∃ t, exec (.amoAtomic c 0) s = .next t ∧
      (∀ i, i < l.n → (byteAt t (l.pa + i)).toNat = (newValue l.fn l.n old l.v l.e).getD old / 256 ^ i % 256) ∧
      (∀ q, q < l.pa ∨ l.pa + l.n ≤ q → byteAt t q = at_ q) ∧
      (l.nc = false → Uncached s t (l.pa / 128)) ∧
      clineFind (coreAt t c).mem.l1 (l.pa / 128) = none ∧ clineFind (waysOf t (clusterOf c)) (l.pa / 128) = none ∧
      (∀ r : BitVec 5, readG (coreAt t c) r =
        if l.ret = true ∧ r.toNat = l.reg ∧ r ≠ 0 then BitVec.ofNat 64 old else readG (coreAt s c) r) ∧
      (coreAt t c).mem.pend = [] ∧ (∀ c', c' ≠ c → coreAt t c' = coreAt s c')

/-- R288, R162: the sum of FADD.BF16 with sr = 1, of the generator's bits rnd: what RNE gives when a side is a NaN or an
infinity or the exact sum is 0, else the exact sum rounded by rnd. -/
def Sys2Proof.Claims.stochasticSum (old v rnd : Nat) : Nat :=
  let x := (bf16.value old).add (bf16.value v)
  if bf16.isNaN old = true ∨ bf16.isNaN v = true ∨ bf16.isInf old = true ∨ bf16.isInf v = true ∨ x.m = 0 then (fAdd bf16 .rne old v).1
  else (roundStochastic bf16 (decide (x.m < 0)) x.absNum x.absDen rnd).1

/-- R288, R160, R163, R283: FADD.F32 and FADD.BF16 that are alone on their way, with nothing of the line in the store buffer,
to a page of a cluster memory or one that no cache keeps: their bytes become the sum of the old value and v, rounded to nearest
even, or with sr = 1 by the low bits of the atomic unit's generator (the cluster memory's, else the home slice's), which steps
once then and never else; every other byte of memory is as before, no flag is noted, and with ret = 1 the register gets the
old value. -/
def Sys2Proof.Claims.FloatAtomicsAct : Prop :=
  ∀ (s : State) (c : Nat) (l : PendAmo) (seed : Nat), (coreAt s c).mem.pend = [.amo l] → (coreAt s c).mem.sb = [] → l.sc = 0 →
    ((l.home = 1 ∧ ∃ g, scratchCluster s l.pa = some g ∧ seed = 64 * (g / 4) + 16 + g % 4) ∨
     (l.home = 3 ∧ scratchCluster s l.pa = none ∧ seed = 64 * homeDie l.pa + homeSlice l.pa)) →
    ((l.fn = 12 ∧ l.n = 4) ∨ (l.fn = 13 ∧ l.n = 2)) → l.reg < 32 → l.v < 2 ^ (8 * l.n) →
    let old := bytesNat ((List.range l.n).map fun i => byteAt s (l.pa + i))
    let unit := 20 * (seed / 64) + seed % 64
    let draws := l.fn = 13 ∧ l.sr = true
    let first : Word := BitVec.ofNat 32 ((seed + 1) * 0x9E3779B9)
    let g := genStep (Tab.get first s.sys.agen unit)
    let new := if l.fn = 12 then (fAdd fp32 .rne old l.v).1 else if l.sr = true then stochasticSum old l.v (g.toNat % 65536)
      else (fAdd bf16 .rne old l.v).1
    ∃ t, exec (.amoAtomic c 0) s = .next t ∧
      (∀ i, i < l.n → (byteAt t (l.pa + i)).toNat = new / 256 ^ i % 256) ∧
      (∀ q, q < l.pa ∨ l.pa + l.n ≤ q → byteAt t q = byteAt s q) ∧
      Tab.get first t.sys.agen unit = (if draws then g else Tab.get first s.sys.agen unit) ∧
      (∀ q, q ≠ unit → Tab.look t.sys.agen q = Tab.look s.sys.agen q) ∧
      (∀ r : BitVec 5, readG (coreAt t c) r =
        if l.ret = true ∧ r.toNat = l.reg ∧ r ≠ 0 then BitVec.ofNat 64 old else readG (coreAt s c) r) ∧
      (coreAt t c).mem.pend = [] ∧ (coreAt t c).ctl = (coreAt s c).ctl ∧ (∀ c', c' ≠ c → coreAt t c' = coreAt s c')

namespace Sys2Proof.Claims

/-- Nothing of core c is on its way, no message is, and no request waits for a directory way. -/
def Still (s : State) (c : Nat) : Prop :=
  (coreAt s c).mem.pend = [] ∧ (coreAt s c).mem.sb = [] ∧ s.sys.msgs = [] ∧ s.sys.setWait = [] ∧ s.sys.posted = []

/-- The cache operations: instruction, number, whether it needs write permission, and what it leaves of the L1 (R236,
R279). -/
def cacheTable (a : BitVec 5) (c : BitVec 3) (o : BitVec 11) (line : Nat) : List (Instr × Nat × Bool × (List CLine → List CLine)) :=
  [(.cacheWb a c o, 0, false, fun l => l.map fun y => if y.line = line then { y with dirty := 0 } else y),
   (.cacheInv a c o, 1, true, fun l => (l.filter fun y => !(y.line == line && y.dirty == 0)).map fun y =>
     if y.line = line then { y with stale := true } else y),
   (.cacheWbinv a c o, 2, true, fun l => l.filter fun y => y.line != line),
   (.cacheEvict a c o, 3, false, fun l => l.filter fun y => y.line != line)]

/-- The operand of a cache operation, its line's address, translates to x. -/
def CacheOperand (s u : State) (x : Xl) (a : BitVec 5) (o : BitVec 11) (write : Bool) : Prop :=
  Plain (address s a o 128 / 128 * 128) 1 ∧ seqTranslate s s.me (address s a o 128 / 128 * 128) write = (u, .ok x) ∧
  inDoorbell x.pa = false

end Sys2Proof.Claims

/-- R276, R277, R278, R236, R260: FENCE completes in every state: as a release and then an acquire at its scope, or, while a
push, a JOINW or an RJPOP of an earlier bundle waits, by joining the FENCEs that wait; the oldest of those that can act does so once
nothing is awaited.  A cache operation on a line that translates completes too: it acts on a HOME=00 line at its scope, and on any other
home it only keeps the order. -/
def Sys2Proof.Claims.FenceAndCacheComplete : Prop :=
  (∀ (s : State) (c : BitVec 3),
    (fenceWaits s s.me = false → exec (.fence c) s = .next (acquire (release s s.me c.toNat) s.me c.toNat)) ∧
    (fenceWaits s s.me = true → ∃ t, exec (.fence c) s = .next t ∧
      CoreIs s t s.me { coreAt s s.me with fences := (coreAt s s.me).fences ++ [(c.toNat, (coreAt s s.me).ctl.inh)] })) ∧
  (∀ (s : State) (c : Nat) (before after : List (Nat × Bool)) (f : Nat × Bool), (coreAt s c).fences = before ++ f :: after →
    (∀ x ∈ before, fenceOpen (coreAt s c) x = false) → fenceOpen (coreAt s c) f = true → bellHeld s c = false → isHalted s c = false →
    (fenceWaits s c = true → fenceWork c s = none) ∧
    (fenceWaits s c = false → ∃ u, CoreIs s u c { coreAt s c with fences := before ++ after } ∧
      fenceWork c s = some (acquire (release u c f.1) c f.1))) ∧
  (∀ (s u : State) (x : Xl) (a : BitVec 5) (c : BitVec 3) (o : BitVec 11), ∀ p ∈ cacheTable a c o (x.pa / 128),
      CacheOperand s u x a o p.2.2.1 →
      exec p.1 s = .next (if x.home = 0 then cacheOp u s.me p.2.1 c.toNat (x.pa / 128) else cacheSingle u s.me p.2.1 (x.pa / 128)))

/-- R235, R255, R259, R276: after a FENCE that waits for nothing, in every state, no access and no store of the core is on its way and its L1 holds
nothing; from scope DIE on its cluster's ways hold nothing either; from DEVICE on its die's L2 holds no NC line; after
SYSTEM no posted host store is on its way. -/
def Sys2Proof.Claims.FenceEmptiesItsLevels : Prop :=
  ∀ (s : State) (c : BitVec 3), fenceWaits s s.me = false → ∃ t, exec (.fence c) s = .next t ∧
    (coreAt t s.me).mem.pend = [] ∧ (coreAt t s.me).mem.sb = [] ∧ (coreAt t s.me).mem.l1 = [] ∧
    (3 ≤ c.toNat → waysOf t (clusterOf s.me) = []) ∧
    (4 ≤ c.toNat → ∀ x ∈ l2Of t (dieOf s.me), x.nc = false) ∧ (c = 5 → t.sys.posted = [])

/-- R235, R251, R259: FENCE at DIE or wider writes the dirty bytes of an L1 line of its own die, whose home runs, to the home copy,
and no other byte; a sharer's copy is invalidated, and the line is in U. -/
def Sys2Proof.Claims.FenceWritesHome : Prop :=
  ∀ (s : State) (c : BitVec 3) (x : CLine), fenceWaits s s.me = false → 3 ≤ c.toNat → Still s s.me → (coreAt s s.me).mem.l1 = [x] →
    waysOf s (clusterOf s.me) = [] → l2Of s (dieOf s.me) = [] → x.dirty ≠ 0 → homeDie (128 * x.line) = dieOf s.me → homeStands s x.line = false →
    (if x.nc = true then dirAt s x.line = none else UncachedOrShared s x.line) →
    ∃ t, exec (.fence c) s = .next t ∧ HomeGets s t x.line x.data x.dirty ∧ Uncached s t x.line

/-- R259, R276: a store with a scope that waits is performed by FENCE: its bytes are in memory, and no others changed. -/
def Sys2Proof.Claims.FencePerformsReleases : Prop :=
  ∀ (s : State) (c : BitVec 3) (w : PendStore), fenceWaits s s.me = false → (coreAt s s.me).mem.pend = [.store w] → (coreAt s s.me).mem.sb = [] →
    (coreAt s s.me).mem.l1 = [] → waysOf s (clusterOf s.me) = [] → l2Of s (dieOf s.me) = [] → s.sys.posted = [] →
    w.home = 1 → inDoorbell w.pa = false → inCounters w.pa = false → inHost w.pa = false →
    (w.n = 1 ∨ w.n = 2 ∨ w.n = 4 ∨ w.n = 8) → w.pa % w.n = 0 → w.v < 2 ^ (8 * w.n) →
    ∃ t, exec (.fence c) s = .next t ∧
      (∀ i, i < w.n → (byteAt t (w.pa + i)).toNat = w.v / 256 ^ i % 256) ∧
      (∀ q, q < w.pa ∨ w.pa + w.n ≤ q → byteAt t q = byteAt s q)

/-- R219, R235, R259, R261: an acquire at DEVICE scope with nothing on its way (that of a KWAIT or BWAIT that completes) leaves of the
L1 and of the cluster's ways only lines with a dirty byte, whose other bytes it will read again, and of the die L2 no
clean NC line; memory, the directory and the store buffer stay as they are. -/
def Sys2Proof.Claims.AcquireDropsCleanCopies : Prop :=
  ∀ (s : State) (st k : BitVec 4) (n : BitVec 16) (b : BitVec 10) (ph : BitVec 1),
    ∀ p ∈ [(Instr.kwait st k n, kwaitMet s k n), (Instr.bwait st b ph, bwaitMet s b ph)],
      p.2 = true → (coreAt s s.me).mem.pend = [] →
      ∃ t, exec p.1 s = .next t ∧
        (coreAt t s.me).mem.l1 = ((coreAt s s.me).mem.l1.filter fun y => y.dirty != 0).map (fun y => { y with stale := true }) ∧
        waysOf t (clusterOf s.me) = ((waysOf s (clusterOf s.me)).filter fun y => y.dirty != 0).map (fun y => { y with stale := true }) ∧
        (∀ y ∈ l2Of t (dieOf s.me), y.nc = true → y.dirty ≠ 0 ∧ y.stale = true) ∧
        t.sys.mem = s.sys.mem ∧ t.sys.dir = s.sys.dir ∧ (coreAt t s.me).mem.sb = (coreAt s s.me).mem.sb

/-- R236, R279, R280: with nothing of the core on its way, WB leaves the L1's copy of the line clean, INV drops a clean copy and
keeps of a dirty one the dirty bytes (the others will be read below again), WBINV and EVICT drop it; every other line of the L1 stays, and INV writes no byte of a line of the
core's own die. -/
def Sys2Proof.Claims.CacheOperationsOnTheL1 : Prop :=
  ∀ (s u : State) (x : Xl) (a : BitVec 5) (c : BitVec 3) (o : BitVec 11), ∀ p ∈ cacheTable a c o (x.pa / 128),
    CacheOperand s u x a o p.2.2.1 → x.home = 0 → (coreAt u s.me).mem.pend = [] → (coreAt u s.me).mem.sb = [] →
    ((coreAt u s.me).mem.l1.map (·.line)).Nodup →
    ∃ t, exec p.1 s = .next t ∧ (coreAt t s.me).mem.l1 = p.2.2.2 (coreAt u s.me).mem.l1 ∧
      (p.2.1 = 1 → homeDie (128 * (x.pa / 128)) = dieOf s.me → ∀ q, byteAt t q = byteAt u q)

/-- R236, R251, R279: WB, WBINV and EVICT at DIE or wider write the dirty bytes of an L1 line of the core's own die to the
home copy, and no other byte; a sharer's copy is invalidated, and the line is in U. -/
def Sys2Proof.Claims.CacheOperationsWriteHome : Prop :=
  ∀ (s u : State) (x : Xl) (y : CLine) (a : BitVec 5) (c : BitVec 3) (o : BitVec 11), ∀ p ∈ cacheTable a c o (x.pa / 128),
    p.2.1 ≠ 1 → CacheOperand s u x a o p.2.2.1 → x.home = 0 → 3 ≤ c.toNat → Still u s.me → (coreAt u s.me).mem.l1 = [y] →
    y.line = x.pa / 128 → waysOf u (clusterOf s.me) = [] → y.dirty ≠ 0 → homeDie (128 * y.line) = dieOf s.me →
    homeStands u y.line = false →
    (if y.nc = true then dirAt u y.line = none else UncachedOrShared u y.line) →
    ∃ t, exec p.1 s = .next t ∧ HomeGets u t y.line y.data y.dirty ∧ Uncached u t y.line

/-- R236, R250, R251: at DEVICE or wider, WB, WBINV and EVICT of a line of another die that the core's die owns send WbX: the
dirty bytes are in the home copy, and no other byte changed; the die's L2 holds no copy, and the line is in U. -/
def Sys2Proof.Claims.CacheOperationsGiveUpOwnership : Prop :=
  ∀ (s u : State) (x : Xl) (y : L2Line) (e : DirEntry) (a : BitVec 5) (c : BitVec 3) (o : BitVec 11),
    ∀ p ∈ cacheTable a c o (x.pa / 128), p.2.1 ≠ 1 → CacheOperand s u x a o p.2.2.1 → x.home = 0 → 4 ≤ c.toNat → s.me < 64 →
      Still u s.me → homeStands u (x.pa / 128) = false → homeDie (128 * (x.pa / 128)) ≠ dieOf s.me → clineFind (coreAt u s.me).mem.l1 (x.pa / 128) = none →
      clineFind (waysOf u (clusterOf s.me)) (x.pa / 128) = none → l2Find u (dieOf s.me) (x.pa / 128) = some y →
      y.nc = false → y.excl = true → y.dirty ≠ 0 → dirAt u (x.pa / 128) = some e → e.state = .x → e.sharers = bit5 (dieOf s.me) →
      e.queue = [] →
      ∃ t, exec p.1 s = .next t ∧ HomeGets u t (x.pa / 128) y.data y.dirty ∧ l2Find t (dieOf s.me) (x.pa / 128) = none ∧
        dirAt t (x.pa / 128) = none

namespace Sys2Proof.Claims

/-- R212: only the full bits of the lines that `p` names are cleared, and the steps that the core's loaders have fetched
ahead are given up; nothing else changed. -/
def FullBitsCleared (u t : State) (c : Nat) (p : Nat → Prop) : Prop :=
  (∀ q, (p q → Tab.get false t.sys.full q = false) ∧ (¬ p q → Tab.get false t.sys.full q = Tab.get false u.sys.full q)) ∧
  (∀ c', (c' ∈ positions (coreAt u c) c → ∀ e, (loaderAt (coreAt t c').edge e).fetched = []) ∧
    { coreAt t c' with edge := { (coreAt t c').edge with loaders := (coreAt u c').edge.loaders } } = coreAt u c' ∧
    (c' ∉ positions (coreAt u c) c → coreAt t c' = coreAt u c')) ∧
  { t with cores := u.cores, sys := { t.sys with full := u.sys.full } } = u

end Sys2Proof.Claims

/-- R212, R260: SPCLR of n = 0 lines does nothing; of up to 65,536 aligned lines whose pages all translate into scratchpads it
clears their full bits and no other, after an acquire that has issued; within one page those are the n lines from the translated address on. -/
def Sys2Proof.Claims.SpclrClearsFullBits : Prop :=
  (∀ (s : State) (a b : BitVec 5), gr s b = 0 → exec (.spclr a b) s = .next s) ∧
  (∀ (s u : State) (a b : BitVec 5) (l : List Nat), gr s b ≠ 0 → (gr s b).toNat ≤ 65536 → (gr s a).toNat % 128 = 0 →
    clearPages s (.spclr a b) (gr s a).toNat ((gr s a).toNat + 128 * (gr s b).toNat - 1) ((gr s b).toNat / 32 + 2) = (u, .ok l) →
    ∃ t, exec (.spclr a b) s = .next t ∧ FullBitsCleared (afterAcquires u s.me) t s.me (· ∈ l)) ∧
  (∀ (s u : State) (x : Xl) (a b : BitVec 5), gr s b ≠ 0 → (gr s a).toNat % 128 = 0 →
    (gr s a).toNat % 4096 + 128 * (gr s b).toNat ≤ 4096 → (gr s a).toNat < 0xFFFFFFFFFFFFF000 →
    seqTranslate s s.me (gr s a).toNat true = (u, .ok x) → x.home = 1 →
    ∃ t, exec (.spclr a b) s = .next t ∧ FullBitsCleared (afterAcquires u s.me) t s.me fun q => x.pa / 128 ≤ q ∧ q < x.pa / 128 + (gr s b).toNat)


/-! ### Scalar arithmetic, control flow and memory, put together -/

/-- R106, R107, R108, R40: every ALU function completes in every state: those of latency 1, CLZ and POPC write G d and
change nothing else, the multiplies and divisions leave their result pending for 3 or 18 cycles. -/
def Obligations.AluResults : Prop := AluWritesItsValue ∧ AluCountsBits ∧ AluSlowResults

/-- R113, R114, R115, R60: taken branches to a bundle jump there, untaken ones do nothing, and a taken branch to an index
without a bundle takes the illegal-operand trap. -/
def Obligations.Branches : Prop := TakenBranchesJump ∧ UntakenBranchesDoNothing ∧ BranchOutsideMemoryTraps

/-- R126, R227, R60: RETT in a handler resumes the program at TRAPPC; outside a handler it is an illegal operand. -/
def Obligations.ReturnsFromTraps : Prop := ReturnResumesTheProgram ∧ ReturnOutsideAHandlerTraps

/-- R116, R11, R235, R247, R256, R259: a load issues without touching memory, and its return writes the extended bytes into its
register: those of the core's earlier stores, else of the single copy, or of the L1, the ways, the die L2 or the home, by its
scope. -/
def Obligations.Loads : Prop := LoadsIssue ∧ LoadReturnsItsValue ∧ SingleCopyLoadsReturn ∧ CachedLoadsReturn ∧ ScopedLoadsReturn

/-- R116, R235, R247, R259: a plain store enters the buffer byte by byte, one with a scope waits as a release; a draining entry
writes exactly the bytes of its mask, into a single copy or the L1, and a store with a scope is performed where its scope writes. -/
def Obligations.Stores : Prop :=
  StoresEnterTheBuffer ∧ ReleasingStoresIssue ∧ StoreBufferDrainsToMemory ∧ StoreBufferDrainsToTheL1 ∧ ScopedStoresArePerformed

/-- R281 to R288: an atomic issues with its operands, and acts once at its single copy, or at the home of a line whose copies it
recalls; the floating-point sums round to
nearest even, or by the unit's generator. -/
def Obligations.Atomics : Prop := AtomicsIssue ∧ AtomicActsOnce ∧ AtomicRecallsTheLine ∧ FloatAtomicsAct

/-- R276, R278, R279, R235, R236, R212: FENCE, the cache operations and SPCLR complete, and what they do to the store buffer,
the L1, the cluster's ways, the die L2, the home copy, the directory and the full bits. -/
def Obligations.FencesCacheAndFullBits : Prop :=
  FenceAndCacheComplete ∧ FenceEmptiesItsLevels ∧ FenceWritesHome ∧ FencePerformsReleases ∧ AcquireDropsCleanCopies ∧
  CacheOperationsOnTheL1 ∧ CacheOperationsWriteHome ∧ CacheOperationsGiveUpOwnership ∧ SpclrClearsFullBits

/-! ### The array -/

namespace Sys2Proof.Claims

/-- The 77 W instructions other than CNOP, by their fields (R43 to R54). -/
def wInstrs (m : BitVec 4) (d a b c r i k : BitVec 5) (n p s : BitVec 1) (t : BitVec 4) (j : BitVec 10) (q r2 : BitVec 2) : List Instr :=
  [.fadd m d a b n t p, .fsub m d a b n t p, .fmul m d a b n t p, .ffma m d a b n t p, .ffms m d a b n t p,
   .fmin m d a b n t p, .fmax m d a b n t p, .fabs m d a n t p, .fneg m d a n t p, .fcmp m c a b n t p, .sel m d a b n,
   .iadd m d a b n t p, .isub m d a b n t p, .imul m d a b n t p, .imac m d a b n t p, .qmul m d a b n t p,
   .qmac m d a b n t p, .wAnd m d a b n t p, .wOr m d a b n t p, .wXor m d a b n t p, .wShl m d a b n t p, .wShr m d a b n t p,
   .wSar m d a b n t p, .icmp m c a b n t p, .imin m d a b n t p, .imax m d a b n t p, .fdiv m d a b n t p, .fsqrt m d a n t p,
   .frcp m d a n t p, .frsq m d a n t p, .fexp2 m d a n t p, .flog2 m d a n t p, .mov m d a p, .movx m d a p, .movi m d j t p,
   .cvt m d a b n t p, .cvtsr m d a b n t p, .srand m a, .lane m d a r p, .cpass m d a p, .cinj m a b,
   .cscanAdd m (d.setWidth 3) a b n t p, .cscanMax m (d.setWidth 3) a b n t p, .cscanMin m (d.setWidth 3) a b n t p,
   .cscanOr m (d.setWidth 3) a b n t p, .cwr m a, .crd m d a p, .cld m d s q i p, .cst m d s q i p, .caaddAdd m q j,
   .caaddSet m q j, .cflag m d, .psetOnes m, .psetZero m, .psetInv m, .psetLoad m a, .psetSave m b, .psetAndl m a,
   .psetOrl m a, .cxfRead m d p, .cxfClear m k p, .cxfReadclr m d k p, .cstatRead m d, .cstatClear m q, .cstatReadclr m d q,
   .cstatTest m q, .mzero m r2, .mpush m d a, .mshift m a, .macc m s r2 a b n t p, .maccs m s r2 a b n t p, .mdrain m s r2 a q,
   .mtrOut m s r2 a q, .mtrIn m r2 a q]

/-- An unchained core whose window is one cell, of row r and column c, with no loader bound. -/
def OneCell (s : State) (r c : Nat) : Prop :=
  (coreAt s s.me).chain = [] ∧ (∃ o, (coreAt s s.me).arr.win = ⟨r, c, 1, 1, o⟩) ∧ r < 32 ∧ c < 32 ∧
  (∀ e, (loaderAt (coreAt s s.me).edge e).bind = none) ∧
  ∀ w ∈ (coreAt s s.me).arr.waves, w.tag < (coreAt s s.me).arr.nextTag

/-- Four special-function instructions are already on their way within 14 cycles (R16). -/
def SfFull (s : State) : Prop := 4 ≤ ((coreAt s s.me).arr.sfIssued.filter fun t => (coreAt s s.me).arr.acyc < t + 14).length

/-- What an instruction of selector m that issues now brings to the one cell of the window: missing neighbours read 0 (R20). -/
def broughtTo (s : State) (m : BitVec 4) (r c : Nat) : CellIn :=
  let k := coreAt s s.me
  { sel := (readM k m).rows.getLsbD r && (readM k m).cols.getLsbD c, row := r, col := c, frm := k.ctl.frm, trapen := k.ctl.trapen
    imx := k.seq.imx, nbr := fun _ => FReg.zero, now := k.arr.acyc, tag := k.arr.nextTag, bundle := k.seq.pc, limit := k.storeQuota }

/-- One issue cycle later: the array's cycle counter has stepped. -/
def cycleLater (s : State) : State := modArr s s.me fun a => { a with acyc := a.acyc + 1 }

/-- A cell of the issuing core. -/
def cell (s : State) (key : Nat) : CellSt := cellAt (coreAt s s.me).arr key

/-! A selected cell's operands, its lanes, and what an element-by-element operation leaves (R15, R83 to R85). -/

def operandIs (x : CellIn) (k : CellSt) (a : BitVec 5) : FReg :=
  if a.toNat < 24 then readF k a.toNat else if a = 24 then k.c else x.nbr (a.toNat - 28)
def dest (k : CellSt) (d : BitVec 5) : FReg := if d = 24 then k.c else readF k d.toNat
/-- The slice whose P bit and XF entry belong to element e of width w. -/
def sliceOf (w e : Nat) : Nat := if w = 32 then 2 * e else if w = 16 then e else e / 2
/-- The slice j is updated: p = 0, or P[j] = 1. -/
def Chosen (k : CellSt) (p : BitVec 1) (j : Nat) : Bool := p == 0 || k.p.getLsbD j
/-- The flags that the chosen elements give entry j of XF. -/
def entryFlags (k : CellSt) (p : BitVec 1) (n w : Nat) (f : Nat → Nat × Flags5) (j : Nat) : Flags5 :=
  (List.range n).foldl (fun (g : Flags5) e => if Chosen k p (sliceOf w e) && sliceOf w e == j then g ||| (f e).2 else g) 0
/-- The flags of all chosen elements. -/
def allFlags (k : CellSt) (p : BitVec 1) (n w : Nat) (f : Nat → Nat × Flags5) : Flags5 :=
  (List.range n).foldl (fun (g : Flags5) e => if Chosen k p (sliceOf w e) then g ||| (f e).2 else g) 0
/-- R89, R84, R222: the deferred FP fault of an instruction whose chosen lanes raise g: with nf = 0 and an enabled flag it is one
of KIND 3 with those flags and the cell's place, else there is none. -/
def fpFaults (trapen : BitVec 7) (row col : Nat) (nf : BitVec 1) (g : Flags5) : List (Nat × Dword) :=
  let e := g &&& trapen.setWidth 5
  if nf = 0 ∧ e ≠ 0 then [(0x11, BitVec.ofNat 64 (3 + 8 * e.toNat + row * 2 ^ 8 + col * 2 ^ 16))] else []
/-- Only the destination and XF of the cell changed. -/
def OnlyReg (k o : CellSt) (d : BitVec 5) : Prop :=
  (∀ n, n ≠ d.toNat ∨ d = 24 → readF o n = readF k n) ∧ (d ≠ 24 → o.c = k.c) ∧ { o with f := k.f, c := k.c, xf := k.xf } = k
/-- The same, and the destination keeps its sidecar. -/
def OnlyDest (k : CellSt) (o : CellOut) (d : BitVec 5) : Prop := (dest o.cell d).side = (dest k d).side ∧ OnlyReg k o.cell d
/-- The first n elements of the destination are written by f where their lanes are chosen, the others stay; the flags
join XF unless nf = 1, and the flags whose enable is set are the deferred FP fault (R89). -/
def Elementwise (x : CellIn) (k : CellSt) (o : CellOut) (d : BitVec 5) (nf : BitVec 1) (n w : Nat) (p : BitVec 1)
    (f : Nat → Nat × Flags5) : Prop :=
  OnlyDest k o d ∧
  (∀ e, e < 512 / w → elem w (dest o.cell d).data e =
    if e < n ∧ Chosen k p (sliceOf w e) = true then (f e).1 % 2 ^ w else elem w (dest k d).data e) ∧
  (∀ j, j < 32 → xfAt o.cell.xf j = if nf = 0 then xfAt k.xf j ||| entryFlags k p n w f j else xfAt k.xf j) ∧
  o.faults = fpFaults x.trapen x.row x.col nf (allFlags k p n w f)

/-- R89: the arithmetic members over elements u of a, v of b and o of d. -/
def floatTable (m : BitVec 4) (d a b : BitVec 5) (n : BitVec 1) (t : BitVec 4) (p : BitVec 1) (f : Fmt) (r : RMode) (u v o : Nat) :
    List (Instr × (Nat × Flags5)) :=
  [(.fadd m d a b n t p, fAdd f r u v), (.fsub m d a b n t p, fSub f r u v), (.fmul m d a b n t p, fMul f r u v),
   (.ffma m d a b n t p, fFma f r false u v o), (.ffms m d a b n t p, fFma f r true u v o), (.fmin m d a b n t p, fMin f u v),
   (.fmax m d a b n t p, fMax f u v), (.fabs m d a n t p, (u % 2 ^ (f.bits - 1), 0)),
   (.fneg m d a n t p, ((u + 2 ^ (f.bits - 1)) % 2 ^ f.bits, 0))]

/-- R93: Sat(x) with the OF that it raises. -/
def satIs (w : Nat) (x : Int) : Nat × Flags5 :=
  if 2 ^ (w - 1) - 1 < x then (2 ^ (w - 1) - 1, 4) else if x < -2 ^ (w - 1) then (2 ^ (w - 1), 4) else ((x % 2 ^ w).toNat, 0)
/-- An element as a signed number. -/
def signedOf (w u : Nat) : Int := if u < 2 ^ (w - 1) then u else (u : Int) - 2 ^ w

/-- R92, R93: the integer and fixed-point members; q says that ty is a Q type. -/
def intTable (m : BitVec 4) (d a b : BitVec 5) (n : BitVec 1) (t : BitVec 4) (p : BitVec 1) (w : Nat) (q : Bool) (u v o : Nat) :
    List (Instr × (Nat × Flags5)) :=
  let x := signedOf w u
  let y := signedOf w v
  [(.iadd m d a b n t p, if q then satIs w (x + y) else ((u + v) % 2 ^ w, 0)),
   (.isub m d a b n t p, if q then satIs w (x - y) else (((u : Int) - v) % 2 ^ w |>.toNat, 0)),
   (.imul m d a b n t p, (u * v % 2 ^ w, 0)), (.imac m d a b n t p, ((o + u * v) % 2 ^ w, 0)),
   (.qmul m d a b n t p, satIs w ((2 * (x * y) + 2 ^ (w - 1)) / 2 ^ w)),
   (.qmac m d a b n t p, satIs w (signedOf w o + (2 * (x * y) + 2 ^ (w - 1)) / 2 ^ w)),
   (.wAnd m d a b n t p, (u &&& v, 0)), (.wOr m d a b n t p, (u ||| v, 0)), (.wXor m d a b n t p, (u ^^^ v, 0)),
   (.wShl m d a b n t p, (if w ≤ v then 0 else u * 2 ^ v % 2 ^ w, 0)), (.wShr m d a b n t p, (if w ≤ v then 0 else u / 2 ^ v, 0)),
   (.wSar m d a b n t p, ((x / 2 ^ min v w) % 2 ^ w |>.toNat, 0)),
   (.imin m d a b n t p, (if y < x then v else u, 0)), (.imax m d a b n t p, (if x < y then v else u, 0))]

/-- R94: the conditions of ICMP over two elements of width w. -/
def icmpHolds (c : BitVec 5) (w u v : Nat) : Prop :=
  let x := signedOf w u
  let y := signedOf w v
  (c = 0 ∧ x = y) ∨ (c = 1 ∧ x < y) ∨ (c = 2 ∧ x ≤ y) ∨ (c = 3 ∧ y < x) ∨ (c = 4 ∧ y ≤ x) ∨ (c = 5 ∧ x ≠ y) ∨
  (c = 6 ∧ u < v) ∨ (c = 7 ∧ u ≤ v) ∨ (c = 8 ∧ v < u) ∨ (c = 9 ∧ v ≤ u)

/-- R90, R94: a compare of width w leaves in P[j] its lane's result where the lane is chosen, for two 8-bit elements their
conjunction, and the old bit elsewhere. -/
def ComparesInto (k : CellSt) (p : BitVec 1) (w : Nat) (holds : Nat → Prop) (new : Word) : Prop :=
  ∀ j, j < 32 →
    let lane := if w = 32 then j / 2 * 2 else j
    (Chosen k p lane = false → new.getLsbD j = k.p.getLsbD j) ∧
    (Chosen k p lane = true →
      (new.getLsbD j = true ↔ if w = 32 then holds (j / 2) else if w = 16 then holds j else holds (2 * j) ∧ holds (2 * j + 1)))

/-- R96: WriteSlices: the chosen slices of v, and its sidecar when p = 0. -/
def SlicesWritten (k : CellSt) (o : CellSt) (d : BitVec 5) (v : FReg) (p : BitVec 1) : Prop :=
  (∀ j, j < 32 → elem 16 (dest o d).data j = if Chosen k p j = true then elem 16 v.data j else elem 16 (dest k d).data j) ∧
  (dest o d).side = if p = 0 then v.side else (dest k d).side

/-- R165 to R169: the six special functions over elements u of a and v of b; whether low operands set NPIV. -/
def sfTable (m : BitVec 4) (d a b : BitVec 5) (n : BitVec 1) (t : BitVec 4) (p : BitVec 1) (f : Fmt) (r : RMode) (frm : BitVec 2) (u v : Nat) :
    List (Instr × (Nat × Flags5) × Bool) :=
  [(.fdiv m d a b n t p, fDiv f r u v, false), (.fsqrt m d a n t p, fSqrt f r u, true), (.frcp m d a n t p, fRcp f r u, false),
   (.frsq m d a n t p, fRsq f r (Config.sfOther 0 u frm) u, true), (.fexp2 m d a n t p, fExp2 f r (Config.sfOther 1 u frm) u, false),
   (.flog2 m d a n t p, fLog2 f r (Config.sfOther 2 u frm) u, false)]

/-- R97: the scans over an element u of the neighbour's C and v of F b. -/
def scanTable (m : BitVec 4) (d : BitVec 3) (a b : BitVec 5) (n : BitVec 1) (t : BitVec 4) (p : BitVec 1) (f : Fmt) (r : RMode) (w u v : Nat) :
    List (Instr × (Nat × Flags5)) :=
  let flt : Bool := t.toNat ≤ 5
  let sum : Nat × Flags5 := if 9 ≤ t.toNat then satIs w (signedOf w u + signedOf w v) else ((u + v) % 2 ^ w, 0)
  [(.cscanAdd m d a b n t p, if flt then fAdd f r u v else sum),
   (.cscanMax m d a b n t p, if flt then fMax f u v else (if signedOf w u < signedOf w v then v else u, 0)),
   (.cscanMin m d a b n t p, if flt then fMin f u v else (if signedOf w v < signedOf w u then v else u, 0)),
   (.cscanOr m d a b n t p, (u ||| v, 0))]

/-- A byte of a cell's store. -/
def storeAt (k : CellSt) (a : Nat) : Byte := Tab.get 0 k.store a
def addrAt (k : CellSt) (n : BitVec 2) : Nat := (Tab.get 0 k.a n.toNat).toNat
/-- The access of R99 passes its check. -/
def InStore (x : CellIn) (k : CellSt) (s : BitVec 1) (n : BitVec 2) : Prop :=
  addrAt k n + (if s = 1 then 128 else 64) ≤ x.limit ∧ (s = 1 → addrAt k n / 64 % 2 = 0)

end Sys2Proof.Claims

/-- R18, R21, R22, R20: in a window of one cell each of the 77 W instructions completes in every state in which its loaders
and special-function places hold nothing back: its wave reaches the cell in its own issue cycle (which is over in the
next), and there the cell is what cellRun gives, every other cell is as before, and the issuing core's general
registers and the memory are as before. -/
def Sys2Proof.Claims.WInstructionsReachTheirCell : Prop :=
  ∀ (s : State) (row col : Nat) (m : BitVec 4) (d a b c r i k : BitVec 5) (n p z : BitVec 1) (t : BitVec 4) (j : BitVec 10) (q r2 : BitVec 2),
    OneCell s row col → ¬ SfFull s → (∀ x ∈ (coreAt s s.me).arr.due, (coreAt s s.me).arr.acyc < x.1) →
    ∀ w ∈ wInstrs m d a b c r i k n p z t j q r2,
      ∃ u v, exec w s = .next u ∧
        exec (.wavefrontReach s.me (coreAt s s.me).arr.nextTag) (cycleLater u) = .next v ∧
        cell v (32 * row + col) = (cellRun w (broughtTo s m row col) (cell s (32 * row + col))).cell ∧
        (∀ key, key ≠ 32 * row + col → cell v key = cell s key) ∧
        (coreAt v s.me).seq.g = (coreAt s s.me).seq.g ∧ v.sys = s.sys

/-- R16, R139, R140: an instruction that a loader or the special-function limit holds back changes nothing; a feed whose
step is not presented holds, and so do sixteen unwritten drain steps. -/
def Sys2Proof.Claims.HeldInstructionsWait : Prop :=
  ∀ (s : State) (m : BitVec 4) (d a b c r i k : BitVec 5) (n p z : BitVec 1) (t : BitVec 4) (j : BitVec 10) (q r2 : BitVec 2),
    (coreAt s s.me).chain = [] →
    (∀ w ∈ wInstrs m d a b c r i k n p z t j q r2, ∀ e, e < 4 → ∀ l, (loaderAt (coreAt s s.me).edge e).bind = some l → 0 < l.left →
      ((l.drain = false ∧ (loaderAt (coreAt s s.me).edge e).fetched = []) ∨
       (l.drain = true ∧ 16 ≤ (loaderAt (coreAt s s.me).edge e).caps.length)) → exec w s = .next s) ∧
    (SfFull s → ∀ w ∈ [Instr.fdiv m d a b n t p, .fsqrt m d a n t p, .frcp m d a n t p, .frsq m d a n t p, .fexp2 m d a n t p,
      .flog2 m d a n t p], exec w s = .next s)

/-- R22: an unselected cell does nothing, but that the chain instructions move the neighbour's C into it, data and
sidecar. -/
def Sys2Proof.Claims.UnselectedCellsForward : Prop :=
  ∀ (x : CellIn) (y : CellSt) (m : BitVec 4) (d a b c r i k : BitVec 5) (n p z : BitVec 1) (t : BitVec 4) (j : BitVec 10) (q r2 : BitVec 2),
    x.sel = false → ∀ w ∈ wInstrs m d a b c r i k n p z t j q r2,
      cellRun w x y =
        if w = .cinj m a b then ⟨{ y with c := x.nbr (b.toNat - 28) }, []⟩
        else if w ∈ [.cpass m d a p, .cscanAdd m (d.setWidth 3) a b n t p, .cscanMax m (d.setWidth 3) a b n t p,
            .cscanMin m (d.setWidth 3) a b n t p, .cscanOr m (d.setWidth 3) a b n t p, .mpush m d a, .mshift m a, .mdrain m z r2 a q] then
          ⟨{ y with c := x.nbr (a.toNat - 28) }, []⟩
        else ⟨y, []⟩

/-- R89, R85: the arithmetic floating-point instructions in a selected cell, element by element in every chosen lane. -/
def Sys2Proof.Claims.FloatVectorResults : Prop :=
  ∀ (x : CellIn) (k : CellSt) (m : BitVec 4) (d a b : BitVec 5) (n : BitVec 1) (t : BitVec 4) (p : BitVec 1), x.sel = true → t.toNat ≤ 4 →
    (∀ c, c ∈ [a, b] → c.toNat ≤ 24 ∨ 28 ≤ c.toNat) →
    let w := tyWidth t
    ∀ l, l < 9 → ∃ i f, (∀ e, (floatTable m d a b n t p (fmtOf t) (RMode.ofBits x.frm) (elem w (operandIs x k a).data e)
        (elem w (operandIs x k b).data e) (elem w (dest k d).data e))[l]? = some (i, f e)) ∧
      Elementwise x k (cellRun i x k) d n (512 / w) w p f

/-- R93, R85: the integer, fixed-point, bitwise and shift instructions in a selected cell, element by element. -/
def Sys2Proof.Claims.IntegerVectorResults : Prop :=
  ∀ (x : CellIn) (k : CellSt) (m : BitVec 4) (d a b : BitVec 5) (n : BitVec 1) (t : BitVec 4) (p : BitVec 1), x.sel = true → 6 ≤ t.toNat → t.toNat ≤ 10 →
    (∀ c, c ∈ [a, b] → c.toNat ≤ 24 ∨ 28 ≤ c.toNat) →
    let w := tyWidth t
    ∀ l, l < 14 → ∃ i f, (∀ e, (intTable m d a b n t p w (9 ≤ t.toNat) (elem w (operandIs x k a).data e)
        (elem w (operandIs x k b).data e) (elem w (dest k d).data e))[l]? = some (i, f e)) ∧
      Elementwise x k (cellRun i x k) d n (512 / w) w p f

/-- R90, R94, R89: the compares write only P (and FCMP's flags XF), lane by lane; FCMP's enabled flags are the deferred FP fault. -/
def Sys2Proof.Claims.ComparesWriteP : Prop :=
  ∀ (x : CellIn) (k : CellSt) (m : BitVec 4) (c a b : BitVec 5) (n : BitVec 1) (t : BitVec 4) (p : BitVec 1), x.sel = true →
    (∀ r, r ∈ [a, b] → r.toNat ≤ 24 ∨ 28 ≤ r.toNat) →
    let w := tyWidth t
    let u (e : Nat) : Nat := elem w (operandIs x k a).data e
    let v (e : Nat) : Nat := elem w (operandIs x k b).data e
    (t.toNat ≤ 4 → c.toNat < 8 → ∃ o, cellRun (.fcmp m c a b n t p) x k = o ∧
      ComparesInto k p w (fun e => (fCompare (fmtOf t) c.toNat (u e) (v e)).1 = true) o.cell.p ∧
      (∀ j, j < 32 → xfAt o.cell.xf j = if n = 0 then
        xfAt k.xf j ||| entryFlags k p (512 / w) w (fun e => fCompare (fmtOf t) c.toNat (u e) (v e) |>.2 |> fun g => (0, g)) j else xfAt k.xf j) ∧
      { o.cell with p := k.p, xf := k.xf } = k ∧
      o.faults = fpFaults x.trapen x.row x.col n (allFlags k p (512 / w) w fun e => (0, (fCompare (fmtOf t) c.toNat (u e) (v e)).2))) ∧
    (6 ≤ t.toNat → t.toNat ≤ 10 → c.toNat < 10 → ∃ o, cellRun (.icmp m c a b n t p) x k = o ∧
      ComparesInto k p w (fun e => icmpHolds c w (u e) (v e)) o.cell.p ∧ { o.cell with p := k.p } = k ∧ o.faults = [])

/-- R91, R96, R172 to R174: moves, selections, rotations, immediates and the reads and writes of C in a selected cell. -/
def Sys2Proof.Claims.MovesInACell : Prop :=
  ∀ (x : CellIn) (k : CellSt) (m : BitVec 4) (d a b : BitVec 5) (n p : BitVec 1) (t : BitVec 4) (i : BitVec 10), x.sel = true →
    (a.toNat ≤ 24 ∨ 28 ≤ a.toNat) →
    (∀ w ∈ [Instr.mov m d a p, .crd m d a p], ∃ o, cellRun w x k = ⟨o, []⟩ ∧ SlicesWritten k o d (operandIs x k a) p ∧
      o.xf = k.xf ∧ OnlyReg k o d) ∧
    (a.toNat < 24 → ∃ o, cellRun (.movx m d a p) x k = ⟨o, []⟩ ∧ SlicesWritten k o d (readF k a.toNat) p ∧ o.xf = k.xf ∧ OnlyReg k o d) ∧
    (∃ o, cellRun (.lane m d a b p) x k = o ∧ OnlyDest k o d ∧ ∀ j, j < 32 →
      elem 16 (dest o.cell d).data j = if Chosen k p j = true then elem 16 (operandIs x k a).data ((j + b.toNat) % 32) else elem 16 (dest k d).data j) ∧
    ((b.toNat ≤ 24 ∨ 28 ≤ b.toNat) → ∃ o, cellRun (.sel m d a b n) x k = o ∧ OnlyDest k o d ∧ ∀ j, j < 32 →
      elem 16 (dest o.cell d).data j = elem 16 (operandIs x k (if k.p.getLsbD j = true then a else b)).data j) ∧
    ((t.toNat ≤ 4 ∨ 6 ≤ t.toNat ∧ t.toNat ≤ 10) →
      Elementwise x k (cellRun (.movi m d i t p) x k) d 0 (512 / tyWidth t) (tyWidth t) p
        fun _ => ((match x.imx with | some u => u.toNat * 2 ^ 10 | none => 0) + i.toNat, 0)) ∧
    cellRun (.cwr m a) x k = ⟨{ k with c := readF k a.toNat }, []⟩ ∧
    cellRun (.cinj m a b) x k = ⟨{ k with c := readF k a.toNat }, []⟩ ∧
    (d ≠ 24 → 28 ≤ a.toNat → ∃ o, cellRun (.cpass m d a p) x k = ⟨o, []⟩ ∧ o.c = x.nbr (a.toNat - 28) ∧ SlicesWritten k o d o.c p)

/-- R97, R89: a scan in a selected cell: C becomes the neighbour's C combined with F b in the chosen lanes, and F d gets those
lanes; the flags go to XF, and the enabled ones are the deferred FP fault. -/
def Sys2Proof.Claims.ScansInACell : Prop :=
  ∀ (x : CellIn) (k : CellSt) (m : BitVec 4) (d : BitVec 3) (a b : BitVec 5) (n : BitVec 1) (t : BitVec 4) (p : BitVec 1), x.sel = true →
    28 ≤ a.toNat → (t.toNat ≤ 4 ∨ 6 ≤ t.toNat ∧ t.toNat ≤ 10) →
    let w := tyWidth t
    let nb := x.nbr (a.toNat - 28)
    ∀ l, l < 4 → ∃ i f, (∀ e, (scanTable m d a b n t p (fmtOf t) (RMode.ofBits x.frm) w (elem w nb.data e)
        (elem w (readF k b.toNat).data e))[l]? = some (i, f e)) ∧
      ∃ o, cellRun i x k = o ∧ o.cell.c.side = nb.side ∧
        (∀ e, e < 512 / w → elem w o.cell.c.data e =
          if Chosen k p (sliceOf w e) = true then (f e).1 % 2 ^ w else elem w nb.data e) ∧
        (∀ e, e < 512 / w → elem w (readF o.cell d.toNat).data e =
          if Chosen k p (sliceOf w e) = true then (f e).1 % 2 ^ w else elem w (readF k d.toNat).data e) ∧
        (readF o.cell d.toNat).side = (readF k d.toNat).side ∧ (∀ r, r ≠ d.toNat → readF o.cell r = readF k r) ∧
        (∀ j, j < 32 → xfAt o.cell.xf j = if n = 0 then xfAt k.xf j ||| entryFlags k p (512 / w) w f j else xfAt k.xf j) ∧
        { o.cell with f := k.f, c := k.c, xf := k.xf } = k ∧ o.faults = fpFaults x.trapen x.row x.col n (allFlags k p (512 / w) w f)

/-- R176 to R179: conversions in a selected cell, element by element up to the smaller count; the stochastic one steps the
cell's generator first, and SRAND seeds it from the low word of its source and the cell's coordinates. -/
def Obligations.ConversionsInACell : Prop :=
  ∀ (x : CellIn) (k : CellSt) (m : BitVec 4) (d a b : BitVec 5) (n : BitVec 1) (t : BitVec 4) (p : BitVec 1), x.sel = true →
    (a.toNat ≤ 24 ∨ 28 ≤ a.toNat) →
    let src (e : Nat) : Nat := elem (tyWidth t) (operandIs x k a).data e
    let v := (tyOf b.toNat).width
    ((t.toNat ≤ 4 ∨ 6 ≤ t.toNat ∧ t.toNat ≤ 10) → (b.toNat ≤ 4 ∨ 6 ≤ b.toNat ∧ b.toNat ≤ 10) →
      Elementwise x k (cellRun (.cvt m d a b n t p) x k) d n (min (512 / tyWidth t) (512 / v)) v p
        fun e => convert (tyOf t.toNat) (tyOf b.toNat) (RMode.ofBits x.frm) (src e)) ∧
    (t.toNat ≤ 2 → 1 ≤ b.toNat → b.toNat ≤ 4 →
      (cellRun (.cvtsr m d a b n t p) x k).cell.gen = genStep k.gen ∧
      Elementwise x { k with gen := genStep k.gen } (cellRun (.cvtsr m d a b n t p) x k) d n (min (512 / tyWidth t) (512 / v)) v p
        fun e => convertSR (fmtOf t) (fmtOf (b.setWidth 4)) (genBits (genStep k.gen) e) (src e)) ∧
    cellRun (.srand m a) x k = ⟨{ k with gen := genSeed ((operandIs x k a).data.setWidth 32) x.row x.col }, []⟩

/-- R166, R168: a special-function instruction in a selected cell writes nothing at its reach: one result enters the
cell's pipeline, due 14 issue cycles later, with its elements, lanes and NPIV. -/
def Obligations.SpecialFunctionsEnterThePipeline : Prop :=
  ∀ (x : CellIn) (k : CellSt) (m : BitVec 4) (d a b : BitVec 5) (n : BitVec 1) (t : BitVec 4) (p : BitVec 1), x.sel = true → t.toNat ≤ 2 →
    (∀ c, c ∈ [a, b] → c.toNat < 24) →
    let w := tyWidth t
    let u (e : Nat) : Nat := elem w (operandIs x k a).data e
    ∀ l, l < 6 → ∃ i g piv, (∀ e, (sfTable m d a b n t p (fmtOf t) (RMode.ofBits x.frm) x.frm (u e)
        (elem w (operandIs x k b).data e))[l]? = some (i, g e, piv)) ∧
      ∃ r : SfEntry, cellRun i x k = ⟨{ k with sfq := k.sfq ++ [r] }, []⟩ ∧ r.due = x.now + 14 ∧ r.d = d.toNat ∧ r.nf = (n == 1) ∧
        r.trapen = x.trapen ∧ r.tag = x.tag ∧ r.bundle = x.bundle ∧
        (∀ j, j < 32 → r.lanes.getLsbD j = Chosen k p (if w = 32 then j / 2 * 2 else j)) ∧
        (∀ e, e < 512 / w → Chosen k p (sliceOf w e) = true → elem w r.data e = (g e).1 % 2 ^ w) ∧
        (∀ j, j < 32 → xfAt r.xf j = entryFlags k p (512 / w) w g j) ∧
        (r.npiv = true ↔ piv = true ∧ ∃ e, e < 512 / w ∧ Chosen k p (sliceOf w e) = true ∧
          ((fmtOf t).isZero (u e) = true ∨ (fmtOf t).sign (u e) = true ∧ (fmtOf t).isNaN (u e) = false))

/-- R14, R98 to R100: the cell store: an access outside the partition's bytes, or a 128-byte one at an odd multiple of 64,
changes nothing and raises the data fault; any other moves the bytes of the chosen slices, the sidecar when s = 1, and
steps the address register; CAADD adds or sets in units of 64. -/
def Sys2Proof.Claims.CellStoreMoves : Prop :=
  ∀ (x : CellIn) (k : CellSt) (m : BitVec 4) (d : BitVec 5) (s : BitVec 1) (n : BitVec 2) (i : BitVec 5) (p : BitVec 1) (j : BitVec 10),
    x.sel = true →
    let step (v : Int) : Half := BitVec.ofInt 16 v
    (¬ InStore x k s n → ∀ w ∈ [Instr.cld m d s n i p, .cst m d s n i p],
      cellRun w x k = ⟨k, [(0x10, BitVec.ofNat 64 (x.row * 2 ^ 8 + x.col * 2 ^ 16 + addrAt k n * 2 ^ 32))]⟩) ∧
    (InStore x k s n → (∃ o, cellRun (.cld m d s n i p) x k = ⟨o, []⟩ ∧
        (∀ b, b < 64 → ((dest o d).data.extractLsb' (8 * b) 8) =
          if Chosen k p (b / 2) = true then storeAt k (addrAt k n + b) else (dest k d).data.extractLsb' (8 * b) 8) ∧
        (∀ b, b < 32 → ((dest o d).side.extractLsb' (8 * b) 8) =
          if s = 1 then storeAt k (addrAt k n + 64 + b) else (dest k d).side.extractLsb' (8 * b) 8) ∧
        Tab.get 0 o.a n.toNat = step (addrAt k n + 64 * i.toInt) ∧ o.store = k.store ∧ o.p = k.p ∧ o.xf = k.xf) ∧
      (∃ o, cellRun (.cst m d s n i p) x k = ⟨o, []⟩ ∧
        (∀ b, b < 64 → storeAt o (addrAt k n + b) =
          if Chosen k p (b / 2) = true then (dest k d).data.extractLsb' (8 * b) 8 else storeAt k (addrAt k n + b)) ∧
        (∀ b, b < 32 → storeAt o (addrAt k n + 64 + b) =
          if s = 1 then (dest k d).side.extractLsb' (8 * b) 8 else storeAt k (addrAt k n + 64 + b)) ∧
        (∀ q, q < addrAt k n ∨ addrAt k n + 96 ≤ q → storeAt o q = storeAt k q) ∧
        Tab.get 0 o.a n.toNat = step (addrAt k n + 64 * i.toInt) ∧ o.f = k.f ∧ o.c = k.c ∧ o.p = k.p)) ∧
    (∃ o, cellRun (.caaddAdd m n j) x k = ⟨o, []⟩ ∧ Tab.get 0 o.a n.toNat = step (addrAt k n + 64 * j.toInt) ∧ { o with a := k.a } = k) ∧
    (∃ o, cellRun (.caaddSet m n j) x k = ⟨o, []⟩ ∧ Tab.get 0 o.a n.toNat = step (64 * j.toNat) ∧ { o with a := k.a } = k)

/-- R24, R101 to R104: CFLAG sets the cell's edge output from P; PSET writes P; CXF reads and clears XF entries of the
chosen slices; CSTAT reads, clears and tests SF. -/
def Obligations.FlagsInACell : Prop :=
  ∀ (x : CellIn) (k : CellSt) (m : BitVec 4) (d a c : BitVec 5) (p : BitVec 1) (q : BitVec 2), x.sel = true →
    (a.toNat ≤ 24 ∨ 28 ≤ a.toNat) →
    let low : Word := (operandIs x k a).data.setWidth 32
    let cleared (o : CellSt) : Prop := ∀ j, j < 32 → xfAt o.xf j = if Chosen k p j = true then xfAt k.xf j &&& ~~~c else xfAt k.xf j
    let image (o : CellSt) : Prop := (dest o d).side = (dest k d).side ∧ ∀ j, j < 32 →
      elem 16 (dest o d).data j = if Chosen k p j = true then (xfAt k.xf j).toNat else elem 16 (dest k d).data j
    (∀ y ∈ [(Instr.psetOnes m, BitVec.allOnes 32), (.psetZero m, 0), (.psetInv m, ~~~k.p), (.psetLoad m a, low),
        (.psetAndl m a, k.p &&& low), (.psetOrl m a, k.p ||| low),
        (.cstatTest m q, if k.sf &&& q.setWidth 32 = 0 then 0 else BitVec.allOnes 32)], cellRun y.1 x k = ⟨{ k with p := y.2 }, []⟩) ∧
    (∃ o, cellRun (.psetSave m d) x k = o ∧ OnlyDest k o d ∧ o.cell.xf = k.xf ∧
      ∀ e, e < 16 → elem 32 (dest o.cell d).data e = if e = 0 then k.p.toNat else elem 32 (dest k d).data e) ∧
    cellRun (.cflag m d) x k = ⟨{ k with edgeFlag := if d = 0 then k.p != 0 else k.p == BitVec.allOnes 32 }, []⟩ ∧
    (∃ o, cellRun (.cxfRead m d p) x k = ⟨o, []⟩ ∧ image o ∧ o.xf = k.xf ∧ o.p = k.p) ∧
    (∃ o, cellRun (.cxfClear m c p) x k = ⟨o, []⟩ ∧ cleared o ∧ { o with xf := k.xf } = k) ∧
    (∃ o, cellRun (.cxfReadclr m d c p) x k = ⟨o, []⟩ ∧ image o ∧ cleared o ∧ o.p = k.p) ∧
    (∃ o, cellRun (.cstatRead m d) x k = ⟨o, []⟩ ∧ (dest o d).data = k.sf.setWidth 512 ∧ (dest o d).side = (dest k d).side ∧ o.sf = k.sf) ∧
    cellRun (.cstatClear m q) x k = ⟨{ k with sf := k.sf &&& ~~~(q.setWidth 32) }, []⟩ ∧
    (∃ o, cellRun (.cstatReadclr m d q) x k = ⟨o, []⟩ ∧ (dest o d).data = k.sf.setWidth 512 ∧ o.sf = k.sf &&& ~~~(q.setWidth 32))

namespace Sys2Proof.Claims

/-- Element i = 8r + c of a tray. -/
def trayIs (t : Tab TrayData) (n : BitVec 2) (i : Nat) : Nat := (Tab.get 0 t n.toNat |>.extractLsb' (32 * i) 32).toNat

/-- R158, R189: the products of tray element i: of row r of A and column c of B, k of them (R184). -/
def denseProducts (ty : BitVec 4) (a b : FReg) (i : Nat) : List (MVal × MVal) :=
  let k := 64 / tyWidth ty
  (List.range k).map fun j => (operandVal ty a (k * (i / 8) + j), operandVal ty b (k * (i % 8) + j))

/-- R158: the wrapping INT32 sum of INT8 products. -/
def intSum (t : Nat) (a b : FReg) (i : Nat) : Nat :=
  ((((List.range 8).map fun j =>
    signedOf 8 (elem 8 a.data (8 * (i / 8) + j)) * signedOf 8 (elem 8 b.data (8 * (i % 8) + j))).sum + t) % 2 ^ 32).toNat

/-- R191: the metadata nibble of group g of row r, and whether it is legal. -/
def nibbleOf (a : FReg) (k r g : Nat) : Nat := (a.side.extractLsb' (4 * (r * (k / 2) + g)) 4).toNat
abbrev LegalNibble (n : Nat) : Prop := n % 4 < n / 4
/-- R191, R192: kept element j (0 or 1) of group g stands at this position of the group's row of B. -/
def keptPos (n g j : Nat) : Nat := 4 * g + (if j = 0 then n % 4 else n / 4)
/-- R192: the products of tray element i: two of each legal group of row r of A with what its nibble names of column c of
F b and F (b + 1); an illegal group contributes +0. -/
def sparseProducts (ty : BitVec 4) (a : FReg) (b : Nat → FReg) (i : Nat) : List (MVal × MVal) :=
  let k := 64 / tyWidth ty
  (List.range (k / 2)).flatMap fun g => (List.range 2).map fun j =>
    let n := nibbleOf a k (i / 8) g
    if LegalNibble n then
      (operandVal ty a (k * (i / 8) + 2 * g + j), operandVal ty (b (keptPos n g j / k)) (k * (i % 8) + keptPos n g j % k))
    else (.fin false .zero, .fin false .zero)
/-- The same over INT8 elements. -/
def sparseInt (t : Nat) (a : FReg) (b : Nat → FReg) (i : Nat) : Nat :=
  let kept (g j : Nat) : Int :=
    let n := nibbleOf a 8 (i / 8) g
    if LegalNibble n then
      signedOf 8 (elem 8 a.data (8 * (i / 8) + 2 * g + j)) *
        signedOf 8 (elem 8 (b (keptPos n g j / 8)).data (8 * (i % 8) + keptPos n g j % 8))
    else 0
  ((((List.range 4).map fun g => kept g 0 + kept g 1).sum + t) % 2 ^ 32).toNat

end Sys2Proof.Claims

/-- R186 to R188, R193, R194: the beats that move C, F and tray quarters, in a selected cell. -/
def Obligations.MatrixMovesInACell : Prop :=
  ∀ (x : CellIn) (k : CellSt) (m : BitVec 4) (r q : BitVec 2) (d a : BitVec 5) (z : BitVec 1), x.sel = true →
    let nb := x.nbr (a.toNat - 28)
    let old (i : Nat) : Nat := trayIs k.t r i
    (∃ o, cellRun (.mzero m r) x k = ⟨o, []⟩ ∧ (∀ i, i < 64 → trayIs o.t r i = 0 ∧ trayIs o.tv r i = 0) ∧
      (∀ n, n ≠ r → trayIs o.t n = trayIs k.t n) ∧ { o with t := k.t, tv := k.tv } = k) ∧
    (∃ o, cellRun (.mpush m d a) x k = ⟨o, []⟩ ∧ o.c = nb ∧ readF o d.toNat = nb ∧ (∀ n, n ≠ d.toNat → readF o n = readF k n) ∧
      { o with f := k.f, c := k.c } = k) ∧
    cellRun (.mshift m a) x k = ⟨{ k with c := nb }, []⟩ ∧
    (∃ o, cellRun (.mdrain m z r a q) x k = ⟨o, []⟩ ∧ o.c.side = 0 ∧ (∀ e, e < 16 → elem 32 o.c.data e = old (16 * q.toNat + e)) ∧
      (∀ i, i < 64 → trayIs o.t r i = if z = 1 ∧ i / 16 = q.toNat then 0 else old i) ∧ o.f = k.f ∧ o.xf = k.xf) ∧
    (∃ o, cellRun (.mtrOut m z r a q) x k = ⟨o, []⟩ ∧ (readF o a.toNat).side = 0 ∧
      (∀ e, e < 16 → elem 32 (readF o a.toNat).data e = old (16 * q.toNat + e)) ∧
      (∀ i, i < 64 → trayIs o.t r i = if z = 1 ∧ i / 16 = q.toNat then 0 else old i) ∧ o.c = k.c ∧
      ∀ n, n ≠ a.toNat → readF o n = readF k n) ∧
    (∃ o, cellRun (.mtrIn m r a q) x k = ⟨o, []⟩ ∧
      (∀ i, i < 64 → trayIs o.t r i = if i / 16 = q.toNat then elem 32 (readF k a.toNat).data (i % 16) else old i) ∧
      (∀ n, n ≠ r → trayIs o.t n = trayIs k.t n) ∧ o.c = k.c ∧ o.f = k.f)

/-- R189, R191, R192, R195: MACC and MACCS in a selected cell: the sum enters the adder, due four issue cycles later, and
T itself is as before; the elements that P chooses are the MatrixSum of the tray as the latest earlier instruction leaves
it with the products, all k of them or the kept ones; entry j of the sum's flags has those of its two elements; an illegal
group of MACCS contributes +0 and notes SPM; pass = 1 moves A into C. -/
def Obligations.TraySumsEnterTheAdder : Prop :=
  ∀ (x : CellIn) (k : CellSt) (m : BitVec 4) (s : BitVec 1) (r : BitVec 2) (a b : BitVec 5) (n : BitVec 1) (y : BitVec 4) (p : BitVec 1),
    x.sel = true → (a.toNat ≤ 24 ∨ 28 ≤ a.toNat) →
    let ra := operandIs x k a
    let rb (i : Nat) : FReg := readF k (b.toNat + i)
    ∀ w ∈ [(Instr.macc m s r a b n y p, false), (.maccs m s r a b n y p, true)],
      let products (i : Nat) : List (MVal × MVal) := if w.2 = true then sparseProducts y ra rb i else denseProducts y ra (rb 0) i
      let sum (i : Nat) : Nat × Flags5 :=
        if y = 8 then (if w.2 = true then sparseInt (trayIs k.tv r i) ra rb i else intSum (trayIs k.tv r i) ra (rb 0) i, 0)
        else matrixSum (trayIs k.tv r i) (products i)
      ∃ (o : CellSt) (e : TrayEntry), cellRun w.1 x k = ⟨o, []⟩ ∧ o.tq = k.tq ++ [e] ∧
        o.c = (if s = 1 then ra else k.c) ∧ { o with c := k.c, tv := k.tv, tq := k.tq } = k ∧
        e.due = x.now + 4 ∧ e.tag = x.tag ∧ e.bundle = x.bundle ∧ e.tray = r.toNat ∧ e.nf = (n == 1) ∧ e.trapen = x.trapen ∧
        (∀ i, i < 64 → e.mask.getLsbD i = Chosen k p (i % 32)) ∧
        (∀ i, i < 64 → trayIs o.tv r i = trayEl e.data i) ∧ (∀ q, q ≠ r → trayIs o.tv q = trayIs k.tv q) ∧
        ((y.toNat ≤ 5 ∨ y = 8) →
          (∀ i, i < 64 → trayEl e.data i = if Chosen k p (i % 32) = true then (sum i).1 % 2 ^ 32 else trayIs k.tv r i) ∧
          (∀ j, j < 32 → xfAt e.xf j = if Chosen k p j = true then (sum j).2 ||| (sum (j + 32)).2 else 0)) ∧
        (e.spm = true ↔ w.2 = true ∧ ∃ i g, i < 8 ∧ g < 64 / tyWidth y / 2 ∧ ¬ LegalNibble (nibbleOf ra (64 / tyWidth y) i g))

namespace Sys2Proof.Claims

/-- Only cells of core c's array, the event list of core m, which becomes l, and m's pending deferred faults changed: the faults fs
of the instruction with this tag join them, with its bundle, unless it has raised the same cause before (R221). -/
def OnlyCells (s t : State) (c m : Nat) (l : List (Nat × ArrEv)) (fs : List (Nat × Dword)) (tag bundle : Nat) : Prop :=
  (coreAt t m).arr.due = l ∧
  (∀ p, { coreAt t p with
        arr := { (coreAt t p).arr with cells := (coreAt s p).arr.cells, due := (coreAt s p).arr.due, raised := (coreAt s p).arr.raised }
        deferred := (coreAt s p).deferred } = coreAt s p ∧
    (p ≠ c → (coreAt t p).arr.cells = (coreAt s p).arr.cells) ∧
    (p ≠ m ∨ fs = [] → (coreAt t p).deferred = (coreAt s p).deferred ∧ (coreAt t p).arr.raised = (coreAt s p).arr.raised) ∧
    (p ≠ m → (coreAt t p).arr.due = (coreAt s p).arr.due)) ∧
  ((∀ f ∈ fs, (tag, f.1) ∉ (coreAt s m).arr.raised) →
    (coreAt t m).deferred.map (fun d => (d.cause, d.wavetag, d.info)) =
      (coreAt s m).deferred.map (fun d => (d.cause, d.wavetag, d.info)) ++ fs.map fun f => (f.1, bundle, f.2)) ∧
  { t with cores := s.cores } = s
/-- The flags of all entries of an XF image. -/
def unionFlags (xf : BitVec 160) : Flags5 := (List.range 32).foldl (fun (g : Flags5) j => g ||| xfAt xf j) 0
/-- R169, R192, R222: the deferred data fault of a bit of SF that is set with its enable set: KIND and the cell's place. -/
def dataFaults (kind row col : Nat) (enabled : Bool) : List (Nat × Dword) :=
  if enabled = true then [(0x10, BitVec.ofNat 64 (kind + row * 2 ^ 8 + col * 2 ^ 16))] else []

/-! R27, R28: chains.  Position n of core m's chain, and E_n, the cycles that the links up to it add. -/

def chainCore (s : State) (m n : Nat) : Nat := (positions (coreAt s m) m).getD n m
def linksTo (k : Core) (n : Nat) : Nat := ((List.range n).map fun i => (Tab.get 0 k.ctl.skew (i + 1)).toNat - 1).sum
/-- E of the last position. -/
def allLinks (k : Core) : Nat := linksTo k (chainLen k - 1)
/-- R18, R28: the distance of cell (r, q) of position n over the window of the whole chain. -/
def chainDistance (k : Core) (v : Window) (n r q : Nat) : Nat :=
  if k.chainEW = true then distance v.origin v.h (chainLen k * v.w) (r - v.row0) (n * v.w + (q - v.col0))
  else distance v.origin (chainLen k * v.h) v.w (n * v.h + (r - v.row0)) (q - v.col0)

/-- What a neighbour's C read across edge e (0 N, 1 E, 2 S, 3 W) gives in cell (r, q) of position n of a wave's window in core m's
chain: the window neighbour's C, also across a link, or, where there is none, what the loader of that edge presents for the
instruction, else 0 (R19, R20, R28). -/
def neighbourIs (s : State) (m : Nat) (w : Wave) (n r q e : Nat) : FReg :=
  let v := w.win
  let k := coreAt s m
  let there (n r q : Nat) : FReg := (frontCell s m (chainCore s m n) (32 * r + q)).c
  let ew : Prop := k.chain ≠ [] ∧ k.chainEW = true
  let ns : Prop := k.chain ≠ [] ∧ k.chainEW = false
  if e = 0 ∧ v.row0 < r then there n (r - 1) q
  else if e = 1 ∧ q + 1 < v.col0 + v.w then there n r (q + 1)
  else if e = 2 ∧ r + 1 < v.row0 + v.h then there n (r + 1) q
  else if 3 ≤ e ∧ v.col0 < q then there n r (q - 1)
  else if ns ∧ e = 0 ∧ 0 < n then there (n - 1) (v.row0 + v.h - 1) q
  else if ew ∧ e = 1 ∧ n + 1 < chainLen k then there (n + 1) r v.col0
  else if ns ∧ e = 2 ∧ n + 1 < chainLen k then there (n + 1) v.row0 q
  else if ew ∧ 3 ≤ e ∧ 0 < n then there (n - 1) r (v.col0 + v.w - 1)
  else
    match w.feeds.find? fun f => f.core == chainCore s m n && f.edge == e with
    | some f => f.regs.getD (if e % 2 = 0 then q - v.col0 else r - v.row0) FReg.zero
    | none => FReg.zero
/-- What a wave brings to cell (r, q) of position n in the issue cycle `now`. -/
def bringsTo (s : State) (m : Nat) (w : Wave) (now n r q : Nat) : CellIn :=
  { sel := w.rows.getLsbD r && w.cols.getLsbD q, row := r, col := q, frm := w.frm, trapen := w.trapen, imx := w.imx
    nbr := neighbourIs s m w n r q, now := now, tag := w.tag, bundle := w.bundle, limit := (coreAt s (chainCore s m n)).storeQuota }

/-- A chain as the spec lays it out: the core is unchained, or position 0 of distinct cores (R27). -/
def IsMaster (s : State) (m : Nat) : Prop :=
  (coreAt s m).chain = [] ∨ ∃ rest, (coreAt s m).chain = m :: rest ∧ (m :: rest).Nodup
/-- The wave is at cell (r, q) of position n: the cell has its next distance. -/
def NextAt (s : State) (m : Nat) (w : Wave) (n r q : Nat) : Prop :=
  n < chainLen (coreAt s m) ∧ w.win.has r q = true ∧ chainDistance (coreAt s m) w.win n r q = w.next

/-- R28: what a result or an instruction leaves in a cell of position n of core m's chain, from state s to t, in issue cycle `now`:
every later instruction finds `new`; the cell holds it at once where the links up to it take no cycle, else it comes to it E_n
cycles later, with the bytes that its store takes. -/
def CellGets (s t : State) (m n now r q : Nat) (new : CellSt) : Prop :=
  let p := chainCore s m n
  let key := 32 * r + q
  let old := frontCell s m p key
  let e := linksTo (coreAt s m) n
  frontCell t m p key = new ∧
  (e = 0 → cellAt (coreAt t p).arr key = new) ∧
  (e ≠ 0 → cellAt (coreAt t p).arr key = cellAt (coreAt s p).arr key ∧
    (new ≠ old → (now + e, ArrEv.cell p r q new (storeDiff old.store new.store)) ∈ (coreAt t m).arr.due))
/-- A cell of position n is as before, and so is what is on its way to it. -/
def CellKept (s t : State) (m n key : Nat) : Prop :=
  let p := chainCore s m n
  cellAt (coreAt t p).arr key = cellAt (coreAt s p).arr key ∧ frontCell t m p key = frontCell s m p key

end Sys2Proof.Claims

/-- R28, R166, R168, R169, R189, R192, R195, R24, R25: the results that come later, each in its issue cycle, once that cycle is over: a
special-function result is written in its lanes with its flags and NPIV, a tray sum replaces its elements with its flags
and SPM, each with the deferred data and FP faults that TRAPEN enables, and in a follower behind slow links all of it E_n cycles
later; a flag group, from the cycle in which it is valid, replaces the old one whole; every other cell, tray and
register is as before; before its cycle such an event does nothing. -/
def Obligations.LaterResultsLand : Prop :=
  (∀ (s : State) (m n row col at_ : Nat) (e : SfEntry) (rest : List SfEntry) (l : List (Nat × ArrEv)), IsMaster s m →
    n < chainLen (coreAt s m) → row < 32 → col < 32 →
    let c := chainCore s m n
    let key := 32 * row + col
    let old := frontCell s m c key
    let k := coreAt s m
    let faults := dataFaults 1 row col (e.npiv && e.trapen.getLsbD 5) ++ fpFaults e.trapen row col (if e.nf = true then 1 else 0) (unionFlags e.xf)
    masterOf s c = m → old.sfq = e :: rest → k.arr.due = (at_, .sf c row col) :: l → at_ < k.arr.acyc →
    ∃ t, exec (.sfDeliver c row col) s = .next t ∧
      (let new := frontCell t m c key
       (∀ j, j < 32 → elem 16 (readF new e.d).data j = if e.lanes.getLsbD j = true then elem 16 e.data j else elem 16 (readF old e.d).data j) ∧
       (readF new e.d).side = (readF old e.d).side ∧ (∀ n, n ≠ e.d → readF new n = readF old n) ∧
       new.xf = (if e.nf = true then old.xf else old.xf ||| e.xf) ∧ new.sf = (if e.npiv = true then old.sf ||| 1 else old.sf) ∧
       { new with f := old.f, xf := old.xf, sf := old.sf, sfq := e :: rest } = old ∧ new.sfq = rest ∧ CellGets s t m n at_ row col new) ∧
      (∀ key', key' ≠ key → CellKept s t m n key') ∧
      (linksTo k n = 0 → allLinks k = 0 ∨ e.trapen = 0 → OnlyCells s t c m l faults e.tag e.bundle) ∧
      (allLinks k ≠ 0 → ∀ f ∈ faults, (at_ + linksTo k n, ArrEv.fault f.1 e.bundle e.tag f.2) ∈ (coreAt t m).arr.due)) ∧
  (∀ (s : State) (m n row col at_ : Nat) (e : TrayEntry) (rest : List TrayEntry) (l : List (Nat × ArrEv)), IsMaster s m →
    n < chainLen (coreAt s m) → row < 32 → col < 32 →
    let c := chainCore s m n
    let key := 32 * row + col
    let old := frontCell s m c key
    let k := coreAt s m
    let faults := dataFaults 2 row col (e.spm && e.trapen.getLsbD 6) ++ fpFaults e.trapen row col (if e.nf = true then 1 else 0) (unionFlags e.xf)
    masterOf s c = m → old.tq = e :: rest → e.tray < 4 → k.arr.due = (at_, .tray c row col) :: l → at_ < k.arr.acyc →
    ∃ t, exec (.traySumLand c row col) s = .next t ∧
      (let new := frontCell t m c key
       (∀ i, i < 64 → trayIs new.t (BitVec.ofNat 2 e.tray) i =
          if e.mask.getLsbD i = true then trayEl e.data i else trayIs old.t (BitVec.ofNat 2 e.tray) i) ∧
       (∀ n : BitVec 2, n.toNat ≠ e.tray → trayIs new.t n = trayIs old.t n) ∧
       new.xf = (if e.nf = true then old.xf else old.xf ||| e.xf) ∧ new.sf = (if e.spm = true then old.sf ||| 2 else old.sf) ∧
       { new with t := old.t, xf := old.xf, sf := old.sf, tq := e :: rest } = old ∧ new.tq = rest ∧ CellGets s t m n at_ row col new) ∧
      (∀ key', key' ≠ key → CellKept s t m n key') ∧
      (linksTo k n = 0 → allLinks k = 0 ∨ e.trapen = 0 → OnlyCells s t c m l faults e.tag e.bundle) ∧
      (allLinks k ≠ 0 → ∀ f ∈ faults, (at_ + linksTo k n, ArrEv.fault f.1 e.bundle e.tag f.2) ∈ (coreAt t m).arr.due)) ∧
  (∀ (s : State) (c at_ : Nat) (g : PendGroup) (rest : List PendGroup) (l : List (Nat × ArrEv)),
    (coreAt s c).arr.groups = g :: rest → (coreAt s c).arr.due = (at_, .group) :: l →
    at_ ≤ (coreAt s c).arr.acyc →
    ∃ t, exec (.flagGroupValid c) s = .next t ∧
      CoreIs s t c { coreAt s c with arr := { (coreAt s c).arr with group := g.group, groups := rest, due := l } }) ∧
  (∀ (s : State) (c row col tag : Nat),
    (∀ w ∈ [(Instr.sfDeliver c row col, ArrEv.sf c row col, masterOf s c), (.traySumLand c row col, .tray c row col, masterOf s c),
        (.wavefrontReach c tag, .reach tag, c)],
      (∀ d ∈ (coreAt s w.2.2).arr.due, d.2 = w.2.1 → (coreAt s w.2.2).arr.acyc ≤ d.1) → exec w.1 s = .next s) ∧
    ((∀ d ∈ (coreAt s c).arr.due, d.2 = .group → (coreAt s c).arr.acyc < d.1) → exec (.flagGroupValid c) s = .next s))

/-- R18 to R20, R22, R28, R89: a wave in a window of any size, unchained or over a chain, at the cycle for which its next distance is
scheduled, reaches the cells of that distance over the whole chain: each becomes what cellRun gives, where a neighbour, also across a
link, is read as the instructions before left it (an upstream one after the same instruction, a downstream one before it) and a
missing one is what a bound feed presents, or 0; in a follower the change comes E_n cycles later.  The deferred faults of the cells are
detected once per cause, in a chain with slow links E_n cycles later; no other cell changes, and the next distance is scheduled for the
next issue cycle, or after the last one the wave leaves, E of the last position later. -/
def Sys2Proof.Claims.WavesReachTheirCells : Prop :=
  ∀ (s : State) (m at_ : Nat) (w : Wave) (l : List (Nat × ArrEv)), IsMaster s m →
    ((coreAt s m).arr.waves.find? fun v => v.tag == w.tag) = some w →
    (coreAt s m).arr.due = (at_, .reach w.tag) :: l → at_ < (coreAt s m).arr.acyc →
    w.win.row0 + w.win.h ≤ 32 → w.win.col0 + w.win.w ≤ 32 →
    let k := coreAt s m
    let last := if k.chainEW = true then w.win.h + chainLen k * w.win.w - 2 else chainLen k * w.win.h + w.win.w - 2
    ∃ t, exec (.wavefrontReach m w.tag) s = .next t ∧ (∀ c, c ∉ positions k m → coreAt t c = coreAt s c) ∧ t.sys = s.sys ∧
      (∀ n r q, n < chainLen k → r < 32 → q < 32 → ¬ NextAt s m w n r q → CellKept s t m n (32 * r + q)) ∧
      (∀ n r q, NextAt s m w n r q →
        let o := cellRun w.instr (bringsTo s m w at_ n r q) (frontCell s m (chainCore s m n) (32 * r + q))
        CellGets s t m n at_ r q o.cell ∧
        ∀ f ∈ o.faults,
          (allLinks k = 0 → (w.tag, f.1) ∉ k.arr.raised → ∃ d ∈ (coreAt t m).deferred, d.cause = f.1 ∧ d.wavetag = w.bundle) ∧
          (allLinks k ≠ 0 → (at_ + linksTo k n, ArrEv.fault f.1 w.bundle w.tag f.2) ∈ (coreAt t m).arr.due)) ∧
      (if w.next < last then
        (∃ v ∈ (coreAt t m).arr.waves, v.tag = w.tag ∧ v.next = w.next + 1 ∧ v.instr = w.instr) ∧
        (at_ + 1, ArrEv.reach w.tag) ∈ (coreAt t m).arr.due
      else if allLinks k = 0 then ∀ v ∈ (coreAt t m).arr.waves, v.tag ≠ w.tag
      else (at_ + allLinks k, ArrEv.leave w.tag) ∈ (coreAt t m).arr.due)

/-- R24, R30: a CFLAG gathers along the whole chain: of the cells that its wave reaches, row and column masks take the local row's and
the local column's bit of every position, ANY where some cell's flag is set, ALL where every one is. -/
def Sys2Proof.Claims.FlagsAreGathered : Prop :=
  ∀ (s : State) (m at_ : Nat) (d : BitVec 5) (sel : BitVec 4) (w : Wave) (g : PendGroup) (l : List (Nat × ArrEv)), IsMaster s m →
    w.instr = .cflag sel d → ((coreAt s m).arr.waves.find? fun v => v.tag == w.tag) = some w → (coreAt s m).arr.groups = [g] → g.tag = w.tag →
    (coreAt s m).arr.due = (at_, .reach w.tag) :: l → at_ < (coreAt s m).arr.acyc →
    w.win.row0 + w.win.h ≤ 32 → w.win.col0 + w.win.w ≤ 32 →
    let flag (n r q : Nat) : Prop :=
      (cellRun w.instr (bringsTo s m w at_ n r q) (frontCell s m (chainCore s m n) (32 * r + q))).cell.edgeFlag = true
    let a := w.acc
    ∃ t x, exec (.wavefrontReach m w.tag) s = .next t ∧ (coreAt t m).arr.groups = [⟨g.due, g.tag, x⟩] ∧
      (∀ b, b < 32 →
        (x.rowAny.getLsbD b = true ↔ a.rowAny.getLsbD b = true ∨ ∃ n q, NextAt s m w n b q ∧ flag n b q) ∧
        (x.rowAll.getLsbD b = true ↔ a.rowAll.getLsbD b = true ∧ ∀ n q, NextAt s m w n b q → flag n b q) ∧
        (x.colAny.getLsbD b = true ↔ a.colAny.getLsbD b = true ∨ ∃ n r, NextAt s m w n r b ∧ flag n r b) ∧
        (x.colAll.getLsbD b = true ↔ a.colAll.getLsbD b = true ∧ ∀ n r, NextAt s m w n r b → flag n r b)) ∧
      (x.summary.getLsbD 0 = true ↔ a.summary.getLsbD 0 = true ∨ ∃ n r q, NextAt s m w n r q ∧ flag n r q) ∧
      (x.summary.getLsbD 1 = true ↔ a.summary.getLsbD 1 = true ∧ ∀ n r q, NextAt s m w n r q → flag n r q)

/-- R30, R25: a CFLAG that nothing holds issues: its group, still to be gathered, is valid after all rows and columns of the chain
and all its links, and becomes the valid group then. -/
def Sys2Proof.Claims.FlagGroupsComeAfterTheChain : Prop :=
  ∀ (s : State) (d : BitVec 5) (sel : BitVec 4), (∀ p ∈ positions (coreAt s s.me) s.me, ∀ e, (loaderAt (coreAt s p).edge e).bind = none) →
    let k := coreAt s s.me
    let v := k.arr.win
    let valid := k.arr.acyc + (if k.chainEW = true then v.h + chainLen k * v.w else chainLen k * v.h + v.w) + allLinks k + 1
    ∃ t x, exec (.cflag sel d) s = .next t ∧ (coreAt t s.me).arr.groups = k.arr.groups ++ [⟨valid, k.arr.nextTag, x⟩] ∧
      (valid, ArrEv.group) ∈ (coreAt t s.me).arr.due ∧ (k.arr.acyc, ArrEv.reach k.arr.nextTag) ∈ (coreAt t s.me).arr.due

/-- R28: what was on its way to a follower's cell comes to it in its issue cycle, once that is over: the cell holds it, with the bytes
that the instruction stored over those that came in between; every other cell is as before. -/
def Sys2Proof.Claims.DelayedCellsCome : Prop :=
  ∀ (s : State) (m at_ p r q : Nat) (x : CellSt) (bs : List (Nat × Byte)) (l : List (Nat × ArrEv)),
    (coreAt s m).arr.due = (at_, .cell p r q x bs) :: l → at_ < (coreAt s m).arr.acyc →
    ∃ t, arrayWork s m = some t ∧ (coreAt t m).arr.due = l ∧
      (let new := cellAt (coreAt t p).arr (32 * r + q)
       { new with store := x.store } = x ∧
       ∀ a, storeAt new a = ((bs.reverse.find? fun y => y.1 == a).map (·.2)).getD (storeAt (cellAt (coreAt s p).arr (32 * r + q)) a)) ∧
      (∀ key, key ≠ 32 * r + q → cellAt (coreAt t p).arr key = cellAt (coreAt s p).arr key) ∧
      (∀ c, c ≠ p → (coreAt t c).arr.cells = (coreAt s c).arr.cells) ∧ t.sys = s.sys

/-- R18 to R20, R22, R24, R25, R28, R30, R89: waves advance one distance in an issue cycle, over the whole chain; what slow links delay
comes later, and a CFLAG's group is gathered along the chain.  What a cell behind a slow link reads, and that a neighbour's read across
the link finds the same, is the model's reading (log entry 12, DEDUCED). -/
def Obligations.WavesAdvanceOneDistance : Prop :=
  WavesReachTheirCells ∧ FlagsAreGathered ∧ FlagGroupsComeAfterTheChain ∧ DelayedCellsCome


/-! ### The W slot, put together -/

/-- R16, R18, R20 to R22, R139, R140: a W instruction that nothing holds issues, travels to its cell and acts there; one
that is held changes nothing; in an unselected cell only the chain instructions act, and they forward C. -/
def Obligations.WInstructionsReachTheirCell : Prop :=
  Claims.WInstructionsReachTheirCell ∧ HeldInstructionsWait ∧ UnselectedCellsForward

/-- R85, R89, R90, R93, R94: the vector instructions in a selected cell, element by element: floating-point, integer,
compares. -/
def Obligations.VectorResults : Prop := FloatVectorResults ∧ IntegerVectorResults ∧ ComparesWriteP

/-- R14, R91, R96 to R100, R172 to R174: moves, scans and the cell store in a selected cell. -/
def Obligations.CellMoves : Prop := MovesInACell ∧ ScansInACell ∧ CellStoreMoves

/-! ### The Y slot, barriers and flags, control registers -/

namespace Sys2Proof.Claims

/-- In the device only the issuing core's sequencer changed: it became q but for its stall, and the next bundle issues no
earlier than st cycles after the following one (R32). -/
def YDone (s t : State) (st : BitVec 4) (q : Seq) : Prop :=
  CoreIs s t s.me { coreAt s s.me with seq := { q with readyAt := (coreAt s s.me).seq.cyc + 1 + st.toNat } }

/-- R39, R218, R127 to R129: the Y instructions that act on their own core's sequencer at once. -/
def yTable (q : Seq) (st k p4 : BitVec 4) (n : BitVec 16) (i : BitVec 24) (c z : BitVec 6) (x : BitVec 2) : List (Instr × Seq) :=
  [(.nopy st, q), (.kset st k n, { q with k := Tab.set 0 q.k k.toNat n }), (.imx st i, { q with imx := some i }),
   (.rep st c z p4, { q with rep := some (if c = 0 then 64 else c.toNat) }), (.xtgt st x, { q with xtgt := some x })]

/-- R213: an arrival at a barrier that has not had all of them; the phase flips with the last arrival once no byte is awaited. -/
def arrivedAt (b : Barrier) : Barrier :=
  if b.count + 1 = b.target ∧ b.pend = 0 then ⟨b.target, 0, 0, !b.phase⟩ else ⟨b.target, b.count + 1, b.pend, b.phase⟩

/-- A barrier, a counting flag and the arrays of a core. -/
def barOf (s : State) (c b : Nat) : Barrier := Tab.get .zero (coreAt s c).seq.bars b
def flagOf (s : State) (c k : Nat) : Half := Tab.get 0 (coreAt s c).seq.k k

/-- R23: no wave is on its way and no window cell has a result under way. -/
def ArrayEmpty (k : Core) : Prop :=
  k.arr.waves = [] ∧ ∀ p ∈ k.arr.cells, k.arr.win.has (p.1 / 32) (p.1 % 32) = true → p.2.sfq = [] ∧ p.2.tq = []

/-- The same of every array of core c's chain (R27). -/
def ArraysEmpty (s : State) (c : Nat) : Prop :=
  (coreAt s c).arr.waves = [] ∧ ∀ m ∈ positions (coreAt s c) c, ∀ p ∈ (coreAt s m).arr.cells,
    (coreAt s m).arr.win.has (p.1 / 32) (p.1 % 32) = true → p.2.sfq = [] ∧ p.2.tq = []
/-- The origins that a window may have: any in an unchained core; in a west-to-east chain NW or SW, in a north-to-south one NW or NE
(R27). -/
def OriginFits (k : Core) (o : BitVec 2) : Prop := k.chain = [] ∨ o = 0 ∨ if k.chainEW = true then o = 2 else o = 1

/-- R130: window row and column of position p of an edge. -/
def edgeCell (w : Window) (e p : Nat) : Nat × Nat :=
  if e = 0 then (0, p) else if e = 1 then (p, w.w - 1) else if e = 2 then (w.h - 1, p) else (p, 0)
/-- R139, R217: a wave has passed every cell that its feed of an edge goes to. -/
def FedEverywhere (w : Wave) (e : Nat) : Prop :=
  0 < w.next ∧ ∀ p, p < (if e % 2 = 0 then w.win.w else w.win.h) →
    distance w.win.origin w.win.h w.win.w (edgeCell w.win e p).1 (edgeCell w.win e p).2 < w.next

/-- R217: the waits of the Y slot with their conditions; whether their completion is an acquire (R219). -/
def waitTable (s : State) (st k : BitVec 4) (n : BitVec 16) (b : BitVec 10) (ph : BitVec 1) (e : BitVec 2) : List (Instr × Prop × Bool) :=
  let q := (coreAt s s.me).seq
  [(.kwait st k n, n.toNat ≤ (flagOf s s.me k.toNat).toNat, true),
   (.bwait st b ph, (barOf s s.me b.toNat).phase ≠ (ph == 1), true),
   (.dly st n, q.readyAt + n.toNat ≤ q.cyc, false), (.wquiet st, ArrayEmpty (coreAt s s.me), false),
   (.lwait st e, (loaderAt (coreAt s s.me).edge e.toNat).caps = [] ∧
      ∀ w ∈ (coreAt s s.me).arr.waves, ∀ f ∈ w.feeds, f.core = s.me → f.edge = e.toNat → FedEverywhere w e.toNat, false)]

/-- R119, R120, R124: the value of every control register; RES bits read 0. -/
def ctlTable (s : State) (j : Nat) : List (BitVec 12 × Nat) :=
  let x := (coreAt s s.me).ctl
  let w := (coreAt s s.me).arr.win
  let o : Nat := match w.origin with | .nw => 0 | .ne => 1 | .sw => 2 | .se => 3
  [(0x000, 5 * s.beat / 9 % 2 ^ 64), (0x001, x.frm.toNat), (0x002, x.chk.toNat), (0x003, x.trapen.toNat), (0x004, x.sxf.toNat),
   (0x008, x.repcnt.toNat), (0x010, x.cause.toNat), (0x011, x.trappc.toNat), (0x012, x.info.toNat), (0x013, x.wavetag.toNat),
   (0x014, x.tvec.toNat), (0x015, x.inh.toNat), (0x020, ((w.h - 1) + (w.w - 1) * 32 + o * 1024 + w.row0 * 2 ^ 32 + w.col0 * 2 ^ 40) % 2 ^ 64),
   (0x021, x.asid.toNat), (0x022, x.rcptr.toNat), (BitVec.ofNat 12 (0x030 + j % 4), (Tab.get 0 x.skew (j % 4)).toNat),
   (BitVec.ofNat 12 (0x040 + j % 64), (Tab.get 0 x.cpwp (j % 64)).toNat)]

/-- R118 to R120, R7: what CTLWR of v leaves: RW fields take their bits of v, the W1C flags lose the ones of v, RO fields stay. -/
def ctlWriteTable (x : Ctl) (v : Dword) : List (BitVec 12 × Ctl) :=
  [(0x001, { x with frm := v.setWidth 2 }), (0x002, { x with chk := v.getLsbD 0 }), (0x003, { x with trapen := v.setWidth 7 }),
   (0x004, { x with sxf := x.sxf &&& ~~~(v.setWidth 5) }), (0x008, { x with repcnt := v.setWidth 7 }),
   (0x011, { x with trappc := v.setWidth 15 }), (0x014, { x with tvec := v.setWidth 14 }), (0x000, x), (0x010, x), (0x012, x),
   (0x013, x), (0x015, x), (0x020, x), (0x021, x), (0x022, x)]

end Sys2Proof.Claims

/-- R39, R32, R127 to R129, R218: these Y instructions complete in every state, with their effect on the sequencer and the
bundle's stall and nothing else; the no-operations of the other slots change nothing. -/
def Obligations.YInstructionsComplete : Prop :=
  (∀ (s : State) (st k p4 : BitVec 4) (n : BitVec 16) (i : BitVec 24) (c z : BitVec 6) (x : BitVec 2),
    ∀ y ∈ yTable (coreAt s s.me).seq st k p4 n i c z x, ∃ t, exec y.1 s = .next t ∧ YDone s t st y.2) ∧
  (∀ s : State, exec .nops s = .next s ∧ exec .cnop s = .next s ∧ exec .nope s = .next s)

/-- R217, R219: on an unchained core a wait whose condition does not hold changes nothing; one whose condition holds
completes with the bundle's stall, after an acquire at DEVICE scope for KWAIT and BWAIT. -/
def Obligations.WaitsHoldUntilTheirCondition : Prop :=
  ∀ (s : State) (st k : BitVec 4) (n : BitVec 16) (b : BitVec 10) (ph : BitVec 1) (e : BitVec 2), (coreAt s s.me).chain = [] →
    ∀ w ∈ waitTable s st k n b ph e,
      (¬ w.2.1 → exec w.1 s = .next s) ∧
      (w.2.1 → ∃ t, exec w.1 s = .next t ∧
        YDone (if w.2.2 = true then acquire s s.me 4 else s) t st (coreAt (if w.2.2 = true then acquire s s.me 4 else s) s.me).seq)

/-- R213 to R215, R218, R219: on a core that runs its team's task, a post or an arrival at the own core is a release at DEVICE
scope and then one event: the flag saturates at 65535, the barrier counts and flips its phase, and one arrival too many
changes nothing in the barrier and is a deferred barrier fault; BEXP adds to PEND, up to 2^48 - 1. -/
def Obligations.BarriersAndFlagsCount : Prop :=
  ∀ (s : State) (st k : BitVec 4) (n : BitVec 8) (c : BitVec 6) (b : BitVec 10) (a : BitVec 5),
    let u := release s s.me 4
    let q := (coreAt u s.me).seq
    let x := barOf u s.me b.toNat
    let q0 := (coreAt s s.me).seq
    let y := barOf s s.me b.toNat
    liveHere s (teamNumber s s.me) s.me = true →
    (∃ t, exec (.kpost st k n c 1) s = .next t ∧
      YDone u t st { q with k := Tab.set 0 q.k k.toNat (BitVec.ofNat 16 (min 65535 ((flagOf u s.me k.toNat).toNat + n.toNat))) }) ∧
    (x.count < x.target → ∃ t, exec (.barr st b c 1) s = .next t ∧
      YDone u t st { q with bars := Tab.set .zero q.bars b.toNat (arrivedAt x) }) ∧
    (x.target ≤ x.count → ∃ t, exec (.barr st b c 1) s = .next t ∧ (coreAt t s.me).seq.bars = q.bars ∧
      ∃ d, (coreAt t s.me).deferred = (coreAt u s.me).deferred ++ [d] ∧ d.cause = 0x14 ∧ d.wavetag = q.pc) ∧
    (y.pend + (gr s a).toNat < 2 ^ 48 → ∃ t, exec (.bexp st b a) s = .next t ∧
      YDone s t st { q0 with bars := Tab.set .zero q0.bars b.toNat { y with pend := y.pend + (gr s a).toNat } }) ∧
    (2 ^ 48 ≤ y.pend + (gr s a).toNat → ∃ t, exec (.bexp st b a) s = .next t ∧ (coreAt t s.me).seq.bars = q0.bars ∧
      ∃ d, (coreAt t s.me).deferred = (coreAt s s.me).deferred ++ [d] ∧ d.cause = 0x14 ∧ d.wavetag = q0.pc)

/-- R218, R260, R230, R214, R34, R60: a post or arrival that names another core of the team is a release at DEVICE scope, which
joins the accesses on their way, and once that is performed (at the latest by a FENCE that waits for nothing) the post is on its way; the oldest post
between two cores arrives first, as that core's event or, where its task's context is saved, in the context's tail; one arrival
too many is a barrier fault of the core that sent it, wherever its context is; a core number that is not below the team size
is an illegal operand. -/
def Obligations.PostsTravelInOrder : Prop :=
  (∀ (s : State) (st k : BitVec 4) (n : BitVec 8) (c : BitVec 6) (b : BitVec 10) (tm : Team), teamOf s s.me = some tm →
    let x := coreAt s s.me
    (c.toNat < tm.img.cores → physCore s s.me c.toNat ≠ s.me →
      ∀ p ∈ [(Instr.kpost st k n c 0, false, k.toNat, n.toNat), (Instr.barr st b c 0, true, b.toNat, 1)],
        ∃ t, exec p.1 s = .next t ∧
          CoreIs s t s.me { x with
            seq := { x.seq with readyAt := x.seq.cyc + 1 + st.toNat }
            mem := { x.mem with
              nextSeq := x.mem.nextSeq + 1
              pend := x.mem.pend ++ [.release ⟨4, x.mem.nextSeq, some
                ⟨teamNumber s s.me, x.seq.pc, s.me, physCore s s.me c.toNat, p.2.1, p.2.2.1, p.2.2.2⟩⟩] } }) ∧
    (tm.img.cores ≤ c.toNat → Quiet s → ∀ i ∈ [Instr.kpost st k n c 0, .barr st b c 0],
      ∃ t w, encode i = some ⟨.y, w⟩ ∧ exec i s = .next t ∧
        TrapTaken s t 2 (operandInfo 0 (decide (0 < (coreAt s s.me).seq.repK)) w))) ∧
  (∀ (s : State) (c : BitVec 3) (n seq : Nat) (p : Post), fenceWaits s s.me = false → (coreAt s s.me).mem.pend = [.release ⟨n, seq, some p⟩] →
    ∃ t, exec (.fence c) s = .next t ∧ t.sys.posts = s.sys.posts ++ [p] ∧ (coreAt t s.me).mem.pend = []) ∧
  (∀ (s : State) (p : Post) (before after : List Post), s.sys.posts = before ++ p :: after →
    (∀ q ∈ before, ¬ (q.src = p.src ∧ q.dst = p.dst)) →
    (p.bar = false → liveHere s p.team p.dst = true → ∃ t, exec (.remotePostArrive p.src p.dst) s = .next t ∧
      t.sys.posts = before ++ after ∧ flagOf t p.dst p.idx = BitVec.ofNat 16 (min 65535 ((flagOf s p.dst p.idx).toNat + p.n)) ∧
      ∀ j, j ≠ p.idx → flagOf t p.dst j = flagOf s p.dst j) ∧
    (p.bar = true → liveHere s p.team p.dst = true → (barOf s p.dst p.idx).count < (barOf s p.dst p.idx).target →
      ∃ t, exec (.remotePostArrive p.src p.dst) s = .next t ∧
        t.sys.posts = before ++ after ∧ barOf t p.dst p.idx = arrivedAt (barOf s p.dst p.idx)) ∧
    (p.bar = true → liveHere s p.team p.dst = true → (barOf s p.dst p.idx).target ≤ (barOf s p.dst p.idx).count →
      ∃ t d, exec (.remotePostArrive p.src p.dst) s = .next t ∧ t.sys.posts = before ++ after ∧
        barOf t p.dst p.idx = barOf s p.dst p.idx ∧
        (contextAt t p.team p.src).deferred = (contextAt s p.team p.src).deferred ++ [d] ∧ d.cause = 0x14 ∧ d.wavetag = p.bundle) ∧
    (∀ k, Tab.look s.sched.saved (64 * p.team + p.dst) = some k → ∃ t, exec (.remotePostArrive p.src p.dst) s = .next t ∧
      Tab.look t.sched.saved (64 * p.team + p.dst) = some { k with tail := k.tail ++ [p] } ∧ t.cores = s.cores))

/-- R118 to R120, R7: CTLRD gives each control register's value in G d and changes nothing else; CTLWR writes each
register's fields by their access codes and changes nothing else.  That TIME counts 5·beat/9 from the model's beat, and is
written with its own bundle, is the model's choice (log entries 6 and 72). -/
def Obligations.ControlRegistersReadAndWrite : Prop :=
  ∀ (s : State) (d a : BitVec 5) (j : Nat),
    (∀ p ∈ ctlTable s j, ∃ t, exec (.ctlrd d p.1) s = .next t ∧ WritesG s t d (BitVec.ofNat 64 p.2)) ∧
    (∀ p ∈ ctlWriteTable (coreAt s s.me).ctl (gr s a), ∃ t, exec (.ctlwr a p.1) s = .next t ∧
      CoreIs s t s.me { coreAt s s.me with ctl := p.2 })

/-- R122 to R124, R17, R23, R27, R60: MSEL sets a selector's masks, EFRD reads a word of the valid flag group; AWIN waits until every
array of the chain is empty, then sets a window that fits into the array, with an origin that the chain allows, in every position,
and is an illegal operand otherwise, which changes no window. -/
def Obligations.SelectorsFlagsAndWindow : Prop :=
  ∀ (s : State) (d a b : BitVec 5) (g : BitVec 16) (o : BitVec 2) (w h : BitVec 5),
    let k := coreAt s s.me
    let chain := positions k s.me
    (∃ t, exec (.msel d a b) s = .next t ∧ CoreIs s t s.me { k with seq := { k.seq with
      m := Tab.set .zero k.seq.m d.toNat ⟨(gr s a).setWidth 32, (gr s b).setWidth 32⟩ } }) ∧
    (g.toNat < 5 → ∃ t, exec (.efrd d g) s = .next t ∧ WritesG s t d ((groupOf k.arr.group (g.setWidth 5)).setWidth 64)) ∧
    (let row := (gr s a).toNat % 32
     let col := (gr s a).toNat / 256 % 32
     let plain : Prop := (gr s a).toNat = row + 256 * col ∧ row + h.toNat + 1 ≤ 32 ∧ col + w.toNat + 1 ≤ 32 ∧ OriginFits k o
     (¬ ArraysEmpty s s.me → exec (.awin a o w h) s = .next s) ∧
     (ArraysEmpty s s.me → plain → ∃ t org, exec (.awin a o w h) s = .next t ∧
       org = [Origin.nw, .ne, .sw, .se].getD o.toNat .nw ∧
       (∀ p ∈ chain, coreAt t p = { coreAt s p with arr := { (coreAt s p).arr with win := ⟨row, col, h.toNat + 1, w.toNat + 1, org⟩ } }) ∧
       (∀ p, p ∉ chain → coreAt t p = coreAt s p) ∧ { t with cores := s.cores } = s) ∧
     (ArraysEmpty s s.me → ¬ plain → Quiet s → ∃ t word, encode (.awin a o w h) = some ⟨.s, word⟩ ∧
       exec (.awin a o w h) s = .next t ∧ TrapTaken s t 2 (operandInfo 1 (decide (0 < k.seq.repK)) word)))

/-! ### Edge loaders and the epilogue unit -/

namespace Sys2Proof.Claims

/-- R29, R129: the bundle's E instruction addresses the loaders of core p: of the issuing core, or of the chain position that XTGT
names. -/
def Addresses (s : State) (p : Nat) : Prop :=
  match (coreAt s s.me).seq.xtgt with
  | none => p = s.me
  | some x => if x = 0 then p = s.me else (coreAt s s.me).chain[x.toNat]? = some p
/-- R29: the edge of core p faces a link of the chain: E or W towards a neighbour in a west-to-east chain, N or S in a
north-to-south one. -/
def FacesLink (s : State) (p e : Nat) : Prop :=
  let k := coreAt s s.me
  ∃ i, k.chain.idxOf? p = some i ∧
    if k.chainEW = true then (e = 1 ∧ i + 1 < k.chain.length) ∨ (e = 3 ∧ 0 < i) else (e = 2 ∧ i + 1 < k.chain.length) ∨ (e = 0 ∧ 0 < i)
/-- No acquire of the issuing core waits (R260). -/
def NoAcquireWaits (s : State) : Prop := ∀ p ∈ (coreAt s s.me).mem.pend, pendAcquire p = false

/-- O[o] is the offset register of a binding of core p with steps left on an edge other than `but` (R144, R145). -/
def OffsetInUse (s : State) (p o : Nat) (but : Option Nat) : Prop :=
  ∃ e b, e < 4 ∧ but ≠ some e ∧ (loaderAt (coreAt s p).edge e).bind = some b ∧ 0 < b.left ∧ b.o = o

/-- The core's E side with one loader replaced. -/
def withLoader (k : Core) (e : Nat) (l : Loader) : Core := { k with edge := { k.edge with loaders := Tab.set .reset k.edge.loaders e l } }
/-- The record cache after handle h has been used with record r: up to 64 records, the latest used first (R133). -/
def usedRecord (l : List (Nat × RecBits)) (h : Nat) (r : RecBits) : List (Nat × RecBits) :=
  ((h, r) :: l.filter fun x => x.1 != h).take 64
def withRecord (k : Core) (h : Nat) (r : RecBits) : Core := { k with edge := { k.edge with recs := usedRecord k.edge.recs h r } }

/-- R144, R201: what arming with LARM or EDRAIN binds: direction, order bit, unfold, count (0 means 64), program. -/
def armTable (k : Core) (e : BitVec 2) (h : BitVec 12) (o : BitVec 3) (m : BitVec 9) (p : BitVec 3) (n : BitVec 6) :
    List (Instr × Bool × Bool × Bool × Nat × Option (List Half)) :=
  [(.larm e h o m, m.getLsbD 8, m.getLsbD 7, m.getLsbD 6, if m.toNat % 64 = 0 then 64 else m.toNat % 64, none),
   (.edrain e h o p n, true, false, false, if n = 0 then 64 else n.toNat, some (Tab.get [] k.edge.progs p.toNat))]

/-- The halfwords of a program up to and including its first ESTOP. -/
def upToStop (l : List Half) : List Half := l.takeWhile (· != 0) ++ (if 0 ∈ l then [0] else [])

end Sys2Proof.Claims

/-- R29, R144, R133, R135, R201: LARM and EDRAIN of a record that is cached at the core they address, the issuing one or a chain
position, complete when the edge faces no link, no other binding uses the offset register and the record passes its checks: that
core's loader is bound with its own copy of the record and the counters' values; a record that fails takes the operand-format trap
with its first failing row; an edge that faces a link, a used offset register, and an empty program slot, are illegal operands. -/
def Sys2Proof.Claims.LoadersArm : Prop :=
  ∀ (s : State) (c : Nat) (e : BitVec 2) (h : BitVec 12) (o : BitVec 3) (m : BitVec 9) (p : BitVec 3) (n : BitVec 6) (r : RecBits),
    let k := coreAt s c
    let rept := decide (0 < (coreAt s s.me).seq.repK)
    Addresses s c → NoAcquireWaits s → (k.edge.recs.find? fun x => x.1 == h.toNat) = some (h.toNat, r) →
    ∀ y ∈ armTable k e h o m p n,
      let column := recOrder r != y.2.2.1
      (¬ FacesLink s c e.toNat → y.2.2.2.2.2 ≠ some [] → ¬ OffsetInUse s c o.toNat (some e.toNat) → checkRecord r column y.2.2.2.1 y.2.1 = none →
        ∃ t, exec y.1 s = .next t ∧
          CoreIs s t c (withLoader (withRecord k h.toNat r) e.toNat
            { (loaderAt k.edge e.toNat) with
              fetched := []
              bind := some
                { drain := y.2.1, unfold := y.2.2.2.1, column := column, recd := r, handle := h.toNat, o := o.toNat
                  q0 := (Tab.get 0 k.seq.o o.toNat).toNat
                  e0 := if recPaired r = true then (Tab.get 0 k.seq.o (o.toNat ^^^ 1)).toNat else 0
                  taken := 0, left := y.2.2.2.2.1, prog := y.2.2.2.2.2 } })) ∧
      (∀ row, ¬ FacesLink s c e.toNat → y.2.2.2.2.2 ≠ some [] → ¬ OffsetInUse s c o.toNat (some e.toNat) →
        checkRecord r column y.2.2.2.1 y.2.1 = some row → Quiet s →
        ∃ u t, CoreIs s u c (withRecord k h.toNat r) ∧ u.me = s.me ∧ exec y.1 s = .next t ∧
          TrapTaken u t 8 (BitVec.ofNat 64 (h.toNat + row * 4096))) ∧
      (FacesLink s c e.toNat ∨ OffsetInUse s c o.toNat (some e.toNat) ∨ y.2.2.2.2.2 = some [] → Quiet s →
        ∃ t w, encode y.1 = some ⟨.e, w⟩ ∧ exec y.1 s = .next t ∧ TrapTaken s t 2 (operandInfo 3 rept w))

/-- R29, R129: an E instruction that XTGT sends to a position beyond the chain, or to any but 0 in a core without one, is an illegal
operand; that TRAPINFO names the E slot is the model's choice (log entry 58). -/
def Sys2Proof.Claims.MissingPositionsTrap : Prop :=
  ∀ (s : State) (e : BitVec 2) (h x : BitVec 12) (o p : BitVec 3) (m i : BitVec 9) (n : BitVec 6), (∀ c, ¬ Addresses s c) → Quiet s →
    ∀ y ∈ [Instr.larm e h o m, .edrain e h o p n, .oset o i, .oinc o i, .ldis e, .rcflush h, .epld x p],
      ∃ t w, encode y = some ⟨.e, w⟩ ∧ exec y s = .next t ∧ TrapTaken s t 2 (operandInfo 3 (decide (0 < (coreAt s s.me).seq.repK)) w)

namespace Sys2Proof.Claims

/-- R131, R132: the bits of a record that are reserved: bytes 0x1C to 0x1F, FLAGS [7:3], 0x4A and 0x4B, SWZ [7:3] and the three bytes
after it, 0x94 to 0x97, and 0xA6 to the end. -/
def ReservedBit (k : Nat) : Prop :=
  (0x1C * 8 ≤ k ∧ k < 0x20 * 8) ∨ (0x49 * 8 + 3 ≤ k ∧ k < 0x4C * 8) ∨ (0x4C * 8 + 3 ≤ k ∧ k < 0x50 * 8) ∨
  (0x94 * 8 ≤ k ∧ k < 0x98 * 8) ∨ (0xA6 * 8 ≤ k ∧ k < 1536)

/-- R135: a record fails row n of the table, with the effective order, the unfold bit and the direction that it is armed with. -/
def RowFails (r : RecBits) (column unfold drain : Bool) (n : Nat) : Prop :=
  let f := recFmt r
  let bits := fmtBits f
  (n = 0 ∧ ((∃ d, d < 5 ∧ recExt r d = 0) ∨ 10 < f ∨ (∃ k, ReservedBit k ∧ r.getLsbD k = true) ∨ (recKind r = true ∧ f ≠ 5))) ∨
  (n = 1 ∧ f ≠ 5 ∧ (¬ (recBase r / 2 ^ 56 = 0 ∨ recBase r / 2 ^ 56 = 255) ∨ recBase r % (bits / 8) ≠ 0 ∨
    ∃ d, d < 5 ∧ recStr r d % ((bits / 8 : Nat) : Int) ≠ 0)) ∨
  (n = 2 ∧ f = 5 ∧ recStr r 0 ≠ 0) ∨
  (n = 3 ∧ column = true ∧ (recStr r 0 ≠ ((bits / 8 : Nat) : Int) ∨ recExt r 0 * bits % 1024 ≠ 0 ∨ recBase r % 128 ≠ 0 ∨
    ∃ d, 1 ≤ d ∧ d < 5 ∧ recStr r d % 128 ≠ 0)) ∨
  (n = 4 ∧ f = 5 ∧ column = false ∧ drain = true ∧ recExt r 0 % 2 = 1) ∨
  (n = 5 ∧ unfold = true ∧ (column = true ∨ recExt r 4 ≠ 1 ∨ recOw r = 0 ∨ recOh r = 0 ∨ (∃ i, i < 6 ∧ recTap r i = 0) ∨ recCb r = 0))

end Sys2Proof.Claims

/-- R135: the check of a record names the first row of the table that the record fails, and no row when it fails none. -/
def Sys2Proof.Claims.RecordsAreChecked : Prop :=
  ∀ (r : RecBits) (column unfold drain : Bool),
    (∀ n, checkRecord r column unfold drain = some n ↔
      RowFails r column unfold drain n ∧ ∀ m, m < n → ¬ RowFails r column unfold drain m) ∧
    (checkRecord r column unfold drain = none ↔ ∀ n, ¬ RowFails r column unfold drain n)

/-- R29, R144, R133, R135, R201: LARM and EDRAIN bind a loader of the position that they address or trap, and the table of checks
that a record passes or fails.  The E slot in the TRAPINFO of a missing position is the model's choice (log entry 58). -/
def Obligations.LoadersArm : Prop := Claims.LoadersArm ∧ MissingPositionsTrap ∧ RecordsAreChecked

/-- R29, R145 to R147, R200, R133: at the core that they address, OSET and OINC write an offset register that no binding uses; LDIS
disarms its edge and drops its fetched steps (one that faces a link has none); RCFLUSH drops one cached record; EPLD puts a legal
program into its slot; the record fetch that a waiting LARM or EDRAIN asks for fills the cache, and without one nothing is
fetched. -/
def Obligations.OtherLoaderInstructions : Prop :=
  ∀ (s : State) (tgt : Nat) (e : BitVec 2) (h x : BitVec 12) (o p : BitVec 3) (i : BitVec 9),
    let k := coreAt s tgt
    (Addresses s tgt → ¬ OffsetInUse s tgt o.toNat none →
      ∀ y ∈ [(Instr.oset o i, (i.setWidth 16 : Half)), (.oinc o i, Tab.get 0 k.seq.o o.toNat + i.signExtend 16)],
        ∃ t, exec y.1 s = .next t ∧
          CoreIs s t tgt { k with seq := { k.seq with o := Tab.set 0 k.seq.o o.toNat y.2 } }) ∧
    (Addresses s tgt → OffsetInUse s tgt o.toNat none → Quiet s → ∀ y ∈ [Instr.oset o i, .oinc o i],
      ∃ t w, encode y = some ⟨.e, w⟩ ∧ exec y s = .next t ∧
        TrapTaken s t 2 (operandInfo 3 (decide (0 < (coreAt s s.me).seq.repK)) w)) ∧
    (Addresses s tgt → (FacesLink s tgt e.toNat → exec (.ldis e) s = .next s) ∧
      (¬ FacesLink s tgt e.toNat → ∃ t, exec (.ldis e) s = .next t ∧
        CoreIs s t tgt (withLoader k e.toNat { (loaderAt k.edge e.toNat) with bind := none, fetched := [] }))) ∧
    (Addresses s tgt → ∃ t, exec (.rcflush h) s = .next t ∧
      CoreIs s t tgt { k with edge := { k.edge with recs := k.edge.recs.filter fun y => y.1 != h.toNat } }) ∧
    (∀ (tm : Team) (u : State) (xl : Xl), Addresses s tgt → NoAcquireWaits s → teamOf s s.me = some tm → x.toNat < tm.img.epilogueN →
      loaderTranslate s tgt ((k.ctl.rcptr.toNat + 0x140000 + 32 * x.toNat) % 2 ^ 64) false = (u, .ok xl) →
      xl.home = 1 → inHost xl.pa = false → inDoorbell xl.pa = false → inCounters xl.pa = false →
      let ws := upToStop ((List.range 16).map fun j => byteAt u (xl.pa + 2 * j + 1) ++ byteAt u (xl.pa + 2 * j))
      (∀ w ∈ ws, ∃ y, decodeSlot .epilogue (w.setWidth 32) = .ok y) →
      ∃ t, exec (.epld x p) s = .next t ∧ (coreAt t tgt).edge.progs = Tab.set [] (coreAt u tgt).edge.progs p.toNat ws ∧
        (coreAt t s.me).seq = (coreAt u s.me).seq ∧ t.sys = u.sys) ∧
    (∀ c : Nat, wantsRecord s c h.toNat = false → exec (.recordFetch c h.toNat) s = .next s) ∧
    (∀ (c : Nat) (u : State) (bs : List Byte), wantsRecord s c h.toNat = true → (coreAt s c).edge.recs.find? (fun y => y.1 == h.toNat) = none →
      fetchBlocks s c ((coreAt s c).ctl.rcptr.toNat + 192 * h.toNat) 3 = (u, .ok bs) →
      ∃ t, exec (.recordFetch c h.toNat) s = .next t ∧ CoreIs u t c (withRecord (coreAt u c) h.toNat (BitVec.ofNat 1536 (bytesNat bs))))

namespace Sys2Proof.Claims

/-! R136 to R138, R142: where an element of a step stands, and what a feed presents. -/

/-- NL, the elements of a register (R136). -/
def perRegister (b : Binding) : Nat := 512 / fmtBits (recFmt b.recd)

/-- The five indices of element l at edge position e of step q (R136, R142). -/
def elementIndices (b : Binding) (q e l : Nat) : List Int :=
  let r := b.recd
  let p := b.e0 + e
  let n (x : Nat) : Int := x
  if b.unfold = true then
    let cb := recCb r
    let kw := recTap r 0
    if cb * kw * recTap r 1 ≤ q then [-1, -1, -1, -1, -1]
    else
      [n (q % cb * perRegister b + l), n (p % recOw r * recTap r 2 + q / cb % kw * recTap r 4) - n (recTap r 6),
       n (p / recOw r % recOh r * recTap r 3 + q / (cb * kw) % recTap r 1 * recTap r 5) - n (recTap r 7), n (p / (recOw r * recOh r)), 0]
  else
    (if b.column = true then [n p, n l] else [n l, n p]) ++
      [n (q % recExt r 2), n (q / recExt r 2 % recExt r 3), n (q / (recExt r 2 * recExt r 3))]

/-- The indices of an element that is stored; none is padding. -/
def stored (b : Binding) (q e l : Nat) : Option (List Nat) :=
  let ix := elementIndices b q e l
  if (List.range 5).all fun d => decide (0 ≤ ix.getD d 0 ∧ ix.getD d 0 < recExt b.recd d) then some (ix.map Int.toNat) else none

/-- R136, R137: the byte of an element: BASE, the strides and Offset0, swizzled. -/
def elementAt (r : RecBits) (ix : List Nat) : Nat :=
  let i (d : Nat) : Int := (ix.getD d 0 : Nat)
  let off : Int := if recFmt r = 5 then i 0 / 2 else i 0 * recStr r 0
  let x := ((recBase r + i 1 * recStr r 1 + i 2 * recStr r 2 + i 3 * recStr r 3 + i 4 * recStr r 4 + off) % 2 ^ 64).toNat
  x ^^^ ((x / 128 % 8 &&& recSwz r) * 16)

/-- R138: the bytes of the scale tables for an element: a block scale and its micro-exponents (M16), or a block scale and the
two bytes of a band scale (K8). -/
def scalesAt (r : RecBits) (ix : List Nat) : List Nat :=
  let i (d : Nat) : Int := (ix.getD d 0 : Nat)
  let block (n : Int) : Int := recSbase r + n + i 1 * recSstr r 1 + i 2 * recSstr r 2 + i 3 * recSstr r 3 + i 4 * recSstr r 4
  let band : Int := recBbase r + 2 * (i 1 / 64) + i 2 * recBstr r 2 + i 3 * recBstr r 3 + i 4 * recBstr r 4
  (if recKind r = true then [block (2 * (i 0 / 16)), block (2 * (i 0 / 16)) + 1] else [block (i 0 / 8), band, band + 1]).map
    fun x => (x % 2 ^ 64).toNat

/-- What the loader reads for an element, address and bytes, in this order: its own bytes, and for FP4 its scales. -/
def readsOf (b : Binding) (q e l : Nat) : List (Nat × Nat) :=
  match stored b q e l with
  | none => []
  | some ix =>
    if recFmt b.recd = 5 then (elementAt b.recd ix, 1) :: (scalesAt b.recd ix).map fun x => (x, 1)
    else [(elementAt b.recd ix, fmtBits (recFmt b.recd) / 8)]

/-- Reads of the loader of core c, one after another, from state s and the lines read so far to state t, and the values that they
give. -/
def ReadsAre (c : Nat) : State × LineBuf → List (Nat × Nat) → State × LineBuf → List Nat → Prop
  | s, [], t, vs => t = s ∧ vs = []
  | s, p :: l, t, vs => ∃ u buf v ws, loaderRead s.1 s.2 c p.1 p.2 = (u, buf, .ok v) ∧ ReadsAre c (u, buf) l t ws ∧ vs = v :: ws

/-- R136, R138, R153, R154: what position e presents, where vals l are the values of the reads of its element l.  Of a format
other than FP4: each element's bytes or PAD, and a zero sidecar.  Of FP4: each element's nibble or PAD, and for each group of
8 (K8) or 16 (M16) positions, and each pair of M16, the entry of its elements, padding counting as 0: in column order all of
them must agree, else the position presents a scale conflict; in row order it is the first stored element's (log entry 13);
then the band scales of the two halves (K8), zeros, and KIND. -/
def Presents (b : Binding) (q e : Nat) (vals : Nat → List Nat) (v : FetchRes) : Prop :=
  let w := fmtBits (recFmt b.recd)
  let val (l i : Nat) : Nat := (vals l).getD i 0
  let bits (l : Nat) : Nat := match stored b q e l with
    | none => recPad b.recd
    | some ix => if recFmt b.recd = 5 then (if ix.getD 0 0 % 2 = 0 then val l 0 else val l 0 / 16) else val l 0
  let scale (l : Nat) : Nat := match stored b q e l with | none => 0 | some _ => val l 1
  let micro (l : Nat) : Nat := match stored b q e l with | none => 0 | some ix => val l 2 / 2 ^ (ix.getD 0 0 % 16 / 2) % 2
  let band (l : Nat) : Nat := match stored b q e l with | none => 0 | some _ => val l 2 + 256 * val l 3
  let firstOf (f : Nat → Nat) (lo n y : Nat) : Prop :=
    (∃ l, lo ≤ l ∧ l < lo + n ∧ stored b q e l ≠ none ∧ (∀ j, lo ≤ j → j < l → stored b q e j = none) ∧ f l = y) ∨
    ((∀ l, lo ≤ l → l < lo + n → stored b q e l = none) ∧ y = 0)
  let entry (f : Nat → Nat) (lo n y : Nat) : Prop :=
    if b.column = true then ∀ l, lo ≤ l → l < lo + n → f l = y else firstOf f lo n y
  let m := recKind b.recd
  let n := if m = true then 16 else 8
  let agree : Prop := (∀ g, g < 128 / n → ∃ y, entry scale (n * g) n y) ∧ (m = true → ∀ p, p < 64 → ∃ y, entry micro (2 * p) 2 y)
  (∀ x, v = .reg x → ∀ l, l < perRegister b → elem w x.data l = bits l % 2 ^ w) ∧
  (recFmt b.recd ≠ 5 → ∃ x, v = .reg x ∧ x.side = 0) ∧
  (recFmt b.recd = 5 → ¬ agree → ∃ line, v = .bad 4 line) ∧
  (recFmt b.recd = 5 → agree → ∃ x, v = .reg x ∧
    let byte (i : Nat) : Nat := elem 8 (x.side.setWidth 512) i
    (∀ g, g < 128 / n → ∀ y, entry scale (n * g) n y → byte (if m = true then 2 * g else g) = y % 256) ∧
    (m = true → ∀ p, p < 64 → ∀ y, entry micro (2 * p) 2 y → byte (2 * (p / 8) + 1) / 2 ^ (p % 8) % 2 = y) ∧
    (m = false → ∀ h, h < 2 → ∀ y, (if b.column = true then firstOf band (64 * h) 64 y else firstOf band 0 128 y) →
      byte (16 + 2 * h) = y % 256 ∧ byte (17 + 2 * h) = y / 256 % 256) ∧
    (∀ i, (if m = true then 16 else 20) ≤ i → i < 31 → byte i = 0) ∧ byte 31 = if m = true then 1 else 0)

/-- An address of a page in a cluster's scratchpad (HOME=01) that runs, which the loader of core c translates without a walk. -/
def OnPad (s : State) (c va : Nat) (write : Bool) (x : Xl) : Prop :=
  loaderTranslate s c va write = (s, .ok x) ∧ x.home = 1 ∧ scratchStands s x.pa = false ∧ inDoorbell x.pa = false ∧ inCounters x.pa = false ∧ inHost x.pa = false
/-- The number that n bytes of memory hold at the place of an address. -/
def onPad (s : State) (c : Nat) (p : Nat × Nat) : Nat :=
  match (loaderTranslate s c p.1 false).2 with
  | .ok x => bytesNat ((List.range p.2).map fun j => byteAt s (x.pa + j))
  | .error _ => 0

/-- A feed is bound to edge e of core c and its array runs. -/
def Feeds (s : State) (c e : Nat) (b : Binding) : Prop :=
  (loaderAt (coreAt s c).edge e).bind = some b ∧ 0 < b.left ∧ b.drain = false ∧ (coreAt s c).arr.frozen = false
/-- The state that a fetched step leaves: it joins the steps of its loader. -/
def StepFetched (u t : State) (c e q : Nat) (vs : List FetchRes) : Prop :=
  CoreIs u t c (withLoader (coreAt u c) e { (loaderAt (coreAt u c).edge e) with
    fetched := (((loaderAt (coreAt u c).edge e).fetched.filter fun f => f.q != q) ++ [⟨q, vs⟩]) })

/-- The capture that a drain of edge e of core c writes next: complete, processed, with no failed write before it, and to no
scratchpad that stands (R370). -/
def Drains (s : State) (c e : Nat) (p : Capture) (rest : List Capture) : Prop :=
  (loaderAt (coreAt s c).edge e).caps = p :: rest ∧ p.got = p.len ∧ (p.bind.prog = none ∨ p.done = p.len) ∧
  drainBlocked s c e = false ∧ drainStands s c p = false ∧ ∀ x ∈ rest, x.id ≠ p.id
/-- The elements of a captured position that a drain writes (R136, R196). -/
def drained (p : Capture) : Nat := if p.bind.prog.isSome = true then min 16 (perRegister p.bind) else perRegister p.bind
/-- The bit of its page's memory at which an element starts: FP4 puts the odd index into the high nibble. -/
def startBit (r : RecBits) (ix : List Nat) (x : Xl) : Nat := 8 * x.pa + (if recFmt r = 5 ∧ ix.getD 0 0 % 2 = 1 then 4 else 0)
/-- Element l of the position, stored and translated as xs l, takes bit k of memory. -/
def Takes (p : Capture) (xs : Nat → Xl) (l k : Nat) : Prop :=
  ∃ ix, stored p.bind p.q p.wpos l = some ix ∧ startBit p.bind.recd ix (xs l) ≤ k ∧
    k < startBit p.bind.recd ix (xs l) + fmtBits (recFmt p.bind.recd)
/-- Bit k of memory comes from element l, the last that takes it, as the value y. -/
def Brings (p : Capture) (xs : Nat → Xl) (l k : Nat) (y : Bool) : Prop :=
  Takes p xs l k ∧ l < drained p ∧ (∀ j, l < j → j < drained p → ¬ Takes p xs j k) ∧
  ∀ ix, stored p.bind p.q p.wpos l = some ix →
    y = (Tab.get FReg.zero p.regs p.wpos).data.getLsbD (fmtBits (recFmt p.bind.recd) * l + (k - startBit p.bind.recd ix (xs l)))
/-- Bit k of memory: bit k mod 8 of byte k div 8. -/
def memBit (s : State) (k : Nat) : Bool := (byteAt s (k / 8)).getLsbD (k % 8)
/-- The loader after a position of its oldest capture has been written: the next position, or after the last the next capture. -/
def positionDone (l : Loader) (p : Capture) (rest : List Capture) : Loader :=
  { l with caps := if p.len ≤ p.wpos + 1 then rest else { p with wpos := p.wpos + 1 } :: rest }

end Sys2Proof.Claims

/-- R262, R211, R370: a read of a loader whose address translates waits while the line's full bit is clear or its scratchpad
stands; else it gives the line's bytes: those that the step has read before, or those of the one read of the whole line that now
takes place. -/
def Sys2Proof.Claims.LinesAreReadOnce : Prop :=
  ∀ (s u : State) (buf : LineBuf) (c va n : Nat) (x : Xl), loaderTranslate s c va false = (u, .ok x) → x.pa % 128 + n ≤ 128 →
    let line := x.pa / 128
    let bytes (d : LineData) : Nat := bytesNat ((List.range n).map fun i => lineByte d (x.pa % 128 + i))
    let waits : Prop := (x.home = 1 ∧ fullBit u line = false) ∨ scratchStands u x.pa = true
    (waits → loaderRead s buf c va n = (u, buf, .wait)) ∧
    (¬ waits →
      (∀ d, (buf.find? fun l => l.1 == line) = some (line, d) → loaderRead s buf c va n = (u, buf, .ok (bytes d))) ∧
      ((buf.find? fun l => l.1 == line) = none → ∀ v bs, clusterRead u c { x with pa := 128 * line } 128 = (v, bs) →
        ∃ d, loaderRead s buf c va n = (v, (line, d) :: buf, .ok (bytes d)) ∧ ∀ i, i < 128 → bs[i]? = some (lineByte d i)))

/-- R139, R136 to R138, R142, R153, R154, R211, R226, R262: a feed fetch of the next step (up to four ahead, log entry 61) completes
when each read of its elements gives its bytes: every position presents what R136 to R138 make of them; on scratchpad pages
whose full bits are set these are the bytes of memory, and nothing but the loader changes.  A step of which a position faults
is kept with the fault; while a line is not full, or the array is frozen, nothing changes. -/
def Sys2Proof.Claims.FeedsPresentTheirElements : Prop :=
  (∀ (s : State) (c e q : Nat) (b : Binding) (st : Nat → Nat → State × LineBuf) (vals : Nat → Nat → List Nat),
    let len := edgeLen (coreAt s c).arr.win e
    Feeds s c e b → recFmt b.recd ≤ 10 → nextFetch (coreAt s c) e b = some q →
    (∀ f ∈ (loaderAt (coreAt s c).edge e).fetched, f.q ≠ q) → st 0 0 = (s, []) → (∀ i, i < len → st (i + 1) 0 = st i (perRegister b)) →
    (∀ i, i < len → ∀ l, l < perRegister b → ReadsAre c (st i l) (readsOf b q i l) (st i (l + 1)) (vals i l)) →
    ∃ t vs, exec (.feedFetch c e) s = .next t ∧ StepFetched (st len 0).1 t c e q vs ∧ vs.length = len ∧
      ∀ i, i < len → ∃ v, vs[i]? = some v ∧ Presents b q i (vals i) v) ∧
  (∀ (s : State) (c e : Nat) (b : Binding),
    let len := edgeLen (coreAt s c).arr.win e
    let q := b.q0 + b.taken
    Feeds s c e b → recFmt b.recd ≤ 10 → (loaderAt (coreAt s c).edge e).fetched = [] →
    (∀ i, i < len → ∀ l, l < perRegister b → ∀ p ∈ readsOf b q i l,
      ∃ x, OnPad s c p.1 false x ∧ x.pa % 128 + p.2 ≤ 128 ∧ fullBit s (x.pa / 128) = true) →
    ∃ t vs, exec (.feedFetch c e) s = .next t ∧ StepFetched s t c e q vs ∧ vs.length = len ∧
      ∀ i, i < len → ∃ v, vs[i]? = some v ∧ Presents b q i (fun l => (readsOf b q i l).map (onPad s c)) v) ∧
  (∀ (s u : State) (c e q : Nat) (b : Binding) (vs : List FetchRes), Feeds s c e b → nextFetch (coreAt s c) e b = some q →
    (∀ f ∈ (loaderAt (coreAt s c).edge e).fetched, f.q ≠ q) →
    fetchPositions s [] c b q 0 (edgeLen (coreAt s c).arr.win e) = (u, some vs) →
    ∃ t, exec (.feedFetch c e) s = .next t ∧ StepFetched u t c e q vs ∧ vs.length = edgeLen (coreAt s c).arr.win e) ∧
  (∀ (s u : State) (c e q : Nat) (b : Binding),
    (Feeds s c e b → nextFetch (coreAt s c) e b = some q → (∀ f ∈ (loaderAt (coreAt s c).edge e).fetched, f.q ≠ q) →
      fetchPositions s [] c b q 0 (edgeLen (coreAt s c).arr.win e) = (u, none) → exec (.feedFetch c e) s = .next s) ∧
    ((coreAt s c).arr.frozen = true → exec (.feedFetch c e) s = .next s))

/-- R140, R136, R137, R141, R196, R262: a drain write of a captured position whose stored elements all translate completes:
each line is written once, with the bits that its elements bring to their places and no other, the later element winning, and
the loader goes on to the next position; padding is not written.  On scratchpad pages these are bits of memory, and nothing
else changes.  Where a translation fails, nothing of the position is written (log entry 84) and a loader fault of the step's
bundle is detected; while that waits, nothing is written.  After the task's end no fault is detected, and the position is over
unwritten (log entry 97).  While a line's scratchpad stands nothing is written. -/
def Sys2Proof.Claims.DrainsWriteTheirElements : Prop :=
  (∀ (s : State) (c e : Nat) (p : Capture) (rest : List Capture) (st : Nat → State) (xs : Nat → Xl),
    let w := fmtBits (recFmt p.bind.recd)
    Drains s c e p rest → recFmt p.bind.recd ≤ 10 → st 0 = s →
    (∀ l, l < drained p → (stored p.bind p.q p.wpos l = none → st (l + 1) = st l) ∧
      ∀ ix, stored p.bind p.q p.wpos l = some ix →
        loaderTranslate (st l) c (elementAt p.bind.recd ix) true = (st (l + 1), .ok (xs l)) ∧ 8 * (xs l).pa % w = 0) →
    ∃ (t : State) (ws : List LineWrite), exec (.drainWrite c e) s = .next t ∧
      t = modLoader (ws.foldl (writeBits c) (st (drained p))) c e (positionWritten p) ∧
      (ws.map fun v => v.x.pa / 128).Nodup ∧
      (∀ l k, l < drained p → Takes p xs l k → ∃ v ∈ ws, v.x.pa / 128 = k / 1024 ∧ v.bits.getLsbD (k % 1024) = true) ∧
      (∀ v ∈ ws, ∀ k, k < 1024 → v.bits.getLsbD k = true →
        ∃ l, Brings p xs l (1024 * (v.x.pa / 128) + k) (v.data.getLsbD k))) ∧
  (∀ (s : State) (c e : Nat) (p : Capture) (rest : List Capture) (xs : Nat → Xl),
    let w := fmtBits (recFmt p.bind.recd)
    Drains s c e p rest → recFmt p.bind.recd ≤ 10 →
    (∀ l, l < drained p → ∀ ix, stored p.bind p.q p.wpos l = some ix →
      OnPad s c (elementAt p.bind.recd ix) true (xs l) ∧ 8 * (xs l).pa % w = 0) →
    ∃ t, exec (.drainWrite c e) s = .next t ∧
      (∀ l k y, Brings p xs l k y → memBit t k = y) ∧
      (∀ k, (∀ l, l < drained p → ¬ Takes p xs l k) → memBit t k = memBit s k) ∧
      coreAt t c = withLoader (coreAt s c) e (positionDone (loaderAt (coreAt s c).edge e) p rest) ∧
      (∀ c', c' ≠ c → coreAt t c' = coreAt s c') ∧ { t with cores := s.cores, sys := { t.sys with mem := s.sys.mem } } = s) ∧
  (∀ (s u : State) (c e kind line : Nat) (p : Capture) (rest : List Capture), Drains s c e p rest →
    drainElems s c p.bind p.q p.wpos (Tab.get FReg.zero p.regs p.wpos).data [] (List.range (drained p)) = (u, .error (kind, line)) →
    ∃ t, exec (.drainWrite c e) s = .next t ∧
      ((coreAt s (masterOf s c)).task.isSome = true → ∃ d : Deferred, d.cause = 0x12 ∧ d.wavetag = p.bundle ∧
        CoreIs u t (masterOf u c) { coreAt u (masterOf u c) with deferred := (coreAt u (masterOf u c)).deferred ++ [d] }) ∧
      ((coreAt s (masterOf s c)).task = none →
        CoreIs u t c (withLoader (coreAt u c) e (positionDone (loaderAt (coreAt u c).edge e) p rest)))) ∧
  (∀ (s : State) (c e : Nat), (drainBlocked s c e = true → exec (.drainWrite c e) s = .next s) ∧
    ∀ p rest, (loaderAt (coreAt s c).edge e).caps = p :: rest → drainStands s c p = true → exec (.drainWrite c e) s = .next s)

/-- R139, R140, R136 to R138, R141, R142, R153, R154, R196, R211: feeds fetch their steps' elements and drains write them, each at
its place; both complete on the states that the clauses name. -/
def Obligations.FeedsAndDrains : Prop := LinesAreReadOnce ∧ FeedsPresentTheirElements ∧ DrainsWriteTheirElements

namespace Sys2Proof.Claims

/-! R196 to R199: the epilogue unit's arithmetic. -/

/-- The exact value of a working value with its sign, where it is neither a NaN nor an infinity. -/
def exactOf (ty v : Nat) : Option (Bool × Dyad) :=
  match tyOf ty with
  | .flt f => if f.isNaN v = true ∨ f.isInf v = true then none else some (f.sign v, f.value v)
  | .int w => some (decide (sInt w v < 0), ⟨sInt w v, 0⟩)
  | .fix w => some (decide (sInt w v < 0), ⟨sInt w v, 1 - (w : Int)⟩)
/-- A value that has no exact one: a NaN, or an infinity of a sign. -/
def isNaNOf (ty v : Nat) : Bool := match tyOf ty with | .flt f => f.isNaN v | _ => false
def signOf (ty v : Nat) : Bool := match tyOf ty with | .flt f => f.sign v | _ => false
/-- A NaN as FP32: quieted, its sign and payload kept. -/
def quieted (ty v : Nat) : Nat := match tyOf ty with | .flt f => (convFF f fp32 .rne v).1 | _ => 0
/-- K: the FP16 value of imm12 · 16. -/
def kOf (imm : Nat) : Dyad := fp16.value (imm * 16)

/-- V + K, rounded to FP32 in RNE. -/
def eaddIs (ty imm v : Nat) : Nat :=
  match exactOf ty v with
  | some (s, x) => (roundDyad fp32 .rne (s && fp16.sign (imm * 16)) (x.add (kOf imm))).1
  | none => if isNaNOf ty v = true then quieted ty v else fp32.infBits (signOf ty v)
/-- V · K, rounded to FP32 in RNE; an infinity by a zero K is the canonical NaN. -/
def emulIs (ty imm v : Nat) : Nat :=
  match exactOf ty v with
  | some (s, x) => (roundDyad fp32 .rne (s != fp16.sign (imm * 16)) (x.mul (kOf imm))).1
  | none => if isNaNOf ty v = true then quieted ty v
    else if (kOf imm).m = 0 then fp32.canonNaN else fp32.infBits (signOf ty v != fp16.sign (imm * 16))
/-- +0 for a negative value and for -0, else V; a NaN stays. -/
def ereluIs (ty v : Nat) : Nat :=
  match exactOf ty v with
  | some (s, _) => if s = true then 0 else v
  | none => if isNaNOf ty v = false ∧ signOf ty v = true then 0 else v
/-- min(max(V, -K), K), rounded to FP32 in RNE; a NaN of FP32 stays, one of another type is quieted as it becomes FP32. -/
def eclmpIs (ty imm v : Nat) : Nat :=
  let k := kOf imm
  let out (s : Bool) (x : Dyad) : Nat := (roundDyad fp32 .rne s x).1
  match exactOf ty v with
  | some (s, x) => if x.lt k.neg = true then out true k.neg else if k.lt x = true then out false k else out s x
  | none => if isNaNOf ty v = true then (if ty = 0 then v else quieted ty v)
    else if signOf ty v = true then out true k.neg else out false k

/-- R198, R199: what a word makes of the register in the unit and of the unit's generator. -/
def afterWord (i : Instr) (x : EpiRun × Word) : EpiRun × Word :=
  let r := x.1
  let g := genStep x.2
  match i with
  | .eadd k => ({ r with vals := r.vals.map (eaddIs r.ty k.toNat), ty := 0 }, x.2)
  | .emul k => ({ r with vals := r.vals.map (emulIs r.ty k.toNat), ty := 0 }, x.2)
  | .erelu => ({ r with vals := r.vals.map (ereluIs r.ty) }, x.2)
  | .eclmp k => ({ r with vals := r.vals.map (eclmpIs r.ty k.toNat), ty := 0 }, x.2)
  | .ecvt t sr =>
    if sr = 1 ∧ r.ty = 0 then
      ({ r with
          vals := (List.range r.vals.length).map fun l => (convertSR fp32 (fmtOf t) (genBits g l) (r.vals.getD l 0)).1
          ty := t.toNat }, g)
    else ({ r with vals := r.vals.map fun v => (convert (tyOf r.ty) (tyOf t.toNat) .rne v).1, ty := t.toNat }, x.2)
  | _ => x
/-- A program: its words up to the first ESTOP, or all of them. -/
def afterProgram : List Half → EpiRun × Word → EpiRun × Word
  | [], x => x
  | w :: ws, x =>
    match decodeSlot .epilogue (w.setWidth 32) with
    | .ok .estop => x
    | .ok i => afterProgram ws (afterWord i x)
    | .error _ => afterProgram ws x

/-- R196: the register's data as it leaves: value l at position l, converted in RNE to FMT where the working type differs. -/
def LeavesAs (r : EpiRun) (d : RegData) : Prop :=
  fmtBits r.fmt ≤ 32 → ∀ l, l < 16 → elem (fmtBits r.fmt) d l =
    (if r.ty = r.fmt then r.vals.getD l 0 else (convert (tyOf r.ty) (tyOf r.fmt) .rne (r.vals.getD l 0)).1) % 2 ^ fmtBits r.fmt
/-- The core's E side once the register has left the unit with data d: it stands in its capture, whose count of processed
positions rises by one. -/
def leftUnit (x : EdgeSt) (r : EpiRun) (d : RegData) : EdgeSt :=
  { x with
    epi := none
    loaders := Tab.set .reset x.loaders r.edge { (loaderAt x r.edge) with caps := (loaderAt x r.edge).caps.map fun c =>
      if c.id == r.cap then { c with regs := Tab.set .zero c.regs r.pos ⟨d, 0⟩, done := c.done + 1 } else c } }
/-- R196: the initial working type. -/
def startsAs (fmt : Nat) : Nat := if fmt = 6 ∨ fmt = 9 then fmt else if fmt = 7 ∨ fmt = 8 then 6 else if fmt = 10 then 9 else 0

end Sys2Proof.Claims

/-- R196 to R199, R57: each epilogue word completes in every state: it acts on the working values of the register in the
unit, and on the unit's generator when it rounds stochastically, and on nothing else; with no register in the unit it
changes nothing; ESTOP ends the program: the values, converted to FMT where the working type differs, stand in the
captured register. -/
def Sys2Proof.Claims.EpilogueWordsAct : Prop :=
  ∀ (s : State) (i : BitVec 12) (j : BitVec 11) (ty : BitVec 4) (sr : BitVec 1),
    let k := coreAt s s.me
    (∀ y ∈ [Instr.epass, .eadd i, .emul i, .erelu, .eclmp j, .ecvt ty sr],
      (∀ r, k.edge.epi = some r → ∃ t, exec y s = .next t ∧
        CoreIs s t s.me { k with edge := { k.edge with
          epi := some (afterWord y (r, k.edge.egen)).1, egen := (afterWord y (r, k.edge.egen)).2 } }) ∧
      (k.edge.epi = none → ∃ t, exec y s = .next t ∧ CoreIs s t s.me k)) ∧
    (∀ r, k.edge.epi = some r → ∃ t d, exec .estop s = .next t ∧ CoreIs s t s.me { k with edge := leftUnit k.edge r d } ∧ LeavesAs r d) ∧
    (k.edge.epi = none → exec .estop s = .next s)

/-- R196, R202: the next captured register in capture order passes through its binding's program, of up to sixteen words,
as one event: from its sixteen 32-bit values in the initial working type, each word in turn, to what leaves in FMT. -/
def Sys2Proof.Claims.EpilogueProcessesARegister : Prop :=
  ∀ (s : State) (c e cap pos : Nat) (q : List (Nat × Nat × Nat)) (x : Capture) (ws : List Half),
    let k := coreAt s c
    k.edge.epi = none → k.edge.epq = (e, cap, pos) :: q → ((loaderAt k.edge e).caps.find? fun y => y.id == cap) = some x →
    x.bind.prog = some ws → ws.length ≤ 16 →
    let fmt := recFmt x.bind.recd
    let start : EpiRun := ⟨e, cap, pos, [], (List.range 16).map (elem 32 (Tab.get FReg.zero x.regs pos).data), startsAs fmt, fmt⟩
    let r := afterProgram ws (start, k.edge.egen)
    ∃ t d, exec (.epilogueProcess c) s = .next t ∧
      CoreIs s t c { k with edge := leftUnit { k.edge with epq := q, egen := r.2 } r.1 d } ∧ LeavesAs r.1 d

/-- R196 to R199, R202, R57: the epilogue words act on the register in the unit, and a captured register passes through
its binding's program as one event.  That a NaN of a type other than FP32 that ECLMP meets is quieted is the model's reading
(log entry 74). -/
def Obligations.EpilogueUnit : Prop := EpilogueWordsAct ∧ EpilogueProcessesARegister

/-! ### Tasks and the tile generator -/

namespace Sys2Proof.Claims

/-- The value of n little-endian bytes of the home copies. -/
def wordAt (s : State) (a n : Nat) : Nat := bytesNat ((List.range n).map fun i => byteAt s (a + i))
/-- A place with a single copy in a scratchpad (R241). -/
def Single (x : Xl) : Prop := x.home = 1 ∧ inDoorbell x.pa = false ∧ inCounters x.pa = false ∧ inHost x.pa = false
/-- R116, R237. -/
def Canonical (va : Nat) : Prop := va / 2 ^ 56 = 0 ∨ va / 2 ^ 56 = 255
/-- The units outside the cores see an address of an ASID at x, from a translation that is held already (R245). -/
def SeenAt (s : State) (asid va : Nat) (write : Bool) (x : Xl) : Prop :=
  pavTranslate s asid (va % 2 ^ 64) write = (s, .ok x) ∧ Single x
/-- The n bytes at pa became the value v, every other byte of memory is as before. -/
def BytesSet (s t : State) (pa n v : Nat) : Prop :=
  (∀ i, i < n → (byteAt t (pa + i)).toNat = v / 256 ^ i % 256) ∧ ∀ q, q < pa ∨ pa + n ≤ q → byteAt t q = byteAt s q
/-- Nothing but bytes of memory changed. -/
def OnlyMemory (s t : State) : Prop := { t with sys := { t.sys with mem := s.sys.mem } } = s
/-- No record is queued anywhere. -/
def NoRecords (s : State) (tm : Team) : Prop := tm.qlen = 0 ∧ tm.front = [] ∧ ∀ c, (coreAt s c).localq = []
/-- A logical core of team t runs on physical core c, and its state is there (R228, R233). -/
def RunsOn (s : State) (t : Nat) (tm : Team) (l c : Nat) : Prop :=
  tm.place.getD l 0 = c ∧ Tab.look s.sched.saved (64 * t + c) = none ∧ (coreAt s c).part = tm.part
/-- The registers that only G a and G b of core c changed. -/
def PairSet (s t : State) (c d : Nat) (v w : Dword) : Prop :=
  ∀ r : BitVec 5, readG (coreAt t c) r =
    if r ≠ 0 ∧ r.toNat = d then v else if r.toNat = d + 1 then w else readG (coreAt s c) r

/-- A TILENEXT of a logical core has not been answered (R291). -/
def AsksForATile (g : Gen) (l : Nat) : Prop := Tab.get [] g.waiting l ≠ [] ∨ ∃ r ∈ g.reqs, r.kind = 4 ∧ r.lcore = l

/-- R289, R313: what SCHRD reads. -/
def scheduleValue (g : Gen) (n : Nat) : Dword :=
  if n = 15 then g.ver
  else if n = 16 then BitVec.ofNat 64 (g.last.toNat + if g.doneN + g.poisonN = schTotal g then 256 else 0)
  else if n = 17 then BitVec.ofNat 64 (g.doneN % 2 ^ 48) else if n = 18 then BitVec.ofNat 64 (g.claimN % 2 ^ 48)
  else Tab.get 0 g.act n

end Sys2Proof.Claims

/-- R320, R296, R297, R299, R300: RETIRE outside a handler releases at DEVICE scope, leaves its core idle and its loaders disarmed,
and tells the generator; it takes the task off its join record (DONE rises, COUNT falls, UNDER at 0), and in a team of one
core without a generator the queued record enters the local queue; an idle core whose end the generator has served and whose array is empty
starts its legal first-place record: G1 to G8, the program counter and the task come from the record and the team, and K,
the barriers, the cells and the record cache stay. -/
def Obligations.TasksRetireAndStart : Prop :=
  (∀ (s : State) (k : Task) (tm : Team), (coreAt s s.me).ctl.inh = false → (coreAt s s.me).chain = [] →
    (coreAt s s.me).task = some k → k.join = 0 → teamAt s k.team = some tm → NoRecords s tm →
    let u := release s s.me 4
    ∃ t, exec .retire s = .next t ∧ t.sys = u.sys ∧ (∀ c, c ≠ s.me → coreAt t c = coreAt u c) ∧
      (coreAt t s.me).run = .idle ∧ (coreAt t s.me).task = none ∧ (coreAt t s.me).arr = (coreAt u s.me).arr ∧
      (coreAt t s.me).seq.g = (coreAt u s.me).seq.g ∧
      (∀ e, (loaderAt (coreAt t s.me).edge e).bind = none ∧ (loaderAt (coreAt t s.me).edge e).fetched = []) ∧
      teamAt t k.team = some { tm with gen := tm.gen.map fun g => { g with
        reqs := insertReq ⟨5, k.lcore, s.me, 0, 0, 0, [], s.beat⟩ g.reqs } }) ∧
  (∀ (s : State) (k : Task) (tm : Team) (x : Xl), (coreAt s s.me).ctl.inh = false → (coreAt s s.me).chain = [] →
    (coreAt s s.me).task = some k → k.join ≠ 0 → teamAt s k.team = some tm → NoRecords s tm →
    let u := release s s.me 4
    pavTranslate u tm.asid k.join true = (u, .ok x) → Single x →
    let w (i : Nat) : Nat := wordAt u (x.pa + 4 * i) 4
    ∃ t, exec .retire s = .next t ∧ (coreAt t s.me).run = .idle ∧ (coreAt t s.me).task = none ∧
      (∀ i, i < 5 → wordAt t (x.pa + 4 * i) 4 =
        [w 0 - 1, (w 1 + 1) % 2 ^ 32, w 2, w 3, if w 0 = 0 then w 4 ||| 4 else w 4].getD i 0) ∧
      (∀ q, q < x.pa ∨ x.pa + 20 ≤ q → byteAt t q = byteAt u q) ∧ { t.sys with mem := u.sys.mem } = u.sys) ∧
  (∀ (s : State) (k : Task) (tm : Team) (y : Xl), (coreAt s s.me).ctl.inh = false → (coreAt s s.me).chain = [] →
    (coreAt s s.me).task = some k → k.join = 0 → teamAt s k.team = some tm → tm.gen = none → tm.state = .running →
    tm.place = [s.me] → (coreAt s s.me).localq = [] → liveHere s k.team s.me = true → tm.front = [] → tm.qlen = 1 →
    let u := release s s.me 4
    pavTranslate u tm.asid (tm.rcptr + 0x100000 + 64 * (tm.qhead % 4096)) false = (u, .ok y) → Single y →
    ∃ t, exec .retire s = .next t ∧ (coreAt t s.me).run = .idle ∧ (coreAt t s.me).task = none ∧
      (coreAt t s.me).localq = [(tm.popped, BitVec.ofNat 512 (wordAt u y.pa 64))] ∧
      teamAt t k.team = some { tm with qhead := (tm.qhead + 1) % 4096, qlen := 0, popped := tm.popped + 1 } ∧ t.sys = u.sys) ∧
  (∀ (s : State) (c t o : Nat) (x : Team) (r : BitVec 512) (e : Nat × Nat × List (BitVec 128)), bindingOf s c = some (t, x) →
    teamAt s t = some x → x.state = .running → liveHere s t c = true → retiring x c = false → (coreAt s c).run = .idle → (coreAt s c).task = none →
    arrayEmpty s (masterOf s c) = true → arrayEmpty s c = true → isHalted s c = false → (coreAt s c).localq = [(o, r)] →
    x.qlen = 0 → x.front = [] → (coreAt s c).mem.pend = [] →
    (∀ c', c' ≠ c → (coreAt s c').localq = []) → (∀ c', (coreAt s c').chain = []) → recordOk r = true →
    x.img.ents[(coreAt s c).lcore]? = some e → recField r 0 4 < e.2.2.length →
    ∃ u, exec (.taskStart c) s = .next u ∧ (coreAt u c).run = .running ∧ (coreAt u c).seq.pc = recField r 0 4 ∧
      (coreAt u c).task = some ⟨t, (coreAt s c).lcore, false, recField r 16 8, r, 0⟩ ∧ (coreAt u c).localq = [] ∧
      (∀ g : BitVec 5, readG (coreAt u c) g = BitVec.ofNat 64 ([0, (coreAt s c).lcore, x.img.cores, recField r 0x20 8, recField r 0x18 2,
        recField r 0x1A 2, recField r 0x1C 2, recField r 16 8, recField r 8 8].getD g.toNat 0)) ∧
      (coreAt u c).seq.m = [] ∧ (coreAt u c).seq.o = [] ∧ (coreAt u c).seq.k = (coreAt s c).seq.k ∧
      (coreAt u c).seq.bars = (coreAt s c).seq.bars ∧ (coreAt u c).arr.cells = (coreAt s c).arr.cells ∧
      (coreAt u c).arr.win = ⟨0, 0, 32, 32, .nw⟩ ∧ (coreAt u c).edge.recs = (coreAt s c).edge.recs ∧
      (coreAt u c).ctl = { (coreAt s c).ctl with frm := 0, chk := false, trapen := 0, sxf := 0, repcnt := 0 })

/-- R317, R318, R319, R300, R298, R60: SPAWN reads the record at its address: an illegal one is an illegal operand; a legal one
releases at DEVICE scope and sends its push, whose register is then absent.  A push that is served into a full queue
answers 1; else it answers 0 and the record stands at the queue's tail.  JOINW starts to wait; while its program runs, a reading of its
record completes it only with COUNT 0, writing the four counts. -/
def Obligations.SpawnAndJoin : Prop :=
  (∀ (s v w : State) (x z : Xl) (d a : BitVec 5) (k : Task) (tm : Team), Plain (gr s a).toNat 64 →
    seqTranslate s s.me (gr s a).toNat false = (v, .ok x) → Single x → (coreAt v s.me).mem.pend = [] → (coreAt v s.me).mem.sb = [] →
    (coreAt s s.me).task = some k → teamAt s k.team = some tm →
    let r : BitVec 512 := BitVec.ofNat 512 (wordAt v x.pa 64)
    let sent (u t : State) : Prop := t.sys = u.sys ∧ (∀ c, c ≠ s.me → coreAt t c = coreAt u c) ∧
      coreAt t s.me = { coreAt u s.me with seq := { (coreAt u s.me).seq with unchk := (coreAt u s.me).seq.unchk ++ [d.toNat] } } ∧
      teamAt t k.team = some { tm with pushes := insertPush ⟨s.beat, k.lcore, d.toNat, r⟩ tm.pushes }
    (recordOk r = false ∨ recRetried r = true → Quiet v → ∃ t w, encode (.spawn d a) = some ⟨.s, w⟩ ∧ exec (.spawn d a) s = .next t ∧
      TrapTaken v t 2 (operandInfo 1 (decide (0 < (coreAt s s.me).seq.repK)) w)) ∧
    (recordOk r = true → recRetried r = false → recField r 16 8 = 0 → ∃ t, exec (.spawn d a) s = .next t ∧ sent (release v s.me 4) t) ∧
    (recordOk r = true → recRetried r = false → recField r 16 8 ≠ 0 → Plain (recField r 16 8) 32 →
      seqTranslate v s.me (recField r 16 8) true = (w, .ok z) → ∃ t, exec (.spawn d a) s = .next t ∧ sent (release w s.me 4) t)) ∧
  (∀ (s : State) (t c : Nat) (tm : Team) (p : Push) (rest : List Push) (y : Xl), teamAt s t = some tm → tm.pushes = p :: rest →
    p.at_ < s.beat → RunsOn s t tm p.lcore c →
    let answers (u : State) (v : Dword) : Prop := ∀ g : BitVec 5, readG (coreAt u c) g = if g ≠ 0 ∧ g.toNat = p.d then v else readG (coreAt s c) g
    (4096 ≤ tm.front.length + tm.qlen → ∃ u, nextPush s t = some u ∧ answers u 1 ∧ u.sys = s.sys ∧ teamAt u t = some { tm with pushes := rest }) ∧
    (tm.front.length + tm.qlen < 4096 → recField p.record 16 8 = 0 → (∀ c ∈ tm.place, (coreAt s c).localq.length = 2) →
      pavTranslate s tm.asid (tm.rcptr + 0x100000 + 64 * ((tm.qhead + tm.qlen) % 4096)) true = (s, .ok y) → Single y →
      ∃ u, nextPush s t = some u ∧ answers u 0 ∧ teamAt u t = some { tm with pushes := rest, qlen := tm.qlen + 1 } ∧
        BytesSet s u y.pa 64 p.record.toNat)) ∧
  (∀ (s u : State) (x : Xl) (d : BitVec 4) (a : BitVec 5), Plain (gr s a).toNat 32 →
    seqTranslate s s.me (gr s a).toNat false = (u, .ok x) → (∀ p ∈ (coreAt u s.me).mem.pend, pendAcquire p = false) →
    ∃ t, exec (.joinw d a) s = .next t ∧ CoreIs u t s.me
      { coreAt u s.me with
        joinw := (coreAt u s.me).joinw ++ [⟨2 * d.toNat, (gr s a).toNat, (coreAt s s.me).ctl.inh⟩]
        seq := { (coreAt u s.me).seq with unchk := (coreAt u s.me).seq.unchk ++ [2 * d.toNat, 2 * d.toNat + 1] } }) ∧
  (∀ (s : State) (c : Nat) (j : JoinWait) (x : Xl), (coreAt s c).joinw = [j] → j.d < 31 →
    pavTranslate s (coreAt s c).ctl.asid.toNat j.addr false = (s, .ok x) → Single x →
    let w (i : Nat) : Nat := wordAt s (x.pa + 4 * i) 4
    let goesOn : Prop := isHalted s c = false ∧ (coreAt s c).run = .running ∧ (j.handler = true ∨ (coreAt s c).ctl.inh = false)
    (w 0 ≠ 0 ∨ ¬ goesOn → exec (.joinwComplete c) s = .next s) ∧
    (w 0 = 0 → goesOn → (coreAt s c).mem.pend = [] → ∃ t, exec (.joinwComplete c) s = .next t ∧ (coreAt t c).joinw = [] ∧
      PairSet s t c j.d (BitVec.ofNat 64 (w 2 + w 3 * 2 ^ 32)) (BitVec.ofNat 64 (w 4 + w 1 * 2 ^ 32))))

/-- R290 to R293, R312 to R316, R321, R60: SCHWR, SCHRD, SCHCOMMIT, TILENEXT and CVMARK send their request to the team's
generator in the single order, or are illegal operands in a team without a schedule; so is a CVMARK whose mask has a bit above 47 or
one that is no unmarked quantum of the core's current tile, or that stands behind a TILENEXT of the core which has not been
answered (log entry 75, DEDUCED); a CVMARK releases at DEVICE scope and names its tile's quanta.  Once the beat in which they came is over (log entry 6) the generator serves a register access alone,
answers a commit with its status, and answers a TILENEXT with the end marks when every quantum is done or poisoned, else with the
tile that it has claimed for the core. -/
def Obligations.GeneratorServesRequests : Prop :=
  (∀ (s : State) (k : Task) (tm : Team) (d n a : BitVec 5) (e : BitVec 4), (coreAt s s.me).task = some k → teamAt s k.team = some tm →
    (tm.img.sched = none → Quiet s → ∀ i ∈ [Instr.schrd d n, .schwr a n, .schcommit d, .tilenext e, .cvmark a],
      ∃ t w, encode i = some ⟨.s, w⟩ ∧ exec i s = .next t ∧ TrapTaken s t 2 (operandInfo 1 (decide (0 < (coreAt s s.me).seq.repK)) w)) ∧
    (∀ g, tm.img.sched ≠ none → tm.gen = some g →
      (∀ p ∈ [(Instr.schrd d n, [d.toNat], (⟨1, k.lcore, s.me, d.toNat, n.toNat, 0, [], s.beat⟩ : GenReq)),
          (.schwr a n, [], ⟨0, k.lcore, s.me, 0, n.toNat, gr s a, [], s.beat⟩), (.schcommit d, [d.toNat], ⟨3, k.lcore, s.me, d.toNat, 0, 0, [], s.beat⟩),
          (.tilenext e, [2 * e.toNat, 2 * e.toNat + 1], ⟨4, k.lcore, s.me, 2 * e.toNat, 0, 0, [], s.beat⟩)],
        ∃ t, exec p.1 s = .next t ∧ t.sys = s.sys ∧ (∀ c, c ≠ s.me → coreAt t c = coreAt s c) ∧
          coreAt t s.me = { coreAt s s.me with seq := { (coreAt s s.me).seq with unchk := (coreAt s s.me).seq.unchk ++ p.2.1 } } ∧
          teamAt t k.team = some { tm with gen := some { g with reqs := insertReq p.2.2 g.reqs } }) ∧
      (gr s a = 0 → exec (.cvmark a) s = .next s) ∧
      (∀ x : Tile, gr s a ≠ 0 → (gr s a).extractLsb' 48 16 = 0 → (coreAt s s.me).lcore = k.lcore → ¬ AsksForATile g k.lcore →
        Tab.look g.current k.lcore = some x → (gr s a).setWidth 48 &&& ~~~ (x.mask &&& ~~~ (Tab.get 0 g.named k.lcore)) = 0 →
        ∃ t, exec (.cvmark a) s = .next t ∧ t.sys = (release s s.me 4).sys ∧ t.cores = (release s s.me 4).cores ∧
          teamAt t k.team = some { tm with gen := some { g with
            named := Tab.set 0 g.named k.lcore (Tab.get 0 g.named k.lcore ||| (gr s a).setWidth 48)
            reqs := insertReq ⟨2, k.lcore, s.me, 0, 0, gr s a, (x.quanta.filter fun p => (gr s a).getLsbD p.1).map (·.2), s.beat⟩ g.reqs } }) ∧
      (gr s a ≠ 0 → Quiet s →
        ((gr s a).extractLsb' 48 16 ≠ 0 ∨ AsksForATile g k.lcore ∨ Tab.look g.current k.lcore = none ∨
          ∃ x, Tab.look g.current k.lcore = some x ∧ (gr s a).setWidth 48 &&& ~~~ (x.mask &&& ~~~ (Tab.get 0 g.named k.lcore)) ≠ 0) →
        ∃ t w, encode (.cvmark a) = some ⟨.s, w⟩ ∧ exec (.cvmark a) s = .next t ∧
          TrapTaken s t 2 (operandInfo 1 (decide (0 < (coreAt s s.me).seq.repK)) w)))) ∧
  (∀ (s : State) (t c : Nat) (tm : Team) (g : Gen) (r : GenReq) (q : List GenReq), teamAt s t = some tm → tm.gen = some g →
    g.lost = false → g.reqs = r :: q → r.at_ < s.beat →
    (r.kind = 0 → ∃ u, exec (.schedRegisterServe t) s = .next u ∧ u.sys = s.sys ∧ u.cores = s.cores ∧
      teamAt u t = some { tm with gen := some { g with
        reqs := q
        pen := Tab.set 0 g.pen r.num (if r.num = 0 then r.value &&& 0xFF else if 1 ≤ r.num ∧ r.num ≤ 12 then r.value &&& 0xFFFF else r.value) } }) ∧
    (r.kind = 1 → RunsOn s t tm r.lcore c → ∃ u, exec (.schedRegisterServe t) s = .next u ∧ u.sys = s.sys ∧
      (∀ x : BitVec 5, readG (coreAt u c) x = if x ≠ 0 ∧ x.toNat = r.d then scheduleValue g r.num else readG (coreAt s c) x)) ∧
    (r.kind = 3 → q = [] → g.waiting = [] → g.current = [] → g.claimed = [] → g.retry = [] → RunsOn s t tm r.lcore c →
      ∃ u h, exec (.generatorCut t) s = .next u ∧ (teamAt u t).bind (·.gen) = some h ∧
        let st := commitStatus g tm.img.cores
        h.last = BitVec.ofNat 8 st ∧ h.act = (if st = 0 then g.pen else g.act) ∧ h.ver = (if st = 0 then g.ver + 1 else g.ver) ∧
        (∀ x : BitVec 5, readG (coreAt u c) x = if x ≠ 0 ∧ x.toNat = r.d then BitVec.ofNat 64 st else readG (coreAt s c) x)) ∧
    (r.kind = 4 → q = [] → g.waiting = [] → g.current = [] → g.retry = [] → r.lcore < tm.img.cores → r.d < 31 → RunsOn s t tm r.lcore c →
      (g.claimed = [] → g.doneN + g.poisonN = schTotal g → ∃ u, exec (.generatorCut t) s = .next u ∧
        PairSet s u c r.d 0 (BitVec.ofNat 64 (2 ^ 63))) ∧
      (∀ x, g.claimed = [(r.lcore, x)] → g.doneN + g.poisonN ≠ schTotal g → placedCore g r.lcore = true →
        ∃ u, exec (.generatorCut t) s = .next u ∧ (∀ h, (teamAt u t).bind (·.gen) = some h → Tab.look h.current r.lcore = some x) ∧
          PairSet s u c r.d (tileWords x).1 (tileWords x).2)))

/-! ### The Orangery -/

namespace Sys2Proof.Claims

/-- R333: Folop has assigned learner queue q to a partition. -/
def Assigned (s : State) (part q : Nat) : Prop := ∃ p, Tab.look s.sched.parts part = some p ∧ p.lqueues.getLsbD q = true
/-- Partition and ASID of the issuing core, as its requests carry them. -/
def requester (s : State) : Dword := BitVec.ofNat 64 ((coreAt s s.me).part * 4096 + (coreAt s s.me).ctl.asid.toNat)
/-- One request joined the issuing core's Orangery queue, and the registers of `marks` wait for an answer; nothing else
changed. -/
def Requested (s t : State) (kind d : Nat) (v x : Dword) (marks : List Nat) : Prop :=
  CoreIs s t s.me { coreAt s s.me with
    rjq := (coreAt s s.me).rjq ++ [(kind, d, v, x)]
    seq := { (coreAt s s.me).seq with unchk := (coreAt s s.me).seq.unchk ++ marks } }
/-- The answer v stands in G d of core c (never in G0); the core's other registers are as before. -/
def Answered (s t : State) (c d : Nat) (v : Dword) : Prop :=
  ∀ g : BitVec 5, readG (coreAt t c) g = if g ≠ 0 ∧ g.toNat = d then v else readG (coreAt s c) g
/-- Counter i of the Orangery counted one more, up to 2^48 - 1 (R340). -/
def counted (o : Orangery) (i : Nat) : Orangery := { o with ctr := Tab.set 0 o.ctr i (min (2 ^ 48 - 1) (Tab.get 0 o.ctr i + 1)) }
/-- The entry of an episode has left the join table, and its key has entered the release filter of 16,384 keys (R332). -/
def freed (s : State) (e : Episode) : Orangery :=
  { s.ora with
    table := s.ora.table.filter fun x => !(x.part == e.part && x.traj == e.traj)
    filter := (s.ora.filter ++ [(⟨e.part, e.traj, e.lq, 5 * s.beat / 9⟩ : Released)]).drop (s.ora.filter.length + 1 - 16384) }
/-- The entry of an episode was replaced. -/
def replaced (o : Orangery) (e : Episode) : Orangery :=
  { o with table := o.table.map fun x => if (x.part == e.part && x.traj == e.traj) = true then e else x }
/-- R329: an episode is stale as its queue's CURVER and LAG stand. -/
def Stale (s : State) (e : Episode) : Prop :=
  (lqAt s e.lq).lag.toNat ≤ (lqAt s e.lq).curver.toNat ∧ e.pver.toNat < (lqAt s e.lq).curver.toNat - (lqAt s e.lq).lag.toNat
/-- R334: the tick has come to what it serves after its expiries. -/
def inTick (s : State) : State := { s with ora := { s.ora with served := some (5 * s.beat / 9) } }
/-- The oldest request of core c is taken, and `rest` are the core's other requests. -/
def taken (s : State) (c : Nat) (rest : List (Nat × Nat × Dword × Dword)) : State := modCore (inTick s) c fun k => { k with rjq := rest }
/-- R336: the first entry handed to the scan holds γ and λ as they stand when its own scan starts. -/
def begun (o : Orangery) : Orangery :=
  match o.scans with
  | [] => o
  | k :: _ =>
    match o.table.find? fun x => x.part == k.1 && x.traj == k.2 with
    | none => o
    | some x =>
      if x.coef.isSome = true then o
      else replaced o { x with coef := some ((Tab.get .reset o.lq x.lq).gamma, (Tab.get .reset o.lq x.lq).lambda) }
/-- R336: the entry e is done and joins the scan's list, behind what was handed over before; it starts when none is ahead. -/
def handed (s : State) (o : Orangery) (e : Episode) : Orangery :=
  begun { replaced o { e with state := .scan, doneAt := 5 * s.beat / 9 } with scans := o.scans ++ [(e.part, e.traj)] }
/-- R339: a write of the episode's record met a fault: it is dropped, and neither scanned nor released any more. -/
def badMap (w : State) (e : Episode) : Orangery :=
  let other : Nat × Dword → Bool := (· ≠ (e.part, e.traj))
  counted (begun { freed w e with
    scans := w.ora.scans.filter other, held := w.ora.held.filter other, waits := w.ora.waits.filter other }) (16 * e.lq + 9)
/-- R328, R336: the return and the advantage of one step, from its reward, value and DONE mark and from the next step's value
and advantage; each rounding is to FP32. -/
def stepValues (gamma gl reward value next adv : Nat) (fin : Bool) : Nat × Nat :=
  let target := if fin = true then fp32.quiet reward else (fFma fp32 .rne false gamma next reward).1
  let delta := (fSub fp32 .rne target value).1
  let a := if fin = true then fp32.quiet delta else (fFma fp32 .rne false gl adv delta).1
  (a, (fAdd fp32 .rne a value).1)
/-- R329: k stands for an episode that was done in the tick of e, for the same queue, with a lower TRAJ. -/
def Before (s : State) (e : Episode) (k : Nat × Dword) : Prop :=
  ∃ x, episodeAt s k.1 k.2 = some x ∧ x.doneAt = e.doneAt ∧ x.lq = e.lq ∧ k.2.toNat < e.traj.toNat
/-- R337: a release of that ring waits. -/
def RingWaits (s : State) (q : Nat) (stale : Bool) : Prop :=
  ∃ k ∈ s.ora.waits, ∃ x, episodeAt s k.1 k.2 = some x ∧ x.lq = q ∧ x.stale = stale
/-- R325, R333: a control request that the Orangery takes: the value fits its field, a ring's base is a legal address and
the ring holds nothing, the queue is the partition's, and OLIFE is written from partition 0. -/
def Controls (s : State) (f q : Nat) (v : Dword) : Prop :=
  let base : Prop := v.toNat % 128 = 0 ∧ Canonical v.toNat
  (f < 6 ∧ v.toNat < (if f = 3 then 4 else 2 ^ 32) ∧ Assigned s (coreAt s s.me).part q) ∨
  (f = 6 ∧ base ∧ Assigned s (coreAt s s.me).part q ∧ (lqAt s q).head = (lqAt s q).tail) ∨
  (f = 7 ∧ base ∧ Assigned s (coreAt s s.me).part q ∧ (lqAt s q).shead = (lqAt s q).stail) ∨
  (f = 15 ∧ v.toNat < 2 ^ 32 ∧ (coreAt s s.me).part = 0)
/-- The S instruction i traps as an illegal operand (R344), from the state v that its checks have left. -/
def IllegalOperand (s v : State) (i : Instr) : Prop :=
  ∃ t w, encode i = some ⟨.s, w⟩ ∧ exec i s = .next t ∧ TrapTaken v t 2 (operandInfo 1 (decide (0 < (coreAt s s.me).seq.repK)) w)
/-- Software has not changed the record's bytes since the Orangery noted them, or they are not noted. -/
def Untouched (s : State) (asid va n : Nat) : Prop :=
  ∀ p ∈ (recNow s asid va n).zip (recSeen s asid va n), p.2 = none ∨ p.2 = some p.1

/-- R325: a control field's new value in a learner queue. -/
def controlTable (x : LQueue) (v : Dword) (asid : Nat) : List (Nat × LQueue) :=
  let w : Word := v.setWidth 32
  [(0, { x with gamma := w }), (1, { x with lambda := w }), (2, { x with tmo := w }), (3, { x with policy := v.setWidth 2 }),
   (4, { x with curver := w }), (5, { x with lag := w }), (6, { x with ring := v, ringAsid := asid, head := 0, tail := 0 }),
   (7, { x with sring := v, sringAsid := asid, shead := 0, stail := 0 })]

end Sys2Proof.Claims

/-- R342, R333, R344, R330, R323, R325: with room in the core's queue of 16, the reward instructions send their request:
RJREG of a record whose learner queue is assigned and RJPOST of a legal image behind a release at DEVICE scope, RJPOP and
RJCTL of an assigned queue at once; with the queue full they hold. A queue that is not assigned, a nonzero reserved bit of
the image, a nonzero bit 63:5 of RJPOP's operand and each value, ring and partition condition of RJCTL that fails is an
illegal operand (RPTI and REPCNT of a trap off a repeat: log entries 11 and 22). -/
def Obligations.RewardInstructionsSendRequests : Prop :=
  (∀ (s : State) (d a : BitVec 5) (f q : BitVec 4), 16 ≤ (coreAt s s.me).rjq.length →
    ∀ i ∈ [Instr.rjreg d a, .rjpost a, .rjpop d a, .rjctl a f q], exec i s = .next s) ∧
  (∀ (s v : State) (x : Xl) (d a : BitVec 5), (coreAt s s.me).rjq.length < 16 → Single x →
    (coreAt v s.me).mem.pend = [] → (coreAt v s.me).mem.sb = [] →
    (Plain (gr s a).toNat 64 → x.pa % 64 = 0 → seqTranslate s s.me (gr s a).toNat true = (v, .ok x) →
      (Assigned v (coreAt s s.me).part ((byteAt v (x.pa + 14)).toNat % 16) → ∃ t, exec (.rjreg d a) s = .next t ∧
        Requested (release v s.me 4) t 0 d.toNat (gr s a) (requester s) [d.toNat]) ∧
      (¬ Assigned v (coreAt s s.me).part ((byteAt v (x.pa + 14)).toNat % 16) → Quiet v → IllegalOperand s v (.rjreg d a))) ∧
    (Plain (gr s a).toNat 32 → seqTranslate s s.me (gr s a).toNat false = (v, .ok x) →
      let i := wordAt v x.pa 32
      (bitsOf i 81 15 = 0 → bitsOf i 192 64 = 0 → ∃ t, exec (.rjpost a) s = .next t ∧
        Requested (release v s.me 4) t 1 (coreAt s s.me).part (BitVec.ofNat 64 (bitsOf i 0 64))
          (BitVec.ofNat 64 (bitsOf i 64 17 + bitsOf i 96 32 * 2 ^ 32)) []) ∧
      (bitsOf i 81 15 ≠ 0 ∨ bitsOf i 192 64 ≠ 0 → Quiet v → IllegalOperand s v (.rjpost a)))) ∧
  (∀ (s : State) (d a : BitVec 5) (f q : BitVec 4), (coreAt s s.me).rjq.length < 16 →
    ((gr s a).toNat < 32 → Assigned s (coreAt s s.me).part ((gr s a).toNat % 16) → ∃ t, exec (.rjpop d a) s = .next t ∧
      Requested s t 2 d.toNat (gr s a) (requester s) [d.toNat]) ∧
    (Quiet s → 32 ≤ (gr s a).toNat ∨ ¬ Assigned s (coreAt s s.me).part ((gr s a).toNat % 16) → IllegalOperand s s (.rjpop d a)) ∧
    (Controls s f.toNat q.toNat (gr s a) → ∃ t, exec (.rjctl a f q) s = .next t ∧
      Requested s t 3 (16 * f.toNat + q.toNat) (gr s a) (requester s) []) ∧
    (Quiet s → f.toNat < 8 ∨ f = 15 → ¬ Controls s f.toNat q.toNat (gr s a) → IllegalOperand s s (.rjctl a f q)))

/-- R326, R332, R324, R329, R338, R343, R325: the oldest request of a core is served: a registration answers 3 for a bad header,
2 for a key that is registered, 1 and REGFULL for a full bucket, else 0 and its episode stands in the table with its
deadline; a pop answers 0 for an empty ring, else the entry at the head, which advances; a refused pop leaves its ring as it
is; a control request sets its field.
The order of the statuses of a registration, and the answer to a refused pop, are the model's reading (log entries 31 and 29). -/
def Obligations.OrangeryServesRequests : Prop :=
  (∀ (s : State) (c d : Nat) (a x : Dword) (rest : List (Nat × Nat × Dword × Dword)) (y : Xl), (coreAt s c).rjq = (0, d, a, x) :: rest →
    let u := taken s c rest
    let part := x.toNat / 4096
    let h := wordAt u y.pa 64
    let traj : Dword := BitVec.ofNat 64 (bitsOf h 0 64)
    let steps := bitsOf h 96 16
    let lq := bitsOf h 112 4
    let bad : Prop := steps = 0 ∨ 4096 < steps ∨ bitsOf h 116 12 ≠ 0 ∨ bitsOf h 256 256 ≠ 0 ∨ (lqAt s lq).ring = 0
    SeenAt u (x.toNat % 4096) a.toNat false y →
      (bad → ∃ t, exec (.registrationServe c) s = .next t ∧ Answered s t c d 3 ∧ t.ora = u.ora) ∧
      (¬ bad → ∀ e, episodeAt s part traj = some e → ∃ t, exec (.registrationServe c) s = .next t ∧ Answered s t c d 2 ∧ t.ora = u.ora) ∧
      (¬ bad → episodeAt s part traj = none →
        8 ≤ (s.ora.table.filter fun e => rjHash e.part e.traj.toNat == rjHash part traj.toNat).length →
        ∃ t, exec (.registrationServe c) s = .next t ∧ Answered s t c d 1 ∧ t.ora = counted u.ora (256 + 3)) ∧
      (∀ w, ¬ bad → episodeAt s part traj = none →
        (s.ora.table.filter fun e => rjHash e.part e.traj.toNat == rjHash part traj.toNat).length < 8 →
        (∀ o ∈ s.ora.orphans, ¬ (o.part = part ∧ o.traj = traj)) →
        let e : Episode := ⟨part, traj, a.toNat, x.toNat % 4096, steps, lq, BitVec.ofNat 32 (bitsOf h 64 32),
          if (lqAt s lq).tmo = 0 then none else some (5 * s.beat / 9 + 1000 * (lqAt s lq).tmo.toNat), 0, .open_, false, false, false, false, 0, 0, none⟩
        clearRecord { u with ora := { u.ora with table := s.ora.table ++ [e] } } e = (w, true) →
        ∃ t, exec (.registrationServe c) s = .next t ∧ Answered s t c d 0 ∧ t.sys = w.sys ∧ t.ora = { u.ora with table := s.ora.table ++ [e], image := t.ora.image })) ∧
  (∀ (s : State) (c d : Nat) (a x : Dword) (rest : List (Nat × Nat × Dword × Dword)) (y : Xl), (coreAt s c).rjq = (2, d, a, x) :: rest →
    let u := taken s c rest
    let q := a.toNat % 16
    let l := lqAt s q
    let stale := a.getLsbD 4
    let base := if stale = true then l.sring.toNat else l.ring.toNat
    let head := if stale = true then l.shead else l.head
    let tail := if stale = true then l.stail else l.tail
    (base = 0 ∨ head = tail → ∃ t, exec (.popServe c) s = .next t ∧ Answered s t c d 0 ∧ t.ora = u.ora) ∧
    (base ≠ 0 → head ≠ tail → SeenAt u (if stale = true then l.sringAsid else l.ringAsid) (base + 8 * (head % 4096)) false y →
      wordAt u y.pa 8 ≠ 0 → (∀ p ∈ (coreAt s c).mem.pend, pendScope p = 0) → ∃ t, exec (.popServe c) s = .next t ∧ Answered s t c d (BitVec.ofNat 64 (wordAt u y.pa 8)) ∧
        lqAt t q = if stale = true then { l with shead := head + 1 } else { l with head := head + 1 })) ∧
  (∀ (s : State) (c d : Nat) (a x : Dword) (rest : List (Nat × Nat × Dword × Dword)), (coreAt s c).rjq = (5, d, a, x) :: rest →
    exec (.popServe c) s = .next (taken s c rest)) ∧
  (∀ (s : State) (c f : Nat) (v x : Dword) (rest : List (Nat × Nat × Dword × Dword)), (coreAt s c).rjq = (3, f, v, x) :: rest →
    (∀ p ∈ controlTable (lqAt s (f % 16)) v (x.toNat % 4096), f / 16 = p.1 →
      ∃ t, exec (.controlServe c) s = .next t ∧ lqAt t (f % 16) = p.2 ∧ (∀ q, q ≠ f % 16 → lqAt t q = lqAt s q) ∧ (coreAt t c).rjq = rest) ∧
    (f / 16 = 15 → ∃ t, exec (.controlServe c) s = .next t ∧ t.ora = { (inTick s).ora with olife := v.setWidth 32 } ∧ (coreAt t c).rjq = rest))

/-- R327, R331, R332, R334: a reward for a registered episode is counted as RANGE, DUP or LATE, or its value and marks are
written and the episode fills by one, going to the scan with its last step; one without an episode is LATE under the release
filter, else an orphan, or counted when 16,384 wait. -/
def Sys2Proof.Claims.RewardsAct : Prop :=
  (∀ (s w : State) (e : Episode) (step : Half) (fin : Bool) (value : Word), episodeAt s e.part e.traj = some e →
    let n := inTick s
    (e.steps ≤ step.toNat → exec (.reward e.part e.traj step fin value) s = .next { n with ora := counted n.ora (16 * e.lq + 7) }) ∧
    (step.toNat < e.steps → markBit n e (2 * step.toNat) = (n, some true) →
      exec (.reward e.part e.traj step fin value) s = .next { n with ora := counted n.ora (16 * e.lq + 5) }) ∧
    (step.toNat < e.steps → markBit n e (2 * step.toNat) = (n, some false) →
      (e.state ≠ .open_ → exec (.reward e.part e.traj step fin value) s = .next { n with ora := counted n.ora (16 * e.lq + 6) }) ∧
      (e.state = .open_ →
        (thenWrite (recWrite n e.asid (e.addr + 64 + 16 * step.toNat) 4 value.toNat) fun u => setMark u e step.toNat fin) = (w, true) →
        ∃ t, exec (.reward e.part e.traj step fin value) s = .next t ∧ t.sys = w.sys ∧ t.cores = s.cores ∧
          (e.filled + 1 = e.steps → t.ora = handed s w.ora { e with filled := e.filled + 1, joined := true }) ∧
          (e.filled + 1 ≠ e.steps → t.ora = replaced w.ora { e with filled := e.filled + 1 })))) ∧
  (∀ (s : State) (part : Nat) (traj : Dword) (step : Half) (fin : Bool) (value : Word), episodeAt s part traj = none →
    let n := inTick s
    (∀ r, s.ora.filter = [r] → r.part = part → r.traj = traj → 5 * s.beat / 9 ≤ r.time + 1000 * s.ora.olife.toNat →
      exec (.reward part traj step fin value) s = .next { n with ora := counted n.ora (16 * r.lq + 6) }) ∧
    ((∀ r ∈ s.ora.filter, ¬ (r.part = part ∧ r.traj = traj ∧ 5 * s.beat / 9 ≤ r.time + 1000 * s.ora.olife.toNat)) →
      exec (.reward part traj step fin value) s = .next { n with
        ora := if 16384 ≤ s.ora.orphans.length then counted n.ora (256 + 2)
          else { n.ora with orphans := s.ora.orphans ++ [⟨part, traj, step, fin, value, 5 * s.beat / 9⟩] } }))

/-- R331, R369: a flit that is not of 256 bytes or not of messages, one with a nonzero reserved byte in its header or with a
COUNT outside 1 to 5, and one for a port that stands do nothing; of any other flit the one to five messages act one after the
other, each as its reward, and each malformed one is counted. -/
def Sys2Proof.Claims.FlitsAct : Prop :=
  ∀ (s : State) (flit : List Byte),
    let v := bytesNat flit
    let m (i off n : Nat) : Nat := bitsOf v (8 * (16 + 48 * i + off)) (8 * n)
    let legal (i : Nat) : Prop := m i 0 1 = 0x52 ∧ m i 1 1 < 16 ∧ m i 2 2 = 0 ∧ m i 8 8 = 0 ∧ m i 0x1A 1 < 2 ∧ m i 0x1B 1 = 0 ∧ m i 0x28 8 = 0
    let good : Prop := flit.length = 256 ∧ bitsOf v 0 8 = 1 ∧ 1 ≤ bitsOf v 8 8 ∧ bitsOf v 8 8 ≤ 5 ∧ bitsOf v 16 16 = 0 ∧ bitsOf v 112 16 = 0
    let standing : Prop := islandAt s 21 = .ret ∨ islandAt s 21 = .off
    (¬ good ∨ standing → exec (.fabricFlit flit) s = .next s) ∧
    (good → ¬ standing → ∃ f : Nat → State, f 0 = s ∧ exec (.fabricFlit flit) s = .next (f (bitsOf v 8 8)) ∧
      ∀ i, i < bitsOf v 8 8 →
        (legal i → exec (.reward (m i 1 1) (BitVec.ofNat 64 (m i 0x10 8)) (BitVec.ofNat 16 (m i 0x18 2))
          (m i 0x1A 1 == 1) (BitVec.ofNat 32 (m i 0x1C 4))) (f i) = .next (f (i + 1))) ∧
        (¬ legal i → f (i + 1) = { f i with ora := counted (f i).ora (256 + 4) }))

/-- R327, R331, R332, R334, R338, R340, R369: rewards and the messages of flits act; an orphan that has outlived OLIFE is dropped
and counted, before what its tick serves (R334); a write into a record moves no table and no counter, and where software has
not changed the bytes it stores the value itself (R338).
That a message of an unknown type counts as malformed is the model's reading (log entry 38). -/
def Obligations.RewardsReachTheirEpisode : Prop :=
  RewardsAct ∧ FlitsAct ∧
  (∀ (s : State) (o : Orphan) (rest : List Orphan), s.ora.orphans = o :: rest →
    (5 * s.beat / 9 < o.arrival + 1000 * s.ora.olife.toNat ∨ s.ora.served = some (5 * s.beat / 9) → exec .orphanExpiry s = .next s) ∧
    (o.arrival + 1000 * s.ora.olife.toNat ≤ 5 * s.beat / 9 → s.ora.served ≠ some (5 * s.beat / 9) →
      exec .orphanExpiry s = .next { s with ora := counted { s.ora with orphans := rest } (256 + 1) })) ∧
  (∀ (s : State) (asid va n v : Nat),
    let r := recWrite s asid va n v
    r.1.cores = s.cores ∧ (∃ m d, r.1.ora = { s.ora with image := m, draws := d }) ∧
    (Untouched s asid va n →
      r.2 = (oraWrite s asid va n v).2 ∧ r.1.sys = (oraWrite s asid va n v).1.sys ∧ r.1.ora.draws = s.ora.draws))

/-- R329, R334, R339: at its deadline an open episode is dropped, or zero-filled and handed to the scan, before what its tick
serves; a write that meets a fault drops the episode into BADMAP, and its other writes stand. -/
def Sys2Proof.Claims.DeadlinesExpire : Prop :=
  (∀ s : State, firstDue (5 * s.beat / 9) s.ora.table = none ∨ s.ora.served = some (5 * s.beat / 9) → exec .deadlineExpiry s = .next s) ∧
  (∀ (s w : State) (e : Episode), firstDue (5 * s.beat / 9) s.ora.table = some e →
    (e ∈ s.ora.table ∧ e.state = .open_ ∧ ∃ d, e.deadline = some d ∧ d ≤ 5 * s.beat / 9) ∧
    (s.ora.served ≠ some (5 * s.beat / 9) →
      ((lqAt s e.lq).policy.getLsbD 0 = true →
        exec .deadlineExpiry s = .next { s with ora := counted (freed s e) (16 * e.lq + 2) }) ∧
      ((lqAt s e.lq).policy.getLsbD 0 = false → zeroFill s e (List.range e.steps) = (w, true) →
        ∃ t, exec .deadlineExpiry s = .next t ∧ t.sys = w.sys ∧
          t.ora = handed s w.ora { e with timeout := true, missing := e.steps - e.filled }) ∧
      ((lqAt s e.lq).policy.getLsbD 0 = false → zeroFill s e (List.range e.steps) = (w, false) →
        ∃ t, exec .deadlineExpiry s = .next t ∧ t.sys = w.sys ∧ t.ora = badMap w e)))

/-- R328, R336: a scan works from the last step down; each step writes its advantage and its return and carries its value and its
advantage to the step below, from BOOT and +0 at the top. -/
def Sys2Proof.Claims.StepsAreScanned : Prop :=
  (∀ (s : State) (e : Episode) (gamma gl next adv : Nat), scanSteps s e gamma gl 0 next adv = (s, true)) ∧
  (∀ (s u w : State) (e : Episode) (gamma gl next adv t rv : Nat) (fin : Bool),
    let r := stepValues gamma gl (bitsOf rv 0 32) (bitsOf rv 32 32) next adv fin
    oraRead s e.asid (e.addr + 64 + 16 * t) 8 = (u, some rv) → (markBit s e (2 * t + 1)).2 = some fin →
    recWrite u e.asid (e.addr + 64 + 16 * t + 8) 8 (r.1 + r.2 * 2 ^ 32) = (w, true) →
    scanSteps s e gamma gl (t + 1) next adv = scanSteps w e gamma gl t (bitsOf rv 32 32) r.1)

/-- R328, R329, R336, R339: once the tick is over in which the first entry was handed over, its scan runs with the γ and λ that
it read at its start; then the next entry's scan starts and what can be released is released. -/
def Sys2Proof.Claims.ScansRun : Prop :=
  (∀ (s : State) (e : Episode) (rest : List (Nat × Dword)), s.ora.scans = (e.part, e.traj) :: rest → episodeAt s e.part e.traj = some e →
    5 * s.beat / 9 ≤ e.doneAt → exec .backwardScan s = .next s) ∧
  (∀ (s u w : State) (e : Episode) (rest : List (Nat × Dword)) (boot : Nat) (gamma lambda : Word),
    s.ora.scans = (e.part, e.traj) :: rest → episodeAt s e.part e.traj = some e → e.doneAt < 5 * s.beat / 9 →
    e.coef = some (gamma, lambda) → oraRead s e.asid (e.addr + 0x10) 4 = (u, some boot) →
    let r := scanSteps u e gamma.toNat (fMul fp32 .rne gamma.toNat lambda.toNat).1 e.steps boot 0
    (r = (w, true) →
      let v : State := { w with ora := begun { w.ora with scans := rest, held := s.ora.held ++ [(e.part, e.traj)] } }
      exec .backwardScan s = .next (releaseHeld (s.ora.held.length + 1) v) ∧
        (rest = [] → s.ora.held = [] → exec .backwardScan s = .next (releaseEpisode { w with ora := { w.ora with scans := [] } } e))) ∧
    (r = (w, false) → ∃ t, exec .backwardScan s = .next t ∧ t.sys = w.sys ∧ t.ora = badMap w e))

/-- R329: of the scanned episodes one is released behind which no other of its tick and queue with a lower TRAJ is still to be
released, and then the next such one. -/
def Sys2Proof.Claims.ReleasesInOrder : Prop :=
  (∀ (s : State) (e : Episode) (n : Nat), releasable s = some e →
    ((e.part, e.traj) ∈ s.ora.held ∧ episodeAt s e.part e.traj = some e ∧ ∀ k ∈ s.ora.scans ++ s.ora.held, ¬ Before s e k) ∧
    releaseHeld (n + 1) s = releaseHeld n (releaseEpisode
      { s with ora := { s.ora with held := s.ora.held.filter (· ≠ (e.part, e.traj)) } } e)) ∧
  (∀ (s : State) (n : Nat), releasable s = none → releaseHeld n s = s ∧
    ∀ k ∈ s.ora.held, ∀ e, episodeAt s k.1 k.2 = some e → ∃ j ∈ s.ora.scans ++ s.ora.held, Before s e j)

/-- R324, R329, R336 to R338, R340: a stale episode is dropped and counted where the queue's policy or its missing stale ring says
so; any other gets STATUS and RTIME, and its record's address is appended to its ring, the stale one or the main one; with
that ring full, or behind another that waits for it, it waits and the wait is counted; a release that waited is appended first come
first served once its ring has room. -/
def Sys2Proof.Claims.RingsTakeReleases : Prop :=
  (∀ (s : State) (e : Episode) (stale : Bool), (stale = true ↔ Stale s e) →
    let x := lqAt s e.lq
    let drop : Prop := x.policy.getLsbD 1 = true ∨ x.sring = 0
    let full : Prop := if stale = true then 4096 ≤ x.stail - x.shead else 4096 ≤ x.tail - x.head
    let status := (if e.joined = true then 1 else 0) + (if e.timeout = true then 2 else 0) + (if stale = true then 4 else 0) +
      (if e.orphan = true then 8 else 0) + e.missing * 2 ^ 16
    (stale = true → drop → releaseEpisode s e = { s with ora := counted (freed s e) (16 * e.lq + 4) }) ∧
    (∀ u v, (stale = true → ¬ drop) → recWrite s e.asid (e.addr + 0x14) 4 status = (u, true) →
      recWrite u e.asid (e.addr + 0x18) 8 (5 * s.beat / 9) = (v, true) →
      (¬ full → ¬ RingWaits s e.lq stale →
        ∀ w, oraWrite v (if stale = true then x.sringAsid else x.ringAsid)
          (if stale = true then x.sring.toNat + 8 * (x.stail % 4096) else x.ring.toNat + 8 * (x.tail % 4096)) 8 e.addr = (w, true) →
        (releaseEpisode s e).sys = w.sys ∧
          (releaseEpisode s e).ora = counted (freed { s with ora := { v.ora with
            lq := Tab.set .reset s.ora.lq e.lq (if stale = true then { x with stail := x.stail + 1 } else { x with tail := x.tail + 1 }) } } e)
            (16 * e.lq + if stale = true then 3 else if e.joined = true then 0 else 1)) ∧
      (full ∨ RingWaits s e.lq stale →
        releaseEpisode s e = { v with ora := counted { replaced v.ora { e with stale := stale, state := .wait_ } with
          waits := s.ora.waits ++ [(e.part, e.traj)] } (16 * e.lq + 8) }))) ∧
  (∀ (s w : State) (e : Episode) (q : Nat) (stale : Bool) (rest : List (Nat × Dword)),
    let x := lqAt s q
    let full : Prop := if stale = true then 4096 ≤ x.stail - x.shead else 4096 ≤ x.tail - x.head
    (full → exec (.ringAppend q stale) s = .next s) ∧
    (¬ full → s.ora.waits = (e.part, e.traj) :: rest → (e.part, e.traj) ∉ rest → episodeAt s e.part e.traj = some e → e.lq = q → e.stale = stale →
      oraWrite { s with ora := { s.ora with waits := rest } } (if stale = true then x.sringAsid else x.ringAsid)
        ((if stale = true then x.sring.toNat + 8 * (x.stail % 4096) else x.ring.toNat + 8 * (x.tail % 4096))) 8 e.addr = (w, true) →
      ∃ t, exec (.ringAppend q stale) s = .next t ∧ t.sys = w.sys ∧ t.ora.waits = rest ∧ episodeAt t e.part e.traj = none ∧
        lqAt t q = if stale = true then { x with stail := x.stail + 1 } else { x with tail := x.tail + 1 }))

/-- R328, R329, R334, R336 to R339: deadlines expire; the scan computes each step from the one above it and writes its advantage
and its return; scanned episodes of one tick and queue are released in increasing TRAJ; each release goes to its ring, the
main one or the stale one, or waits for it.
That TRAJ orders episodes of one queue also where they go to different rings is the model's choice (log entry 99). -/
def Obligations.EpisodesAreReleased : Prop :=
  DeadlinesExpire ∧ StepsAreScanned ∧ ScansRun ∧ ReleasesInOrder ∧ RingsTakeReleases

/-! ### Copies, translation, posted stores -/

namespace Sys2Proof.Claims

/-- The barrier after n awaited bytes have come (R213, R206). -/
def landedAt (b : Barrier) (n : Nat) : Barrier :=
  if b.count = b.target ∧ b.pend - n = 0 then ⟨b.target, 0, 0, !b.phase⟩ else ⟨b.target, b.count, b.pend - n, b.phase⟩
/-- The place of byte i of a run of bytes at va, in the line that holds x, its chunks of 16 bytes swizzled (R137, R205). -/
def inLine (x : Xl) (va : Nat) (swz : BitVec 3) (i : Nat) : Nat :=
  x.pa / 128 * 128 + swizzle ((va + i / 16 * 16) % 2 ^ 64) swz.toNat % 128 + i % 16
/-- Where the next line that a request reads begins. -/
def readFrom (j : CopyJob) : Nat := j.src + j.off + j.buf.length
/-- R205: byte i of what a request still has to write: of the lines that it has read, else of its next source line, in that of x,
and of the one behind, in that of y. -/
def sourceByte (s : State) (j : CopyJob) (x y : Xl) (i : Nat) : Byte :=
  let gap := 128 - readFrom j % 128
  if i < j.buf.length then j.buf.getD i 0
  else if i - j.buf.length < gap then byteAt s (inLine x (readFrom j) j.srcSwz (i - j.buf.length))
  else byteAt s (inLine y (readFrom j + gap) j.srcSwz (i - j.buf.length - gap))
/-- R206: behind the line of one channel no other of its cluster will have waited for more than 255. -/
def TurnFree (s : State) (c : Nat) : Prop :=
  ∀ p ∈ readyChans s (c / 4), p.2.2 + (readyChans s (c / 4)).length ≤ 256
/-- R260: the release of the aperture store that made the request is not on its way any more. -/
def ReleaseDone (s : State) (c : Nat) (r : CopyReq) : Prop :=
  ∀ n, r.after = some n → ∀ p ∈ (coreAt s c).mem.pend, ¬ (pendRelease p = true ∧ pendSeq p = n)
/-- The destination that a request comes to next, and the bytes of the piece of it that lies in one line. -/
def pieceAt (j : CopyJob) : Nat := (j.dsts.getD j.di 0 + j.off) % 2 ^ 64
def pieceSize (j : CopyJob) : Nat := min (j.n - j.off) (128 - pieceAt j % 128)
/-- The request writes again into the line of its piece. -/
def WritesAgain (j : CopyJob) : Prop :=
  ∃ k < j.dsts.length, ∃ p, p / 128 = pieceAt j / 128 ∧ p < j.dsts.getD k 0 + j.n ∧
    j.dsts.getD k 0 + (if k ≤ j.di then j.off + pieceSize j else j.off) ≤ p
/-- A deferred fault of core c was added, and no other (R221). -/
def Deferring (s t : State) (c cause wavetag info : Nat) : Prop :=
  (coreAt t c).deferred = (coreAt s c).deferred ++ [⟨cause, wavetag, BitVec.ofNat 64 info, (coreAt s c).seq.cyc⟩]

end Sys2Proof.Claims

/-- R203 to R206, R208 to R210: a request at the head of its channel reads its template and starts with its source, destination, length and barrier, CPWP
at the destination; a template of no bytes drops the request with a deferred copy fault, KIND 2; a template that does not
translate stops the channel with KIND 3, a source line with KIND 0.  A line lands at the next of its destinations as one event: each
source line is read once, every byte of the piece is copied, no other byte changes, the bytes count on the barrier, CPWP moves on
at the tracked destination, a scratchpad line that the request will not write again gets its full bit, and the last line ends
the request; a line does not land that would leave another channel of the cluster behind more than 255, nor one that waits for a scratchpad whose
clock stands (R370, log entry 68).
That the channels of a cluster are otherwise served in any order is the model's reading (log entry 26).
A request that an aperture store with a scope has sent starts once that store's release is performed (R260). -/
def Obligations.CopiesStartAndLand : Prop :=
  (∀ (s : State) (c ch w : Nat) (r : CopyReq) (q : List CopyReq) (x : Xl), chanAt (coreAt s c) ch = ⟨r :: q, none, false, w⟩ →
    (∀ p ∈ s.cores, c ∉ p.2.chain) → ReleaseDone s c r →
    let va := r.rcptr + 0xC0000 + 64 * (r.word.toNat % 4096)
    let f (off n : Nat) : Nat := bitsOf (wordAt s x.pa 64) (8 * off) (8 * n)
    let len := bitsOf r.word.toNat 12 12
    let src : Nat := (((f 0 8 : Int) + (r.word.extractLsb' 32 32).toInt) % 2 ^ 64).toNat
    dieTranslate s (dieOf c) r.asid (va % 2 ^ 64) false = (s, .ok x) → Single x → f 0x16 1 = 0 →
      (f 0x14 2 < 1024 → f 0x17 1 = 0 → f 0x18 1 = 0 → f 0x19 1 = 0 → f 0x1A 2 ≤ 1 → f 0x1C 4 = 0 → f 0x20 8 = 0 → f 0x28 24 = 0 →
        f 0x10 4 ≠ 0 → f 0x10 4 % 64 = 0 → src % 64 = 0 → f 8 8 % 64 = 0 →
        ∃ u j, exec (.copyStart c ch) s = .next u ∧ chanAt (coreAt u c) ch = ⟨q, some j, false, w⟩ ∧ u.sys = s.sys ∧ j.req = r ∧ j.src = src ∧
          j.dsts = [f 8 8] ∧ j.n = (if len = 0 then f 0x10 4 else 64 * len) ∧ j.off = 0 ∧ j.di = 0 ∧ j.bar = f 0x14 2 ∧ j.nob = false ∧
          j.post = none ∧ j.saved = [] ∧ j.buf = [] ∧ Tab.get 0 (coreAt u c).ctl.cpwp ch = BitVec.ofNat 64 (f 8 8)) ∧
      (f 0x10 4 = 0 → ∃ u, exec (.copyStart c ch) s = .next u ∧ chanAt (coreAt u c) ch = ⟨q, none, false, w⟩ ∧ u.sys = s.sys ∧
        Deferring s u c 0x13 r.bundle (ch + 2 * 2 ^ 8 + va % 2 ^ 57 / 128 % 2 ^ 50 * 2 ^ 10))) ∧
  (∀ (s v : State) (c ch w : Nat) (r : CopyReq) (q : List CopyReq) (e : XErr) (tm : Team), chanAt (coreAt s c) ch = ⟨r :: q, none, false, w⟩ →
    (∀ p ∈ s.cores, c ∉ p.2.chain) → ReleaseDone s c r → teamAt s r.team = some tm → tm.status = 0 →
    let va := r.rcptr + 0xC0000 + 64 * (r.word.toNat % 4096)
    dieTranslate s (dieOf c) r.asid (va % 2 ^ 64) false = (v, .error e) →
      ∃ u, exec (.copyStart c ch) s = .next u ∧ chanAt (coreAt u c) ch = ⟨r :: q, none, true, 0⟩ ∧ u.sys = v.sys ∧
        Deferring s u c 0x13 r.bundle (ch + 3 * 2 ^ 8 + va % 2 ^ 64 % 2 ^ 57 / 128 % 2 ^ 50 * 2 ^ 10)) ∧
  (∀ (s : State) (c ch w : Nat) (r : CopyReq) (q : List CopyReq), chanAt (coreAt s c) ch = ⟨r :: q, none, false, w⟩ → ¬ ReleaseDone s c r →
    exec (.copyStart c ch) s = exec (.copyStart c ch) (performAll s c (coreAt s c).mem.pend)) ∧
  (∀ (s v : State) (c ch w : Nat) (j : CopyJob) (q : List CopyReq) (e : XErr) (tm : Team), chanAt (coreAt s c) ch = ⟨q, some j, false, w⟩ →
    (∀ p ∈ s.cores, c ∉ p.2.chain) → teamAt s j.req.team = some tm → tm.status = 0 → TurnFree s c → lineStands s c j = false → j.buf.length < pieceSize j →
    dieTranslate s (dieOf c) j.req.asid (readFrom j % 2 ^ 64) false = (v, .error e) →
      ∃ u, exec (.copyLineLand c ch) s = .next u ∧ chanAt (coreAt u c) ch = ⟨q, some j, true, 0⟩ ∧ u.sys = v.sys ∧
        Deferring s u c 0x13 j.req.bundle (ch + readFrom j % 2 ^ 64 % 2 ^ 57 / 128 % 2 ^ 50 * 2 ^ 10)) ∧
  (∀ (s : State) (c ch w : Nat) (j : CopyJob) (q : List CopyReq) (x y z : Xl), chanAt (coreAt s c) ch = ⟨q, some j, false, w⟩ →
    j.off < j.n → (j.n - j.off) % 16 = 0 → j.di < j.dsts.length → pieceAt j % 16 = 0 → j.buf.length % 16 = 0 → readFrom j % 16 = 0 →
    j.saved = [] → j.post = none → j.buf.length ≤ j.n - j.off →
    let gap := 128 - readFrom j % 128
    let len := pieceSize j
    let place (i : Nat) : Nat := inLine z (pieceAt j) j.dstSwz i
    let ends := decide (j.dsts.length ≤ j.di + 1)
    (j.buf.length < len → dieTranslate s (dieOf c) j.req.asid (readFrom j % 2 ^ 64) false = (s, .ok x) ∧ Single x) →
    (j.buf.length + gap < len → dieTranslate s (dieOf c) j.req.asid ((readFrom j + gap) % 2 ^ 64) false = (s, .ok y) ∧ Single y) →
    dieTranslate s (dieOf c) j.req.asid (swizzle (pieceAt j) j.dstSwz.toNat) true = (s, .ok z) → Single z →
    (∀ i, i < len → place i / 16 ∉ sourcePlaces s c j) →
    (lineStands s c j = true → exec (.copyLineLand c ch) s = .next s) ∧
    ((∃ p ∈ readyChans s (c / 4), (p.1, p.2.1) ≠ (c, ch) ∧ (chanAt (coreAt s p.1) p.2.1).job ≠ none ∧ (chanAt (coreAt s p.1) p.2.1).stopped = false) →
      (∀ p ∈ readyChans s (c / 4), (p.1, p.2.1) ≠ (c, ch) → 255 ≤ p.2.2) →
      exec (.copyLineLand c ch) s = .next s) ∧
    (TurnFree s c → lineStands s c j = false → ∃ u, exec (.copyLineLand c ch) s = .next u ∧
      (∀ i, i < len → byteAt u (place i) = sourceByte s j x y i) ∧
      (∀ b, (∀ i, i < len → b ≠ place i) → byteAt u b = byteAt s b) ∧
      (∀ i, Tab.get 0 (coreAt u c).ctl.cpwp i = if i = ch ∧ j.di = 0 then BitVec.ofNat 64 (pieceAt j + len) else Tab.get 0 (coreAt s c).ctl.cpwp i) ∧
      (j.nob = false → len ≤ (barOf s c j.bar).pend → barOf u c j.bar = landedAt (barOf s c j.bar) len) ∧
      (j.nob = true → (coreAt u c).seq.bars = (coreAt s c).seq.bars) ∧
      (¬ WritesAgain j → Tab.get false u.sys.full (z.pa / 128) = true) ∧ (WritesAgain j → u.sys.full = s.sys.full) ∧
      (¬ (ends = true ∧ j.n ≤ j.off + len) → ∃ b, chanAt (coreAt u c) ch = ⟨q, some { j with
          off := if ends = true then j.off + len else j.off, di := if ends = true then 0 else j.di + 1, buf := b }, false, 0⟩ ∧
        ∀ i, i < b.length → b.getD i 0 = sourceByte s j x y (if ends = true then len + i else i)) ∧
      (ends = true → j.n ≤ j.off + len → chanAt (coreAt u c) ch = ⟨q, none, false, 0⟩)))

/-- R239, R240, R245, R246, R256, R365: a held translation gives the physical address, or a permission fault for a store without W; a walk
installs the leaf that it finds on its die, or nothing where it faults; a walk of two levels reads the entries of its table
pages and leaves its pointer entry in the die's walk cache, from which the next begins (the cache keeps the newest 1,024: the
model's choice, log entry 9); an invalidation is complete when no entry of its range is left; the oldest posted store writes the bytes of its mask
at the host; the units outside the cores read and write the bytes at the translated place. -/
def Obligations.TranslationsAndPostedStores : Prop :=
  (∀ (s : State) (c va : Nat) (w : Bool) (e : TlbEntry), Canonical va → va < 2 ^ 64 → tlbFind s c (coreAt s c).ctl.asid.toNat (va % 2 ^ 57) = some e →
    let pa := bitsOf e.leaf.toNat 12 40 * 4096 + va % 2 ^ 57 % e.size
    (w = true → e.leaf.getLsbD 2 = false → seqTranslate s c va w = (s, .error .perm)) ∧
    ((w = false ∨ e.leaf.getLsbD 2 = true) → seqTranslate s c va w =
      (s, .ok (if 2 ^ 51 ≤ pa ∧ pa < 2 ^ 52 then ⟨pa, 3, false⟩ else ⟨pa, e.leaf.extractLsb' 6 2, e.leaf.getLsbD 8⟩)))) ∧
  (∀ (s u : State) (die asid : Nat) (va : Dword), Canonical va.toNat →
    let v := va.toNat % 2 ^ 57
    (∀ e, tlbFind s (128 + die) asid v = some e → exec (.pageWalk die asid va) s = .next s) ∧
    (tlbFind s (128 + die) asid v = none →
      (∀ e, walk s die asid v = (u, .error e) → exec (.pageWalk die asid va) s = .next u) ∧
      (∀ leaf size, 0 < size → walk s die asid v = (u, .ok (leaf, size)) → ∃ t, exec (.pageWalk die asid va) s = .next t ∧
        tlbFind t (128 + die) asid v = some ⟨128 + die, asid, v / size * size, size, BitVec.ofNat 64 leaf⟩ ∧
        { t with sys := { t.sys with tlb := u.sys.tlb } } = u))) ∧
  (∀ (s : State) (die asid va root tbl : Nat), s.sys.dir = [] → s.sys.msgs = [] → asidAt s asid = ⟨true, false, root, (asidAt s asid).since⟩ →
    let e := wordAt s (root + 8 * (va / 2 ^ 39 % 2 ^ 18)) 8
    let leaf := wordAt s (tbl + 8 * (va / 2 ^ 30 % 512)) 8
    let frame := bitsOf leaf 12 40 * 4096
    let pointer : WalkEntry := ⟨die, asid, 39, va / 2 ^ 39, tbl⟩
    tbl = bitsOf e 12 40 * 4096 → e % 4096 = 1 → e.testBit 63 = false → leaf % 4 = 2 → bitsOf leaf 3 3 = 0 → bitsOf leaf 9 3 = 0 → leaf.testBit 63 = false →
    bitsOf leaf 6 2 ≠ 1 → frame % 2 ^ 30 = 0 → frame < 2 ^ 39 → frame % 2 ^ 37 + 2 ^ 30 ≤ hbmBytes →
    ((∀ w ∈ s.sys.walks, w.die ≠ die) → walk s die asid va =
      ({ s with sys := { s.sys with walks := pointer :: s.sys.walks } }, .ok (leaf, 2 ^ 30))) ∧
    (s.sys.walks = [pointer] → walk s die asid va = (s, .ok (leaf, 2 ^ 30)))) ∧
  (∀ (s : State) (asid va n : Nat), exec (.tlbInvalidate asid va n) s =
    .next { s with sys := { s.sys with inval := s.sys.inval ++ [(asid, va, n)] } }) ∧
  (∀ (s : State) (asid va n : Nat) (rest : List (Nat × Nat × Nat)), s.sys.inval = (asid, va, n) :: rest →
    exec .tlbInvalidateComplete s = .next { s with sys := { s.sys with
      inval := rest
      walks := s.sys.walks.filter fun w => !(w.asid == asid && (decide (w.pre * 2 ^ w.shift < va + n) && decide (va < w.pre * 2 ^ w.shift + 2 ^ w.shift)))
      tlb := s.sys.tlb.filter fun t => !(t.asid == asid && (decide (t.va < va + n) && decide (va < t.va + t.size))) } }) ∧
  (∀ s : State, s.sys.inval = [] → exec .tlbInvalidateComplete s = .next s) ∧
  (∀ s : State, s.sys.posted = [] → exec .hostPostedDeliver s = .next s) ∧
  (∀ (s : State) (p : Posted) (rest : List Posted), s.sys.posted = p :: rest → ∃ t, exec .hostPostedDeliver s = .next t ∧ t.sys.posted = rest ∧
    (∀ i, i < 8 → p.mask.getLsbD i = true → byteAt t (p.pa + i) = p.data.extractLsb' (8 * i) 8) ∧
    (∀ q, (∀ i, i < 8 → p.mask.getLsbD i = true → q ≠ p.pa + i) → byteAt t q = byteAt s q) ∧
    { t with sys := { t.sys with mem := s.sys.mem, posted := s.sys.posted } } = s) ∧
  (∀ (s : State) (asid va n v : Nat) (x : Xl), 0 < n → n ≤ 128 - va % 128 →
    (SeenAt s asid va false x → readNum s asid va n = (s, .ok (wordAt s x.pa n))) ∧
    (SeenAt s asid va true x → ∃ t, writeNum s asid va n v = (t, .ok ()) ∧ BytesSet s t x.pa n v ∧ OnlyMemory s t))

/-! ### Deferred faults, Folop's answers, pre-emption, teams -/

namespace Sys2Proof.Claims

/-- The task of core c, of a team on that core alone, ended as faulted (R224, R302, R303): the core is idle and the team
completes with status 1. -/
def EndedFaulted (t : State) (c team : Nat) : Prop :=
  (coreAt t c).task = none ∧ (coreAt t c).run = .idle ∧ ∃ y, teamAt t team = some y ∧ y.status = 1 ∧ y.gen = none
/-- A task without a join record of a running team that holds core c alone and no fault domain. -/
def LoneTask (s : State) (c : Nat) (k : Task) (tm : Team) : Prop :=
  (coreAt s c).task = some k ∧ k.join = 0 ∧ (coreAt s c).chain = [] ∧ teamAt s k.team = some tm ∧ tm.state = .running ∧ tm.place = [c] ∧
  tm.qlen = 0 ∧ tm.front = [] ∧ (coreAt s c).localq = [] ∧ tm.gen = none ∧ effDomain s tm.region = false ∧ liveHere s k.team c = true
/-- R225: Folop may answer RESUME to a fault, in the state u: a MAP has given its page meanwhile, or Folop maps it now. -/
def PageServed (s u : State) (f : FaultEv) : Prop :=
  (∃ m ∈ s.pav.maps, holdsFault f m = true) ∧ u = s ∨
  (∀ m ∈ s.pav.maps, holdsFault f m = false) ∧ ∃ m, s.pav.serve.find? (holdsFault f) = some m ∧ mapChecked s m = some u
/-- What a context keeps of a core besides its array (R228, R229). -/
def SameContext (k j : Core) : Prop :=
  k.seq = j.seq ∧ k.ctl = j.ctl ∧ k.edge = j.edge ∧ k.task = j.task ∧ k.run = j.run ∧ k.deferred = j.deferred ∧ k.code = j.code

end Sys2Proof.Claims

/-- R141, R221, R223 to R226: the earliest pending deferred fault of a running core outside a handler, the fault of a feed step of the
next bundle among them, is taken at its boundary with the registers of R223 and the handler's bundle next, else nothing happens; of two pending ones the earlier detection,
then cause 0x18, then the lower code comes first; RESUME returns a waiting core to TRAPPC once its page is mapped, by a MAP or by
Folop now, and is no answer before; END, and
RETIRE inside a handler, end the task as faulted; a core that a swap has halted, or that is saved or swapped out, keeps the
answer in its context.
That the handler's bundle may issue two cycles later is the model's choice (log entry 11), that REPCNT is 0 at a trap off a
repeat its reading (log entry 22). -/
def Obligations.FaultsAndFolopsAnswers : Prop :=
  (∀ (s : State) (c : Nat), (coreAt s c).run ≠ .running ∨ (coreAt s c).soft = none ∧ ((coreAt s c).ctl.inh = true ∨ boundaryFaults s c = []) ∨
      (coreAt s c).seq.cyc < (coreAt s c).seq.readyAt ∨ isHalted s c = true →
    exec (.trapEntry c) s = .next s) ∧
  (∀ (s : State) (c : Nat),
    (earlyFault s c = none → boundaryFaults s c = (coreAt s c).deferred) ∧
    (∀ p e kind line, earlyFault s c = some (p, e, kind, line) → boundaryFaults s c = (coreAt s c).deferred ++
      [⟨0x12, (coreAt s c).seq.pc, loaderInfo e kind line, (coreAt s c).seq.cyc⟩])) ∧
  (∀ (s : State) (c : Nat) (d : Deferred),
    let k := coreAt s c
    k.ctl.inh = false → k.run = .running → k.soft = none → k.chain = [] → boundaryFaults s c = [d] → k.fences = [] → k.seq.pend = [] → k.mem.pend = [] → k.ctl.tvec ≠ 0 → k.seq.readyAt ≤ k.seq.cyc →
    isHalted s c = false → ∃ t, exec (.trapEntry c) s = .next t ∧ CoreIs s t c { k with
      deferred := []
      arr := { k.arr with frozen := true }
      ctl := { k.ctl with
        cause := BitVec.ofNat 8 d.cause, trappc := BitVec.ofNat 15 k.seq.pc, info := d.info, wavetag := BitVec.ofNat 14 d.wavetag
        repcnt := BitVec.ofNat 7 (repLeft k), inh := true }
      seq := { k.seq with pc := k.ctl.tvec.toNat, npc := k.ctl.tvec.toNat, repK := 0, readyAt := k.seq.cyc + 2 } }) ∧
  (∀ d e : Deferred, d.at_ < e.at_ ∨ d.at_ = e.at_ ∧ (d.cause = 0x18 ∧ e.cause ≠ 0x18 ∨ e.cause ≠ 0x18 ∧ d.cause < e.cause) →
    firstFault [d, e] = some d ∧ firstFault [e, d] = some d) ∧
  (∀ (s : State) (c : Nat) (f : FaultEv), faultOf s c = some f → (∀ m ∈ s.pav.maps, holdsFault f m = false) →
    (∀ m ∈ s.pav.serve, holdsFault f m = false) → exec (.folopResume c) s = .next s) ∧
  (∀ (s u : State) (c : Nat) (f : FaultEv), faultOf s c = some f →
    let k := coreAt s c
    PageServed s u f → liveHere s f.team c = true → isHalted s c = false → k.run = .waitFolop → k.chain = [] → k.deferred = [] → k.ctl.trappc.toNat < 16384 → k.ctl.trappc.toNat < k.imemQuota →
      ∃ t, exec (.folopResume c) s = .next t ∧ (coreAt t c).run = .running ∧ (coreAt t c).seq.pc = k.ctl.trappc.toNat ∧
        (coreAt t c).ctl = { k.ctl with inh := false, repcnt := 0 } ∧ (coreAt t c).arr.frozen = false ∧
        (coreAt t c).seq.g = k.seq.g ∧ t.sys = u.sys ∧ t.pav.faults = s.pav.faults.erase f) ∧
  (∀ (s : State) (c : Nat), faultOf s c = none → exec (.folopResume c) s = .next s ∧ exec (.folopEnd c) s = .next s) ∧
  (∀ (s : State) (c : Nat) (f : FaultEv) (k : Task) (tm : Team), faultOf s c = some f → f.team = k.team → LoneTask s c k tm → isHalted s c = false →
    (coreAt s c).run = .waitFolop → (coreAt s c).ctl.cause ≠ 0x18 →
    ∃ t, exec (.folopEnd c) s = .next t ∧ EndedFaulted t c k.team ∧ t.pav.faults = s.pav.faults.erase f) ∧
  (∀ (s u : State) (c : Nat) (f : FaultEv), faultOf s c = some f → isHalted s c = true ∨ liveHere s f.team c = false →
    (contextAt s f.team c).run = .waitFolop →
    (PageServed s u f → (contextAt u f.team c).run = .waitFolop → ∃ t, exec (.folopResume c) s = .next t ∧
      contextAt t f.team c = { contextAt u f.team c with answer := some true } ∧ t.pav.faults = u.pav.faults.erase f) ∧
    ∃ t, exec (.folopEnd c) s = .next t ∧ contextAt t f.team c = { contextAt s f.team c with answer := some false } ∧
      t.pav.faults = s.pav.faults.erase f) ∧
  (∀ (s : State) (k : Task) (tm : Team), (coreAt s s.me).ctl.inh = true → LoneTask s s.me k tm →
    ∃ t, exec .retire s = .next t ∧ EndedFaulted t s.me k.team)

/-- R228 to R230, R233, R307 to R309: a pre-emption makes a bound team of lower priority yield, and none that yields already; a
yielding core at its boundary, unchained and with no copy running, writes its context and is vacated; a bound team's core is restored from its
context, with the posts that reached it, and stays frozen only inside a handler; at the deadline a draining core saves; a
partition swap halts a core at its boundary, and with every core of the outgoing partition halted exchanges its live state with the
incoming partition's; one that has begun lets no other begin.
That a context is kept whole in the state, not in bytes of its area, is the model's choice (log entry 23). -/
def Obligations.PreemptionSavesAndRestores : Prop :=
  (∀ (s : State) (t : Nat) (x : Team), teamAt s t = some x →
    (s.sched.sweep = false ∨ (firstWaiting s x.part).map (·.1) ≠ some t ∨ (placement s x []).isSome = true ∨ chooseVictims s x = none →
      exec (.preemptRequest t) s = .next s) ∧
    (∀ v y, chooseVictims s x = some [(v, y)] → y.state = .yielding → exec (.preemptRequest t) s = .next s) ∧
    (∀ v y, s.sched.sweep = true → y.state ≠ .yielding → (firstWaiting s x.part).map (·.1) = some t → placement s x [] = none → chooseVictims s x = some [(v, y)] → teamAt s v = some y →
      effPrio s y.region < teamPrio s x ∧ y.part = x.part ∧ ∃ u z, exec (.preemptRequest t) s = .next u ∧ teamAt u v = some z ∧
        z.state = .yielding ∧ z.place = y.place ∧
        ∀ c ∈ y.place, liveHere s v c = true → (coreAt u c).yield_ = yieldChoice s v y (effPdl s x.region) ∧ (coreAt u c).localq = [])) ∧
  (∀ (s : State) (c t : Nat) (x : Team), bindingOf s c = some (t, x) → x.state = .yielding → liveHere s t c = true →
    let k := coreAt s c
    let u := writeOut (freeze s c) c
    k.yield_ = .save → teamDone s t = false → (∀ m, k.run ≠ .follower m) → (k.run = .running → k.seq.readyAt ≤ k.seq.cyc) → k.chain = [] →
    (k.run ≠ .running ∨ k.soft = none ∧ (k.ctl.inh = true ∨ boundaryFaults s c = [])) → k.fences = [] → retiring x c = false → copiesQuiet k = true →
    ∃ v j, exec (.coreSave c) s = .next v ∧ Tab.look v.sched.saved (64 * t + c) = some j ∧ SameContext j (coreAt u c) ∧
      j.arr.frozen = true ∧ j.arr.waves = k.arr.waves ∧ j.arr.win = k.arr.win ∧ (x.spilled = true → j.arr.cells = k.arr.cells) ∧
      ((k.arr.cells.map (·.1)).Nodup → ∀ key, { cellAt j.arr key with store := [] } = { cellAt k.arr key with store := [] }) ∧
      v.sys = u.sys ∧ (coreAt v c).task = none ∧ (coreAt v c).run = .idle ∧ (coreAt v c).mem.l1 = []) ∧
  (∀ (s : State) (c t : Nat) (x : Team) (k : Core), bindingOf s c = some (t, x) → x.state = .bound →
    Tab.look s.sched.saved (64 * t + c) = some k → (∀ m, k.run ≠ .follower m) → k.chain = [] → k.answer = none → k.mem.pend = [] →
    (k.tail = [] → ∃ v, exec (.coreRestore c) s = .next v ∧ Tab.look v.sched.saved (64 * t + c) = none ∧ SameContext (coreAt v c) k ∧
      (coreAt v c).arr.frozen = k.ctl.inh ∧ (x.spilled = true → (coreAt v c).arr.cells = k.arr.cells)) ∧
    (∀ p, k.tail = [p] → p.bar = false → ∃ v, exec (.coreRestore c) s = .next v ∧
      (∀ j, Tab.get 0 (coreAt v c).seq.k j =
        if j = p.idx then BitVec.ofNat 16 (min 65535 ((Tab.get 0 k.seq.k j).toNat + p.n)) else Tab.get 0 k.seq.k j))) ∧
  (∀ (s : State) (c t b : Nat), s.sched.drains = [(t, b)] →
    (s.beat < b ∨ (coreAt s c).yield_ ≠ .drain → exec (.drainDeadline c) s = .next s) ∧
    (b ≤ s.beat → c ∈ teamCores s t → liveHere s t c = true → (coreAt s c).yield_ = .drain → ∃ v, exec (.drainDeadline c) s = .next v ∧
      CoreIs s v c { coreAt s c with yield_ := .save })) ∧
  (∀ (s : State) (a b a' b' : Nat), s.sched.swap = some (a', b') → (a, b) ≠ (a', b') → exec (.partitionSwap a b) s = .next s) ∧
  (∀ (s : State) (a b c : Nat), a ≠ b → s.sched.swap = none ∨ s.sched.swap = some (a, b) → liveCores s a = [c] → liveCores s b = [] →
    isHalted s c = false →
    ((coreAt s c).run = .running → (coreAt s c).seq.cyc < (coreAt s c).seq.readyAt → exec (.partitionSwap a b) s =
      .next { s with sched := { s.sched with swap := some (a, b) } }) ∧
    (((coreAt s c).run = .running → (coreAt s c).seq.readyAt ≤ (coreAt s c).seq.cyc) → (∀ m, (coreAt s c).run ≠ .follower m) →
      copiesQuiet (coreAt s c) = true → (coreAt s c).soft = none → boundaryFaults s c = [] → (coreAt s c).fences = [] → (coreAt s c).chain = [] → c ∈ partCores s b →
      let f := freeze s c
      let u := writeOut { f with sched := { s.sched with swap := some (a, b), halted := s.sched.halted ++ [c] } } c
      (Tab.look s.sched.shadow c = none → ∃ v, exec (.partitionSwap a b) s = .next v ∧ (coreAt v c).part = b ∧ (coreAt v c).task = none ∧
        (coreAt v c).run = .idle ∧ v.sched.swap = none ∧ c ∉ v.sched.halted ∧ SameContext (Tab.get .reset v.sched.shadow c) (coreAt u c)) ∧
      (∀ y, Tab.look s.sched.shadow c = some y → y.part = b → y.tail = [] → y.answer = none → (∀ p ∈ s.cores, c ∉ p.2.chain) → ∃ v, exec (.partitionSwap a b) s = .next v ∧
        coreAt v c = { y with arr := { y.arr with frozen := y.ctl.inh || y.run == .waitFolop } } ∧ v.sched.swap = none ∧ c ∉ v.sched.halted ∧
        SameContext (Tab.get .reset v.sched.shadow c) (coreAt u c))))

/-- R295, R303, R305, R306, R309, R361, R362: a team that waits is bound to free cores when the scheduler comes to it, a saved one to
its own cores; a new team of one core finds G1 to G3, its code, RCPTR and the program counter preset; it runs from its
release tick on, behind an acquire at DEVICE scope, from the first array cycle that begins then; a killed team ends with status 2 and its cores are idle; a team that is over goes, and the packet that
launched it takes its status, but not while its map has met a fault (R380); the scheduler then goes through the waiting teams.
The release tick exactly 1000 ns after the binding, and the team areas that are used again, are the model's choices (log entries 55 and 14). -/
def Obligations.TeamsBindRunAndEnd : Prop :=
  (∀ (s : State) (t : Nat) (x : Team), teamAt s t = some x → x.state = .waiting → x.hasSaved = true → s.sched.sweep = true → (firstWaiting s x.part).map (·.1) = some t →
    (∀ c ∈ x.place, c ∈ freeCores s x.part) → ∃ u, exec (.teamBind t x.place) s = .next u ∧
      teamAt u t = some { x with state := .bound, bindOrder := s.sched.order + 1 } ∧ u.cores = s.cores ∧ u.sys = s.sys) ∧
  (∀ (s : State) (t c area : Nat) (x : Team) (code : List (BitVec 128)), teamAt s t = some x → x.state = .waiting → x.hasSaved = false →
    s.sched.sweep = true → (firstWaiting s x.part).map (·.1) = some t → x.img.cores = 1 → x.img.adj = [] → x.img.ents = [(255, 0, code)] → x.img.kinit = [] →
    x.img.barrier = [] → c ∈ freeCores s x.part → Tab.look s.sched.saved (64 * t + c) = none → (coreAt s c).part = x.part →
    s.pav.areas = [(x.asid, area)] → ∃ u, exec (.teamBind t [c]) s = .next u ∧
      teamAt u t = some { x with place := [c], state := .bound, bindOrder := s.sched.order + 1, rcptr := area, releaseAt := some (5 * s.beat / 9 + 1000) } ∧
      (∀ g : BitVec 5, readG (coreAt u c) g = if g = 2 then 1 else if g = 3 then x.args else 0) ∧ (coreAt u c).seq.pc = 0 ∧
      (coreAt u c).run = .running ∧ (coreAt u c).task = some ⟨t, 0, true, 0, 0, 0⟩ ∧ (coreAt u c).ctl.asid = BitVec.ofNat 12 x.asid ∧
      (coreAt u c).ctl.rcptr = BitVec.ofNat 64 area ∧ (∀ i, bundleAt (coreAt u c) i = code.getD i 0) ∧
      (coreAt u c).seq.k = [] ∧ (coreAt u c).seq.bars = [] ∧ (coreAt u c).edge.recs = [] ∧ u.pav.areas = []) ∧
  (∀ (s : State) (t n : Nat) (x : Team), teamAt s t = some x → x.releaseAt = some n →
    (5 * s.beat / 9 < n → exec (.teamRelease t) s = .next s) ∧
    (∀ c, n ≤ 5 * s.beat / 9 → x.state = .bound → x.place = [c] → liveHere s t c = true →
      let v := acquireActs s c 4
      ∃ u, exec (.teamRelease t) s = .next u ∧ teamAt u t = some { x with releaseAt := none, state := .running } ∧ u.sys = v.sys ∧
      (∀ d, d ≠ c → coreAt u d = coreAt s d) ∧ coreAt u c = { coreAt v c with
        seq := { (coreAt v c).seq with readyAt := if ticks s c = true then (coreAt s c).seq.cyc else (coreAt s c).seq.cyc + 1 } })) ∧
  (∀ (s : State) (t : Nat) (x : Team), teamAt s t = some x → x.gen = none → x.qlen = 0 → x.front = [] →
    (x.state = .waiting → x.place = [] → ∃ u, exec (.teamKill t) s = .next u ∧
      teamAt u t = some { x with status := max x.status 2, hasSaved := false, pushes := [], releaseAt := none, state := .ended }) ∧
    (∀ c k, x.status = 0 → k.team = t → LoneTask s c k x → ∃ u y, exec (.teamKill t) s = .next u ∧ teamAt u t = some y ∧ y.status = 2 ∧
      (coreAt u c).task = none ∧ (coreAt u c).run = .idle)) ∧
  (∀ (s : State) (t : Nat) (x : Team) (g : Gen), teamAt s t = some x → x.gen = some g → g.lost = true → teamDone s t = false) ∧
  (∀ (s : State) (t : Nat) (x : Team) (p : Pkt), teamAt s t = some x → pktAt s x.pkt = some p → bitsOf p.bits.toNat 0 8 = 1 →
    (teamDone s t = false → x.state ≠ .ended → exec (.teamEnd t) s = .next s) ∧
    (teamDone s t = true ∨ x.state = .ended → ∃ u, exec (.teamEnd t) s = .next u ∧ teamAt u t = none ∧ u.sched.sweep = true ∧
      pktAt u x.pkt = some { p with cores := x.place ++ p.cores, team := none, status := some (p.status.getD x.status) } ∧ u.cores = s.cores ∧ u.sys = s.sys))

/-! ### The directory -/

namespace Sys2Proof.Claims

/-- The network holds `base` and then `sent`; the entry of a line is e; no other entry, and nothing but the memory system,
changed. -/
def DirStep (s t : State) (base : List DirMsg) (line : Nat) (e : Option DirEntry) (sent : List DirMsg) : Prop :=
  dirAt t line = e ∧ (∀ l, l ≠ line → dirAt t l = dirAt s l) ∧ t.sys.msgs = base ++ sent ∧ { t with sys := s.sys } = s
/-- A request to a line. -/
def asksFor (line : Nat) : DirMsg → Bool
  | .rds l _ => l == line
  | .rdx l _ => l == line
  | .upg l _ => l == line
  | .rdio l => l == line
  | .wrio l _ _ => l == line
  | _ => false
/-- The line and the die of a message to the home. -/
def fromDie : DirMsg → Option (Nat × Nat)
  | .rds l d => some (l, d)
  | .rdx l d => some (l, d)
  | .upg l d => some (l, d)
  | .wbx l d _ _ => some (l, d)
  | .evs l d => some (l, d)
  | .invack l d => some (l, d)
  | .rclack l d _ _ _ => some (l, d)
  | .fwdack l d _ _ _ => some (l, d)
  | _ => none
/-- Message m is in flight, the home of its line runs (R370), of the requests to the line it is the oldest, and of what its die has
sent to the home about the line too (R252). -/
def Arriving (s : State) (m : DirMsg) (line : Nat) : Prop :=
  m ∈ s.sys.msgs ∧ homeStands s line = false ∧ (asksFor line m = true → s.sys.msgs.find? (asksFor line) = some m) ∧
  ∀ k, fromDie m = some k → s.sys.msgs.find? (fun x => fromDie x == some k) = some m
/-- No request to the line is on its way to its home, which runs. -/
def NoneBefore (s : State) (line : Nat) : Prop := (∀ m ∈ s.sys.msgs, asksFor line m = false) ∧ homeStands s line = false
/-- The host's own write of the line waits for earlier ones (R261). -/
def WriteWaits (s : State) (line : Nat) : Prop := ∃ w ∈ s.sys.hostw.drop 1, w.1 = line
/-- A transient state of R249. -/
def Transient (st : DirState) : Prop := (∃ d, st = .us d ∨ st = .ux d) ∨ ∃ r, st = .sx r ∨ st = .xs r ∨ st = .xu r
/-- The home copy of a line took the bytes of a mask, and no other byte of memory changed. -/
def Merged (s t : State) (line : Nat) (data : BitVec 1024) (mask : BitVec 128) : Prop :=
  (∀ i, i < 128 → byteAt t (128 * line + i) = if mask.getLsbD i = true then data.extractLsb' (8 * i) 8 else byteAt s (128 * line + i)) ∧
  ∀ q, q < 128 * line ∨ 128 * line + 128 ≤ q → byteAt t q = byteAt s q
/-- The sharer bit of a die, or of the I/O agent (4). -/
def bitOf (d : Nat) : BitVec 5 := BitVec.ofNat 5 (2 ^ d)
/-- A die holds the home copy's data of a line. -/
def Holds (t : State) (die line : Nat) (excl : Bool) : Prop := l2Find t die line = some ⟨line, memLine t.sys.mem line, 0, excl, false, false⟩
/-- The other copies in a line's set of a die L2, the first to leave last. -/
def setOf (s : State) (die line : Nat) : List L2Line := (l2Of s die).filter fun x => sameL2Set x.line line && x.line != line
/-- The set has a way for the line (R247). -/
def WayFree (s : State) (die line : Nat) : Prop := die < 4 → (setOf s die line).length < l2Ways s die line

end Sys2Proof.Claims

/-- R249 to R252, R256, R274: each directory message that is in flight, delivered, has the effect of its row: a read or write request
of a line without an entry, shared, or owned; a stable line's grant after the acknowledgement; invalidations and recalls at the
caching die; their acknowledgements at the home; write-backs, evictions, and the host's reads and writes, the writes in the order
of their delivery.  A request that meets a transient entry waits in its queue, and none passes an older one of its line, nor does a message of a die to the home pass an older one about the line (R252); a message that
is not in flight, or whose home stands, does nothing.  R253: a request whose set is full waits while the least recently used entry in S, else in X, is
called back; the freed way lets it go on.  R247: a copy that comes to a full set sends another out.
That the copy which came first leaves, and which copies share a set, are the model's choices (log entry 21). -/
def Obligations.DirectoryMessagesAct : Prop :=
  (∀ (s : State) (line die : Nat) (h : Bool) (data : BitVec 1024) (mask : BitVec 128),
    (∀ p ∈ [(Instr.rds line die, DirMsg.rds line die), (.rdx line die, .rdx line die), (.upg line die, .upg line die), (.ack line die, .ack line die),
        (.inv line die, .inv line die), (.invack line die, .invack line die), (.rcls line die, .rcls line die), (.rcli line die, .rcli line die),
        (.fwdio line die, .fwdio line die), (.evs line die, .evs line die), (.wbx line die data mask, .wbx line die data mask),
        (.rclack line die h data mask, .rclack line die h data mask), (.fwdack line die h data mask, .fwdack line die h data mask)],
      p.2 ∉ s.sys.msgs ∨ homeStands s line = true ∨ (∃ m, asksFor line p.2 = true ∧ s.sys.msgs.find? (asksFor line) = some m ∧ m ≠ p.2) ∨
        (∃ m k, fromDie p.2 = some k ∧ s.sys.msgs.find? (fun x => fromDie x == some k) = some m ∧ m ≠ p.2) →
        exec p.1 s = .next s) ∧
    (homeStands s line = true → exec (.rdio line) s = .next s ∧ exec (.wrio line data mask) s = .next s) ∧
    (homeStands s line = false → WriteWaits s line → exec (.rdio line) s = .next s) ∧
    (homeStands s line = false → (∃ m ∈ s.sys.msgs, asksFor line m = true) →
      (¬ WriteWaits s line → exec (.rdio line) s = .next { s with sys := { s.sys with msgs := s.sys.msgs ++ [.rdio line] } }) ∧
      (s.sys.hostw = [] → exec (.wrio line data mask) s = .next { s with sys := { s.sys with
        msgs := s.sys.msgs ++ [.wrio line data mask], hostw := [(line, data, mask)] } }))) ∧
  (∀ (s : State) (line die : Nat), dirAt s line = none → (s.sys.dir.filter fun p => sameSet p.1 line).length < 16 →
    (∀ p ∈ [(Instr.rds line die, DirMsg.rds line die, DirState.us die, false), (.rdx line die, .rdx line die, .ux die, true),
        (.upg line die, .upg line die, .ux die, true)], Arriving s p.2.1 line →
      (WayFree s die line → ∃ t, exec p.1 s = .next t ∧ Holds t die line p.2.2.2 ∧ t.sys.mem = s.sys.mem ∧
        DirStep s t (s.sys.msgs.erase p.2.1) line (some ⟨p.2.2.1, 0, 0, [], s.sys.clock⟩) [.ack line die]) ∧
      (∀ v, die < 4 → l2Ways s die line ≤ (setOf s die line).length → (setOf s die line).getLast? = some v → v.nc = false →
        ∃ t, exec p.1 s = .next t ∧ Holds t die line p.2.2.2 ∧ l2Find t die v.line = none ∧ t.sys.mem = s.sys.mem ∧
          DirStep s t (s.sys.msgs.erase p.2.1) line (some ⟨p.2.2.1, 0, 0, [], s.sys.clock⟩)
            [if v.dirty = 0 then .evs v.line die else .wbx v.line die v.data v.dirty, .ack line die]))) ∧
  (∀ (s : State) (line die o : Nat) (e : DirEntry) (data : BitVec 1024) (mask : BitVec 128), dirAt s line = some e → o < 5 → die < 5 →
    homeStands s line = false → WayFree s die line →
    let now := s.sys.clock
    let out (m : DirMsg) : List DirMsg := s.sys.msgs.erase m
    (e.state = .s →
      (Arriving s (.rds line die) line → ∃ t, exec (.rds line die) s = .next t ∧ Holds t die line false ∧
        DirStep s t (out (.rds line die)) line (some { e with state := .us die, used := now }) [.ack line die]) ∧
      (Arriving s (.rdx line die) line → e.sharers = bitOf o → o ≠ die → ∃ t, exec (.rdx line die) s = .next t ∧
        DirStep s t (out (.rdx line die)) line (some { e with state := .sx (.rdx die), acks := 1, used := now }) [.inv line o]) ∧
      (∀ x, Arriving s (.upg line die) line → e.sharers = bitOf die → l2Find s die line = some x → ∃ t, exec (.upg line die) s = .next t ∧
        DirStep s t (out (.upg line die)) line (some { e with state := .ux die, sharers := 0, used := now }) [.ack line die] ∧
        l2Find t die line = some { x with excl := true }) ∧
      (NoneBefore s line → ¬ WriteWaits s line → ∃ t, exec (.rdio line) s = .next t ∧ DirStep s t s.sys.msgs line (some { e with used := now }) [] ∧
        t.sys.reads = s.sys.reads ++ [(line, memLine s.sys.mem line)]) ∧
      (e.sharers = bitOf o → NoneBefore s line → s.sys.hostw = [] → ∃ t, exec (.wrio line data mask) s = .next t ∧ t.sys.hostw = [(line, data, mask)] ∧
        DirStep s t s.sys.msgs line (some { e with state := .sx (.wrio data mask), acks := 1, used := now }) [.inv line o])) ∧
    (e.state = .x → e.sharers = bitOf o →
      (Arriving s (.rds line die) line → ∃ t, exec (.rds line die) s = .next t ∧
        DirStep s t (out (.rds line die)) line (some { e with state := .xs (.rds die), used := now }) [.rcls line o]) ∧
      (Arriving s (.rdx line die) line → ∃ t, exec (.rdx line die) s = .next t ∧
        DirStep s t (out (.rdx line die)) line (some { e with state := .xu (.rdx die), used := now }) [.rcli line o]) ∧
      (NoneBefore s line → ¬ WriteWaits s line → ∃ t, exec (.rdio line) s = .next t ∧ DirStep s t s.sys.msgs line (some { e with state := .xs .rdio, used := now }) [.fwdio line o] ∧
        t.sys.reads = s.sys.reads) ∧
      (NoneBefore s line → s.sys.hostw = [] → ∃ t, exec (.wrio line data mask) s = .next t ∧ t.sys.hostw = [(line, data, mask)] ∧
        DirStep s t s.sys.msgs line (some { e with state := .xu (.wrio data mask), used := now }) [.rcli line o])) ∧
    (Transient e.state →
      (∀ p ∈ [(Instr.rds line die, DirMsg.rds line die, DirReq.rds die), (.rdx line die, .rdx line die, .rdx die), (.upg line die, .upg line die, .upg die)],
        Arriving s p.2.1 line → ∃ t, exec p.1 s = .next t ∧ t.sys.mem = s.sys.mem ∧
          DirStep s t (out p.2.1) line (some { e with queue := e.queue ++ [p.2.2], used := now }) []) ∧
      (∀ p ∈ [(Instr.rdio line, DirReq.rdio), (.wrio line data mask, .wrio data mask)], NoneBefore s line → s.sys.hostw = [] → ∃ t, exec p.1 s = .next t ∧
        t.sys.mem = s.sys.mem ∧ DirStep s t s.sys.msgs line (some { e with queue := e.queue ++ [p.2], used := now }) []))) ∧
  (∀ (s : State) (line die : Nat) (e : DirEntry), dirAt s line = some e → e.queue = [] → s.sys.setWait = [] →
    (e.state = .us die → Arriving s (.ack line die) line → ∃ t, exec (.ack line die) s = .next t ∧
      DirStep s t (s.sys.msgs.erase (.ack line die)) line (some ⟨.s, e.sharers ||| bitOf die, 0, [], s.sys.clock⟩) []) ∧
    (e.state = .ux die → Arriving s (.ack line die) line → ∃ t, exec (.ack line die) s = .next t ∧
      DirStep s t (s.sys.msgs.erase (.ack line die)) line (some ⟨.x, bitOf die, 0, [], s.sys.clock⟩) []) ∧
    (∀ d, e.state = .sx (.rdx d) → e.acks = 1 → WayFree s d line → Arriving s (.invack line die) line → ∃ t, exec (.invack line die) s = .next t ∧
      DirStep s t (s.sys.msgs.erase (.invack line die)) line (some ⟨.ux d, 0, 0, [], s.sys.clock⟩) [.ack line d] ∧ Holds t d line true) ∧
    (∀ d, e.state = .sx (.rdx d) → 1 < e.acks → Arriving s (.invack line die) line → ∃ t, exec (.invack line die) s = .next t ∧
      DirStep s t (s.sys.msgs.erase (.invack line die)) line
        (some { e with sharers := e.sharers &&& ~~~bitOf die, acks := e.acks - 1, used := s.sys.clock }) [])) ∧
  (∀ (s : State) (line die : Nat), homeStands s line = false →
    let out (m : DirMsg) : List DirMsg := s.sys.msgs.erase m
    (DirMsg.inv line die ∈ s.sys.msgs → ∃ t, exec (.inv line die) s = .next t ∧ l2Find t die line = none ∧
      DirStep s t (out (.inv line die)) line (dirAt s line) [.invack line die]) ∧
    (l2Find s die line = none → ∀ p ∈ [(Instr.rcls line die, DirMsg.rcls line die, DirMsg.rclack line die false 0 0),
        (.rcli line die, .rcli line die, .rclack line die false 0 0), (.fwdio line die, .fwdio line die, .fwdack line die false 0 0)],
      p.2.1 ∈ s.sys.msgs → ∃ t, exec p.1 s = .next t ∧ DirStep s t (out p.2.1) line (dirAt s line) [p.2.2]) ∧
    (∀ x, l2Find s die line = some x →
      (WayFree s die line → ∀ p ∈ [(Instr.rcls line die, DirMsg.rcls line die, DirMsg.rclack line die true x.data x.dirty, ([] : List (Nat × LineData))),
          (.fwdio line die, .fwdio line die, .fwdack line die true x.data x.dirty, [(line, x.data)])],
        p.2.1 ∈ s.sys.msgs → ∃ t, exec p.1 s = .next t ∧ DirStep s t (out p.2.1) line (dirAt s line) [p.2.2.1] ∧
          t.sys.reads = s.sys.reads ++ p.2.2.2 ∧ l2Find t die line = some { x with excl := false, dirty := 0 }) ∧
      (DirMsg.rcli line die ∈ s.sys.msgs → ∃ t, exec (.rcli line die) s = .next t ∧ l2Find t die line = none ∧
        DirStep s t (out (.rcli line die)) line (dirAt s line) [.rclack line die true x.data x.dirty]))) ∧
  (∀ (s : State) (line die d : Nat) (e : DirEntry) (data : BitVec 1024) (mask : BitVec 128), dirAt s line = some e → e.sharers = bitOf die →
    die < 5 → e.queue = [] → s.sys.setWait = [] → homeStands s line = false →
    let out (m : DirMsg) : List DirMsg := s.sys.msgs.erase m
    (e.state = .xs (.rds d) → WayFree s d line → Arriving s (.rclack line die true data mask) line →
      ∃ t, exec (.rclack line die true data mask) s = .next t ∧ Merged s t line data mask ∧ Holds t d line false ∧
        DirStep s t (out (.rclack line die true data mask)) line (some { e with state := .us d, used := s.sys.clock }) [.ack line d]) ∧
    (∀ x m rest, e.state = .xu (.wrio x m) → s.sys.hostw = (line, x, m) :: rest → Arriving s (.rclack line die true data mask) line →
      ∃ t u, exec (.rclack line die true data mask) s = .next t ∧ Merged s u line data mask ∧ Merged u t line x m ∧ t.sys.hostw = rest ∧
        DirStep s t (out (.rclack line die true data mask)) line none ((rest.take 1).map fun w => .wrio w.1 w.2.1 w.2.2)) ∧
    (e.state = .xs .rdio → Arriving s (.fwdack line die true data mask) line →
      ∃ t, exec (.fwdack line die true data mask) s = .next t ∧ Merged s t line data mask ∧ t.sys.reads = s.sys.reads ∧
        DirStep s t (out (.fwdack line die true data mask)) line (some ⟨.s, bitOf die, 0, [], s.sys.clock⟩) []) ∧
    (e.state = .x → Arriving s (.wbx line die data mask) line → ∃ t, exec (.wbx line die data mask) s = .next t ∧ Merged s t line data mask ∧
      l2Find t die line = none ∧ DirStep s t (out (.wbx line die data mask)) line none []) ∧
    (e.state = .s → (∀ x, l2Find s die line = some x → x.dirty = 0) → Arriving s (.evs line die) line → ∃ t, exec (.evs line die) s = .next t ∧
      l2Find t die line = none ∧ DirStep s t (out (.evs line die)) line none [] ∧ t.sys.mem = s.sys.mem)) ∧
  (∀ (s : State) (line : Nat) (data : BitVec 1024) (mask : BitVec 128), homeStands s line = false →
    (dirAt s line = none → NoneBefore s line → s.sys.hostw = [] → ∃ t, exec (.wrio line data mask) s = .next t ∧ Merged s t line data mask ∧ t.sys.hostw = [] ∧
      DirStep s t s.sys.msgs line none []) ∧
    (s.sys.hostw ≠ [] → exec (.wrio line data mask) s = .next { s with sys := { s.sys with hostw := s.sys.hostw ++ [(line, data, mask)] } }) ∧
    (dirAt s line = none → NoneBefore s line → ¬ WriteWaits s line → exec (.rdio line) s = .next { s with sys := { s.sys with reads := s.sys.reads ++ [(line, memLine s.sys.mem line)] } })) ∧
  (∀ (s : State) (line die m o : Nat) (v : DirEntry), dirAt s line = none → dirAt s m = some v → v.sharers = bitOf o → o < 5 →
    let set := s.sys.dir.filter fun p => sameSet p.1 line
    16 ≤ set.length → ∀ p ∈ [(Instr.rds line die, DirMsg.rds line die), (.rdx line die, .rdx line die)], Arriving s p.2 line →
    let waits := fun t => exec p.1 s = .next t ∧ t.sys.setWait = s.sys.setWait ++ [⟨p.2, line, some m⟩] ∧ t.sys.mem = s.sys.mem ∧
      dirAt t line = none ∧ { t with sys := s.sys } = s
    (lruEntry .s set = some (m, v) → v.state = .s → ∃ t, waits t ∧
      dirAt t m = some { v with state := .sx .victim, acks := 1, used := s.sys.clock } ∧ t.sys.msgs = s.sys.msgs.erase p.2 ++ [.inv m o]) ∧
    (lruEntry .s set = none → lruEntry .x set = some (m, v) → v.state = .x → ∃ t, waits t ∧
      dirAt t m = some { v with state := .xu .victim, used := s.sys.clock } ∧ t.sys.msgs = s.sys.msgs.erase p.2 ++ [.rcli m o])) ∧
  (∀ (s : State) (m die line : Nat) (e : DirEntry) (i : DirMsg) (data : BitVec 1024) (mask : BitVec 128), dirAt s m = some e →
    e.queue = [] → s.sys.setWait = [⟨i, line, some m⟩] →
    let goes := fun t y => dirAt t m = none ∧ t.sys.setWait = [] ∧ t.sys.msgs = i :: s.sys.msgs.erase y ∧ { t with sys := s.sys } = s
    (e.state = .sx .victim → e.acks = 1 → Arriving s (.invack m die) m → ∃ t, exec (.invack m die) s = .next t ∧ goes t (.invack m die) ∧
      t.sys.mem = s.sys.mem) ∧
    (e.state = .xu .victim → Arriving s (.rclack m die true data mask) m → ∃ t, exec (.rclack m die true data mask) s = .next t ∧
      goes t (.rclack m die true data mask) ∧ Merged s t m data mask))

/-! ### Queues, packets, graphs, regions -/

namespace Sys2Proof.Claims

/-- A little-endian field of a packet, a node or a block: offset and bytes. -/
def part (x off n : Nat) : Nat := bitsOf x (8 * off) (8 * n)
/-- A field of a packet (R354, R357). -/
def pf (p : Pkt) (off n : Nat) : Nat := part p.bits.toNat off n
/-- A started packet of a type whose work has not begun (R353, R357). -/
def Started (s : State) (k : Nat) (p : Pkt) (ty : Nat) : Prop := pktAt s k = some p ∧ pf p 0 1 = ty ∧ p.begun = false ∧ p.status = none
/-- Packet k became p. -/
def PktIs (t : State) (k : Nat) (p : Pkt) : Prop := pktAt t k = some p
/-- A posted store of n bytes at a host address, by doubleword (R256, R262). -/
def postedBytes (a n v : Nat) : List Posted :=
  (List.range ((a % 8 + n + 7) / 8)).map fun i =>
    ⟨a / 8 * 8 + 8 * i, BitVec.ofNat 64 (v * 256 ^ (a % 8) / 256 ^ (8 * i)), BitVec.ofNat 8 ((2 ^ n - 1) * 2 ^ (a % 8) / 2 ^ (8 * i))⟩
/-- R355: the device behind a release at scope `rel` of what the work did on some cores, and of its posted stores (R257). -/
def afterRelease (s : State) (rel : Nat) (cs : List Nat) : State :=
  if rel = 0 then s
  else if rel = 5 then deliverPosted (cs.foldl (fun s c => releaseActs s c rel) s)
  else cs.foldl (fun s c => releaseActs s c rel) s
/-- R358: the condition of a WAITSIG. -/
def condHolds (c word mask value : Nat) : Prop :=
  (c = 0 ∧ word &&& mask = value) ∨ (c = 1 ∧ word &&& mask ≠ value) ∨ (c = 2 ∧ value ≤ word &&& mask)
/-- Nothing but the Pavilion's state changed. -/
def OnlyPav (s t : State) : Prop := { t with pav := s.pav } = s
/-- R205, R359: of n pieces of 64 bytes each landed at its place with what the source held in s, unless a later piece landed
there too; no other byte changed since v. -/
def PiecesLand (s v t : State) (n : Nat) (xs ys : Nat → Xl) : Prop :=
  (∀ i b, i < n → b < 64 → (∀ j, i < j → j < n → (ys i).pa + b < (ys j).pa ∨ (ys j).pa + 64 ≤ (ys i).pa + b) →
    byteAt t ((ys i).pa + b) = byteAt s ((xs i).pa + b)) ∧
  ∀ a, (∀ i, i < n → a < (ys i).pa ∨ (ys i).pa + 64 ≤ a) → byteAt t a = byteAt v a
/-- R211: the lines that the copy has written to their end are full, and the full bit of no other line changed. -/
def LinesFill (s t : State) (n : Nat) (dst : Nat → Nat) (ys : Nat → Xl) : Prop :=
  let ends (i l : Nat) : Prop := i < n ∧ (dst i % 128 = 64 ∨ i + 1 = n) ∧ (ys i).pa / 128 = l
  ∀ l, ((∃ i, ends i l) → Tab.get false t.sys.full l = true) ∧ ((∀ i, ¬ ends i l) → Tab.get false t.sys.full l = Tab.get false s.sys.full l)
/-- A graph packet that runs stands at a legal node of contents v, as it found them while the node's kernel runs. -/
def AtNode (s : State) (k : Nat) (p : Pkt) (v : Nat) : Prop :=
  pktAt s k = some p ∧ pf p 0 1 = 2 ∧ p.begun = true ∧ p.status = none ∧ p.node % 64 = 0 ∧ nodeOk v = true ∧
  (p.team = none → readNum s (queueAt s p.queue).asid p.node 64 = (s, .ok v)) ∧ (p.team ≠ none → p.cur.toNat = v)
/-- A team as a launch leaves it (R361, R306). -/
def launched (s : State) (img : Image) (asid region k : Nat) (args : Dword) : Team :=
  ⟨img, asid, regionPart s region, region, k, args, .waiting, [], 0, 0, 0, [], [], 0, none, s.beat, s.sched.order, 0,
    false, false, 0, none⟩

end Sys2Proof.Claims

/-- R349, R350, R352, R353, R355, R363: a doorbell store is ignored, is a queue error 1, or moves WRITE and posts the queue's event,
behind the host's earlier writes, as is a packet's start; a free Pavilion core takes the oldest event and starts the queue's next packet, which with BAR
waits for those before it, or stops the queue with the packet's error, 7 for a ring fetch that faults; a finished packet releases
what its work did, and completes with its signal store and its interrupt, or with queue error 8 where the store faults; a due
interrupt is a posted store of IRQDATA. -/
def Obligations.QueuesStartAndCompletePackets : Prop :=
  (∀ (s : State) (q : Nat) (w : Dword),
    let x := queueAt s q
    ∃ t, exec (.doorbellWrite q w) s = .next t ∧ OnlyPav (settle s) t ∧ t.pav.bells = s.pav.bells.erase (q, w.toNat) ∧
      (x.state ≠ 1 ∨ w.toNat ≤ x.write → t.pav.events = s.pav.events ∧ queueAt t q = x) ∧
      (x.state = 1 → x.write < w.toNat → 2 ^ x.logsz < w.toNat - x.read →
        t.pav.events = s.pav.events ∧ queueAt t q = { x with state := 2, err := 1 }) ∧
      (x.state = 1 → x.write < w.toNat → w.toNat - x.read ≤ 2 ^ x.logsz → queueAt t q = { x with write := w.toNat, posted := true } ∧
        t.pav.events = if x.posted = true then s.pav.events else s.pav.events ++ [q])) ∧
  (∀ (s : State) (v : Nat), v = 0 ∨ 11 < v ∨ s.pav.events = [] → exec (.queueEvent v) s = .next s) ∧
  (∀ (s : State) (v q b : Nat) (rest : List Nat), 0 < v → v ≤ 11 → s.pav.events = q :: rest →
    let x := queueAt s q
    (x.state ≠ 1 ∨ x.write ≤ x.read → ∃ t, exec (.queueEvent v) s = .next t ∧ t.pav.events = rest ∧ queueAt t q = { x with posted := false } ∧
      t.pav.pkts = s.pav.pkts ∧ OnlyPav (settle s) t) ∧
    (x.state = 1 → x.write = x.read + 1 → openPackets s q < 64 →
      (∀ u, u = { settle s with pav := { s.pav with events := rest, queues := Tab.set .reset s.pav.queues q { x with posted := false } } } →
        readNum u x.asid (x.base + 64 * (x.read % 2 ^ x.logsz)) 64 = (u, .ok b)) → b < 2 ^ 512 →
      (packetError b = 0 → b.testBit 14 = true → openPackets s q ≠ 0 → ∃ t, exec (.queueEvent v) s = .next t ∧ t.pav.events = rest ∧
        queueAt t q = { x with posted := false } ∧ t.pav.pkts = s.pav.pkts) ∧
      (packetError b = 0 → b.testBit 14 = false ∨ openPackets s q = 0 → ∃ t, exec (.queueEvent v) s = .next t ∧ t.pav.events = rest ∧
        queueAt t q = { x with posted := false, read := x.read + 1 } ∧ t.pav.nextPkt = s.pav.nextPkt + 1 ∧
        PktIs t s.pav.nextPkt ⟨q, x.read, BitVec.ofNat 512 b, none, 0, 0, [], none, false, none⟩) ∧
      (packetError b ≠ 0 → ∃ t, exec (.queueEvent v) s = .next t ∧ t.pav.events = rest ∧
        queueAt t q = { x with posted := false, state := 2, err := BitVec.ofNat 8 (packetError b) } ∧ t.pav.pkts = s.pav.pkts))) ∧
  (∀ (s f : State) (v q : Nat) (e : XErr) (rest : List Nat), 0 < v → v ≤ 11 → s.pav.events = q :: rest →
    let x := queueAt s q
    x.state = 1 → x.read < x.write → openPackets s q < 64 →
    (∀ u, u = { settle s with pav := { s.pav with events := rest, queues := Tab.set .reset s.pav.queues q { x with posted := false } } } →
      readNum u x.asid (x.base + 64 * (x.read % 2 ^ x.logsz)) 64 = (f, .error e)) →
    ∃ t, exec (.queueEvent v) s = .next t ∧ t.pav.events = rest ∧ queueAt t q = { x with posted := false, state := 2, err := 7 } ∧ t.sys = f.sys) ∧
  (∀ b : Nat, (part b 0 1 = 0 ∨ 6 < part b 0 1) → packetError b = 2) ∧
  (∀ (s v : State) (k st : Nat) (p : Pkt) (x : Xl), pktAt s k = some p → p.team = none →
    let u := afterRelease s (bitsOf p.bits.toNat 11 3) p.cores
    let q := queueAt u p.queue
    (p.status = none → exec (.packetComplete k) s = .next s) ∧
    (p.status = some st → st < 2 ^ 63 →
      (p.bits.getLsbD 15 = false → ∃ t, exec (.packetComplete k) s = .next t ∧ OnlyPav u t ∧ pktAt t k = none ∧
        t.pav.events = if q.state = 1 ∧ q.read < q.write ∧ q.posted = false then u.pav.events ++ [p.queue] else u.pav.events) ∧
      (p.bits.getLsbD 15 = true → SeenAt u q.asid (pf p 8 8) true x →
        (∃ t, exec (.packetComplete k) s = .next t ∧ BytesSet u t x.pa 8 (2 ^ 63 + st) ∧ pktAt t k = none ∧ t.cores = u.cores) ∧
        (p.bits.getLsbD 16 = true → q.coal = 0 → ∃ t, exec (.packetComplete k) s = .next t ∧
          t.sys.posted = u.sys.posted ++ postedBytes q.irqaddr 4 q.irqdata.toNat) ∧
        (p.bits.getLsbD 16 = true → q.coal ≠ 0 → q.irqAt = none → ∃ t, exec (.packetComplete k) s = .next t ∧
          (queueAt t p.queue).irqAt = some (s.beat + 1800 * q.coal) ∧ t.sys.posted = u.sys.posted)) ∧
      (∀ e, p.bits.getLsbD 15 = true → pavTranslate u q.asid (pf p 8 8) true = (v, .error e) →
        ∃ t, exec (.packetComplete k) s = .next t ∧ pktAt t k = none ∧ t.sys = v.sys ∧
          queueAt t p.queue = { q with state := if q.state = 3 then 3 else 2, err := 8 }))) ∧
  (∀ (s : State) (q : Nat),
    ((queueAt s q).irqAt = none → exec (.irqSend q) s = .next s) ∧
    (∀ b, (queueAt s q).irqAt = some b → (s.beat < b → exec (.irqSend q) s = .next s) ∧
      (b ≤ s.beat → ∃ t, exec (.irqSend q) s = .next t ∧ queueAt t q = { queueAt s q with irqAt := none } ∧
        t.sys = { s.sys with posted := s.sys.posted ++ postedBytes (queueAt s q).irqaddr 4 (queueAt s q).irqdata.toNat })))

/-- R355 to R359, R361, R306: LAUNCH of a checked image whose region takes it leaves a waiting team, and of a bad image ends with
status 3, of an unmapped one with 6; WAITSIG completes when its condition holds, or at TMO with status 8; SIGNAL stores or
adds behind a SYSTEM release; COPY moves its bytes, those that the source held, and fills its lines; a fault ends a packet with status 6,
a COPY after the pieces of 64 bytes before it.
Status 6 for a launch whose image address faults, and OP as the whole doubleword at 0x20, are the model's readings (log entries 34 and 37). -/
def Obligations.PacketsDoTheirWork : Prop :=
  (∀ (s u : State) (k : Nat) (p : Pkt), Started s k p 1 →
    let q := queueAt s p.queue
    let region := if pf p 0x20 8 = 0 then q.region else pf p 0x20 8
    (∀ img, readImage (settle s) q.asid (pf p 0x10 8) = (u, .ok (some img)) → img.sched = none → (regionAt u region).isSome = true →
      effAsid u region = q.asid → everBindable u img region = true → ∃ t, exec (.launch k) s = .next t ∧
        teamAt t u.sched.nextTeam = some (launched u img q.asid region k (BitVec.ofNat 64 (pf p 0x18 8))) ∧ t.sched.sweep = true ∧
        PktIs t k { p with begun := true, team := some u.sched.nextTeam } ∧ t.sys = u.sys) ∧
    (∀ h, readNum (settle s) q.asid (pf p 0x10 8) 64 = (u, .ok h) → part h 0 4 ≠ 0x464F447F →
      ∃ t, exec (.launch k) s = .next t ∧ PktIs t k { p with begun := true, status := some 3 }) ∧
    (readNum (settle s) q.asid (pf p 0x10 8) 64 = (u, .error .invalid) → ∃ t, exec (.launch k) s = .next t ∧ PktIs t k { p with begun := true, status := some 6 })) ∧
  (∀ (s : State) (k : Nat) (p : Pkt) (x : Xl), Started s k p 3 →
    let d : Option Nat := if pf p 0x2C 4 = 0 then none else some (s.beat + 1800 * pf p 0x2C 4)
    let u : State := { settle s with pav := { s.pav with pkts := Tab.put s.pav.pkts k { p with begun := true, deadline := d } } }
    SeenAt u (queueAt s p.queue).asid (pf p 0x10 8) false x → pf p 0x10 8 % 8 = 0 →
    let holds : Prop := condHolds (pf p 0x28 4) (wordAt s x.pa 8) (pf p 0x20 8) (pf p 0x18 8)
    pf p 0x28 4 < 3 → ∃ t, exec (.waitsig k) s = .next t ∧ OnlyPav (settle s) t ∧ (holds → PktIs t k { p with begun := true, deadline := d, status := some 0 }) ∧
      (¬ holds → PktIs t k { p with begun := true, deadline := d })) ∧
  (∀ (s : State) (k : Nat) (p : Pkt) (x : Xl), pktAt s k = some p → pf p 0 1 = 3 → p.begun = true → p.status = none →
    (SeenAt s (queueAt s p.queue).asid (pf p 0x10 8) false x → pf p 0x10 8 % 8 = 0 → pf p 0x28 4 < 3 →
      let holds : Prop := condHolds (pf p 0x28 4) (wordAt s x.pa 8) (pf p 0x20 8) (pf p 0x18 8)
      (holds → ∃ t, exec (.waitsigPoll k) s = .next t ∧ OnlyPav s t ∧ PktIs t k { p with status := some 0 }) ∧
      (¬ holds → exec (.waitsigPoll k) s = .next s)) ∧
    (∀ b, p.deadline = some b → (s.beat < b → exec (.waitsigTimeout k) s = .next s) ∧
      (b ≤ s.beat → ∃ t, exec (.waitsigTimeout k) s = .next t ∧ OnlyPav s t ∧ PktIs t k { p with status := some 8 }))) ∧
  (∀ (s v : State) (k : Nat) (p : Pkt) (x : Xl), Started s k p 4 →
    let u := deliverPosted (settle s)
    let asid := (queueAt s p.queue).asid
    (SeenAt u asid (pf p 0x10 8) true x →
      (pf p 0x20 8 = 0 → ∃ t, exec (.signalStore k) s = .next t ∧ BytesSet u t x.pa 8 (pf p 0x18 8) ∧ PktIs t k { p with begun := true, status := some 0 }) ∧
      (pf p 0x20 8 = 1 → pf p 0x10 8 < 2 ^ 64 → ∃ t, exec (.signalAdd k) s = .next t ∧ BytesSet u t x.pa 8 ((wordAt u x.pa 8 + pf p 0x18 8) % 2 ^ 64) ∧
        PktIs t k { p with begun := true, status := some 0 })) ∧
    (∀ e, pavTranslate u asid (pf p 0x10 8) true = (v, .error e) →
      (pf p 0x20 8 = 0 → ∃ t, exec (.signalStore k) s = .next t ∧ t.sys = v.sys ∧ PktIs t k { p with begun := true, status := some 6 }) ∧
      (pf p 0x20 8 = 1 → ∃ t, exec (.signalAdd k) s = .next t ∧ t.sys = v.sys ∧ PktIs t k { p with begun := true, status := some 6 }))) ∧
  (∀ (s v : State) (k n m : Nat) (p : Pkt) (xs ys : Nat → Xl), Started s k p 5 → pf p 0x20 8 = 64 * n → pf p 0x10 8 % 64 = 0 → 0 < n → m ≤ n →
    let asid := (queueAt s p.queue).asid
    let z := settle s
    let src (i : Nat) : Nat := (pf p 0x10 8 + 64 * i) % 2 ^ 64
    let dst (i : Nat) : Nat := (pf p 0x18 8 + 64 * i) % 2 ^ 64
    ((∀ i, i < n → SeenAt z asid (src i) false (xs i)) → (∀ i, i < n → SeenAt z asid (dst i) true (ys i)) → ∃ t, exec (.copy k) s = .next t ∧
      PiecesLand z z t n xs ys ∧ LinesFill z t n dst ys ∧ PktIs t k { p with begun := true, status := some 0 }) ∧
    (∀ e, m < n → (∀ i, i < m → SeenAt z asid (src i) false (xs i)) → pavTranslate z asid (src m) false = (v, .error e) →
      (∀ i, i < m → SeenAt v asid (dst i) true (ys i)) → ∃ t, exec (.copy k) s = .next t ∧ PiecesLand z v t m xs ys ∧
        (m = 0 → t.sys = v.sys) ∧ PktIs t k { p with begun := true, status := some 6 }) ∧
    (∀ e, m < n → (∀ i, i < n → SeenAt z asid (src i) false (xs i)) → (∀ i, i < m → SeenAt z asid (dst i) true (ys i)) →
      (∀ u, PiecesLand z z u m xs ys → u.sys.tlb = z.sys.tlb → { u with sys := z.sys } = z → pavTranslate u asid (dst m) true = (u, .error e)) →
      ∃ t, exec (.copy k) s = .next t ∧ PiecesLand z z t m xs ys ∧ PktIs t k { p with begun := true, status := some 6 }))

/-- R345 to R348: GRAPH starts at the node that its packet names; a misplaced node ends the graph with status 4; KERNEL waits for its
team and goes on behind the release at the node's scope, or ends with the team's status; LOOP counts and goes to its body or to NEXT; COND chooses; SIGNAL writes
its word; END completes the packet; a node of another kind leaves the event without effect.
That a graph does one node at a time is the model's choice (log entry 53). -/
def Obligations.GraphNodesAct : Prop :=
  (∀ (s : State) (k : Nat) (p : Pkt), Started s k p 2 → ∃ t, exec (.graph k) s = .next t ∧ OnlyPav (settle s) t ∧
    PktIs t k { p with begun := true, node := pf p 0x10 8 }) ∧
  (∀ (s : State) (k : Nat) (p : Pkt), pktAt s k = some p → pf p 0 1 = 2 → p.begun = true → p.status = none → p.node % 64 ≠ 0 →
    ∀ i ∈ [Instr.graphKernel k, .graphLoop k, .graphCond k, .graphSignal k, .graphEnd k],
      ∃ t, exec i s = .next t ∧ OnlyPav s t ∧ PktIs t k { p with status := some 4 }) ∧
  (∀ (s : State) (k : Nat) (p : Pkt) (v : Nat), AtNode s k p v →
    let asid := (queueAt s p.queue).asid
    (∀ y ∈ [(1, Instr.graphKernel k), (2, .graphLoop k), (3, .graphCond k), (4, .graphSignal k), (5, .graphEnd k)],
      part v 0 1 ≠ y.1 → exec y.2 s = .next s) ∧
    (part v 0 1 = 5 → ∃ t, exec (.graphEnd k) s = .next t ∧ OnlyPav s t ∧ PktIs t k { p with status := some 0 }) ∧
    (∀ u w, part v 0 1 = 3 → readNum s asid (part v 0x10 8) 8 = (u, .ok w) → ∃ t, exec (.graphCond k) s = .next t ∧ t.sys = u.sys ∧
      PktIs t k { p with team := none, node := if w = 0 then part v 0x20 8 else part v 0x18 8 }) ∧
    (∀ x : Xl, part v 0 1 = 4 → part v 0x28 4 = 0 → SeenAt (deliverPosted s) asid (part v 0x10 8) true x → ∃ t, exec (.graphSignal k) s = .next t ∧
      BytesSet (deliverPosted s) t x.pa 8 (part v 0x18 8) ∧ PktIs t k { p with team := none, node := part v 8 8 }) ∧
    (∀ u w z, part v 0 1 = 2 → part v 1 1 = 1 → readNum s asid (part v 0x18 8) 8 = (u, .ok w) →
      (w = 0 ∨ part v 0x2C 4 = part v 0x28 4 → writeNum u asid (p.node + 1) 1 0 = (z, .ok ()) → ∃ t, exec (.graphLoop k) s = .next t ∧ t.sys = z.sys ∧
        PktIs t k { p with team := none, node := part v 8 8 }) ∧
      (w ≠ 0 → part v 0x2C 4 ≠ part v 0x28 4 → writeNum u asid (p.node + 0x2C) 4 (part v 0x2C 4 + 1) = (z, .ok ()) →
        ∃ t, exec (.graphLoop k) s = .next t ∧ t.sys = z.sys ∧ PktIs t k { p with team := none, node := part v 0x10 8 })) ∧
    (∀ a b u w z, part v 0 1 = 2 → part v 1 1 = 0 → writeNum s asid (p.node + 1) 1 1 = (a, .ok ()) →
      writeNum a asid (p.node + 0x2C) 4 0 = (b, .ok ()) → readNum b asid (part v 0x18 8) 8 = (u, .ok w) → w ≠ 0 →
      writeNum u asid (p.node + 0x2C) 4 1 = (z, .ok ()) → ∃ t, exec (.graphLoop k) s = .next t ∧ t.sys = z.sys ∧
        PktIs t k { p with team := none, node := part v 0x10 8 }) ∧
    (∀ u img, part v 0 1 = 1 → p.team = none → part v 0x20 8 ≠ 0 → readImage s asid (part v 0x10 8) = (u, .ok (some img)) → img.sched = none →
      (regionAt u (part v 0x20 8)).isSome = true → effAsid u (part v 0x20 8) = asid → everBindable u img (part v 0x20 8) = true →
      ∃ t, exec (.graphKernel k) s = .next t ∧
        teamAt t u.sched.nextTeam = some (launched u img asid (part v 0x20 8) k (BitVec.ofNat 64 (part v 0x18 8))) ∧
        PktIs t k { p with team := some u.sched.nextTeam, cur := BitVec.ofNat 512 v }) ∧
    (∀ n y, part v 0 1 = 1 → p.team = some n → teamAt s n = some y →
      (y.state ≠ .ended → exec (.graphKernel k) s = .next s) ∧
      (y.state = .ended →
        let u := afterRelease { s with sched := { s.sched with teams := Tab.erase n s.sched.teams, sweep := true } } (part v 1 1 / 8 % 8) y.place
        (y.status ≠ 0 → ∃ t, exec (.graphKernel k) s = .next t ∧ teamAt t n = none ∧ t.sys = u.sys ∧
          PktIs t k { p with team := none, cores := y.place ++ p.cores, status := some y.status }) ∧
        (y.status = 0 → ∃ t, exec (.graphKernel k) s = .next t ∧ teamAt t n = none ∧ t.sys = u.sys ∧
          PktIs t k { p with team := none, cores := y.place ++ p.cores, node := part v 8 8 }))))

/-- R304, R360, R303: on a queue without PRIV a REGION packet ends with status 5; INSERT links a legal block under its parent, UPDATE
rewrites the fields that Folop owns and keeps the counts that the schedulers write, REMOVE takes out a block without children or teams, and of any other
ends with status 5; KILL ends every team of the subtree with status 2. -/
def Obligations.RegionPacketsAct : Prop :=
  (∀ (s u : State) (k v op : Nat) (p : Pkt), Started s k p 6 → pf p 0x20 8 = op →
    let a := pf p 0x10 8
    let asid := (queueAt s p.queue).asid
    let done (st : Nat) : Pkt := { p with begun := true, status := some st }
    ((queueAt s p.queue).priv = false → ∀ y ∈ [(0, Instr.regionInsert k), (1, .regionUpdate k), (2, .regionRemove k), (3, .regionKill k)],
      op = y.1 → ∃ t, exec y.2 s = .next t ∧ OnlyPav s t ∧ PktIs t k (done 5)) ∧
    ((queueAt s p.queue).priv = true →
      (op = 0 → readNum (settle s) asid (pf p 0x18 8) 256 = (u, .ok v) → a ≠ 0 →
        (blockOk v = false ∨ (regionAt u a).isSome = true → ∃ t, exec (.regionInsert k) s = .next t ∧ t.sched = u.sched ∧ PktIs t k (done 5)) ∧
        (blockOk v = true → regionAt u a = none →
          ((regionOf v).parent = 0 → ∃ t, exec (.regionInsert k) s = .next t ∧ regionAt t a = some (regionOf v) ∧ PktIs t k (done 0)) ∧
          (∀ r, (regionOf v).parent ≠ 0 → regionAt u (regionOf v).parent = some r → ∃ t, exec (.regionInsert k) s = .next t ∧
            regionAt t a = some { regionOf v with sibling := r.child } ∧ regionAt t (regionOf v).parent = some { r with child := a } ∧
            PktIs t k (done 0)))) ∧
      (∀ r, op = 1 → readNum (settle s) asid (pf p 0x18 8) 256 = (u, .ok v) → regionAt u a = some r →
        (blockOk v = false → ∃ t, exec (.regionUpdate k) s = .next t ∧ t.sched = u.sched ∧ PktIs t k (done 5)) ∧
        (blockOk v = true → ∃ t, exec (.regionUpdate k) s = .next t ∧ PktIs t k (done 0) ∧ t.sched.sweep = true ∧
          regionAt t a = some { regionOf v with cused := r.cused, copyused := r.copyused })) ∧
      (∀ r, op = 2 → regionAt s a = some r →
        (r.child ≠ 0 ∨ (∃ t ∈ s.sched.teams, t.2.region = a ∧ t.2.state ≠ .ended) →
          ∃ t, exec (.regionRemove k) s = .next t ∧ t.sched = s.sched ∧ PktIs t k (done 5)) ∧
        (r.child = 0 → (∀ t ∈ s.sched.teams, t.2.region = a → t.2.state = .ended) → r.parent ≠ a → ∀ q, regionAt s r.parent = some q → q.child = a →
          q.sibling ≠ a → ∃ t, exec (.regionRemove k) s = .next t ∧ regionAt t a = none ∧ regionAt t r.parent = some { q with child := r.sibling } ∧
            PktIs t k (done 0))) ∧
      (∀ n x r, op = 3 → regionAt s a = some r → s.sched.teams = [(n, x)] → inSubtree s a x.region = true → x.state = .waiting → x.place = [] →
        x.qlen = 0 → x.front = [] → x.gen = none → ∃ t, exec (.regionKill k) s = .next t ∧ PktIs t k (done 0) ∧
          teamAt t n = some { x with status := max x.status 2, hasSaved := false, pushes := [], releaseAt := none, state := .ended })))

/-! ### Folop's commands -/

namespace Sys2Proof.Claims

/-- The command of a code is the one that Folop has taken, with its tag (R367). -/
def Taken (s : State) (code : Nat) (g : Dword) : Prop := s.pav.mbox.runs.toNat = code ∧ s.pav.mbox.tag = some g
/-- A command's operand, as RING found it. -/
def operand (s : State) (i : Nat) : Nat := (Tab.get 0 s.pav.mbox.ops i).toNat
/-- The mailbox when a command is over: OUT and RESULT, then DONE (R367). -/
def overBox (m : Mailbox) (g : Dword) (out : Option Nat) (result : Nat) : Mailbox :=
  { m with out := (out.map (BitVec.ofNat 64)).getD m.out, result := BitVec.ofNat 32 result, done := g, tag := none }
/-- A command was refused: its mailbox reports it and nothing else changed. -/
def Turned (s t : State) (g : Dword) (result : Nat) : Prop :=
  t = { s with pav := { s.pav with mbox := overBox s.pav.mbox g none result } }
/-- A command is done, with its OUT. -/
def Over (s t : State) (g : Dword) (out : Nat) : Prop := t.pav.mbox = overBox s.pav.mbox g (some out) 0
/-- R244: an ASID that is live. -/
def Live (s : State) (a : Nat) : Prop := a < 4096 ∧ (asidAt s a).v = true ∧ (asidAt s a).dying = false
/-- A byte of memory as its home slice gives it, with what the I/O agent holds of it (R251, R256). -/
def seenByte (s : State) (pa : Nat) : Byte := (coherentRead s pa 1).2.getD 0 0
/-- The table entry at pa became v and no other byte of memory changed. -/
def EntrySet (s t : State) (pa v : Nat) : Prop :=
  (∀ i, i < 8 → (seenByte t (pa + i)).toNat = v / 256 ^ i % 256) ∧ ∀ q, q < pa ∨ pa + 8 ≤ q → seenByte t q = byteAt s q
/-- No cache holds a line and no message is on its way; the homes of two entries run. -/
def TablesAtHome (s : State) (a b : Nat) : Prop :=
  s.sys.dir = [] ∧ s.sys.msgs = [] ∧ s.sys.l2 = [] ∧ homeStands s (a / 128) = false ∧ homeStands s (b / 128) = false
/-- No cache holds a line, no message or host write is on its way, and the homes of n bytes at pa run. -/
def BlockAtHome (s : State) (pa n : Nat) : Prop :=
  s.sys.dir = [] ∧ s.sys.msgs = [] ∧ s.sys.l2 = [] ∧ s.sys.setWait = [] ∧ s.sys.hostw = [] ∧ ∀ i, i < n → homeStands s ((pa + i) / 128) = false
/-- The bytes of a size code of MAP (R367). -/
def codeSize (c : Nat) : Nat := [2 ^ 12, 2 ^ 16, 2 ^ 21, 2 ^ 30].getD c 0
/-- The bytes from an offset of a report. -/
def reportPart (r : List Byte) (off n : Nat) : List Byte := (r.drop off).take n

end Sys2Proof.Claims

/-- R366, R367, R364, R351, R349, R242, R376, R377: a command that Folop has not taken does nothing; ASIDNEW gives the lowest free ASID an empty
root table; ASIDDEL lets a live ASID die with its queues, packets and teams, and a drained one is free; MAP writes a leaf
into its table and UNMAP clears it, as reads at the entry's home see it (R256); QNEW, QCTL, PART and DOORBELL change their tables, PART with a context area for each core and at most two partitions on
one; ATTEST posts a report whose signatures and endorsement verify, and no other; a refused
command changes nothing but RESULT and DONE; a tag out of sequence gives RESULT 3, an unknown code RESULT 1.
The lowest free ASID and queue, the pool of pages, the refusals of MAP, DOORBELL's address, the report's length, and an out-of-sequence tag that leaves DONE are the model's choices (log entries 55, 14, 39, 40, 41 and 35); the keys and signatures are opaque (log entry 5); ASID 0 as Folop's
own, a queue of it as the one with PRIV, QCTL's event where WRITE is past READ, and the physical address of PART's root block
are the model's choices too (log entries 67, 36 and 17). -/
def Obligations.FolopCommandsAct : Prop :=
  (∀ s : State, ∀ y ∈ [(1, Instr.asidnew), (2, .asiddel), (3, .mapPages), (4, .unmapPages), (5, .qnew), (6, .qctl), (7, .part), (8, .attest),
      (9, .doorbell)], s.pav.mbox.tag = none ∨ s.pav.mbox.runs.toNat ≠ y.1 → exec y.2 s = .next s) ∧
  (∀ (s : State) (g : Dword), Taken s 1 g →
    ((∀ a, 1 ≤ a → a < 4096 → (asidAt s a).v = true) → ∃ t, exec .asidnew s = .next t ∧ Turned s t g 2) ∧
    (∀ a, 1 ≤ a → a < 4096 → (asidAt s a).v = false → (∀ b, 1 ≤ b → b < a → (asidAt s b).v = true) →
      ((asidAt s a).root ≠ 0 → ∃ t, exec .asidnew s = .next t ∧ Over s t g a ∧ asidAt t a = ⟨true, false, (asidAt s a).root, 0⟩ ∧
        (BlockAtHome s (asidAt s a).root (2 ^ 21) → ∀ i, i < 2 ^ 21 → byteAt t ((asidAt s a).root + i) = 0)) ∧
      ((asidAt s a).root = 0 → s.pav.pool % 2 ^ 21 = 0 → s.pav.pool + 2 ^ 21 ≤ hbmBytes → ∃ t, exec .asidnew s = .next t ∧ Over s t g a ∧
        asidAt t a = ⟨true, false, s.pav.pool, 0⟩ ∧ t.sys = s.sys))) ∧
  (∀ (s : State) (g : Dword), Taken s 2 g →
    let a := operand s 0
    ((asidAt s a).dying = true → exec .asiddel s = .next s) ∧
    ((asidAt s a).dying = false → 4096 ≤ a → ∃ t, exec .asiddel s = .next t ∧ Turned s t g 1) ∧
    ((asidAt s a).dying = false → a < 4096 → a = 0 ∨ (asidAt s a).v = false → ∃ t, exec .asiddel s = .next t ∧ Turned s t g 2) ∧
    (Live s a → a ≠ 0 → (∀ x ∈ s.sched.teams, x.2.asid ≠ a) → ∃ t, exec .asiddel s = .next t ∧ t.pav.mbox = s.pav.mbox ∧ t.sys = s.sys ∧
      asidAt t a = { asidAt s a with dying := true, since := s.beat } ∧
      (∀ q x, Tab.look s.pav.queues q = some x → queueAt t q = if x.asid = a then { x with state := 3 } else x) ∧
      ∀ k p, pktAt s k = some p → PktIs t k (if (queueAt s p.queue).asid = a then { p with begun := true, status := some 7 } else p)) ∧
    (∀ n x, Live s a → a ≠ 0 → s.sched.teams = [(n, x)] → x.asid = a → x.state = .waiting → x.place = [] → x.qlen = 0 → x.front = [] → x.gen = none →
      ∃ t, exec .asiddel s = .next t ∧ teamAt t n = some { x with status := max x.status 2, hasSaved := false, pushes := [], releaseAt := none, state := .ended })) ∧
  (∀ (s : State) (a : Nat),
    let busy : Prop := ∃ p ∈ s.cores, ∃ c ∈ p.2.mem.chans, (∃ r ∈ c.2.queue, r.asid = a) ∨ ∃ j, c.2.job = some j ∧ j.req.asid = a
    ((asidAt s a).dying = false ∨ busy → exec (.asidDrained a) s = .next s) ∧
    ((asidAt s a).dying = true → ¬ busy → (∀ m ∈ s.pav.maps, m.asid ≠ a) → ∃ t, exec (.asidDrained a) s = .next t ∧
      asidAt t a = ⟨false, false, (asidAt s a).root, 0⟩ ∧ (∀ e ∈ t.sys.tlb, e.asid ≠ a) ∧ (∀ e ∈ t.sys.walks, e.asid ≠ a) ∧
      (∀ g, Taken s 2 g → operand s 0 = a → Over s t g (5 * (s.beat - (asidAt s a).since) / 9)) ∧
      (s.pav.mbox.tag = none → t.pav.mbox = s.pav.mbox))) ∧
  (∀ (s : State) (g : Dword), Taken s 3 g →
    let a := operand s 0
    let va := operand s 1
    let pa := operand s 2
    let n := operand s 3
    let opts := operand s 4
    let size := codeSize (opts % 4)
    (4096 ≤ a ∨ 64 ≤ opts → ∃ t, exec .mapPages s = .next t ∧ Turned s t g 1) ∧
    (a < 4096 → opts < 64 → ¬ Live s a ∨ ¬ Canonical va ∨ va % size ≠ 0 ∨ pa % size ≠ 0 ∨ n % size ≠ 0 → ∃ t, exec .mapPages s = .next t ∧ Turned s t g 2) ∧
    (∀ x, a < 4096 → opts < 64 → s.pav.maps = [x] → x.asid ≠ a → bitsOf x.leaf.toNat 12 40 * 4096 = pa → 0 < x.size → x.size ≤ size → n = size →
      bitsOf x.leaf.toNat 6 3 ≠ bitsOf opts 3 2 + (if opts.testBit 5 then 4 else 0) → ∃ t, exec .mapPages s = .next t ∧ Turned s t g 2) ∧
    (Live s a → Canonical va → opts < 64 → opts % 4 = 3 → bitsOf opts 3 2 ≠ 2 → va % 2 ^ 30 = 0 → pa % 2 ^ 30 = 0 → n = 2 ^ 30 →
      pa + n ≤ poolBase → s.pav.maps = [] → s.sched.regions = [] →
      let up := (asidAt s a).root + 8 * (va % 2 ^ 57 / 2 ^ 39)
      let e := wordAt s up 8
      let down := bitsOf e 12 40 * 4096 + 8 * (va / 2 ^ 30 % 512)
      let leaf := 2 + (if opts.testBit 2 then 4 else 0) + bitsOf opts 3 2 * 64 + (if opts.testBit 5 then 256 else 0) + pa
      TablesAtHome s up down → (asidAt s a).root % 8 = 0 → e % 4 = 1 → ∃ t, exec .mapPages s = .next t ∧ Over s t g 0 ∧
        EntrySet s t down leaf ∧
        t.pav.maps = [⟨a, va % 2 ^ 57, 2 ^ 30, BitVec.ofNat 64 leaf, 0⟩])) ∧
  (∀ (s : State) (g : Dword) (m : Mapping), Taken s 4 g → s.pav.maps = [m] →
    let a := operand s 0
    let va := operand s 1 % 2 ^ 57
    let n := operand s 2
    (4096 ≤ a → ∃ t, exec .unmapPages s = .next t ∧ Turned s t g 1) ∧
    (a < 4096 → ¬ Live s a → ∃ t, exec .unmapPages s = .next t ∧ Turned s t g 2) ∧
    (a < 4096 → m.asid = a → m.va < va + n → va < m.va + m.size → m.va < va ∨ va + n < m.va + m.size → ∃ t, exec .unmapPages s = .next t ∧ Turned s t g 2) ∧
    (Live s a → Canonical (operand s 1) → m.asid = a → va ≤ m.va → m.va + m.size ≤ va + n → m.size = 2 ^ 30 → bitsOf m.leaf.toNat 6 2 ≠ 2 →
      let up := (asidAt s a).root + 8 * (m.va / 2 ^ 39 % 2 ^ 18)
      let e := wordAt s up 8
      let down := bitsOf e 12 40 * 4096 + 8 * (m.va / 2 ^ 30 % 512)
      TablesAtHome s up down → (asidAt s a).root % 8 = 0 → e % 4 = 1 → ∃ t, exec .unmapPages s = .next t ∧ Over s t g 0 ∧ t.pav.maps = [] ∧
        EntrySet s t down 0 ∧
        ∀ x ∈ t.sys.tlb, ¬ (x.asid = a ∧ x.va < m.va + m.size ∧ m.va < x.va + x.size))) ∧
  (∀ (s : State) (g : Dword), Taken s 5 g →
    let x := operand s
    let legal : Prop := Live s (x 0) ∧ 4 ≤ x 2 ∧ x 2 ≤ 16 ∧ x 1 % (64 * 2 ^ x 2) = 0 ∧ x 3 ≤ 1000 ∧ x 5 % 4 = 0 ∧ 2 ^ 51 ≤ x 5 ∧ x 5 < 2 ^ 52
    (4096 ≤ x 0 ∨ 2 ^ 32 ≤ x 6 → ∃ t, exec .qnew s = .next t ∧ Turned s t g 1) ∧
    (x 0 < 4096 → x 6 < 2 ^ 32 → ¬ legal → ∃ t, exec .qnew s = .next t ∧ Turned s t g 2) ∧
    (∀ q, legal → x 6 < 2 ^ 32 → q < 4096 → Tab.look s.pav.queues q = none → (∀ p, p < q → Tab.look s.pav.queues p ≠ none) →
      ∃ t, exec .qnew s = .next t ∧ Over s t g q ∧ (∀ p, p ≠ q → queueAt t p = queueAt s p) ∧
        queueAt t q = ⟨x 1, x 2, decide (x 0 = 0), x 0, x 3, x 4, x 5, BitVec.ofNat 32 (x 6), 1, 0, 0, 0, none, false⟩)) ∧
  (∀ (s : State) (g : Dword), Taken s 6 g →
    let q := operand s 0
    let st := operand s 1
    (1 < st → ∃ t, exec .qctl s = .next t ∧ Turned s t g 1) ∧
    (st ≤ 1 → Tab.look s.pav.queues q = none ∨ (queueAt s q).state = 3 → ∃ t, exec .qctl s = .next t ∧ Turned s t g 2) ∧
    (∀ x, st ≤ 1 → Tab.look s.pav.queues q = some x → x.state ≠ 3 → ∃ t, exec .qctl s = .next t ∧ Over s t g 0 ∧
      (queueAt t q).state = BitVec.ofNat 2 st ∧ { queueAt t q with state := x.state, posted := x.posted } = x ∧
      t.pav.events = if st = 1 ∧ x.read < x.write ∧ x.posted = false then s.pav.events ++ [q] else s.pav.events)) ∧
  (∀ (s : State) (g : Dword) (r : Region) (c : Nat), Taken s 7 g →
    let x := operand s
    let ways (i : Nat) : Nat := bitsOf (if i < 8 then x 4 else x 5) (5 * (i % 8)) 5
    let pins (d : Nat) : Nat := bitsOf (x 6) (4 * d) 4
    (16 ≤ x 0 ∨ 2 ^ 16 ≤ x 3 ∨ 2 ^ 40 ≤ x 4 ∨ 2 ^ 40 ≤ x 5 ∨ 2 ^ 16 ≤ x 6 → ∃ t, exec .part s = .next t ∧ Turned s t g 1) ∧
    (x 0 < 16 → x 3 < 2 ^ 16 → x 4 < 2 ^ 40 → x 5 < 2 ^ 40 → x 6 < 2 ^ 16 →
      ((∃ i, i < 16 ∧ 24 < ways i) ∨ (∃ d, d < 4 ∧ 8 < pins d) ∨
        (∃ i, i < 64 ∧ (x 2).testBit i = true ∧ 2 ≤ (s.sched.parts.filter fun y => y.1 != x 0 && y.2.cores.getLsbD i).length) →
        ∃ t, exec .part s = .next t ∧ Turned s t g 2) ∧
      ((∀ i, i < 16 → ways i ≤ 24) → (∀ d, d < 4 → pins d ≤ 8) →
        (∀ i, i < 64 → (x 2).testBit i = true → (s.sched.parts.filter fun y => y.1 != x 0 && y.2.cores.getLsbD i).length < 2) → regionAt s (x 1) = some r →
        (r.parent ≠ 0 ∨ r.part.toNat ≠ x 0 → ∃ t, exec .part s = .next t ∧ Turned s t g 2) ∧
        (r.parent = 0 → r.part.toNat = x 0 → s.pav.pool + 2 ^ 16 + 64 * (5 * 2 ^ 20) ≤ hbmBytes → ∃ t areas, exec .part s = .next t ∧ Over s t g 0 ∧
          Tab.look t.sched.parts (x 0) = some ⟨x 1, BitVec.ofNat 64 (x 2), BitVec.ofNat 16 (x 3), areas⟩ ∧
          (∀ i, i < 64 → (x 2).testBit i = true → ∃ b, Tab.look areas i = some b ∧
            (Tab.look s.sched.parts (x 0) = none → b % 2 ^ 16 = 0 ∧ s.pav.pool ≤ b ∧ b + 5 * 2 ^ 20 ≤ t.pav.pool)) ∧
          (∀ i, i < 16 → Tab.get 0 t.sys.scratch i = ways i) ∧ (∀ d, d < 4 → Tab.get 0 t.sys.pinWays d = pins d) ∧
          (c < 64 → x 2 = 2 ^ c → s.sched.teams = [] → (∀ y ∈ s.sched.parts, y.1 ≠ x 0 → y.2.cores.getLsbD c = false) →
            (coreAt t c).part = x 0 ∧ (coreAt t c).imemQuota = 16384 ∧ (coreAt t c).storeQuota = 0x7400))))) ∧
  (∀ (s : State) (g : Dword), Taken s 8 g → ∃ t, exec .attest s = .next t ∧
    let u := deliverPosted s
    let m := s.power.log.length
    let sigs := 0x50 + 64 * m + 384 + 48 + 384 + 16224
    let nonce := (List.range 48).map fun i => byteAt u (2 ^ 51 + operand s 0 % 2 ^ 51 + i)
    (report u nonce = none ∧ Turned u t g 2 ∨ ∃ r, report u nonce = some r ∧ Over s t g r.length ∧ r.length = sigs + 384 + 16224 ∧
      t.sys.posted = postedBytes (2 ^ 51 + operand s 1 % 2 ^ 51) r.length (bytesNat r) ∧
      reportPart r 0 8 = natBytes 4 0x4C514154 ++ natBytes 4 1 ∧ reportPart r 8 16 = natBytes 16 Config.serial.toNat ∧ reportPart r 0x18 48 = nonce ∧
      reportPart r 0x48 8 = natBytes 4 m ++ natBytes 4 0 ∧
      (∀ i e, s.power.log[i]? = some e → reportPart r (0x50 + 64 * i) 64 =
        natBytes 4 e.1 ++ natBytes 4 e.2.1 ++ natBytes 4 e.2.2.1 ++ natBytes 4 0 ++ beBytes 48 e.2.2.2.toNat) ∧
      (let d := sha384 (r.take sigs)
       let e := sha384 (natBytes 16 Config.serial.toNat ++ reportPart r (0x50 + 64 * m) 432)
       rsaVerify Config.identityRsa.toNat d (reportPart r sigs 384) = true ∧
       slhVerify (reportPart r (0x50 + 64 * m + 384) 48) d (reportPart r (sigs + 384) 16224) = true ∧
       rsaVerify Config.vendorRsa.toNat e (reportPart r (0x50 + 64 * m + 432) 384) = true ∧
       slhVerify (beBytes 48 Config.vendorSlh.toNat) e (reportPart r (0x50 + 64 * m + 816) 16224) = true))) ∧
  (∀ (s u : State) (g : Dword), Taken s 9 g →
    let q := operand s 0
    let va := 0x7FF0000000000 + 4096 * q
    (Tab.look s.pav.queues q = none ∨ (queueAt s q).state = 3 → ∃ t, exec .doorbell s = .next t ∧ Turned s t g 2) ∧
    (∀ x, Tab.look s.pav.queues q = some x → x.state ≠ 3 → s.pav.maps = [] → s.sched.regions = [] → q < 4096 →
      mapPage s ⟨x.asid, va, 4096, BitVec.ofNat 64 (2 + 4 + 3 * 64 + va), 0⟩ = some u →
      ∃ t, exec .doorbell s = .next t ∧ Over s t g va ∧ t.sys = u.sys ∧ t.pav.maps = u.pav.maps)) ∧
  (∀ (s : State) (g : Dword),
    let m := s.pav.mbox
    let known : Prop := 1 ≤ m.code.toNat ∧ m.code.toNat ≤ 9
    (s.power.boot ≠ 3 → exec (.ringOutOfSequence g) s = .next s) ∧
    (g = m.done + 1 → m.tag ≠ none ∨ known → exec (.ringOutOfSequence g) s = .next s) ∧
    (s.power.boot = 3 → g ≠ m.done + 1 → exec (.ringOutOfSequence g) s = .next { s with pav := { s.pav with mbox := { m with result := 3 } } }) ∧
    (s.power.boot = 3 → g = m.done + 1 → m.tag = none → ¬ known →
      exec (.ringOutOfSequence g) s = .next { s with pav := { s.pav with mbox := { m with result := 1, done := g } } }))

/-! ### Power, boot, errors, register writes -/

namespace Sys2Proof.Claims

/-- Nothing but the state of power, boot and counters changed. -/
def OnlyPower (s t : State) : Prop := { t with power := s.power } = s
/-- PSTAT reports a finished command: SEQ, RESULT, not BUSY (R371). -/
def reported (p : Power) (seq : Byte) (result : Nat) : Power :=
  { p with seqDone := seq, result := BitVec.ofNat 3 result, busy := false, cmd := none }
/-- A command was refused: PSTAT reports it, and nothing else changed. -/
def Declined (s t : State) (seq : Byte) (result : Nat) : Prop := t = { s with power := reported s.power seq result }
/-- A state's clock in quarters of the clock at A0 (R370). -/
def quarters : IslState → Nat
  | .a0 => 4
  | .a1 => 3
  | .a2 => 2
  | .ret => 0
  | .off => 0
def stops (x : IslState) : Prop := x = .ret ∨ x = .off
/-- The five state changes of an island, by PCMD's STATE. -/
def IslandChange (i : Nat) (seq : Byte) (k : Nat) (y : IslState × Instr) : Prop :=
  (k, y) ∈ [(0, (IslState.a0, Instr.islandToA0 i seq)), (1, (.a1, .islandToA1 i seq)), (2, (.a2, .islandToA2 i seq)), (3, (.ret, .islandToRet i seq)),
    (4, (.off, .islandToOff i seq))]
/-- R370: the states an island has; the fabric's and the HBM PHYs' PCMD takes no A1 and no A2 from 22 on. -/
def HasState (i : Nat) (x : IslState) : Prop := i < 22 ∨ i < 24 ∧ x ≠ .a1 ∧ x ≠ .a2
/-- A team holds physical cores. -/
def HoldsCores (x : Team) : Prop := x.state = .bound ∨ x.state = .running ∨ x.state = .yielding
/-- Every state of a core: live, in a shadow, in a context area. -/
def everyCore (s : State) : Tab Core := s.cores ++ s.sched.shadow ++ s.sched.saved
/-- Island i became x and the other islands kept their states. -/
def IslandIs (s t : State) (i : Nat) (x : IslState) : Prop := islandAt t i = x ∧ ∀ j, j ≠ i → islandAt t j = islandAt s j
/-- Beats of an hour of the fabric clock. -/
def hourBeats : Nat := 6480000000000
/-- R379: an island's beats in A0 to A2 that no whole hour of ISLn holds yet, up to now. -/
def beatsOn (s : State) (i : Nat) : Nat :=
  Tab.get 0 s.power.islOn i + (if quarters (islandAt s i) = 0 then 0 else s.beat - Tab.get 0 s.power.islAt i)
/-- Counters stop at 2^48 - 1 (R379). -/
def stopAt (n : Nat) : Nat := min (2 ^ 48 - 1) n
/-- ISLn with the hours up to now. -/
def hoursOf (s : State) (i : Nat) : Nat := stopAt (Tab.get 0 s.power.live (0xE980 + 8 * i) + beatsOn s i / hourBeats)
/-- The hours of the islands of `p` are counted up to now; `live` is what the other counters read. -/
def HoursCounted (s t : State) (p : Nat → Bool) (live : Nat → Nat) : Prop :=
  (∀ i, i < 24 → p i = true → Tab.get 0 t.power.live (0xE980 + 8 * i) = hoursOf s i) ∧
  (∀ o, (∀ i, i < 24 → p i = true → o ≠ 0xE980 + 8 * i) → Tab.get 0 t.power.live o = live o) ∧
  ∀ i, i < 24 → Tab.get 0 t.power.islOn i = (if p i = true then beatsOn s i % hourBeats else Tab.get 0 s.power.islOn i) ∧
    Tab.get 0 t.power.islAt i = (if p i = true then s.beat else Tab.get 0 s.power.islAt i)
/-- Power but for the islands' states and hours. -/
def sansIslands (t s : State) : Power :=
  { t.power with islands := s.power.islands, live := s.power.live, islOn := s.power.islOn, islAt := s.power.islAt }
/-- Overflow events of a list of dies (R254). -/
def overflowSum (s : State) : Nat :=
  let die (n : Nat) : Nat := Tab.get 0 s.sys.ctr n + Tab.get 0 s.sys.ctr (n + 1)
  die 0 + die 4 + die 8 + die 12
/-- OVR with the events up to now (R379). -/
def ovrOf (s : State) : Nat := stopAt (Tab.get 0 s.power.live 0xE810 + (overflowSum s - s.power.ovrSeen))
/-- The cores of a cluster island lost their state, and its scratchpad window its bytes (R370). -/
def ClusterLost (s t : State) (i : Nat) : Prop :=
  (∀ c, coreAt t c = if c / 4 = i then
    { Core.reset with imemQuota := (coreAt s c).imemQuota, storeQuota := (coreAt s c).storeQuota, part := (coreAt s c).part } else coreAt s c) ∧
  (∀ c, Tab.look t.sched.shadow c = if c / 4 = i then none else Tab.look s.sched.shadow c) ∧ t.sched.saved = s.sched.saved ∧
  ∀ a, byteAt t a = if 0x10000000000 + i * 0x2000000 ≤ a ∧ a < 0x10000000000 + (i + 1) * 0x2000000 then 0 else byteAt s a
/-- The home slices of a die lost their ways and registers, and with a pinned line its bytes (R370). -/
def UncoreLost (s t : State) (d : Nat) : Prop :=
  t.cores = s.cores ∧ (∀ l, l2Find t d l = none) ∧ (∀ l, dirAt t l = if homeDie (128 * l) = d then none else dirAt s l) ∧
  (∀ n, Tab.get 0 t.sys.ctr n = if n / 4 = d then 0 else Tab.get 0 s.sys.ctr n) ∧
  (∀ a, byteAt t a = if a / 128 ∈ s.sys.pinned ∧ homeDie a = d then 0 else byteAt s a) ∧
  ∀ l, l ∈ t.sys.pinned ↔ l ∈ s.sys.pinned ∧ homeDie (128 * l) ≠ d
/-- A die's share of the cap (R374). -/
def share (s : State) (d : Nat) : Nat := s.power.pcap.toNat / 4 + (if d = 0 then s.power.pcap.toNat % 4 else 0)
/-- The units of the loans that a list of them holds. -/
def unitsOf (l : List (Nat × Nat × Nat)) : Nat := (l.map (·.2.2)).foldl (· + ·) 0
/-- R374: loans are between two of the four dies, and no die has lent more than its share and what it has borrowed. -/
def Balanced (s : State) : Prop :=
  (∀ l ∈ s.power.loans, l.1 < 4 ∧ l.2.1 < 4 ∧ l.1 ≠ l.2.1) ∧
  (∀ d, d < 4 → unitsOf (s.power.loans.filter fun l => l.1 == d) ≤ share s d + unitsOf (s.power.loans.filter fun l => l.2.1 == d)) ∧
  allowance s 0 + allowance s 1 + allowance s 2 + allowance s 3 = s.power.pcap.toNat
/-- A part of an image in flash. -/
def imagePart (f : List Byte) (off n : Nat) : List Byte := (f.drop off).take n
/-- D of an image (R375). -/
def imageDigest (f : List Byte) : List Byte := sha384 (f.take 16 ++ f.drop 0x40F0)
/-- An image that both vendor keys verify (R375). -/
def verified (f : List Byte) : Bool :=
  decide (bytesNat (f.take 4) = 0x4C514657) && decide (bytesNat (imagePart f 8 8) = (f.drop 0x40F0).length) &&
  rsaVerify Config.vendorRsa.toNat (imageDigest f) (imagePart f 0x10 384) && slhVerify (beBytes 48 Config.vendorSlh.toNat) (imageDigest f) (imagePart f 0x190 16224)
def version (f : List Byte) : Nat := bytesNat (imagePart f 4 4)
/-- Power when the boot ROM has come to an image (R375). -/
def bootPower (p : Power) (f : List Byte) : Power :=
  if verified f = false then { p with boot := 0xDEAD0001 }
  else if version f < p.fuses then { p with boot := 0xDEAD0002 }
  else { p with
    boot := if p.log.length = 2 then 2 else 1
    log := p.log ++ [(p.log.length, p.log.length + 1, version f, BitVec.ofNat 384 (beNat (imageDigest f)))] }
/-- Nothing is pending before the boot ROM: no core, message or command, nothing on the agenda. -/
def OnlyBoots (s : State) : Prop :=
  s.power.powered = true ∧ s.agenda = [] ∧ s.cores = [] ∧ s.sys.msgs = [] ∧ s.sys.posts = [] ∧ s.sys.posted = [] ∧ s.sys.inval = [] ∧ s.ora = .reset ∧
  s.power.cmd = none
/-- Counter at an offset of BAR0 counted one more, saturating (R379), and nothing else changed. -/
def Counts (s t : State) (off : Nat) : Prop :=
  (∀ o, Tab.get 0 t.power.live o = if o = off then stopAt (Tab.get 0 s.power.live o + 1) else Tab.get 0 s.power.live o) ∧
  { t with power := { t.power with live := s.power.live } } = s
/-- RETL counted one more, and the unit of the block is reported to Folop (R378). -/
def Lasting (s t : State) (block unit : Nat) : Prop :=
  (∀ o, Tab.get 0 t.power.live o = if o = 0xE808 then stopAt (Tab.get 0 s.power.live o + 1) else Tab.get 0 s.power.live o) ∧
  t.pav.lasting = s.pav.lasting ++ [(block, unit)]
/-- A save or a swap reads the context of team b in core c itself, which has stopped for it (R234). -/
def ReadsLive (s : State) (c b : Nat) : Prop :=
  ∃ x, bindingOf s c = some (b, x) ∧ liveHere s b c = true ∧ (c ∈ s.sched.halted ∨
    x.state = .yielding ∧ ((coreAt s c).yield_ = .save ∨ (coreAt s c).yield_ = .discard) ∧ atBoundary (coreAt s (masterOf s c)) = true)
/-- A restore reads the context of team b in the area of core c (R234). -/
def ReadsArea (s : State) (c b : Nat) : Prop :=
  ∃ x, bindingOf s c = some (b, x) ∧ x.state = .bound ∧ Tab.look s.sched.saved (64 * b + c) ≠ none
/-- The element of a unit of a block holds part of the context of team b, which is being read (R234): in a core's block, but in
instruction memory (unit 2; R228), of the live state, or, for another number c, of what a halted core's shadow holds; in another
block of the context area of core c. -/
def ContextRead (s : State) (n c unit b : Nat) : Prop :=
  if n < 64 then unit ≠ 2 ∧ (if c = n then ReadsLive s n b else n ∈ s.sched.halted ∧ shadowTeam s n = some b) else ReadsArea s c b
/-- R303, R234: team x of number b is over for the loss of its context, its tasks killed. -/
def TeamLost (t : State) (b : Nat) (x : Team) : Prop :=
  teamAt t b = some { x with status := max x.status 2, hasSaved := false, pushes := [], releaseAt := none, state := .running }
/-- A bound team on core k alone, without queued records, generator or copies of the core. -/
def OnCoreAlone (s : State) (b k : Nat) (x : Team) : Prop :=
  teamAt s b = some x ∧ x.state ≠ .ended ∧ x.state ≠ .waiting ∧ x.place = [k] ∧ x.qlen = 0 ∧ x.front = [] ∧ x.gen = none ∧
  (contextAt s b k).localq = [] ∧ (contextAt s b k).mem.chans = [] ∧ (coreAt s k).localq = [] ∧ (coreAt s k).mem.chans = []
/-- A host read of BAR0 returns the doubleword v, and changes nothing (R7). -/
def Shows (s : State) (off v : Nat) : Prop :=
  ∀ u rest, u = { s with agenda := .hostRead off :: rest } → s.power.powered = true → ∃ t, step u = .next t ∧
    { t with pav := { t.pav with reads := s.pav.reads }, agenda := s.agenda } = s ∧ t.agenda = rest ∧
    t.pav.reads = s.pav.reads ++ [(off / 8 * 8, BitVec.ofNat 64 v)]

end Sys2Proof.Claims

/-- R370 to R373: a command is ignored while BUSY; it is refused with RESULT 1 for a reserved island or state, 2 for an island in use, 3
for a split chain wherever its cores' state is, also at the end of a change, 4 under a trip; RET and OFF are reported at once, OFF losing the island; a change of clock keeps BUSY until
it is done, and an island leaves OFF reset, a cluster that runs again calling the scheduler; an HBM's OFF loses the contexts in it, whose teams
are over (log entry 68); the trips and the shutdown; the hours of an island up to each change. -/
def Sys2Proof.Claims.IslandsChange : Prop :=
  (∀ (s : State) (i : Nat) (seq : Byte) (k : Nat) (y : IslState × Instr), IslandChange i seq k y →
    (s.power.busy = true → exec y.2 s = .next s) ∧
    (s.power.busy = false →
      (24 ≤ i ∨ 22 ≤ i ∧ (y.1 = .a1 ∨ y.1 = .a2) → ∃ t, exec y.2 s = .next t ∧ Declined s t seq 1) ∧
      (i < 24 → stops y.1 → (∃ x ∈ s.sched.teams, HoldsCores x.2 ∧ (i < 16 ∧ (∃ c ∈ x.2.place, c / 4 = i) ∨ 16 ≤ i ∧ i ≠ 20)) →
        ∃ t, exec y.2 s = .next t ∧ Declined s t seq 2) ∧
      (i < 16 → ¬ stops y.1 → (∃ k ∈ everyCore s, ∃ a ∈ k.2.chain, ∃ b ∈ k.2.chain, a / 4 = i ∧ b / 4 ≠ i ∧ quarters (islandAt s (b / 4)) ≠ quarters y.1) →
        ∃ t, exec y.2 s = .next t ∧ Declined s t seq 3) ∧
      ((∀ k ∈ everyCore s, k.2.chain = []) → HasState i y.1 →
        (quarters (islandAt s i) < quarters y.1 → ((∃ x ∈ s.power.trip, x.2 = true) ∨ s.power.shut = true) → ∃ t, exec y.2 s = .next t ∧ Declined s t seq 4) ∧
        (¬ stops y.1 → islandAt s i = y.1 → ∃ t, exec y.2 s = .next t ∧ Declined s t seq 0) ∧
        (¬ stops y.1 → islandAt s i ≠ y.1 → quarters y.1 < quarters (islandAt s i) ∨ s.power.trip = [] ∧ s.power.shut = false →
          exec y.2 s = .next { s with power := { s.power with busy := true, cmd := some (i, y.1, seq) } }) ∧
        (y.1 = .ret → s.sched.teams = [] → islandAt s i = .off → ∃ t, exec y.2 s = .next t ∧ IslandIs s t i .ret ∧
          (i < 16 → ClusterLost s t i) ∧ (16 ≤ i → i < 20 → UncoreLost s t (i - 16)) ∧ t.power.seqDone = seq ∧ t.power.result = 0) ∧
        (y.1 = .ret → s.sched.teams = [] → islandAt s i ≠ .off → ∃ t, exec y.2 s = .next t ∧ OnlyPower s t ∧ IslandIs s t i .ret ∧
          HoursCounted s t (fun j => j == i) (fun o => Tab.get 0 s.power.live o) ∧ sansIslands t s = reported s.power seq 0) ∧
        (y.1 = .off → s.sched.teams = [] → ∃ t, exec y.2 s = .next t ∧ IslandIs s t i .off ∧
          HoursCounted s t (fun j => j == i) (fun o => if 16 ≤ i ∧ i < 20 ∧ o = 0xE810 then ovrOf s else Tab.get 0 s.power.live o) ∧
          { sansIslands t s with ovrSeen := s.power.ovrSeen } = reported s.power seq 0 ∧
          (i < 16 → ClusterLost s t i) ∧ (16 ≤ i → i < 20 → UncoreLost s t (i - 16) ∧ t.power.ovrSeen = overflowSum t) ∧
          (i = 20 → t.pav = .reset ∧ t.cores = s.cores ∧ t.sys = s.sys) ∧ (i = 21 → OnlyPower s t) ∧
          (22 ≤ i → t.cores = s.cores ∧ ∀ a, byteAt t a = if inHbm a = true ∧ homeDie a / 2 = i - 22 then 0 else byteAt s a)) ∧
        (∀ n x c j, y.1 = .off → 22 ≤ i → s.sched.teams = [(n, x)] → x.state = .waiting → x.place = [c] → x.qlen = 0 → x.front = [] → x.gen = none →
          contextsIn s i = [n] → Tab.look s.sched.saved (64 * n + c) = some j → j.task = none → j.localq = [] → j.mem.chans = [] →
          ∃ t, exec y.2 s = .next t ∧ IslandIs s t i .off ∧ Tab.look t.sched.saved (64 * n + c) = none ∧
            teamAt t n = some { x with status := max x.status 2, hasSaved := false, pushes := [], releaseAt := none, state := .ended })))) ∧
  (∀ (s : State) (i : Nat) (seq : Byte),
    (s.power.busy = true → exec (.pcmdReservedState i seq) s = .next s) ∧
    (s.power.busy = false → ∃ t, exec (.pcmdReservedState i seq) s = .next t ∧ Declined s t seq 1) ∧
    (s.power.cmd = none → exec .powerCommandDone s = .next s) ∧
    (∀ x, s.power.cmd = some (i, x, seq) → HasState i x → ¬ stops x →
      (i < 16 → (∃ k ∈ everyCore s, ∃ a ∈ k.2.chain, ∃ b ∈ k.2.chain, a / 4 = i ∧ b / 4 ≠ i ∧ quarters (islandAt s (b / 4)) ≠ quarters x) →
        ∃ t, exec .powerCommandDone s = .next t ∧ Declined s t seq 3) ∧
      ((∀ k ∈ everyCore s, k.2.chain = []) → quarters x ≤ quarters (islandAt s i) ∨ s.power.trip = [] ∧ s.power.shut = false → ∃ t, exec .powerCommandDone s = .next t ∧
        IslandIs s t i x ∧ t.power.busy = false ∧ t.power.seqDone = seq ∧ t.power.result = 0 ∧
        (islandAt s i ≠ .off → OnlyPower (if i < 16 ∧ islandAt s i = .ret then { s with sched := { s.sched with sweep := true } } else s) t ∧
          sansIslands t s = reported s.power seq 0) ∧
        (islandAt s i = .off → (i < 16 → ClusterLost s t i) ∧ (16 ≤ i → i < 20 → UncoreLost s t (i - 16)) ∧
          (i = 20 → t.pav = .reset ∧ t.power.boot = if s.power.boot = 3 then 2 else s.power.boot))) ∧
      ((∀ k ∈ everyCore s, k.2.chain = []) → quarters (islandAt s i) < quarters x → ((∃ x ∈ s.power.trip, x.2 = true) ∨ s.power.shut = true) →
        ∃ t, exec .powerCommandDone s = .next t ∧ Declined s t seq 4)) ∧
    (∃ t, exec (.tripClear i) s = .next t ∧ OnlyPower s t ∧ (∀ j, Tab.get false t.power.trip j = (decide (j ≠ i) && Tab.get false s.power.trip j)) ∧
      { t.power with trip := s.power.trip } = s.power) ∧
    (24 ≤ i → exec (.thermalTrip i) s = .next s) ∧
    (i < 24 → ∃ t, exec (.thermalTrip i) s = .next t ∧ OnlyPower s t ∧ t.power.bin = 22 ∧
      (∀ j, Tab.get false t.power.trip j = (decide (j = i) || Tab.get false s.power.trip j)) ∧
      IslandIs s t i (if i < 22 ∧ (islandAt s i = .a0 ∨ islandAt s i = .a1) then .a2 else islandAt s i) ∧
      { sansIslands t s with trip := s.power.trip, bin := s.power.bin } = s.power) ∧
    (∃ t, exec .thermalShutdown s = .next t ∧ t.power.shut = true ∧ t.power.bin = 24 ∧ t.power.busy = false ∧ t.power.cmd = none ∧
      (∀ j, j < 24 → islandAt t j = if j = 20 then islandAt s j else .off) ∧
      (∀ c, c < 64 → (coreAt t c).task = none ∧ (coreAt t c).run = .idle) ∧
      (s.sched.saved = [] → t.pav = s.pav ∧ ∀ a, inHbm a = true → byteAt t a = 0)))

/-- R374: a die lends units that it does not use, and a loan is repaid; the allowances of the dies are together UNITS, with every loan and repayment
they stay so; a borrower that has lent the units on calls them back; a die over its allowance holds issue; a write of PCAP sets UNITS, and borrowed units
are repaid when a die's share falls. -/
def Sys2Proof.Claims.BudgetHolds : Prop :=
  (∀ (s : State) (a b n : Nat), s.power.loans = [] →
    (a < 4 → b < 4 → a ≠ b → n + Tab.get 0 s.power.draw a ≤ share s a → ∃ t, exec (.budgetLend a b n) s = .next t ∧
      { t with power := { t.power with loans := [] } } = s ∧ allowance t a = share s a - n ∧ allowance t b = share s b + n ∧
      (∀ d, d ≠ a → d ≠ b → allowance t d = share s d) ∧ exec (.budgetRepay b a n) t = .next s) ∧
    (4 ≤ a ∨ 4 ≤ b ∨ a = b ∨ share s a < n + Tab.get 0 s.power.draw a → exec (.budgetLend a b n) s = .next s)) ∧
  (∀ (s : State) (a b n : Nat), Balanced s →
    (∃ t, exec (.budgetLend a b n) s = .next t ∧ Balanced t ∧ { t with power := { t.power with loans := s.power.loans } } = s) ∧
    (∃ t, exec (.budgetRepay b a n) s = .next t ∧ Balanced t ∧ { t with power := { t.power with loans := s.power.loans } } = s)) ∧
  (∀ (s : State) (c : Nat), allowance s (c / 16) < max 1 (Tab.get 0 s.power.draw (c / 16)) → canIssue s c = false) ∧
  (∀ (s : State) (v : Dword), ∃ t, exec (.pcapWrite v) s = .next t ∧ OnlyPower s t ∧ { t.power with pcap := s.power.pcap, loans := s.power.loans } = s.power ∧
    t.power.pcap.toNat = v.toNat % 1024 ∧ ((∃ d, d < 4 ∧ share t d < share s d) → ∀ d, allowance t d = share t d) ∧
    ((∀ d, d < 4 → share s d ≤ share t d) → t.power.loans = s.power.loans))

/-- R375, R378, R379: power-on reset leaves everything at its reset value but flash, fuses and the counters as last written; the boot ROM then takes one image
after the other, which runs, measured, when both signatures verify under the vendor keys and its version is not below the fuses, and leaves the device in
recovery otherwise; Folop is ready after the third.  Errors are counted; an uncorrected one is a deferred fault of the core's task, or the loss of a
context that is being read, which ends its team and is noted in the task's join record; OVR, the islands' hours and the flash copies of the counters at a flush, at an orderly power-off, and after a sudden loss. -/
def Sys2Proof.Claims.BootAndErrors : Prop :=
  (∀ s : State, ∃ t, exec .powerOnReset s = .next t ∧
    t = { State.reset with
      power := { Power.reset with flash := s.power.flash, fuses := s.power.fuses, live := s.power.kept, kept := s.power.kept, bin := s.power.bin }
      sys := { MemSys.reset with mem := t.sys.mem }, agenda := s.agenda } ∧
    ∀ a, byteAt t a = if 2 ^ 51 ≤ a ∧ a < 2 ^ 52 then byteAt s a else 0) ∧
  (∀ s : State, OnlyBoots s → s.power.boot.toNat ≤ 2 → step s = .next (bootStep s)) ∧
  (∀ s : State, s.power.boot.toNat ≤ 1 →
    (s.power.flash.length ≤ s.power.log.length → bootStep s = { s with power := { s.power with boot := 0xDEAD0001 } }) ∧
    (∀ f, s.power.flash[s.power.log.length]? = some f → bootStep s = { s with power := bootPower s.power f })) ∧
  (∀ s : State, s.power.boot = 2 → ∃ t, bootStep s = t ∧ OnlyPower { s with sys := t.sys, pav := t.pav } t ∧ t.power = { s.power with boot := 3 } ∧
    ∀ u r, emptyRoot { s with power := t.power } 0 = some (u, r) → asidAt t 0 = ⟨true, false, r, 0⟩) ∧
  (∀ (s : State) (n : Nat), (n < 155 → ∃ t, exec (.eccCorrected n) s = .next t ∧ Counts s t (0xE000 + 8 * n)) ∧
    (155 ≤ n → exec (.eccCorrected n) s = .next s)) ∧
  (∀ (s : State) (n c unit row col : Nat),
    let k := if n < 64 then n else c
    (∃ t, exec (.eccUncorrectable n c unit row col true) s = .next t ∧ Counts s t 0xE800) ∧
    ((n < 64 → c = n → ∀ b x, bindingOf s n = some (b, x) → liveHere s b n = false) → (∀ b, ¬ ContextRead s n c unit b) →
      ∃ t, exec (.eccUncorrectable n c unit row col false) s = .next t ∧ Lasting s t n unit ∧
        { t with power := { t.power with live := s.power.live }, pav := { t.pav with lasting := s.pav.lasting } } = s) ∧
    (∀ b x, n < 64 → c = n → bindingOf s n = some (b, x) → liveHere s b n = true → (∀ b, ¬ ContextRead s n c unit b) →
      ∃ t, exec (.eccUncorrectable n c unit row col false) s = .next t ∧ Lasting s t n unit ∧
        Deferring s t (masterOf s n) 0x18 (errorBundle s n unit row col)
          (unit % 16 + if unit = 0 ∨ unit = 1 ∨ unit = 5 then row % 32 * 2 ^ 8 + col % 32 * 2 ^ 16 else 0) ∧
        (∀ j, j ≠ masterOf s n → coreAt t j = coreAt s j) ∧ t.sys = s.sys ∧ t.sched = s.sched) ∧
    (∀ b x, ContextRead s n c unit b → OnCoreAlone s b k x → (contextAt s b k).task = none →
      ∃ t, exec (.eccUncorrectable n c unit row col false) s = .next t ∧ Lasting s t n unit ∧ TeamLost t b x) ∧
    (∀ b x y z, ContextRead s n c unit b → OnCoreAlone s b k x → liveHere s b k = true → (coreAt s k).chain = [] →
      (coreAt s k).task = some y → y.team = b → y.join ≠ 0 →
      let u := release s k 4
      pavTranslate u x.asid y.join true = (u, .ok z) → Single z →
      let w (i : Nat) : Nat := wordAt u (z.pa + 4 * i) 4
      ∃ t, exec (.eccUncorrectable n c unit row col false) s = .next t ∧ Lasting s t n unit ∧ TeamLost t b x ∧
        (coreAt t k).task = none ∧ (coreAt t k).run = .idle ∧
        (∀ i, i < 5 → wordAt t (z.pa + 4 * i) 4 =
          [w 0 - 1, w 1, w 2, (w 3 + 1) % 2 ^ 32, (if w 0 = 0 then w 4 ||| 4 else w 4) ||| 1].getD i 0) ∧
        ∀ q, q < z.pa ∨ z.pa + 20 ≤ q → byteAt t q = byteAt u q)) ∧
  (∀ s : State,
    let live (o : Nat) : Nat := if o = 0xE810 then ovrOf s else Tab.get 0 s.power.live o
    (∃ t, exec .counterFlush s = .next t ∧ t.power.kept = t.power.live ∧ OnlyPower s t ∧
      { sansIslands t s with kept := s.power.kept, ovrSeen := s.power.ovrSeen } = s.power ∧ t.power.islands = s.power.islands ∧
      t.power.ovrSeen = overflowSum s ∧ HoursCounted s t (fun _ => true) live) ∧
    (∃ t, exec .orderlyPowerOff s = .next t ∧ t.power.powered = false ∧ t.power.kept = t.power.live ∧ OnlyPower s t ∧
      HoursCounted s t (fun _ => true) live) ∧
    exec .suddenLossOfPower s = .next { s with power := { s.power with powered := false, live := s.power.kept } })

/-- R7, R367, R368, R371, R375, R379: a host write of aligned bytes into BAR0: CODE, an ARG, RING in sequence with a known code, which takes the command's code
and operands, PCMD, PCAP and TRIP act as their commands; a write anywhere else, or of unaligned bytes, does nothing.  A host read returns the
register's doubleword, 0 for what is write-only or reserved. -/
def Sys2Proof.Claims.RegisterWritesAct : Prop :=
  ∀ (s : State) (v : Dword),
    (∀ off n, (n ≠ 1 ∧ n ≠ 2 ∧ n ≠ 4 ∧ n ≠ 8) ∨ off % n ≠ 0 → exec (.registerWrite off n v) s = .next s) ∧
    (∀ off n, n = 1 ∨ n = 2 ∨ n = 4 ∨ n = 8 → off % n = 0 → off < 0x1000 ∨ 0x1048 ≤ off ∧ off < 0xF000 ∨ 0xF008 ≤ off ∧ off < 0xF010 ∨
      0xF018 ≤ off ∧ off < 0xF100 ∨ 0xF1C0 ≤ off → exec (.registerWrite off n v) s = .next s) ∧
    exec (.registerWrite 0x1000 2 v) s = .next { s with pav := { s.pav with mbox := { s.pav.mbox with code := v.setWidth 16 } } } ∧
    (∀ i, i < 7 → ∃ t, exec (.registerWrite (0x1008 + 8 * i) 8 v) s = .next t ∧ OnlyPav s t ∧
      (∀ j, Tab.get 0 t.pav.mbox.args j = if j = i then v else Tab.get 0 s.pav.mbox.args j) ∧
      { t.pav with mbox := { t.pav.mbox with args := s.pav.mbox.args } } = s.pav) ∧
    (s.power.boot = 3 → v = s.pav.mbox.done + 1 → s.pav.mbox.tag = none → 1 ≤ s.pav.mbox.code.toNat → s.pav.mbox.code.toNat ≤ 9 →
      exec (.registerWrite 0x1040 8 v) s = .next { s with pav := { s.pav with mbox := { s.pav.mbox with
        tag := some v, runs := s.pav.mbox.code, ops := s.pav.mbox.args } } }) ∧
    (let i := bitsOf v.toNat 0 5
     let seq : Byte := v.extractLsb' 8 8
     let k := bitsOf v.toNat 5 3
     (∀ y, IslandChange i seq k y → exec (.registerWrite 0xF000 8 v) s = exec y.2 s) ∧
     (5 ≤ k → exec (.registerWrite 0xF000 8 v) s = exec (.pcmdReservedState i seq) s)) ∧
    exec (.registerWrite 0xF010 8 v) s = exec (.pcapWrite v) s ∧
    (∀ n, n < 24 → exec (.registerWrite (0xF100 + 8 * n) 8 v) s = if v.getLsbD 3 = true then exec (.tripClear n) s else .next s) ∧
    (∀ off, let r := off / 8 * 8
      (r = 0 → Shows s off s.power.boot.toNat) ∧ (r = 0x1000 → Shows s off s.pav.mbox.code.toNat) ∧
      (∀ i, i < 7 → r = 0x1008 + 8 * i → Shows s off (Tab.get 0 s.pav.mbox.args i).toNat) ∧ (r = 0x1048 → Shows s off s.pav.mbox.done.toNat) ∧
      (r = 0x1050 → Shows s off s.pav.mbox.result.toNat) ∧ (r = 0x1058 → Shows s off s.pav.mbox.out.toNat) ∧
      (∀ n, n < 155 ∧ r = 0xE000 + 8 * n ∨ n < 26 ∧ r = 0xE880 + 8 * n ∨ r = 0xE800 ∨ r = 0xE808 → Shows s off (Tab.get 0 s.power.live r)) ∧
      (r = 0xE810 → Shows s off (ovrOf s)) ∧ (∀ i, i < 24 → r = 0xE980 + 8 * i → Shows s off (hoursOf s i)) ∧
      (r = 0xF008 → Shows s off (s.power.seqDone.toNat + 2 ^ 8 * s.power.result.toNat + if s.power.busy = true then 2 ^ 11 else 0)) ∧
      (r = 0xF010 → Shows s off s.power.pcap.toNat) ∧
      (∀ i k x, i < 24 → r = 0xF100 + 8 * i → (k, x) ∈ [(0, IslState.a0), (1, .a1), (2, .a2), (3, .ret), (4, .off)] → islandAt s i = x →
        Shows s off (k + if Tab.get false s.power.trip i = true then 8 else 0)) ∧
      (0 < r ∧ r < 0x1000 ∨ r = 0x1040 ∨ 0x1060 ≤ r ∧ r < 0xE000 ∨ 0xE4D8 ≤ r ∧ r < 0xE800 ∨ 0xE818 ≤ r ∧ r < 0xE880 ∨ 0xE950 ≤ r ∧ r < 0xE980 ∨
        0xEA40 ≤ r ∧ r ≤ 0xF000 ∨ 0xF018 ≤ r ∧ r < 0xF100 ∨ 0xF1C0 ≤ r ∧ r < 0x10000 → Shows s off 0))

/-- R370 to R375, R378, R379, R7, R367, R368: islands, budget, boot, errors, counters and the host's register reads and writes.
RESULT 1 for A1 and A2 of an island without them, BUSY until a clock change ends, what an island loses, the boot ROM's way through its images, the
unit of draw and a PCAP above 560, the bundle of an error, what a power-on reset keeps, the temperature bins 22 and 24 of a trip and the shutdown, and the
team's end at a lost context with the block that holds it are the model's choices and readings (log entries 42 to 45, 68, 69, 70, 25, 46 and 47); the
vendor's keys are opaque (log entry 5), so the clauses hold whatever an image's verification answers. -/
def Obligations.PowerBootAndErrors : Prop :=
  Sys2Proof.Claims.IslandsChange ∧ Sys2Proof.Claims.BudgetHolds ∧ Sys2Proof.Claims.BootAndErrors ∧ Sys2Proof.Claims.RegisterWritesAct

/-! ### The step -/

namespace Sys2Proof.Claims

/-- The instructions of a list act one after the other, and the last leaves t. -/
def Ran : State → List Instr → State → Prop
  | s, [], t => s = t
  | s, i :: l, t => ∃ u, exec i s = .next u ∧ Ran u l t
/-- R32, R128: the next bundle is the same one while repeats are left, else the one after it. -/
def advanced (k : Core) : Core :=
  match k.seq.rep with
  | some n =>
    if k.seq.repK + 1 < n then { k with seq := { k.seq with npc := k.seq.pc, repK := k.seq.repK + 1 } }
    else { k with seq := { k.seq with npc := k.seq.pc + 1, repK := 0 } }
  | none => { k with seq := { k.seq with npc := k.seq.pc + 1, repK := 0 } }
/-- The bundle b is over: its headers go, its successor is at the program counter, and the task counts it, from its last TILENEXT on
(R308). -/
def bundleOver (b : Bundle) (k : Core) : Core :=
  { k with
    seq := { k.seq with pc := k.seq.npc, last := k.seq.pc, imx := none, xtgt := none, rep := none }
    task := k.task.map fun t => { t with bundles := if isTilenext b.s = true then 0 else t.bundles + 1 } }
/-- The slots that act after Y and before W: an S instruction that acts first, then an E instruction that arms (R23, R33, R134). -/
def slotsBefore (b : Bundle) : List Instr :=
  (if actsFirst b.s = true then [b.s] else []) ++ (if armedEdge b.e = none then [] else [b.e])
/-- W, and the E instruction that comes after it. -/
def slotsThen (b : Bundle) : List Instr := [b.w] ++ (if armedEdge b.e = none then [b.e] else [])
def slotsLast (b : Bundle) : List Instr := if actsFirst b.s = true then [] else [b.s]
/-- The steps that W is bound to, where its own bundle set the window or armed the loader, are fetched before it (R23, R139). -/
def stepsFetched (s : State) (b : Bundle) : State :=
  if setsWindow b.s = true ∨ armedEdge b.e ≠ none then fetchFirst s b.w else s
/-- R36: beside a MOVI, IMX is not the S instruction's. -/
def imxLeft (s : State) : Instr → State
  | .movi .. => modCore s s.me fun k => { k with seq := { k.seq with imx := none } }
  | _ => s
/-- Core c is next on the agenda of a device with power, and after the results that are due in every core (state u) it may issue
(R32, R41, R226). -/
def Issues (s u : State) (c : Nat) : Prop :=
  s.power.powered = true ∧ (∃ rest, s.agenda = .core c :: rest ∧ u = setMe (settleAll { s with agenda := rest }) c) ∧ canIssue u c = true ∧
  (coreAt u c).soft = none ∧ ((coreAt u c).ctl.inh = true ∨ boundaryFaults u c = [])
/-- Nothing holds, stalls or traps the bundle before it commits (R40, R41, R60, R141, R217, R224). -/
def Free (u : State) (c : Nat) (b : Bundle) : Prop :=
  inhibited (coreAt u c) b = none ∧ ((coreAt u c).yield_ = .drain → isTilenext b.s = false) ∧ holds (headers u b.y) b = false ∧ loaderFault (headers u b.y) b = none ∧
  stallFault (coreAt u c) b = none ∧ executionTrap (headers u b.y) b = none

end Sys2Proof.Claims

/-- R32, R33, R36, R59, R60, R114, R128, R134: the bundle at the program counter decodes to its four instructions, and a step runs them: Y, W, E, S on
the state in which the next bundle is set; an AWIN, a FENCE and the requests to the Orangery before W and E, a loader's arming and its first fetch before W; then the
bundle is over.  A trap that is pending at the boundary before the bundle, a software trap or a deferred fault, is taken instead of it (R221); a bundle that does not decode takes trap 1, a
program counter without a bundle trap 2.  A step without
encoding that is next on the agenda runs as its instruction, after the results that are due in every core (R226), the Orangery's after the expiries
that are due (R334); the Pavilion's waits while its island stands, one that reaches memory while memory stands (R370), one that performs a
core's accesses behind its doorbell store (R351); and a word of the epilogue unit runs as its own.
The agenda that says who moves next, what goes on while memory stands, and REPCNT off a repeat are the model's (log entries 19, 68 and 22). -/
def Obligations.StepRunsDecodedInstructions : Prop :=
  (∀ (s u t : State) (c : Nat) (b : Bundle), Issues s u c → HasBundle u (coreAt u c).seq.pc →
    decodeWords (bundleWords (bundleAt (coreAt u c) (coreAt u c).seq.pc)) (coreAt u c).seq.repK = .ok b → Free u c b →
    let v := modCore (headers u b.y) c advanced
    ∀ w x, Ran v (b.y :: slotsBefore b) w → Ran (stepsFetched w b) (slotsThen b) x →
      Ran (if actsFirst b.s = true then x else imxLeft x b.w) (slotsLast b) t → step s = .next (modCore t t.me (bundleOver b))) ∧
  (∀ (s u : State) (c : Nat) (x : BadSlot), Issues s u c → Quiet u → HasBundle u (coreAt u c).seq.pc →
    decodeWords (bundleWords (bundleAt (coreAt u c) (coreAt u c).seq.pc)) (coreAt u c).seq.repK = .error x →
    ∃ t, step s = .next t ∧ TrapTaken u t 1 (operandInfo x.slot (decide (0 < (coreAt u c).seq.repK)) x.word)) ∧
  (∀ (s u : State) (c : Nat), Issues s u c → Quiet u → ¬ HasBundle u (coreAt u c).seq.pc →
    ∃ t, step s = .next t ∧ TrapTaken u t 2 (operandInfo 0 (decide (0 < (coreAt u c).seq.repK)) 0)) ∧
  (∀ (s : State) (c : Nat) (rest : List Move), s.power.powered = true → s.agenda = .core c :: rest →
    let v := settleAll { s with agenda := rest }
    (canIssue v c = false → step s = .next v) ∧
    (canIssue v c = true → (coreAt v c).soft ≠ none ∨ (coreAt v c).ctl.inh = false ∧ boundaryFaults v c ≠ [] → step s = exec (.trapEntry c) v)) ∧
  (∀ (s t : State) (i : Instr) (rest : List Move), s.power.powered = true → s.agenda = .ev i :: rest → encode i = none →
    let u := { s with agenda := rest }
    let waits : Prop := pavilionRuns i = true ∧ islandHolds u 20 = true ∨ memoryStands u = true ∧ needsNoMemory i = false ∨
      ∃ c ∈ performsFor u i, bellHeld u c = true
    let v := if ownEvent i = true then u else settleAll u
    (waits → step s = .next u) ∧
    (¬ waits → exec i (if orangeryServes i = true then expire v else v) = .next t → step s = .next t)) ∧
  (∀ (s t : State) (k : Core) (more : Tab Core) (r : EpiRun) (w : Half) (ws : List Half) (i : Instr), s.power.powered = true → s.agenda = [] →
    s.cores = (0, k) :: more → k.edge.epi = some r → r.words = w :: ws → decodeSlot .epilogue (w.setWidth 32) = .ok i →
    exec i (setMe (modCore s 0 fun k => { k with edge := { k.edge with epi := some { r with words := ws } } }) 0) = .next t →
    step s = .next (setMe t s.me))

/-- Memory's canonical form, addresses strictly rising and no byte listed that reads as an unlisted one, is kept by every step of every state.
What an unlisted byte reads as is the model's choice (log entry 8). -/
def Obligations.StepKeepsMemoryCanonical : Prop :=
  ∀ s t : State, Memory.wf s.sys.mem = true → step s = .next t → Memory.wf t.sys.mem = true

/-- The state after reset: memory is in its canonical form and lists nothing; R371, R254, R340: the registers of power, the directory's
counters and the Orangery's counters have their reset values; the boot ROM is running (R375); no core runs a task.  That an
unlisted byte reads 0 is the model's choice (log entry 8). -/
def Obligations.ResetState : Prop :=
  Memory.wf State.reset.sys.mem = true ∧ (∀ a, byteAt State.reset a = 0) ∧
  (∀ i, islandAt State.reset i = .a0 ∧ Tab.get false State.reset.power.trip i = false) ∧ State.reset.power.pcap = 560 ∧
  State.reset.power.seqDone = 0 ∧ State.reset.power.result = 0 ∧ State.reset.power.busy = false ∧ State.reset.power.boot = 0 ∧
  (∀ i, Tab.get 0 State.reset.sys.ctr i = 0 ∧ Tab.get 0 State.reset.ora.ctr i = 0) ∧
  ∀ c, (coreAt State.reset c).task = none ∧ (coreAt State.reset c).run = .idle

/-- R379, R375: without power nothing moves but a power-on reset, which a step takes when it is next; with power every step answers a
next state.  That a step without power is the fault noPower is the model's choice (log entry 20). -/
def Obligations.WithoutPowerNothingMoves : Prop :=
  (∀ s : State, s.power.powered = false → (∀ rest, s.agenda ≠ .ev .powerOnReset :: rest) → step s = .fault .noPower) ∧
  (∀ (s : State) (rest : List Move), s.agenda = .ev .powerOnReset :: rest → ∃ t, step s = .next t ∧ t.power.powered = true ∧ t.agenda = rest) ∧
  (∀ s : State, s.power.powered = true → ∃ t, step s = .next t)
end

