-- ==== Sys2Proof/Laws/Table.lean ====
section
/-! SUPPORT. Sparse tables: reading after writing, and the canonical form. -/

namespace Sys2Proof.Machine
open Sys2Proof

section
variable {β : Type}

@[simp] theorem Tab.get_nil (d : β) (k : Nat) : Tab.get d [] k = d := rfl
@[simp] theorem Tab.look_nil (k : Nat) : Tab.look ([] : Tab β) k = none := rfl

theorem Tab.get_insert_same (d v : β) (k : Nat) (t : Tab β) (h : Tab.look t k = none) :
    Tab.get d (Tab.insert k v t) k = v := by
  induction t with
  | nil => simp [Tab.insert, Tab.get]
  | cons p t ih =>
    obtain ⟨j, w⟩ := p
    have hj : j ≠ k := by intro e; simp [Tab.look, e] at h
    simp only [Tab.look, hj, if_false] at h
    unfold Tab.insert
    split <;> simp [Tab.get, hj, ih h]

theorem Tab.get_insert_other (d v : β) (k j : Nat) (t : Tab β) (h : j ≠ k) :
    Tab.get d (Tab.insert k v t) j = Tab.get d t j := by
  induction t with
  | nil => simp [Tab.insert, Tab.get, Ne.symm h]
  | cons p t ih =>
    obtain ⟨i, w⟩ := p
    unfold Tab.insert
    split
    · simp [Tab.get, Ne.symm h]
    · simp [Tab.get, ih]

theorem Tab.look_erase_same (k : Nat) (t : Tab β) : Tab.look (Tab.erase k t) k = none := by
  induction t with
  | nil => rfl
  | cons p t ih =>
    obtain ⟨i, w⟩ := p
    unfold Tab.erase
    split
    · exact ih
    · rename_i h; simp [Tab.look, h, ih]

theorem Tab.get_erase_same (d : β) (k : Nat) (t : Tab β) : Tab.get d (Tab.erase k t) k = d := by
  induction t with
  | nil => rfl
  | cons p t ih =>
    obtain ⟨i, w⟩ := p
    unfold Tab.erase
    split
    · exact ih
    · rename_i h; simp [Tab.get, h, ih]

theorem Tab.get_erase_other (d : β) (k j : Nat) (t : Tab β) (h : j ≠ k) :
    Tab.get d (Tab.erase k t) j = Tab.get d t j := by
  induction t with
  | nil => rfl
  | cons p t ih =>
    obtain ⟨i, w⟩ := p
    unfold Tab.erase
    split
    · rename_i e; subst e; simp [Tab.get, Ne.symm h, ih]
    · simp [Tab.get, ih]

/-- What a write leaves at its own key. -/
@[simp] theorem Tab.get_set_same [DecidableEq β] (d : β) (t : Tab β) (k : Nat) (v : β) : Tab.get d (Tab.set d t k v) k = v := by
  unfold Tab.set
  split
  · rename_i h; rw [Tab.get_erase_same, h]
  · exact Tab.get_insert_same _ _ _ _ (Tab.look_erase_same _ _)

/-- A write leaves every other key alone. -/
theorem Tab.get_set_other [DecidableEq β] (d : β) (t : Tab β) (k j : Nat) (v : β) (h : j ≠ k) :
    Tab.get d (Tab.set d t k v) j = Tab.get d t j := by
  unfold Tab.set
  split
  · exact Tab.get_erase_other _ _ _ _ h
  · rw [Tab.get_insert_other _ _ _ _ _ h, Tab.get_erase_other _ _ _ _ h]

theorem Tab.get_set [DecidableEq β] (d : β) (t : Tab β) (k j : Nat) (v : β) :
    Tab.get d (Tab.set d t k v) j = if j = k then v else Tab.get d t j := by
  by_cases h : j = k
  · subst h; simp
  · rw [if_neg h, Tab.get_set_other _ _ _ _ _ h]

theorem Tab.look_insert_same (v : β) (k : Nat) (t : Tab β) (h : Tab.look t k = none) :
    Tab.look (Tab.insert k v t) k = some v := by
  induction t with
  | nil => simp [Tab.insert, Tab.look]
  | cons p t ih =>
    obtain ⟨j, w⟩ := p
    have hj : j ≠ k := by intro e; simp [Tab.look, e] at h
    simp only [Tab.look, hj, if_false] at h
    unfold Tab.insert
    split <;> simp [Tab.look, hj, ih h]

theorem Tab.look_insert_other (v : β) (k j : Nat) (t : Tab β) (h : j ≠ k) :
    Tab.look (Tab.insert k v t) j = Tab.look t j := by
  induction t with
  | nil => simp [Tab.insert, Tab.look, Ne.symm h]
  | cons p t ih =>
    obtain ⟨i, w⟩ := p
    unfold Tab.insert
    split
    · simp [Tab.look, Ne.symm h]
    · simp [Tab.look, ih]

theorem Tab.look_erase_other (k j : Nat) (t : Tab β) (h : j ≠ k) : Tab.look (Tab.erase k t) j = Tab.look t j := by
  induction t with
  | nil => rfl
  | cons p t ih =>
    obtain ⟨i, w⟩ := p
    unfold Tab.erase
    split
    · rename_i e; subst e; simp [Tab.look, Ne.symm h, ih]
    · simp [Tab.look, ih]

@[simp] theorem Tab.look_put_same (t : Tab β) (k : Nat) (v : β) : Tab.look (Tab.put t k v) k = some v :=
  Tab.look_insert_same _ _ _ (Tab.look_erase_same _ _)

theorem Tab.look_put (t : Tab β) (k j : Nat) (v : β) :
    Tab.look (Tab.put t k v) j = if j = k then some v else Tab.look t j := by
  by_cases h : j = k
  · subst h; simp
  · rw [if_neg h]; unfold Tab.put; rw [Tab.look_insert_other _ _ _ _ h, Tab.look_erase_other _ _ _ h]

/-! ### The canonical form -/

theorem Tab.above_of_lt (lo lo' : Nat) (t : Tab β) (hl : lo' ≤ lo) (h : Tab.above lo t) : Tab.above lo' t := by
  cases t with
  | nil => rfl
  | cons p t =>
    obtain ⟨i, w⟩ := p
    simp only [Tab.above, Bool.and_eq_true, decide_eq_true_eq] at h ⊢
    exact ⟨Nat.lt_of_le_of_lt hl h.1, h.2⟩

theorem Tab.above_erase (lo k : Nat) (t : Tab β) (h : Tab.above lo t) : Tab.above lo (Tab.erase k t) := by
  induction t generalizing lo with
  | nil => rfl
  | cons p t ih =>
    obtain ⟨i, w⟩ := p
    simp only [Tab.above, Bool.and_eq_true, decide_eq_true_eq] at h
    unfold Tab.erase
    split
    · exact ih lo (Tab.above_of_lt i lo t (Nat.le_of_lt h.1) h.2)
    · simp [Tab.above, h.1, ih i h.2]

theorem Tab.above_insert (lo k : Nat) (v : β) (t : Tab β) (hk : lo < k) (hn : Tab.look t k = none) (h : Tab.above lo t) :
    Tab.above lo (Tab.insert k v t) := by
  induction t generalizing lo with
  | nil => simp [Tab.insert, Tab.above, hk]
  | cons p t ih =>
    obtain ⟨i, w⟩ := p
    have hi : i ≠ k := by intro e; simp [Tab.look, e] at hn
    simp only [Tab.look, hi, if_false] at hn
    simp only [Tab.above, Bool.and_eq_true, decide_eq_true_eq] at h
    unfold Tab.insert
    split
    · rename_i hki; simp [Tab.above, hk, hki, h.2]
    · simp only [Tab.above, Bool.and_eq_true, decide_eq_true_eq]
      exact ⟨h.1, ih i (by omega) hn h.2⟩

theorem Tab.wf_erase [DecidableEq β] (d : β) (k : Nat) (t : Tab β) (h : Tab.wf d t) : Tab.wf d (Tab.erase k t) := by
  induction t with
  | nil => rfl
  | cons p t ih =>
    obtain ⟨i, w⟩ := p
    simp only [Tab.wf, Bool.and_eq_true, decide_eq_true_eq] at h
    unfold Tab.erase
    split
    · exact ih h.2
    · simp only [Tab.wf, Bool.and_eq_true, decide_eq_true_eq]
      exact ⟨⟨Tab.above_erase _ _ _ h.1.1, h.1.2⟩, ih h.2⟩

theorem Tab.wf_insert [DecidableEq β] (d v : β) (k : Nat) (t : Tab β) (hv : v ≠ d) (hn : Tab.look t k = none) (h : Tab.wf d t) :
    Tab.wf d (Tab.insert k v t) := by
  induction t with
  | nil => simp [Tab.insert, Tab.wf, Tab.above, hv]
  | cons p t ih =>
    obtain ⟨i, w⟩ := p
    have hi : i ≠ k := by intro e; simp [Tab.look, e] at hn
    simp only [Tab.look, hi, if_false] at hn
    have hw := h
    simp only [Tab.wf, Bool.and_eq_true, decide_eq_true_eq] at h
    unfold Tab.insert
    split
    · rename_i hk
      simp only [Tab.wf, Tab.above, Bool.and_eq_true, decide_eq_true_eq] at hw ⊢
      exact ⟨⟨⟨hk, hw.1.1⟩, hv⟩, hw⟩
    · rename_i hk
      simp only [Tab.wf, Bool.and_eq_true, decide_eq_true_eq]
      exact ⟨⟨Tab.above_insert _ _ _ _ (by omega) hn h.1.1, h.1.2⟩, ih hn h.2⟩

/-- A write keeps the canonical form. -/
theorem Tab.wf_set [DecidableEq β] (d v : β) (k : Nat) (t : Tab β) (h : Tab.wf d t) : Tab.wf d (Tab.set d t k v) := by
  unfold Tab.set
  split
  · exact Tab.wf_erase _ _ _ h
  · exact Tab.wf_insert _ _ _ _ ‹_› (Tab.look_erase_same _ _) (Tab.wf_erase _ _ _ h)

end

end Sys2Proof.Machine
end

