-- ==== Sys2Proof/Laws/Memory.lean ====
section
/-! SUPPORT. Memory: a byte read after a write, and every memory operation keeps the canonical form. -/

namespace Sys2Proof.Machine
open Sys2Proof

/-- The canonical form after a byte is written. -/
theorem Memory.wf_set (m : List Host.Cell) (pa : Nat) (b : Byte) (h : Memory.wf m) : Memory.wf (Tab.set 0 m pa b) :=
  Tab.wf_set _ _ _ _ h

theorem memByte_set (m : List Host.Cell) (pa q : Nat) (b : Byte) :
    memByte (Tab.set 0 m pa b) q = if q = pa then b else memByte m q := Tab.get_set _ _ _ _ _

/-- A write of a run of bytes, byte by byte. -/
theorem memByte_memWrite (m : List Host.Cell) (pa q : Nat) (bs : List Byte) :
    memByte (memWrite m pa bs) q = if pa ≤ q ∧ q < pa + bs.length then bs.getD (q - pa) 0 else memByte m q := by
  induction bs generalizing m pa with
  | nil =>
    have : ¬ (pa ≤ q ∧ q < pa + ([] : List Byte).length) := by simp
    rw [if_neg this]; rfl
  | cons b t ih =>
    unfold memWrite
    rw [ih, memByte_set]
    by_cases h : q = pa
    · subst h; simp
    · by_cases h2 : pa + 1 ≤ q ∧ q < pa + 1 + t.length
      · rw [if_pos h2]
        have h3 : pa ≤ q ∧ q < pa + (b :: t).length := by simp; omega
        rw [if_pos h3]
        obtain ⟨k, hk⟩ : ∃ k, q - pa = k + 1 := ⟨q - pa - 1, by omega⟩
        have : q - (pa + 1) = k := by omega
        rw [hk, this]; rfl
      · rw [if_neg h2, if_neg h]
        have h3 : ¬ (pa ≤ q ∧ q < pa + (b :: t).length) := by simp; omega
        rw [if_neg h3]

theorem Memory.wf_memWrite (m : List Host.Cell) (pa : Nat) (bs : List Byte) (h : Memory.wf m) : Memory.wf (memWrite m pa bs) := by
  induction bs generalizing m pa with
  | nil => exact h
  | cons b t ih => exact ih _ _ (Memory.wf_set _ _ _ h)

theorem Memory.wf_memMerge (m : List Host.Cell) (line : Nat) (data : LineData) (mask : LineMask) (n : Nat) (h : Memory.wf m) :
    Memory.wf (memMerge m line data mask n) := by
  induction n with
  | zero => exact h
  | succ n ih => unfold memMerge; dsimp only; split; exacts [Memory.wf_set _ _ _ ih, ih]

theorem Memory.wf_memMask (m : List Host.Cell) (pa : Nat) (data : Dword) (mask : Byte) (n : Nat) (h : Memory.wf m) :
    Memory.wf (memMask m pa data mask n) := by
  induction n with
  | zero => exact h
  | succ n ih => unfold memMask; dsimp only; split; exacts [Memory.wf_set _ _ _ ih, ih]

theorem Tab.above_filter {β : Type} (lo : Nat) (t : Tab β) (p : Nat × β → Bool) (h : Tab.above lo t) :
    Tab.above lo (t.filter p) := by
  induction t generalizing lo with
  | nil => rfl
  | cons x t ih =>
    obtain ⟨i, w⟩ := x
    simp only [Tab.above, Bool.and_eq_true, decide_eq_true_eq] at h
    rw [List.filter_cons]
    split
    · simp only [Tab.above, Bool.and_eq_true, decide_eq_true_eq]; exact ⟨h.1, ih i h.2⟩
    · exact Tab.above_of_lt i lo _ (Nat.le_of_lt h.1) (ih i h.2)

theorem Tab.wf_filter {β : Type} [DecidableEq β] (d : β) (t : Tab β) (p : Nat × β → Bool) (h : Tab.wf d t) :
    Tab.wf d (t.filter p) := by
  induction t with
  | nil => rfl
  | cons x t ih =>
    obtain ⟨i, w⟩ := x
    simp only [Tab.wf, Bool.and_eq_true, decide_eq_true_eq] at h
    rw [List.filter_cons]
    split
    · simp only [Tab.wf, Bool.and_eq_true, decide_eq_true_eq]
      exact ⟨⟨Tab.above_filter i t p h.1.1, h.1.2⟩, ih h.2⟩
    · exact ih h.2

theorem Memory.wf_memKeep (m : List Host.Cell) (p : Nat → Bool) (h : Memory.wf m) : Memory.wf (memKeep m p) :=
  Tab.wf_filter _ _ _ h

theorem reset_memory_wf : Memory.wf State.reset.sys.mem := rfl

/-- Posted host stores reach memory in canonical form (R256). -/
theorem deliverPosted_memory_wf (s : State) (h : Memory.wf s.sys.mem) : Memory.wf (deliverPosted s).sys.mem := by
  have : ∀ (ps : List Posted) (m : List Host.Cell), Memory.wf m →
      Memory.wf (ps.foldl (fun m p => memMask m p.pa p.data p.mask 8) m) := by
    intro ps
    induction ps with
    | nil => exact fun _ h => h
    | cons p t ih => exact fun m h => ih _ (Memory.wf_memMask _ _ _ _ _ h)
  exact this _ _ h

end Sys2Proof.Machine
end

