-- ==== Sys2Proof/Laws/Canon1.lean ====
section
/-! SUPPORT. Every operation keeps memory in its canonical form: Access, Coherence, Memory, Generator, Tasks, Ops. -/

set_option linter.unreachableTactic false
set_option linter.unusedTactic false
set_option linter.unusedVariables false

namespace Sys2Proof.Machine
open Sys2Proof

/-- Memory has its canonical form. -/
def Canon (s : State) : Prop := Memory.wf s.sys.mem
def CanonOpt (o : Option State) : Prop := ∀ v, o = some v → Canon v
def CanonOptP {α : Type} (o : Option (State × α)) : Prop := ∀ v, o = some v → Canon v.1
def CanonOut (o : Out) : Prop := ∀ v, o = .next v → Canon v

theorem none_canon : CanonOpt none := fun _ e => nomatch e
theorem some_canon {v : State} (h : Canon v) : CanonOpt (some v) := fun _ e => by cases e; exact h
theorem noneP_canon {α : Type} : CanonOptP (none : Option (State × α)) := fun _ e => nomatch e
theorem someP_canon {α : Type} {v : State} {x : α} (h : Canon v) : CanonOptP (some (v, x)) := fun _ e => by cases e; exact h
theorem next_canon {v : State} (h : Canon v) : CanonOut (.next v) := fun _ e => by cases e; exact h

theorem pair_canon {α : Type} {p : State × α} (h : Canon p.1) {v : State} {x : α} (e : p = (v, x)) : Canon v := by
  rwa [e] at h
theorem opt_canon {o : Option State} (h : CanonOpt o) {v : State} (e : o = some v) : Canon v := h _ e
theorem out_canon {o : Out} (h : CanonOut o) {v : State} (e : o = .next v) : Canon v := h _ e
theorem optP_canon {α : Type} {o : Option (State × α)} (h : CanonOptP o) {v : State} {x : α} (e : o = some (v, x)) : Canon v := h _ e

theorem bind_canon {o : Option State} {f : State → Option State} (h : CanonOpt o) (hf : ∀ v, Canon v → CanonOpt (f v)) :
    CanonOpt (o.bind f) := by
  cases o with
  | none => exact none_canon
  | some v => exact hf v (h v rfl)
theorem bindOP_canon {α : Type} {o : Option State} {f : State → Option (State × α)} (h : CanonOpt o) (hf : ∀ v, Canon v → CanonOptP (f v)) :
    CanonOptP (o.bind f) := by
  cases o with
  | none => exact noneP_canon
  | some v => exact hf v (h v rfl)
theorem bindP_canon {α : Type} {o : Option (State × α)} {f : State × α → Option State} (h : CanonOptP o)
    (hf : ∀ v, Canon v.1 → CanonOpt (f v)) : CanonOpt (o.bind f) := by
  cases o with
  | none => exact none_canon
  | some v => exact hf v (h v rfl)
theorem bindAny_canon {α : Type} {o : Option α} {f : α → Option State} (hf : ∀ v, CanonOpt (f v)) : CanonOpt (o.bind f) := by
  cases o with
  | none => exact none_canon
  | some v => exact hf v
theorem mapP_canon {α : Type} {o : Option State} {f : State → State × α} (h : CanonOpt o) (hf : ∀ v, Canon v → Canon (f v).1) :
    CanonOptP (o.map f) := by
  cases o with
  | none => exact noneP_canon
  | some v => exact someP_canon (hf v (h v rfl))
theorem getD_canon {o : Option State} {v : State} (h : CanonOpt o) (hv : Canon v) : Canon (o.getD v) := by
  cases o with
  | none => exact hv
  | some w => exact h w rfl
theorem orElse_canon {o : Option State} {f : Unit → Option State} (h : CanonOpt o) (hf : ∀ x, CanonOpt (f x)) : CanonOpt (o.orElse f) := by
  cases o with
  | none => exact hf ()
  | some w => exact h
theorem findSome_canon {α : Type} {l : List α} {f : α → Option State} (hf : ∀ a, CanonOpt (f a)) : CanonOpt (l.findSome? f) := by
  induction l with
  | nil => exact none_canon
  | cons a t ih =>
    intro v e
    rw [List.findSome?_cons] at e
    split at e
    · rename_i w hw
      cases e
      exact hf a _ hw
    · exact ih v e

theorem setMe_canon {u : State} (h : Canon u) (c : Nat) : Canon (setMe u c) := h
theorem setAgenda_canon {u : State} (h : Canon u) (l : List Move) : Canon (setAgenda u l) := h
theorem nextBeat_canon {u : State} (h : Canon u) : Canon (nextBeat u) := h
theorem setCore_canon {u : State} (h : Canon u) (c : Nat) (k : Core) : Canon (setCore u c k) := h
theorem modCore_canon {u : State} (h : Canon u) (c : Nat) (f : Core → Core) : Canon (modCore u c f) := h
theorem modSeq_canon {u : State} (h : Canon u) (c : Nat) (f : Seq → Seq) : Canon (modSeq u c f) := h
theorem modCtl_canon {u : State} (h : Canon u) (c : Nat) (f : Ctl → Ctl) : Canon (modCtl u c f) := h
theorem modArr_canon {u : State} (h : Canon u) (c : Nat) (f : Arr → Arr) : Canon (modArr u c f) := h
theorem modEdge_canon {u : State} (h : Canon u) (c : Nat) (f : EdgeSt → EdgeSt) : Canon (modEdge u c f) := h
theorem modMem_canon {u : State} (h : Canon u) (c : Nat) (f : MemPath → MemPath) : Canon (modMem u c f) := h
theorem modSched_canon {u : State} (h : Canon u) (f : Sched → Sched) : Canon (modSched u f) := h
theorem modOra_canon {u : State} (h : Canon u) (f : Orangery → Orangery) : Canon (modOra u f) := h
theorem modPav_canon {u : State} (h : Canon u) (f : Pav → Pav) : Canon (modPav u f) := h
theorem modPower_canon {u : State} (h : Canon u) (f : Power → Power) : Canon (modPower u f) := h
theorem modSys_canon {u : State} (h : Canon u) (f : MemSys → MemSys) (hf : Memory.wf u.sys.mem → Memory.wf (f u.sys).mem) :
    Canon (modSys u f) := hf h
theorem foldl_canon {α : Type} {u : State} (h : Canon u) (f : State → α → State) (l : List α)
    (hf : ∀ v a, Canon v → Canon (f v a)) : Canon (l.foldl f u) := by
  induction l generalizing u with
  | nil => exact h
  | cons a t ih => exact ih (hf u a h)
theorem foldlP_canon {α β : Type} {u : State × β} (h : Canon u.1) (f : State × β → α → State × β) (l : List α)
    (hf : ∀ v a, Canon v.1 → Canon (f v a).1) : Canon (l.foldl f u).1 := by
  induction l generalizing u with
  | nil => exact h
  | cons a t ih => exact ih (hf u a h)
theorem modTeam_canon {u : State} (h : Canon u) (t : Nat) (f : Team → Team) : Canon (modTeam u t f) := by
  unfold modTeam; split <;> exact h
theorem modContext_canon {u : State} (h : Canon u) (t c : Nat) (f : Core → Core) : Canon (modContext u t c f) := by
  unfold modContext; repeat' split
  all_goals exact h

theorem writeG_canon {u : State} (h : Canon u) (c : Nat) (r : BitVec 5) (v : Dword) : Canon (writeG u c r v) := by
  unfold writeG
  (try dsimp only)
  repeat' split
  all_goals repeat' first | (with_reducible first | exact h | assumption | refine modSeq_canon ?_ _ _) | split

theorem modLoader_canon {u : State} (h : Canon u) (c e : Nat) (f : Loader → Loader) : Canon (modLoader u c e f) := by
  unfold modLoader
  (try dsimp only)
  repeat' split
  all_goals repeat' first | (with_reducible first | exact h | assumption | refine modEdge_canon ?_ _ _) | split

theorem writeO_canon {u : State} (h : Canon u) (c o : Nat) (v : Half) : Canon (writeO u c o v) := by
  unfold writeO
  (try dsimp only)
  repeat' split
  all_goals repeat' first | (with_reducible first | exact h | assumption | refine modSeq_canon ?_ _ _) | split

theorem setTeam_canon {u : State} (h : Canon u) (t : Nat) (x : Team) : Canon (setTeam u t x) := by
  unfold setTeam
  (try dsimp only)
  repeat' split
  all_goals repeat' first | (with_reducible first | exact h | assumption | refine modSched_canon ?_ _) | split

theorem setQueue_canon {u : State} (h : Canon u) (q : Nat) (x : Queue) : Canon (setQueue u q x) := by
  unfold setQueue
  (try dsimp only)
  repeat' split
  all_goals repeat' first | (with_reducible first | exact h | assumption | refine modPav_canon ?_ _) | split

theorem setPkt_canon {u : State} (h : Canon u) (p : Nat) (x : Pkt) : Canon (setPkt u p x) := by
  unfold setPkt
  (try dsimp only)
  repeat' split
  all_goals repeat' first | (with_reducible first | exact h | assumption | refine modPav_canon ?_ _) | split

theorem homeMerge_canon {u : State} (h : Canon u) (line : Nat) (data : LineData) (mask : LineMask) : Canon (homeMerge u line data mask) :=
  Memory.wf_memMerge _ _ _ _ _ h

theorem countDie_canon {u : State} (h : Canon u) (die reg : Nat) : Canon (countDie u die reg) := by
  unfold countDie
  (try dsimp only)
  repeat' split
  all_goals repeat' first | (with_reducible first | exact h | assumption | refine modSys_canon ?_ _ ?_ | exact fun w => w | exact fun w => Memory.wf_set _ _ _ w | exact fun w => Memory.wf_memWrite _ _ _ w | exact fun w => Memory.wf_memMask _ _ _ _ _ w | exact fun w => Memory.wf_memMerge _ _ _ _ _ w | exact fun w => Memory.wf_memKeep _ _ w) | split

theorem setL2_canon {u : State} (h : Canon u) (agent : Nat) (xs : List L2Line) : Canon (setL2 u agent xs) := by
  unfold setL2
  (try dsimp only)
  repeat' split
  all_goals repeat' first | (with_reducible first | exact h | assumption | refine modSys_canon ?_ _ ?_ | exact fun w => w | exact fun w => Memory.wf_set _ _ _ w | exact fun w => Memory.wf_memWrite _ _ _ w | exact fun w => Memory.wf_memMask _ _ _ _ _ w | exact fun w => Memory.wf_memMerge _ _ _ _ _ w | exact fun w => Memory.wf_memKeep _ _ w) | split

theorem l2Drop_canon {u : State} (h : Canon u) (agent line : Nat) : Canon (l2Drop u agent line) := by
  unfold l2Drop
  (try dsimp only)
  repeat' split
  all_goals repeat' first | (with_reducible first | exact h | assumption | refine setL2_canon ?_ _ _) | split

theorem setDir_canon {u : State} (h : Canon u) (line : Nat) (e : DirEntry) : Canon (setDir u line e) := by
  unfold setDir
  (try dsimp only)
  repeat' split
  all_goals repeat' first | (with_reducible first | exact h | assumption | refine modSys_canon ?_ _ ?_ | exact fun w => w | exact fun w => Memory.wf_set _ _ _ w | exact fun w => Memory.wf_memWrite _ _ _ w | exact fun w => Memory.wf_memMask _ _ _ _ _ w | exact fun w => Memory.wf_memMerge _ _ _ _ _ w | exact fun w => Memory.wf_memKeep _ _ w) | split

theorem freeDir_canon {u : State} (h : Canon u) (line : Nat) : Canon (freeDir u line) := by
  unfold freeDir
  (try dsimp only)
  repeat' split
  all_goals repeat' first | (with_reducible first | exact h | assumption | refine modSys_canon ?_ _ ?_ | exact fun w => w | exact fun w => Memory.wf_set _ _ _ w | exact fun w => Memory.wf_memWrite _ _ _ w | exact fun w => Memory.wf_memMask _ _ _ _ _ w | exact fun w => Memory.wf_memMerge _ _ _ _ _ w | exact fun w => Memory.wf_memKeep _ _ w) | split

theorem sendMsg_canon {u : State} (h : Canon u) (i : DirMsg) : Canon (sendMsg u i) := by
  unfold sendMsg
  (try dsimp only)
  repeat' split
  all_goals repeat' first | (with_reducible first | exact h | assumption | refine modSys_canon ?_ _ ?_ | exact fun w => w | exact fun w => Memory.wf_set _ _ _ w | exact fun w => Memory.wf_memWrite _ _ _ w | exact fun w => Memory.wf_memMask _ _ _ _ _ w | exact fun w => Memory.wf_memMerge _ _ _ _ _ w | exact fun w => Memory.wf_memKeep _ _ w) | split

theorem sendMsgs_canon {u : State} (h : Canon u) (l : List DirMsg) : Canon (sendMsgs u l) := by
  unfold sendMsgs
  (try dsimp only)
  repeat' split
  all_goals repeat' first | (with_reducible first | exact h | assumption | refine modSys_canon ?_ _ ?_ | exact fun w => w | exact fun w => Memory.wf_set _ _ _ w | exact fun w => Memory.wf_memWrite _ _ _ w | exact fun w => Memory.wf_memMask _ _ _ _ _ w | exact fun w => Memory.wf_memMerge _ _ _ _ _ w | exact fun w => Memory.wf_memKeep _ _ w) | split

theorem l2Out_canon {u : State} (h : Canon u) (agent : Nat) (x : L2Line) : Canon (l2Out u agent x) := by
  unfold l2Out
  (try dsimp only)
  repeat' split
  all_goals repeat' first | (with_reducible first | exact h | assumption | refine homeMerge_canon ?_ _ _ _ | refine l2Drop_canon ?_ _ _ | refine sendMsg_canon ?_ _) | split

theorem l2Put_canon {u : State} (h : Canon u) (agent : Nat) (x : L2Line) : Canon (l2Put u agent x) := by
  unfold l2Put
  (try dsimp only)
  repeat' split
  all_goals repeat' first | (with_reducible first | exact h | assumption | refine setL2_canon ?_ _ _ | refine l2Out_canon ?_ _ _) | split

theorem trimL2_canon {u : State} (h : Canon u) (die : Nat) : Canon (trimL2 u die) := by
  unfold trimL2
  (try dsimp only)
  repeat' split
  all_goals repeat' first | (with_reducible first | exact h | assumption | refine l2Out_canon ?_ _ _ | refine foldl_canon ?_ _ _ ?_ | refine foldlP_canon ?_ _ _ ?_ | intro _ _ _) | split

theorem wake_canon {u : State} (h : Canon u) (line : Nat) (q : List DirReq) : Canon (wake u line q) := by
  unfold wake
  (try dsimp only)
  repeat' split
  all_goals repeat' first | (with_reducible first | exact h | assumption | refine modSys_canon ?_ _ ?_ | exact fun w => w | exact fun w => Memory.wf_set _ _ _ w | exact fun w => Memory.wf_memWrite _ _ _ w | exact fun w => Memory.wf_memMask _ _ _ _ _ w | exact fun w => Memory.wf_memMerge _ _ _ _ _ w | exact fun w => Memory.wf_memKeep _ _ w) | split

theorem stable_canon {u : State} (h : Canon u) (line : Nat) (e : DirEntry) (st : DirState) (sharers : BitVec 5) : Canon (stable u line e st sharers) := by
  unfold stable
  (try dsimp only)
  repeat' split
  all_goals repeat' first | (with_reducible first | exact h | assumption | refine setDir_canon ?_ _ _ | refine wake_canon ?_ _ _) | split

theorem toU_canon {u : State} (h : Canon u) (line : Nat) (e : DirEntry) : Canon (toU u line e) := by
  unfold toU
  (try dsimp only)
  repeat' split
  all_goals repeat' first | (with_reducible first | exact h | assumption | refine freeDir_canon ?_ _ | refine wake_canon ?_ _ _) | split

theorem installCopy_canon {u : State} (h : Canon u) (line die : Nat) (excl : Bool) : Canon (installCopy u line die excl) := by
  unfold installCopy
  (try dsimp only)
  repeat' split
  all_goals repeat' first | (with_reducible first | exact h | assumption | refine l2Put_canon ?_ _ _) | split

theorem grantCopy_canon {u : State} (h : Canon u) (line die : Nat) : Canon (grantCopy u line die) := by
  unfold grantCopy
  (try dsimp only)
  repeat' split
  all_goals repeat' first | (with_reducible first | exact h | assumption | refine l2Put_canon ?_ _ _ | refine installCopy_canon ?_ _ _ _) | split

theorem enqueue_canon {u : State} (h : Canon u) (line : Nat) (e : DirEntry) (r : DirReq) : Canon (enqueue u line e r) := by
  unfold enqueue
  (try dsimp only)
  repeat' split
  all_goals repeat' first | (with_reducible first | exact h | assumption | refine setDir_canon ?_ _ _) | split

theorem hostNext_canon {u : State} (h : Canon u)  : Canon (hostNext u) := by
  unfold hostNext
  (try dsimp only)
  repeat' split
  all_goals repeat' first | (with_reducible first | exact h | assumption | refine sendMsg_canon ?_ _ | refine modSys_canon ?_ _ ?_ | exact fun w => w | exact fun w => Memory.wf_set _ _ _ w | exact fun w => Memory.wf_memWrite _ _ _ w | exact fun w => Memory.wf_memMask _ _ _ _ _ w | exact fun w => Memory.wf_memMerge _ _ _ _ _ w | exact fun w => Memory.wf_memKeep _ _ w) | split

theorem wrote_canon {u : State} (h : Canon u) (r : DirReq) : Canon (wrote u r) := by
  unfold wrote
  (try dsimp only)
  repeat' split
  all_goals repeat' first | (with_reducible first | exact h | assumption | refine hostNext_canon ?_) | split

theorem hostGets_canon {u : State} (h : Canon u) (line : Nat) (d : LineData) : Canon (hostGets u line d) := by
  unfold hostGets
  (try dsimp only)
  repeat' split
  all_goals repeat' first | (with_reducible first | exact h | assumption | refine modSys_canon ?_ _ ?_ | exact fun w => w | exact fun w => Memory.wf_set _ _ _ w | exact fun w => Memory.wf_memWrite _ _ _ w | exact fun w => Memory.wf_memMask _ _ _ _ _ w | exact fun w => Memory.wf_memMerge _ _ _ _ _ w | exact fun w => Memory.wf_memKeep _ _ w) | split

theorem finishSx_canon {u : State} (h : Canon u) (line : Nat) (e : DirEntry) (r : DirReq) : Canon (finishSx u line e r) := by
  unfold finishSx
  (try dsimp only)
  repeat' split
  all_goals repeat' first | (with_reducible first | exact h | assumption | refine homeMerge_canon ?_ _ _ _ | refine setDir_canon ?_ _ _ | refine sendMsg_canon ?_ _ | refine toU_canon ?_ _ _ | refine installCopy_canon ?_ _ _ _ | refine grantCopy_canon ?_ _ _ | refine hostNext_canon ?_) | split

theorem invalidate_canon {u : State} (h : Canon u) (line : Nat) (e : DirEntry) (who : List Nat) (r : DirReq) : Canon (invalidate u line e who r) := by
  unfold invalidate
  (try dsimp only)
  repeat' split
  all_goals repeat' first | (with_reducible first | exact h | assumption | refine setDir_canon ?_ _ _ | refine sendMsgs_canon ?_ _ | refine finishSx_canon ?_ _ _ _ | refine mapP_canon ?_ ?_ | intro _ _) | split

theorem evictVictim_canon {u : State} (h : Canon u) (line : Nat) (e : DirEntry) : Canon (evictVictim u line e) := by
  unfold evictVictim
  (try dsimp only)
  repeat' split
  all_goals repeat' first | (with_reducible first | exact h | assumption | refine countDie_canon ?_ _ _ | refine setDir_canon ?_ _ _ | refine sendMsg_canon ?_ _ | refine invalidate_canon ?_ _ _ _ _) | split

theorem waitForWay_canon {u : State} (h : Canon u) (i : DirMsg) (line : Nat) : Canon (waitForWay u i line) := by
  unfold waitForWay
  (try dsimp only)
  repeat' split
  all_goals repeat' first | (with_reducible first | exact h | assumption | refine countDie_canon ?_ _ _ | refine evictVictim_canon ?_ _ _ | refine modSys_canon ?_ _ ?_ | refine orElse_canon ?_ ?_ | intro _ | exact fun w => w | exact fun w => Memory.wf_set _ _ _ w | exact fun w => Memory.wf_memWrite _ _ _ w | exact fun w => Memory.wf_memMask _ _ _ _ _ w | exact fun w => Memory.wf_memMerge _ _ _ _ _ w | exact fun w => Memory.wf_memKeep _ _ w) | split

theorem dirRds_canon {u : State} (h : Canon u) (line die : Nat) : Canon (dirRds u line die) := by
  unfold dirRds
  (try dsimp only)
  repeat' split
  all_goals repeat' first | (with_reducible first | exact h | assumption | refine setDir_canon ?_ _ _ | refine sendMsg_canon ?_ _ | refine installCopy_canon ?_ _ _ _ | refine enqueue_canon ?_ _ _ _ | refine waitForWay_canon ?_ _ _) | split

theorem dirRdx_canon {u : State} (h : Canon u) (line die : Nat) : Canon (dirRdx u line die) := by
  unfold dirRdx
  (try dsimp only)
  repeat' split
  all_goals repeat' first | (with_reducible first | exact h | assumption | refine setDir_canon ?_ _ _ | refine sendMsg_canon ?_ _ | refine installCopy_canon ?_ _ _ _ | refine enqueue_canon ?_ _ _ _ | refine invalidate_canon ?_ _ _ _ _ | refine waitForWay_canon ?_ _ _) | split

theorem dirUpg_canon {u : State} (h : Canon u) (line die : Nat) : Canon (dirUpg u line die) := by
  unfold dirUpg
  (try dsimp only)
  repeat' split
  all_goals repeat' first | (with_reducible first | exact h | assumption | refine enqueue_canon ?_ _ _ _ | refine invalidate_canon ?_ _ _ _ _ | refine dirRdx_canon ?_ _ _) | split

theorem dirAck_canon {u : State} (h : Canon u) (line die : Nat) : Canon (dirAck u line die) := by
  unfold dirAck
  (try dsimp only)
  repeat' split
  all_goals repeat' first | (with_reducible first | exact h | assumption | refine stable_canon ?_ _ _ _ _) | split

theorem dirInv_canon {u : State} (h : Canon u) (line die : Nat) : Canon (dirInv u line die) := by
  unfold dirInv
  (try dsimp only)
  repeat' split
  all_goals repeat' first | (with_reducible first | exact h | assumption | refine l2Drop_canon ?_ _ _ | refine sendMsg_canon ?_ _) | split

theorem dirInvAck_canon {u : State} (h : Canon u) (line die : Nat) : Canon (dirInvAck u line die) := by
  unfold dirInvAck
  (try dsimp only)
  repeat' split
  all_goals repeat' first | (with_reducible first | exact h | assumption | refine setDir_canon ?_ _ _ | refine finishSx_canon ?_ _ _ _) | split

theorem ownerShares_canon {u : State} (h : Canon u) (line die : Nat) : Canon (ownerShares u line die).1 := by
  unfold ownerShares
  (try dsimp only)
  repeat' split
  all_goals repeat' first | (with_reducible first | exact h | assumption | refine l2Put_canon ?_ _ _) | split

theorem dirRcls_canon {u : State} (h : Canon u) (line die : Nat) : Canon (dirRcls u line die) := by
  unfold dirRcls
  (try dsimp only)
  repeat' split
  all_goals repeat' first | (with_reducible first | exact h | assumption | refine sendMsg_canon ?_ _ | refine ownerShares_canon ?_ _ _ | refine pair_canon (ownerShares_canon ?_ _ _) (by assumption)) | split

theorem dirFwdio_canon {u : State} (h : Canon u) (line die : Nat) : Canon (dirFwdio u line die) := by
  unfold dirFwdio
  (try dsimp only)
  repeat' split
  all_goals repeat' first | (with_reducible first | exact h | assumption | refine sendMsg_canon ?_ _ | refine hostGets_canon ?_ _ _ | refine ownerShares_canon ?_ _ _ | refine pair_canon (ownerShares_canon ?_ _ _) (by assumption)) | split

theorem dirRcli_canon {u : State} (h : Canon u) (line die : Nat) : Canon (dirRcli u line die) := by
  unfold dirRcli
  (try dsimp only)
  repeat' split
  all_goals repeat' first | (with_reducible first | exact h | assumption | refine l2Drop_canon ?_ _ _ | refine sendMsg_canon ?_ _) | split

theorem dirRclAck_canon {u : State} (h0 : Canon u) (line die : Nat) (h : Bool) (data : LineData) (mask : LineMask) : Canon (dirRclAck u line die h data mask) := by
  unfold dirRclAck
  (try dsimp only)
  repeat' split
  all_goals repeat' first | (with_reducible first | exact h0 | assumption | refine homeMerge_canon ?_ _ _ _ | refine setDir_canon ?_ _ _ | refine sendMsg_canon ?_ _ | refine stable_canon ?_ _ _ _ _ | refine toU_canon ?_ _ _ | refine installCopy_canon ?_ _ _ _ | refine hostGets_canon ?_ _ _ | refine finishSx_canon ?_ _ _ _) | split

theorem dirWbx_canon {u : State} (h : Canon u) (line die : Nat) (data : LineData) (mask : LineMask) : Canon (dirWbx u line die data mask) := by
  unfold dirWbx
  (try dsimp only)
  repeat' split
  all_goals repeat' first | (with_reducible first | exact h | assumption | refine homeMerge_canon ?_ _ _ _ | refine l2Drop_canon ?_ _ _ | refine setDir_canon ?_ _ _ | refine toU_canon ?_ _ _) | split

theorem dirEvs_canon {u : State} (h : Canon u) (line die : Nat) : Canon (dirEvs u line die) := by
  unfold dirEvs
  (try dsimp only)
  repeat' split
  all_goals repeat' first | (with_reducible first | exact h | assumption | refine l2Drop_canon ?_ _ _ | refine setDir_canon ?_ _ _ | refine toU_canon ?_ _ _) | split

theorem dirRdio_canon {u : State} (h : Canon u) (line : Nat) : Canon (dirRdio u line) := by
  unfold dirRdio
  (try dsimp only)
  repeat' split
  all_goals repeat' first | (with_reducible first | exact h | assumption | refine setDir_canon ?_ _ _ | refine sendMsg_canon ?_ _ | refine enqueue_canon ?_ _ _ _ | refine hostGets_canon ?_ _ _) | split

theorem dirWrite_canon {u : State} (h : Canon u) (line : Nat) (data : LineData) (mask : LineMask) (r : DirReq) : Canon (dirWrite u line data mask r) := by
  unfold dirWrite
  (try dsimp only)
  repeat' split
  all_goals repeat' first | (with_reducible first | exact h | assumption | refine homeMerge_canon ?_ _ _ _ | refine setDir_canon ?_ _ _ | refine sendMsg_canon ?_ _ | refine enqueue_canon ?_ _ _ _ | refine wrote_canon ?_ _ | refine invalidate_canon ?_ _ _ _ _) | split

theorem deliverMsg_canon {u : State} (h : Canon u) (m : DirMsg) : Canon (deliverMsg u m) := by
  cases m <;> unfold deliverMsg <;> with_reducible first
    | exact dirRds_canon h _ _ | exact dirRdx_canon h _ _ | exact dirUpg_canon h _ _ | exact dirAck_canon h _ _
    | exact dirInv_canon h _ _ | exact dirInvAck_canon h _ _ | exact dirRcls_canon h _ _ | exact dirRcli_canon h _ _
    | exact dirFwdio_canon h _ _ | exact dirRclAck_canon h _ _ _ _ _ | exact dirWbx_canon h _ _ _ _
    | exact dirEvs_canon h _ _ | exact dirRdio_canon h _ | exact dirWrite_canon h _ _ _ _

theorem takeMsg_canon {u : State} (h : Canon u) (m : DirMsg) : Canon (takeMsg u m) := by
  unfold takeMsg
  (try dsimp only)
  repeat' split
  all_goals repeat' first | (with_reducible first | exact h | assumption | refine modSys_canon ?_ _ ?_ | exact fun w => w | exact fun w => Memory.wf_set _ _ _ w | exact fun w => Memory.wf_memWrite _ _ _ w | exact fun w => Memory.wf_memMask _ _ _ _ _ w | exact fun w => Memory.wf_memMerge _ _ _ _ _ w | exact fun w => Memory.wf_memKeep _ _ w) | split

theorem hostAsks_canon {u : State} (h : Canon u) (m : DirMsg) : Canon (hostAsks u m) := by
  unfold hostAsks
  (try dsimp only)
  repeat' split
  all_goals repeat' first | (with_reducible first | exact h | assumption | refine sendMsg_canon ?_ _ | refine deliverMsg_canon ?_ _) | split

theorem hostWrite_canon {u : State} (h : Canon u) (line : Nat) (data : LineData) (mask : LineMask) : Canon (hostWrite u line data mask) := by
  unfold hostWrite
  (try dsimp only)
  repeat' split
  all_goals repeat' first | (with_reducible first | exact h | assumption | refine hostAsks_canon ?_ _ | refine modSys_canon ?_ _ ?_ | exact fun w => w | exact fun w => Memory.wf_set _ _ _ w | exact fun w => Memory.wf_memWrite _ _ _ w | exact fun w => Memory.wf_memMask _ _ _ _ _ w | exact fun w => Memory.wf_memMerge _ _ _ _ _ w | exact fun w => Memory.wf_memKeep _ _ w) | split

theorem runMsgs_canon {u : State} (h : Canon u) (n : Nat) : Canon (runMsgs n u) := by
  induction n generalizing u with
  | zero => exact h
  | succ n ih =>
    unfold runMsgs
    split
    · exact h
    · exact ih (deliverMsg_canon (modSys_canon h _ id) _)

theorem settle_canon {u : State} (h : Canon u) : Canon (settle u) := runMsgs_canon h _

theorem homeFetch_canon {u : State} (h : Canon u) (line : Nat) : Canon (homeFetch u line) := by
  unfold homeFetch
  (try dsimp only)
  repeat' split
  all_goals repeat' first | (with_reducible first | exact h | assumption | refine setDir_canon ?_ _ _ | refine sendMsg_canon ?_ _ | refine settle_canon ?_) | split

theorem homeWrite_canon {u : State} (h : Canon u) (line : Nat) (data : LineData) (mask : LineMask) : Canon (homeWrite u line data mask) := by
  unfold homeWrite
  (try dsimp only)
  repeat' split
  all_goals repeat' first | (with_reducible first | exact h | assumption | refine dirWrite_canon ?_ _ _ _ _ | refine settle_canon ?_) | split

theorem sliceRead_canon {u : State} (h : Canon u) (line : Nat) (nc : Bool) : Canon (sliceRead u line nc).1 := by
  unfold sliceRead
  (try dsimp only)
  repeat' split
  all_goals repeat' first | (with_reducible first | exact h | assumption | refine homeFetch_canon ?_ _) | split

theorem sliceWrite_canon {u : State} (h : Canon u) (line : Nat) (data : LineData) (mask : LineMask) (nc : Bool) : Canon (sliceWrite u line data mask nc) := by
  unfold sliceWrite
  (try dsimp only)
  repeat' split
  all_goals repeat' first | (with_reducible first | exact h | assumption | refine homeMerge_canon ?_ _ _ _ | refine homeWrite_canon ?_ _ _ _) | split

theorem coherentRead_canon {u : State} (h : Canon u) (pa n : Nat) : Canon (coherentRead u pa n).1 := by
  unfold coherentRead
  (try dsimp only)
  repeat' split
  all_goals repeat' first | (with_reducible first | exact h | assumption | refine homeFetch_canon ?_ _) | split

theorem dieRead_canon {u : State} (h : Canon u) (die line : Nat) (nc : Bool) : Canon (dieRead u die line nc).1 := by
  unfold dieRead
  (try dsimp only)
  repeat' split
  all_goals repeat' first | (with_reducible first | exact h | assumption | refine sendMsg_canon ?_ _ | refine l2Put_canon ?_ _ _ | refine settle_canon ?_ | refine sliceRead_canon ?_ _ _ | refine pair_canon (sliceRead_canon ?_ _ _) (by assumption)) | split

theorem dieWrite_canon {u : State} (h : Canon u) (die line : Nat) (data : LineData) (mask : LineMask) (nc : Bool) : Canon (dieWrite u die line data mask nc) := by
  unfold dieWrite
  (try dsimp only)
  repeat' split
  all_goals repeat' first | (with_reducible first | exact h | assumption | refine homeMerge_canon ?_ _ _ _ | refine sendMsg_canon ?_ _ | refine l2Put_canon ?_ _ _ | refine settle_canon ?_ | refine sliceWrite_canon ?_ _ _ _ _ | refine dieRead_canon ?_ _ _ _ | refine pair_canon (dieRead_canon ?_ _ _ _) (by assumption)) | split

theorem dieEvict_canon {u : State} (h : Canon u) (die line : Nat) : Canon (dieEvict u die line) := by
  unfold dieEvict
  (try dsimp only)
  repeat' split
  all_goals repeat' first | (with_reducible first | exact h | assumption | refine l2Out_canon ?_ _ _ | refine settle_canon ?_) | split

theorem ncWriteBack_canon {u : State} (h : Canon u) (die : Nat) : Canon (ncWriteBack u die) := by
  unfold ncWriteBack
  (try dsimp only)
  repeat' split
  all_goals repeat' first | (with_reducible first | exact h | assumption | refine homeMerge_canon ?_ _ _ _ | refine setL2_canon ?_ _ _ | refine foldl_canon ?_ _ _ ?_ | refine foldlP_canon ?_ _ _ ?_ | intro _ _ _ | refine mapP_canon ?_ ?_ | intro _ _) | split

theorem ncDrop_canon {u : State} (h : Canon u) (die : Nat) : Canon (ncDrop u die) := by
  unfold ncDrop
  (try dsimp only)
  repeat' split
  all_goals repeat' first | (with_reducible first | exact h | assumption | refine setL2_canon ?_ _ _ | refine mapP_canon ?_ ?_ | intro _ _) | split

theorem ncFlush_canon {u : State} (h : Canon u) (die line : Nat) : Canon (ncFlush u die line) := by
  unfold ncFlush
  (try dsimp only)
  repeat' split
  all_goals repeat' first | (with_reducible first | exact h | assumption | refine l2Out_canon ?_ _ _) | split

theorem setWays_canon {u : State} (h : Canon u) (g : Nat) (xs : List CLine) : Canon (setWays u g xs) := by
  unfold setWays
  (try dsimp only)
  repeat' split
  all_goals repeat' first | (with_reducible first | exact h | assumption | refine modSys_canon ?_ _ ?_ | exact fun w => w | exact fun w => Memory.wf_set _ _ _ w | exact fun w => Memory.wf_memWrite _ _ _ w | exact fun w => Memory.wf_memMask _ _ _ _ _ w | exact fun w => Memory.wf_memMerge _ _ _ _ _ w | exact fun w => Memory.wf_memKeep _ _ w) | split

theorem evictWay_canon {u : State} (h : Canon u) (g line : Nat) : Canon (evictWay u g line) := by
  unfold evictWay
  (try dsimp only)
  repeat' split
  all_goals repeat' first | (with_reducible first | exact h | assumption | refine dieWrite_canon ?_ _ _ _ _ _ | refine setWays_canon ?_ _ _) | split

theorem putWay_canon {u : State} (h : Canon u) (g : Nat) (x : CLine) : Canon (putWay u g x) := by
  unfold putWay
  (try dsimp only)
  repeat' split
  all_goals repeat' first | (with_reducible first | exact h | assumption | refine setWays_canon ?_ _ _ | refine evictWay_canon ?_ _ _) | split

theorem wayRead_canon {u : State} (h : Canon u) (g line : Nat) (nc : Bool) : Canon (wayRead u g line nc).1 := by
  unfold wayRead
  (try dsimp only)
  repeat' split
  all_goals repeat' first | (with_reducible first | exact h | assumption | refine dieRead_canon ?_ _ _ _ | refine pair_canon (dieRead_canon ?_ _ _ _) (by assumption) | refine setWays_canon ?_ _ _ | refine putWay_canon ?_ _ _) | split

theorem wayWrite_canon {u : State} (h : Canon u) (g line : Nat) (data : LineData) (mask : LineMask) (nc : Bool) : Canon (wayWrite u g line data mask nc) := by
  unfold wayWrite
  (try dsimp only)
  repeat' split
  all_goals repeat' first | (with_reducible first | exact h | assumption | refine putWay_canon ?_ _ _ | refine wayRead_canon ?_ _ _ _ | refine pair_canon (wayRead_canon ?_ _ _ _) (by assumption)) | split

theorem cleanWay_canon {u : State} (h : Canon u) (g : Nat) (toHome : Bool) (x : CLine) : Canon (cleanWay u g toHome x) := by
  unfold cleanWay
  (try dsimp only)
  repeat' split
  all_goals repeat' first | (with_reducible first | exact h | assumption | refine l2Put_canon ?_ _ _ | refine sliceWrite_canon ?_ _ _ _ _ | refine dieWrite_canon ?_ _ _ _ _ _ | refine setWays_canon ?_ _ _ | refine mapP_canon ?_ ?_ | intro _ _) | split

theorem cleanWays_canon {u : State} (h : Canon u) (g : Nat) (toHome : Bool) : Canon (cleanWays u g toHome) := by
  unfold cleanWays
  (try dsimp only)
  repeat' split
  all_goals repeat' first | (with_reducible first | exact h | assumption | refine cleanWay_canon ?_ _ _ _ | refine foldl_canon ?_ _ _ ?_ | refine foldlP_canon ?_ _ _ ?_ | intro _ _ _) | split

theorem dropCleanWays_canon {u : State} (h : Canon u) (g : Nat) : Canon (dropCleanWays u g) := by
  unfold dropCleanWays
  (try dsimp only)
  repeat' split
  all_goals repeat' first | (with_reducible first | exact h | assumption | refine setWays_canon ?_ _ _) | split

theorem setFull_canon {u : State} (h : Canon u) (line : Nat) (b : Bool) : Canon (setFull u line b) := by
  unfold setFull
  (try dsimp only)
  repeat' split
  all_goals repeat' first | (with_reducible first | exact h | assumption | refine modSys_canon ?_ _ ?_ | exact fun w => w | exact fun w => Memory.wf_set _ _ _ w | exact fun w => Memory.wf_memWrite _ _ _ w | exact fun w => Memory.wf_memMask _ _ _ _ _ w | exact fun w => Memory.wf_memMerge _ _ _ _ _ w | exact fun w => Memory.wf_memKeep _ _ w) | split

theorem touchPinned_canon {u : State} (h : Canon u) (line : Nat) : Canon (touchPinned u line) := by
  unfold touchPinned
  (try dsimp only)
  repeat' split
  all_goals repeat' first | (with_reducible first | exact h | assumption | refine countDie_canon ?_ _ _ | refine modSys_canon ?_ _ ?_ | exact fun w => w | exact fun w => Memory.wf_set _ _ _ w | exact fun w => Memory.wf_memWrite _ _ _ w | exact fun w => Memory.wf_memMask _ _ _ _ _ w | exact fun w => Memory.wf_memMerge _ _ _ _ _ w | exact fun w => Memory.wf_memKeep _ _ w) | split

theorem countLife_canon {u : State} (h : Canon u) (off : Nat) : Canon (countLife u off) := by
  unfold countLife
  (try dsimp only)
  repeat' split
  all_goals repeat' first | (with_reducible first | exact h | assumption | refine modPower_canon ?_ _) | split

theorem walkFrom_canon {u : State} (h : Canon u) (die asid va tbl : Nat) (z0 : List (Nat × Nat)) : Canon (walkFrom u die asid va tbl z0).1 := by
  induction z0 generalizing u die asid va tbl with
  | nil =>
    unfold walkFrom
    (try dsimp only)
    repeat' split
    all_goals repeat' first | (with_reducible first | exact h | assumption | refine coherentRead_canon ?_ _ _ | refine pair_canon (coherentRead_canon ?_ _ _) (by assumption) | refine mapP_canon ?_ ?_ | intro _ _) | split
  | cons x_ t_ ih =>
    unfold walkFrom
    (try dsimp only)
    repeat' split
    all_goals repeat' first | (with_reducible first | exact h | assumption | refine coherentRead_canon ?_ _ _ | refine pair_canon (coherentRead_canon ?_ _ _) (by assumption) | refine mapP_canon ?_ ?_ | intro _ _ | refine ih ?_ _ _ _ _ | refine pair_canon (ih ?_ _ _ _ _) (by assumption)) | split

theorem walk_canon {u : State} (h : Canon u) (die asid va : Nat) : Canon (walk u die asid va).1 := by
  unfold walk
  (try dsimp only)
  repeat' split
  all_goals repeat' first | (with_reducible first | exact h | assumption | refine walkFrom_canon ?_ _ _ _ _ _ | refine pair_canon (walkFrom_canon ?_ _ _ _ _ _) (by assumption) | refine modSys_canon ?_ _ ?_ | exact fun w => w | exact fun w => Memory.wf_set _ _ _ w | exact fun w => Memory.wf_memWrite _ _ _ w | exact fun w => Memory.wf_memMask _ _ _ _ _ w | exact fun w => Memory.wf_memMerge _ _ _ _ _ w | exact fun w => Memory.wf_memKeep _ _ w) | split

theorem tlbInstall_canon {u : State} (h : Canon u) (t : TlbEntry) : Canon (tlbInstall u t) := by
  unfold tlbInstall
  (try dsimp only)
  repeat' split
  all_goals repeat' first | (with_reducible first | exact h | assumption | refine modSys_canon ?_ _ ?_ | exact fun w => w | exact fun w => Memory.wf_set _ _ _ w | exact fun w => Memory.wf_memWrite _ _ _ w | exact fun w => Memory.wf_memMask _ _ _ _ _ w | exact fun w => Memory.wf_memMerge _ _ _ _ _ w | exact fun w => Memory.wf_memKeep _ _ w) | split

theorem findLeaf_canon {u : State} (h : Canon u) (unit die asid va : Nat) : Canon (findLeaf u unit die asid va).1 := by
  unfold findLeaf
  (try dsimp only)
  repeat' split
  all_goals repeat' first | (with_reducible first | exact h | assumption | refine walk_canon ?_ _ _ _ | refine pair_canon (walk_canon ?_ _ _ _) (by assumption) | refine tlbInstall_canon ?_ _) | split

theorem translate_canon {u : State} (h : Canon u) (unit die asid : Nat) (va : Nat) (write : Bool) : Canon (translate u unit die asid va write).1 := by
  unfold translate
  (try dsimp only)
  repeat' split
  all_goals repeat' first | (with_reducible first | exact h | assumption | refine findLeaf_canon ?_ _ _ _ _ | refine pair_canon (findLeaf_canon ?_ _ _ _ _) (by assumption)) | split

theorem seqTranslate_canon {u : State} (h : Canon u) (c va : Nat) (write : Bool) : Canon (seqTranslate u c va write).1 := by
  unfold seqTranslate
  (try dsimp only)
  repeat' split
  all_goals repeat' first | (with_reducible first | exact h | assumption | refine translate_canon ?_ _ _ _ _ _ | refine pair_canon (translate_canon ?_ _ _ _ _ _) (by assumption)) | split

theorem loaderTranslate_canon {u : State} (h : Canon u) (c va : Nat) (write : Bool) : Canon (loaderTranslate u c va write).1 := by
  unfold loaderTranslate
  (try dsimp only)
  repeat' split
  all_goals repeat' first | (with_reducible first | exact h | assumption | refine translate_canon ?_ _ _ _ _ _ | refine pair_canon (translate_canon ?_ _ _ _ _ _) (by assumption)) | split

theorem dieTranslate_canon {u : State} (h : Canon u) (die asid va : Nat) (write : Bool) : Canon (dieTranslate u die asid va write).1 := by
  unfold dieTranslate
  (try dsimp only)
  repeat' split
  all_goals repeat' first | (with_reducible first | exact h | assumption | refine translate_canon ?_ _ _ _ _ _ | refine pair_canon (translate_canon ?_ _ _ _ _ _) (by assumption)) | split

theorem deliverPosted_canon {u : State} (h : Canon u) : Canon (deliverPosted u) := deliverPosted_memory_wf u h

theorem postBytes_canon {u : State} (h : Canon u) (pa : Nat) (bs : List Byte) : Canon (postBytes u pa bs) := by
  unfold postBytes
  (try dsimp only)
  repeat' split
  all_goals repeat' first | (with_reducible first | exact h | assumption | refine modSys_canon ?_ _ ?_ | refine mapP_canon ?_ ?_ | intro _ _ | exact fun w => w | exact fun w => Memory.wf_set _ _ _ w | exact fun w => Memory.wf_memWrite _ _ _ w | exact fun w => Memory.wf_memMask _ _ _ _ _ w | exact fun w => Memory.wf_memMerge _ _ _ _ _ w | exact fun w => Memory.wf_memKeep _ _ w) | split

theorem queueError_canon {u : State} (h : Canon u) (q code : Nat) : Canon (queueError u q code) := by
  unfold queueError
  (try dsimp only)
  repeat' split
  all_goals repeat' first | (with_reducible first | exact h | assumption | refine setQueue_canon ?_ _ _) | split

theorem postEvent_canon {u : State} (h : Canon u) (q : Nat) : Canon (postEvent u q) := by
  unfold postEvent
  (try dsimp only)
  repeat' split
  all_goals repeat' first | (with_reducible first | exact h | assumption | refine setQueue_canon ?_ _ _ | refine modPav_canon ?_ _) | split

theorem doorbell_canon {u : State} (h : Canon u) (q w : Nat) : Canon (doorbell u q w) := by
  unfold doorbell
  (try dsimp only)
  repeat' split
  all_goals repeat' first | (with_reducible first | exact h | assumption | refine setQueue_canon ?_ _ _ | refine queueError_canon ?_ _ _ | refine postEvent_canon ?_ _) | split

theorem ringBell_canon {u : State} (h : Canon u) (q w : Nat) : Canon (ringBell u q w) := by
  unfold ringBell
  (try dsimp only)
  repeat' split
  all_goals repeat' first | (with_reducible first | exact h | assumption | refine settle_canon ?_ | refine doorbell_canon ?_ _ _ | refine modPav_canon ?_ _) | split

theorem singleRead_canon {u : State} (h : Canon u) (x : Xl) (n : Nat) : Canon (singleRead u x n).1 := by
  unfold singleRead
  (try dsimp only)
  repeat' split
  all_goals repeat' first | (with_reducible first | exact h | assumption | refine touchPinned_canon ?_ _ | refine deliverPosted_canon ?_ | refine mapP_canon ?_ ?_ | intro _ _) | split

theorem singleWrite_canon {u : State} (h : Canon u) (pa : Nat) (data : Dword) (mask : Byte) (home : BitVec 2) : Canon (singleWrite u pa data mask home) := by
  unfold singleWrite
  (try dsimp only)
  repeat' split
  all_goals repeat' first | (with_reducible first | exact h | assumption | refine touchPinned_canon ?_ _ | refine ringBell_canon ?_ _ _ | refine modSys_canon ?_ _ ?_ | exact fun w => w | exact fun w => Memory.wf_set _ _ _ w | exact fun w => Memory.wf_memWrite _ _ _ w | exact fun w => Memory.wf_memMask _ _ _ _ _ w | exact fun w => Memory.wf_memMerge _ _ _ _ _ w | exact fun w => Memory.wf_memKeep _ _ w) | split

theorem postLine_canon {u : State} (h : Canon u) (pa : Nat) (d : LineData) (m : LineMask) : Canon (postLine u pa d m) := by
  unfold postLine
  (try dsimp only)
  repeat' split
  all_goals repeat' first | (with_reducible first | exact h | assumption | refine modSys_canon ?_ _ ?_ | exact fun w => w | exact fun w => Memory.wf_set _ _ _ w | exact fun w => Memory.wf_memWrite _ _ _ w | exact fun w => Memory.wf_memMask _ _ _ _ _ w | exact fun w => Memory.wf_memMerge _ _ _ _ _ w | exact fun w => Memory.wf_memKeep _ _ w) | split

theorem singleLine_canon {u : State} (h : Canon u) (x : Xl) (d : LineData) (m : LineMask) : Canon (singleLine u x d m) := by
  unfold singleLine
  (try dsimp only)
  repeat' split
  all_goals repeat' first | (with_reducible first | exact h | assumption | refine homeMerge_canon ?_ _ _ _ | refine touchPinned_canon ?_ _ | refine postLine_canon ?_ _ _ _) | split

theorem setL1_canon {u : State} (h : Canon u) (c : Nat) (l : List CLine) : Canon (setL1 u c l) := by
  unfold setL1
  (try dsimp only)
  repeat' split
  all_goals repeat' first | (with_reducible first | exact h | assumption | refine modMem_canon ?_ _ _) | split

theorem evictL1_canon {u : State} (h : Canon u) (c line : Nat) : Canon (evictL1 u c line) := by
  unfold evictL1
  (try dsimp only)
  repeat' split
  all_goals repeat' first | (with_reducible first | exact h | assumption | refine wayWrite_canon ?_ _ _ _ _ _ | refine setL1_canon ?_ _ _) | split

theorem putL1_canon {u : State} (h : Canon u) (c : Nat) (x : CLine) : Canon (putL1 u c x) := by
  unfold putL1
  (try dsimp only)
  repeat' split
  all_goals repeat' first | (with_reducible first | exact h | assumption | refine setL1_canon ?_ _ _ | refine evictL1_canon ?_ _ _) | split

theorem l1Read_canon {u : State} (h : Canon u) (c line : Nat) (nc : Bool) : Canon (l1Read u c line nc).1 := by
  unfold l1Read
  (try dsimp only)
  repeat' split
  all_goals repeat' first | (with_reducible first | exact h | assumption | refine wayRead_canon ?_ _ _ _ | refine pair_canon (wayRead_canon ?_ _ _ _) (by assumption) | refine setL1_canon ?_ _ _ | refine putL1_canon ?_ _ _) | split

theorem l1Write_canon {u : State} (h : Canon u) (c line : Nat) (data : LineData) (mask : LineMask) (nc : Bool) : Canon (l1Write u c line data mask nc) := by
  unfold l1Write
  (try dsimp only)
  repeat' split
  all_goals repeat' first | (with_reducible first | exact h | assumption | refine putL1_canon ?_ _ _ | refine l1Read_canon ?_ _ _ _ | refine pair_canon (l1Read_canon ?_ _ _ _) (by assumption)) | split

theorem cleanL1_canon {u : State} (h : Canon u) (c : Nat) (x : CLine) : Canon (cleanL1 u c x) := by
  unfold cleanL1
  (try dsimp only)
  repeat' split
  all_goals repeat' first | (with_reducible first | exact h | assumption | refine wayWrite_canon ?_ _ _ _ _ _ | refine setL1_canon ?_ _ _ | refine mapP_canon ?_ ?_ | intro _ _) | split

theorem cleanL1All_canon {u : State} (h : Canon u) (c : Nat) : Canon (cleanL1All u c) := by
  unfold cleanL1All
  (try dsimp only)
  repeat' split
  all_goals repeat' first | (with_reducible first | exact h | assumption | refine cleanL1_canon ?_ _ _ | refine foldl_canon ?_ _ _ ?_ | refine foldlP_canon ?_ _ _ ?_ | intro _ _ _) | split

theorem dropCleanL1_canon {u : State} (h : Canon u) (c : Nat) : Canon (dropCleanL1 u c) := by
  unfold dropCleanL1
  (try dsimp only)
  repeat' split
  all_goals repeat' first | (with_reducible first | exact h | assumption | refine setL1_canon ?_ _ _) | split

theorem cleanL1Line_canon {u : State} (h : Canon u) (c line : Nat) : Canon (cleanL1Line u c line) := by
  unfold cleanL1Line
  (try dsimp only)
  repeat' split
  all_goals repeat' first | (with_reducible first | exact h | assumption | refine cleanL1_canon ?_ _ _) | split

theorem cleanWayLine_canon {u : State} (h : Canon u) (g : Nat) (toHome : Bool) (line : Nat) : Canon (cleanWayLine u g toHome line) := by
  unfold cleanWayLine
  (try dsimp only)
  repeat' split
  all_goals repeat' first | (with_reducible first | exact h | assumption | refine cleanWay_canon ?_ _ _ _) | split

theorem landStore_canon {u : State} (h : Canon u) (c : Nat) (e : StoreEnt) : Canon (landStore u c e) := by
  unfold landStore
  (try dsimp only)
  repeat' split
  all_goals repeat' first | (with_reducible first | exact h | assumption | refine singleWrite_canon ?_ _ _ _ _ | refine l1Write_canon ?_ _ _ _ _ _) | split

theorem drainSb_canon {u : State} (h : Canon u) (c : Nat) : Canon (drainSb u c) := by
  unfold drainSb
  (try dsimp only)
  repeat' split
  all_goals repeat' first | (with_reducible first | exact h | assumption | refine landStore_canon ?_ _ _ | refine modMem_canon ?_ _ _ | refine foldl_canon ?_ _ _ ?_ | refine foldlP_canon ?_ _ _ ?_ | intro _ _ _) | split

theorem drainSome_canon {u : State} (h : Canon u) (c : Nat) (f : StoreEnt → Bool) : Canon (drainSome u c f) := by
  unfold drainSome
  (try dsimp only)
  repeat' split
  all_goals repeat' first | (with_reducible first | exact h | assumption | refine landStore_canon ?_ _ _ | refine modMem_canon ?_ _ _ | refine foldl_canon ?_ _ _ ?_ | refine foldlP_canon ?_ _ _ ?_ | intro _ _ _) | split

theorem drainSbLine_canon {u : State} (h : Canon u) (c line : Nat) : Canon (drainSbLine u c line) := by
  unfold drainSbLine
  (try dsimp only)
  repeat' split
  all_goals repeat' first | (with_reducible first | exact h | assumption | refine drainSome_canon ?_ _ _) | split

theorem writeBacks_canon {u : State} (h : Canon u) (c sc : Nat) : Canon (writeBacks u c sc) := by
  unfold writeBacks
  (try dsimp only)
  repeat' split
  all_goals repeat' first | (with_reducible first | exact h | assumption | refine ncWriteBack_canon ?_ _ | refine cleanWays_canon ?_ _ _ | refine deliverPosted_canon ?_ | refine cleanL1All_canon ?_ _) | split

theorem releaseActs_canon {u : State} (h : Canon u) (c sc : Nat) : Canon (releaseActs u c sc) := by
  unfold releaseActs
  (try dsimp only)
  repeat' split
  all_goals repeat' first | (with_reducible first | exact h | assumption | refine drainSb_canon ?_ _ | refine writeBacks_canon ?_ _ _) | split

theorem releaseOlder_canon {u : State} (h : Canon u) (c sc seq : Nat) : Canon (releaseOlder u c sc seq) := by
  unfold releaseOlder
  (try dsimp only)
  repeat' split
  all_goals repeat' first | (with_reducible first | exact h | assumption | refine drainSome_canon ?_ _ _ | refine writeBacks_canon ?_ _ _) | split

theorem acquireActs_canon {u : State} (h : Canon u) (c sc : Nat) : Canon (acquireActs u c sc) := by
  unfold acquireActs
  (try dsimp only)
  repeat' split
  all_goals repeat' first | (with_reducible first | exact h | assumption | refine ncDrop_canon ?_ _ | refine dropCleanWays_canon ?_ _ | refine dropCleanL1_canon ?_ _) | split

theorem writeOwnLine_canon {u : State} (h : Canon u) (c line : Nat) : Canon (writeOwnLine u c line) := by
  unfold writeOwnLine
  (try dsimp only)
  repeat' split
  all_goals repeat' first | (with_reducible first | exact h | assumption | refine ncFlush_canon ?_ _ _ | refine setWays_canon ?_ _ _ | refine setL1_canon ?_ _ _ | refine cleanL1Line_canon ?_ _ _ | refine cleanWayLine_canon ?_ _ _ _ | refine drainSbLine_canon ?_ _ _) | split

theorem unitDraw_canon {u : State} (h : Canon u) (pa : Nat) : Canon (unitDraw u pa).1 := by
  unfold unitDraw
  (try dsimp only)
  repeat' split
  all_goals repeat' first | (with_reducible first | exact h | assumption | refine modSys_canon ?_ _ ?_ | exact fun w => w | exact fun w => Memory.wf_set _ _ _ w | exact fun w => Memory.wf_memWrite _ _ _ w | exact fun w => Memory.wf_memMask _ _ _ _ _ w | exact fun w => Memory.wf_memMerge _ _ _ _ _ w | exact fun w => Memory.wf_memKeep _ _ w) | split

theorem claimLine_canon {u : State} (h : Canon u) (x : Xl) : Canon (claimLine u x) := by
  unfold claimLine
  (try dsimp only)
  repeat' split
  all_goals repeat' first | (with_reducible first | exact h | assumption | refine homeWrite_canon ?_ _ _ _ | refine touchPinned_canon ?_ _) | split

theorem atomicDraw_canon {u : State} (h : Canon u) (pa fn : Nat) (sr : Bool) : Canon (atomicDraw u pa fn sr).1 := by
  unfold atomicDraw
  (try dsimp only)
  repeat' split
  all_goals repeat' first | (with_reducible first | exact h | assumption | refine unitDraw_canon ?_ _ | refine pair_canon (unitDraw_canon ?_ _) (by assumption)) | split

theorem atomicAt_canon {u : State} (h : Canon u) (x : Xl) (fn n v e : Nat) (sr : Bool) : Canon (atomicAt u x fn n v e sr).1 := by
  unfold atomicAt
  (try dsimp only)
  repeat' split
  all_goals repeat' first | (with_reducible first | exact h | assumption | refine claimLine_canon ?_ _ | refine atomicDraw_canon ?_ _ _ _ | refine pair_canon (atomicDraw_canon ?_ _ _ _) (by assumption) | refine modSys_canon ?_ _ ?_ | exact fun w => w | exact fun w => Memory.wf_set _ _ _ w | exact fun w => Memory.wf_memWrite _ _ _ w | exact fun w => Memory.wf_memMask _ _ _ _ _ w | exact fun w => Memory.wf_memMerge _ _ _ _ _ w | exact fun w => Memory.wf_memKeep _ _ w) | split

theorem acquireIf_canon {u : State} (h : Canon u) (c sc : Nat) : Canon (acquireIf u c sc) := by
  unfold acquireIf
  (try dsimp only)
  repeat' split
  all_goals repeat' first | (with_reducible first | exact h | assumption | refine acquireActs_canon ?_ _ _) | split

theorem releaseIf_canon {u : State} (h : Canon u) (c sc seq : Nat) : Canon (releaseIf u c sc seq) := by
  unfold releaseIf
  (try dsimp only)
  repeat' split
  all_goals repeat' first | (with_reducible first | exact h | assumption | refine releaseOlder_canon ?_ _ _ _) | split

theorem deviceLine_canon {u : State} (h : Canon u) (die line : Nat) (nc : Bool) : Canon (deviceLine u die line nc).1 := by
  unfold deviceLine
  (try dsimp only)
  repeat' split
  all_goals repeat' first | (with_reducible first | exact h | assumption | refine sendMsg_canon ?_ _ | refine settle_canon ?_ | refine sliceRead_canon ?_ _ _ | refine pair_canon (sliceRead_canon ?_ _ _) (by assumption)) | split

theorem scopedRead_canon {u : State} (h : Canon u) (c line sc : Nat) (nc : Bool) : Canon (scopedRead u c line sc nc).1 := by
  unfold scopedRead
  (try dsimp only)
  repeat' split
  all_goals repeat' first | (with_reducible first | exact h | assumption | refine dieRead_canon ?_ _ _ _ | refine pair_canon (dieRead_canon ?_ _ _ _) (by assumption) | refine wayRead_canon ?_ _ _ _ | refine pair_canon (wayRead_canon ?_ _ _ _) (by assumption) | refine cleanWayLine_canon ?_ _ _ _ | refine writeOwnLine_canon ?_ _ _ | refine deviceLine_canon ?_ _ _ _ | refine pair_canon (deviceLine_canon ?_ _ _ _) (by assumption)) | split

theorem loadBytes_canon {u : State} (h : Canon u) (c : Nat) (x : Xl) (n sc seq : Nat) : Canon (loadBytes u c x n sc seq).1 := by
  unfold loadBytes
  (try dsimp only)
  repeat' split
  all_goals repeat' first | (with_reducible first | exact h | assumption | refine singleRead_canon ?_ _ _ | refine pair_canon (singleRead_canon ?_ _ _) (by assumption) | refine l1Read_canon ?_ _ _ _ | refine pair_canon (l1Read_canon ?_ _ _ _) (by assumption) | refine cleanL1Line_canon ?_ _ _ | refine drainSbLine_canon ?_ _ _ | refine acquireActs_canon ?_ _ _ | refine acquireIf_canon ?_ _ _ | refine scopedRead_canon ?_ _ _ _ _ | refine pair_canon (scopedRead_canon ?_ _ _ _ _) (by assumption)) | split

theorem patchL1_canon {u : State} (h : Canon u) (c line : Nat) (d : LineData) (m : LineMask) : Canon (patchL1 u c line d m) := by
  unfold patchL1
  (try dsimp only)
  repeat' split
  all_goals repeat' first | (with_reducible first | exact h | assumption | refine setL1_canon ?_ _ _ | refine mapP_canon ?_ ?_ | intro _ _) | split

theorem patchWays_canon {u : State} (h : Canon u) (g line : Nat) (d : LineData) (m : LineMask) : Canon (patchWays u g line d m) := by
  unfold patchWays
  (try dsimp only)
  repeat' split
  all_goals repeat' first | (with_reducible first | exact h | assumption | refine setWays_canon ?_ _ _ | refine mapP_canon ?_ ?_ | intro _ _) | split

theorem patchL2_canon {u : State} (h : Canon u) (die line : Nat) (d : LineData) (m : LineMask) : Canon (patchL2 u die line d m) := by
  unfold patchL2
  (try dsimp only)
  repeat' split
  all_goals repeat' first | (with_reducible first | exact h | assumption | refine l2Put_canon ?_ _ _) | split

theorem scopedWrite_canon {u : State} (h : Canon u) (c line sc : Nat) (d : LineData) (m : LineMask) (nc : Bool) : Canon (scopedWrite u c line sc d m nc) := by
  unfold scopedWrite
  (try dsimp only)
  repeat' split
  all_goals repeat' first | (with_reducible first | exact h | assumption | refine sliceWrite_canon ?_ _ _ _ _ | refine dieWrite_canon ?_ _ _ _ _ _ | refine wayWrite_canon ?_ _ _ _ _ _ | refine patchL1_canon ?_ _ _ _ _ | refine patchWays_canon ?_ _ _ _ _ | refine patchL2_canon ?_ _ _ _ _) | split

theorem storeScoped_canon {u : State} (h : Canon u) (c : Nat) (w : PendStore) : Canon (storeScoped u c w) := by
  unfold storeScoped
  (try dsimp only)
  repeat' split
  all_goals repeat' first | (with_reducible first | exact h | assumption | refine singleWrite_canon ?_ _ _ _ _ | refine scopedWrite_canon ?_ _ _ _ _ _ _) | split

theorem performAcc_canon {u : State} (h : Canon u) (c : Nat) (x : PendAcc) : Canon (performAcc u c x) := by
  cases x with
  | load l => exact writeG_canon (loadBytes_canon h _ _ _ _ _) _ _ _
  | amo a =>
    have k : Canon (acquireIf (atomicAt (if a.home = 0 then writeOwnLine (releaseIf u c a.sc a.seq) c (a.pa / 128) else drainSbLine (releaseIf u c a.sc a.seq) c (a.pa / 128)) ⟨a.pa, a.home, a.nc⟩ a.fn a.n a.v a.e a.sr).1 c a.sc) := by
      refine acquireIf_canon (atomicAt_canon ?_ _ _ _ _ _ _) _ _
      split
      · exact writeOwnLine_canon (releaseIf_canon h _ _ _) _ _
      · exact drainSbLine_canon (releaseIf_canon h _ _ _) _ _
    unfold performAcc
    dsimp only
    split
    · exact writeG_canon k _ _ _
    · exact k
  | store w => exact storeScoped_canon (releaseIf_canon h _ _ _) _ _
  | release r =>
    unfold performAcc
    dsimp only
    split
    · exact releaseIf_canon h _ _ _
    · exact modSys_canon (releaseIf_canon h _ _ _) _ id

theorem performAll_canon {u : State} (h : Canon u) (c : Nat) (z0 : List PendAcc) : Canon (performAll u c z0) := by
  induction z0 generalizing u c with
  | nil =>
    unfold performAll
    (try dsimp only)
    repeat' split
    all_goals repeat' first | (with_reducible first | exact h | assumption | refine performAcc_canon ?_ _ _ | refine modMem_canon ?_ _ _) | split
  | cons x_ t_ ih =>
    unfold performAll
    (try dsimp only)
    repeat' split
    all_goals repeat' first | (with_reducible first | exact h | assumption | refine performAcc_canon ?_ _ _ | refine modMem_canon ?_ _ _ | refine ih ?_ _) | split

theorem quiesce_canon {u : State} (h : Canon u) (c : Nat) : Canon (quiesce u c) := by
  unfold quiesce
  (try dsimp only)
  repeat' split
  all_goals repeat' first | (with_reducible first | exact h | assumption | refine performAll_canon ?_ _ _) | split

theorem performAt_canon {u : State} (h : Canon u) (c i : Nat) : Canon (performAt u c i) := by
  unfold performAt
  (try dsimp only)
  repeat' split
  all_goals repeat' first | (with_reducible first | exact h | assumption | refine performAcc_canon ?_ _ _ | refine modMem_canon ?_ _ _) | split

theorem beforeAccess_canon {u : State} (h : Canon u) (c line : Nat) : Canon (beforeAccess u c line) := by
  unfold beforeAccess
  (try dsimp only)
  repeat' split
  all_goals repeat' first | (with_reducible first | exact h | assumption | refine quiesce_canon ?_ _) | split

theorem afterAcquires_canon {u : State} (h : Canon u) (c : Nat) : Canon (afterAcquires u c) := by
  unfold afterAcquires
  (try dsimp only)
  repeat' split
  all_goals repeat' first | (with_reducible first | exact h | assumption | refine quiesce_canon ?_ _) | split

theorem release_canon {u : State} (h : Canon u) (c sc : Nat) : Canon (release u c sc) := by
  unfold release
  (try dsimp only)
  repeat' split
  all_goals repeat' first | (with_reducible first | exact h | assumption | refine releaseActs_canon ?_ _ _ | refine quiesce_canon ?_ _) | split

theorem acquire_canon {u : State} (h : Canon u) (c sc : Nat) : Canon (acquire u c sc) := by
  unfold acquire
  (try dsimp only)
  repeat' split
  all_goals repeat' first | (with_reducible first | exact h | assumption | refine acquireActs_canon ?_ _ _ | refine quiesce_canon ?_ _) | split

theorem fenceActs_canon {u : State} (h : Canon u) (c sc : Nat) : Canon (fenceActs u c sc) := by
  unfold fenceActs
  (try dsimp only)
  repeat' split
  all_goals repeat' first | (with_reducible first | exact h | assumption | refine release_canon ?_ _ _ | refine acquire_canon ?_ _ _) | split

theorem drainEntry_canon {u : State} (h : Canon u) (c i : Nat) : Canon (drainEntry u c i) := by
  unfold drainEntry
  (try dsimp only)
  repeat' split
  all_goals repeat' first | (with_reducible first | exact h | assumption | refine landStore_canon ?_ _ _ | refine quiesce_canon ?_ _ | refine modMem_canon ?_ _ _) | split

theorem drainOldest_canon {u : State} (h : Canon u) (c : Nat) : Canon (drainOldest u c) := by
  unfold drainOldest
  (try dsimp only)
  repeat' split
  all_goals repeat' first | (with_reducible first | exact h | assumption | refine drainEntry_canon ?_ _ _) | split

theorem drainLater_canon {u : State} (h : Canon u) (c i : Nat) : Canon (drainLater u c i) := by
  unfold drainLater
  (try dsimp only)
  repeat' split
  all_goals repeat' first | (with_reducible first | exact h | assumption | refine drainEntry_canon ?_ _ _) | split

theorem bufferStore_canon {u : State} (h : Canon u) (c : Nat) (e : StoreEnt) : Canon (bufferStore u c e) := by
  unfold bufferStore
  (try dsimp only)
  repeat' split
  all_goals repeat' first | (with_reducible first | exact h | assumption | refine drainOldest_canon ?_ _ | refine modMem_canon ?_ _ _) | split

theorem storeBytes_canon {u : State} (h : Canon u) (c : Nat) (x : Xl) (bs : List Byte) (sc : Nat) : Canon (storeBytes u c x bs sc) := by
  unfold storeBytes
  (try dsimp only)
  repeat' split
  all_goals repeat' first | (with_reducible first | exact h | assumption | refine beforeAccess_canon ?_ _ _ | refine bufferStore_canon ?_ _ _ | refine modMem_canon ?_ _ _) | split

theorem issueLoad_canon {u : State} (h : Canon u) (c : Nat) (x : Xl) (n sc : Nat) (signed : Bool) (reg : Nat) : Canon (issueLoad u c x n sc signed reg) := by
  unfold issueLoad
  (try dsimp only)
  repeat' split
  all_goals repeat' first | (with_reducible first | exact h | assumption | refine beforeAccess_canon ?_ _ _ | refine modMem_canon ?_ _ _) | split

theorem issueAmo_canon {u : State} (h : Canon u) (c : Nat) (x : Xl) (fn n v e sc : Nat) (ret sr : Bool) (reg : Nat) : Canon (issueAmo u c x fn n v e sc ret sr reg) := by
  unfold issueAmo
  (try dsimp only)
  repeat' split
  all_goals repeat' first | (with_reducible first | exact h | assumption | refine beforeAccess_canon ?_ _ _ | refine modMem_canon ?_ _ _) | split

theorem issueRelease_canon {u : State} (h : Canon u) (c sc : Nat) (p : Option Post) : Canon (issueRelease u c sc p) := by
  unfold issueRelease
  (try dsimp only)
  repeat' split
  all_goals repeat' first | (with_reducible first | exact h | assumption | refine modMem_canon ?_ _ _) | split

theorem dieWriteBack_canon {u : State} (h : Canon u) (die line : Nat) : Canon (dieWriteBack u die line) := by
  unfold dieWriteBack
  (try dsimp only)
  repeat' split
  all_goals repeat' first | (with_reducible first | exact h | assumption | refine homeMerge_canon ?_ _ _ _ | refine l2Put_canon ?_ _ _ | refine dieEvict_canon ?_ _ _) | split

theorem cacheClean_canon {u : State} (h : Canon u) (c sc line : Nat) : Canon (cacheClean u c sc line) := by
  unfold cacheClean
  (try dsimp only)
  repeat' split
  all_goals repeat' first | (with_reducible first | exact h | assumption | refine cleanL1Line_canon ?_ _ _ | refine cleanWayLine_canon ?_ _ _ _ | refine dieWriteBack_canon ?_ _ _) | split

theorem dieDropClean_canon {u : State} (h : Canon u) (die line : Nat) : Canon (dieDropClean u die line) := by
  unfold dieDropClean
  (try dsimp only)
  repeat' split
  all_goals repeat' first | (with_reducible first | exact h | assumption | refine l2Put_canon ?_ _ _ | refine dieEvict_canon ?_ _ _) | split

theorem cacheDrop_canon {u : State} (h : Canon u) (c sc line : Nat) : Canon (cacheDrop u c sc line) := by
  unfold cacheDrop
  (try dsimp only)
  repeat' split
  all_goals repeat' first | (with_reducible first | exact h | assumption | refine setWays_canon ?_ _ _ | refine setL1_canon ?_ _ _ | refine dieDropClean_canon ?_ _ _) | split

theorem cacheEvict_canon {u : State} (h : Canon u) (c sc line : Nat) : Canon (cacheEvict u c sc line) := by
  unfold cacheEvict
  (try dsimp only)
  repeat' split
  all_goals repeat' first | (with_reducible first | exact h | assumption | refine dieEvict_canon ?_ _ _ | refine evictWay_canon ?_ _ _ | refine evictL1_canon ?_ _ _) | split

theorem cacheAfter_canon {u : State} (h : Canon u) (c line : Nat) : Canon (cacheAfter u c line) := by
  unfold cacheAfter
  (try dsimp only)
  repeat' split
  all_goals repeat' first | (with_reducible first | exact h | assumption | refine drainSome_canon ?_ _ _ | refine drainSbLine_canon ?_ _ _ | refine quiesce_canon ?_ _) | split

theorem cacheOp_canon {u : State} (h : Canon u) (c op sc line : Nat) : Canon (cacheOp u c op sc line) := by
  unfold cacheOp
  (try dsimp only)
  repeat' split
  all_goals repeat' first | (with_reducible first | exact h | assumption | refine beforeAccess_canon ?_ _ _ | refine cacheClean_canon ?_ _ _ _ | refine cacheDrop_canon ?_ _ _ _ | refine cacheEvict_canon ?_ _ _ _ | refine cacheAfter_canon ?_ _ _) | split

theorem cacheSingle_canon {u : State} (h : Canon u) (c op line : Nat) : Canon (cacheSingle u c op line) := by
  unfold cacheSingle
  (try dsimp only)
  repeat' split
  all_goals repeat' first | (with_reducible first | exact h | assumption | refine beforeAccess_canon ?_ _ _ | refine cacheAfter_canon ?_ _ _) | split

theorem clusterRead_canon {u : State} (h : Canon u) (c : Nat) (x : Xl) (n : Nat) : Canon (clusterRead u c x n).1 := by
  unfold clusterRead
  (try dsimp only)
  repeat' split
  all_goals repeat' first | (with_reducible first | exact h | assumption | refine wayRead_canon ?_ _ _ _ | refine pair_canon (wayRead_canon ?_ _ _ _) (by assumption) | refine singleRead_canon ?_ _ _ | refine pair_canon (singleRead_canon ?_ _ _) (by assumption)) | split

theorem clusterWrite_canon {u : State} (h : Canon u) (c : Nat) (x : Xl) (d : LineData) (m : LineMask) : Canon (clusterWrite u c x d m) := by
  unfold clusterWrite
  (try dsimp only)
  repeat' split
  all_goals repeat' first | (with_reducible first | exact h | assumption | refine wayWrite_canon ?_ _ _ _ _ _ | refine singleLine_canon ?_ _ _ _) | split

theorem deviceWrite_canon {u : State} (h : Canon u) (x : Xl) (bs : List Byte) : Canon (deviceWrite u x bs) := by
  unfold deviceWrite
  (try dsimp only)
  repeat' split
  all_goals repeat' first | (with_reducible first | exact h | assumption | refine sliceWrite_canon ?_ _ _ _ _ | refine touchPinned_canon ?_ _ | refine postBytes_canon ?_ _ _ | refine modSys_canon ?_ _ ?_ | exact fun w => w | exact fun w => Memory.wf_set _ _ _ w | exact fun w => Memory.wf_memWrite _ _ _ w | exact fun w => Memory.wf_memMask _ _ _ _ _ w | exact fun w => Memory.wf_memMerge _ _ _ _ _ w | exact fun w => Memory.wf_memKeep _ _ w) | split

theorem agentRead_canon {u : State} (h : Canon u) (x : Xl) (n : Nat) : Canon (agentRead u x n).1 := by
  unfold agentRead
  (try dsimp only)
  repeat' split
  all_goals repeat' first | (with_reducible first | exact h | assumption | refine dieRead_canon ?_ _ _ _ | refine pair_canon (dieRead_canon ?_ _ _ _) (by assumption) | refine singleRead_canon ?_ _ _ | refine pair_canon (singleRead_canon ?_ _ _) (by assumption)) | split

theorem agentWrite_canon {u : State} (h : Canon u) (x : Xl) (bs : List Byte) : Canon (agentWrite u x bs) := by
  unfold agentWrite
  (try dsimp only)
  repeat' split
  all_goals repeat' first | (with_reducible first | exact h | assumption | refine homeMerge_canon ?_ _ _ _ | refine dieWrite_canon ?_ _ _ _ _ _ | refine deviceWrite_canon ?_ _ _) | split

theorem deviceRead_canon {u : State} (h : Canon u) (x : Xl) (n : Nat) : Canon (deviceRead u x n).1 := by
  unfold deviceRead
  (try dsimp only)
  repeat' split
  all_goals repeat' first | (with_reducible first | exact h | assumption | refine sliceRead_canon ?_ _ _ | refine pair_canon (sliceRead_canon ?_ _ _) (by assumption) | refine singleRead_canon ?_ _ _ | refine pair_canon (singleRead_canon ?_ _ _) (by assumption)) | split

theorem pavTranslate_canon {u : State} (h : Canon u) (asid va : Nat) (write : Bool) : Canon (pavTranslate u asid va write).1 := by
  unfold pavTranslate
  (try dsimp only)
  repeat' split
  all_goals repeat' first | (with_reducible first | exact h | assumption | refine dieTranslate_canon ?_ _ _ _ _ | refine pair_canon (dieTranslate_canon ?_ _ _ _ _) (by assumption)) | split

theorem mapCode_canon {u : State} (h : Canon u) (asid : Nat) (g : Gen) (q : Nat) : Canon (mapCode u asid g q).1 := by
  unfold mapCode
  (try dsimp only)
  repeat' split
  all_goals repeat' first | (with_reducible first | exact h | assumption | refine deviceRead_canon ?_ _ _ | refine pair_canon (deviceRead_canon ?_ _ _) (by assumption) | refine pavTranslate_canon ?_ _ _ _ | refine pair_canon (pavTranslate_canon ?_ _ _ _) (by assumption)) | split

theorem mapSet_canon {u : State} (h : Canon u) (asid : Nat) (g : Gen) (q code : Nat) : Canon (mapSet u asid g q code) := by
  unfold mapSet
  (try dsimp only)
  repeat' split
  all_goals repeat' first | (with_reducible first | exact h | assumption | refine claimLine_canon ?_ _ | refine pavTranslate_canon ?_ _ _ _ | refine pair_canon (pavTranslate_canon ?_ _ _ _) (by assumption) | refine modSys_canon ?_ _ ?_ | exact fun w => w | exact fun w => Memory.wf_set _ _ _ w | exact fun w => Memory.wf_memWrite _ _ _ w | exact fun w => Memory.wf_memMask _ _ _ _ _ w | exact fun w => Memory.wf_memMerge _ _ _ _ _ w | exact fun w => Memory.wf_memKeep _ _ w) | split

theorem modGen_canon {u : State} (h : Canon u) (t : Nat) (f : Gen → Gen) : Canon (modGen u t f) := by
  unfold modGen
  (try dsimp only)
  repeat' split
  all_goals repeat' first | (with_reducible first | exact h | assumption | refine modTeam_canon ?_ _ _ | refine mapP_canon ?_ ?_ | intro _ _) | split

theorem mapLost_canon {u : State} (h : Canon u) (t : Nat) : Canon (mapLost u t) := by
  unfold mapLost
  (try dsimp only)
  repeat' split
  all_goals repeat' first | (with_reducible first | exact h | assumption | refine modGen_canon ?_ _ _) | split

theorem moveClaimed_canon {u : State} (h : Canon u) (t code : Nat) (z0 : List Nat) : Canon (moveClaimed u t code z0) := by
  induction z0 generalizing u t code with
  | nil =>
    unfold moveClaimed
    (try dsimp only)
    repeat' split
    all_goals repeat' first | (with_reducible first | exact h | assumption | refine mapCode_canon ?_ _ _ _ | refine pair_canon (mapCode_canon ?_ _ _ _) (by assumption) | refine mapSet_canon ?_ _ _ _ _ | refine modGen_canon ?_ _ _ | refine mapLost_canon ?_ _) | split
  | cons x_ t_ ih =>
    unfold moveClaimed
    (try dsimp only)
    repeat' split
    all_goals repeat' first | (with_reducible first | exact h | assumption | refine mapCode_canon ?_ _ _ _ | refine pair_canon (mapCode_canon ?_ _ _ _) (by assumption) | refine mapSet_canon ?_ _ _ _ _ | refine modGen_canon ?_ _ _ | refine mapLost_canon ?_ _ | refine ih ?_ _ _) | split

theorem claimQuanta_canon {u : State} (h : Canon u) (t : Nat) (asid : Nat) (g : Gen) (qs : List Nat) : Canon (claimQuanta u t asid g qs) := by
  unfold claimQuanta
  (try dsimp only)
  repeat' split
  all_goals repeat' first | (with_reducible first | exact h | assumption | refine mapSet_canon ?_ _ _ _ _ | refine modGen_canon ?_ _ _ | refine foldl_canon ?_ _ _ ?_ | refine foldlP_canon ?_ _ _ ?_ | intro _ _ _) | split

theorem freeMask_canon {u : State} (h : Canon u) (asid : Nat) (g : Gen) (held : List Nat) (z0 : List (Nat × Nat)) : Canon (freeMask u asid g held z0).1 := by
  induction z0 generalizing u asid g held with
  | nil =>
    unfold freeMask
    (try dsimp only)
    repeat' split
    all_goals repeat' first | (with_reducible first | exact h | assumption | refine mapCode_canon ?_ _ _ _ | refine pair_canon (mapCode_canon ?_ _ _ _) (by assumption)) | split
  | cons x_ t_ ih =>
    unfold freeMask
    (try dsimp only)
    repeat' split
    all_goals repeat' first | (with_reducible first | exact h | assumption | refine mapCode_canon ?_ _ _ _ | refine pair_canon (mapCode_canon ?_ _ _ _) (by assumption) | refine ih ?_ _ _ _ | refine pair_canon (ih ?_ _ _ _) (by assumption)) | split

theorem findTile_canon {u : State} (h : Canon u) (asid : Nat) (g : Gen) (held : List Nat) (z0 : Nat) (z1 : Nat) : Canon (findTile u asid g held z0 z1).1 := by
  induction z0 generalizing u asid g held z1 with
  | zero =>
    unfold findTile
    (try dsimp only)
    repeat' split
    all_goals repeat' first | (with_reducible first | exact h | assumption | refine freeMask_canon ?_ _ _ _ _ | refine pair_canon (freeMask_canon ?_ _ _ _ _) (by assumption)) | split
  | succ n_ ih =>
    unfold findTile
    (try dsimp only)
    repeat' split
    all_goals repeat' first | (with_reducible first | exact h | assumption | refine freeMask_canon ?_ _ _ _ _ | refine pair_canon (freeMask_canon ?_ _ _ _ _) (by assumption) | refine ih ?_ _ _ _ _ | refine pair_canon (ih ?_ _ _ _ _) (by assumption)) | split

theorem answerRegs_canon {u : State} (h : Canon u) (t l : Nat) (rs : List (Nat × Dword)) : Canon (answerRegs u t l rs) := by
  unfold answerRegs
  (try dsimp only)
  repeat' split
  all_goals repeat' first | (with_reducible first | exact h | assumption | refine modContext_canon ?_ _ _ _ | refine foldl_canon ?_ _ _ ?_ | refine foldlP_canon ?_ _ _ ?_ | intro _ _ _ | refine getD_canon ?_ ?_) | split

theorem unlessLost_canon {u : State} (h : Canon u) (t : Nat) (f : Gen → Gen) : Canon (unlessLost u t f) := by
  unfold unlessLost
  (try dsimp only)
  repeat' split
  all_goals repeat' first | (with_reducible first | exact h | assumption | refine modGen_canon ?_ _ _) | split

theorem handBack_canon {u : State} (h : Canon u) (t l : Nat) : Canon (handBack u t l) := by
  unfold handBack
  (try dsimp only)
  repeat' split
  all_goals repeat' first | (with_reducible first | exact h | assumption | refine moveClaimed_canon ?_ _ _ _ | refine unlessLost_canon ?_ _ _) | split

theorem startTile_canon {u : State} (h : Canon u) (t l : Nat) (x : Tile) : Canon (startTile u t l x) := by
  unfold startTile
  (try dsimp only)
  repeat' split
  all_goals repeat' first | (with_reducible first | exact h | assumption | refine modGen_canon ?_ _ _ | refine answerRegs_canon ?_ _ _ _ | refine handBack_canon ?_ _ _) | split

theorem revertClaim_canon {u : State} (h : Canon u) (t l : Nat) : Canon (revertClaim u t l) := by
  unfold revertClaim
  (try dsimp only)
  repeat' split
  all_goals repeat' first | (with_reducible first | exact h | assumption | refine moveClaimed_canon ?_ _ _ _ | refine unlessLost_canon ?_ _ _) | split

theorem withdraw_canon {u : State} (h : Canon u) (t l : Nat) : Canon (withdraw u t l) := by
  unfold withdraw
  (try dsimp only)
  repeat' split
  all_goals repeat' first | (with_reducible first | exact h | assumption | refine modGen_canon ?_ _ _) | split

theorem serveReq_canon {u : State} (h : Canon u) (t : Nat) (r : GenReq) : Canon (serveReq u t r) := by
  unfold serveReq
  (try dsimp only)
  repeat' split
  all_goals repeat' first | (with_reducible first | exact h | assumption | refine modGen_canon ?_ _ _ | refine moveClaimed_canon ?_ _ _ _ | refine answerRegs_canon ?_ _ _ _ | refine handBack_canon ?_ _ _ | refine revertClaim_canon ?_ _ _) | split

theorem serveMarks_canon {u : State} (h : Canon u) (t : Nat) (f : Nat → Bool) : Canon (serveMarks u t f) := by
  unfold serveMarks
  (try dsimp only)
  repeat' split
  all_goals repeat' first | (with_reducible first | exact h | assumption | refine modGen_canon ?_ _ _ | refine serveReq_canon ?_ _ _ | refine foldl_canon ?_ _ _ ?_ | refine foldlP_canon ?_ _ _ ?_ | intro _ _ _) | split

theorem sendReq_canon {u : State} (h : Canon u) (t : Nat) (r : GenReq) : Canon (sendReq u t r) := by
  unfold sendReq
  (try dsimp only)
  repeat' split
  all_goals repeat' first | (with_reducible first | exact h | assumption | refine modGen_canon ?_ _ _) | split

theorem giveTile_canon {u : State} (h : Canon u) (t asid : Nat) (g : Gen) (l : Nat) (x : Tile) : Canon (giveTile u t asid g l x) := by
  unfold giveTile
  (try dsimp only)
  repeat' split
  all_goals repeat' first | (with_reducible first | exact h | assumption | refine claimQuanta_canon ?_ _ _ _ _ | refine startTile_canon ?_ _ _ _) | split

theorem giveRetries_canon {u : State} (h : Canon u) (t : Nat) (z0 : List (Nat × Tile × Bool)) : Canon (giveRetries u t z0) := by
  induction z0 generalizing u t with
  | nil =>
    unfold giveRetries
    (try dsimp only)
    repeat' split
    all_goals repeat' first | (with_reducible first | exact h | assumption | refine modGen_canon ?_ _ _ | refine mapLost_canon ?_ _ | refine freeMask_canon ?_ _ _ _ _ | refine pair_canon (freeMask_canon ?_ _ _ _ _) (by assumption) | refine giveTile_canon ?_ _ _ _ _ _) | split
  | cons x_ t_ ih =>
    unfold giveRetries
    (try dsimp only)
    repeat' split
    all_goals repeat' first | (with_reducible first | exact h | assumption | refine modGen_canon ?_ _ _ | refine mapLost_canon ?_ _ | refine freeMask_canon ?_ _ _ _ _ | refine pair_canon (freeMask_canon ?_ _ _ _ _) (by assumption) | refine giveTile_canon ?_ _ _ _ _ _ | refine ih ?_ _) | split

theorem giveOne_canon {u : State} (h : Canon u) (t l : Nat) : Canon (giveOne u t l) := by
  unfold giveOne
  (try dsimp only)
  repeat' split
  all_goals repeat' first | (with_reducible first | exact h | assumption | refine modGen_canon ?_ _ _ | refine mapLost_canon ?_ _ | refine findTile_canon ?_ _ _ _ _ _ | refine pair_canon (findTile_canon ?_ _ _ _ _ _) (by assumption) | refine answerRegs_canon ?_ _ _ _ | refine startTile_canon ?_ _ _ _ | refine giveTile_canon ?_ _ _ _ _ _) | split

theorem giveAll_canon {u : State} (h : Canon u) (z0 : Nat) (z2 : Nat) (z3 : Nat) : Canon (giveAll z0 u z2 z3) := by
  induction z0 generalizing u z2 z3 with
  | zero =>
    unfold giveAll
    (try dsimp only)
    repeat' split
    all_goals repeat' first | (with_reducible first | exact h | assumption | refine giveOne_canon ?_ _ _) | split
  | succ n_ ih =>
    unfold giveAll
    (try dsimp only)
    repeat' split
    all_goals repeat' first | (with_reducible first | exact h | assumption | refine giveOne_canon ?_ _ _ | refine ih ?_ _ _) | split

theorem giveTiles_canon {u : State} (h : Canon u) (t : Nat) (z0 : List Nat) : Canon (giveTiles u t z0) := by
  induction z0 generalizing u t with
  | nil =>
    unfold giveTiles
    (try dsimp only)
    repeat' split
    all_goals repeat' first | (with_reducible first | exact h | assumption | refine giveAll_canon ?_ _ _ _) | split
  | cons x_ t_ ih =>
    unfold giveTiles
    (try dsimp only)
    repeat' split
    all_goals repeat' first | (with_reducible first | exact h | assumption | refine giveAll_canon ?_ _ _ _ | refine ih ?_ _) | split

theorem claimTiles_canon {u : State} (h : Canon u) (t : Nat) (z0 : List Nat) : Canon (claimTiles u t z0) := by
  induction z0 generalizing u t with
  | nil =>
    unfold claimTiles
    (try dsimp only)
    repeat' split
    all_goals repeat' first | (with_reducible first | exact h | assumption | refine modGen_canon ?_ _ _ | refine mapLost_canon ?_ _ | refine claimQuanta_canon ?_ _ _ _ _ | refine findTile_canon ?_ _ _ _ _ _ | refine pair_canon (findTile_canon ?_ _ _ _ _ _) (by assumption)) | split
  | cons x_ t_ ih =>
    unfold claimTiles
    (try dsimp only)
    repeat' split
    all_goals repeat' first | (with_reducible first | exact h | assumption | refine modGen_canon ?_ _ _ | refine mapLost_canon ?_ _ | refine claimQuanta_canon ?_ _ _ _ _ | refine findTile_canon ?_ _ _ _ _ _ | refine pair_canon (findTile_canon ?_ _ _ _ _ _) (by assumption) | refine ih ?_ _) | split

theorem freeRetries_canon {u : State} (h : Canon u) (t : Nat) : Canon (freeRetries u t) := by
  unfold freeRetries
  (try dsimp only)
  repeat' split
  all_goals repeat' first | (with_reducible first | exact h | assumption | refine countLife_canon ?_ _ | refine mapCode_canon ?_ _ _ _ | refine pair_canon (mapCode_canon ?_ _ _ _) (by assumption) | refine modGen_canon ?_ _ _ | refine foldl_canon ?_ _ _ ?_ | refine foldlP_canon ?_ _ _ ?_ | intro _ _ _ | refine getD_canon ?_ ?_) | split

theorem afterCut_canon {u : State} (h : Canon u) (t : Nat) : Canon (afterCut u t) := by
  unfold afterCut
  (try dsimp only)
  repeat' split
  all_goals repeat' first | (with_reducible first | exact h | assumption | refine revertClaim_canon ?_ _ _ | refine giveRetries_canon ?_ _ _ | refine giveTiles_canon ?_ _ _ | refine claimTiles_canon ?_ _ _ | refine freeRetries_canon ?_ _ | refine foldl_canon ?_ _ _ ?_ | refine foldlP_canon ?_ _ _ ?_ | intro _ _ _) | split

theorem serveRegister_canon {u : State} (h : Canon u) (t : Nat) : Canon (serveRegister u t) := by
  unfold serveRegister
  (try dsimp only)
  repeat' split
  all_goals repeat' first | (with_reducible first | exact h | assumption | refine modGen_canon ?_ _ _ | refine serveReq_canon ?_ _ _) | split

theorem runCut_canon {u : State} (h : Canon u) (t : Nat) : Canon (runCut u t) := by
  unfold runCut
  (try dsimp only)
  repeat' split
  all_goals repeat' first | (with_reducible first | exact h | assumption | refine modGen_canon ?_ _ _ | refine serveReq_canon ?_ _ _ | refine afterCut_canon ?_ _ | refine foldl_canon ?_ _ _ ?_ | refine foldlP_canon ?_ _ _ ?_ | intro _ _ _ | refine getD_canon ?_ ?_ | refine mapP_canon ?_ ?_ | intro _ _) | split

theorem loadMap_canon {u : State} (h : Canon u) (asid : Nat) (g : Gen) (z0 : Nat) : Canon (loadMap u asid g z0).1 := by
  induction z0 generalizing u asid g with
  | zero =>
    unfold loadMap
    (try dsimp only)
    repeat' split
    all_goals repeat' first | (with_reducible first | exact h | assumption | refine mapCode_canon ?_ _ _ _ | refine pair_canon (mapCode_canon ?_ _ _ _) (by assumption) | refine mapSet_canon ?_ _ _ _ _) | split
  | succ n_ ih =>
    unfold loadMap
    (try dsimp only)
    repeat' split
    all_goals repeat' first | (with_reducible first | exact h | assumption | refine mapCode_canon ?_ _ _ _ | refine pair_canon (mapCode_canon ?_ _ _ _) (by assumption) | refine mapSet_canon ?_ _ _ _ _ | refine ih ?_ _ _ | refine pair_canon (ih ?_ _ _) (by assumption)) | split

theorem loadGen_canon {u : State} (h : Canon u) (asid : Nat) (regs : List Nat) : Canon (loadGen u asid regs).1 := by
  unfold loadGen
  (try dsimp only)
  repeat' split
  all_goals repeat' first | (with_reducible first | exact h | assumption | refine loadMap_canon ?_ _ _ _ | refine pair_canon (loadMap_canon ?_ _ _ _) (by assumption) | refine foldl_canon ?_ _ _ ?_ | refine foldlP_canon ?_ _ _ ?_ | intro _ _ _ | refine getD_canon ?_ ?_) | split

theorem poisonAll_canon {u : State} (h : Canon u) (t : Nat) : Canon (poisonAll u t) := by
  unfold poisonAll
  (try dsimp only)
  repeat' split
  all_goals repeat' first | (with_reducible first | exact h | assumption | refine modGen_canon ?_ _ _ | refine moveClaimed_canon ?_ _ _ _ | refine serveMarks_canon ?_ _ _ | refine bind_canon ?_ ?_ | refine bindOP_canon ?_ ?_ | refine bindP_canon ?_ ?_ | refine bindAny_canon ?_ | refine opt_canon (bind_canon ?_ ?_) (by assumption) | refine opt_canon (bindP_canon ?_ ?_) (by assumption) | refine opt_canon (bindAny_canon ?_) (by assumption) | refine optP_canon (bindOP_canon ?_ ?_) (by assumption) | intro _ _ | intro _ | refine mapP_canon ?_ ?_ | intro _ _) | split

theorem failTile_canon {u : State} (h : Canon u) (t l : Nat) : Canon (failTile u t l) := by
  unfold failTile
  (try dsimp only)
  repeat' split
  all_goals repeat' first | (with_reducible first | exact h | assumption | refine modGen_canon ?_ _ _ | refine moveClaimed_canon ?_ _ _ _ | refine unlessLost_canon ?_ _ _ | refine serveMarks_canon ?_ _ _) | split

theorem setRegion_canon {u : State} (h : Canon u) (a : Nat) (r : Region) : Canon (setRegion u a r) := by
  unfold setRegion
  (try dsimp only)
  repeat' split
  all_goals repeat' first | (with_reducible first | exact h | assumption | refine modSched_canon ?_ _) | split

theorem chargeRegions_canon {u : State} (h : Canon u) (a : Nat) (f : Region → Region) : Canon (chargeRegions u a f) := by
  unfold chargeRegions
  (try dsimp only)
  repeat' split
  all_goals repeat' first | (with_reducible first | exact h | assumption | refine setRegion_canon ?_ _ _ | refine foldl_canon ?_ _ _ ?_ | refine foldlP_canon ?_ _ _ ?_ | intro _ _ _) | split

theorem joinRead_canon {u : State} (h : Canon u) (asid addr : Nat) : Canon (joinRead u asid addr).1 := by
  unfold joinRead
  (try dsimp only)
  repeat' split
  all_goals repeat' first | (with_reducible first | exact h | assumption | refine deviceRead_canon ?_ _ _ | refine pair_canon (deviceRead_canon ?_ _ _) (by assumption) | refine pavTranslate_canon ?_ _ _ _ | refine pair_canon (pavTranslate_canon ?_ _ _ _) (by assumption) | refine mapP_canon ?_ ?_ | intro _ _) | split

theorem joinWrite_canon {u : State} (h : Canon u) (asid addr : Nat) (f : List Nat → List Nat) : Canon (joinWrite u asid addr f) := by
  unfold joinWrite
  (try dsimp only)
  repeat' split
  all_goals repeat' first | (with_reducible first | exact h | assumption | refine claimLine_canon ?_ _ | refine pavTranslate_canon ?_ _ _ _ | refine pair_canon (pavTranslate_canon ?_ _ _ _) (by assumption) | refine modSys_canon ?_ _ ?_ | refine mapP_canon ?_ ?_ | intro _ _ | exact fun w => w | exact fun w => Memory.wf_set _ _ _ w | exact fun w => Memory.wf_memWrite _ _ _ w | exact fun w => Memory.wf_memMask _ _ _ _ _ w | exact fun w => Memory.wf_memMerge _ _ _ _ _ w | exact fun w => Memory.wf_memKeep _ _ w) | split

theorem joinEnd_canon {u : State} (h : Canon u) (asid join : Nat) (e : TaskEnd) : Canon (joinEnd u asid join e) := by
  unfold joinEnd
  (try dsimp only)
  repeat' split
  all_goals repeat' first | (with_reducible first | exact h | assumption | refine joinWrite_canon ?_ _ _ _) | split

theorem recordAt_canon {u : State} (h : Canon u) (z0 : Except XErr Xl) : Canon (recordAt u z0).1 := by
  unfold recordAt
  (try dsimp only)
  repeat' split
  all_goals repeat' first | (with_reducible first | exact h | assumption | refine deviceRead_canon ?_ _ _ | refine pair_canon (deviceRead_canon ?_ _ _) (by assumption)) | split

theorem putRecord_canon {u : State} (h : Canon u) (r : BitVec 512) (z0 : Except XErr Xl) : Canon (putRecord u r z0) := by
  unfold putRecord
  (try dsimp only)
  repeat' split
  all_goals repeat' first | (with_reducible first | exact h | assumption | refine deviceWrite_canon ?_ _ _) | split

theorem slotPlace_canon {u : State} (h : Canon u) (t : Team) (i : Nat) (write : Bool) : Canon (slotPlace u t i write).1 := by
  unfold slotPlace
  (try dsimp only)
  repeat' split
  all_goals repeat' first | (with_reducible first | exact h | assumption | refine pavTranslate_canon ?_ _ _ _ | refine pair_canon (pavTranslate_canon ?_ _ _ _) (by assumption)) | split

theorem readSlot_canon {u : State} (h : Canon u) (t : Team) (i : Nat) : Canon (readSlot u t i).1 := by
  unfold readSlot
  repeat' split
  all_goals repeat' first | (with_reducible first | exact h | assumption | refine recordAt_canon ?_ _ | refine pair_canon (recordAt_canon ?_ _) (by assumption) | refine slotPlace_canon ?_ _ _ _ | refine pair_canon (slotPlace_canon ?_ _ _ _) (by assumption)) | split

theorem writeSlot_canon {u : State} (h : Canon u) (t : Team) (i : Nat) (r : BitVec 512) : Canon (writeSlot u t i r) := by
  unfold writeSlot
  repeat' split
  all_goals repeat' first | (with_reducible first | exact h | assumption | refine putRecord_canon ?_ _ _ | refine slotPlace_canon ?_ _ _ _ | refine pair_canon (slotPlace_canon ?_ _ _ _) (by assumption)) | split

theorem pushTail_canon {u : State} (h : Canon u) (t : Nat) (r : BitVec 512) : Canon (pushTail u t r) := by
  unfold pushTail
  (try dsimp only)
  repeat' split
  all_goals repeat' first | (with_reducible first | exact h | assumption | refine modTeam_canon ?_ _ _ | refine writeSlot_canon ?_ _ _ _) | split

theorem pushHead_canon {u : State} (h : Canon u) (t : Nat) (r : BitVec 512) : Canon (pushHead u t r) := by
  unfold pushHead
  (try dsimp only)
  repeat' split
  all_goals repeat' first | (with_reducible first | exact h | assumption | refine setTeam_canon ?_ _ _ | refine writeSlot_canon ?_ _ _ _) | split

theorem popHead_canon {u : State} (h : Canon u) (t : Nat) : Canon (popHead u t).1 := by
  unfold popHead
  repeat' split
  all_goals repeat' first | (with_reducible first | exact h | assumption | refine modTeam_canon ?_ _ _ | refine setTeam_canon ?_ _ _ | refine readSlot_canon ?_ _ _ | refine pair_canon (readSlot_canon ?_ _ _) (by assumption)) | split

theorem dispatchOnce_canon {u : State} (h : Canon u) (t : Nat) : CanonOpt (dispatchOnce u t) := by
  unfold dispatchOnce
  (try dsimp only)
  repeat' split
  all_goals repeat' first | (with_reducible first | exact h | assumption | exact none_canon | refine some_canon ?_ | exact noneP_canon | refine someP_canon ?_ | refine popHead_canon ?_ _ | refine pair_canon (popHead_canon ?_ _) (by assumption) | refine modCore_canon ?_ _ _) | split

theorem dispatchFuel_canon {u : State} (h : Canon u) (z0 : Nat) (z2 : Nat) : Canon (dispatchFuel z0 u z2) := by
  induction z0 generalizing u z2 with
  | zero =>
    unfold dispatchFuel
    (try dsimp only)
    repeat' split
    all_goals repeat' first | (with_reducible first | exact h | assumption | refine dispatchOnce_canon ?_ _ | refine opt_canon (dispatchOnce_canon ?_ _) (by assumption)) | split
  | succ n_ ih =>
    unfold dispatchFuel
    (try dsimp only)
    repeat' split
    all_goals repeat' first | (with_reducible first | exact h | assumption | refine dispatchOnce_canon ?_ _ | refine opt_canon (dispatchOnce_canon ?_ _) (by assumption) | refine ih ?_ _) | split

theorem dispatchRecords_canon {u : State} (h : Canon u) (t : Nat) : Canon (dispatchRecords u t) := by
  unfold dispatchRecords
  (try dsimp only)
  repeat' split
  all_goals repeat' first | (with_reducible first | exact h | assumption | refine dispatchFuel_canon ?_ _ _) | split

theorem servePush_canon {u : State} (h : Canon u) (t : Nat) (p : Push) : Canon (servePush u t p) := by
  unfold servePush
  (try dsimp only)
  repeat' split
  all_goals repeat' first | (with_reducible first | exact h | assumption | refine answerRegs_canon ?_ _ _ _ | refine joinWrite_canon ?_ _ _ _ | refine pushTail_canon ?_ _ _ | refine dispatchRecords_canon ?_ _ | refine getD_canon ?_ ?_) | split

theorem nextPush_canon {u : State} (h : Canon u) (t : Nat) : CanonOpt (nextPush u t) := by
  unfold nextPush
  (try dsimp only)
  repeat' split
  all_goals repeat' first | (with_reducible first | exact h | assumption | exact none_canon | refine some_canon ?_ | exact noneP_canon | refine someP_canon ?_ | refine setTeam_canon ?_ _ _ | refine servePush_canon ?_ _ _) | split

theorem forgetPushes_canon {u : State} (h : Canon u) (t l : Nat) : Canon (forgetPushes u t l) := by
  unfold forgetPushes
  (try dsimp only)
  repeat' split
  all_goals repeat' first | (with_reducible first | exact h | assumption | refine modTeam_canon ?_ _ _ | refine mapP_canon ?_ ?_ | intro _ _) | split

theorem aheadStores_canon {u : State} (h : Canon u) (m p : Nat) : Canon (aheadStores u m p) := by
  unfold aheadStores
  (try dsimp only)
  repeat' split
  all_goals repeat' first | (with_reducible first | exact h | assumption | refine modArr_canon ?_ _ _ | refine mapP_canon ?_ ?_ | intro _ _) | split

theorem discardFrozen_canon {u : State} (h : Canon u) (c : Nat) : Canon (discardFrozen u c) := by
  unfold discardFrozen
  (try dsimp only)
  repeat' split
  all_goals repeat' first | (with_reducible first | exact h | assumption | refine modCore_canon ?_ _ _ | refine foldl_canon ?_ _ _ ?_ | refine foldlP_canon ?_ _ _ ?_ | intro _ _ _) | split

theorem makeIdle_canon {u : State} (h : Canon u) (c : Nat) : Canon (makeIdle u c) := by
  unfold makeIdle
  (try dsimp only)
  repeat' split
  all_goals repeat' first | (with_reducible first | exact h | assumption | refine modCore_canon ?_ _ _ | refine foldl_canon ?_ _ _ ?_ | refine foldlP_canon ?_ _ _ ?_ | intro _ _ _ | refine mapP_canon ?_ ?_ | intro _ _) | split

theorem copyEnds_canon {u : State} (h : Canon u) (region : Nat) : Canon (copyEnds u region) := by
  unfold copyEnds
  (try dsimp only)
  repeat' split
  all_goals repeat' first | (with_reducible first | exact h | assumption | refine chargeRegions_canon ?_ _ _) | split

theorem dropStopped_canon {u : State} (h : Canon u) (c : Nat) : Canon (dropStopped u c) := by
  unfold dropStopped
  (try dsimp only)
  repeat' split
  all_goals repeat' first | (with_reducible first | exact h | assumption | refine copyEnds_canon ?_ _ | refine modMem_canon ?_ _ _ | refine foldl_canon ?_ _ _ ?_ | refine foldlP_canon ?_ _ _ ?_ | intro _ _ _) | split

theorem endWait_canon {u : State} (h : Canon u) (t c : Nat) : Canon (endWait u t c) := by
  unfold endWait
  (try dsimp only)
  repeat' split
  all_goals repeat' first | (with_reducible first | exact h | assumption | refine modPav_canon ?_ _) | split

theorem killCore_canon {u : State} (h : Canon u) (t c : Nat) (e : TaskEnd) : Canon (killCore u t c e) := by
  unfold killCore
  (try dsimp only)
  repeat' split
  all_goals repeat' first | (with_reducible first | exact h | assumption | refine modContext_canon ?_ _ _ _ | refine release_canon ?_ _ _ | refine joinEnd_canon ?_ _ _ _ | refine discardFrozen_canon ?_ _ | refine makeIdle_canon ?_ _ | refine copyEnds_canon ?_ _ | refine endWait_canon ?_ _ _ | refine modSched_canon ?_ _ | refine foldl_canon ?_ _ _ ?_ | refine foldlP_canon ?_ _ _ ?_ | intro _ _ _) | split

theorem killQueue_canon {u : State} (h : Canon u) (t : Nat) (e : TaskEnd) (z0 : Nat) : Canon (killQueue u t e z0) := by
  induction z0 generalizing u t e with
  | zero =>
    unfold killQueue
    (try dsimp only)
    repeat' split
    all_goals repeat' first | (with_reducible first | exact h | assumption | refine joinEnd_canon ?_ _ _ _ | refine popHead_canon ?_ _ | refine pair_canon (popHead_canon ?_ _) (by assumption)) | split
  | succ n_ ih =>
    unfold killQueue
    (try dsimp only)
    repeat' split
    all_goals repeat' first | (with_reducible first | exact h | assumption | refine joinEnd_canon ?_ _ _ _ | refine popHead_canon ?_ _ | refine pair_canon (popHead_canon ?_ _) (by assumption) | refine ih ?_ _ _) | split

theorem killLocal_canon {u : State} (h : Canon u) (t c : Nat) (e : TaskEnd) : Canon (killLocal u t c e) := by
  unfold killLocal
  (try dsimp only)
  repeat' split
  all_goals repeat' first | (with_reducible first | exact h | assumption | refine joinEnd_canon ?_ _ _ _ | refine modCore_canon ?_ _ _ | refine foldl_canon ?_ _ _ ?_ | refine foldlP_canon ?_ _ _ ?_ | intro _ _ _) | split

theorem killTeam_canon {u : State} (h : Canon u) (t status : Nat) (e : TaskEnd) : Canon (killTeam u t status e) := by
  unfold killTeam
  (try dsimp only)
  repeat' split
  all_goals repeat' first | (with_reducible first | exact h | assumption | refine modTeam_canon ?_ _ _ | refine poisonAll_canon ?_ _ | refine dropStopped_canon ?_ _ | refine killCore_canon ?_ _ _ _ | refine killQueue_canon ?_ _ _ _ | refine killLocal_canon ?_ _ _ _ | refine foldl_canon ?_ _ _ ?_ | refine foldlP_canon ?_ _ _ ?_ | intro _ _ _) | split

theorem callDomain_canon {u : State} (h : Canon u) (t : Nat) : Canon (callDomain u t) := by
  unfold callDomain
  (try dsimp only)
  repeat' split
  all_goals repeat' first | (with_reducible first | exact h | assumption | refine modTeam_canon ?_ _ _ | refine killTeam_canon ?_ _ _ _ | refine foldl_canon ?_ _ _ ?_ | refine foldlP_canon ?_ _ _ ?_ | intro _ _ _) | split

theorem coreReq_canon {u : State} (h : Canon u) (c kind d num : Nat) (value : Dword) : Canon (coreReq u c kind d num value) := by
  unfold coreReq
  (try dsimp only)
  repeat' split
  all_goals repeat' first | (with_reducible first | exact h | assumption | refine sendReq_canon ?_ _ _) | split

theorem faultTask_canon {u : State} (h : Canon u) (c cause : Nat) : Canon (faultTask u c cause) := by
  unfold faultTask
  (try dsimp only)
  repeat' split
  all_goals repeat' first | (with_reducible first | exact h | assumption | refine release_canon ?_ _ _ | refine revertClaim_canon ?_ _ _ | refine withdraw_canon ?_ _ _ | refine failTile_canon ?_ _ _ | refine joinEnd_canon ?_ _ _ _ | refine pushHead_canon ?_ _ _ | refine dispatchRecords_canon ?_ _ | refine forgetPushes_canon ?_ _ _ | refine discardFrozen_canon ?_ _ | refine makeIdle_canon ?_ _ | refine callDomain_canon ?_ _) | split

theorem retireTask_canon {u : State} (h : Canon u) (c : Nat) : Canon (retireTask u c) := by
  unfold retireTask
  (try dsimp only)
  repeat' split
  all_goals repeat' first | (with_reducible first | exact h | assumption | refine countLife_canon ?_ _ | refine release_canon ?_ _ _ | refine joinEnd_canon ?_ _ _ _ | refine dispatchRecords_canon ?_ _ | refine makeIdle_canon ?_ _ | refine coreReq_canon ?_ _ _ _ _ _ | refine modEdge_canon ?_ _ _ | refine foldl_canon ?_ _ _ ?_ | refine foldlP_canon ?_ _ _ ?_ | intro _ _ _) | split

theorem unchain_canon {u : State} (h : Canon u) (c : Nat) : Canon (unchain u c) := by
  unfold unchain
  (try dsimp only)
  repeat' split
  all_goals repeat' first | (with_reducible first | exact h | assumption | refine modCore_canon ?_ _ _ | refine foldl_canon ?_ _ _ ?_ | refine foldlP_canon ?_ _ _ ?_ | intro _ _ _) | split

theorem startTask_canon {u : State} (h : Canon u) (c t lcore : Nat) : Canon (startTask u c t lcore) := by
  unfold startTask
  (try dsimp only)
  repeat' split
  all_goals repeat' first | (with_reducible first | exact h | assumption | refine acquire_canon ?_ _ _ | refine dispatchRecords_canon ?_ _ | refine faultTask_canon ?_ _ _ | refine unchain_canon ?_ _ | refine modCore_canon ?_ _ _) | split

theorem endTeam_canon {u : State} (h : Canon u) (t : Nat) : Canon (endTeam u t) := by
  unfold endTeam
  (try dsimp only)
  repeat' split
  all_goals repeat' first | (with_reducible first | exact h | assumption | refine setTeam_canon ?_ _ _ | refine chargeRegions_canon ?_ _ _ | refine modSched_canon ?_ _) | split

theorem landScalar_canon {u : State} (h : Canon u) (c : Nat) (r : ScalarRes) : Canon (landScalar u c r) := by
  unfold landScalar
  (try dsimp only)
  repeat' split
  all_goals repeat' first | (with_reducible first | exact h | assumption | refine modSeq_canon ?_ _ _ | refine modCtl_canon ?_ _ _) | split

theorem landFirst_canon {u : State} (h : Canon u) (c : Nat) : Canon (landFirst u c) := by
  unfold landFirst
  (try dsimp only)
  repeat' split
  all_goals repeat' first | (with_reducible first | exact h | assumption | refine landScalar_canon ?_ _ _ | refine modSeq_canon ?_ _ _) | split

theorem landAll_canon {u : State} (h : Canon u) (z0 : Nat) (z2 : Nat) : Canon (landAll z0 u z2) := by
  induction z0 generalizing u z2 with
  | zero =>
    unfold landAll
    (try dsimp only)
    repeat' split
    all_goals repeat' first | (with_reducible first | exact h | assumption | refine landFirst_canon ?_ _) | split
  | succ n_ ih =>
    unfold landAll
    (try dsimp only)
    repeat' split
    all_goals repeat' first | (with_reducible first | exact h | assumption | refine landFirst_canon ?_ _ | refine ih ?_ _) | split

theorem flushScalars_canon {u : State} (h : Canon u) (c : Nat) : Canon (flushScalars u c) := by
  unfold flushScalars
  (try dsimp only)
  repeat' split
  all_goals repeat' first | (with_reducible first | exact h | assumption | refine landAll_canon ?_ _ _) | split

theorem detect_canon {u : State} (h : Canon u) (c cause wavetag : Nat) (info : Dword) (tag : Option Nat) : Canon (detect u c cause wavetag info tag) := by
  unfold detect
  (try dsimp only)
  repeat' split
  all_goals repeat' first | (with_reducible first | exact h | assumption | refine modCore_canon ?_ _ _) | split

theorem fencesAct_canon {u : State} (h : Canon u) (c : Nat) : Canon (fencesAct u c) := by
  unfold fencesAct
  (try dsimp only)
  repeat' split
  all_goals repeat' first | (with_reducible first | exact h | assumption | refine fenceActs_canon ?_ _ _ | refine foldl_canon ?_ _ _ ?_ | refine foldlP_canon ?_ _ _ ?_ | intro _ _ _) | split

theorem freeze_canon {u : State} (h : Canon u) (c : Nat) : Canon (freeze u c) := by
  unfold freeze
  (try dsimp only)
  repeat' split
  all_goals repeat' first | (with_reducible first | exact h | assumption | refine modArr_canon ?_ _ _ | refine foldl_canon ?_ _ _ ?_ | refine foldlP_canon ?_ _ _ ?_ | intro _ _ _) | split

theorem thaw_canon {u : State} (h : Canon u) (c : Nat) : Canon (thaw u c) := by
  unfold thaw
  (try dsimp only)
  repeat' split
  all_goals repeat' first | (with_reducible first | exact h | assumption | refine modArr_canon ?_ _ _ | refine foldl_canon ?_ _ _ ?_ | refine foldlP_canon ?_ _ _ ?_ | intro _ _ _) | split

theorem takeTrap_canon {u : State} (h : Canon u) (c cause n : Nat) (info : Dword) (wt : Option Nat) (rc start : Nat) : Canon (takeTrap u c cause n info wt rc start) := by
  unfold takeTrap
  (try dsimp only)
  repeat' split
  all_goals repeat' first | (with_reducible first | exact h | assumption | refine quiesce_canon ?_ _ | refine faultTask_canon ?_ _ _ | refine flushScalars_canon ?_ _ | refine fencesAct_canon ?_ _ | refine freeze_canon ?_ _ | refine modCore_canon ?_ _ _ | refine modSeq_canon ?_ _ _ | refine modCtl_canon ?_ _ _ | refine modPav_canon ?_ _) | split

theorem preciseTrap_canon {u : State} (h : Canon u) (cause : Nat) (info : Dword) : Canon (preciseTrap u cause info) := by
  unfold preciseTrap
  (try dsimp only)
  repeat' split
  all_goals repeat' first | (with_reducible first | exact h | assumption | refine takeTrap_canon ?_ _ _ _ _ _ _ _) | split

theorem bundleTrap_canon {u : State} (h : Canon u) (cause slot cls num left : Nat) (w : Word) : Canon (bundleTrap u cause slot cls num left w) := by
  unfold bundleTrap
  (try dsimp only)
  repeat' split
  all_goals repeat' first | (with_reducible first | exact h | assumption | refine preciseTrap_canon ?_ _ _) | split

theorem illegalOperand_canon {u : State} (h : Canon u) (i : Instr) : Canon (illegalOperand u i) := by
  unfold illegalOperand
  (try dsimp only)
  repeat' split
  all_goals repeat' first | (with_reducible first | exact h | assumption | refine bundleTrap_canon ?_ _ _ _ _ _ _) | split

theorem memoryTrap_canon {u : State} (h : Canon u) (e : XErr) (va acc : Nat) : Canon (memoryTrap u e va acc) := by
  unfold memoryTrap
  (try dsimp only)
  repeat' split
  all_goals repeat' first | (with_reducible first | exact h | assumption | refine preciseTrap_canon ?_ _ _) | split

theorem alignmentTrap_canon {u : State} (h : Canon u) (va acc : Nat) : Canon (alignmentTrap u va acc) := by
  unfold alignmentTrap
  (try dsimp only)
  repeat' split
  all_goals repeat' first | (with_reducible first | exact h | assumption | refine preciseTrap_canon ?_ _ _) | split

theorem restartChans_canon {u : State} (h : Canon u) (c : Nat) : Canon (restartChans u c) := by
  unfold restartChans
  (try dsimp only)
  repeat' split
  all_goals repeat' first | (with_reducible first | exact h | assumption | refine modMem_canon ?_ _ _ | refine foldl_canon ?_ _ _ ?_ | refine foldlP_canon ?_ _ _ ?_ | intro _ _ _) | split

theorem dropFailed_canon {u : State} (h : Canon u) (c : Nat) : Canon (dropFailed u c) := by
  unfold dropFailed
  (try dsimp only)
  repeat' split
  all_goals repeat' first | (with_reducible first | exact h | assumption | refine modEdge_canon ?_ _ _ | refine foldl_canon ?_ _ _ ?_ | refine foldlP_canon ?_ _ _ ?_ | intro _ _ _ | refine mapP_canon ?_ ?_ | intro _ _) | split

theorem resumeCore_canon {u : State} (h : Canon u) (c : Nat) : Canon (resumeCore u c) := by
  unfold resumeCore
  (try dsimp only)
  repeat' split
  all_goals repeat' first | (with_reducible first | exact h | assumption | refine thaw_canon ?_ _ | refine takeTrap_canon ?_ _ _ _ _ _ _ _ | refine restartChans_canon ?_ _ | refine dropFailed_canon ?_ _ | refine modCore_canon ?_ _ _ | refine modCtl_canon ?_ _ _) | split

theorem returnFromTrap_canon {u : State} (h : Canon u) (c : Nat) (bad : State → State) (hb : ∀ v, Canon v → Canon (bad v)) : Canon (returnFromTrap u c bad) := by
  unfold returnFromTrap
  dsimp only
  split
  · exact hb _ h
  · exact resumeCore_canon h _

theorem setBarrier_canon {u : State} (h : Canon u) (c b : Nat) (x : Barrier) : Canon (setBarrier u c b x) := by
  unfold setBarrier
  (try dsimp only)
  repeat' split
  all_goals repeat' first | (with_reducible first | exact h | assumption | refine modSeq_canon ?_ _ _) | split

theorem barrierFault_canon {u : State} (h : Canon u) (t src bundle : Nat) (info : Dword) : Canon (barrierFault u t src bundle info) := by
  unfold barrierFault
  (try dsimp only)
  repeat' split
  all_goals repeat' first | (with_reducible first | exact h | assumption | refine modContext_canon ?_ _ _ _ | refine detect_canon ?_ _ _ _ _ _) | split

theorem barrierEvent_canon {u : State} (h : Canon u) (t c b src bundle : Nat) (f : Barrier → Except Nat Barrier) : Canon (barrierEvent u t c b src bundle f) := by
  unfold barrierEvent
  (try dsimp only)
  repeat' split
  all_goals repeat' first | (with_reducible first | exact h | assumption | refine setBarrier_canon ?_ _ _ _ | refine barrierFault_canon ?_ _ _ _ _) | split

theorem setK_canon {u : State} (h : Canon u) (c i : Nat) (v : Half) : Canon (setK u c i v) := by
  unfold setK
  (try dsimp only)
  repeat' split
  all_goals repeat' first | (with_reducible first | exact h | assumption | refine modSeq_canon ?_ _ _) | split

theorem postK_canon {u : State} (h : Canon u) (c i n : Nat) : Canon (postK u c i n) := by
  unfold postK
  (try dsimp only)
  repeat' split
  all_goals repeat' first | (with_reducible first | exact h | assumption | refine setK_canon ?_ _ _ _) | split

theorem applyPost_canon {u : State} (h : Canon u) (t src dst bundle : Nat) (bar : Bool) (idx n : Nat) : Canon (applyPost u t src dst bundle bar idx n) := by
  unfold applyPost
  (try dsimp only)
  repeat' split
  all_goals repeat' first | (with_reducible first | exact h | assumption | refine barrierEvent_canon ?_ _ _ _ _ _ _ | refine postK_canon ?_ _ _ _) | split

theorem applyTail_canon {u : State} (h : Canon u) (c : Nat) (l : List Post) : Canon (applyTail u c l) := by
  unfold applyTail
  (try dsimp only)
  repeat' split
  all_goals repeat' first | (with_reducible first | exact h | assumption | refine applyPost_canon ?_ _ _ _ _ _ _ _ | refine foldl_canon ?_ _ _ ?_ | refine foldlP_canon ?_ _ _ ?_ | intro _ _ _) | split

theorem deliverPost_canon {u : State} (h : Canon u) (p : Post) : Canon (deliverPost u p) := by
  unfold deliverPost
  (try dsimp only)
  repeat' split
  all_goals repeat' first | (with_reducible first | exact h | assumption | refine modContext_canon ?_ _ _ _ | refine applyPost_canon ?_ _ _ _ _ _ _ _) | split

theorem applyStall_canon {u : State} (h : Canon u) (n : Nat) : Canon (applyStall u n) := by
  unfold applyStall
  (try dsimp only)
  repeat' split
  all_goals repeat' first | (with_reducible first | exact h | assumption | refine modSeq_canon ?_ _ _) | split

end Sys2Proof.Machine
end

