-- ==== Sys2Proof/Laws/Canon2.lean ====
section
/-! SUPPORT. Every operation keeps memory in its canonical form: Sync, Scalar, MemInstr, Control, Operands, Vector, Special, Convert, Pass, Store, CellFlag, Matrix, Wave, Edge, Epilogue, Copies. -/

set_option linter.unreachableTactic false
set_option linter.unusedTactic false
set_option linter.unusedVariables false

namespace Sys2Proof.Machine
open Sys2Proof

theorem syncDone_canon {u : State} (h : Canon u) (st : BitVec 4) : CanonOut (syncDone u st) := by
  unfold syncDone
  (try dsimp only)
  repeat' split
  all_goals repeat' first | (with_reducible first | exact h | assumption | refine next_canon ?_ | refine applyStall_canon ?_ _) | split

theorem execNopy_canon {u : State} (h : Canon u) (st : BitVec 4) : CanonOut (execNopy st u) := by
  unfold execNopy
  (try dsimp only)
  repeat' split
  all_goals repeat' first | (with_reducible first | exact h | assumption | refine next_canon ?_ | refine syncDone_canon ?_ _ | refine out_canon (syncDone_canon ?_ _) (by assumption)) | split

theorem execKwait_canon {u : State} (h : Canon u) (st : BitVec 4) (k : BitVec 4) (n : BitVec 16) : CanonOut (execKwait st k n u) := by
  unfold execKwait
  (try dsimp only)
  repeat' split
  all_goals repeat' first | (with_reducible first | exact h | assumption | refine next_canon ?_ | refine acquire_canon ?_ _ _ | refine syncDone_canon ?_ _ | refine out_canon (syncDone_canon ?_ _) (by assumption)) | split

theorem sendPost_canon {u : State} (h : Canon u) (own : Bool) (core : BitVec 6) (bar : Bool) (idx n : Nat) : Canon (sendPost u own core bar idx n) := by
  unfold sendPost
  (try dsimp only)
  repeat' split
  all_goals repeat' first | (with_reducible first | exact h | assumption | refine release_canon ?_ _ _ | refine issueRelease_canon ?_ _ _ _ | refine applyPost_canon ?_ _ _ _ _ _ _ _) | split

theorem execKpost_canon {u : State} (h : Canon u) (st : BitVec 4) (k : BitVec 4) (n : BitVec 8) (core : BitVec 6) (own : BitVec 1) : CanonOut (execKpost st k n core own u) := by
  unfold execKpost
  (try dsimp only)
  repeat' split
  all_goals repeat' first | (with_reducible first | exact h | assumption | refine next_canon ?_ | refine illegalOperand_canon ?_ _ | refine syncDone_canon ?_ _ | refine out_canon (syncDone_canon ?_ _) (by assumption) | refine sendPost_canon ?_ _ _ _ _ _) | split

theorem execKset_canon {u : State} (h : Canon u) (st : BitVec 4) (k : BitVec 4) (n : BitVec 16) : CanonOut (execKset st k n u) := by
  unfold execKset
  (try dsimp only)
  repeat' split
  all_goals repeat' first | (with_reducible first | exact h | assumption | refine next_canon ?_ | refine setK_canon ?_ _ _ _ | refine syncDone_canon ?_ _ | refine out_canon (syncDone_canon ?_ _) (by assumption)) | split

theorem execBarr_canon {u : State} (h : Canon u) (st : BitVec 4) (b : BitVec 10) (core : BitVec 6) (own : BitVec 1) : CanonOut (execBarr st b core own u) := by
  unfold execBarr
  (try dsimp only)
  repeat' split
  all_goals repeat' first | (with_reducible first | exact h | assumption | refine next_canon ?_ | refine illegalOperand_canon ?_ _ | refine syncDone_canon ?_ _ | refine out_canon (syncDone_canon ?_ _) (by assumption) | refine sendPost_canon ?_ _ _ _ _ _) | split

theorem execBwait_canon {u : State} (h : Canon u) (st : BitVec 4) (b : BitVec 10) (ph : BitVec 1) : CanonOut (execBwait st b ph u) := by
  unfold execBwait
  (try dsimp only)
  repeat' split
  all_goals repeat' first | (with_reducible first | exact h | assumption | refine next_canon ?_ | refine acquire_canon ?_ _ _ | refine syncDone_canon ?_ _ | refine out_canon (syncDone_canon ?_ _) (by assumption)) | split

theorem execBexp_canon {u : State} (h : Canon u) (st : BitVec 4) (b : BitVec 10) (a : BitVec 5) : CanonOut (execBexp st b a u) := by
  unfold execBexp
  (try dsimp only)
  repeat' split
  all_goals repeat' first | (with_reducible first | exact h | assumption | refine next_canon ?_ | refine barrierEvent_canon ?_ _ _ _ _ _ _ | refine syncDone_canon ?_ _ | refine out_canon (syncDone_canon ?_ _) (by assumption)) | split

theorem execDly_canon {u : State} (h : Canon u) (st : BitVec 4) (n : BitVec 16) : CanonOut (execDly st n u) := by
  unfold execDly
  (try dsimp only)
  repeat' split
  all_goals repeat' first | (with_reducible first | exact h | assumption | refine next_canon ?_ | refine syncDone_canon ?_ _ | refine out_canon (syncDone_canon ?_ _) (by assumption)) | split

theorem execWquiet_canon {u : State} (h : Canon u) (st : BitVec 4) : CanonOut (execWquiet st u) := by
  unfold execWquiet
  (try dsimp only)
  repeat' split
  all_goals repeat' first | (with_reducible first | exact h | assumption | refine next_canon ?_ | refine syncDone_canon ?_ _ | refine out_canon (syncDone_canon ?_ _) (by assumption)) | split

theorem execLwait_canon {u : State} (h : Canon u) (st : BitVec 4) (e : BitVec 2) : CanonOut (execLwait st e u) := by
  unfold execLwait
  (try dsimp only)
  repeat' split
  all_goals repeat' first | (with_reducible first | exact h | assumption | refine next_canon ?_ | refine syncDone_canon ?_ _ | refine out_canon (syncDone_canon ?_ _) (by assumption)) | split

theorem execImx_canon {u : State} (h : Canon u) (st : BitVec 4) (i : BitVec 24) : CanonOut (execImx st i u) := by
  unfold execImx
  (try dsimp only)
  repeat' split
  all_goals repeat' first | (with_reducible first | exact h | assumption | refine next_canon ?_ | refine syncDone_canon ?_ _ | refine out_canon (syncDone_canon ?_ _) (by assumption) | refine modSeq_canon ?_ _ _) | split

theorem execRep_canon {u : State} (h : Canon u) (st : BitVec 4) (count : BitVec 6) (_mask : BitVec 6) (_step : BitVec 4) : CanonOut (execRep st count _mask _step u) := by
  unfold execRep
  (try dsimp only)
  repeat' split
  all_goals repeat' first | (with_reducible first | exact h | assumption | refine next_canon ?_ | refine syncDone_canon ?_ _ | refine out_canon (syncDone_canon ?_ _) (by assumption) | refine modSeq_canon ?_ _ _) | split

theorem execXtgt_canon {u : State} (h : Canon u) (st : BitVec 4) (p : BitVec 2) : CanonOut (execXtgt st p u) := by
  unfold execXtgt
  (try dsimp only)
  repeat' split
  all_goals repeat' first | (with_reducible first | exact h | assumption | refine next_canon ?_ | refine syncDone_canon ?_ _ | refine out_canon (syncDone_canon ?_ _) (by assumption) | refine modSeq_canon ?_ _ _) | split

theorem scalarResult_canon {u : State} (h : Canon u) (d : BitVec 5) (v : Dword) (lat : Nat) (fl : Flags5) : Canon (scalarResult u d v lat fl) := by
  unfold scalarResult
  (try dsimp only)
  repeat' split
  all_goals repeat' first | (with_reducible first | exact h | assumption | refine writeG_canon ?_ _ _ _ | refine modSeq_canon ?_ _ _ | refine modCtl_canon ?_ _ _) | split

theorem aluOp_canon {u : State} (h : Canon u) (d a b : BitVec 5) (lat : Nat) (f : Dword → Dword → Dword) : CanonOut (aluOp u d a b lat f) := by
  unfold aluOp
  (try dsimp only)
  repeat' split
  all_goals repeat' first | (with_reducible first | exact h | assumption | refine next_canon ?_ | refine scalarResult_canon ?_ _ _ _ _) | split

theorem execAluAdd_canon {u : State} (h : Canon u) (d a b : BitVec 5) : CanonOut (execAluAdd d a b u) := by
  unfold execAluAdd
  (try dsimp only)
  repeat' split
  all_goals repeat' first | (with_reducible first | exact h | assumption | refine next_canon ?_ | refine aluOp_canon ?_ _ _ _ _ _ | refine out_canon (aluOp_canon ?_ _ _ _ _ _) (by assumption)) | split

theorem execAluSub_canon {u : State} (h : Canon u) (d a b : BitVec 5) : CanonOut (execAluSub d a b u) := by
  unfold execAluSub
  (try dsimp only)
  repeat' split
  all_goals repeat' first | (with_reducible first | exact h | assumption | refine next_canon ?_ | refine aluOp_canon ?_ _ _ _ _ _ | refine out_canon (aluOp_canon ?_ _ _ _ _ _) (by assumption)) | split

theorem execAluAnd_canon {u : State} (h : Canon u) (d a b : BitVec 5) : CanonOut (execAluAnd d a b u) := by
  unfold execAluAnd
  (try dsimp only)
  repeat' split
  all_goals repeat' first | (with_reducible first | exact h | assumption | refine next_canon ?_ | refine aluOp_canon ?_ _ _ _ _ _ | refine out_canon (aluOp_canon ?_ _ _ _ _ _) (by assumption)) | split

theorem execAluOr_canon {u : State} (h : Canon u) (d a b : BitVec 5) : CanonOut (execAluOr d a b u) := by
  unfold execAluOr
  (try dsimp only)
  repeat' split
  all_goals repeat' first | (with_reducible first | exact h | assumption | refine next_canon ?_ | refine aluOp_canon ?_ _ _ _ _ _ | refine out_canon (aluOp_canon ?_ _ _ _ _ _) (by assumption)) | split

theorem execAluXor_canon {u : State} (h : Canon u) (d a b : BitVec 5) : CanonOut (execAluXor d a b u) := by
  unfold execAluXor
  (try dsimp only)
  repeat' split
  all_goals repeat' first | (with_reducible first | exact h | assumption | refine next_canon ?_ | refine aluOp_canon ?_ _ _ _ _ _ | refine out_canon (aluOp_canon ?_ _ _ _ _ _) (by assumption)) | split

theorem execAluShl_canon {u : State} (h : Canon u) (d a b : BitVec 5) : CanonOut (execAluShl d a b u) := by
  unfold execAluShl
  (try dsimp only)
  repeat' split
  all_goals repeat' first | (with_reducible first | exact h | assumption | refine next_canon ?_ | refine aluOp_canon ?_ _ _ _ _ _ | refine out_canon (aluOp_canon ?_ _ _ _ _ _) (by assumption)) | split

theorem execAluShr_canon {u : State} (h : Canon u) (d a b : BitVec 5) : CanonOut (execAluShr d a b u) := by
  unfold execAluShr
  (try dsimp only)
  repeat' split
  all_goals repeat' first | (with_reducible first | exact h | assumption | refine next_canon ?_ | refine aluOp_canon ?_ _ _ _ _ _ | refine out_canon (aluOp_canon ?_ _ _ _ _ _) (by assumption)) | split

theorem execAluSar_canon {u : State} (h : Canon u) (d a b : BitVec 5) : CanonOut (execAluSar d a b u) := by
  unfold execAluSar
  (try dsimp only)
  repeat' split
  all_goals repeat' first | (with_reducible first | exact h | assumption | refine next_canon ?_ | refine aluOp_canon ?_ _ _ _ _ _ | refine out_canon (aluOp_canon ?_ _ _ _ _ _) (by assumption)) | split

theorem execAluMul_canon {u : State} (h : Canon u) (d a b : BitVec 5) : CanonOut (execAluMul d a b u) := by
  unfold execAluMul
  (try dsimp only)
  repeat' split
  all_goals repeat' first | (with_reducible first | exact h | assumption | refine next_canon ?_ | refine aluOp_canon ?_ _ _ _ _ _ | refine out_canon (aluOp_canon ?_ _ _ _ _ _) (by assumption)) | split

theorem execAluMulh_canon {u : State} (h : Canon u) (d a b : BitVec 5) : CanonOut (execAluMulh d a b u) := by
  unfold execAluMulh
  (try dsimp only)
  repeat' split
  all_goals repeat' first | (with_reducible first | exact h | assumption | refine next_canon ?_ | refine aluOp_canon ?_ _ _ _ _ _ | refine out_canon (aluOp_canon ?_ _ _ _ _ _) (by assumption)) | split

theorem execAluMulhu_canon {u : State} (h : Canon u) (d a b : BitVec 5) : CanonOut (execAluMulhu d a b u) := by
  unfold execAluMulhu
  (try dsimp only)
  repeat' split
  all_goals repeat' first | (with_reducible first | exact h | assumption | refine next_canon ?_ | refine aluOp_canon ?_ _ _ _ _ _ | refine out_canon (aluOp_canon ?_ _ _ _ _ _) (by assumption)) | split

theorem execAluDiv_canon {u : State} (h : Canon u) (d a b : BitVec 5) : CanonOut (execAluDiv d a b u) := by
  unfold execAluDiv
  (try dsimp only)
  repeat' split
  all_goals repeat' first | (with_reducible first | exact h | assumption | refine next_canon ?_ | refine aluOp_canon ?_ _ _ _ _ _ | refine out_canon (aluOp_canon ?_ _ _ _ _ _) (by assumption)) | split

theorem execAluDivu_canon {u : State} (h : Canon u) (d a b : BitVec 5) : CanonOut (execAluDivu d a b u) := by
  unfold execAluDivu
  (try dsimp only)
  repeat' split
  all_goals repeat' first | (with_reducible first | exact h | assumption | refine next_canon ?_ | refine aluOp_canon ?_ _ _ _ _ _ | refine out_canon (aluOp_canon ?_ _ _ _ _ _) (by assumption)) | split

theorem execAluRem_canon {u : State} (h : Canon u) (d a b : BitVec 5) : CanonOut (execAluRem d a b u) := by
  unfold execAluRem
  (try dsimp only)
  repeat' split
  all_goals repeat' first | (with_reducible first | exact h | assumption | refine next_canon ?_ | refine aluOp_canon ?_ _ _ _ _ _ | refine out_canon (aluOp_canon ?_ _ _ _ _ _) (by assumption)) | split

theorem execAluRemu_canon {u : State} (h : Canon u) (d a b : BitVec 5) : CanonOut (execAluRemu d a b u) := by
  unfold execAluRemu
  (try dsimp only)
  repeat' split
  all_goals repeat' first | (with_reducible first | exact h | assumption | refine next_canon ?_ | refine aluOp_canon ?_ _ _ _ _ _ | refine out_canon (aluOp_canon ?_ _ _ _ _ _) (by assumption)) | split

theorem execAluMin_canon {u : State} (h : Canon u) (d a b : BitVec 5) : CanonOut (execAluMin d a b u) := by
  unfold execAluMin
  (try dsimp only)
  repeat' split
  all_goals repeat' first | (with_reducible first | exact h | assumption | refine next_canon ?_ | refine aluOp_canon ?_ _ _ _ _ _ | refine out_canon (aluOp_canon ?_ _ _ _ _ _) (by assumption)) | split

theorem execAluMax_canon {u : State} (h : Canon u) (d a b : BitVec 5) : CanonOut (execAluMax d a b u) := by
  unfold execAluMax
  (try dsimp only)
  repeat' split
  all_goals repeat' first | (with_reducible first | exact h | assumption | refine next_canon ?_ | refine aluOp_canon ?_ _ _ _ _ _ | refine out_canon (aluOp_canon ?_ _ _ _ _ _) (by assumption)) | split

theorem execAluMinu_canon {u : State} (h : Canon u) (d a b : BitVec 5) : CanonOut (execAluMinu d a b u) := by
  unfold execAluMinu
  (try dsimp only)
  repeat' split
  all_goals repeat' first | (with_reducible first | exact h | assumption | refine next_canon ?_ | refine aluOp_canon ?_ _ _ _ _ _ | refine out_canon (aluOp_canon ?_ _ _ _ _ _) (by assumption)) | split

theorem execAluMaxu_canon {u : State} (h : Canon u) (d a b : BitVec 5) : CanonOut (execAluMaxu d a b u) := by
  unfold execAluMaxu
  (try dsimp only)
  repeat' split
  all_goals repeat' first | (with_reducible first | exact h | assumption | refine next_canon ?_ | refine aluOp_canon ?_ _ _ _ _ _ | refine out_canon (aluOp_canon ?_ _ _ _ _ _) (by assumption)) | split

theorem execAluSlt_canon {u : State} (h : Canon u) (d a b : BitVec 5) : CanonOut (execAluSlt d a b u) := by
  unfold execAluSlt
  (try dsimp only)
  repeat' split
  all_goals repeat' first | (with_reducible first | exact h | assumption | refine next_canon ?_ | refine aluOp_canon ?_ _ _ _ _ _ | refine out_canon (aluOp_canon ?_ _ _ _ _ _) (by assumption)) | split

theorem execAluSltu_canon {u : State} (h : Canon u) (d a b : BitVec 5) : CanonOut (execAluSltu d a b u) := by
  unfold execAluSltu
  (try dsimp only)
  repeat' split
  all_goals repeat' first | (with_reducible first | exact h | assumption | refine next_canon ?_ | refine aluOp_canon ?_ _ _ _ _ _ | refine out_canon (aluOp_canon ?_ _ _ _ _ _) (by assumption)) | split

theorem execAluSeq_canon {u : State} (h : Canon u) (d a b : BitVec 5) : CanonOut (execAluSeq d a b u) := by
  unfold execAluSeq
  (try dsimp only)
  repeat' split
  all_goals repeat' first | (with_reducible first | exact h | assumption | refine next_canon ?_ | refine aluOp_canon ?_ _ _ _ _ _ | refine out_canon (aluOp_canon ?_ _ _ _ _ _) (by assumption)) | split

theorem execAluClz_canon {u : State} (h : Canon u) (d a : BitVec 5) : CanonOut (execAluClz d a u) := by
  unfold execAluClz
  (try dsimp only)
  repeat' split
  all_goals repeat' first | (with_reducible first | exact h | assumption | refine next_canon ?_ | refine scalarResult_canon ?_ _ _ _ _) | split

theorem execAluPopc_canon {u : State} (h : Canon u) (d a : BitVec 5) : CanonOut (execAluPopc d a u) := by
  unfold execAluPopc
  (try dsimp only)
  repeat' split
  all_goals repeat' first | (with_reducible first | exact h | assumption | refine next_canon ?_ | refine scalarResult_canon ?_ _ _ _ _) | split

theorem execAddi_canon {u : State} (h : Canon u) (d a : BitVec 5) (i : BitVec 16) : CanonOut (execAddi d a i u) := by
  unfold execAddi
  (try dsimp only)
  repeat' split
  all_goals repeat' first | (with_reducible first | exact h | assumption | refine next_canon ?_ | refine scalarResult_canon ?_ _ _ _ _) | split

theorem execAndi_canon {u : State} (h : Canon u) (d a : BitVec 5) (i : BitVec 16) : CanonOut (execAndi d a i u) := by
  unfold execAndi
  (try dsimp only)
  repeat' split
  all_goals repeat' first | (with_reducible first | exact h | assumption | refine next_canon ?_ | refine scalarResult_canon ?_ _ _ _ _) | split

theorem execOri_canon {u : State} (h : Canon u) (d a : BitVec 5) (i : BitVec 16) : CanonOut (execOri d a i u) := by
  unfold execOri
  (try dsimp only)
  repeat' split
  all_goals repeat' first | (with_reducible first | exact h | assumption | refine next_canon ?_ | refine scalarResult_canon ?_ _ _ _ _) | split

theorem execXori_canon {u : State} (h : Canon u) (d a : BitVec 5) (i : BitVec 16) : CanonOut (execXori d a i u) := by
  unfold execXori
  (try dsimp only)
  repeat' split
  all_goals repeat' first | (with_reducible first | exact h | assumption | refine next_canon ?_ | refine scalarResult_canon ?_ _ _ _ _) | split

theorem execShi_canon {u : State} (h : Canon u) (d a : BitVec 5) (k : BitVec 2) (n : BitVec 6) : CanonOut (execShi d a k n u) := by
  unfold execShi
  (try dsimp only)
  repeat' split
  all_goals repeat' first | (with_reducible first | exact h | assumption | refine next_canon ?_ | refine scalarResult_canon ?_ _ _ _ _) | split

theorem execLui_canon {u : State} (h : Canon u) (d : BitVec 5) (i : BitVec 16) : CanonOut (execLui d i u) := by
  unfold execLui
  (try dsimp only)
  repeat' split
  all_goals repeat' first | (with_reducible first | exact h | assumption | refine next_canon ?_ | refine scalarResult_canon ?_ _ _ _ _) | split

theorem execSlti_canon {u : State} (h : Canon u) (d a : BitVec 5) (i : BitVec 16) : CanonOut (execSlti d a i u) := by
  unfold execSlti
  (try dsimp only)
  repeat' split
  all_goals repeat' first | (with_reducible first | exact h | assumption | refine next_canon ?_ | refine scalarResult_canon ?_ _ _ _ _) | split

theorem execSltiu_canon {u : State} (h : Canon u) (d a : BitVec 5) (i : BitVec 16) : CanonOut (execSltiu d a i u) := by
  unfold execSltiu
  (try dsimp only)
  repeat' split
  all_goals repeat' first | (with_reducible first | exact h | assumption | refine next_canon ?_ | refine scalarResult_canon ?_ _ _ _ _) | split

theorem execLis_canon {u : State} (h : Canon u) (d : BitVec 5) (i : BitVec 16) : CanonOut (execLis d i u) := by
  unfold execLis
  (try dsimp only)
  repeat' split
  all_goals repeat' first | (with_reducible first | exact h | assumption | refine next_canon ?_ | refine scalarResult_canon ?_ _ _ _ _) | split

theorem fpuWrite_canon {u : State} (h : Canon u) (d : BitVec 5) (lat : Nat) (r : Nat × Flags5) : CanonOut (fpuWrite u d lat r) := by
  unfold fpuWrite
  (try dsimp only)
  repeat' split
  all_goals repeat' first | (with_reducible first | exact h | assumption | refine next_canon ?_ | refine scalarResult_canon ?_ _ _ _ _) | split

theorem execFpuFadd_canon {u : State} (h : Canon u) (d a b : BitVec 5) (w : BitVec 1) : CanonOut (execFpuFadd d a b w u) := by
  unfold execFpuFadd
  (try dsimp only)
  repeat' split
  all_goals repeat' first | (with_reducible first | exact h | assumption | refine next_canon ?_ | refine fpuWrite_canon ?_ _ _ _ | refine out_canon (fpuWrite_canon ?_ _ _ _) (by assumption)) | split

theorem execFpuFsub_canon {u : State} (h : Canon u) (d a b : BitVec 5) (w : BitVec 1) : CanonOut (execFpuFsub d a b w u) := by
  unfold execFpuFsub
  (try dsimp only)
  repeat' split
  all_goals repeat' first | (with_reducible first | exact h | assumption | refine next_canon ?_ | refine fpuWrite_canon ?_ _ _ _ | refine out_canon (fpuWrite_canon ?_ _ _ _) (by assumption)) | split

theorem execFpuFmul_canon {u : State} (h : Canon u) (d a b : BitVec 5) (w : BitVec 1) : CanonOut (execFpuFmul d a b w u) := by
  unfold execFpuFmul
  (try dsimp only)
  repeat' split
  all_goals repeat' first | (with_reducible first | exact h | assumption | refine next_canon ?_ | refine fpuWrite_canon ?_ _ _ _ | refine out_canon (fpuWrite_canon ?_ _ _ _) (by assumption)) | split

theorem execFpuFdiv_canon {u : State} (h : Canon u) (d a b : BitVec 5) (w : BitVec 1) : CanonOut (execFpuFdiv d a b w u) := by
  unfold execFpuFdiv
  (try dsimp only)
  repeat' split
  all_goals repeat' first | (with_reducible first | exact h | assumption | refine next_canon ?_ | refine fpuWrite_canon ?_ _ _ _ | refine out_canon (fpuWrite_canon ?_ _ _ _) (by assumption)) | split

theorem execFpuFsqrt_canon {u : State} (h : Canon u) (d a : BitVec 5) (w : BitVec 1) : CanonOut (execFpuFsqrt d a w u) := by
  unfold execFpuFsqrt
  (try dsimp only)
  repeat' split
  all_goals repeat' first | (with_reducible first | exact h | assumption | refine next_canon ?_ | refine fpuWrite_canon ?_ _ _ _ | refine out_canon (fpuWrite_canon ?_ _ _ _) (by assumption)) | split

theorem execFpuFmin_canon {u : State} (h : Canon u) (d a b : BitVec 5) (w : BitVec 1) : CanonOut (execFpuFmin d a b w u) := by
  unfold execFpuFmin
  (try dsimp only)
  repeat' split
  all_goals repeat' first | (with_reducible first | exact h | assumption | refine next_canon ?_ | refine fpuWrite_canon ?_ _ _ _ | refine out_canon (fpuWrite_canon ?_ _ _ _) (by assumption)) | split

theorem execFpuFmax_canon {u : State} (h : Canon u) (d a b : BitVec 5) (w : BitVec 1) : CanonOut (execFpuFmax d a b w u) := by
  unfold execFpuFmax
  (try dsimp only)
  repeat' split
  all_goals repeat' first | (with_reducible first | exact h | assumption | refine next_canon ?_ | refine fpuWrite_canon ?_ _ _ _ | refine out_canon (fpuWrite_canon ?_ _ _ _) (by assumption)) | split

theorem fpuCompare_canon {u : State} (h : Canon u) (d a b : BitVec 5) (w : BitVec 1) (cond : Nat) : CanonOut (fpuCompare u d a b w cond) := by
  unfold fpuCompare
  (try dsimp only)
  repeat' split
  all_goals repeat' first | (with_reducible first | exact h | assumption | refine next_canon ?_ | refine fpuWrite_canon ?_ _ _ _ | refine out_canon (fpuWrite_canon ?_ _ _ _) (by assumption)) | split

theorem execFpuFeq_canon {u : State} (h : Canon u) (d a b : BitVec 5) (w : BitVec 1) : CanonOut (execFpuFeq d a b w u) := by
  unfold execFpuFeq
  (try dsimp only)
  repeat' split
  all_goals repeat' first | (with_reducible first | exact h | assumption | refine next_canon ?_ | refine fpuCompare_canon ?_ _ _ _ _ _ | refine out_canon (fpuCompare_canon ?_ _ _ _ _ _) (by assumption)) | split

theorem execFpuFlt_canon {u : State} (h : Canon u) (d a b : BitVec 5) (w : BitVec 1) : CanonOut (execFpuFlt d a b w u) := by
  unfold execFpuFlt
  (try dsimp only)
  repeat' split
  all_goals repeat' first | (with_reducible first | exact h | assumption | refine next_canon ?_ | refine fpuCompare_canon ?_ _ _ _ _ _ | refine out_canon (fpuCompare_canon ?_ _ _ _ _ _) (by assumption)) | split

theorem execFpuFle_canon {u : State} (h : Canon u) (d a b : BitVec 5) (w : BitVec 1) : CanonOut (execFpuFle d a b w u) := by
  unfold execFpuFle
  (try dsimp only)
  repeat' split
  all_goals repeat' first | (with_reducible first | exact h | assumption | refine next_canon ?_ | refine fpuCompare_canon ?_ _ _ _ _ _ | refine out_canon (fpuCompare_canon ?_ _ _ _ _ _) (by assumption)) | split

theorem execFpuFfma_canon {u : State} (h : Canon u) (d a b : BitVec 5) (w : BitVec 1) : CanonOut (execFpuFfma d a b w u) := by
  unfold execFpuFfma
  (try dsimp only)
  repeat' split
  all_goals repeat' first | (with_reducible first | exact h | assumption | refine next_canon ?_ | refine fpuWrite_canon ?_ _ _ _ | refine out_canon (fpuWrite_canon ?_ _ _ _) (by assumption)) | split

theorem execFpuCvtS2d_canon {u : State} (h : Canon u) (d a : BitVec 5) : CanonOut (execFpuCvtS2d d a u) := by
  unfold execFpuCvtS2d
  (try dsimp only)
  repeat' split
  all_goals repeat' first | (with_reducible first | exact h | assumption | refine next_canon ?_ | refine fpuWrite_canon ?_ _ _ _ | refine out_canon (fpuWrite_canon ?_ _ _ _) (by assumption)) | split

theorem execFpuCvtD2s_canon {u : State} (h : Canon u) (d a : BitVec 5) : CanonOut (execFpuCvtD2s d a u) := by
  unfold execFpuCvtD2s
  (try dsimp only)
  repeat' split
  all_goals repeat' first | (with_reducible first | exact h | assumption | refine next_canon ?_ | refine fpuWrite_canon ?_ _ _ _ | refine out_canon (fpuWrite_canon ?_ _ _ _) (by assumption)) | split

theorem execFpuCvtS2i_canon {u : State} (h : Canon u) (d a : BitVec 5) : CanonOut (execFpuCvtS2i d a u) := by
  unfold execFpuCvtS2i
  (try dsimp only)
  repeat' split
  all_goals repeat' first | (with_reducible first | exact h | assumption | refine next_canon ?_ | refine fpuWrite_canon ?_ _ _ _ | refine out_canon (fpuWrite_canon ?_ _ _ _) (by assumption)) | split

theorem execFpuCvtI2s_canon {u : State} (h : Canon u) (d a : BitVec 5) : CanonOut (execFpuCvtI2s d a u) := by
  unfold execFpuCvtI2s
  (try dsimp only)
  repeat' split
  all_goals repeat' first | (with_reducible first | exact h | assumption | refine next_canon ?_ | refine fpuWrite_canon ?_ _ _ _ | refine out_canon (fpuWrite_canon ?_ _ _ _) (by assumption)) | split

theorem execFpuCvtD2i_canon {u : State} (h : Canon u) (d a : BitVec 5) : CanonOut (execFpuCvtD2i d a u) := by
  unfold execFpuCvtD2i
  (try dsimp only)
  repeat' split
  all_goals repeat' first | (with_reducible first | exact h | assumption | refine next_canon ?_ | refine fpuWrite_canon ?_ _ _ _ | refine out_canon (fpuWrite_canon ?_ _ _ _) (by assumption)) | split

theorem execFpuCvtI2d_canon {u : State} (h : Canon u) (d a : BitVec 5) : CanonOut (execFpuCvtI2d d a u) := by
  unfold execFpuCvtI2d
  (try dsimp only)
  repeat' split
  all_goals repeat' first | (with_reducible first | exact h | assumption | refine next_canon ?_ | refine fpuWrite_canon ?_ _ _ _ | refine out_canon (fpuWrite_canon ?_ _ _ _) (by assumption)) | split

theorem branchTo_canon {u : State} (h : Canon u) (i : Instr) (t : Int) (link : Bool) : CanonOut (branchTo u i t link) := by
  unfold branchTo
  (try dsimp only)
  repeat' split
  all_goals repeat' first | (with_reducible first | exact h | assumption | refine next_canon ?_ | refine writeG_canon ?_ _ _ _ | refine illegalOperand_canon ?_ _ | refine modSeq_canon ?_ _ _) | split

theorem execBr_canon {u : State} (h : Canon u) (o : BitVec 26) : CanonOut (execBr o u) := by
  unfold execBr
  (try dsimp only)
  repeat' split
  all_goals repeat' first | (with_reducible first | exact h | assumption | refine next_canon ?_ | refine branchTo_canon ?_ _ _ _ | refine out_canon (branchTo_canon ?_ _ _ _) (by assumption)) | split

theorem execBl_canon {u : State} (h : Canon u) (o : BitVec 26) : CanonOut (execBl o u) := by
  unfold execBl
  (try dsimp only)
  repeat' split
  all_goals repeat' first | (with_reducible first | exact h | assumption | refine next_canon ?_ | refine branchTo_canon ?_ _ _ _ | refine out_canon (branchTo_canon ?_ _ _ _) (by assumption)) | split

theorem execJr_canon {u : State} (h : Canon u) (a : BitVec 5) : CanonOut (execJr a u) := by
  unfold execJr
  (try dsimp only)
  repeat' split
  all_goals repeat' first | (with_reducible first | exact h | assumption | refine next_canon ?_ | refine branchTo_canon ?_ _ _ _ | refine out_canon (branchTo_canon ?_ _ _ _) (by assumption)) | split

theorem execJlr_canon {u : State} (h : Canon u) (a : BitVec 5) : CanonOut (execJlr a u) := by
  unfold execJlr
  (try dsimp only)
  repeat' split
  all_goals repeat' first | (with_reducible first | exact h | assumption | refine next_canon ?_ | refine branchTo_canon ?_ _ _ _ | refine out_canon (branchTo_canon ?_ _ _ _) (by assumption)) | split

theorem execBc_canon {u : State} (h : Canon u) (c : BitVec 4) (a b : BitVec 5) (o : BitVec 12) : CanonOut (execBc c a b o u) := by
  unfold execBc
  (try dsimp only)
  repeat' split
  all_goals repeat' first | (with_reducible first | exact h | assumption | refine next_canon ?_ | refine branchTo_canon ?_ _ _ _ | refine out_canon (branchTo_canon ?_ _ _ _) (by assumption)) | split

theorem execBef_canon {u : State} (h : Canon u) (c : BitVec 4) (a g : BitVec 5) (o : BitVec 12) : CanonOut (execBef c a g o u) := by
  unfold execBef
  (try dsimp only)
  repeat' split
  all_goals repeat' first | (with_reducible first | exact h | assumption | refine next_canon ?_ | refine branchTo_canon ?_ _ _ _ | refine out_canon (branchTo_canon ?_ _ _ _) (by assumption)) | split

def CanonAcc : Access → Prop
  | .trap s => Canon s
  | .ok s _ => Canon s
theorem accTrap_canon {a : Access} (h : CanonAcc a) {v : State} (e : a = .trap v) : Canon v := by subst e; exact h
theorem accOk_canon {a : Access} (h : CanonAcc a) {v : State} {x : Xl} (e : a = .ok v x) : Canon v := by subst e; exact h
theorem checkAccess_canon {u : State} (h : Canon u) (i : Instr) (va n : Nat) (write : Bool) (acc : Nat) : CanonAcc (checkAccess u i va n write acc) := by
  unfold checkAccess
  repeat' split
  · exact memoryTrap_canon h _ _ _
  · exact illegalOperand_canon h _
  · exact alignmentTrap_canon h _ _
  · exact memoryTrap_canon (pair_canon (seqTranslate_canon h _ _ _) (by assumption)) _ _ _
  · exact pair_canon (seqTranslate_canon h _ _ _) (by assumption)

theorem loadInstr_canon {u : State} (h : Canon u) (i : Instr) (d a : BitVec 5) (c : BitVec 3) (z : BitVec 2) (o : BitVec 11) (signed : Bool) : CanonOut (loadInstr u i d a c z o signed) := by
  unfold loadInstr
  (try dsimp only)
  repeat' split
  all_goals repeat' first | (with_reducible first | exact h | assumption | refine next_canon ?_ | refine issueLoad_canon ?_ _ _ _ _ _ _ | refine accTrap_canon (checkAccess_canon ?_ _ _ _ _ _) (by assumption) | refine accOk_canon (checkAccess_canon ?_ _ _ _ _ _) (by assumption)) | split

theorem execLd_canon {u : State} (h : Canon u) (d a : BitVec 5) (c : BitVec 3) (z : BitVec 2) (o : BitVec 11) : CanonOut (execLd d a c z o u) := by
  unfold execLd
  (try dsimp only)
  repeat' split
  all_goals repeat' first | (with_reducible first | exact h | assumption | refine next_canon ?_ | refine loadInstr_canon ?_ _ _ _ _ _ _ _ | refine out_canon (loadInstr_canon ?_ _ _ _ _ _ _ _) (by assumption)) | split

theorem execLdu_canon {u : State} (h : Canon u) (d a : BitVec 5) (c : BitVec 3) (z : BitVec 2) (o : BitVec 11) : CanonOut (execLdu d a c z o u) := by
  unfold execLdu
  (try dsimp only)
  repeat' split
  all_goals repeat' first | (with_reducible first | exact h | assumption | refine next_canon ?_ | refine loadInstr_canon ?_ _ _ _ _ _ _ _ | refine out_canon (loadInstr_canon ?_ _ _ _ _ _ _ _) (by assumption)) | split

theorem setChan_canon {u : State} (h : Canon u) (c ch : Nat) (x : Chan) : Canon (setChan u c ch x) := by
  unfold setChan
  (try dsimp only)
  repeat' split
  all_goals repeat' first | (with_reducible first | exact h | assumption | refine modMem_canon ?_ _ _) | split

theorem copyRequest_canon {u : State} (h : Canon u) (ch : Nat) (w : Dword) (after : Option Nat) : Canon (copyRequest u ch w after) := by
  unfold copyRequest
  (try dsimp only)
  repeat' split
  all_goals repeat' first | (with_reducible first | exact h | assumption | refine chargeRegions_canon ?_ _ _ | refine setChan_canon ?_ _ _ _) | split

theorem execSt_canon {u : State} (h : Canon u) (src a : BitVec 5) (c : BitVec 3) (z : BitVec 2) (o : BitVec 11) : CanonOut (execSt src a c z o u) := by
  unfold execSt
  (try dsimp only)
  repeat' split
  all_goals repeat' first | (with_reducible first | exact h | assumption | refine next_canon ?_ | refine afterAcquires_canon ?_ _ | refine storeBytes_canon ?_ _ _ _ _ | refine issueRelease_canon ?_ _ _ _ | refine illegalOperand_canon ?_ _ | refine accTrap_canon (checkAccess_canon ?_ _ _ _ _ _) (by assumption) | refine accOk_canon (checkAccess_canon ?_ _ _ _ _ _) (by assumption) | refine copyRequest_canon ?_ _ _ _) | split

theorem execFence_canon {u : State} (h : Canon u) (c : BitVec 3) : CanonOut (execFence c u) := by
  unfold execFence
  (try dsimp only)
  repeat' split
  all_goals repeat' first | (with_reducible first | exact h | assumption | refine next_canon ?_ | refine fenceActs_canon ?_ _ _ | refine modCore_canon ?_ _ _) | split

theorem cacheInstr_canon {u : State} (h : Canon u) (i : Instr) (op : Nat) (a : BitVec 5) (c : BitVec 3) (o : BitVec 11) : CanonOut (cacheInstr u i op a c o) := by
  unfold cacheInstr
  (try dsimp only)
  repeat' split
  all_goals repeat' first | (with_reducible first | exact h | assumption | refine next_canon ?_ | refine cacheOp_canon ?_ _ _ _ _ | refine cacheSingle_canon ?_ _ _ _ | refine illegalOperand_canon ?_ _ | refine accTrap_canon (checkAccess_canon ?_ _ _ _ _ _) (by assumption) | refine accOk_canon (checkAccess_canon ?_ _ _ _ _ _) (by assumption)) | split

theorem execCacheWb_canon {u : State} (h : Canon u) (a : BitVec 5) (c : BitVec 3) (o : BitVec 11) : CanonOut (execCacheWb a c o u) := by
  unfold execCacheWb
  (try dsimp only)
  repeat' split
  all_goals repeat' first | (with_reducible first | exact h | assumption | refine next_canon ?_ | refine cacheInstr_canon ?_ _ _ _ _ _ | refine out_canon (cacheInstr_canon ?_ _ _ _ _ _) (by assumption)) | split

theorem execCacheInv_canon {u : State} (h : Canon u) (a : BitVec 5) (c : BitVec 3) (o : BitVec 11) : CanonOut (execCacheInv a c o u) := by
  unfold execCacheInv
  (try dsimp only)
  repeat' split
  all_goals repeat' first | (with_reducible first | exact h | assumption | refine next_canon ?_ | refine cacheInstr_canon ?_ _ _ _ _ _ | refine out_canon (cacheInstr_canon ?_ _ _ _ _ _) (by assumption)) | split

theorem execCacheWbinv_canon {u : State} (h : Canon u) (a : BitVec 5) (c : BitVec 3) (o : BitVec 11) : CanonOut (execCacheWbinv a c o u) := by
  unfold execCacheWbinv
  (try dsimp only)
  repeat' split
  all_goals repeat' first | (with_reducible first | exact h | assumption | refine next_canon ?_ | refine cacheInstr_canon ?_ _ _ _ _ _ | refine out_canon (cacheInstr_canon ?_ _ _ _ _ _) (by assumption)) | split

theorem execCacheEvict_canon {u : State} (h : Canon u) (a : BitVec 5) (c : BitVec 3) (o : BitVec 11) : CanonOut (execCacheEvict a c o u) := by
  unfold execCacheEvict
  (try dsimp only)
  repeat' split
  all_goals repeat' first | (with_reducible first | exact h | assumption | refine next_canon ?_ | refine cacheInstr_canon ?_ _ _ _ _ _ | refine out_canon (cacheInstr_canon ?_ _ _ _ _ _) (by assumption)) | split

theorem amoInstr_canon {u : State} (h : Canon u) (i : Instr) (fn : Nat) (d a b : BitVec 5) (c : BitVec 3) (n : Nat) (ret sr : Bool) : CanonOut (amoInstr u i fn d a b c n ret sr) := by
  unfold amoInstr
  (try dsimp only)
  repeat' split
  all_goals repeat' first | (with_reducible first | exact h | assumption | refine next_canon ?_ | refine issueAmo_canon ?_ _ _ _ _ _ _ _ _ _ _ | refine illegalOperand_canon ?_ _ | refine accTrap_canon (checkAccess_canon ?_ _ _ _ _ _) (by assumption) | refine accOk_canon (checkAccess_canon ?_ _ _ _ _ _) (by assumption)) | split

theorem execAmoAdd_canon {u : State} (h : Canon u) (d a b : BitVec 5) (c : BitVec 3) (z : BitVec 2) (r : BitVec 1) : CanonOut (execAmoAdd d a b c z r u) := by
  unfold execAmoAdd
  (try dsimp only)
  repeat' split
  all_goals repeat' first | (with_reducible first | exact h | assumption | refine next_canon ?_ | refine amoInstr_canon ?_ _ _ _ _ _ _ _ _ _ | refine out_canon (amoInstr_canon ?_ _ _ _ _ _ _ _ _ _) (by assumption)) | split

theorem execAmoAnd_canon {u : State} (h : Canon u) (d a b : BitVec 5) (c : BitVec 3) (z : BitVec 2) (r : BitVec 1) : CanonOut (execAmoAnd d a b c z r u) := by
  unfold execAmoAnd
  (try dsimp only)
  repeat' split
  all_goals repeat' first | (with_reducible first | exact h | assumption | refine next_canon ?_ | refine amoInstr_canon ?_ _ _ _ _ _ _ _ _ _ | refine out_canon (amoInstr_canon ?_ _ _ _ _ _ _ _ _ _) (by assumption)) | split

theorem execAmoOr_canon {u : State} (h : Canon u) (d a b : BitVec 5) (c : BitVec 3) (z : BitVec 2) (r : BitVec 1) : CanonOut (execAmoOr d a b c z r u) := by
  unfold execAmoOr
  (try dsimp only)
  repeat' split
  all_goals repeat' first | (with_reducible first | exact h | assumption | refine next_canon ?_ | refine amoInstr_canon ?_ _ _ _ _ _ _ _ _ _ | refine out_canon (amoInstr_canon ?_ _ _ _ _ _ _ _ _ _) (by assumption)) | split

theorem execAmoXor_canon {u : State} (h : Canon u) (d a b : BitVec 5) (c : BitVec 3) (z : BitVec 2) (r : BitVec 1) : CanonOut (execAmoXor d a b c z r u) := by
  unfold execAmoXor
  (try dsimp only)
  repeat' split
  all_goals repeat' first | (with_reducible first | exact h | assumption | refine next_canon ?_ | refine amoInstr_canon ?_ _ _ _ _ _ _ _ _ _ | refine out_canon (amoInstr_canon ?_ _ _ _ _ _ _ _ _ _) (by assumption)) | split

theorem execAmoMin_canon {u : State} (h : Canon u) (d a b : BitVec 5) (c : BitVec 3) (z : BitVec 2) (r : BitVec 1) : CanonOut (execAmoMin d a b c z r u) := by
  unfold execAmoMin
  (try dsimp only)
  repeat' split
  all_goals repeat' first | (with_reducible first | exact h | assumption | refine next_canon ?_ | refine amoInstr_canon ?_ _ _ _ _ _ _ _ _ _ | refine out_canon (amoInstr_canon ?_ _ _ _ _ _ _ _ _ _) (by assumption)) | split

theorem execAmoMax_canon {u : State} (h : Canon u) (d a b : BitVec 5) (c : BitVec 3) (z : BitVec 2) (r : BitVec 1) : CanonOut (execAmoMax d a b c z r u) := by
  unfold execAmoMax
  (try dsimp only)
  repeat' split
  all_goals repeat' first | (with_reducible first | exact h | assumption | refine next_canon ?_ | refine amoInstr_canon ?_ _ _ _ _ _ _ _ _ _ | refine out_canon (amoInstr_canon ?_ _ _ _ _ _ _ _ _ _) (by assumption)) | split

theorem execAmoMinu_canon {u : State} (h : Canon u) (d a b : BitVec 5) (c : BitVec 3) (z : BitVec 2) (r : BitVec 1) : CanonOut (execAmoMinu d a b c z r u) := by
  unfold execAmoMinu
  (try dsimp only)
  repeat' split
  all_goals repeat' first | (with_reducible first | exact h | assumption | refine next_canon ?_ | refine amoInstr_canon ?_ _ _ _ _ _ _ _ _ _ | refine out_canon (amoInstr_canon ?_ _ _ _ _ _ _ _ _ _) (by assumption)) | split

theorem execAmoMaxu_canon {u : State} (h : Canon u) (d a b : BitVec 5) (c : BitVec 3) (z : BitVec 2) (r : BitVec 1) : CanonOut (execAmoMaxu d a b c z r u) := by
  unfold execAmoMaxu
  (try dsimp only)
  repeat' split
  all_goals repeat' first | (with_reducible first | exact h | assumption | refine next_canon ?_ | refine amoInstr_canon ?_ _ _ _ _ _ _ _ _ _ | refine out_canon (amoInstr_canon ?_ _ _ _ _ _ _ _ _ _) (by assumption)) | split

theorem execAmoSwap_canon {u : State} (h : Canon u) (d a b : BitVec 5) (c : BitVec 3) (z : BitVec 2) (r : BitVec 1) : CanonOut (execAmoSwap d a b c z r u) := by
  unfold execAmoSwap
  (try dsimp only)
  repeat' split
  all_goals repeat' first | (with_reducible first | exact h | assumption | refine next_canon ?_ | refine amoInstr_canon ?_ _ _ _ _ _ _ _ _ _ | refine out_canon (amoInstr_canon ?_ _ _ _ _ _ _ _ _ _) (by assumption)) | split

theorem execAmoIncw_canon {u : State} (h : Canon u) (d a b : BitVec 5) (c : BitVec 3) (z : BitVec 2) (r : BitVec 1) : CanonOut (execAmoIncw d a b c z r u) := by
  unfold execAmoIncw
  (try dsimp only)
  repeat' split
  all_goals repeat' first | (with_reducible first | exact h | assumption | refine next_canon ?_ | refine amoInstr_canon ?_ _ _ _ _ _ _ _ _ _ | refine out_canon (amoInstr_canon ?_ _ _ _ _ _ _ _ _ _) (by assumption)) | split

theorem execAmoCas_canon {u : State} (h : Canon u) (d a b : BitVec 5) (c : BitVec 3) (z : BitVec 2) : CanonOut (execAmoCas d a b c z u) := by
  unfold execAmoCas
  (try dsimp only)
  repeat' split
  all_goals repeat' first | (with_reducible first | exact h | assumption | refine next_canon ?_ | refine amoInstr_canon ?_ _ _ _ _ _ _ _ _ _ | refine out_canon (amoInstr_canon ?_ _ _ _ _ _ _ _ _ _) (by assumption)) | split

theorem execAmoFaddb_canon {u : State} (h : Canon u) (d a b : BitVec 5) (c : BitVec 3) (z : BitVec 2) : CanonOut (execAmoFaddb d a b c z u) := by
  unfold execAmoFaddb
  (try dsimp only)
  repeat' split
  all_goals repeat' first | (with_reducible first | exact h | assumption | refine next_canon ?_ | refine amoInstr_canon ?_ _ _ _ _ _ _ _ _ _ | refine out_canon (amoInstr_canon ?_ _ _ _ _ _ _ _ _ _) (by assumption)) | split

theorem execAmoFaddF32_canon {u : State} (h : Canon u) (d a b : BitVec 5) (c : BitVec 3) (r : BitVec 1) : CanonOut (execAmoFaddF32 d a b c r u) := by
  unfold execAmoFaddF32
  (try dsimp only)
  repeat' split
  all_goals repeat' first | (with_reducible first | exact h | assumption | refine next_canon ?_ | refine amoInstr_canon ?_ _ _ _ _ _ _ _ _ _ | refine out_canon (amoInstr_canon ?_ _ _ _ _ _ _ _ _ _) (by assumption)) | split

theorem execAmoFaddBf16_canon {u : State} (h : Canon u) (d a b : BitVec 5) (c : BitVec 3) (r sr : BitVec 1) : CanonOut (execAmoFaddBf16 d a b c r sr u) := by
  unfold execAmoFaddBf16
  (try dsimp only)
  repeat' split
  all_goals repeat' first | (with_reducible first | exact h | assumption | refine next_canon ?_ | refine amoInstr_canon ?_ _ _ _ _ _ _ _ _ _ | refine out_canon (amoInstr_canon ?_ _ _ _ _ _ _ _ _ _) (by assumption)) | split

def CanonPages (r : State × Except State (List Nat)) : Prop :=
  Canon r.1 ∧ match r.2 with | .error t => Canon t | .ok _ => True
theorem clearPages_canon {u : State} (h : Canon u) (i : Instr) (va last n : Nat) : CanonPages (clearPages u i va last n) := by
  induction n generalizing u va with
  | zero => exact ⟨h, trivial⟩
  | succ n ih =>
    unfold clearPages
    split
    · exact ⟨h, trivial⟩
    · split
      · exact ⟨h, illegalOperand_canon h _⟩
      split
      · rename_i w _ e
        have k := pair_canon (seqTranslate_canon h _ _ _) e
        exact ⟨k, memoryTrap_canon k _ _ _⟩
      · rename_i w x e
        have k := pair_canon (seqTranslate_canon h _ _ _) e
        split
        · exact ⟨k, illegalOperand_canon k _⟩
        · dsimp only
          have j := ih k (va / 4096 * 4096 + 4096)
          split
          · rename_i e2
            rw [e2] at j
            exact j
          · rename_i e2
            rw [e2] at j
            exact j

theorem dropSteps_canon {u : State} (h : Canon u) (c : Nat) : Canon (dropSteps u c) := by
  unfold dropSteps
  (try dsimp only)
  repeat' split
  all_goals repeat' first | (with_reducible first | exact h | assumption | refine modEdge_canon ?_ _ _ | refine foldl_canon ?_ _ _ ?_ | refine foldlP_canon ?_ _ _ ?_ | intro _ _ _) | split

theorem execSpclr_canon {u : State} (h : Canon u) (a b : BitVec 5) : CanonOut (execSpclr a b u) := by
  unfold execSpclr
  dsimp only
  split
  · exact next_canon h
  · split
    · exact next_canon (illegalOperand_canon h _)
    · have j := clearPages_canon h (Instr.spclr a b) (srcG u a).toNat ((srcG u a).toNat + 128 * (srcG u b).toNat - 1) ((srcG u b).toNat / 32 + 2)
      split
      · rename_i e
        rw [e] at j
        exact next_canon j.2
      · rename_i e
        rw [e] at j
        exact next_canon (dropSteps_canon (foldl_canon (afterAcquires_canon j.1 _) _ _ fun v a k => setFull_canon k _ _) _)

theorem execCtlrd_canon {u : State} (h : Canon u) (d : BitVec 5) (n : BitVec 12) : CanonOut (execCtlrd d n u) := by
  unfold execCtlrd
  (try dsimp only)
  repeat' split
  all_goals repeat' first | (with_reducible first | exact h | assumption | refine next_canon ?_ | refine scalarResult_canon ?_ _ _ _ _) | split

theorem execCtlwr_canon {u : State} (h : Canon u) (a : BitVec 5) (n : BitVec 12) : CanonOut (execCtlwr a n u) := by
  unfold execCtlwr
  (try dsimp only)
  repeat' split
  all_goals repeat' first | (with_reducible first | exact h | assumption | refine next_canon ?_ | refine modCtl_canon ?_ _ _) | split

theorem execMsel_canon {u : State} (h : Canon u) (d a b : BitVec 5) : CanonOut (execMsel d a b u) := by
  unfold execMsel
  (try dsimp only)
  repeat' split
  all_goals repeat' first | (with_reducible first | exact h | assumption | refine next_canon ?_ | refine modSeq_canon ?_ _ _) | split

theorem execEfrd_canon {u : State} (h : Canon u) (d : BitVec 5) (g : BitVec 16) : CanonOut (execEfrd d g u) := by
  unfold execEfrd
  (try dsimp only)
  repeat' split
  all_goals repeat' first | (with_reducible first | exact h | assumption | refine next_canon ?_ | refine scalarResult_canon ?_ _ _ _ _) | split

theorem execAwin_canon {u : State} (h0 : Canon u) (a : BitVec 5) (o : BitVec 2) (w h : BitVec 5) : CanonOut (execAwin a o w h u) := by
  unfold execAwin
  (try dsimp only)
  repeat' split
  all_goals repeat' first | (with_reducible first | exact h0 | assumption | refine next_canon ?_ | refine illegalOperand_canon ?_ _ | refine modArr_canon ?_ _ _ | refine foldl_canon ?_ _ _ ?_ | refine foldlP_canon ?_ _ _ ?_ | intro _ _ _) | split

theorem execTrap_canon {u : State} (h : Canon u) (code : BitVec 16) : CanonOut (execTrap code u) := by
  unfold execTrap
  (try dsimp only)
  repeat' split
  all_goals repeat' first | (with_reducible first | exact h | assumption | refine next_canon ?_ | refine modCore_canon ?_ _ _) | split

theorem execRett_canon {u : State} (h : Canon u)  : CanonOut (execRett u) := by
  unfold execRett
  (try dsimp only)
  repeat' split
  all_goals repeat' first | (with_reducible first | exact h | assumption | refine next_canon ?_ | refine illegalOperand_canon ?_ _ | refine returnFromTrap_canon ?_ _ _ ?_ | intro _ _ | intro _) | split

theorem execRetire_canon {u : State} (h : Canon u)  : CanonOut (execRetire u) := by
  unfold execRetire
  (try dsimp only)
  repeat' split
  all_goals repeat' first | (with_reducible first | exact h | assumption | refine next_canon ?_ | refine faultTask_canon ?_ _ _ | refine retireTask_canon ?_ _) | split

theorem markUnchk_canon {u : State} (h : Canon u) (c : Nat) (rs : List Nat) : Canon (markUnchk u c rs) := by
  unfold markUnchk
  (try dsimp only)
  repeat' split
  all_goals repeat' first | (with_reducible first | exact h | assumption | refine modSeq_canon ?_ _ _) | split

theorem execSchrd_canon {u : State} (h : Canon u) (d n : BitVec 5) : CanonOut (execSchrd d n u) := by
  unfold execSchrd
  (try dsimp only)
  repeat' split
  all_goals repeat' first | (with_reducible first | exact h | assumption | refine next_canon ?_ | refine coreReq_canon ?_ _ _ _ _ _ | refine illegalOperand_canon ?_ _ | refine markUnchk_canon ?_ _ _) | split

theorem execSchwr_canon {u : State} (h : Canon u) (a n : BitVec 5) : CanonOut (execSchwr a n u) := by
  unfold execSchwr
  (try dsimp only)
  repeat' split
  all_goals repeat' first | (with_reducible first | exact h | assumption | refine next_canon ?_ | refine coreReq_canon ?_ _ _ _ _ _ | refine illegalOperand_canon ?_ _) | split

theorem execSchcommit_canon {u : State} (h : Canon u) (d : BitVec 5) : CanonOut (execSchcommit d u) := by
  unfold execSchcommit
  (try dsimp only)
  repeat' split
  all_goals repeat' first | (with_reducible first | exact h | assumption | refine next_canon ?_ | refine coreReq_canon ?_ _ _ _ _ _ | refine illegalOperand_canon ?_ _ | refine markUnchk_canon ?_ _ _) | split

theorem execTilenext_canon {u : State} (h : Canon u) (d : BitVec 4) : CanonOut (execTilenext d u) := by
  unfold execTilenext
  (try dsimp only)
  repeat' split
  all_goals repeat' first | (with_reducible first | exact h | assumption | refine next_canon ?_ | refine coreReq_canon ?_ _ _ _ _ _ | refine illegalOperand_canon ?_ _ | refine markUnchk_canon ?_ _ _) | split

theorem sendMarks_canon {u : State} (h : Canon u) (m : Dword) : Canon (sendMarks u m) := by
  unfold sendMarks
  (try dsimp only)
  repeat' split
  all_goals repeat' first | (with_reducible first | exact h | assumption | refine sendReq_canon ?_ _ _) | split

theorem execCvmark_canon {u : State} (h : Canon u) (a : BitVec 5) : CanonOut (execCvmark a u) := by
  unfold execCvmark
  (try dsimp only)
  repeat' split
  all_goals repeat' first | (with_reducible first | exact h | assumption | refine next_canon ?_ | refine release_canon ?_ _ _ | refine modGen_canon ?_ _ _ | refine illegalOperand_canon ?_ _ | refine sendMarks_canon ?_ _) | split

theorem readNow_canon {u : State} (h : Canon u) (c : Nat) (x : Xl) (n : Nat) : Canon (readNow u c x n).1 := by
  unfold readNow
  (try dsimp only)
  repeat' split
  all_goals repeat' first | (with_reducible first | exact h | assumption | refine loadBytes_canon ?_ _ _ _ _ _ | refine pair_canon (loadBytes_canon ?_ _ _ _ _ _) (by assumption) | refine beforeAccess_canon ?_ _ _) | split

theorem sendPush_canon {u : State} (h : Canon u) (d : BitVec 5) (r : BitVec 512) : Canon (sendPush u d r) := by
  unfold sendPush
  (try dsimp only)
  repeat' split
  all_goals repeat' first | (with_reducible first | exact h | assumption | refine modTeam_canon ?_ _ _ | refine release_canon ?_ _ _ | refine markUnchk_canon ?_ _ _) | split

theorem execSpawn_canon {u : State} (h : Canon u) (d a : BitVec 5) : CanonOut (execSpawn d a u) := by
  unfold execSpawn
  (try dsimp only)
  repeat' split
  all_goals repeat' first | (with_reducible first | exact h | assumption | refine next_canon ?_ | refine illegalOperand_canon ?_ _ | refine accTrap_canon (checkAccess_canon ?_ _ _ _ _ _) (by assumption) | refine accOk_canon (checkAccess_canon ?_ _ _ _ _ _) (by assumption) | refine readNow_canon ?_ _ _ _ | refine pair_canon (readNow_canon ?_ _ _ _) (by assumption) | refine sendPush_canon ?_ _ _) | split

theorem execJoinw_canon {u : State} (h : Canon u) (d : BitVec 4) (a : BitVec 5) : CanonOut (execJoinw d a u) := by
  unfold execJoinw
  (try dsimp only)
  repeat' split
  all_goals repeat' first | (with_reducible first | exact h | assumption | refine next_canon ?_ | refine afterAcquires_canon ?_ _ | refine accTrap_canon (checkAccess_canon ?_ _ _ _ _ _) (by assumption) | refine accOk_canon (checkAccess_canon ?_ _ _ _ _ _) (by assumption) | refine markUnchk_canon ?_ _ _ | refine modCore_canon ?_ _ _) | split

theorem takeStep_canon {u : State} (h : Canon u) (p e bundle : Nat) : Canon (takeStep u p e bundle).1 := by
  unfold takeStep
  (try dsimp only)
  repeat' split
  all_goals repeat' first | (with_reducible first | exact h | assumption | refine modLoader_canon ?_ _ _ _ | refine writeO_canon ?_ _ _ _ | refine modEdge_canon ?_ _ _ | refine getD_canon ?_ ?_) | split

theorem takeEdges_canon {u : State} (h : Canon u) (p bundle : Nat) (z0 : List Nat) : Canon (takeEdges u p bundle z0).1 := by
  induction z0 generalizing u p bundle with
  | nil =>
    unfold takeEdges
    (try dsimp only)
    repeat' split
    all_goals repeat' first | (with_reducible first | exact h | assumption | refine takeStep_canon ?_ _ _ _ | refine pair_canon (takeStep_canon ?_ _ _ _) (by assumption)) | split
  | cons x_ t_ ih =>
    unfold takeEdges
    (try dsimp only)
    repeat' split
    all_goals repeat' first | (with_reducible first | exact h | assumption | refine takeStep_canon ?_ _ _ _ | refine pair_canon (takeStep_canon ?_ _ _ _) (by assumption) | refine ih ?_ _ _ | refine pair_canon (ih ?_ _ _) (by assumption)) | split

theorem takeSteps_canon {u : State} (h : Canon u) (bundle : Nat) (z0 : List Nat) : Canon (takeSteps u bundle z0).1 := by
  induction z0 generalizing u bundle with
  | nil =>
    unfold takeSteps
    (try dsimp only)
    repeat' split
    all_goals repeat' first | (with_reducible first | exact h | assumption | refine takeEdges_canon ?_ _ _ _ | refine pair_canon (takeEdges_canon ?_ _ _ _) (by assumption)) | split
  | cons x_ t_ ih =>
    unfold takeSteps
    (try dsimp only)
    repeat' split
    all_goals repeat' first | (with_reducible first | exact h | assumption | refine takeEdges_canon ?_ _ _ _ | refine pair_canon (takeEdges_canon ?_ _ _ _) (by assumption) | refine ih ?_ _ | refine pair_canon (ih ?_ _) (by assumption)) | split

theorem schedule_canon {u : State} (h : Canon u) (c t : Nat) (v : ArrEv) : Canon (schedule u c t v) := by
  unfold schedule
  (try dsimp only)
  repeat' split
  all_goals repeat' first | (with_reducible first | exact h | assumption | refine modArr_canon ?_ _ _) | split

theorem inject_canon {u : State} (h : Canon u) (m : BitVec 4) (i : Instr) : Canon (inject u m i) := by
  unfold inject
  (try dsimp only)
  repeat' split
  all_goals repeat' first | (with_reducible first | exact h | assumption | refine takeSteps_canon ?_ _ _ | refine pair_canon (takeSteps_canon ?_ _ _) (by assumption) | refine schedule_canon ?_ _ _ _ | refine modArr_canon ?_ _ _) | split

theorem issueW_canon {u : State} (h : Canon u) (m : BitVec 4) (i : Instr) : CanonOut (issueW u m i) := by
  unfold issueW
  (try dsimp only)
  repeat' split
  all_goals repeat' first | (with_reducible first | exact h | assumption | refine next_canon ?_ | refine inject_canon ?_ _ _) | split

theorem execCnop_canon {u : State} (h : Canon u)  : CanonOut (execCnop u) := by
  unfold execCnop
  (try dsimp only)
  repeat' split
  all_goals repeat' first | (with_reducible first | exact h | assumption | refine next_canon ?_) | split

theorem execFadd_canon {u : State} (h : Canon u) (m : BitVec 4) (d a b : BitVec 5) (n : BitVec 1) (t : BitVec 4) (p : BitVec 1) : CanonOut (execFadd m d a b n t p u) := by
  unfold execFadd
  (try dsimp only)
  repeat' split
  all_goals repeat' first | (with_reducible first | exact h | assumption | refine next_canon ?_ | refine issueW_canon ?_ _ _ | refine out_canon (issueW_canon ?_ _ _) (by assumption)) | split

theorem execFsub_canon {u : State} (h : Canon u) (m : BitVec 4) (d a b : BitVec 5) (n : BitVec 1) (t : BitVec 4) (p : BitVec 1) : CanonOut (execFsub m d a b n t p u) := by
  unfold execFsub
  (try dsimp only)
  repeat' split
  all_goals repeat' first | (with_reducible first | exact h | assumption | refine next_canon ?_ | refine issueW_canon ?_ _ _ | refine out_canon (issueW_canon ?_ _ _) (by assumption)) | split

theorem execFmul_canon {u : State} (h : Canon u) (m : BitVec 4) (d a b : BitVec 5) (n : BitVec 1) (t : BitVec 4) (p : BitVec 1) : CanonOut (execFmul m d a b n t p u) := by
  unfold execFmul
  (try dsimp only)
  repeat' split
  all_goals repeat' first | (with_reducible first | exact h | assumption | refine next_canon ?_ | refine issueW_canon ?_ _ _ | refine out_canon (issueW_canon ?_ _ _) (by assumption)) | split

theorem execFfma_canon {u : State} (h : Canon u) (m : BitVec 4) (d a b : BitVec 5) (n : BitVec 1) (t : BitVec 4) (p : BitVec 1) : CanonOut (execFfma m d a b n t p u) := by
  unfold execFfma
  (try dsimp only)
  repeat' split
  all_goals repeat' first | (with_reducible first | exact h | assumption | refine next_canon ?_ | refine issueW_canon ?_ _ _ | refine out_canon (issueW_canon ?_ _ _) (by assumption)) | split

theorem execFfms_canon {u : State} (h : Canon u) (m : BitVec 4) (d a b : BitVec 5) (n : BitVec 1) (t : BitVec 4) (p : BitVec 1) : CanonOut (execFfms m d a b n t p u) := by
  unfold execFfms
  (try dsimp only)
  repeat' split
  all_goals repeat' first | (with_reducible first | exact h | assumption | refine next_canon ?_ | refine issueW_canon ?_ _ _ | refine out_canon (issueW_canon ?_ _ _) (by assumption)) | split

theorem execFmin_canon {u : State} (h : Canon u) (m : BitVec 4) (d a b : BitVec 5) (n : BitVec 1) (t : BitVec 4) (p : BitVec 1) : CanonOut (execFmin m d a b n t p u) := by
  unfold execFmin
  (try dsimp only)
  repeat' split
  all_goals repeat' first | (with_reducible first | exact h | assumption | refine next_canon ?_ | refine issueW_canon ?_ _ _ | refine out_canon (issueW_canon ?_ _ _) (by assumption)) | split

theorem execFmax_canon {u : State} (h : Canon u) (m : BitVec 4) (d a b : BitVec 5) (n : BitVec 1) (t : BitVec 4) (p : BitVec 1) : CanonOut (execFmax m d a b n t p u) := by
  unfold execFmax
  (try dsimp only)
  repeat' split
  all_goals repeat' first | (with_reducible first | exact h | assumption | refine next_canon ?_ | refine issueW_canon ?_ _ _ | refine out_canon (issueW_canon ?_ _ _) (by assumption)) | split

theorem execFabs_canon {u : State} (h : Canon u) (m : BitVec 4) (d a : BitVec 5) (n : BitVec 1) (t : BitVec 4) (p : BitVec 1) : CanonOut (execFabs m d a n t p u) := by
  unfold execFabs
  (try dsimp only)
  repeat' split
  all_goals repeat' first | (with_reducible first | exact h | assumption | refine next_canon ?_ | refine issueW_canon ?_ _ _ | refine out_canon (issueW_canon ?_ _ _) (by assumption)) | split

theorem execFneg_canon {u : State} (h : Canon u) (m : BitVec 4) (d a : BitVec 5) (n : BitVec 1) (t : BitVec 4) (p : BitVec 1) : CanonOut (execFneg m d a n t p u) := by
  unfold execFneg
  (try dsimp only)
  repeat' split
  all_goals repeat' first | (with_reducible first | exact h | assumption | refine next_canon ?_ | refine issueW_canon ?_ _ _ | refine out_canon (issueW_canon ?_ _ _) (by assumption)) | split

theorem execFcmp_canon {u : State} (h : Canon u) (m : BitVec 4) (c a b : BitVec 5) (n : BitVec 1) (t : BitVec 4) (p : BitVec 1) : CanonOut (execFcmp m c a b n t p u) := by
  unfold execFcmp
  (try dsimp only)
  repeat' split
  all_goals repeat' first | (with_reducible first | exact h | assumption | refine next_canon ?_ | refine issueW_canon ?_ _ _ | refine out_canon (issueW_canon ?_ _ _) (by assumption)) | split

theorem execSel_canon {u : State} (h : Canon u) (m : BitVec 4) (d a b : BitVec 5) (n : BitVec 1) : CanonOut (execSel m d a b n u) := by
  unfold execSel
  (try dsimp only)
  repeat' split
  all_goals repeat' first | (with_reducible first | exact h | assumption | refine next_canon ?_ | refine issueW_canon ?_ _ _ | refine out_canon (issueW_canon ?_ _ _) (by assumption)) | split

theorem execIadd_canon {u : State} (h : Canon u) (m : BitVec 4) (d a b : BitVec 5) (n : BitVec 1) (t : BitVec 4) (p : BitVec 1) : CanonOut (execIadd m d a b n t p u) := by
  unfold execIadd
  (try dsimp only)
  repeat' split
  all_goals repeat' first | (with_reducible first | exact h | assumption | refine next_canon ?_ | refine issueW_canon ?_ _ _ | refine out_canon (issueW_canon ?_ _ _) (by assumption)) | split

theorem execIsub_canon {u : State} (h : Canon u) (m : BitVec 4) (d a b : BitVec 5) (n : BitVec 1) (t : BitVec 4) (p : BitVec 1) : CanonOut (execIsub m d a b n t p u) := by
  unfold execIsub
  (try dsimp only)
  repeat' split
  all_goals repeat' first | (with_reducible first | exact h | assumption | refine next_canon ?_ | refine issueW_canon ?_ _ _ | refine out_canon (issueW_canon ?_ _ _) (by assumption)) | split

theorem execImul_canon {u : State} (h : Canon u) (m : BitVec 4) (d a b : BitVec 5) (n : BitVec 1) (t : BitVec 4) (p : BitVec 1) : CanonOut (execImul m d a b n t p u) := by
  unfold execImul
  (try dsimp only)
  repeat' split
  all_goals repeat' first | (with_reducible first | exact h | assumption | refine next_canon ?_ | refine issueW_canon ?_ _ _ | refine out_canon (issueW_canon ?_ _ _) (by assumption)) | split

theorem execImac_canon {u : State} (h : Canon u) (m : BitVec 4) (d a b : BitVec 5) (n : BitVec 1) (t : BitVec 4) (p : BitVec 1) : CanonOut (execImac m d a b n t p u) := by
  unfold execImac
  (try dsimp only)
  repeat' split
  all_goals repeat' first | (with_reducible first | exact h | assumption | refine next_canon ?_ | refine issueW_canon ?_ _ _ | refine out_canon (issueW_canon ?_ _ _) (by assumption)) | split

theorem execQmul_canon {u : State} (h : Canon u) (m : BitVec 4) (d a b : BitVec 5) (n : BitVec 1) (t : BitVec 4) (p : BitVec 1) : CanonOut (execQmul m d a b n t p u) := by
  unfold execQmul
  (try dsimp only)
  repeat' split
  all_goals repeat' first | (with_reducible first | exact h | assumption | refine next_canon ?_ | refine issueW_canon ?_ _ _ | refine out_canon (issueW_canon ?_ _ _) (by assumption)) | split

theorem execQmac_canon {u : State} (h : Canon u) (m : BitVec 4) (d a b : BitVec 5) (n : BitVec 1) (t : BitVec 4) (p : BitVec 1) : CanonOut (execQmac m d a b n t p u) := by
  unfold execQmac
  (try dsimp only)
  repeat' split
  all_goals repeat' first | (with_reducible first | exact h | assumption | refine next_canon ?_ | refine issueW_canon ?_ _ _ | refine out_canon (issueW_canon ?_ _ _) (by assumption)) | split

theorem execWAnd_canon {u : State} (h : Canon u) (m : BitVec 4) (d a b : BitVec 5) (n : BitVec 1) (t : BitVec 4) (p : BitVec 1) : CanonOut (execWAnd m d a b n t p u) := by
  unfold execWAnd
  (try dsimp only)
  repeat' split
  all_goals repeat' first | (with_reducible first | exact h | assumption | refine next_canon ?_ | refine issueW_canon ?_ _ _ | refine out_canon (issueW_canon ?_ _ _) (by assumption)) | split

theorem execWOr_canon {u : State} (h : Canon u) (m : BitVec 4) (d a b : BitVec 5) (n : BitVec 1) (t : BitVec 4) (p : BitVec 1) : CanonOut (execWOr m d a b n t p u) := by
  unfold execWOr
  (try dsimp only)
  repeat' split
  all_goals repeat' first | (with_reducible first | exact h | assumption | refine next_canon ?_ | refine issueW_canon ?_ _ _ | refine out_canon (issueW_canon ?_ _ _) (by assumption)) | split

theorem execWXor_canon {u : State} (h : Canon u) (m : BitVec 4) (d a b : BitVec 5) (n : BitVec 1) (t : BitVec 4) (p : BitVec 1) : CanonOut (execWXor m d a b n t p u) := by
  unfold execWXor
  (try dsimp only)
  repeat' split
  all_goals repeat' first | (with_reducible first | exact h | assumption | refine next_canon ?_ | refine issueW_canon ?_ _ _ | refine out_canon (issueW_canon ?_ _ _) (by assumption)) | split

theorem execWShl_canon {u : State} (h : Canon u) (m : BitVec 4) (d a b : BitVec 5) (n : BitVec 1) (t : BitVec 4) (p : BitVec 1) : CanonOut (execWShl m d a b n t p u) := by
  unfold execWShl
  (try dsimp only)
  repeat' split
  all_goals repeat' first | (with_reducible first | exact h | assumption | refine next_canon ?_ | refine issueW_canon ?_ _ _ | refine out_canon (issueW_canon ?_ _ _) (by assumption)) | split

theorem execWShr_canon {u : State} (h : Canon u) (m : BitVec 4) (d a b : BitVec 5) (n : BitVec 1) (t : BitVec 4) (p : BitVec 1) : CanonOut (execWShr m d a b n t p u) := by
  unfold execWShr
  (try dsimp only)
  repeat' split
  all_goals repeat' first | (with_reducible first | exact h | assumption | refine next_canon ?_ | refine issueW_canon ?_ _ _ | refine out_canon (issueW_canon ?_ _ _) (by assumption)) | split

theorem execWSar_canon {u : State} (h : Canon u) (m : BitVec 4) (d a b : BitVec 5) (n : BitVec 1) (t : BitVec 4) (p : BitVec 1) : CanonOut (execWSar m d a b n t p u) := by
  unfold execWSar
  (try dsimp only)
  repeat' split
  all_goals repeat' first | (with_reducible first | exact h | assumption | refine next_canon ?_ | refine issueW_canon ?_ _ _ | refine out_canon (issueW_canon ?_ _ _) (by assumption)) | split

theorem execIcmp_canon {u : State} (h : Canon u) (m : BitVec 4) (c a b : BitVec 5) (n : BitVec 1) (t : BitVec 4) (p : BitVec 1) : CanonOut (execIcmp m c a b n t p u) := by
  unfold execIcmp
  (try dsimp only)
  repeat' split
  all_goals repeat' first | (with_reducible first | exact h | assumption | refine next_canon ?_ | refine issueW_canon ?_ _ _ | refine out_canon (issueW_canon ?_ _ _) (by assumption)) | split

theorem execImin_canon {u : State} (h : Canon u) (m : BitVec 4) (d a b : BitVec 5) (n : BitVec 1) (t : BitVec 4) (p : BitVec 1) : CanonOut (execImin m d a b n t p u) := by
  unfold execImin
  (try dsimp only)
  repeat' split
  all_goals repeat' first | (with_reducible first | exact h | assumption | refine next_canon ?_ | refine issueW_canon ?_ _ _ | refine out_canon (issueW_canon ?_ _ _) (by assumption)) | split

theorem execImax_canon {u : State} (h : Canon u) (m : BitVec 4) (d a b : BitVec 5) (n : BitVec 1) (t : BitVec 4) (p : BitVec 1) : CanonOut (execImax m d a b n t p u) := by
  unfold execImax
  (try dsimp only)
  repeat' split
  all_goals repeat' first | (with_reducible first | exact h | assumption | refine next_canon ?_ | refine issueW_canon ?_ _ _ | refine out_canon (issueW_canon ?_ _ _) (by assumption)) | split

theorem execFdiv_canon {u : State} (h : Canon u) (m : BitVec 4) (d a b : BitVec 5) (n : BitVec 1) (t : BitVec 4) (p : BitVec 1) : CanonOut (execFdiv m d a b n t p u) := by
  unfold execFdiv
  (try dsimp only)
  repeat' split
  all_goals repeat' first | (with_reducible first | exact h | assumption | refine next_canon ?_ | refine issueW_canon ?_ _ _ | refine out_canon (issueW_canon ?_ _ _) (by assumption)) | split

theorem execFsqrt_canon {u : State} (h : Canon u) (m : BitVec 4) (d a : BitVec 5) (n : BitVec 1) (t : BitVec 4) (p : BitVec 1) : CanonOut (execFsqrt m d a n t p u) := by
  unfold execFsqrt
  (try dsimp only)
  repeat' split
  all_goals repeat' first | (with_reducible first | exact h | assumption | refine next_canon ?_ | refine issueW_canon ?_ _ _ | refine out_canon (issueW_canon ?_ _ _) (by assumption)) | split

theorem execFrcp_canon {u : State} (h : Canon u) (m : BitVec 4) (d a : BitVec 5) (n : BitVec 1) (t : BitVec 4) (p : BitVec 1) : CanonOut (execFrcp m d a n t p u) := by
  unfold execFrcp
  (try dsimp only)
  repeat' split
  all_goals repeat' first | (with_reducible first | exact h | assumption | refine next_canon ?_ | refine issueW_canon ?_ _ _ | refine out_canon (issueW_canon ?_ _ _) (by assumption)) | split

theorem execFrsq_canon {u : State} (h : Canon u) (m : BitVec 4) (d a : BitVec 5) (n : BitVec 1) (t : BitVec 4) (p : BitVec 1) : CanonOut (execFrsq m d a n t p u) := by
  unfold execFrsq
  (try dsimp only)
  repeat' split
  all_goals repeat' first | (with_reducible first | exact h | assumption | refine next_canon ?_ | refine issueW_canon ?_ _ _ | refine out_canon (issueW_canon ?_ _ _) (by assumption)) | split

theorem execFexp2_canon {u : State} (h : Canon u) (m : BitVec 4) (d a : BitVec 5) (n : BitVec 1) (t : BitVec 4) (p : BitVec 1) : CanonOut (execFexp2 m d a n t p u) := by
  unfold execFexp2
  (try dsimp only)
  repeat' split
  all_goals repeat' first | (with_reducible first | exact h | assumption | refine next_canon ?_ | refine issueW_canon ?_ _ _ | refine out_canon (issueW_canon ?_ _ _) (by assumption)) | split

theorem execFlog2_canon {u : State} (h : Canon u) (m : BitVec 4) (d a : BitVec 5) (n : BitVec 1) (t : BitVec 4) (p : BitVec 1) : CanonOut (execFlog2 m d a n t p u) := by
  unfold execFlog2
  (try dsimp only)
  repeat' split
  all_goals repeat' first | (with_reducible first | exact h | assumption | refine next_canon ?_ | refine issueW_canon ?_ _ _ | refine out_canon (issueW_canon ?_ _ _) (by assumption)) | split

theorem execMov_canon {u : State} (h : Canon u) (m : BitVec 4) (d a : BitVec 5) (p : BitVec 1) : CanonOut (execMov m d a p u) := by
  unfold execMov
  (try dsimp only)
  repeat' split
  all_goals repeat' first | (with_reducible first | exact h | assumption | refine next_canon ?_ | refine issueW_canon ?_ _ _ | refine out_canon (issueW_canon ?_ _ _) (by assumption)) | split

theorem execMovx_canon {u : State} (h : Canon u) (m : BitVec 4) (d a : BitVec 5) (p : BitVec 1) : CanonOut (execMovx m d a p u) := by
  unfold execMovx
  (try dsimp only)
  repeat' split
  all_goals repeat' first | (with_reducible first | exact h | assumption | refine next_canon ?_ | refine issueW_canon ?_ _ _ | refine out_canon (issueW_canon ?_ _ _) (by assumption)) | split

theorem execMovi_canon {u : State} (h : Canon u) (m : BitVec 4) (d : BitVec 5) (i : BitVec 10) (t : BitVec 4) (p : BitVec 1) : CanonOut (execMovi m d i t p u) := by
  unfold execMovi
  (try dsimp only)
  repeat' split
  all_goals repeat' first | (with_reducible first | exact h | assumption | refine next_canon ?_ | refine issueW_canon ?_ _ _ | refine out_canon (issueW_canon ?_ _ _) (by assumption)) | split

theorem execCvt_canon {u : State} (h : Canon u) (m : BitVec 4) (d a b : BitVec 5) (n : BitVec 1) (t : BitVec 4) (p : BitVec 1) : CanonOut (execCvt m d a b n t p u) := by
  unfold execCvt
  (try dsimp only)
  repeat' split
  all_goals repeat' first | (with_reducible first | exact h | assumption | refine next_canon ?_ | refine issueW_canon ?_ _ _ | refine out_canon (issueW_canon ?_ _ _) (by assumption)) | split

theorem execCvtsr_canon {u : State} (h : Canon u) (m : BitVec 4) (d a b : BitVec 5) (n : BitVec 1) (t : BitVec 4) (p : BitVec 1) : CanonOut (execCvtsr m d a b n t p u) := by
  unfold execCvtsr
  (try dsimp only)
  repeat' split
  all_goals repeat' first | (with_reducible first | exact h | assumption | refine next_canon ?_ | refine issueW_canon ?_ _ _ | refine out_canon (issueW_canon ?_ _ _) (by assumption)) | split

theorem execSrand_canon {u : State} (h : Canon u) (m : BitVec 4) (a : BitVec 5) : CanonOut (execSrand m a u) := by
  unfold execSrand
  (try dsimp only)
  repeat' split
  all_goals repeat' first | (with_reducible first | exact h | assumption | refine next_canon ?_ | refine issueW_canon ?_ _ _ | refine out_canon (issueW_canon ?_ _ _) (by assumption)) | split

theorem execLane_canon {u : State} (h : Canon u) (m : BitVec 4) (d a r : BitVec 5) (p : BitVec 1) : CanonOut (execLane m d a r p u) := by
  unfold execLane
  (try dsimp only)
  repeat' split
  all_goals repeat' first | (with_reducible first | exact h | assumption | refine next_canon ?_ | refine issueW_canon ?_ _ _ | refine out_canon (issueW_canon ?_ _ _) (by assumption)) | split

theorem execCpass_canon {u : State} (h : Canon u) (m : BitVec 4) (d a : BitVec 5) (p : BitVec 1) : CanonOut (execCpass m d a p u) := by
  unfold execCpass
  (try dsimp only)
  repeat' split
  all_goals repeat' first | (with_reducible first | exact h | assumption | refine next_canon ?_ | refine issueW_canon ?_ _ _ | refine out_canon (issueW_canon ?_ _ _) (by assumption)) | split

theorem execCinj_canon {u : State} (h : Canon u) (m : BitVec 4) (a b : BitVec 5) : CanonOut (execCinj m a b u) := by
  unfold execCinj
  (try dsimp only)
  repeat' split
  all_goals repeat' first | (with_reducible first | exact h | assumption | refine next_canon ?_ | refine issueW_canon ?_ _ _ | refine out_canon (issueW_canon ?_ _ _) (by assumption)) | split

theorem execCscanAdd_canon {u : State} (h : Canon u) (m : BitVec 4) (d : BitVec 3) (a b : BitVec 5) (n : BitVec 1) (t : BitVec 4) (p : BitVec 1) : CanonOut (execCscanAdd m d a b n t p u) := by
  unfold execCscanAdd
  (try dsimp only)
  repeat' split
  all_goals repeat' first | (with_reducible first | exact h | assumption | refine next_canon ?_ | refine issueW_canon ?_ _ _ | refine out_canon (issueW_canon ?_ _ _) (by assumption)) | split

theorem execCscanMax_canon {u : State} (h : Canon u) (m : BitVec 4) (d : BitVec 3) (a b : BitVec 5) (n : BitVec 1) (t : BitVec 4) (p : BitVec 1) : CanonOut (execCscanMax m d a b n t p u) := by
  unfold execCscanMax
  (try dsimp only)
  repeat' split
  all_goals repeat' first | (with_reducible first | exact h | assumption | refine next_canon ?_ | refine issueW_canon ?_ _ _ | refine out_canon (issueW_canon ?_ _ _) (by assumption)) | split

theorem execCscanMin_canon {u : State} (h : Canon u) (m : BitVec 4) (d : BitVec 3) (a b : BitVec 5) (n : BitVec 1) (t : BitVec 4) (p : BitVec 1) : CanonOut (execCscanMin m d a b n t p u) := by
  unfold execCscanMin
  (try dsimp only)
  repeat' split
  all_goals repeat' first | (with_reducible first | exact h | assumption | refine next_canon ?_ | refine issueW_canon ?_ _ _ | refine out_canon (issueW_canon ?_ _ _) (by assumption)) | split

theorem execCscanOr_canon {u : State} (h : Canon u) (m : BitVec 4) (d : BitVec 3) (a b : BitVec 5) (n : BitVec 1) (t : BitVec 4) (p : BitVec 1) : CanonOut (execCscanOr m d a b n t p u) := by
  unfold execCscanOr
  (try dsimp only)
  repeat' split
  all_goals repeat' first | (with_reducible first | exact h | assumption | refine next_canon ?_ | refine issueW_canon ?_ _ _ | refine out_canon (issueW_canon ?_ _ _) (by assumption)) | split

theorem execCwr_canon {u : State} (h : Canon u) (m : BitVec 4) (a : BitVec 5) : CanonOut (execCwr m a u) := by
  unfold execCwr
  (try dsimp only)
  repeat' split
  all_goals repeat' first | (with_reducible first | exact h | assumption | refine next_canon ?_ | refine issueW_canon ?_ _ _ | refine out_canon (issueW_canon ?_ _ _) (by assumption)) | split

theorem execCrd_canon {u : State} (h : Canon u) (m : BitVec 4) (d a : BitVec 5) (p : BitVec 1) : CanonOut (execCrd m d a p u) := by
  unfold execCrd
  (try dsimp only)
  repeat' split
  all_goals repeat' first | (with_reducible first | exact h | assumption | refine next_canon ?_ | refine issueW_canon ?_ _ _ | refine out_canon (issueW_canon ?_ _ _) (by assumption)) | split

theorem execCld_canon {u : State} (h : Canon u) (m : BitVec 4) (d : BitVec 5) (s_ : BitVec 1) (n : BitVec 2) (i : BitVec 5) (p : BitVec 1) : CanonOut (execCld m d s_ n i p u) := by
  unfold execCld
  (try dsimp only)
  repeat' split
  all_goals repeat' first | (with_reducible first | exact h | assumption | refine next_canon ?_ | refine issueW_canon ?_ _ _ | refine out_canon (issueW_canon ?_ _ _) (by assumption)) | split

theorem execCst_canon {u : State} (h : Canon u) (m : BitVec 4) (d : BitVec 5) (s_ : BitVec 1) (n : BitVec 2) (i : BitVec 5) (p : BitVec 1) : CanonOut (execCst m d s_ n i p u) := by
  unfold execCst
  (try dsimp only)
  repeat' split
  all_goals repeat' first | (with_reducible first | exact h | assumption | refine next_canon ?_ | refine issueW_canon ?_ _ _ | refine out_canon (issueW_canon ?_ _ _) (by assumption)) | split

theorem execCaaddAdd_canon {u : State} (h : Canon u) (m : BitVec 4) (n : BitVec 2) (i : BitVec 10) : CanonOut (execCaaddAdd m n i u) := by
  unfold execCaaddAdd
  (try dsimp only)
  repeat' split
  all_goals repeat' first | (with_reducible first | exact h | assumption | refine next_canon ?_ | refine issueW_canon ?_ _ _ | refine out_canon (issueW_canon ?_ _ _) (by assumption)) | split

theorem execCaaddSet_canon {u : State} (h : Canon u) (m : BitVec 4) (n : BitVec 2) (i : BitVec 10) : CanonOut (execCaaddSet m n i u) := by
  unfold execCaaddSet
  (try dsimp only)
  repeat' split
  all_goals repeat' first | (with_reducible first | exact h | assumption | refine next_canon ?_ | refine issueW_canon ?_ _ _ | refine out_canon (issueW_canon ?_ _ _) (by assumption)) | split

theorem execCflag_canon {u : State} (h : Canon u) (m : BitVec 4) (d : BitVec 5) : CanonOut (execCflag m d u) := by
  unfold execCflag
  (try dsimp only)
  repeat' split
  all_goals repeat' first | (with_reducible first | exact h | assumption | refine next_canon ?_ | refine issueW_canon ?_ _ _ | refine out_canon (issueW_canon ?_ _ _) (by assumption)) | split

theorem execPsetOnes_canon {u : State} (h : Canon u) (m : BitVec 4) : CanonOut (execPsetOnes m u) := by
  unfold execPsetOnes
  (try dsimp only)
  repeat' split
  all_goals repeat' first | (with_reducible first | exact h | assumption | refine next_canon ?_ | refine issueW_canon ?_ _ _ | refine out_canon (issueW_canon ?_ _ _) (by assumption)) | split

theorem execPsetZero_canon {u : State} (h : Canon u) (m : BitVec 4) : CanonOut (execPsetZero m u) := by
  unfold execPsetZero
  (try dsimp only)
  repeat' split
  all_goals repeat' first | (with_reducible first | exact h | assumption | refine next_canon ?_ | refine issueW_canon ?_ _ _ | refine out_canon (issueW_canon ?_ _ _) (by assumption)) | split

theorem execPsetInv_canon {u : State} (h : Canon u) (m : BitVec 4) : CanonOut (execPsetInv m u) := by
  unfold execPsetInv
  (try dsimp only)
  repeat' split
  all_goals repeat' first | (with_reducible first | exact h | assumption | refine next_canon ?_ | refine issueW_canon ?_ _ _ | refine out_canon (issueW_canon ?_ _ _) (by assumption)) | split

theorem execPsetLoad_canon {u : State} (h : Canon u) (m : BitVec 4) (a : BitVec 5) : CanonOut (execPsetLoad m a u) := by
  unfold execPsetLoad
  (try dsimp only)
  repeat' split
  all_goals repeat' first | (with_reducible first | exact h | assumption | refine next_canon ?_ | refine issueW_canon ?_ _ _ | refine out_canon (issueW_canon ?_ _ _) (by assumption)) | split

theorem execPsetSave_canon {u : State} (h : Canon u) (m : BitVec 4) (b : BitVec 5) : CanonOut (execPsetSave m b u) := by
  unfold execPsetSave
  (try dsimp only)
  repeat' split
  all_goals repeat' first | (with_reducible first | exact h | assumption | refine next_canon ?_ | refine issueW_canon ?_ _ _ | refine out_canon (issueW_canon ?_ _ _) (by assumption)) | split

theorem execPsetAndl_canon {u : State} (h : Canon u) (m : BitVec 4) (a : BitVec 5) : CanonOut (execPsetAndl m a u) := by
  unfold execPsetAndl
  (try dsimp only)
  repeat' split
  all_goals repeat' first | (with_reducible first | exact h | assumption | refine next_canon ?_ | refine issueW_canon ?_ _ _ | refine out_canon (issueW_canon ?_ _ _) (by assumption)) | split

theorem execPsetOrl_canon {u : State} (h : Canon u) (m : BitVec 4) (a : BitVec 5) : CanonOut (execPsetOrl m a u) := by
  unfold execPsetOrl
  (try dsimp only)
  repeat' split
  all_goals repeat' first | (with_reducible first | exact h | assumption | refine next_canon ?_ | refine issueW_canon ?_ _ _ | refine out_canon (issueW_canon ?_ _ _) (by assumption)) | split

theorem execCxfRead_canon {u : State} (h : Canon u) (m : BitVec 4) (d : BitVec 5) (p : BitVec 1) : CanonOut (execCxfRead m d p u) := by
  unfold execCxfRead
  (try dsimp only)
  repeat' split
  all_goals repeat' first | (with_reducible first | exact h | assumption | refine next_canon ?_ | refine issueW_canon ?_ _ _ | refine out_canon (issueW_canon ?_ _ _) (by assumption)) | split

theorem execCxfClear_canon {u : State} (h : Canon u) (m : BitVec 4) (k_ : BitVec 5) (p : BitVec 1) : CanonOut (execCxfClear m k_ p u) := by
  unfold execCxfClear
  (try dsimp only)
  repeat' split
  all_goals repeat' first | (with_reducible first | exact h | assumption | refine next_canon ?_ | refine issueW_canon ?_ _ _ | refine out_canon (issueW_canon ?_ _ _) (by assumption)) | split

theorem execCxfReadclr_canon {u : State} (h : Canon u) (m : BitVec 4) (d k_ : BitVec 5) (p : BitVec 1) : CanonOut (execCxfReadclr m d k_ p u) := by
  unfold execCxfReadclr
  (try dsimp only)
  repeat' split
  all_goals repeat' first | (with_reducible first | exact h | assumption | refine next_canon ?_ | refine issueW_canon ?_ _ _ | refine out_canon (issueW_canon ?_ _ _) (by assumption)) | split

theorem execCstatRead_canon {u : State} (h : Canon u) (m : BitVec 4) (d : BitVec 5) : CanonOut (execCstatRead m d u) := by
  unfold execCstatRead
  (try dsimp only)
  repeat' split
  all_goals repeat' first | (with_reducible first | exact h | assumption | refine next_canon ?_ | refine issueW_canon ?_ _ _ | refine out_canon (issueW_canon ?_ _ _) (by assumption)) | split

theorem execCstatClear_canon {u : State} (h : Canon u) (m : BitVec 4) (k_ : BitVec 2) : CanonOut (execCstatClear m k_ u) := by
  unfold execCstatClear
  (try dsimp only)
  repeat' split
  all_goals repeat' first | (with_reducible first | exact h | assumption | refine next_canon ?_ | refine issueW_canon ?_ _ _ | refine out_canon (issueW_canon ?_ _ _) (by assumption)) | split

theorem execCstatReadclr_canon {u : State} (h : Canon u) (m : BitVec 4) (d : BitVec 5) (k_ : BitVec 2) : CanonOut (execCstatReadclr m d k_ u) := by
  unfold execCstatReadclr
  (try dsimp only)
  repeat' split
  all_goals repeat' first | (with_reducible first | exact h | assumption | refine next_canon ?_ | refine issueW_canon ?_ _ _ | refine out_canon (issueW_canon ?_ _ _) (by assumption)) | split

theorem execCstatTest_canon {u : State} (h : Canon u) (m : BitVec 4) (k_ : BitVec 2) : CanonOut (execCstatTest m k_ u) := by
  unfold execCstatTest
  (try dsimp only)
  repeat' split
  all_goals repeat' first | (with_reducible first | exact h | assumption | refine next_canon ?_ | refine issueW_canon ?_ _ _ | refine out_canon (issueW_canon ?_ _ _) (by assumption)) | split

theorem execMzero_canon {u : State} (h : Canon u) (m : BitVec 4) (r : BitVec 2) : CanonOut (execMzero m r u) := by
  unfold execMzero
  (try dsimp only)
  repeat' split
  all_goals repeat' first | (with_reducible first | exact h | assumption | refine next_canon ?_ | refine issueW_canon ?_ _ _ | refine out_canon (issueW_canon ?_ _ _) (by assumption)) | split

theorem execMpush_canon {u : State} (h : Canon u) (m : BitVec 4) (d a : BitVec 5) : CanonOut (execMpush m d a u) := by
  unfold execMpush
  (try dsimp only)
  repeat' split
  all_goals repeat' first | (with_reducible first | exact h | assumption | refine next_canon ?_ | refine issueW_canon ?_ _ _ | refine out_canon (issueW_canon ?_ _ _) (by assumption)) | split

theorem execMshift_canon {u : State} (h : Canon u) (m : BitVec 4) (a : BitVec 5) : CanonOut (execMshift m a u) := by
  unfold execMshift
  (try dsimp only)
  repeat' split
  all_goals repeat' first | (with_reducible first | exact h | assumption | refine next_canon ?_ | refine issueW_canon ?_ _ _ | refine out_canon (issueW_canon ?_ _ _) (by assumption)) | split

theorem execMacc_canon {u : State} (h : Canon u) (m : BitVec 4) (k_ : BitVec 1) (r : BitVec 2) (a b : BitVec 5) (n : BitVec 1) (y : BitVec 4) (p : BitVec 1) : CanonOut (execMacc m k_ r a b n y p u) := by
  unfold execMacc
  (try dsimp only)
  repeat' split
  all_goals repeat' first | (with_reducible first | exact h | assumption | refine next_canon ?_ | refine issueW_canon ?_ _ _ | refine out_canon (issueW_canon ?_ _ _) (by assumption)) | split

theorem execMaccs_canon {u : State} (h : Canon u) (m : BitVec 4) (k_ : BitVec 1) (r : BitVec 2) (a b : BitVec 5) (n : BitVec 1) (y : BitVec 4) (p : BitVec 1) : CanonOut (execMaccs m k_ r a b n y p u) := by
  unfold execMaccs
  (try dsimp only)
  repeat' split
  all_goals repeat' first | (with_reducible first | exact h | assumption | refine next_canon ?_ | refine issueW_canon ?_ _ _ | refine out_canon (issueW_canon ?_ _ _) (by assumption)) | split

theorem execMdrain_canon {u : State} (h : Canon u) (m : BitVec 4) (z : BitVec 1) (r : BitVec 2) (a : BitVec 5) (q : BitVec 2) : CanonOut (execMdrain m z r a q u) := by
  unfold execMdrain
  (try dsimp only)
  repeat' split
  all_goals repeat' first | (with_reducible first | exact h | assumption | refine next_canon ?_ | refine issueW_canon ?_ _ _ | refine out_canon (issueW_canon ?_ _ _) (by assumption)) | split

theorem execMtrOut_canon {u : State} (h : Canon u) (m : BitVec 4) (z : BitVec 1) (r : BitVec 2) (a : BitVec 5) (q : BitVec 2) : CanonOut (execMtrOut m z r a q u) := by
  unfold execMtrOut
  (try dsimp only)
  repeat' split
  all_goals repeat' first | (with_reducible first | exact h | assumption | refine next_canon ?_ | refine issueW_canon ?_ _ _ | refine out_canon (issueW_canon ?_ _ _) (by assumption)) | split

theorem execMtrIn_canon {u : State} (h : Canon u) (m : BitVec 4) (r : BitVec 2) (a : BitVec 5) (q : BitVec 2) : CanonOut (execMtrIn m r a q u) := by
  unfold execMtrIn
  (try dsimp only)
  repeat' split
  all_goals repeat' first | (with_reducible first | exact h | assumption | refine next_canon ?_ | refine issueW_canon ?_ _ _ | refine out_canon (issueW_canon ?_ _ _) (by assumption)) | split

theorem takeCapture_canon {u : State} (h : Canon u) (p edge cap pos : Nat) (v : FReg) : Canon (takeCapture u p edge cap pos v) := by
  unfold takeCapture
  (try dsimp only)
  repeat' split
  all_goals repeat' first | (with_reducible first | exact h | assumption | refine modEdge_canon ?_ _ _ | refine bind_canon ?_ ?_ | refine bindOP_canon ?_ ?_ | refine bindP_canon ?_ ?_ | refine bindAny_canon ?_ | refine opt_canon (bind_canon ?_ ?_) (by assumption) | refine opt_canon (bindP_canon ?_ ?_) (by assumption) | refine opt_canon (bindAny_canon ?_) (by assumption) | refine optP_canon (bindOP_canon ?_ ?_) (by assumption) | intro _ _ | intro _ | refine mapP_canon ?_ ?_ | intro _ _) | split

theorem behindLink_canon {u : State} (h : Canon u) (m n : Nat) (v : ArrEv) (f : State → State) (hf : ∀ w, Canon w → Canon (f w)) :
    Canon (behindLink u m n v f) := by
  unfold behindLink
  dsimp only
  split
  · exact hf _ h
  · exact schedule_canon h _ _ _

theorem cellFault_canon {u : State} (h : Canon u) (m n bundle tag : Nat) (f : Nat × Dword) : Canon (cellFault u m n bundle tag f) := by
  unfold cellFault
  (try dsimp only)
  repeat' split
  all_goals repeat' first | (with_reducible first | exact h | assumption | refine detect_canon ?_ _ _ _ _ _ | refine schedule_canon ?_ _ _ _) | split

theorem putCell_canon {u : State} (h : Canon u) (m p r c : Nat) (x : CellSt) : Canon (putCell u m p r c x) := by
  unfold putCell
  (try dsimp only)
  repeat' split
  all_goals repeat' first | (with_reducible first | exact h | assumption | refine schedule_canon ?_ _ _ _ | refine modArr_canon ?_ _ _) | split

theorem cellComes_canon {u : State} (h : Canon u) (m p r c : Nat) (x : CellSt) (bs : List (Nat × Byte)) : Canon (cellComes u m p r c x bs) := by
  unfold cellComes
  (try dsimp only)
  repeat' split
  all_goals repeat' first | (with_reducible first | exact h | assumption | refine modArr_canon ?_ _ _) | split

theorem capture_canon {u : State} (h : Canon u) (m n : Nat) (w : Wave) (p r c : Nat) (v : FReg) : Canon (capture u m n w p r c v) := by
  unfold capture
  (try dsimp only)
  repeat' split
  all_goals repeat' first | (with_reducible first | exact h | assumption | refine takeCapture_canon ?_ _ _ _ _ _ | refine behindLink_canon ?_ _ _ _ _ ?_ | refine foldl_canon ?_ _ _ ?_ | refine foldlP_canon ?_ _ _ ?_ | intro _ _ _ | intro _ _) | split

theorem reachCell_canon {u : State} (h : Canon u) (m : Nat) (w : Wave) (n r c : Nat) : Canon (reachCell u m w n r c).1 := by
  unfold reachCell
  (try dsimp only)
  repeat' split
  all_goals repeat' first | (with_reducible first | exact h | assumption | refine schedule_canon ?_ _ _ _ | refine cellFault_canon ?_ _ _ _ _ _ | refine putCell_canon ?_ _ _ _ _ _ | refine capture_canon ?_ _ _ _ _ _ _ _ | refine foldl_canon ?_ _ _ ?_ | refine foldlP_canon ?_ _ _ ?_ | intro _ _ _ | refine getD_canon ?_ ?_) | split

theorem reachAll_canon {u : State} (h : Canon u) (m : Nat) (w : Wave) (z0 : List (Nat × Nat × Nat)) : Canon (reachAll u m w z0).1 := by
  induction z0 generalizing u m w with
  | nil =>
    unfold reachAll
    (try dsimp only)
    repeat' split
    all_goals repeat' first | (with_reducible first | exact h | assumption | refine reachCell_canon ?_ _ _ _ _ _ | refine pair_canon (reachCell_canon ?_ _ _ _ _ _) (by assumption)) | split
  | cons x_ t_ ih =>
    unfold reachAll
    (try dsimp only)
    repeat' split
    all_goals repeat' first | (with_reducible first | exact h | assumption | refine reachCell_canon ?_ _ _ _ _ _ | refine pair_canon (reachCell_canon ?_ _ _ _ _ _) (by assumption) | refine ih ?_ _ _ | refine pair_canon (ih ?_ _ _) (by assumption)) | split

theorem endWave_canon {u : State} (h : Canon u) (m tag : Nat) : Canon (endWave u m tag) := by
  unfold endWave
  (try dsimp only)
  repeat' split
  all_goals repeat' first | (with_reducible first | exact h | assumption | refine modArr_canon ?_ _ _) | split

theorem reachWave_canon {u : State} (h : Canon u) (m tag : Nat) : Canon (reachWave u m tag) := by
  unfold reachWave
  (try dsimp only)
  repeat' split
  all_goals repeat' first | (with_reducible first | exact h | assumption | refine schedule_canon ?_ _ _ _ | refine reachAll_canon ?_ _ _ _ | refine pair_canon (reachAll_canon ?_ _ _ _) (by assumption) | refine endWave_canon ?_ _ _ | refine modArr_canon ?_ _ _ | refine mapP_canon ?_ ?_ | intro _ _) | split

theorem sfLand_canon {u : State} (h : Canon u) (c row col : Nat) : Canon (sfLand u c row col) := by
  unfold sfLand
  (try dsimp only)
  repeat' split
  all_goals repeat' first | (with_reducible first | exact h | assumption | refine cellFault_canon ?_ _ _ _ _ _ | refine putCell_canon ?_ _ _ _ _ _ | refine foldl_canon ?_ _ _ ?_ | refine foldlP_canon ?_ _ _ ?_ | intro _ _ _) | split

theorem trayLand_canon {u : State} (h : Canon u) (c row col : Nat) : Canon (trayLand u c row col) := by
  unfold trayLand
  (try dsimp only)
  repeat' split
  all_goals repeat' first | (with_reducible first | exact h | assumption | refine cellFault_canon ?_ _ _ _ _ _ | refine putCell_canon ?_ _ _ _ _ _ | refine foldl_canon ?_ _ _ ?_ | refine foldlP_canon ?_ _ _ ?_ | intro _ _ _) | split

theorem groupLand_canon {u : State} (h : Canon u) (c : Nat) : Canon (groupLand u c) := by
  unfold groupLand
  (try dsimp only)
  repeat' split
  all_goals repeat' first | (with_reducible first | exact h | assumption | refine modArr_canon ?_ _ _) | split

theorem arrayEvent_canon {u : State} (h : Canon u) (c : Nat) (z0 : ArrEv) : Canon (arrayEvent u c z0) := by
  unfold arrayEvent
  (try dsimp only)
  repeat' split
  all_goals repeat' first | (with_reducible first | exact h | assumption | refine detect_canon ?_ _ _ _ _ _ | refine takeCapture_canon ?_ _ _ _ _ _ | refine cellComes_canon ?_ _ _ _ _ _ _ | refine endWave_canon ?_ _ _ | refine reachWave_canon ?_ _ _ | refine sfLand_canon ?_ _ _ _ | refine trayLand_canon ?_ _ _ _ | refine groupLand_canon ?_ _) | split

theorem inCycle_canon {u : State} (h : Canon u) (c t : Nat) (f : State → State) (hf : ∀ v, Canon v → Canon (f v)) : Canon (inCycle u c t f) := by
  unfold inCycle
  exact modCore_canon (hf _ (modCore_canon h _ _)) _ _

theorem takeArr_canon {u : State} (h : Canon u) (c : Nat) (d : Nat × ArrEv) : Canon (takeArr u c d) := by
  unfold takeArr
  (try dsimp only)
  repeat' split
  all_goals repeat' first | (with_reducible first | exact h | assumption | refine arrayEvent_canon ?_ _ _ | refine inCycle_canon ?_ _ _ _ ?_ | intro _ _ _ _ _ | intro _ _ _ _ | intro _ _ | refine modArr_canon ?_ _ _) | split

theorem whenDue_canon {u : State} (h : Canon u) (c : Nat) (v : ArrEv) : Canon (whenDue u c v) := by
  unfold whenDue
  (try dsimp only)
  repeat' split
  all_goals repeat' first | (with_reducible first | exact h | assumption | refine takeArr_canon ?_ _ _) | split

theorem execWavefrontReach_canon {u : State} (h : Canon u) (core tag : Nat) : CanonOut (execWavefrontReach core tag u) := by
  unfold execWavefrontReach
  (try dsimp only)
  repeat' split
  all_goals repeat' first | (with_reducible first | exact h | assumption | refine next_canon ?_ | refine whenDue_canon ?_ _ _) | split

theorem execSfDeliver_canon {u : State} (h : Canon u) (core row col : Nat) : CanonOut (execSfDeliver core row col u) := by
  unfold execSfDeliver
  (try dsimp only)
  repeat' split
  all_goals repeat' first | (with_reducible first | exact h | assumption | refine next_canon ?_ | refine whenDue_canon ?_ _ _) | split

theorem execTraySumLand_canon {u : State} (h : Canon u) (core row col : Nat) : CanonOut (execTraySumLand core row col u) := by
  unfold execTraySumLand
  (try dsimp only)
  repeat' split
  all_goals repeat' first | (with_reducible first | exact h | assumption | refine next_canon ?_ | refine whenDue_canon ?_ _ _) | split

theorem execFlagGroupValid_canon {u : State} (h : Canon u) (core : Nat) : CanonOut (execFlagGroupValid core u) := by
  unfold execFlagGroupValid
  (try dsimp only)
  repeat' split
  all_goals repeat' first | (with_reducible first | exact h | assumption | refine next_canon ?_ | refine whenDue_canon ?_ _ _) | split

theorem fetchBlocks_canon {u : State} (h : Canon u) (p va : Nat) (z0 : Nat) : Canon (fetchBlocks u p va z0).1 := by
  induction z0 generalizing u p va with
  | zero =>
    unfold fetchBlocks
    (try dsimp only)
    repeat' split
    all_goals repeat' first | (with_reducible first | exact h | assumption | refine loaderTranslate_canon ?_ _ _ _ | refine pair_canon (loaderTranslate_canon ?_ _ _ _) (by assumption) | refine clusterRead_canon ?_ _ _ _ | refine pair_canon (clusterRead_canon ?_ _ _ _) (by assumption)) | split
  | succ n_ ih =>
    unfold fetchBlocks
    (try dsimp only)
    repeat' split
    all_goals repeat' first | (with_reducible first | exact h | assumption | refine loaderTranslate_canon ?_ _ _ _ | refine pair_canon (loaderTranslate_canon ?_ _ _ _) (by assumption) | refine clusterRead_canon ?_ _ _ _ | refine pair_canon (clusterRead_canon ?_ _ _ _) (by assumption) | refine ih ?_ _ _ | refine pair_canon (ih ?_ _ _) (by assumption)) | split

theorem recordFor_canon {u : State} (h0 : Canon u) (p h : Nat) : Canon (recordFor u p h).1 := by
  unfold recordFor
  (try dsimp only)
  repeat' split
  all_goals repeat' first | (with_reducible first | exact h0 | assumption | refine fetchBlocks_canon ?_ _ _ _ | refine pair_canon (fetchBlocks_canon ?_ _ _ _) (by assumption) | refine modEdge_canon ?_ _ _) | split

theorem execRecordFetch_canon {u : State} (h : Canon u) (core handle : Nat) : CanonOut (execRecordFetch core handle u) := by
  unfold execRecordFetch
  (try dsimp only)
  repeat' split
  all_goals repeat' first | (with_reducible first | exact h | assumption | refine next_canon ?_ | refine recordFor_canon ?_ _ _ | refine pair_canon (recordFor_canon ?_ _ _) (by assumption)) | split

theorem armLoader_canon {u : State} (h0 : Canon u) (i : Instr) (e h o count : Nat) (drain order unfold : Bool) (prog : Core → Except Unit (Option (List Half))) : CanonOut (armLoader u i e h o count drain order unfold prog) := by
  unfold armLoader
  (try dsimp only)
  repeat' split
  all_goals repeat' first | (with_reducible first | exact h0 | assumption | refine next_canon ?_ | refine modLoader_canon ?_ _ _ _ | refine afterAcquires_canon ?_ _ | refine preciseTrap_canon ?_ _ _ | refine illegalOperand_canon ?_ _ | refine memoryTrap_canon ?_ _ _ _ | refine recordFor_canon ?_ _ _ | refine pair_canon (recordFor_canon ?_ _ _) (by assumption)) | split

theorem execLarm_canon {u : State} (h0 : Canon u) (e : BitVec 2) (h : BitVec 12) (o : BitVec 3) (m : BitVec 9) : CanonOut (execLarm e h o m u) := by
  unfold execLarm
  (try dsimp only)
  repeat' split
  all_goals repeat' first | (with_reducible first | exact h0 | assumption | refine next_canon ?_ | refine armLoader_canon ?_ _ _ _ _ _ _ _ _ _ | refine out_canon (armLoader_canon ?_ _ _ _ _ _ _ _ _ _) (by assumption)) | split

theorem execEdrain_canon {u : State} (h0 : Canon u) (e : BitVec 2) (h : BitVec 12) (o : BitVec 3) (p : BitVec 3) (c : BitVec 6) : CanonOut (execEdrain e h o p c u) := by
  unfold execEdrain
  (try dsimp only)
  repeat' split
  all_goals repeat' first | (with_reducible first | exact h0 | assumption | refine next_canon ?_ | refine armLoader_canon ?_ _ _ _ _ _ _ _ _ _ | refine out_canon (armLoader_canon ?_ _ _ _ _ _ _ _ _ _) (by assumption)) | split

theorem atTarget_canon {u : State} (h : Canon u) (i : Instr) (f : Nat → Out) (hf : ∀ n, CanonOut (f n)) : CanonOut (atTarget u i f) := by
  unfold atTarget
  split
  · exact next_canon (illegalOperand_canon h _)
  · exact hf _

theorem execLdis_canon {u : State} (h : Canon u) (e : BitVec 2) : CanonOut (execLdis e u) := by
  unfold execLdis
  (try dsimp only)
  repeat' split
  all_goals repeat' first | (with_reducible first | exact h | assumption | refine next_canon ?_ | refine modLoader_canon ?_ _ _ _ | refine atTarget_canon ?_ _ _ ?_ | intro _ _ | intro _) | split

theorem execOset_canon {u : State} (h : Canon u) (o : BitVec 3) (i : BitVec 9) : CanonOut (execOset o i u) := by
  unfold execOset
  (try dsimp only)
  repeat' split
  all_goals repeat' first | (with_reducible first | exact h | assumption | refine next_canon ?_ | refine writeO_canon ?_ _ _ _ | refine illegalOperand_canon ?_ _ | refine atTarget_canon ?_ _ _ ?_ | intro _ _ | intro _) | split

theorem execOinc_canon {u : State} (h : Canon u) (o : BitVec 3) (i : BitVec 9) : CanonOut (execOinc o i u) := by
  unfold execOinc
  (try dsimp only)
  repeat' split
  all_goals repeat' first | (with_reducible first | exact h | assumption | refine next_canon ?_ | refine writeO_canon ?_ _ _ _ | refine illegalOperand_canon ?_ _ | refine atTarget_canon ?_ _ _ ?_ | intro _ _ | intro _) | split

theorem execRcflush_canon {u : State} (h0 : Canon u) (h : BitVec 12) : CanonOut (execRcflush h u) := by
  unfold execRcflush
  (try dsimp only)
  repeat' split
  all_goals repeat' first | (with_reducible first | exact h0 | assumption | refine next_canon ?_ | refine atTarget_canon ?_ _ _ ?_ | intro _ _ | intro _ | refine modEdge_canon ?_ _ _) | split

theorem execNope_canon {u : State} (h : Canon u)  : CanonOut (execNope u) := by
  unfold execNope
  (try dsimp only)
  repeat' split
  all_goals repeat' first | (with_reducible first | exact h | assumption | refine next_canon ?_) | split

theorem putProgram_canon {u : State} (h : Canon u) (c : Nat) (p : BitVec 3) (va : Nat) (ws : List Half) : Canon (putProgram u c p va ws) := by
  unfold putProgram
  (try dsimp only)
  repeat' split
  all_goals repeat' first | (with_reducible first | exact h | assumption | refine detect_canon ?_ _ _ _ _ _ | refine modEdge_canon ?_ _ _) | split

theorem loadProgram_canon {u : State} (h : Canon u) (c : Nat) (p : BitVec 3) (va : Nat) (t : Xl) : Canon (loadProgram u c p va t) := by
  unfold loadProgram
  (try dsimp only)
  repeat' split
  all_goals repeat' first | (with_reducible first | exact h | assumption | refine clusterRead_canon ?_ _ _ _ | refine pair_canon (clusterRead_canon ?_ _ _ _) (by assumption) | refine putProgram_canon ?_ _ _ _ _ | refine mapP_canon ?_ ?_ | intro _ _) | split

theorem execEpld_canon {u : State} (h : Canon u) (x : BitVec 12) (p : BitVec 3) : CanonOut (execEpld x p u) := by
  unfold execEpld
  (try dsimp only)
  repeat' split
  all_goals repeat' first | (with_reducible first | exact h | assumption | refine next_canon ?_ | refine loaderTranslate_canon ?_ _ _ _ | refine pair_canon (loaderTranslate_canon ?_ _ _ _) (by assumption) | refine afterAcquires_canon ?_ _ | refine illegalOperand_canon ?_ _ | refine memoryTrap_canon ?_ _ _ _ | refine atTarget_canon ?_ _ _ ?_ | intro _ _ | intro _ | refine loadProgram_canon ?_ _ _ _ _) | split

theorem bufRead_canon {u : State} (h : Canon u) (buf : LineBuf) (p : Nat) (x : Xl) (n : Nat) : Canon (bufRead u buf p x n).1 := by
  unfold bufRead
  (try dsimp only)
  repeat' split
  all_goals repeat' first | (with_reducible first | exact h | assumption | refine clusterRead_canon ?_ _ _ _ | refine pair_canon (clusterRead_canon ?_ _ _ _) (by assumption)) | split

theorem loaderRead_canon {u : State} (h : Canon u) (buf : LineBuf) (p va n : Nat) : Canon (loaderRead u buf p va n).1 := by
  unfold loaderRead
  (try dsimp only)
  repeat' split
  all_goals repeat' first | (with_reducible first | exact h | assumption | refine loaderTranslate_canon ?_ _ _ _ | refine pair_canon (loaderTranslate_canon ?_ _ _ _) (by assumption) | refine bufRead_canon ?_ _ _ _ _ | refine pair_canon (bufRead_canon ?_ _ _ _ _) (by assumption)) | split

theorem fetchElem_canon {u : State} (h : Canon u) (buf : LineBuf) (p : Nat) (b : Binding) (q e l : Nat) : Canon (fetchElem u buf p b q e l).1 := by
  unfold fetchElem
  (try dsimp only)
  repeat' split
  all_goals repeat' first | (with_reducible first | exact h | assumption | refine loaderRead_canon ?_ _ _ _ _ | refine pair_canon (loaderRead_canon ?_ _ _ _ _) (by assumption) | refine getD_canon ?_ ?_) | split

theorem fetchElems_canon {u : State} (h : Canon u) (buf : LineBuf) (p : Nat) (b : Binding) (q e l : Nat) (z0 : Nat) : Canon (fetchElems u buf p b q e l z0).1 := by
  induction z0 generalizing u buf p b q e l with
  | zero =>
    unfold fetchElems
    (try dsimp only)
    repeat' split
    all_goals repeat' first | (with_reducible first | exact h | assumption | refine fetchElem_canon ?_ _ _ _ _ _ _ | refine pair_canon (fetchElem_canon ?_ _ _ _ _ _ _) (by assumption)) | split
  | succ n_ ih =>
    unfold fetchElems
    (try dsimp only)
    repeat' split
    all_goals repeat' first | (with_reducible first | exact h | assumption | refine fetchElem_canon ?_ _ _ _ _ _ _ | refine pair_canon (fetchElem_canon ?_ _ _ _ _ _ _) (by assumption) | refine ih ?_ _ _ _ _ _ _ | refine pair_canon (ih ?_ _ _ _ _ _ _) (by assumption)) | split

theorem fetchPositions_canon {u : State} (h : Canon u) (buf : LineBuf) (p : Nat) (b : Binding) (q e : Nat) (z0 : Nat) : Canon (fetchPositions u buf p b q e z0).1 := by
  induction z0 generalizing u buf p b q e with
  | zero =>
    unfold fetchPositions
    (try dsimp only)
    repeat' split
    all_goals repeat' first | (with_reducible first | exact h | assumption | refine fetchElems_canon ?_ _ _ _ _ _ _ _ | refine pair_canon (fetchElems_canon ?_ _ _ _ _ _ _ _) (by assumption)) | split
  | succ n_ ih =>
    unfold fetchPositions
    (try dsimp only)
    repeat' split
    all_goals repeat' first | (with_reducible first | exact h | assumption | refine fetchElems_canon ?_ _ _ _ _ _ _ _ | refine pair_canon (fetchElems_canon ?_ _ _ _ _ _ _ _) (by assumption) | refine ih ?_ _ _ _ _ _ | refine pair_canon (ih ?_ _ _ _ _ _) (by assumption)) | split

theorem fetchStep_canon {u : State} (h : Canon u) (p e : Nat) : Canon (fetchStep u p e) := by
  unfold fetchStep
  (try dsimp only)
  repeat' split
  all_goals repeat' first | (with_reducible first | exact h | assumption | refine modLoader_canon ?_ _ _ _ | refine fetchPositions_canon ?_ _ _ _ _ _ _ | refine pair_canon (fetchPositions_canon ?_ _ _ _ _ _ _) (by assumption)) | split

theorem execFeedFetch_canon {u : State} (h : Canon u) (core edge : Nat) : CanonOut (execFeedFetch core edge u) := by
  unfold execFeedFetch
  (try dsimp only)
  repeat' split
  all_goals repeat' first | (with_reducible first | exact h | assumption | refine next_canon ?_ | refine fetchStep_canon ?_ _ _) | split

theorem drainElems_canon {u : State} (h : Canon u) (p : Nat) (b : Binding) (q e : Nat) (data : RegData) (ws : List LineWrite)
    (l : List Nat) : Canon (drainElems u p b q e data ws l).1 := by
  induction l generalizing u ws with
  | nil => exact h
  | cons x t ih =>
    unfold drainElems
    dsimp only
    split
    · exact ih h _
    · split
      · exact pair_canon (loaderTranslate_canon h _ _ _) (by assumption)
      · exact ih (pair_canon (loaderTranslate_canon h _ _ _) (by assumption)) _

theorem writeBits_canon {u : State} (h : Canon u) (p : Nat) (w : LineWrite) : Canon (writeBits p u w) := by
  unfold writeBits
  (try dsimp only)
  repeat' split
  all_goals repeat' first | (with_reducible first | exact h | assumption | refine clusterRead_canon ?_ _ _ _ | refine pair_canon (clusterRead_canon ?_ _ _ _) (by assumption) | refine clusterWrite_canon ?_ _ _ _ _) | split

theorem drainFails_canon {u : State} (h : Canon u) (p e : Nat) (c : Capture) (kind line : Nat) : Canon (drainFails u p e c kind line) := by
  unfold drainFails
  (try dsimp only)
  repeat' split
  all_goals repeat' first | (with_reducible first | exact h | assumption | refine modLoader_canon ?_ _ _ _ | refine detect_canon ?_ _ _ _ _ _) | split

theorem drainWrites_canon {u : State} (h : Canon u) (p : Nat) (c : Capture) : Canon (drainWrites u p c).1 := by
  unfold drainWrites
  (try dsimp only)
  repeat' split
  all_goals repeat' first | (with_reducible first | exact h | assumption | refine drainElems_canon ?_ _ _ _ _ _ _ _ | refine pair_canon (drainElems_canon ?_ _ _ _ _ _ _ _) (by assumption) | refine bind_canon ?_ ?_ | refine bindOP_canon ?_ ?_ | refine bindP_canon ?_ ?_ | refine bindAny_canon ?_ | refine opt_canon (bind_canon ?_ ?_) (by assumption) | refine opt_canon (bindP_canon ?_ ?_) (by assumption) | refine opt_canon (bindAny_canon ?_) (by assumption) | refine optP_canon (bindOP_canon ?_ ?_) (by assumption) | intro _ _ | intro _) | split

theorem drainStep_canon {u : State} (h : Canon u) (p e : Nat) : Canon (drainStep u p e) := by
  unfold drainStep
  (try dsimp only)
  repeat' split
  all_goals repeat' first | (with_reducible first | exact h | assumption | refine modLoader_canon ?_ _ _ _ | refine writeBits_canon ?_ _ _ | refine drainFails_canon ?_ _ _ _ _ _ | refine drainWrites_canon ?_ _ _ | refine pair_canon (drainWrites_canon ?_ _ _) (by assumption) | refine foldl_canon ?_ _ _ ?_ | refine foldlP_canon ?_ _ _ ?_ | intro _ _ _) | split

theorem execDrainWrite_canon {u : State} (h : Canon u) (core edge : Nat) : CanonOut (execDrainWrite core edge u) := by
  unfold execDrainWrite
  (try dsimp only)
  repeat' split
  all_goals repeat' first | (with_reducible first | exact h | assumption | refine next_canon ?_ | refine drainStep_canon ?_ _ _) | split

theorem epiWord_canon {u : State} (h : Canon u) (f : EpiRun → EpiRun) : CanonOut (epiWord u f) := by
  unfold epiWord
  (try dsimp only)
  repeat' split
  all_goals repeat' first | (with_reducible first | exact h | assumption | refine next_canon ?_ | refine modEdge_canon ?_ _ _ | refine mapP_canon ?_ ?_ | intro _ _) | split

theorem leaveEpi_canon {u : State} (h : Canon u) (c : Nat) : Canon (leaveEpi u c) := by
  unfold leaveEpi
  (try dsimp only)
  repeat' split
  all_goals repeat' first | (with_reducible first | exact h | assumption | refine modLoader_canon ?_ _ _ _ | refine modEdge_canon ?_ _ _ | refine getD_canon ?_ ?_ | refine mapP_canon ?_ ?_ | intro _ _) | split

theorem execEstop_canon {u : State} (h : Canon u)  : CanonOut (execEstop u) := by
  unfold execEstop
  (try dsimp only)
  repeat' split
  all_goals repeat' first | (with_reducible first | exact h | assumption | refine next_canon ?_ | refine leaveEpi_canon ?_ _) | split

theorem execEpass_canon {u : State} (h : Canon u)  : CanonOut (execEpass u) := by
  unfold execEpass
  (try dsimp only)
  repeat' split
  all_goals repeat' first | (with_reducible first | exact h | assumption | refine next_canon ?_ | refine epiWord_canon ?_ _ | refine out_canon (epiWord_canon ?_ _) (by assumption)) | split

theorem execEadd_canon {u : State} (h : Canon u) (i : BitVec 12) : CanonOut (execEadd i u) := by
  unfold execEadd
  (try dsimp only)
  repeat' split
  all_goals repeat' first | (with_reducible first | exact h | assumption | refine next_canon ?_ | refine epiWord_canon ?_ _ | refine out_canon (epiWord_canon ?_ _) (by assumption)) | split

theorem execEmul_canon {u : State} (h : Canon u) (i : BitVec 12) : CanonOut (execEmul i u) := by
  unfold execEmul
  (try dsimp only)
  repeat' split
  all_goals repeat' first | (with_reducible first | exact h | assumption | refine next_canon ?_ | refine epiWord_canon ?_ _ | refine out_canon (epiWord_canon ?_ _) (by assumption)) | split

theorem execErelu_canon {u : State} (h : Canon u)  : CanonOut (execErelu u) := by
  unfold execErelu
  (try dsimp only)
  repeat' split
  all_goals repeat' first | (with_reducible first | exact h | assumption | refine next_canon ?_ | refine epiWord_canon ?_ _ | refine out_canon (epiWord_canon ?_ _) (by assumption)) | split

theorem execEclmp_canon {u : State} (h : Canon u) (i : BitVec 11) : CanonOut (execEclmp i u) := by
  unfold execEclmp
  (try dsimp only)
  repeat' split
  all_goals repeat' first | (with_reducible first | exact h | assumption | refine next_canon ?_ | refine epiWord_canon ?_ _ | refine out_canon (epiWord_canon ?_ _) (by assumption)) | split

theorem execEcvt_canon {u : State} (h : Canon u) (t : BitVec 4) (sr : BitVec 1) : CanonOut (execEcvt t sr u) := by
  unfold execEcvt
  (try dsimp only)
  repeat' split
  all_goals repeat' first | (with_reducible first | exact h | assumption | refine next_canon ?_ | refine epiWord_canon ?_ _ | refine out_canon (epiWord_canon ?_ _) (by assumption) | refine modEdge_canon ?_ _ _) | split

theorem enterEpi_canon {u : State} (h : Canon u) (c : Nat) : Canon (enterEpi u c) := by
  unfold enterEpi
  (try dsimp only)
  repeat' split
  all_goals repeat' first | (with_reducible first | exact h | assumption | refine modEdge_canon ?_ _ _ | refine bind_canon ?_ ?_ | refine bindOP_canon ?_ ?_ | refine bindP_canon ?_ ?_ | refine bindAny_canon ?_ | refine opt_canon (bind_canon ?_ ?_) (by assumption) | refine opt_canon (bindP_canon ?_ ?_) (by assumption) | refine opt_canon (bindAny_canon ?_) (by assumption) | refine optP_canon (bindOP_canon ?_ ?_) (by assumption) | intro _ _ | intro _ | refine getD_canon ?_ ?_ | refine mapP_canon ?_ ?_ | intro _ _) | split

theorem runWord_canon {u : State} (h : Canon u) (w : Half) : CanonOut (runWord w u) := by
  unfold runWord
  (try dsimp only)
  repeat' split
  all_goals repeat' first | (with_reducible first | exact h | assumption | refine next_canon ?_ | refine execEstop_canon ?_ | refine out_canon (execEstop_canon ?_) (by assumption) | refine execEpass_canon ?_ | refine out_canon (execEpass_canon ?_) (by assumption) | refine execEadd_canon ?_ _ | refine out_canon (execEadd_canon ?_ _) (by assumption) | refine execEmul_canon ?_ _ | refine out_canon (execEmul_canon ?_ _) (by assumption) | refine execErelu_canon ?_ | refine out_canon (execErelu_canon ?_) (by assumption) | refine execEclmp_canon ?_ _ | refine out_canon (execEclmp_canon ?_ _) (by assumption) | refine execEcvt_canon ?_ _ _ | refine out_canon (execEcvt_canon ?_ _ _) (by assumption)) | split

theorem stepEpi_canon {u : State} (h : Canon u) (c : Nat) : Canon (stepEpi u c) := by
  unfold stepEpi
  (try dsimp only)
  repeat' split
  all_goals repeat' first | (with_reducible first | exact h | assumption | refine setMe_canon ?_ _ | refine leaveEpi_canon ?_ _ | refine runWord_canon ?_ _ | refine out_canon (runWord_canon ?_ _) (by assumption) | refine modEdge_canon ?_ _ _) | split

theorem runEpi_canon {u : State} (h : Canon u) (z0 : Nat) (z2 : Nat) : Canon (runEpi z0 u z2) := by
  induction z0 generalizing u z2 with
  | zero =>
    unfold runEpi
    (try dsimp only)
    repeat' split
    all_goals repeat' first | (with_reducible first | exact h | assumption | refine stepEpi_canon ?_ _) | split
  | succ n_ ih =>
    unfold runEpi
    (try dsimp only)
    repeat' split
    all_goals repeat' first | (with_reducible first | exact h | assumption | refine stepEpi_canon ?_ _ | refine ih ?_ _) | split

theorem processEpi_canon {u : State} (h : Canon u) (c : Nat) : Canon (processEpi u c) := by
  unfold processEpi
  (try dsimp only)
  repeat' split
  all_goals repeat' first | (with_reducible first | exact h | assumption | refine setMe_canon ?_ _ | refine enterEpi_canon ?_ _ | refine runEpi_canon ?_ _ _) | split

theorem execEpilogueProcess_canon {u : State} (h : Canon u) (core : Nat) : CanonOut (execEpilogueProcess core u) := by
  unfold execEpilogueProcess
  (try dsimp only)
  repeat' split
  all_goals repeat' first | (with_reducible first | exact h | assumption | refine next_canon ?_ | refine processEpi_canon ?_ _) | split

theorem copyFault_canon {u : State} (h : Canon u) (c ch kind va : Nat) (r : CopyReq) : Canon (copyFault u c ch kind va r) := by
  unfold copyFault
  (try dsimp only)
  repeat' split
  all_goals repeat' first | (with_reducible first | exact h | assumption | refine detect_canon ?_ _ _ _ _ _) | split

theorem stopChan_canon {u : State} (h : Canon u) (c ch kind va : Nat) (r : CopyReq) : Canon (stopChan u c ch kind va r) := by
  unfold stopChan
  (try dsimp only)
  repeat' split
  all_goals repeat' first | (with_reducible first | exact h | assumption | refine dropStopped_canon ?_ _ | refine setChan_canon ?_ _ _ _ | refine copyFault_canon ?_ _ _ _ _ _) | split

theorem copyRead_canon {u : State} (h : Canon u) (c asid va n : Nat) : Canon (copyRead u c asid va n).1 := by
  unfold copyRead
  (try dsimp only)
  repeat' split
  all_goals repeat' first | (with_reducible first | exact h | assumption | refine dieTranslate_canon ?_ _ _ _ _ | refine pair_canon (dieTranslate_canon ?_ _ _ _ _) (by assumption) | refine clusterRead_canon ?_ _ _ _ | refine pair_canon (clusterRead_canon ?_ _ _ _) (by assumption)) | split

theorem copyBlocks_canon {u : State} (h : Canon u) (c asid va : Nat) (z0 : Nat) : Canon (copyBlocks u c asid va z0).1 := by
  induction z0 generalizing u c asid va with
  | zero =>
    unfold copyBlocks
    (try dsimp only)
    repeat' split
    all_goals repeat' first | (with_reducible first | exact h | assumption | refine copyRead_canon ?_ _ _ _ _ | refine pair_canon (copyRead_canon ?_ _ _ _ _) (by assumption)) | split
  | succ n_ ih =>
    unfold copyBlocks
    (try dsimp only)
    repeat' split
    all_goals repeat' first | (with_reducible first | exact h | assumption | refine copyRead_canon ?_ _ _ _ _ | refine pair_canon (copyRead_canon ?_ _ _ _ _) (by assumption) | refine ih ?_ _ _ _ | refine pair_canon (ih ?_ _ _ _) (by assumption)) | split

theorem copyRecord_canon {u : State} (h0 : Canon u) (c : Nat) (r : CopyReq) (on : Bool) (h : Nat) : Canon (copyRecord u c r on h).1 := by
  unfold copyRecord
  (try dsimp only)
  repeat' split
  all_goals repeat' first | (with_reducible first | exact h0 | assumption | refine copyBlocks_canon ?_ _ _ _ _ | refine pair_canon (copyBlocks_canon ?_ _ _ _ _) (by assumption)) | split

theorem copyRecords_canon {u : State} (h : Canon u) (c : Nat) (r : CopyReq) (t : Nat) : Canon (copyRecords u c r t).1 := by
  unfold copyRecords
  (try dsimp only)
  repeat' split
  all_goals repeat' first | (with_reducible first | exact h | assumption | refine copyRecord_canon ?_ _ _ _ _ | refine pair_canon (copyRecord_canon ?_ _ _ _ _) (by assumption)) | split

theorem withTemplate_canon {u : State} (h : Canon u) (c : Nat) (r : CopyReq) (z0 : Except Nat (List Byte)) : Canon (withTemplate u c r z0).1 := by
  unfold withTemplate
  (try dsimp only)
  repeat' split
  all_goals repeat' first | (with_reducible first | exact h | assumption | refine copyRecords_canon ?_ _ _ _ | refine pair_canon (copyRecords_canon ?_ _ _ _) (by assumption)) | split

theorem copySetup_canon {u : State} (h : Canon u) (c : Nat) (r : CopyReq) : Canon (copySetup u c r).1 := by
  rw [copySetup]
  exact withTemplate_canon (copyRead_canon h _ _ _ _) _ _ _

theorem beginCopy_canon {u : State} (h : Canon u) (c ch : Nat) (x : Chan) (r : CopyReq) (q : List CopyReq) (t : Nat) (sr dr : Option RecBits) : Canon (beginCopy u c ch x r q t sr dr) := by
  unfold beginCopy
  (try dsimp only)
  repeat' split
  all_goals repeat' first | (with_reducible first | exact h | assumption | refine copyEnds_canon ?_ _ | refine setChan_canon ?_ _ _ _ | refine copyFault_canon ?_ _ _ _ _ _ | refine modCtl_canon ?_ _ _) | split

theorem releasedFor_canon {u : State} (h : Canon u) (c : Nat) (r : CopyReq) : Canon (releasedFor u c r) := by
  unfold releasedFor
  (try dsimp only)
  repeat' split
  all_goals repeat' first | (with_reducible first | exact h | assumption | refine quiesce_canon ?_ _) | split

theorem copyStart_canon {u : State} (h : Canon u) (c ch : Nat) : Canon (copyStart u c ch) := by
  unfold copyStart
  (try dsimp only)
  repeat' split
  all_goals repeat' first | (with_reducible first | exact h | assumption | refine stopChan_canon ?_ _ _ _ _ _ | refine copySetup_canon ?_ _ _ | refine pair_canon (copySetup_canon ?_ _ _) (by assumption) | refine beginCopy_canon ?_ _ _ _ _ _ _ _ _ | refine releasedFor_canon ?_ _ _) | split

theorem execCopyStart_canon {u : State} (h : Canon u) (core ch : Nat) : CanonOut (execCopyStart core ch u) := by
  unfold execCopyStart
  (try dsimp only)
  repeat' split
  all_goals repeat' first | (with_reducible first | exact h | assumption | refine next_canon ?_ | refine copyStart_canon ?_ _ _) | split

theorem copyPlace_canon {u : State} (h : Canon u) (c asid va : Nat) (write : Bool) : Canon (copyPlace u c asid va write).1 := by
  unfold copyPlace
  (try dsimp only)
  repeat' split
  all_goals repeat' first | (with_reducible first | exact h | assumption | refine dieTranslate_canon ?_ _ _ _ _ | refine pair_canon (dieTranslate_canon ?_ _ _ _ _) (by assumption)) | split

theorem readLine_canon {u : State} (h : Canon u) (c : Nat) (j : CopyJob) : Canon (readLine u c j).1 := by
  unfold readLine
  (try dsimp only)
  repeat' split
  all_goals repeat' first | (with_reducible first | exact h | assumption | refine clusterRead_canon ?_ _ _ _ | refine pair_canon (clusterRead_canon ?_ _ _ _) (by assumption) | refine copyPlace_canon ?_ _ _ _ _ | refine pair_canon (copyPlace_canon ?_ _ _ _ _) (by assumption)) | split

theorem readAhead_canon {u : State} (h : Canon u) (c len : Nat) (j : CopyJob) (z0 : Nat) : Canon (readAhead u c len j z0).1 := by
  induction z0 generalizing u c len j with
  | zero =>
    unfold readAhead
    (try dsimp only)
    repeat' split
    all_goals repeat' first | (with_reducible first | exact h | assumption | refine readLine_canon ?_ _ _ | refine pair_canon (readLine_canon ?_ _ _) (by assumption)) | split
  | succ n_ ih =>
    unfold readAhead
    (try dsimp only)
    repeat' split
    all_goals repeat' first | (with_reducible first | exact h | assumption | refine readLine_canon ?_ _ _ | refine pair_canon (readLine_canon ?_ _ _) (by assumption) | refine ih ?_ _ _ _ | refine pair_canon (ih ?_ _ _ _) (by assumption)) | split

theorem patchClean_canon {u : State} (h : Canon u) (g line : Nat) (d : LineData) (m : LineMask) : Canon (patchClean u g line d m) := by
  unfold patchClean
  (try dsimp only)
  repeat' split
  all_goals repeat' first | (with_reducible first | exact h | assumption | refine setWays_canon ?_ _ _ | refine mapP_canon ?_ ?_ | intro _ _) | split

theorem patchClean2_canon {u : State} (h : Canon u) (die line : Nat) (d : LineData) (m : LineMask) : Canon (patchClean2 u die line d m) := by
  unfold patchClean2
  (try dsimp only)
  repeat' split
  all_goals repeat' first | (with_reducible first | exact h | assumption | refine l2Put_canon ?_ _ _) | split

theorem landLine_canon {u : State} (h : Canon u) (c : Nat) (x : Xl) (d : LineData) (m : LineMask) : Canon (landLine u c x d m) := by
  unfold landLine
  (try dsimp only)
  repeat' split
  all_goals repeat' first | (with_reducible first | exact h | assumption | refine sliceWrite_canon ?_ _ _ _ _ | refine singleLine_canon ?_ _ _ _ | refine patchClean_canon ?_ _ _ _ _ | refine patchClean2_canon ?_ _ _ _ _) | split

theorem landed_canon {u : State} (h : Canon u) (c ch : Nat) (j : CopyJob) (dst len : Nat) (x : Xl) : Canon (landed u c ch j dst len x) := by
  unfold landed
  (try dsimp only)
  repeat' split
  all_goals repeat' first | (with_reducible first | exact h | assumption | refine setFull_canon ?_ _ _ | refine barrierEvent_canon ?_ _ _ _ _ _ _ | refine modCtl_canon ?_ _ _) | split

theorem copyDone_canon {u : State} (h : Canon u) (c ch : Nat) (j : CopyJob) : Canon (copyDone u c ch j) := by
  unfold copyDone
  (try dsimp only)
  repeat' split
  all_goals repeat' first | (with_reducible first | exact h | assumption | refine copyEnds_canon ?_ _ | refine postK_canon ?_ _ _ _ | refine setChan_canon ?_ _ _ _ | refine modSys_canon ?_ _ ?_ | refine getD_canon ?_ ?_ | exact fun w => w | exact fun w => Memory.wf_set _ _ _ w | exact fun w => Memory.wf_memWrite _ _ _ w | exact fun w => Memory.wf_memMask _ _ _ _ _ w | exact fun w => Memory.wf_memMerge _ _ _ _ _ w | exact fun w => Memory.wf_memKeep _ _ w) | split

theorem countWaits_canon {u : State} (h : Canon u) (c ch : Nat) : Canon (countWaits u c ch) := by
  unfold countWaits
  (try dsimp only)
  repeat' split
  all_goals repeat' first | (with_reducible first | exact h | assumption | refine setChan_canon ?_ _ _ _ | refine foldl_canon ?_ _ _ ?_ | refine foldlP_canon ?_ _ _ ?_ | intro _ _ _) | split

theorem landPiece_canon {u : State} (h : Canon u) (c ch : Nat) (j : CopyJob) (dst len : Nat) (x : Xl) : Canon (landPiece u c ch j dst len x) := by
  unfold landPiece
  (try dsimp only)
  repeat' split
  all_goals repeat' first | (with_reducible first | exact h | assumption | refine setChan_canon ?_ _ _ _ | refine landLine_canon ?_ _ _ _ _ | refine landed_canon ?_ _ _ _ _ _ _ | refine copyDone_canon ?_ _ _ _ | refine countWaits_canon ?_ _ _) | split

theorem copyLine_canon {u : State} (h : Canon u) (c ch : Nat) : Canon (copyLine u c ch) := by
  unfold copyLine
  (try dsimp only)
  repeat' split
  all_goals repeat' first | (with_reducible first | exact h | assumption | refine setChan_canon ?_ _ _ _ | refine stopChan_canon ?_ _ _ _ _ _ | refine copyPlace_canon ?_ _ _ _ _ | refine pair_canon (copyPlace_canon ?_ _ _ _ _) (by assumption) | refine readAhead_canon ?_ _ _ _ _ | refine pair_canon (readAhead_canon ?_ _ _ _ _) (by assumption) | refine landPiece_canon ?_ _ _ _ _ _ _) | split

theorem execCopyLineLand_canon {u : State} (h : Canon u) (core ch : Nat) : CanonOut (execCopyLineLand core ch u) := by
  unfold execCopyLineLand
  (try dsimp only)
  repeat' split
  all_goals repeat' first | (with_reducible first | exact h | assumption | refine next_canon ?_ | refine copyLine_canon ?_ _ _) | split

end Sys2Proof.Machine
end

