-- ==== Sys2Proof/Laws/Canon3.lean ====
section
/-! SUPPORT. Every operation keeps memory in its canonical form: Reward, Paging, Scheduler, Pavilion, Folop, Power, Events. -/

set_option linter.unreachableTactic false
set_option linter.unusedTactic false
set_option linter.unusedVariables false

namespace Sys2Proof.Machine
open Sys2Proof

theorem countLq_canon {u : State} (h : Canon u) (q i : Nat) : Canon (countLq u q i) := by
  unfold countLq
  (try dsimp only)
  repeat' split
  all_goals repeat' first | (with_reducible first | exact h | assumption | refine modOra_canon ?_ _) | split

theorem countOra_canon {u : State} (h : Canon u) (i : Nat) : Canon (countOra u i) := by
  unfold countOra
  (try dsimp only)
  repeat' split
  all_goals repeat' first | (with_reducible first | exact h | assumption | refine modOra_canon ?_ _) | split

theorem setLq_canon {u : State} (h : Canon u) (q : Nat) (x : LQueue) : Canon (setLq u q x) := by
  unfold setLq
  (try dsimp only)
  repeat' split
  all_goals repeat' first | (with_reducible first | exact h | assumption | refine modOra_canon ?_ _) | split

theorem oraRead_canon {u : State} (h : Canon u) (asid va n : Nat) : Canon (oraRead u asid va n).1 := by
  unfold oraRead
  (try dsimp only)
  repeat' split
  all_goals repeat' first | (with_reducible first | exact h | assumption | refine agentRead_canon ?_ _ _ | refine pair_canon (agentRead_canon ?_ _ _) (by assumption) | refine pavTranslate_canon ?_ _ _ _ | refine pair_canon (pavTranslate_canon ?_ _ _ _) (by assumption)) | split

theorem oraPut_canon {u : State} (h : Canon u) (asid va : Nat) (bs : List Byte) : Canon (oraPut u asid va bs).1 := by
  unfold oraPut
  (try dsimp only)
  repeat' split
  all_goals repeat' first | (with_reducible first | exact h | assumption | refine agentWrite_canon ?_ _ _ | refine pavTranslate_canon ?_ _ _ _ | refine pair_canon (pavTranslate_canon ?_ _ _ _) (by assumption)) | split

theorem oraWrite_canon {u : State} (h : Canon u) (asid va n v : Nat) : Canon (oraWrite u asid va n v).1 := by
  unfold oraWrite
  (try dsimp only)
  repeat' split
  all_goals repeat' first | (with_reducible first | exact h | assumption | refine oraPut_canon ?_ _ _ _ | refine pair_canon (oraPut_canon ?_ _ _ _) (by assumption)) | split

theorem thenWrite_canon {r : State × Bool} {f : State → State × Bool} (h : Canon r.1) (hf : ∀ v, Canon v → Canon (f v).1) :
    Canon (thenWrite r f).1 := by
  unfold thenWrite; split
  · exact hf _ h
  · exact h

theorem recWrite_canon {u : State} (h : Canon u) (asid va n v : Nat) : Canon (recWrite u asid va n v).1 := by
  unfold recWrite
  (try dsimp only)
  repeat' split
  all_goals repeat' first | (with_reducible first | exact h | assumption | refine oraPut_canon ?_ _ _ _ | refine pair_canon (oraPut_canon ?_ _ _ _) (by assumption) | refine modOra_canon ?_ _) | split

theorem forgetNotes_canon {u : State} (h : Canon u) (asid va n : Nat) : Canon (forgetNotes u asid va n) := by
  unfold forgetNotes
  (try dsimp only)
  repeat' split
  all_goals repeat' first | (with_reducible first | exact h | assumption | refine modOra_canon ?_ _) | split

theorem noteRecord_canon {u : State} (h : Canon u) (asid : Nat) (z0 : Nat) (z1 : Nat) : Canon (noteRecord asid z0 z1 u) := by
  induction z0 generalizing asid z1 u with
  | zero =>
    unfold noteRecord
    (try dsimp only)
    repeat' split
    all_goals repeat' first | (with_reducible first | exact h | assumption | refine oraRead_canon ?_ _ _ _ | refine pair_canon (oraRead_canon ?_ _ _ _) (by assumption) | refine modOra_canon ?_ _) | split
  | succ n_ ih =>
    unfold noteRecord
    (try dsimp only)
    repeat' split
    all_goals repeat' first | (with_reducible first | exact h | assumption | refine oraRead_canon ?_ _ _ _ | refine pair_canon (oraRead_canon ?_ _ _ _) (by assumption) | refine modOra_canon ?_ _ | refine ih ?_ _ _) | split

theorem setEpisode_canon {u : State} (h : Canon u) (e : Episode) : Canon (setEpisode u e) := by
  unfold setEpisode
  (try dsimp only)
  repeat' split
  all_goals repeat' first | (with_reducible first | exact h | assumption | refine modOra_canon ?_ _ | refine mapP_canon ?_ ?_ | intro _ _) | split

theorem freeEpisode_canon {u : State} (h : Canon u) (e : Episode) : Canon (freeEpisode u e) := by
  unfold freeEpisode
  (try dsimp only)
  repeat' split
  all_goals repeat' first | (with_reducible first | exact h | assumption | refine modOra_canon ?_ _) | split

theorem startScan_canon {u : State} (h : Canon u)  : Canon (startScan u) := by
  unfold startScan
  (try dsimp only)
  repeat' split
  all_goals repeat' first | (with_reducible first | exact h | assumption | refine setEpisode_canon ?_ _) | split

theorem dropBadMap_canon {u : State} (h : Canon u) (e : Episode) : Canon (dropBadMap u e) := by
  unfold dropBadMap
  (try dsimp only)
  repeat' split
  all_goals repeat' first | (with_reducible first | exact h | assumption | refine countLq_canon ?_ _ _ | refine freeEpisode_canon ?_ _ | refine startScan_canon ?_ | refine modOra_canon ?_ _) | split

theorem markBit_canon {u : State} (h : Canon u) (e : Episode) (n : Nat) : Canon (markBit u e n).1 := by
  unfold markBit
  (try dsimp only)
  repeat' split
  all_goals repeat' first | (with_reducible first | exact h | assumption | refine oraRead_canon ?_ _ _ _ | refine pair_canon (oraRead_canon ?_ _ _ _) (by assumption)) | split

theorem setMark_canon {u : State} (h : Canon u) (e : Episode) (step : Nat) (done : Bool) : Canon (setMark u e step done).1 := by
  unfold setMark
  (try dsimp only)
  repeat' split
  all_goals repeat' first | (with_reducible first | exact h | assumption | refine oraRead_canon ?_ _ _ _ | refine pair_canon (oraRead_canon ?_ _ _ _) (by assumption) | refine recWrite_canon ?_ _ _ _ _ | refine pair_canon (recWrite_canon ?_ _ _ _ _) (by assumption)) | split

theorem toScan_canon {u : State} (h : Canon u) (e : Episode) : Canon (toScan u e) := by
  unfold toScan
  (try dsimp only)
  repeat' split
  all_goals repeat' first | (with_reducible first | exact h | assumption | refine setEpisode_canon ?_ _ | refine startScan_canon ?_ | refine modOra_canon ?_ _) | split

theorem rewardEpisode_canon {u : State} (h : Canon u) (e : Episode) (step : Nat) (done : Bool) (value : Word) : Canon (rewardEpisode u e step done value) := by
  unfold rewardEpisode
  (try dsimp only)
  repeat' split
  all_goals repeat' first | (with_reducible first | exact h | assumption | refine countLq_canon ?_ _ _ | refine thenWrite_canon ?_ ?_ | refine pair_canon (thenWrite_canon ?_ ?_) (by assumption) | intro _ _ | refine recWrite_canon ?_ _ _ _ _ | refine pair_canon (recWrite_canon ?_ _ _ _ _) (by assumption) | refine setEpisode_canon ?_ _ | refine dropBadMap_canon ?_ _ | refine markBit_canon ?_ _ _ | refine pair_canon (markBit_canon ?_ _ _) (by assumption) | refine setMark_canon ?_ _ _ _ | refine pair_canon (setMark_canon ?_ _ _ _) (by assumption) | refine toScan_canon ?_ _) | split

theorem rewardMessage_canon {u : State} (h : Canon u) (part : Nat) (traj : Dword) (step : Half) (done : Bool) (value : Word) : Canon (rewardMessage u part traj step done value) := by
  unfold rewardMessage
  (try dsimp only)
  repeat' split
  all_goals repeat' first | (with_reducible first | exact h | assumption | refine countLq_canon ?_ _ _ | refine countOra_canon ?_ _ | refine rewardEpisode_canon ?_ _ _ _ _ | refine modOra_canon ?_ _) | split

theorem noteServed_canon {u : State} (h : Canon u)  : Canon (noteServed u) := by
  unfold noteServed
  (try dsimp only)
  repeat' split
  all_goals repeat' first | (with_reducible first | exact h | assumption | refine modOra_canon ?_ _) | split

theorem execReward_canon {u : State} (h : Canon u) (pn : Nat) (traj : BitVec 64) (step : BitVec 16) (done : Bool) (value : BitVec 32) : CanonOut (execReward pn traj step done value u) := by
  unfold execReward
  (try dsimp only)
  repeat' split
  all_goals repeat' first | (with_reducible first | exact h | assumption | refine next_canon ?_ | refine rewardMessage_canon ?_ _ _ _ _ _ | refine noteServed_canon ?_) | split

theorem popRequest_canon {u : State} (h : Canon u) (c : Nat) : Canon (popRequest u c) := by
  unfold popRequest
  (try dsimp only)
  repeat' split
  all_goals repeat' first | (with_reducible first | exact h | assumption | refine noteServed_canon ?_ | refine modCore_canon ?_ _ _) | split

theorem answerCore_canon {u : State} (h : Canon u) (c d : Nat) (v : Dword) : Canon (answerCore u c d v) := by
  unfold answerCore
  (try dsimp only)
  repeat' split
  all_goals repeat' first | (with_reducible first | exact h | assumption | refine modSeq_canon ?_ _ _) | split

theorem joinOrphans_canon {u : State} (h : Canon u) (part : Nat) (traj : Dword) (z0 : List Orphan) : Canon (joinOrphans u part traj z0) := by
  induction z0 generalizing u part traj with
  | nil =>
    unfold joinOrphans
    (try dsimp only)
    repeat' split
    all_goals repeat' first | (with_reducible first | exact h | assumption | refine countOra_canon ?_ _ | refine setEpisode_canon ?_ _ | refine rewardEpisode_canon ?_ _ _ _ _ | refine rewardMessage_canon ?_ _ _ _ _ _) | split
  | cons x_ t_ ih =>
    unfold joinOrphans
    (try dsimp only)
    repeat' split
    all_goals repeat' first | (with_reducible first | exact h | assumption | refine countOra_canon ?_ _ | refine setEpisode_canon ?_ _ | refine rewardEpisode_canon ?_ _ _ _ _ | refine rewardMessage_canon ?_ _ _ _ _ _ | refine ih ?_ _ _) | split

theorem clearMarks_canon {u : State} (h : Canon u) (asid va : Nat) (z0 : Nat) : Canon (clearMarks asid va z0 u).1 := by
  induction z0 generalizing asid va u with
  | zero =>
    unfold clearMarks
    (try dsimp only)
    repeat' split
    all_goals repeat' first | (with_reducible first | exact h | assumption | refine oraWrite_canon ?_ _ _ _ _ | refine pair_canon (oraWrite_canon ?_ _ _ _ _) (by assumption) | refine thenWrite_canon ?_ ?_ | refine pair_canon (thenWrite_canon ?_ ?_) (by assumption) | intro _ _) | split
  | succ n_ ih =>
    unfold clearMarks
    (try dsimp only)
    repeat' split
    all_goals repeat' first | (with_reducible first | exact h | assumption | refine oraWrite_canon ?_ _ _ _ _ | refine pair_canon (oraWrite_canon ?_ _ _ _ _) (by assumption) | refine thenWrite_canon ?_ ?_ | refine pair_canon (thenWrite_canon ?_ ?_) (by assumption) | intro _ _ | refine ih ?_ _ _ | refine pair_canon (ih ?_ _ _) (by assumption)) | split

theorem clearRecord_canon {u : State} (h : Canon u) (e : Episode) : Canon (clearRecord u e).1 := by
  unfold clearRecord
  (try dsimp only)
  repeat' split
  all_goals repeat' first | (with_reducible first | exact h | assumption | refine oraWrite_canon ?_ _ _ _ _ | refine pair_canon (oraWrite_canon ?_ _ _ _ _) (by assumption) | refine thenWrite_canon ?_ ?_ | refine pair_canon (thenWrite_canon ?_ ?_) (by assumption) | intro _ _ | refine clearMarks_canon ?_ _ _ _ | refine pair_canon (clearMarks_canon ?_ _ _ _) (by assumption)) | split

theorem register_canon {u : State} (h : Canon u) (part asid addr : Nat) : Canon (register u part asid addr).1 := by
  unfold register
  (try dsimp only)
  repeat' split
  all_goals repeat' first | (with_reducible first | exact h | assumption | refine countOra_canon ?_ _ | refine oraRead_canon ?_ _ _ _ | refine pair_canon (oraRead_canon ?_ _ _ _) (by assumption) | refine forgetNotes_canon ?_ _ _ _ | refine noteRecord_canon ?_ _ _ _ | refine dropBadMap_canon ?_ _ | refine joinOrphans_canon ?_ _ _ _ | refine clearRecord_canon ?_ _ | refine pair_canon (clearRecord_canon ?_ _) (by assumption) | refine modOra_canon ?_ _) | split

theorem execRegistrationServe_canon {u : State} (h : Canon u) (core : Nat) : CanonOut (execRegistrationServe core u) := by
  unfold execRegistrationServe
  (try dsimp only)
  repeat' split
  all_goals repeat' first | (with_reducible first | exact h | assumption | refine next_canon ?_ | refine popRequest_canon ?_ _ | refine answerCore_canon ?_ _ _ _ | refine register_canon ?_ _ _ _ | refine pair_canon (register_canon ?_ _ _ _) (by assumption)) | split

theorem popEntry_canon {u : State} (h : Canon u) (q : Nat) (stale : Bool) : Canon (popEntry u q stale).1 := by
  unfold popEntry
  (try dsimp only)
  repeat' split
  all_goals repeat' first | (with_reducible first | exact h | assumption | refine setLq_canon ?_ _ _ | refine oraRead_canon ?_ _ _ _ | refine pair_canon (oraRead_canon ?_ _ _ _) (by assumption)) | split

theorem execPopServe_canon {u : State} (h : Canon u) (core : Nat) : CanonOut (execPopServe core u) := by
  unfold execPopServe
  (try dsimp only)
  repeat' split
  all_goals repeat' first | (with_reducible first | exact h | assumption | refine next_canon ?_ | refine acquire_canon ?_ _ _ | refine popRequest_canon ?_ _ | refine answerCore_canon ?_ _ _ _ | refine popEntry_canon ?_ _ _ | refine pair_canon (popEntry_canon ?_ _ _) (by assumption)) | split

theorem applyControl_canon {u : State} (h : Canon u) (field q : Nat) (v : Dword) (asid : Nat) : Canon (applyControl u field q v asid) := by
  unfold applyControl
  (try dsimp only)
  repeat' split
  all_goals repeat' first | (with_reducible first | exact h | assumption | refine setLq_canon ?_ _ _ | refine modOra_canon ?_ _) | split

theorem execControlServe_canon {u : State} (h : Canon u) (core : Nat) : CanonOut (execControlServe core u) := by
  unfold execControlServe
  (try dsimp only)
  repeat' split
  all_goals repeat' first | (with_reducible first | exact h | assumption | refine next_canon ?_ | refine popRequest_canon ?_ _ | refine applyControl_canon ?_ _ _ _ _) | split

theorem servePost_canon {u : State} (h : Canon u) (c : Nat) : Canon (servePost u c) := by
  unfold servePost
  (try dsimp only)
  repeat' split
  all_goals repeat' first | (with_reducible first | exact h | assumption | refine rewardMessage_canon ?_ _ _ _ _ _ | refine popRequest_canon ?_ _) | split

theorem zeroFill_canon {u : State} (h : Canon u) (e : Episode) (z0 : List Nat) : Canon (zeroFill u e z0).1 := by
  induction z0 generalizing u e with
  | nil =>
    unfold zeroFill
    (try dsimp only)
    repeat' split
    all_goals repeat' first | (with_reducible first | exact h | assumption | refine thenWrite_canon ?_ ?_ | refine pair_canon (thenWrite_canon ?_ ?_) (by assumption) | intro _ _ | refine recWrite_canon ?_ _ _ _ _ | refine pair_canon (recWrite_canon ?_ _ _ _ _) (by assumption) | refine markBit_canon ?_ _ _ | refine pair_canon (markBit_canon ?_ _ _) (by assumption)) | split
  | cons x_ t_ ih =>
    unfold zeroFill
    (try dsimp only)
    repeat' split
    all_goals repeat' first | (with_reducible first | exact h | assumption | refine thenWrite_canon ?_ ?_ | refine pair_canon (thenWrite_canon ?_ ?_) (by assumption) | intro _ _ | refine recWrite_canon ?_ _ _ _ _ | refine pair_canon (recWrite_canon ?_ _ _ _ _) (by assumption) | refine markBit_canon ?_ _ _ | refine pair_canon (markBit_canon ?_ _ _) (by assumption) | refine ih ?_ _ | refine pair_canon (ih ?_ _) (by assumption)) | split

theorem execDeadlineExpiry_canon {u : State} (h : Canon u)  : CanonOut (execDeadlineExpiry u) := by
  unfold execDeadlineExpiry
  (try dsimp only)
  repeat' split
  all_goals repeat' first | (with_reducible first | exact h | assumption | refine next_canon ?_ | refine countLq_canon ?_ _ _ | refine freeEpisode_canon ?_ _ | refine dropBadMap_canon ?_ _ | refine toScan_canon ?_ _ | refine zeroFill_canon ?_ _ _ | refine pair_canon (zeroFill_canon ?_ _ _) (by assumption)) | split

theorem execOrphanExpiry_canon {u : State} (h : Canon u)  : CanonOut (execOrphanExpiry u) := by
  unfold execOrphanExpiry
  (try dsimp only)
  repeat' split
  all_goals repeat' first | (with_reducible first | exact h | assumption | refine next_canon ?_ | refine countOra_canon ?_ _ | refine modOra_canon ?_ _) | split

theorem scanSteps_canon {u : State} (h : Canon u) (e : Episode) (gamma gl : Nat) (z0 : Nat) (z1 : Nat) (z2 : Nat) : Canon (scanSteps u e gamma gl z0 z1 z2).1 := by
  induction z0 generalizing u e gamma gl z1 z2 with
  | zero =>
    unfold scanSteps
    (try dsimp only)
    repeat' split
    all_goals repeat' first | (with_reducible first | exact h | assumption | refine oraRead_canon ?_ _ _ _ | refine pair_canon (oraRead_canon ?_ _ _ _) (by assumption) | refine thenWrite_canon ?_ ?_ | refine pair_canon (thenWrite_canon ?_ ?_) (by assumption) | intro _ _ | refine recWrite_canon ?_ _ _ _ _ | refine pair_canon (recWrite_canon ?_ _ _ _ _) (by assumption) | refine markBit_canon ?_ _ _ | refine pair_canon (markBit_canon ?_ _ _) (by assumption)) | split
  | succ n_ ih =>
    unfold scanSteps
    (try dsimp only)
    repeat' split
    all_goals repeat' first | (with_reducible first | exact h | assumption | refine oraRead_canon ?_ _ _ _ | refine pair_canon (oraRead_canon ?_ _ _ _) (by assumption) | refine thenWrite_canon ?_ ?_ | refine pair_canon (thenWrite_canon ?_ ?_) (by assumption) | intro _ _ | refine recWrite_canon ?_ _ _ _ _ | refine pair_canon (recWrite_canon ?_ _ _ _ _) (by assumption) | refine markBit_canon ?_ _ _ | refine pair_canon (markBit_canon ?_ _ _) (by assumption) | refine ih ?_ _ _ _ _ _ | refine pair_canon (ih ?_ _ _ _ _ _) (by assumption)) | split

theorem appendRing_canon {u : State} (h : Canon u) (e : Episode) : Canon (appendRing u e) := by
  unfold appendRing
  (try dsimp only)
  repeat' split
  all_goals repeat' first | (with_reducible first | exact h | assumption | refine countLq_canon ?_ _ _ | refine setLq_canon ?_ _ _ | refine oraWrite_canon ?_ _ _ _ _ | refine pair_canon (oraWrite_canon ?_ _ _ _ _) (by assumption) | refine freeEpisode_canon ?_ _ | refine dropBadMap_canon ?_ _) | split

theorem releaseEpisode_canon {u : State} (h : Canon u) (e : Episode) : Canon (releaseEpisode u e) := by
  unfold releaseEpisode
  (try dsimp only)
  repeat' split
  all_goals repeat' first | (with_reducible first | exact h | assumption | refine countLq_canon ?_ _ _ | refine thenWrite_canon ?_ ?_ | refine pair_canon (thenWrite_canon ?_ ?_) (by assumption) | intro _ _ | refine recWrite_canon ?_ _ _ _ _ | refine pair_canon (recWrite_canon ?_ _ _ _ _) (by assumption) | refine setEpisode_canon ?_ _ | refine freeEpisode_canon ?_ _ | refine dropBadMap_canon ?_ _ | refine appendRing_canon ?_ _ | refine modOra_canon ?_ _) | split

theorem releaseHeld_canon {u : State} (h : Canon u) (z0 : Nat) : Canon (releaseHeld z0 u) := by
  induction z0 generalizing u with
  | zero =>
    unfold releaseHeld
    (try dsimp only)
    repeat' split
    all_goals repeat' first | (with_reducible first | exact h | assumption | refine releaseEpisode_canon ?_ _ | refine modOra_canon ?_ _) | split
  | succ n_ ih =>
    unfold releaseHeld
    (try dsimp only)
    repeat' split
    all_goals repeat' first | (with_reducible first | exact h | assumption | refine releaseEpisode_canon ?_ _ | refine modOra_canon ?_ _ | refine ih ?_) | split

theorem scanEpisode_canon {u : State} (h : Canon u) (e : Episode) : Canon (scanEpisode u e).1 := by
  unfold scanEpisode
  (try dsimp only)
  repeat' split
  all_goals repeat' first | (with_reducible first | exact h | assumption | refine oraRead_canon ?_ _ _ _ | refine pair_canon (oraRead_canon ?_ _ _ _) (by assumption) | refine scanSteps_canon ?_ _ _ _ _ _ _ | refine pair_canon (scanSteps_canon ?_ _ _ _ _ _ _) (by assumption) | refine getD_canon ?_ ?_) | split

theorem runScan_canon {u : State} (h : Canon u)  : Canon (runScan u) := by
  unfold runScan
  (try dsimp only)
  repeat' split
  all_goals repeat' first | (with_reducible first | exact h | assumption | refine startScan_canon ?_ | refine dropBadMap_canon ?_ _ | refine releaseHeld_canon ?_ _ | refine scanEpisode_canon ?_ _ | refine pair_canon (scanEpisode_canon ?_ _) (by assumption) | refine modOra_canon ?_ _) | split

theorem execBackwardScan_canon {u : State} (h : Canon u)  : CanonOut (execBackwardScan u) := by
  unfold execBackwardScan
  (try dsimp only)
  repeat' split
  all_goals repeat' first | (with_reducible first | exact h | assumption | refine next_canon ?_ | refine runScan_canon ?_) | split

theorem execRingAppend_canon {u : State} (h : Canon u) (queue : Nat) (stale : Bool) : CanonOut (execRingAppend queue stale u) := by
  unfold execRingAppend
  (try dsimp only)
  repeat' split
  all_goals repeat' first | (with_reducible first | exact h | assumption | refine next_canon ?_ | refine appendRing_canon ?_ _ | refine modOra_canon ?_ _) | split

theorem sendRequest_canon {u : State} (h : Canon u) (kind d : Nat) (v x : Dword) : Canon (sendRequest u kind d v x) := by
  unfold sendRequest
  (try dsimp only)
  repeat' split
  all_goals repeat' first | (with_reducible first | exact h | assumption | refine modCore_canon ?_ _ _) | split

theorem execRjreg_canon {u : State} (h : Canon u) (d a : BitVec 5) : CanonOut (execRjreg d a u) := by
  unfold execRjreg
  (try dsimp only)
  repeat' split
  all_goals repeat' first | (with_reducible first | exact h | assumption | refine next_canon ?_ | refine release_canon ?_ _ _ | refine illegalOperand_canon ?_ _ | refine accTrap_canon (checkAccess_canon ?_ _ _ _ _ _) (by assumption) | refine accOk_canon (checkAccess_canon ?_ _ _ _ _ _) (by assumption) | refine markUnchk_canon ?_ _ _ | refine readNow_canon ?_ _ _ _ | refine pair_canon (readNow_canon ?_ _ _ _) (by assumption) | refine sendRequest_canon ?_ _ _ _ _) | split

theorem execRjpost_canon {u : State} (h : Canon u) (a : BitVec 5) : CanonOut (execRjpost a u) := by
  unfold execRjpost
  (try dsimp only)
  repeat' split
  all_goals repeat' first | (with_reducible first | exact h | assumption | refine next_canon ?_ | refine release_canon ?_ _ _ | refine illegalOperand_canon ?_ _ | refine accTrap_canon (checkAccess_canon ?_ _ _ _ _ _) (by assumption) | refine accOk_canon (checkAccess_canon ?_ _ _ _ _ _) (by assumption) | refine readNow_canon ?_ _ _ _ | refine pair_canon (readNow_canon ?_ _ _ _) (by assumption) | refine sendRequest_canon ?_ _ _ _ _) | split

theorem execRjpop_canon {u : State} (h : Canon u) (d a : BitVec 5) : CanonOut (execRjpop d a u) := by
  unfold execRjpop
  (try dsimp only)
  repeat' split
  all_goals repeat' first | (with_reducible first | exact h | assumption | refine next_canon ?_ | refine illegalOperand_canon ?_ _ | refine markUnchk_canon ?_ _ _ | refine sendRequest_canon ?_ _ _ _ _) | split

theorem execRjctl_canon {u : State} (h : Canon u) (a : BitVec 5) (f q : BitVec 4) : CanonOut (execRjctl a f q u) := by
  unfold execRjctl
  (try dsimp only)
  repeat' split
  all_goals repeat' first | (with_reducible first | exact h | assumption | refine next_canon ?_ | refine illegalOperand_canon ?_ _ | refine sendRequest_canon ?_ _ _ _ _) | split

theorem takePool_canon {u : State} (h : Canon u) (n align : Nat) : CanonOptP (takePool u n align) := by
  unfold takePool
  (try dsimp only)
  repeat' split
  all_goals repeat' first | (with_reducible first | exact h | assumption | exact none_canon | refine some_canon ?_ | exact noneP_canon | refine someP_canon ?_ | refine modPav_canon ?_ _) | split

theorem readEntry_canon {u : State} (h : Canon u) (a : Nat) : Canon (readEntry u a).1 := by
  unfold readEntry
  (try dsimp only)
  repeat' split
  all_goals repeat' first | (with_reducible first | exact h | assumption | refine agentRead_canon ?_ _ _ | refine pair_canon (agentRead_canon ?_ _ _) (by assumption)) | split

theorem writeEntry_canon {u : State} (h : Canon u) (a v : Nat) : Canon (writeEntry u a v) := by
  unfold writeEntry
  (try dsimp only)
  repeat' split
  all_goals repeat' first | (with_reducible first | exact h | assumption | refine agentWrite_canon ?_ _ _) | split

theorem tableBelow_canon {u : State} (h : Canon u) (a : Nat) : CanonOptP (tableBelow u a) := by
  unfold tableBelow
  (try dsimp only)
  repeat' split
  all_goals repeat' first | (with_reducible first | exact h | assumption | exact none_canon | refine some_canon ?_ | exact noneP_canon | refine someP_canon ?_ | refine takePool_canon ?_ _ _ | refine optP_canon (takePool_canon ?_ _ _) (by assumption) | refine readEntry_canon ?_ _ | refine pair_canon (readEntry_canon ?_ _) (by assumption) | refine writeEntry_canon ?_ _ _) | split

theorem leafTable_canon {u : State} (h : Canon u) (va tbl : Nat) (z0 : List (Nat × Nat)) : CanonOptP (leafTable u va tbl z0) := by
  induction z0 generalizing u va tbl with
  | nil =>
    unfold leafTable
    (try dsimp only)
    repeat' split
    all_goals repeat' first | (with_reducible first | exact h | assumption | exact none_canon | refine some_canon ?_ | exact noneP_canon | refine someP_canon ?_ | refine tableBelow_canon ?_ _ | refine optP_canon (tableBelow_canon ?_ _) (by assumption)) | split
  | cons x_ t_ ih =>
    unfold leafTable
    (try dsimp only)
    repeat' split
    all_goals repeat' first | (with_reducible first | exact h | assumption | exact none_canon | refine some_canon ?_ | exact noneP_canon | refine someP_canon ?_ | refine tableBelow_canon ?_ _ | refine optP_canon (tableBelow_canon ?_ _) (by assumption) | refine ih ?_ _ _ | refine optP_canon (ih ?_ _ _) (by assumption)) | split

theorem putLeaf_canon {u : State} (h : Canon u) (asid va size leaf : Nat) : CanonOpt (putLeaf u asid va size leaf) := by
  unfold putLeaf
  (try dsimp only)
  repeat' split
  all_goals repeat' first | (with_reducible first | exact h | assumption | exact none_canon | refine some_canon ?_ | exact noneP_canon | refine someP_canon ?_ | refine writeEntry_canon ?_ _ _ | refine leafTable_canon ?_ _ _ _ | refine optP_canon (leafTable_canon ?_ _ _ _) (by assumption) | refine foldl_canon ?_ _ _ ?_ | refine foldlP_canon ?_ _ _ ?_ | intro _ _ _) | split

theorem dropTlb_canon {u : State} (h : Canon u) (asid va bytes : Nat) : Canon (dropTlb u asid va bytes) := by
  unfold dropTlb
  (try dsimp only)
  repeat' split
  all_goals repeat' first | (with_reducible first | exact h | assumption | refine modSys_canon ?_ _ ?_ | exact fun w => w | exact fun w => Memory.wf_set _ _ _ w | exact fun w => Memory.wf_memWrite _ _ _ w | exact fun w => Memory.wf_memMask _ _ _ _ _ w | exact fun w => Memory.wf_memMerge _ _ _ _ _ w | exact fun w => Memory.wf_memKeep _ _ w) | split

theorem execTlbInvalidate_canon {u : State} (h : Canon u) (asid va bytes : Nat) : CanonOut (execTlbInvalidate asid va bytes u) := by
  unfold execTlbInvalidate
  (try dsimp only)
  repeat' split
  all_goals repeat' first | (with_reducible first | exact h | assumption | refine next_canon ?_ | refine modSys_canon ?_ _ ?_ | exact fun w => w | exact fun w => Memory.wf_set _ _ _ w | exact fun w => Memory.wf_memWrite _ _ _ w | exact fun w => Memory.wf_memMask _ _ _ _ _ w | exact fun w => Memory.wf_memMerge _ _ _ _ _ w | exact fun w => Memory.wf_memKeep _ _ w) | split

theorem execTlbInvalidateComplete_canon {u : State} (h : Canon u)  : CanonOut (execTlbInvalidateComplete u) := by
  unfold execTlbInvalidateComplete
  (try dsimp only)
  repeat' split
  all_goals repeat' first | (with_reducible first | exact h | assumption | refine next_canon ?_ | refine dropTlb_canon ?_ _ _ _ | refine modSys_canon ?_ _ ?_ | exact fun w => w | exact fun w => Memory.wf_set _ _ _ w | exact fun w => Memory.wf_memWrite _ _ _ w | exact fun w => Memory.wf_memMask _ _ _ _ _ w | exact fun w => Memory.wf_memMerge _ _ _ _ _ w | exact fun w => Memory.wf_memKeep _ _ w) | split

theorem forgetPage_canon {u : State} (h : Canon u) (m : Mapping) : Canon (forgetPage u m) := by
  unfold forgetPage
  (try dsimp only)
  repeat' split
  all_goals repeat' first | (with_reducible first | exact h | assumption | refine chargeRegions_canon ?_ _ _ | refine modPav_canon ?_ _ | refine mapP_canon ?_ ?_ | intro _ _) | split

theorem freePins_canon {u : State} (h : Canon u) (old : List Mapping) : Canon (freePins u old) := by
  unfold freePins
  (try dsimp only)
  repeat' split
  all_goals repeat' first | (with_reducible first | exact h | assumption | refine modSys_canon ?_ _ ?_ | exact fun w => w | exact fun w => Memory.wf_set _ _ _ w | exact fun w => Memory.wf_memWrite _ _ _ w | exact fun w => Memory.wf_memMask _ _ _ _ _ w | exact fun w => Memory.wf_memMerge _ _ _ _ _ w | exact fun w => Memory.wf_memKeep _ _ w) | split

theorem unmapPage_canon {u : State} (h : Canon u) (m : Mapping) : Canon (unmapPage u m) := by
  unfold unmapPage
  (try dsimp only)
  repeat' split
  all_goals repeat' first | (with_reducible first | exact h | assumption | refine putLeaf_canon ?_ _ _ _ _ | refine opt_canon (putLeaf_canon ?_ _ _ _ _) (by assumption) | refine dropTlb_canon ?_ _ _ _ | refine forgetPage_canon ?_ _ | refine getD_canon ?_ ?_) | split

theorem mapPage_canon {u : State} (h : Canon u) (m : Mapping) : CanonOpt (mapPage u m) := by
  unfold mapPage
  (try dsimp only)
  repeat' split
  all_goals repeat' first | (with_reducible first | exact h | assumption | exact none_canon | refine some_canon ?_ | exact noneP_canon | refine someP_canon ?_ | refine chargeRegions_canon ?_ _ _ | refine putLeaf_canon ?_ _ _ _ _ | refine opt_canon (putLeaf_canon ?_ _ _ _ _) (by assumption) | refine dropTlb_canon ?_ _ _ _ | refine modPav_canon ?_ _ | refine modSys_canon ?_ _ ?_ | refine mapP_canon ?_ ?_ | intro _ _ | exact fun w => w | exact fun w => Memory.wf_set _ _ _ w | exact fun w => Memory.wf_memWrite _ _ _ w | exact fun w => Memory.wf_memMask _ _ _ _ _ w | exact fun w => Memory.wf_memMerge _ _ _ _ _ w | exact fun w => Memory.wf_memKeep _ _ w) | split

theorem mapPageList_canon {u : State} (h : Canon u) (z0 : List Mapping) : CanonOpt (mapPageList u z0) := by
  induction z0 generalizing u with
  | nil =>
    unfold mapPageList
    (try dsimp only)
    repeat' split
    all_goals repeat' first | (with_reducible first | exact h | assumption | exact none_canon | refine some_canon ?_ | exact noneP_canon | refine someP_canon ?_ | refine mapPage_canon ?_ _ | refine opt_canon (mapPage_canon ?_ _) (by assumption) | refine bind_canon ?_ ?_ | refine bindOP_canon ?_ ?_ | refine bindP_canon ?_ ?_ | refine bindAny_canon ?_ | refine opt_canon (bind_canon ?_ ?_) (by assumption) | refine opt_canon (bindP_canon ?_ ?_) (by assumption) | refine opt_canon (bindAny_canon ?_) (by assumption) | refine optP_canon (bindOP_canon ?_ ?_) (by assumption) | intro _ _ | intro _) | split
  | cons x_ t_ ih =>
    unfold mapPageList
    (try dsimp only)
    repeat' split
    all_goals repeat' first | (with_reducible first | exact h | assumption | exact none_canon | refine some_canon ?_ | exact noneP_canon | refine someP_canon ?_ | refine mapPage_canon ?_ _ | refine opt_canon (mapPage_canon ?_ _) (by assumption) | refine bind_canon ?_ ?_ | refine bindOP_canon ?_ ?_ | refine bindP_canon ?_ ?_ | refine bindAny_canon ?_ | refine opt_canon (bind_canon ?_ ?_) (by assumption) | refine opt_canon (bindP_canon ?_ ?_) (by assumption) | refine opt_canon (bindAny_canon ?_) (by assumption) | refine optP_canon (bindOP_canon ?_ ?_) (by assumption) | intro _ _ | intro _ | refine ih ?_ | refine opt_canon (ih ?_) (by assumption)) | split

theorem mapChecked_canon {u : State} (h : Canon u) (m : Mapping) : CanonOpt (mapChecked u m) := by
  unfold mapChecked
  (try dsimp only)
  repeat' split
  all_goals repeat' first | (with_reducible first | exact h | assumption | exact none_canon | refine some_canon ?_ | exact noneP_canon | refine someP_canon ?_ | refine mapPage_canon ?_ _ | refine opt_canon (mapPage_canon ?_ _) (by assumption)) | split

theorem readVa_canon {u : State} (h : Canon u) (asid : Nat) (z0 : Nat) (z1 : Nat) (z2 : Nat) : Canon (readVa u asid z0 z1 z2).1 := by
  induction z0 generalizing u asid z1 z2 with
  | zero =>
    unfold readVa
    (try dsimp only)
    repeat' split
    all_goals repeat' first | (with_reducible first | exact h | assumption | refine agentRead_canon ?_ _ _ | refine pair_canon (agentRead_canon ?_ _ _) (by assumption) | refine pavTranslate_canon ?_ _ _ _ | refine pair_canon (pavTranslate_canon ?_ _ _ _) (by assumption)) | split
  | succ n_ ih =>
    unfold readVa
    (try dsimp only)
    repeat' split
    all_goals repeat' first | (with_reducible first | exact h | assumption | refine agentRead_canon ?_ _ _ | refine pair_canon (agentRead_canon ?_ _ _) (by assumption) | refine pavTranslate_canon ?_ _ _ _ | refine pair_canon (pavTranslate_canon ?_ _ _ _) (by assumption) | refine ih ?_ _ _ _ | refine pair_canon (ih ?_ _ _ _) (by assumption)) | split

theorem readBytes_canon {u : State} (h : Canon u) (asid va n : Nat) : Canon (readBytes u asid va n).1 := by
  unfold readBytes
  (try dsimp only)
  repeat' split
  all_goals repeat' first | (with_reducible first | exact h | assumption | refine readVa_canon ?_ _ _ _ _ | refine pair_canon (readVa_canon ?_ _ _ _ _) (by assumption)) | split

theorem readNum_canon {u : State} (h : Canon u) (asid va n : Nat) : Canon (readNum u asid va n).1 := by
  unfold readNum
  (try dsimp only)
  repeat' split
  all_goals repeat' first | (with_reducible first | exact h | assumption | refine readBytes_canon ?_ _ _ _ | refine pair_canon (readBytes_canon ?_ _ _ _) (by assumption)) | split

theorem writeNum_canon {u : State} (h : Canon u) (asid va n v : Nat) : Canon (writeNum u asid va n v).1 := by
  unfold writeNum
  (try dsimp only)
  repeat' split
  all_goals repeat' first | (with_reducible first | exact h | assumption | refine agentWrite_canon ?_ _ _ | refine pavTranslate_canon ?_ _ _ _ | refine pair_canon (pavTranslate_canon ?_ _ _ _) (by assumption)) | split

theorem writeBlock_canon {u : State} (h : Canon u) (z0 : Nat) (z2 : Nat) (z3 : List Byte) : Canon (writeBlock z0 u z2 z3) := by
  induction z0 generalizing u z2 z3 with
  | zero =>
    unfold writeBlock
    (try dsimp only)
    repeat' split
    all_goals repeat' first | (with_reducible first | exact h | assumption | refine agentWrite_canon ?_ _ _) | split
  | succ n_ ih =>
    unfold writeBlock
    (try dsimp only)
    repeat' split
    all_goals repeat' first | (with_reducible first | exact h | assumption | refine agentWrite_canon ?_ _ _ | refine ih ?_ _ _) | split

theorem placeBlock_canon {u : State} (h : Canon u) (pa : Nat) (bs : List Byte) : Canon (placeBlock u pa bs) := by
  unfold placeBlock
  (try dsimp only)
  repeat' split
  all_goals repeat' first | (with_reducible first | exact h | assumption | refine writeBlock_canon ?_ _ _ _) | split

theorem zeroLine_canon {u : State} (h : Canon u) (line : Nat) : Canon (zeroLine u line) := by
  unfold zeroLine
  (try dsimp only)
  repeat' split
  all_goals repeat' first | (with_reducible first | exact h | assumption | refine dieWrite_canon ?_ _ _ _ _ _ | refine dieEvict_canon ?_ _ _) | split

theorem zeroBlock_canon {u : State} (h : Canon u) (pa n : Nat) : Canon (zeroBlock u pa n) := by
  unfold zeroBlock
  (try dsimp only)
  repeat' split
  all_goals repeat' first | (with_reducible first | exact h | assumption | refine zeroLine_canon ?_ _ | refine foldl_canon ?_ _ _ ?_ | refine foldlP_canon ?_ _ _ ?_ | intro _ _ _) | split

theorem boundaryTrap_canon {u : State} (h : Canon u) (c : Nat) : CanonOpt (boundaryTrap u c) := by
  unfold boundaryTrap
  dsimp only
  split
  · exact none_canon
  · split
    · exact some_canon (takeTrap_canon (modCore_canon h _ _) _ _ _ _ _ _ _)
    · split
      · exact none_canon
      · intro v e
        rw [Option.map_eq_some_iff] at e
        obtain ⟨d, -, rfl⟩ := e
        exact takeTrap_canon (modCore_canon h _ _) _ _ _ _ _ _ _

theorem execTrapEntry_canon {u : State} (h : Canon u) (core : Nat) : CanonOut (execTrapEntry core u) := by
  unfold execTrapEntry
  (try dsimp only)
  repeat' split
  all_goals repeat' first | (with_reducible first | exact h | assumption | refine next_canon ?_ | refine boundaryTrap_canon ?_ _ | refine opt_canon (boundaryTrap_canon ?_ _) (by assumption) | refine getD_canon ?_ ?_) | split


theorem mappedArea_canon {r : Option (State × Nat)} (h : CanonOptP r) (asid : Nat) : CanonOptP (mappedArea asid r) := by
  cases r with
  | none => exact noneP_canon
  | some v =>
    obtain ⟨s, pa⟩ := v
    have k : Canon s := h _ rfl
    unfold mappedArea
    exact mapP_canon (mapPageList_canon k (areaPages asid pa)) fun _ k => k
theorem takeArea_canon {u : State} (h : Canon u) (asid : Nat) : CanonOptP (takeArea u asid) := by
  unfold takeArea
  split
  · exact someP_canon (zeroBlock_canon (modPav_canon h _) _ _)
  · exact mappedArea_canon (takePool_canon h _ _) _

theorem fillArea_canon {u : State} (h : Canon u) (rcptr : Nat) (img : Image) : Canon (fillArea u rcptr img) := by
  unfold fillArea
  (try dsimp only)
  repeat' split
  all_goals repeat' first | (with_reducible first | exact h | assumption | refine placeBlock_canon ?_ _ _) | split

theorem callSched_canon {u : State} (h : Canon u)  : Canon (callSched u) := by
  unfold callSched
  (try dsimp only)
  repeat' split
  all_goals repeat' first | (with_reducible first | exact h | assumption | refine modSched_canon ?_ _) | split

theorem acquireCores_canon {u : State} (h : Canon u) (sc : Nat) (cs : List Nat) : Canon (acquireCores u sc cs) := by
  unfold acquireCores
  (try dsimp only)
  repeat' split
  all_goals repeat' first | (with_reducible first | exact h | assumption | refine acquireActs_canon ?_ _ _ | refine foldl_canon ?_ _ _ ?_ | refine foldlP_canon ?_ _ _ ?_ | intro _ _ _) | split

theorem bindTeam_canon {u : State} (h : Canon u) (t : Nat) (x : Team) (cs : List Nat) : Canon (bindTeam u t x cs) := by
  unfold bindTeam
  (try dsimp only)
  repeat' split
  all_goals repeat' first | (with_reducible first | exact h | assumption | refine modContext_canon ?_ _ _ _ | refine setTeam_canon ?_ _ _ | refine chargeRegions_canon ?_ _ _ | refine takeArea_canon ?_ _ | refine optP_canon (takeArea_canon ?_ _) (by assumption) | refine fillArea_canon ?_ _ _ | refine acquireCores_canon ?_ _ _ | refine modSched_canon ?_ _ | refine foldl_canon ?_ _ _ ?_ | refine foldlP_canon ?_ _ _ ?_ | intro _ _ _ | refine getD_canon ?_ ?_) | split

theorem execTeamBind_canon {u : State} (h : Canon u) (team : Nat) (cores : List Nat) : CanonOut (execTeamBind team cores u) := by
  unfold execTeamBind
  (try dsimp only)
  repeat' split
  all_goals repeat' first | (with_reducible first | exact h | assumption | refine next_canon ?_ | refine bindTeam_canon ?_ _ _ _ | refine mapP_canon ?_ ?_ | intro _ _) | split

theorem releaseOne_canon {u : State} (h : Canon u) (t : Nat) (c : Nat) : Canon (releaseOne t u c) := by
  unfold releaseOne
  (try dsimp only)
  repeat' split
  all_goals repeat' first | (with_reducible first | exact h | assumption | refine modContext_canon ?_ _ _ _ | refine acquireActs_canon ?_ _ _) | split

theorem execTeamRelease_canon {u : State} (h : Canon u) (team : Nat) : CanonOut (execTeamRelease team u) := by
  unfold execTeamRelease
  (try dsimp only)
  repeat' split
  all_goals repeat' first | (with_reducible first | exact h | assumption | refine next_canon ?_ | refine setTeam_canon ?_ _ _ | refine releaseOne_canon ?_ _ _ | refine foldl_canon ?_ _ _ ?_ | refine foldlP_canon ?_ _ _ ?_ | intro _ _ _) | split

theorem returnLocal_canon {u : State} (h : Canon u) (t : Nat) (x : Team) : Canon (returnLocal u t x) := by
  unfold returnLocal
  (try dsimp only)
  repeat' split
  all_goals repeat' first | (with_reducible first | exact h | assumption | refine modContext_canon ?_ _ _ _ | refine pushHead_canon ?_ _ _ | refine foldl_canon ?_ _ _ ?_ | refine foldlP_canon ?_ _ _ ?_ | intro _ _ _) | split

theorem startYield_canon {u : State} (h : Canon u) (deadline : Nat) (v : Nat × Team) : Canon (startYield u deadline v) := by
  unfold startYield
  (try dsimp only)
  repeat' split
  all_goals repeat' first | (with_reducible first | exact h | assumption | refine modTeam_canon ?_ _ _ | refine modContext_canon ?_ _ _ _ | refine returnLocal_canon ?_ _ _ | refine modSched_canon ?_ _ | refine foldl_canon ?_ _ _ ?_ | refine foldlP_canon ?_ _ _ ?_ | intro _ _ _) | split

theorem execPreemptRequest_canon {u : State} (h : Canon u) (team : Nat) : CanonOut (execPreemptRequest team u) := by
  unfold execPreemptRequest
  (try dsimp only)
  repeat' split
  all_goals repeat' first | (with_reducible first | exact h | assumption | refine next_canon ?_ | refine startYield_canon ?_ _ _ | refine foldl_canon ?_ _ _ ?_ | refine foldlP_canon ?_ _ _ ?_ | intro _ _ _ | refine mapP_canon ?_ ?_ | intro _ _) | split

theorem execDrainDeadline_canon {u : State} (h : Canon u) (core : Nat) : CanonOut (execDrainDeadline core u) := by
  unfold execDrainDeadline
  (try dsimp only)
  repeat' split
  all_goals repeat' first | (with_reducible first | exact h | assumption | refine next_canon ?_ | refine modCore_canon ?_ _ _) | split

theorem nextOf_canon {u : State} (h : Canon u) (o : Out) (ho : CanonOut o) : Canon (nextOf u o) := by
  cases o with
  | next t => exact ho t rfl
  | fault f => exact h
  | refused r => exact h

theorem expireOnce_canon {u : State} (h : Canon u)  : CanonOpt (expireOnce u) := by
  unfold expireOnce
  (try dsimp only)
  repeat' split
  all_goals repeat' first | (with_reducible first | exact h | assumption | exact none_canon | refine some_canon ?_ | exact noneP_canon | refine someP_canon ?_ | refine execDeadlineExpiry_canon ?_ | refine out_canon (execDeadlineExpiry_canon ?_) (by assumption) | refine execOrphanExpiry_canon ?_ | refine out_canon (execOrphanExpiry_canon ?_) (by assumption) | refine nextOf_canon ?_ _ ?_) | split

theorem settleExpiries_canon {u : State} (h : Canon u) (z0 : Nat) : Canon (settleExpiries z0 u) := by
  induction z0 generalizing u with
  | zero =>
    unfold settleExpiries
    (try dsimp only)
    repeat' split
    all_goals repeat' first | (with_reducible first | exact h | assumption | refine expireOnce_canon ?_ | refine opt_canon (expireOnce_canon ?_) (by assumption)) | split
  | succ n_ ih =>
    unfold settleExpiries
    (try dsimp only)
    repeat' split
    all_goals repeat' first | (with_reducible first | exact h | assumption | refine expireOnce_canon ?_ | refine opt_canon (expireOnce_canon ?_) (by assumption) | refine ih ?_) | split

theorem expire_canon {u : State} (h : Canon u)  : Canon (expire u) := by
  unfold expire
  (try dsimp only)
  repeat' split
  all_goals repeat' first | (with_reducible first | exact h | assumption | refine settleExpiries_canon ?_ _) | split

theorem serveOldest_canon {u : State} (h : Canon u) (c : Nat) : Canon (serveOldest u c) := by
  unfold serveOldest
  (try dsimp only)
  repeat' split
  all_goals repeat' first | (with_reducible first | exact h | assumption | refine execRegistrationServe_canon ?_ _ | refine out_canon (execRegistrationServe_canon ?_ _) (by assumption) | refine execPopServe_canon ?_ _ | refine out_canon (execPopServe_canon ?_ _) (by assumption) | refine execControlServe_canon ?_ _ | refine out_canon (execControlServe_canon ?_ _) (by assumption) | refine servePost_canon ?_ _ | refine nextOf_canon ?_ _ ?_ | refine expire_canon ?_) | split

theorem serveAllRequests_canon {u : State} (h : Canon u) (c : Nat) : Canon (serveAllRequests u c) := by
  unfold serveAllRequests
  (try dsimp only)
  repeat' split
  all_goals repeat' first | (with_reducible first | exact h | assumption | refine serveOldest_canon ?_ _ | refine foldl_canon ?_ _ _ ?_ | refine foldlP_canon ?_ _ _ ?_ | intro _ _ _) | split

theorem writeOut_canon {u : State} (h : Canon u) (c : Nat) : Canon (writeOut u c) := by
  unfold writeOut
  (try dsimp only)
  repeat' split
  all_goals repeat' first | (with_reducible first | exact h | assumption | refine setL1_canon ?_ _ _ | refine release_canon ?_ _ _ | refine serveAllRequests_canon ?_ _) | split

theorem saveOne_canon {u : State} (h : Canon u) (t : Nat) (spill : Bool) (c : Nat) : Canon (saveOne u t spill c) := by
  unfold saveOne
  (try dsimp only)
  repeat' split
  all_goals repeat' first | (with_reducible first | exact h | assumption | refine writeOut_canon ?_ _ | refine setCore_canon ?_ _ _ | refine modSched_canon ?_ _) | split

theorem discardTask_canon {u : State} (h : Canon u) (t : Nat) (x : Team) (c : Nat) : Canon (discardTask u t x c) := by
  unfold discardTask
  (try dsimp only)
  repeat' split
  all_goals repeat' first | (with_reducible first | exact h | assumption | refine handBack_canon ?_ _ _ | refine revertClaim_canon ?_ _ _ | refine withdraw_canon ?_ _ _ | refine serveMarks_canon ?_ _ _ | refine pushHead_canon ?_ _ _ | refine forgetPushes_canon ?_ _ _ | refine discardFrozen_canon ?_ _ | refine makeIdle_canon ?_ _ | refine endWait_canon ?_ _ _ | refine modCore_canon ?_ _ _ | refine foldl_canon ?_ _ _ ?_ | refine foldlP_canon ?_ _ _ ?_ | intro _ _ _) | split

theorem execCoreSave_canon {u : State} (h : Canon u) (core : Nat) : CanonOut (execCoreSave core u) := by
  unfold execCoreSave
  (try dsimp only)
  repeat' split
  all_goals repeat' first | (with_reducible first | exact h | assumption | refine next_canon ?_ | refine fencesAct_canon ?_ _ | refine freeze_canon ?_ _ | refine boundaryTrap_canon ?_ _ | refine opt_canon (boundaryTrap_canon ?_ _) (by assumption) | refine saveOne_canon ?_ _ _ _ | refine discardTask_canon ?_ _ _ _ | refine foldl_canon ?_ _ _ ?_ | refine foldlP_canon ?_ _ _ ?_ | intro _ _ _) | split

theorem drainAtTile_canon {u : State} (h : Canon u) (c : Nat) : Canon (drainAtTile u c) := by
  unfold drainAtTile
  (try dsimp only)
  repeat' split
  all_goals repeat' first | (with_reducible first | exact h | assumption | refine modGen_canon ?_ _ _ | refine revertClaim_canon ?_ _ _ | refine modCore_canon ?_ _ _ | refine foldl_canon ?_ _ _ ?_ | refine foldlP_canon ?_ _ _ ?_ | intro _ _ _) | split

theorem finishYield_canon {u : State} (h : Canon u) (t : Nat) : Canon (finishYield u t) := by
  unfold finishYield
  (try dsimp only)
  repeat' split
  all_goals repeat' first | (with_reducible first | exact h | assumption | refine modContext_canon ?_ _ _ _ | refine setTeam_canon ?_ _ _ | refine chargeRegions_canon ?_ _ _ | refine callSched_canon ?_ | refine modSched_canon ?_ _ | refine foldl_canon ?_ _ _ ?_ | refine foldlP_canon ?_ _ _ ?_ | intro _ _ _) | split

theorem restoreOne_canon {u : State} (h : Canon u) (t : Nat) (spill thawIt : Bool) (c : Nat) : Canon (restoreOne u t spill thawIt c) := by
  unfold restoreOne
  (try dsimp only)
  repeat' split
  all_goals repeat' first | (with_reducible first | exact h | assumption | refine acquire_canon ?_ _ _ | refine applyTail_canon ?_ _ _ | refine modMem_canon ?_ _ _ | refine setCore_canon ?_ _ _ | refine modSched_canon ?_ _) | split

theorem applyAnswer_canon {u : State} (h : Canon u) (c : Nat) (resume : Bool) : Canon (applyAnswer u c resume) := by
  unfold applyAnswer
  (try dsimp only)
  repeat' split
  all_goals repeat' first | (with_reducible first | exact h | assumption | refine faultTask_canon ?_ _ _ | refine returnFromTrap_canon ?_ _ _ ?_ | intro _ _ | intro _ | refine modCore_canon ?_ _ _) | split

theorem restoreCore_canon {u : State} (h : Canon u) (t : Nat) (x : Team) (c : Nat) : Canon (restoreCore u t x c) := by
  unfold restoreCore
  (try dsimp only)
  repeat' split
  all_goals repeat' first | (with_reducible first | exact h | assumption | refine modTeam_canon ?_ _ _ | refine dispatchRecords_canon ?_ _ | refine aheadStores_canon ?_ _ _ | refine restoreOne_canon ?_ _ _ _ _ | refine applyAnswer_canon ?_ _ _ | refine foldl_canon ?_ _ _ ?_ | refine foldlP_canon ?_ _ _ ?_ | intro _ _ _) | split

theorem execCoreRestore_canon {u : State} (h : Canon u) (core : Nat) : CanonOut (execCoreRestore core u) := by
  unfold execCoreRestore
  (try dsimp only)
  repeat' split
  all_goals repeat' first | (with_reducible first | exact h | assumption | refine next_canon ?_ | refine restoreCore_canon ?_ _ _ _) | split

theorem serviced_canon {u : State} (h : Canon u) (f : FaultEv) : CanonOpt (serviced u f) := by
  unfold serviced
  (try dsimp only)
  repeat' split
  all_goals repeat' first | (with_reducible first | exact h | assumption | exact none_canon | refine some_canon ?_ | exact noneP_canon | refine someP_canon ?_ | refine mapChecked_canon ?_ _ | refine opt_canon (mapChecked_canon ?_ _) (by assumption) | refine bind_canon ?_ ?_ | refine bindOP_canon ?_ ?_ | refine bindP_canon ?_ ?_ | refine bindAny_canon ?_ | refine opt_canon (bind_canon ?_ ?_) (by assumption) | refine opt_canon (bindP_canon ?_ ?_) (by assumption) | refine opt_canon (bindAny_canon ?_) (by assumption) | refine optP_canon (bindOP_canon ?_ ?_) (by assumption) | intro _ _ | intro _ | refine mapP_canon ?_ ?_ | intro _ _) | split

theorem answerFault_canon {u : State} (h : Canon u) (f : FaultEv) (resume : Bool) : Canon (answerFault u f resume) := by
  unfold answerFault
  (try dsimp only)
  repeat' split
  all_goals repeat' first | (with_reducible first | exact h | assumption | refine modContext_canon ?_ _ _ _ | refine applyAnswer_canon ?_ _ _ | refine modPav_canon ?_ _) | split

theorem execFolopResume_canon {u : State} (h : Canon u) (core : Nat) : CanonOut (execFolopResume core u) := by
  unfold execFolopResume
  (try dsimp only)
  repeat' split
  all_goals repeat' first | (with_reducible first | exact h | assumption | refine next_canon ?_ | refine serviced_canon ?_ _ | refine opt_canon (serviced_canon ?_ _) (by assumption) | refine answerFault_canon ?_ _ _) | split

theorem execFolopEnd_canon {u : State} (h : Canon u) (core : Nat) : CanonOut (execFolopEnd core u) := by
  unfold execFolopEnd
  (try dsimp only)
  repeat' split
  all_goals repeat' first | (with_reducible first | exact h | assumption | refine next_canon ?_ | refine answerFault_canon ?_ _ _) | split

theorem haltCore_canon {u : State} (h : Canon u) (c : Nat) : Canon (haltCore u c) := by
  unfold haltCore
  (try dsimp only)
  repeat' split
  all_goals repeat' first | (with_reducible first | exact h | assumption | refine fencesAct_canon ?_ _ | refine freeze_canon ?_ _ | refine boundaryTrap_canon ?_ _ | refine opt_canon (boundaryTrap_canon ?_ _) (by assumption) | refine modSched_canon ?_ _) | split

theorem thawIn_canon {u : State} (h : Canon u) (c : Nat) : Canon (thawIn u c) := by
  unfold thawIn
  (try dsimp only)
  repeat' split
  all_goals repeat' first | (with_reducible first | exact h | assumption | refine applyAnswer_canon ?_ _ _ | refine modArr_canon ?_ _ _ | refine modSched_canon ?_ _) | split

theorem swapOne_canon {u : State} (h : Canon u) (incoming c : Nat) : Canon (swapOne u incoming c) := by
  unfold swapOne
  (try dsimp only)
  repeat' split
  all_goals repeat' first | (with_reducible first | exact h | assumption | refine applyTail_canon ?_ _ _ | refine setCore_canon ?_ _ _ | refine modSched_canon ?_ _) | split

theorem exchange_canon {u : State} (h : Canon u) (outgoing incoming : Nat) : Canon (exchange u outgoing incoming) := by
  unfold exchange
  (try dsimp only)
  repeat' split
  all_goals repeat' first | (with_reducible first | exact h | assumption | refine writeOut_canon ?_ _ | refine thawIn_canon ?_ _ | refine swapOne_canon ?_ _ _ | refine modSched_canon ?_ _ | refine foldl_canon ?_ _ _ ?_ | refine foldlP_canon ?_ _ _ ?_ | intro _ _ _) | split

theorem swapStep_canon {u : State} (h : Canon u) (outgoing incoming : Nat) : Canon (swapStep u outgoing incoming) := by
  unfold swapStep
  (try dsimp only)
  repeat' split
  all_goals repeat' first | (with_reducible first | exact h | assumption | refine haltCore_canon ?_ _ | refine exchange_canon ?_ _ _ | refine foldl_canon ?_ _ _ ?_ | refine foldlP_canon ?_ _ _ ?_ | intro _ _ _) | split

theorem execPartitionSwap_canon {u : State} (h : Canon u) (outgoing incoming : Nat) : CanonOut (execPartitionSwap outgoing incoming u) := by
  unfold execPartitionSwap
  (try dsimp only)
  repeat' split
  all_goals repeat' first | (with_reducible first | exact h | assumption | refine next_canon ?_ | refine swapStep_canon ?_ _ _ | refine modSched_canon ?_ _) | split

theorem execTaskStart_canon {u : State} (h : Canon u) (core : Nat) : CanonOut (execTaskStart core u) := by
  unfold execTaskStart
  (try dsimp only)
  repeat' split
  all_goals repeat' first | (with_reducible first | exact h | assumption | refine next_canon ?_ | refine startTask_canon ?_ _ _ _) | split

theorem finishJoin_canon {u : State} (h : Canon u) (c : Nat) (j : JoinWait) (ws : List Nat) : Canon (finishJoin u c j ws) := by
  unfold finishJoin
  (try dsimp only)
  repeat' split
  all_goals repeat' first | (with_reducible first | exact h | assumption | refine acquire_canon ?_ _ _ | refine modCore_canon ?_ _ _ | refine getD_canon ?_ ?_) | split

theorem execJoinwComplete_canon {u : State} (h : Canon u) (core : Nat) : CanonOut (execJoinwComplete core u) := by
  unfold execJoinwComplete
  (try dsimp only)
  repeat' split
  all_goals repeat' first | (with_reducible first | exact h | assumption | refine next_canon ?_ | refine finishJoin_canon ?_ _ _ _) | split

theorem execTeamKill_canon {u : State} (h : Canon u) (team : Nat) : CanonOut (execTeamKill team u) := by
  unfold execTeamKill
  (try dsimp only)
  repeat' split
  all_goals repeat' first | (with_reducible first | exact h | assumption | refine next_canon ?_ | refine killTeam_canon ?_ _ _ _) | split

theorem finishTeam_canon {u : State} (h : Canon u) (t : Nat) (x : Team) : Canon (finishTeam u t x) := by
  unfold finishTeam
  (try dsimp only)
  repeat' split
  all_goals repeat' first | (with_reducible first | exact h | assumption | refine setPkt_canon ?_ _ _ | refine callSched_canon ?_ | refine modSched_canon ?_ _ | refine getD_canon ?_ ?_) | split

theorem execTeamEnd_canon {u : State} (h : Canon u) (team : Nat) : CanonOut (execTeamEnd team u) := by
  unfold execTeamEnd
  (try dsimp only)
  repeat' split
  all_goals repeat' first | (with_reducible first | exact h | assumption | refine next_canon ?_ | refine endTeam_canon ?_ _ | refine callSched_canon ?_ | refine finishTeam_canon ?_ _ _ | refine modPav_canon ?_ _) | split

theorem genCut_canon {u : State} (h : Canon u) (t : Nat) : Canon (genCut u t) := by
  unfold genCut
  (try dsimp only)
  repeat' split
  all_goals repeat' first | (with_reducible first | exact h | assumption | refine runCut_canon ?_ _ | refine dispatchRecords_canon ?_ _) | split

theorem execGeneratorCut_canon {u : State} (h : Canon u) (team : Nat) : CanonOut (execGeneratorCut team u) := by
  unfold execGeneratorCut
  (try dsimp only)
  repeat' split
  all_goals repeat' first | (with_reducible first | exact h | assumption | refine next_canon ?_ | refine genCut_canon ?_ _) | split

theorem execSchedRegisterServe_canon {u : State} (h : Canon u) (team : Nat) : CanonOut (execSchedRegisterServe team u) := by
  unfold execSchedRegisterServe
  (try dsimp only)
  repeat' split
  all_goals repeat' first | (with_reducible first | exact h | assumption | refine next_canon ?_ | refine serveRegister_canon ?_ _) | split

theorem execDoorbellWrite_canon {u : State} (h : Canon u) (queue : Nat) (w : BitVec 64) : CanonOut (execDoorbellWrite queue w u) := by
  unfold execDoorbellWrite
  (try dsimp only)
  repeat' split
  all_goals repeat' first | (with_reducible first | exact h | assumption | refine next_canon ?_ | refine settle_canon ?_ | refine doorbell_canon ?_ _ _ | refine modPav_canon ?_ _) | split

theorem takePackets_canon {u : State} (h : Canon u) (z0 : Nat) (z2 : Nat) : Canon (takePackets z0 u z2) := by
  induction z0 generalizing u z2 with
  | zero =>
    unfold takePackets
    (try dsimp only)
    repeat' split
    all_goals repeat' first | (with_reducible first | exact h | assumption | refine setQueue_canon ?_ _ _ | refine queueError_canon ?_ _ _ | refine readBytes_canon ?_ _ _ _ | refine pair_canon (readBytes_canon ?_ _ _ _) (by assumption) | refine modPav_canon ?_ _) | split
  | succ n_ ih =>
    unfold takePackets
    (try dsimp only)
    repeat' split
    all_goals repeat' first | (with_reducible first | exact h | assumption | refine setQueue_canon ?_ _ _ | refine queueError_canon ?_ _ _ | refine readBytes_canon ?_ _ _ _ | refine pair_canon (readBytes_canon ?_ _ _ _) (by assumption) | refine modPav_canon ?_ _ | refine ih ?_ _) | split

theorem execQueueEvent_canon {u : State} (h : Canon u) (pav : Nat) : CanonOut (execQueueEvent pav u) := by
  unfold execQueueEvent
  (try dsimp only)
  repeat' split
  all_goals repeat' first | (with_reducible first | exact h | assumption | refine next_canon ?_ | refine setQueue_canon ?_ _ _ | refine settle_canon ?_ | refine takePackets_canon ?_ _ _ | refine modPav_canon ?_ _) | split

theorem sendIrq_canon {u : State} (h : Canon u) (q : Nat) : Canon (sendIrq u q) := by
  unfold sendIrq
  (try dsimp only)
  repeat' split
  all_goals repeat' first | (with_reducible first | exact h | assumption | refine setQueue_canon ?_ _ _ | refine postBytes_canon ?_ _ _) | split

theorem coalesce_canon {u : State} (h : Canon u) (q : Nat) : Canon (coalesce u q) := by
  unfold coalesce
  (try dsimp only)
  repeat' split
  all_goals repeat' first | (with_reducible first | exact h | assumption | refine setQueue_canon ?_ _ _ | refine sendIrq_canon ?_ _) | split

theorem execIrqSend_canon {u : State} (h : Canon u) (queue : Nat) : CanonOut (execIrqSend queue u) := by
  unfold execIrqSend
  (try dsimp only)
  repeat' split
  all_goals repeat' first | (with_reducible first | exact h | assumption | refine next_canon ?_ | refine sendIrq_canon ?_ _) | split

theorem workDone_canon {u : State} (h : Canon u) (p st : Nat) : Canon (workDone u p st) := by
  unfold workDone
  (try dsimp only)
  repeat' split
  all_goals repeat' first | (with_reducible first | exact h | assumption | refine setPkt_canon ?_ _ _ | refine getD_canon ?_ ?_) | split

theorem releaseWork_canon {u : State} (h : Canon u) (sc : Nat) (cs : List Nat) : Canon (releaseWork u sc cs) := by
  unfold releaseWork
  (try dsimp only)
  repeat' split
  all_goals repeat' first | (with_reducible first | exact h | assumption | refine deliverPosted_canon ?_ | refine releaseActs_canon ?_ _ _ | refine foldl_canon ?_ _ _ ?_ | refine foldlP_canon ?_ _ _ ?_ | intro _ _ _) | split

theorem execPacketComplete_canon {u : State} (h : Canon u) (pkt : Nat) : CanonOut (execPacketComplete pkt u) := by
  unfold execPacketComplete
  (try dsimp only)
  repeat' split
  all_goals repeat' first | (with_reducible first | exact h | assumption | refine next_canon ?_ | refine queueError_canon ?_ _ _ | refine postEvent_canon ?_ _ | refine writeNum_canon ?_ _ _ _ _ | refine pair_canon (writeNum_canon ?_ _ _ _ _) (by assumption) | refine coalesce_canon ?_ _ | refine releaseWork_canon ?_ _ _ | refine modPav_canon ?_ _) | split

theorem readSection_canon {u : State} (h : Canon u) (asid va : Nat) (x : Option Section) : Canon (readSection u asid va x).1 := by
  unfold readSection
  (try dsimp only)
  repeat' split
  all_goals repeat' first | (with_reducible first | exact h | assumption | refine readBytes_canon ?_ _ _ _ | refine pair_canon (readBytes_canon ?_ _ _ _) (by assumption)) | split

theorem readEnts_canon {u : State} (h : Canon u) (asid va team cores : Nat) (l : List Section) (z0 : Nat) : Canon (readEnts u asid va team cores l z0).1 := by
  induction z0 generalizing u asid va team cores l with
  | zero =>
    unfold readEnts
    (try dsimp only)
    repeat' split
    all_goals repeat' first | (with_reducible first | exact h | assumption | refine readSection_canon ?_ _ _ _ | refine pair_canon (readSection_canon ?_ _ _ _) (by assumption)) | split
  | succ n_ ih =>
    unfold readEnts
    (try dsimp only)
    repeat' split
    all_goals repeat' first | (with_reducible first | exact h | assumption | refine readSection_canon ?_ _ _ _ | refine pair_canon (readSection_canon ?_ _ _ _) (by assumption) | refine ih ?_ _ _ _ _ _ | refine pair_canon (ih ?_ _ _ _ _ _) (by assumption)) | split

theorem readAll_canon {u : State} (h : Canon u) (asid va : Nat) (z0 : List (Option Section)) : Canon (readAll u asid va z0).1 := by
  induction z0 generalizing u asid va with
  | nil =>
    unfold readAll
    (try dsimp only)
    repeat' split
    all_goals repeat' first | (with_reducible first | exact h | assumption | refine readSection_canon ?_ _ _ _ | refine pair_canon (readSection_canon ?_ _ _ _) (by assumption)) | split
  | cons x_ t_ ih =>
    unfold readAll
    (try dsimp only)
    repeat' split
    all_goals repeat' first | (with_reducible first | exact h | assumption | refine readSection_canon ?_ _ _ _ | refine pair_canon (readSection_canon ?_ _ _ _) (by assumption) | refine ih ?_ _ _ | refine pair_canon (ih ?_ _ _) (by assumption)) | split

theorem readImage_canon {u : State} (h : Canon u) (asid va : Nat) : Canon (readImage u asid va).1 := by
  unfold readImage
  (try dsimp only)
  repeat' split
  all_goals repeat' first | (with_reducible first | exact h | assumption | refine readNum_canon ?_ _ _ _ | refine pair_canon (readNum_canon ?_ _ _ _) (by assumption) | refine readSection_canon ?_ _ _ _ | refine pair_canon (readSection_canon ?_ _ _ _) (by assumption) | refine readEnts_canon ?_ _ _ _ _ _ _ | refine pair_canon (readEnts_canon ?_ _ _ _ _ _ _) (by assumption) | refine readAll_canon ?_ _ _ _ | refine pair_canon (readAll_canon ?_ _ _ _) (by assumption) | refine getD_canon ?_ ?_ | refine mapP_canon ?_ ?_ | intro _ _) | split

theorem launchTeam_canon {u : State} (h : Canon u) (pkt asid region va : Nat) (args : Dword) : Canon (launchTeam u pkt asid region va args).1 := by
  unfold launchTeam
  (try dsimp only)
  repeat' split
  all_goals repeat' first | (with_reducible first | exact h | assumption | refine setTeam_canon ?_ _ _ | refine loadGen_canon ?_ _ _ | refine pair_canon (loadGen_canon ?_ _ _) (by assumption) | refine callSched_canon ?_ | refine readImage_canon ?_ _ _ | refine pair_canon (readImage_canon ?_ _ _) (by assumption) | refine modSched_canon ?_ _) | split

theorem execLaunch_canon {u : State} (h : Canon u) (pkt : Nat) : CanonOut (execLaunch pkt u) := by
  unfold execLaunch
  (try dsimp only)
  repeat' split
  all_goals repeat' first | (with_reducible first | exact h | assumption | refine next_canon ?_ | refine setPkt_canon ?_ _ _ | refine settle_canon ?_ | refine workDone_canon ?_ _ _ | refine launchTeam_canon ?_ _ _ _ _ _ | refine pair_canon (launchTeam_canon ?_ _ _ _ _ _) (by assumption)) | split

theorem pollSignal_canon {u : State} (h : Canon u) (pkt : Nat) (p : Pkt) : Canon (pollSignal u pkt p) := by
  unfold pollSignal
  (try dsimp only)
  repeat' split
  all_goals repeat' first | (with_reducible first | exact h | assumption | refine readNum_canon ?_ _ _ _ | refine pair_canon (readNum_canon ?_ _ _ _) (by assumption) | refine workDone_canon ?_ _ _) | split

theorem execWaitsig_canon {u : State} (h : Canon u) (pkt : Nat) : CanonOut (execWaitsig pkt u) := by
  unfold execWaitsig
  (try dsimp only)
  repeat' split
  all_goals repeat' first | (with_reducible first | exact h | assumption | refine next_canon ?_ | refine setPkt_canon ?_ _ _ | refine settle_canon ?_ | refine pollSignal_canon ?_ _ _) | split

theorem execWaitsigPoll_canon {u : State} (h : Canon u) (pkt : Nat) : CanonOut (execWaitsigPoll pkt u) := by
  unfold execWaitsigPoll
  (try dsimp only)
  repeat' split
  all_goals repeat' first | (with_reducible first | exact h | assumption | refine next_canon ?_ | refine pollSignal_canon ?_ _ _) | split

theorem execWaitsigTimeout_canon {u : State} (h : Canon u) (pkt : Nat) : CanonOut (execWaitsigTimeout pkt u) := by
  unfold execWaitsigTimeout
  (try dsimp only)
  repeat' split
  all_goals repeat' first | (with_reducible first | exact h | assumption | refine next_canon ?_ | refine workDone_canon ?_ _ _) | split

theorem storeSignal_canon {u : State} (h : Canon u) (asid va v : Nat) : Canon (storeSignal u asid va v).1 := by
  unfold storeSignal
  (try dsimp only)
  repeat' split
  all_goals repeat' first | (with_reducible first | exact h | assumption | refine deliverPosted_canon ?_ | refine writeNum_canon ?_ _ _ _ _ | refine pair_canon (writeNum_canon ?_ _ _ _ _) (by assumption)) | split

theorem addSignal_canon {u : State} (h : Canon u) (asid va v : Nat) : Canon (addSignal u asid va v).1 := by
  unfold addSignal
  (try dsimp only)
  repeat' split
  all_goals repeat' first | (with_reducible first | exact h | assumption | refine deliverPosted_canon ?_ | refine atomicAt_canon ?_ _ _ _ _ _ _ | refine pair_canon (atomicAt_canon ?_ _ _ _ _ _ _) (by assumption) | refine pavTranslate_canon ?_ _ _ _ | refine pair_canon (pavTranslate_canon ?_ _ _ _) (by assumption)) | split

theorem signalWork_canon {u : State} (h : Canon u) (pkt op : Nat) (f : State → Nat → Nat → Nat → State × Bool)
    (hf : ∀ v a b c, Canon v → Canon (f v a b c).1) : CanonOut (signalWork u pkt op f) := by
  unfold signalWork
  repeat' split
  all_goals first
    | exact next_canon h
    | exact next_canon (workDone_canon (pair_canon (hf _ _ _ _ (settle_canon h)) (by assumption)) _ _)

theorem execSignalStore_canon {u : State} (h : Canon u) (pkt : Nat) : CanonOut (execSignalStore pkt u) := by
  unfold execSignalStore
  (try dsimp only)
  repeat' split
  all_goals repeat' first | (with_reducible first | exact h | assumption | refine next_canon ?_ | refine storeSignal_canon ?_ _ _ _ | refine pair_canon (storeSignal_canon ?_ _ _ _) (by assumption) | refine signalWork_canon ?_ _ _ _ ?_ | intro _ _ _ _ _ | intro _ _ _ _ | intro _ _) | split

theorem execSignalAdd_canon {u : State} (h : Canon u) (pkt : Nat) : CanonOut (execSignalAdd pkt u) := by
  unfold execSignalAdd
  (try dsimp only)
  repeat' split
  all_goals repeat' first | (with_reducible first | exact h | assumption | refine next_canon ?_ | refine addSignal_canon ?_ _ _ _ | refine pair_canon (addSignal_canon ?_ _ _ _) (by assumption) | refine signalWork_canon ?_ _ _ _ ?_ | intro _ _ _ _ _ | intro _ _ _ _ | intro _ _) | split

theorem readPieces_canon {u : State} (h : Canon u) (asid va : Nat) (z0 : Nat) : Canon (readPieces u asid va z0).1 := by
  induction z0 generalizing u asid va with
  | zero =>
    unfold readPieces
    (try dsimp only)
    repeat' split
    all_goals repeat' first | (with_reducible first | exact h | assumption | refine readBytes_canon ?_ _ _ _ | refine pair_canon (readBytes_canon ?_ _ _ _) (by assumption)) | split
  | succ n_ ih =>
    unfold readPieces
    (try dsimp only)
    repeat' split
    all_goals repeat' first | (with_reducible first | exact h | assumption | refine readBytes_canon ?_ _ _ _ | refine pair_canon (readBytes_canon ?_ _ _ _) (by assumption) | refine ih ?_ _ _ | refine pair_canon (ih ?_ _ _) (by assumption)) | split

theorem landOne_canon {u : State} (h : Canon u) (va : Nat) (x : Xl) (b : List Byte) (last : Bool) : Canon (landOne u va x b last) := by
  unfold landOne
  (try dsimp only)
  repeat' split
  all_goals repeat' first | (with_reducible first | exact h | assumption | refine setFull_canon ?_ _ _ | refine deviceWrite_canon ?_ _ _) | split

theorem landPieces_canon {u : State} (h : Canon u) (asid va : Nat) (z0 : List (List Byte)) : Canon (landPieces u asid va z0).1 := by
  induction z0 generalizing u asid va with
  | nil =>
    unfold landPieces
    (try dsimp only)
    repeat' split
    all_goals repeat' first | (with_reducible first | exact h | assumption | refine pavTranslate_canon ?_ _ _ _ | refine pair_canon (pavTranslate_canon ?_ _ _ _) (by assumption) | refine landOne_canon ?_ _ _ _ _) | split
  | cons x_ t_ ih =>
    unfold landPieces
    (try dsimp only)
    repeat' split
    all_goals repeat' first | (with_reducible first | exact h | assumption | refine pavTranslate_canon ?_ _ _ _ | refine pair_canon (pavTranslate_canon ?_ _ _ _) (by assumption) | refine landOne_canon ?_ _ _ _ _ | refine ih ?_ _ _ | refine pair_canon (ih ?_ _ _) (by assumption)) | split

theorem execCopy_canon {u : State} (h : Canon u) (pkt : Nat) : CanonOut (execCopy pkt u) := by
  unfold execCopy
  (try dsimp only)
  repeat' split
  all_goals repeat' first | (with_reducible first | exact h | assumption | refine next_canon ?_ | refine wrote_canon ?_ _ | refine settle_canon ?_ | refine workDone_canon ?_ _ _ | refine readPieces_canon ?_ _ _ _ | refine pair_canon (readPieces_canon ?_ _ _ _) (by assumption) | refine landPieces_canon ?_ _ _ _ | refine pair_canon (landPieces_canon ?_ _ _ _) (by assumption)) | split

theorem linkRegion_canon {u : State} (h : Canon u) (a v : Nat) : CanonOpt (linkRegion u a v) := by
  unfold linkRegion
  (try dsimp only)
  repeat' split
  all_goals repeat' first | (with_reducible first | exact h | assumption | exact none_canon | refine some_canon ?_ | exact noneP_canon | refine someP_canon ?_ | refine setRegion_canon ?_ _ _ | refine callSched_canon ?_) | split

theorem unlinkRegion_canon {u : State} (h : Canon u) (a : Nat) (r : Region) : Canon (unlinkRegion u a r) := by
  unfold unlinkRegion
  (try dsimp only)
  repeat' split
  all_goals repeat' first | (with_reducible first | exact h | assumption | refine setRegion_canon ?_ _ _ | refine modSched_canon ?_ _ | refine mapP_canon ?_ ?_ | intro _ _) | split

theorem regionWork_canon {u : State} (h : Canon u) (pkt op : Nat) (f : State → Nat → Nat → Option State)
    (hf : ∀ v a b, Canon v → CanonOpt (f v a b)) : CanonOut (regionWork u pkt op f) := by
  unfold regionWork
  dsimp only
  split
  · exact next_canon h
  · rename_i p _
    split
    · exact next_canon h
    · split
      · exact next_canon (workDone_canon h _ _)
      · have k : Canon (if op < 2 then readNum (settle u) (pktAsid u p) (pktFld p 0x18 8) 256 else (u, .ok 0)).1 := by
          split
          · exact readNum_canon (settle_canon h) _ _ _
          · exact h
        split
        · exact next_canon (workDone_canon (pair_canon k (by assumption)) _ _)
        · split
          · exact next_canon (workDone_canon (pair_canon k (by assumption)) _ _)
          · exact next_canon (workDone_canon (hf _ _ _ (pair_canon k (by assumption)) _ (by assumption)) _ _)

theorem execRegionInsert_canon {u : State} (h : Canon u) (pkt : Nat) : CanonOut (execRegionInsert pkt u) := by
  unfold execRegionInsert
  (try dsimp only)
  repeat' split
  all_goals repeat' first | (with_reducible first | exact h | assumption | refine next_canon ?_ | refine linkRegion_canon ?_ _ _ | refine opt_canon (linkRegion_canon ?_ _ _) (by assumption) | refine regionWork_canon ?_ _ _ _ ?_ | intro _ _ _ _ _ | intro _ _ _ _ | intro _ _) | split

theorem updateRegion_canon {u : State} (h : Canon u) (a v : Nat) : CanonOpt (updateRegion u a v) := by
  unfold updateRegion
  (try dsimp only)
  repeat' split
  all_goals repeat' first | (with_reducible first | exact h | assumption | exact none_canon | refine some_canon ?_ | exact noneP_canon | refine someP_canon ?_ | refine setRegion_canon ?_ _ _ | refine callSched_canon ?_) | split

theorem execRegionUpdate_canon {u : State} (h : Canon u) (pkt : Nat) : CanonOut (execRegionUpdate pkt u) := by
  unfold execRegionUpdate
  (try dsimp only)
  repeat' split
  all_goals repeat' first | (with_reducible first | exact h | assumption | refine next_canon ?_ | refine regionWork_canon ?_ _ _ _ ?_ | intro _ _ _ _ _ | intro _ _ _ _ | intro _ _ | refine updateRegion_canon ?_ _ _ | refine opt_canon (updateRegion_canon ?_ _ _) (by assumption)) | split

theorem removeRegion_canon {u : State} (h : Canon u) (a : Nat) (z_0 : Nat) : CanonOpt (removeRegion u a z_0) := by
  unfold removeRegion
  (try dsimp only)
  repeat' split
  all_goals repeat' first | (with_reducible first | exact h | assumption | exact none_canon | refine some_canon ?_ | exact noneP_canon | refine someP_canon ?_ | refine callSched_canon ?_ | refine unlinkRegion_canon ?_ _ _) | split

theorem execRegionRemove_canon {u : State} (h : Canon u) (pkt : Nat) : CanonOut (execRegionRemove pkt u) := by
  unfold execRegionRemove
  (try dsimp only)
  repeat' split
  all_goals repeat' first | (with_reducible first | exact h | assumption | refine next_canon ?_ | refine regionWork_canon ?_ _ _ _ ?_ | intro _ _ _ _ _ | intro _ _ _ _ | intro _ _ | refine removeRegion_canon ?_ _ _ | refine opt_canon (removeRegion_canon ?_ _ _) (by assumption)) | split

theorem killRegion_canon {u : State} (h : Canon u) (a : Nat) (z_1 : Nat) : CanonOpt (killRegion u a z_1) := by
  unfold killRegion
  (try dsimp only)
  repeat' split
  all_goals repeat' first | (with_reducible first | exact h | assumption | exact none_canon | refine some_canon ?_ | exact noneP_canon | refine someP_canon ?_ | refine killTeam_canon ?_ _ _ _ | refine foldl_canon ?_ _ _ ?_ | refine foldlP_canon ?_ _ _ ?_ | intro _ _ _) | split

theorem execRegionKill_canon {u : State} (h : Canon u) (pkt : Nat) : CanonOut (execRegionKill pkt u) := by
  unfold execRegionKill
  (try dsimp only)
  repeat' split
  all_goals repeat' first | (with_reducible first | exact h | assumption | refine next_canon ?_ | refine regionWork_canon ?_ _ _ _ ?_ | intro _ _ _ _ _ | intro _ _ _ _ | intro _ _ | refine killRegion_canon ?_ _ _ | refine opt_canon (killRegion_canon ?_ _ _) (by assumption)) | split

theorem gotoNode_canon {u : State} (h : Canon u) (pkt : Nat) (p : Pkt) (a : Nat) : Canon (gotoNode u pkt p a) := by
  unfold gotoNode
  (try dsimp only)
  repeat' split
  all_goals repeat' first | (with_reducible first | exact h | assumption | refine setPkt_canon ?_ _ _) | split

theorem kernelNode_canon {u : State} (h : Canon u) (pkt : Nat) (p : Pkt) (v : Nat) : Canon (kernelNode u pkt p v) := by
  unfold kernelNode
  (try dsimp only)
  repeat' split
  all_goals repeat' first | (with_reducible first | exact h | assumption | refine setPkt_canon ?_ _ _ | refine callSched_canon ?_ | refine workDone_canon ?_ _ _ | refine releaseWork_canon ?_ _ _ | refine launchTeam_canon ?_ _ _ _ _ _ | refine pair_canon (launchTeam_canon ?_ _ _ _ _ _) (by assumption) | refine gotoNode_canon ?_ _ _ _ | refine modSched_canon ?_ _) | split

theorem loopVisit_canon {u : State} (h : Canon u) (pkt : Nat) (p : Pkt) (asid v count : Nat) : Canon (loopVisit u pkt p asid v count) := by
  unfold loopVisit
  (try dsimp only)
  repeat' split
  all_goals repeat' first | (with_reducible first | exact h | assumption | refine readNum_canon ?_ _ _ _ | refine pair_canon (readNum_canon ?_ _ _ _) (by assumption) | refine writeNum_canon ?_ _ _ _ _ | refine pair_canon (writeNum_canon ?_ _ _ _ _) (by assumption) | refine workDone_canon ?_ _ _ | refine gotoNode_canon ?_ _ _ _) | split

theorem loopNode_canon {u : State} (h : Canon u) (pkt : Nat) (p : Pkt) (v : Nat) : Canon (loopNode u pkt p v) := by
  unfold loopNode
  (try dsimp only)
  repeat' split
  all_goals repeat' first | (with_reducible first | exact h | assumption | refine writeNum_canon ?_ _ _ _ _ | refine pair_canon (writeNum_canon ?_ _ _ _ _) (by assumption) | refine workDone_canon ?_ _ _ | refine loopVisit_canon ?_ _ _ _ _ _) | split

theorem condNode_canon {u : State} (h : Canon u) (pkt : Nat) (p : Pkt) (v : Nat) : Canon (condNode u pkt p v) := by
  unfold condNode
  (try dsimp only)
  repeat' split
  all_goals repeat' first | (with_reducible first | exact h | assumption | refine readNum_canon ?_ _ _ _ | refine pair_canon (readNum_canon ?_ _ _ _) (by assumption) | refine workDone_canon ?_ _ _ | refine gotoNode_canon ?_ _ _ _) | split

theorem signalNode_canon {u : State} (h : Canon u) (pkt : Nat) (p : Pkt) (v : Nat) : Canon (signalNode u pkt p v) := by
  unfold signalNode
  (try dsimp only)
  repeat' split
  all_goals repeat' first | (with_reducible first | exact h | assumption | refine coalesce_canon ?_ _ | refine workDone_canon ?_ _ _ | refine storeSignal_canon ?_ _ _ _ | refine pair_canon (storeSignal_canon ?_ _ _ _) (by assumption) | refine gotoNode_canon ?_ _ _ _) | split

theorem endNode_canon {u : State} (h : Canon u) (pkt : Nat) (z_2 : Pkt) (z_3 : Nat) : Canon (endNode u pkt z_2 z_3) := by
  unfold endNode
  (try dsimp only)
  repeat' split
  all_goals repeat' first | (with_reducible first | exact h | assumption | refine workDone_canon ?_ _ _) | split

theorem nodeBytes_canon {u : State} (h : Canon u) (p : Pkt) : Canon (nodeBytes u p).1 := by
  unfold nodeBytes
  (try dsimp only)
  repeat' split
  all_goals repeat' first | (with_reducible first | exact h | assumption | refine readNum_canon ?_ _ _ _ | refine pair_canon (readNum_canon ?_ _ _ _) (by assumption)) | split

theorem atNode_canon {u : State} (h : Canon u) (pkt kind : Nat) (f : State → Nat → Pkt → Nat → State)
    (hf : ∀ v a p b, Canon v → Canon (f v a p b)) : Canon (atNode u pkt kind f) := by
  unfold atNode
  repeat' split
  all_goals first
    | exact h
    | exact workDone_canon h _ _
    | exact workDone_canon (pair_canon (nodeBytes_canon h _) (by assumption)) _ _
    | exact hf _ _ _ _ (pair_canon (nodeBytes_canon h _) (by assumption))
    | exact pair_canon (nodeBytes_canon h _) (by assumption)

theorem execGraph_canon {u : State} (h : Canon u) (pkt : Nat) : CanonOut (execGraph pkt u) := by
  unfold execGraph
  (try dsimp only)
  repeat' split
  all_goals repeat' first | (with_reducible first | exact h | assumption | refine next_canon ?_ | refine setPkt_canon ?_ _ _ | refine settle_canon ?_) | split

theorem execGraphKernel_canon {u : State} (h : Canon u) (pkt : Nat) : CanonOut (execGraphKernel pkt u) := by
  unfold execGraphKernel
  (try dsimp only)
  repeat' split
  all_goals repeat' first | (with_reducible first | exact h | assumption | refine next_canon ?_ | refine kernelNode_canon ?_ _ _ _ | refine atNode_canon ?_ _ _ _ ?_ | intro _ _ _ _ _ | intro _ _ _ _ | intro _ _) | split

theorem execGraphLoop_canon {u : State} (h : Canon u) (pkt : Nat) : CanonOut (execGraphLoop pkt u) := by
  unfold execGraphLoop
  (try dsimp only)
  repeat' split
  all_goals repeat' first | (with_reducible first | exact h | assumption | refine next_canon ?_ | refine loopNode_canon ?_ _ _ _ | refine atNode_canon ?_ _ _ _ ?_ | intro _ _ _ _ _ | intro _ _ _ _ | intro _ _) | split

theorem execGraphCond_canon {u : State} (h : Canon u) (pkt : Nat) : CanonOut (execGraphCond pkt u) := by
  unfold execGraphCond
  (try dsimp only)
  repeat' split
  all_goals repeat' first | (with_reducible first | exact h | assumption | refine next_canon ?_ | refine condNode_canon ?_ _ _ _ | refine atNode_canon ?_ _ _ _ ?_ | intro _ _ _ _ _ | intro _ _ _ _ | intro _ _) | split

theorem execGraphSignal_canon {u : State} (h : Canon u) (pkt : Nat) : CanonOut (execGraphSignal pkt u) := by
  unfold execGraphSignal
  (try dsimp only)
  repeat' split
  all_goals repeat' first | (with_reducible first | exact h | assumption | refine next_canon ?_ | refine signalNode_canon ?_ _ _ _ | refine atNode_canon ?_ _ _ _ ?_ | intro _ _ _ _ _ | intro _ _ _ _ | intro _ _) | split

theorem execGraphEnd_canon {u : State} (h : Canon u) (pkt : Nat) : CanonOut (execGraphEnd pkt u) := by
  unfold execGraphEnd
  (try dsimp only)
  repeat' split
  all_goals repeat' first | (with_reducible first | exact h | assumption | refine next_canon ?_ | refine endNode_canon ?_ _ _ _ | refine atNode_canon ?_ _ _ _ ?_ | intro _ _ _ _ _ | intro _ _ _ _ | intro _ _) | split

theorem graphStep_canon {u : State} (h : Canon u) (pkt : Nat) : Canon (graphStep u pkt) := by
  unfold graphStep
  (try dsimp only)
  repeat' split
  all_goals repeat' first | (with_reducible first | exact h | assumption | refine kernelNode_canon ?_ _ _ _ | refine loopNode_canon ?_ _ _ _ | refine condNode_canon ?_ _ _ _ | refine signalNode_canon ?_ _ _ _ | refine endNode_canon ?_ _ _ _ | refine atNode_canon ?_ _ _ _ ?_ | intro _ _ _ _ _ | intro _ _ _ _ | intro _ _) | split

theorem modMbox_canon {u : State} (h : Canon u) (f : Mailbox → Mailbox) : Canon (modMbox u f) := by
  unfold modMbox
  (try dsimp only)
  repeat' split
  all_goals repeat' first | (with_reducible first | exact h | assumption | refine modPav_canon ?_ _) | split

theorem finishCommand_canon {u : State} (h : Canon u) (out : Option Nat) (result : Nat) : Canon (finishCommand u out result) := by
  unfold finishCommand
  (try dsimp only)
  repeat' split
  all_goals repeat' first | (with_reducible first | exact h | assumption | refine modMbox_canon ?_ _ | refine getD_canon ?_ ?_) | split

theorem refuse_canon {u : State} (h : Canon u) (result : Nat) : Canon (refuse u result) := by
  unfold refuse
  (try dsimp only)
  repeat' split
  all_goals repeat' first | (with_reducible first | exact h | assumption | refine finishCommand_canon ?_ _ _) | split

theorem succeed_canon {u : State} (h : Canon u) (out : Nat) : Canon (succeed u out) := by
  unfold succeed
  (try dsimp only)
  repeat' split
  all_goals repeat' first | (with_reducible first | exact h | assumption | refine finishCommand_canon ?_ _ _) | split

theorem ringWrite_canon {u : State} (h : Canon u) (tag : Dword) : Canon (ringWrite u tag) := by
  unfold ringWrite
  (try dsimp only)
  repeat' split
  all_goals repeat' first | (with_reducible first | exact h | assumption | refine modMbox_canon ?_ _) | split

theorem execRingOutOfSequence_canon {u : State} (h : Canon u) (tag : BitVec 64) : CanonOut (execRingOutOfSequence tag u) := by
  unfold execRingOutOfSequence
  (try dsimp only)
  repeat' split
  all_goals repeat' first | (with_reducible first | exact h | assumption | refine next_canon ?_ | refine ringWrite_canon ?_ _) | split

theorem command_canon {u : State} (h : Canon u) (code : Nat) (f : State → State) (hf : ∀ v, Canon v → Canon (f v)) : CanonOut (command u code f) := by
  unfold command
  split
  · exact next_canon (hf _ h)
  · exact next_canon h

theorem setAsid_canon {u : State} (h : Canon u) (a : Nat) (e : AsidEntry) : Canon (setAsid u a e) := by
  unfold setAsid
  (try dsimp only)
  repeat' split
  all_goals repeat' first | (with_reducible first | exact h | assumption | refine modPav_canon ?_ _) | split

theorem emptyRoot_canon {u : State} (h : Canon u) (a : Nat) : CanonOptP (emptyRoot u a) := by
  unfold emptyRoot
  (try dsimp only)
  repeat' split
  all_goals repeat' first | (with_reducible first | exact h | assumption | exact none_canon | refine some_canon ?_ | exact noneP_canon | refine someP_canon ?_ | refine takePool_canon ?_ _ _ | refine optP_canon (takePool_canon ?_ _ _) (by assumption) | refine zeroBlock_canon ?_ _ _) | split

theorem asidNew_canon {u : State} (h : Canon u)  : Canon (asidNew u) := by
  unfold asidNew
  (try dsimp only)
  repeat' split
  all_goals repeat' first | (with_reducible first | exact h | assumption | refine refuse_canon ?_ _ | refine succeed_canon ?_ _ | refine setAsid_canon ?_ _ _ | refine emptyRoot_canon ?_ _ | refine optP_canon (emptyRoot_canon ?_ _) (by assumption)) | split

theorem execAsidnew_canon {u : State} (h : Canon u)  : CanonOut (execAsidnew u) := by
  unfold execAsidnew
  (try dsimp only)
  repeat' split
  all_goals repeat' first | (with_reducible first | exact h | assumption | refine next_canon ?_ | refine command_canon ?_ _ _ ?_ | intro _ _ _ _ _ | intro _ _ _ _ | intro _ _ | refine asidNew_canon ?_) | split

theorem startDying_canon {u : State} (h : Canon u) (a : Nat) : Canon (startDying u a) := by
  unfold startDying
  (try dsimp only)
  repeat' split
  all_goals repeat' first | (with_reducible first | exact h | assumption | refine killTeam_canon ?_ _ _ _ | refine setAsid_canon ?_ _ _ | refine modPav_canon ?_ _ | refine foldl_canon ?_ _ _ ?_ | refine foldlP_canon ?_ _ _ ?_ | intro _ _ _ | refine mapP_canon ?_ ?_ | intro _ _) | split

theorem asidDel_canon {u : State} (h : Canon u)  : Canon (asidDel u) := by
  unfold asidDel
  (try dsimp only)
  repeat' split
  all_goals repeat' first | (with_reducible first | exact h | assumption | refine refuse_canon ?_ _ | refine startDying_canon ?_ _) | split

theorem execAsiddel_canon {u : State} (h : Canon u)  : CanonOut (execAsiddel u) := by
  unfold execAsiddel
  (try dsimp only)
  repeat' split
  all_goals repeat' first | (with_reducible first | exact h | assumption | refine next_canon ?_ | refine command_canon ?_ _ _ ?_ | intro _ _ _ _ _ | intro _ _ _ _ | intro _ _ | refine asidDel_canon ?_) | split

theorem freeAsid_canon {u : State} (h : Canon u) (a : Nat) : Canon (freeAsid u a) := by
  unfold freeAsid
  (try dsimp only)
  repeat' split
  all_goals repeat' first | (with_reducible first | exact h | assumption | refine forgetPage_canon ?_ _ | refine freePins_canon ?_ _ | refine succeed_canon ?_ _ | refine setAsid_canon ?_ _ _ | refine modPav_canon ?_ _ | refine modSys_canon ?_ _ ?_ | refine foldl_canon ?_ _ _ ?_ | refine foldlP_canon ?_ _ _ ?_ | intro _ _ _ | refine mapP_canon ?_ ?_ | intro _ _ | exact fun w => w | exact fun w => Memory.wf_set _ _ _ w | exact fun w => Memory.wf_memWrite _ _ _ w | exact fun w => Memory.wf_memMask _ _ _ _ _ w | exact fun w => Memory.wf_memMerge _ _ _ _ _ w | exact fun w => Memory.wf_memKeep _ _ w) | split

theorem execAsidDrained_canon {u : State} (h : Canon u) (asid : Nat) : CanonOut (execAsidDrained asid u) := by
  unfold execAsidDrained
  (try dsimp only)
  repeat' split
  all_goals repeat' first | (with_reducible first | exact h | assumption | refine next_canon ?_ | refine freeAsid_canon ?_ _) | split

theorem mapCommand_canon {u : State} (h : Canon u)  : Canon (mapCommand u) := by
  unfold mapCommand
  (try dsimp only)
  repeat' split
  all_goals repeat' first | (with_reducible first | exact h | assumption | refine freePins_canon ?_ _ | refine unmapPage_canon ?_ _ | refine mapPageList_canon ?_ _ | refine opt_canon (mapPageList_canon ?_ _) (by assumption) | refine refuse_canon ?_ _ | refine succeed_canon ?_ _ | refine foldl_canon ?_ _ _ ?_ | refine foldlP_canon ?_ _ _ ?_ | intro _ _ _) | split

theorem execMapPages_canon {u : State} (h : Canon u)  : CanonOut (execMapPages u) := by
  unfold execMapPages
  (try dsimp only)
  repeat' split
  all_goals repeat' first | (with_reducible first | exact h | assumption | refine next_canon ?_ | refine command_canon ?_ _ _ ?_ | intro _ _ _ _ _ | intro _ _ _ _ | intro _ _ | refine mapCommand_canon ?_) | split

theorem unmapCommand_canon {u : State} (h : Canon u)  : Canon (unmapCommand u) := by
  unfold unmapCommand
  (try dsimp only)
  repeat' split
  all_goals repeat' first | (with_reducible first | exact h | assumption | refine freePins_canon ?_ _ | refine unmapPage_canon ?_ _ | refine refuse_canon ?_ _ | refine succeed_canon ?_ _ | refine foldl_canon ?_ _ _ ?_ | refine foldlP_canon ?_ _ _ ?_ | intro _ _ _) | split

theorem execUnmapPages_canon {u : State} (h : Canon u)  : CanonOut (execUnmapPages u) := by
  unfold execUnmapPages
  (try dsimp only)
  repeat' split
  all_goals repeat' first | (with_reducible first | exact h | assumption | refine next_canon ?_ | refine command_canon ?_ _ _ ?_ | intro _ _ _ _ _ | intro _ _ _ _ | intro _ _ | refine unmapCommand_canon ?_) | split

theorem qNew_canon {u : State} (h : Canon u)  : Canon (qNew u) := by
  unfold qNew
  (try dsimp only)
  repeat' split
  all_goals repeat' first | (with_reducible first | exact h | assumption | refine setQueue_canon ?_ _ _ | refine refuse_canon ?_ _ | refine succeed_canon ?_ _) | split

theorem execQnew_canon {u : State} (h : Canon u)  : CanonOut (execQnew u) := by
  unfold execQnew
  (try dsimp only)
  repeat' split
  all_goals repeat' first | (with_reducible first | exact h | assumption | refine next_canon ?_ | refine command_canon ?_ _ _ ?_ | intro _ _ _ _ _ | intro _ _ _ _ | intro _ _ | refine qNew_canon ?_) | split

theorem qCtl_canon {u : State} (h : Canon u)  : Canon (qCtl u) := by
  unfold qCtl
  (try dsimp only)
  repeat' split
  all_goals repeat' first | (with_reducible first | exact h | assumption | refine setQueue_canon ?_ _ _ | refine postEvent_canon ?_ _ | refine refuse_canon ?_ _ | refine succeed_canon ?_ _) | split

theorem execQctl_canon {u : State} (h : Canon u)  : CanonOut (execQctl u) := by
  unfold execQctl
  (try dsimp only)
  repeat' split
  all_goals repeat' first | (with_reducible first | exact h | assumption | refine next_canon ?_ | refine command_canon ?_ _ _ ?_ | intro _ _ _ _ _ | intro _ _ _ _ | intro _ _ | refine qCtl_canon ?_) | split

theorem doorbellCommand_canon {u : State} (h : Canon u)  : Canon (doorbellCommand u) := by
  unfold doorbellCommand
  (try dsimp only)
  repeat' split
  all_goals repeat' first | (with_reducible first | exact h | assumption | refine freePins_canon ?_ _ | refine unmapPage_canon ?_ _ | refine mapChecked_canon ?_ _ | refine opt_canon (mapChecked_canon ?_ _) (by assumption) | refine refuse_canon ?_ _ | refine succeed_canon ?_ _ | refine foldl_canon ?_ _ _ ?_ | refine foldlP_canon ?_ _ _ ?_ | intro _ _ _) | split

theorem execDoorbell_canon {u : State} (h : Canon u)  : CanonOut (execDoorbell u) := by
  unfold execDoorbell
  (try dsimp only)
  repeat' split
  all_goals repeat' first | (with_reducible first | exact h | assumption | refine next_canon ?_ | refine command_canon ?_ _ _ ?_ | intro _ _ _ _ _ | intro _ _ _ _ | intro _ _ | refine doorbellCommand_canon ?_) | split

theorem loadRoot_canon {u : State} (h : Canon u) (a : Nat) : CanonOpt (loadRoot u a) := by
  unfold loadRoot
  (try dsimp only)
  repeat' split
  all_goals repeat' first | (with_reducible first | exact h | assumption | exact none_canon | refine some_canon ?_ | exact noneP_canon | refine someP_canon ?_ | refine agentRead_canon ?_ _ _ | refine pair_canon (agentRead_canon ?_ _ _) (by assumption) | refine linkRegion_canon ?_ _ _ | refine opt_canon (linkRegion_canon ?_ _ _) (by assumption)) | split

theorem partRoot_canon {u : State} (h : Canon u) (p a : Nat) : CanonOpt (partRoot u p a) := by
  unfold partRoot
  (try dsimp only)
  repeat' split
  all_goals repeat' first | (with_reducible first | exact h | assumption | exact none_canon | refine some_canon ?_ | exact noneP_canon | refine someP_canon ?_ | refine loadRoot_canon ?_ _ | refine opt_canon (loadRoot_canon ?_ _) (by assumption)) | split

theorem setQuotas_canon {u : State} (h : Canon u) (both : Bool) (c : Nat) : Canon (setQuotas u both c) := by
  unfold setQuotas
  (try dsimp only)
  repeat' split
  all_goals repeat' first | (with_reducible first | exact h | assumption | refine modCore_canon ?_ _ _ | refine modSched_canon ?_ _) | split

theorem clearCore_canon {u : State} (h : Canon u) (p c : Nat) : Canon (clearCore u p c) := by
  unfold clearCore
  (try dsimp only)
  repeat' split
  all_goals repeat' first | (with_reducible first | exact h | assumption | refine modCore_canon ?_ _ _ | refine modSched_canon ?_ _) | split

theorem handOver_canon {u : State} (h : Canon u) (p c : Nat) : Canon (handOver u p c) := by
  unfold handOver
  (try dsimp only)
  repeat' split
  all_goals repeat' first | (with_reducible first | exact h | assumption | refine writeOut_canon ?_ _ | refine thawIn_canon ?_ _ | refine swapOne_canon ?_ _ _ | refine clearCore_canon ?_ _ _ | refine modSched_canon ?_ _) | split

theorem giveCore_canon {u : State} (h : Canon u) (p c : Nat) : Canon (giveCore u p c) := by
  unfold giveCore
  (try dsimp only)
  repeat' split
  all_goals repeat' first | (with_reducible first | exact h | assumption | refine setQuotas_canon ?_ _ _ | refine handOver_canon ?_ _ _) | split

theorem takeCore_canon {u : State} (h : Canon u) (p c : Nat) : Canon (takeCore u p c) := by
  unfold takeCore
  (try dsimp only)
  repeat' split
  all_goals repeat' first | (with_reducible first | exact h | assumption | refine setQuotas_canon ?_ _ _ | refine handOver_canon ?_ _ _ | refine modSched_canon ?_ _) | split

theorem contextArea_canon {u : State} (h : Canon u)  : CanonOptP (contextArea u) := by
  unfold contextArea
  (try dsimp only)
  repeat' split
  all_goals repeat' first | (with_reducible first | exact h | assumption | exact none_canon | refine some_canon ?_ | exact noneP_canon | refine someP_canon ?_ | refine takePool_canon ?_ _ _ | refine optP_canon (takePool_canon ?_ _ _) (by assumption)) | split

theorem areaFor_canon {r : Option (State × Tab Nat)} (h : CanonOptP r) (c : Nat) : CanonOptP (areaFor r c) := by
  cases r with
  | none => exact h
  | some x =>
    have hx : Canon x.1 := h _ rfl
    unfold areaFor
    rw [Option.bind_some]
    split
    · exact h
    · intro v e
      obtain ⟨y, hy, rfl⟩ := Option.map_eq_some_iff.1 e
      exact contextArea_canon hx _ hy
theorem reserveAreas_canon {u : State} (h : Canon u) (areas : Tab Nat) (cs : List Nat) : CanonOptP (reserveAreas u areas cs) := by
  have aux : ∀ (l : List Nat) (r : Option (State × Tab Nat)), CanonOptP r → CanonOptP (l.foldl areaFor r) := by
    intro l
    induction l with
    | nil => exact fun _ hr => hr
    | cons c t ih => exact fun r hr => ih _ (areaFor_canon hr c)
  exact aux cs _ (someP_canon h)

theorem clearCounters_canon {u : State} (h : Canon u) (old new : Nat) : Canon (clearCounters u old new) := by
  unfold clearCounters
  (try dsimp only)
  repeat' split
  all_goals repeat' first | (with_reducible first | exact h | assumption | refine modOra_canon ?_ _) | split

theorem assignPart_canon {u : State} (h : Canon u) (p : Nat) (x : Partition) (old : Partition) : Canon (assignPart u p x old) := by
  unfold assignPart
  (try dsimp only)
  repeat' split
  all_goals repeat' first | (with_reducible first | exact h | assumption | refine giveCore_canon ?_ _ _ | refine takeCore_canon ?_ _ _ | refine clearCounters_canon ?_ _ _ | refine modSched_canon ?_ _ | refine foldl_canon ?_ _ _ ?_ | refine foldlP_canon ?_ _ _ ?_ | intro _ _ _) | split

theorem setScratch_canon {u : State} (h : Canon u) (g n : Nat) : Canon (setScratch u g n) := by
  unfold setScratch
  (try dsimp only)
  repeat' split
  all_goals repeat' first | (with_reducible first | exact h | assumption | refine evictWay_canon ?_ _ _ | refine modSys_canon ?_ _ ?_ | refine foldl_canon ?_ _ _ ?_ | refine foldlP_canon ?_ _ _ ?_ | intro _ _ _ | exact fun w => w | exact fun w => Memory.wf_set _ _ _ w | exact fun w => Memory.wf_memWrite _ _ _ w | exact fun w => Memory.wf_memMask _ _ _ _ _ w | exact fun w => Memory.wf_memMerge _ _ _ _ _ w | exact fun w => Memory.wf_memKeep _ _ w) | split

theorem partCommand_canon {u : State} (h : Canon u)  : Canon (partCommand u) := by
  unfold partCommand
  (try dsimp only)
  repeat' split
  all_goals repeat' first | (with_reducible first | exact h | assumption | refine trimL2_canon ?_ _ | refine refuse_canon ?_ _ | refine succeed_canon ?_ _ | refine partRoot_canon ?_ _ _ | refine opt_canon (partRoot_canon ?_ _ _) (by assumption) | refine reserveAreas_canon ?_ _ _ | refine optP_canon (reserveAreas_canon ?_ _ _) (by assumption) | refine assignPart_canon ?_ _ _ _ | refine setScratch_canon ?_ _ _ | refine modSys_canon ?_ _ ?_ | refine foldl_canon ?_ _ _ ?_ | refine foldlP_canon ?_ _ _ ?_ | intro _ _ _ | refine getD_canon ?_ ?_ | exact fun w => w | exact fun w => Memory.wf_set _ _ _ w | exact fun w => Memory.wf_memWrite _ _ _ w | exact fun w => Memory.wf_memMask _ _ _ _ _ w | exact fun w => Memory.wf_memMerge _ _ _ _ _ w | exact fun w => Memory.wf_memKeep _ _ w) | split

theorem execPart_canon {u : State} (h : Canon u)  : CanonOut (execPart u) := by
  unfold execPart
  (try dsimp only)
  repeat' split
  all_goals repeat' first | (with_reducible first | exact h | assumption | refine next_canon ?_ | refine command_canon ?_ _ _ ?_ | intro _ _ _ _ _ | intro _ _ _ _ | intro _ _ | refine partCommand_canon ?_) | split

theorem attestCommand_canon {u : State} (h : Canon u)  : Canon (attestCommand u) := by
  unfold attestCommand
  (try dsimp only)
  repeat' split
  all_goals repeat' first | (with_reducible first | exact h | assumption | refine deliverPosted_canon ?_ | refine postBytes_canon ?_ _ _ | refine refuse_canon ?_ _ | refine succeed_canon ?_ _) | split

theorem execAttest_canon {u : State} (h : Canon u)  : CanonOut (execAttest u) := by
  unfold execAttest
  (try dsimp only)
  repeat' split
  all_goals repeat' first | (with_reducible first | exact h | assumption | refine next_canon ?_ | refine command_canon ?_ _ _ ?_ | intro _ _ _ _ _ | intro _ _ _ _ | intro _ _ | refine attestCommand_canon ?_) | split

theorem addLife_canon {u : State} (h : Canon u) (off n : Nat) : Canon (addLife u off n) := by
  unfold addLife
  (try dsimp only)
  repeat' split
  all_goals repeat' first | (with_reducible first | exact h | assumption | refine modPower_canon ?_ _) | split

theorem collectOvr_canon {u : State} (h : Canon u)  : Canon (collectOvr u) := by
  unfold collectOvr
  (try dsimp only)
  repeat' split
  all_goals repeat' first | (with_reducible first | exact h | assumption | refine modPower_canon ?_ _) | split

theorem accrue_canon {u : State} (h : Canon u) (i : Nat) : Canon (accrue u i) := by
  unfold accrue
  (try dsimp only)
  repeat' split
  all_goals repeat' first | (with_reducible first | exact h | assumption | refine addLife_canon ?_ _ _ | refine modPower_canon ?_ _) | split

theorem setIsland_canon {u : State} (h : Canon u) (i : Nat) (x : IslState) : Canon (setIsland u i x) := by
  unfold setIsland
  (try dsimp only)
  repeat' split
  all_goals repeat' first | (with_reducible first | exact h | assumption | refine accrue_canon ?_ _ | refine modPower_canon ?_ _) | split

theorem loseIsland_canon {u : State} (h : Canon u) (i : Nat) : Canon (loseIsland u i) := by
  unfold loseIsland
  (try dsimp only)
  repeat' split
  all_goals repeat' first | (with_reducible first | exact h | assumption | refine setWays_canon ?_ _ _ | refine killTeam_canon ?_ _ _ _ | refine collectOvr_canon ?_ | refine modCore_canon ?_ _ _ | refine modSched_canon ?_ _ | refine modPav_canon ?_ _ | refine modPower_canon ?_ _ | refine modSys_canon ?_ _ ?_ | refine foldl_canon ?_ _ _ ?_ | refine foldlP_canon ?_ _ _ ?_ | intro _ _ _ | exact fun w => w | exact fun w => Memory.wf_set _ _ _ w | exact fun w => Memory.wf_memWrite _ _ _ w | exact fun w => Memory.wf_memMask _ _ _ _ _ w | exact fun w => Memory.wf_memMerge _ _ _ _ _ w | exact fun w => Memory.wf_memKeep _ _ w) | split

theorem enterState_canon {u : State} (h : Canon u) (i : Nat) (x : IslState) : Canon (enterState u i x) := by
  unfold enterState
  (try dsimp only)
  repeat' split
  all_goals repeat' first | (with_reducible first | exact h | assumption | refine callSched_canon ?_ | refine setIsland_canon ?_ _ _ | refine loseIsland_canon ?_ _ | refine modPower_canon ?_ _) | split

theorem powerReport_canon {u : State} (h : Canon u) (seq : Byte) (result : Nat) : Canon (powerReport u seq result) := by
  unfold powerReport
  (try dsimp only)
  repeat' split
  all_goals repeat' first | (with_reducible first | exact h | assumption | refine modPower_canon ?_ _) | split

theorem powerCommand_canon {u : State} (h : Canon u) (i : Nat) (x : IslState) (seq : Byte) : Canon (powerCommand u i x seq) := by
  unfold powerCommand
  (try dsimp only)
  repeat' split
  all_goals repeat' first | (with_reducible first | exact h | assumption | refine setIsland_canon ?_ _ _ | refine loseIsland_canon ?_ _ | refine enterState_canon ?_ _ _ | refine powerReport_canon ?_ _ _ | refine modPower_canon ?_ _) | split

theorem execIslandToA0_canon {u : State} (h : Canon u) (isl : Nat) (seq : BitVec 8) : CanonOut (execIslandToA0 isl seq u) := by
  unfold execIslandToA0
  (try dsimp only)
  repeat' split
  all_goals repeat' first | (with_reducible first | exact h | assumption | refine next_canon ?_ | refine powerCommand_canon ?_ _ _ _) | split

theorem execIslandToA1_canon {u : State} (h : Canon u) (isl : Nat) (seq : BitVec 8) : CanonOut (execIslandToA1 isl seq u) := by
  unfold execIslandToA1
  (try dsimp only)
  repeat' split
  all_goals repeat' first | (with_reducible first | exact h | assumption | refine next_canon ?_ | refine powerCommand_canon ?_ _ _ _) | split

theorem execIslandToA2_canon {u : State} (h : Canon u) (isl : Nat) (seq : BitVec 8) : CanonOut (execIslandToA2 isl seq u) := by
  unfold execIslandToA2
  (try dsimp only)
  repeat' split
  all_goals repeat' first | (with_reducible first | exact h | assumption | refine next_canon ?_ | refine powerCommand_canon ?_ _ _ _) | split

theorem execIslandToRet_canon {u : State} (h : Canon u) (isl : Nat) (seq : BitVec 8) : CanonOut (execIslandToRet isl seq u) := by
  unfold execIslandToRet
  (try dsimp only)
  repeat' split
  all_goals repeat' first | (with_reducible first | exact h | assumption | refine next_canon ?_ | refine powerCommand_canon ?_ _ _ _) | split

theorem execIslandToOff_canon {u : State} (h : Canon u) (isl : Nat) (seq : BitVec 8) : CanonOut (execIslandToOff isl seq u) := by
  unfold execIslandToOff
  (try dsimp only)
  repeat' split
  all_goals repeat' first | (with_reducible first | exact h | assumption | refine next_canon ?_ | refine powerCommand_canon ?_ _ _ _) | split

theorem execPcmdReservedState_canon {u : State} (h : Canon u) (isl : Nat) (seq : BitVec 8) : CanonOut (execPcmdReservedState isl seq u) := by
  unfold execPcmdReservedState
  (try dsimp only)
  repeat' split
  all_goals repeat' first | (with_reducible first | exact h | assumption | refine next_canon ?_ | refine powerReport_canon ?_ _ _) | split

theorem execPowerCommandDone_canon {u : State} (h : Canon u)  : CanonOut (execPowerCommandDone u) := by
  unfold execPowerCommandDone
  (try dsimp only)
  repeat' split
  all_goals repeat' first | (with_reducible first | exact h | assumption | refine next_canon ?_ | refine enterState_canon ?_ _ _ | refine powerReport_canon ?_ _ _) | split

theorem execTripClear_canon {u : State} (h : Canon u) (isl : Nat) : CanonOut (execTripClear isl u) := by
  unfold execTripClear
  (try dsimp only)
  repeat' split
  all_goals repeat' first | (with_reducible first | exact h | assumption | refine next_canon ?_ | refine modPower_canon ?_ _) | split

theorem execThermalTrip_canon {u : State} (h : Canon u) (isl : Nat) : CanonOut (execThermalTrip isl u) := by
  unfold execThermalTrip
  (try dsimp only)
  repeat' split
  all_goals repeat' first | (with_reducible first | exact h | assumption | refine next_canon ?_ | refine setIsland_canon ?_ _ _ | refine modPower_canon ?_ _) | split

theorem execThermalShutdown_canon {u : State} (h : Canon u)  : CanonOut (execThermalShutdown u) := by
  unfold execThermalShutdown
  (try dsimp only)
  repeat' split
  all_goals repeat' first | (with_reducible first | exact h | assumption | refine next_canon ?_ | refine setIsland_canon ?_ _ _ | refine loseIsland_canon ?_ _ | refine modPower_canon ?_ _ | refine foldl_canon ?_ _ _ ?_ | refine foldlP_canon ?_ _ _ ?_ | intro _ _ _) | split

theorem setLoan_canon {u : State} (h : Canon u) (a b n : Nat) : Canon (setLoan u a b n) := by
  unfold setLoan
  (try dsimp only)
  repeat' split
  all_goals repeat' first | (with_reducible first | exact h | assumption | refine modPower_canon ?_ _) | split

theorem execBudgetLend_canon {u : State} (h : Canon u) (lender borrower units : Nat) : CanonOut (execBudgetLend lender borrower units u) := by
  unfold execBudgetLend
  (try dsimp only)
  repeat' split
  all_goals repeat' first | (with_reducible first | exact h | assumption | refine next_canon ?_ | refine setLoan_canon ?_ _ _ _) | split

theorem callBack_canon {u : State} (h : Canon u) (d : Nat) : Canon (callBack u d) := by
  unfold callBack
  (try dsimp only)
  repeat' split
  all_goals repeat' first | (with_reducible first | exact h | assumption | refine setLoan_canon ?_ _ _ _) | split

theorem cover_canon {u : State} (h : Canon u) (z0 : Nat) : Canon (cover z0 u) := by
  induction z0 generalizing u with
  | zero =>
    unfold cover
    (try dsimp only)
    repeat' split
    all_goals repeat' first | (with_reducible first | exact h | assumption | refine callBack_canon ?_ _) | split
  | succ n_ ih =>
    unfold cover
    (try dsimp only)
    repeat' split
    all_goals repeat' first | (with_reducible first | exact h | assumption | refine callBack_canon ?_ _ | refine ih ?_) | split

theorem execBudgetRepay_canon {u : State} (h : Canon u) (borrower lender units : Nat) : CanonOut (execBudgetRepay borrower lender units u) := by
  unfold execBudgetRepay
  (try dsimp only)
  repeat' split
  all_goals repeat' first | (with_reducible first | exact h | assumption | refine next_canon ?_ | refine setLoan_canon ?_ _ _ _ | refine cover_canon ?_ _) | split

theorem setCap_canon {u : State} (h : Canon u) (v : Nat) : Canon (setCap u v) := by
  unfold setCap
  (try dsimp only)
  repeat' split
  all_goals repeat' first | (with_reducible first | exact h | assumption | refine modPower_canon ?_ _) | split

theorem execPcapWrite_canon {u : State} (h : Canon u) (value : BitVec 64) : CanonOut (execPcapWrite value u) := by
  unfold execPcapWrite
  (try dsimp only)
  repeat' split
  all_goals repeat' first | (with_reducible first | exact h | assumption | refine next_canon ?_ | refine setCap_canon ?_ _) | split

theorem setDraw_canon {u : State} (h : Canon u) (d units : Nat) : Canon (setDraw u d units) := by
  unfold setDraw
  (try dsimp only)
  repeat' split
  all_goals repeat' first | (with_reducible first | exact h | assumption | refine modPower_canon ?_ _) | split

theorem bootFails_canon {u : State} (h : Canon u) (code : Word) : Canon (bootFails u code) := by
  unfold bootFails
  (try dsimp only)
  repeat' split
  all_goals repeat' first | (with_reducible first | exact h | assumption | refine modPower_canon ?_ _) | split

theorem folopReadies_canon {u : State} (h : Canon u)  : Canon (folopReadies u) := by
  unfold folopReadies
  (try dsimp only)
  repeat' split
  all_goals repeat' first | (with_reducible first | exact h | assumption | refine setAsid_canon ?_ _ _ | refine emptyRoot_canon ?_ _ | refine optP_canon (emptyRoot_canon ?_ _) (by assumption) | refine modPower_canon ?_ _) | split

theorem bootStep_canon {u : State} (h : Canon u)  : Canon (bootStep u) := by
  unfold bootStep
  (try dsimp only)
  repeat' split
  all_goals repeat' first | (with_reducible first | exact h | assumption | refine bootFails_canon ?_ _ | refine folopReadies_canon ?_ | refine modPower_canon ?_ _) | split

theorem rebooted_canon {u : State} (h : Canon u) : Canon (rebooted u) := Memory.wf_memKeep _ _ h

theorem execPowerOnReset_canon {u : State} (h : Canon u)  : CanonOut (execPowerOnReset u) := by
  unfold execPowerOnReset
  (try dsimp only)
  repeat' split
  all_goals repeat' first | (with_reducible first | exact h | assumption | refine next_canon ?_ | refine rebooted_canon ?_) | split

theorem execEccCorrected_canon {u : State} (h : Canon u) (block : Nat) : CanonOut (execEccCorrected block u) := by
  unfold execEccCorrected
  (try dsimp only)
  repeat' split
  all_goals repeat' first | (with_reducible first | exact h | assumption | refine next_canon ?_ | refine countLife_canon ?_ _) | split

theorem lastingError_canon {u : State} (h : Canon u) (c unit row col : Nat) (shadow : Bool) : Canon (lastingError u c unit row col shadow) := by
  unfold lastingError
  (try dsimp only)
  repeat' split
  all_goals repeat' first | (with_reducible first | exact h | assumption | refine killTeam_canon ?_ _ _ _ | refine detect_canon ?_ _ _ _ _ _) | split

theorem lostContext_canon {u : State} (h : Canon u) (c : Nat) : Canon (lostContext u c) := by
  unfold lostContext
  (try dsimp only)
  repeat' split
  all_goals repeat' first | (with_reducible first | exact h | assumption | refine killTeam_canon ?_ _ _ _) | split

theorem execEccUncorrectable_canon {u : State} (h : Canon u) (block core unit row col : Nat) (retryOk : Bool) : CanonOut (execEccUncorrectable block core unit row col retryOk u) := by
  unfold execEccUncorrectable
  (try dsimp only)
  repeat' split
  all_goals repeat' first | (with_reducible first | exact h | assumption | refine next_canon ?_ | refine countLife_canon ?_ _ | refine lastingError_canon ?_ _ _ _ _ _ | refine lostContext_canon ?_ _ | refine modPav_canon ?_ _) | split

theorem flushCounters_canon {u : State} (h : Canon u)  : Canon (flushCounters u) := by
  unfold flushCounters
  (try dsimp only)
  repeat' split
  all_goals repeat' first | (with_reducible first | exact h | assumption | refine collectOvr_canon ?_ | refine accrue_canon ?_ _ | refine modPower_canon ?_ _ | refine foldl_canon ?_ _ _ ?_ | refine foldlP_canon ?_ _ _ ?_ | intro _ _ _) | split

theorem execCounterFlush_canon {u : State} (h : Canon u)  : CanonOut (execCounterFlush u) := by
  unfold execCounterFlush
  (try dsimp only)
  repeat' split
  all_goals repeat' first | (with_reducible first | exact h | assumption | refine next_canon ?_ | refine flushCounters_canon ?_) | split

theorem execOrderlyPowerOff_canon {u : State} (h : Canon u)  : CanonOut (execOrderlyPowerOff u) := by
  unfold execOrderlyPowerOff
  (try dsimp only)
  repeat' split
  all_goals repeat' first | (with_reducible first | exact h | assumption | refine next_canon ?_ | refine flushCounters_canon ?_ | refine modPower_canon ?_ _) | split

theorem execSuddenLossOfPower_canon {u : State} (h : Canon u)  : CanonOut (execSuddenLossOfPower u) := by
  unfold execSuddenLossOfPower
  (try dsimp only)
  repeat' split
  all_goals repeat' first | (with_reducible first | exact h | assumption | refine next_canon ?_ | refine modPower_canon ?_ _) | split

theorem countTime_canon {u : State} (h : Canon u)  : Canon (countTime u) := by
  unfold countTime
  (try dsimp only)
  repeat' split
  all_goals repeat' first | (with_reducible first | exact h | assumption | refine countLife_canon ?_ _ | refine flushCounters_canon ?_) | split

theorem pcmdWrite_canon {u : State} (h : Canon u) (v : Nat) : Canon (pcmdWrite u v) := by
  unfold pcmdWrite
  (try dsimp only)
  repeat' split
  all_goals repeat' first | (with_reducible first | exact h | assumption | refine powerReport_canon ?_ _ _ | refine powerCommand_canon ?_ _ _ _) | split

theorem barWrite_canon {u : State} (h : Canon u) (off bytes v : Nat) : Canon (barWrite u off bytes v) := by
  unfold barWrite
  (try dsimp only)
  repeat' split
  all_goals repeat' first | (with_reducible first | exact h | assumption | refine modMbox_canon ?_ _ | refine ringWrite_canon ?_ _ | refine setCap_canon ?_ _ | refine pcmdWrite_canon ?_ _ | refine modPower_canon ?_ _) | split

theorem hostReads_canon {u : State} (h : Canon u) (off : Nat) : Canon (hostReads u off) := by
  unfold hostReads
  (try dsimp only)
  repeat' split
  all_goals repeat' first | (with_reducible first | exact h | assumption | refine modPav_canon ?_ _) | split

theorem execRegisterWrite_canon {u : State} (h : Canon u) (offset bytes : Nat) (value : BitVec 64) : CanonOut (execRegisterWrite offset bytes value u) := by
  unfold execRegisterWrite
  (try dsimp only)
  repeat' split
  all_goals repeat' first | (with_reducible first | exact h | assumption | refine next_canon ?_ | refine barWrite_canon ?_ _ _ _) | split

theorem execNops_canon {u : State} (h : Canon u)  : CanonOut (execNops u) := by
  unfold execNops
  (try dsimp only)
  repeat' split
  all_goals repeat' first | (with_reducible first | exact h | assumption | refine next_canon ?_) | split

theorem execScalarResultLand_canon {u : State} (h : Canon u) (core : Nat) : CanonOut (execScalarResultLand core u) := by
  unfold execScalarResultLand
  (try dsimp only)
  repeat' split
  all_goals repeat' first | (with_reducible first | exact h | assumption | refine next_canon ?_ | refine landFirst_canon ?_ _) | split

theorem execLoadReturn_canon {u : State} (h : Canon u) (core idx : Nat) : CanonOut (execLoadReturn core idx u) := by
  unfold execLoadReturn
  (try dsimp only)
  repeat' split
  all_goals repeat' first | (with_reducible first | exact h | assumption | refine next_canon ?_ | refine performAt_canon ?_ _ _) | split

theorem execAmoAtomic_canon {u : State} (h : Canon u) (core idx : Nat) : CanonOut (execAmoAtomic core idx u) := by
  unfold execAmoAtomic
  (try dsimp only)
  repeat' split
  all_goals repeat' first | (with_reducible first | exact h | assumption | refine next_canon ?_ | refine performAt_canon ?_ _ _) | split

theorem execStoreBufferDrain_canon {u : State} (h : Canon u) (core : Nat) : CanonOut (execStoreBufferDrain core u) := by
  unfold execStoreBufferDrain
  (try dsimp only)
  repeat' split
  all_goals repeat' first | (with_reducible first | exact h | assumption | refine next_canon ?_ | refine drainOldest_canon ?_ _) | split

theorem execPageWalk_canon {u : State} (h : Canon u) (die asid : Nat) (va : BitVec 64) : CanonOut (execPageWalk die asid va u) := by
  unfold execPageWalk
  (try dsimp only)
  repeat' split
  all_goals repeat' first | (with_reducible first | exact h | assumption | refine next_canon ?_ | refine dieTranslate_canon ?_ _ _ _ _ | refine pair_canon (dieTranslate_canon ?_ _ _ _ _) (by assumption)) | split

theorem execRemotePostArrive_canon {u : State} (h : Canon u) (src dst : Nat) : CanonOut (execRemotePostArrive src dst u) := by
  unfold execRemotePostArrive
  (try dsimp only)
  repeat' split
  all_goals repeat' first | (with_reducible first | exact h | assumption | refine next_canon ?_ | refine deliverPost_canon ?_ _ | refine modSys_canon ?_ _ ?_ | exact fun w => w | exact fun w => Memory.wf_set _ _ _ w | exact fun w => Memory.wf_memWrite _ _ _ w | exact fun w => Memory.wf_memMask _ _ _ _ _ w | exact fun w => Memory.wf_memMerge _ _ _ _ _ w | exact fun w => Memory.wf_memKeep _ _ w) | split

theorem execHostPostedDeliver_canon {u : State} (h : Canon u)  : CanonOut (execHostPostedDeliver u) := by
  unfold execHostPostedDeliver
  (try dsimp only)
  repeat' split
  all_goals repeat' first | (with_reducible first | exact h | assumption | refine next_canon ?_ | refine modSys_canon ?_ _ ?_ | exact fun w => w | exact fun w => Memory.wf_set _ _ _ w | exact fun w => Memory.wf_memWrite _ _ _ w | exact fun w => Memory.wf_memMask _ _ _ _ _ w | exact fun w => Memory.wf_memMerge _ _ _ _ _ w | exact fun w => Memory.wf_memKeep _ _ w) | split

theorem arrives_canon {u : State} (h : Canon u) (m : DirMsg) : CanonOut (arrives u m) := by
  unfold arrives
  (try dsimp only)
  repeat' split
  all_goals repeat' first | (with_reducible first | exact h | assumption | refine next_canon ?_ | refine deliverMsg_canon ?_ _ | refine takeMsg_canon ?_ _) | split

theorem execRds_canon {u : State} (h : Canon u) (line die : Nat) : CanonOut (execRds line die u) := by
  unfold execRds
  (try dsimp only)
  repeat' split
  all_goals repeat' first | (with_reducible first | exact h | assumption | refine next_canon ?_ | refine arrives_canon ?_ _ | refine out_canon (arrives_canon ?_ _) (by assumption)) | split

theorem execRdx_canon {u : State} (h : Canon u) (line die : Nat) : CanonOut (execRdx line die u) := by
  unfold execRdx
  (try dsimp only)
  repeat' split
  all_goals repeat' first | (with_reducible first | exact h | assumption | refine next_canon ?_ | refine arrives_canon ?_ _ | refine out_canon (arrives_canon ?_ _) (by assumption)) | split

theorem execUpg_canon {u : State} (h : Canon u) (line die : Nat) : CanonOut (execUpg line die u) := by
  unfold execUpg
  (try dsimp only)
  repeat' split
  all_goals repeat' first | (with_reducible first | exact h | assumption | refine next_canon ?_ | refine arrives_canon ?_ _ | refine out_canon (arrives_canon ?_ _) (by assumption)) | split

theorem execWbx_canon {u : State} (h : Canon u) (line die : Nat) (data : BitVec 1024) (mask : BitVec 128) : CanonOut (execWbx line die data mask u) := by
  unfold execWbx
  (try dsimp only)
  repeat' split
  all_goals repeat' first | (with_reducible first | exact h | assumption | refine next_canon ?_ | refine arrives_canon ?_ _ | refine out_canon (arrives_canon ?_ _) (by assumption)) | split

theorem execEvs_canon {u : State} (h : Canon u) (line die : Nat) : CanonOut (execEvs line die u) := by
  unfold execEvs
  (try dsimp only)
  repeat' split
  all_goals repeat' first | (with_reducible first | exact h | assumption | refine next_canon ?_ | refine arrives_canon ?_ _ | refine out_canon (arrives_canon ?_ _) (by assumption)) | split

theorem execRdio_canon {u : State} (h : Canon u) (line : Nat) : CanonOut (execRdio line u) := by
  unfold execRdio
  (try dsimp only)
  repeat' split
  all_goals repeat' first | (with_reducible first | exact h | assumption | refine next_canon ?_ | refine hostAsks_canon ?_ _) | split

theorem execWrio_canon {u : State} (h : Canon u) (line : Nat) (data : BitVec 1024) (mask : BitVec 128) : CanonOut (execWrio line data mask u) := by
  unfold execWrio
  (try dsimp only)
  repeat' split
  all_goals repeat' first | (with_reducible first | exact h | assumption | refine next_canon ?_ | refine hostWrite_canon ?_ _ _ _) | split

theorem execAck_canon {u : State} (h : Canon u) (line die : Nat) : CanonOut (execAck line die u) := by
  unfold execAck
  (try dsimp only)
  repeat' split
  all_goals repeat' first | (with_reducible first | exact h | assumption | refine next_canon ?_ | refine arrives_canon ?_ _ | refine out_canon (arrives_canon ?_ _) (by assumption)) | split

theorem execInv_canon {u : State} (h : Canon u) (line die : Nat) : CanonOut (execInv line die u) := by
  unfold execInv
  (try dsimp only)
  repeat' split
  all_goals repeat' first | (with_reducible first | exact h | assumption | refine next_canon ?_ | refine arrives_canon ?_ _ | refine out_canon (arrives_canon ?_ _) (by assumption)) | split

theorem execInvack_canon {u : State} (h : Canon u) (line die : Nat) : CanonOut (execInvack line die u) := by
  unfold execInvack
  (try dsimp only)
  repeat' split
  all_goals repeat' first | (with_reducible first | exact h | assumption | refine next_canon ?_ | refine arrives_canon ?_ _ | refine out_canon (arrives_canon ?_ _) (by assumption)) | split

theorem execRcls_canon {u : State} (h : Canon u) (line die : Nat) : CanonOut (execRcls line die u) := by
  unfold execRcls
  (try dsimp only)
  repeat' split
  all_goals repeat' first | (with_reducible first | exact h | assumption | refine next_canon ?_ | refine arrives_canon ?_ _ | refine out_canon (arrives_canon ?_ _) (by assumption)) | split

theorem execRcli_canon {u : State} (h : Canon u) (line die : Nat) : CanonOut (execRcli line die u) := by
  unfold execRcli
  (try dsimp only)
  repeat' split
  all_goals repeat' first | (with_reducible first | exact h | assumption | refine next_canon ?_ | refine arrives_canon ?_ _ | refine out_canon (arrives_canon ?_ _) (by assumption)) | split

theorem execRclack_canon {u : State} (h : Canon u) (line die : Nat) (held : Bool) (data : BitVec 1024) (mask : BitVec 128) : CanonOut (execRclack line die held data mask u) := by
  unfold execRclack
  (try dsimp only)
  repeat' split
  all_goals repeat' first | (with_reducible first | exact h | assumption | refine next_canon ?_ | refine arrives_canon ?_ _ | refine out_canon (arrives_canon ?_ _) (by assumption)) | split

theorem execFwdio_canon {u : State} (h : Canon u) (line die : Nat) : CanonOut (execFwdio line die u) := by
  unfold execFwdio
  (try dsimp only)
  repeat' split
  all_goals repeat' first | (with_reducible first | exact h | assumption | refine next_canon ?_ | refine arrives_canon ?_ _ | refine out_canon (arrives_canon ?_ _) (by assumption)) | split

theorem execFwdack_canon {u : State} (h : Canon u) (line die : Nat) (held : Bool) (data : BitVec 1024) (mask : BitVec 128) : CanonOut (execFwdack line die held data mask u) := by
  unfold execFwdack
  (try dsimp only)
  repeat' split
  all_goals repeat' first | (with_reducible first | exact h | assumption | refine next_canon ?_ | refine arrives_canon ?_ _ | refine out_canon (arrives_canon ?_ _) (by assumption)) | split

theorem fabricMessage_canon {u : State} (h : Canon u) (m : Nat) : Canon (fabricMessage u m) := by
  unfold fabricMessage
  (try dsimp only)
  repeat' split
  all_goals repeat' first | (with_reducible first | exact h | assumption | refine countOra_canon ?_ _ | refine rewardMessage_canon ?_ _ _ _ _ _ | refine noteServed_canon ?_) | split

theorem execFabricFlit_canon {u : State} (h : Canon u) (flit : List (BitVec 8)) : CanonOut (execFabricFlit flit u) := by
  unfold execFabricFlit
  (try dsimp only)
  repeat' split
  all_goals repeat' first | (with_reducible first | exact h | assumption | refine next_canon ?_ | refine fabricMessage_canon ?_ _ | refine foldl_canon ?_ _ _ ?_ | refine foldlP_canon ?_ _ _ ?_ | intro _ _ _) | split

end Sys2Proof.Machine
end

