-- ==== Sys2Proof/Laws/Canon4.lean ====
section
/-! SUPPORT. Every operation keeps memory in its canonical form: Issue, Work. -/

set_option linter.unreachableTactic false
set_option linter.unusedTactic false
set_option linter.unusedVariables false

namespace Sys2Proof.Machine
open Sys2Proof

theorem exec_canon {u : State} (h : Canon u) (i : Instr) : CanonOut (exec i u) := by
  cases i with
  | nopy x0 => exact execNopy_canon h x0
  | kwait x0 x1 x2 => exact execKwait_canon h x0 x1 x2
  | kpost x0 x1 x2 x3 x4 => exact execKpost_canon h x0 x1 x2 x3 x4
  | kset x0 x1 x2 => exact execKset_canon h x0 x1 x2
  | barr x0 x1 x2 x3 => exact execBarr_canon h x0 x1 x2 x3
  | bwait x0 x1 x2 => exact execBwait_canon h x0 x1 x2
  | bexp x0 x1 x2 => exact execBexp_canon h x0 x1 x2
  | dly x0 x1 => exact execDly_canon h x0 x1
  | wquiet x0 => exact execWquiet_canon h x0
  | lwait x0 x1 => exact execLwait_canon h x0 x1
  | imx x0 x1 => exact execImx_canon h x0 x1
  | rep x0 x1 x2 x3 => exact execRep_canon h x0 x1 x2 x3
  | xtgt x0 x1 => exact execXtgt_canon h x0 x1
  | nops => exact execNops_canon h
  | aluAdd x0 x1 x2 => exact execAluAdd_canon h x0 x1 x2
  | aluSub x0 x1 x2 => exact execAluSub_canon h x0 x1 x2
  | aluAnd x0 x1 x2 => exact execAluAnd_canon h x0 x1 x2
  | aluOr x0 x1 x2 => exact execAluOr_canon h x0 x1 x2
  | aluXor x0 x1 x2 => exact execAluXor_canon h x0 x1 x2
  | aluShl x0 x1 x2 => exact execAluShl_canon h x0 x1 x2
  | aluShr x0 x1 x2 => exact execAluShr_canon h x0 x1 x2
  | aluSar x0 x1 x2 => exact execAluSar_canon h x0 x1 x2
  | aluMul x0 x1 x2 => exact execAluMul_canon h x0 x1 x2
  | aluMulh x0 x1 x2 => exact execAluMulh_canon h x0 x1 x2
  | aluMulhu x0 x1 x2 => exact execAluMulhu_canon h x0 x1 x2
  | aluDiv x0 x1 x2 => exact execAluDiv_canon h x0 x1 x2
  | aluDivu x0 x1 x2 => exact execAluDivu_canon h x0 x1 x2
  | aluRem x0 x1 x2 => exact execAluRem_canon h x0 x1 x2
  | aluRemu x0 x1 x2 => exact execAluRemu_canon h x0 x1 x2
  | aluMin x0 x1 x2 => exact execAluMin_canon h x0 x1 x2
  | aluMax x0 x1 x2 => exact execAluMax_canon h x0 x1 x2
  | aluMinu x0 x1 x2 => exact execAluMinu_canon h x0 x1 x2
  | aluMaxu x0 x1 x2 => exact execAluMaxu_canon h x0 x1 x2
  | aluSlt x0 x1 x2 => exact execAluSlt_canon h x0 x1 x2
  | aluSltu x0 x1 x2 => exact execAluSltu_canon h x0 x1 x2
  | aluSeq x0 x1 x2 => exact execAluSeq_canon h x0 x1 x2
  | aluClz x0 x1 => exact execAluClz_canon h x0 x1
  | aluPopc x0 x1 => exact execAluPopc_canon h x0 x1
  | addi x0 x1 x2 => exact execAddi_canon h x0 x1 x2
  | andi x0 x1 x2 => exact execAndi_canon h x0 x1 x2
  | ori x0 x1 x2 => exact execOri_canon h x0 x1 x2
  | xori x0 x1 x2 => exact execXori_canon h x0 x1 x2
  | shi x0 x1 x2 x3 => exact execShi_canon h x0 x1 x2 x3
  | lui x0 x1 => exact execLui_canon h x0 x1
  | slti x0 x1 x2 => exact execSlti_canon h x0 x1 x2
  | sltiu x0 x1 x2 => exact execSltiu_canon h x0 x1 x2
  | lis x0 x1 => exact execLis_canon h x0 x1
  | fpuFadd x0 x1 x2 x3 => exact execFpuFadd_canon h x0 x1 x2 x3
  | fpuFsub x0 x1 x2 x3 => exact execFpuFsub_canon h x0 x1 x2 x3
  | fpuFmul x0 x1 x2 x3 => exact execFpuFmul_canon h x0 x1 x2 x3
  | fpuFdiv x0 x1 x2 x3 => exact execFpuFdiv_canon h x0 x1 x2 x3
  | fpuFsqrt x0 x1 x2 => exact execFpuFsqrt_canon h x0 x1 x2
  | fpuFmin x0 x1 x2 x3 => exact execFpuFmin_canon h x0 x1 x2 x3
  | fpuFmax x0 x1 x2 x3 => exact execFpuFmax_canon h x0 x1 x2 x3
  | fpuFeq x0 x1 x2 x3 => exact execFpuFeq_canon h x0 x1 x2 x3
  | fpuFlt x0 x1 x2 x3 => exact execFpuFlt_canon h x0 x1 x2 x3
  | fpuFle x0 x1 x2 x3 => exact execFpuFle_canon h x0 x1 x2 x3
  | fpuFfma x0 x1 x2 x3 => exact execFpuFfma_canon h x0 x1 x2 x3
  | fpuCvtS2d x0 x1 => exact execFpuCvtS2d_canon h x0 x1
  | fpuCvtD2s x0 x1 => exact execFpuCvtD2s_canon h x0 x1
  | fpuCvtS2i x0 x1 => exact execFpuCvtS2i_canon h x0 x1
  | fpuCvtI2s x0 x1 => exact execFpuCvtI2s_canon h x0 x1
  | fpuCvtD2i x0 x1 => exact execFpuCvtD2i_canon h x0 x1
  | fpuCvtI2d x0 x1 => exact execFpuCvtI2d_canon h x0 x1
  | br x0 => exact execBr_canon h x0
  | bl x0 => exact execBl_canon h x0
  | jr x0 => exact execJr_canon h x0
  | jlr x0 => exact execJlr_canon h x0
  | bc x0 x1 x2 x3 => exact execBc_canon h x0 x1 x2 x3
  | bef x0 x1 x2 x3 => exact execBef_canon h x0 x1 x2 x3
  | ld x0 x1 x2 x3 x4 => exact execLd_canon h x0 x1 x2 x3 x4
  | ldu x0 x1 x2 x3 x4 => exact execLdu_canon h x0 x1 x2 x3 x4
  | st x0 x1 x2 x3 x4 => exact execSt_canon h x0 x1 x2 x3 x4
  | fence x0 => exact execFence_canon h x0
  | cacheWb x0 x1 x2 => exact execCacheWb_canon h x0 x1 x2
  | cacheInv x0 x1 x2 => exact execCacheInv_canon h x0 x1 x2
  | cacheWbinv x0 x1 x2 => exact execCacheWbinv_canon h x0 x1 x2
  | cacheEvict x0 x1 x2 => exact execCacheEvict_canon h x0 x1 x2
  | amoAdd x0 x1 x2 x3 x4 x5 => exact execAmoAdd_canon h x0 x1 x2 x3 x4 x5
  | amoAnd x0 x1 x2 x3 x4 x5 => exact execAmoAnd_canon h x0 x1 x2 x3 x4 x5
  | amoOr x0 x1 x2 x3 x4 x5 => exact execAmoOr_canon h x0 x1 x2 x3 x4 x5
  | amoXor x0 x1 x2 x3 x4 x5 => exact execAmoXor_canon h x0 x1 x2 x3 x4 x5
  | amoMin x0 x1 x2 x3 x4 x5 => exact execAmoMin_canon h x0 x1 x2 x3 x4 x5
  | amoMax x0 x1 x2 x3 x4 x5 => exact execAmoMax_canon h x0 x1 x2 x3 x4 x5
  | amoMinu x0 x1 x2 x3 x4 x5 => exact execAmoMinu_canon h x0 x1 x2 x3 x4 x5
  | amoMaxu x0 x1 x2 x3 x4 x5 => exact execAmoMaxu_canon h x0 x1 x2 x3 x4 x5
  | amoSwap x0 x1 x2 x3 x4 x5 => exact execAmoSwap_canon h x0 x1 x2 x3 x4 x5
  | amoCas x0 x1 x2 x3 x4 => exact execAmoCas_canon h x0 x1 x2 x3 x4
  | amoIncw x0 x1 x2 x3 x4 x5 => exact execAmoIncw_canon h x0 x1 x2 x3 x4 x5
  | amoFaddb x0 x1 x2 x3 x4 => exact execAmoFaddb_canon h x0 x1 x2 x3 x4
  | amoFaddF32 x0 x1 x2 x3 x4 => exact execAmoFaddF32_canon h x0 x1 x2 x3 x4
  | amoFaddBf16 x0 x1 x2 x3 x4 x5 => exact execAmoFaddBf16_canon h x0 x1 x2 x3 x4 x5
  | spclr x0 x1 => exact execSpclr_canon h x0 x1
  | ctlrd x0 x1 => exact execCtlrd_canon h x0 x1
  | ctlwr x0 x1 => exact execCtlwr_canon h x0 x1
  | schrd x0 x1 => exact execSchrd_canon h x0 x1
  | schwr x0 x1 => exact execSchwr_canon h x0 x1
  | schcommit x0 => exact execSchcommit_canon h x0
  | msel x0 x1 x2 => exact execMsel_canon h x0 x1 x2
  | efrd x0 x1 => exact execEfrd_canon h x0 x1
  | awin x0 x1 x2 x3 => exact execAwin_canon h x0 x1 x2 x3
  | trap x0 => exact execTrap_canon h x0
  | rett => exact execRett_canon h
  | retire => exact execRetire_canon h
  | spawn x0 x1 => exact execSpawn_canon h x0 x1
  | joinw x0 x1 => exact execJoinw_canon h x0 x1
  | tilenext x0 => exact execTilenext_canon h x0
  | cvmark x0 => exact execCvmark_canon h x0
  | rjreg x0 x1 => exact execRjreg_canon h x0 x1
  | rjpost x0 => exact execRjpost_canon h x0
  | rjpop x0 x1 => exact execRjpop_canon h x0 x1
  | rjctl x0 x1 x2 => exact execRjctl_canon h x0 x1 x2
  | cnop => exact execCnop_canon h
  | fadd x0 x1 x2 x3 x4 x5 x6 => exact execFadd_canon h x0 x1 x2 x3 x4 x5 x6
  | fsub x0 x1 x2 x3 x4 x5 x6 => exact execFsub_canon h x0 x1 x2 x3 x4 x5 x6
  | fmul x0 x1 x2 x3 x4 x5 x6 => exact execFmul_canon h x0 x1 x2 x3 x4 x5 x6
  | ffma x0 x1 x2 x3 x4 x5 x6 => exact execFfma_canon h x0 x1 x2 x3 x4 x5 x6
  | ffms x0 x1 x2 x3 x4 x5 x6 => exact execFfms_canon h x0 x1 x2 x3 x4 x5 x6
  | fmin x0 x1 x2 x3 x4 x5 x6 => exact execFmin_canon h x0 x1 x2 x3 x4 x5 x6
  | fmax x0 x1 x2 x3 x4 x5 x6 => exact execFmax_canon h x0 x1 x2 x3 x4 x5 x6
  | fabs x0 x1 x2 x3 x4 x5 => exact execFabs_canon h x0 x1 x2 x3 x4 x5
  | fneg x0 x1 x2 x3 x4 x5 => exact execFneg_canon h x0 x1 x2 x3 x4 x5
  | fcmp x0 x1 x2 x3 x4 x5 x6 => exact execFcmp_canon h x0 x1 x2 x3 x4 x5 x6
  | sel x0 x1 x2 x3 x4 => exact execSel_canon h x0 x1 x2 x3 x4
  | iadd x0 x1 x2 x3 x4 x5 x6 => exact execIadd_canon h x0 x1 x2 x3 x4 x5 x6
  | isub x0 x1 x2 x3 x4 x5 x6 => exact execIsub_canon h x0 x1 x2 x3 x4 x5 x6
  | imul x0 x1 x2 x3 x4 x5 x6 => exact execImul_canon h x0 x1 x2 x3 x4 x5 x6
  | imac x0 x1 x2 x3 x4 x5 x6 => exact execImac_canon h x0 x1 x2 x3 x4 x5 x6
  | qmul x0 x1 x2 x3 x4 x5 x6 => exact execQmul_canon h x0 x1 x2 x3 x4 x5 x6
  | qmac x0 x1 x2 x3 x4 x5 x6 => exact execQmac_canon h x0 x1 x2 x3 x4 x5 x6
  | wAnd x0 x1 x2 x3 x4 x5 x6 => exact execWAnd_canon h x0 x1 x2 x3 x4 x5 x6
  | wOr x0 x1 x2 x3 x4 x5 x6 => exact execWOr_canon h x0 x1 x2 x3 x4 x5 x6
  | wXor x0 x1 x2 x3 x4 x5 x6 => exact execWXor_canon h x0 x1 x2 x3 x4 x5 x6
  | wShl x0 x1 x2 x3 x4 x5 x6 => exact execWShl_canon h x0 x1 x2 x3 x4 x5 x6
  | wShr x0 x1 x2 x3 x4 x5 x6 => exact execWShr_canon h x0 x1 x2 x3 x4 x5 x6
  | wSar x0 x1 x2 x3 x4 x5 x6 => exact execWSar_canon h x0 x1 x2 x3 x4 x5 x6
  | icmp x0 x1 x2 x3 x4 x5 x6 => exact execIcmp_canon h x0 x1 x2 x3 x4 x5 x6
  | imin x0 x1 x2 x3 x4 x5 x6 => exact execImin_canon h x0 x1 x2 x3 x4 x5 x6
  | imax x0 x1 x2 x3 x4 x5 x6 => exact execImax_canon h x0 x1 x2 x3 x4 x5 x6
  | fdiv x0 x1 x2 x3 x4 x5 x6 => exact execFdiv_canon h x0 x1 x2 x3 x4 x5 x6
  | fsqrt x0 x1 x2 x3 x4 x5 => exact execFsqrt_canon h x0 x1 x2 x3 x4 x5
  | frcp x0 x1 x2 x3 x4 x5 => exact execFrcp_canon h x0 x1 x2 x3 x4 x5
  | frsq x0 x1 x2 x3 x4 x5 => exact execFrsq_canon h x0 x1 x2 x3 x4 x5
  | fexp2 x0 x1 x2 x3 x4 x5 => exact execFexp2_canon h x0 x1 x2 x3 x4 x5
  | flog2 x0 x1 x2 x3 x4 x5 => exact execFlog2_canon h x0 x1 x2 x3 x4 x5
  | mov x0 x1 x2 x3 => exact execMov_canon h x0 x1 x2 x3
  | movx x0 x1 x2 x3 => exact execMovx_canon h x0 x1 x2 x3
  | movi x0 x1 x2 x3 x4 => exact execMovi_canon h x0 x1 x2 x3 x4
  | cvt x0 x1 x2 x3 x4 x5 x6 => exact execCvt_canon h x0 x1 x2 x3 x4 x5 x6
  | cvtsr x0 x1 x2 x3 x4 x5 x6 => exact execCvtsr_canon h x0 x1 x2 x3 x4 x5 x6
  | srand x0 x1 => exact execSrand_canon h x0 x1
  | lane x0 x1 x2 x3 x4 => exact execLane_canon h x0 x1 x2 x3 x4
  | cpass x0 x1 x2 x3 => exact execCpass_canon h x0 x1 x2 x3
  | cinj x0 x1 x2 => exact execCinj_canon h x0 x1 x2
  | cscanAdd x0 x1 x2 x3 x4 x5 x6 => exact execCscanAdd_canon h x0 x1 x2 x3 x4 x5 x6
  | cscanMax x0 x1 x2 x3 x4 x5 x6 => exact execCscanMax_canon h x0 x1 x2 x3 x4 x5 x6
  | cscanMin x0 x1 x2 x3 x4 x5 x6 => exact execCscanMin_canon h x0 x1 x2 x3 x4 x5 x6
  | cscanOr x0 x1 x2 x3 x4 x5 x6 => exact execCscanOr_canon h x0 x1 x2 x3 x4 x5 x6
  | cwr x0 x1 => exact execCwr_canon h x0 x1
  | crd x0 x1 x2 x3 => exact execCrd_canon h x0 x1 x2 x3
  | cld x0 x1 x2 x3 x4 x5 => exact execCld_canon h x0 x1 x2 x3 x4 x5
  | cst x0 x1 x2 x3 x4 x5 => exact execCst_canon h x0 x1 x2 x3 x4 x5
  | caaddAdd x0 x1 x2 => exact execCaaddAdd_canon h x0 x1 x2
  | caaddSet x0 x1 x2 => exact execCaaddSet_canon h x0 x1 x2
  | cflag x0 x1 => exact execCflag_canon h x0 x1
  | psetOnes x0 => exact execPsetOnes_canon h x0
  | psetZero x0 => exact execPsetZero_canon h x0
  | psetInv x0 => exact execPsetInv_canon h x0
  | psetLoad x0 x1 => exact execPsetLoad_canon h x0 x1
  | psetSave x0 x1 => exact execPsetSave_canon h x0 x1
  | psetAndl x0 x1 => exact execPsetAndl_canon h x0 x1
  | psetOrl x0 x1 => exact execPsetOrl_canon h x0 x1
  | cxfRead x0 x1 x2 => exact execCxfRead_canon h x0 x1 x2
  | cxfClear x0 x1 x2 => exact execCxfClear_canon h x0 x1 x2
  | cxfReadclr x0 x1 x2 x3 => exact execCxfReadclr_canon h x0 x1 x2 x3
  | cstatRead x0 x1 => exact execCstatRead_canon h x0 x1
  | cstatClear x0 x1 => exact execCstatClear_canon h x0 x1
  | cstatReadclr x0 x1 x2 => exact execCstatReadclr_canon h x0 x1 x2
  | cstatTest x0 x1 => exact execCstatTest_canon h x0 x1
  | mzero x0 x1 => exact execMzero_canon h x0 x1
  | mpush x0 x1 x2 => exact execMpush_canon h x0 x1 x2
  | mshift x0 x1 => exact execMshift_canon h x0 x1
  | macc x0 x1 x2 x3 x4 x5 x6 x7 => exact execMacc_canon h x0 x1 x2 x3 x4 x5 x6 x7
  | maccs x0 x1 x2 x3 x4 x5 x6 x7 => exact execMaccs_canon h x0 x1 x2 x3 x4 x5 x6 x7
  | mdrain x0 x1 x2 x3 x4 => exact execMdrain_canon h x0 x1 x2 x3 x4
  | mtrOut x0 x1 x2 x3 x4 => exact execMtrOut_canon h x0 x1 x2 x3 x4
  | mtrIn x0 x1 x2 x3 => exact execMtrIn_canon h x0 x1 x2 x3
  | nope => exact execNope_canon h
  | larm x0 x1 x2 x3 => exact execLarm_canon h x0 x1 x2 x3
  | ldis x0 => exact execLdis_canon h x0
  | oset x0 x1 => exact execOset_canon h x0 x1
  | oinc x0 x1 => exact execOinc_canon h x0 x1
  | rcflush x0 => exact execRcflush_canon h x0
  | edrain x0 x1 x2 x3 x4 => exact execEdrain_canon h x0 x1 x2 x3 x4
  | epld x0 x1 => exact execEpld_canon h x0 x1
  | estop => exact execEstop_canon h
  | epass => exact execEpass_canon h
  | eadd x0 => exact execEadd_canon h x0
  | emul x0 => exact execEmul_canon h x0
  | erelu => exact execErelu_canon h
  | eclmp x0 => exact execEclmp_canon h x0
  | ecvt x0 x1 => exact execEcvt_canon h x0 x1
  | wavefrontReach x0 x1 => exact execWavefrontReach_canon h x0 x1
  | sfDeliver x0 x1 x2 => exact execSfDeliver_canon h x0 x1 x2
  | traySumLand x0 x1 x2 => exact execTraySumLand_canon h x0 x1 x2
  | flagGroupValid x0 => exact execFlagGroupValid_canon h x0
  | scalarResultLand x0 => exact execScalarResultLand_canon h x0
  | loadReturn x0 x1 => exact execLoadReturn_canon h x0 x1
  | recordFetch x0 x1 => exact execRecordFetch_canon h x0 x1
  | feedFetch x0 x1 => exact execFeedFetch_canon h x0 x1
  | drainWrite x0 x1 => exact execDrainWrite_canon h x0 x1
  | epilogueProcess x0 => exact execEpilogueProcess_canon h x0
  | copyStart x0 x1 => exact execCopyStart_canon h x0 x1
  | copyLineLand x0 x1 => exact execCopyLineLand_canon h x0 x1
  | remotePostArrive x0 x1 => exact execRemotePostArrive_canon h x0 x1
  | storeBufferDrain x0 => exact execStoreBufferDrain_canon h x0
  | pageWalk x0 x1 x2 => exact execPageWalk_canon h x0 x1 x2
  | amoAtomic x0 x1 => exact execAmoAtomic_canon h x0 x1
  | trapEntry x0 => exact execTrapEntry_canon h x0
  | folopResume x0 => exact execFolopResume_canon h x0
  | folopEnd x0 => exact execFolopEnd_canon h x0
  | preemptRequest x0 => exact execPreemptRequest_canon h x0
  | coreSave x0 => exact execCoreSave_canon h x0
  | coreRestore x0 => exact execCoreRestore_canon h x0
  | drainDeadline x0 => exact execDrainDeadline_canon h x0
  | partitionSwap x0 x1 => exact execPartitionSwap_canon h x0 x1
  | teamKill x0 => exact execTeamKill_canon h x0
  | teamBind x0 x1 => exact execTeamBind_canon h x0 x1
  | teamRelease x0 => exact execTeamRelease_canon h x0
  | taskStart x0 => exact execTaskStart_canon h x0
  | joinwComplete x0 => exact execJoinwComplete_canon h x0
  | teamEnd x0 => exact execTeamEnd_canon h x0
  | generatorCut x0 => exact execGeneratorCut_canon h x0
  | schedRegisterServe x0 => exact execSchedRegisterServe_canon h x0
  | rds x0 x1 => exact execRds_canon h x0 x1
  | rdx x0 x1 => exact execRdx_canon h x0 x1
  | upg x0 x1 => exact execUpg_canon h x0 x1
  | wbx x0 x1 x2 x3 => exact execWbx_canon h x0 x1 x2 x3
  | evs x0 x1 => exact execEvs_canon h x0 x1
  | rdio x0 => exact execRdio_canon h x0
  | wrio x0 x1 x2 => exact execWrio_canon h x0 x1 x2
  | ack x0 x1 => exact execAck_canon h x0 x1
  | inv x0 x1 => exact execInv_canon h x0 x1
  | invack x0 x1 => exact execInvack_canon h x0 x1
  | rcls x0 x1 => exact execRcls_canon h x0 x1
  | rcli x0 x1 => exact execRcli_canon h x0 x1
  | rclack x0 x1 x2 x3 x4 => exact execRclack_canon h x0 x1 x2 x3 x4
  | fwdio x0 x1 => exact execFwdio_canon h x0 x1
  | fwdack x0 x1 x2 x3 x4 => exact execFwdack_canon h x0 x1 x2 x3 x4
  | tlbInvalidate x0 x1 x2 => exact execTlbInvalidate_canon h x0 x1 x2
  | tlbInvalidateComplete => exact execTlbInvalidateComplete_canon h
  | hostPostedDeliver => exact execHostPostedDeliver_canon h
  | reward x0 x1 x2 x3 x4 => exact execReward_canon h x0 x1 x2 x3 x4
  | registrationServe x0 => exact execRegistrationServe_canon h x0
  | popServe x0 => exact execPopServe_canon h x0
  | controlServe x0 => exact execControlServe_canon h x0
  | deadlineExpiry => exact execDeadlineExpiry_canon h
  | orphanExpiry => exact execOrphanExpiry_canon h
  | backwardScan => exact execBackwardScan_canon h
  | ringAppend x0 x1 => exact execRingAppend_canon h x0 x1
  | fabricFlit x0 => exact execFabricFlit_canon h x0
  | doorbellWrite x0 x1 => exact execDoorbellWrite_canon h x0 x1
  | queueEvent x0 => exact execQueueEvent_canon h x0
  | launch x0 => exact execLaunch_canon h x0
  | graph x0 => exact execGraph_canon h x0
  | waitsig x0 => exact execWaitsig_canon h x0
  | waitsigPoll x0 => exact execWaitsigPoll_canon h x0
  | waitsigTimeout x0 => exact execWaitsigTimeout_canon h x0
  | signalStore x0 => exact execSignalStore_canon h x0
  | signalAdd x0 => exact execSignalAdd_canon h x0
  | copy x0 => exact execCopy_canon h x0
  | regionInsert x0 => exact execRegionInsert_canon h x0
  | regionUpdate x0 => exact execRegionUpdate_canon h x0
  | regionRemove x0 => exact execRegionRemove_canon h x0
  | regionKill x0 => exact execRegionKill_canon h x0
  | packetComplete x0 => exact execPacketComplete_canon h x0
  | graphKernel x0 => exact execGraphKernel_canon h x0
  | graphLoop x0 => exact execGraphLoop_canon h x0
  | graphCond x0 => exact execGraphCond_canon h x0
  | graphSignal x0 => exact execGraphSignal_canon h x0
  | graphEnd x0 => exact execGraphEnd_canon h x0
  | irqSend x0 => exact execIrqSend_canon h x0
  | asidDrained x0 => exact execAsidDrained_canon h x0
  | asidnew => exact execAsidnew_canon h
  | asiddel => exact execAsiddel_canon h
  | mapPages => exact execMapPages_canon h
  | unmapPages => exact execUnmapPages_canon h
  | qnew => exact execQnew_canon h
  | qctl => exact execQctl_canon h
  | part => exact execPart_canon h
  | attest => exact execAttest_canon h
  | doorbell => exact execDoorbell_canon h
  | islandToA0 x0 x1 => exact execIslandToA0_canon h x0 x1
  | islandToA1 x0 x1 => exact execIslandToA1_canon h x0 x1
  | islandToA2 x0 x1 => exact execIslandToA2_canon h x0 x1
  | islandToRet x0 x1 => exact execIslandToRet_canon h x0 x1
  | islandToOff x0 x1 => exact execIslandToOff_canon h x0 x1
  | powerCommandDone => exact execPowerCommandDone_canon h
  | tripClear x0 => exact execTripClear_canon h x0
  | pcapWrite x0 => exact execPcapWrite_canon h x0
  | budgetLend x0 x1 x2 => exact execBudgetLend_canon h x0 x1 x2
  | budgetRepay x0 x1 x2 => exact execBudgetRepay_canon h x0 x1 x2
  | thermalTrip x0 => exact execThermalTrip_canon h x0
  | thermalShutdown => exact execThermalShutdown_canon h
  | powerOnReset => exact execPowerOnReset_canon h
  | eccCorrected x0 => exact execEccCorrected_canon h x0
  | eccUncorrectable x0 x1 x2 x3 x4 x5 => exact execEccUncorrectable_canon h x0 x1 x2 x3 x4 x5
  | counterFlush => exact execCounterFlush_canon h
  | orderlyPowerOff => exact execOrderlyPowerOff_canon h
  | registerWrite x0 x1 x2 => exact execRegisterWrite_canon h x0 x1 x2
  | ringOutOfSequence x0 => exact execRingOutOfSequence_canon h x0
  | pcmdReservedState x0 x1 => exact execPcmdReservedState_canon h x0 x1
  | suddenLossOfPower => exact execSuddenLossOfPower_canon h

theorem run_canon {u : State} (h : Canon u) (i : Instr) : Canon (run u i) := by
  unfold run
  (try dsimp only)
  repeat' split
  all_goals repeat' first | (with_reducible first | exact h | assumption | refine nextOf_canon ?_ _ ?_ | refine exec_canon ?_ _ | refine out_canon (exec_canon ?_ _) (by assumption)) | split

theorem headers_canon {u : State} (h : Canon u) (y : Instr) : Canon (headers u y) := by
  unfold headers
  (try dsimp only)
  repeat' split
  all_goals repeat' first | (with_reducible first | exact h | assumption | refine modSeq_canon ?_ _ _) | split

theorem fetchFirst_canon {u : State} (h : Canon u) (w : Instr) : Canon (fetchFirst u w) := by
  unfold fetchFirst
  (try dsimp only)
  repeat' split
  all_goals repeat' first | (with_reducible first | exact h | assumption | refine fetchStep_canon ?_ _ _ | refine foldl_canon ?_ _ _ ?_ | refine foldlP_canon ?_ _ _ ?_ | intro _ _ _) | split

theorem beforeW_canon {u : State} (h : Canon u) (b : Bundle) : Canon (beforeW u b) := by
  unfold beforeW
  (try dsimp only)
  repeat' split
  all_goals repeat' first | (with_reducible first | exact h | assumption | refine run_canon ?_ _ | refine fetchFirst_canon ?_ _) | split

theorem afterY_canon {u : State} (h : Canon u) (y : Instr) : Canon (afterY u y) := by
  unfold afterY
  (try dsimp only)
  repeat' split
  all_goals repeat' first | (with_reducible first | exact h | assumption | refine run_canon ?_ _) | split

theorem afterS_canon {u : State} (h : Canon u) (i : Instr) : Canon (afterS u i) := by
  unfold afterS
  (try dsimp only)
  repeat' split
  all_goals repeat' first | (with_reducible first | exact h | assumption | refine run_canon ?_ _) | split

theorem executionTrap_canon {u : State} (h : Canon u) (b : Bundle) : CanonOpt (executionTrap u b) := by
  intro v e
  unfold executionTrap at e
  obtain ⟨x, -, rfl⟩ := Option.map_eq_some_iff.1 e
  exact preciseTrap_canon h _ _

theorem withoutArmed_canon {u : State} (h : Canon u) (b : Bundle) : Canon (withoutArmed u b) := by
  unfold withoutArmed
  (try dsimp only)
  repeat' split
  all_goals repeat' first | (with_reducible first | exact h | assumption | refine modLoader_canon ?_ _ _ _) | split

theorem staged_canon {u : State} (h : Canon u) (b : Bundle) : Canon (staged u b) := by
  unfold staged
  (try dsimp only)
  repeat' split
  all_goals repeat' first | (with_reducible first | exact h | assumption | refine beforeW_canon ?_ _ | refine afterY_canon ?_ _ | refine executionTrap_canon ?_ _ | refine opt_canon (executionTrap_canon ?_ _) (by assumption) | refine withoutArmed_canon ?_ _) | split

theorem takeLoaderFault_canon {u : State} (h : Canon u) (f : Nat × Nat × Nat × Nat) : Canon (takeLoaderFault u f) := by
  unfold takeLoaderFault
  (try dsimp only)
  repeat' split
  all_goals repeat' first | (with_reducible first | exact h | assumption | refine takeTrap_canon ?_ _ _ _ _ _ _ _) | split

theorem takeStallFault_canon {u : State} (h : Canon u) (f : Nat × Instr × Nat × Nat × Nat) : Canon (takeStallFault u f) := by
  unfold takeStallFault
  (try dsimp only)
  repeat' split
  all_goals repeat' first | (with_reducible first | exact h | assumption | refine bundleTrap_canon ?_ _ _ _ _ _ _) | split

theorem spendImx_canon {u : State} (h : Canon u) (b : Bundle) : Canon (spendImx u b) := by
  unfold spendImx
  (try dsimp only)
  repeat' split
  all_goals repeat' first | (with_reducible first | exact h | assumption | refine modSeq_canon ?_ _ _) | split

theorem runSlots_canon {u : State} (h : Canon u) (b : Bundle) : Canon (runSlots u b) := by
  unfold runSlots
  (try dsimp only)
  repeat' split
  all_goals repeat' first | (with_reducible first | exact h | assumption | refine run_canon ?_ _ | refine beforeW_canon ?_ _ | refine spendImx_canon ?_ _) | split

theorem commitBundle_canon {u : State} (h : Canon u) (b : Bundle) : Canon (commitBundle u b) := by
  unfold commitBundle
  (try dsimp only)
  repeat' split
  all_goals repeat' first | (with_reducible first | exact h | assumption | refine runSlots_canon ?_ _ | refine modCore_canon ?_ _ _ | refine modSeq_canon ?_ _ _ | refine mapP_canon ?_ ?_ | intro _ _) | split

theorem issueDecoded_canon {u : State} (h : Canon u) (b : Bundle) : CanonOpt (issueDecoded u b) := by
  unfold issueDecoded
  (try dsimp only)
  repeat' split
  all_goals repeat' first | (with_reducible first | exact h | assumption | exact none_canon | refine some_canon ?_ | exact noneP_canon | refine someP_canon ?_ | refine bundleTrap_canon ?_ _ _ _ _ _ _ | refine drainAtTile_canon ?_ _ | refine headers_canon ?_ _ | refine executionTrap_canon ?_ _ | refine opt_canon (executionTrap_canon ?_ _) (by assumption) | refine takeLoaderFault_canon ?_ _ | refine takeStallFault_canon ?_ _ | refine commitBundle_canon ?_ _ | refine modSeq_canon ?_ _ _) | split

theorem issueBundle_canon {u : State} (h : Canon u)  : CanonOpt (issueBundle u) := by
  unfold issueBundle
  (try dsimp only)
  repeat' split
  all_goals repeat' first | (with_reducible first | exact h | assumption | exact none_canon | refine some_canon ?_ | exact noneP_canon | refine someP_canon ?_ | refine bundleTrap_canon ?_ _ _ _ _ _ _ | refine issueDecoded_canon ?_ _ | refine opt_canon (issueDecoded_canon ?_ _) (by assumption)) | split

theorem boundary_canon {u : State} (h : Canon u) (c : Nat) : CanonOpt (boundary u c) := by
  unfold boundary
  (try dsimp only)
  repeat' split
  all_goals repeat' first | (with_reducible first | exact h | assumption | exact none_canon | refine some_canon ?_ | exact noneP_canon | refine someP_canon ?_ | refine setMe_canon ?_ _ | refine boundaryTrap_canon ?_ _ | refine opt_canon (boundaryTrap_canon ?_ _) (by assumption) | refine issueBundle_canon ?_ | refine opt_canon (issueBundle_canon ?_) (by assumption)) | split

theorem arrayWork_canon {u : State} (h : Canon u) (c : Nat) : CanonOpt (arrayWork u c) := by
  intro v e
  unfold arrayWork at e
  obtain ⟨d, -, rfl⟩ := Option.map_eq_some_iff.1 e
  exact takeArr_canon h _ _

theorem scalarWork_canon {u : State} (h : Canon u) (c : Nat) : CanonOpt (scalarWork u c) := by
  unfold scalarWork
  (try dsimp only)
  repeat' split
  all_goals repeat' first | (with_reducible first | exact h | assumption | exact none_canon | refine some_canon ?_ | exact noneP_canon | refine someP_canon ?_ | refine landFirst_canon ?_ _) | split

theorem ownWork_canon {u : State} (h : Canon u) (c : Nat) : CanonOpt (ownWork u c) := by
  unfold ownWork
  (try dsimp only)
  repeat' split
  all_goals repeat' first | (with_reducible first | exact h | assumption | exact none_canon | refine some_canon ?_ | exact noneP_canon | refine someP_canon ?_ | refine arrayWork_canon ?_ _ | refine opt_canon (arrayWork_canon ?_ _) (by assumption) | refine scalarWork_canon ?_ _ | refine opt_canon (scalarWork_canon ?_ _) (by assumption) | refine orElse_canon ?_ ?_ | intro _) | split

theorem landDue_canon {u : State} (h : Canon u) (z0 : Nat) (z2 : Nat) : Canon (landDue z0 u z2) := by
  induction z0 generalizing u z2 with
  | zero =>
    unfold landDue
    (try dsimp only)
    repeat' split
    all_goals repeat' first | (with_reducible first | exact h | assumption | refine ownWork_canon ?_ _ | refine opt_canon (ownWork_canon ?_ _) (by assumption)) | split
  | succ n_ ih =>
    unfold landDue
    (try dsimp only)
    repeat' split
    all_goals repeat' first | (with_reducible first | exact h | assumption | refine ownWork_canon ?_ _ | refine opt_canon (ownWork_canon ?_ _) (by assumption) | refine ih ?_ _) | split

theorem settleCore_canon {u : State} (h : Canon u) (c : Nat) : Canon (settleCore u c) := by
  unfold settleCore
  (try dsimp only)
  repeat' split
  all_goals repeat' first | (with_reducible first | exact h | assumption | refine landDue_canon ?_ _ _) | split

theorem settleAll_canon {u : State} (h : Canon u)  : Canon (settleAll u) := by
  unfold settleAll
  (try dsimp only)
  repeat' split
  all_goals repeat' first | (with_reducible first | exact h | assumption | refine settleCore_canon ?_ _ | refine foldl_canon ?_ _ _ ?_ | refine foldlP_canon ?_ _ _ ?_ | intro _ _ _ | refine mapP_canon ?_ ?_ | intro _ _) | split

theorem firstOf_canon {u : State} (l : List (State → Option State)) (hl : ∀ f ∈ l, CanonOpt (f u)) : CanonOpt (firstOf l u) := by
  induction l with
  | nil => exact none_canon
  | cons f t ih =>
    unfold firstOf
    split
    · rename_i v e
      exact some_canon (hl f (by simp) v e)
    · exact ih fun g hg => hl g (by simp [hg])

theorem due_canon {u : State} (h : Canon u) (cond : Bool) (o : Out) (ho : CanonOut o) : CanonOpt (due cond o u) := by
  unfold due
  split
  · exact some_canon (nextOf_canon h _ ho)
  · exact none_canon

theorem epiWork_canon {u : State} (h : Canon u) (c : Nat) : CanonOpt (epiWork c u) := by
  unfold epiWork
  (try dsimp only)
  repeat' split
  all_goals repeat' first | (with_reducible first | exact h | assumption | exact none_canon | refine some_canon ?_ | exact noneP_canon | refine someP_canon ?_ | refine setMe_canon ?_ _ | refine enterEpi_canon ?_ _ | refine stepEpi_canon ?_ _) | split

theorem accessWork_canon {u : State} (h : Canon u) (c : Nat) : CanonOpt (accessWork c u) := by
  unfold accessWork
  (try dsimp only)
  repeat' split
  all_goals repeat' first | (with_reducible first | exact h | assumption | exact none_canon | refine some_canon ?_ | exact noneP_canon | refine someP_canon ?_ | refine performAt_canon ?_ _ _ | refine drainOldest_canon ?_ _) | split

theorem chanWork_canon {u : State} (h : Canon u) (c : Nat) : CanonOpt (chanWork c u) := by
  unfold chanWork
  (try dsimp only)
  repeat' split
  all_goals repeat' first | (with_reducible first | exact h | assumption | exact none_canon | refine some_canon ?_ | exact noneP_canon | refine someP_canon ?_ | refine copyStart_canon ?_ _ _ | refine copyLine_canon ?_ _ _) | split

theorem feedWork_canon {u : State} (h : Canon u) (c : Nat) : CanonOpt (feedWork c u) := by
  unfold feedWork
  (try dsimp only)
  repeat' split
  all_goals repeat' first | (with_reducible first | exact h | assumption | exact none_canon | refine some_canon ?_ | exact noneP_canon | refine someP_canon ?_ | refine fetchStep_canon ?_ _ _ | refine findSome_canon ?_ | intro _) | split

theorem drainWork_canon {u : State} (h : Canon u) (c : Nat) : CanonOpt (drainWork c u) := by
  unfold drainWork
  (try dsimp only)
  repeat' split
  all_goals repeat' first | (with_reducible first | exact h | assumption | exact none_canon | refine some_canon ?_ | exact noneP_canon | refine someP_canon ?_ | refine drainStep_canon ?_ _ _ | refine findSome_canon ?_ | intro _) | split

theorem joinWork_canon {u : State} (h : Canon u) (c : Nat) : CanonOpt (joinWork c u) := by
  unfold joinWork
  (try dsimp only)
  repeat' split
  all_goals repeat' first | (with_reducible first | exact h | assumption | exact none_canon | refine some_canon ?_ | exact noneP_canon | refine someP_canon ?_ | refine execJoinwComplete_canon ?_ _ | refine out_canon (execJoinwComplete_canon ?_ _) (by assumption) | refine due_canon ?_ _ _ ?_) | split

theorem fenceWork_canon {u : State} (h : Canon u) (c : Nat) : CanonOpt (fenceWork c u) := by
  unfold fenceWork
  (try dsimp only)
  repeat' split
  all_goals repeat' first | (with_reducible first | exact h | assumption | exact none_canon | refine some_canon ?_ | exact noneP_canon | refine someP_canon ?_ | refine fenceActs_canon ?_ _ _ | refine modCore_canon ?_ _ _) | split

theorem rewardWork_canon {u : State} (h : Canon u) (c : Nat) : CanonOpt (rewardWork c u) := by
  unfold rewardWork
  (try dsimp only)
  repeat' split
  all_goals repeat' first | (with_reducible first | exact h | assumption | exact none_canon | refine some_canon ?_ | exact noneP_canon | refine someP_canon ?_ | refine serveOldest_canon ?_ _) | split

theorem saveWork_canon {u : State} (h : Canon u) (c : Nat) : CanonOpt (saveWork c u) := by
  unfold saveWork
  (try dsimp only)
  repeat' split
  all_goals repeat' first | (with_reducible first | exact h | assumption | exact none_canon | refine some_canon ?_ | exact noneP_canon | refine someP_canon ?_ | refine boundaryTrap_canon ?_ _ | refine opt_canon (boundaryTrap_canon ?_ _) (by assumption) | refine execCoreSave_canon ?_ _ | refine out_canon (execCoreSave_canon ?_ _) (by assumption) | refine due_canon ?_ _ _ ?_) | split

theorem restoreWork_canon {u : State} (h : Canon u) (c : Nat) : CanonOpt (restoreWork c u) := by
  unfold restoreWork
  (try dsimp only)
  repeat' split
  all_goals repeat' first | (with_reducible first | exact h | assumption | exact none_canon | refine some_canon ?_ | exact noneP_canon | refine someP_canon ?_ | refine execCoreRestore_canon ?_ _ | refine out_canon (execCoreRestore_canon ?_ _) (by assumption) | refine due_canon ?_ _ _ ?_) | split

theorem startWork_canon {u : State} (h : Canon u) (c : Nat) : CanonOpt (startWork c u) := by
  unfold startWork
  (try dsimp only)
  repeat' split
  all_goals repeat' first | (with_reducible first | exact h | assumption | exact none_canon | refine some_canon ?_ | exact noneP_canon | refine someP_canon ?_ | refine execTaskStart_canon ?_ _ | refine out_canon (execTaskStart_canon ?_ _) (by assumption) | refine due_canon ?_ _ _ ?_) | split

theorem deadlineWork_canon {u : State} (h : Canon u) (c : Nat) : CanonOpt (deadlineWork c u) := by
  unfold deadlineWork
  (try dsimp only)
  repeat' split
  all_goals repeat' first | (with_reducible first | exact h | assumption | exact none_canon | refine some_canon ?_ | exact noneP_canon | refine someP_canon ?_ | refine execDrainDeadline_canon ?_ _ | refine out_canon (execDrainDeadline_canon ?_ _) (by assumption) | refine due_canon ?_ _ _ ?_) | split

theorem coreWork_canon {u : State} (h : Canon u) (c : Nat) : CanonOpt (coreWork c u) := by
  unfold coreWork
  (try dsimp only)
  repeat' split
  all_goals repeat' first | (with_reducible first | exact h | assumption | exact none_canon | refine some_canon ?_ | exact noneP_canon | refine someP_canon ?_ | refine ownWork_canon ?_ _ | refine opt_canon (ownWork_canon ?_ _) (by assumption) | refine firstOf_canon _ ?_ | (refine List.forall_mem_cons.2 ⟨?_, ?_⟩) | exact List.forall_mem_nil _ | refine accessWork_canon ?_ _ | refine opt_canon (accessWork_canon ?_ _) (by assumption) | refine chanWork_canon ?_ _ | refine opt_canon (chanWork_canon ?_ _) (by assumption) | refine feedWork_canon ?_ _ | refine opt_canon (feedWork_canon ?_ _) (by assumption) | refine drainWork_canon ?_ _ | refine opt_canon (drainWork_canon ?_ _) (by assumption) | refine joinWork_canon ?_ _ | refine opt_canon (joinWork_canon ?_ _) (by assumption) | refine fenceWork_canon ?_ _ | refine opt_canon (fenceWork_canon ?_ _) (by assumption) | refine rewardWork_canon ?_ _ | refine opt_canon (rewardWork_canon ?_ _) (by assumption) | refine saveWork_canon ?_ _ | refine opt_canon (saveWork_canon ?_ _) (by assumption) | refine restoreWork_canon ?_ _ | refine opt_canon (restoreWork_canon ?_ _) (by assumption) | refine startWork_canon ?_ _ | refine opt_canon (startWork_canon ?_ _) (by assumption) | refine deadlineWork_canon ?_ _ | refine opt_canon (deadlineWork_canon ?_ _) (by assumption)) | split

theorem anyCore_canon (f : Nat → State → Option State) (u : State) (hf : ∀ c, CanonOpt (f c u)) : CanonOpt (anyCore f u) := by
  unfold anyCore
  exact findSome_canon fun c => hf c

theorem postWork_canon {u : State} (h : Canon u)  : CanonOpt (postWork u) := by
  unfold postWork
  (try dsimp only)
  repeat' split
  all_goals repeat' first | (with_reducible first | exact h | assumption | exact none_canon | refine some_canon ?_ | exact noneP_canon | refine someP_canon ?_ | refine nextOf_canon ?_ _ ?_ | refine execRemotePostArrive_canon ?_ _ _ | refine out_canon (execRemotePostArrive_canon ?_ _ _) (by assumption)) | split

theorem messageWork_canon {u : State} (h : Canon u)  : CanonOpt (messageWork u) := by
  unfold messageWork
  (try dsimp only)
  repeat' split
  all_goals repeat' first | (with_reducible first | exact h | assumption | exact none_canon | refine some_canon ?_ | exact noneP_canon | refine someP_canon ?_ | refine deliverMsg_canon ?_ _ | refine takeMsg_canon ?_ _) | split

theorem postedWork_canon {u : State} (h : Canon u)  : CanonOpt (postedWork u) := by
  unfold postedWork
  (try dsimp only)
  repeat' split
  all_goals repeat' first | (with_reducible first | exact h | assumption | exact none_canon | refine some_canon ?_ | exact noneP_canon | refine someP_canon ?_ | refine execHostPostedDeliver_canon ?_ | refine out_canon (execHostPostedDeliver_canon ?_) (by assumption) | refine due_canon ?_ _ _ ?_) | split

theorem invalWork_canon {u : State} (h : Canon u)  : CanonOpt (invalWork u) := by
  unfold invalWork
  (try dsimp only)
  repeat' split
  all_goals repeat' first | (with_reducible first | exact h | assumption | exact none_canon | refine some_canon ?_ | exact noneP_canon | refine someP_canon ?_ | refine execTlbInvalidateComplete_canon ?_ | refine out_canon (execTlbInvalidateComplete_canon ?_) (by assumption) | refine due_canon ?_ _ _ ?_) | split

theorem expiryWork_canon {u : State} (h : Canon u)  : CanonOpt (expiryWork u) := by
  unfold expiryWork
  (try dsimp only)
  repeat' split
  all_goals repeat' first | (with_reducible first | exact h | assumption | exact none_canon | refine some_canon ?_ | exact noneP_canon | refine someP_canon ?_ | refine expireOnce_canon ?_ | refine opt_canon (expireOnce_canon ?_) (by assumption)) | split

theorem scanWork_canon {u : State} (h : Canon u)  : CanonOpt (scanWork u) := by
  unfold scanWork
  (try dsimp only)
  repeat' split
  all_goals repeat' first | (with_reducible first | exact h | assumption | exact none_canon | refine some_canon ?_ | exact noneP_canon | refine someP_canon ?_ | refine execBackwardScan_canon ?_ | refine out_canon (execBackwardScan_canon ?_) (by assumption) | refine due_canon ?_ _ _ ?_) | split

theorem ringWork_canon {u : State} (h : Canon u)  : CanonOpt (ringWork u) := by
  unfold ringWork
  (try dsimp only)
  repeat' split
  all_goals repeat' first | (with_reducible first | exact h | assumption | exact none_canon | refine some_canon ?_ | exact noneP_canon | refine someP_canon ?_ | refine execRingAppend_canon ?_ _ _ | refine out_canon (execRingAppend_canon ?_ _ _) (by assumption) | refine due_canon ?_ _ _ ?_ | refine findSome_canon ?_ | intro _) | split

theorem teamReleaseWork_canon {u : State} (h : Canon u) (t : Nat) (x : Team) : CanonOpt (teamReleaseWork t x u) := by
  unfold teamReleaseWork
  (try dsimp only)
  repeat' split
  all_goals repeat' first | (with_reducible first | exact h | assumption | exact none_canon | refine some_canon ?_ | exact noneP_canon | refine someP_canon ?_ | refine execTeamRelease_canon ?_ _ | refine out_canon (execTeamRelease_canon ?_ _) (by assumption) | refine due_canon ?_ _ _ ?_) | split

theorem generatorWork_canon {u : State} (h : Canon u) (t : Nat) (x : Team) : CanonOpt (generatorWork t x u) := by
  unfold generatorWork
  (try dsimp only)
  repeat' split
  all_goals repeat' first | (with_reducible first | exact h | assumption | exact none_canon | refine some_canon ?_ | exact noneP_canon | refine someP_canon ?_ | refine serveRegister_canon ?_ _ | refine killTeam_canon ?_ _ _ _ | refine genCut_canon ?_ _) | split

theorem yieldWork_canon {u : State} (h : Canon u) (t : Nat) (x : Team) : CanonOpt (yieldWork t x u) := by
  unfold yieldWork
  (try dsimp only)
  repeat' split
  all_goals repeat' first | (with_reducible first | exact h | assumption | exact none_canon | refine some_canon ?_ | exact noneP_canon | refine someP_canon ?_ | refine finishYield_canon ?_ _) | split

theorem endWork_canon {u : State} (h : Canon u) (t : Nat) (x : Team) : CanonOpt (endWork t x u) := by
  unfold endWork
  (try dsimp only)
  repeat' split
  all_goals repeat' first | (with_reducible first | exact h | assumption | exact none_canon | refine some_canon ?_ | exact noneP_canon | refine someP_canon ?_ | refine execTeamEnd_canon ?_ _ | refine out_canon (execTeamEnd_canon ?_ _) (by assumption) | refine due_canon ?_ _ _ ?_) | split

theorem teamWork_canon {u : State} (h : Canon u)  : CanonOpt (teamWork u) := by
  unfold teamWork
  (try dsimp only)
  repeat' split
  all_goals repeat' first | (with_reducible first | exact h | assumption | exact none_canon | refine some_canon ?_ | exact noneP_canon | refine someP_canon ?_ | refine nextPush_canon ?_ _ | refine opt_canon (nextPush_canon ?_ _) (by assumption) | refine firstOf_canon _ ?_ | (refine List.forall_mem_cons.2 ⟨?_, ?_⟩) | exact List.forall_mem_nil _ | refine teamReleaseWork_canon ?_ _ _ | refine opt_canon (teamReleaseWork_canon ?_ _ _) (by assumption) | refine generatorWork_canon ?_ _ _ | refine opt_canon (generatorWork_canon ?_ _ _) (by assumption) | refine yieldWork_canon ?_ _ _ | refine opt_canon (yieldWork_canon ?_ _ _) (by assumption) | refine endWork_canon ?_ _ _ | refine opt_canon (endWork_canon ?_ _ _) (by assumption) | refine findSome_canon ?_ | intro _) | split

theorem bindWork_canon {u : State} (h : Canon u) (p : Nat) : CanonOpt (bindWork p u) := by
  unfold bindWork
  (try dsimp only)
  repeat' split
  all_goals repeat' first | (with_reducible first | exact h | assumption | exact none_canon | refine some_canon ?_ | exact noneP_canon | refine someP_canon ?_ | refine execTeamBind_canon ?_ _ _ | refine out_canon (execTeamBind_canon ?_ _ _) (by assumption) | refine execPreemptRequest_canon ?_ _ | refine out_canon (execPreemptRequest_canon ?_ _) (by assumption) | refine nextOf_canon ?_ _ ?_ | refine due_canon ?_ _ _ ?_) | split

theorem bindNext_canon {u : State} (h : Canon u)  : CanonOpt (bindNext u) := by
  unfold bindNext
  (try dsimp only)
  repeat' split
  all_goals repeat' first | (with_reducible first | exact h | assumption | exact none_canon | refine some_canon ?_ | exact noneP_canon | refine someP_canon ?_ | refine bindWork_canon ?_ _ | refine opt_canon (bindWork_canon ?_ _) (by assumption) | refine mapP_canon ?_ ?_ | intro _ _ | refine findSome_canon ?_ | intro _) | split

theorem schedWork_canon {u : State} (h : Canon u)  : CanonOpt (schedWork u) := by
  unfold schedWork
  (try dsimp only)
  repeat' split
  all_goals repeat' first | (with_reducible first | exact h | assumption | exact none_canon | refine some_canon ?_ | exact noneP_canon | refine someP_canon ?_ | refine bindNext_canon ?_ | refine opt_canon (bindNext_canon ?_) (by assumption) | refine modSched_canon ?_ _) | split

theorem swapWork_canon {u : State} (h : Canon u)  : CanonOpt (swapWork u) := by
  unfold swapWork
  (try dsimp only)
  repeat' split
  all_goals repeat' first | (with_reducible first | exact h | assumption | exact none_canon | refine some_canon ?_ | exact noneP_canon | refine someP_canon ?_ | refine execPartitionSwap_canon ?_ _ _ | refine out_canon (execPartitionSwap_canon ?_ _ _) (by assumption) | refine due_canon ?_ _ _ ?_) | split

theorem bellWork_canon {u : State} (h : Canon u)  : CanonOpt (bellWork u) := by
  unfold bellWork
  (try dsimp only)
  repeat' split
  all_goals repeat' first | (with_reducible first | exact h | assumption | exact none_canon | refine some_canon ?_ | exact noneP_canon | refine someP_canon ?_ | refine nextOf_canon ?_ _ ?_ | refine execDoorbellWrite_canon ?_ _ _ | refine out_canon (execDoorbellWrite_canon ?_ _ _) (by assumption)) | split

theorem eventWork_canon {u : State} (h : Canon u)  : CanonOpt (eventWork u) := by
  unfold eventWork
  (try dsimp only)
  repeat' split
  all_goals repeat' first | (with_reducible first | exact h | assumption | exact none_canon | refine some_canon ?_ | exact noneP_canon | refine someP_canon ?_ | refine execQueueEvent_canon ?_ _ | refine out_canon (execQueueEvent_canon ?_ _) (by assumption) | refine due_canon ?_ _ _ ?_) | split

theorem beginPacket_canon {u : State} (h : Canon u) (k : Nat) (p : Pkt) : Canon (beginPacket u k p) := by
  unfold beginPacket
  (try dsimp only)
  repeat' split
  all_goals repeat' first | (with_reducible first | exact h | assumption | refine nextOf_canon ?_ _ ?_ | refine execLaunch_canon ?_ _ | refine out_canon (execLaunch_canon ?_ _) (by assumption) | refine execWaitsig_canon ?_ _ | refine out_canon (execWaitsig_canon ?_ _) (by assumption) | refine execSignalStore_canon ?_ _ | refine out_canon (execSignalStore_canon ?_ _) (by assumption) | refine execSignalAdd_canon ?_ _ | refine out_canon (execSignalAdd_canon ?_ _) (by assumption) | refine execCopy_canon ?_ _ | refine out_canon (execCopy_canon ?_ _) (by assumption) | refine execRegionInsert_canon ?_ _ | refine out_canon (execRegionInsert_canon ?_ _) (by assumption) | refine execRegionUpdate_canon ?_ _ | refine out_canon (execRegionUpdate_canon ?_ _) (by assumption) | refine execRegionRemove_canon ?_ _ | refine out_canon (execRegionRemove_canon ?_ _) (by assumption) | refine execRegionKill_canon ?_ _ | refine out_canon (execRegionKill_canon ?_ _) (by assumption) | refine execGraph_canon ?_ _ | refine out_canon (execGraph_canon ?_ _) (by assumption)) | split

theorem packetWork_canon {u : State} (h : Canon u)  : CanonOpt (packetWork u) := by
  unfold packetWork
  (try dsimp only)
  repeat' split
  all_goals repeat' first | (with_reducible first | exact h | assumption | exact none_canon | refine some_canon ?_ | exact noneP_canon | refine someP_canon ?_ | refine execPacketComplete_canon ?_ _ | refine out_canon (execPacketComplete_canon ?_ _) (by assumption) | refine pollSignal_canon ?_ _ _ | refine execWaitsigTimeout_canon ?_ _ | refine out_canon (execWaitsigTimeout_canon ?_ _) (by assumption) | refine due_canon ?_ _ _ ?_ | refine beginPacket_canon ?_ _ _ | refine findSome_canon ?_ | intro _) | split

theorem irqWork_canon {u : State} (h : Canon u)  : CanonOpt (irqWork u) := by
  unfold irqWork
  (try dsimp only)
  repeat' split
  all_goals repeat' first | (with_reducible first | exact h | assumption | exact none_canon | refine some_canon ?_ | exact noneP_canon | refine someP_canon ?_ | refine execIrqSend_canon ?_ _ | refine out_canon (execIrqSend_canon ?_ _) (by assumption) | refine due_canon ?_ _ _ ?_ | refine findSome_canon ?_ | intro _) | split

theorem graphBeat_canon {u : State} (h : Canon u)  : Canon (graphBeat u) := by
  unfold graphBeat
  (try dsimp only)
  repeat' split
  all_goals repeat' first | (with_reducible first | exact h | assumption | refine graphStep_canon ?_ _ | refine foldl_canon ?_ _ _ ?_ | refine foldlP_canon ?_ _ _ ?_ | intro _ _ _) | split

theorem commandWork_canon {u : State} (h : Canon u)  : CanonOpt (commandWork u) := by
  unfold commandWork
  (try dsimp only)
  repeat' split
  all_goals repeat' first | (with_reducible first | exact h | assumption | exact none_canon | refine some_canon ?_ | exact noneP_canon | refine someP_canon ?_ | refine nextOf_canon ?_ _ ?_ | refine execAsidnew_canon ?_ | refine out_canon (execAsidnew_canon ?_) (by assumption) | refine execAsiddel_canon ?_ | refine out_canon (execAsiddel_canon ?_) (by assumption) | refine execMapPages_canon ?_ | refine out_canon (execMapPages_canon ?_) (by assumption) | refine execUnmapPages_canon ?_ | refine out_canon (execUnmapPages_canon ?_) (by assumption) | refine execQnew_canon ?_ | refine out_canon (execQnew_canon ?_) (by assumption) | refine execQctl_canon ?_ | refine out_canon (execQctl_canon ?_) (by assumption) | refine execDoorbell_canon ?_ | refine out_canon (execDoorbell_canon ?_) (by assumption) | refine execPart_canon ?_ | refine out_canon (execPart_canon ?_) (by assumption) | refine execAttest_canon ?_ | refine out_canon (execAttest_canon ?_) (by assumption) | refine due_canon ?_ _ _ ?_) | split

theorem faultWork_canon {u : State} (h : Canon u)  : CanonOpt (faultWork u) := by
  unfold faultWork
  (try dsimp only)
  repeat' split
  all_goals repeat' first | (with_reducible first | exact h | assumption | exact none_canon | refine some_canon ?_ | exact noneP_canon | refine someP_canon ?_ | refine serviced_canon ?_ _ | refine opt_canon (serviced_canon ?_ _) (by assumption) | refine answerFault_canon ?_ _ _) | split

theorem drainedWork_canon {u : State} (h : Canon u)  : CanonOpt (drainedWork u) := by
  unfold drainedWork
  (try dsimp only)
  repeat' split
  all_goals repeat' first | (with_reducible first | exact h | assumption | exact none_canon | refine some_canon ?_ | exact noneP_canon | refine someP_canon ?_ | refine execAsidDrained_canon ?_ _ | refine out_canon (execAsidDrained_canon ?_ _) (by assumption) | refine due_canon ?_ _ _ ?_ | refine findSome_canon ?_ | intro _) | split

theorem pavilionWork_canon {u : State} (h : Canon u)  : CanonOpt (pavilionWork u) := by
  unfold pavilionWork
  (try dsimp only)
  repeat' split
  all_goals repeat' first | (with_reducible first | exact h | assumption | exact none_canon | refine some_canon ?_ | exact noneP_canon | refine someP_canon ?_ | refine firstOf_canon _ ?_ | (refine List.forall_mem_cons.2 ⟨?_, ?_⟩) | exact List.forall_mem_nil _ | refine bellWork_canon ?_ | refine opt_canon (bellWork_canon ?_) (by assumption) | refine eventWork_canon ?_ | refine opt_canon (eventWork_canon ?_) (by assumption) | refine packetWork_canon ?_ | refine opt_canon (packetWork_canon ?_) (by assumption) | refine irqWork_canon ?_ | refine opt_canon (irqWork_canon ?_) (by assumption) | refine commandWork_canon ?_ | refine opt_canon (commandWork_canon ?_) (by assumption) | refine faultWork_canon ?_ | refine opt_canon (faultWork_canon ?_) (by assumption) | refine drainedWork_canon ?_ | refine opt_canon (drainedWork_canon ?_) (by assumption)) | split

theorem powerWork_canon {u : State} (h : Canon u)  : CanonOpt (powerWork u) := by
  unfold powerWork
  (try dsimp only)
  repeat' split
  all_goals repeat' first | (with_reducible first | exact h | assumption | exact none_canon | refine some_canon ?_ | exact noneP_canon | refine someP_canon ?_ | refine execPowerCommandDone_canon ?_ | refine out_canon (execPowerCommandDone_canon ?_) (by assumption) | refine due_canon ?_ _ _ ?_) | split

theorem bootWork_canon {u : State} (h : Canon u)  : CanonOpt (bootWork u) := by
  unfold bootWork
  (try dsimp only)
  repeat' split
  all_goals repeat' first | (with_reducible first | exact h | assumption | exact none_canon | refine some_canon ?_ | exact noneP_canon | refine someP_canon ?_ | refine bootStep_canon ?_) | split

theorem fullWork_canon {u : State} (h : Canon u)  : CanonOpt (fullWork u) := by
  unfold fullWork
  (try dsimp only)
  repeat' split
  all_goals repeat' first | (with_reducible first | exact h | assumption | exact none_canon | refine some_canon ?_ | exact noneP_canon | refine someP_canon ?_ | refine ownWork_canon ?_ _ | refine opt_canon (ownWork_canon ?_ _) (by assumption) | refine firstOf_canon _ ?_ | (refine List.forall_mem_cons.2 ⟨?_, ?_⟩) | exact List.forall_mem_nil _ | refine epiWork_canon ?_ _ | refine opt_canon (epiWork_canon ?_ _) (by assumption) | refine coreWork_canon ?_ _ | refine opt_canon (coreWork_canon ?_ _) (by assumption) | refine anyCore_canon _ _ ?_ | intro _ | refine postWork_canon ?_ | refine opt_canon (postWork_canon ?_) (by assumption) | refine messageWork_canon ?_ | refine opt_canon (messageWork_canon ?_) (by assumption) | refine postedWork_canon ?_ | refine opt_canon (postedWork_canon ?_) (by assumption) | refine invalWork_canon ?_ | refine opt_canon (invalWork_canon ?_) (by assumption) | refine expiryWork_canon ?_ | refine opt_canon (expiryWork_canon ?_) (by assumption) | refine scanWork_canon ?_ | refine opt_canon (scanWork_canon ?_) (by assumption) | refine ringWork_canon ?_ | refine opt_canon (ringWork_canon ?_) (by assumption) | refine teamWork_canon ?_ | refine opt_canon (teamWork_canon ?_) (by assumption) | refine schedWork_canon ?_ | refine opt_canon (schedWork_canon ?_) (by assumption) | refine swapWork_canon ?_ | refine opt_canon (swapWork_canon ?_) (by assumption) | refine pavilionWork_canon ?_ | refine opt_canon (pavilionWork_canon ?_) (by assumption) | refine powerWork_canon ?_ | refine opt_canon (powerWork_canon ?_) (by assumption) | refine bootWork_canon ?_ | refine opt_canon (bootWork_canon ?_) (by assumption)) | split

theorem drySteps_canon {u : State} (h : Canon u)  : CanonOpt (drySteps u) := by
  unfold drySteps
  (try dsimp only)
  repeat' split
  all_goals repeat' first | (with_reducible first | exact h | assumption | exact none_canon | refine some_canon ?_ | exact noneP_canon | refine someP_canon ?_ | refine ownWork_canon ?_ _ | refine opt_canon (ownWork_canon ?_ _) (by assumption) | refine firstOf_canon _ ?_ | (refine List.forall_mem_cons.2 ⟨?_, ?_⟩) | exact List.forall_mem_nil _ | refine epiWork_canon ?_ _ | refine opt_canon (epiWork_canon ?_ _) (by assumption) | refine anyCore_canon _ _ ?_ | intro _ | refine postWork_canon ?_ | refine opt_canon (postWork_canon ?_) (by assumption) | refine messageWork_canon ?_ | refine opt_canon (messageWork_canon ?_) (by assumption) | refine postedWork_canon ?_ | refine opt_canon (postedWork_canon ?_) (by assumption) | refine invalWork_canon ?_ | refine opt_canon (invalWork_canon ?_) (by assumption) | refine pavilionWork_canon ?_ | refine opt_canon (pavilionWork_canon ?_) (by assumption) | refine powerWork_canon ?_ | refine opt_canon (powerWork_canon ?_) (by assumption)) | split

theorem pickWork_canon {u : State} (h : Canon u)  : CanonOpt (pickWork u) := by
  unfold pickWork
  (try dsimp only)
  repeat' split
  all_goals repeat' first | (with_reducible first | exact h | assumption | exact none_canon | refine some_canon ?_ | exact noneP_canon | refine someP_canon ?_ | refine fullWork_canon ?_ | refine opt_canon (fullWork_canon ?_) (by assumption) | refine drySteps_canon ?_ | refine opt_canon (drySteps_canon ?_) (by assumption)) | split

theorem beatStep_canon {u : State} (h : Canon u) : Canon (beatStep u) := by
  unfold beatStep
  refine graphBeat_canon (foldl_canon (countTime_canon (nextBeat_canon (expire_canon (settleAll_canon h)))) _ _ fun v a k => ?_)
  split
  · exact modCore_canon k _ _
  · exact k

theorem settleFor_canon {u : State} (h : Canon u) (i : Instr) : Canon (settleFor i u) := by
  unfold settleFor
  (try dsimp only)
  repeat' split
  all_goals repeat' first | (with_reducible first | exact h | assumption | refine expire_canon ?_ | refine settleAll_canon ?_) | split

theorem runEvent_canon {u : State} (h : Canon u) (i : Instr) : Canon (runEvent u i) := by
  unfold runEvent
  (try dsimp only)
  repeat' split
  all_goals repeat' first | (with_reducible first | exact h | assumption | refine run_canon ?_ _ | refine settleFor_canon ?_ _) | split

theorem runMove_canon {u : State} (h : Canon u) (z0 : Move) : Canon (runMove u z0) := by
  unfold runMove
  (try dsimp only)
  repeat' split
  all_goals repeat' first | (with_reducible first | exact h | assumption | refine dieEvict_canon ?_ _ _ | refine evictWay_canon ?_ _ _ | refine evictL1_canon ?_ _ _ | refine performAt_canon ?_ _ _ | refine drainLater_canon ?_ _ _ | refine setDraw_canon ?_ _ _ | refine hostReads_canon ?_ _ | refine boundary_canon ?_ _ | refine opt_canon (boundary_canon ?_ _) (by assumption) | refine settleAll_canon ?_ | refine beatStep_canon ?_ | refine runEvent_canon ?_ _ | refine modEdge_canon ?_ _ _ | refine modPav_canon ?_ _ | refine modPower_canon ?_ _ | refine getD_canon ?_ ?_) | split

theorem runFree_canon {u : State} (h : Canon u) : Canon (runFree u) := by
  unfold runFree
  split
  · exact pickWork_canon h _ (by assumption)
  · split
    · exact anyCore_canon _ _ (fun c => boundary_canon h c) _ (by assumption)
    · exact beatStep_canon h

end Sys2Proof.Machine
end

