-- ==== Sys2Proof/Laws/Coherence.lean ====
section
/-! SUPPORT. The caches below the cores and the directory change nothing but the memory system, and keep memory in its
canonical form. -/

set_option linter.unreachableTactic false
set_option linter.unusedTactic false

namespace Sys2Proof.Machine
open Sys2Proof

/-- t differs from s in the memory system alone, and memory keeps its canonical form. -/
def SysOnly (s t : State) : Prop := { t with sys := s.sys } = s ∧ (Memory.wf s.sys.mem → Memory.wf t.sys.mem)

theorem SysOnly.refl (s : State) : SysOnly s s := ⟨rfl, id⟩
theorem SysOnly.trans {s t u : State} (h : SysOnly s t) (k : SysOnly t u) : SysOnly s u := by
  refine ⟨?_, fun w => k.2 (h.2 w)⟩
  have h1 := h.1; have k1 := k.1
  rw [← h1, ← k1]
theorem modSys_sysOnly {s u : State} (h : SysOnly s u) (f : MemSys → MemSys)
    (hf : Memory.wf u.sys.mem → Memory.wf (f u.sys).mem) : SysOnly s (modSys u f) :=
  h.trans ⟨rfl, hf⟩
theorem foldl_sysOnly {α : Type} {s u : State} (h : SysOnly s u) (f : State → α → State) (l : List α)
    (hf : ∀ v a, SysOnly s v → SysOnly s (f v a)) : SysOnly s (l.foldl f u) := by
  induction l generalizing u with
  | nil => exact h
  | cons a t ih => exact ih (hf u a h)
theorem homeMerge_sysOnly {s u : State} (h : SysOnly s u) (line : Nat) (data : LineData) (mask : LineMask) :
    SysOnly s (homeMerge u line data mask) := modSys_sysOnly h _ (Memory.wf_memMerge _ _ _ _ _)

theorem countDie_sysOnly {s u : State} (h : SysOnly s u) (die reg : Nat) : SysOnly s (countDie u die reg) := by
  unfold countDie
  (try dsimp only)
  repeat' split
  all_goals repeat' first | with_reducible exact h | with_reducible assumption | exact (fun (w : Memory.wf _) => w) | with_reducible refine modSys_sysOnly ?_ _ ?_ | split

theorem setL2_sysOnly {s u : State} (h : SysOnly s u) (agent : Nat) (xs : List L2Line) : SysOnly s (setL2 u agent xs) := by
  unfold setL2
  (try dsimp only)
  repeat' split
  all_goals repeat' first | with_reducible exact h | with_reducible assumption | exact (fun (w : Memory.wf _) => w) | with_reducible refine modSys_sysOnly ?_ _ ?_ | split

theorem l2Drop_sysOnly {s u : State} (h : SysOnly s u) (agent line : Nat) : SysOnly s (l2Drop u agent line) := by
  unfold l2Drop
  (try dsimp only)
  repeat' split
  all_goals repeat' first | with_reducible exact h | with_reducible assumption | exact (fun (w : Memory.wf _) => w) | with_reducible refine setL2_sysOnly ?_ _ _ | split

theorem setDir_sysOnly {s u : State} (h : SysOnly s u) (line : Nat) (e : DirEntry) : SysOnly s (setDir u line e) := by
  unfold setDir
  (try dsimp only)
  repeat' split
  all_goals repeat' first | with_reducible exact h | with_reducible assumption | exact (fun (w : Memory.wf _) => w) | with_reducible refine modSys_sysOnly ?_ _ ?_ | split

theorem freeDir_sysOnly {s u : State} (h : SysOnly s u) (line : Nat) : SysOnly s (freeDir u line) := by
  unfold freeDir
  (try dsimp only)
  repeat' split
  all_goals repeat' first | with_reducible exact h | with_reducible assumption | exact (fun (w : Memory.wf _) => w) | with_reducible refine modSys_sysOnly ?_ _ ?_ | split

theorem sendMsg_sysOnly {s u : State} (h : SysOnly s u) (i : DirMsg) : SysOnly s (sendMsg u i) := by
  unfold sendMsg
  (try dsimp only)
  repeat' split
  all_goals repeat' first | with_reducible exact h | with_reducible assumption | exact (fun (w : Memory.wf _) => w) | with_reducible refine modSys_sysOnly ?_ _ ?_ | split

theorem sendMsgs_sysOnly {s u : State} (h : SysOnly s u) (l : List DirMsg) : SysOnly s (sendMsgs u l) := by
  unfold sendMsgs
  (try dsimp only)
  repeat' split
  all_goals repeat' first | with_reducible exact h | with_reducible assumption | exact (fun (w : Memory.wf _) => w) | with_reducible refine modSys_sysOnly ?_ _ ?_ | split

theorem l2Out_sysOnly {s u : State} (h : SysOnly s u) (agent : Nat) (x : L2Line) : SysOnly s (l2Out u agent x) := by
  unfold l2Out
  (try dsimp only)
  repeat' split
  all_goals repeat' first | with_reducible exact h | with_reducible assumption | exact (fun (w : Memory.wf _) => w) | with_reducible refine homeMerge_sysOnly ?_ _ _ _ | with_reducible refine l2Drop_sysOnly ?_ _ _ | with_reducible refine sendMsg_sysOnly ?_ _ | split

theorem l2Put_sysOnly {s u : State} (h : SysOnly s u) (agent : Nat) (x : L2Line) : SysOnly s (l2Put u agent x) := by
  unfold l2Put
  (try dsimp only)
  repeat' split
  all_goals repeat' first | with_reducible exact h | with_reducible assumption | exact (fun (w : Memory.wf _) => w) | with_reducible refine setL2_sysOnly ?_ _ _ | with_reducible refine l2Out_sysOnly ?_ _ _ | split

theorem trimL2_sysOnly {s u : State} (h : SysOnly s u) (die : Nat) : SysOnly s (trimL2 u die) := by
  unfold trimL2
  (try dsimp only)
  repeat' split
  all_goals repeat' first | with_reducible exact h | with_reducible assumption | exact (fun (w : Memory.wf _) => w) | with_reducible refine l2Out_sysOnly ?_ _ _ | with_reducible refine foldl_sysOnly ?_ _ _ ?_ | intro _ _ _ | intro _ _ | split

theorem wake_sysOnly {s u : State} (h : SysOnly s u) (line : Nat) (q : List DirReq) : SysOnly s (wake u line q) := by
  unfold wake
  (try dsimp only)
  repeat' split
  all_goals repeat' first | with_reducible exact h | with_reducible assumption | exact (fun (w : Memory.wf _) => w) | with_reducible refine modSys_sysOnly ?_ _ ?_ | split

theorem stable_sysOnly {s u : State} (h : SysOnly s u) (line : Nat) (e : DirEntry) (st : DirState) (sharers : BitVec 5) : SysOnly s (stable u line e st sharers) := by
  unfold stable
  (try dsimp only)
  repeat' split
  all_goals repeat' first | with_reducible exact h | with_reducible assumption | exact (fun (w : Memory.wf _) => w) | with_reducible refine setDir_sysOnly ?_ _ _ | with_reducible refine wake_sysOnly ?_ _ _ | split

theorem toU_sysOnly {s u : State} (h : SysOnly s u) (line : Nat) (e : DirEntry) : SysOnly s (toU u line e) := by
  unfold toU
  (try dsimp only)
  repeat' split
  all_goals repeat' first | with_reducible exact h | with_reducible assumption | exact (fun (w : Memory.wf _) => w) | with_reducible refine freeDir_sysOnly ?_ _ | with_reducible refine wake_sysOnly ?_ _ _ | split

theorem installCopy_sysOnly {s u : State} (h : SysOnly s u) (line die : Nat) (excl : Bool) : SysOnly s (installCopy u line die excl) := by
  unfold installCopy
  (try dsimp only)
  repeat' split
  all_goals repeat' first | with_reducible exact h | with_reducible assumption | exact (fun (w : Memory.wf _) => w) | with_reducible refine l2Put_sysOnly ?_ _ _ | split

theorem grantCopy_sysOnly {s u : State} (h : SysOnly s u) (line die : Nat) : SysOnly s (grantCopy u line die) := by
  unfold grantCopy
  (try dsimp only)
  repeat' split
  all_goals repeat' first | with_reducible exact h | with_reducible assumption | exact (fun (w : Memory.wf _) => w) | with_reducible refine l2Put_sysOnly ?_ _ _ | with_reducible refine installCopy_sysOnly ?_ _ _ _ | split

theorem enqueue_sysOnly {s u : State} (h : SysOnly s u) (line : Nat) (e : DirEntry) (r : DirReq) : SysOnly s (enqueue u line e r) := by
  unfold enqueue
  (try dsimp only)
  repeat' split
  all_goals repeat' first | with_reducible exact h | with_reducible assumption | exact (fun (w : Memory.wf _) => w) | with_reducible refine setDir_sysOnly ?_ _ _ | split

theorem hostNext_sysOnly {s u : State} (h : SysOnly s u)  : SysOnly s (hostNext u) := by
  unfold hostNext
  (try dsimp only)
  repeat' split
  all_goals repeat' first | with_reducible exact h | with_reducible assumption | exact (fun (w : Memory.wf _) => w) | with_reducible refine sendMsg_sysOnly ?_ _ | with_reducible refine modSys_sysOnly ?_ _ ?_ | split

theorem wrote_sysOnly {s u : State} (h : SysOnly s u) (r : DirReq) : SysOnly s (wrote u r) := by
  unfold wrote
  (try dsimp only)
  repeat' split
  all_goals repeat' first | with_reducible exact h | with_reducible assumption | exact (fun (w : Memory.wf _) => w) | with_reducible refine hostNext_sysOnly ?_ | split

theorem hostGets_sysOnly {s u : State} (h : SysOnly s u) (line : Nat) (d : LineData) : SysOnly s (hostGets u line d) := by
  unfold hostGets
  (try dsimp only)
  repeat' split
  all_goals repeat' first | with_reducible exact h | with_reducible assumption | exact (fun (w : Memory.wf _) => w) | with_reducible refine modSys_sysOnly ?_ _ ?_ | split

theorem finishSx_sysOnly {s u : State} (h : SysOnly s u) (line : Nat) (e : DirEntry) (r : DirReq) : SysOnly s (finishSx u line e r) := by
  unfold finishSx
  (try dsimp only)
  repeat' split
  all_goals repeat' first | with_reducible exact h | with_reducible assumption | exact (fun (w : Memory.wf _) => w) | with_reducible refine homeMerge_sysOnly ?_ _ _ _ | with_reducible refine setDir_sysOnly ?_ _ _ | with_reducible refine sendMsg_sysOnly ?_ _ | with_reducible refine toU_sysOnly ?_ _ _ | with_reducible refine installCopy_sysOnly ?_ _ _ _ | with_reducible refine grantCopy_sysOnly ?_ _ _ | with_reducible refine hostNext_sysOnly ?_ | split

theorem invalidate_sysOnly {s u : State} (h : SysOnly s u) (line : Nat) (e : DirEntry) (who : List Nat) (r : DirReq) : SysOnly s (invalidate u line e who r) := by
  unfold invalidate
  (try dsimp only)
  repeat' split
  all_goals repeat' first | with_reducible exact h | with_reducible assumption | exact (fun (w : Memory.wf _) => w) | with_reducible refine setDir_sysOnly ?_ _ _ | with_reducible refine sendMsgs_sysOnly ?_ _ | with_reducible refine finishSx_sysOnly ?_ _ _ _ | split

theorem evictVictim_sysOnly {s u : State} (h : SysOnly s u) (line : Nat) (e : DirEntry) : SysOnly s (evictVictim u line e) := by
  unfold evictVictim
  (try dsimp only)
  repeat' split
  all_goals repeat' first | with_reducible exact h | with_reducible assumption | exact (fun (w : Memory.wf _) => w) | with_reducible refine countDie_sysOnly ?_ _ _ | with_reducible refine setDir_sysOnly ?_ _ _ | with_reducible refine sendMsg_sysOnly ?_ _ | with_reducible refine invalidate_sysOnly ?_ _ _ _ _ | split

theorem waitForWay_sysOnly {s u : State} (h : SysOnly s u) (i : DirMsg) (line : Nat) : SysOnly s (waitForWay u i line) := by
  unfold waitForWay
  (try dsimp only)
  repeat' split
  all_goals repeat' first | with_reducible exact h | with_reducible assumption | exact (fun (w : Memory.wf _) => w) | with_reducible refine countDie_sysOnly ?_ _ _ | with_reducible refine evictVictim_sysOnly ?_ _ _ | with_reducible refine modSys_sysOnly ?_ _ ?_ | split

theorem dirRds_sysOnly {s u : State} (h : SysOnly s u) (line die : Nat) : SysOnly s (dirRds u line die) := by
  unfold dirRds
  (try dsimp only)
  repeat' split
  all_goals repeat' first | with_reducible exact h | with_reducible assumption | exact (fun (w : Memory.wf _) => w) | with_reducible refine setDir_sysOnly ?_ _ _ | with_reducible refine sendMsg_sysOnly ?_ _ | with_reducible refine installCopy_sysOnly ?_ _ _ _ | with_reducible refine enqueue_sysOnly ?_ _ _ _ | with_reducible refine waitForWay_sysOnly ?_ _ _ | split

theorem dirRdx_sysOnly {s u : State} (h : SysOnly s u) (line die : Nat) : SysOnly s (dirRdx u line die) := by
  unfold dirRdx
  (try dsimp only)
  repeat' split
  all_goals repeat' first | with_reducible exact h | with_reducible assumption | exact (fun (w : Memory.wf _) => w) | with_reducible refine setDir_sysOnly ?_ _ _ | with_reducible refine sendMsg_sysOnly ?_ _ | with_reducible refine installCopy_sysOnly ?_ _ _ _ | with_reducible refine enqueue_sysOnly ?_ _ _ _ | with_reducible refine invalidate_sysOnly ?_ _ _ _ _ | with_reducible refine waitForWay_sysOnly ?_ _ _ | split

theorem dirUpg_sysOnly {s u : State} (h : SysOnly s u) (line die : Nat) : SysOnly s (dirUpg u line die) := by
  unfold dirUpg
  (try dsimp only)
  repeat' split
  all_goals repeat' first | with_reducible exact h | with_reducible assumption | exact (fun (w : Memory.wf _) => w) | with_reducible refine enqueue_sysOnly ?_ _ _ _ | with_reducible refine invalidate_sysOnly ?_ _ _ _ _ | with_reducible refine dirRdx_sysOnly ?_ _ _ | split

theorem dirAck_sysOnly {s u : State} (h : SysOnly s u) (line die : Nat) : SysOnly s (dirAck u line die) := by
  unfold dirAck
  (try dsimp only)
  repeat' split
  all_goals repeat' first | with_reducible exact h | with_reducible assumption | exact (fun (w : Memory.wf _) => w) | with_reducible refine stable_sysOnly ?_ _ _ _ _ | split

theorem dirInv_sysOnly {s u : State} (h : SysOnly s u) (line die : Nat) : SysOnly s (dirInv u line die) := by
  unfold dirInv
  (try dsimp only)
  repeat' split
  all_goals repeat' first | with_reducible exact h | with_reducible assumption | exact (fun (w : Memory.wf _) => w) | with_reducible refine l2Drop_sysOnly ?_ _ _ | with_reducible refine sendMsg_sysOnly ?_ _ | split

theorem dirInvAck_sysOnly {s u : State} (h : SysOnly s u) (line die : Nat) : SysOnly s (dirInvAck u line die) := by
  unfold dirInvAck
  (try dsimp only)
  repeat' split
  all_goals repeat' first | with_reducible exact h | with_reducible assumption | exact (fun (w : Memory.wf _) => w) | with_reducible refine setDir_sysOnly ?_ _ _ | with_reducible refine finishSx_sysOnly ?_ _ _ _ | split

theorem ownerShares_sysOnly {s u : State} (h : SysOnly s u) (line die : Nat) : SysOnly s (ownerShares u line die).1 := by
  unfold ownerShares
  (try dsimp only)
  repeat' split
  all_goals repeat' first | with_reducible exact h | with_reducible assumption | exact (fun (w : Memory.wf _) => w) | with_reducible refine l2Put_sysOnly ?_ _ _ | split

theorem ownerShares_sysOnly_eq {s u v : State} (h : SysOnly s u) {line die : Nat} {x} (e : ownerShares u line die = (v, x)) : SysOnly s v := by
  have := ownerShares_sysOnly h line die
  rwa [e] at this

theorem dirRcls_sysOnly {s u : State} (h : SysOnly s u) (line die : Nat) : SysOnly s (dirRcls u line die) := by
  unfold dirRcls
  (try dsimp only)
  repeat' split
  all_goals repeat' first | with_reducible exact h | with_reducible assumption | exact (fun (w : Memory.wf _) => w) | with_reducible refine sendMsg_sysOnly ?_ _ | with_reducible refine ownerShares_sysOnly ?_ _ _ | with_reducible refine ownerShares_sysOnly_eq ?_ (by assumption) | split

theorem dirFwdio_sysOnly {s u : State} (h : SysOnly s u) (line die : Nat) : SysOnly s (dirFwdio u line die) := by
  unfold dirFwdio
  (try dsimp only)
  repeat' split
  all_goals repeat' first | with_reducible exact h | with_reducible assumption | exact (fun (w : Memory.wf _) => w) | with_reducible refine sendMsg_sysOnly ?_ _ | with_reducible refine hostGets_sysOnly ?_ _ _ | with_reducible refine ownerShares_sysOnly ?_ _ _ | with_reducible refine ownerShares_sysOnly_eq ?_ (by assumption) | split

theorem dirRcli_sysOnly {s u : State} (h : SysOnly s u) (line die : Nat) : SysOnly s (dirRcli u line die) := by
  unfold dirRcli
  (try dsimp only)
  repeat' split
  all_goals repeat' first | with_reducible exact h | with_reducible assumption | exact (fun (w : Memory.wf _) => w) | with_reducible refine l2Drop_sysOnly ?_ _ _ | with_reducible refine sendMsg_sysOnly ?_ _ | split

theorem dirRclAck_sysOnly {s u : State} (h : SysOnly s u) (line die : Nat) (h : Bool) (data : LineData) (mask : LineMask) : SysOnly s (dirRclAck u line die h data mask) := by
  unfold dirRclAck
  (try dsimp only)
  repeat' split
  all_goals repeat' first | with_reducible exact h | with_reducible assumption | exact (fun (w : Memory.wf _) => w) | with_reducible refine homeMerge_sysOnly ?_ _ _ _ | with_reducible refine setDir_sysOnly ?_ _ _ | with_reducible refine sendMsg_sysOnly ?_ _ | with_reducible refine stable_sysOnly ?_ _ _ _ _ | with_reducible refine toU_sysOnly ?_ _ _ | with_reducible refine installCopy_sysOnly ?_ _ _ _ | with_reducible refine hostGets_sysOnly ?_ _ _ | with_reducible refine finishSx_sysOnly ?_ _ _ _ | split

theorem dirWbx_sysOnly {s u : State} (h : SysOnly s u) (line die : Nat) (data : LineData) (mask : LineMask) : SysOnly s (dirWbx u line die data mask) := by
  unfold dirWbx
  (try dsimp only)
  repeat' split
  all_goals repeat' first | with_reducible exact h | with_reducible assumption | exact (fun (w : Memory.wf _) => w) | with_reducible refine homeMerge_sysOnly ?_ _ _ _ | with_reducible refine l2Drop_sysOnly ?_ _ _ | with_reducible refine setDir_sysOnly ?_ _ _ | with_reducible refine toU_sysOnly ?_ _ _ | split

theorem dirEvs_sysOnly {s u : State} (h : SysOnly s u) (line die : Nat) : SysOnly s (dirEvs u line die) := by
  unfold dirEvs
  (try dsimp only)
  repeat' split
  all_goals repeat' first | with_reducible exact h | with_reducible assumption | exact (fun (w : Memory.wf _) => w) | with_reducible refine l2Drop_sysOnly ?_ _ _ | with_reducible refine setDir_sysOnly ?_ _ _ | with_reducible refine toU_sysOnly ?_ _ _ | split

theorem dirRdio_sysOnly {s u : State} (h : SysOnly s u) (line : Nat) : SysOnly s (dirRdio u line) := by
  unfold dirRdio
  (try dsimp only)
  repeat' split
  all_goals repeat' first | with_reducible exact h | with_reducible assumption | exact (fun (w : Memory.wf _) => w) | with_reducible refine setDir_sysOnly ?_ _ _ | with_reducible refine sendMsg_sysOnly ?_ _ | with_reducible refine enqueue_sysOnly ?_ _ _ _ | with_reducible refine hostGets_sysOnly ?_ _ _ | split

theorem dirWrite_sysOnly {s u : State} (h : SysOnly s u) (line : Nat) (data : LineData) (mask : LineMask) (r : DirReq) : SysOnly s (dirWrite u line data mask r) := by
  unfold dirWrite
  (try dsimp only)
  repeat' split
  all_goals repeat' first | with_reducible exact h | with_reducible assumption | exact (fun (w : Memory.wf _) => w) | with_reducible refine homeMerge_sysOnly ?_ _ _ _ | with_reducible refine setDir_sysOnly ?_ _ _ | with_reducible refine sendMsg_sysOnly ?_ _ | with_reducible refine enqueue_sysOnly ?_ _ _ _ | with_reducible refine wrote_sysOnly ?_ _ | with_reducible refine invalidate_sysOnly ?_ _ _ _ _ | split

theorem deliverMsg_sysOnly {s u : State} (h : SysOnly s u) (m : DirMsg) : SysOnly s (deliverMsg u m) := by
  cases m <;> unfold deliverMsg <;> with_reducible first
    | exact dirRds_sysOnly h _ _ | exact dirRdx_sysOnly h _ _ | exact dirUpg_sysOnly h _ _ | exact dirAck_sysOnly h _ _
    | exact dirInv_sysOnly h _ _ | exact dirInvAck_sysOnly h _ _ | exact dirRcls_sysOnly h _ _ | exact dirRcli_sysOnly h _ _
    | exact dirFwdio_sysOnly h _ _ | exact dirRclAck_sysOnly h _ _ _ _ _ | exact dirWbx_sysOnly h _ _ _ _
    | exact dirEvs_sysOnly h _ _ | exact dirRdio_sysOnly h _ | exact dirWrite_sysOnly h _ _ _ _

theorem takeMsg_sysOnly {s u : State} (h : SysOnly s u) (m : DirMsg) : SysOnly s (takeMsg u m) := by
  unfold takeMsg
  (try dsimp only)
  repeat' split
  all_goals repeat' first | with_reducible exact h | with_reducible assumption | exact (fun (w : Memory.wf _) => w) | with_reducible refine modSys_sysOnly ?_ _ ?_ | split

theorem hostAsks_sysOnly {s u : State} (h : SysOnly s u) (m : DirMsg) : SysOnly s (hostAsks u m) := by
  unfold hostAsks
  (try dsimp only)
  repeat' split
  all_goals repeat' first | with_reducible exact h | with_reducible assumption | exact (fun (w : Memory.wf _) => w) | with_reducible refine sendMsg_sysOnly ?_ _ | with_reducible refine deliverMsg_sysOnly ?_ _ | split

theorem hostWrite_sysOnly {s u : State} (h : SysOnly s u) (line : Nat) (data : LineData) (mask : LineMask) : SysOnly s (hostWrite u line data mask) := by
  unfold hostWrite
  (try dsimp only)
  repeat' split
  all_goals repeat' first | with_reducible exact h | with_reducible assumption | exact (fun (w : Memory.wf _) => w) | with_reducible refine hostAsks_sysOnly ?_ _ | with_reducible refine modSys_sysOnly ?_ _ ?_ | split

theorem runMsgs_sysOnly {s u : State} (h : SysOnly s u) (n : Nat) : SysOnly s (runMsgs n u) := by
  induction n generalizing u with
  | zero => exact h
  | succ n ih =>
    unfold runMsgs
    split
    · exact h
    · exact ih (deliverMsg_sysOnly (modSys_sysOnly h _ id) _)

theorem settle_sysOnly {s u : State} (h : SysOnly s u) : SysOnly s (settle u) := runMsgs_sysOnly h _

theorem homeFetch_sysOnly {s u : State} (h : SysOnly s u) (line : Nat) : SysOnly s (homeFetch u line) := by
  unfold homeFetch
  (try dsimp only)
  repeat' split
  all_goals repeat' first | with_reducible exact h | with_reducible assumption | exact (fun (w : Memory.wf _) => w) | with_reducible refine setDir_sysOnly ?_ _ _ | with_reducible refine sendMsg_sysOnly ?_ _ | with_reducible refine settle_sysOnly ?_ | split

theorem homeWrite_sysOnly {s u : State} (h : SysOnly s u) (line : Nat) (data : LineData) (mask : LineMask) : SysOnly s (homeWrite u line data mask) := by
  unfold homeWrite
  (try dsimp only)
  repeat' split
  all_goals repeat' first | with_reducible exact h | with_reducible assumption | exact (fun (w : Memory.wf _) => w) | with_reducible refine dirWrite_sysOnly ?_ _ _ _ _ | with_reducible refine settle_sysOnly ?_ | split

theorem sliceRead_sysOnly {s u : State} (h : SysOnly s u) (line : Nat) (nc : Bool) : SysOnly s (sliceRead u line nc).1 := by
  unfold sliceRead
  (try dsimp only)
  repeat' split
  all_goals repeat' first | with_reducible exact h | with_reducible assumption | exact (fun (w : Memory.wf _) => w) | with_reducible refine homeFetch_sysOnly ?_ _ | split

theorem sliceRead_sysOnly_eq {s u v : State} (h : SysOnly s u) {line : Nat} {nc : Bool} {x} (e : sliceRead u line nc = (v, x)) : SysOnly s v := by
  have := sliceRead_sysOnly h line nc
  rwa [e] at this

theorem sliceWrite_sysOnly {s u : State} (h : SysOnly s u) (line : Nat) (data : LineData) (mask : LineMask) (nc : Bool) : SysOnly s (sliceWrite u line data mask nc) := by
  unfold sliceWrite
  (try dsimp only)
  repeat' split
  all_goals repeat' first | with_reducible exact h | with_reducible assumption | exact (fun (w : Memory.wf _) => w) | with_reducible refine homeMerge_sysOnly ?_ _ _ _ | with_reducible refine homeWrite_sysOnly ?_ _ _ _ | split

theorem coherentRead_sysOnly {s u : State} (h : SysOnly s u) (pa n : Nat) : SysOnly s (coherentRead u pa n).1 := by
  unfold coherentRead
  (try dsimp only)
  repeat' split
  all_goals repeat' first | with_reducible exact h | with_reducible assumption | exact (fun (w : Memory.wf _) => w) | with_reducible refine homeFetch_sysOnly ?_ _ | split

theorem coherentRead_sysOnly_eq {s u v : State} (h : SysOnly s u) {pa n : Nat} {x} (e : coherentRead u pa n = (v, x)) : SysOnly s v := by
  have := coherentRead_sysOnly h pa n
  rwa [e] at this

theorem dieRead_sysOnly {s u : State} (h : SysOnly s u) (die line : Nat) (nc : Bool) : SysOnly s (dieRead u die line nc).1 := by
  unfold dieRead
  (try dsimp only)
  repeat' split
  all_goals repeat' first | with_reducible exact h | with_reducible assumption | exact (fun (w : Memory.wf _) => w) | with_reducible refine sendMsg_sysOnly ?_ _ | with_reducible refine l2Put_sysOnly ?_ _ _ | with_reducible refine settle_sysOnly ?_ | with_reducible refine sliceRead_sysOnly ?_ _ _ | with_reducible refine sliceRead_sysOnly_eq ?_ (by assumption) | split

theorem dieRead_sysOnly_eq {s u v : State} (h : SysOnly s u) {die line : Nat} {nc : Bool} {x} (e : dieRead u die line nc = (v, x)) : SysOnly s v := by
  have := dieRead_sysOnly h die line nc
  rwa [e] at this

theorem dieWrite_sysOnly {s u : State} (h : SysOnly s u) (die line : Nat) (data : LineData) (mask : LineMask) (nc : Bool) : SysOnly s (dieWrite u die line data mask nc) := by
  unfold dieWrite
  (try dsimp only)
  repeat' split
  all_goals repeat' first | with_reducible exact h | with_reducible assumption | exact (fun (w : Memory.wf _) => w) | with_reducible refine homeMerge_sysOnly ?_ _ _ _ | with_reducible refine sendMsg_sysOnly ?_ _ | with_reducible refine l2Put_sysOnly ?_ _ _ | with_reducible refine settle_sysOnly ?_ | with_reducible refine sliceWrite_sysOnly ?_ _ _ _ _ | with_reducible refine dieRead_sysOnly ?_ _ _ _ | with_reducible refine dieRead_sysOnly_eq ?_ (by assumption) | split

theorem dieEvict_sysOnly {s u : State} (h : SysOnly s u) (die line : Nat) : SysOnly s (dieEvict u die line) := by
  unfold dieEvict
  (try dsimp only)
  repeat' split
  all_goals repeat' first | with_reducible exact h | with_reducible assumption | exact (fun (w : Memory.wf _) => w) | with_reducible refine l2Out_sysOnly ?_ _ _ | with_reducible refine settle_sysOnly ?_ | split

theorem ncWriteBack_sysOnly {s u : State} (h : SysOnly s u) (die : Nat) : SysOnly s (ncWriteBack u die) := by
  unfold ncWriteBack
  (try dsimp only)
  repeat' split
  all_goals repeat' first | with_reducible exact h | with_reducible assumption | exact (fun (w : Memory.wf _) => w) | with_reducible refine homeMerge_sysOnly ?_ _ _ _ | with_reducible refine setL2_sysOnly ?_ _ _ | with_reducible refine foldl_sysOnly ?_ _ _ ?_ | intro _ _ _ | intro _ _ | split

theorem ncDrop_sysOnly {s u : State} (h : SysOnly s u) (die : Nat) : SysOnly s (ncDrop u die) := by
  unfold ncDrop
  (try dsimp only)
  repeat' split
  all_goals repeat' first | with_reducible exact h | with_reducible assumption | exact (fun (w : Memory.wf _) => w) | with_reducible refine setL2_sysOnly ?_ _ _ | split

theorem ncFlush_sysOnly {s u : State} (h : SysOnly s u) (die line : Nat) : SysOnly s (ncFlush u die line) := by
  unfold ncFlush
  (try dsimp only)
  repeat' split
  all_goals repeat' first | with_reducible exact h | with_reducible assumption | exact (fun (w : Memory.wf _) => w) | with_reducible refine l2Out_sysOnly ?_ _ _ | split

theorem setWays_sysOnly {s u : State} (h : SysOnly s u) (g : Nat) (xs : List CLine) : SysOnly s (setWays u g xs) := by
  unfold setWays
  (try dsimp only)
  repeat' split
  all_goals repeat' first | with_reducible exact h | with_reducible assumption | exact (fun (w : Memory.wf _) => w) | with_reducible refine modSys_sysOnly ?_ _ ?_ | split

theorem evictWay_sysOnly {s u : State} (h : SysOnly s u) (g line : Nat) : SysOnly s (evictWay u g line) := by
  unfold evictWay
  (try dsimp only)
  repeat' split
  all_goals repeat' first | with_reducible exact h | with_reducible assumption | exact (fun (w : Memory.wf _) => w) | with_reducible refine dieWrite_sysOnly ?_ _ _ _ _ _ | with_reducible refine setWays_sysOnly ?_ _ _ | split

theorem putWay_sysOnly {s u : State} (h : SysOnly s u) (g : Nat) (x : CLine) : SysOnly s (putWay u g x) := by
  unfold putWay
  (try dsimp only)
  repeat' split
  all_goals repeat' first | with_reducible exact h | with_reducible assumption | exact (fun (w : Memory.wf _) => w) | with_reducible refine setWays_sysOnly ?_ _ _ | with_reducible refine evictWay_sysOnly ?_ _ _ | split

theorem wayRead_sysOnly {s u : State} (h : SysOnly s u) (g line : Nat) (nc : Bool) : SysOnly s (wayRead u g line nc).1 := by
  unfold wayRead
  (try dsimp only)
  repeat' split
  all_goals repeat' first | with_reducible exact h | with_reducible assumption | exact (fun (w : Memory.wf _) => w) | with_reducible refine dieRead_sysOnly ?_ _ _ _ | with_reducible refine dieRead_sysOnly_eq ?_ (by assumption) | with_reducible refine setWays_sysOnly ?_ _ _ | with_reducible refine putWay_sysOnly ?_ _ _ | split

theorem wayRead_sysOnly_eq {s u v : State} (h : SysOnly s u) {g line : Nat} {nc : Bool} {x} (e : wayRead u g line nc = (v, x)) : SysOnly s v := by
  have := wayRead_sysOnly h g line nc
  rwa [e] at this

theorem wayWrite_sysOnly {s u : State} (h : SysOnly s u) (g line : Nat) (data : LineData) (mask : LineMask) (nc : Bool) : SysOnly s (wayWrite u g line data mask nc) := by
  unfold wayWrite
  (try dsimp only)
  repeat' split
  all_goals repeat' first | with_reducible exact h | with_reducible assumption | exact (fun (w : Memory.wf _) => w) | with_reducible refine putWay_sysOnly ?_ _ _ | with_reducible refine wayRead_sysOnly ?_ _ _ _ | with_reducible refine wayRead_sysOnly_eq ?_ (by assumption) | split

theorem cleanWay_sysOnly {s u : State} (h : SysOnly s u) (g : Nat) (toHome : Bool) (x : CLine) : SysOnly s (cleanWay u g toHome x) := by
  unfold cleanWay
  (try dsimp only)
  repeat' split
  all_goals repeat' first | with_reducible exact h | with_reducible assumption | exact (fun (w : Memory.wf _) => w) | with_reducible refine l2Put_sysOnly ?_ _ _ | with_reducible refine sliceWrite_sysOnly ?_ _ _ _ _ | with_reducible refine dieWrite_sysOnly ?_ _ _ _ _ _ | with_reducible refine setWays_sysOnly ?_ _ _ | split

theorem cleanWays_sysOnly {s u : State} (h : SysOnly s u) (g : Nat) (toHome : Bool) : SysOnly s (cleanWays u g toHome) := by
  unfold cleanWays
  (try dsimp only)
  repeat' split
  all_goals repeat' first | with_reducible exact h | with_reducible assumption | exact (fun (w : Memory.wf _) => w) | with_reducible refine cleanWay_sysOnly ?_ _ _ _ | with_reducible refine foldl_sysOnly ?_ _ _ ?_ | intro _ _ _ | intro _ _ | split

theorem dropCleanWays_sysOnly {s u : State} (h : SysOnly s u) (g : Nat) : SysOnly s (dropCleanWays u g) := by
  unfold dropCleanWays
  (try dsimp only)
  repeat' split
  all_goals repeat' first | with_reducible exact h | with_reducible assumption | exact (fun (w : Memory.wf _) => w) | with_reducible refine setWays_sysOnly ?_ _ _ | split

theorem setFull_sysOnly {s u : State} (h : SysOnly s u) (line : Nat) (b : Bool) : SysOnly s (setFull u line b) := by
  unfold setFull
  (try dsimp only)
  repeat' split
  all_goals repeat' first | with_reducible exact h | with_reducible assumption | exact (fun (w : Memory.wf _) => w) | with_reducible refine modSys_sysOnly ?_ _ ?_ | split

theorem touchPinned_sysOnly {s u : State} (h : SysOnly s u) (line : Nat) : SysOnly s (touchPinned u line) := by
  unfold touchPinned
  (try dsimp only)
  repeat' split
  all_goals repeat' first | with_reducible exact h | with_reducible assumption | exact (fun (w : Memory.wf _) => w) | with_reducible refine countDie_sysOnly ?_ _ _ | with_reducible refine modSys_sysOnly ?_ _ ?_ | split

theorem walkFrom_sysOnly {s u : State} (h : SysOnly s u) (die asid va tbl : Nat) (l : List (Nat × Nat)) :
    SysOnly s (walkFrom u die asid va tbl l).1 := by
  induction l generalizing u tbl with
  | nil => exact h
  | cons p t ih =>
    obtain ⟨lv, sh⟩ := p
    unfold walkFrom
    dsimp only
    have hr := coherentRead_sysOnly h (tbl + 8 * walkIndex lv sh va) 8
    generalize coherentRead u (tbl + 8 * walkIndex lv sh va) 8 = x at hr ⊢
    obtain ⟨v, bs⟩ := x
    dsimp only
    split
    · split
      · exact hr
      · have := ih hr (bitsOf (bytesNat bs) 12 40 * 4096)
        split <;> simp_all
    · split <;> exact hr
theorem walkFrom_sysOnly_eq {s u v : State} (h : SysOnly s u) {die asid va tbl : Nat} {l : List (Nat × Nat)} {x}
    (e : walkFrom u die asid va tbl l = (v, x)) : SysOnly s v := by
  have := walkFrom_sysOnly h die asid va tbl l
  rwa [e] at this

theorem walk_sysOnly {s u : State} (h : SysOnly s u) (die asid va : Nat) : SysOnly s (walk u die asid va).1 := by
  unfold walk
  (try dsimp only)
  repeat' split
  all_goals repeat' first | with_reducible exact h | with_reducible assumption | exact (fun (w : Memory.wf _) => w) | with_reducible refine walkFrom_sysOnly ?_ _ _ _ _ _ | with_reducible refine walkFrom_sysOnly_eq ?_ (by assumption) | with_reducible refine modSys_sysOnly ?_ _ ?_ | split

theorem walk_sysOnly_eq {s u v : State} (h : SysOnly s u) {die asid va : Nat} {x} (e : walk u die asid va = (v, x)) : SysOnly s v := by
  have := walk_sysOnly h die asid va
  rwa [e] at this

theorem tlbInstall_sysOnly {s u : State} (h : SysOnly s u) (t : TlbEntry) : SysOnly s (tlbInstall u t) := by
  unfold tlbInstall
  (try dsimp only)
  repeat' split
  all_goals repeat' first | with_reducible exact h | with_reducible assumption | exact (fun (w : Memory.wf _) => w) | with_reducible refine modSys_sysOnly ?_ _ ?_ | split

theorem findLeaf_sysOnly {s u : State} (h : SysOnly s u) (unit die asid va : Nat) : SysOnly s (findLeaf u unit die asid va).1 := by
  unfold findLeaf
  (try dsimp only)
  repeat' split
  all_goals repeat' first | with_reducible exact h | with_reducible assumption | exact (fun (w : Memory.wf _) => w) | with_reducible refine walk_sysOnly ?_ _ _ _ | with_reducible refine walk_sysOnly_eq ?_ (by assumption) | with_reducible refine tlbInstall_sysOnly ?_ _ | split

theorem findLeaf_sysOnly_eq {s u v : State} (h : SysOnly s u) {unit die asid va : Nat} {x} (e : findLeaf u unit die asid va = (v, x)) : SysOnly s v := by
  have := findLeaf_sysOnly h unit die asid va
  rwa [e] at this

theorem translate_sysOnly {s u : State} (h : SysOnly s u) (unit die asid : Nat) (va : Nat) (write : Bool) : SysOnly s (translate u unit die asid va write).1 := by
  unfold translate
  (try dsimp only)
  repeat' split
  all_goals repeat' first | with_reducible exact h | with_reducible assumption | exact (fun (w : Memory.wf _) => w) | with_reducible refine findLeaf_sysOnly ?_ _ _ _ _ | with_reducible refine findLeaf_sysOnly_eq ?_ (by assumption) | split

theorem translate_sysOnly_eq {s u v : State} (h : SysOnly s u) {unit die asid : Nat} {va : Nat} {write : Bool} {x} (e : translate u unit die asid va write = (v, x)) : SysOnly s v := by
  have := translate_sysOnly h unit die asid va write
  rwa [e] at this

theorem seqTranslate_sysOnly {s u : State} (h : SysOnly s u) (c va : Nat) (write : Bool) : SysOnly s (seqTranslate u c va write).1 := by
  unfold seqTranslate
  (try dsimp only)
  repeat' split
  all_goals repeat' first | with_reducible exact h | with_reducible assumption | exact (fun (w : Memory.wf _) => w) | with_reducible refine translate_sysOnly ?_ _ _ _ _ _ | with_reducible refine translate_sysOnly_eq ?_ (by assumption) | split

theorem seqTranslate_sysOnly_eq {s u v : State} (h : SysOnly s u) {c va : Nat} {write : Bool} {x} (e : seqTranslate u c va write = (v, x)) : SysOnly s v := by
  have := seqTranslate_sysOnly h c va write
  rwa [e] at this

theorem loaderTranslate_sysOnly {s u : State} (h : SysOnly s u) (c va : Nat) (write : Bool) : SysOnly s (loaderTranslate u c va write).1 := by
  unfold loaderTranslate
  (try dsimp only)
  repeat' split
  all_goals repeat' first | with_reducible exact h | with_reducible assumption | exact (fun (w : Memory.wf _) => w) | with_reducible refine translate_sysOnly ?_ _ _ _ _ _ | with_reducible refine translate_sysOnly_eq ?_ (by assumption) | split

theorem loaderTranslate_sysOnly_eq {s u v : State} (h : SysOnly s u) {c va : Nat} {write : Bool} {x} (e : loaderTranslate u c va write = (v, x)) : SysOnly s v := by
  have := loaderTranslate_sysOnly h c va write
  rwa [e] at this

theorem dieTranslate_sysOnly {s u : State} (h : SysOnly s u) (die asid va : Nat) (write : Bool) : SysOnly s (dieTranslate u die asid va write).1 := by
  unfold dieTranslate
  (try dsimp only)
  repeat' split
  all_goals repeat' first | with_reducible exact h | with_reducible assumption | exact (fun (w : Memory.wf _) => w) | with_reducible refine translate_sysOnly ?_ _ _ _ _ _ | with_reducible refine translate_sysOnly_eq ?_ (by assumption) | split

theorem dieTranslate_sysOnly_eq {s u v : State} (h : SysOnly s u) {die asid va : Nat} {write : Bool} {x} (e : dieTranslate u die asid va write = (v, x)) : SysOnly s v := by
  have := dieTranslate_sysOnly h die asid va write
  rwa [e] at this

end Sys2Proof.Machine
end

