-- ==== Sys2Proof/Laws/State.lean ====
section
/-! SUPPORT. What each update of the state leaves alone, field by field, and reading a core after an update. -/

namespace Sys2Proof.Machine
open Sys2Proof

@[simp] theorem setCore_me (s : State) (c : Nat) (k : Core) : (setCore s c k).me = s.me := rfl
@[simp] theorem setCore_beat (s : State) (c : Nat) (k : Core) : (setCore s c k).beat = s.beat := rfl
@[simp] theorem setCore_sys (s : State) (c : Nat) (k : Core) : (setCore s c k).sys = s.sys := rfl
@[simp] theorem setCore_sched (s : State) (c : Nat) (k : Core) : (setCore s c k).sched = s.sched := rfl
@[simp] theorem setCore_ora (s : State) (c : Nat) (k : Core) : (setCore s c k).ora = s.ora := rfl
@[simp] theorem setCore_pav (s : State) (c : Nat) (k : Core) : (setCore s c k).pav = s.pav := rfl
@[simp] theorem setCore_power (s : State) (c : Nat) (k : Core) : (setCore s c k).power = s.power := rfl
@[simp] theorem setCore_agenda (s : State) (c : Nat) (k : Core) : (setCore s c k).agenda = s.agenda := rfl

@[simp] theorem modCore_me (s : State) (c : Nat) (f : Core → Core) : (modCore s c f).me = s.me := rfl
@[simp] theorem modCore_beat (s : State) (c : Nat) (f : Core → Core) : (modCore s c f).beat = s.beat := rfl
@[simp] theorem modCore_sys (s : State) (c : Nat) (f : Core → Core) : (modCore s c f).sys = s.sys := rfl
@[simp] theorem modCore_sched (s : State) (c : Nat) (f : Core → Core) : (modCore s c f).sched = s.sched := rfl
@[simp] theorem modCore_ora (s : State) (c : Nat) (f : Core → Core) : (modCore s c f).ora = s.ora := rfl
@[simp] theorem modCore_pav (s : State) (c : Nat) (f : Core → Core) : (modCore s c f).pav = s.pav := rfl
@[simp] theorem modCore_power (s : State) (c : Nat) (f : Core → Core) : (modCore s c f).power = s.power := rfl
@[simp] theorem modCore_agenda (s : State) (c : Nat) (f : Core → Core) : (modCore s c f).agenda = s.agenda := rfl

@[simp] theorem modSeq_me (s : State) (c : Nat) (f : Seq → Seq) : (modSeq s c f).me = s.me := rfl
@[simp] theorem modSeq_beat (s : State) (c : Nat) (f : Seq → Seq) : (modSeq s c f).beat = s.beat := rfl
@[simp] theorem modSeq_sys (s : State) (c : Nat) (f : Seq → Seq) : (modSeq s c f).sys = s.sys := rfl
@[simp] theorem modSeq_sched (s : State) (c : Nat) (f : Seq → Seq) : (modSeq s c f).sched = s.sched := rfl
@[simp] theorem modSeq_ora (s : State) (c : Nat) (f : Seq → Seq) : (modSeq s c f).ora = s.ora := rfl
@[simp] theorem modSeq_pav (s : State) (c : Nat) (f : Seq → Seq) : (modSeq s c f).pav = s.pav := rfl
@[simp] theorem modSeq_power (s : State) (c : Nat) (f : Seq → Seq) : (modSeq s c f).power = s.power := rfl
@[simp] theorem modSeq_agenda (s : State) (c : Nat) (f : Seq → Seq) : (modSeq s c f).agenda = s.agenda := rfl

@[simp] theorem modCtl_me (s : State) (c : Nat) (f : Ctl → Ctl) : (modCtl s c f).me = s.me := rfl
@[simp] theorem modCtl_beat (s : State) (c : Nat) (f : Ctl → Ctl) : (modCtl s c f).beat = s.beat := rfl
@[simp] theorem modCtl_sys (s : State) (c : Nat) (f : Ctl → Ctl) : (modCtl s c f).sys = s.sys := rfl
@[simp] theorem modCtl_sched (s : State) (c : Nat) (f : Ctl → Ctl) : (modCtl s c f).sched = s.sched := rfl
@[simp] theorem modCtl_ora (s : State) (c : Nat) (f : Ctl → Ctl) : (modCtl s c f).ora = s.ora := rfl
@[simp] theorem modCtl_pav (s : State) (c : Nat) (f : Ctl → Ctl) : (modCtl s c f).pav = s.pav := rfl
@[simp] theorem modCtl_power (s : State) (c : Nat) (f : Ctl → Ctl) : (modCtl s c f).power = s.power := rfl
@[simp] theorem modCtl_agenda (s : State) (c : Nat) (f : Ctl → Ctl) : (modCtl s c f).agenda = s.agenda := rfl

@[simp] theorem modArr_me (s : State) (c : Nat) (f : Arr → Arr) : (modArr s c f).me = s.me := rfl
@[simp] theorem modArr_beat (s : State) (c : Nat) (f : Arr → Arr) : (modArr s c f).beat = s.beat := rfl
@[simp] theorem modArr_sys (s : State) (c : Nat) (f : Arr → Arr) : (modArr s c f).sys = s.sys := rfl
@[simp] theorem modArr_sched (s : State) (c : Nat) (f : Arr → Arr) : (modArr s c f).sched = s.sched := rfl
@[simp] theorem modArr_ora (s : State) (c : Nat) (f : Arr → Arr) : (modArr s c f).ora = s.ora := rfl
@[simp] theorem modArr_pav (s : State) (c : Nat) (f : Arr → Arr) : (modArr s c f).pav = s.pav := rfl
@[simp] theorem modArr_power (s : State) (c : Nat) (f : Arr → Arr) : (modArr s c f).power = s.power := rfl
@[simp] theorem modArr_agenda (s : State) (c : Nat) (f : Arr → Arr) : (modArr s c f).agenda = s.agenda := rfl

@[simp] theorem modEdge_me (s : State) (c : Nat) (f : EdgeSt → EdgeSt) : (modEdge s c f).me = s.me := rfl
@[simp] theorem modEdge_beat (s : State) (c : Nat) (f : EdgeSt → EdgeSt) : (modEdge s c f).beat = s.beat := rfl
@[simp] theorem modEdge_sys (s : State) (c : Nat) (f : EdgeSt → EdgeSt) : (modEdge s c f).sys = s.sys := rfl
@[simp] theorem modEdge_sched (s : State) (c : Nat) (f : EdgeSt → EdgeSt) : (modEdge s c f).sched = s.sched := rfl
@[simp] theorem modEdge_ora (s : State) (c : Nat) (f : EdgeSt → EdgeSt) : (modEdge s c f).ora = s.ora := rfl
@[simp] theorem modEdge_pav (s : State) (c : Nat) (f : EdgeSt → EdgeSt) : (modEdge s c f).pav = s.pav := rfl
@[simp] theorem modEdge_power (s : State) (c : Nat) (f : EdgeSt → EdgeSt) : (modEdge s c f).power = s.power := rfl
@[simp] theorem modEdge_agenda (s : State) (c : Nat) (f : EdgeSt → EdgeSt) : (modEdge s c f).agenda = s.agenda := rfl

@[simp] theorem modMem_me (s : State) (c : Nat) (f : MemPath → MemPath) : (modMem s c f).me = s.me := rfl
@[simp] theorem modMem_beat (s : State) (c : Nat) (f : MemPath → MemPath) : (modMem s c f).beat = s.beat := rfl
@[simp] theorem modMem_sys (s : State) (c : Nat) (f : MemPath → MemPath) : (modMem s c f).sys = s.sys := rfl
@[simp] theorem modMem_sched (s : State) (c : Nat) (f : MemPath → MemPath) : (modMem s c f).sched = s.sched := rfl
@[simp] theorem modMem_ora (s : State) (c : Nat) (f : MemPath → MemPath) : (modMem s c f).ora = s.ora := rfl
@[simp] theorem modMem_pav (s : State) (c : Nat) (f : MemPath → MemPath) : (modMem s c f).pav = s.pav := rfl
@[simp] theorem modMem_power (s : State) (c : Nat) (f : MemPath → MemPath) : (modMem s c f).power = s.power := rfl
@[simp] theorem modMem_agenda (s : State) (c : Nat) (f : MemPath → MemPath) : (modMem s c f).agenda = s.agenda := rfl

@[simp] theorem modSys_cores (s : State) (f : MemSys → MemSys) : (modSys s f).cores = s.cores := rfl
@[simp] theorem modSys_me (s : State) (f : MemSys → MemSys) : (modSys s f).me = s.me := rfl
@[simp] theorem modSys_beat (s : State) (f : MemSys → MemSys) : (modSys s f).beat = s.beat := rfl
@[simp] theorem modSys_sys (s : State) (f : MemSys → MemSys) : (modSys s f).sys = f s.sys := rfl
@[simp] theorem modSys_sched (s : State) (f : MemSys → MemSys) : (modSys s f).sched = s.sched := rfl
@[simp] theorem modSys_ora (s : State) (f : MemSys → MemSys) : (modSys s f).ora = s.ora := rfl
@[simp] theorem modSys_pav (s : State) (f : MemSys → MemSys) : (modSys s f).pav = s.pav := rfl
@[simp] theorem modSys_power (s : State) (f : MemSys → MemSys) : (modSys s f).power = s.power := rfl
@[simp] theorem modSys_agenda (s : State) (f : MemSys → MemSys) : (modSys s f).agenda = s.agenda := rfl

@[simp] theorem modSched_cores (s : State) (f : Sched → Sched) : (modSched s f).cores = s.cores := rfl
@[simp] theorem modSched_me (s : State) (f : Sched → Sched) : (modSched s f).me = s.me := rfl
@[simp] theorem modSched_beat (s : State) (f : Sched → Sched) : (modSched s f).beat = s.beat := rfl
@[simp] theorem modSched_sys (s : State) (f : Sched → Sched) : (modSched s f).sys = s.sys := rfl
@[simp] theorem modSched_sched (s : State) (f : Sched → Sched) : (modSched s f).sched = f s.sched := rfl
@[simp] theorem modSched_ora (s : State) (f : Sched → Sched) : (modSched s f).ora = s.ora := rfl
@[simp] theorem modSched_pav (s : State) (f : Sched → Sched) : (modSched s f).pav = s.pav := rfl
@[simp] theorem modSched_power (s : State) (f : Sched → Sched) : (modSched s f).power = s.power := rfl
@[simp] theorem modSched_agenda (s : State) (f : Sched → Sched) : (modSched s f).agenda = s.agenda := rfl

@[simp] theorem modOra_cores (s : State) (f : Orangery → Orangery) : (modOra s f).cores = s.cores := rfl
@[simp] theorem modOra_me (s : State) (f : Orangery → Orangery) : (modOra s f).me = s.me := rfl
@[simp] theorem modOra_beat (s : State) (f : Orangery → Orangery) : (modOra s f).beat = s.beat := rfl
@[simp] theorem modOra_sys (s : State) (f : Orangery → Orangery) : (modOra s f).sys = s.sys := rfl
@[simp] theorem modOra_sched (s : State) (f : Orangery → Orangery) : (modOra s f).sched = s.sched := rfl
@[simp] theorem modOra_ora (s : State) (f : Orangery → Orangery) : (modOra s f).ora = f s.ora := rfl
@[simp] theorem modOra_pav (s : State) (f : Orangery → Orangery) : (modOra s f).pav = s.pav := rfl
@[simp] theorem modOra_power (s : State) (f : Orangery → Orangery) : (modOra s f).power = s.power := rfl
@[simp] theorem modOra_agenda (s : State) (f : Orangery → Orangery) : (modOra s f).agenda = s.agenda := rfl

@[simp] theorem modPav_cores (s : State) (f : Pav → Pav) : (modPav s f).cores = s.cores := rfl
@[simp] theorem modPav_me (s : State) (f : Pav → Pav) : (modPav s f).me = s.me := rfl
@[simp] theorem modPav_beat (s : State) (f : Pav → Pav) : (modPav s f).beat = s.beat := rfl
@[simp] theorem modPav_sys (s : State) (f : Pav → Pav) : (modPav s f).sys = s.sys := rfl
@[simp] theorem modPav_sched (s : State) (f : Pav → Pav) : (modPav s f).sched = s.sched := rfl
@[simp] theorem modPav_ora (s : State) (f : Pav → Pav) : (modPav s f).ora = s.ora := rfl
@[simp] theorem modPav_pav (s : State) (f : Pav → Pav) : (modPav s f).pav = f s.pav := rfl
@[simp] theorem modPav_power (s : State) (f : Pav → Pav) : (modPav s f).power = s.power := rfl
@[simp] theorem modPav_agenda (s : State) (f : Pav → Pav) : (modPav s f).agenda = s.agenda := rfl

@[simp] theorem modPower_cores (s : State) (f : Power → Power) : (modPower s f).cores = s.cores := rfl
@[simp] theorem modPower_me (s : State) (f : Power → Power) : (modPower s f).me = s.me := rfl
@[simp] theorem modPower_beat (s : State) (f : Power → Power) : (modPower s f).beat = s.beat := rfl
@[simp] theorem modPower_sys (s : State) (f : Power → Power) : (modPower s f).sys = s.sys := rfl
@[simp] theorem modPower_sched (s : State) (f : Power → Power) : (modPower s f).sched = s.sched := rfl
@[simp] theorem modPower_ora (s : State) (f : Power → Power) : (modPower s f).ora = s.ora := rfl
@[simp] theorem modPower_pav (s : State) (f : Power → Power) : (modPower s f).pav = s.pav := rfl
@[simp] theorem modPower_power (s : State) (f : Power → Power) : (modPower s f).power = f s.power := rfl
@[simp] theorem modPower_agenda (s : State) (f : Power → Power) : (modPower s f).agenda = s.agenda := rfl

@[simp] theorem coreAt_modSys (s : State) (f : MemSys → MemSys) (c : Nat) : coreAt (modSys s f) c = coreAt s c := rfl
@[simp] theorem coreAt_modSched (s : State) (f : Sched → Sched) (c : Nat) : coreAt (modSched s f) c = coreAt s c := rfl
@[simp] theorem coreAt_modOra (s : State) (f : Orangery → Orangery) (c : Nat) : coreAt (modOra s f) c = coreAt s c := rfl
@[simp] theorem coreAt_modPav (s : State) (f : Pav → Pav) (c : Nat) : coreAt (modPav s f) c = coreAt s c := rfl
@[simp] theorem coreAt_modPower (s : State) (f : Power → Power) (c : Nat) : coreAt (modPower s f) c = coreAt s c := rfl

/-! ### Cores -/

@[simp] theorem coreAt_setCore_same (s : State) (c : Nat) (k : Core) : coreAt (setCore s c k) c = k := Tab.get_set_same _ _ _ _
theorem coreAt_setCore (s : State) (c d : Nat) (k : Core) : coreAt (setCore s c k) d = if d = c then k else coreAt s d :=
  Tab.get_set _ _ _ _ _
@[simp] theorem coreAt_modCore_same (s : State) (c : Nat) (f : Core → Core) : coreAt (modCore s c f) c = f (coreAt s c) :=
  coreAt_setCore_same _ _ _
theorem coreAt_modCore_other (s : State) (c d : Nat) (f : Core → Core) (h : d ≠ c) : coreAt (modCore s c f) d = coreAt s d := by
  unfold modCore; rw [coreAt_setCore, if_neg h]
theorem coreAt_modCore (s : State) (c d : Nat) (f : Core → Core) :
    coreAt (modCore s c f) d = if d = c then f (coreAt s c) else coreAt s d := by
  unfold modCore; rw [coreAt_setCore]

@[simp] theorem coreAt_modSeq_same (s : State) (c : Nat) (f : Seq → Seq) :
    coreAt (modSeq s c f) c = { coreAt s c with seq := f (coreAt s c).seq } := coreAt_modCore_same _ _ _
theorem coreAt_modSeq_other (s : State) (c d : Nat) (f : Seq → Seq) (h : d ≠ c) : coreAt (modSeq s c f) d = coreAt s d :=
  coreAt_modCore_other _ _ _ _ h

@[simp] theorem coreAt_modCtl_same (s : State) (c : Nat) (f : Ctl → Ctl) :
    coreAt (modCtl s c f) c = { coreAt s c with ctl := f (coreAt s c).ctl } := coreAt_modCore_same _ _ _
theorem coreAt_modCtl_other (s : State) (c d : Nat) (f : Ctl → Ctl) (h : d ≠ c) : coreAt (modCtl s c f) d = coreAt s d :=
  coreAt_modCore_other _ _ _ _ h

@[simp] theorem coreAt_modArr_same (s : State) (c : Nat) (f : Arr → Arr) :
    coreAt (modArr s c f) c = { coreAt s c with arr := f (coreAt s c).arr } := coreAt_modCore_same _ _ _
theorem coreAt_modArr_other (s : State) (c d : Nat) (f : Arr → Arr) (h : d ≠ c) : coreAt (modArr s c f) d = coreAt s d :=
  coreAt_modCore_other _ _ _ _ h

@[simp] theorem coreAt_modEdge_same (s : State) (c : Nat) (f : EdgeSt → EdgeSt) :
    coreAt (modEdge s c f) c = { coreAt s c with edge := f (coreAt s c).edge } := coreAt_modCore_same _ _ _
theorem coreAt_modEdge_other (s : State) (c d : Nat) (f : EdgeSt → EdgeSt) (h : d ≠ c) : coreAt (modEdge s c f) d = coreAt s d :=
  coreAt_modCore_other _ _ _ _ h

@[simp] theorem coreAt_modMem_same (s : State) (c : Nat) (f : MemPath → MemPath) :
    coreAt (modMem s c f) c = { coreAt s c with mem := f (coreAt s c).mem } := coreAt_modCore_same _ _ _
theorem coreAt_modMem_other (s : State) (c d : Nat) (f : MemPath → MemPath) (h : d ≠ c) : coreAt (modMem s c f) d = coreAt s d :=
  coreAt_modCore_other _ _ _ _ h

/-- The other fields of the state, under any update of a core. -/
theorem modCore_rest (s : State) (c : Nat) (f : Core → Core) : { modCore s c f with cores := s.cores } = s := rfl

/-! ### Registers -/

@[simp] theorem readG_zero (k : Core) : readG k 0 = 0 := rfl
@[simp] theorem readM_zero (k : Core) : readM k 0 = ⟨BitVec.allOnes 32, BitVec.allOnes 32⟩ := rfl

/-- Reading a general register after a write of one (R26). -/
theorem readG_writeG (s : State) (c : Nat) (d r : BitVec 5) (v : Dword) :
    readG (coreAt (writeG s c d v) c) r = if r = d ∧ d ≠ 0 then v else readG (coreAt s c) r := by
  unfold writeG
  rw [coreAt_modSeq_same]
  unfold readG putG
  have hz : ∀ x : BitVec 5, x.toNat = 0 ↔ x = 0 :=
    fun x => ⟨fun h => BitVec.eq_of_toNat_eq (by simpa using h), fun h => by rw [h]; rfl⟩
  have he : r.toNat = d.toNat ↔ r = d := ⟨BitVec.eq_of_toNat_eq, fun h => by rw [h]⟩
  dsimp only
  by_cases h0 : r = 0
  · rw [if_pos h0, if_pos h0, if_neg]
    rintro ⟨e, hd⟩; exact hd (e ▸ h0)
  · rw [if_neg h0, if_neg h0]
    by_cases hd : d = 0
    · rw [if_pos ((hz d).2 hd), if_neg (fun h => h.2 hd)]
    · rw [if_neg (fun h => hd ((hz d).1 h)), Tab.get_set]
      simp only [he, hd, ne_eq, not_false_eq_true, and_true]

/-- A cell after a write of one. -/
theorem cellAt_setCell (a : Arr) (key j : Nat) (x : CellSt) :
    cellAt (setCell a key x) j = if j = key then x else cellAt a j := by
  unfold cellAt setCell
  by_cases h : j = key
  · subst h; simp
  · rw [if_neg h]
    have : ∀ (d e : CellSt) (t : Tab CellSt), Tab.get d (Tab.set e t key x) j = Tab.get d t j := by
      intro d e t
      unfold Tab.set
      split
      · exact Tab.get_erase_other _ _ _ _ h
      · rw [Tab.get_insert_other _ _ _ _ _ h, Tab.get_erase_other _ _ _ _ h]
    exact this _ _ _

/-- Reading an F register after a write of one. -/
theorem readF_writeF (x : CellSt) (n j : Nat) (v : FReg) : readF (writeF x n v) j = if j = n then v else readF x j := by
  unfold readF writeF; exact Tab.get_set _ _ _ _ _

end Sys2Proof.Machine
end

