-- ==== Sys2Proof/Laws/Path.lean ====
section
/-! SUPPORT. A core's memory path changes the memory system, the core's own store buffer, L1 and accesses on their way,
its general registers, and the command queues and bells that a doorbell store reaches; nothing else; memory keeps its canonical form. -/

set_option linter.unreachableTactic false
set_option linter.unusedTactic false
set_option linter.unusedVariables false

namespace Sys2Proof.Machine
open Sys2Proof

/-- What the memory path of core c may change. -/
def Moves (c : Nat) (s t : State) : Prop :=
  (∀ d, d ≠ c → coreAt t d = coreAt s d) ∧
  { coreAt t c with mem := (coreAt s c).mem, seq := { (coreAt t c).seq with g := (coreAt s c).seq.g } } = coreAt s c ∧
  { t with cores := s.cores, sys := s.sys, pav := { t.pav with bells := s.pav.bells, queues := s.pav.queues, events := s.pav.events } } = s ∧
  (Memory.wf s.sys.mem → Memory.wf t.sys.mem)

theorem Moves.refl (c : Nat) (s : State) : Moves c s s := ⟨fun _ _ => rfl, rfl, rfl, id⟩

theorem Moves.trans {c : Nat} {s t u : State} (h : Moves c s t) (k : Moves c t u) : Moves c s u := by
  obtain ⟨h1, h2, h3, h4⟩ := h
  obtain ⟨k1, k2, k3, k4⟩ := k
  refine ⟨fun d hd => (k1 d hd).trans (h1 d hd), ?_, ?_, fun w => k4 (h4 w)⟩
  · rw [← h2, ← k2]
  · rw [← h3, ← k3]

theorem Moves.sys {c : Nat} {s t u : State} (h : Moves c s t) (k : SysOnly t u) : Moves c s u := by
  obtain ⟨h1, h2, h3, h4⟩ := h
  have e : u.cores = t.cores := by rw [← k.1]
  have ec : ∀ d, coreAt u d = coreAt t d := fun d => by unfold coreAt; rw [e]
  refine ⟨fun d hd => (ec d).trans (h1 d hd), ?_, ?_, fun w => k.2 (h4 w)⟩
  · rw [ec]; exact h2
  · rw [← h3, ← k.1]

theorem modMem_moves {c : Nat} {s u : State} (h : Moves c s u) (f : MemPath → MemPath) : Moves c s (modMem u c f) := by
  refine h.trans ⟨fun d hd => coreAt_modMem_other _ _ _ _ hd, ?_, rfl, id⟩
  rw [coreAt_modMem_same]

theorem writeG_moves {c : Nat} {s u : State} (h : Moves c s u) (d : BitVec 5) (v : Dword) : Moves c s (writeG u c d v) := by
  refine h.trans ⟨fun e he => by unfold writeG; exact coreAt_modSeq_other _ _ _ _ he, ?_, rfl, id⟩
  unfold writeG; rw [coreAt_modSeq_same]

theorem modSys_moves {c : Nat} {s u : State} (h : Moves c s u) (f : MemSys → MemSys)
    (hf : Memory.wf u.sys.mem → Memory.wf (f u.sys).mem) : Moves c s (modSys u f) := h.sys ⟨rfl, hf⟩

theorem bells_moves {c : Nat} {s u : State} (h : Moves c s u) (f : Pav → List (Nat × Nat)) :
    Moves c s (modPav u fun p => { p with bells := f p }) := h.trans ⟨fun _ _ => rfl, rfl, rfl, id⟩

theorem events_moves {c : Nat} {s u : State} (h : Moves c s u) (f : Pav → List Nat) :
    Moves c s (modPav u fun p => { p with events := f p }) := h.trans ⟨fun _ _ => rfl, rfl, rfl, id⟩
theorem setQueue_moves {c : Nat} {s u : State} (h : Moves c s u) (q : Nat) (x : Queue) : Moves c s (setQueue u q x) :=
  h.trans ⟨fun _ _ => rfl, rfl, rfl, id⟩

theorem foldl_moves {α : Type} {c : Nat} {s u : State} (h : Moves c s u) (f : State → α → State) (l : List α)
    (hf : ∀ v a, Moves c s v → Moves c s (f v a)) : Moves c s (l.foldl f u) := by
  induction l generalizing u with
  | nil => exact h
  | cons a t ih => exact ih (hf u a h)



theorem deliverPosted_moves {c : Nat} {s u : State} (h : Moves c s u)  : Moves c s (deliverPosted u) := by
  unfold deliverPosted
  (try dsimp only)
  repeat' split
  all_goals repeat' first | with_reducible exact h | with_reducible assumption | with_reducible refine modSys_moves ?_ _ ?_ | with_reducible refine foldl_moves ?_ _ _ ?_ | intro _ _ _ | split | with_reducible exact (fun (w : Memory.wf _) => w) | exact fun w => w | exact fun w => Memory.wf_memMask _ _ _ _ _ w | exact fun w => Memory.wf_memWrite _ _ _ w | exact deliverPosted_memory_wf _

theorem postBytes_moves {c : Nat} {s u : State} (h : Moves c s u) (pa : Nat) (bs : List Byte) : Moves c s (postBytes u pa bs) := by
  unfold postBytes
  (try dsimp only)
  repeat' split
  all_goals repeat' first | with_reducible exact h | with_reducible assumption | with_reducible refine modSys_moves ?_ _ ?_ | split | with_reducible exact (fun (w : Memory.wf _) => w) | exact fun w => w | exact fun w => Memory.wf_memMask _ _ _ _ _ w | exact fun w => Memory.wf_memWrite _ _ _ w | exact deliverPosted_memory_wf _

theorem queueError_moves {c : Nat} {s u : State} (h : Moves c s u) (q code : Nat) : Moves c s (queueError u q code) := by
  unfold queueError
  (try dsimp only)
  repeat' split
  all_goals repeat' first | with_reducible exact h | with_reducible assumption | with_reducible refine setQueue_moves ?_ _ _ | split | with_reducible exact (fun (w : Memory.wf _) => w) | exact fun w => w | exact fun w => Memory.wf_memMask _ _ _ _ _ w | exact fun w => Memory.wf_memWrite _ _ _ w | exact deliverPosted_memory_wf _

theorem postEvent_moves {c : Nat} {s u : State} (h : Moves c s u) (q : Nat) : Moves c s (postEvent u q) := by
  unfold postEvent
  (try dsimp only)
  repeat' split
  all_goals repeat' first | with_reducible exact h | with_reducible assumption | with_reducible refine bells_moves ?_ _ | with_reducible refine events_moves ?_ _ | with_reducible refine setQueue_moves ?_ _ _ | split | with_reducible exact (fun (w : Memory.wf _) => w) | exact fun w => w | exact fun w => Memory.wf_memMask _ _ _ _ _ w | exact fun w => Memory.wf_memWrite _ _ _ w | exact deliverPosted_memory_wf _

theorem doorbell_moves {c : Nat} {s u : State} (h : Moves c s u) (q w : Nat) : Moves c s (doorbell u q w) := by
  unfold doorbell
  (try dsimp only)
  repeat' split
  all_goals repeat' first | with_reducible exact h | with_reducible assumption | with_reducible refine queueError_moves ?_ _ _ | with_reducible refine postEvent_moves ?_ _ | with_reducible refine setQueue_moves ?_ _ _ | split | with_reducible exact (fun (w : Memory.wf _) => w) | exact fun w => w | exact fun w => Memory.wf_memMask _ _ _ _ _ w | exact fun w => Memory.wf_memWrite _ _ _ w | exact deliverPosted_memory_wf _

theorem ringBell_moves {c : Nat} {s u : State} (h : Moves c s u) (q w : Nat) : Moves c s (ringBell u q w) := by
  unfold ringBell
  (try dsimp only)
  repeat' split
  all_goals repeat' first | with_reducible exact h | with_reducible assumption | with_reducible refine doorbell_moves ?_ _ _ | with_reducible refine Moves.sys ?_ (settle_sysOnly (.refl _)) | with_reducible refine bells_moves ?_ _ | with_reducible refine events_moves ?_ _ | split | with_reducible exact (fun (w : Memory.wf _) => w) | exact fun w => w | exact fun w => Memory.wf_memMask _ _ _ _ _ w | exact fun w => Memory.wf_memWrite _ _ _ w | exact deliverPosted_memory_wf _

theorem singleRead_moves {c : Nat} {s u : State} (h : Moves c s u) (x : Xl) (n : Nat) : Moves c s (singleRead u x n).1 := by
  unfold singleRead
  (try dsimp only)
  repeat' split
  all_goals repeat' first | with_reducible exact h | with_reducible assumption | with_reducible refine deliverPosted_moves ?_ | with_reducible refine Moves.sys ?_ (touchPinned_sysOnly (.refl _) _) | split | with_reducible exact (fun (w : Memory.wf _) => w) | exact fun w => w | exact fun w => Memory.wf_memMask _ _ _ _ _ w | exact fun w => Memory.wf_memWrite _ _ _ w | exact deliverPosted_memory_wf _

theorem singleRead_moves_eq {c : Nat} {s u w_ : State} (h : Moves c s u) {x : Xl} {n : Nat} {r_} (e_ : singleRead u x n = (w_, r_)) : Moves c s w_ := by
  have h_ := singleRead_moves h x n
  rwa [e_] at h_

theorem singleWrite_moves {c : Nat} {s u : State} (h : Moves c s u) (pa : Nat) (data : Dword) (mask : Byte) (home : BitVec 2) : Moves c s (singleWrite u pa data mask home) := by
  unfold singleWrite
  (try dsimp only)
  repeat' split
  all_goals repeat' first | with_reducible exact h | with_reducible assumption | with_reducible refine ringBell_moves ?_ _ _ | with_reducible refine Moves.sys ?_ (touchPinned_sysOnly (.refl _) _) | with_reducible refine modSys_moves ?_ _ ?_ | split | with_reducible exact (fun (w : Memory.wf _) => w) | exact fun w => w | exact fun w => Memory.wf_memMask _ _ _ _ _ w | exact fun w => Memory.wf_memWrite _ _ _ w | exact deliverPosted_memory_wf _

theorem postLine_moves {c : Nat} {s u : State} (h : Moves c s u) (pa : Nat) (d : LineData) (m : LineMask) : Moves c s (postLine u pa d m) := by
  unfold postLine
  (try dsimp only)
  repeat' split
  all_goals repeat' first | with_reducible exact h | with_reducible assumption | with_reducible refine modSys_moves ?_ _ ?_ | split | with_reducible exact (fun (w : Memory.wf _) => w) | exact fun w => w | exact fun w => Memory.wf_memMask _ _ _ _ _ w | exact fun w => Memory.wf_memWrite _ _ _ w | exact deliverPosted_memory_wf _

theorem singleLine_moves {c : Nat} {s u : State} (h : Moves c s u) (x : Xl) (d : LineData) (m : LineMask) : Moves c s (singleLine u x d m) := by
  unfold singleLine
  (try dsimp only)
  repeat' split
  all_goals repeat' first | with_reducible exact h | with_reducible assumption | with_reducible refine postLine_moves ?_ _ _ _ | with_reducible refine Moves.sys ?_ (homeMerge_sysOnly (.refl _) _ _ _) | with_reducible refine Moves.sys ?_ (touchPinned_sysOnly (.refl _) _) | split | with_reducible exact (fun (w : Memory.wf _) => w) | exact fun w => w | exact fun w => Memory.wf_memMask _ _ _ _ _ w | exact fun w => Memory.wf_memWrite _ _ _ w | exact deliverPosted_memory_wf _

theorem setL1_moves {c : Nat} {s u : State} (h : Moves c s u) (l : List CLine) : Moves c s (setL1 u c l) := by
  unfold setL1
  (try dsimp only)
  repeat' split
  all_goals repeat' first | with_reducible exact h | with_reducible assumption | with_reducible refine modMem_moves ?_ _ | split | with_reducible exact (fun (w : Memory.wf _) => w) | exact fun w => w | exact fun w => Memory.wf_memMask _ _ _ _ _ w | exact fun w => Memory.wf_memWrite _ _ _ w | exact deliverPosted_memory_wf _

theorem evictL1_moves {c : Nat} {s u : State} (h : Moves c s u) (line : Nat) : Moves c s (evictL1 u c line) := by
  unfold evictL1
  (try dsimp only)
  repeat' split
  all_goals repeat' first | with_reducible exact h | with_reducible assumption | with_reducible refine setL1_moves ?_ _ | with_reducible refine Moves.sys ?_ (wayWrite_sysOnly (.refl _) _ _ _ _ _) | split | with_reducible exact (fun (w : Memory.wf _) => w) | exact fun w => w | exact fun w => Memory.wf_memMask _ _ _ _ _ w | exact fun w => Memory.wf_memWrite _ _ _ w | exact deliverPosted_memory_wf _

theorem putL1_moves {c : Nat} {s u : State} (h : Moves c s u) (x : CLine) : Moves c s (putL1 u c x) := by
  unfold putL1
  (try dsimp only)
  repeat' split
  all_goals repeat' first | with_reducible exact h | with_reducible assumption | with_reducible refine setL1_moves ?_ _ | with_reducible refine evictL1_moves ?_ _ | split | with_reducible exact (fun (w : Memory.wf _) => w) | exact fun w => w | exact fun w => Memory.wf_memMask _ _ _ _ _ w | exact fun w => Memory.wf_memWrite _ _ _ w | exact deliverPosted_memory_wf _

theorem l1Read_moves {c : Nat} {s u : State} (h : Moves c s u) (line : Nat) (nc : Bool) : Moves c s (l1Read u c line nc).1 := by
  unfold l1Read
  (try dsimp only)
  repeat' split
  all_goals repeat' first | with_reducible exact h | with_reducible assumption | with_reducible refine setL1_moves ?_ _ | with_reducible refine putL1_moves ?_ _ | with_reducible refine Moves.sys ?_ (wayRead_sysOnly (.refl _) _ _ _) | with_reducible refine Moves.sys ?_ (wayRead_sysOnly_eq (.refl _) (by assumption)) | split | with_reducible exact (fun (w : Memory.wf _) => w) | exact fun w => w | exact fun w => Memory.wf_memMask _ _ _ _ _ w | exact fun w => Memory.wf_memWrite _ _ _ w | exact deliverPosted_memory_wf _

theorem l1Read_moves_eq {c : Nat} {s u w_ : State} (h : Moves c s u) {line : Nat} {nc : Bool} {r_} (e_ : l1Read u c line nc = (w_, r_)) : Moves c s w_ := by
  have h_ := l1Read_moves h line nc
  rwa [e_] at h_

theorem l1Write_moves {c : Nat} {s u : State} (h : Moves c s u) (line : Nat) (data : LineData) (mask : LineMask) (nc : Bool) : Moves c s (l1Write u c line data mask nc) := by
  unfold l1Write
  (try dsimp only)
  repeat' split
  all_goals repeat' first | with_reducible exact h | with_reducible assumption | with_reducible refine putL1_moves ?_ _ | with_reducible refine l1Read_moves ?_ _ _ | with_reducible refine l1Read_moves_eq ?_ (by assumption) | split | with_reducible exact (fun (w : Memory.wf _) => w) | exact fun w => w | exact fun w => Memory.wf_memMask _ _ _ _ _ w | exact fun w => Memory.wf_memWrite _ _ _ w | exact deliverPosted_memory_wf _

theorem cleanL1_moves {c : Nat} {s u : State} (h : Moves c s u) (x : CLine) : Moves c s (cleanL1 u c x) := by
  unfold cleanL1
  (try dsimp only)
  repeat' split
  all_goals repeat' first | with_reducible exact h | with_reducible assumption | with_reducible refine setL1_moves ?_ _ | with_reducible refine Moves.sys ?_ (wayWrite_sysOnly (.refl _) _ _ _ _ _) | split | with_reducible exact (fun (w : Memory.wf _) => w) | exact fun w => w | exact fun w => Memory.wf_memMask _ _ _ _ _ w | exact fun w => Memory.wf_memWrite _ _ _ w | exact deliverPosted_memory_wf _

theorem cleanL1All_moves {c : Nat} {s u : State} (h : Moves c s u)  : Moves c s (cleanL1All u c) := by
  unfold cleanL1All
  (try dsimp only)
  repeat' split
  all_goals repeat' first | with_reducible exact h | with_reducible assumption | with_reducible refine cleanL1_moves ?_ _ | with_reducible refine foldl_moves ?_ _ _ ?_ | intro _ _ _ | split | with_reducible exact (fun (w : Memory.wf _) => w) | exact fun w => w | exact fun w => Memory.wf_memMask _ _ _ _ _ w | exact fun w => Memory.wf_memWrite _ _ _ w | exact deliverPosted_memory_wf _

theorem dropCleanL1_moves {c : Nat} {s u : State} (h : Moves c s u)  : Moves c s (dropCleanL1 u c) := by
  unfold dropCleanL1
  (try dsimp only)
  repeat' split
  all_goals repeat' first | with_reducible exact h | with_reducible assumption | with_reducible refine setL1_moves ?_ _ | split | with_reducible exact (fun (w : Memory.wf _) => w) | exact fun w => w | exact fun w => Memory.wf_memMask _ _ _ _ _ w | exact fun w => Memory.wf_memWrite _ _ _ w | exact deliverPosted_memory_wf _

theorem cleanL1Line_moves {c : Nat} {s u : State} (h : Moves c s u) (line : Nat) : Moves c s (cleanL1Line u c line) := by
  unfold cleanL1Line
  (try dsimp only)
  repeat' split
  all_goals repeat' first | with_reducible exact h | with_reducible assumption | with_reducible refine cleanL1_moves ?_ _ | split | with_reducible exact (fun (w : Memory.wf _) => w) | exact fun w => w | exact fun w => Memory.wf_memMask _ _ _ _ _ w | exact fun w => Memory.wf_memWrite _ _ _ w | exact deliverPosted_memory_wf _

theorem cleanWayLine_moves {c : Nat} {s u : State} (h : Moves c s u) (g : Nat) (toHome : Bool) (line : Nat) : Moves c s (cleanWayLine u g toHome line) := by
  unfold cleanWayLine
  (try dsimp only)
  repeat' split
  all_goals repeat' first | with_reducible exact h | with_reducible assumption | with_reducible refine Moves.sys ?_ (cleanWay_sysOnly (.refl _) _ _ _) | split | with_reducible exact (fun (w : Memory.wf _) => w) | exact fun w => w | exact fun w => Memory.wf_memMask _ _ _ _ _ w | exact fun w => Memory.wf_memWrite _ _ _ w | exact deliverPosted_memory_wf _

theorem landStore_moves {c : Nat} {s u : State} (h : Moves c s u) (e : StoreEnt) : Moves c s (landStore u c e) := by
  unfold landStore
  (try dsimp only)
  repeat' split
  all_goals repeat' first | with_reducible exact h | with_reducible assumption | with_reducible refine singleWrite_moves ?_ _ _ _ _ | with_reducible refine l1Write_moves ?_ _ _ _ _ | split | with_reducible exact (fun (w : Memory.wf _) => w) | exact fun w => w | exact fun w => Memory.wf_memMask _ _ _ _ _ w | exact fun w => Memory.wf_memWrite _ _ _ w | exact deliverPosted_memory_wf _

theorem drainSb_moves {c : Nat} {s u : State} (h : Moves c s u)  : Moves c s (drainSb u c) := by
  unfold drainSb
  (try dsimp only)
  repeat' split
  all_goals repeat' first | with_reducible exact h | with_reducible assumption | with_reducible refine landStore_moves ?_ _ | with_reducible refine modMem_moves ?_ _ | with_reducible refine foldl_moves ?_ _ _ ?_ | intro _ _ _ | split | with_reducible exact (fun (w : Memory.wf _) => w) | exact fun w => w | exact fun w => Memory.wf_memMask _ _ _ _ _ w | exact fun w => Memory.wf_memWrite _ _ _ w | exact deliverPosted_memory_wf _

theorem drainSome_moves {c : Nat} {s u : State} (h : Moves c s u) (f : StoreEnt → Bool) : Moves c s (drainSome u c f) := by
  unfold drainSome
  (try dsimp only)
  repeat' split
  all_goals repeat' first | with_reducible exact h | with_reducible assumption | with_reducible refine landStore_moves ?_ _ | with_reducible refine modMem_moves ?_ _ | with_reducible refine foldl_moves ?_ _ _ ?_ | intro _ _ _ | split | with_reducible exact (fun (w : Memory.wf _) => w) | exact fun w => w | exact fun w => Memory.wf_memMask _ _ _ _ _ w | exact fun w => Memory.wf_memWrite _ _ _ w | exact deliverPosted_memory_wf _

theorem drainSbLine_moves {c : Nat} {s u : State} (h : Moves c s u) (line : Nat) : Moves c s (drainSbLine u c line) := by
  unfold drainSbLine
  (try dsimp only)
  repeat' split
  all_goals repeat' first | with_reducible exact h | with_reducible assumption | with_reducible refine drainSome_moves ?_ _ | split | with_reducible exact (fun (w : Memory.wf _) => w) | exact fun w => w | exact fun w => Memory.wf_memMask _ _ _ _ _ w | exact fun w => Memory.wf_memWrite _ _ _ w | exact deliverPosted_memory_wf _

theorem writeBacks_moves {c : Nat} {s u : State} (h : Moves c s u) (sc : Nat) : Moves c s (writeBacks u c sc) := by
  unfold writeBacks
  (try dsimp only)
  repeat' split
  all_goals repeat' first | with_reducible exact h | with_reducible assumption | with_reducible refine deliverPosted_moves ?_ | with_reducible refine cleanL1All_moves ?_ | with_reducible refine Moves.sys ?_ (ncWriteBack_sysOnly (.refl _) _) | with_reducible refine Moves.sys ?_ (cleanWays_sysOnly (.refl _) _ _) | split | with_reducible exact (fun (w : Memory.wf _) => w) | exact fun w => w | exact fun w => Memory.wf_memMask _ _ _ _ _ w | exact fun w => Memory.wf_memWrite _ _ _ w | exact deliverPosted_memory_wf _

theorem releaseActs_moves {c : Nat} {s u : State} (h : Moves c s u) (sc : Nat) : Moves c s (releaseActs u c sc) := by
  unfold releaseActs
  (try dsimp only)
  repeat' split
  all_goals repeat' first | with_reducible exact h | with_reducible assumption | with_reducible refine drainSb_moves ?_ | with_reducible refine writeBacks_moves ?_ _ | split | with_reducible exact (fun (w : Memory.wf _) => w) | exact fun w => w | exact fun w => Memory.wf_memMask _ _ _ _ _ w | exact fun w => Memory.wf_memWrite _ _ _ w | exact deliverPosted_memory_wf _

theorem releaseOlder_moves {c : Nat} {s u : State} (h : Moves c s u) (sc seq : Nat) : Moves c s (releaseOlder u c sc seq) := by
  unfold releaseOlder
  (try dsimp only)
  repeat' split
  all_goals repeat' first | with_reducible exact h | with_reducible assumption | with_reducible refine drainSome_moves ?_ _ | with_reducible refine writeBacks_moves ?_ _ | split | with_reducible exact (fun (w : Memory.wf _) => w) | exact fun w => w | exact fun w => Memory.wf_memMask _ _ _ _ _ w | exact fun w => Memory.wf_memWrite _ _ _ w | exact deliverPosted_memory_wf _

theorem acquireActs_moves {c : Nat} {s u : State} (h : Moves c s u) (sc : Nat) : Moves c s (acquireActs u c sc) := by
  unfold acquireActs
  (try dsimp only)
  repeat' split
  all_goals repeat' first | with_reducible exact h | with_reducible assumption | with_reducible refine dropCleanL1_moves ?_ | with_reducible refine Moves.sys ?_ (ncDrop_sysOnly (.refl _) _) | with_reducible refine Moves.sys ?_ (dropCleanWays_sysOnly (.refl _) _) | split | with_reducible exact (fun (w : Memory.wf _) => w) | exact fun w => w | exact fun w => Memory.wf_memMask _ _ _ _ _ w | exact fun w => Memory.wf_memWrite _ _ _ w | exact deliverPosted_memory_wf _

theorem writeOwnLine_moves {c : Nat} {s u : State} (h : Moves c s u) (line : Nat) : Moves c s (writeOwnLine u c line) := by
  unfold writeOwnLine
  (try dsimp only)
  repeat' split
  all_goals repeat' first | with_reducible exact h | with_reducible assumption | with_reducible refine setL1_moves ?_ _ | with_reducible refine cleanL1Line_moves ?_ _ | with_reducible refine cleanWayLine_moves ?_ _ _ _ | with_reducible refine drainSbLine_moves ?_ _ | with_reducible refine Moves.sys ?_ (ncFlush_sysOnly (.refl _) _ _) | with_reducible refine Moves.sys ?_ (setWays_sysOnly (.refl _) _ _) | split | with_reducible exact (fun (w : Memory.wf _) => w) | exact fun w => w | exact fun w => Memory.wf_memMask _ _ _ _ _ w | exact fun w => Memory.wf_memWrite _ _ _ w | exact deliverPosted_memory_wf _

theorem unitDraw_moves {c : Nat} {s u : State} (h : Moves c s u) (pa : Nat) : Moves c s (unitDraw u pa).1 := by
  unfold unitDraw
  (try dsimp only)
  repeat' split
  all_goals repeat' first | with_reducible exact h | with_reducible assumption | with_reducible refine modSys_moves ?_ _ ?_ | split | with_reducible exact (fun (w : Memory.wf _) => w) | exact fun w => w | exact fun w => Memory.wf_memMask _ _ _ _ _ w | exact fun w => Memory.wf_memWrite _ _ _ w | exact deliverPosted_memory_wf _

theorem unitDraw_moves_eq {c : Nat} {s u w_ : State} (h : Moves c s u) {pa : Nat} {r_} (e_ : unitDraw u pa = (w_, r_)) : Moves c s w_ := by
  have h_ := unitDraw_moves h pa
  rwa [e_] at h_

theorem claimLine_moves {c : Nat} {s u : State} (h : Moves c s u) (x : Xl) : Moves c s (claimLine u x) := by
  unfold claimLine
  (try dsimp only)
  repeat' split
  all_goals repeat' first | with_reducible exact h | with_reducible assumption | with_reducible refine Moves.sys ?_ (homeWrite_sysOnly (.refl _) _ _ _) | with_reducible refine Moves.sys ?_ (touchPinned_sysOnly (.refl _) _) | split | with_reducible exact (fun (w : Memory.wf _) => w) | exact fun w => w | exact fun w => Memory.wf_memMask _ _ _ _ _ w | exact fun w => Memory.wf_memWrite _ _ _ w | exact deliverPosted_memory_wf _

theorem atomicDraw_moves {c : Nat} {s u : State} (h : Moves c s u) (pa fn : Nat) (sr : Bool) : Moves c s (atomicDraw u pa fn sr).1 := by
  unfold atomicDraw
  (try dsimp only)
  repeat' split
  all_goals repeat' first | with_reducible exact h | with_reducible assumption | with_reducible refine unitDraw_moves ?_ _ | with_reducible refine unitDraw_moves_eq ?_ (by assumption) | split | with_reducible exact (fun (w : Memory.wf _) => w) | exact fun w => w | exact fun w => Memory.wf_memMask _ _ _ _ _ w | exact fun w => Memory.wf_memWrite _ _ _ w | exact deliverPosted_memory_wf _

theorem atomicDraw_moves_eq {c : Nat} {s u w_ : State} (h : Moves c s u) {pa fn : Nat} {sr : Bool} {r_} (e_ : atomicDraw u pa fn sr = (w_, r_)) : Moves c s w_ := by
  have h_ := atomicDraw_moves h pa fn sr
  rwa [e_] at h_

theorem atomicAt_moves {c : Nat} {s u : State} (h : Moves c s u) (x : Xl) (fn n v e : Nat) (sr : Bool) : Moves c s (atomicAt u x fn n v e sr).1 := by
  unfold atomicAt
  (try dsimp only)
  repeat' split
  all_goals repeat' first | with_reducible exact h | with_reducible assumption | with_reducible refine claimLine_moves ?_ _ | with_reducible refine atomicDraw_moves ?_ _ _ _ | with_reducible refine atomicDraw_moves_eq ?_ (by assumption) | with_reducible refine modSys_moves ?_ _ ?_ | split | with_reducible exact (fun (w : Memory.wf _) => w) | exact fun w => w | exact fun w => Memory.wf_memMask _ _ _ _ _ w | exact fun w => Memory.wf_memWrite _ _ _ w | exact deliverPosted_memory_wf _

theorem atomicAt_moves_eq {c : Nat} {s u w_ : State} (h : Moves c s u) {x : Xl} {fn n v e : Nat} {sr : Bool} {r_} (e_ : atomicAt u x fn n v e sr = (w_, r_)) : Moves c s w_ := by
  have h_ := atomicAt_moves h x fn n v e sr
  rwa [e_] at h_

theorem acquireIf_moves {c : Nat} {s u : State} (h : Moves c s u) (sc : Nat) : Moves c s (acquireIf u c sc) := by
  unfold acquireIf
  (try dsimp only)
  repeat' split
  all_goals repeat' first | with_reducible exact h | with_reducible assumption | with_reducible refine acquireActs_moves ?_ _ | split | with_reducible exact (fun (w : Memory.wf _) => w) | exact fun w => w | exact fun w => Memory.wf_memMask _ _ _ _ _ w | exact fun w => Memory.wf_memWrite _ _ _ w | exact deliverPosted_memory_wf _

theorem releaseIf_moves {c : Nat} {s u : State} (h : Moves c s u) (sc seq : Nat) : Moves c s (releaseIf u c sc seq) := by
  unfold releaseIf
  (try dsimp only)
  repeat' split
  all_goals repeat' first | with_reducible exact h | with_reducible assumption | with_reducible refine releaseOlder_moves ?_ _ _ | split | with_reducible exact (fun (w : Memory.wf _) => w) | exact fun w => w | exact fun w => Memory.wf_memMask _ _ _ _ _ w | exact fun w => Memory.wf_memWrite _ _ _ w | exact deliverPosted_memory_wf _

theorem deviceLine_moves {c : Nat} {s u : State} (h : Moves c s u) (die line : Nat) (nc : Bool) : Moves c s (deviceLine u die line nc).1 := by
  unfold deviceLine
  (try dsimp only)
  repeat' split
  all_goals repeat' first | with_reducible exact h | with_reducible assumption | with_reducible refine Moves.sys ?_ (sendMsg_sysOnly (.refl _) _) | with_reducible refine Moves.sys ?_ (settle_sysOnly (.refl _)) | with_reducible refine Moves.sys ?_ (sliceRead_sysOnly (.refl _) _ _) | with_reducible refine Moves.sys ?_ (sliceRead_sysOnly_eq (.refl _) (by assumption)) | split | with_reducible exact (fun (w : Memory.wf _) => w) | exact fun w => w | exact fun w => Memory.wf_memMask _ _ _ _ _ w | exact fun w => Memory.wf_memWrite _ _ _ w | exact deliverPosted_memory_wf _

theorem deviceLine_moves_eq {c : Nat} {s u w_ : State} (h : Moves c s u) {die line : Nat} {nc : Bool} {r_} (e_ : deviceLine u die line nc = (w_, r_)) : Moves c s w_ := by
  have h_ := deviceLine_moves h die line nc
  rwa [e_] at h_

theorem scopedRead_moves {c : Nat} {s u : State} (h : Moves c s u) (line sc : Nat) (nc : Bool) : Moves c s (scopedRead u c line sc nc).1 := by
  unfold scopedRead
  (try dsimp only)
  repeat' split
  all_goals repeat' first | with_reducible exact h | with_reducible assumption | with_reducible refine cleanWayLine_moves ?_ _ _ _ | with_reducible refine writeOwnLine_moves ?_ _ | with_reducible refine deviceLine_moves ?_ _ _ _ | with_reducible refine deviceLine_moves_eq ?_ (by assumption) | with_reducible refine Moves.sys ?_ (dieRead_sysOnly (.refl _) _ _ _) | with_reducible refine Moves.sys ?_ (dieRead_sysOnly_eq (.refl _) (by assumption)) | with_reducible refine Moves.sys ?_ (wayRead_sysOnly (.refl _) _ _ _) | with_reducible refine Moves.sys ?_ (wayRead_sysOnly_eq (.refl _) (by assumption)) | split | with_reducible exact (fun (w : Memory.wf _) => w) | exact fun w => w | exact fun w => Memory.wf_memMask _ _ _ _ _ w | exact fun w => Memory.wf_memWrite _ _ _ w | exact deliverPosted_memory_wf _

theorem scopedRead_moves_eq {c : Nat} {s u w_ : State} (h : Moves c s u) {line sc : Nat} {nc : Bool} {r_} (e_ : scopedRead u c line sc nc = (w_, r_)) : Moves c s w_ := by
  have h_ := scopedRead_moves h line sc nc
  rwa [e_] at h_

theorem loadBytes_moves {c : Nat} {s u : State} (h : Moves c s u) (x : Xl) (n sc seq : Nat) : Moves c s (loadBytes u c x n sc seq).1 := by
  unfold loadBytes
  (try dsimp only)
  repeat' split
  all_goals repeat' first | with_reducible exact h | with_reducible assumption | with_reducible refine singleRead_moves ?_ _ _ | with_reducible refine singleRead_moves_eq ?_ (by assumption) | with_reducible refine l1Read_moves ?_ _ _ | with_reducible refine l1Read_moves_eq ?_ (by assumption) | with_reducible refine cleanL1Line_moves ?_ _ | with_reducible refine drainSbLine_moves ?_ _ | with_reducible refine acquireActs_moves ?_ _ | with_reducible refine acquireIf_moves ?_ _ | with_reducible refine scopedRead_moves ?_ _ _ _ | with_reducible refine scopedRead_moves_eq ?_ (by assumption) | split | with_reducible exact (fun (w : Memory.wf _) => w) | exact fun w => w | exact fun w => Memory.wf_memMask _ _ _ _ _ w | exact fun w => Memory.wf_memWrite _ _ _ w | exact deliverPosted_memory_wf _

theorem loadBytes_moves_eq {c : Nat} {s u w_ : State} (h : Moves c s u) {x : Xl} {n sc seq : Nat} {r_} (e_ : loadBytes u c x n sc seq = (w_, r_)) : Moves c s w_ := by
  have h_ := loadBytes_moves h x n sc seq
  rwa [e_] at h_

theorem patchL1_moves {c : Nat} {s u : State} (h : Moves c s u) (line : Nat) (d : LineData) (m : LineMask) : Moves c s (patchL1 u c line d m) := by
  unfold patchL1
  (try dsimp only)
  repeat' split
  all_goals repeat' first | with_reducible exact h | with_reducible assumption | with_reducible refine setL1_moves ?_ _ | split | with_reducible exact (fun (w : Memory.wf _) => w) | exact fun w => w | exact fun w => Memory.wf_memMask _ _ _ _ _ w | exact fun w => Memory.wf_memWrite _ _ _ w | exact deliverPosted_memory_wf _

theorem patchWays_moves {c : Nat} {s u : State} (h : Moves c s u) (g line : Nat) (d : LineData) (m : LineMask) : Moves c s (patchWays u g line d m) := by
  unfold patchWays
  (try dsimp only)
  repeat' split
  all_goals repeat' first | with_reducible exact h | with_reducible assumption | with_reducible refine Moves.sys ?_ (setWays_sysOnly (.refl _) _ _) | split | with_reducible exact (fun (w : Memory.wf _) => w) | exact fun w => w | exact fun w => Memory.wf_memMask _ _ _ _ _ w | exact fun w => Memory.wf_memWrite _ _ _ w | exact deliverPosted_memory_wf _

theorem patchL2_moves {c : Nat} {s u : State} (h : Moves c s u) (die line : Nat) (d : LineData) (m : LineMask) : Moves c s (patchL2 u die line d m) := by
  unfold patchL2
  (try dsimp only)
  repeat' split
  all_goals repeat' first | with_reducible exact h | with_reducible assumption | with_reducible refine Moves.sys ?_ (l2Put_sysOnly (.refl _) _ _) | split | with_reducible exact (fun (w : Memory.wf _) => w) | exact fun w => w | exact fun w => Memory.wf_memMask _ _ _ _ _ w | exact fun w => Memory.wf_memWrite _ _ _ w | exact deliverPosted_memory_wf _

theorem scopedWrite_moves {c : Nat} {s u : State} (h : Moves c s u) (line sc : Nat) (d : LineData) (m : LineMask) (nc : Bool) : Moves c s (scopedWrite u c line sc d m nc) := by
  unfold scopedWrite
  (try dsimp only)
  repeat' split
  all_goals repeat' first | with_reducible exact h | with_reducible assumption | with_reducible refine patchL1_moves ?_ _ _ _ | with_reducible refine patchWays_moves ?_ _ _ _ _ | with_reducible refine patchL2_moves ?_ _ _ _ _ | with_reducible refine Moves.sys ?_ (sliceWrite_sysOnly (.refl _) _ _ _ _) | with_reducible refine Moves.sys ?_ (dieWrite_sysOnly (.refl _) _ _ _ _ _) | with_reducible refine Moves.sys ?_ (wayWrite_sysOnly (.refl _) _ _ _ _ _) | split | with_reducible exact (fun (w : Memory.wf _) => w) | exact fun w => w | exact fun w => Memory.wf_memMask _ _ _ _ _ w | exact fun w => Memory.wf_memWrite _ _ _ w | exact deliverPosted_memory_wf _

theorem storeScoped_moves {c : Nat} {s u : State} (h : Moves c s u) (w : PendStore) : Moves c s (storeScoped u c w) := by
  unfold storeScoped
  (try dsimp only)
  repeat' split
  all_goals repeat' first | with_reducible exact h | with_reducible assumption | with_reducible refine singleWrite_moves ?_ _ _ _ _ | with_reducible refine scopedWrite_moves ?_ _ _ _ _ _ | split | with_reducible exact (fun (w : Memory.wf _) => w) | exact fun w => w | exact fun w => Memory.wf_memMask _ _ _ _ _ w | exact fun w => Memory.wf_memWrite _ _ _ w | exact deliverPosted_memory_wf _

theorem performAcc_moves {c : Nat} {s u : State} (h : Moves c s u) (p : PendAcc) : Moves c s (performAcc u c p) := by
  cases p <;> unfold performAcc <;> dsimp only
  all_goals repeat' split
  all_goals repeat' first | with_reducible exact h | with_reducible refine writeG_moves ?_ _ _ | with_reducible refine loadBytes_moves_eq ?_ (by assumption) | with_reducible refine loadBytes_moves ?_ _ _ _ _ | with_reducible refine acquireIf_moves ?_ _ | with_reducible refine releaseIf_moves ?_ _ _ | with_reducible exact modSys_moves (releaseIf_moves h _ _) _ (fun w => w) | with_reducible refine atomicAt_moves_eq ?_ (by assumption) | with_reducible refine atomicAt_moves ?_ _ _ _ _ _ _ | with_reducible refine writeOwnLine_moves ?_ _ | with_reducible refine drainSbLine_moves ?_ _ | with_reducible refine storeScoped_moves ?_ _ | split

theorem performAll_moves {c : Nat} {s u : State} (h : Moves c s u) (l : List PendAcc) : Moves c s (performAll u c l) := by
  induction l generalizing u with
  | nil => exact h
  | cons p t ih => unfold performAll; exact ih (performAcc_moves (modMem_moves h _) _)

theorem quiesce_moves {c : Nat} {s u : State} (h : Moves c s u)  : Moves c s (quiesce u c) := by
  unfold quiesce
  (try dsimp only)
  repeat' split
  all_goals repeat' first | with_reducible exact h | with_reducible assumption | with_reducible refine performAll_moves ?_ _ | split | with_reducible exact (fun (w : Memory.wf _) => w) | exact fun w => w | exact fun w => Memory.wf_memMask _ _ _ _ _ w | exact fun w => Memory.wf_memWrite _ _ _ w | exact deliverPosted_memory_wf _

theorem performAt_moves {c : Nat} {s u : State} (h : Moves c s u) (i : Nat) : Moves c s (performAt u c i) := by
  unfold performAt
  (try dsimp only)
  repeat' split
  all_goals repeat' first | with_reducible exact h | with_reducible assumption | with_reducible refine performAcc_moves ?_ _ | with_reducible refine modMem_moves ?_ _ | split | with_reducible exact (fun (w : Memory.wf _) => w) | exact fun w => w | exact fun w => Memory.wf_memMask _ _ _ _ _ w | exact fun w => Memory.wf_memWrite _ _ _ w | exact deliverPosted_memory_wf _

theorem beforeAccess_moves {c : Nat} {s u : State} (h : Moves c s u) (line : Nat) : Moves c s (beforeAccess u c line) := by
  unfold beforeAccess
  (try dsimp only)
  repeat' split
  all_goals repeat' first | with_reducible exact h | with_reducible assumption | with_reducible refine quiesce_moves ?_ | split | with_reducible exact (fun (w : Memory.wf _) => w) | exact fun w => w | exact fun w => Memory.wf_memMask _ _ _ _ _ w | exact fun w => Memory.wf_memWrite _ _ _ w | exact deliverPosted_memory_wf _

theorem afterAcquires_moves {c : Nat} {s u : State} (h : Moves c s u)  : Moves c s (afterAcquires u c) := by
  unfold afterAcquires
  (try dsimp only)
  repeat' split
  all_goals repeat' first | with_reducible exact h | with_reducible assumption | with_reducible refine quiesce_moves ?_ | split | with_reducible exact (fun (w : Memory.wf _) => w) | exact fun w => w | exact fun w => Memory.wf_memMask _ _ _ _ _ w | exact fun w => Memory.wf_memWrite _ _ _ w | exact deliverPosted_memory_wf _

theorem release_moves {c : Nat} {s u : State} (h : Moves c s u) (sc : Nat) : Moves c s (release u c sc) := by
  unfold release
  (try dsimp only)
  repeat' split
  all_goals repeat' first | with_reducible exact h | with_reducible assumption | with_reducible refine releaseActs_moves ?_ _ | with_reducible refine quiesce_moves ?_ | split | with_reducible exact (fun (w : Memory.wf _) => w) | exact fun w => w | exact fun w => Memory.wf_memMask _ _ _ _ _ w | exact fun w => Memory.wf_memWrite _ _ _ w | exact deliverPosted_memory_wf _

theorem acquire_moves {c : Nat} {s u : State} (h : Moves c s u) (sc : Nat) : Moves c s (acquire u c sc) := by
  unfold acquire
  (try dsimp only)
  repeat' split
  all_goals repeat' first | with_reducible exact h | with_reducible assumption | with_reducible refine acquireActs_moves ?_ _ | with_reducible refine quiesce_moves ?_ | split | with_reducible exact (fun (w : Memory.wf _) => w) | exact fun w => w | exact fun w => Memory.wf_memMask _ _ _ _ _ w | exact fun w => Memory.wf_memWrite _ _ _ w | exact deliverPosted_memory_wf _

theorem fenceActs_moves {c : Nat} {s u : State} (h : Moves c s u) (sc : Nat) : Moves c s (fenceActs u c sc) := by
  unfold fenceActs
  (try dsimp only)
  repeat' split
  all_goals repeat' first | with_reducible exact h | with_reducible assumption | with_reducible refine release_moves ?_ _ | with_reducible refine acquire_moves ?_ _ | split | with_reducible exact (fun (w : Memory.wf _) => w) | exact fun w => w | exact fun w => Memory.wf_memMask _ _ _ _ _ w | exact fun w => Memory.wf_memWrite _ _ _ w | exact deliverPosted_memory_wf _

theorem drainEntry_moves {c : Nat} {s u : State} (h : Moves c s u) (i : Nat) : Moves c s (drainEntry u c i) := by
  unfold drainEntry
  (try dsimp only)
  repeat' split
  all_goals repeat' first | with_reducible exact h | with_reducible assumption | with_reducible refine landStore_moves ?_ _ | with_reducible refine quiesce_moves ?_ | with_reducible refine modMem_moves ?_ _ | split | with_reducible exact (fun (w : Memory.wf _) => w) | exact fun w => w | exact fun w => Memory.wf_memMask _ _ _ _ _ w | exact fun w => Memory.wf_memWrite _ _ _ w | exact deliverPosted_memory_wf _

theorem drainOldest_moves {c : Nat} {s u : State} (h : Moves c s u)  : Moves c s (drainOldest u c) := by
  unfold drainOldest
  (try dsimp only)
  repeat' split
  all_goals repeat' first | with_reducible exact h | with_reducible assumption | with_reducible refine drainEntry_moves ?_ _ | split | with_reducible exact (fun (w : Memory.wf _) => w) | exact fun w => w | exact fun w => Memory.wf_memMask _ _ _ _ _ w | exact fun w => Memory.wf_memWrite _ _ _ w | exact deliverPosted_memory_wf _

theorem drainLater_moves {c : Nat} {s u : State} (h : Moves c s u) (i : Nat) : Moves c s (drainLater u c i) := by
  unfold drainLater
  (try dsimp only)
  repeat' split
  all_goals repeat' first | with_reducible exact h | with_reducible assumption | with_reducible refine drainEntry_moves ?_ _ | split | with_reducible exact (fun (w : Memory.wf _) => w) | exact fun w => w | exact fun w => Memory.wf_memMask _ _ _ _ _ w | exact fun w => Memory.wf_memWrite _ _ _ w | exact deliverPosted_memory_wf _

theorem bufferStore_moves {c : Nat} {s u : State} (h : Moves c s u) (e : StoreEnt) : Moves c s (bufferStore u c e) := by
  unfold bufferStore
  (try dsimp only)
  repeat' split
  all_goals repeat' first | with_reducible exact h | with_reducible assumption | with_reducible refine drainOldest_moves ?_ | with_reducible refine modMem_moves ?_ _ | split | with_reducible exact (fun (w : Memory.wf _) => w) | exact fun w => w | exact fun w => Memory.wf_memMask _ _ _ _ _ w | exact fun w => Memory.wf_memWrite _ _ _ w | exact deliverPosted_memory_wf _

theorem storeBytes_moves {c : Nat} {s u : State} (h : Moves c s u) (x : Xl) (bs : List Byte) (sc : Nat) : Moves c s (storeBytes u c x bs sc) := by
  unfold storeBytes
  (try dsimp only)
  repeat' split
  all_goals repeat' first | with_reducible exact h | with_reducible assumption | with_reducible refine beforeAccess_moves ?_ _ | with_reducible refine bufferStore_moves ?_ _ | with_reducible refine modMem_moves ?_ _ | split | with_reducible exact (fun (w : Memory.wf _) => w) | exact fun w => w | exact fun w => Memory.wf_memMask _ _ _ _ _ w | exact fun w => Memory.wf_memWrite _ _ _ w | exact deliverPosted_memory_wf _

theorem issueLoad_moves {c : Nat} {s u : State} (h : Moves c s u) (x : Xl) (n sc : Nat) (signed : Bool) (reg : Nat) : Moves c s (issueLoad u c x n sc signed reg) :=
  modMem_moves (beforeAccess_moves h _) _

theorem issueAmo_moves {c : Nat} {s u : State} (h : Moves c s u) (x : Xl) (fn n v e sc : Nat) (ret sr : Bool) (reg : Nat) :
    Moves c s (issueAmo u c x fn n v e sc ret sr reg) := modMem_moves (beforeAccess_moves h _) _

theorem issueRelease_moves {c : Nat} {s u : State} (h : Moves c s u) (sc : Nat) (p : Option Post) : Moves c s (issueRelease u c sc p) := by
  unfold issueRelease
  (try dsimp only)
  repeat' split
  all_goals repeat' first | with_reducible exact h | with_reducible assumption | with_reducible refine modMem_moves ?_ _ | split | with_reducible exact (fun (w : Memory.wf _) => w) | exact fun w => w | exact fun w => Memory.wf_memMask _ _ _ _ _ w | exact fun w => Memory.wf_memWrite _ _ _ w | exact deliverPosted_memory_wf _

theorem dieWriteBack_moves {c : Nat} {s u : State} (h : Moves c s u) (die line : Nat) : Moves c s (dieWriteBack u die line) := by
  unfold dieWriteBack
  split
  · exact h
  · split
    · exact h.sys (l2Put_sysOnly (homeMerge_sysOnly (.refl _) _ _ _) _ _)
    · split
      · exact h.sys (dieEvict_sysOnly (.refl _) _ _)
      · exact h

theorem cacheClean_moves {c : Nat} {s u : State} (h : Moves c s u) (sc line : Nat) : Moves c s (cacheClean u c sc line) := by
  unfold cacheClean
  (try dsimp only)
  repeat' split
  all_goals repeat' first | with_reducible exact h | with_reducible assumption | with_reducible refine cleanL1Line_moves ?_ _ | with_reducible refine cleanWayLine_moves ?_ _ _ _ | with_reducible refine dieWriteBack_moves ?_ _ _ | split | with_reducible exact (fun (w : Memory.wf _) => w) | exact fun w => w | exact fun w => Memory.wf_memMask _ _ _ _ _ w | exact fun w => Memory.wf_memWrite _ _ _ w | exact deliverPosted_memory_wf _

theorem dieDropClean_moves {c : Nat} {s u : State} (h : Moves c s u) (die line : Nat) : Moves c s (dieDropClean u die line) := by
  unfold dieDropClean
  (try dsimp only)
  repeat' split
  all_goals repeat' first | with_reducible exact h | with_reducible assumption | with_reducible refine Moves.sys ?_ (l2Put_sysOnly (.refl _) _ _) | with_reducible refine Moves.sys ?_ (dieEvict_sysOnly (.refl _) _ _) | split | with_reducible exact (fun (w : Memory.wf _) => w) | exact fun w => w | exact fun w => Memory.wf_memMask _ _ _ _ _ w | exact fun w => Memory.wf_memWrite _ _ _ w | exact deliverPosted_memory_wf _

theorem cacheDrop_moves {c : Nat} {s u : State} (h : Moves c s u) (sc line : Nat) : Moves c s (cacheDrop u c sc line) := by
  unfold cacheDrop
  (try dsimp only)
  repeat' split
  all_goals repeat' first | with_reducible exact h | with_reducible assumption | with_reducible refine setL1_moves ?_ _ | with_reducible refine dieDropClean_moves ?_ _ _ | with_reducible refine Moves.sys ?_ (setWays_sysOnly (.refl _) _ _) | split | with_reducible exact (fun (w : Memory.wf _) => w) | exact fun w => w | exact fun w => Memory.wf_memMask _ _ _ _ _ w | exact fun w => Memory.wf_memWrite _ _ _ w | exact deliverPosted_memory_wf _

theorem cacheEvict_moves {c : Nat} {s u : State} (h : Moves c s u) (sc line : Nat) : Moves c s (cacheEvict u c sc line) := by
  unfold cacheEvict
  (try dsimp only)
  repeat' split
  all_goals repeat' first | with_reducible exact h | with_reducible assumption | with_reducible refine evictL1_moves ?_ _ | with_reducible refine Moves.sys ?_ (dieEvict_sysOnly (.refl _) _ _) | with_reducible refine Moves.sys ?_ (evictWay_sysOnly (.refl _) _ _) | split | with_reducible exact (fun (w : Memory.wf _) => w) | exact fun w => w | exact fun w => Memory.wf_memMask _ _ _ _ _ w | exact fun w => Memory.wf_memWrite _ _ _ w | exact deliverPosted_memory_wf _

theorem cacheAfter_moves {c : Nat} {s u : State} (h : Moves c s u) (line : Nat) : Moves c s (cacheAfter u c line) := by
  unfold cacheAfter
  (try dsimp only)
  repeat' split
  all_goals repeat' first | with_reducible exact h | with_reducible assumption | with_reducible refine drainSome_moves ?_ _ | with_reducible refine drainSbLine_moves ?_ _ | with_reducible refine quiesce_moves ?_ | split | with_reducible exact (fun (w : Memory.wf _) => w) | exact fun w => w | exact fun w => Memory.wf_memMask _ _ _ _ _ w | exact fun w => Memory.wf_memWrite _ _ _ w | exact deliverPosted_memory_wf _

theorem cacheOp_moves {c : Nat} {s u : State} (h : Moves c s u) (op sc line : Nat) : Moves c s (cacheOp u c op sc line) := by
  unfold cacheOp
  (try dsimp only)
  repeat' split
  all_goals repeat' first | with_reducible exact h | with_reducible assumption | with_reducible refine beforeAccess_moves ?_ _ | with_reducible refine cacheClean_moves ?_ _ _ | with_reducible refine cacheDrop_moves ?_ _ _ | with_reducible refine cacheEvict_moves ?_ _ _ | with_reducible refine cacheAfter_moves ?_ _ | split | with_reducible exact (fun (w : Memory.wf _) => w) | exact fun w => w | exact fun w => Memory.wf_memMask _ _ _ _ _ w | exact fun w => Memory.wf_memWrite _ _ _ w | exact deliverPosted_memory_wf _

theorem cacheSingle_moves {c : Nat} {s u : State} (h : Moves c s u) (op line : Nat) : Moves c s (cacheSingle u c op line) := by
  unfold cacheSingle
  (try dsimp only)
  repeat' split
  all_goals repeat' first | with_reducible exact h | with_reducible assumption | with_reducible refine beforeAccess_moves ?_ _ | with_reducible refine cacheAfter_moves ?_ _ | split | with_reducible exact (fun (w : Memory.wf _) => w) | exact fun w => w | exact fun w => Memory.wf_memMask _ _ _ _ _ w | exact fun w => Memory.wf_memWrite _ _ _ w | exact deliverPosted_memory_wf _

theorem clusterRead_moves {c : Nat} {s u : State} (h : Moves c s u) (x : Xl) (n : Nat) : Moves c s (clusterRead u c x n).1 := by
  unfold clusterRead
  (try dsimp only)
  repeat' split
  all_goals repeat' first | with_reducible exact h | with_reducible assumption | with_reducible refine singleRead_moves ?_ _ _ | with_reducible refine singleRead_moves_eq ?_ (by assumption) | with_reducible refine Moves.sys ?_ (wayRead_sysOnly (.refl _) _ _ _) | with_reducible refine Moves.sys ?_ (wayRead_sysOnly_eq (.refl _) (by assumption)) | split | with_reducible exact (fun (w : Memory.wf _) => w) | exact fun w => w | exact fun w => Memory.wf_memMask _ _ _ _ _ w | exact fun w => Memory.wf_memWrite _ _ _ w | exact deliverPosted_memory_wf _

theorem clusterRead_moves_eq {c : Nat} {s u w_ : State} (h : Moves c s u) {x : Xl} {n : Nat} {r_} (e_ : clusterRead u c x n = (w_, r_)) : Moves c s w_ := by
  have h_ := clusterRead_moves h x n
  rwa [e_] at h_

theorem clusterWrite_moves {c : Nat} {s u : State} (h : Moves c s u) (x : Xl) (d : LineData) (m : LineMask) : Moves c s (clusterWrite u c x d m) := by
  unfold clusterWrite
  (try dsimp only)
  repeat' split
  all_goals repeat' first | with_reducible exact h | with_reducible assumption | with_reducible refine singleLine_moves ?_ _ _ _ | with_reducible refine Moves.sys ?_ (wayWrite_sysOnly (.refl _) _ _ _ _ _) | split | with_reducible exact (fun (w : Memory.wf _) => w) | exact fun w => w | exact fun w => Memory.wf_memMask _ _ _ _ _ w | exact fun w => Memory.wf_memWrite _ _ _ w | exact deliverPosted_memory_wf _

theorem deviceWrite_moves {c : Nat} {s u : State} (h : Moves c s u) (x : Xl) (bs : List Byte) : Moves c s (deviceWrite u x bs) := by
  unfold deviceWrite
  (try dsimp only)
  repeat' split
  all_goals repeat' first | with_reducible exact h | with_reducible assumption | with_reducible refine postBytes_moves ?_ _ _ | with_reducible refine Moves.sys ?_ (sliceWrite_sysOnly (.refl _) _ _ _ _) | with_reducible refine Moves.sys ?_ (touchPinned_sysOnly (.refl _) _) | with_reducible refine modSys_moves ?_ _ ?_ | split | with_reducible exact (fun (w : Memory.wf _) => w) | exact fun w => w | exact fun w => Memory.wf_memMask _ _ _ _ _ w | exact fun w => Memory.wf_memWrite _ _ _ w | exact deliverPosted_memory_wf _

theorem agentRead_moves {c : Nat} {s u : State} (h : Moves c s u) (x : Xl) (n : Nat) : Moves c s (agentRead u x n).1 := by
  unfold agentRead
  (try dsimp only)
  repeat' split
  all_goals repeat' first | with_reducible exact h | with_reducible assumption | with_reducible refine singleRead_moves ?_ _ _ | with_reducible refine singleRead_moves_eq ?_ (by assumption) | with_reducible refine Moves.sys ?_ (dieRead_sysOnly (.refl _) _ _ _) | with_reducible refine Moves.sys ?_ (dieRead_sysOnly_eq (.refl _) (by assumption)) | split | with_reducible exact (fun (w : Memory.wf _) => w) | exact fun w => w | exact fun w => Memory.wf_memMask _ _ _ _ _ w | exact fun w => Memory.wf_memWrite _ _ _ w | exact deliverPosted_memory_wf _

theorem agentRead_moves_eq {c : Nat} {s u w_ : State} (h : Moves c s u) {x : Xl} {n : Nat} {r_} (e_ : agentRead u x n = (w_, r_)) : Moves c s w_ := by
  have h_ := agentRead_moves h x n
  rwa [e_] at h_

theorem agentWrite_moves {c : Nat} {s u : State} (h : Moves c s u) (x : Xl) (bs : List Byte) : Moves c s (agentWrite u x bs) := by
  unfold agentWrite
  (try dsimp only)
  repeat' split
  all_goals repeat' first | with_reducible exact h | with_reducible assumption | with_reducible refine deviceWrite_moves ?_ _ _ | with_reducible refine Moves.sys ?_ (homeMerge_sysOnly (.refl _) _ _ _) | with_reducible refine Moves.sys ?_ (dieWrite_sysOnly (.refl _) _ _ _ _ _) | split | with_reducible exact (fun (w : Memory.wf _) => w) | exact fun w => w | exact fun w => Memory.wf_memMask _ _ _ _ _ w | exact fun w => Memory.wf_memWrite _ _ _ w | exact deliverPosted_memory_wf _

theorem deviceRead_moves {c : Nat} {s u : State} (h : Moves c s u) (x : Xl) (n : Nat) : Moves c s (deviceRead u x n).1 := by
  unfold deviceRead
  (try dsimp only)
  repeat' split
  all_goals repeat' first | with_reducible exact h | with_reducible assumption | with_reducible refine singleRead_moves ?_ _ _ | with_reducible refine singleRead_moves_eq ?_ (by assumption) | with_reducible refine Moves.sys ?_ (sliceRead_sysOnly (.refl _) _ _) | with_reducible refine Moves.sys ?_ (sliceRead_sysOnly_eq (.refl _) (by assumption)) | split | with_reducible exact (fun (w : Memory.wf _) => w) | exact fun w => w | exact fun w => Memory.wf_memMask _ _ _ _ _ w | exact fun w => Memory.wf_memWrite _ _ _ w | exact deliverPosted_memory_wf _

theorem deviceRead_moves_eq {c : Nat} {s u w_ : State} (h : Moves c s u) {x : Xl} {n : Nat} {r_} (e_ : deviceRead u x n = (w_, r_)) : Moves c s w_ := by
  have h_ := deviceRead_moves h x n
  rwa [e_] at h_

end Sys2Proof.Machine
end

