-- ==== Sys2Proof/Laws/PerInstr.lean ====
section
/-! SUPPORT. For every instruction: its word decodes to it (the family RoundTrip of LAWS.json). -/

set_option maxRecDepth 4000
namespace Sys2Proof.Laws.RoundTrip
open Sys2Proof

theorem ext_hi {n m : Nat} (x : BitVec n) (y : BitVec m) (lo k : Nat) (h : m ≤ lo) :
    (x ++ y).extractLsb' lo k = x.extractLsb' (lo - m) k := by
  ext i hi
  have hn : ¬ (lo + i < m) := by omega
  simp only [BitVec.getElem_extractLsb', BitVec.getLsbD_append, hn, if_false]
  exact congrArg _ (by omega)

theorem ext_lo {n m : Nat} (x : BitVec n) (y : BitVec m) (lo k : Nat) (h : lo + k ≤ m) :
    (x ++ y).extractLsb' lo k = y.extractLsb' lo k := by
  ext i hi
  have hn : lo + i < m := by omega
  simp only [BitVec.getElem_extractLsb', BitVec.getLsbD_append, hn, if_true]

theorem ext_self {n : Nat} {x : BitVec n} : x.extractLsb' 0 n = x := BitVec.extractLsb'_eq_self

theorem bit_hi {n m : Nat} (x : BitVec n) (y : BitVec m) (j : Nat) (h : m ≤ j) :
    (x ++ y).getLsbD j = x.getLsbD (j - m) := by
  have hn : ¬ (j < m) := by omega
  simp only [BitVec.getLsbD_append, hn, if_false]

theorem ext_ne {w : Word} {lo k : Nat} {v : BitVec k} (a n : Nat) {c : BitVec n} (h : w.extractLsb' (lo + a) n = c)
    (hk : a + n ≤ k) (hv : v.extractLsb' a n ≠ c) : (w.extractLsb' lo k == v) = false := by
  rw [beq_eq_false_iff_ne]
  intro e
  apply hv
  rw [← h, ← e]
  ext i hi
  have : a + i < k := by omega
  simp [BitVec.getElem_extractLsb', this, Nat.add_assoc]

theorem low16 {w : Word} {lo k : Nat} (h : lo + k ≤ 16) : (w.extractLsb' 0 16).extractLsb' lo k = w.extractLsb' lo k := by
  ext i hi
  have : lo + i < 16 := by omega
  simp [BitVec.getElem_extractLsb', this]

/-- A well-formed instruction's word decodes in its slot to the instruction (R31, R34, R35, R42 to R59). -/
def Statement (i : Instr) : Prop :=
  i.wf = true → ∀ x, encode i = some x → decodeSlot x.slot x.word = .ok i

theorem of_word {i : Instr} {sl : Slot} {w : Word} (he : encode i = some ⟨sl, w⟩)
    (hd : ∀ v, v = w → decodeSlot sl v = checkFields (.ok i)) : Statement i := by
  intro hw x hx
  cases he.symm.trans hx
  exact (hd w rfl).trans (if_pos hw)

theorem of_none {i : Instr} (he : encode i = none) : Statement i := fun _ _ hx => nomatch he.symm.trans hx

theorem nopy (s : BitVec 4) : Statement (.nopy s) :=
  of_word rfl fun wd hw => by
    have h21_6 : wd.extractLsb' 21 6 = 0#6 := by subst hw; simp (disch := decide) only [ext_lo]; rfl
    have h0_21 : wd.extractLsb' 0 21 = 0#21 := by subst hw; simp (disch := decide) only [ext_lo]; rfl
    have h27_4 : wd.extractLsb' 27 4 = s := by subst hw; simp (disch := decide) only [ext_hi, ext_lo]; exact ext_self
    have hh : wd.getLsbD 31 = false := by subst hw; simp (disch := decide) only [bit_hi]; rfl
    clear hw
    have e : decodeSlot .y wd = checkFields (rawSync wd) := by show checkFields (rawY wd) = _; unfold rawY; rw [hh]; rfl
    rw [e]; unfold rawSync; rw [h21_6]
    show checkFields (if wd.extractLsb' 0 21 == 0 then .ok (.nopy (wd.extractLsb' 27 4)) else .error .bits) = _
    simp only [h0_21, h27_4]; rfl

theorem kwait (s : BitVec 4) (k : BitVec 4) (n : BitVec 16) : Statement (.kwait s k n) :=
  of_word rfl fun wd hw => by
    have h21_6 : wd.extractLsb' 21 6 = 1#6 := by subst hw; simp (disch := decide) only [ext_hi, ext_lo]; rfl
    have h0_1 : wd.extractLsb' 0 1 = 0#1 := by subst hw; simp (disch := decide) only [ext_lo]; rfl
    have h27_4 : wd.extractLsb' 27 4 = s := by subst hw; simp (disch := decide) only [ext_hi, ext_lo]; exact ext_self
    have h17_4 : wd.extractLsb' 17 4 = k := by subst hw; simp (disch := decide) only [ext_hi, ext_lo]; exact ext_self
    have h1_16 : wd.extractLsb' 1 16 = n := by subst hw; simp (disch := decide) only [ext_hi, ext_lo]; exact ext_self
    have hh : wd.getLsbD 31 = false := by subst hw; simp (disch := decide) only [bit_hi]; rfl
    clear hw
    have e : decodeSlot .y wd = checkFields (rawSync wd) := by show checkFields (rawY wd) = _; unfold rawY; rw [hh]; rfl
    rw [e]; unfold rawSync; rw [h21_6]
    show checkFields (if wd.extractLsb' 0 1 == 0 then .ok (.kwait (wd.extractLsb' 27 4) (wd.extractLsb' 17 4) (wd.extractLsb' 1 16)) else .error .bits) = _
    simp only [h0_1, h27_4, h17_4, h1_16]; rfl

theorem kpost (s : BitVec 4) (k : BitVec 4) (n : BitVec 8) (c : BitVec 6) (f : BitVec 1) : Statement (.kpost s k n c f) :=
  of_word rfl fun wd hw => by
    have h21_6 : wd.extractLsb' 21 6 = 2#6 := by subst hw; simp (disch := decide) only [ext_hi, ext_lo]; rfl
    have h0_2 : wd.extractLsb' 0 2 = 0#2 := by subst hw; simp (disch := decide) only [ext_lo]; rfl
    have h27_4 : wd.extractLsb' 27 4 = s := by subst hw; simp (disch := decide) only [ext_hi, ext_lo]; exact ext_self
    have h17_4 : wd.extractLsb' 17 4 = k := by subst hw; simp (disch := decide) only [ext_hi, ext_lo]; exact ext_self
    have h9_8 : wd.extractLsb' 9 8 = n := by subst hw; simp (disch := decide) only [ext_hi, ext_lo]; exact ext_self
    have h3_6 : wd.extractLsb' 3 6 = c := by subst hw; simp (disch := decide) only [ext_hi, ext_lo]; exact ext_self
    have h2_1 : wd.extractLsb' 2 1 = f := by subst hw; simp (disch := decide) only [ext_hi, ext_lo]; exact ext_self
    have hh : wd.getLsbD 31 = false := by subst hw; simp (disch := decide) only [bit_hi]; rfl
    clear hw
    have e : decodeSlot .y wd = checkFields (rawSync wd) := by show checkFields (rawY wd) = _; unfold rawY; rw [hh]; rfl
    rw [e]; unfold rawSync; rw [h21_6]
    show checkFields (if wd.extractLsb' 0 2 == 0 then .ok (.kpost (wd.extractLsb' 27 4) (wd.extractLsb' 17 4) (wd.extractLsb' 9 8) (wd.extractLsb' 3 6) (wd.extractLsb' 2 1)) else .error .bits) = _
    simp only [h0_2, h27_4, h17_4, h9_8, h3_6, h2_1]; rfl

theorem kset (s : BitVec 4) (k : BitVec 4) (n : BitVec 16) : Statement (.kset s k n) :=
  of_word rfl fun wd hw => by
    have h21_6 : wd.extractLsb' 21 6 = 3#6 := by subst hw; simp (disch := decide) only [ext_hi, ext_lo]; rfl
    have h0_1 : wd.extractLsb' 0 1 = 0#1 := by subst hw; simp (disch := decide) only [ext_lo]; rfl
    have h27_4 : wd.extractLsb' 27 4 = s := by subst hw; simp (disch := decide) only [ext_hi, ext_lo]; exact ext_self
    have h17_4 : wd.extractLsb' 17 4 = k := by subst hw; simp (disch := decide) only [ext_hi, ext_lo]; exact ext_self
    have h1_16 : wd.extractLsb' 1 16 = n := by subst hw; simp (disch := decide) only [ext_hi, ext_lo]; exact ext_self
    have hh : wd.getLsbD 31 = false := by subst hw; simp (disch := decide) only [bit_hi]; rfl
    clear hw
    have e : decodeSlot .y wd = checkFields (rawSync wd) := by show checkFields (rawY wd) = _; unfold rawY; rw [hh]; rfl
    rw [e]; unfold rawSync; rw [h21_6]
    show checkFields (if wd.extractLsb' 0 1 == 0 then .ok (.kset (wd.extractLsb' 27 4) (wd.extractLsb' 17 4) (wd.extractLsb' 1 16)) else .error .bits) = _
    simp only [h0_1, h27_4, h17_4, h1_16]; rfl

theorem barr (s : BitVec 4) (b : BitVec 10) (c : BitVec 6) (f : BitVec 1) : Statement (.barr s b c f) :=
  of_word rfl fun wd hw => by
    have h21_6 : wd.extractLsb' 21 6 = 4#6 := by subst hw; simp (disch := decide) only [ext_hi, ext_lo]; rfl
    have h0_4 : wd.extractLsb' 0 4 = 0#4 := by subst hw; simp (disch := decide) only [ext_lo]; rfl
    have h27_4 : wd.extractLsb' 27 4 = s := by subst hw; simp (disch := decide) only [ext_hi, ext_lo]; exact ext_self
    have h11_10 : wd.extractLsb' 11 10 = b := by subst hw; simp (disch := decide) only [ext_hi, ext_lo]; exact ext_self
    have h5_6 : wd.extractLsb' 5 6 = c := by subst hw; simp (disch := decide) only [ext_hi, ext_lo]; exact ext_self
    have h4_1 : wd.extractLsb' 4 1 = f := by subst hw; simp (disch := decide) only [ext_hi, ext_lo]; exact ext_self
    have hh : wd.getLsbD 31 = false := by subst hw; simp (disch := decide) only [bit_hi]; rfl
    clear hw
    have e : decodeSlot .y wd = checkFields (rawSync wd) := by show checkFields (rawY wd) = _; unfold rawY; rw [hh]; rfl
    rw [e]; unfold rawSync; rw [h21_6]
    show checkFields (if wd.extractLsb' 0 4 == 0 then .ok (.barr (wd.extractLsb' 27 4) (wd.extractLsb' 11 10) (wd.extractLsb' 5 6) (wd.extractLsb' 4 1)) else .error .bits) = _
    simp only [h0_4, h27_4, h11_10, h5_6, h4_1]; rfl

theorem bwait (s : BitVec 4) (b : BitVec 10) (p : BitVec 1) : Statement (.bwait s b p) :=
  of_word rfl fun wd hw => by
    have h21_6 : wd.extractLsb' 21 6 = 5#6 := by subst hw; simp (disch := decide) only [ext_hi, ext_lo]; rfl
    have h0_10 : wd.extractLsb' 0 10 = 0#10 := by subst hw; simp (disch := decide) only [ext_lo]; rfl
    have h27_4 : wd.extractLsb' 27 4 = s := by subst hw; simp (disch := decide) only [ext_hi, ext_lo]; exact ext_self
    have h11_10 : wd.extractLsb' 11 10 = b := by subst hw; simp (disch := decide) only [ext_hi, ext_lo]; exact ext_self
    have h10_1 : wd.extractLsb' 10 1 = p := by subst hw; simp (disch := decide) only [ext_hi, ext_lo]; exact ext_self
    have hh : wd.getLsbD 31 = false := by subst hw; simp (disch := decide) only [bit_hi]; rfl
    clear hw
    have e : decodeSlot .y wd = checkFields (rawSync wd) := by show checkFields (rawY wd) = _; unfold rawY; rw [hh]; rfl
    rw [e]; unfold rawSync; rw [h21_6]
    show checkFields (if wd.extractLsb' 0 10 == 0 then .ok (.bwait (wd.extractLsb' 27 4) (wd.extractLsb' 11 10) (wd.extractLsb' 10 1)) else .error .bits) = _
    simp only [h0_10, h27_4, h11_10, h10_1]; rfl

theorem bexp (s : BitVec 4) (b : BitVec 10) (a : BitVec 5) : Statement (.bexp s b a) :=
  of_word rfl fun wd hw => by
    have h21_6 : wd.extractLsb' 21 6 = 6#6 := by subst hw; simp (disch := decide) only [ext_hi, ext_lo]; rfl
    have h0_6 : wd.extractLsb' 0 6 = 0#6 := by subst hw; simp (disch := decide) only [ext_lo]; rfl
    have h27_4 : wd.extractLsb' 27 4 = s := by subst hw; simp (disch := decide) only [ext_hi, ext_lo]; exact ext_self
    have h11_10 : wd.extractLsb' 11 10 = b := by subst hw; simp (disch := decide) only [ext_hi, ext_lo]; exact ext_self
    have h6_5 : wd.extractLsb' 6 5 = a := by subst hw; simp (disch := decide) only [ext_hi, ext_lo]; exact ext_self
    have hh : wd.getLsbD 31 = false := by subst hw; simp (disch := decide) only [bit_hi]; rfl
    clear hw
    have e : decodeSlot .y wd = checkFields (rawSync wd) := by show checkFields (rawY wd) = _; unfold rawY; rw [hh]; rfl
    rw [e]; unfold rawSync; rw [h21_6]
    show checkFields (if wd.extractLsb' 0 6 == 0 then .ok (.bexp (wd.extractLsb' 27 4) (wd.extractLsb' 11 10) (wd.extractLsb' 6 5)) else .error .bits) = _
    simp only [h0_6, h27_4, h11_10, h6_5]; rfl

theorem dly (s : BitVec 4) (n : BitVec 16) : Statement (.dly s n) :=
  of_word rfl fun wd hw => by
    have h21_6 : wd.extractLsb' 21 6 = 7#6 := by subst hw; simp (disch := decide) only [ext_hi, ext_lo]; rfl
    have h17_4 : wd.extractLsb' 17 4 = 0#4 := by subst hw; simp (disch := decide) only [ext_hi, ext_lo]; rfl
    have h0_1 : wd.extractLsb' 0 1 = 0#1 := by subst hw; simp (disch := decide) only [ext_lo]; rfl
    have h27_4 : wd.extractLsb' 27 4 = s := by subst hw; simp (disch := decide) only [ext_hi, ext_lo]; exact ext_self
    have h1_16 : wd.extractLsb' 1 16 = n := by subst hw; simp (disch := decide) only [ext_hi, ext_lo]; exact ext_self
    have hh : wd.getLsbD 31 = false := by subst hw; simp (disch := decide) only [bit_hi]; rfl
    clear hw
    have e : decodeSlot .y wd = checkFields (rawSync wd) := by show checkFields (rawY wd) = _; unfold rawY; rw [hh]; rfl
    rw [e]; unfold rawSync; rw [h21_6]
    show checkFields (if wd.extractLsb' 17 4 == 0 && wd.extractLsb' 0 1 == 0 then .ok (.dly (wd.extractLsb' 27 4) (wd.extractLsb' 1 16)) else .error .bits) = _
    simp only [h17_4, h0_1, h27_4, h1_16]; rfl

theorem wquiet (s : BitVec 4) : Statement (.wquiet s) :=
  of_word rfl fun wd hw => by
    have h21_6 : wd.extractLsb' 21 6 = 8#6 := by subst hw; simp (disch := decide) only [ext_lo]; rfl
    have h0_21 : wd.extractLsb' 0 21 = 0#21 := by subst hw; simp (disch := decide) only [ext_lo]; rfl
    have h27_4 : wd.extractLsb' 27 4 = s := by subst hw; simp (disch := decide) only [ext_hi, ext_lo]; exact ext_self
    have hh : wd.getLsbD 31 = false := by subst hw; simp (disch := decide) only [bit_hi]; rfl
    clear hw
    have e : decodeSlot .y wd = checkFields (rawSync wd) := by show checkFields (rawY wd) = _; unfold rawY; rw [hh]; rfl
    rw [e]; unfold rawSync; rw [h21_6]
    show checkFields (if wd.extractLsb' 0 21 == 0 then .ok (.wquiet (wd.extractLsb' 27 4)) else .error .bits) = _
    simp only [h0_21, h27_4]; rfl

theorem lwait (s : BitVec 4) (e : BitVec 2) : Statement (.lwait s e) :=
  of_word rfl fun wd hw => by
    have h21_6 : wd.extractLsb' 21 6 = 9#6 := by subst hw; simp (disch := decide) only [ext_hi, ext_lo]; rfl
    have h0_19 : wd.extractLsb' 0 19 = 0#19 := by subst hw; simp (disch := decide) only [ext_lo]; rfl
    have h27_4 : wd.extractLsb' 27 4 = s := by subst hw; simp (disch := decide) only [ext_hi, ext_lo]; exact ext_self
    have h19_2 : wd.extractLsb' 19 2 = e := by subst hw; simp (disch := decide) only [ext_hi, ext_lo]; exact ext_self
    have hh : wd.getLsbD 31 = false := by subst hw; simp (disch := decide) only [bit_hi]; rfl
    clear hw
    have e : decodeSlot .y wd = checkFields (rawSync wd) := by show checkFields (rawY wd) = _; unfold rawY; rw [hh]; rfl
    rw [e]; unfold rawSync; rw [h21_6]
    show checkFields (if wd.extractLsb' 0 19 == 0 then .ok (.lwait (wd.extractLsb' 27 4) (wd.extractLsb' 19 2)) else .error .bits) = _
    simp only [h0_19, h27_4, h19_2]; rfl

theorem imx (s : BitVec 4) (i : BitVec 24) : Statement (.imx s i) :=
  of_word rfl fun wd hw => by
    have h24_3 : wd.extractLsb' 24 3 = 0#3 := by subst hw; simp (disch := decide) only [ext_hi, ext_lo]; rfl
    have h27_4 : wd.extractLsb' 27 4 = s := by subst hw; simp (disch := decide) only [ext_hi, ext_lo]; exact ext_self
    have h0_24 : wd.extractLsb' 0 24 = i := by subst hw; simp (disch := decide) only [ext_lo]; exact ext_self
    have hh : wd.getLsbD 31 = true := by subst hw; simp (disch := decide) only [bit_hi]; rfl
    clear hw
    have e : decodeSlot .y wd = checkFields (rawHeader wd) := by show checkFields (rawY wd) = _; unfold rawY; rw [hh]; rfl
    rw [e]; unfold rawHeader; rw [h24_3]
    show checkFields (.ok (.imx (wd.extractLsb' 27 4) (wd.extractLsb' 0 24))) = _
    simp only [h27_4, h0_24]

theorem rep (s : BitVec 4) (c : BitVec 6) (m : BitVec 6) (t : BitVec 4) : Statement (.rep s c m t) :=
  of_word rfl fun wd hw => by
    have h24_3 : wd.extractLsb' 24 3 = 1#3 := by subst hw; simp (disch := decide) only [ext_hi, ext_lo]; rfl
    have h0_8 : wd.extractLsb' 0 8 = 0#8 := by subst hw; simp (disch := decide) only [ext_lo]; rfl
    have h27_4 : wd.extractLsb' 27 4 = s := by subst hw; simp (disch := decide) only [ext_hi, ext_lo]; exact ext_self
    have h18_6 : wd.extractLsb' 18 6 = c := by subst hw; simp (disch := decide) only [ext_hi, ext_lo]; exact ext_self
    have h12_6 : wd.extractLsb' 12 6 = m := by subst hw; simp (disch := decide) only [ext_hi, ext_lo]; exact ext_self
    have h8_4 : wd.extractLsb' 8 4 = t := by subst hw; simp (disch := decide) only [ext_hi, ext_lo]; exact ext_self
    have hh : wd.getLsbD 31 = true := by subst hw; simp (disch := decide) only [bit_hi]; rfl
    clear hw
    have e : decodeSlot .y wd = checkFields (rawHeader wd) := by show checkFields (rawY wd) = _; unfold rawY; rw [hh]; rfl
    rw [e]; unfold rawHeader; rw [h24_3]
    show checkFields (if wd.extractLsb' 0 8 == 0 then .ok (.rep (wd.extractLsb' 27 4) (wd.extractLsb' 18 6) (wd.extractLsb' 12 6) (wd.extractLsb' 8 4)) else .error .bits) = _
    simp only [h0_8, h27_4, h18_6, h12_6, h8_4]; rfl

theorem xtgt (s : BitVec 4) (p : BitVec 2) : Statement (.xtgt s p) :=
  of_word rfl fun wd hw => by
    have h24_3 : wd.extractLsb' 24 3 = 2#3 := by subst hw; simp (disch := decide) only [ext_hi, ext_lo]; rfl
    have h0_22 : wd.extractLsb' 0 22 = 0#22 := by subst hw; simp (disch := decide) only [ext_lo]; rfl
    have h27_4 : wd.extractLsb' 27 4 = s := by subst hw; simp (disch := decide) only [ext_hi, ext_lo]; exact ext_self
    have h22_2 : wd.extractLsb' 22 2 = p := by subst hw; simp (disch := decide) only [ext_hi, ext_lo]; exact ext_self
    have hh : wd.getLsbD 31 = true := by subst hw; simp (disch := decide) only [bit_hi]; rfl
    clear hw
    have e : decodeSlot .y wd = checkFields (rawHeader wd) := by show checkFields (rawY wd) = _; unfold rawY; rw [hh]; rfl
    rw [e]; unfold rawHeader; rw [h24_3]
    show checkFields (if wd.extractLsb' 0 22 == 0 then .ok (.xtgt (wd.extractLsb' 27 4) (wd.extractLsb' 22 2)) else .error .bits) = _
    simp only [h0_22, h27_4, h22_2]; rfl

theorem nops : Statement (.nops) :=
  of_word rfl fun wd hw => by
    have h26_6 : wd.extractLsb' 26 6 = 0#6 := by subst hw; rfl
    have h0_26 : wd.extractLsb' 0 26 = 0#26 := by subst hw; rfl
    clear hw
    show checkFields (rawS wd) = _
    unfold rawS; rw [h26_6]
    show checkFields (if wd.extractLsb' 0 26 == 0 then .ok (.nops) else .error .bits) = _
    simp only [h0_26]; rfl

theorem aluAdd (d : BitVec 5) (a : BitVec 5) (b : BitVec 5) : Statement (.aluAdd d a b) :=
  of_word rfl fun wd hw => by
    have h26_6 : wd.extractLsb' 26 6 = 1#6 := by subst hw; simp (disch := decide) only [ext_hi]; rfl
    have h0_11 : wd.extractLsb' 0 11 = 0#11 := by subst hw; simp (disch := decide) only [ext_lo]; rfl
    have h21_5 : wd.extractLsb' 21 5 = d := by subst hw; simp (disch := decide) only [ext_hi, ext_lo]; exact ext_self
    have h16_5 : wd.extractLsb' 16 5 = a := by subst hw; simp (disch := decide) only [ext_hi, ext_lo]; exact ext_self
    have h11_5 : wd.extractLsb' 11 5 = b := by subst hw; simp (disch := decide) only [ext_hi, ext_lo]; exact ext_self
    clear hw
    have e : decodeSlot .s wd = checkFields (rawAlu wd) := by show checkFields (rawS wd) = _; unfold rawS; rw [h26_6]; rfl
    rw [e]; unfold rawAlu; simp only [h0_11, h21_5, h16_5, h11_5]; rfl

theorem aluSub (d : BitVec 5) (a : BitVec 5) (b : BitVec 5) : Statement (.aluSub d a b) :=
  of_word rfl fun wd hw => by
    have h26_6 : wd.extractLsb' 26 6 = 1#6 := by subst hw; simp (disch := decide) only [ext_hi]; rfl
    have h0_11 : wd.extractLsb' 0 11 = 1#11 := by subst hw; simp (disch := decide) only [ext_lo]; rfl
    have h21_5 : wd.extractLsb' 21 5 = d := by subst hw; simp (disch := decide) only [ext_hi, ext_lo]; exact ext_self
    have h16_5 : wd.extractLsb' 16 5 = a := by subst hw; simp (disch := decide) only [ext_hi, ext_lo]; exact ext_self
    have h11_5 : wd.extractLsb' 11 5 = b := by subst hw; simp (disch := decide) only [ext_hi, ext_lo]; exact ext_self
    clear hw
    have e : decodeSlot .s wd = checkFields (rawAlu wd) := by show checkFields (rawS wd) = _; unfold rawS; rw [h26_6]; rfl
    rw [e]; unfold rawAlu; simp only [h0_11, h21_5, h16_5, h11_5]; rfl

theorem aluAnd (d : BitVec 5) (a : BitVec 5) (b : BitVec 5) : Statement (.aluAnd d a b) :=
  of_word rfl fun wd hw => by
    have h26_6 : wd.extractLsb' 26 6 = 1#6 := by subst hw; simp (disch := decide) only [ext_hi]; rfl
    have h0_11 : wd.extractLsb' 0 11 = 2#11 := by subst hw; simp (disch := decide) only [ext_lo]; rfl
    have h21_5 : wd.extractLsb' 21 5 = d := by subst hw; simp (disch := decide) only [ext_hi, ext_lo]; exact ext_self
    have h16_5 : wd.extractLsb' 16 5 = a := by subst hw; simp (disch := decide) only [ext_hi, ext_lo]; exact ext_self
    have h11_5 : wd.extractLsb' 11 5 = b := by subst hw; simp (disch := decide) only [ext_hi, ext_lo]; exact ext_self
    clear hw
    have e : decodeSlot .s wd = checkFields (rawAlu wd) := by show checkFields (rawS wd) = _; unfold rawS; rw [h26_6]; rfl
    rw [e]; unfold rawAlu; simp only [h0_11, h21_5, h16_5, h11_5]; rfl

theorem aluOr (d : BitVec 5) (a : BitVec 5) (b : BitVec 5) : Statement (.aluOr d a b) :=
  of_word rfl fun wd hw => by
    have h26_6 : wd.extractLsb' 26 6 = 1#6 := by subst hw; simp (disch := decide) only [ext_hi]; rfl
    have h0_11 : wd.extractLsb' 0 11 = 3#11 := by subst hw; simp (disch := decide) only [ext_lo]; rfl
    have h21_5 : wd.extractLsb' 21 5 = d := by subst hw; simp (disch := decide) only [ext_hi, ext_lo]; exact ext_self
    have h16_5 : wd.extractLsb' 16 5 = a := by subst hw; simp (disch := decide) only [ext_hi, ext_lo]; exact ext_self
    have h11_5 : wd.extractLsb' 11 5 = b := by subst hw; simp (disch := decide) only [ext_hi, ext_lo]; exact ext_self
    clear hw
    have e : decodeSlot .s wd = checkFields (rawAlu wd) := by show checkFields (rawS wd) = _; unfold rawS; rw [h26_6]; rfl
    rw [e]; unfold rawAlu; simp only [h0_11, h21_5, h16_5, h11_5]; rfl

theorem aluXor (d : BitVec 5) (a : BitVec 5) (b : BitVec 5) : Statement (.aluXor d a b) :=
  of_word rfl fun wd hw => by
    have h26_6 : wd.extractLsb' 26 6 = 1#6 := by subst hw; simp (disch := decide) only [ext_hi]; rfl
    have h0_11 : wd.extractLsb' 0 11 = 4#11 := by subst hw; simp (disch := decide) only [ext_lo]; rfl
    have h21_5 : wd.extractLsb' 21 5 = d := by subst hw; simp (disch := decide) only [ext_hi, ext_lo]; exact ext_self
    have h16_5 : wd.extractLsb' 16 5 = a := by subst hw; simp (disch := decide) only [ext_hi, ext_lo]; exact ext_self
    have h11_5 : wd.extractLsb' 11 5 = b := by subst hw; simp (disch := decide) only [ext_hi, ext_lo]; exact ext_self
    clear hw
    have e : decodeSlot .s wd = checkFields (rawAlu wd) := by show checkFields (rawS wd) = _; unfold rawS; rw [h26_6]; rfl
    rw [e]; unfold rawAlu; simp only [h0_11, h21_5, h16_5, h11_5]; rfl

theorem aluShl (d : BitVec 5) (a : BitVec 5) (b : BitVec 5) : Statement (.aluShl d a b) :=
  of_word rfl fun wd hw => by
    have h26_6 : wd.extractLsb' 26 6 = 1#6 := by subst hw; simp (disch := decide) only [ext_hi]; rfl
    have h0_11 : wd.extractLsb' 0 11 = 5#11 := by subst hw; simp (disch := decide) only [ext_lo]; rfl
    have h21_5 : wd.extractLsb' 21 5 = d := by subst hw; simp (disch := decide) only [ext_hi, ext_lo]; exact ext_self
    have h16_5 : wd.extractLsb' 16 5 = a := by subst hw; simp (disch := decide) only [ext_hi, ext_lo]; exact ext_self
    have h11_5 : wd.extractLsb' 11 5 = b := by subst hw; simp (disch := decide) only [ext_hi, ext_lo]; exact ext_self
    clear hw
    have e : decodeSlot .s wd = checkFields (rawAlu wd) := by show checkFields (rawS wd) = _; unfold rawS; rw [h26_6]; rfl
    rw [e]; unfold rawAlu; simp only [h0_11, h21_5, h16_5, h11_5]; rfl

theorem aluShr (d : BitVec 5) (a : BitVec 5) (b : BitVec 5) : Statement (.aluShr d a b) :=
  of_word rfl fun wd hw => by
    have h26_6 : wd.extractLsb' 26 6 = 1#6 := by subst hw; simp (disch := decide) only [ext_hi]; rfl
    have h0_11 : wd.extractLsb' 0 11 = 6#11 := by subst hw; simp (disch := decide) only [ext_lo]; rfl
    have h21_5 : wd.extractLsb' 21 5 = d := by subst hw; simp (disch := decide) only [ext_hi, ext_lo]; exact ext_self
    have h16_5 : wd.extractLsb' 16 5 = a := by subst hw; simp (disch := decide) only [ext_hi, ext_lo]; exact ext_self
    have h11_5 : wd.extractLsb' 11 5 = b := by subst hw; simp (disch := decide) only [ext_hi, ext_lo]; exact ext_self
    clear hw
    have e : decodeSlot .s wd = checkFields (rawAlu wd) := by show checkFields (rawS wd) = _; unfold rawS; rw [h26_6]; rfl
    rw [e]; unfold rawAlu; simp only [h0_11, h21_5, h16_5, h11_5]; rfl

theorem aluSar (d : BitVec 5) (a : BitVec 5) (b : BitVec 5) : Statement (.aluSar d a b) :=
  of_word rfl fun wd hw => by
    have h26_6 : wd.extractLsb' 26 6 = 1#6 := by subst hw; simp (disch := decide) only [ext_hi]; rfl
    have h0_11 : wd.extractLsb' 0 11 = 7#11 := by subst hw; simp (disch := decide) only [ext_lo]; rfl
    have h21_5 : wd.extractLsb' 21 5 = d := by subst hw; simp (disch := decide) only [ext_hi, ext_lo]; exact ext_self
    have h16_5 : wd.extractLsb' 16 5 = a := by subst hw; simp (disch := decide) only [ext_hi, ext_lo]; exact ext_self
    have h11_5 : wd.extractLsb' 11 5 = b := by subst hw; simp (disch := decide) only [ext_hi, ext_lo]; exact ext_self
    clear hw
    have e : decodeSlot .s wd = checkFields (rawAlu wd) := by show checkFields (rawS wd) = _; unfold rawS; rw [h26_6]; rfl
    rw [e]; unfold rawAlu; simp only [h0_11, h21_5, h16_5, h11_5]; rfl

theorem aluMul (d : BitVec 5) (a : BitVec 5) (b : BitVec 5) : Statement (.aluMul d a b) :=
  of_word rfl fun wd hw => by
    have h26_6 : wd.extractLsb' 26 6 = 1#6 := by subst hw; simp (disch := decide) only [ext_hi]; rfl
    have h0_11 : wd.extractLsb' 0 11 = 8#11 := by subst hw; simp (disch := decide) only [ext_lo]; rfl
    have h21_5 : wd.extractLsb' 21 5 = d := by subst hw; simp (disch := decide) only [ext_hi, ext_lo]; exact ext_self
    have h16_5 : wd.extractLsb' 16 5 = a := by subst hw; simp (disch := decide) only [ext_hi, ext_lo]; exact ext_self
    have h11_5 : wd.extractLsb' 11 5 = b := by subst hw; simp (disch := decide) only [ext_hi, ext_lo]; exact ext_self
    clear hw
    have e : decodeSlot .s wd = checkFields (rawAlu wd) := by show checkFields (rawS wd) = _; unfold rawS; rw [h26_6]; rfl
    rw [e]; unfold rawAlu; simp only [h0_11, h21_5, h16_5, h11_5]; rfl

theorem aluMulh (d : BitVec 5) (a : BitVec 5) (b : BitVec 5) : Statement (.aluMulh d a b) :=
  of_word rfl fun wd hw => by
    have h26_6 : wd.extractLsb' 26 6 = 1#6 := by subst hw; simp (disch := decide) only [ext_hi]; rfl
    have h0_11 : wd.extractLsb' 0 11 = 9#11 := by subst hw; simp (disch := decide) only [ext_lo]; rfl
    have h21_5 : wd.extractLsb' 21 5 = d := by subst hw; simp (disch := decide) only [ext_hi, ext_lo]; exact ext_self
    have h16_5 : wd.extractLsb' 16 5 = a := by subst hw; simp (disch := decide) only [ext_hi, ext_lo]; exact ext_self
    have h11_5 : wd.extractLsb' 11 5 = b := by subst hw; simp (disch := decide) only [ext_hi, ext_lo]; exact ext_self
    clear hw
    have e : decodeSlot .s wd = checkFields (rawAlu wd) := by show checkFields (rawS wd) = _; unfold rawS; rw [h26_6]; rfl
    rw [e]; unfold rawAlu; simp only [h0_11, h21_5, h16_5, h11_5]; rfl

theorem aluMulhu (d : BitVec 5) (a : BitVec 5) (b : BitVec 5) : Statement (.aluMulhu d a b) :=
  of_word rfl fun wd hw => by
    have h26_6 : wd.extractLsb' 26 6 = 1#6 := by subst hw; simp (disch := decide) only [ext_hi]; rfl
    have h0_11 : wd.extractLsb' 0 11 = 10#11 := by subst hw; simp (disch := decide) only [ext_lo]; rfl
    have h21_5 : wd.extractLsb' 21 5 = d := by subst hw; simp (disch := decide) only [ext_hi, ext_lo]; exact ext_self
    have h16_5 : wd.extractLsb' 16 5 = a := by subst hw; simp (disch := decide) only [ext_hi, ext_lo]; exact ext_self
    have h11_5 : wd.extractLsb' 11 5 = b := by subst hw; simp (disch := decide) only [ext_hi, ext_lo]; exact ext_self
    clear hw
    have e : decodeSlot .s wd = checkFields (rawAlu wd) := by show checkFields (rawS wd) = _; unfold rawS; rw [h26_6]; rfl
    rw [e]; unfold rawAlu; simp only [h0_11, h21_5, h16_5, h11_5]; rfl

theorem aluDiv (d : BitVec 5) (a : BitVec 5) (b : BitVec 5) : Statement (.aluDiv d a b) :=
  of_word rfl fun wd hw => by
    have h26_6 : wd.extractLsb' 26 6 = 1#6 := by subst hw; simp (disch := decide) only [ext_hi]; rfl
    have h0_11 : wd.extractLsb' 0 11 = 11#11 := by subst hw; simp (disch := decide) only [ext_lo]; rfl
    have h21_5 : wd.extractLsb' 21 5 = d := by subst hw; simp (disch := decide) only [ext_hi, ext_lo]; exact ext_self
    have h16_5 : wd.extractLsb' 16 5 = a := by subst hw; simp (disch := decide) only [ext_hi, ext_lo]; exact ext_self
    have h11_5 : wd.extractLsb' 11 5 = b := by subst hw; simp (disch := decide) only [ext_hi, ext_lo]; exact ext_self
    clear hw
    have e : decodeSlot .s wd = checkFields (rawAlu wd) := by show checkFields (rawS wd) = _; unfold rawS; rw [h26_6]; rfl
    rw [e]; unfold rawAlu; simp only [h0_11, h21_5, h16_5, h11_5]; rfl

theorem aluDivu (d : BitVec 5) (a : BitVec 5) (b : BitVec 5) : Statement (.aluDivu d a b) :=
  of_word rfl fun wd hw => by
    have h26_6 : wd.extractLsb' 26 6 = 1#6 := by subst hw; simp (disch := decide) only [ext_hi]; rfl
    have h0_11 : wd.extractLsb' 0 11 = 12#11 := by subst hw; simp (disch := decide) only [ext_lo]; rfl
    have h21_5 : wd.extractLsb' 21 5 = d := by subst hw; simp (disch := decide) only [ext_hi, ext_lo]; exact ext_self
    have h16_5 : wd.extractLsb' 16 5 = a := by subst hw; simp (disch := decide) only [ext_hi, ext_lo]; exact ext_self
    have h11_5 : wd.extractLsb' 11 5 = b := by subst hw; simp (disch := decide) only [ext_hi, ext_lo]; exact ext_self
    clear hw
    have e : decodeSlot .s wd = checkFields (rawAlu wd) := by show checkFields (rawS wd) = _; unfold rawS; rw [h26_6]; rfl
    rw [e]; unfold rawAlu; simp only [h0_11, h21_5, h16_5, h11_5]; rfl

theorem aluRem (d : BitVec 5) (a : BitVec 5) (b : BitVec 5) : Statement (.aluRem d a b) :=
  of_word rfl fun wd hw => by
    have h26_6 : wd.extractLsb' 26 6 = 1#6 := by subst hw; simp (disch := decide) only [ext_hi]; rfl
    have h0_11 : wd.extractLsb' 0 11 = 13#11 := by subst hw; simp (disch := decide) only [ext_lo]; rfl
    have h21_5 : wd.extractLsb' 21 5 = d := by subst hw; simp (disch := decide) only [ext_hi, ext_lo]; exact ext_self
    have h16_5 : wd.extractLsb' 16 5 = a := by subst hw; simp (disch := decide) only [ext_hi, ext_lo]; exact ext_self
    have h11_5 : wd.extractLsb' 11 5 = b := by subst hw; simp (disch := decide) only [ext_hi, ext_lo]; exact ext_self
    clear hw
    have e : decodeSlot .s wd = checkFields (rawAlu wd) := by show checkFields (rawS wd) = _; unfold rawS; rw [h26_6]; rfl
    rw [e]; unfold rawAlu; simp only [h0_11, h21_5, h16_5, h11_5]; rfl

theorem aluRemu (d : BitVec 5) (a : BitVec 5) (b : BitVec 5) : Statement (.aluRemu d a b) :=
  of_word rfl fun wd hw => by
    have h26_6 : wd.extractLsb' 26 6 = 1#6 := by subst hw; simp (disch := decide) only [ext_hi]; rfl
    have h0_11 : wd.extractLsb' 0 11 = 14#11 := by subst hw; simp (disch := decide) only [ext_lo]; rfl
    have h21_5 : wd.extractLsb' 21 5 = d := by subst hw; simp (disch := decide) only [ext_hi, ext_lo]; exact ext_self
    have h16_5 : wd.extractLsb' 16 5 = a := by subst hw; simp (disch := decide) only [ext_hi, ext_lo]; exact ext_self
    have h11_5 : wd.extractLsb' 11 5 = b := by subst hw; simp (disch := decide) only [ext_hi, ext_lo]; exact ext_self
    clear hw
    have e : decodeSlot .s wd = checkFields (rawAlu wd) := by show checkFields (rawS wd) = _; unfold rawS; rw [h26_6]; rfl
    rw [e]; unfold rawAlu; simp only [h0_11, h21_5, h16_5, h11_5]; rfl

theorem aluMin (d : BitVec 5) (a : BitVec 5) (b : BitVec 5) : Statement (.aluMin d a b) :=
  of_word rfl fun wd hw => by
    have h26_6 : wd.extractLsb' 26 6 = 1#6 := by subst hw; simp (disch := decide) only [ext_hi]; rfl
    have h0_11 : wd.extractLsb' 0 11 = 15#11 := by subst hw; simp (disch := decide) only [ext_lo]; rfl
    have h21_5 : wd.extractLsb' 21 5 = d := by subst hw; simp (disch := decide) only [ext_hi, ext_lo]; exact ext_self
    have h16_5 : wd.extractLsb' 16 5 = a := by subst hw; simp (disch := decide) only [ext_hi, ext_lo]; exact ext_self
    have h11_5 : wd.extractLsb' 11 5 = b := by subst hw; simp (disch := decide) only [ext_hi, ext_lo]; exact ext_self
    clear hw
    have e : decodeSlot .s wd = checkFields (rawAlu wd) := by show checkFields (rawS wd) = _; unfold rawS; rw [h26_6]; rfl
    rw [e]; unfold rawAlu; simp only [h0_11, h21_5, h16_5, h11_5]; rfl

theorem aluMax (d : BitVec 5) (a : BitVec 5) (b : BitVec 5) : Statement (.aluMax d a b) :=
  of_word rfl fun wd hw => by
    have h26_6 : wd.extractLsb' 26 6 = 1#6 := by subst hw; simp (disch := decide) only [ext_hi]; rfl
    have h0_11 : wd.extractLsb' 0 11 = 16#11 := by subst hw; simp (disch := decide) only [ext_lo]; rfl
    have h21_5 : wd.extractLsb' 21 5 = d := by subst hw; simp (disch := decide) only [ext_hi, ext_lo]; exact ext_self
    have h16_5 : wd.extractLsb' 16 5 = a := by subst hw; simp (disch := decide) only [ext_hi, ext_lo]; exact ext_self
    have h11_5 : wd.extractLsb' 11 5 = b := by subst hw; simp (disch := decide) only [ext_hi, ext_lo]; exact ext_self
    clear hw
    have e : decodeSlot .s wd = checkFields (rawAlu wd) := by show checkFields (rawS wd) = _; unfold rawS; rw [h26_6]; rfl
    rw [e]; unfold rawAlu; simp only [h0_11, h21_5, h16_5, h11_5]; rfl

theorem aluMinu (d : BitVec 5) (a : BitVec 5) (b : BitVec 5) : Statement (.aluMinu d a b) :=
  of_word rfl fun wd hw => by
    have h26_6 : wd.extractLsb' 26 6 = 1#6 := by subst hw; simp (disch := decide) only [ext_hi]; rfl
    have h0_11 : wd.extractLsb' 0 11 = 17#11 := by subst hw; simp (disch := decide) only [ext_lo]; rfl
    have h21_5 : wd.extractLsb' 21 5 = d := by subst hw; simp (disch := decide) only [ext_hi, ext_lo]; exact ext_self
    have h16_5 : wd.extractLsb' 16 5 = a := by subst hw; simp (disch := decide) only [ext_hi, ext_lo]; exact ext_self
    have h11_5 : wd.extractLsb' 11 5 = b := by subst hw; simp (disch := decide) only [ext_hi, ext_lo]; exact ext_self
    clear hw
    have e : decodeSlot .s wd = checkFields (rawAlu wd) := by show checkFields (rawS wd) = _; unfold rawS; rw [h26_6]; rfl
    rw [e]; unfold rawAlu; simp only [h0_11, h21_5, h16_5, h11_5]; rfl

theorem aluMaxu (d : BitVec 5) (a : BitVec 5) (b : BitVec 5) : Statement (.aluMaxu d a b) :=
  of_word rfl fun wd hw => by
    have h26_6 : wd.extractLsb' 26 6 = 1#6 := by subst hw; simp (disch := decide) only [ext_hi]; rfl
    have h0_11 : wd.extractLsb' 0 11 = 18#11 := by subst hw; simp (disch := decide) only [ext_lo]; rfl
    have h21_5 : wd.extractLsb' 21 5 = d := by subst hw; simp (disch := decide) only [ext_hi, ext_lo]; exact ext_self
    have h16_5 : wd.extractLsb' 16 5 = a := by subst hw; simp (disch := decide) only [ext_hi, ext_lo]; exact ext_self
    have h11_5 : wd.extractLsb' 11 5 = b := by subst hw; simp (disch := decide) only [ext_hi, ext_lo]; exact ext_self
    clear hw
    have e : decodeSlot .s wd = checkFields (rawAlu wd) := by show checkFields (rawS wd) = _; unfold rawS; rw [h26_6]; rfl
    rw [e]; unfold rawAlu; simp only [h0_11, h21_5, h16_5, h11_5]; rfl

theorem aluSlt (d : BitVec 5) (a : BitVec 5) (b : BitVec 5) : Statement (.aluSlt d a b) :=
  of_word rfl fun wd hw => by
    have h26_6 : wd.extractLsb' 26 6 = 1#6 := by subst hw; simp (disch := decide) only [ext_hi]; rfl
    have h0_11 : wd.extractLsb' 0 11 = 19#11 := by subst hw; simp (disch := decide) only [ext_lo]; rfl
    have h21_5 : wd.extractLsb' 21 5 = d := by subst hw; simp (disch := decide) only [ext_hi, ext_lo]; exact ext_self
    have h16_5 : wd.extractLsb' 16 5 = a := by subst hw; simp (disch := decide) only [ext_hi, ext_lo]; exact ext_self
    have h11_5 : wd.extractLsb' 11 5 = b := by subst hw; simp (disch := decide) only [ext_hi, ext_lo]; exact ext_self
    clear hw
    have e : decodeSlot .s wd = checkFields (rawAlu wd) := by show checkFields (rawS wd) = _; unfold rawS; rw [h26_6]; rfl
    rw [e]; unfold rawAlu; simp only [h0_11, h21_5, h16_5, h11_5]; rfl

theorem aluSltu (d : BitVec 5) (a : BitVec 5) (b : BitVec 5) : Statement (.aluSltu d a b) :=
  of_word rfl fun wd hw => by
    have h26_6 : wd.extractLsb' 26 6 = 1#6 := by subst hw; simp (disch := decide) only [ext_hi]; rfl
    have h0_11 : wd.extractLsb' 0 11 = 20#11 := by subst hw; simp (disch := decide) only [ext_lo]; rfl
    have h21_5 : wd.extractLsb' 21 5 = d := by subst hw; simp (disch := decide) only [ext_hi, ext_lo]; exact ext_self
    have h16_5 : wd.extractLsb' 16 5 = a := by subst hw; simp (disch := decide) only [ext_hi, ext_lo]; exact ext_self
    have h11_5 : wd.extractLsb' 11 5 = b := by subst hw; simp (disch := decide) only [ext_hi, ext_lo]; exact ext_self
    clear hw
    have e : decodeSlot .s wd = checkFields (rawAlu wd) := by show checkFields (rawS wd) = _; unfold rawS; rw [h26_6]; rfl
    rw [e]; unfold rawAlu; simp only [h0_11, h21_5, h16_5, h11_5]; rfl

theorem aluSeq (d : BitVec 5) (a : BitVec 5) (b : BitVec 5) : Statement (.aluSeq d a b) :=
  of_word rfl fun wd hw => by
    have h26_6 : wd.extractLsb' 26 6 = 1#6 := by subst hw; simp (disch := decide) only [ext_hi]; rfl
    have h0_11 : wd.extractLsb' 0 11 = 21#11 := by subst hw; simp (disch := decide) only [ext_lo]; rfl
    have h21_5 : wd.extractLsb' 21 5 = d := by subst hw; simp (disch := decide) only [ext_hi, ext_lo]; exact ext_self
    have h16_5 : wd.extractLsb' 16 5 = a := by subst hw; simp (disch := decide) only [ext_hi, ext_lo]; exact ext_self
    have h11_5 : wd.extractLsb' 11 5 = b := by subst hw; simp (disch := decide) only [ext_hi, ext_lo]; exact ext_self
    clear hw
    have e : decodeSlot .s wd = checkFields (rawAlu wd) := by show checkFields (rawS wd) = _; unfold rawS; rw [h26_6]; rfl
    rw [e]; unfold rawAlu; simp only [h0_11, h21_5, h16_5, h11_5]; rfl

theorem aluClz (d : BitVec 5) (a : BitVec 5) : Statement (.aluClz d a) :=
  of_word rfl fun wd hw => by
    have h26_6 : wd.extractLsb' 26 6 = 1#6 := by subst hw; simp (disch := decide) only [ext_hi]; rfl
    have h0_11 : wd.extractLsb' 0 11 = 22#11 := by subst hw; simp (disch := decide) only [ext_lo]; rfl
    have h0_16 : wd.extractLsb' 0 16 = 22#16 := by subst hw; simp (disch := decide) only [ext_lo]; rfl
    have h21_5 : wd.extractLsb' 21 5 = d := by subst hw; simp (disch := decide) only [ext_hi, ext_lo]; exact ext_self
    have h16_5 : wd.extractLsb' 16 5 = a := by subst hw; simp (disch := decide) only [ext_hi, ext_lo]; exact ext_self
    clear hw
    have e : decodeSlot .s wd = checkFields (rawAlu wd) := by show checkFields (rawS wd) = _; unfold rawS; rw [h26_6]; rfl
    rw [e]; unfold rawAlu; simp only [h0_11, h0_16, h21_5, h16_5]; rfl

theorem aluPopc (d : BitVec 5) (a : BitVec 5) : Statement (.aluPopc d a) :=
  of_word rfl fun wd hw => by
    have h26_6 : wd.extractLsb' 26 6 = 1#6 := by subst hw; simp (disch := decide) only [ext_hi]; rfl
    have h0_11 : wd.extractLsb' 0 11 = 23#11 := by subst hw; simp (disch := decide) only [ext_lo]; rfl
    have h0_16 : wd.extractLsb' 0 16 = 23#16 := by subst hw; simp (disch := decide) only [ext_lo]; rfl
    have h21_5 : wd.extractLsb' 21 5 = d := by subst hw; simp (disch := decide) only [ext_hi, ext_lo]; exact ext_self
    have h16_5 : wd.extractLsb' 16 5 = a := by subst hw; simp (disch := decide) only [ext_hi, ext_lo]; exact ext_self
    clear hw
    have e : decodeSlot .s wd = checkFields (rawAlu wd) := by show checkFields (rawS wd) = _; unfold rawS; rw [h26_6]; rfl
    rw [e]; unfold rawAlu; simp only [h0_11, h0_16, h21_5, h16_5]; rfl

theorem addi (d : BitVec 5) (a : BitVec 5) (i : BitVec 16) : Statement (.addi d a i) :=
  of_word rfl fun wd hw => by
    have h26_6 : wd.extractLsb' 26 6 = 2#6 := by subst hw; simp (disch := decide) only [ext_hi]; rfl
    have h21_5 : wd.extractLsb' 21 5 = d := by subst hw; simp (disch := decide) only [ext_hi, ext_lo]; exact ext_self
    have h16_5 : wd.extractLsb' 16 5 = a := by subst hw; simp (disch := decide) only [ext_hi, ext_lo]; exact ext_self
    have h0_16 : wd.extractLsb' 0 16 = i := by subst hw; simp (disch := decide) only [ext_lo]; exact ext_self
    clear hw
    show checkFields (rawS wd) = _
    unfold rawS; rw [h26_6]
    show checkFields (.ok (.addi (wd.extractLsb' 21 5) (wd.extractLsb' 16 5) (wd.extractLsb' 0 16))) = _
    simp only [h21_5, h16_5, h0_16]

theorem andi (d : BitVec 5) (a : BitVec 5) (i : BitVec 16) : Statement (.andi d a i) :=
  of_word rfl fun wd hw => by
    have h26_6 : wd.extractLsb' 26 6 = 3#6 := by subst hw; simp (disch := decide) only [ext_hi]; rfl
    have h21_5 : wd.extractLsb' 21 5 = d := by subst hw; simp (disch := decide) only [ext_hi, ext_lo]; exact ext_self
    have h16_5 : wd.extractLsb' 16 5 = a := by subst hw; simp (disch := decide) only [ext_hi, ext_lo]; exact ext_self
    have h0_16 : wd.extractLsb' 0 16 = i := by subst hw; simp (disch := decide) only [ext_lo]; exact ext_self
    clear hw
    show checkFields (rawS wd) = _
    unfold rawS; rw [h26_6]
    show checkFields (.ok (.andi (wd.extractLsb' 21 5) (wd.extractLsb' 16 5) (wd.extractLsb' 0 16))) = _
    simp only [h21_5, h16_5, h0_16]

theorem ori (d : BitVec 5) (a : BitVec 5) (i : BitVec 16) : Statement (.ori d a i) :=
  of_word rfl fun wd hw => by
    have h26_6 : wd.extractLsb' 26 6 = 4#6 := by subst hw; simp (disch := decide) only [ext_hi]; rfl
    have h21_5 : wd.extractLsb' 21 5 = d := by subst hw; simp (disch := decide) only [ext_hi, ext_lo]; exact ext_self
    have h16_5 : wd.extractLsb' 16 5 = a := by subst hw; simp (disch := decide) only [ext_hi, ext_lo]; exact ext_self
    have h0_16 : wd.extractLsb' 0 16 = i := by subst hw; simp (disch := decide) only [ext_lo]; exact ext_self
    clear hw
    show checkFields (rawS wd) = _
    unfold rawS; rw [h26_6]
    show checkFields (.ok (.ori (wd.extractLsb' 21 5) (wd.extractLsb' 16 5) (wd.extractLsb' 0 16))) = _
    simp only [h21_5, h16_5, h0_16]

theorem xori (d : BitVec 5) (a : BitVec 5) (i : BitVec 16) : Statement (.xori d a i) :=
  of_word rfl fun wd hw => by
    have h26_6 : wd.extractLsb' 26 6 = 5#6 := by subst hw; simp (disch := decide) only [ext_hi]; rfl
    have h21_5 : wd.extractLsb' 21 5 = d := by subst hw; simp (disch := decide) only [ext_hi, ext_lo]; exact ext_self
    have h16_5 : wd.extractLsb' 16 5 = a := by subst hw; simp (disch := decide) only [ext_hi, ext_lo]; exact ext_self
    have h0_16 : wd.extractLsb' 0 16 = i := by subst hw; simp (disch := decide) only [ext_lo]; exact ext_self
    clear hw
    show checkFields (rawS wd) = _
    unfold rawS; rw [h26_6]
    show checkFields (.ok (.xori (wd.extractLsb' 21 5) (wd.extractLsb' 16 5) (wd.extractLsb' 0 16))) = _
    simp only [h21_5, h16_5, h0_16]

theorem shi (d : BitVec 5) (a : BitVec 5) (k : BitVec 2) (n : BitVec 6) : Statement (.shi d a k n) :=
  of_word rfl fun wd hw => by
    have h26_6 : wd.extractLsb' 26 6 = 6#6 := by subst hw; simp (disch := decide) only [ext_hi]; rfl
    have h8_8 : wd.extractLsb' 8 8 = 0#8 := by subst hw; simp (disch := decide) only [ext_hi, ext_lo]; rfl
    have h21_5 : wd.extractLsb' 21 5 = d := by subst hw; simp (disch := decide) only [ext_hi, ext_lo]; exact ext_self
    have h16_5 : wd.extractLsb' 16 5 = a := by subst hw; simp (disch := decide) only [ext_hi, ext_lo]; exact ext_self
    have h6_2 : wd.extractLsb' 6 2 = k := by subst hw; simp (disch := decide) only [ext_hi, ext_lo]; exact ext_self
    have h0_6 : wd.extractLsb' 0 6 = n := by subst hw; simp (disch := decide) only [ext_lo]; exact ext_self
    clear hw
    show checkFields (rawS wd) = _
    unfold rawS; rw [h26_6]
    show checkFields (if wd.extractLsb' 8 8 == 0 then .ok (.shi (wd.extractLsb' 21 5) (wd.extractLsb' 16 5) (wd.extractLsb' 6 2) (wd.extractLsb' 0 6)) else .error .bits) = _
    simp only [h8_8, h21_5, h16_5, h6_2, h0_6]; rfl

theorem lui (d : BitVec 5) (i : BitVec 16) : Statement (.lui d i) :=
  of_word rfl fun wd hw => by
    have h26_6 : wd.extractLsb' 26 6 = 7#6 := by subst hw; simp (disch := decide) only [ext_hi]; rfl
    have h16_5 : wd.extractLsb' 16 5 = 0#5 := by subst hw; simp (disch := decide) only [ext_hi, ext_lo]; rfl
    have h21_5 : wd.extractLsb' 21 5 = d := by subst hw; simp (disch := decide) only [ext_hi, ext_lo]; exact ext_self
    have h0_16 : wd.extractLsb' 0 16 = i := by subst hw; simp (disch := decide) only [ext_lo]; exact ext_self
    clear hw
    show checkFields (rawS wd) = _
    unfold rawS; rw [h26_6]
    show checkFields (if wd.extractLsb' 16 5 == 0 then .ok (.lui (wd.extractLsb' 21 5) (wd.extractLsb' 0 16)) else .error .bits) = _
    simp only [h16_5, h21_5, h0_16]; rfl

theorem slti (d : BitVec 5) (a : BitVec 5) (i : BitVec 16) : Statement (.slti d a i) :=
  of_word rfl fun wd hw => by
    have h26_6 : wd.extractLsb' 26 6 = 8#6 := by subst hw; simp (disch := decide) only [ext_hi]; rfl
    have h21_5 : wd.extractLsb' 21 5 = d := by subst hw; simp (disch := decide) only [ext_hi, ext_lo]; exact ext_self
    have h16_5 : wd.extractLsb' 16 5 = a := by subst hw; simp (disch := decide) only [ext_hi, ext_lo]; exact ext_self
    have h0_16 : wd.extractLsb' 0 16 = i := by subst hw; simp (disch := decide) only [ext_lo]; exact ext_self
    clear hw
    show checkFields (rawS wd) = _
    unfold rawS; rw [h26_6]
    show checkFields (.ok (.slti (wd.extractLsb' 21 5) (wd.extractLsb' 16 5) (wd.extractLsb' 0 16))) = _
    simp only [h21_5, h16_5, h0_16]

theorem sltiu (d : BitVec 5) (a : BitVec 5) (i : BitVec 16) : Statement (.sltiu d a i) :=
  of_word rfl fun wd hw => by
    have h26_6 : wd.extractLsb' 26 6 = 9#6 := by subst hw; simp (disch := decide) only [ext_hi]; rfl
    have h21_5 : wd.extractLsb' 21 5 = d := by subst hw; simp (disch := decide) only [ext_hi, ext_lo]; exact ext_self
    have h16_5 : wd.extractLsb' 16 5 = a := by subst hw; simp (disch := decide) only [ext_hi, ext_lo]; exact ext_self
    have h0_16 : wd.extractLsb' 0 16 = i := by subst hw; simp (disch := decide) only [ext_lo]; exact ext_self
    clear hw
    show checkFields (rawS wd) = _
    unfold rawS; rw [h26_6]
    show checkFields (.ok (.sltiu (wd.extractLsb' 21 5) (wd.extractLsb' 16 5) (wd.extractLsb' 0 16))) = _
    simp only [h21_5, h16_5, h0_16]

theorem lis (d : BitVec 5) (i : BitVec 16) : Statement (.lis d i) :=
  of_word rfl fun wd hw => by
    have h26_6 : wd.extractLsb' 26 6 = 10#6 := by subst hw; simp (disch := decide) only [ext_hi]; rfl
    have h16_5 : wd.extractLsb' 16 5 = 0#5 := by subst hw; simp (disch := decide) only [ext_hi, ext_lo]; rfl
    have h21_5 : wd.extractLsb' 21 5 = d := by subst hw; simp (disch := decide) only [ext_hi, ext_lo]; exact ext_self
    have h0_16 : wd.extractLsb' 0 16 = i := by subst hw; simp (disch := decide) only [ext_lo]; exact ext_self
    clear hw
    show checkFields (rawS wd) = _
    unfold rawS; rw [h26_6]
    show checkFields (if wd.extractLsb' 16 5 == 0 then .ok (.lis (wd.extractLsb' 21 5) (wd.extractLsb' 0 16)) else .error .bits) = _
    simp only [h16_5, h21_5, h0_16]; rfl

theorem fpuFadd (d : BitVec 5) (a : BitVec 5) (b : BitVec 5) (fw : BitVec 1) : Statement (.fpuFadd d a b fw) :=
  of_word rfl fun wd hw => by
    have h26_6 : wd.extractLsb' 26 6 = 12#6 := by subst hw; simp (disch := decide) only [ext_hi]; rfl
    have h6_5 : wd.extractLsb' 6 5 = 0#5 := by subst hw; simp (disch := decide) only [ext_hi, ext_lo]; rfl
    have h0_5 : wd.extractLsb' 0 5 = 0#5 := by subst hw; simp (disch := decide) only [ext_lo]; rfl
    have h21_5 : wd.extractLsb' 21 5 = d := by subst hw; simp (disch := decide) only [ext_hi, ext_lo]; exact ext_self
    have h16_5 : wd.extractLsb' 16 5 = a := by subst hw; simp (disch := decide) only [ext_hi, ext_lo]; exact ext_self
    have h11_5 : wd.extractLsb' 11 5 = b := by subst hw; simp (disch := decide) only [ext_hi, ext_lo]; exact ext_self
    have h5_1 : wd.extractLsb' 5 1 = fw := by subst hw; simp (disch := decide) only [ext_hi, ext_lo]; exact ext_self
    clear hw
    have e : decodeSlot .s wd = checkFields (rawFpu wd) := by show checkFields (rawS wd) = _; unfold rawS; rw [h26_6]; rfl
    rw [e]; unfold rawFpu; simp only [h6_5, h0_5, h21_5, h16_5, h11_5, h5_1]; rfl

theorem fpuFsub (d : BitVec 5) (a : BitVec 5) (b : BitVec 5) (fw : BitVec 1) : Statement (.fpuFsub d a b fw) :=
  of_word rfl fun wd hw => by
    have h26_6 : wd.extractLsb' 26 6 = 12#6 := by subst hw; simp (disch := decide) only [ext_hi]; rfl
    have h6_5 : wd.extractLsb' 6 5 = 0#5 := by subst hw; simp (disch := decide) only [ext_hi, ext_lo]; rfl
    have h0_5 : wd.extractLsb' 0 5 = 1#5 := by subst hw; simp (disch := decide) only [ext_lo]; rfl
    have h21_5 : wd.extractLsb' 21 5 = d := by subst hw; simp (disch := decide) only [ext_hi, ext_lo]; exact ext_self
    have h16_5 : wd.extractLsb' 16 5 = a := by subst hw; simp (disch := decide) only [ext_hi, ext_lo]; exact ext_self
    have h11_5 : wd.extractLsb' 11 5 = b := by subst hw; simp (disch := decide) only [ext_hi, ext_lo]; exact ext_self
    have h5_1 : wd.extractLsb' 5 1 = fw := by subst hw; simp (disch := decide) only [ext_hi, ext_lo]; exact ext_self
    clear hw
    have e : decodeSlot .s wd = checkFields (rawFpu wd) := by show checkFields (rawS wd) = _; unfold rawS; rw [h26_6]; rfl
    rw [e]; unfold rawFpu; simp only [h6_5, h0_5, h21_5, h16_5, h11_5, h5_1]; rfl

theorem fpuFmul (d : BitVec 5) (a : BitVec 5) (b : BitVec 5) (fw : BitVec 1) : Statement (.fpuFmul d a b fw) :=
  of_word rfl fun wd hw => by
    have h26_6 : wd.extractLsb' 26 6 = 12#6 := by subst hw; simp (disch := decide) only [ext_hi]; rfl
    have h6_5 : wd.extractLsb' 6 5 = 0#5 := by subst hw; simp (disch := decide) only [ext_hi, ext_lo]; rfl
    have h0_5 : wd.extractLsb' 0 5 = 2#5 := by subst hw; simp (disch := decide) only [ext_lo]; rfl
    have h21_5 : wd.extractLsb' 21 5 = d := by subst hw; simp (disch := decide) only [ext_hi, ext_lo]; exact ext_self
    have h16_5 : wd.extractLsb' 16 5 = a := by subst hw; simp (disch := decide) only [ext_hi, ext_lo]; exact ext_self
    have h11_5 : wd.extractLsb' 11 5 = b := by subst hw; simp (disch := decide) only [ext_hi, ext_lo]; exact ext_self
    have h5_1 : wd.extractLsb' 5 1 = fw := by subst hw; simp (disch := decide) only [ext_hi, ext_lo]; exact ext_self
    clear hw
    have e : decodeSlot .s wd = checkFields (rawFpu wd) := by show checkFields (rawS wd) = _; unfold rawS; rw [h26_6]; rfl
    rw [e]; unfold rawFpu; simp only [h6_5, h0_5, h21_5, h16_5, h11_5, h5_1]; rfl

theorem fpuFdiv (d : BitVec 5) (a : BitVec 5) (b : BitVec 5) (fw : BitVec 1) : Statement (.fpuFdiv d a b fw) :=
  of_word rfl fun wd hw => by
    have h26_6 : wd.extractLsb' 26 6 = 12#6 := by subst hw; simp (disch := decide) only [ext_hi]; rfl
    have h6_5 : wd.extractLsb' 6 5 = 0#5 := by subst hw; simp (disch := decide) only [ext_hi, ext_lo]; rfl
    have h0_5 : wd.extractLsb' 0 5 = 3#5 := by subst hw; simp (disch := decide) only [ext_lo]; rfl
    have h21_5 : wd.extractLsb' 21 5 = d := by subst hw; simp (disch := decide) only [ext_hi, ext_lo]; exact ext_self
    have h16_5 : wd.extractLsb' 16 5 = a := by subst hw; simp (disch := decide) only [ext_hi, ext_lo]; exact ext_self
    have h11_5 : wd.extractLsb' 11 5 = b := by subst hw; simp (disch := decide) only [ext_hi, ext_lo]; exact ext_self
    have h5_1 : wd.extractLsb' 5 1 = fw := by subst hw; simp (disch := decide) only [ext_hi, ext_lo]; exact ext_self
    clear hw
    have e : decodeSlot .s wd = checkFields (rawFpu wd) := by show checkFields (rawS wd) = _; unfold rawS; rw [h26_6]; rfl
    rw [e]; unfold rawFpu; simp only [h6_5, h0_5, h21_5, h16_5, h11_5, h5_1]; rfl

theorem fpuFsqrt (d : BitVec 5) (a : BitVec 5) (fw : BitVec 1) : Statement (.fpuFsqrt d a fw) :=
  of_word rfl fun wd hw => by
    have h26_6 : wd.extractLsb' 26 6 = 12#6 := by subst hw; simp (disch := decide) only [ext_hi]; rfl
    have h6_5 : wd.extractLsb' 6 5 = 0#5 := by subst hw; simp (disch := decide) only [ext_hi, ext_lo]; rfl
    have h0_5 : wd.extractLsb' 0 5 = 4#5 := by subst hw; simp (disch := decide) only [ext_lo]; rfl
    have h6_10 : wd.extractLsb' 6 10 = 0#10 := by subst hw; simp (disch := decide) only [ext_hi, ext_lo]; rfl
    have h21_5 : wd.extractLsb' 21 5 = d := by subst hw; simp (disch := decide) only [ext_hi, ext_lo]; exact ext_self
    have h16_5 : wd.extractLsb' 16 5 = a := by subst hw; simp (disch := decide) only [ext_hi, ext_lo]; exact ext_self
    have h5_1 : wd.extractLsb' 5 1 = fw := by subst hw; simp (disch := decide) only [ext_hi, ext_lo]; exact ext_self
    clear hw
    have e : decodeSlot .s wd = checkFields (rawFpu wd) := by show checkFields (rawS wd) = _; unfold rawS; rw [h26_6]; rfl
    rw [e]; unfold rawFpu; simp only [h6_5, h0_5, h6_10, h21_5, h16_5, h5_1]; rfl

theorem fpuFmin (d : BitVec 5) (a : BitVec 5) (b : BitVec 5) (fw : BitVec 1) : Statement (.fpuFmin d a b fw) :=
  of_word rfl fun wd hw => by
    have h26_6 : wd.extractLsb' 26 6 = 12#6 := by subst hw; simp (disch := decide) only [ext_hi]; rfl
    have h6_5 : wd.extractLsb' 6 5 = 0#5 := by subst hw; simp (disch := decide) only [ext_hi, ext_lo]; rfl
    have h0_5 : wd.extractLsb' 0 5 = 5#5 := by subst hw; simp (disch := decide) only [ext_lo]; rfl
    have q0_5_4 : (5#5 == 4) = false := rfl
    have h21_5 : wd.extractLsb' 21 5 = d := by subst hw; simp (disch := decide) only [ext_hi, ext_lo]; exact ext_self
    have h16_5 : wd.extractLsb' 16 5 = a := by subst hw; simp (disch := decide) only [ext_hi, ext_lo]; exact ext_self
    have h11_5 : wd.extractLsb' 11 5 = b := by subst hw; simp (disch := decide) only [ext_hi, ext_lo]; exact ext_self
    have h5_1 : wd.extractLsb' 5 1 = fw := by subst hw; simp (disch := decide) only [ext_hi, ext_lo]; exact ext_self
    clear hw
    have e : decodeSlot .s wd = checkFields (rawFpu wd) := by show checkFields (rawS wd) = _; unfold rawS; rw [h26_6]; rfl
    rw [e]; unfold rawFpu; simp only [h6_5, h0_5, h21_5, h16_5, h11_5, h5_1, q0_5_4, Bool.and_false]; rfl

theorem fpuFmax (d : BitVec 5) (a : BitVec 5) (b : BitVec 5) (fw : BitVec 1) : Statement (.fpuFmax d a b fw) :=
  of_word rfl fun wd hw => by
    have h26_6 : wd.extractLsb' 26 6 = 12#6 := by subst hw; simp (disch := decide) only [ext_hi]; rfl
    have h6_5 : wd.extractLsb' 6 5 = 0#5 := by subst hw; simp (disch := decide) only [ext_hi, ext_lo]; rfl
    have h0_5 : wd.extractLsb' 0 5 = 6#5 := by subst hw; simp (disch := decide) only [ext_lo]; rfl
    have q0_5_4 : (6#5 == 4) = false := rfl
    have h21_5 : wd.extractLsb' 21 5 = d := by subst hw; simp (disch := decide) only [ext_hi, ext_lo]; exact ext_self
    have h16_5 : wd.extractLsb' 16 5 = a := by subst hw; simp (disch := decide) only [ext_hi, ext_lo]; exact ext_self
    have h11_5 : wd.extractLsb' 11 5 = b := by subst hw; simp (disch := decide) only [ext_hi, ext_lo]; exact ext_self
    have h5_1 : wd.extractLsb' 5 1 = fw := by subst hw; simp (disch := decide) only [ext_hi, ext_lo]; exact ext_self
    clear hw
    have e : decodeSlot .s wd = checkFields (rawFpu wd) := by show checkFields (rawS wd) = _; unfold rawS; rw [h26_6]; rfl
    rw [e]; unfold rawFpu; simp only [h6_5, h0_5, h21_5, h16_5, h11_5, h5_1, q0_5_4, Bool.and_false]; rfl

theorem fpuFeq (d : BitVec 5) (a : BitVec 5) (b : BitVec 5) (fw : BitVec 1) : Statement (.fpuFeq d a b fw) :=
  of_word rfl fun wd hw => by
    have h26_6 : wd.extractLsb' 26 6 = 12#6 := by subst hw; simp (disch := decide) only [ext_hi]; rfl
    have h6_5 : wd.extractLsb' 6 5 = 0#5 := by subst hw; simp (disch := decide) only [ext_hi, ext_lo]; rfl
    have h0_5 : wd.extractLsb' 0 5 = 7#5 := by subst hw; simp (disch := decide) only [ext_lo]; rfl
    have q0_5_4 : (7#5 == 4) = false := rfl
    have h21_5 : wd.extractLsb' 21 5 = d := by subst hw; simp (disch := decide) only [ext_hi, ext_lo]; exact ext_self
    have h16_5 : wd.extractLsb' 16 5 = a := by subst hw; simp (disch := decide) only [ext_hi, ext_lo]; exact ext_self
    have h11_5 : wd.extractLsb' 11 5 = b := by subst hw; simp (disch := decide) only [ext_hi, ext_lo]; exact ext_self
    have h5_1 : wd.extractLsb' 5 1 = fw := by subst hw; simp (disch := decide) only [ext_hi, ext_lo]; exact ext_self
    clear hw
    have e : decodeSlot .s wd = checkFields (rawFpu wd) := by show checkFields (rawS wd) = _; unfold rawS; rw [h26_6]; rfl
    rw [e]; unfold rawFpu; simp only [h6_5, h0_5, h21_5, h16_5, h11_5, h5_1, q0_5_4, Bool.and_false]; rfl

theorem fpuFlt (d : BitVec 5) (a : BitVec 5) (b : BitVec 5) (fw : BitVec 1) : Statement (.fpuFlt d a b fw) :=
  of_word rfl fun wd hw => by
    have h26_6 : wd.extractLsb' 26 6 = 12#6 := by subst hw; simp (disch := decide) only [ext_hi]; rfl
    have h6_5 : wd.extractLsb' 6 5 = 0#5 := by subst hw; simp (disch := decide) only [ext_hi, ext_lo]; rfl
    have h0_5 : wd.extractLsb' 0 5 = 8#5 := by subst hw; simp (disch := decide) only [ext_lo]; rfl
    have q0_5_4 : (8#5 == 4) = false := rfl
    have h21_5 : wd.extractLsb' 21 5 = d := by subst hw; simp (disch := decide) only [ext_hi, ext_lo]; exact ext_self
    have h16_5 : wd.extractLsb' 16 5 = a := by subst hw; simp (disch := decide) only [ext_hi, ext_lo]; exact ext_self
    have h11_5 : wd.extractLsb' 11 5 = b := by subst hw; simp (disch := decide) only [ext_hi, ext_lo]; exact ext_self
    have h5_1 : wd.extractLsb' 5 1 = fw := by subst hw; simp (disch := decide) only [ext_hi, ext_lo]; exact ext_self
    clear hw
    have e : decodeSlot .s wd = checkFields (rawFpu wd) := by show checkFields (rawS wd) = _; unfold rawS; rw [h26_6]; rfl
    rw [e]; unfold rawFpu; simp only [h6_5, h0_5, h21_5, h16_5, h11_5, h5_1, q0_5_4, Bool.and_false]; rfl

theorem fpuFle (d : BitVec 5) (a : BitVec 5) (b : BitVec 5) (fw : BitVec 1) : Statement (.fpuFle d a b fw) :=
  of_word rfl fun wd hw => by
    have h26_6 : wd.extractLsb' 26 6 = 12#6 := by subst hw; simp (disch := decide) only [ext_hi]; rfl
    have h6_5 : wd.extractLsb' 6 5 = 0#5 := by subst hw; simp (disch := decide) only [ext_hi, ext_lo]; rfl
    have h0_5 : wd.extractLsb' 0 5 = 9#5 := by subst hw; simp (disch := decide) only [ext_lo]; rfl
    have q0_5_4 : (9#5 == 4) = false := rfl
    have h21_5 : wd.extractLsb' 21 5 = d := by subst hw; simp (disch := decide) only [ext_hi, ext_lo]; exact ext_self
    have h16_5 : wd.extractLsb' 16 5 = a := by subst hw; simp (disch := decide) only [ext_hi, ext_lo]; exact ext_self
    have h11_5 : wd.extractLsb' 11 5 = b := by subst hw; simp (disch := decide) only [ext_hi, ext_lo]; exact ext_self
    have h5_1 : wd.extractLsb' 5 1 = fw := by subst hw; simp (disch := decide) only [ext_hi, ext_lo]; exact ext_self
    clear hw
    have e : decodeSlot .s wd = checkFields (rawFpu wd) := by show checkFields (rawS wd) = _; unfold rawS; rw [h26_6]; rfl
    rw [e]; unfold rawFpu; simp only [h6_5, h0_5, h21_5, h16_5, h11_5, h5_1, q0_5_4, Bool.and_false]; rfl

theorem fpuFfma (d : BitVec 5) (a : BitVec 5) (b : BitVec 5) (fw : BitVec 1) : Statement (.fpuFfma d a b fw) :=
  of_word rfl fun wd hw => by
    have h26_6 : wd.extractLsb' 26 6 = 12#6 := by subst hw; simp (disch := decide) only [ext_hi]; rfl
    have h6_5 : wd.extractLsb' 6 5 = 0#5 := by subst hw; simp (disch := decide) only [ext_hi, ext_lo]; rfl
    have h0_5 : wd.extractLsb' 0 5 = 10#5 := by subst hw; simp (disch := decide) only [ext_lo]; rfl
    have q0_5_4 : (10#5 == 4) = false := rfl
    have h21_5 : wd.extractLsb' 21 5 = d := by subst hw; simp (disch := decide) only [ext_hi, ext_lo]; exact ext_self
    have h16_5 : wd.extractLsb' 16 5 = a := by subst hw; simp (disch := decide) only [ext_hi, ext_lo]; exact ext_self
    have h11_5 : wd.extractLsb' 11 5 = b := by subst hw; simp (disch := decide) only [ext_hi, ext_lo]; exact ext_self
    have h5_1 : wd.extractLsb' 5 1 = fw := by subst hw; simp (disch := decide) only [ext_hi, ext_lo]; exact ext_self
    clear hw
    have e : decodeSlot .s wd = checkFields (rawFpu wd) := by show checkFields (rawS wd) = _; unfold rawS; rw [h26_6]; rfl
    rw [e]; unfold rawFpu; simp only [h6_5, h0_5, h21_5, h16_5, h11_5, h5_1, q0_5_4, Bool.and_false]; rfl

theorem fpuCvtS2d (d : BitVec 5) (a : BitVec 5) : Statement (.fpuCvtS2d d a) :=
  of_word rfl fun wd hw => by
    have h26_6 : wd.extractLsb' 26 6 = 12#6 := by subst hw; simp (disch := decide) only [ext_hi]; rfl
    have h6_5 : wd.extractLsb' 6 5 = 0#5 := by subst hw; simp (disch := decide) only [ext_lo]; rfl
    have h0_5 : wd.extractLsb' 0 5 = 16#5 := by subst hw; simp (disch := decide) only [ext_lo]; rfl
    have h6_10 : wd.extractLsb' 6 10 = 0#10 := by subst hw; simp (disch := decide) only [ext_lo]; rfl
    have h0_16 : wd.extractLsb' 0 16 = 16#16 := by subst hw; simp (disch := decide) only [ext_lo]; rfl
    have h21_5 : wd.extractLsb' 21 5 = d := by subst hw; simp (disch := decide) only [ext_hi, ext_lo]; exact ext_self
    have h16_5 : wd.extractLsb' 16 5 = a := by subst hw; simp (disch := decide) only [ext_hi, ext_lo]; exact ext_self
    clear hw
    have e : decodeSlot .s wd = checkFields (rawFpu wd) := by show checkFields (rawS wd) = _; unfold rawS; rw [h26_6]; rfl
    rw [e]; unfold rawFpu; simp only [h6_5, h0_5, h6_10, h0_16, h21_5, h16_5]; rfl

theorem fpuCvtD2s (d : BitVec 5) (a : BitVec 5) : Statement (.fpuCvtD2s d a) :=
  of_word rfl fun wd hw => by
    have h26_6 : wd.extractLsb' 26 6 = 12#6 := by subst hw; simp (disch := decide) only [ext_hi]; rfl
    have h6_5 : wd.extractLsb' 6 5 = 0#5 := by subst hw; simp (disch := decide) only [ext_lo]; rfl
    have h0_5 : wd.extractLsb' 0 5 = 17#5 := by subst hw; simp (disch := decide) only [ext_lo]; rfl
    have h6_10 : wd.extractLsb' 6 10 = 0#10 := by subst hw; simp (disch := decide) only [ext_lo]; rfl
    have h0_16 : wd.extractLsb' 0 16 = 17#16 := by subst hw; simp (disch := decide) only [ext_lo]; rfl
    have h21_5 : wd.extractLsb' 21 5 = d := by subst hw; simp (disch := decide) only [ext_hi, ext_lo]; exact ext_self
    have h16_5 : wd.extractLsb' 16 5 = a := by subst hw; simp (disch := decide) only [ext_hi, ext_lo]; exact ext_self
    clear hw
    have e : decodeSlot .s wd = checkFields (rawFpu wd) := by show checkFields (rawS wd) = _; unfold rawS; rw [h26_6]; rfl
    rw [e]; unfold rawFpu; simp only [h6_5, h0_5, h6_10, h0_16, h21_5, h16_5]; rfl

theorem fpuCvtS2i (d : BitVec 5) (a : BitVec 5) : Statement (.fpuCvtS2i d a) :=
  of_word rfl fun wd hw => by
    have h26_6 : wd.extractLsb' 26 6 = 12#6 := by subst hw; simp (disch := decide) only [ext_hi]; rfl
    have h6_5 : wd.extractLsb' 6 5 = 0#5 := by subst hw; simp (disch := decide) only [ext_lo]; rfl
    have h0_5 : wd.extractLsb' 0 5 = 18#5 := by subst hw; simp (disch := decide) only [ext_lo]; rfl
    have h6_10 : wd.extractLsb' 6 10 = 0#10 := by subst hw; simp (disch := decide) only [ext_lo]; rfl
    have h0_16 : wd.extractLsb' 0 16 = 18#16 := by subst hw; simp (disch := decide) only [ext_lo]; rfl
    have h21_5 : wd.extractLsb' 21 5 = d := by subst hw; simp (disch := decide) only [ext_hi, ext_lo]; exact ext_self
    have h16_5 : wd.extractLsb' 16 5 = a := by subst hw; simp (disch := decide) only [ext_hi, ext_lo]; exact ext_self
    clear hw
    have e : decodeSlot .s wd = checkFields (rawFpu wd) := by show checkFields (rawS wd) = _; unfold rawS; rw [h26_6]; rfl
    rw [e]; unfold rawFpu; simp only [h6_5, h0_5, h6_10, h0_16, h21_5, h16_5]; rfl

theorem fpuCvtI2s (d : BitVec 5) (a : BitVec 5) : Statement (.fpuCvtI2s d a) :=
  of_word rfl fun wd hw => by
    have h26_6 : wd.extractLsb' 26 6 = 12#6 := by subst hw; simp (disch := decide) only [ext_hi]; rfl
    have h6_5 : wd.extractLsb' 6 5 = 0#5 := by subst hw; simp (disch := decide) only [ext_lo]; rfl
    have h0_5 : wd.extractLsb' 0 5 = 19#5 := by subst hw; simp (disch := decide) only [ext_lo]; rfl
    have h6_10 : wd.extractLsb' 6 10 = 0#10 := by subst hw; simp (disch := decide) only [ext_lo]; rfl
    have h0_16 : wd.extractLsb' 0 16 = 19#16 := by subst hw; simp (disch := decide) only [ext_lo]; rfl
    have h21_5 : wd.extractLsb' 21 5 = d := by subst hw; simp (disch := decide) only [ext_hi, ext_lo]; exact ext_self
    have h16_5 : wd.extractLsb' 16 5 = a := by subst hw; simp (disch := decide) only [ext_hi, ext_lo]; exact ext_self
    clear hw
    have e : decodeSlot .s wd = checkFields (rawFpu wd) := by show checkFields (rawS wd) = _; unfold rawS; rw [h26_6]; rfl
    rw [e]; unfold rawFpu; simp only [h6_5, h0_5, h6_10, h0_16, h21_5, h16_5]; rfl

theorem fpuCvtD2i (d : BitVec 5) (a : BitVec 5) : Statement (.fpuCvtD2i d a) :=
  of_word rfl fun wd hw => by
    have h26_6 : wd.extractLsb' 26 6 = 12#6 := by subst hw; simp (disch := decide) only [ext_hi]; rfl
    have h6_5 : wd.extractLsb' 6 5 = 0#5 := by subst hw; simp (disch := decide) only [ext_lo]; rfl
    have h0_5 : wd.extractLsb' 0 5 = 20#5 := by subst hw; simp (disch := decide) only [ext_lo]; rfl
    have h6_10 : wd.extractLsb' 6 10 = 0#10 := by subst hw; simp (disch := decide) only [ext_lo]; rfl
    have h0_16 : wd.extractLsb' 0 16 = 20#16 := by subst hw; simp (disch := decide) only [ext_lo]; rfl
    have h21_5 : wd.extractLsb' 21 5 = d := by subst hw; simp (disch := decide) only [ext_hi, ext_lo]; exact ext_self
    have h16_5 : wd.extractLsb' 16 5 = a := by subst hw; simp (disch := decide) only [ext_hi, ext_lo]; exact ext_self
    clear hw
    have e : decodeSlot .s wd = checkFields (rawFpu wd) := by show checkFields (rawS wd) = _; unfold rawS; rw [h26_6]; rfl
    rw [e]; unfold rawFpu; simp only [h6_5, h0_5, h6_10, h0_16, h21_5, h16_5]; rfl

theorem fpuCvtI2d (d : BitVec 5) (a : BitVec 5) : Statement (.fpuCvtI2d d a) :=
  of_word rfl fun wd hw => by
    have h26_6 : wd.extractLsb' 26 6 = 12#6 := by subst hw; simp (disch := decide) only [ext_hi]; rfl
    have h6_5 : wd.extractLsb' 6 5 = 0#5 := by subst hw; simp (disch := decide) only [ext_lo]; rfl
    have h0_5 : wd.extractLsb' 0 5 = 21#5 := by subst hw; simp (disch := decide) only [ext_lo]; rfl
    have h6_10 : wd.extractLsb' 6 10 = 0#10 := by subst hw; simp (disch := decide) only [ext_lo]; rfl
    have h0_16 : wd.extractLsb' 0 16 = 21#16 := by subst hw; simp (disch := decide) only [ext_lo]; rfl
    have h21_5 : wd.extractLsb' 21 5 = d := by subst hw; simp (disch := decide) only [ext_hi, ext_lo]; exact ext_self
    have h16_5 : wd.extractLsb' 16 5 = a := by subst hw; simp (disch := decide) only [ext_hi, ext_lo]; exact ext_self
    clear hw
    have e : decodeSlot .s wd = checkFields (rawFpu wd) := by show checkFields (rawS wd) = _; unfold rawS; rw [h26_6]; rfl
    rw [e]; unfold rawFpu; simp only [h6_5, h0_5, h6_10, h0_16, h21_5, h16_5]; rfl

theorem br (o : BitVec 26) : Statement (.br o) :=
  of_word rfl fun wd hw => by
    have h26_6 : wd.extractLsb' 26 6 = 16#6 := by subst hw; simp (disch := decide) only [ext_hi]; rfl
    have h0_26 : wd.extractLsb' 0 26 = o := by subst hw; simp (disch := decide) only [ext_lo]; exact ext_self
    clear hw
    show checkFields (rawS wd) = _
    unfold rawS; rw [h26_6]
    show checkFields (.ok (.br (wd.extractLsb' 0 26))) = _
    simp only [h0_26]

theorem bl (o : BitVec 26) : Statement (.bl o) :=
  of_word rfl fun wd hw => by
    have h26_6 : wd.extractLsb' 26 6 = 17#6 := by subst hw; simp (disch := decide) only [ext_hi]; rfl
    have h0_26 : wd.extractLsb' 0 26 = o := by subst hw; simp (disch := decide) only [ext_lo]; exact ext_self
    clear hw
    show checkFields (rawS wd) = _
    unfold rawS; rw [h26_6]
    show checkFields (.ok (.bl (wd.extractLsb' 0 26))) = _
    simp only [h0_26]

theorem jr (a : BitVec 5) : Statement (.jr a) :=
  of_word rfl fun wd hw => by
    have h26_6 : wd.extractLsb' 26 6 = 18#6 := by subst hw; simp (disch := decide) only [ext_hi]; rfl
    have h21_5 : wd.extractLsb' 21 5 = 0#5 := by subst hw; simp (disch := decide) only [ext_hi]; rfl
    have h0_16 : wd.extractLsb' 0 16 = 0#16 := by subst hw; simp (disch := decide) only [ext_lo]; rfl
    have h16_5 : wd.extractLsb' 16 5 = a := by subst hw; simp (disch := decide) only [ext_hi, ext_lo]; exact ext_self
    clear hw
    show checkFields (rawS wd) = _
    unfold rawS; rw [h26_6]
    show checkFields (if wd.extractLsb' 21 5 == 0 && wd.extractLsb' 0 16 == 0 then .ok (.jr (wd.extractLsb' 16 5)) else .error .bits) = _
    simp only [h21_5, h0_16, h16_5]; rfl

theorem jlr (a : BitVec 5) : Statement (.jlr a) :=
  of_word rfl fun wd hw => by
    have h26_6 : wd.extractLsb' 26 6 = 19#6 := by subst hw; simp (disch := decide) only [ext_hi]; rfl
    have h21_5 : wd.extractLsb' 21 5 = 0#5 := by subst hw; simp (disch := decide) only [ext_hi]; rfl
    have h0_16 : wd.extractLsb' 0 16 = 0#16 := by subst hw; simp (disch := decide) only [ext_lo]; rfl
    have h16_5 : wd.extractLsb' 16 5 = a := by subst hw; simp (disch := decide) only [ext_hi, ext_lo]; exact ext_self
    clear hw
    show checkFields (rawS wd) = _
    unfold rawS; rw [h26_6]
    show checkFields (if wd.extractLsb' 21 5 == 0 && wd.extractLsb' 0 16 == 0 then .ok (.jlr (wd.extractLsb' 16 5)) else .error .bits) = _
    simp only [h21_5, h0_16, h16_5]; rfl

theorem bc (c : BitVec 4) (a : BitVec 5) (b : BitVec 5) (o : BitVec 12) : Statement (.bc c a b o) :=
  of_word rfl fun wd hw => by
    have h26_6 : wd.extractLsb' 26 6 = 20#6 := by subst hw; simp (disch := decide) only [ext_hi]; rfl
    have h22_4 : wd.extractLsb' 22 4 = c := by subst hw; simp (disch := decide) only [ext_hi, ext_lo]; exact ext_self
    have h17_5 : wd.extractLsb' 17 5 = a := by subst hw; simp (disch := decide) only [ext_hi, ext_lo]; exact ext_self
    have h12_5 : wd.extractLsb' 12 5 = b := by subst hw; simp (disch := decide) only [ext_hi, ext_lo]; exact ext_self
    have h0_12 : wd.extractLsb' 0 12 = o := by subst hw; simp (disch := decide) only [ext_lo]; exact ext_self
    clear hw
    show checkFields (rawS wd) = _
    unfold rawS; rw [h26_6]
    show checkFields (.ok (.bc (wd.extractLsb' 22 4) (wd.extractLsb' 17 5) (wd.extractLsb' 12 5) (wd.extractLsb' 0 12))) = _
    simp only [h22_4, h17_5, h12_5, h0_12]

theorem bef (c : BitVec 4) (a : BitVec 5) (g : BitVec 5) (o : BitVec 12) : Statement (.bef c a g o) :=
  of_word rfl fun wd hw => by
    have h26_6 : wd.extractLsb' 26 6 = 21#6 := by subst hw; simp (disch := decide) only [ext_hi]; rfl
    have h22_4 : wd.extractLsb' 22 4 = c := by subst hw; simp (disch := decide) only [ext_hi, ext_lo]; exact ext_self
    have h17_5 : wd.extractLsb' 17 5 = a := by subst hw; simp (disch := decide) only [ext_hi, ext_lo]; exact ext_self
    have h12_5 : wd.extractLsb' 12 5 = g := by subst hw; simp (disch := decide) only [ext_hi, ext_lo]; exact ext_self
    have h0_12 : wd.extractLsb' 0 12 = o := by subst hw; simp (disch := decide) only [ext_lo]; exact ext_self
    clear hw
    show checkFields (rawS wd) = _
    unfold rawS; rw [h26_6]
    show checkFields (.ok (.bef (wd.extractLsb' 22 4) (wd.extractLsb' 17 5) (wd.extractLsb' 12 5) (wd.extractLsb' 0 12))) = _
    simp only [h22_4, h17_5, h12_5, h0_12]

theorem ld (d : BitVec 5) (a : BitVec 5) (c : BitVec 3) (z : BitVec 2) (o : BitVec 11) : Statement (.ld d a c z o) :=
  of_word rfl fun wd hw => by
    have h26_6 : wd.extractLsb' 26 6 = 24#6 := by subst hw; simp (disch := decide) only [ext_hi]; rfl
    have h21_5 : wd.extractLsb' 21 5 = d := by subst hw; simp (disch := decide) only [ext_hi, ext_lo]; exact ext_self
    have h16_5 : wd.extractLsb' 16 5 = a := by subst hw; simp (disch := decide) only [ext_hi, ext_lo]; exact ext_self
    have h13_3 : wd.extractLsb' 13 3 = c := by subst hw; simp (disch := decide) only [ext_hi, ext_lo]; exact ext_self
    have h11_2 : wd.extractLsb' 11 2 = z := by subst hw; simp (disch := decide) only [ext_hi, ext_lo]; exact ext_self
    have h0_11 : wd.extractLsb' 0 11 = o := by subst hw; simp (disch := decide) only [ext_lo]; exact ext_self
    clear hw
    show checkFields (rawS wd) = _
    unfold rawS; rw [h26_6]
    show checkFields (.ok (.ld (wd.extractLsb' 21 5) (wd.extractLsb' 16 5) (wd.extractLsb' 13 3) (wd.extractLsb' 11 2) (wd.extractLsb' 0 11))) = _
    simp only [h21_5, h16_5, h13_3, h11_2, h0_11]

theorem ldu (d : BitVec 5) (a : BitVec 5) (c : BitVec 3) (z : BitVec 2) (o : BitVec 11) : Statement (.ldu d a c z o) :=
  of_word rfl fun wd hw => by
    have h26_6 : wd.extractLsb' 26 6 = 25#6 := by subst hw; simp (disch := decide) only [ext_hi]; rfl
    have h21_5 : wd.extractLsb' 21 5 = d := by subst hw; simp (disch := decide) only [ext_hi, ext_lo]; exact ext_self
    have h16_5 : wd.extractLsb' 16 5 = a := by subst hw; simp (disch := decide) only [ext_hi, ext_lo]; exact ext_self
    have h13_3 : wd.extractLsb' 13 3 = c := by subst hw; simp (disch := decide) only [ext_hi, ext_lo]; exact ext_self
    have h11_2 : wd.extractLsb' 11 2 = z := by subst hw; simp (disch := decide) only [ext_hi, ext_lo]; exact ext_self
    have h0_11 : wd.extractLsb' 0 11 = o := by subst hw; simp (disch := decide) only [ext_lo]; exact ext_self
    clear hw
    show checkFields (rawS wd) = _
    unfold rawS; rw [h26_6]
    show checkFields (.ok (.ldu (wd.extractLsb' 21 5) (wd.extractLsb' 16 5) (wd.extractLsb' 13 3) (wd.extractLsb' 11 2) (wd.extractLsb' 0 11))) = _
    simp only [h21_5, h16_5, h13_3, h11_2, h0_11]

theorem st (s : BitVec 5) (a : BitVec 5) (c : BitVec 3) (z : BitVec 2) (o : BitVec 11) : Statement (.st s a c z o) :=
  of_word rfl fun wd hw => by
    have h26_6 : wd.extractLsb' 26 6 = 26#6 := by subst hw; simp (disch := decide) only [ext_hi]; rfl
    have h21_5 : wd.extractLsb' 21 5 = s := by subst hw; simp (disch := decide) only [ext_hi, ext_lo]; exact ext_self
    have h16_5 : wd.extractLsb' 16 5 = a := by subst hw; simp (disch := decide) only [ext_hi, ext_lo]; exact ext_self
    have h13_3 : wd.extractLsb' 13 3 = c := by subst hw; simp (disch := decide) only [ext_hi, ext_lo]; exact ext_self
    have h11_2 : wd.extractLsb' 11 2 = z := by subst hw; simp (disch := decide) only [ext_hi, ext_lo]; exact ext_self
    have h0_11 : wd.extractLsb' 0 11 = o := by subst hw; simp (disch := decide) only [ext_lo]; exact ext_self
    clear hw
    show checkFields (rawS wd) = _
    unfold rawS; rw [h26_6]
    show checkFields (.ok (.st (wd.extractLsb' 21 5) (wd.extractLsb' 16 5) (wd.extractLsb' 13 3) (wd.extractLsb' 11 2) (wd.extractLsb' 0 11))) = _
    simp only [h21_5, h16_5, h13_3, h11_2, h0_11]

theorem fence (c : BitVec 3) : Statement (.fence c) :=
  of_word rfl fun wd hw => by
    have h26_6 : wd.extractLsb' 26 6 = 27#6 := by subst hw; simp (disch := decide) only [ext_hi]; rfl
    have h16_10 : wd.extractLsb' 16 10 = 0#10 := by subst hw; simp (disch := decide) only [ext_hi]; rfl
    have h0_13 : wd.extractLsb' 0 13 = 0#13 := by subst hw; simp (disch := decide) only [ext_lo]; rfl
    have h13_3 : wd.extractLsb' 13 3 = c := by subst hw; simp (disch := decide) only [ext_hi, ext_lo]; exact ext_self
    clear hw
    show checkFields (rawS wd) = _
    unfold rawS; rw [h26_6]
    show checkFields (if wd.extractLsb' 16 10 == 0 && wd.extractLsb' 0 13 == 0 then .ok (.fence (wd.extractLsb' 13 3)) else .error .bits) = _
    simp only [h16_10, h0_13, h13_3]; rfl

theorem cacheWb (a : BitVec 5) (c : BitVec 3) (o : BitVec 11) : Statement (.cacheWb a c o) :=
  of_word rfl fun wd hw => by
    have h26_6 : wd.extractLsb' 26 6 = 28#6 := by subst hw; simp (disch := decide) only [ext_hi]; rfl
    have h21_5 : wd.extractLsb' 21 5 = 0#5 := by subst hw; simp (disch := decide) only [ext_hi]; rfl
    have h11_2 : wd.extractLsb' 11 2 = 0#2 := by subst hw; simp (disch := decide) only [ext_hi, ext_lo]; rfl
    have h16_5 : wd.extractLsb' 16 5 = a := by subst hw; simp (disch := decide) only [ext_hi, ext_lo]; exact ext_self
    have h13_3 : wd.extractLsb' 13 3 = c := by subst hw; simp (disch := decide) only [ext_hi, ext_lo]; exact ext_self
    have h0_11 : wd.extractLsb' 0 11 = o := by subst hw; simp (disch := decide) only [ext_lo]; exact ext_self
    clear hw
    have e : decodeSlot .s wd = checkFields (rawCache wd) := by show checkFields (rawS wd) = _; unfold rawS; rw [h26_6]; rfl
    rw [e]; unfold rawCache; simp only [h21_5, h11_2, h16_5, h13_3, h0_11]; rfl

theorem cacheInv (a : BitVec 5) (c : BitVec 3) (o : BitVec 11) : Statement (.cacheInv a c o) :=
  of_word rfl fun wd hw => by
    have h26_6 : wd.extractLsb' 26 6 = 28#6 := by subst hw; simp (disch := decide) only [ext_hi]; rfl
    have h21_5 : wd.extractLsb' 21 5 = 1#5 := by subst hw; simp (disch := decide) only [ext_hi]; rfl
    have h11_2 : wd.extractLsb' 11 2 = 0#2 := by subst hw; simp (disch := decide) only [ext_hi, ext_lo]; rfl
    have h16_5 : wd.extractLsb' 16 5 = a := by subst hw; simp (disch := decide) only [ext_hi, ext_lo]; exact ext_self
    have h13_3 : wd.extractLsb' 13 3 = c := by subst hw; simp (disch := decide) only [ext_hi, ext_lo]; exact ext_self
    have h0_11 : wd.extractLsb' 0 11 = o := by subst hw; simp (disch := decide) only [ext_lo]; exact ext_self
    clear hw
    have e : decodeSlot .s wd = checkFields (rawCache wd) := by show checkFields (rawS wd) = _; unfold rawS; rw [h26_6]; rfl
    rw [e]; unfold rawCache; simp only [h21_5, h11_2, h16_5, h13_3, h0_11]; rfl

theorem cacheWbinv (a : BitVec 5) (c : BitVec 3) (o : BitVec 11) : Statement (.cacheWbinv a c o) :=
  of_word rfl fun wd hw => by
    have h26_6 : wd.extractLsb' 26 6 = 28#6 := by subst hw; simp (disch := decide) only [ext_hi]; rfl
    have h21_5 : wd.extractLsb' 21 5 = 2#5 := by subst hw; simp (disch := decide) only [ext_hi]; rfl
    have h11_2 : wd.extractLsb' 11 2 = 0#2 := by subst hw; simp (disch := decide) only [ext_hi, ext_lo]; rfl
    have h16_5 : wd.extractLsb' 16 5 = a := by subst hw; simp (disch := decide) only [ext_hi, ext_lo]; exact ext_self
    have h13_3 : wd.extractLsb' 13 3 = c := by subst hw; simp (disch := decide) only [ext_hi, ext_lo]; exact ext_self
    have h0_11 : wd.extractLsb' 0 11 = o := by subst hw; simp (disch := decide) only [ext_lo]; exact ext_self
    clear hw
    have e : decodeSlot .s wd = checkFields (rawCache wd) := by show checkFields (rawS wd) = _; unfold rawS; rw [h26_6]; rfl
    rw [e]; unfold rawCache; simp only [h21_5, h11_2, h16_5, h13_3, h0_11]; rfl

theorem cacheEvict (a : BitVec 5) (c : BitVec 3) (o : BitVec 11) : Statement (.cacheEvict a c o) :=
  of_word rfl fun wd hw => by
    have h26_6 : wd.extractLsb' 26 6 = 28#6 := by subst hw; simp (disch := decide) only [ext_hi]; rfl
    have h21_5 : wd.extractLsb' 21 5 = 3#5 := by subst hw; simp (disch := decide) only [ext_hi]; rfl
    have h11_2 : wd.extractLsb' 11 2 = 0#2 := by subst hw; simp (disch := decide) only [ext_hi, ext_lo]; rfl
    have h16_5 : wd.extractLsb' 16 5 = a := by subst hw; simp (disch := decide) only [ext_hi, ext_lo]; exact ext_self
    have h13_3 : wd.extractLsb' 13 3 = c := by subst hw; simp (disch := decide) only [ext_hi, ext_lo]; exact ext_self
    have h0_11 : wd.extractLsb' 0 11 = o := by subst hw; simp (disch := decide) only [ext_lo]; exact ext_self
    clear hw
    have e : decodeSlot .s wd = checkFields (rawCache wd) := by show checkFields (rawS wd) = _; unfold rawS; rw [h26_6]; rfl
    rw [e]; unfold rawCache; simp only [h21_5, h11_2, h16_5, h13_3, h0_11]; rfl

theorem amoAdd (d : BitVec 5) (a : BitVec 5) (b : BitVec 5) (c : BitVec 3) (z : BitVec 2) (r : BitVec 1) : Statement (.amoAdd d a b c z r) :=
  of_word rfl fun wd hw => by
    have h26_6 : wd.extractLsb' 26 6 = 29#6 := by subst hw; simp (disch := decide) only [ext_hi]; rfl
    have h4_4 : wd.extractLsb' 4 4 = 0#4 := by subst hw; simp (disch := decide) only [ext_hi, ext_lo]; rfl
    have h0_1 : wd.extractLsb' 0 1 = 0#1 := by subst hw; simp (disch := decide) only [ext_lo]; rfl
    have h21_5 : wd.extractLsb' 21 5 = d := by subst hw; simp (disch := decide) only [ext_hi, ext_lo]; exact ext_self
    have h16_5 : wd.extractLsb' 16 5 = a := by subst hw; simp (disch := decide) only [ext_hi, ext_lo]; exact ext_self
    have h11_5 : wd.extractLsb' 11 5 = b := by subst hw; simp (disch := decide) only [ext_hi, ext_lo]; exact ext_self
    have h8_3 : wd.extractLsb' 8 3 = c := by subst hw; simp (disch := decide) only [ext_hi, ext_lo]; exact ext_self
    have h2_2 : wd.extractLsb' 2 2 = z := by subst hw; simp (disch := decide) only [ext_hi, ext_lo]; exact ext_self
    have h1_1 : wd.extractLsb' 1 1 = r := by subst hw; simp (disch := decide) only [ext_hi, ext_lo]; exact ext_self
    clear hw
    have e : decodeSlot .s wd = checkFields (rawAmo wd) := by show checkFields (rawS wd) = _; unfold rawS; rw [h26_6]; rfl
    rw [e]; unfold rawAmo; simp only [h4_4, h0_1, h21_5, h16_5, h11_5, h8_3, h2_2, h1_1]; rfl

theorem amoAnd (d : BitVec 5) (a : BitVec 5) (b : BitVec 5) (c : BitVec 3) (z : BitVec 2) (r : BitVec 1) : Statement (.amoAnd d a b c z r) :=
  of_word rfl fun wd hw => by
    have h26_6 : wd.extractLsb' 26 6 = 29#6 := by subst hw; simp (disch := decide) only [ext_hi]; rfl
    have h4_4 : wd.extractLsb' 4 4 = 1#4 := by subst hw; simp (disch := decide) only [ext_hi, ext_lo]; rfl
    have h0_1 : wd.extractLsb' 0 1 = 0#1 := by subst hw; simp (disch := decide) only [ext_lo]; rfl
    have h21_5 : wd.extractLsb' 21 5 = d := by subst hw; simp (disch := decide) only [ext_hi, ext_lo]; exact ext_self
    have h16_5 : wd.extractLsb' 16 5 = a := by subst hw; simp (disch := decide) only [ext_hi, ext_lo]; exact ext_self
    have h11_5 : wd.extractLsb' 11 5 = b := by subst hw; simp (disch := decide) only [ext_hi, ext_lo]; exact ext_self
    have h8_3 : wd.extractLsb' 8 3 = c := by subst hw; simp (disch := decide) only [ext_hi, ext_lo]; exact ext_self
    have h2_2 : wd.extractLsb' 2 2 = z := by subst hw; simp (disch := decide) only [ext_hi, ext_lo]; exact ext_self
    have h1_1 : wd.extractLsb' 1 1 = r := by subst hw; simp (disch := decide) only [ext_hi, ext_lo]; exact ext_self
    clear hw
    have e : decodeSlot .s wd = checkFields (rawAmo wd) := by show checkFields (rawS wd) = _; unfold rawS; rw [h26_6]; rfl
    rw [e]; unfold rawAmo; simp only [h4_4, h0_1, h21_5, h16_5, h11_5, h8_3, h2_2, h1_1]; rfl

theorem amoOr (d : BitVec 5) (a : BitVec 5) (b : BitVec 5) (c : BitVec 3) (z : BitVec 2) (r : BitVec 1) : Statement (.amoOr d a b c z r) :=
  of_word rfl fun wd hw => by
    have h26_6 : wd.extractLsb' 26 6 = 29#6 := by subst hw; simp (disch := decide) only [ext_hi]; rfl
    have h4_4 : wd.extractLsb' 4 4 = 2#4 := by subst hw; simp (disch := decide) only [ext_hi, ext_lo]; rfl
    have h0_1 : wd.extractLsb' 0 1 = 0#1 := by subst hw; simp (disch := decide) only [ext_lo]; rfl
    have h21_5 : wd.extractLsb' 21 5 = d := by subst hw; simp (disch := decide) only [ext_hi, ext_lo]; exact ext_self
    have h16_5 : wd.extractLsb' 16 5 = a := by subst hw; simp (disch := decide) only [ext_hi, ext_lo]; exact ext_self
    have h11_5 : wd.extractLsb' 11 5 = b := by subst hw; simp (disch := decide) only [ext_hi, ext_lo]; exact ext_self
    have h8_3 : wd.extractLsb' 8 3 = c := by subst hw; simp (disch := decide) only [ext_hi, ext_lo]; exact ext_self
    have h2_2 : wd.extractLsb' 2 2 = z := by subst hw; simp (disch := decide) only [ext_hi, ext_lo]; exact ext_self
    have h1_1 : wd.extractLsb' 1 1 = r := by subst hw; simp (disch := decide) only [ext_hi, ext_lo]; exact ext_self
    clear hw
    have e : decodeSlot .s wd = checkFields (rawAmo wd) := by show checkFields (rawS wd) = _; unfold rawS; rw [h26_6]; rfl
    rw [e]; unfold rawAmo; simp only [h4_4, h0_1, h21_5, h16_5, h11_5, h8_3, h2_2, h1_1]; rfl

theorem amoXor (d : BitVec 5) (a : BitVec 5) (b : BitVec 5) (c : BitVec 3) (z : BitVec 2) (r : BitVec 1) : Statement (.amoXor d a b c z r) :=
  of_word rfl fun wd hw => by
    have h26_6 : wd.extractLsb' 26 6 = 29#6 := by subst hw; simp (disch := decide) only [ext_hi]; rfl
    have h4_4 : wd.extractLsb' 4 4 = 3#4 := by subst hw; simp (disch := decide) only [ext_hi, ext_lo]; rfl
    have h0_1 : wd.extractLsb' 0 1 = 0#1 := by subst hw; simp (disch := decide) only [ext_lo]; rfl
    have h21_5 : wd.extractLsb' 21 5 = d := by subst hw; simp (disch := decide) only [ext_hi, ext_lo]; exact ext_self
    have h16_5 : wd.extractLsb' 16 5 = a := by subst hw; simp (disch := decide) only [ext_hi, ext_lo]; exact ext_self
    have h11_5 : wd.extractLsb' 11 5 = b := by subst hw; simp (disch := decide) only [ext_hi, ext_lo]; exact ext_self
    have h8_3 : wd.extractLsb' 8 3 = c := by subst hw; simp (disch := decide) only [ext_hi, ext_lo]; exact ext_self
    have h2_2 : wd.extractLsb' 2 2 = z := by subst hw; simp (disch := decide) only [ext_hi, ext_lo]; exact ext_self
    have h1_1 : wd.extractLsb' 1 1 = r := by subst hw; simp (disch := decide) only [ext_hi, ext_lo]; exact ext_self
    clear hw
    have e : decodeSlot .s wd = checkFields (rawAmo wd) := by show checkFields (rawS wd) = _; unfold rawS; rw [h26_6]; rfl
    rw [e]; unfold rawAmo; simp only [h4_4, h0_1, h21_5, h16_5, h11_5, h8_3, h2_2, h1_1]; rfl

theorem amoMin (d : BitVec 5) (a : BitVec 5) (b : BitVec 5) (c : BitVec 3) (z : BitVec 2) (r : BitVec 1) : Statement (.amoMin d a b c z r) :=
  of_word rfl fun wd hw => by
    have h26_6 : wd.extractLsb' 26 6 = 29#6 := by subst hw; simp (disch := decide) only [ext_hi]; rfl
    have h4_4 : wd.extractLsb' 4 4 = 4#4 := by subst hw; simp (disch := decide) only [ext_hi, ext_lo]; rfl
    have h0_1 : wd.extractLsb' 0 1 = 0#1 := by subst hw; simp (disch := decide) only [ext_lo]; rfl
    have h21_5 : wd.extractLsb' 21 5 = d := by subst hw; simp (disch := decide) only [ext_hi, ext_lo]; exact ext_self
    have h16_5 : wd.extractLsb' 16 5 = a := by subst hw; simp (disch := decide) only [ext_hi, ext_lo]; exact ext_self
    have h11_5 : wd.extractLsb' 11 5 = b := by subst hw; simp (disch := decide) only [ext_hi, ext_lo]; exact ext_self
    have h8_3 : wd.extractLsb' 8 3 = c := by subst hw; simp (disch := decide) only [ext_hi, ext_lo]; exact ext_self
    have h2_2 : wd.extractLsb' 2 2 = z := by subst hw; simp (disch := decide) only [ext_hi, ext_lo]; exact ext_self
    have h1_1 : wd.extractLsb' 1 1 = r := by subst hw; simp (disch := decide) only [ext_hi, ext_lo]; exact ext_self
    clear hw
    have e : decodeSlot .s wd = checkFields (rawAmo wd) := by show checkFields (rawS wd) = _; unfold rawS; rw [h26_6]; rfl
    rw [e]; unfold rawAmo; simp only [h4_4, h0_1, h21_5, h16_5, h11_5, h8_3, h2_2, h1_1]; rfl

theorem amoMax (d : BitVec 5) (a : BitVec 5) (b : BitVec 5) (c : BitVec 3) (z : BitVec 2) (r : BitVec 1) : Statement (.amoMax d a b c z r) :=
  of_word rfl fun wd hw => by
    have h26_6 : wd.extractLsb' 26 6 = 29#6 := by subst hw; simp (disch := decide) only [ext_hi]; rfl
    have h4_4 : wd.extractLsb' 4 4 = 5#4 := by subst hw; simp (disch := decide) only [ext_hi, ext_lo]; rfl
    have h0_1 : wd.extractLsb' 0 1 = 0#1 := by subst hw; simp (disch := decide) only [ext_lo]; rfl
    have h21_5 : wd.extractLsb' 21 5 = d := by subst hw; simp (disch := decide) only [ext_hi, ext_lo]; exact ext_self
    have h16_5 : wd.extractLsb' 16 5 = a := by subst hw; simp (disch := decide) only [ext_hi, ext_lo]; exact ext_self
    have h11_5 : wd.extractLsb' 11 5 = b := by subst hw; simp (disch := decide) only [ext_hi, ext_lo]; exact ext_self
    have h8_3 : wd.extractLsb' 8 3 = c := by subst hw; simp (disch := decide) only [ext_hi, ext_lo]; exact ext_self
    have h2_2 : wd.extractLsb' 2 2 = z := by subst hw; simp (disch := decide) only [ext_hi, ext_lo]; exact ext_self
    have h1_1 : wd.extractLsb' 1 1 = r := by subst hw; simp (disch := decide) only [ext_hi, ext_lo]; exact ext_self
    clear hw
    have e : decodeSlot .s wd = checkFields (rawAmo wd) := by show checkFields (rawS wd) = _; unfold rawS; rw [h26_6]; rfl
    rw [e]; unfold rawAmo; simp only [h4_4, h0_1, h21_5, h16_5, h11_5, h8_3, h2_2, h1_1]; rfl

theorem amoMinu (d : BitVec 5) (a : BitVec 5) (b : BitVec 5) (c : BitVec 3) (z : BitVec 2) (r : BitVec 1) : Statement (.amoMinu d a b c z r) :=
  of_word rfl fun wd hw => by
    have h26_6 : wd.extractLsb' 26 6 = 29#6 := by subst hw; simp (disch := decide) only [ext_hi]; rfl
    have h4_4 : wd.extractLsb' 4 4 = 6#4 := by subst hw; simp (disch := decide) only [ext_hi, ext_lo]; rfl
    have h0_1 : wd.extractLsb' 0 1 = 0#1 := by subst hw; simp (disch := decide) only [ext_lo]; rfl
    have h21_5 : wd.extractLsb' 21 5 = d := by subst hw; simp (disch := decide) only [ext_hi, ext_lo]; exact ext_self
    have h16_5 : wd.extractLsb' 16 5 = a := by subst hw; simp (disch := decide) only [ext_hi, ext_lo]; exact ext_self
    have h11_5 : wd.extractLsb' 11 5 = b := by subst hw; simp (disch := decide) only [ext_hi, ext_lo]; exact ext_self
    have h8_3 : wd.extractLsb' 8 3 = c := by subst hw; simp (disch := decide) only [ext_hi, ext_lo]; exact ext_self
    have h2_2 : wd.extractLsb' 2 2 = z := by subst hw; simp (disch := decide) only [ext_hi, ext_lo]; exact ext_self
    have h1_1 : wd.extractLsb' 1 1 = r := by subst hw; simp (disch := decide) only [ext_hi, ext_lo]; exact ext_self
    clear hw
    have e : decodeSlot .s wd = checkFields (rawAmo wd) := by show checkFields (rawS wd) = _; unfold rawS; rw [h26_6]; rfl
    rw [e]; unfold rawAmo; simp only [h4_4, h0_1, h21_5, h16_5, h11_5, h8_3, h2_2, h1_1]; rfl

theorem amoMaxu (d : BitVec 5) (a : BitVec 5) (b : BitVec 5) (c : BitVec 3) (z : BitVec 2) (r : BitVec 1) : Statement (.amoMaxu d a b c z r) :=
  of_word rfl fun wd hw => by
    have h26_6 : wd.extractLsb' 26 6 = 29#6 := by subst hw; simp (disch := decide) only [ext_hi]; rfl
    have h4_4 : wd.extractLsb' 4 4 = 7#4 := by subst hw; simp (disch := decide) only [ext_hi, ext_lo]; rfl
    have h0_1 : wd.extractLsb' 0 1 = 0#1 := by subst hw; simp (disch := decide) only [ext_lo]; rfl
    have h21_5 : wd.extractLsb' 21 5 = d := by subst hw; simp (disch := decide) only [ext_hi, ext_lo]; exact ext_self
    have h16_5 : wd.extractLsb' 16 5 = a := by subst hw; simp (disch := decide) only [ext_hi, ext_lo]; exact ext_self
    have h11_5 : wd.extractLsb' 11 5 = b := by subst hw; simp (disch := decide) only [ext_hi, ext_lo]; exact ext_self
    have h8_3 : wd.extractLsb' 8 3 = c := by subst hw; simp (disch := decide) only [ext_hi, ext_lo]; exact ext_self
    have h2_2 : wd.extractLsb' 2 2 = z := by subst hw; simp (disch := decide) only [ext_hi, ext_lo]; exact ext_self
    have h1_1 : wd.extractLsb' 1 1 = r := by subst hw; simp (disch := decide) only [ext_hi, ext_lo]; exact ext_self
    clear hw
    have e : decodeSlot .s wd = checkFields (rawAmo wd) := by show checkFields (rawS wd) = _; unfold rawS; rw [h26_6]; rfl
    rw [e]; unfold rawAmo; simp only [h4_4, h0_1, h21_5, h16_5, h11_5, h8_3, h2_2, h1_1]; rfl

theorem amoSwap (d : BitVec 5) (a : BitVec 5) (b : BitVec 5) (c : BitVec 3) (z : BitVec 2) (r : BitVec 1) : Statement (.amoSwap d a b c z r) :=
  of_word rfl fun wd hw => by
    have h26_6 : wd.extractLsb' 26 6 = 29#6 := by subst hw; simp (disch := decide) only [ext_hi]; rfl
    have h4_4 : wd.extractLsb' 4 4 = 8#4 := by subst hw; simp (disch := decide) only [ext_hi, ext_lo]; rfl
    have h0_1 : wd.extractLsb' 0 1 = 0#1 := by subst hw; simp (disch := decide) only [ext_lo]; rfl
    have h21_5 : wd.extractLsb' 21 5 = d := by subst hw; simp (disch := decide) only [ext_hi, ext_lo]; exact ext_self
    have h16_5 : wd.extractLsb' 16 5 = a := by subst hw; simp (disch := decide) only [ext_hi, ext_lo]; exact ext_self
    have h11_5 : wd.extractLsb' 11 5 = b := by subst hw; simp (disch := decide) only [ext_hi, ext_lo]; exact ext_self
    have h8_3 : wd.extractLsb' 8 3 = c := by subst hw; simp (disch := decide) only [ext_hi, ext_lo]; exact ext_self
    have h2_2 : wd.extractLsb' 2 2 = z := by subst hw; simp (disch := decide) only [ext_hi, ext_lo]; exact ext_self
    have h1_1 : wd.extractLsb' 1 1 = r := by subst hw; simp (disch := decide) only [ext_hi, ext_lo]; exact ext_self
    clear hw
    have e : decodeSlot .s wd = checkFields (rawAmo wd) := by show checkFields (rawS wd) = _; unfold rawS; rw [h26_6]; rfl
    rw [e]; unfold rawAmo; simp only [h4_4, h0_1, h21_5, h16_5, h11_5, h8_3, h2_2, h1_1]; rfl

theorem amoCas (d : BitVec 5) (a : BitVec 5) (b : BitVec 5) (c : BitVec 3) (z : BitVec 2) : Statement (.amoCas d a b c z) :=
  of_word rfl fun wd hw => by
    have h26_6 : wd.extractLsb' 26 6 = 29#6 := by subst hw; simp (disch := decide) only [ext_hi]; rfl
    have h4_4 : wd.extractLsb' 4 4 = 9#4 := by subst hw; simp (disch := decide) only [ext_hi, ext_lo]; rfl
    have h0_1 : wd.extractLsb' 0 1 = 0#1 := by subst hw; simp (disch := decide) only [ext_lo]; rfl
    have h0_2 : wd.extractLsb' 0 2 = 2#2 := by subst hw; simp (disch := decide) only [ext_lo]; rfl
    have h21_5 : wd.extractLsb' 21 5 = d := by subst hw; simp (disch := decide) only [ext_hi, ext_lo]; exact ext_self
    have h16_5 : wd.extractLsb' 16 5 = a := by subst hw; simp (disch := decide) only [ext_hi, ext_lo]; exact ext_self
    have h11_5 : wd.extractLsb' 11 5 = b := by subst hw; simp (disch := decide) only [ext_hi, ext_lo]; exact ext_self
    have h8_3 : wd.extractLsb' 8 3 = c := by subst hw; simp (disch := decide) only [ext_hi, ext_lo]; exact ext_self
    have h2_2 : wd.extractLsb' 2 2 = z := by subst hw; simp (disch := decide) only [ext_hi, ext_lo]; exact ext_self
    clear hw
    have e : decodeSlot .s wd = checkFields (rawAmo wd) := by show checkFields (rawS wd) = _; unfold rawS; rw [h26_6]; rfl
    rw [e]; unfold rawAmo; simp only [h4_4, h0_1, h0_2, h21_5, h16_5, h11_5, h8_3, h2_2]; rfl

theorem amoIncw (d : BitVec 5) (a : BitVec 5) (b : BitVec 5) (c : BitVec 3) (z : BitVec 2) (r : BitVec 1) : Statement (.amoIncw d a b c z r) :=
  of_word rfl fun wd hw => by
    have h26_6 : wd.extractLsb' 26 6 = 29#6 := by subst hw; simp (disch := decide) only [ext_hi]; rfl
    have h4_4 : wd.extractLsb' 4 4 = 10#4 := by subst hw; simp (disch := decide) only [ext_hi, ext_lo]; rfl
    have h0_1 : wd.extractLsb' 0 1 = 0#1 := by subst hw; simp (disch := decide) only [ext_lo]; rfl
    have q4_4_9 : (10#4 == 9) = false := rfl
    have h21_5 : wd.extractLsb' 21 5 = d := by subst hw; simp (disch := decide) only [ext_hi, ext_lo]; exact ext_self
    have h16_5 : wd.extractLsb' 16 5 = a := by subst hw; simp (disch := decide) only [ext_hi, ext_lo]; exact ext_self
    have h11_5 : wd.extractLsb' 11 5 = b := by subst hw; simp (disch := decide) only [ext_hi, ext_lo]; exact ext_self
    have h8_3 : wd.extractLsb' 8 3 = c := by subst hw; simp (disch := decide) only [ext_hi, ext_lo]; exact ext_self
    have h2_2 : wd.extractLsb' 2 2 = z := by subst hw; simp (disch := decide) only [ext_hi, ext_lo]; exact ext_self
    have h1_1 : wd.extractLsb' 1 1 = r := by subst hw; simp (disch := decide) only [ext_hi, ext_lo]; exact ext_self
    clear hw
    have e : decodeSlot .s wd = checkFields (rawAmo wd) := by show checkFields (rawS wd) = _; unfold rawS; rw [h26_6]; rfl
    rw [e]; unfold rawAmo; simp only [h4_4, h0_1, h21_5, h16_5, h11_5, h8_3, h2_2, h1_1, q4_4_9, Bool.false_and]; rfl

theorem amoFaddb (d : BitVec 5) (a : BitVec 5) (b : BitVec 5) (c : BitVec 3) (z : BitVec 2) : Statement (.amoFaddb d a b c z) :=
  of_word rfl fun wd hw => by
    have h26_6 : wd.extractLsb' 26 6 = 29#6 := by subst hw; simp (disch := decide) only [ext_hi]; rfl
    have h4_4 : wd.extractLsb' 4 4 = 11#4 := by subst hw; simp (disch := decide) only [ext_hi, ext_lo]; rfl
    have h0_1 : wd.extractLsb' 0 1 = 0#1 := by subst hw; simp (disch := decide) only [ext_lo]; rfl
    have h0_2 : wd.extractLsb' 0 2 = 2#2 := by subst hw; simp (disch := decide) only [ext_lo]; rfl
    have h21_5 : wd.extractLsb' 21 5 = d := by subst hw; simp (disch := decide) only [ext_hi, ext_lo]; exact ext_self
    have h16_5 : wd.extractLsb' 16 5 = a := by subst hw; simp (disch := decide) only [ext_hi, ext_lo]; exact ext_self
    have h11_5 : wd.extractLsb' 11 5 = b := by subst hw; simp (disch := decide) only [ext_hi, ext_lo]; exact ext_self
    have h8_3 : wd.extractLsb' 8 3 = c := by subst hw; simp (disch := decide) only [ext_hi, ext_lo]; exact ext_self
    have h2_2 : wd.extractLsb' 2 2 = z := by subst hw; simp (disch := decide) only [ext_hi, ext_lo]; exact ext_self
    clear hw
    have e : decodeSlot .s wd = checkFields (rawAmo wd) := by show checkFields (rawS wd) = _; unfold rawS; rw [h26_6]; rfl
    rw [e]; unfold rawAmo; simp only [h4_4, h0_1, h0_2, h21_5, h16_5, h11_5, h8_3, h2_2]; rfl

theorem amoFaddF32 (d : BitVec 5) (a : BitVec 5) (b : BitVec 5) (c : BitVec 3) (r : BitVec 1) : Statement (.amoFaddF32 d a b c r) :=
  of_word rfl fun wd hw => by
    have h26_6 : wd.extractLsb' 26 6 = 29#6 := by subst hw; simp (disch := decide) only [ext_hi]; rfl
    have h4_4 : wd.extractLsb' 4 4 = 12#4 := by subst hw; simp (disch := decide) only [ext_hi, ext_lo]; rfl
    have h0_1 : wd.extractLsb' 0 1 = 0#1 := by subst hw; simp (disch := decide) only [ext_lo]; rfl
    have q4_4_9 : (12#4 == 9) = false := rfl
    have q4_4_11 : (12#4 == 11) = false := rfl
    have h2_6 : wd.extractLsb' 2 6 = 50#6 := by subst hw; simp (disch := decide) only [ext_hi, ext_lo]; rfl
    have h21_5 : wd.extractLsb' 21 5 = d := by subst hw; simp (disch := decide) only [ext_hi, ext_lo]; exact ext_self
    have h16_5 : wd.extractLsb' 16 5 = a := by subst hw; simp (disch := decide) only [ext_hi, ext_lo]; exact ext_self
    have h11_5 : wd.extractLsb' 11 5 = b := by subst hw; simp (disch := decide) only [ext_hi, ext_lo]; exact ext_self
    have h8_3 : wd.extractLsb' 8 3 = c := by subst hw; simp (disch := decide) only [ext_hi, ext_lo]; exact ext_self
    have h1_1 : wd.extractLsb' 1 1 = r := by subst hw; simp (disch := decide) only [ext_hi, ext_lo]; exact ext_self
    clear hw
    have e : decodeSlot .s wd = checkFields (rawAmo wd) := by show checkFields (rawS wd) = _; unfold rawS; rw [h26_6]; rfl
    rw [e]; unfold rawAmo; simp only [h4_4, h0_1, h2_6, h21_5, h16_5, h11_5, h8_3, h1_1, q4_4_9, Bool.false_and, q4_4_11]; rfl

theorem amoFaddBf16 (d : BitVec 5) (a : BitVec 5) (b : BitVec 5) (c : BitVec 3) (r : BitVec 1) (s : BitVec 1) : Statement (.amoFaddBf16 d a b c r s) :=
  of_word rfl fun wd hw => by
    have h26_6 : wd.extractLsb' 26 6 = 29#6 := by subst hw; simp (disch := decide) only [ext_hi]; rfl
    have h4_4 : wd.extractLsb' 4 4 = 13#4 := by subst hw; simp (disch := decide) only [ext_hi, ext_lo]; rfl
    have q4_4_0 : (13#4 == 0) = false := rfl
    have q4_4_1 : (13#4 == 1) = false := rfl
    have q4_4_2 : (13#4 == 2) = false := rfl
    have q4_4_3 : (13#4 == 3) = false := rfl
    have q4_4_4 : (13#4 == 4) = false := rfl
    have q4_4_5 : (13#4 == 5) = false := rfl
    have q4_4_6 : (13#4 == 6) = false := rfl
    have q4_4_7 : (13#4 == 7) = false := rfl
    have q4_4_8 : (13#4 == 8) = false := rfl
    have q4_4_9 : (13#4 == 9) = false := rfl
    have q4_4_10 : (13#4 == 10) = false := rfl
    have q4_4_11 : (13#4 == 11) = false := rfl
    have h2_6 : wd.extractLsb' 2 6 = 53#6 := by subst hw; simp (disch := decide) only [ext_hi, ext_lo]; rfl
    have q2_6_50 : (53#6 == 50) = false := rfl
    have h21_5 : wd.extractLsb' 21 5 = d := by subst hw; simp (disch := decide) only [ext_hi, ext_lo]; exact ext_self
    have h16_5 : wd.extractLsb' 16 5 = a := by subst hw; simp (disch := decide) only [ext_hi, ext_lo]; exact ext_self
    have h11_5 : wd.extractLsb' 11 5 = b := by subst hw; simp (disch := decide) only [ext_hi, ext_lo]; exact ext_self
    have h8_3 : wd.extractLsb' 8 3 = c := by subst hw; simp (disch := decide) only [ext_hi, ext_lo]; exact ext_self
    have h1_1 : wd.extractLsb' 1 1 = r := by subst hw; simp (disch := decide) only [ext_hi, ext_lo]; exact ext_self
    have h0_1 : wd.extractLsb' 0 1 = s := by subst hw; simp (disch := decide) only [ext_lo]; exact ext_self
    clear hw
    have e : decodeSlot .s wd = checkFields (rawAmo wd) := by show checkFields (rawS wd) = _; unfold rawS; rw [h26_6]; rfl
    rw [e]; unfold rawAmo; simp only [h4_4, h2_6, h21_5, h16_5, h11_5, h8_3, h1_1, h0_1, q4_4_0, Bool.false_and, q4_4_1, q4_4_2, q4_4_3, q4_4_4, q4_4_5, q4_4_6, q4_4_7, q4_4_8, q4_4_9, q4_4_10, q4_4_11, q2_6_50]; rfl

theorem spclr (a : BitVec 5) (b : BitVec 5) : Statement (.spclr a b) :=
  of_word rfl fun wd hw => by
    have h26_6 : wd.extractLsb' 26 6 = 30#6 := by subst hw; simp (disch := decide) only [ext_hi]; rfl
    have h21_5 : wd.extractLsb' 21 5 = 0#5 := by subst hw; simp (disch := decide) only [ext_hi]; rfl
    have h0_11 : wd.extractLsb' 0 11 = 0#11 := by subst hw; simp (disch := decide) only [ext_lo]; rfl
    have h16_5 : wd.extractLsb' 16 5 = a := by subst hw; simp (disch := decide) only [ext_hi, ext_lo]; exact ext_self
    have h11_5 : wd.extractLsb' 11 5 = b := by subst hw; simp (disch := decide) only [ext_hi, ext_lo]; exact ext_self
    clear hw
    show checkFields (rawS wd) = _
    unfold rawS; rw [h26_6]
    show checkFields (if wd.extractLsb' 21 5 == 0 && wd.extractLsb' 0 11 == 0 then .ok (.spclr (wd.extractLsb' 16 5) (wd.extractLsb' 11 5)) else .error .bits) = _
    simp only [h21_5, h0_11, h16_5, h11_5]; rfl

theorem ctlrd (d : BitVec 5) (n : BitVec 12) : Statement (.ctlrd d n) :=
  of_word rfl fun wd hw => by
    have h26_6 : wd.extractLsb' 26 6 = 32#6 := by subst hw; simp (disch := decide) only [ext_hi]; rfl
    have h12_9 : wd.extractLsb' 12 9 = 0#9 := by subst hw; simp (disch := decide) only [ext_hi, ext_lo]; rfl
    have h21_5 : wd.extractLsb' 21 5 = d := by subst hw; simp (disch := decide) only [ext_hi, ext_lo]; exact ext_self
    have h0_12 : wd.extractLsb' 0 12 = n := by subst hw; simp (disch := decide) only [ext_lo]; exact ext_self
    clear hw
    show checkFields (rawS wd) = _
    unfold rawS; rw [h26_6]
    show checkFields (if wd.extractLsb' 12 9 == 0 then .ok (.ctlrd (wd.extractLsb' 21 5) (wd.extractLsb' 0 12)) else .error .bits) = _
    simp only [h12_9, h21_5, h0_12]; rfl

theorem ctlwr (a : BitVec 5) (n : BitVec 12) : Statement (.ctlwr a n) :=
  of_word rfl fun wd hw => by
    have h26_6 : wd.extractLsb' 26 6 = 33#6 := by subst hw; simp (disch := decide) only [ext_hi]; rfl
    have h21_5 : wd.extractLsb' 21 5 = 0#5 := by subst hw; simp (disch := decide) only [ext_hi]; rfl
    have h12_4 : wd.extractLsb' 12 4 = 0#4 := by subst hw; simp (disch := decide) only [ext_hi, ext_lo]; rfl
    have h16_5 : wd.extractLsb' 16 5 = a := by subst hw; simp (disch := decide) only [ext_hi, ext_lo]; exact ext_self
    have h0_12 : wd.extractLsb' 0 12 = n := by subst hw; simp (disch := decide) only [ext_lo]; exact ext_self
    clear hw
    show checkFields (rawS wd) = _
    unfold rawS; rw [h26_6]
    show checkFields (if wd.extractLsb' 21 5 == 0 && wd.extractLsb' 12 4 == 0 then .ok (.ctlwr (wd.extractLsb' 16 5) (wd.extractLsb' 0 12)) else .error .bits) = _
    simp only [h21_5, h12_4, h16_5, h0_12]; rfl

theorem schrd (d : BitVec 5) (n : BitVec 5) : Statement (.schrd d n) :=
  of_word rfl fun wd hw => by
    have h26_6 : wd.extractLsb' 26 6 = 34#6 := by subst hw; simp (disch := decide) only [ext_hi]; rfl
    have h5_16 : wd.extractLsb' 5 16 = 0#16 := by subst hw; simp (disch := decide) only [ext_hi, ext_lo]; rfl
    have h21_5 : wd.extractLsb' 21 5 = d := by subst hw; simp (disch := decide) only [ext_hi, ext_lo]; exact ext_self
    have h0_5 : wd.extractLsb' 0 5 = n := by subst hw; simp (disch := decide) only [ext_lo]; exact ext_self
    clear hw
    show checkFields (rawS wd) = _
    unfold rawS; rw [h26_6]
    show checkFields (if wd.extractLsb' 5 16 == 0 then .ok (.schrd (wd.extractLsb' 21 5) (wd.extractLsb' 0 5)) else .error .bits) = _
    simp only [h5_16, h21_5, h0_5]; rfl

theorem schwr (a : BitVec 5) (n : BitVec 5) : Statement (.schwr a n) :=
  of_word rfl fun wd hw => by
    have h26_6 : wd.extractLsb' 26 6 = 35#6 := by subst hw; simp (disch := decide) only [ext_hi]; rfl
    have h21_5 : wd.extractLsb' 21 5 = 0#5 := by subst hw; simp (disch := decide) only [ext_hi]; rfl
    have h5_11 : wd.extractLsb' 5 11 = 0#11 := by subst hw; simp (disch := decide) only [ext_hi, ext_lo]; rfl
    have h16_5 : wd.extractLsb' 16 5 = a := by subst hw; simp (disch := decide) only [ext_hi, ext_lo]; exact ext_self
    have h0_5 : wd.extractLsb' 0 5 = n := by subst hw; simp (disch := decide) only [ext_lo]; exact ext_self
    clear hw
    show checkFields (rawS wd) = _
    unfold rawS; rw [h26_6]
    show checkFields (if wd.extractLsb' 21 5 == 0 && wd.extractLsb' 5 11 == 0 then .ok (.schwr (wd.extractLsb' 16 5) (wd.extractLsb' 0 5)) else .error .bits) = _
    simp only [h21_5, h5_11, h16_5, h0_5]; rfl

theorem schcommit (d : BitVec 5) : Statement (.schcommit d) :=
  of_word rfl fun wd hw => by
    have h26_6 : wd.extractLsb' 26 6 = 36#6 := by subst hw; simp (disch := decide) only [ext_hi]; rfl
    have h0_21 : wd.extractLsb' 0 21 = 0#21 := by subst hw; simp (disch := decide) only [ext_lo]; rfl
    have h21_5 : wd.extractLsb' 21 5 = d := by subst hw; simp (disch := decide) only [ext_hi, ext_lo]; exact ext_self
    clear hw
    show checkFields (rawS wd) = _
    unfold rawS; rw [h26_6]
    show checkFields (if wd.extractLsb' 0 21 == 0 then .ok (.schcommit (wd.extractLsb' 21 5)) else .error .bits) = _
    simp only [h0_21, h21_5]; rfl

theorem msel (d : BitVec 5) (a : BitVec 5) (b : BitVec 5) : Statement (.msel d a b) :=
  of_word rfl fun wd hw => by
    have h26_6 : wd.extractLsb' 26 6 = 37#6 := by subst hw; simp (disch := decide) only [ext_hi]; rfl
    have h0_11 : wd.extractLsb' 0 11 = 0#11 := by subst hw; simp (disch := decide) only [ext_lo]; rfl
    have h21_5 : wd.extractLsb' 21 5 = d := by subst hw; simp (disch := decide) only [ext_hi, ext_lo]; exact ext_self
    have h16_5 : wd.extractLsb' 16 5 = a := by subst hw; simp (disch := decide) only [ext_hi, ext_lo]; exact ext_self
    have h11_5 : wd.extractLsb' 11 5 = b := by subst hw; simp (disch := decide) only [ext_hi, ext_lo]; exact ext_self
    clear hw
    show checkFields (rawS wd) = _
    unfold rawS; rw [h26_6]
    show checkFields (if wd.extractLsb' 0 11 == 0 then .ok (.msel (wd.extractLsb' 21 5) (wd.extractLsb' 16 5) (wd.extractLsb' 11 5)) else .error .bits) = _
    simp only [h0_11, h21_5, h16_5, h11_5]; rfl

theorem efrd (d : BitVec 5) (g : BitVec 16) : Statement (.efrd d g) :=
  of_word rfl fun wd hw => by
    have h26_6 : wd.extractLsb' 26 6 = 38#6 := by subst hw; simp (disch := decide) only [ext_hi]; rfl
    have h16_5 : wd.extractLsb' 16 5 = 0#5 := by subst hw; simp (disch := decide) only [ext_hi, ext_lo]; rfl
    have h21_5 : wd.extractLsb' 21 5 = d := by subst hw; simp (disch := decide) only [ext_hi, ext_lo]; exact ext_self
    have h0_16 : wd.extractLsb' 0 16 = g := by subst hw; simp (disch := decide) only [ext_lo]; exact ext_self
    clear hw
    show checkFields (rawS wd) = _
    unfold rawS; rw [h26_6]
    show checkFields (if wd.extractLsb' 16 5 == 0 then .ok (.efrd (wd.extractLsb' 21 5) (wd.extractLsb' 0 16)) else .error .bits) = _
    simp only [h16_5, h21_5, h0_16]; rfl

theorem awin (a : BitVec 5) (o : BitVec 2) (fw : BitVec 5) (h : BitVec 5) : Statement (.awin a o fw h) :=
  of_word rfl fun wd hw => by
    have h26_6 : wd.extractLsb' 26 6 = 39#6 := by subst hw; simp (disch := decide) only [ext_hi]; rfl
    have h21_5 : wd.extractLsb' 21 5 = 0#5 := by subst hw; simp (disch := decide) only [ext_hi]; rfl
    have h12_4 : wd.extractLsb' 12 4 = 0#4 := by subst hw; simp (disch := decide) only [ext_hi, ext_lo]; rfl
    have h16_5 : wd.extractLsb' 16 5 = a := by subst hw; simp (disch := decide) only [ext_hi, ext_lo]; exact ext_self
    have h10_2 : wd.extractLsb' 10 2 = o := by subst hw; simp (disch := decide) only [ext_hi, ext_lo]; exact ext_self
    have h5_5 : wd.extractLsb' 5 5 = fw := by subst hw; simp (disch := decide) only [ext_hi, ext_lo]; exact ext_self
    have h0_5 : wd.extractLsb' 0 5 = h := by subst hw; simp (disch := decide) only [ext_lo]; exact ext_self
    clear hw
    show checkFields (rawS wd) = _
    unfold rawS; rw [h26_6]
    show checkFields (if wd.extractLsb' 21 5 == 0 && wd.extractLsb' 12 4 == 0 then .ok (.awin (wd.extractLsb' 16 5) (wd.extractLsb' 10 2) (wd.extractLsb' 5 5) (wd.extractLsb' 0 5)) else .error .bits) = _
    simp only [h21_5, h12_4, h16_5, h10_2, h5_5, h0_5]; rfl

theorem trap (c : BitVec 16) : Statement (.trap c) :=
  of_word rfl fun wd hw => by
    have h26_6 : wd.extractLsb' 26 6 = 40#6 := by subst hw; simp (disch := decide) only [ext_hi]; rfl
    have h16_10 : wd.extractLsb' 16 10 = 0#10 := by subst hw; simp (disch := decide) only [ext_hi]; rfl
    have h0_16 : wd.extractLsb' 0 16 = c := by subst hw; simp (disch := decide) only [ext_lo]; exact ext_self
    clear hw
    show checkFields (rawS wd) = _
    unfold rawS; rw [h26_6]
    show checkFields (if wd.extractLsb' 16 10 == 0 then .ok (.trap (wd.extractLsb' 0 16)) else .error .bits) = _
    simp only [h16_10, h0_16]; rfl

theorem rett : Statement (.rett) :=
  of_word rfl fun wd hw => by
    have h26_6 : wd.extractLsb' 26 6 = 41#6 := by subst hw; rfl
    have h0_26 : wd.extractLsb' 0 26 = 0#26 := by subst hw; rfl
    clear hw
    show checkFields (rawS wd) = _
    unfold rawS; rw [h26_6]
    show checkFields (if wd.extractLsb' 0 26 == 0 then .ok (.rett) else .error .bits) = _
    simp only [h0_26]; rfl

theorem retire : Statement (.retire) :=
  of_word rfl fun wd hw => by
    have h26_6 : wd.extractLsb' 26 6 = 42#6 := by subst hw; rfl
    have h0_26 : wd.extractLsb' 0 26 = 0#26 := by subst hw; rfl
    clear hw
    show checkFields (rawS wd) = _
    unfold rawS; rw [h26_6]
    show checkFields (if wd.extractLsb' 0 26 == 0 then .ok (.retire) else .error .bits) = _
    simp only [h0_26]; rfl

theorem spawn (d : BitVec 5) (a : BitVec 5) : Statement (.spawn d a) :=
  of_word rfl fun wd hw => by
    have h26_6 : wd.extractLsb' 26 6 = 43#6 := by subst hw; simp (disch := decide) only [ext_hi]; rfl
    have h0_16 : wd.extractLsb' 0 16 = 0#16 := by subst hw; simp (disch := decide) only [ext_lo]; rfl
    have h21_5 : wd.extractLsb' 21 5 = d := by subst hw; simp (disch := decide) only [ext_hi, ext_lo]; exact ext_self
    have h16_5 : wd.extractLsb' 16 5 = a := by subst hw; simp (disch := decide) only [ext_hi, ext_lo]; exact ext_self
    clear hw
    show checkFields (rawS wd) = _
    unfold rawS; rw [h26_6]
    show checkFields (if wd.extractLsb' 0 16 == 0 then .ok (.spawn (wd.extractLsb' 21 5) (wd.extractLsb' 16 5)) else .error .bits) = _
    simp only [h0_16, h21_5, h16_5]; rfl

theorem joinw (d : BitVec 4) (a : BitVec 5) : Statement (.joinw d a) :=
  of_word rfl fun wd hw => by
    have h26_6 : wd.extractLsb' 26 6 = 44#6 := by subst hw; simp (disch := decide) only [ext_hi]; rfl
    have h21_1 : wd.extractLsb' 21 1 = 0#1 := by subst hw; simp (disch := decide) only [ext_hi, ext_lo]; rfl
    have h0_16 : wd.extractLsb' 0 16 = 0#16 := by subst hw; simp (disch := decide) only [ext_lo]; rfl
    have h22_4 : wd.extractLsb' 22 4 = d := by subst hw; simp (disch := decide) only [ext_hi, ext_lo]; exact ext_self
    have h16_5 : wd.extractLsb' 16 5 = a := by subst hw; simp (disch := decide) only [ext_hi, ext_lo]; exact ext_self
    clear hw
    show checkFields (rawS wd) = _
    unfold rawS; rw [h26_6]
    show checkFields (if wd.extractLsb' 21 1 == 0 && wd.extractLsb' 0 16 == 0 then .ok (.joinw (wd.extractLsb' 22 4) (wd.extractLsb' 16 5)) else .error .bits) = _
    simp only [h21_1, h0_16, h22_4, h16_5]; rfl

theorem tilenext (d : BitVec 4) : Statement (.tilenext d) :=
  of_word rfl fun wd hw => by
    have h26_6 : wd.extractLsb' 26 6 = 45#6 := by subst hw; simp (disch := decide) only [ext_hi]; rfl
    have h0_22 : wd.extractLsb' 0 22 = 0#22 := by subst hw; simp (disch := decide) only [ext_lo]; rfl
    have h22_4 : wd.extractLsb' 22 4 = d := by subst hw; simp (disch := decide) only [ext_hi, ext_lo]; exact ext_self
    clear hw
    show checkFields (rawS wd) = _
    unfold rawS; rw [h26_6]
    show checkFields (if wd.extractLsb' 0 22 == 0 then .ok (.tilenext (wd.extractLsb' 22 4)) else .error .bits) = _
    simp only [h0_22, h22_4]; rfl

theorem cvmark (a : BitVec 5) : Statement (.cvmark a) :=
  of_word rfl fun wd hw => by
    have h26_6 : wd.extractLsb' 26 6 = 46#6 := by subst hw; simp (disch := decide) only [ext_hi]; rfl
    have h21_5 : wd.extractLsb' 21 5 = 0#5 := by subst hw; simp (disch := decide) only [ext_hi]; rfl
    have h0_16 : wd.extractLsb' 0 16 = 0#16 := by subst hw; simp (disch := decide) only [ext_lo]; rfl
    have h16_5 : wd.extractLsb' 16 5 = a := by subst hw; simp (disch := decide) only [ext_hi, ext_lo]; exact ext_self
    clear hw
    show checkFields (rawS wd) = _
    unfold rawS; rw [h26_6]
    show checkFields (if wd.extractLsb' 21 5 == 0 && wd.extractLsb' 0 16 == 0 then .ok (.cvmark (wd.extractLsb' 16 5)) else .error .bits) = _
    simp only [h21_5, h0_16, h16_5]; rfl

theorem rjreg (d : BitVec 5) (a : BitVec 5) : Statement (.rjreg d a) :=
  of_word rfl fun wd hw => by
    have h26_6 : wd.extractLsb' 26 6 = 48#6 := by subst hw; simp (disch := decide) only [ext_hi]; rfl
    have h0_16 : wd.extractLsb' 0 16 = 0#16 := by subst hw; simp (disch := decide) only [ext_lo]; rfl
    have h21_5 : wd.extractLsb' 21 5 = d := by subst hw; simp (disch := decide) only [ext_hi, ext_lo]; exact ext_self
    have h16_5 : wd.extractLsb' 16 5 = a := by subst hw; simp (disch := decide) only [ext_hi, ext_lo]; exact ext_self
    clear hw
    show checkFields (rawS wd) = _
    unfold rawS; rw [h26_6]
    show checkFields (if wd.extractLsb' 0 16 == 0 then .ok (.rjreg (wd.extractLsb' 21 5) (wd.extractLsb' 16 5)) else .error .bits) = _
    simp only [h0_16, h21_5, h16_5]; rfl

theorem rjpost (a : BitVec 5) : Statement (.rjpost a) :=
  of_word rfl fun wd hw => by
    have h26_6 : wd.extractLsb' 26 6 = 49#6 := by subst hw; simp (disch := decide) only [ext_hi]; rfl
    have h21_5 : wd.extractLsb' 21 5 = 0#5 := by subst hw; simp (disch := decide) only [ext_hi]; rfl
    have h0_16 : wd.extractLsb' 0 16 = 0#16 := by subst hw; simp (disch := decide) only [ext_lo]; rfl
    have h16_5 : wd.extractLsb' 16 5 = a := by subst hw; simp (disch := decide) only [ext_hi, ext_lo]; exact ext_self
    clear hw
    show checkFields (rawS wd) = _
    unfold rawS; rw [h26_6]
    show checkFields (if wd.extractLsb' 21 5 == 0 && wd.extractLsb' 0 16 == 0 then .ok (.rjpost (wd.extractLsb' 16 5)) else .error .bits) = _
    simp only [h21_5, h0_16, h16_5]; rfl

theorem rjpop (d : BitVec 5) (a : BitVec 5) : Statement (.rjpop d a) :=
  of_word rfl fun wd hw => by
    have h26_6 : wd.extractLsb' 26 6 = 50#6 := by subst hw; simp (disch := decide) only [ext_hi]; rfl
    have h0_16 : wd.extractLsb' 0 16 = 0#16 := by subst hw; simp (disch := decide) only [ext_lo]; rfl
    have h21_5 : wd.extractLsb' 21 5 = d := by subst hw; simp (disch := decide) only [ext_hi, ext_lo]; exact ext_self
    have h16_5 : wd.extractLsb' 16 5 = a := by subst hw; simp (disch := decide) only [ext_hi, ext_lo]; exact ext_self
    clear hw
    show checkFields (rawS wd) = _
    unfold rawS; rw [h26_6]
    show checkFields (if wd.extractLsb' 0 16 == 0 then .ok (.rjpop (wd.extractLsb' 21 5) (wd.extractLsb' 16 5)) else .error .bits) = _
    simp only [h0_16, h21_5, h16_5]; rfl

theorem rjctl (a : BitVec 5) (f : BitVec 4) (q : BitVec 4) : Statement (.rjctl a f q) :=
  of_word rfl fun wd hw => by
    have h26_6 : wd.extractLsb' 26 6 = 51#6 := by subst hw; simp (disch := decide) only [ext_hi]; rfl
    have h21_5 : wd.extractLsb' 21 5 = 0#5 := by subst hw; simp (disch := decide) only [ext_hi]; rfl
    have h8_8 : wd.extractLsb' 8 8 = 0#8 := by subst hw; simp (disch := decide) only [ext_hi, ext_lo]; rfl
    have h16_5 : wd.extractLsb' 16 5 = a := by subst hw; simp (disch := decide) only [ext_hi, ext_lo]; exact ext_self
    have h4_4 : wd.extractLsb' 4 4 = f := by subst hw; simp (disch := decide) only [ext_hi, ext_lo]; exact ext_self
    have h0_4 : wd.extractLsb' 0 4 = q := by subst hw; simp (disch := decide) only [ext_lo]; exact ext_self
    clear hw
    show checkFields (rawS wd) = _
    unfold rawS; rw [h26_6]
    show checkFields (if wd.extractLsb' 21 5 == 0 && wd.extractLsb' 8 8 == 0 then .ok (.rjctl (wd.extractLsb' 16 5) (wd.extractLsb' 4 4) (wd.extractLsb' 0 4)) else .error .bits) = _
    simp only [h21_5, h8_8, h16_5, h4_4, h0_4]; rfl

theorem cnop : Statement (.cnop) :=
  of_word rfl fun wd hw => by
    have h25_7 : wd.extractLsb' 25 7 = 0#7 := by subst hw; rfl
    have h0_25 : wd.extractLsb' 0 25 = 0#25 := by subst hw; rfl
    clear hw
    show checkFields (rawW wd) = _
    unfold rawW; rw [h25_7]
    show checkFields (if wd.extractLsb' 0 25 == 0 then .ok (.cnop) else .error .bits) = _
    simp only [h0_25]; rfl

theorem fadd (m : BitVec 4) (d : BitVec 5) (a : BitVec 5) (b : BitVec 5) (n : BitVec 1) (t : BitVec 4) (p : BitVec 1) : Statement (.fadd m d a b n t p) :=
  of_word rfl fun wd hw => by
    have h25_7 : wd.extractLsb' 25 7 = 1#7 := by subst hw; simp (disch := decide) only [ext_hi]; rfl
    have h21_4 : wd.extractLsb' 21 4 = m := by subst hw; simp (disch := decide) only [ext_hi, ext_lo]; exact ext_self
    have h16_5 : wd.extractLsb' 16 5 = d := by subst hw; simp (disch := decide) only [ext_hi, ext_lo]; exact ext_self
    have h11_5 : wd.extractLsb' 11 5 = a := by subst hw; simp (disch := decide) only [ext_hi, ext_lo]; exact ext_self
    have h6_5 : wd.extractLsb' 6 5 = b := by subst hw; simp (disch := decide) only [ext_hi, ext_lo]; exact ext_self
    have h5_1 : wd.extractLsb' 5 1 = n := by subst hw; simp (disch := decide) only [ext_hi, ext_lo]; exact ext_self
    have h1_4 : wd.extractLsb' 1 4 = t := by subst hw; simp (disch := decide) only [ext_hi, ext_lo]; exact ext_self
    have h0_1 : wd.extractLsb' 0 1 = p := by subst hw; simp (disch := decide) only [ext_lo]; exact ext_self
    clear hw
    show checkFields (rawW wd) = _
    unfold rawW; rw [h25_7]
    show checkFields (.ok (.fadd (wd.extractLsb' 21 4) (wd.extractLsb' 16 5) (wd.extractLsb' 11 5) (wd.extractLsb' 6 5) (wd.extractLsb' 5 1) (wd.extractLsb' 1 4) (wd.extractLsb' 0 1))) = _
    simp only [h21_4, h16_5, h11_5, h6_5, h5_1, h1_4, h0_1]

theorem fsub (m : BitVec 4) (d : BitVec 5) (a : BitVec 5) (b : BitVec 5) (n : BitVec 1) (t : BitVec 4) (p : BitVec 1) : Statement (.fsub m d a b n t p) :=
  of_word rfl fun wd hw => by
    have h25_7 : wd.extractLsb' 25 7 = 2#7 := by subst hw; simp (disch := decide) only [ext_hi]; rfl
    have h21_4 : wd.extractLsb' 21 4 = m := by subst hw; simp (disch := decide) only [ext_hi, ext_lo]; exact ext_self
    have h16_5 : wd.extractLsb' 16 5 = d := by subst hw; simp (disch := decide) only [ext_hi, ext_lo]; exact ext_self
    have h11_5 : wd.extractLsb' 11 5 = a := by subst hw; simp (disch := decide) only [ext_hi, ext_lo]; exact ext_self
    have h6_5 : wd.extractLsb' 6 5 = b := by subst hw; simp (disch := decide) only [ext_hi, ext_lo]; exact ext_self
    have h5_1 : wd.extractLsb' 5 1 = n := by subst hw; simp (disch := decide) only [ext_hi, ext_lo]; exact ext_self
    have h1_4 : wd.extractLsb' 1 4 = t := by subst hw; simp (disch := decide) only [ext_hi, ext_lo]; exact ext_self
    have h0_1 : wd.extractLsb' 0 1 = p := by subst hw; simp (disch := decide) only [ext_lo]; exact ext_self
    clear hw
    show checkFields (rawW wd) = _
    unfold rawW; rw [h25_7]
    show checkFields (.ok (.fsub (wd.extractLsb' 21 4) (wd.extractLsb' 16 5) (wd.extractLsb' 11 5) (wd.extractLsb' 6 5) (wd.extractLsb' 5 1) (wd.extractLsb' 1 4) (wd.extractLsb' 0 1))) = _
    simp only [h21_4, h16_5, h11_5, h6_5, h5_1, h1_4, h0_1]

theorem fmul (m : BitVec 4) (d : BitVec 5) (a : BitVec 5) (b : BitVec 5) (n : BitVec 1) (t : BitVec 4) (p : BitVec 1) : Statement (.fmul m d a b n t p) :=
  of_word rfl fun wd hw => by
    have h25_7 : wd.extractLsb' 25 7 = 3#7 := by subst hw; simp (disch := decide) only [ext_hi]; rfl
    have h21_4 : wd.extractLsb' 21 4 = m := by subst hw; simp (disch := decide) only [ext_hi, ext_lo]; exact ext_self
    have h16_5 : wd.extractLsb' 16 5 = d := by subst hw; simp (disch := decide) only [ext_hi, ext_lo]; exact ext_self
    have h11_5 : wd.extractLsb' 11 5 = a := by subst hw; simp (disch := decide) only [ext_hi, ext_lo]; exact ext_self
    have h6_5 : wd.extractLsb' 6 5 = b := by subst hw; simp (disch := decide) only [ext_hi, ext_lo]; exact ext_self
    have h5_1 : wd.extractLsb' 5 1 = n := by subst hw; simp (disch := decide) only [ext_hi, ext_lo]; exact ext_self
    have h1_4 : wd.extractLsb' 1 4 = t := by subst hw; simp (disch := decide) only [ext_hi, ext_lo]; exact ext_self
    have h0_1 : wd.extractLsb' 0 1 = p := by subst hw; simp (disch := decide) only [ext_lo]; exact ext_self
    clear hw
    show checkFields (rawW wd) = _
    unfold rawW; rw [h25_7]
    show checkFields (.ok (.fmul (wd.extractLsb' 21 4) (wd.extractLsb' 16 5) (wd.extractLsb' 11 5) (wd.extractLsb' 6 5) (wd.extractLsb' 5 1) (wd.extractLsb' 1 4) (wd.extractLsb' 0 1))) = _
    simp only [h21_4, h16_5, h11_5, h6_5, h5_1, h1_4, h0_1]

theorem ffma (m : BitVec 4) (d : BitVec 5) (a : BitVec 5) (b : BitVec 5) (n : BitVec 1) (t : BitVec 4) (p : BitVec 1) : Statement (.ffma m d a b n t p) :=
  of_word rfl fun wd hw => by
    have h25_7 : wd.extractLsb' 25 7 = 4#7 := by subst hw; simp (disch := decide) only [ext_hi]; rfl
    have h21_4 : wd.extractLsb' 21 4 = m := by subst hw; simp (disch := decide) only [ext_hi, ext_lo]; exact ext_self
    have h16_5 : wd.extractLsb' 16 5 = d := by subst hw; simp (disch := decide) only [ext_hi, ext_lo]; exact ext_self
    have h11_5 : wd.extractLsb' 11 5 = a := by subst hw; simp (disch := decide) only [ext_hi, ext_lo]; exact ext_self
    have h6_5 : wd.extractLsb' 6 5 = b := by subst hw; simp (disch := decide) only [ext_hi, ext_lo]; exact ext_self
    have h5_1 : wd.extractLsb' 5 1 = n := by subst hw; simp (disch := decide) only [ext_hi, ext_lo]; exact ext_self
    have h1_4 : wd.extractLsb' 1 4 = t := by subst hw; simp (disch := decide) only [ext_hi, ext_lo]; exact ext_self
    have h0_1 : wd.extractLsb' 0 1 = p := by subst hw; simp (disch := decide) only [ext_lo]; exact ext_self
    clear hw
    show checkFields (rawW wd) = _
    unfold rawW; rw [h25_7]
    show checkFields (.ok (.ffma (wd.extractLsb' 21 4) (wd.extractLsb' 16 5) (wd.extractLsb' 11 5) (wd.extractLsb' 6 5) (wd.extractLsb' 5 1) (wd.extractLsb' 1 4) (wd.extractLsb' 0 1))) = _
    simp only [h21_4, h16_5, h11_5, h6_5, h5_1, h1_4, h0_1]

theorem ffms (m : BitVec 4) (d : BitVec 5) (a : BitVec 5) (b : BitVec 5) (n : BitVec 1) (t : BitVec 4) (p : BitVec 1) : Statement (.ffms m d a b n t p) :=
  of_word rfl fun wd hw => by
    have h25_7 : wd.extractLsb' 25 7 = 5#7 := by subst hw; simp (disch := decide) only [ext_hi]; rfl
    have h21_4 : wd.extractLsb' 21 4 = m := by subst hw; simp (disch := decide) only [ext_hi, ext_lo]; exact ext_self
    have h16_5 : wd.extractLsb' 16 5 = d := by subst hw; simp (disch := decide) only [ext_hi, ext_lo]; exact ext_self
    have h11_5 : wd.extractLsb' 11 5 = a := by subst hw; simp (disch := decide) only [ext_hi, ext_lo]; exact ext_self
    have h6_5 : wd.extractLsb' 6 5 = b := by subst hw; simp (disch := decide) only [ext_hi, ext_lo]; exact ext_self
    have h5_1 : wd.extractLsb' 5 1 = n := by subst hw; simp (disch := decide) only [ext_hi, ext_lo]; exact ext_self
    have h1_4 : wd.extractLsb' 1 4 = t := by subst hw; simp (disch := decide) only [ext_hi, ext_lo]; exact ext_self
    have h0_1 : wd.extractLsb' 0 1 = p := by subst hw; simp (disch := decide) only [ext_lo]; exact ext_self
    clear hw
    show checkFields (rawW wd) = _
    unfold rawW; rw [h25_7]
    show checkFields (.ok (.ffms (wd.extractLsb' 21 4) (wd.extractLsb' 16 5) (wd.extractLsb' 11 5) (wd.extractLsb' 6 5) (wd.extractLsb' 5 1) (wd.extractLsb' 1 4) (wd.extractLsb' 0 1))) = _
    simp only [h21_4, h16_5, h11_5, h6_5, h5_1, h1_4, h0_1]

theorem fmin (m : BitVec 4) (d : BitVec 5) (a : BitVec 5) (b : BitVec 5) (n : BitVec 1) (t : BitVec 4) (p : BitVec 1) : Statement (.fmin m d a b n t p) :=
  of_word rfl fun wd hw => by
    have h25_7 : wd.extractLsb' 25 7 = 6#7 := by subst hw; simp (disch := decide) only [ext_hi]; rfl
    have h21_4 : wd.extractLsb' 21 4 = m := by subst hw; simp (disch := decide) only [ext_hi, ext_lo]; exact ext_self
    have h16_5 : wd.extractLsb' 16 5 = d := by subst hw; simp (disch := decide) only [ext_hi, ext_lo]; exact ext_self
    have h11_5 : wd.extractLsb' 11 5 = a := by subst hw; simp (disch := decide) only [ext_hi, ext_lo]; exact ext_self
    have h6_5 : wd.extractLsb' 6 5 = b := by subst hw; simp (disch := decide) only [ext_hi, ext_lo]; exact ext_self
    have h5_1 : wd.extractLsb' 5 1 = n := by subst hw; simp (disch := decide) only [ext_hi, ext_lo]; exact ext_self
    have h1_4 : wd.extractLsb' 1 4 = t := by subst hw; simp (disch := decide) only [ext_hi, ext_lo]; exact ext_self
    have h0_1 : wd.extractLsb' 0 1 = p := by subst hw; simp (disch := decide) only [ext_lo]; exact ext_self
    clear hw
    show checkFields (rawW wd) = _
    unfold rawW; rw [h25_7]
    show checkFields (.ok (.fmin (wd.extractLsb' 21 4) (wd.extractLsb' 16 5) (wd.extractLsb' 11 5) (wd.extractLsb' 6 5) (wd.extractLsb' 5 1) (wd.extractLsb' 1 4) (wd.extractLsb' 0 1))) = _
    simp only [h21_4, h16_5, h11_5, h6_5, h5_1, h1_4, h0_1]

theorem fmax (m : BitVec 4) (d : BitVec 5) (a : BitVec 5) (b : BitVec 5) (n : BitVec 1) (t : BitVec 4) (p : BitVec 1) : Statement (.fmax m d a b n t p) :=
  of_word rfl fun wd hw => by
    have h25_7 : wd.extractLsb' 25 7 = 7#7 := by subst hw; simp (disch := decide) only [ext_hi]; rfl
    have h21_4 : wd.extractLsb' 21 4 = m := by subst hw; simp (disch := decide) only [ext_hi, ext_lo]; exact ext_self
    have h16_5 : wd.extractLsb' 16 5 = d := by subst hw; simp (disch := decide) only [ext_hi, ext_lo]; exact ext_self
    have h11_5 : wd.extractLsb' 11 5 = a := by subst hw; simp (disch := decide) only [ext_hi, ext_lo]; exact ext_self
    have h6_5 : wd.extractLsb' 6 5 = b := by subst hw; simp (disch := decide) only [ext_hi, ext_lo]; exact ext_self
    have h5_1 : wd.extractLsb' 5 1 = n := by subst hw; simp (disch := decide) only [ext_hi, ext_lo]; exact ext_self
    have h1_4 : wd.extractLsb' 1 4 = t := by subst hw; simp (disch := decide) only [ext_hi, ext_lo]; exact ext_self
    have h0_1 : wd.extractLsb' 0 1 = p := by subst hw; simp (disch := decide) only [ext_lo]; exact ext_self
    clear hw
    show checkFields (rawW wd) = _
    unfold rawW; rw [h25_7]
    show checkFields (.ok (.fmax (wd.extractLsb' 21 4) (wd.extractLsb' 16 5) (wd.extractLsb' 11 5) (wd.extractLsb' 6 5) (wd.extractLsb' 5 1) (wd.extractLsb' 1 4) (wd.extractLsb' 0 1))) = _
    simp only [h21_4, h16_5, h11_5, h6_5, h5_1, h1_4, h0_1]

theorem fabs (m : BitVec 4) (d : BitVec 5) (a : BitVec 5) (n : BitVec 1) (t : BitVec 4) (p : BitVec 1) : Statement (.fabs m d a n t p) :=
  of_word rfl fun wd hw => by
    have h25_7 : wd.extractLsb' 25 7 = 8#7 := by subst hw; simp (disch := decide) only [ext_hi]; rfl
    have h6_5 : wd.extractLsb' 6 5 = 0#5 := by subst hw; simp (disch := decide) only [ext_hi, ext_lo]; rfl
    have h21_4 : wd.extractLsb' 21 4 = m := by subst hw; simp (disch := decide) only [ext_hi, ext_lo]; exact ext_self
    have h16_5 : wd.extractLsb' 16 5 = d := by subst hw; simp (disch := decide) only [ext_hi, ext_lo]; exact ext_self
    have h11_5 : wd.extractLsb' 11 5 = a := by subst hw; simp (disch := decide) only [ext_hi, ext_lo]; exact ext_self
    have h5_1 : wd.extractLsb' 5 1 = n := by subst hw; simp (disch := decide) only [ext_hi, ext_lo]; exact ext_self
    have h1_4 : wd.extractLsb' 1 4 = t := by subst hw; simp (disch := decide) only [ext_hi, ext_lo]; exact ext_self
    have h0_1 : wd.extractLsb' 0 1 = p := by subst hw; simp (disch := decide) only [ext_lo]; exact ext_self
    clear hw
    show checkFields (rawW wd) = _
    unfold rawW; rw [h25_7]
    show checkFields (if wd.extractLsb' 6 5 == 0 then .ok (.fabs (wd.extractLsb' 21 4) (wd.extractLsb' 16 5) (wd.extractLsb' 11 5) (wd.extractLsb' 5 1) (wd.extractLsb' 1 4) (wd.extractLsb' 0 1)) else .error .bits) = _
    simp only [h6_5, h21_4, h16_5, h11_5, h5_1, h1_4, h0_1]; rfl

theorem fneg (m : BitVec 4) (d : BitVec 5) (a : BitVec 5) (n : BitVec 1) (t : BitVec 4) (p : BitVec 1) : Statement (.fneg m d a n t p) :=
  of_word rfl fun wd hw => by
    have h25_7 : wd.extractLsb' 25 7 = 9#7 := by subst hw; simp (disch := decide) only [ext_hi]; rfl
    have h6_5 : wd.extractLsb' 6 5 = 0#5 := by subst hw; simp (disch := decide) only [ext_hi, ext_lo]; rfl
    have h21_4 : wd.extractLsb' 21 4 = m := by subst hw; simp (disch := decide) only [ext_hi, ext_lo]; exact ext_self
    have h16_5 : wd.extractLsb' 16 5 = d := by subst hw; simp (disch := decide) only [ext_hi, ext_lo]; exact ext_self
    have h11_5 : wd.extractLsb' 11 5 = a := by subst hw; simp (disch := decide) only [ext_hi, ext_lo]; exact ext_self
    have h5_1 : wd.extractLsb' 5 1 = n := by subst hw; simp (disch := decide) only [ext_hi, ext_lo]; exact ext_self
    have h1_4 : wd.extractLsb' 1 4 = t := by subst hw; simp (disch := decide) only [ext_hi, ext_lo]; exact ext_self
    have h0_1 : wd.extractLsb' 0 1 = p := by subst hw; simp (disch := decide) only [ext_lo]; exact ext_self
    clear hw
    show checkFields (rawW wd) = _
    unfold rawW; rw [h25_7]
    show checkFields (if wd.extractLsb' 6 5 == 0 then .ok (.fneg (wd.extractLsb' 21 4) (wd.extractLsb' 16 5) (wd.extractLsb' 11 5) (wd.extractLsb' 5 1) (wd.extractLsb' 1 4) (wd.extractLsb' 0 1)) else .error .bits) = _
    simp only [h6_5, h21_4, h16_5, h11_5, h5_1, h1_4, h0_1]; rfl

theorem fcmp (m : BitVec 4) (c : BitVec 5) (a : BitVec 5) (b : BitVec 5) (n : BitVec 1) (t : BitVec 4) (p : BitVec 1) : Statement (.fcmp m c a b n t p) :=
  of_word rfl fun wd hw => by
    have h25_7 : wd.extractLsb' 25 7 = 10#7 := by subst hw; simp (disch := decide) only [ext_hi]; rfl
    have h21_4 : wd.extractLsb' 21 4 = m := by subst hw; simp (disch := decide) only [ext_hi, ext_lo]; exact ext_self
    have h16_5 : wd.extractLsb' 16 5 = c := by subst hw; simp (disch := decide) only [ext_hi, ext_lo]; exact ext_self
    have h11_5 : wd.extractLsb' 11 5 = a := by subst hw; simp (disch := decide) only [ext_hi, ext_lo]; exact ext_self
    have h6_5 : wd.extractLsb' 6 5 = b := by subst hw; simp (disch := decide) only [ext_hi, ext_lo]; exact ext_self
    have h5_1 : wd.extractLsb' 5 1 = n := by subst hw; simp (disch := decide) only [ext_hi, ext_lo]; exact ext_self
    have h1_4 : wd.extractLsb' 1 4 = t := by subst hw; simp (disch := decide) only [ext_hi, ext_lo]; exact ext_self
    have h0_1 : wd.extractLsb' 0 1 = p := by subst hw; simp (disch := decide) only [ext_lo]; exact ext_self
    clear hw
    show checkFields (rawW wd) = _
    unfold rawW; rw [h25_7]
    show checkFields (.ok (.fcmp (wd.extractLsb' 21 4) (wd.extractLsb' 16 5) (wd.extractLsb' 11 5) (wd.extractLsb' 6 5) (wd.extractLsb' 5 1) (wd.extractLsb' 1 4) (wd.extractLsb' 0 1))) = _
    simp only [h21_4, h16_5, h11_5, h6_5, h5_1, h1_4, h0_1]

theorem sel (m : BitVec 4) (d : BitVec 5) (a : BitVec 5) (b : BitVec 5) (n : BitVec 1) : Statement (.sel m d a b n) :=
  of_word rfl fun wd hw => by
    have h25_7 : wd.extractLsb' 25 7 = 11#7 := by subst hw; simp (disch := decide) only [ext_hi]; rfl
    have h0_5 : wd.extractLsb' 0 5 = 0#5 := by subst hw; simp (disch := decide) only [ext_lo]; rfl
    have h21_4 : wd.extractLsb' 21 4 = m := by subst hw; simp (disch := decide) only [ext_hi, ext_lo]; exact ext_self
    have h16_5 : wd.extractLsb' 16 5 = d := by subst hw; simp (disch := decide) only [ext_hi, ext_lo]; exact ext_self
    have h11_5 : wd.extractLsb' 11 5 = a := by subst hw; simp (disch := decide) only [ext_hi, ext_lo]; exact ext_self
    have h6_5 : wd.extractLsb' 6 5 = b := by subst hw; simp (disch := decide) only [ext_hi, ext_lo]; exact ext_self
    have h5_1 : wd.extractLsb' 5 1 = n := by subst hw; simp (disch := decide) only [ext_hi, ext_lo]; exact ext_self
    clear hw
    show checkFields (rawW wd) = _
    unfold rawW; rw [h25_7]
    show checkFields (if wd.extractLsb' 0 5 == 0 then .ok (.sel (wd.extractLsb' 21 4) (wd.extractLsb' 16 5) (wd.extractLsb' 11 5) (wd.extractLsb' 6 5) (wd.extractLsb' 5 1)) else .error .bits) = _
    simp only [h0_5, h21_4, h16_5, h11_5, h6_5, h5_1]; rfl

theorem iadd (m : BitVec 4) (d : BitVec 5) (a : BitVec 5) (b : BitVec 5) (n : BitVec 1) (t : BitVec 4) (p : BitVec 1) : Statement (.iadd m d a b n t p) :=
  of_word rfl fun wd hw => by
    have h25_7 : wd.extractLsb' 25 7 = 16#7 := by subst hw; simp (disch := decide) only [ext_hi]; rfl
    have h21_4 : wd.extractLsb' 21 4 = m := by subst hw; simp (disch := decide) only [ext_hi, ext_lo]; exact ext_self
    have h16_5 : wd.extractLsb' 16 5 = d := by subst hw; simp (disch := decide) only [ext_hi, ext_lo]; exact ext_self
    have h11_5 : wd.extractLsb' 11 5 = a := by subst hw; simp (disch := decide) only [ext_hi, ext_lo]; exact ext_self
    have h6_5 : wd.extractLsb' 6 5 = b := by subst hw; simp (disch := decide) only [ext_hi, ext_lo]; exact ext_self
    have h5_1 : wd.extractLsb' 5 1 = n := by subst hw; simp (disch := decide) only [ext_hi, ext_lo]; exact ext_self
    have h1_4 : wd.extractLsb' 1 4 = t := by subst hw; simp (disch := decide) only [ext_hi, ext_lo]; exact ext_self
    have h0_1 : wd.extractLsb' 0 1 = p := by subst hw; simp (disch := decide) only [ext_lo]; exact ext_self
    clear hw
    show checkFields (rawW wd) = _
    unfold rawW; rw [h25_7]
    show checkFields (.ok (.iadd (wd.extractLsb' 21 4) (wd.extractLsb' 16 5) (wd.extractLsb' 11 5) (wd.extractLsb' 6 5) (wd.extractLsb' 5 1) (wd.extractLsb' 1 4) (wd.extractLsb' 0 1))) = _
    simp only [h21_4, h16_5, h11_5, h6_5, h5_1, h1_4, h0_1]

theorem isub (m : BitVec 4) (d : BitVec 5) (a : BitVec 5) (b : BitVec 5) (n : BitVec 1) (t : BitVec 4) (p : BitVec 1) : Statement (.isub m d a b n t p) :=
  of_word rfl fun wd hw => by
    have h25_7 : wd.extractLsb' 25 7 = 17#7 := by subst hw; simp (disch := decide) only [ext_hi]; rfl
    have h21_4 : wd.extractLsb' 21 4 = m := by subst hw; simp (disch := decide) only [ext_hi, ext_lo]; exact ext_self
    have h16_5 : wd.extractLsb' 16 5 = d := by subst hw; simp (disch := decide) only [ext_hi, ext_lo]; exact ext_self
    have h11_5 : wd.extractLsb' 11 5 = a := by subst hw; simp (disch := decide) only [ext_hi, ext_lo]; exact ext_self
    have h6_5 : wd.extractLsb' 6 5 = b := by subst hw; simp (disch := decide) only [ext_hi, ext_lo]; exact ext_self
    have h5_1 : wd.extractLsb' 5 1 = n := by subst hw; simp (disch := decide) only [ext_hi, ext_lo]; exact ext_self
    have h1_4 : wd.extractLsb' 1 4 = t := by subst hw; simp (disch := decide) only [ext_hi, ext_lo]; exact ext_self
    have h0_1 : wd.extractLsb' 0 1 = p := by subst hw; simp (disch := decide) only [ext_lo]; exact ext_self
    clear hw
    show checkFields (rawW wd) = _
    unfold rawW; rw [h25_7]
    show checkFields (.ok (.isub (wd.extractLsb' 21 4) (wd.extractLsb' 16 5) (wd.extractLsb' 11 5) (wd.extractLsb' 6 5) (wd.extractLsb' 5 1) (wd.extractLsb' 1 4) (wd.extractLsb' 0 1))) = _
    simp only [h21_4, h16_5, h11_5, h6_5, h5_1, h1_4, h0_1]

theorem imul (m : BitVec 4) (d : BitVec 5) (a : BitVec 5) (b : BitVec 5) (n : BitVec 1) (t : BitVec 4) (p : BitVec 1) : Statement (.imul m d a b n t p) :=
  of_word rfl fun wd hw => by
    have h25_7 : wd.extractLsb' 25 7 = 18#7 := by subst hw; simp (disch := decide) only [ext_hi]; rfl
    have h21_4 : wd.extractLsb' 21 4 = m := by subst hw; simp (disch := decide) only [ext_hi, ext_lo]; exact ext_self
    have h16_5 : wd.extractLsb' 16 5 = d := by subst hw; simp (disch := decide) only [ext_hi, ext_lo]; exact ext_self
    have h11_5 : wd.extractLsb' 11 5 = a := by subst hw; simp (disch := decide) only [ext_hi, ext_lo]; exact ext_self
    have h6_5 : wd.extractLsb' 6 5 = b := by subst hw; simp (disch := decide) only [ext_hi, ext_lo]; exact ext_self
    have h5_1 : wd.extractLsb' 5 1 = n := by subst hw; simp (disch := decide) only [ext_hi, ext_lo]; exact ext_self
    have h1_4 : wd.extractLsb' 1 4 = t := by subst hw; simp (disch := decide) only [ext_hi, ext_lo]; exact ext_self
    have h0_1 : wd.extractLsb' 0 1 = p := by subst hw; simp (disch := decide) only [ext_lo]; exact ext_self
    clear hw
    show checkFields (rawW wd) = _
    unfold rawW; rw [h25_7]
    show checkFields (.ok (.imul (wd.extractLsb' 21 4) (wd.extractLsb' 16 5) (wd.extractLsb' 11 5) (wd.extractLsb' 6 5) (wd.extractLsb' 5 1) (wd.extractLsb' 1 4) (wd.extractLsb' 0 1))) = _
    simp only [h21_4, h16_5, h11_5, h6_5, h5_1, h1_4, h0_1]

theorem imac (m : BitVec 4) (d : BitVec 5) (a : BitVec 5) (b : BitVec 5) (n : BitVec 1) (t : BitVec 4) (p : BitVec 1) : Statement (.imac m d a b n t p) :=
  of_word rfl fun wd hw => by
    have h25_7 : wd.extractLsb' 25 7 = 19#7 := by subst hw; simp (disch := decide) only [ext_hi]; rfl
    have h21_4 : wd.extractLsb' 21 4 = m := by subst hw; simp (disch := decide) only [ext_hi, ext_lo]; exact ext_self
    have h16_5 : wd.extractLsb' 16 5 = d := by subst hw; simp (disch := decide) only [ext_hi, ext_lo]; exact ext_self
    have h11_5 : wd.extractLsb' 11 5 = a := by subst hw; simp (disch := decide) only [ext_hi, ext_lo]; exact ext_self
    have h6_5 : wd.extractLsb' 6 5 = b := by subst hw; simp (disch := decide) only [ext_hi, ext_lo]; exact ext_self
    have h5_1 : wd.extractLsb' 5 1 = n := by subst hw; simp (disch := decide) only [ext_hi, ext_lo]; exact ext_self
    have h1_4 : wd.extractLsb' 1 4 = t := by subst hw; simp (disch := decide) only [ext_hi, ext_lo]; exact ext_self
    have h0_1 : wd.extractLsb' 0 1 = p := by subst hw; simp (disch := decide) only [ext_lo]; exact ext_self
    clear hw
    show checkFields (rawW wd) = _
    unfold rawW; rw [h25_7]
    show checkFields (.ok (.imac (wd.extractLsb' 21 4) (wd.extractLsb' 16 5) (wd.extractLsb' 11 5) (wd.extractLsb' 6 5) (wd.extractLsb' 5 1) (wd.extractLsb' 1 4) (wd.extractLsb' 0 1))) = _
    simp only [h21_4, h16_5, h11_5, h6_5, h5_1, h1_4, h0_1]

theorem qmul (m : BitVec 4) (d : BitVec 5) (a : BitVec 5) (b : BitVec 5) (n : BitVec 1) (t : BitVec 4) (p : BitVec 1) : Statement (.qmul m d a b n t p) :=
  of_word rfl fun wd hw => by
    have h25_7 : wd.extractLsb' 25 7 = 20#7 := by subst hw; simp (disch := decide) only [ext_hi]; rfl
    have h21_4 : wd.extractLsb' 21 4 = m := by subst hw; simp (disch := decide) only [ext_hi, ext_lo]; exact ext_self
    have h16_5 : wd.extractLsb' 16 5 = d := by subst hw; simp (disch := decide) only [ext_hi, ext_lo]; exact ext_self
    have h11_5 : wd.extractLsb' 11 5 = a := by subst hw; simp (disch := decide) only [ext_hi, ext_lo]; exact ext_self
    have h6_5 : wd.extractLsb' 6 5 = b := by subst hw; simp (disch := decide) only [ext_hi, ext_lo]; exact ext_self
    have h5_1 : wd.extractLsb' 5 1 = n := by subst hw; simp (disch := decide) only [ext_hi, ext_lo]; exact ext_self
    have h1_4 : wd.extractLsb' 1 4 = t := by subst hw; simp (disch := decide) only [ext_hi, ext_lo]; exact ext_self
    have h0_1 : wd.extractLsb' 0 1 = p := by subst hw; simp (disch := decide) only [ext_lo]; exact ext_self
    clear hw
    show checkFields (rawW wd) = _
    unfold rawW; rw [h25_7]
    show checkFields (.ok (.qmul (wd.extractLsb' 21 4) (wd.extractLsb' 16 5) (wd.extractLsb' 11 5) (wd.extractLsb' 6 5) (wd.extractLsb' 5 1) (wd.extractLsb' 1 4) (wd.extractLsb' 0 1))) = _
    simp only [h21_4, h16_5, h11_5, h6_5, h5_1, h1_4, h0_1]

theorem qmac (m : BitVec 4) (d : BitVec 5) (a : BitVec 5) (b : BitVec 5) (n : BitVec 1) (t : BitVec 4) (p : BitVec 1) : Statement (.qmac m d a b n t p) :=
  of_word rfl fun wd hw => by
    have h25_7 : wd.extractLsb' 25 7 = 21#7 := by subst hw; simp (disch := decide) only [ext_hi]; rfl
    have h21_4 : wd.extractLsb' 21 4 = m := by subst hw; simp (disch := decide) only [ext_hi, ext_lo]; exact ext_self
    have h16_5 : wd.extractLsb' 16 5 = d := by subst hw; simp (disch := decide) only [ext_hi, ext_lo]; exact ext_self
    have h11_5 : wd.extractLsb' 11 5 = a := by subst hw; simp (disch := decide) only [ext_hi, ext_lo]; exact ext_self
    have h6_5 : wd.extractLsb' 6 5 = b := by subst hw; simp (disch := decide) only [ext_hi, ext_lo]; exact ext_self
    have h5_1 : wd.extractLsb' 5 1 = n := by subst hw; simp (disch := decide) only [ext_hi, ext_lo]; exact ext_self
    have h1_4 : wd.extractLsb' 1 4 = t := by subst hw; simp (disch := decide) only [ext_hi, ext_lo]; exact ext_self
    have h0_1 : wd.extractLsb' 0 1 = p := by subst hw; simp (disch := decide) only [ext_lo]; exact ext_self
    clear hw
    show checkFields (rawW wd) = _
    unfold rawW; rw [h25_7]
    show checkFields (.ok (.qmac (wd.extractLsb' 21 4) (wd.extractLsb' 16 5) (wd.extractLsb' 11 5) (wd.extractLsb' 6 5) (wd.extractLsb' 5 1) (wd.extractLsb' 1 4) (wd.extractLsb' 0 1))) = _
    simp only [h21_4, h16_5, h11_5, h6_5, h5_1, h1_4, h0_1]

theorem wAnd (m : BitVec 4) (d : BitVec 5) (a : BitVec 5) (b : BitVec 5) (n : BitVec 1) (t : BitVec 4) (p : BitVec 1) : Statement (.wAnd m d a b n t p) :=
  of_word rfl fun wd hw => by
    have h25_7 : wd.extractLsb' 25 7 = 22#7 := by subst hw; simp (disch := decide) only [ext_hi]; rfl
    have h21_4 : wd.extractLsb' 21 4 = m := by subst hw; simp (disch := decide) only [ext_hi, ext_lo]; exact ext_self
    have h16_5 : wd.extractLsb' 16 5 = d := by subst hw; simp (disch := decide) only [ext_hi, ext_lo]; exact ext_self
    have h11_5 : wd.extractLsb' 11 5 = a := by subst hw; simp (disch := decide) only [ext_hi, ext_lo]; exact ext_self
    have h6_5 : wd.extractLsb' 6 5 = b := by subst hw; simp (disch := decide) only [ext_hi, ext_lo]; exact ext_self
    have h5_1 : wd.extractLsb' 5 1 = n := by subst hw; simp (disch := decide) only [ext_hi, ext_lo]; exact ext_self
    have h1_4 : wd.extractLsb' 1 4 = t := by subst hw; simp (disch := decide) only [ext_hi, ext_lo]; exact ext_self
    have h0_1 : wd.extractLsb' 0 1 = p := by subst hw; simp (disch := decide) only [ext_lo]; exact ext_self
    clear hw
    show checkFields (rawW wd) = _
    unfold rawW; rw [h25_7]
    show checkFields (.ok (.wAnd (wd.extractLsb' 21 4) (wd.extractLsb' 16 5) (wd.extractLsb' 11 5) (wd.extractLsb' 6 5) (wd.extractLsb' 5 1) (wd.extractLsb' 1 4) (wd.extractLsb' 0 1))) = _
    simp only [h21_4, h16_5, h11_5, h6_5, h5_1, h1_4, h0_1]

theorem wOr (m : BitVec 4) (d : BitVec 5) (a : BitVec 5) (b : BitVec 5) (n : BitVec 1) (t : BitVec 4) (p : BitVec 1) : Statement (.wOr m d a b n t p) :=
  of_word rfl fun wd hw => by
    have h25_7 : wd.extractLsb' 25 7 = 23#7 := by subst hw; simp (disch := decide) only [ext_hi]; rfl
    have h21_4 : wd.extractLsb' 21 4 = m := by subst hw; simp (disch := decide) only [ext_hi, ext_lo]; exact ext_self
    have h16_5 : wd.extractLsb' 16 5 = d := by subst hw; simp (disch := decide) only [ext_hi, ext_lo]; exact ext_self
    have h11_5 : wd.extractLsb' 11 5 = a := by subst hw; simp (disch := decide) only [ext_hi, ext_lo]; exact ext_self
    have h6_5 : wd.extractLsb' 6 5 = b := by subst hw; simp (disch := decide) only [ext_hi, ext_lo]; exact ext_self
    have h5_1 : wd.extractLsb' 5 1 = n := by subst hw; simp (disch := decide) only [ext_hi, ext_lo]; exact ext_self
    have h1_4 : wd.extractLsb' 1 4 = t := by subst hw; simp (disch := decide) only [ext_hi, ext_lo]; exact ext_self
    have h0_1 : wd.extractLsb' 0 1 = p := by subst hw; simp (disch := decide) only [ext_lo]; exact ext_self
    clear hw
    show checkFields (rawW wd) = _
    unfold rawW; rw [h25_7]
    show checkFields (.ok (.wOr (wd.extractLsb' 21 4) (wd.extractLsb' 16 5) (wd.extractLsb' 11 5) (wd.extractLsb' 6 5) (wd.extractLsb' 5 1) (wd.extractLsb' 1 4) (wd.extractLsb' 0 1))) = _
    simp only [h21_4, h16_5, h11_5, h6_5, h5_1, h1_4, h0_1]

theorem wXor (m : BitVec 4) (d : BitVec 5) (a : BitVec 5) (b : BitVec 5) (n : BitVec 1) (t : BitVec 4) (p : BitVec 1) : Statement (.wXor m d a b n t p) :=
  of_word rfl fun wd hw => by
    have h25_7 : wd.extractLsb' 25 7 = 24#7 := by subst hw; simp (disch := decide) only [ext_hi]; rfl
    have h21_4 : wd.extractLsb' 21 4 = m := by subst hw; simp (disch := decide) only [ext_hi, ext_lo]; exact ext_self
    have h16_5 : wd.extractLsb' 16 5 = d := by subst hw; simp (disch := decide) only [ext_hi, ext_lo]; exact ext_self
    have h11_5 : wd.extractLsb' 11 5 = a := by subst hw; simp (disch := decide) only [ext_hi, ext_lo]; exact ext_self
    have h6_5 : wd.extractLsb' 6 5 = b := by subst hw; simp (disch := decide) only [ext_hi, ext_lo]; exact ext_self
    have h5_1 : wd.extractLsb' 5 1 = n := by subst hw; simp (disch := decide) only [ext_hi, ext_lo]; exact ext_self
    have h1_4 : wd.extractLsb' 1 4 = t := by subst hw; simp (disch := decide) only [ext_hi, ext_lo]; exact ext_self
    have h0_1 : wd.extractLsb' 0 1 = p := by subst hw; simp (disch := decide) only [ext_lo]; exact ext_self
    clear hw
    show checkFields (rawW wd) = _
    unfold rawW; rw [h25_7]
    show checkFields (.ok (.wXor (wd.extractLsb' 21 4) (wd.extractLsb' 16 5) (wd.extractLsb' 11 5) (wd.extractLsb' 6 5) (wd.extractLsb' 5 1) (wd.extractLsb' 1 4) (wd.extractLsb' 0 1))) = _
    simp only [h21_4, h16_5, h11_5, h6_5, h5_1, h1_4, h0_1]

theorem wShl (m : BitVec 4) (d : BitVec 5) (a : BitVec 5) (b : BitVec 5) (n : BitVec 1) (t : BitVec 4) (p : BitVec 1) : Statement (.wShl m d a b n t p) :=
  of_word rfl fun wd hw => by
    have h25_7 : wd.extractLsb' 25 7 = 25#7 := by subst hw; simp (disch := decide) only [ext_hi]; rfl
    have h21_4 : wd.extractLsb' 21 4 = m := by subst hw; simp (disch := decide) only [ext_hi, ext_lo]; exact ext_self
    have h16_5 : wd.extractLsb' 16 5 = d := by subst hw; simp (disch := decide) only [ext_hi, ext_lo]; exact ext_self
    have h11_5 : wd.extractLsb' 11 5 = a := by subst hw; simp (disch := decide) only [ext_hi, ext_lo]; exact ext_self
    have h6_5 : wd.extractLsb' 6 5 = b := by subst hw; simp (disch := decide) only [ext_hi, ext_lo]; exact ext_self
    have h5_1 : wd.extractLsb' 5 1 = n := by subst hw; simp (disch := decide) only [ext_hi, ext_lo]; exact ext_self
    have h1_4 : wd.extractLsb' 1 4 = t := by subst hw; simp (disch := decide) only [ext_hi, ext_lo]; exact ext_self
    have h0_1 : wd.extractLsb' 0 1 = p := by subst hw; simp (disch := decide) only [ext_lo]; exact ext_self
    clear hw
    show checkFields (rawW wd) = _
    unfold rawW; rw [h25_7]
    show checkFields (.ok (.wShl (wd.extractLsb' 21 4) (wd.extractLsb' 16 5) (wd.extractLsb' 11 5) (wd.extractLsb' 6 5) (wd.extractLsb' 5 1) (wd.extractLsb' 1 4) (wd.extractLsb' 0 1))) = _
    simp only [h21_4, h16_5, h11_5, h6_5, h5_1, h1_4, h0_1]

theorem wShr (m : BitVec 4) (d : BitVec 5) (a : BitVec 5) (b : BitVec 5) (n : BitVec 1) (t : BitVec 4) (p : BitVec 1) : Statement (.wShr m d a b n t p) :=
  of_word rfl fun wd hw => by
    have h25_7 : wd.extractLsb' 25 7 = 26#7 := by subst hw; simp (disch := decide) only [ext_hi]; rfl
    have h21_4 : wd.extractLsb' 21 4 = m := by subst hw; simp (disch := decide) only [ext_hi, ext_lo]; exact ext_self
    have h16_5 : wd.extractLsb' 16 5 = d := by subst hw; simp (disch := decide) only [ext_hi, ext_lo]; exact ext_self
    have h11_5 : wd.extractLsb' 11 5 = a := by subst hw; simp (disch := decide) only [ext_hi, ext_lo]; exact ext_self
    have h6_5 : wd.extractLsb' 6 5 = b := by subst hw; simp (disch := decide) only [ext_hi, ext_lo]; exact ext_self
    have h5_1 : wd.extractLsb' 5 1 = n := by subst hw; simp (disch := decide) only [ext_hi, ext_lo]; exact ext_self
    have h1_4 : wd.extractLsb' 1 4 = t := by subst hw; simp (disch := decide) only [ext_hi, ext_lo]; exact ext_self
    have h0_1 : wd.extractLsb' 0 1 = p := by subst hw; simp (disch := decide) only [ext_lo]; exact ext_self
    clear hw
    show checkFields (rawW wd) = _
    unfold rawW; rw [h25_7]
    show checkFields (.ok (.wShr (wd.extractLsb' 21 4) (wd.extractLsb' 16 5) (wd.extractLsb' 11 5) (wd.extractLsb' 6 5) (wd.extractLsb' 5 1) (wd.extractLsb' 1 4) (wd.extractLsb' 0 1))) = _
    simp only [h21_4, h16_5, h11_5, h6_5, h5_1, h1_4, h0_1]

theorem wSar (m : BitVec 4) (d : BitVec 5) (a : BitVec 5) (b : BitVec 5) (n : BitVec 1) (t : BitVec 4) (p : BitVec 1) : Statement (.wSar m d a b n t p) :=
  of_word rfl fun wd hw => by
    have h25_7 : wd.extractLsb' 25 7 = 27#7 := by subst hw; simp (disch := decide) only [ext_hi]; rfl
    have h21_4 : wd.extractLsb' 21 4 = m := by subst hw; simp (disch := decide) only [ext_hi, ext_lo]; exact ext_self
    have h16_5 : wd.extractLsb' 16 5 = d := by subst hw; simp (disch := decide) only [ext_hi, ext_lo]; exact ext_self
    have h11_5 : wd.extractLsb' 11 5 = a := by subst hw; simp (disch := decide) only [ext_hi, ext_lo]; exact ext_self
    have h6_5 : wd.extractLsb' 6 5 = b := by subst hw; simp (disch := decide) only [ext_hi, ext_lo]; exact ext_self
    have h5_1 : wd.extractLsb' 5 1 = n := by subst hw; simp (disch := decide) only [ext_hi, ext_lo]; exact ext_self
    have h1_4 : wd.extractLsb' 1 4 = t := by subst hw; simp (disch := decide) only [ext_hi, ext_lo]; exact ext_self
    have h0_1 : wd.extractLsb' 0 1 = p := by subst hw; simp (disch := decide) only [ext_lo]; exact ext_self
    clear hw
    show checkFields (rawW wd) = _
    unfold rawW; rw [h25_7]
    show checkFields (.ok (.wSar (wd.extractLsb' 21 4) (wd.extractLsb' 16 5) (wd.extractLsb' 11 5) (wd.extractLsb' 6 5) (wd.extractLsb' 5 1) (wd.extractLsb' 1 4) (wd.extractLsb' 0 1))) = _
    simp only [h21_4, h16_5, h11_5, h6_5, h5_1, h1_4, h0_1]

theorem icmp (m : BitVec 4) (c : BitVec 5) (a : BitVec 5) (b : BitVec 5) (n : BitVec 1) (t : BitVec 4) (p : BitVec 1) : Statement (.icmp m c a b n t p) :=
  of_word rfl fun wd hw => by
    have h25_7 : wd.extractLsb' 25 7 = 28#7 := by subst hw; simp (disch := decide) only [ext_hi]; rfl
    have h21_4 : wd.extractLsb' 21 4 = m := by subst hw; simp (disch := decide) only [ext_hi, ext_lo]; exact ext_self
    have h16_5 : wd.extractLsb' 16 5 = c := by subst hw; simp (disch := decide) only [ext_hi, ext_lo]; exact ext_self
    have h11_5 : wd.extractLsb' 11 5 = a := by subst hw; simp (disch := decide) only [ext_hi, ext_lo]; exact ext_self
    have h6_5 : wd.extractLsb' 6 5 = b := by subst hw; simp (disch := decide) only [ext_hi, ext_lo]; exact ext_self
    have h5_1 : wd.extractLsb' 5 1 = n := by subst hw; simp (disch := decide) only [ext_hi, ext_lo]; exact ext_self
    have h1_4 : wd.extractLsb' 1 4 = t := by subst hw; simp (disch := decide) only [ext_hi, ext_lo]; exact ext_self
    have h0_1 : wd.extractLsb' 0 1 = p := by subst hw; simp (disch := decide) only [ext_lo]; exact ext_self
    clear hw
    show checkFields (rawW wd) = _
    unfold rawW; rw [h25_7]
    show checkFields (.ok (.icmp (wd.extractLsb' 21 4) (wd.extractLsb' 16 5) (wd.extractLsb' 11 5) (wd.extractLsb' 6 5) (wd.extractLsb' 5 1) (wd.extractLsb' 1 4) (wd.extractLsb' 0 1))) = _
    simp only [h21_4, h16_5, h11_5, h6_5, h5_1, h1_4, h0_1]

theorem imin (m : BitVec 4) (d : BitVec 5) (a : BitVec 5) (b : BitVec 5) (n : BitVec 1) (t : BitVec 4) (p : BitVec 1) : Statement (.imin m d a b n t p) :=
  of_word rfl fun wd hw => by
    have h25_7 : wd.extractLsb' 25 7 = 29#7 := by subst hw; simp (disch := decide) only [ext_hi]; rfl
    have h21_4 : wd.extractLsb' 21 4 = m := by subst hw; simp (disch := decide) only [ext_hi, ext_lo]; exact ext_self
    have h16_5 : wd.extractLsb' 16 5 = d := by subst hw; simp (disch := decide) only [ext_hi, ext_lo]; exact ext_self
    have h11_5 : wd.extractLsb' 11 5 = a := by subst hw; simp (disch := decide) only [ext_hi, ext_lo]; exact ext_self
    have h6_5 : wd.extractLsb' 6 5 = b := by subst hw; simp (disch := decide) only [ext_hi, ext_lo]; exact ext_self
    have h5_1 : wd.extractLsb' 5 1 = n := by subst hw; simp (disch := decide) only [ext_hi, ext_lo]; exact ext_self
    have h1_4 : wd.extractLsb' 1 4 = t := by subst hw; simp (disch := decide) only [ext_hi, ext_lo]; exact ext_self
    have h0_1 : wd.extractLsb' 0 1 = p := by subst hw; simp (disch := decide) only [ext_lo]; exact ext_self
    clear hw
    show checkFields (rawW wd) = _
    unfold rawW; rw [h25_7]
    show checkFields (.ok (.imin (wd.extractLsb' 21 4) (wd.extractLsb' 16 5) (wd.extractLsb' 11 5) (wd.extractLsb' 6 5) (wd.extractLsb' 5 1) (wd.extractLsb' 1 4) (wd.extractLsb' 0 1))) = _
    simp only [h21_4, h16_5, h11_5, h6_5, h5_1, h1_4, h0_1]

theorem imax (m : BitVec 4) (d : BitVec 5) (a : BitVec 5) (b : BitVec 5) (n : BitVec 1) (t : BitVec 4) (p : BitVec 1) : Statement (.imax m d a b n t p) :=
  of_word rfl fun wd hw => by
    have h25_7 : wd.extractLsb' 25 7 = 30#7 := by subst hw; simp (disch := decide) only [ext_hi]; rfl
    have h21_4 : wd.extractLsb' 21 4 = m := by subst hw; simp (disch := decide) only [ext_hi, ext_lo]; exact ext_self
    have h16_5 : wd.extractLsb' 16 5 = d := by subst hw; simp (disch := decide) only [ext_hi, ext_lo]; exact ext_self
    have h11_5 : wd.extractLsb' 11 5 = a := by subst hw; simp (disch := decide) only [ext_hi, ext_lo]; exact ext_self
    have h6_5 : wd.extractLsb' 6 5 = b := by subst hw; simp (disch := decide) only [ext_hi, ext_lo]; exact ext_self
    have h5_1 : wd.extractLsb' 5 1 = n := by subst hw; simp (disch := decide) only [ext_hi, ext_lo]; exact ext_self
    have h1_4 : wd.extractLsb' 1 4 = t := by subst hw; simp (disch := decide) only [ext_hi, ext_lo]; exact ext_self
    have h0_1 : wd.extractLsb' 0 1 = p := by subst hw; simp (disch := decide) only [ext_lo]; exact ext_self
    clear hw
    show checkFields (rawW wd) = _
    unfold rawW; rw [h25_7]
    show checkFields (.ok (.imax (wd.extractLsb' 21 4) (wd.extractLsb' 16 5) (wd.extractLsb' 11 5) (wd.extractLsb' 6 5) (wd.extractLsb' 5 1) (wd.extractLsb' 1 4) (wd.extractLsb' 0 1))) = _
    simp only [h21_4, h16_5, h11_5, h6_5, h5_1, h1_4, h0_1]

theorem fdiv (m : BitVec 4) (d : BitVec 5) (a : BitVec 5) (b : BitVec 5) (n : BitVec 1) (t : BitVec 4) (p : BitVec 1) : Statement (.fdiv m d a b n t p) :=
  of_word rfl fun wd hw => by
    have h25_7 : wd.extractLsb' 25 7 = 32#7 := by subst hw; simp (disch := decide) only [ext_hi]; rfl
    have h21_4 : wd.extractLsb' 21 4 = m := by subst hw; simp (disch := decide) only [ext_hi, ext_lo]; exact ext_self
    have h16_5 : wd.extractLsb' 16 5 = d := by subst hw; simp (disch := decide) only [ext_hi, ext_lo]; exact ext_self
    have h11_5 : wd.extractLsb' 11 5 = a := by subst hw; simp (disch := decide) only [ext_hi, ext_lo]; exact ext_self
    have h6_5 : wd.extractLsb' 6 5 = b := by subst hw; simp (disch := decide) only [ext_hi, ext_lo]; exact ext_self
    have h5_1 : wd.extractLsb' 5 1 = n := by subst hw; simp (disch := decide) only [ext_hi, ext_lo]; exact ext_self
    have h1_4 : wd.extractLsb' 1 4 = t := by subst hw; simp (disch := decide) only [ext_hi, ext_lo]; exact ext_self
    have h0_1 : wd.extractLsb' 0 1 = p := by subst hw; simp (disch := decide) only [ext_lo]; exact ext_self
    clear hw
    show checkFields (rawW wd) = _
    unfold rawW; rw [h25_7]
    show checkFields (.ok (.fdiv (wd.extractLsb' 21 4) (wd.extractLsb' 16 5) (wd.extractLsb' 11 5) (wd.extractLsb' 6 5) (wd.extractLsb' 5 1) (wd.extractLsb' 1 4) (wd.extractLsb' 0 1))) = _
    simp only [h21_4, h16_5, h11_5, h6_5, h5_1, h1_4, h0_1]

theorem fsqrt (m : BitVec 4) (d : BitVec 5) (a : BitVec 5) (n : BitVec 1) (t : BitVec 4) (p : BitVec 1) : Statement (.fsqrt m d a n t p) :=
  of_word rfl fun wd hw => by
    have h25_7 : wd.extractLsb' 25 7 = 33#7 := by subst hw; simp (disch := decide) only [ext_hi]; rfl
    have h6_5 : wd.extractLsb' 6 5 = 0#5 := by subst hw; simp (disch := decide) only [ext_hi, ext_lo]; rfl
    have h21_4 : wd.extractLsb' 21 4 = m := by subst hw; simp (disch := decide) only [ext_hi, ext_lo]; exact ext_self
    have h16_5 : wd.extractLsb' 16 5 = d := by subst hw; simp (disch := decide) only [ext_hi, ext_lo]; exact ext_self
    have h11_5 : wd.extractLsb' 11 5 = a := by subst hw; simp (disch := decide) only [ext_hi, ext_lo]; exact ext_self
    have h5_1 : wd.extractLsb' 5 1 = n := by subst hw; simp (disch := decide) only [ext_hi, ext_lo]; exact ext_self
    have h1_4 : wd.extractLsb' 1 4 = t := by subst hw; simp (disch := decide) only [ext_hi, ext_lo]; exact ext_self
    have h0_1 : wd.extractLsb' 0 1 = p := by subst hw; simp (disch := decide) only [ext_lo]; exact ext_self
    clear hw
    show checkFields (rawW wd) = _
    unfold rawW; rw [h25_7]
    show checkFields (if wd.extractLsb' 6 5 == 0 then .ok (.fsqrt (wd.extractLsb' 21 4) (wd.extractLsb' 16 5) (wd.extractLsb' 11 5) (wd.extractLsb' 5 1) (wd.extractLsb' 1 4) (wd.extractLsb' 0 1)) else .error .bits) = _
    simp only [h6_5, h21_4, h16_5, h11_5, h5_1, h1_4, h0_1]; rfl

theorem frcp (m : BitVec 4) (d : BitVec 5) (a : BitVec 5) (n : BitVec 1) (t : BitVec 4) (p : BitVec 1) : Statement (.frcp m d a n t p) :=
  of_word rfl fun wd hw => by
    have h25_7 : wd.extractLsb' 25 7 = 34#7 := by subst hw; simp (disch := decide) only [ext_hi]; rfl
    have h6_5 : wd.extractLsb' 6 5 = 0#5 := by subst hw; simp (disch := decide) only [ext_hi, ext_lo]; rfl
    have h21_4 : wd.extractLsb' 21 4 = m := by subst hw; simp (disch := decide) only [ext_hi, ext_lo]; exact ext_self
    have h16_5 : wd.extractLsb' 16 5 = d := by subst hw; simp (disch := decide) only [ext_hi, ext_lo]; exact ext_self
    have h11_5 : wd.extractLsb' 11 5 = a := by subst hw; simp (disch := decide) only [ext_hi, ext_lo]; exact ext_self
    have h5_1 : wd.extractLsb' 5 1 = n := by subst hw; simp (disch := decide) only [ext_hi, ext_lo]; exact ext_self
    have h1_4 : wd.extractLsb' 1 4 = t := by subst hw; simp (disch := decide) only [ext_hi, ext_lo]; exact ext_self
    have h0_1 : wd.extractLsb' 0 1 = p := by subst hw; simp (disch := decide) only [ext_lo]; exact ext_self
    clear hw
    show checkFields (rawW wd) = _
    unfold rawW; rw [h25_7]
    show checkFields (if wd.extractLsb' 6 5 == 0 then .ok (.frcp (wd.extractLsb' 21 4) (wd.extractLsb' 16 5) (wd.extractLsb' 11 5) (wd.extractLsb' 5 1) (wd.extractLsb' 1 4) (wd.extractLsb' 0 1)) else .error .bits) = _
    simp only [h6_5, h21_4, h16_5, h11_5, h5_1, h1_4, h0_1]; rfl

theorem frsq (m : BitVec 4) (d : BitVec 5) (a : BitVec 5) (n : BitVec 1) (t : BitVec 4) (p : BitVec 1) : Statement (.frsq m d a n t p) :=
  of_word rfl fun wd hw => by
    have h25_7 : wd.extractLsb' 25 7 = 35#7 := by subst hw; simp (disch := decide) only [ext_hi]; rfl
    have h6_5 : wd.extractLsb' 6 5 = 0#5 := by subst hw; simp (disch := decide) only [ext_hi, ext_lo]; rfl
    have h21_4 : wd.extractLsb' 21 4 = m := by subst hw; simp (disch := decide) only [ext_hi, ext_lo]; exact ext_self
    have h16_5 : wd.extractLsb' 16 5 = d := by subst hw; simp (disch := decide) only [ext_hi, ext_lo]; exact ext_self
    have h11_5 : wd.extractLsb' 11 5 = a := by subst hw; simp (disch := decide) only [ext_hi, ext_lo]; exact ext_self
    have h5_1 : wd.extractLsb' 5 1 = n := by subst hw; simp (disch := decide) only [ext_hi, ext_lo]; exact ext_self
    have h1_4 : wd.extractLsb' 1 4 = t := by subst hw; simp (disch := decide) only [ext_hi, ext_lo]; exact ext_self
    have h0_1 : wd.extractLsb' 0 1 = p := by subst hw; simp (disch := decide) only [ext_lo]; exact ext_self
    clear hw
    show checkFields (rawW wd) = _
    unfold rawW; rw [h25_7]
    show checkFields (if wd.extractLsb' 6 5 == 0 then .ok (.frsq (wd.extractLsb' 21 4) (wd.extractLsb' 16 5) (wd.extractLsb' 11 5) (wd.extractLsb' 5 1) (wd.extractLsb' 1 4) (wd.extractLsb' 0 1)) else .error .bits) = _
    simp only [h6_5, h21_4, h16_5, h11_5, h5_1, h1_4, h0_1]; rfl

theorem fexp2 (m : BitVec 4) (d : BitVec 5) (a : BitVec 5) (n : BitVec 1) (t : BitVec 4) (p : BitVec 1) : Statement (.fexp2 m d a n t p) :=
  of_word rfl fun wd hw => by
    have h25_7 : wd.extractLsb' 25 7 = 36#7 := by subst hw; simp (disch := decide) only [ext_hi]; rfl
    have h6_5 : wd.extractLsb' 6 5 = 0#5 := by subst hw; simp (disch := decide) only [ext_hi, ext_lo]; rfl
    have h21_4 : wd.extractLsb' 21 4 = m := by subst hw; simp (disch := decide) only [ext_hi, ext_lo]; exact ext_self
    have h16_5 : wd.extractLsb' 16 5 = d := by subst hw; simp (disch := decide) only [ext_hi, ext_lo]; exact ext_self
    have h11_5 : wd.extractLsb' 11 5 = a := by subst hw; simp (disch := decide) only [ext_hi, ext_lo]; exact ext_self
    have h5_1 : wd.extractLsb' 5 1 = n := by subst hw; simp (disch := decide) only [ext_hi, ext_lo]; exact ext_self
    have h1_4 : wd.extractLsb' 1 4 = t := by subst hw; simp (disch := decide) only [ext_hi, ext_lo]; exact ext_self
    have h0_1 : wd.extractLsb' 0 1 = p := by subst hw; simp (disch := decide) only [ext_lo]; exact ext_self
    clear hw
    show checkFields (rawW wd) = _
    unfold rawW; rw [h25_7]
    show checkFields (if wd.extractLsb' 6 5 == 0 then .ok (.fexp2 (wd.extractLsb' 21 4) (wd.extractLsb' 16 5) (wd.extractLsb' 11 5) (wd.extractLsb' 5 1) (wd.extractLsb' 1 4) (wd.extractLsb' 0 1)) else .error .bits) = _
    simp only [h6_5, h21_4, h16_5, h11_5, h5_1, h1_4, h0_1]; rfl

theorem flog2 (m : BitVec 4) (d : BitVec 5) (a : BitVec 5) (n : BitVec 1) (t : BitVec 4) (p : BitVec 1) : Statement (.flog2 m d a n t p) :=
  of_word rfl fun wd hw => by
    have h25_7 : wd.extractLsb' 25 7 = 37#7 := by subst hw; simp (disch := decide) only [ext_hi]; rfl
    have h6_5 : wd.extractLsb' 6 5 = 0#5 := by subst hw; simp (disch := decide) only [ext_hi, ext_lo]; rfl
    have h21_4 : wd.extractLsb' 21 4 = m := by subst hw; simp (disch := decide) only [ext_hi, ext_lo]; exact ext_self
    have h16_5 : wd.extractLsb' 16 5 = d := by subst hw; simp (disch := decide) only [ext_hi, ext_lo]; exact ext_self
    have h11_5 : wd.extractLsb' 11 5 = a := by subst hw; simp (disch := decide) only [ext_hi, ext_lo]; exact ext_self
    have h5_1 : wd.extractLsb' 5 1 = n := by subst hw; simp (disch := decide) only [ext_hi, ext_lo]; exact ext_self
    have h1_4 : wd.extractLsb' 1 4 = t := by subst hw; simp (disch := decide) only [ext_hi, ext_lo]; exact ext_self
    have h0_1 : wd.extractLsb' 0 1 = p := by subst hw; simp (disch := decide) only [ext_lo]; exact ext_self
    clear hw
    show checkFields (rawW wd) = _
    unfold rawW; rw [h25_7]
    show checkFields (if wd.extractLsb' 6 5 == 0 then .ok (.flog2 (wd.extractLsb' 21 4) (wd.extractLsb' 16 5) (wd.extractLsb' 11 5) (wd.extractLsb' 5 1) (wd.extractLsb' 1 4) (wd.extractLsb' 0 1)) else .error .bits) = _
    simp only [h6_5, h21_4, h16_5, h11_5, h5_1, h1_4, h0_1]; rfl

theorem mov (m : BitVec 4) (d : BitVec 5) (a : BitVec 5) (p : BitVec 1) : Statement (.mov m d a p) :=
  of_word rfl fun wd hw => by
    have h25_7 : wd.extractLsb' 25 7 = 40#7 := by subst hw; simp (disch := decide) only [ext_hi]; rfl
    have h1_10 : wd.extractLsb' 1 10 = 0#10 := by subst hw; simp (disch := decide) only [ext_hi, ext_lo]; rfl
    have h21_4 : wd.extractLsb' 21 4 = m := by subst hw; simp (disch := decide) only [ext_hi, ext_lo]; exact ext_self
    have h16_5 : wd.extractLsb' 16 5 = d := by subst hw; simp (disch := decide) only [ext_hi, ext_lo]; exact ext_self
    have h11_5 : wd.extractLsb' 11 5 = a := by subst hw; simp (disch := decide) only [ext_hi, ext_lo]; exact ext_self
    have h0_1 : wd.extractLsb' 0 1 = p := by subst hw; simp (disch := decide) only [ext_lo]; exact ext_self
    clear hw
    show checkFields (rawW wd) = _
    unfold rawW; rw [h25_7]
    show checkFields (if wd.extractLsb' 1 10 == 0 then .ok (.mov (wd.extractLsb' 21 4) (wd.extractLsb' 16 5) (wd.extractLsb' 11 5) (wd.extractLsb' 0 1)) else .error .bits) = _
    simp only [h1_10, h21_4, h16_5, h11_5, h0_1]; rfl

theorem movx (m : BitVec 4) (d : BitVec 5) (a : BitVec 5) (p : BitVec 1) : Statement (.movx m d a p) :=
  of_word rfl fun wd hw => by
    have h25_7 : wd.extractLsb' 25 7 = 41#7 := by subst hw; simp (disch := decide) only [ext_hi]; rfl
    have h1_10 : wd.extractLsb' 1 10 = 0#10 := by subst hw; simp (disch := decide) only [ext_hi, ext_lo]; rfl
    have h21_4 : wd.extractLsb' 21 4 = m := by subst hw; simp (disch := decide) only [ext_hi, ext_lo]; exact ext_self
    have h16_5 : wd.extractLsb' 16 5 = d := by subst hw; simp (disch := decide) only [ext_hi, ext_lo]; exact ext_self
    have h11_5 : wd.extractLsb' 11 5 = a := by subst hw; simp (disch := decide) only [ext_hi, ext_lo]; exact ext_self
    have h0_1 : wd.extractLsb' 0 1 = p := by subst hw; simp (disch := decide) only [ext_lo]; exact ext_self
    clear hw
    show checkFields (rawW wd) = _
    unfold rawW; rw [h25_7]
    show checkFields (if wd.extractLsb' 1 10 == 0 then .ok (.movx (wd.extractLsb' 21 4) (wd.extractLsb' 16 5) (wd.extractLsb' 11 5) (wd.extractLsb' 0 1)) else .error .bits) = _
    simp only [h1_10, h21_4, h16_5, h11_5, h0_1]; rfl

theorem movi (m : BitVec 4) (d : BitVec 5) (i : BitVec 10) (t : BitVec 4) (p : BitVec 1) : Statement (.movi m d i t p) :=
  of_word rfl fun wd hw => by
    have h25_7 : wd.extractLsb' 25 7 = 42#7 := by subst hw; simp (disch := decide) only [ext_hi]; rfl
    have h5_1 : wd.extractLsb' 5 1 = 0#1 := by subst hw; simp (disch := decide) only [ext_hi, ext_lo]; rfl
    have h21_4 : wd.extractLsb' 21 4 = m := by subst hw; simp (disch := decide) only [ext_hi, ext_lo]; exact ext_self
    have h16_5 : wd.extractLsb' 16 5 = d := by subst hw; simp (disch := decide) only [ext_hi, ext_lo]; exact ext_self
    have h6_10 : wd.extractLsb' 6 10 = i := by subst hw; simp (disch := decide) only [ext_hi, ext_lo]; exact ext_self
    have h1_4 : wd.extractLsb' 1 4 = t := by subst hw; simp (disch := decide) only [ext_hi, ext_lo]; exact ext_self
    have h0_1 : wd.extractLsb' 0 1 = p := by subst hw; simp (disch := decide) only [ext_lo]; exact ext_self
    clear hw
    show checkFields (rawW wd) = _
    unfold rawW; rw [h25_7]
    show checkFields (if wd.extractLsb' 5 1 == 0 then .ok (.movi (wd.extractLsb' 21 4) (wd.extractLsb' 16 5) (wd.extractLsb' 6 10) (wd.extractLsb' 1 4) (wd.extractLsb' 0 1)) else .error .bits) = _
    simp only [h5_1, h21_4, h16_5, h6_10, h1_4, h0_1]; rfl

theorem cvt (m : BitVec 4) (d : BitVec 5) (a : BitVec 5) (b : BitVec 5) (n : BitVec 1) (t : BitVec 4) (p : BitVec 1) : Statement (.cvt m d a b n t p) :=
  of_word rfl fun wd hw => by
    have h25_7 : wd.extractLsb' 25 7 = 43#7 := by subst hw; simp (disch := decide) only [ext_hi]; rfl
    have h21_4 : wd.extractLsb' 21 4 = m := by subst hw; simp (disch := decide) only [ext_hi, ext_lo]; exact ext_self
    have h16_5 : wd.extractLsb' 16 5 = d := by subst hw; simp (disch := decide) only [ext_hi, ext_lo]; exact ext_self
    have h11_5 : wd.extractLsb' 11 5 = a := by subst hw; simp (disch := decide) only [ext_hi, ext_lo]; exact ext_self
    have h6_5 : wd.extractLsb' 6 5 = b := by subst hw; simp (disch := decide) only [ext_hi, ext_lo]; exact ext_self
    have h5_1 : wd.extractLsb' 5 1 = n := by subst hw; simp (disch := decide) only [ext_hi, ext_lo]; exact ext_self
    have h1_4 : wd.extractLsb' 1 4 = t := by subst hw; simp (disch := decide) only [ext_hi, ext_lo]; exact ext_self
    have h0_1 : wd.extractLsb' 0 1 = p := by subst hw; simp (disch := decide) only [ext_lo]; exact ext_self
    clear hw
    show checkFields (rawW wd) = _
    unfold rawW; rw [h25_7]
    show checkFields (.ok (.cvt (wd.extractLsb' 21 4) (wd.extractLsb' 16 5) (wd.extractLsb' 11 5) (wd.extractLsb' 6 5) (wd.extractLsb' 5 1) (wd.extractLsb' 1 4) (wd.extractLsb' 0 1))) = _
    simp only [h21_4, h16_5, h11_5, h6_5, h5_1, h1_4, h0_1]

theorem cvtsr (m : BitVec 4) (d : BitVec 5) (a : BitVec 5) (b : BitVec 5) (n : BitVec 1) (t : BitVec 4) (p : BitVec 1) : Statement (.cvtsr m d a b n t p) :=
  of_word rfl fun wd hw => by
    have h25_7 : wd.extractLsb' 25 7 = 44#7 := by subst hw; simp (disch := decide) only [ext_hi]; rfl
    have h21_4 : wd.extractLsb' 21 4 = m := by subst hw; simp (disch := decide) only [ext_hi, ext_lo]; exact ext_self
    have h16_5 : wd.extractLsb' 16 5 = d := by subst hw; simp (disch := decide) only [ext_hi, ext_lo]; exact ext_self
    have h11_5 : wd.extractLsb' 11 5 = a := by subst hw; simp (disch := decide) only [ext_hi, ext_lo]; exact ext_self
    have h6_5 : wd.extractLsb' 6 5 = b := by subst hw; simp (disch := decide) only [ext_hi, ext_lo]; exact ext_self
    have h5_1 : wd.extractLsb' 5 1 = n := by subst hw; simp (disch := decide) only [ext_hi, ext_lo]; exact ext_self
    have h1_4 : wd.extractLsb' 1 4 = t := by subst hw; simp (disch := decide) only [ext_hi, ext_lo]; exact ext_self
    have h0_1 : wd.extractLsb' 0 1 = p := by subst hw; simp (disch := decide) only [ext_lo]; exact ext_self
    clear hw
    show checkFields (rawW wd) = _
    unfold rawW; rw [h25_7]
    show checkFields (.ok (.cvtsr (wd.extractLsb' 21 4) (wd.extractLsb' 16 5) (wd.extractLsb' 11 5) (wd.extractLsb' 6 5) (wd.extractLsb' 5 1) (wd.extractLsb' 1 4) (wd.extractLsb' 0 1))) = _
    simp only [h21_4, h16_5, h11_5, h6_5, h5_1, h1_4, h0_1]

theorem srand (m : BitVec 4) (a : BitVec 5) : Statement (.srand m a) :=
  of_word rfl fun wd hw => by
    have h25_7 : wd.extractLsb' 25 7 = 45#7 := by subst hw; simp (disch := decide) only [ext_hi]; rfl
    have h16_5 : wd.extractLsb' 16 5 = 0#5 := by subst hw; simp (disch := decide) only [ext_hi, ext_lo]; rfl
    have h0_11 : wd.extractLsb' 0 11 = 0#11 := by subst hw; simp (disch := decide) only [ext_lo]; rfl
    have h21_4 : wd.extractLsb' 21 4 = m := by subst hw; simp (disch := decide) only [ext_hi, ext_lo]; exact ext_self
    have h11_5 : wd.extractLsb' 11 5 = a := by subst hw; simp (disch := decide) only [ext_hi, ext_lo]; exact ext_self
    clear hw
    show checkFields (rawW wd) = _
    unfold rawW; rw [h25_7]
    show checkFields (if wd.extractLsb' 16 5 == 0 && wd.extractLsb' 0 11 == 0 then .ok (.srand (wd.extractLsb' 21 4) (wd.extractLsb' 11 5)) else .error .bits) = _
    simp only [h16_5, h0_11, h21_4, h11_5]; rfl

theorem lane (m : BitVec 4) (d : BitVec 5) (a : BitVec 5) (r : BitVec 5) (p : BitVec 1) : Statement (.lane m d a r p) :=
  of_word rfl fun wd hw => by
    have h25_7 : wd.extractLsb' 25 7 = 46#7 := by subst hw; simp (disch := decide) only [ext_hi]; rfl
    have h1_5 : wd.extractLsb' 1 5 = 0#5 := by subst hw; simp (disch := decide) only [ext_hi, ext_lo]; rfl
    have h21_4 : wd.extractLsb' 21 4 = m := by subst hw; simp (disch := decide) only [ext_hi, ext_lo]; exact ext_self
    have h16_5 : wd.extractLsb' 16 5 = d := by subst hw; simp (disch := decide) only [ext_hi, ext_lo]; exact ext_self
    have h11_5 : wd.extractLsb' 11 5 = a := by subst hw; simp (disch := decide) only [ext_hi, ext_lo]; exact ext_self
    have h6_5 : wd.extractLsb' 6 5 = r := by subst hw; simp (disch := decide) only [ext_hi, ext_lo]; exact ext_self
    have h0_1 : wd.extractLsb' 0 1 = p := by subst hw; simp (disch := decide) only [ext_lo]; exact ext_self
    clear hw
    show checkFields (rawW wd) = _
    unfold rawW; rw [h25_7]
    show checkFields (if wd.extractLsb' 1 5 == 0 then .ok (.lane (wd.extractLsb' 21 4) (wd.extractLsb' 16 5) (wd.extractLsb' 11 5) (wd.extractLsb' 6 5) (wd.extractLsb' 0 1)) else .error .bits) = _
    simp only [h1_5, h21_4, h16_5, h11_5, h6_5, h0_1]; rfl

theorem cpass (m : BitVec 4) (d : BitVec 5) (a : BitVec 5) (p : BitVec 1) : Statement (.cpass m d a p) :=
  of_word rfl fun wd hw => by
    have h25_7 : wd.extractLsb' 25 7 = 48#7 := by subst hw; simp (disch := decide) only [ext_hi]; rfl
    have h1_10 : wd.extractLsb' 1 10 = 0#10 := by subst hw; simp (disch := decide) only [ext_hi, ext_lo]; rfl
    have h21_4 : wd.extractLsb' 21 4 = m := by subst hw; simp (disch := decide) only [ext_hi, ext_lo]; exact ext_self
    have h16_5 : wd.extractLsb' 16 5 = d := by subst hw; simp (disch := decide) only [ext_hi, ext_lo]; exact ext_self
    have h11_5 : wd.extractLsb' 11 5 = a := by subst hw; simp (disch := decide) only [ext_hi, ext_lo]; exact ext_self
    have h0_1 : wd.extractLsb' 0 1 = p := by subst hw; simp (disch := decide) only [ext_lo]; exact ext_self
    clear hw
    show checkFields (rawW wd) = _
    unfold rawW; rw [h25_7]
    show checkFields (if wd.extractLsb' 1 10 == 0 then .ok (.cpass (wd.extractLsb' 21 4) (wd.extractLsb' 16 5) (wd.extractLsb' 11 5) (wd.extractLsb' 0 1)) else .error .bits) = _
    simp only [h1_10, h21_4, h16_5, h11_5, h0_1]; rfl

theorem cinj (m : BitVec 4) (a : BitVec 5) (b : BitVec 5) : Statement (.cinj m a b) :=
  of_word rfl fun wd hw => by
    have h25_7 : wd.extractLsb' 25 7 = 49#7 := by subst hw; simp (disch := decide) only [ext_hi]; rfl
    have h16_5 : wd.extractLsb' 16 5 = 24#5 := by subst hw; simp (disch := decide) only [ext_hi, ext_lo]; rfl
    have h0_6 : wd.extractLsb' 0 6 = 0#6 := by subst hw; simp (disch := decide) only [ext_lo]; rfl
    have h21_4 : wd.extractLsb' 21 4 = m := by subst hw; simp (disch := decide) only [ext_hi, ext_lo]; exact ext_self
    have h11_5 : wd.extractLsb' 11 5 = a := by subst hw; simp (disch := decide) only [ext_hi, ext_lo]; exact ext_self
    have h6_5 : wd.extractLsb' 6 5 = b := by subst hw; simp (disch := decide) only [ext_hi, ext_lo]; exact ext_self
    clear hw
    show checkFields (rawW wd) = _
    unfold rawW; rw [h25_7]
    show checkFields (if wd.extractLsb' 16 5 == 24 && wd.extractLsb' 0 6 == 0 then .ok (.cinj (wd.extractLsb' 21 4) (wd.extractLsb' 11 5) (wd.extractLsb' 6 5)) else .error .bits) = _
    simp only [h16_5, h0_6, h21_4, h11_5, h6_5]; rfl

theorem cscanAdd (m : BitVec 4) (d : BitVec 3) (a : BitVec 5) (b : BitVec 5) (n : BitVec 1) (t : BitVec 4) (p : BitVec 1) : Statement (.cscanAdd m d a b n t p) :=
  of_word rfl fun wd hw => by
    have h25_7 : wd.extractLsb' 25 7 = 50#7 := by subst hw; simp (disch := decide) only [ext_hi]; rfl
    have h19_2 : wd.extractLsb' 19 2 = 0#2 := by subst hw; simp (disch := decide) only [ext_hi, ext_lo]; rfl
    have h21_4 : wd.extractLsb' 21 4 = m := by subst hw; simp (disch := decide) only [ext_hi, ext_lo]; exact ext_self
    have h16_3 : wd.extractLsb' 16 3 = d := by subst hw; simp (disch := decide) only [ext_hi, ext_lo]; exact ext_self
    have h11_5 : wd.extractLsb' 11 5 = a := by subst hw; simp (disch := decide) only [ext_hi, ext_lo]; exact ext_self
    have h6_5 : wd.extractLsb' 6 5 = b := by subst hw; simp (disch := decide) only [ext_hi, ext_lo]; exact ext_self
    have h5_1 : wd.extractLsb' 5 1 = n := by subst hw; simp (disch := decide) only [ext_hi, ext_lo]; exact ext_self
    have h1_4 : wd.extractLsb' 1 4 = t := by subst hw; simp (disch := decide) only [ext_hi, ext_lo]; exact ext_self
    have h0_1 : wd.extractLsb' 0 1 = p := by subst hw; simp (disch := decide) only [ext_lo]; exact ext_self
    clear hw
    have e : decodeSlot .w wd = checkFields (rawScan wd) := by show checkFields (rawW wd) = _; unfold rawW; rw [h25_7]; rfl
    rw [e]; unfold rawScan; simp only [h19_2, h21_4, h16_3, h11_5, h6_5, h5_1, h1_4, h0_1]; rfl

theorem cscanMax (m : BitVec 4) (d : BitVec 3) (a : BitVec 5) (b : BitVec 5) (n : BitVec 1) (t : BitVec 4) (p : BitVec 1) : Statement (.cscanMax m d a b n t p) :=
  of_word rfl fun wd hw => by
    have h25_7 : wd.extractLsb' 25 7 = 50#7 := by subst hw; simp (disch := decide) only [ext_hi]; rfl
    have h19_2 : wd.extractLsb' 19 2 = 1#2 := by subst hw; simp (disch := decide) only [ext_hi, ext_lo]; rfl
    have h21_4 : wd.extractLsb' 21 4 = m := by subst hw; simp (disch := decide) only [ext_hi, ext_lo]; exact ext_self
    have h16_3 : wd.extractLsb' 16 3 = d := by subst hw; simp (disch := decide) only [ext_hi, ext_lo]; exact ext_self
    have h11_5 : wd.extractLsb' 11 5 = a := by subst hw; simp (disch := decide) only [ext_hi, ext_lo]; exact ext_self
    have h6_5 : wd.extractLsb' 6 5 = b := by subst hw; simp (disch := decide) only [ext_hi, ext_lo]; exact ext_self
    have h5_1 : wd.extractLsb' 5 1 = n := by subst hw; simp (disch := decide) only [ext_hi, ext_lo]; exact ext_self
    have h1_4 : wd.extractLsb' 1 4 = t := by subst hw; simp (disch := decide) only [ext_hi, ext_lo]; exact ext_self
    have h0_1 : wd.extractLsb' 0 1 = p := by subst hw; simp (disch := decide) only [ext_lo]; exact ext_self
    clear hw
    have e : decodeSlot .w wd = checkFields (rawScan wd) := by show checkFields (rawW wd) = _; unfold rawW; rw [h25_7]; rfl
    rw [e]; unfold rawScan; simp only [h19_2, h21_4, h16_3, h11_5, h6_5, h5_1, h1_4, h0_1]; rfl

theorem cscanMin (m : BitVec 4) (d : BitVec 3) (a : BitVec 5) (b : BitVec 5) (n : BitVec 1) (t : BitVec 4) (p : BitVec 1) : Statement (.cscanMin m d a b n t p) :=
  of_word rfl fun wd hw => by
    have h25_7 : wd.extractLsb' 25 7 = 50#7 := by subst hw; simp (disch := decide) only [ext_hi]; rfl
    have h19_2 : wd.extractLsb' 19 2 = 2#2 := by subst hw; simp (disch := decide) only [ext_hi, ext_lo]; rfl
    have h21_4 : wd.extractLsb' 21 4 = m := by subst hw; simp (disch := decide) only [ext_hi, ext_lo]; exact ext_self
    have h16_3 : wd.extractLsb' 16 3 = d := by subst hw; simp (disch := decide) only [ext_hi, ext_lo]; exact ext_self
    have h11_5 : wd.extractLsb' 11 5 = a := by subst hw; simp (disch := decide) only [ext_hi, ext_lo]; exact ext_self
    have h6_5 : wd.extractLsb' 6 5 = b := by subst hw; simp (disch := decide) only [ext_hi, ext_lo]; exact ext_self
    have h5_1 : wd.extractLsb' 5 1 = n := by subst hw; simp (disch := decide) only [ext_hi, ext_lo]; exact ext_self
    have h1_4 : wd.extractLsb' 1 4 = t := by subst hw; simp (disch := decide) only [ext_hi, ext_lo]; exact ext_self
    have h0_1 : wd.extractLsb' 0 1 = p := by subst hw; simp (disch := decide) only [ext_lo]; exact ext_self
    clear hw
    have e : decodeSlot .w wd = checkFields (rawScan wd) := by show checkFields (rawW wd) = _; unfold rawW; rw [h25_7]; rfl
    rw [e]; unfold rawScan; simp only [h19_2, h21_4, h16_3, h11_5, h6_5, h5_1, h1_4, h0_1]; rfl

theorem cscanOr (m : BitVec 4) (d : BitVec 3) (a : BitVec 5) (b : BitVec 5) (n : BitVec 1) (t : BitVec 4) (p : BitVec 1) : Statement (.cscanOr m d a b n t p) :=
  of_word rfl fun wd hw => by
    have h25_7 : wd.extractLsb' 25 7 = 50#7 := by subst hw; simp (disch := decide) only [ext_hi]; rfl
    have h19_2 : wd.extractLsb' 19 2 = 3#2 := by subst hw; simp (disch := decide) only [ext_hi, ext_lo]; rfl
    have h21_4 : wd.extractLsb' 21 4 = m := by subst hw; simp (disch := decide) only [ext_hi, ext_lo]; exact ext_self
    have h16_3 : wd.extractLsb' 16 3 = d := by subst hw; simp (disch := decide) only [ext_hi, ext_lo]; exact ext_self
    have h11_5 : wd.extractLsb' 11 5 = a := by subst hw; simp (disch := decide) only [ext_hi, ext_lo]; exact ext_self
    have h6_5 : wd.extractLsb' 6 5 = b := by subst hw; simp (disch := decide) only [ext_hi, ext_lo]; exact ext_self
    have h5_1 : wd.extractLsb' 5 1 = n := by subst hw; simp (disch := decide) only [ext_hi, ext_lo]; exact ext_self
    have h1_4 : wd.extractLsb' 1 4 = t := by subst hw; simp (disch := decide) only [ext_hi, ext_lo]; exact ext_self
    have h0_1 : wd.extractLsb' 0 1 = p := by subst hw; simp (disch := decide) only [ext_lo]; exact ext_self
    clear hw
    have e : decodeSlot .w wd = checkFields (rawScan wd) := by show checkFields (rawW wd) = _; unfold rawW; rw [h25_7]; rfl
    rw [e]; unfold rawScan; simp only [h19_2, h21_4, h16_3, h11_5, h6_5, h5_1, h1_4, h0_1]; rfl

theorem cwr (m : BitVec 4) (a : BitVec 5) : Statement (.cwr m a) :=
  of_word rfl fun wd hw => by
    have h25_7 : wd.extractLsb' 25 7 = 51#7 := by subst hw; simp (disch := decide) only [ext_hi]; rfl
    have h16_5 : wd.extractLsb' 16 5 = 24#5 := by subst hw; simp (disch := decide) only [ext_hi, ext_lo]; rfl
    have h0_11 : wd.extractLsb' 0 11 = 0#11 := by subst hw; simp (disch := decide) only [ext_lo]; rfl
    have h21_4 : wd.extractLsb' 21 4 = m := by subst hw; simp (disch := decide) only [ext_hi, ext_lo]; exact ext_self
    have h11_5 : wd.extractLsb' 11 5 = a := by subst hw; simp (disch := decide) only [ext_hi, ext_lo]; exact ext_self
    clear hw
    show checkFields (rawW wd) = _
    unfold rawW; rw [h25_7]
    show checkFields (if wd.extractLsb' 16 5 == 24 && wd.extractLsb' 0 11 == 0 then .ok (.cwr (wd.extractLsb' 21 4) (wd.extractLsb' 11 5)) else .error .bits) = _
    simp only [h16_5, h0_11, h21_4, h11_5]; rfl

theorem crd (m : BitVec 4) (d : BitVec 5) (a : BitVec 5) (p : BitVec 1) : Statement (.crd m d a p) :=
  of_word rfl fun wd hw => by
    have h25_7 : wd.extractLsb' 25 7 = 52#7 := by subst hw; simp (disch := decide) only [ext_hi]; rfl
    have h1_10 : wd.extractLsb' 1 10 = 0#10 := by subst hw; simp (disch := decide) only [ext_hi, ext_lo]; rfl
    have h21_4 : wd.extractLsb' 21 4 = m := by subst hw; simp (disch := decide) only [ext_hi, ext_lo]; exact ext_self
    have h16_5 : wd.extractLsb' 16 5 = d := by subst hw; simp (disch := decide) only [ext_hi, ext_lo]; exact ext_self
    have h11_5 : wd.extractLsb' 11 5 = a := by subst hw; simp (disch := decide) only [ext_hi, ext_lo]; exact ext_self
    have h0_1 : wd.extractLsb' 0 1 = p := by subst hw; simp (disch := decide) only [ext_lo]; exact ext_self
    clear hw
    show checkFields (rawW wd) = _
    unfold rawW; rw [h25_7]
    show checkFields (if wd.extractLsb' 1 10 == 0 then .ok (.crd (wd.extractLsb' 21 4) (wd.extractLsb' 16 5) (wd.extractLsb' 11 5) (wd.extractLsb' 0 1)) else .error .bits) = _
    simp only [h1_10, h21_4, h16_5, h11_5, h0_1]; rfl

theorem cld (m : BitVec 4) (d : BitVec 5) (s : BitVec 1) (n : BitVec 2) (i : BitVec 5) (p : BitVec 1) : Statement (.cld m d s n i p) :=
  of_word rfl fun wd hw => by
    have h25_7 : wd.extractLsb' 25 7 = 56#7 := by subst hw; simp (disch := decide) only [ext_hi]; rfl
    have h14_2 : wd.extractLsb' 14 2 = 0#2 := by subst hw; simp (disch := decide) only [ext_hi, ext_lo]; rfl
    have h1_5 : wd.extractLsb' 1 5 = 0#5 := by subst hw; simp (disch := decide) only [ext_hi, ext_lo]; rfl
    have h21_4 : wd.extractLsb' 21 4 = m := by subst hw; simp (disch := decide) only [ext_hi, ext_lo]; exact ext_self
    have h16_5 : wd.extractLsb' 16 5 = d := by subst hw; simp (disch := decide) only [ext_hi, ext_lo]; exact ext_self
    have h13_1 : wd.extractLsb' 13 1 = s := by subst hw; simp (disch := decide) only [ext_hi, ext_lo]; exact ext_self
    have h11_2 : wd.extractLsb' 11 2 = n := by subst hw; simp (disch := decide) only [ext_hi, ext_lo]; exact ext_self
    have h6_5 : wd.extractLsb' 6 5 = i := by subst hw; simp (disch := decide) only [ext_hi, ext_lo]; exact ext_self
    have h0_1 : wd.extractLsb' 0 1 = p := by subst hw; simp (disch := decide) only [ext_lo]; exact ext_self
    clear hw
    show checkFields (rawW wd) = _
    unfold rawW; rw [h25_7]
    show checkFields (if wd.extractLsb' 14 2 == 0 && wd.extractLsb' 1 5 == 0 then .ok (.cld (wd.extractLsb' 21 4) (wd.extractLsb' 16 5) (wd.extractLsb' 13 1) (wd.extractLsb' 11 2) (wd.extractLsb' 6 5) (wd.extractLsb' 0 1)) else .error .bits) = _
    simp only [h14_2, h1_5, h21_4, h16_5, h13_1, h11_2, h6_5, h0_1]; rfl

theorem cst (m : BitVec 4) (d : BitVec 5) (s : BitVec 1) (n : BitVec 2) (i : BitVec 5) (p : BitVec 1) : Statement (.cst m d s n i p) :=
  of_word rfl fun wd hw => by
    have h25_7 : wd.extractLsb' 25 7 = 57#7 := by subst hw; simp (disch := decide) only [ext_hi]; rfl
    have h14_2 : wd.extractLsb' 14 2 = 0#2 := by subst hw; simp (disch := decide) only [ext_hi, ext_lo]; rfl
    have h1_5 : wd.extractLsb' 1 5 = 0#5 := by subst hw; simp (disch := decide) only [ext_hi, ext_lo]; rfl
    have h21_4 : wd.extractLsb' 21 4 = m := by subst hw; simp (disch := decide) only [ext_hi, ext_lo]; exact ext_self
    have h16_5 : wd.extractLsb' 16 5 = d := by subst hw; simp (disch := decide) only [ext_hi, ext_lo]; exact ext_self
    have h13_1 : wd.extractLsb' 13 1 = s := by subst hw; simp (disch := decide) only [ext_hi, ext_lo]; exact ext_self
    have h11_2 : wd.extractLsb' 11 2 = n := by subst hw; simp (disch := decide) only [ext_hi, ext_lo]; exact ext_self
    have h6_5 : wd.extractLsb' 6 5 = i := by subst hw; simp (disch := decide) only [ext_hi, ext_lo]; exact ext_self
    have h0_1 : wd.extractLsb' 0 1 = p := by subst hw; simp (disch := decide) only [ext_lo]; exact ext_self
    clear hw
    show checkFields (rawW wd) = _
    unfold rawW; rw [h25_7]
    show checkFields (if wd.extractLsb' 14 2 == 0 && wd.extractLsb' 1 5 == 0 then .ok (.cst (wd.extractLsb' 21 4) (wd.extractLsb' 16 5) (wd.extractLsb' 13 1) (wd.extractLsb' 11 2) (wd.extractLsb' 6 5) (wd.extractLsb' 0 1)) else .error .bits) = _
    simp only [h14_2, h1_5, h21_4, h16_5, h13_1, h11_2, h6_5, h0_1]; rfl

theorem caaddAdd (m : BitVec 4) (n : BitVec 2) (i : BitVec 10) : Statement (.caaddAdd m n i) :=
  of_word rfl fun wd hw => by
    have h25_7 : wd.extractLsb' 25 7 = 58#7 := by subst hw; simp (disch := decide) only [ext_hi]; rfl
    have h18_3 : wd.extractLsb' 18 3 = 0#3 := by subst hw; simp (disch := decide) only [ext_hi, ext_lo]; rfl
    have h0_6 : wd.extractLsb' 0 6 = 0#6 := by subst hw; simp (disch := decide) only [ext_lo]; rfl
    have h21_4 : wd.extractLsb' 21 4 = m := by subst hw; simp (disch := decide) only [ext_hi, ext_lo]; exact ext_self
    have h16_2 : wd.extractLsb' 16 2 = n := by subst hw; simp (disch := decide) only [ext_hi, ext_lo]; exact ext_self
    have h6_10 : wd.extractLsb' 6 10 = i := by subst hw; simp (disch := decide) only [ext_hi, ext_lo]; exact ext_self
    clear hw
    have e : decodeSlot .w wd = checkFields (rawCaadd wd) := by show checkFields (rawW wd) = _; unfold rawW; rw [h25_7]; rfl
    rw [e]; unfold rawCaadd; simp only [h18_3, h0_6, h21_4, h16_2, h6_10]; rfl

theorem caaddSet (m : BitVec 4) (n : BitVec 2) (i : BitVec 10) : Statement (.caaddSet m n i) :=
  of_word rfl fun wd hw => by
    have h25_7 : wd.extractLsb' 25 7 = 58#7 := by subst hw; simp (disch := decide) only [ext_hi]; rfl
    have h18_3 : wd.extractLsb' 18 3 = 1#3 := by subst hw; simp (disch := decide) only [ext_hi, ext_lo]; rfl
    have h0_6 : wd.extractLsb' 0 6 = 0#6 := by subst hw; simp (disch := decide) only [ext_lo]; rfl
    have h21_4 : wd.extractLsb' 21 4 = m := by subst hw; simp (disch := decide) only [ext_hi, ext_lo]; exact ext_self
    have h16_2 : wd.extractLsb' 16 2 = n := by subst hw; simp (disch := decide) only [ext_hi, ext_lo]; exact ext_self
    have h6_10 : wd.extractLsb' 6 10 = i := by subst hw; simp (disch := decide) only [ext_hi, ext_lo]; exact ext_self
    clear hw
    have e : decodeSlot .w wd = checkFields (rawCaadd wd) := by show checkFields (rawW wd) = _; unfold rawW; rw [h25_7]; rfl
    rw [e]; unfold rawCaadd; simp only [h18_3, h0_6, h21_4, h16_2, h6_10]; rfl

theorem cflag (m : BitVec 4) (d : BitVec 5) : Statement (.cflag m d) :=
  of_word rfl fun wd hw => by
    have h25_7 : wd.extractLsb' 25 7 = 64#7 := by subst hw; simp (disch := decide) only [ext_hi]; rfl
    have h0_16 : wd.extractLsb' 0 16 = 0#16 := by subst hw; simp (disch := decide) only [ext_lo]; rfl
    have h21_4 : wd.extractLsb' 21 4 = m := by subst hw; simp (disch := decide) only [ext_hi, ext_lo]; exact ext_self
    have h16_5 : wd.extractLsb' 16 5 = d := by subst hw; simp (disch := decide) only [ext_hi, ext_lo]; exact ext_self
    clear hw
    show checkFields (rawW wd) = _
    unfold rawW; rw [h25_7]
    show checkFields (if wd.extractLsb' 0 16 == 0 then .ok (.cflag (wd.extractLsb' 21 4) (wd.extractLsb' 16 5)) else .error .bits) = _
    simp only [h0_16, h21_4, h16_5]; rfl

theorem psetOnes (m : BitVec 4) : Statement (.psetOnes m) :=
  of_word rfl fun wd hw => by
    have h25_7 : wd.extractLsb' 25 7 = 65#7 := by subst hw; simp (disch := decide) only [ext_hi]; rfl
    have h0_21 : wd.extractLsb' 0 21 = 0#21 := by subst hw; simp (disch := decide) only [ext_lo]; rfl
    have h21_4 : wd.extractLsb' 21 4 = m := by subst hw; simp (disch := decide) only [ext_hi, ext_lo]; exact ext_self
    clear hw
    have e : decodeSlot .w wd = checkFields (rawPset wd) := by show checkFields (rawW wd) = _; unfold rawW; rw [h25_7]; rfl
    rw [e]; unfold rawPset; simp only [h0_21, h21_4]; rfl

theorem psetZero (m : BitVec 4) : Statement (.psetZero m) :=
  of_word rfl fun wd hw => by
    have h25_7 : wd.extractLsb' 25 7 = 65#7 := by subst hw; simp (disch := decide) only [ext_hi]; rfl
    have h0_21 : wd.extractLsb' 0 21 = 262144#21 := by subst hw; simp (disch := decide) only [ext_lo]; rfl
    have h21_4 : wd.extractLsb' 21 4 = m := by subst hw; simp (disch := decide) only [ext_hi, ext_lo]; exact ext_self
    clear hw
    have e : decodeSlot .w wd = checkFields (rawPset wd) := by show checkFields (rawW wd) = _; unfold rawW; rw [h25_7]; rfl
    rw [e]; unfold rawPset; simp only [h0_21, h21_4]; rfl

theorem psetInv (m : BitVec 4) : Statement (.psetInv m) :=
  of_word rfl fun wd hw => by
    have h25_7 : wd.extractLsb' 25 7 = 65#7 := by subst hw; simp (disch := decide) only [ext_hi]; rfl
    have h0_21 : wd.extractLsb' 0 21 = 524288#21 := by subst hw; simp (disch := decide) only [ext_lo]; rfl
    have h21_4 : wd.extractLsb' 21 4 = m := by subst hw; simp (disch := decide) only [ext_hi, ext_lo]; exact ext_self
    clear hw
    have e : decodeSlot .w wd = checkFields (rawPset wd) := by show checkFields (rawW wd) = _; unfold rawW; rw [h25_7]; rfl
    rw [e]; unfold rawPset; simp only [h0_21, h21_4]; rfl

theorem psetLoad (m : BitVec 4) (a : BitVec 5) : Statement (.psetLoad m a) :=
  of_word rfl fun wd hw => by
    have h25_7 : wd.extractLsb' 25 7 = 65#7 := by subst hw; simp (disch := decide) only [ext_hi]; rfl
    have h16_5 : wd.extractLsb' 16 5 = 12#5 := by subst hw; simp (disch := decide) only [ext_hi, ext_lo]; rfl
    have n0_21_0 : (wd.extractLsb' 0 21 == 0) = false := ext_ne 16 5 h16_5 (by decide) (by decide)
    have n0_21_262144 : (wd.extractLsb' 0 21 == 262144) = false := ext_ne 16 5 h16_5 (by decide) (by decide)
    have n0_21_524288 : (wd.extractLsb' 0 21 == 524288) = false := ext_ne 16 5 h16_5 (by decide) (by decide)
    have h0_11 : wd.extractLsb' 0 11 = 0#11 := by subst hw; simp (disch := decide) only [ext_lo]; rfl
    have h21_4 : wd.extractLsb' 21 4 = m := by subst hw; simp (disch := decide) only [ext_hi, ext_lo]; exact ext_self
    have h11_5 : wd.extractLsb' 11 5 = a := by subst hw; simp (disch := decide) only [ext_hi, ext_lo]; exact ext_self
    clear hw
    have e : decodeSlot .w wd = checkFields (rawPset wd) := by show checkFields (rawW wd) = _; unfold rawW; rw [h25_7]; rfl
    rw [e]; unfold rawPset; simp only [h16_5, h0_11, h21_4, h11_5, n0_21_0, n0_21_262144, n0_21_524288]; rfl

theorem psetSave (m : BitVec 4) (b : BitVec 5) : Statement (.psetSave m b) :=
  of_word rfl fun wd hw => by
    have h25_7 : wd.extractLsb' 25 7 = 65#7 := by subst hw; simp (disch := decide) only [ext_hi]; rfl
    have h11_10 : wd.extractLsb' 11 10 = 512#10 := by subst hw; simp (disch := decide) only [ext_hi, ext_lo]; rfl
    have n0_21_0 : (wd.extractLsb' 0 21 == 0) = false := ext_ne 11 10 h11_10 (by decide) (by decide)
    have n0_21_262144 : (wd.extractLsb' 0 21 == 262144) = false := ext_ne 11 10 h11_10 (by decide) (by decide)
    have n0_21_524288 : (wd.extractLsb' 0 21 == 524288) = false := ext_ne 11 10 h11_10 (by decide) (by decide)
    have h16_5 : wd.extractLsb' 16 5 = 16#5 := by subst hw; simp (disch := decide) only [ext_hi, ext_lo]; rfl
    have q16_5_12 : (16#5 == 12) = false := rfl
    have h0_6 : wd.extractLsb' 0 6 = 0#6 := by subst hw; simp (disch := decide) only [ext_lo]; rfl
    have h21_4 : wd.extractLsb' 21 4 = m := by subst hw; simp (disch := decide) only [ext_hi, ext_lo]; exact ext_self
    have h6_5 : wd.extractLsb' 6 5 = b := by subst hw; simp (disch := decide) only [ext_hi, ext_lo]; exact ext_self
    clear hw
    have e : decodeSlot .w wd = checkFields (rawPset wd) := by show checkFields (rawW wd) = _; unfold rawW; rw [h25_7]; rfl
    rw [e]; unfold rawPset; simp only [h11_10, h16_5, h0_6, h21_4, h6_5, n0_21_0, n0_21_262144, n0_21_524288, q16_5_12, Bool.false_and]; rfl

theorem psetAndl (m : BitVec 4) (a : BitVec 5) : Statement (.psetAndl m a) :=
  of_word rfl fun wd hw => by
    have h25_7 : wd.extractLsb' 25 7 = 65#7 := by subst hw; simp (disch := decide) only [ext_hi]; rfl
    have h16_5 : wd.extractLsb' 16 5 = 20#5 := by subst hw; simp (disch := decide) only [ext_hi, ext_lo]; rfl
    have n0_21_0 : (wd.extractLsb' 0 21 == 0) = false := ext_ne 16 5 h16_5 (by decide) (by decide)
    have n0_21_262144 : (wd.extractLsb' 0 21 == 262144) = false := ext_ne 16 5 h16_5 (by decide) (by decide)
    have n0_21_524288 : (wd.extractLsb' 0 21 == 524288) = false := ext_ne 16 5 h16_5 (by decide) (by decide)
    have h0_11 : wd.extractLsb' 0 11 = 0#11 := by subst hw; simp (disch := decide) only [ext_lo]; rfl
    have h0_6 : wd.extractLsb' 0 6 = 0#6 := by subst hw; simp (disch := decide) only [ext_lo]; rfl
    have n11_10_512 : (wd.extractLsb' 11 10 == 512) = false := ext_ne 5 5 h16_5 (by decide) (by decide)
    have h21_4 : wd.extractLsb' 21 4 = m := by subst hw; simp (disch := decide) only [ext_hi, ext_lo]; exact ext_self
    have h11_5 : wd.extractLsb' 11 5 = a := by subst hw; simp (disch := decide) only [ext_hi, ext_lo]; exact ext_self
    clear hw
    have e : decodeSlot .w wd = checkFields (rawPset wd) := by show checkFields (rawW wd) = _; unfold rawW; rw [h25_7]; rfl
    rw [e]; unfold rawPset; simp only [h16_5, h0_11, h0_6, h21_4, h11_5, n0_21_0, n0_21_262144, n0_21_524288, n11_10_512]; rfl

theorem psetOrl (m : BitVec 4) (a : BitVec 5) : Statement (.psetOrl m a) :=
  of_word rfl fun wd hw => by
    have h25_7 : wd.extractLsb' 25 7 = 65#7 := by subst hw; simp (disch := decide) only [ext_hi]; rfl
    have h16_5 : wd.extractLsb' 16 5 = 24#5 := by subst hw; simp (disch := decide) only [ext_hi, ext_lo]; rfl
    have n0_21_0 : (wd.extractLsb' 0 21 == 0) = false := ext_ne 16 5 h16_5 (by decide) (by decide)
    have n0_21_262144 : (wd.extractLsb' 0 21 == 262144) = false := ext_ne 16 5 h16_5 (by decide) (by decide)
    have n0_21_524288 : (wd.extractLsb' 0 21 == 524288) = false := ext_ne 16 5 h16_5 (by decide) (by decide)
    have h0_11 : wd.extractLsb' 0 11 = 0#11 := by subst hw; simp (disch := decide) only [ext_lo]; rfl
    have h0_6 : wd.extractLsb' 0 6 = 0#6 := by subst hw; simp (disch := decide) only [ext_lo]; rfl
    have n11_10_512 : (wd.extractLsb' 11 10 == 512) = false := ext_ne 5 5 h16_5 (by decide) (by decide)
    have h21_4 : wd.extractLsb' 21 4 = m := by subst hw; simp (disch := decide) only [ext_hi, ext_lo]; exact ext_self
    have h11_5 : wd.extractLsb' 11 5 = a := by subst hw; simp (disch := decide) only [ext_hi, ext_lo]; exact ext_self
    clear hw
    have e : decodeSlot .w wd = checkFields (rawPset wd) := by show checkFields (rawW wd) = _; unfold rawW; rw [h25_7]; rfl
    rw [e]; unfold rawPset; simp only [h16_5, h0_11, h0_6, h21_4, h11_5, n0_21_0, n0_21_262144, n0_21_524288, n11_10_512]; rfl

theorem cxfRead (m : BitVec 4) (d : BitVec 5) (p : BitVec 1) : Statement (.cxfRead m d p) :=
  of_word rfl fun wd hw => by
    have h25_7 : wd.extractLsb' 25 7 = 66#7 := by subst hw; simp (disch := decide) only [ext_hi]; rfl
    have h1_15 : wd.extractLsb' 1 15 = 0#15 := by subst hw; simp (disch := decide) only [ext_hi, ext_lo]; rfl
    have h21_4 : wd.extractLsb' 21 4 = m := by subst hw; simp (disch := decide) only [ext_hi, ext_lo]; exact ext_self
    have h16_5 : wd.extractLsb' 16 5 = d := by subst hw; simp (disch := decide) only [ext_hi, ext_lo]; exact ext_self
    have h0_1 : wd.extractLsb' 0 1 = p := by subst hw; simp (disch := decide) only [ext_lo]; exact ext_self
    clear hw
    have e : decodeSlot .w wd = checkFields (rawCxf wd) := by show checkFields (rawW wd) = _; unfold rawW; rw [h25_7]; rfl
    rw [e]; unfold rawCxf; simp only [h1_15, h21_4, h16_5, h0_1]; rfl

theorem cxfClear (m : BitVec 4) (k : BitVec 5) (p : BitVec 1) : Statement (.cxfClear m k p) :=
  of_word rfl fun wd hw => by
    have h25_7 : wd.extractLsb' 25 7 = 66#7 := by subst hw; simp (disch := decide) only [ext_hi]; rfl
    have h1_10 : wd.extractLsb' 1 10 = 32#10 := by subst hw; simp (disch := decide) only [ext_hi, ext_lo]; rfl
    have n1_15_0 : (wd.extractLsb' 1 15 == 0) = false := ext_ne 0 10 h1_10 (by decide) (by decide)
    have h16_5 : wd.extractLsb' 16 5 = 0#5 := by subst hw; simp (disch := decide) only [ext_hi, ext_lo]; rfl
    have h21_4 : wd.extractLsb' 21 4 = m := by subst hw; simp (disch := decide) only [ext_hi, ext_lo]; exact ext_self
    have h11_5 : wd.extractLsb' 11 5 = k := by subst hw; simp (disch := decide) only [ext_hi, ext_lo]; exact ext_self
    have h0_1 : wd.extractLsb' 0 1 = p := by subst hw; simp (disch := decide) only [ext_lo]; exact ext_self
    clear hw
    have e : decodeSlot .w wd = checkFields (rawCxf wd) := by show checkFields (rawW wd) = _; unfold rawW; rw [h25_7]; rfl
    rw [e]; unfold rawCxf; simp only [h1_10, h16_5, h21_4, h11_5, h0_1, n1_15_0]; rfl

theorem cxfReadclr (m : BitVec 4) (d : BitVec 5) (k : BitVec 5) (p : BitVec 1) : Statement (.cxfReadclr m d k p) :=
  of_word rfl fun wd hw => by
    have h25_7 : wd.extractLsb' 25 7 = 66#7 := by subst hw; simp (disch := decide) only [ext_hi]; rfl
    have h1_10 : wd.extractLsb' 1 10 = 64#10 := by subst hw; simp (disch := decide) only [ext_hi, ext_lo]; rfl
    have n1_15_0 : (wd.extractLsb' 1 15 == 0) = false := ext_ne 0 10 h1_10 (by decide) (by decide)
    have q1_10_32 : (64#10 == 32) = false := rfl
    have h21_4 : wd.extractLsb' 21 4 = m := by subst hw; simp (disch := decide) only [ext_hi, ext_lo]; exact ext_self
    have h16_5 : wd.extractLsb' 16 5 = d := by subst hw; simp (disch := decide) only [ext_hi, ext_lo]; exact ext_self
    have h11_5 : wd.extractLsb' 11 5 = k := by subst hw; simp (disch := decide) only [ext_hi, ext_lo]; exact ext_self
    have h0_1 : wd.extractLsb' 0 1 = p := by subst hw; simp (disch := decide) only [ext_lo]; exact ext_self
    clear hw
    have e : decodeSlot .w wd = checkFields (rawCxf wd) := by show checkFields (rawW wd) = _; unfold rawW; rw [h25_7]; rfl
    rw [e]; unfold rawCxf; simp only [h1_10, h21_4, h16_5, h11_5, h0_1, n1_15_0, q1_10_32, Bool.and_false]; rfl

theorem cstatRead (m : BitVec 4) (d : BitVec 5) : Statement (.cstatRead m d) :=
  of_word rfl fun wd hw => by
    have h25_7 : wd.extractLsb' 25 7 = 67#7 := by subst hw; simp (disch := decide) only [ext_hi]; rfl
    have h0_16 : wd.extractLsb' 0 16 = 0#16 := by subst hw; simp (disch := decide) only [ext_lo]; rfl
    have h21_4 : wd.extractLsb' 21 4 = m := by subst hw; simp (disch := decide) only [ext_hi, ext_lo]; exact ext_self
    have h16_5 : wd.extractLsb' 16 5 = d := by subst hw; simp (disch := decide) only [ext_hi, ext_lo]; exact ext_self
    clear hw
    have e : decodeSlot .w wd = checkFields (rawCstat wd) := by show checkFields (rawW wd) = _; unfold rawW; rw [h25_7]; rfl
    rw [e]; unfold rawCstat; simp only [h0_16, h21_4, h16_5]; rfl

theorem cstatClear (m : BitVec 4) (k : BitVec 2) : Statement (.cstatClear m k) :=
  of_word rfl fun wd hw => by
    have h25_7 : wd.extractLsb' 25 7 = 67#7 := by subst hw; simp (disch := decide) only [ext_hi]; rfl
    have h0_11 : wd.extractLsb' 0 11 = 64#11 := by subst hw; simp (disch := decide) only [ext_lo]; rfl
    have n0_16_0 : (wd.extractLsb' 0 16 == 0) = false := ext_ne 0 11 h0_11 (by decide) (by decide)
    have h13_8 : wd.extractLsb' 13 8 = 0#8 := by subst hw; simp (disch := decide) only [ext_hi, ext_lo]; rfl
    have h21_4 : wd.extractLsb' 21 4 = m := by subst hw; simp (disch := decide) only [ext_hi, ext_lo]; exact ext_self
    have h11_2 : wd.extractLsb' 11 2 = k := by subst hw; simp (disch := decide) only [ext_hi, ext_lo]; exact ext_self
    clear hw
    have e : decodeSlot .w wd = checkFields (rawCstat wd) := by show checkFields (rawW wd) = _; unfold rawW; rw [h25_7]; rfl
    rw [e]; unfold rawCstat; simp only [h0_11, h13_8, h21_4, h11_2, n0_16_0]; rfl

theorem cstatReadclr (m : BitVec 4) (d : BitVec 5) (k : BitVec 2) : Statement (.cstatReadclr m d k) :=
  of_word rfl fun wd hw => by
    have h25_7 : wd.extractLsb' 25 7 = 67#7 := by subst hw; simp (disch := decide) only [ext_hi]; rfl
    have h0_11 : wd.extractLsb' 0 11 = 128#11 := by subst hw; simp (disch := decide) only [ext_lo]; rfl
    have n0_16_0 : (wd.extractLsb' 0 16 == 0) = false := ext_ne 0 11 h0_11 (by decide) (by decide)
    have q0_11_64 : (128#11 == 64) = false := rfl
    have h13_3 : wd.extractLsb' 13 3 = 0#3 := by subst hw; simp (disch := decide) only [ext_hi, ext_lo]; rfl
    have h21_4 : wd.extractLsb' 21 4 = m := by subst hw; simp (disch := decide) only [ext_hi, ext_lo]; exact ext_self
    have h16_5 : wd.extractLsb' 16 5 = d := by subst hw; simp (disch := decide) only [ext_hi, ext_lo]; exact ext_self
    have h11_2 : wd.extractLsb' 11 2 = k := by subst hw; simp (disch := decide) only [ext_hi, ext_lo]; exact ext_self
    clear hw
    have e : decodeSlot .w wd = checkFields (rawCstat wd) := by show checkFields (rawW wd) = _; unfold rawW; rw [h25_7]; rfl
    rw [e]; unfold rawCstat; simp only [h0_11, h13_3, h21_4, h16_5, h11_2, n0_16_0, q0_11_64, Bool.and_false]; rfl

theorem cstatTest (m : BitVec 4) (k : BitVec 2) : Statement (.cstatTest m k) :=
  of_word rfl fun wd hw => by
    have h25_7 : wd.extractLsb' 25 7 = 67#7 := by subst hw; simp (disch := decide) only [ext_hi]; rfl
    have h0_11 : wd.extractLsb' 0 11 = 192#11 := by subst hw; simp (disch := decide) only [ext_lo]; rfl
    have n0_16_0 : (wd.extractLsb' 0 16 == 0) = false := ext_ne 0 11 h0_11 (by decide) (by decide)
    have h13_8 : wd.extractLsb' 13 8 = 0#8 := by subst hw; simp (disch := decide) only [ext_hi, ext_lo]; rfl
    have h13_3 : wd.extractLsb' 13 3 = 0#3 := by subst hw; simp (disch := decide) only [ext_hi, ext_lo]; rfl
    have h21_4 : wd.extractLsb' 21 4 = m := by subst hw; simp (disch := decide) only [ext_hi, ext_lo]; exact ext_self
    have h11_2 : wd.extractLsb' 11 2 = k := by subst hw; simp (disch := decide) only [ext_hi, ext_lo]; exact ext_self
    clear hw
    have e : decodeSlot .w wd = checkFields (rawCstat wd) := by show checkFields (rawW wd) = _; unfold rawW; rw [h25_7]; rfl
    rw [e]; unfold rawCstat; simp only [h0_11, h13_8, h13_3, h21_4, h11_2, n0_16_0]; rfl

theorem mzero (m : BitVec 4) (r : BitVec 2) : Statement (.mzero m r) :=
  of_word rfl fun wd hw => by
    have h25_7 : wd.extractLsb' 25 7 = 72#7 := by subst hw; simp (disch := decide) only [ext_hi]; rfl
    have h18_3 : wd.extractLsb' 18 3 = 0#3 := by subst hw; simp (disch := decide) only [ext_hi, ext_lo]; rfl
    have h0_16 : wd.extractLsb' 0 16 = 0#16 := by subst hw; simp (disch := decide) only [ext_lo]; rfl
    have h21_4 : wd.extractLsb' 21 4 = m := by subst hw; simp (disch := decide) only [ext_hi, ext_lo]; exact ext_self
    have h16_2 : wd.extractLsb' 16 2 = r := by subst hw; simp (disch := decide) only [ext_hi, ext_lo]; exact ext_self
    clear hw
    show checkFields (rawW wd) = _
    unfold rawW; rw [h25_7]
    show checkFields (if wd.extractLsb' 18 3 == 0 && wd.extractLsb' 0 16 == 0 then .ok (.mzero (wd.extractLsb' 21 4) (wd.extractLsb' 16 2)) else .error .bits) = _
    simp only [h18_3, h0_16, h21_4, h16_2]; rfl

theorem mpush (m : BitVec 4) (d : BitVec 5) (a : BitVec 5) : Statement (.mpush m d a) :=
  of_word rfl fun wd hw => by
    have h25_7 : wd.extractLsb' 25 7 = 73#7 := by subst hw; simp (disch := decide) only [ext_hi]; rfl
    have h0_11 : wd.extractLsb' 0 11 = 0#11 := by subst hw; simp (disch := decide) only [ext_lo]; rfl
    have h21_4 : wd.extractLsb' 21 4 = m := by subst hw; simp (disch := decide) only [ext_hi, ext_lo]; exact ext_self
    have h16_5 : wd.extractLsb' 16 5 = d := by subst hw; simp (disch := decide) only [ext_hi, ext_lo]; exact ext_self
    have h11_5 : wd.extractLsb' 11 5 = a := by subst hw; simp (disch := decide) only [ext_hi, ext_lo]; exact ext_self
    clear hw
    show checkFields (rawW wd) = _
    unfold rawW; rw [h25_7]
    show checkFields (if wd.extractLsb' 0 11 == 0 then .ok (.mpush (wd.extractLsb' 21 4) (wd.extractLsb' 16 5) (wd.extractLsb' 11 5)) else .error .bits) = _
    simp only [h0_11, h21_4, h16_5, h11_5]; rfl

theorem mshift (m : BitVec 4) (a : BitVec 5) : Statement (.mshift m a) :=
  of_word rfl fun wd hw => by
    have h25_7 : wd.extractLsb' 25 7 = 74#7 := by subst hw; simp (disch := decide) only [ext_hi]; rfl
    have h16_5 : wd.extractLsb' 16 5 = 24#5 := by subst hw; simp (disch := decide) only [ext_hi, ext_lo]; rfl
    have h0_11 : wd.extractLsb' 0 11 = 0#11 := by subst hw; simp (disch := decide) only [ext_lo]; rfl
    have h21_4 : wd.extractLsb' 21 4 = m := by subst hw; simp (disch := decide) only [ext_hi, ext_lo]; exact ext_self
    have h11_5 : wd.extractLsb' 11 5 = a := by subst hw; simp (disch := decide) only [ext_hi, ext_lo]; exact ext_self
    clear hw
    show checkFields (rawW wd) = _
    unfold rawW; rw [h25_7]
    show checkFields (if wd.extractLsb' 16 5 == 24 && wd.extractLsb' 0 11 == 0 then .ok (.mshift (wd.extractLsb' 21 4) (wd.extractLsb' 11 5)) else .error .bits) = _
    simp only [h16_5, h0_11, h21_4, h11_5]; rfl

theorem macc (m : BitVec 4) (k : BitVec 1) (r : BitVec 2) (a : BitVec 5) (b : BitVec 5) (n : BitVec 1) (y : BitVec 4) (p : BitVec 1) : Statement (.macc m k r a b n y p) :=
  of_word rfl fun wd hw => by
    have h25_7 : wd.extractLsb' 25 7 = 75#7 := by subst hw; simp (disch := decide) only [ext_hi]; rfl
    have h19_2 : wd.extractLsb' 19 2 = 0#2 := by subst hw; simp (disch := decide) only [ext_hi, ext_lo]; rfl
    have h21_4 : wd.extractLsb' 21 4 = m := by subst hw; simp (disch := decide) only [ext_hi, ext_lo]; exact ext_self
    have h18_1 : wd.extractLsb' 18 1 = k := by subst hw; simp (disch := decide) only [ext_hi, ext_lo]; exact ext_self
    have h16_2 : wd.extractLsb' 16 2 = r := by subst hw; simp (disch := decide) only [ext_hi, ext_lo]; exact ext_self
    have h11_5 : wd.extractLsb' 11 5 = a := by subst hw; simp (disch := decide) only [ext_hi, ext_lo]; exact ext_self
    have h6_5 : wd.extractLsb' 6 5 = b := by subst hw; simp (disch := decide) only [ext_hi, ext_lo]; exact ext_self
    have h5_1 : wd.extractLsb' 5 1 = n := by subst hw; simp (disch := decide) only [ext_hi, ext_lo]; exact ext_self
    have h1_4 : wd.extractLsb' 1 4 = y := by subst hw; simp (disch := decide) only [ext_hi, ext_lo]; exact ext_self
    have h0_1 : wd.extractLsb' 0 1 = p := by subst hw; simp (disch := decide) only [ext_lo]; exact ext_self
    clear hw
    show checkFields (rawW wd) = _
    unfold rawW; rw [h25_7]
    show checkFields (if wd.extractLsb' 19 2 == 0 then .ok (.macc (wd.extractLsb' 21 4) (wd.extractLsb' 18 1) (wd.extractLsb' 16 2) (wd.extractLsb' 11 5) (wd.extractLsb' 6 5) (wd.extractLsb' 5 1) (wd.extractLsb' 1 4) (wd.extractLsb' 0 1)) else .error .bits) = _
    simp only [h19_2, h21_4, h18_1, h16_2, h11_5, h6_5, h5_1, h1_4, h0_1]; rfl

theorem maccs (m : BitVec 4) (k : BitVec 1) (r : BitVec 2) (a : BitVec 5) (b : BitVec 5) (n : BitVec 1) (y : BitVec 4) (p : BitVec 1) : Statement (.maccs m k r a b n y p) :=
  of_word rfl fun wd hw => by
    have h25_7 : wd.extractLsb' 25 7 = 76#7 := by subst hw; simp (disch := decide) only [ext_hi]; rfl
    have h19_2 : wd.extractLsb' 19 2 = 0#2 := by subst hw; simp (disch := decide) only [ext_hi, ext_lo]; rfl
    have h21_4 : wd.extractLsb' 21 4 = m := by subst hw; simp (disch := decide) only [ext_hi, ext_lo]; exact ext_self
    have h18_1 : wd.extractLsb' 18 1 = k := by subst hw; simp (disch := decide) only [ext_hi, ext_lo]; exact ext_self
    have h16_2 : wd.extractLsb' 16 2 = r := by subst hw; simp (disch := decide) only [ext_hi, ext_lo]; exact ext_self
    have h11_5 : wd.extractLsb' 11 5 = a := by subst hw; simp (disch := decide) only [ext_hi, ext_lo]; exact ext_self
    have h6_5 : wd.extractLsb' 6 5 = b := by subst hw; simp (disch := decide) only [ext_hi, ext_lo]; exact ext_self
    have h5_1 : wd.extractLsb' 5 1 = n := by subst hw; simp (disch := decide) only [ext_hi, ext_lo]; exact ext_self
    have h1_4 : wd.extractLsb' 1 4 = y := by subst hw; simp (disch := decide) only [ext_hi, ext_lo]; exact ext_self
    have h0_1 : wd.extractLsb' 0 1 = p := by subst hw; simp (disch := decide) only [ext_lo]; exact ext_self
    clear hw
    show checkFields (rawW wd) = _
    unfold rawW; rw [h25_7]
    show checkFields (if wd.extractLsb' 19 2 == 0 then .ok (.maccs (wd.extractLsb' 21 4) (wd.extractLsb' 18 1) (wd.extractLsb' 16 2) (wd.extractLsb' 11 5) (wd.extractLsb' 6 5) (wd.extractLsb' 5 1) (wd.extractLsb' 1 4) (wd.extractLsb' 0 1)) else .error .bits) = _
    simp only [h19_2, h21_4, h18_1, h16_2, h11_5, h6_5, h5_1, h1_4, h0_1]; rfl

theorem mdrain (m : BitVec 4) (z : BitVec 1) (r : BitVec 2) (a : BitVec 5) (q : BitVec 2) : Statement (.mdrain m z r a q) :=
  of_word rfl fun wd hw => by
    have h25_7 : wd.extractLsb' 25 7 = 77#7 := by subst hw; simp (disch := decide) only [ext_hi]; rfl
    have h19_2 : wd.extractLsb' 19 2 = 0#2 := by subst hw; simp (disch := decide) only [ext_hi, ext_lo]; rfl
    have h8_3 : wd.extractLsb' 8 3 = 0#3 := by subst hw; simp (disch := decide) only [ext_hi, ext_lo]; rfl
    have h0_6 : wd.extractLsb' 0 6 = 0#6 := by subst hw; simp (disch := decide) only [ext_lo]; rfl
    have h21_4 : wd.extractLsb' 21 4 = m := by subst hw; simp (disch := decide) only [ext_hi, ext_lo]; exact ext_self
    have h18_1 : wd.extractLsb' 18 1 = z := by subst hw; simp (disch := decide) only [ext_hi, ext_lo]; exact ext_self
    have h16_2 : wd.extractLsb' 16 2 = r := by subst hw; simp (disch := decide) only [ext_hi, ext_lo]; exact ext_self
    have h11_5 : wd.extractLsb' 11 5 = a := by subst hw; simp (disch := decide) only [ext_hi, ext_lo]; exact ext_self
    have h6_2 : wd.extractLsb' 6 2 = q := by subst hw; simp (disch := decide) only [ext_hi, ext_lo]; exact ext_self
    clear hw
    show checkFields (rawW wd) = _
    unfold rawW; rw [h25_7]
    show checkFields (if wd.extractLsb' 19 2 == 0 && wd.extractLsb' 8 3 == 0 && wd.extractLsb' 0 6 == 0 then .ok (.mdrain (wd.extractLsb' 21 4) (wd.extractLsb' 18 1) (wd.extractLsb' 16 2) (wd.extractLsb' 11 5) (wd.extractLsb' 6 2)) else .error .bits) = _
    simp only [h19_2, h8_3, h0_6, h21_4, h18_1, h16_2, h11_5, h6_2]; rfl

theorem mtrOut (m : BitVec 4) (z : BitVec 1) (r : BitVec 2) (a : BitVec 5) (q : BitVec 2) : Statement (.mtrOut m z r a q) :=
  of_word rfl fun wd hw => by
    have h25_7 : wd.extractLsb' 25 7 = 78#7 := by subst hw; simp (disch := decide) only [ext_hi]; rfl
    have h19_2 : wd.extractLsb' 19 2 = 0#2 := by subst hw; simp (disch := decide) only [ext_hi, ext_lo]; rfl
    have h8_3 : wd.extractLsb' 8 3 = 0#3 := by subst hw; simp (disch := decide) only [ext_hi, ext_lo]; rfl
    have h0_6 : wd.extractLsb' 0 6 = 0#6 := by subst hw; simp (disch := decide) only [ext_lo]; rfl
    have h21_4 : wd.extractLsb' 21 4 = m := by subst hw; simp (disch := decide) only [ext_hi, ext_lo]; exact ext_self
    have h18_1 : wd.extractLsb' 18 1 = z := by subst hw; simp (disch := decide) only [ext_hi, ext_lo]; exact ext_self
    have h16_2 : wd.extractLsb' 16 2 = r := by subst hw; simp (disch := decide) only [ext_hi, ext_lo]; exact ext_self
    have h11_5 : wd.extractLsb' 11 5 = a := by subst hw; simp (disch := decide) only [ext_hi, ext_lo]; exact ext_self
    have h6_2 : wd.extractLsb' 6 2 = q := by subst hw; simp (disch := decide) only [ext_hi, ext_lo]; exact ext_self
    clear hw
    have e : decodeSlot .w wd = checkFields (rawMtr wd) := by show checkFields (rawW wd) = _; unfold rawW; rw [h25_7]; rfl
    rw [e]; unfold rawMtr; simp only [h19_2, h8_3, h0_6, h21_4, h18_1, h16_2, h11_5, h6_2]; rfl

theorem mtrIn (m : BitVec 4) (r : BitVec 2) (a : BitVec 5) (q : BitVec 2) : Statement (.mtrIn m r a q) :=
  of_word rfl fun wd hw => by
    have h25_7 : wd.extractLsb' 25 7 = 78#7 := by subst hw; simp (disch := decide) only [ext_hi]; rfl
    have h19_2 : wd.extractLsb' 19 2 = 1#2 := by subst hw; simp (disch := decide) only [ext_hi, ext_lo]; rfl
    have h8_3 : wd.extractLsb' 8 3 = 0#3 := by subst hw; simp (disch := decide) only [ext_hi, ext_lo]; rfl
    have h0_6 : wd.extractLsb' 0 6 = 0#6 := by subst hw; simp (disch := decide) only [ext_lo]; rfl
    have h18_3 : wd.extractLsb' 18 3 = 2#3 := by subst hw; simp (disch := decide) only [ext_hi, ext_lo]; rfl
    have h21_4 : wd.extractLsb' 21 4 = m := by subst hw; simp (disch := decide) only [ext_hi, ext_lo]; exact ext_self
    have h16_2 : wd.extractLsb' 16 2 = r := by subst hw; simp (disch := decide) only [ext_hi, ext_lo]; exact ext_self
    have h11_5 : wd.extractLsb' 11 5 = a := by subst hw; simp (disch := decide) only [ext_hi, ext_lo]; exact ext_self
    have h6_2 : wd.extractLsb' 6 2 = q := by subst hw; simp (disch := decide) only [ext_hi, ext_lo]; exact ext_self
    clear hw
    have e : decodeSlot .w wd = checkFields (rawMtr wd) := by show checkFields (rawW wd) = _; unfold rawW; rw [h25_7]; rfl
    rw [e]; unfold rawMtr; simp only [h19_2, h8_3, h0_6, h18_3, h21_4, h16_2, h11_5, h6_2]; rfl

theorem nope : Statement (.nope) :=
  of_word rfl fun wd hw => by
    have h26_6 : wd.extractLsb' 26 6 = 0#6 := by subst hw; rfl
    have h0_26 : wd.extractLsb' 0 26 = 0#26 := by subst hw; rfl
    clear hw
    show checkFields (rawE wd) = _
    unfold rawE; rw [h26_6]
    show checkFields (if wd.extractLsb' 0 26 == 0 then .ok (.nope) else .error .bits) = _
    simp only [h0_26]; rfl

theorem larm (e : BitVec 2) (h : BitVec 12) (o : BitVec 3) (m : BitVec 9) : Statement (.larm e h o m) :=
  of_word rfl fun wd hw => by
    have h26_6 : wd.extractLsb' 26 6 = 1#6 := by subst hw; simp (disch := decide) only [ext_hi]; rfl
    have h24_2 : wd.extractLsb' 24 2 = e := by subst hw; simp (disch := decide) only [ext_hi, ext_lo]; exact ext_self
    have h12_12 : wd.extractLsb' 12 12 = h := by subst hw; simp (disch := decide) only [ext_hi, ext_lo]; exact ext_self
    have h9_3 : wd.extractLsb' 9 3 = o := by subst hw; simp (disch := decide) only [ext_hi, ext_lo]; exact ext_self
    have h0_9 : wd.extractLsb' 0 9 = m := by subst hw; simp (disch := decide) only [ext_lo]; exact ext_self
    clear hw
    show checkFields (rawE wd) = _
    unfold rawE; rw [h26_6]
    show checkFields (.ok (.larm (wd.extractLsb' 24 2) (wd.extractLsb' 12 12) (wd.extractLsb' 9 3) (wd.extractLsb' 0 9))) = _
    simp only [h24_2, h12_12, h9_3, h0_9]

theorem ldis (e : BitVec 2) : Statement (.ldis e) :=
  of_word rfl fun wd hw => by
    have h26_6 : wd.extractLsb' 26 6 = 2#6 := by subst hw; simp (disch := decide) only [ext_hi]; rfl
    have h0_24 : wd.extractLsb' 0 24 = 0#24 := by subst hw; simp (disch := decide) only [ext_lo]; rfl
    have h24_2 : wd.extractLsb' 24 2 = e := by subst hw; simp (disch := decide) only [ext_hi, ext_lo]; exact ext_self
    clear hw
    show checkFields (rawE wd) = _
    unfold rawE; rw [h26_6]
    show checkFields (if wd.extractLsb' 0 24 == 0 then .ok (.ldis (wd.extractLsb' 24 2)) else .error .bits) = _
    simp only [h0_24, h24_2]; rfl

theorem oset (o : BitVec 3) (i : BitVec 9) : Statement (.oset o i) :=
  of_word rfl fun wd hw => by
    have h26_6 : wd.extractLsb' 26 6 = 3#6 := by subst hw; simp (disch := decide) only [ext_hi]; rfl
    have h12_14 : wd.extractLsb' 12 14 = 0#14 := by subst hw; simp (disch := decide) only [ext_hi]; rfl
    have h9_3 : wd.extractLsb' 9 3 = o := by subst hw; simp (disch := decide) only [ext_hi, ext_lo]; exact ext_self
    have h0_9 : wd.extractLsb' 0 9 = i := by subst hw; simp (disch := decide) only [ext_lo]; exact ext_self
    clear hw
    show checkFields (rawE wd) = _
    unfold rawE; rw [h26_6]
    show checkFields (if wd.extractLsb' 12 14 == 0 then .ok (.oset (wd.extractLsb' 9 3) (wd.extractLsb' 0 9)) else .error .bits) = _
    simp only [h12_14, h9_3, h0_9]; rfl

theorem oinc (o : BitVec 3) (i : BitVec 9) : Statement (.oinc o i) :=
  of_word rfl fun wd hw => by
    have h26_6 : wd.extractLsb' 26 6 = 4#6 := by subst hw; simp (disch := decide) only [ext_hi]; rfl
    have h12_14 : wd.extractLsb' 12 14 = 0#14 := by subst hw; simp (disch := decide) only [ext_hi]; rfl
    have h9_3 : wd.extractLsb' 9 3 = o := by subst hw; simp (disch := decide) only [ext_hi, ext_lo]; exact ext_self
    have h0_9 : wd.extractLsb' 0 9 = i := by subst hw; simp (disch := decide) only [ext_lo]; exact ext_self
    clear hw
    show checkFields (rawE wd) = _
    unfold rawE; rw [h26_6]
    show checkFields (if wd.extractLsb' 12 14 == 0 then .ok (.oinc (wd.extractLsb' 9 3) (wd.extractLsb' 0 9)) else .error .bits) = _
    simp only [h12_14, h9_3, h0_9]; rfl

theorem rcflush (h : BitVec 12) : Statement (.rcflush h) :=
  of_word rfl fun wd hw => by
    have h26_6 : wd.extractLsb' 26 6 = 5#6 := by subst hw; simp (disch := decide) only [ext_hi]; rfl
    have h24_2 : wd.extractLsb' 24 2 = 0#2 := by subst hw; simp (disch := decide) only [ext_hi]; rfl
    have h0_12 : wd.extractLsb' 0 12 = 0#12 := by subst hw; simp (disch := decide) only [ext_lo]; rfl
    have h12_12 : wd.extractLsb' 12 12 = h := by subst hw; simp (disch := decide) only [ext_hi, ext_lo]; exact ext_self
    clear hw
    show checkFields (rawE wd) = _
    unfold rawE; rw [h26_6]
    show checkFields (if wd.extractLsb' 24 2 == 0 && wd.extractLsb' 0 12 == 0 then .ok (.rcflush (wd.extractLsb' 12 12)) else .error .bits) = _
    simp only [h24_2, h0_12, h12_12]; rfl

theorem edrain (e : BitVec 2) (h : BitVec 12) (o : BitVec 3) (p : BitVec 3) (c : BitVec 6) : Statement (.edrain e h o p c) :=
  of_word rfl fun wd hw => by
    have h26_6 : wd.extractLsb' 26 6 = 6#6 := by subst hw; simp (disch := decide) only [ext_hi]; rfl
    have h24_2 : wd.extractLsb' 24 2 = e := by subst hw; simp (disch := decide) only [ext_hi, ext_lo]; exact ext_self
    have h12_12 : wd.extractLsb' 12 12 = h := by subst hw; simp (disch := decide) only [ext_hi, ext_lo]; exact ext_self
    have h9_3 : wd.extractLsb' 9 3 = o := by subst hw; simp (disch := decide) only [ext_hi, ext_lo]; exact ext_self
    have h6_3 : wd.extractLsb' 6 3 = p := by subst hw; simp (disch := decide) only [ext_hi, ext_lo]; exact ext_self
    have h0_6 : wd.extractLsb' 0 6 = c := by subst hw; simp (disch := decide) only [ext_lo]; exact ext_self
    clear hw
    show checkFields (rawE wd) = _
    unfold rawE; rw [h26_6]
    show checkFields (.ok (.edrain (wd.extractLsb' 24 2) (wd.extractLsb' 12 12) (wd.extractLsb' 9 3) (wd.extractLsb' 6 3) (wd.extractLsb' 0 6))) = _
    simp only [h24_2, h12_12, h9_3, h6_3, h0_6]

theorem epld (x : BitVec 12) (p : BitVec 3) : Statement (.epld x p) :=
  of_word rfl fun wd hw => by
    have h26_6 : wd.extractLsb' 26 6 = 7#6 := by subst hw; simp (disch := decide) only [ext_hi]; rfl
    have h24_2 : wd.extractLsb' 24 2 = 0#2 := by subst hw; simp (disch := decide) only [ext_hi]; rfl
    have h9_3 : wd.extractLsb' 9 3 = 0#3 := by subst hw; simp (disch := decide) only [ext_hi, ext_lo]; rfl
    have h0_6 : wd.extractLsb' 0 6 = 0#6 := by subst hw; simp (disch := decide) only [ext_lo]; rfl
    have h12_12 : wd.extractLsb' 12 12 = x := by subst hw; simp (disch := decide) only [ext_hi, ext_lo]; exact ext_self
    have h6_3 : wd.extractLsb' 6 3 = p := by subst hw; simp (disch := decide) only [ext_hi, ext_lo]; exact ext_self
    clear hw
    show checkFields (rawE wd) = _
    unfold rawE; rw [h26_6]
    show checkFields (if wd.extractLsb' 24 2 == 0 && wd.extractLsb' 9 3 == 0 && wd.extractLsb' 0 6 == 0 then .ok (.epld (wd.extractLsb' 12 12) (wd.extractLsb' 6 3)) else .error .bits) = _
    simp only [h24_2, h9_3, h0_6, h12_12, h6_3]; rfl

theorem estop : Statement (.estop) :=
  of_word rfl fun wd hw => by
    have hz : wd.extractLsb' 16 16 = 0#16 := by subst hw; simp (disch := decide) only [ext_hi]; rfl
    have h12_4 : wd.extractLsb' 12 4 = 0#4 := by subst hw; simp (disch := decide) only [ext_lo]; rfl
    have h0_12 : wd.extractLsb' 0 12 = 0#12 := by subst hw; simp (disch := decide) only [ext_lo]; rfl
    clear hw
    have e12_4 : (wd.extractLsb' 0 16).extractLsb' 12 4 = _ := (low16 (by decide)).trans h12_4
    have e0_12 : (wd.extractLsb' 0 16).extractLsb' 0 12 = _ := (low16 (by decide)).trans h0_12
    unfold decodeSlot; simp only [hz]; unfold rawEpilogue; rw [e12_4]
    show checkFields (if (wd.extractLsb' 0 16).extractLsb' 0 12 == 0 then .ok (.estop) else .error .bits) = _
    rw [e0_12]; rfl

theorem epass : Statement (.epass) :=
  of_word rfl fun wd hw => by
    have hz : wd.extractLsb' 16 16 = 0#16 := by subst hw; simp (disch := decide) only [ext_hi]; rfl
    have h12_4 : wd.extractLsb' 12 4 = 1#4 := by subst hw; simp (disch := decide) only [ext_lo]; rfl
    have h0_12 : wd.extractLsb' 0 12 = 0#12 := by subst hw; simp (disch := decide) only [ext_lo]; rfl
    clear hw
    have e12_4 : (wd.extractLsb' 0 16).extractLsb' 12 4 = _ := (low16 (by decide)).trans h12_4
    have e0_12 : (wd.extractLsb' 0 16).extractLsb' 0 12 = _ := (low16 (by decide)).trans h0_12
    unfold decodeSlot; simp only [hz]; unfold rawEpilogue; rw [e12_4]
    show checkFields (if (wd.extractLsb' 0 16).extractLsb' 0 12 == 0 then .ok (.epass) else .error .bits) = _
    rw [e0_12]; rfl

theorem eadd (i : BitVec 12) : Statement (.eadd i) :=
  of_word rfl fun wd hw => by
    have hz : wd.extractLsb' 16 16 = 0#16 := by subst hw; simp (disch := decide) only [ext_hi]; rfl
    have h12_4 : wd.extractLsb' 12 4 = 2#4 := by subst hw; simp (disch := decide) only [ext_hi, ext_lo]; rfl
    have h0_12 : wd.extractLsb' 0 12 = i := by subst hw; simp (disch := decide) only [ext_lo]; exact ext_self
    clear hw
    have e12_4 : (wd.extractLsb' 0 16).extractLsb' 12 4 = _ := (low16 (by decide)).trans h12_4
    have e0_12 : (wd.extractLsb' 0 16).extractLsb' 0 12 = _ := (low16 (by decide)).trans h0_12
    unfold decodeSlot; simp only [hz]; unfold rawEpilogue; rw [e12_4]
    show checkFields (.ok (.eadd ((wd.extractLsb' 0 16).extractLsb' 0 12))) = _
    rw [e0_12]

theorem emul (i : BitVec 12) : Statement (.emul i) :=
  of_word rfl fun wd hw => by
    have hz : wd.extractLsb' 16 16 = 0#16 := by subst hw; simp (disch := decide) only [ext_hi]; rfl
    have h12_4 : wd.extractLsb' 12 4 = 3#4 := by subst hw; simp (disch := decide) only [ext_hi, ext_lo]; rfl
    have h0_12 : wd.extractLsb' 0 12 = i := by subst hw; simp (disch := decide) only [ext_lo]; exact ext_self
    clear hw
    have e12_4 : (wd.extractLsb' 0 16).extractLsb' 12 4 = _ := (low16 (by decide)).trans h12_4
    have e0_12 : (wd.extractLsb' 0 16).extractLsb' 0 12 = _ := (low16 (by decide)).trans h0_12
    unfold decodeSlot; simp only [hz]; unfold rawEpilogue; rw [e12_4]
    show checkFields (.ok (.emul ((wd.extractLsb' 0 16).extractLsb' 0 12))) = _
    rw [e0_12]

theorem erelu : Statement (.erelu) :=
  of_word rfl fun wd hw => by
    have hz : wd.extractLsb' 16 16 = 0#16 := by subst hw; simp (disch := decide) only [ext_hi]; rfl
    have h12_4 : wd.extractLsb' 12 4 = 4#4 := by subst hw; simp (disch := decide) only [ext_lo]; rfl
    have h0_12 : wd.extractLsb' 0 12 = 0#12 := by subst hw; simp (disch := decide) only [ext_lo]; rfl
    clear hw
    have e12_4 : (wd.extractLsb' 0 16).extractLsb' 12 4 = _ := (low16 (by decide)).trans h12_4
    have e0_12 : (wd.extractLsb' 0 16).extractLsb' 0 12 = _ := (low16 (by decide)).trans h0_12
    unfold decodeSlot; simp only [hz]; unfold rawEpilogue; rw [e12_4]
    show checkFields (if (wd.extractLsb' 0 16).extractLsb' 0 12 == 0 then .ok (.erelu) else .error .bits) = _
    rw [e0_12]; rfl

theorem eclmp (i : BitVec 11) : Statement (.eclmp i) :=
  of_word rfl fun wd hw => by
    have hz : wd.extractLsb' 16 16 = 0#16 := by subst hw; simp (disch := decide) only [ext_hi]; rfl
    have h12_4 : wd.extractLsb' 12 4 = 5#4 := by subst hw; simp (disch := decide) only [ext_hi, ext_lo]; rfl
    have h11_1 : wd.extractLsb' 11 1 = 0#1 := by subst hw; simp (disch := decide) only [ext_hi, ext_lo]; rfl
    have h0_11 : wd.extractLsb' 0 11 = i := by subst hw; simp (disch := decide) only [ext_lo]; exact ext_self
    clear hw
    have e12_4 : (wd.extractLsb' 0 16).extractLsb' 12 4 = _ := (low16 (by decide)).trans h12_4
    have e11_1 : (wd.extractLsb' 0 16).extractLsb' 11 1 = _ := (low16 (by decide)).trans h11_1
    have e0_11 : (wd.extractLsb' 0 16).extractLsb' 0 11 = _ := (low16 (by decide)).trans h0_11
    unfold decodeSlot; simp only [hz]; unfold rawEpilogue; rw [e12_4]
    show checkFields (if (wd.extractLsb' 0 16).extractLsb' 11 1 == 0 then .ok (.eclmp ((wd.extractLsb' 0 16).extractLsb' 0 11)) else .error .bits) = _
    rw [e11_1, e0_11]; rfl

theorem ecvt (t : BitVec 4) (s : BitVec 1) : Statement (.ecvt t s) :=
  of_word rfl fun wd hw => by
    have hz : wd.extractLsb' 16 16 = 0#16 := by subst hw; simp (disch := decide) only [ext_hi]; rfl
    have h12_4 : wd.extractLsb' 12 4 = 6#4 := by subst hw; simp (disch := decide) only [ext_hi, ext_lo]; rfl
    have h0_7 : wd.extractLsb' 0 7 = 0#7 := by subst hw; simp (disch := decide) only [ext_lo]; rfl
    have h8_4 : wd.extractLsb' 8 4 = t := by subst hw; simp (disch := decide) only [ext_hi, ext_lo]; exact ext_self
    have h7_1 : wd.extractLsb' 7 1 = s := by subst hw; simp (disch := decide) only [ext_hi, ext_lo]; exact ext_self
    clear hw
    have e12_4 : (wd.extractLsb' 0 16).extractLsb' 12 4 = _ := (low16 (by decide)).trans h12_4
    have e0_7 : (wd.extractLsb' 0 16).extractLsb' 0 7 = _ := (low16 (by decide)).trans h0_7
    have e8_4 : (wd.extractLsb' 0 16).extractLsb' 8 4 = _ := (low16 (by decide)).trans h8_4
    have e7_1 : (wd.extractLsb' 0 16).extractLsb' 7 1 = _ := (low16 (by decide)).trans h7_1
    unfold decodeSlot; simp only [hz]; unfold rawEpilogue; rw [e12_4]
    show checkFields (if (wd.extractLsb' 0 16).extractLsb' 0 7 == 0 then .ok (.ecvt ((wd.extractLsb' 0 16).extractLsb' 8 4) ((wd.extractLsb' 0 16).extractLsb' 7 1)) else .error .bits) = _
    rw [e0_7, e8_4, e7_1]; rfl

theorem wavefrontReach (core : Nat) (tag : Nat) : Statement (.wavefrontReach core tag) := of_none rfl

theorem sfDeliver (core : Nat) (row : Nat) (col : Nat) : Statement (.sfDeliver core row col) := of_none rfl

theorem traySumLand (core : Nat) (row : Nat) (col : Nat) : Statement (.traySumLand core row col) := of_none rfl

theorem flagGroupValid (core : Nat) : Statement (.flagGroupValid core) := of_none rfl

theorem scalarResultLand (core : Nat) : Statement (.scalarResultLand core) := of_none rfl

theorem loadReturn (core : Nat) (idx : Nat) : Statement (.loadReturn core idx) := of_none rfl

theorem recordFetch (core : Nat) (handle : Nat) : Statement (.recordFetch core handle) := of_none rfl

theorem feedFetch (core : Nat) (edge : Nat) : Statement (.feedFetch core edge) := of_none rfl

theorem drainWrite (core : Nat) (edge : Nat) : Statement (.drainWrite core edge) := of_none rfl

theorem epilogueProcess (core : Nat) : Statement (.epilogueProcess core) := of_none rfl

theorem copyStart (core : Nat) (ch : Nat) : Statement (.copyStart core ch) := of_none rfl

theorem copyLineLand (core : Nat) (ch : Nat) : Statement (.copyLineLand core ch) := of_none rfl

theorem remotePostArrive (src : Nat) (dst : Nat) : Statement (.remotePostArrive src dst) := of_none rfl

theorem storeBufferDrain (core : Nat) : Statement (.storeBufferDrain core) := of_none rfl

theorem pageWalk (die : Nat) (asid : Nat) (va : BitVec 64) : Statement (.pageWalk die asid va) := of_none rfl

theorem amoAtomic (core : Nat) (idx : Nat) : Statement (.amoAtomic core idx) := of_none rfl

theorem trapEntry (core : Nat) : Statement (.trapEntry core) := of_none rfl

theorem folopResume (core : Nat) : Statement (.folopResume core) := of_none rfl

theorem folopEnd (core : Nat) : Statement (.folopEnd core) := of_none rfl

theorem preemptRequest (team : Nat) : Statement (.preemptRequest team) := of_none rfl

theorem coreSave (core : Nat) : Statement (.coreSave core) := of_none rfl

theorem coreRestore (core : Nat) : Statement (.coreRestore core) := of_none rfl

theorem drainDeadline (core : Nat) : Statement (.drainDeadline core) := of_none rfl

theorem partitionSwap (outgoing : Nat) (incoming : Nat) : Statement (.partitionSwap outgoing incoming) := of_none rfl

theorem teamKill (team : Nat) : Statement (.teamKill team) := of_none rfl

theorem teamBind (team : Nat) (cores : List Nat) : Statement (.teamBind team cores) := of_none rfl

theorem teamRelease (team : Nat) : Statement (.teamRelease team) := of_none rfl

theorem taskStart (core : Nat) : Statement (.taskStart core) := of_none rfl

theorem joinwComplete (core : Nat) : Statement (.joinwComplete core) := of_none rfl

theorem teamEnd (team : Nat) : Statement (.teamEnd team) := of_none rfl

theorem generatorCut (team : Nat) : Statement (.generatorCut team) := of_none rfl

theorem schedRegisterServe (team : Nat) : Statement (.schedRegisterServe team) := of_none rfl

theorem rds (line : Nat) (die : Nat) : Statement (.rds line die) := of_none rfl

theorem rdx (line : Nat) (die : Nat) : Statement (.rdx line die) := of_none rfl

theorem upg (line : Nat) (die : Nat) : Statement (.upg line die) := of_none rfl

theorem wbx (line : Nat) (die : Nat) (data : BitVec 1024) (mask : BitVec 128) : Statement (.wbx line die data mask) := of_none rfl

theorem evs (line : Nat) (die : Nat) : Statement (.evs line die) := of_none rfl

theorem rdio (line : Nat) : Statement (.rdio line) := of_none rfl

theorem wrio (line : Nat) (data : BitVec 1024) (mask : BitVec 128) : Statement (.wrio line data mask) := of_none rfl

theorem ack (line : Nat) (die : Nat) : Statement (.ack line die) := of_none rfl

theorem inv (line : Nat) (die : Nat) : Statement (.inv line die) := of_none rfl

theorem invack (line : Nat) (die : Nat) : Statement (.invack line die) := of_none rfl

theorem rcls (line : Nat) (die : Nat) : Statement (.rcls line die) := of_none rfl

theorem rcli (line : Nat) (die : Nat) : Statement (.rcli line die) := of_none rfl

theorem rclack (line : Nat) (die : Nat) (held : Bool) (data : BitVec 1024) (mask : BitVec 128) : Statement (.rclack line die held data mask) := of_none rfl

theorem fwdio (line : Nat) (die : Nat) : Statement (.fwdio line die) := of_none rfl

theorem fwdack (line : Nat) (die : Nat) (held : Bool) (data : BitVec 1024) (mask : BitVec 128) : Statement (.fwdack line die held data mask) := of_none rfl

theorem tlbInvalidate (asid : Nat) (va : Nat) (bytes : Nat) : Statement (.tlbInvalidate asid va bytes) := of_none rfl

theorem tlbInvalidateComplete : Statement (.tlbInvalidateComplete) := of_none rfl

theorem hostPostedDeliver : Statement (.hostPostedDeliver) := of_none rfl

theorem reward (pn : Nat) (traj : BitVec 64) (step : BitVec 16) (done : Bool) (value : BitVec 32) : Statement (.reward pn traj step done value) := of_none rfl

theorem registrationServe (core : Nat) : Statement (.registrationServe core) := of_none rfl

theorem popServe (core : Nat) : Statement (.popServe core) := of_none rfl

theorem controlServe (core : Nat) : Statement (.controlServe core) := of_none rfl

theorem deadlineExpiry : Statement (.deadlineExpiry) := of_none rfl

theorem orphanExpiry : Statement (.orphanExpiry) := of_none rfl

theorem backwardScan : Statement (.backwardScan) := of_none rfl

theorem ringAppend (queue : Nat) (stale : Bool) : Statement (.ringAppend queue stale) := of_none rfl

theorem fabricFlit (flit : List (BitVec 8)) : Statement (.fabricFlit flit) := of_none rfl

theorem doorbellWrite (queue : Nat) (w : BitVec 64) : Statement (.doorbellWrite queue w) := of_none rfl

theorem queueEvent (pav : Nat) : Statement (.queueEvent pav) := of_none rfl

theorem launch (pkt : Nat) : Statement (.launch pkt) := of_none rfl

theorem graph (pkt : Nat) : Statement (.graph pkt) := of_none rfl

theorem waitsig (pkt : Nat) : Statement (.waitsig pkt) := of_none rfl

theorem waitsigPoll (pkt : Nat) : Statement (.waitsigPoll pkt) := of_none rfl

theorem waitsigTimeout (pkt : Nat) : Statement (.waitsigTimeout pkt) := of_none rfl

theorem signalStore (pkt : Nat) : Statement (.signalStore pkt) := of_none rfl

theorem signalAdd (pkt : Nat) : Statement (.signalAdd pkt) := of_none rfl

theorem copy (pkt : Nat) : Statement (.copy pkt) := of_none rfl

theorem regionInsert (pkt : Nat) : Statement (.regionInsert pkt) := of_none rfl

theorem regionUpdate (pkt : Nat) : Statement (.regionUpdate pkt) := of_none rfl

theorem regionRemove (pkt : Nat) : Statement (.regionRemove pkt) := of_none rfl

theorem regionKill (pkt : Nat) : Statement (.regionKill pkt) := of_none rfl

theorem packetComplete (pkt : Nat) : Statement (.packetComplete pkt) := of_none rfl

theorem graphKernel (pkt : Nat) : Statement (.graphKernel pkt) := of_none rfl

theorem graphLoop (pkt : Nat) : Statement (.graphLoop pkt) := of_none rfl

theorem graphCond (pkt : Nat) : Statement (.graphCond pkt) := of_none rfl

theorem graphSignal (pkt : Nat) : Statement (.graphSignal pkt) := of_none rfl

theorem graphEnd (pkt : Nat) : Statement (.graphEnd pkt) := of_none rfl

theorem irqSend (queue : Nat) : Statement (.irqSend queue) := of_none rfl

theorem asidDrained (asid : Nat) : Statement (.asidDrained asid) := of_none rfl

theorem asidnew : Statement (.asidnew) := of_none rfl

theorem asiddel : Statement (.asiddel) := of_none rfl

theorem mapPages : Statement (.mapPages) := of_none rfl

theorem unmapPages : Statement (.unmapPages) := of_none rfl

theorem qnew : Statement (.qnew) := of_none rfl

theorem qctl : Statement (.qctl) := of_none rfl

theorem part : Statement (.part) := of_none rfl

theorem attest : Statement (.attest) := of_none rfl

theorem doorbell : Statement (.doorbell) := of_none rfl

theorem islandToA0 (isl : Nat) (seq : BitVec 8) : Statement (.islandToA0 isl seq) := of_none rfl

theorem islandToA1 (isl : Nat) (seq : BitVec 8) : Statement (.islandToA1 isl seq) := of_none rfl

theorem islandToA2 (isl : Nat) (seq : BitVec 8) : Statement (.islandToA2 isl seq) := of_none rfl

theorem islandToRet (isl : Nat) (seq : BitVec 8) : Statement (.islandToRet isl seq) := of_none rfl

theorem islandToOff (isl : Nat) (seq : BitVec 8) : Statement (.islandToOff isl seq) := of_none rfl

theorem powerCommandDone : Statement (.powerCommandDone) := of_none rfl

theorem tripClear (isl : Nat) : Statement (.tripClear isl) := of_none rfl

theorem pcapWrite (value : BitVec 64) : Statement (.pcapWrite value) := of_none rfl

theorem budgetLend (lender : Nat) (borrower : Nat) (units : Nat) : Statement (.budgetLend lender borrower units) := of_none rfl

theorem budgetRepay (borrower : Nat) (lender : Nat) (units : Nat) : Statement (.budgetRepay borrower lender units) := of_none rfl

theorem thermalTrip (isl : Nat) : Statement (.thermalTrip isl) := of_none rfl

theorem thermalShutdown : Statement (.thermalShutdown) := of_none rfl

theorem powerOnReset : Statement (.powerOnReset) := of_none rfl

theorem eccCorrected (block : Nat) : Statement (.eccCorrected block) := of_none rfl

theorem eccUncorrectable (block : Nat) (core : Nat) (unit : Nat) (row : Nat) (col : Nat) (retryOk : Bool) : Statement (.eccUncorrectable block core unit row col retryOk) := of_none rfl

theorem counterFlush : Statement (.counterFlush) := of_none rfl

theorem orderlyPowerOff : Statement (.orderlyPowerOff) := of_none rfl

theorem registerWrite (offset : Nat) (bytes : Nat) (value : BitVec 64) : Statement (.registerWrite offset bytes value) := of_none rfl

theorem ringOutOfSequence (tag : BitVec 64) : Statement (.ringOutOfSequence tag) := of_none rfl

theorem pcmdReservedState (isl : Nat) (seq : BitVec 8) : Statement (.pcmdReservedState isl seq) := of_none rfl

theorem suddenLossOfPower : Statement (.suddenLossOfPower) := of_none rfl

end Sys2Proof.Laws.RoundTrip
end

