-- ==== Sys2Proof/Tests/Slice0.lean ====
section
/-! SUPPORT. Tests: ill-formed terms that the check refuses, words of the spec's encodings, single steps with results taken
from the spec's tables and worked examples, and for every obligation with hypotheses a concrete state that meets them. -/

namespace Sys2Proof.Tests
set_option Elab.async false
open Sys2Proof Sys2Proof.Machine Sys2Proof.Claims

/-! ### Ill-formed instructions -/

theorem test_ill_formed_sequencer :
    Instr.wf (.kpost 0 0 0 19 1) = false ∧ Instr.wf (.barr 0 0 19 1) = false ∧ Instr.wf (.shi 0 0 3 0) = false ∧
    Instr.wf (.bc 15 0 0 0) = false ∧ Instr.wf (.bef 12 0 0 0) = false ∧ Instr.wf (.bef 0 0 28 0) = false ∧
    Instr.wf (.ld 0 0 6 0 0) = false ∧ Instr.wf (.ldu 0 0 7 2 0) = false ∧ Instr.wf (.ldu 0 0 0 3 0) = false ∧
    Instr.wf (.st 0 0 6 0 0) = false ∧ Instr.wf (.fence 0) = false ∧ Instr.wf (.fence 7) = false ∧
    Instr.wf (.cacheWb 0 1 0) = false ∧ Instr.wf (.cacheWb 0 7 0) = false ∧ Instr.wf (.cacheInv 0 1 0) = false ∧
    Instr.wf (.cacheInv 0 6 0) = false ∧ Instr.wf (.cacheWbinv 0 0 0) = false ∧ Instr.wf (.cacheWbinv 0 7 0) = false ∧
    Instr.wf (.cacheEvict 0 0 0) = false ∧ Instr.wf (.cacheEvict 0 6 0) = false ∧ Instr.wf (.amoAdd 19 0 0 6 3 1) = false ∧
    Instr.wf (.amoAdd 24 0 0 1 0 1) = false ∧ Instr.wf (.amoAdd 2 0 0 1 3 0) = false ∧ Instr.wf (.amoAnd 0 0 0 7 3 1) = false ∧
    Instr.wf (.amoAnd 0 0 0 4 1 0) = false ∧ Instr.wf (.amoAnd 25 0 0 5 2 0) = false ∧ Instr.wf (.amoOr 24 0 0 6 3 1) = false ∧
    Instr.wf (.amoOr 27 0 0 3 1 1) = false ∧ Instr.wf (.amoOr 10 0 0 1 3 0) = false ∧ Instr.wf (.amoXor 31 0 0 7 2 1) = false ∧
    Instr.wf (.amoXor 7 0 0 3 0 1) = false ∧ Instr.wf (.amoXor 10 0 0 0 2 0) = false ∧ Instr.wf (.amoMin 24 0 0 6 3 1) = false ∧
    Instr.wf (.amoMin 8 0 0 2 0 1) = false ∧ Instr.wf (.amoMin 8 0 0 1 2 0) = false ∧ Instr.wf (.amoMax 3 0 0 6 2 1) = false ∧
    Instr.wf (.amoMax 28 0 0 3 0 1) = false ∧ Instr.wf (.amoMax 15 0 0 2 2 0) = false ∧ Instr.wf (.amoMinu 28 0 0 6 2 1) = false ∧
    Instr.wf (.amoMinu 12 0 0 3 1 1) = false ∧ Instr.wf (.amoMinu 31 0 0 3 3 0) = false ∧ Instr.wf (.amoMaxu 8 0 0 7 3 1) = false ∧
    Instr.wf (.amoMaxu 31 0 0 1 0 1) = false := by decide +kernel

theorem test_ill_formed_cell_float :
    Instr.wf (.amoMaxu 5 0 0 4 2 0) = false ∧ Instr.wf (.amoSwap 2 0 0 7 3 1) = false ∧ Instr.wf (.amoSwap 11 0 0 0 0 1) = false ∧
    Instr.wf (.amoSwap 24 0 0 2 2 0) = false ∧ Instr.wf (.amoCas 0 0 0 6 3) = false ∧ Instr.wf (.amoCas 0 0 0 4 0) = false ∧
    Instr.wf (.amoIncw 10 0 0 7 3 1) = false ∧ Instr.wf (.amoIncw 19 0 0 1 1 1) = false ∧ Instr.wf (.amoIncw 11 0 0 4 2 0) = false ∧
    Instr.wf (.amoFaddb 0 0 0 6 2) = false ∧ Instr.wf (.amoFaddb 0 0 0 1 0) = false ∧ Instr.wf (.amoFaddF32 3 0 0 6 1) = false ∧
    Instr.wf (.amoFaddF32 19 0 0 5 0) = false ∧ Instr.wf (.amoFaddBf16 8 0 0 6 1 0) = false ∧ Instr.wf (.amoFaddBf16 10 0 0 3 0 0) = false ∧
    Instr.wf (.ctlrd 0 11) = false ∧ Instr.wf (.ctlwr 0 1984) = false ∧ Instr.wf (.schrd 0 24) = false ∧
    Instr.wf (.schwr 0 4) = false ∧ Instr.wf (.msel 0 0 0) = false ∧ Instr.wf (.msel 27 0 0) = false ∧
    Instr.wf (.efrd 0 15) = false ∧ Instr.wf (.joinw 0 0) = false ∧ Instr.wf (.tilenext 0) = false ∧
    Instr.wf (.rjctl 0 15 11) = false ∧ Instr.wf (.fadd 0 25 23 31 0 0 0) = false ∧ Instr.wf (.fadd 0 8 27 4 0 4 0) = false ∧
    Instr.wf (.fadd 0 15 8 25 0 0 0) = false ∧ Instr.wf (.fadd 0 4 28 2 0 12 0) = false ∧ Instr.wf (.fsub 0 25 13 28 0 3 0) = false ∧
    Instr.wf (.fsub 0 10 25 10 0 1 0) = false ∧ Instr.wf (.fsub 0 24 12 27 0 4 0) = false ∧ Instr.wf (.fsub 0 0 8 9 0 9 0) = false ∧
    Instr.wf (.fmul 0 28 13 1 0 1 0) = false ∧ Instr.wf (.fmul 0 1 27 6 0 3 0) = false ∧ Instr.wf (.fmul 0 0 9 25 0 3 0) = false ∧
    Instr.wf (.fmul 0 7 3 4 0 5 0) = false ∧ Instr.wf (.ffma 0 28 15 28 0 3 0) = false ∧ Instr.wf (.ffma 0 23 27 19 0 2 0) = false ∧
    Instr.wf (.ffma 0 19 19 25 0 0 0) = false ∧ Instr.wf (.ffma 0 4 28 2 0 8 0) = false ∧ Instr.wf (.ffms 0 31 28 19 0 4 0) = false ∧
    Instr.wf (.ffms 0 24 25 13 0 4 0) = false := by decide +kernel

theorem test_ill_formed_cell_integer :
    Instr.wf (.ffms 0 4 8 27 0 4 0) = false ∧ Instr.wf (.ffms 0 13 19 13 0 13 0) = false ∧ Instr.wf (.fmin 0 25 7 19 0 1 0) = false ∧
    Instr.wf (.fmin 0 19 25 13 0 2 0) = false ∧ Instr.wf (.fmin 0 5 23 27 0 4 0) = false ∧ Instr.wf (.fmin 0 9 13 19 0 5 0) = false ∧
    Instr.wf (.fmax 0 28 23 19 0 3 0) = false ∧ Instr.wf (.fmax 0 19 25 9 0 4 0) = false ∧ Instr.wf (.fmax 0 23 0 25 0 4 0) = false ∧
    Instr.wf (.fmax 0 5 6 2 0 12 0) = false ∧ Instr.wf (.fabs 0 31 12 0 0 0) = false ∧ Instr.wf (.fabs 0 6 27 0 1 0) = false ∧
    Instr.wf (.fabs 0 19 7 0 6 0) = false ∧ Instr.wf (.fneg 0 31 5 0 2 0) = false ∧ Instr.wf (.fneg 0 24 25 0 3 0) = false ∧
    Instr.wf (.fneg 0 24 4 0 9 0) = false ∧ Instr.wf (.fcmp 0 27 6 4 0 3 0) = false ∧ Instr.wf (.fcmp 0 3 27 15 0 0 0) = false ∧
    Instr.wf (.fcmp 0 4 8 27 0 1 0) = false ∧ Instr.wf (.fcmp 0 1 4 13 0 7 0) = false ∧ Instr.wf (.sel 0 28 13 11 0) = false ∧
    Instr.wf (.sel 0 24 27 8 0) = false ∧ Instr.wf (.sel 0 3 31 27 0) = false ∧ Instr.wf (.iadd 0 25 3 31 0 8 0) = false ∧
    Instr.wf (.iadd 0 5 25 9 0 7 0) = false ∧ Instr.wf (.iadd 0 4 9 25 0 8 0) = false ∧ Instr.wf (.iadd 0 19 3 15 0 3 0) = false ∧
    Instr.wf (.isub 0 27 15 11 0 9 0) = false ∧ Instr.wf (.isub 0 7 27 11 0 8 0) = false ∧ Instr.wf (.isub 0 5 7 25 0 7 0) = false ∧
    Instr.wf (.isub 0 1 11 11 0 11 0) = false ∧ Instr.wf (.imul 0 25 28 31 0 7 0) = false ∧ Instr.wf (.imul 0 24 27 13 0 6 0) = false ∧
    Instr.wf (.imul 0 5 9 25 0 7 0) = false ∧ Instr.wf (.imul 0 1 28 3 0 11 0) = false ∧ Instr.wf (.imac 0 27 31 0 0 8 0) = false ∧
    Instr.wf (.imac 0 24 25 10 0 7 0) = false ∧ Instr.wf (.imac 0 2 24 25 0 6 0) = false ∧ Instr.wf (.imac 0 8 31 4 0 0 0) = false ∧
    Instr.wf (.qmul 0 25 6 12 0 9 0) = false ∧ Instr.wf (.qmul 0 1 25 9 0 9 0) = false ∧ Instr.wf (.qmul 0 8 8 25 0 10 0) = false ∧
    Instr.wf (.qmul 0 13 31 11 0 8 0) = false := by decide +kernel

theorem test_ill_formed_cell_moves :
    Instr.wf (.qmac 0 25 31 19 0 10 0) = false ∧ Instr.wf (.qmac 0 9 25 3 0 9 0) = false ∧ Instr.wf (.qmac 0 6 10 25 0 10 0) = false ∧
    Instr.wf (.qmac 0 9 7 19 0 4 0) = false ∧ Instr.wf (.wAnd 0 27 24 1 0 7 0) = false ∧ Instr.wf (.wAnd 0 19 25 31 0 7 0) = false ∧
    Instr.wf (.wAnd 0 5 8 27 0 6 0) = false ∧ Instr.wf (.wAnd 0 24 12 19 0 3 0) = false ∧ Instr.wf (.wOr 0 27 7 13 0 7 0) = false ∧
    Instr.wf (.wOr 0 23 25 11 0 6 0) = false ∧ Instr.wf (.wOr 0 8 7 27 0 8 0) = false ∧ Instr.wf (.wOr 0 1 23 4 0 2 0) = false ∧
    Instr.wf (.wXor 0 28 5 12 0 7 0) = false ∧ Instr.wf (.wXor 0 4 27 11 0 8 0) = false ∧ Instr.wf (.wXor 0 5 0 25 0 7 0) = false ∧
    Instr.wf (.wXor 0 9 10 8 0 1 0) = false ∧ Instr.wf (.wShl 0 28 31 15 0 8 0) = false ∧ Instr.wf (.wShl 0 15 27 2 0 7 0) = false ∧
    Instr.wf (.wShl 0 6 1 25 0 6 0) = false ∧ Instr.wf (.wShl 0 2 6 1 0 4 0) = false ∧ Instr.wf (.wShr 0 25 3 0 0 8 0) = false ∧
    Instr.wf (.wShr 0 10 27 12 0 7 0) = false ∧ Instr.wf (.wShr 0 5 13 25 0 8 0) = false ∧ Instr.wf (.wShr 0 1 2 15 0 3 0) = false ∧
    Instr.wf (.wSar 0 28 1 7 0 8 0) = false ∧ Instr.wf (.wSar 0 8 25 6 0 6 0) = false ∧ Instr.wf (.wSar 0 10 0 25 0 6 0) = false ∧
    Instr.wf (.wSar 0 7 1 11 0 5 0) = false ∧ Instr.wf (.icmp 0 3 27 2 0 9 0) = false ∧ Instr.wf (.icmp 0 0 1 27 0 8 0) = false ∧
    Instr.wf (.icmp 0 0 10 9 0 11 0) = false ∧ Instr.wf (.icmp 0 24 2 1 0 8 0) = false ∧ Instr.wf (.icmp 0 6 12 13 0 9 0) = false ∧
    Instr.wf (.imin 0 31 31 11 0 6 0) = false ∧ Instr.wf (.imin 0 15 27 6 0 10 0) = false ∧ Instr.wf (.imin 0 11 5 27 0 6 0) = false ∧
    Instr.wf (.imin 0 8 19 11 0 11 0) = false ∧ Instr.wf (.imax 0 28 31 9 0 8 0) = false ∧ Instr.wf (.imax 0 24 27 4 0 6 0) = false ∧
    Instr.wf (.imax 0 7 19 27 0 9 0) = false ∧ Instr.wf (.imax 0 0 31 2 0 5 0) = false ∧ Instr.wf (.fdiv 0 7 19 19 0 2 0) = false ∧
    Instr.wf (.fdiv 0 15 6 15 0 2 0) = false := by decide +kernel

theorem test_ill_formed_matrix_and_edge :
    Instr.wf (.fdiv 0 15 13 31 0 0 0) = false ∧ Instr.wf (.fdiv 0 12 19 12 0 10 0) = false ∧ Instr.wf (.fsqrt 0 9 19 0 0 0) = false ∧
    Instr.wf (.fsqrt 0 15 27 0 1 0) = false ∧ Instr.wf (.fsqrt 0 23 15 0 5 0) = false ∧ Instr.wf (.frcp 0 4 23 0 2 0) = false ∧
    Instr.wf (.frcp 0 13 8 0 0 0) = false ∧ Instr.wf (.frcp 0 23 19 0 3 0) = false ∧ Instr.wf (.frsq 0 10 13 0 0 0) = false ∧
    Instr.wf (.frsq 0 19 3 0 2 0) = false ∧ Instr.wf (.frsq 0 19 19 0 12 0) = false ∧ Instr.wf (.fexp2 0 8 19 0 1 0) = false ∧
    Instr.wf (.fexp2 0 23 31 0 0 0) = false ∧ Instr.wf (.fexp2 0 15 12 0 10 0) = false ∧ Instr.wf (.flog2 0 27 19 0 0 0) = false ∧
    Instr.wf (.flog2 0 13 11 0 0 0) = false ∧ Instr.wf (.flog2 0 13 19 0 3 0) = false ∧ Instr.wf (.mov 0 28 4 0) = false ∧
    Instr.wf (.mov 0 3 27 0) = false ∧ Instr.wf (.mov 0 5 15 0) = false ∧ Instr.wf (.movx 0 24 13 0) = false ∧
    Instr.wf (.movx 0 19 28 0) = false ∧ Instr.wf (.movx 0 0 4 0) = false ∧ Instr.wf (.movi 0 25 0 0 0) = false ∧
    Instr.wf (.movi 0 6 0 12 0) = false ∧ Instr.wf (.cvt 0 27 31 8 0 10 0) = false ∧ Instr.wf (.cvt 0 10 25 3 0 9 0) = false ∧
    Instr.wf (.cvt 0 19 13 1 0 13 0) = false ∧ Instr.wf (.cvt 0 23 8 24 0 7 0) = false ∧ Instr.wf (.cvtsr 0 25 9 1 0 0 0) = false ∧
    Instr.wf (.cvtsr 0 8 27 3 0 0 0) = false ∧ Instr.wf (.cvtsr 0 7 9 3 0 6 0) = false ∧ Instr.wf (.cvtsr 0 15 6 0 0 2 0) = false ∧
    Instr.wf (.cvtsr 0 7 9 23 0 2 0) = false ∧ Instr.wf (.cvtsr 0 6 8 1 0 1 0) = false ∧ Instr.wf (.srand 0 25) = false ∧
    Instr.wf (.lane 0 25 2 0 0) = false ∧ Instr.wf (.lane 0 0 25 0 0) = false ∧ Instr.wf (.lane 0 9 13 0 0) = false ∧
    Instr.wf (.cpass 0 15 28 0) = false ∧ Instr.wf (.cpass 0 11 6 0) = false ∧ Instr.wf (.cinj 0 28 28) = false ∧
    Instr.wf (.cinj 0 7 7) = false := by decide +kernel

theorem test_ill_formed_events_of_cores :
    Instr.wf (.cscanAdd 0 0 12 7 0 0 0) = false ∧ Instr.wf (.cscanAdd 0 0 31 28 0 2 0) = false ∧ Instr.wf (.cscanAdd 0 0 28 3 0 11 0) = false ∧
    Instr.wf (.cscanMax 0 0 25 0 0 3 0) = false ∧ Instr.wf (.cscanMax 0 0 31 19 0 8 0) = false ∧ Instr.wf (.cscanMax 0 0 28 5 0 5 0) = false ∧
    Instr.wf (.cscanMin 0 0 7 6 0 3 0) = false ∧ Instr.wf (.cscanMin 0 0 28 15 0 9 0) = false ∧ Instr.wf (.cscanMin 0 0 28 1 0 13 0) = false ∧
    Instr.wf (.cscanOr 0 0 25 0 0 6 0) = false ∧ Instr.wf (.cscanOr 0 0 31 15 0 8 0) = false ∧ Instr.wf (.cscanOr 0 0 31 6 0 4 0) = false ∧
    Instr.wf (.cwr 0 19) = false ∧ Instr.wf (.crd 0 23 31 0) = false ∧ Instr.wf (.crd 0 8 10 0) = false ∧
    Instr.wf (.cld 0 28 1 0 0 0) = false ∧ Instr.wf (.cld 0 5 1 0 0 1) = false ∧ Instr.wf (.cst 0 31 0 0 0 0) = false ∧
    Instr.wf (.cst 0 19 1 0 0 1) = false ∧ Instr.wf (.cflag 0 9) = false ∧ Instr.wf (.psetLoad 0 25) = false ∧
    Instr.wf (.psetSave 0 31) = false ∧ Instr.wf (.psetAndl 0 25) = false ∧ Instr.wf (.psetOrl 0 25) = false ∧
    Instr.wf (.cxfRead 0 28 0) = false ∧ Instr.wf (.cxfReadclr 0 31 0 0) = false ∧ Instr.wf (.cstatRead 0 27) = false ∧
    Instr.wf (.cstatReadclr 0 28 0) = false ∧ Instr.wf (.mpush 0 25 31) = false ∧ Instr.wf (.mpush 0 9 27) = false ∧
    Instr.wf (.mshift 0 19) = false ∧ Instr.wf (.macc 0 0 0 27 3 0 4 0) = false ∧ Instr.wf (.macc 0 0 0 1 15 0 4 0) = false ∧
    Instr.wf (.macc 0 0 0 31 4 0 7 0) = false ∧ Instr.wf (.maccs 0 0 0 15 6 0 4 0) = false ∧ Instr.wf (.maccs 0 0 0 7 12 0 1 0) = false ∧
    Instr.wf (.maccs 0 0 0 4 11 0 0 0) = false ∧ Instr.wf (.maccs 0 0 0 7 8 0 13 0) = false ∧ Instr.wf (.mdrain 0 0 0 3 0) = false ∧
    Instr.wf (.mtrOut 0 0 0 27 0) = false ∧ Instr.wf (.mtrIn 0 0 24 0) = false ∧ Instr.wf (.larm 0 0 0 320) = false ∧
    Instr.wf (.eadd 1984) = false := by decide +kernel

theorem test_ill_formed_events_of_the_device :
    Instr.wf (.emul 4095) = false ∧ Instr.wf (.eclmp 1984) = false ∧ Instr.wf (.ecvt 13 0) = false ∧
    Instr.wf (.ecvt 0 1) = false ∧ Instr.wf (.wavefrontReach 4096 0) = false ∧ Instr.wf (.sfDeliver 320 24 11) = false ∧
    Instr.wf (.sfDeliver 19 64 25) = false ∧ Instr.wf (.sfDeliver 11 25 63) = false ∧ Instr.wf (.traySumLand 64 2 19) = false ∧
    Instr.wf (.traySumLand 28 32 24) = false ∧ Instr.wf (.traySumLand 12 25 256) = false ∧ Instr.wf (.flagGroupValid 155) = false ∧
    Instr.wf (.scalarResultLand 4096) = false ∧ Instr.wf (.loadReturn 1984 0) = false ∧ Instr.wf (.recordFetch 80 0) = false ∧
    Instr.wf (.feedFetch 64 1) = false ∧ Instr.wf (.feedFetch 7 320) = false ∧ Instr.wf (.drainWrite 256 1) = false ∧
    Instr.wf (.drainWrite 23 10) = false ∧ Instr.wf (.epilogueProcess 4096) = false ∧ Instr.wf (.copyStart 128 19) = false ∧
    Instr.wf (.copyStart 12 128) = false ∧ Instr.wf (.copyLineLand 4095 1) = false ∧ Instr.wf (.copyLineLand 23 320) = false ∧
    Instr.wf (.remotePostArrive 256 15) = false ∧ Instr.wf (.remotePostArrive 4 1984) = false ∧ Instr.wf (.storeBufferDrain 64) = false ∧
    Instr.wf (.pageWalk 155 155 0) = false ∧ Instr.wf (.pageWalk 2 4096 0) = false ∧ Instr.wf (.amoAtomic 4095 0) = false ∧
    Instr.wf (.trapEntry 256) = false ∧ Instr.wf (.folopResume 4096) = false ∧ Instr.wf (.folopEnd 64) = false ∧
    Instr.wf (.coreSave 80) = false ∧ Instr.wf (.coreRestore 1984) = false ∧ Instr.wf (.drainDeadline 155) = false ∧
    Instr.wf (.partitionSwap 255 9) = false ∧ Instr.wf (.partitionSwap 15 25) = false ∧ Instr.wf (.taskStart 4095) = false ∧
    Instr.wf (.joinwComplete 128) = false ∧ Instr.wf (.rds 0 64) = false ∧ Instr.wf (.rdx 0 19) = false ∧
    Instr.wf (.upg 0 11) = false := by decide +kernel

theorem test_ill_formed_events_left :
    Instr.wf (.wbx 0 128 0 0) = false ∧ Instr.wf (.evs 0 23) = false ∧ Instr.wf (.ack 0 1984) = false ∧
    Instr.wf (.inv 0 128) = false ∧ Instr.wf (.invack 0 64) = false ∧ Instr.wf (.rcls 0 12) = false ∧
    Instr.wf (.rcli 0 255) = false ∧ Instr.wf (.rclack 0 63 false 0 0) = false ∧ Instr.wf (.fwdio 0 4095) = false ∧
    Instr.wf (.fwdack 0 255 false 0 0) = false ∧ Instr.wf (.tlbInvalidate 4096 0 0) = false ∧ Instr.wf (.reward 25 0 0 false 0) = false ∧
    Instr.wf (.registrationServe 128) = false ∧ Instr.wf (.popServe 80) = false ∧ Instr.wf (.controlServe 64) = false ∧
    Instr.wf (.ringAppend 80 false) = false ∧ Instr.wf (.fabricFlit (List.replicate 255 0)) = false ∧ Instr.wf (.doorbellWrite 4096 0) = false ∧
    Instr.wf (.queueEvent 0) = false ∧ Instr.wf (.queueEvent 13) = false ∧ Instr.wf (.irqSend 4096) = false ∧
    Instr.wf (.asidDrained 4096) = false ∧ Instr.wf (.islandToA0 128 0) = false ∧ Instr.wf (.islandToA1 4096 0) = false ∧
    Instr.wf (.islandToA2 4095 0) = false ∧ Instr.wf (.islandToRet 4096 0) = false ∧ Instr.wf (.islandToOff 4095 0) = false ∧
    Instr.wf (.tripClear 80) = false ∧ Instr.wf (.budgetLend 11 1 0) = false ∧ Instr.wf (.budgetLend 0 128 0) = false ∧
    Instr.wf (.budgetRepay 0 24 0) = false ∧ Instr.wf (.budgetRepay 64 2 0) = false ∧ Instr.wf (.thermalTrip 32) = false ∧
    Instr.wf (.eccCorrected 155) = false ∧ Instr.wf (.eccUncorrectable 4096 25 0 0 0 false) = false ∧ Instr.wf (.eccUncorrectable 5 154 0 0 0 false) = false ∧
    Instr.wf (.pcmdReservedState 32 0) = false := by decide +kernel

/-! ### Words from the encoding tables (the opcode table of the spec) and words written out in its text -/

theorem test_decode_sync :
    decodeSlot .y 0x20000000 = .ok (.nopy 4) ∧ decodeSlot .y 0x103078BE = .ok (.kwait 2 8 15455) ∧
    decodeSlot .y 0x785DE380 = .ok (.kpost 15 14 241 48 0) ∧ decodeSlot .y 0x187E1D06 = .ok (.kset 3 15 3715) ∧
    decodeSlot .y 0x609BB010 = .ok (.barr 12 886 0 1) ∧ decodeSlot .y 0x40AEA000 = .ok (.bwait 8 468 0) ∧
    decodeSlot .y 0x50C1F040 = .ok (.bexp 10 62 1) ∧ decodeSlot .y 0x00E0096C = .ok (.dly 0 1206) ∧
    decodeSlot .y 0x61000000 = .ok (.wquiet 12) ∧ decodeSlot .y 0x31380000 = .ok (.lwait 6 3) ∧
    decodeSlot .y 0x80718191 = .ok (.imx 0 7438737) ∧ decodeSlot .y 0xF1FDDB00 = .ok (.rep 14 63 29 11) ∧
    decodeSlot .y 0xBA400000 = .ok (.xtgt 7 1) := by decide +kernel

theorem test_decode_sequencer_a :
    decodeSlot .s 0x00000000 = .ok .nops ∧ decodeSlot .s 0x07B20800 = .ok (.aluAdd 29 18 1) ∧
    decodeSlot .s 0x07465801 = .ok (.aluSub 26 6 11) ∧ decodeSlot .s 0x0647A802 = .ok (.aluAnd 18 7 21) ∧
    decodeSlot .s 0x076C9803 = .ok (.aluOr 27 12 19) ∧ decodeSlot .s 0x065FC804 = .ok (.aluXor 18 31 25) ∧
    decodeSlot .s 0x045E7805 = .ok (.aluShl 2 30 15) ∧ decodeSlot .s 0x073A5806 = .ok (.aluShr 25 26 11) ∧
    decodeSlot .s 0x06F72807 = .ok (.aluSar 23 23 5) ∧ decodeSlot .s 0x07865008 = .ok (.aluMul 28 6 10) ∧
    decodeSlot .s 0x0737F809 = .ok (.aluMulh 25 23 31) ∧ decodeSlot .s 0x043E100A = .ok (.aluMulhu 1 30 2) ∧
    decodeSlot .s 0x0679500B = .ok (.aluDiv 19 25 10) ∧ decodeSlot .s 0x054E000C = .ok (.aluDivu 10 14 0) ∧
    decodeSlot .s 0x058EC80D = .ok (.aluRem 12 14 25) ∧ decodeSlot .s 0x06D6E80E = .ok (.aluRemu 22 22 29) ∧
    decodeSlot .s 0x0620C00F = .ok (.aluMin 17 0 24) ∧ decodeSlot .s 0x050DD810 = .ok (.aluMax 8 13 27) ∧
    decodeSlot .s 0x047EB811 = .ok (.aluMinu 3 30 23) ∧ decodeSlot .s 0x059AF812 = .ok (.aluMaxu 12 26 31) := by decide +kernel

theorem test_decode_sequencer_b :
    decodeSlot .s 0x06DAB013 = .ok (.aluSlt 22 26 22) ∧ decodeSlot .s 0x0415E814 = .ok (.aluSltu 0 21 29) ∧
    decodeSlot .s 0x042E5815 = .ok (.aluSeq 1 14 11) ∧ decodeSlot .s 0x05650016 = .ok (.aluClz 11 5) ∧
    decodeSlot .s 0x06020017 = .ok (.aluPopc 16 2) ∧ decodeSlot .s 0x0885088B = .ok (.addi 4 5 2187) ∧
    decodeSlot .s 0x0F808FF9 = .ok (.andi 28 0 36857) ∧ decodeSlot .s 0x11F1380E = .ok (.ori 15 17 14350) ∧
    decodeSlot .s 0x157694A0 = .ok (.xori 11 22 38048) ∧ decodeSlot .s 0x188A0060 = .ok (.shi 4 10 1 32) ∧
    decodeSlot .s 0x1D408BBB = .ok (.lui 10 35771) ∧ decodeSlot .s 0x225DA4DD = .ok (.slti 18 29 42205) ∧
    decodeSlot .s 0x27FE3A77 = .ok (.sltiu 31 30 14967) ∧ decodeSlot .s 0x28209FBF = .ok (.lis 1 40895) ∧
    decodeSlot .s 0x3315D000 = .ok (.fpuFadd 24 21 26 0) ∧ decodeSlot .s 0x32068001 = .ok (.fpuFsub 16 6 16 0) ∧
    decodeSlot .s 0x33617002 = .ok (.fpuFmul 27 1 14 0) ∧ decodeSlot .s 0x33291003 = .ok (.fpuFdiv 25 9 2 0) ∧
    decodeSlot .s 0x339B0004 = .ok (.fpuFsqrt 28 27 0) ∧ decodeSlot .s 0x338E0825 = .ok (.fpuFmin 28 14 1 1) := by decide +kernel

theorem test_decode_sequencer_c :
    decodeSlot .s 0x329B1826 = .ok (.fpuFmax 20 27 3 1) ∧ decodeSlot .s 0x310D1827 = .ok (.fpuFeq 8 13 3 1) ∧
    decodeSlot .s 0x30849828 = .ok (.fpuFlt 4 4 19 1) ∧ decodeSlot .s 0x315A8009 = .ok (.fpuFle 10 26 16 0) ∧
    decodeSlot .s 0x3002682A = .ok (.fpuFfma 0 2 13 1) ∧ decodeSlot .s 0x31420010 = .ok (.fpuCvtS2d 10 2) ∧
    decodeSlot .s 0x330C0011 = .ok (.fpuCvtD2s 24 12) ∧ decodeSlot .s 0x32C60012 = .ok (.fpuCvtS2i 22 6) ∧
    decodeSlot .s 0x31BB0013 = .ok (.fpuCvtI2s 13 27) ∧ decodeSlot .s 0x319F0014 = .ok (.fpuCvtD2i 12 31) ∧
    decodeSlot .s 0x30D80015 = .ok (.fpuCvtI2d 6 24) ∧ decodeSlot .s 0x425E5B59 = .ok (.br 39738201) ∧
    decodeSlot .s 0x47FF971A = .ok (.bl 67082010) ∧ decodeSlot .s 0x48010000 = .ok (.jr 1) ∧
    decodeSlot .s 0x4C140000 = .ok (.jlr 20) ∧ decodeSlot .s 0x50845441 = .ok (.bc 2 2 5 1089) ∧
    decodeSlot .s 0x54744C2A = .ok (.bef 1 26 4 3114) ∧ decodeSlot .s 0x6128A60C = .ok (.ld 9 8 5 0 1548) ∧
    decodeSlot .s 0x648E35D6 = .ok (.ldu 4 14 1 2 1494) ∧ decodeSlot .s 0x68520177 = .ok (.st 2 18 0 0 375) := by decide +kernel

theorem test_decode_sequencer_d :
    decodeSlot .s 0x6C002000 = .ok (.fence 1) ∧ decodeSlot .s 0x700263D5 = .ok (.cacheWb 2 3 981) ∧
    decodeSlot .s 0x703A41D9 = .ok (.cacheInv 26 2 473) ∧ decodeSlot .s 0x705C43DC = .ok (.cacheWbinv 28 2 988) ∧
    decodeSlot .s 0x7078840D = .ok (.cacheEvict 24 4 1037) ∧ decodeSlot .s 0x7420950E = .ok (.amoAdd 1 0 18 5 3 1) ∧
    decodeSlot .s 0x7699211A = .ok (.amoAnd 20 25 4 1 2 1) ∧ decodeSlot .s 0x74546A2A = .ok (.amoOr 2 20 13 2 2 1) ∧
    decodeSlot .s 0x75DF023A = .ok (.amoXor 14 31 0 2 2 1) ∧ decodeSlot .s 0x76EA6C4A = .ok (.amoMin 23 10 13 4 2 1) ∧
    decodeSlot .s 0x74FBD15A = .ok (.amoMax 7 27 26 1 2 1) ∧ decodeSlot .s 0x752C8C6A = .ok (.amoMinu 9 12 17 4 2 1) ∧
    decodeSlot .s 0x7412417A = .ok (.amoMaxu 0 18 8 1 2 1) ∧ decodeSlot .s 0x7418488E = .ok (.amoSwap 0 24 9 0 3 1) ∧
    decodeSlot .s 0x7443409A = .ok (.amoCas 2 3 8 0 2) ∧ decodeSlot .s 0x778189AA = .ok (.amoIncw 28 1 17 1 2 1) ∧
    decodeSlot .s 0x761444BE = .ok (.amoFaddb 16 20 8 4 3) ∧ decodeSlot .s 0x74C8E0CA = .ok (.amoFaddF32 6 8 28 0 1) ∧
    decodeSlot .s 0x769A9DD7 = .ok (.amoFaddBf16 20 26 19 5 1 1) ∧ decodeSlot .s 0x78140000 = .ok (.spclr 20 0) := by decide +kernel

theorem test_decode_sequencer_e :
    decodeSlot .s 0x8200004E = .ok (.ctlrd 16 78) ∧ decodeSlot .s 0x84090001 = .ok (.ctlwr 9 1) ∧
    decodeSlot .s 0x8B00000A = .ok (.schrd 24 10) ∧ decodeSlot .s 0x8C080006 = .ok (.schwr 8 6) ∧
    decodeSlot .s 0x91A00000 = .ok (.schcommit 13) ∧ decodeSlot .s 0x94E3F800 = .ok (.msel 7 3 31) ∧
    decodeSlot .s 0x99A00003 = .ok (.efrd 13 3) ∧ decodeSlot .s 0x9C1B0B19 = .ok (.awin 27 2 24 25) ∧
    decodeSlot .s 0xA000F57D = .ok (.trap 62845) ∧ decodeSlot .s 0xA4000000 = .ok .rett ∧
    decodeSlot .s 0xA8000000 = .ok .retire ∧ decodeSlot .s 0xAC4E0000 = .ok (.spawn 2 14) ∧
    decodeSlot .s 0xB24E0000 = .ok (.joinw 9 14) ∧ decodeSlot .s 0xB6000000 = .ok (.tilenext 8) ∧
    decodeSlot .s 0xB8010000 = .ok (.cvmark 1) ∧ decodeSlot .s 0xC02F0000 = .ok (.rjreg 1 15) ∧
    decodeSlot .s 0xC41E0000 = .ok (.rjpost 30) ∧ decodeSlot .s 0xC98D0000 = .ok (.rjpop 12 13) ∧
    decodeSlot .s 0xCC070042 = .ok (.rjctl 7 4 2) := by decide +kernel

theorem test_decode_cell_a :
    decodeSlot .w 0x00000000 = .ok .cnop ∧ decodeSlot .w 0x02836205 = .ok (.fadd 4 3 12 8 0 2 1) ∧
    decodeSlot .w 0x04EB1DC3 = .ok (.fsub 7 11 3 23 0 1 1) ∧ decodeSlot .w 0x07F17B26 = .ok (.fmul 15 17 15 12 1 3 0) ∧
    decodeSlot .w 0x0920C1A6 = .ok (.ffma 9 0 24 6 1 3 0) ∧ decodeSlot .w 0x0BC823A2 = .ok (.ffms 14 8 4 14 1 1 0) ∧
    decodeSlot .w 0x0C35AE00 = .ok (.fmin 1 21 21 24 0 0 0) ∧ decodeSlot .w 0x0EF74205 = .ok (.fmax 7 23 8 8 0 2 1) ∧
    decodeSlot .w 0x110F8827 = .ok (.fabs 8 15 17 1 3 1) ∧ decodeSlot .w 0x1261F027 = .ok (.fneg 3 1 30 1 3 1) ∧
    decodeSlot .w 0x15E71CE3 = .ok (.fcmp 15 7 3 19 1 1 1) ∧ decodeSlot .w 0x160F2D00 = .ok (.sel 0 15 5 20 0) ∧
    decodeSlot .w 0x206FE56C = .ok (.iadd 3 15 28 21 1 6 0) ∧ decodeSlot .w 0x226D18F5 = .ok (.isub 3 13 3 3 1 10 1) ∧
    decodeSlot .w 0x250DEB8E = .ok (.imul 8 13 29 14 0 7 0) ∧ decodeSlot .w 0x2766B3AC = .ok (.imac 11 6 22 14 1 6 0) ∧
    decodeSlot .w 0x2989B813 = .ok (.qmul 12 9 23 0 0 9 1) ∧ decodeSlot .w 0x2A2C27F3 = .ok (.qmac 1 12 4 31 1 9 1) ∧
    decodeSlot .w 0x2DEBBDB0 = .ok (.wAnd 15 11 23 22 1 8 0) ∧ decodeSlot .w 0x2E808C4D = .ok (.wOr 4 0 17 17 0 6 1) := by decide +kernel

theorem test_decode_cell_b :
    decodeSlot .w 0x316028B1 = .ok (.wXor 11 0 5 2 1 8 1) ∧ decodeSlot .w 0x33A2E16C = .ok (.wShl 13 2 28 5 1 6 0) ∧
    decodeSlot .w 0x3506556E = .ok (.wShr 8 6 10 21 1 7 0) ∧ decodeSlot .w 0x36105C31 = .ok (.wSar 0 16 11 16 1 8 1) ∧
    decodeSlot .w 0x3885B60F = .ok (.icmp 4 5 22 24 0 7 1) ∧ decodeSlot .w 0x3A18AAB5 = .ok (.imin 0 24 21 10 1 10 1) ∧
    decodeSlot .w 0x3CA818CC = .ok (.imax 5 8 3 3 0 6 0) ∧ decodeSlot .w 0x4031B5E0 = .ok (.fdiv 1 17 22 23 1 0 0) ∧
    decodeSlot .w 0x4372A800 = .ok (.fsqrt 11 18 21 0 0 0) ∧ decodeSlot .w 0x44B17025 = .ok (.frcp 5 17 14 1 2 1) ∧
    decodeSlot .w 0x47B67802 = .ok (.frsq 13 22 15 0 1 0) ∧ decodeSlot .w 0x49B06000 = .ok (.fexp2 13 16 12 0 0 0) ∧
    decodeSlot .w 0x4B4EB825 = .ok (.flog2 10 14 23 1 2 1) ∧ decodeSlot .w 0x50CE9800 = .ok (.mov 6 14 19 0) ∧
    decodeSlot .w 0x536F0001 = .ok (.movx 11 15 0 1) ∧ decodeSlot .w 0x54434E13 = .ok (.movi 2 3 312 9 1) ∧
    decodeSlot .w 0x570E8A01 = .ok (.cvt 8 14 17 8 0 0 1) ∧ decodeSlot .w 0x58D4A8E5 = .ok (.cvtsr 6 20 21 3 1 2 1) ∧
    decodeSlot .w 0x5B60A800 = .ok (.srand 11 21) ∧ decodeSlot .w 0x5D14BE40 = .ok (.lane 8 20 23 25 0) := by decide +kernel

theorem test_decode_cell_c :
    decodeSlot .w 0x61C2F001 = .ok (.cpass 14 2 30 1) ∧ decodeSlot .w 0x63780F00 = .ok (.cinj 11 1 28) ∧
    decodeSlot .w 0x6505F262 = .ok (.cscanAdd 8 5 30 9 1 1 0) ∧ decodeSlot .w 0x65C9E9E8 = .ok (.cscanMax 14 1 29 7 1 4 0) ∧
    decodeSlot .w 0x6457FA55 = .ok (.cscanMin 2 7 31 9 0 10 1) ∧ decodeSlot .w 0x641BF8AD = .ok (.cscanOr 0 3 31 2 1 6 1) ∧
    decodeSlot .w 0x67181000 = .ok (.cwr 8 2) ∧ decodeSlot .w 0x69A5E000 = .ok (.crd 13 5 28 0) ∧
    decodeSlot .w 0x71822800 = .ok (.cld 12 2 1 1 0 0) ∧ decodeSlot .w 0x736B3AC0 = .ok (.cst 11 11 1 3 11 0) ∧
    decodeSlot .w 0x75E24700 = .ok (.caaddAdd 15 2 284) ∧ decodeSlot .w 0x754438C0 = .ok (.caaddSet 10 0 227) ∧
    decodeSlot .w 0x81E10000 = .ok (.cflag 15 1) ∧ decodeSlot .w 0x82A00000 = .ok (.psetOnes 5) ∧
    decodeSlot .w 0x82C40000 = .ok (.psetZero 6) ∧ decodeSlot .w 0x83080000 = .ok (.psetInv 8) ∧
    decodeSlot .w 0x824C7000 = .ok (.psetLoad 2 14) ∧ decodeSlot .w 0x83D001C0 = .ok (.psetSave 14 7) ∧
    decodeSlot .w 0x83941000 = .ok (.psetAndl 12 2) ∧ decodeSlot .w 0x83D8B000 = .ok (.psetOrl 14 22) := by decide +kernel

theorem test_decode_cell_d :
    decodeSlot .w 0x850E0001 = .ok (.cxfRead 8 14 1) ∧ decodeSlot .w 0x85603841 = .ok (.cxfClear 11 7 1) ∧
    decodeSlot .w 0x84F83080 = .ok (.cxfReadclr 7 24 6 0) ∧ decodeSlot .w 0x87D70000 = .ok (.cstatRead 14 23) ∧
    decodeSlot .w 0x87000040 = .ok (.cstatClear 8 0) ∧ decodeSlot .w 0x860F1080 = .ok (.cstatReadclr 0 15 2) ∧
    decodeSlot .w 0x870010C0 = .ok (.cstatTest 8 2) ∧ decodeSlot .w 0x91430000 = .ok (.mzero 10 3) ∧
    decodeSlot .w 0x9285F800 = .ok (.mpush 4 5 31) ∧ decodeSlot .w 0x94B8F000 = .ok (.mshift 5 30) ∧
    decodeSlot .w 0x96C43A0B = .ok (.macc 6 1 0 7 8 0 5 1) ∧ decodeSlot .w 0x98E5C025 = .ok (.maccs 7 1 1 24 0 1 2 1) ∧
    decodeSlot .w 0x9B03E080 = .ok (.mdrain 8 0 3 28 2) ∧ decodeSlot .w 0x9D2138C0 = .ok (.mtrOut 9 0 1 7 3) ∧
    decodeSlot .w 0x9D699080 = .ok (.mtrIn 11 1 18 2) := by decide +kernel

theorem test_decode_edge :
    decodeSlot .e 0x00000000 = .ok .nope ∧ decodeSlot .e 0x0756A6FA = .ok (.larm 3 1386 3 250) ∧
    decodeSlot .e 0x09000000 = .ok (.ldis 1) ∧ decodeSlot .e 0x0C00057F = .ok (.oset 2 383) ∧
    decodeSlot .e 0x100005E3 = .ok (.oinc 2 483) ∧ decodeSlot .e 0x14999000 = .ok (.rcflush 2457) ∧
    decodeSlot .e 0x1B49B81C = .ok (.edrain 3 1179 4 0 28) ∧ decodeSlot .e 0x1C17D180 = .ok (.epld 381 6) := by decide +kernel

theorem test_decode_epilogue :
    decodeSlot .epilogue 0x0000 = .ok .estop ∧ decodeSlot .epilogue 0x1000 = .ok .epass ∧
    decodeSlot .epilogue 0x2895 = .ok (.eadd 2197) ∧ decodeSlot .epilogue 0x3BDC = .ok (.emul 3036) ∧
    decodeSlot .epilogue 0x4000 = .ok .erelu ∧ decodeSlot .epilogue 0x516F = .ok (.eclmp 367) ∧
    decodeSlot .epilogue 0x6600 = .ok (.ecvt 6 0) := by decide +kernel

/-- Words that the spec's text gives: R42 to R59 and the worked examples. -/
theorem test_words_of_the_text :
    decodeSlot .s 0x054A7003 = .ok (.aluOr 10 10 14) ∧ decodeSlot .w 0x6040F800 = .ok (.cpass 2 0 31 0) ∧
    decodeSlot .e 0x07000001 = .ok (.larm 3 0 0 1) ∧ decodeSlot .e 0x19004404 = .ok (.edrain 1 4 2 0 4) ∧
    decodeSlot .y 0x8000000E = .ok (.imx 0 14) ∧ decodeSlot .w 0x54010004 = .ok (.movi 0 1 0 2 0) ∧
    decodeSlot .s 0x9C000063 = .ok (.awin 0 0 3 3) ∧
    decodeSlot .s 0x61831800 = .ok (.ld 12 3 0 3 0) ∧ decodeSlot .s 0x94507000 = .ok (.msel 2 16 14) ∧
    decodeSlot .s 0x99A00003 = .ok (.efrd 13 3) ∧ decodeSlot .w 0x58020840 = .ok (.cvtsr 0 2 1 1 0 0 0) ∧
    decodeSlot .y 0x81118000 = .ok (.rep 0 4 24 0) := by decide +kernel

/-! ### Small states -/

/-- The first scratchpad byte of cluster 0, and the leaf entry of a HOME=01 page there (R237, R239). -/
def pad : Nat := 0x10000000000
def padLeaf : Dword := BitVec.ofNat 64 (2 + 4 + 64 + pad)
/-- Page 0x4000 of ASID 0 is held by core 0's two micro-TLBs, by die C0's and by the I/O agent's. -/
def mapped : MemSys :=
  { MemSys.reset with
    tlb := [⟨0, 0, 0x4000, 4096, padLeaf⟩, ⟨64, 0, 0x4000, 4096, padLeaf⟩, ⟨128, 0, 0x4000, 4096, padLeaf⟩, ⟨132, 0, 0x4000, 4096, padLeaf⟩] }
/-- Core 0 of the reset state, changed. -/
def lone (f : Core → Core) : State := { State.reset with cores := [(0, f Core.reset)], sys := mapped }
def withSeq (f : Seq → Seq) : State := lone fun k => { k with seq := f k.seq }
def regs (l : Tab Dword) : State := withSeq fun q => { q with g := l }
def withMem (f : MemPath → MemPath) : State := lone fun k => { k with mem := f k.mem }
def after (s : State) (i : Instr) : State := nextOf s (exec i s)
def reg (s : State) (r : BitVec 5) : Dword := readG (coreAt s 0) r
/-- A value of the pending result that an instruction leaves. -/
def pends (s : State) (i : Instr) : List (Nat × Nat × Dword × Flags5) := (coreAt (after s i) 0).seq.pend.map fun p => (p.due, p.reg, p.value, p.flags)

theorem some_of {α β : Type} (x : α × Option β) (h : x.2.isSome = true) : ∃ u v, x = (u, some v) := by
  obtain ⟨u, v⟩ := x; cases v with
  | none => cases h
  | some v => exact ⟨u, v, rfl⟩
theorem ok_of {α β ε : Type} (x : α × Except ε β) (h : x.2.toOption.isSome = true) : ∃ u v, x = (u, .ok v) := by
  obtain ⟨u, v⟩ := x; cases v with
  | error e => cases h
  | ok v => exact ⟨u, v, rfl⟩

theorem error_of {α β γ ε : Type} (x : α × Except (β × γ) ε) (h : x.2.toOption.isNone = true) : ∃ u k l, x = (u, .error (k, l)) := by
  obtain ⟨u, v⟩ := x; cases v with
  | error e => exact ⟨u, e.1, e.2, rfl⟩
  | ok v => cases h

/-- A team of two logical cores on physical cores 0 and 5. -/
def pair : Team := { launched State.reset { Image.empty with cores := 2 } 0 0 0 0 with state := .running, place := [0, 5] }
def rootTask : Task := ⟨0, 0, true, 0, 0, 0⟩
/-! ### The sequencer's arithmetic, encoding and results (R106 to R112, R40) -/

theorem witness_EveryWordDecodesBack : (Instr.addi 1 2 3).wf = true ∧ (encode (.addi 1 2 3)).isSome = true := by decide +kernel
theorem witness_DecodedWordIsTheEncoding : decodeSlot .y 0x8000000E = .ok (.imx 0 14) ∧ decodeSlot .e 0x07000001 = .ok (.larm 3 0 0 1) ∧
    decodeSlot .epilogue 0x1000 = .ok .epass ∧ decodeSlot .s 0x054A7003 = .ok (.aluOr 10 10 14) ∧
    decodeSlot .w 0x02836205 = .ok (.fadd 4 3 12 8 0 2 1) := by decide +kernel
theorem witness_HardwiredRegisters : (31 : BitVec 5) ≠ 0 := by decide
theorem witness_AluResults : (1 : BitVec 5) ≠ 0 ∧ (0 : BitVec 5) = 0 := by decide
theorem witness_ImmediatesWriteTheirValue : (2 : BitVec 2) ≠ 3 := by decide
/-- 1.0 + 1.0 raises nothing, 1.0 / 3.0 is inexact. -/
theorem witness_FpuResultsPend : (fAdd fp32 .rne 0x3F800000 0x3F800000).2 = 0 ∧ (fDiv fp32 .rne 0x3F800000 0x40400000).2 ≠ 0 := by decide +kernel
theorem witness_ScalarResultLands :
    let s (n : Nat) := withSeq fun q => { q with pend := [⟨9, 3, 7, 0⟩, ⟨5, 4, 8, 1⟩], cyc := n }
    firstScalar (coreAt (s 5) 0).seq.pend = some ⟨5, 4, 8, 1⟩ ∧ 5 ≤ (coreAt (s 5) 0).seq.cyc ∧ firstScalar (coreAt (s 4) 0).seq.pend = some ⟨5, 4, 8, 1⟩ ∧
      (coreAt (s 4) 0).seq.cyc < 5 ∧ (coreAt (regs []) 0).seq.pend = [] := by decide +kernel

/-- R107. -/
theorem test_divide_by_zero : pends (regs [(2, 7)]) (.aluDiv 1 2 3) = [(18, 1, 0xFFFFFFFFFFFFFFFF, 0)] ∧
    pends (regs [(2, 7)]) (.aluRem 1 2 3) = [(18, 1, 7, 0)] := by decide +kernel
theorem test_divide_overflow : pends (regs [(2, 0x8000000000000000), (3, 0xFFFFFFFFFFFFFFFF)]) (.aluDiv 1 2 3) = [(18, 1, 0x8000000000000000, 0)] ∧
    pends (regs [(2, 0x8000000000000000), (3, 0xFFFFFFFFFFFFFFFF)]) (.aluRem 1 2 3) = [(18, 1, 0, 0)] := by decide +kernel
/-- R106: sums wrap, shifts use the low six bits, compares are signed or not, counts cover the whole register. -/
theorem test_alu_edges :
    reg (after (regs [(2, 0xFFFFFFFFFFFFFFFF), (3, 2)]) (.aluAdd 1 2 3)) 1 = 1 ∧ reg (after (regs [(2, 1), (3, 65)]) (.aluShl 1 2 3)) 1 = 2 ∧
    reg (after (regs [(2, 0x8000000000000000), (3, 63)]) (.aluSar 1 2 3)) 1 = 0xFFFFFFFFFFFFFFFF ∧
    reg (after (regs [(2, 0xFFFFFFFFFFFFFFFF), (3, 1)]) (.aluSlt 1 2 3)) 1 = 1 ∧
    reg (after (regs [(2, 0xFFFFFFFFFFFFFFFF), (3, 1)]) (.aluSltu 1 2 3)) 1 = 0 ∧ reg (after (regs []) (.aluClz 1 2)) 1 = 64 ∧
    reg (after (regs [(2, 0xFFFFFFFFFFFFFFFF)]) (.aluPopc 1 2)) 1 = 64 := by decide +kernel
/-- R109: LIS shifts the old register; R110: an IMX makes 40 bits, sign-extended by ADDI and not by ORI. -/
theorem test_immediates :
    reg (after (regs [(5, 0x1234)]) (.lis 5 0x89AB)) 5 = 0x123489AB ∧ reg (after (regs [(2, 0)]) (.addi 1 2 0xFFFF)) 1 = 0xFFFFFFFFFFFFFFFF ∧
    reg (after (withSeq fun q => { q with imx := some 0x800000 }) (.addi 1 0 0)) 1 = 0xFFFFFF8000000000 ∧
    reg (after (withSeq fun q => { q with imx := some 0x800000 }) (.ori 1 0 0)) 1 = 0x8000000000 := by decide +kernel
/-- R111: FP32 1.5 + 0.25 after four cycles. -/
theorem test_fpu_add : pends (regs [(2, 0x3FC00000), (3, 0x3E800000)]) (.fpuFadd 1 2 3 0) = [(4, 1, 0x3FE00000, 0)] := by decide +kernel

/-! ### Branches and traps (R113 to R115, R125, R126) -/

theorem witness_Branches :
    (¬ ((1 : Int) < 0) ∧ HasBundle (regs [(2, 16383)]) 16383) ∧ ¬ HasBundle (regs [(2, 16384)]) 16384 ∧ bcHolds 2 0xFFFFFFFFFFFFFFFF 0 ∧ ¬ bcHolds 4 0xFFFFFFFFFFFFFFFF 0 ∧
    befHolds 1 0 0 ∧ ¬ befHolds 0 0 0 ∧ Quiet (regs []) := by
  unfold HasBundle bcHolds befHolds Quiet; decide +kernel
/-- A software trap waits: while the stall of its bundle runs, and after it. -/
def trapping (ready : Nat) : State := lone fun k => { k with run := .running, soft := some 7, ctl := { k.ctl with tvec := 5 }, seq := { k.seq with readyAt := ready } }
theorem witness_TrapInstructionTakesItsTrap :
    (Quiet (trapping 0) ∧ (coreAt (trapping 0) 0).run = .running ∧ (coreAt (trapping 0) 0).soft = some 7 ∧ isHalted (trapping 0) 0 = false ∧
      (coreAt (trapping 0) 0).seq.repK = 0 ∧ (coreAt (trapping 0) 0).seq.readyAt ≤ (coreAt (trapping 0) 0).seq.cyc) ∧
    Quiet (trapping 3) ∧ (coreAt (trapping 3) 0).seq.cyc < (coreAt (trapping 3) 0).seq.readyAt := by unfold Quiet; decide +kernel
/-- R223: the boundary's bundle is the saved one, TRAPINFO is the code, and the handler comes next. -/
theorem test_software_trap : let t := after (trapping 0) (.trapEntry 0)
    ((coreAt t 0).ctl.cause, (coreAt t 0).ctl.info, (coreAt t 0).seq.pc, (coreAt t 0).soft) = (4, 7, 5, none) := by decide +kernel
theorem witness_ReturnsFromTraps :
    (let s := lone fun k => { k with ctl := { k.ctl with inh := true, trappc := 16383 } }
     (coreAt s s.me).ctl.inh = true ∧ (coreAt s s.me).chain = [] ∧ (coreAt s s.me).deferred = [] ∧ (coreAt s s.me).ctl.trappc.toNat < 16384 ∧
     (coreAt s s.me).ctl.trappc.toNat < (coreAt s s.me).imemQuota) ∧ Quiet (regs []) := by unfold Quiet; decide +kernel
/-- JLR through G31 jumps to the old value and links. -/
theorem test_jlr_g31 : (coreAt (after (withSeq fun q => { q with g := [(31, 40)], pc := 7 }) (.jlr 31)) 0).seq.npc = 40 ∧
    reg (after (withSeq fun q => { q with g := [(31, 40)], pc := 7 }) (.jlr 31)) 31 = 8 := by decide +kernel
theorem test_branch_back : (coreAt (after (withSeq fun q => { q with pc := 30 }) (.br 0x3FFFFF9)) 0).seq.npc = 23 := by decide +kernel

/-! ### Memory instructions (R116, R182, R282, R11, R247) -/

theorem witness_BadAddressesTrap :
    Quiet (regs [(1, 0x0100000000000000), (2, 2)]) ∧ ¬ ((0x0100000000000000 : Nat) / 2 ^ 56 = 0 ∨ 0x0100000000000000 / 2 ^ 56 = 255) ∧
    (∃ p ∈ accesses (regs [(1, 0x0100000000000000), (2, 2)]) 3 1 0 0 2 0 1, p.2.1 = 0x0100000000000000) ∧
    ∃ p ∈ accesses (regs [(1, 0x0100000000000000), (2, 2)]) 3 2 0 0 2 0 1, p.2.1 = 2 ∧ p.2.1 % p.2.2.1 ≠ 0 := by
  refine ⟨by unfold Quiet; decide +kernel, by decide, ⟨(.ld 3 1 0 2 0, 0x0100000000000000, 4, 0), ?_, rfl⟩, ⟨(.ld 3 2 0 2 0, 2, 4, 0), ?_, rfl, by decide⟩⟩ <;>
    exact List.mem_cons_self
def budget : Region := ⟨0, 0, 0, 0xFF, 0, 0, 0, 0, 0, 0, 5, 0, 0, 4, 0, 0⟩
/-- A store to channel 63 by a root task of a team in region 256, which may have 5 copies and has had n; with m requests queued. -/
def requesting (n m : Nat) : State :=
  { lone fun k => { k with
      task := some ⟨0, 0, true, 0, 0, 0⟩, seq := { k.seq with g := [(1, 0xFFFFFFFFFFFFF000), (2, 0x1000)] }
      mem := { k.mem with chans := if m = 0 then [] else [(63, ⟨List.replicate m ⟨0, 0, 0, 0, 0, 256, none⟩, none, false, 0⟩)] } } with
    sched := { Sched.reset with
      teams := [(0, launched State.reset { Image.empty with templateN := 1 } 0 256 0 0)], regions := [(256, { budget with copyused := n })] } }
def asker : Team := launched State.reset { Image.empty with templateN := 1 } 0 256 0 0
theorem witness_ApertureStoresQueueARequest :
    let s := requesting 4 3
    address s 1 0x3F 8 = 0xFFFFFFFFFFFFF000 + 8 * 63 ∧ teamOf s s.me = some asker ∧ legalRequest asker (gr s 2) ∧
    chanLoad (chanAt (coreAt s s.me) 63) < 4 ∧ 4 ≤ chanLoad (chanAt (coreAt (requesting 4 4) 0) 63) ∧ copiesLeft s asker ∧
    ¬ copiesLeft (requesting 5 0) asker := by
  have c (n m : Nat) (r : Nat) : r ∈ regionChain (requesting n m) (regionDepth (requesting n m)) asker.region ↔ r = 256 := by
    show r ∈ [256] ↔ _; rw [List.mem_singleton]
  refine ⟨by unfold address gr; decide +kernel, by decide +kernel, by unfold legalRequest gr; decide +kernel, by decide +kernel, by decide +kernel, ?_, ?_⟩
  · intro r hr b hb
    rw [c] at hr; subst hr
    have e : regionAt (requesting 4 3) 256 = some { budget with copyused := 4 } := by decide +kernel
    rw [e] at hb; cases hb; exact .inr (by decide +kernel)
  · intro h
    have := h 256 ((c 5 0 256).mpr rfl) { budget with copyused := 5 } (by decide +kernel)
    revert this; decide +kernel
theorem witness_Loads :
    (Plain (address (regs [(1, 0x4000)]) 1 1 8) 8 ∧ seqTranslate (regs [(1, 0x4000)]) 0 0x4008 false = (regs [(1, 0x4000)], .ok ⟨pad + 8, 1, false⟩)) ∧
    ∃ l : PendLoad, (coreAt (withMem fun m => { m with pend := [.load l] }) 0).mem.pend = [.load l] ∧ l.sc = 0 ∧ l.home = 1 ∧ l.reg < 32 ∧
      inCounters l.pa = false ∧ inDoorbell l.pa = false ∧ inHost l.pa = false := by
  refine ⟨by unfold Plain address gr; decide +kernel, ⟨31, pad, 8, true, 0, 1, false, 0⟩, ?_⟩; decide +kernel
/-- Core 0 has one access on its way to a HOME=00 line, with copies of the line in its L1, in its ways and in die 0's L2. -/
def reaching (p : PendAcc) (sb : List StoreEnt) (l1 ways : List CLine) (l2 : List L2Line) (dir : Tab DirEntry) : State :=
  { withMem fun m => { m with pend := [p], sb := sb, l1 := l1 } with sys := { MemSys.reset with
      ways := if ways = [] then [] else [(0, ways)], l2 := if l2 = [] then [] else [(0, l2)], dir := dir, mem := [(2 ^ 37, 0x11)] } }
def loading (sc : Nat) : PendAcc := .load ⟨3, 2 ^ 37, 4, true, sc, 0, false, 5⟩
def clean : CLine := ⟨2 ^ 30, 0x2211, 0, false, false⟩
def copy : L2Line := ⟨2 ^ 30, 5, 0, false, false, false⟩
theorem home_reads (p : PendAcc) (l1 ways : List CLine) : HomeReads (reaching p [] l1 ways [] []) 0 (2 ^ 30) :=
  ⟨⟨rfl, rfl, (by decide +kernel : homeStands State.reset (2 ^ 30) = false), by intro e h; cases h⟩,
    fun _ => ⟨.inr (by decide +kernel : 0 < l2Ways State.reset 0 (2 ^ 30)), fun _ => rfl⟩⟩
/-- A hit in the L1, in the ways, in the die's L2, and a miss of all; a line with a single copy. -/
theorem witness_Loads_cached :
    FreshIn (coreAt (reaching (loading 0) [] [clean] [] [] []) 0).mem.l1 (2 ^ 37 / 128) ∧
    FreshIn (waysOf (reaching (loading 1) [] [] [clean] [] []) (clusterOf 0)) (2 ^ 37 / 128) ∧
    DieServes (reaching (loading 0) [] [] [] [copy] []) (dieOf 0) (2 ^ 37 / 128) false ∧
    DieServes (reaching (loading 0) [] [] [] [] []) (dieOf 0) (2 ^ 37 / 128) false ∧
    (coreAt (reaching (loading 0) [] [] [] [] []) 0).mem.pend = [.load ⟨3, 2 ^ 37, 4, true, 0, 0, false, 5⟩] ∧ 2 ^ 37 % 128 + 4 ≤ 128 ∧
    (coreAt (withMem fun m => { m with pend := [.load ⟨3, 2 ^ 51, 8, true, 0, 3, false, 5⟩] }) 0).mem.pend = [.load ⟨3, 2 ^ 51, 8, true, 0, 3, false, 5⟩] :=
  ⟨⟨clean, by decide +kernel, rfl⟩, ⟨clean, by decide +kernel, rfl⟩, .inr (.inl (by decide +kernel)), .inr (.inr (home_reads _ [] [])), rfl, by decide, rfl⟩
/-- The same at each scope above CORE, with clean copies nearby, and of a line with a single copy. -/
theorem witness_Loads_scoped :
    (CleanIn (coreAt (reaching (loading 2) [] [clean] [clean] [] []) 0).mem.l1 (2 ^ 37 / 128) ∧
      CleanIn (waysOf (reaching (loading 2) [] [clean] [clean] [] []) (clusterOf 0)) (2 ^ 37 / 128) ∧
      FreshIn (waysOf (reaching (loading 2) [] [clean] [clean] [] []) (clusterOf 0)) (2 ^ 37 / 128)) ∧
    (∀ y, l2Find (reaching (loading 3) [] [] [] [copy] []) (dieOf 0) (2 ^ 37 / 128) = some y → y.nc = true → y.dirty = 0) ∧
    DieServes (reaching (loading 3) [] [] [] [copy] []) (dieOf 0) (2 ^ 37 / 128) false ∧
    HomeReads (reaching (loading 4) [] [clean] [clean] [] []) (dieOf 0) (2 ^ 37 / 128) ∧ (coreAt (reaching (loading 4) [] [] [] [] []) 0).mem.sb = [] ∧
    (coreAt (withMem fun m => { m with pend := [.load ⟨3, pad, 8, true, 4, 1, false, 5⟩] }) 0).mem.pend = [.load ⟨3, pad, 8, true, 4, 1, false, 5⟩] := by
  have h (l : List CLine) (y : CLine) (e : l = [clean]) (f : clineFind l (2 ^ 37 / 128) = some y) : y.dirty = 0 := by
    subst e; have : y = clean := by revert f; decide +kernel +revert
    rw [this]; rfl
  refine ⟨⟨?_, ?_, ⟨clean, by decide +kernel, rfl⟩⟩, ?_, .inr (.inl (by decide +kernel)), home_reads _ [clean] [clean], rfl, rfl⟩
  · intro y f; exact h _ y (by decide +kernel) f
  · intro y f; exact h _ y (by decide +kernel) f
  · intro y f g
    have e : l2Find (reaching (loading 3) [] [] [] [copy] []) (dieOf 0) (2 ^ 37 / 128) = some copy := by decide +kernel
    rw [e] at f; cases f; cases g
/-- R247: a load finds its own core's earlier store first, then the L1; R259: at DEVICE scope it reads the home. -/
theorem test_load_levels :
    let got (s : State) : Dword := reg (after s (.loadReturn 0 0)) 3
    got (reaching (loading 0) [⟨2 ^ 37, 0x77, 1, 0, false, 3⟩] [clean] [] [] []) = 0x2277 ∧ got (reaching (loading 0) [] [clean] [] [] []) = 0x2211 ∧
    got (reaching (loading 0) [] [] [] [copy] []) = 5 ∧ got (reaching (loading 4) [] [clean] [] [copy] []) = 0x11 := by decide +kernel
theorem witness_Stores :
    (Plain (address (regs [(1, 0x4000)]) 1 1 8) 8 ∧ seqTranslate (regs [(1, 0x4000)]) 0 0x4008 true = (regs [(1, 0x4000)], .ok ⟨pad + 8, 1, false⟩) ∧
      (pad + 8) % 8 = 0 ∧ inDoorbell (pad + 8) = false ∧ (coreAt (regs [(1, 0x4000)]) 0).mem.pend = [] ∧ (coreAt (regs [(1, 0x4000)]) 0).mem.sb.length < 16 ∧ (3 : BitVec 3) ≠ 0) ∧
    let e : StoreEnt := ⟨pad, 5, 0xFF, 1, false, 0⟩
    (coreAt (withMem fun m => { m with sb := [e] }) 0).mem.sb = [e] ∧ (coreAt (withMem fun m => { m with sb := [e] }) 0).mem.pend = [] ∧ inCounters e.pa = false ∧ e.home = 1 ∧ inDoorbell e.pa = false ∧ inHost e.pa = false := by
  unfold Plain address gr; decide +kernel
/-- A store that the L1 fetches its line for; stores with a scope to a line of another die and to one of the core's own. -/
theorem witness_Stores_cached :
    let e : StoreEnt := ⟨2 ^ 37, 5, 0xFF, 0, false, 0⟩
    let s : State := { withMem fun m => { m with sb := [e] } with sys := MemSys.reset }
    let w (pa sc : Nat) : PendStore := ⟨pa, 4, 5, sc, 0, false, 0⟩
    let a := reaching (.store (w (2 ^ 37) 1)) [] [] [] [] []
    let b := reaching (.store (w 0x8000 3)) [] [] [] [] []
    ((coreAt s 0).mem.sb = [e] ∧ (coreAt s 0).mem.pend = [] ∧ e.home = 0 ∧ e.pa % 8 = 0 ∧ DieServes s (dieOf 0) (e.pa / 128) e.nc ∧
      FreshIn [clean] (e.pa / 128) ∧ ([clean].filter fun x => x.line % 128 == e.pa / 128 % 128).length ≤ 4) ∧
    ((coreAt a 0).mem.pend = [.store (w (2 ^ 37) 1)] ∧ (coreAt a 0).mem.sb = [] ∧ (coreAt a 0).mem.l1 = [] ∧ waysOf a (clusterOf 0) = [] ∧
      l2Of a (dieOf 0) = [] ∧ a.sys.posted = [] ∧ bellHeld a 0 = false ∧ 1 ≤ wayAssoc a (clusterOf 0) ∧ DieServes a (dieOf 0) (2 ^ 37 / 128) false) ∧
    homeDie 0x8000 = dieOf 0 ∧ b.sys.msgs = [] ∧ b.sys.setWait = [] ∧ homeStands b (0x8000 / 128) = false ∧ UncachedOrShared b (0x8000 / 128) := by
  refine ⟨⟨rfl, rfl, rfl, rfl, .inr (.inr ⟨⟨rfl, rfl, by decide +kernel, by intro e h; cases h⟩, fun _ => ⟨.inr (by decide +kernel), fun _ => by decide +kernel⟩⟩),
    ⟨clean, rfl, rfl⟩, by decide +kernel⟩, ⟨rfl, rfl, rfl, by decide +kernel, by decide +kernel, rfl, by decide +kernel, by decide +kernel,
    .inr (.inr (home_reads _ [] []))⟩, by decide +kernel, rfl, rfl, by decide +kernel, .inl rfl⟩
/-- R247, R235: a drained store stays in the L1; a store at DEVICE scope is in the home copy. -/
theorem test_store_levels :
    let s : State := { withMem fun m => { m with sb := [⟨2 ^ 37, 5, 0xFF, 0, false, 0⟩] } with sys := MemSys.reset }
    let t := after s (.storeBufferDrain 0)
    let u := (accessWork 0 (reaching (.store ⟨2 ^ 37, 4, 5, 4, 0, false, 0⟩) [] [] [] [] [])).getD State.reset
    (coreAt t 0).mem.l1.map (fun y => (y.line, y.data, y.dirty)) = [(2 ^ 30, 5, 0xFF)] ∧ t.sys.mem = [] ∧ u.sys.mem = [(2 ^ 37, 5)] := by decide +kernel
theorem witness_Atomics :
    (Plain (gr (regs [(1, 0x4008)]) 1).toNat 8 ∧ seqTranslate (regs [(1, 0x4008)]) 0 0x4008 true = (regs [(1, 0x4008)], .ok ⟨pad + 8, 1, false⟩) ∧
      inHost (pad + 8) = false ∧ inDoorbell (pad + 8) = false) ∧
    let l : PendAmo := ⟨11, pad, 8, 3, 2, 0, true, false, 31, 1, false, 0⟩
    let s := withMem fun m => { m with pend := [.amo l] }
    (coreAt s 0).mem.pend = [.amo l] ∧ (coreAt s 0).mem.sb = [] ∧ l.sc = 0 ∧ l.home = 1 ∧ l.fn ≤ 11 ∧ l.reg < 32 ∧ l.n = 8 ∧ l.v < 2 ^ (8 * l.n) ∧ l.e < 2 ^ (8 * l.n) := by
  unfold Plain gr; decide +kernel
/-- A stochastic FADD.BF16 on a scratchpad line, and one of FP32 on a line that no cache keeps. -/
theorem witness_Atomics_sums :
    let l : PendAmo := ⟨13, pad, 2, 0x3B00, 0, 0, true, true, 31, 1, false, 0⟩
    let m : PendAmo := ⟨12, 0x8000, 4, 0x3F800000, 0, 0, true, false, 31, 3, false, 0⟩
    let s (l : PendAmo) : State := { withMem (fun m => { m with pend := [.amo l] }) with sys := { mapped with scratch := [(0, 1)] } }
    ((coreAt (s l) 0).mem.pend = [.amo l] ∧ (coreAt (s l) 0).mem.sb = [] ∧ scratchCluster (s l) l.pa = some 0 ∧ l.v < 2 ^ (8 * l.n)) ∧
    (coreAt (s m) 0).mem.pend = [.amo m] ∧ (coreAt (s m) 0).mem.sb = [] ∧ scratchCluster (s m) m.pa = none ∧ m.v < 2 ^ (8 * m.n) := by
  decide +kernel
/-- An atomic of a line that die 0 owns with a dirty byte, of one in U, and of an NC line. -/
theorem witness_Atomics_recall :
    let l (nc : Bool) : PendAmo := ⟨0, 2 ^ 37, 4, 7, 9, 0, true, false, 3, 0, nc, 5⟩
    let s := reaching (.amo (l false)) [] [] [] [⟨2 ^ 30, 5, 1, true, false, false⟩] [(2 ^ 30, ⟨.x, bit5 0, 0, [], 0⟩)]
    ((coreAt s 0).mem.pend = [.amo (l false)] ∧ (coreAt s 0).mem.sb = [] ∧ CleanIn (coreAt s 0).mem.l1 (2 ^ 30) ∧ CleanIn (waysOf s (clusterOf 0)) (2 ^ 30) ∧
      (∀ y, l2Find s (dieOf 0) (2 ^ 30) = some y → y.nc = false ∧ (y.nc = true → y.dirty = 0)) ∧
      s.sys.msgs = [] ∧ s.sys.setWait = [] ∧ homeStands s (2 ^ 30) = false ∧ Owned s (2 ^ 30)) ∧
    UncachedOrShared (reaching (.amo (l false)) [] [] [] [] []) (2 ^ 30) ∧ (l true).nc ≠ false := by
  refine ⟨⟨rfl, rfl, (by intro y h; cases h), (by intro y h; cases h), ?_, rfl, rfl, by decide +kernel,
    ⟨⟨.x, bit5 0, 0, [], 0⟩, 0, by decide, by decide +kernel, rfl, rfl, rfl⟩⟩, .inl rfl, by decide⟩
  intro y h
  have e : l2Find (reaching (.amo ⟨0, 2 ^ 37, 4, 7, 9, 0, true, false, 3, 0, false, 5⟩) [] [] [] [⟨2 ^ 30, 5, 1, true, false, false⟩] [(2 ^ 30, ⟨.x, bit5 0, 0, [], 0⟩)])
    (dieOf 0) (2 ^ 30) = some ⟨2 ^ 30, 5, 1, true, false, false⟩ := by decide +kernel
  rw [e] at h; cases h; exact ⟨rfl, by intro h; cases h⟩
/-- R283: the owner's dirty byte is the old value, the sum is in memory, and no die keeps a copy. -/
theorem test_atomic_recalls :
    let t := after (reaching (.amo ⟨0, 2 ^ 37, 4, 7, 9, 0, true, false, 3, 0, false, 5⟩) [] [] [] [⟨2 ^ 30, 5, 1, true, false, false⟩]
      [(2 ^ 30, ⟨.x, bit5 0, 0, [], 0⟩)]) (.amoAtomic 0 0)
    reg t 3 = 5 ∧ t.sys.mem = [(2 ^ 37, 12)] ∧ l2Of t 0 = [] := by decide +kernel
/-- R288: the spec's example: 2^-9 added to 1.0 in BF16 with the unit's state 1 leaves 0x3F80, and steps it to 0x00042021. -/
theorem test_fadd_bf16 :
    let t := after { withMem (fun m => { m with pend := [.amo ⟨13, pad, 2, 0x3B00, 0, 0, false, true, 0, 1, false, 0⟩] }) with
      sys := { mapped with scratch := [(0, 1)], agen := [(16, 1)], mem := [(pad, 0x80), (pad + 1, 0x3F)] } } (.amoAtomic 0 0)
    memByte t.sys.mem pad = 0x80 ∧ memByte t.sys.mem (pad + 1) = 0x3F ∧ t.sys.agen = [(16, 0x00042021)] := by decide +kernel
theorem witness_FencesCacheAndFullBits :
    let s := regs [(1, 0x4000), (2, 1)]
    CacheOperand s s ⟨pad, 1, false⟩ 1 0 true ∧ gr s 3 = 0 ∧ gr s 2 ≠ 0 ∧ (gr s 2).toNat ≤ 65536 ∧ (gr s 1).toNat % 128 = 0 ∧
    (gr s 1).toNat % 4096 + 128 * (gr s 2).toNat ≤ 4096 ∧ (gr s 1).toNat < 0xFFFFFFFFFFFFF000 ∧ seqTranslate s s.me (gr s 1).toNat true = (s, .ok ⟨pad, 1, false⟩) ∧
    clearPages s (.spclr 1 2) (gr s 1).toNat ((gr s 1).toNat + 128 * (gr s 2).toNat - 1) ((gr s 2).toNat / 32 + 2) = (s, .ok [pad / 128]) := by
  unfold CacheOperand Plain address gr; decide +kernel
/-- G1 names line 0 of a HOME=00 page at physical address pa, which the sequencer's micro-TLB holds. -/
def cached (pa : Nat) (f : MemPath → MemPath) (g : MemSys → MemSys) : State :=
  { lone fun k => { k with seq := { k.seq with g := [(1, 0x4000)] }, mem := f k.mem } with
    sys := g { MemSys.reset with tlb := [⟨0, 0, 0x4000, 4096, BitVec.ofNat 64 (2 + 4 + pa)⟩] } }
def soiled : CLine := ⟨0x8000 / 128, 5, 1, false, false⟩
def nearLine : State := cached 0x8000 (fun m => { m with l1 := [soiled] }) id
def farLine : State := cached (2 ^ 37) id fun y => { y with
  l2 := [(0, [⟨2 ^ 30, 5, 1, true, false, false⟩])], dir := [(2 ^ 30, ⟨.x, bit5 0, 0, [], 0⟩)] }
theorem witness_FencesCacheAndFullBits_shared :
    (CacheOperand nearLine nearLine ⟨0x8000, 0, false⟩ 1 0 true ∧ (coreAt nearLine 0).mem.pend = [] ∧ (coreAt nearLine 0).mem.sb = [] ∧
      ((coreAt nearLine 0).mem.l1.map (·.line)).Nodup ∧ Still nearLine 0 ∧ (coreAt nearLine 0).mem.l1 = [soiled] ∧ soiled.line = 0x8000 / 128 ∧
      waysOf nearLine 0 = [] ∧ l2Of nearLine 0 = [] ∧ soiled.dirty ≠ 0 ∧ homeDie (128 * soiled.line) = dieOf 0 ∧ homeStands nearLine soiled.line = false ∧ dirAt nearLine soiled.line = none) ∧
    (CacheOperand farLine farLine ⟨2 ^ 37, 0, false⟩ 1 0 true ∧ Still farLine 0 ∧ homeStands farLine (2 ^ 37 / 128) = false ∧ homeDie (128 * (2 ^ 37 / 128)) ≠ dieOf 0 ∧
      clineFind (coreAt farLine 0).mem.l1 (2 ^ 37 / 128) = none ∧ clineFind (waysOf farLine 0) (2 ^ 37 / 128) = none ∧
      l2Find farLine 0 (2 ^ 37 / 128) = some ⟨2 ^ 30, 5, 1, true, false, false⟩ ∧ dirAt farLine (2 ^ 37 / 128) = some ⟨.x, bit5 0, 0, [], 0⟩) := by
  unfold CacheOperand Plain Still address gr; decide +kernel
/-- A line that die 1 shares; one that is NC; a store that waits; a wait that ends. -/
theorem witness_FencesCacheAndFullBits_others :
    UncachedOrShared (cached 0x8000 (fun m => { m with l1 := [soiled] }) fun y => { y with dir := [(256, ⟨.s, bit5 1, 0, [], 0⟩)] }) soiled.line ∧
    (let w : PendStore := ⟨pad, 8, 5, 4, 1, false, 0⟩
     let s := withMem fun m => { m with pend := [.store w] }
     (coreAt s 0).mem.pend = [.store w] ∧ (coreAt s 0).mem.sb = [] ∧ (coreAt s 0).mem.l1 = [] ∧ waysOf s 0 = [] ∧ l2Of s 0 = [] ∧ s.sys.posted = [] ∧ w.home = 1 ∧
       inDoorbell w.pa = false ∧ inCounters w.pa = false ∧ inHost w.pa = false ∧ w.n = 8 ∧ w.pa % w.n = 0 ∧ w.v < 2 ^ (8 * w.n)) ∧
    kwaitMet (regs []) 1 0 = true ∧ bwaitMet (regs []) 1 1 = true ∧
    (let s (j : List JoinWait) : State := lone fun k => { k with run := .running, fences := [(4, false)], joinw := j }
     fenceWaits (s []) 0 = false ∧ (coreAt (s []) 0).fences = [] ++ (4, false) :: [] ∧ fenceOpen (coreAt (s []) 0) (4, false) = true ∧ bellHeld (s []) 0 = false ∧
       isHalted (s []) 0 = false) := by
  refine ⟨.inr ⟨⟨.s, bit5 1, 0, [], 0⟩, 1, by decide, by decide +kernel, rfl, rfl, rfl⟩, ?_⟩
  decide +kernel
/-- R116: LD sign-extends a byte of 0x80, LDU does not. -/
theorem test_load_byte (b : Bool) :
    reg (after { withMem (fun m => { m with pend := [.load ⟨4, pad, 1, b, 0, 1, false, 0⟩] }) with sys := { mapped with mem := [(pad, 0x80)] } } (.loadReturn 0 0)) 4 =
      if b then 0xFFFFFFFFFFFFFF80 else 0x80 := by cases b <;> decide +kernel
/-- R284: MAX is signed at the operand's width; R286: CAS writes when the bytes equal G d. -/
theorem test_amo_max : memByte (after { withMem (fun m => { m with pend := [.amo ⟨5, pad, 4, 1, 0, 0, false, false, 0, 1, false, 0⟩] }) with
      sys := { mapped with mem := [(pad, 0xFF), (pad + 1, 0xFF), (pad + 2, 0xFF), (pad + 3, 0xFF)] } } (.amoAtomic 0 0)).sys.mem pad = 1 := by decide +kernel

/-! ### The array (R12 to R25, R83 to R104, R165 to R195) -/

/-- A selected cell whose neighbours hold C = 0. -/
def here : CellIn := { sel := true, row := 0, col := 0, frm := 0, trapen := 0, imx := none, nbr := fun _ => .zero, now := 5, tag := 0, bundle := 0, limit := 0x7400 }
def cell0 : CellSt := CellSt.reset 0
def fill (l : Tab FReg) : CellSt := { cell0 with f := l }
/-- One 32-bit element, number 0. -/
def one (v : Nat) : FReg := ⟨BitVec.ofNat 512 v, 0⟩
def f0 (k : CellSt) (n : Nat) : Nat := elem 32 (readF k n).data 0
/-- A core whose window is the last cell. -/
def corner : State := lone fun k => { k with arr := { k.arr with win := ⟨31, 31, 1, 1, .nw⟩ } }

theorem witness_WInstructionsReachTheirCell :
    OneCell corner 31 31 ∧ (∀ x ∈ (coreAt corner 0).arr.due, (coreAt corner 0).arr.acyc < x.1) ∧ ¬ SfFull corner ∧ SfFull (lone fun k => { k with arr := { k.arr with sfIssued := [0, 0, 0, 0] } }) ∧
    (∃ l : Binding, (loaderAt (coreAt (lone fun k => { k with edge := { k.edge with loaders := [(0, ⟨some ⟨false, false, false, 0, 0, 0, 0, 0, 0, 1, none⟩, [], []⟩)] } }) 0).edge 0).bind = some l ∧
      0 < l.left ∧ l.drain = false) ∧ { here with sel := false }.sel = false := by
  refine ⟨⟨rfl, ⟨.nw, rfl⟩, by decide, by decide, fun _ => rfl, fun w h => by cases h⟩, by decide +kernel, by unfold SfFull; decide +kernel, by unfold SfFull; decide +kernel, ⟨_, rfl, by decide, rfl⟩, rfl⟩
theorem witness_VectorResults : here.sel = true ∧ (4 : BitVec 4).toNat ≤ 4 ∧ 6 ≤ (6 : BitVec 4).toNat ∧ (10 : BitVec 4).toNat ≤ 10 ∧
    ((24 : BitVec 5).toNat ≤ 24 ∨ 28 ≤ (24 : BitVec 5).toNat) ∧ ((28 : BitVec 5).toNat ≤ 24 ∨ 28 ≤ (28 : BitVec 5).toNat) ∧ (7 : BitVec 5).toNat < 8 ∧
    (9 : BitVec 5).toNat < 10 := by decide +kernel
theorem witness_CellMoves : here.sel = true ∧ 28 ≤ (31 : BitVec 5).toNat ∧ (23 : BitVec 5).toNat < 24 ∧ (5 : BitVec 5) ≠ 24 ∧
    InStore here { cell0 with a := [(0, 0x7400 - 128)] } 1 0 ∧ ¬ InStore here { cell0 with a := [(0, 0x7400 - 64)] } 1 0 := by
  unfold InStore addrAt; decide +kernel
theorem witness_ConversionsInACell : here.sel = true ∧ (10 : BitVec 4).toNat ≤ 10 ∧ (2 : BitVec 4).toNat ≤ 2 ∧ 1 ≤ (1 : BitVec 5).toNat ∧ (4 : BitVec 5).toNat ≤ 4 := by
  decide +kernel
theorem witness_SpecialFunctionsEnterThePipeline : here.sel = true ∧ (2 : BitVec 4).toNat ≤ 2 ∧ (23 : BitVec 5).toNat < 24 := by decide +kernel
theorem witness_FlagsInACell : here.sel = true ∧ ((24 : BitVec 5).toNat ≤ 24 ∨ 28 ≤ (24 : BitVec 5).toNat) := by decide +kernel
theorem witness_MatrixMovesInACell : here.sel = true := by decide
/-- A legal nibble 4, and the reserved 0. -/
theorem witness_TraySumsEnterTheAdder : here.sel = true ∧ LegalNibble 4 ∧ ¬ LegalNibble 0 ∧ Chosen cell0 1 0 = false ∧ Chosen cell0 0 31 = true := by
  unfold LegalNibble; decide +kernel
theorem witness_LaterResultsLand :
    let e : SfEntry := ⟨14, 0, 0, 12, 1, 7, 0, true, false, 0⟩
    let t : TrayEntry := ⟨4, 0, 0, 3, 1, 7, 0, true, false, 0⟩
    let s (l : List (Nat × ArrEv)) (n : Nat) := lone fun k => { k with arr := { k.arr with
      acyc := n, due := l, cells := [(1023, { CellSt.reset 1023 with sfq := [e], tq := [t] })], groups := [⟨9, 0, .zero⟩] } }
    IsMaster (s [] 0) 0 ∧ 0 < chainLen (coreAt (s [] 0) 0) ∧ masterOf (s [] 0) 0 = 0 ∧ (cellAt (coreAt (s [(14, .sf 0 31 31)] 15) 0).arr (32 * 31 + 31)).sfq = [e] ∧ (coreAt (s [] 0) 0).chain = [] ∧ e.trapen = 0 ∧
    (cellAt (coreAt (s [(4, .tray 0 31 31)] 5) 0).arr (32 * 31 + 31)).tq = [t] ∧ t.trapen = 0 ∧ t.tray < 4 ∧
    (coreAt (s [(9, .group)] 9) 0).arr.groups = [⟨9, 0, .zero⟩] ∧ (coreAt (s [(9, .group)] 9) 0).arr.due = [(9, .group)] ∧ 9 ≤ (coreAt (s [(9, .group)] 9) 0).arr.acyc ∧
    (∀ d ∈ (coreAt (s [(14, .sf 0 31 31)] 14) 0).arr.due, d.2 = .sf 0 31 31 → (coreAt (s [(14, .sf 0 31 31)] 14) 0).arr.acyc ≤ d.1) :=
  ⟨.inl rfl, by decide +kernel⟩
/-- Cores 0 and 5 are a chain with a link of 18 cycles; a wave over it is to reach its next distance in cycle at_. -/
def linked (w : Wave) (at_ : Nat) (cells far : Tab CellSt) : State :=
  { State.reset with cores := [
      (0, { Core.reset with
        run := .running, chain := [0, 5], chainEW := true, ctl := { Ctl.reset with skew := [(1, 18)] }
        arr := { Arr.reset with cells := cells, waves := [w], due := [(at_, .reach w.tag)], acyc := at_ + 1 } }),
      (5, { Core.reset with lcore := 1, run := .follower 0, arr := { Arr.reset with cells := far } })] }
/-- A wave over a window of one cell a core, at distance `next`. -/
def crossing (i : Instr) (next : Nat) : Wave :=
  ⟨0, i, none, 7, 0, next, BitVec.allOnes 32, BitVec.allOnes 32, 0, 0, ⟨0, 0, 1, 1, .nw⟩, [], [], .zero⟩
theorem linked_master (w : Wave) (n : Nat) (a b : Tab CellSt) : IsMaster (linked w n a b) 0 := .inr ⟨[5], rfl, by decide⟩
/-- In a chain: a result of the follower's cell, whose faults come with it. -/
theorem witness_LaterResultsLand_chain :
    let e : SfEntry := ⟨14, 0, 0, 12, 1, 7, 0, true, false, 0x3F⟩
    let s := modArr (linked (crossing .cnop 0) 3 [] [(0, { CellSt.reset 0 with sfq := [e] })]) 0 fun a => { a with waves := [], due := [(3, .sf 5 0 0)] }
    1 < chainLen (coreAt s 0) ∧ chainCore s 0 1 = 5 ∧ masterOf s 5 = 0 ∧ (frontCell s 0 5 0).sfq = [e] ∧ (coreAt s 0).arr.due = [(3, .sf 5 0 0)] ∧
      3 < (coreAt s 0).arr.acyc ∧ linksTo (coreAt s 0) 1 = 17 ∧ allLinks (coreAt s 0) ≠ 0 := by decide +kernel
/-- A wave at the last distance of a 2 by 2 window, and at one before it; one at either position of a chain with a slow link. -/
theorem witness_WavesAdvanceOneDistance :
    (let w : Wave := ⟨0, .nope, none, 0, 0, 2, 0, 0, 0, 0, ⟨30, 30, 2, 2, .nw⟩, [], [], .zero⟩
     let s := lone fun k => { k with arr := { k.arr with waves := [w], due := [(2, .reach 0)], acyc := 3 } }
     IsMaster s 0 ∧ ((coreAt s 0).arr.waves.find? fun v => v.tag == w.tag) = some w ∧ (coreAt s 0).arr.due = [(2, .reach w.tag)] ∧ 2 < (coreAt s 0).arr.acyc ∧
       w.win.row0 + w.win.h ≤ 32 ∧ w.win.col0 + w.win.w ≤ 32 ∧ ¬ w.next < w.win.h + w.win.w - 2 ∧ { w with next := 1 }.next < w.win.h + w.win.w - 2 ∧
       NextAt s 0 w 0 31 31 ∧ ¬ NextAt s 0 w 0 31 30) ∧
    (∀ n, n < 2 → let w := crossing (.mov 0 3 0 0) n
     let s := linked w n [] [(0, { CellSt.reset 0 with f := [(0, one 5)] })]
     NextAt s 0 w n 0 0 ∧ ((coreAt s 0).arr.waves.find? fun v => v.tag == w.tag) = some w ∧ (coreAt s 0).arr.due = [(n, .reach w.tag)] ∧
       linksTo (coreAt s 0) n = 17 * n) ∧
    (let w := crossing (.cflag 0 0) 1
     let s := modArr (linked w 1 [] []) 0 fun a => { a with groups := [⟨21, 0, .zero⟩] }
     w.instr = .cflag 0 0 ∧ (coreAt s 0).arr.groups = [⟨21, w.tag, .zero⟩]) ∧
    (let s := linked (crossing .cnop 0) 0 [] []
     ∀ p ∈ positions (coreAt s s.me) s.me, ∀ e, (loaderAt (coreAt s p).edge e).bind = none) ∧
    (let s := modArr (linked (crossing .cnop 0) 20 [] []) 0 fun a => { a with due := [(20, .cell 5 0 0 { CellSt.reset 0 with p := 1 } [(4, 9)])] }
     (coreAt s 0).arr.due = [(20, .cell 5 0 0 { CellSt.reset 0 with p := 1 } [(4, 9)])] ∧ 20 < (coreAt s 0).arr.acyc) := by
  refine ⟨⟨.inl rfl, by unfold NextAt; decide +kernel⟩, by unfold NextAt; decide +kernel, by decide +kernel, ?_, by decide +kernel⟩
  intro s p h e
  have : p ∈ [0, 5] := h
  have : p = 0 ∨ p = 5 := by simpa using this
  rcases this with rfl | rfl <;> rfl
/-- R28: with CHAINSKEW 18 the follower's first cell, at distance 1, has its result in cycle 1 + 17, not before. -/
theorem test_follower_delay :
    let w := crossing (.mov 0 3 0 0) 1
    let t := after (linked w 1 [] [(0, { CellSt.reset 0 with f := [(0, one 5)] })]) (.wavefrontReach 0 0)
    let late (s : State) : State := ((arrayWork (modArr s 0 fun a => { a with acyc := 19 }) 0).getD State.reset)
    f0 (cellAt (coreAt t 5).arr 0) 3 = 0 ∧ (coreAt t 0).arr.due.map (·.1) = [18, 18] ∧ f0 (cellAt (coreAt (late t) 5).arr 0) 3 = 5 := by decide +kernel
/-- R20, R28: the master's cell reads its downstream neighbour across the link as the instruction before left it. -/
theorem test_reads_across_the_link :
    let t := after (linked (crossing (.cpass 0 0 29 0) 0) 0 [] [(0, { CellSt.reset 0 with c := one 8 })]) (.wavefrontReach 0 0)
    elem 32 (cellAt (coreAt t 0).arr 0).c.data 0 = 8 := by decide +kernel

/-- R89: 1.5 + 0.25 in element 0 of F2; R93: INT8 sums wrap and Q31 sums saturate. -/
theorem test_fadd : f0 (cellRun (.fadd 0 2 0 1 0 0 0) here (fill [(0, one 0x3FC00000), (1, one 0x3E800000)])).cell 2 = 0x3FE00000 := by decide +kernel
theorem test_iadd : f0 (cellRun (.iadd 0 2 0 1 0 8 0) here (fill [(0, one 0x7F), (1, one 0x01)])).cell 2 = 0x80 ∧
    f0 (cellRun (.iadd 0 2 0 1 0 9 0) here (fill [(0, one 0x7FFFFFFF), (1, one 1)])).cell 2 = 0x7FFFFFFF := by decide +kernel
/-- R94, R90: an 8-bit compare needs both elements of the slice. -/
theorem test_icmp : (cellRun (.icmp 0 5 0 1 0 8 0) here (fill [(0, one 0x0101), (1, one 0x0001)])).cell.p = 0 ∧
    (cellRun (.icmp 0 5 0 1 0 8 0) here (fill [(0, one 0x0101), (1, one 0)])).cell.p = 1 := by decide +kernel
/-- The worked word of R172: IMX payload 0x0E above ten zero bits is FP16 0.5 in all slices. -/
theorem test_movi : elem 16 (readF (cellRun (.movi 0 1 0 2 0) { here with imx := some 0x0E } cell0).cell 1).data 31 = 0x3800 := by decide +kernel
/-- R158: INT8 products of one row and column, wrapping INT32. -/
theorem test_macc : (cellRun (.macc 0 0 1 0 12 0 8 0) here (fill [(0, one 0xFF02), (12, one 0x0403)])).cell.tq.map (fun e => trayEl e.data 0) = [2] := by
  decide +kernel
theorem test_wave_reaches_the_cell :
    let s : State := { corner with cores := [(0, { coreAt corner 0 with arr := { (coreAt corner 0).arr with cells := [(1023, { CellSt.reset 1023 with f := [(0, one 5)] })] } })] }
    elem 32 (readF (cellAt (coreAt (after (cycleLater (after s (.mov 0 3 0 0))) (.wavefrontReach 0 0)) 0).arr 1023) 3).data 0 = 5 := by decide +kernel

/-- R20's first row: CPASS from the downstream neighbour NBE shifts C to the west; the last column's missing neighbour reads 0. -/
theorem test_neighbour_reads :
    let s := lone fun k => { k with arr := { k.arr with win := ⟨0, 0, 1, 2, .nw⟩, cells := [(0, { CellSt.reset 0 with c := one 5 }), (1, { CellSt.reset 1 with c := one 6 })] } }
    let t := after (cycleLater (after (cycleLater (after s (.cpass 0 0 29 0))) (.wavefrontReach 0 0))) (.wavefrontReach 0 0)
    elem 32 (cellAt (coreAt t 0).arr 0).c.data 0 = 6 ∧ elem 32 (cellAt (coreAt t 0).arr 1).c.data 0 = 0 := by decide +kernel
/-- R89, R222: an overflow with OF enabled is a deferred FP fault with that flag alone; with nf = 1 there is none. -/
theorem test_fp_fault :
    let x : CellIn := { here with trapen := 4, row := 3, col := 7 }
    (cellRun (.fadd 0 2 0 0 0 0 0) x (fill [(0, one 0x7F7FFFFF)])).faults = [(0x11, 3 + 8 * 4 + 3 * 2 ^ 8 + 7 * 2 ^ 16)] ∧
    (cellRun (.fadd 0 2 0 0 1 0 0) x (fill [(0, one 0x7F7FFFFF)])).faults = [] := by decide +kernel
/-! ### The Y slot, control registers, loaders, the epilogue unit (R34, R119 to R124, R130 to R147, R196 to R218) -/

def paired (f : Core → Core) : State :=
  let s := lone fun k => f { k with task := some ⟨0, 0, true, 0, 0, 0⟩ }
  { s with sched := { Sched.reset with teams := [(0, pair)] } }
/-- A 16 by 16 FP32 tensor at 0x4000, its record, and a copy of it with an extent of 0. -/
def record : RecBits := BitVec.ofNat 1536 (0x4000 + 16 * 2 ^ 64 + 16 * 2 ^ 96 + 2 ^ 128 + 2 ^ 160 + 2 ^ 192 + 4 * 2 ^ 256 + 64 * 2 ^ 320)
def badRecord : RecBits := BitVec.ofNat 1536 (0x4000 + 16 * 2 ^ 64 + 4 * 2 ^ 256 + 64 * 2 ^ 320)
def withRecs (r : RecBits) : State := lone fun k => { k with edge := { k.edge with recs := [(4, r)], progs := [(1, [0])] } }
def feeding : Binding := ⟨false, false, false, record, 4, 0, 0, 0, 0, 1, none⟩
def boundBy (b : Binding) : State :=
  let s := lone fun k => { k with arr := { k.arr with win := ⟨0, 0, 1, 1, .nw⟩ }, edge := { k.edge with loaders := [(0, ⟨some b, [], []⟩)] } }
  { s with sys := { mapped with full := [(pad / 128, true)] } }
def bound : State := boundBy feeding
/-- A step outside the record's extents: all padding. -/
def padded : Binding := { feeding with q0 := 1 }
def capture : Capture := ⟨0, 0, 0, { feeding with drain := true }, 0, 1, [], 1, 0, 0⟩
def draining : State := lone fun k => { k with edge := { k.edge with loaders := [(0, ⟨none, [], [capture]⟩)] } }
/-- The same inside a task. -/
def busyDrain (p : Capture) (d : List Deferred) : State :=
  lone fun k => { k with task := some rootTask, deferred := d, edge := { k.edge with loaders := [(0, ⟨none, [], [p]⟩)] } }
/-- An element of it lies beyond the page. -/
def astray : Capture := { capture with bind := { capture.bind with recd := record + 0x4000 } }
/-- The clock of cluster 0, which has a scratchpad of 1 MiB, stands. -/
def standing (s : State) : State := { s with power := { s.power with islands := [(0, .ret)] }, sys := { s.sys with scratch := [(0, 1)] } }
/-- Cores 0 and 5, a west-to-east chain in which no wave is on its way; its E instructions go to position x. -/
def joinedPair (x : Option (BitVec 2)) (far : Core → Core) : State :=
  let s := modArr (linked (crossing .cnop 0) 0 [] []) 0 fun a => { a with waves := [], due := [] }
  { s with sys := mapped, cores := [(0, { coreAt s 0 with seq := { Seq.reset with xtgt := x } }), (5, far (coreAt s 5))] }

theorem witness_WaitsHoldUntilTheirCondition :
    let s := withSeq fun q => { q with k := [(1, 5)], readyAt := 3, cyc := 10 }
    (coreAt s s.me).chain = [] ∧ (5 : BitVec 16).toNat ≤ (flagOf s s.me 1).toNat ∧ ¬ (6 : BitVec 16).toNat ≤ (flagOf s s.me 1).toNat ∧
    (barOf s s.me 0).phase ≠ ((1 : BitVec 1) == 1) ∧ ¬ (barOf s s.me 0).phase ≠ ((0 : BitVec 1) == 1) ∧ 3 + 7 ≤ 10 ∧ ¬ 3 + 8 ≤ 10 := by
  unfold flagOf barOf; decide +kernel
/-- A wave with a feed from edge N of core 0, one column past the corner of its 1 by 2 window or not yet there. -/
def fed (n : Nat) : Wave := ⟨0, .nope, none, 0, 0, n, 0, 0, 0, 0, ⟨0, 0, 1, 2, .nw⟩, [⟨0, 0, []⟩], [], .zero⟩
theorem witness_WaitsHoldUntilTheirCondition_edges :
    (let s := lone fun k => { k with arr := { k.arr with waves := [fed 2] } }
     (coreAt s 0).arr.waves = [fed 2] ∧ FedEverywhere (fed 2) 0 ∧ ¬ FedEverywhere (fed 1) 0 ∧ ¬ ArrayEmpty (coreAt s 0)) ∧ ArrayEmpty (coreAt (regs []) 0) ∧
    (loaderAt (coreAt (regs []) 0).edge 0).caps = [] ∧ (∀ w ∈ (coreAt (regs []) 0).arr.waves, ∀ f ∈ w.feeds, f.core = 0 → f.edge = 0 → FedEverywhere w 0) := by
  unfold FedEverywhere ArrayEmpty; decide +kernel
theorem witness_BarriersAndFlagsCount :
    let s := withSeq fun q => { q with bars := [(7, ⟨2, 1, 0, false⟩), (8, ⟨2, 2, 5, false⟩)], g := [(1, 0xFFFFFFFFFFFF)] }
    (barOf (release s s.me 4) s.me 7).count < (barOf (release s s.me 4) s.me 7).target ∧
    (barOf (release s s.me 4) s.me 8).target ≤ (barOf (release s s.me 4) s.me 8).count ∧
    liveHere s (teamNumber s s.me) s.me = true ∧ (barOf s s.me 7).pend + (gr s 1).toNat < 2 ^ 48 ∧ 2 ^ 48 ≤ (barOf s s.me 8).pend + (gr s 1).toNat := by unfold barOf gr; decide +kernel
theorem witness_PostsTravelInOrder :
    let s := paired id
    (teamOf s s.me).map (·.img.cores) = some 2 ∧ (1 : BitVec 6).toNat < 2 ∧ physCore s s.me 1 ≠ s.me ∧ 2 ≤ (2 : BitVec 6).toNat ∧ Quiet s ∧
    (let p : Post := ⟨0, 0, 0, 5, false, 1, 3⟩
     let u : State := { s with sys := { mapped with posts := [⟨0, 0, 5, 0, false, 2, 1⟩, p] } }
     u.sys.posts = [⟨0, 0, 5, 0, false, 2, 1⟩] ++ p :: [] ∧ liveHere u p.team p.dst = true) := by unfold Quiet; decide +kernel
/-- An arrival that completes a barrier, and one whose destination's context is in the context area. -/
theorem witness_PostsTravelInOrder_saved :
    let p : Post := ⟨0, 0, 0, 5, true, 1, 1⟩
    let s := paired id
    let u : State := { s with cores := [(0, coreAt s 0), (5, { Core.reset with seq := { Seq.reset with bars := [(1, ⟨1, 0, 0, false⟩)] } })], sys := { mapped with posts := [p] } }
    let v : State := { s with sys := { mapped with posts := [p] }, sched := { s.sched with saved := [(5, Core.reset)] } }
    (liveHere u 0 5 = true ∧ (barOf u 5 1).count < (barOf u 5 1).target ∧ (barOf s 5 1).target ≤ (barOf s 5 1).count) ∧ v.sys.posts = [] ++ p :: [] ∧ Tab.look v.sched.saved (64 * p.team + p.dst) = some Core.reset := by
  unfold barOf; decide +kernel
/-- A release on its way with a post to another core. -/
theorem witness_PostsTravelInOrder_release :
    (coreAt (withMem fun m => { m with pend := [.release ⟨4, 0, some ⟨0, 0, 0, 5, false, 1, 3⟩⟩] }) 0).mem.pend = [.release ⟨4, 0, some ⟨0, 0, 0, 5, false, 1, 3⟩⟩] :=
  rfl
theorem witness_SelectorsFlagsAndWindow :
    let s := regs [(1, 0x0100), (2, 31), (3, 0x10000)]
    (4 : BitVec 16).toNat < 5 ∧ OriginFits (coreAt s s.me) 3 ∧ ArraysEmpty s s.me ∧ (gr s 1).toNat = (gr s 1).toNat % 32 + 256 * ((gr s 1).toNat / 256 % 32) ∧
    ¬ ((gr s 2).toNat % 32 + 1 + 1 ≤ 32) ∧ ¬ (gr s 3).toNat = (gr s 3).toNat % 32 + 256 * ((gr s 3).toNat / 256 % 32) ∧ Quiet s := by
  unfold OriginFits ArraysEmpty Quiet gr; decide +kernel
/-- In a chain: a window that the origin fits, one that it does not, and a result under way in the follower's array. -/
theorem witness_SelectorsFlagsAndWindow_chain :
    let s := joinedPair none id
    let u := joinedPair none fun k => { k with arr := { k.arr with cells := [(0, { CellSt.reset 0 with sfq := [⟨14, 0, 0, 12, 1, 7, 0, true, false, 0⟩] })] } }
    positions (coreAt s s.me) s.me = [0, 5] ∧ ArraysEmpty s s.me ∧ OriginFits (coreAt s s.me) 2 ∧ ¬ OriginFits (coreAt s s.me) 1 ∧ Quiet s ∧ ¬ ArraysEmpty u u.me := by
  unfold OriginFits ArraysEmpty Quiet; decide +kernel
/-- R27: AWIN sets the window of both arrays of a chain. -/
theorem test_awin_in_a_chain :
    let t := after (joinedPair none id) (.awin 0 2 3 1)
    ∀ c ∈ [0, 5], (coreAt t c).arr.win = ⟨0, 0, 2, 4, .sw⟩ := by decide +kernel
theorem witness_LoadersArm :
    Addresses (withRecs record) 0 ∧ ¬ FacesLink (withRecs record) 0 1 ∧ NoAcquireWaits (withRecs record) ∧
    ((coreAt (withRecs record) 0).edge.recs.find? fun x => x.1 == 4) = some (4, record) ∧
    ¬ OffsetInUse (withRecs record) 0 0 (some 0) ∧ checkRecord record (recOrder record != false) false false = none ∧
    checkRecord record (recOrder record != false) false true = none ∧ checkRecord badRecord (recOrder badRecord != false) false false = some 0 ∧
    Quiet (withRecs badRecord) ∧ OffsetInUse bound 0 0 (some 1) ∧ Tab.get [] (coreAt (withRecs record) 0).edge.progs 2 = [] := by
  refine ⟨rfl, (by rintro ⟨i, h, -⟩; cases h), (by intro p h; cases h), by decide +kernel, ?_, by decide +kernel, by decide +kernel, by decide +kernel,
    ⟨rfl, .inl rfl, rfl, rfl, rfl⟩, ⟨0, feeding, by decide, by decide, rfl, by decide, rfl⟩, rfl⟩
  rintro ⟨e, b, _, _, h, _⟩; cases h
/-- XTGT 1 addresses the follower, whose edge W faces the link and whose edge E does not; XTGT 2 addresses no position. -/
theorem witness_LoadersArm_chain :
    (let s := joinedPair (some 1) fun k => { k with edge := { k.edge with recs := [(4, record)] } }
     Addresses s 5 ∧ FacesLink s 5 3 ∧ ¬ FacesLink s 5 1 ∧ NoAcquireWaits s ∧ Quiet s ∧
       ((coreAt s 5).edge.recs.find? fun x => x.1 == 4) = some (4, record) ∧ ¬ OffsetInUse s 5 0 (some 1)) ∧
    (let s := joinedPair (some 2) id
     (∀ c, ¬ Addresses s c) ∧ Quiet s) ∧
    (let s := withSeq fun q => { q with xtgt := some 1 }
     (∀ c, ¬ Addresses s c) ∧ Quiet s) := by
  refine ⟨⟨rfl, ⟨1, rfl, .inr ⟨rfl, by decide⟩⟩, ?_, (by intro p h; cases h), ⟨rfl, .inr (by decide), rfl, rfl, rfl⟩, by decide +kernel, ?_⟩,
    ⟨(by intro c h; cases h), ⟨rfl, .inr (by decide), rfl, rfl, rfl⟩⟩, ⟨(by intro c h; cases h), ⟨rfl, .inl rfl, rfl, rfl, rfl⟩⟩⟩
  · rintro ⟨i, h, h2⟩
    obtain rfl : (1 : Nat) = i := Option.some.inj h
    rcases h2 with ⟨-, h2⟩ | ⟨h2, -⟩ <;> exact absurd h2 (by decide)
  · rintro ⟨e, b, _, _, h, _⟩; cases h
/-- The next bundle of core 0 arms edge N with record 0, whose 192 bytes are at 0x4000. -/
def wanting : State := lone fun k => { k with
  run := .running, code := [(0, wordOf (.larm 0 0 0 1) ++ (0 : BitVec 96))], ctl := { k.ctl with rcptr := 0x4000 } }
theorem witness_OtherLoaderInstructions :
    let s := paired fun k => { k with ctl := { k.ctl with rcptr := BitVec.ofNat 64 (2 ^ 64 - 0x140000 + 0x4000) } }
    let u : State := { s with sched := { s.sched with teams := [(0, { pair with img := { pair.img with epilogueN := 1 } })] } }
    Addresses u 0 ∧ ¬ FacesLink u 0 2 ∧ FacesLink (joinedPair none id) 0 1 ∧ NoAcquireWaits u ∧ (teamOf u u.me).map (·.img.epilogueN) = some 1 ∧
    loaderTranslate u u.me (((coreAt u u.me).ctl.rcptr.toNat + 0x140000 + 32 * 0) % 2 ^ 64) false = (u, .ok ⟨pad, 1, false⟩) ∧ inHost pad = false ∧ inDoorbell pad = false ∧
    inCounters pad = false ∧ upToStop (List.replicate 16 (0 : Half)) = [0] ∧ decodeSlot .epilogue 0 = .ok .estop ∧ ¬ OffsetInUse u 0 0 none ∧ OffsetInUse bound 0 0 none ∧
    wantsRecord u 0 0 = false ∧ wantsRecord wanting 0 0 = true ∧ (coreAt wanting 0).edge.recs.find? (fun y => y.1 == 0) = none ∧
    (fetchBlocks wanting 0 0x4000 3).2.toOption.isSome = true := by
  refine ⟨rfl, (by rintro ⟨i, h, -⟩; cases h), ⟨0, rfl, .inl ⟨rfl, by decide⟩⟩, (by intro p h; cases h), by decide +kernel, by decide +kernel, by decide +kernel, by decide +kernel, by decide +kernel, by decide +kernel, by decide +kernel,
    ?_, ⟨0, feeding, by decide, by decide, rfl, by decide, rfl⟩, by decide +kernel, by decide +kernel, by decide +kernel, by decide +kernel⟩
  rintro ⟨e, b, _, _, h, _⟩; cases h
/-- A line of the loader is not full, its scratchpad stands, it has been read before, or it is now read. -/
theorem witness_LinesAreReadOnce :
    let x : Xl := ⟨pad, 1, false⟩
    let line := pad / 128
    loaderTranslate bound 0 0x4000 false = (bound, .ok x) ∧ x.pa % 128 + 4 ≤ 128 ∧ x.home = 1 ∧ fullBit bound line = true ∧ scratchStands bound x.pa = false ∧
    (let s : State := { bound with sys := mapped }
     loaderTranslate s 0 0x4000 false = (s, .ok x) ∧ fullBit s line = false) ∧
    (loaderTranslate (standing bound) 0 0x4000 false = (standing bound, .ok x) ∧ scratchStands (standing bound) x.pa = true) ∧
    (let buf : LineBuf := [(line, (0 : LineData))]
     (buf.find? fun l => l.1 == line) = some (line, (0 : LineData))) ∧ (([] : LineBuf).find? fun l => l.1 == line) = none := by decide +kernel
/-- A read gives a value, checked. -/
def gives (x : State × LineBuf × Fetch Nat) (u : State) (b : LineBuf) (v : Nat) : Bool :=
  match x with
  | (a, c, .ok w) => a == u && c == b && w == v
  | _ => false
theorem of_gives {x : State × LineBuf × Fetch Nat} {u : State} {b : LineBuf} {v : Nat} (h : gives x u b v = true) : x = (u, b, .ok v) := by
  rcases x with ⟨a, c, w⟩
  cases w <;> simp_all [gives]
/-- Sixteen elements of 4 bytes in one line of a scratchpad: each read of the feed, and the step as a whole. -/
theorem witness_FeedsAndDrains :
    let st (_ l : Nat) : State × LineBuf := if l = 0 then (bound, []) else (bound, (loaderRead bound [] 0 0x4000 4).2.1)
    Feeds bound 0 0 feeding ∧ recFmt feeding.recd ≤ 10 ∧ nextFetch (coreAt bound 0) 0 feeding = some 0 ∧
    (loaderAt (coreAt bound 0).edge 0).fetched = [] ∧ edgeLen (coreAt bound 0).arr.win 0 = 1 ∧ perRegister feeding = 16 ∧ st 0 0 = (bound, []) ∧
    (∀ i, i < 1 → ∀ l, l < 16 → ReadsAre 0 (st i l) (readsOf feeding 0 i l) (st i (l + 1)) [0]) ∧
    (∀ i, i < 1 → ∀ l, l < 16 → ∀ p ∈ readsOf feeding 0 i l, ∃ x, OnPad bound 0 p.1 false x ∧ x.pa % 128 + p.2 ≤ 128 ∧ fullBit bound (x.pa / 128) = true) ∧
    (∃ u vs, fetchPositions bound [] 0 feeding 0 0 1 = (u, some vs)) := by
  have r : ∀ l : Nat, l < 16 → readsOf feeding 0 0 l = [(0x4000 + 4 * l, 4)] ∧
      gives (loaderRead bound (if l = 0 then [] else (loaderRead bound [] 0 0x4000 4).2.1) 0 (0x4000 + 4 * l) 4) bound
        (loaderRead bound [] 0 0x4000 4).2.1 0 = true ∧
      loaderTranslate bound 0 (0x4000 + 4 * l) false = (bound, .ok ⟨pad + 4 * l, 1, false⟩) ∧ scratchStands bound (pad + 4 * l) = false ∧
      inDoorbell (pad + 4 * l) = false ∧
      inCounters (pad + 4 * l) = false ∧ inHost (pad + 4 * l) = false ∧ (pad + 4 * l) % 128 + 4 ≤ 128 ∧ fullBit bound ((pad + 4 * l) / 128) = true := by decide +kernel
  refine ⟨by unfold Feeds; decide +kernel, by decide +kernel, by decide +kernel, by decide +kernel, by decide +kernel, by decide +kernel, rfl, ?_, ?_,
    some_of _ (by decide +kernel)⟩
  · intro i hi l hl
    obtain rfl : i = 0 := by omega
    rw [(r l hl).1]
    refine ⟨bound, _, 0, [], ?_, ⟨rfl, rfl⟩, rfl⟩
    rw [← of_gives (r l hl).2.1]
    by_cases h : l = 0 <;> simp [h]
  · intro i hi l hl p hp
    obtain rfl : i = 0 := by omega
    obtain ⟨a, _, b, z, c, d, e, g, f⟩ := r l hl
    rw [a, List.mem_singleton] at hp
    subst hp
    exact ⟨_, ⟨b, rfl, z, c, d, e⟩, g, f⟩
/-- A line that is not full; a frozen array; a drain whose elements all translate, one that faults, one whose fault waits. -/
theorem witness_FeedsAndDrains_drains :
    (let s : State := { bound with sys := mapped }
     Feeds s 0 0 feeding ∧ nextFetch (coreAt s 0) 0 feeding = some 0 ∧ (fetchPositions s [] 0 feeding 0 0 (edgeLen (coreAt s 0).arr.win 0)).2 = none) ∧
    (coreAt (lone fun k => { k with arr := { k.arr with frozen := true } }) 0).arr.frozen = true ∧
    Drains draining 0 0 capture [] ∧ recFmt capture.bind.recd ≤ 10 ∧ drained capture = 16 ∧
    (∀ l, l < 16 → stored capture.bind 0 0 l = some [l, 0, 0, 0, 0] ∧
      loaderTranslate draining 0 (elementAt capture.bind.recd [l, 0, 0, 0, 0]) true = (draining, .ok ⟨pad + 4 * l, 1, false⟩) ∧ 8 * (pad + 4 * l) % 32 = 0 ∧
      scratchStands draining (pad + 4 * l) = false ∧ inDoorbell (pad + 4 * l) = false ∧ inCounters (pad + 4 * l) = false ∧ inHost (pad + 4 * l) = false) := by
  unfold Feeds Drains; decide +kernel
/-- A write that faults, inside a task and after its end; one whose fault waits, and one into a scratchpad that stands. -/
theorem witness_FeedsAndDrains_failing :
    (let s := busyDrain astray []
     Drains s 0 0 astray [] ∧ (coreAt s (masterOf s 0)).task.isSome = true ∧
       ∃ u k l, drainElems s 0 astray.bind astray.q astray.wpos (Tab.get FReg.zero astray.regs astray.wpos).data [] (List.range (drained astray)) = (u, .error (k, l))) ∧
    (let s := lone fun k => { k with edge := { k.edge with loaders := [(0, ⟨none, [], [astray]⟩)] } }
     Drains s 0 0 astray [] ∧ (coreAt s (masterOf s 0)).task = none ∧
       ∃ u k l, drainElems s 0 astray.bind astray.q astray.wpos (Tab.get FReg.zero astray.regs astray.wpos).data [] (List.range (drained astray)) = (u, .error (k, l))) ∧
    drainBlocked (busyDrain capture [⟨0x12, 0, 0, 0⟩]) 0 0 = true ∧
    (loaderAt (coreAt (standing draining) 0).edge 0).caps = [capture] ∧ drainStands (standing draining) 0 capture = true := by
  unfold Drains
  exact ⟨⟨by decide +kernel, by decide +kernel, error_of _ (by decide +kernel)⟩, ⟨by decide +kernel, by decide +kernel, error_of _ (by decide +kernel)⟩,
    by decide +kernel, by decide +kernel, by decide +kernel⟩
/-- The last element of a position that takes a bit brings it: bit 0 of element 1. -/
theorem witness_FeedsAndDrains_bits : Brings capture (fun l => ⟨pad + 4 * l, 1, false⟩) 1 (8 * (pad + 4)) false := by
  have t : ∀ l, l < 16 → stored capture.bind capture.q capture.wpos l = some [l, 0, 0, 0, 0] := by decide +kernel
  have w : fmtBits (recFmt capture.bind.recd) = 32 := by decide +kernel
  have f : recFmt capture.bind.recd ≠ 5 := by decide +kernel
  have n : drained capture = 16 := by decide +kernel
  have z : startBit capture.bind.recd [1, 0, 0, 0, 0] ⟨pad + 4, 1, false⟩ = 8 * (pad + 4) := by simp [startBit, f]
  refine ⟨⟨_, t 1 (by decide), by simp [startBit, f], by simp [startBit, f, w]⟩, by rw [n]; decide, ?_, ?_⟩
  · rintro j h1 h2 ⟨ix, h, h3, -⟩
    rw [n] at h2
    rw [t j h2, Option.some.injEq] at h
    subst h
    simp only [startBit, f, false_and, if_false] at h3
    omega
  · intro ix h
    rw [t 1 (by decide), Option.some.injEq] at h
    subst h
    rw [z]
    decide +kernel
/-- R138, R153, R154: an FP4 step of K8: eight elements in one block, code 5 at position 3, block scale 0x48, band scale 2.0 in both
halves; padding beyond. -/
def fp4 : RecBits := BitVec.ofNat 1536 (0x4000 + 8 * 2 ^ 64 + 2 ^ 96 + 2 ^ 128 + 2 ^ 160 + 2 ^ 192 + 5 * 2 ^ 576 + 0x4010 * 2 ^ 704 + 0x4020 * 2 ^ 1024)
theorem test_fp4_feed :
    let s : State := { boundBy { feeding with recd := fp4 } with
      sys := { mapped with full := [(pad / 128, true)], mem := [(pad + 1, 0x50), (pad + 0x10, 0x48), (pad + 0x21, 0x40)] } }
    (loaderAt (coreAt (after s (.feedFetch 0 0)) 0).edge 0).fetched =
      [⟨0, [.reg ⟨0x5000, BitVec.ofNat 256 (0x48 + 0x40004000 * 2 ^ 128)⟩]⟩] := by decide +kernel
/-- R141: a drain position of which an element does not translate writes nothing. -/
theorem test_drain_fault :
    let p : Capture := { capture with bind := { capture.bind with recd := record + 0xFF0 }, regs := [(0, ⟨BitVec.allOnes 512, 0⟩)] }
    (after (lone fun k => { k with edge := { k.edge with loaders := [(0, ⟨none, [], [p]⟩)] } }) (.drainWrite 0 0)).sys.mem = [] := by decide +kernel
def inUnit (ws : List Half) (vals : List Nat) : State := lone fun k => { k with edge := { k.edge with epi := some ⟨0, 0, 0, ws, vals, 0, 0⟩ } }
theorem witness_EpilogueUnit :
    let r : EpiRun := ⟨0, 0, 0, [], List.replicate 16 0xFFFFFFFF, 0, 0⟩
    let x : Capture := { capture with bind := { capture.bind with prog := some [0x3000, 0] } }
    let s := lone fun k => { k with edge := { k.edge with epq := [(0, 0, 0)], loaders := [(0, ⟨none, [], [x]⟩)] } }
    (coreAt (inUnit [] r.vals) 0).edge.epi = some r ∧ (coreAt s 0).edge.epi = none ∧ fmtBits r.fmt ≤ 32 ∧ (coreAt s 0).edge.epq = (0, 0, 0) :: [] ∧
    ((loaderAt (coreAt s 0).edge 0).caps.find? fun y => y.id == 0) = some x ∧ x.bind.prog = some [0x3000, 0] ∧ [0x3000, (0 : Half)].length ≤ 16 := by decide +kernel

/-- R218: KPOST to the own core saturates; BARR's last arrival flips the phase. -/
theorem test_kpost_saturates : Tab.get 0 (coreAt (after (withSeq fun q => { q with k := [(2, 0xFFFE)] }) (.kpost 0 2 5 0 1)) 0).seq.k 2 = 0xFFFF := by decide +kernel
theorem test_barr_flips : barOf (after (withSeq fun q => { q with bars := [(3, ⟨1, 0, 0, false⟩)] }) (.barr 0 3 0 1)) 0 3 = ⟨1, 0, 0, true⟩ := by decide +kernel
/-- The worked AWIN of R124: a window of 4 by 4 from the north-west. -/
theorem test_awin : (coreAt (after (regs []) (.awin 0 0 3 3)) 0).arr.win = ⟨0, 0, 4, 4, .nw⟩ := by decide +kernel
/-- R120: SXF is cleared by writing ones. -/
theorem test_ctlwr_sxf : (coreAt (after (lone fun k => { k with seq := { k.seq with g := [(1, 2)] }, ctl := { k.ctl with sxf := 3 } }) (.ctlwr 1 4)) 0).ctl.sxf = 1 := by
  decide +kernel
/-- R198: ERELU clears a negative FP32; R199: ESTOP of a drain leaves the value. -/
theorem test_erelu : ((coreAt (after (inUnit [] (List.replicate 16 0xBF800000)) .erelu) 0).edge.epi.map (·.vals.head?)) = some (some 0) := by decide +kernel

/-! ### Tasks and the tile generator (R289 to R300, R312 to R320) -/

/-- The bytes of a value, placed from an address: the cells that are not zero. -/
def bytesAt (a n v : Nat) : List Host.Cell :=
  ((List.range n).map fun i => (a + i, BitVec.ofNat 8 (v / 256 ^ i))).filter fun c => c.2 != 0
/-- Every core but 0 is as reset leaves it. -/
theorem core_of {s : State} {k : Core} (h : s.cores = [(0, k)]) (c : Nat) : coreAt s c = if c = 0 then k else Core.reset := by
  unfold coreAt
  by_cases hc : c = 0
  · subst hc; rw [h]; rfl
  · rw [h]; simp [Tab.get, hc, Ne.symm hc]

/-- A state with the team `tm` as team 0, core 0 changed, and page 0x4000 of ASID 0 held by the units. -/
def teamed (tm : Team) (f : Core → Core) : State :=
  let s := lone f
  { s with sched := { Sched.reset with teams := [(0, tm)] } }

/-- The team queue of `pair` in the page 0x4000. -/
def queued : Team := { pair with rcptr := 2 ^ 64 - 0x100000 + 0x4000 }
/-- Core 0 idle, its record at bundle 0 of an image that has one bundle there. -/
def idler : State :=
  teamed { pair with place := [0], img := { Image.empty with ents := [(255, 0, [0])] } } fun k => { k with localq := [(0, 0)], seq := { k.seq with k := [(3, 7)] } }

theorem witness_TasksRetireAndStart :
    (∃ s k tm, (coreAt s s.me).ctl.inh = false ∧ (coreAt s s.me).chain = [] ∧ (coreAt s s.me).task = some k ∧ k.join = 0 ∧
      teamAt s k.team = some tm ∧ NoRecords s tm) ∧
    (∃ t x o r e, bindingOf idler 0 = some (t, x) ∧ teamAt idler t = some x ∧ x.state = .running ∧ liveHere idler t 0 = true ∧ retiring x 0 = false ∧
      (coreAt idler 0).run = .idle ∧ (coreAt idler 0).task = none ∧ arrayEmpty idler (masterOf idler 0) = true ∧ arrayEmpty idler 0 = true ∧
      isHalted idler 0 = false ∧ (coreAt idler 0).localq = [(o, r)] ∧ x.qlen = 0 ∧ x.front = [] ∧ (coreAt idler 0).mem.pend = [] ∧
      (∀ c', c' ≠ 0 → (coreAt idler c').localq = []) ∧ (∀ c', (coreAt idler c').chain = []) ∧
      recordOk r = true ∧ x.img.ents[(coreAt idler 0).lcore]? = some e ∧ recField r 0 4 < e.2.2.length) := by
  refine ⟨⟨teamed pair fun k => { k with task := some rootTask }, rootTask, pair, rfl, rfl, rfl, rfl, rfl, rfl, rfl, fun c => ?_⟩,
    0, { pair with place := [0], img := { Image.empty with ents := [(255, 0, [0])] } }, 0, 0, (255, 0, [0]), by decide +kernel, rfl, rfl, by decide +kernel, rfl,
    rfl, rfl, by decide +kernel, by decide +kernel, rfl, rfl, rfl, rfl, rfl, fun c hc => ?_, fun c => ?_, by decide +kernel, by decide +kernel, by decide +kernel⟩
  · rw [core_of rfl c]; split <;> rfl
  · rw [core_of rfl c, if_neg hc]; rfl
  · rw [core_of rfl c]; split <;> rfl
/-- A task with a join record at 0x4040; one of a team of one core whose queue holds a record at 0x4000. -/
def joined : State := teamed pair fun k => { k with task := some { rootTask with join := 0x4040 } }
def alone : Team := { queued with place := [0], qlen := 1 }
theorem witness_TasksRetireAndStart_ends :
    (let u := release joined 0 4
     (coreAt joined 0).ctl.inh = false ∧ (coreAt joined 0).chain = [] ∧ (coreAt joined 0).task = some { rootTask with join := 0x4040 } ∧
     teamAt joined 0 = some pair ∧ pavTranslate u pair.asid 0x4040 true = (u, .ok ⟨pad + 0x40, 1, false⟩) ∧ Single ⟨pad + 0x40, 1, false⟩) ∧
    (let s := teamed alone fun k => { k with task := some rootTask }
     let u := release s 0 4
     teamAt s 0 = some alone ∧ alone.gen = none ∧ alone.state = .running ∧ alone.place = [s.me] ∧ (coreAt s 0).localq = [] ∧ liveHere s 0 0 = true ∧
     alone.front = [] ∧ alone.qlen = 1 ∧ pavTranslate u alone.asid (alone.rcptr + 0x100000 + 64 * (alone.qhead % 4096)) false = (u, .ok ⟨pad, 1, false⟩)) := by
  unfold Single; decide +kernel
theorem witness_TasksRetireAndStart_noRecords : NoRecords joined pair :=
  ⟨rfl, rfl, fun c => by rw [core_of rfl c]; split <;> rfl⟩
/-- R300: a child that retires takes COUNT from 1 to 0 and DONE from 0 to 1. -/
theorem test_retire_join :
    let t := after { joined with sys := { mapped with mem := [(pad + 0x40, 1)] } } .retire
    memByte t.sys.mem (pad + 0x40) = 0 ∧ memByte t.sys.mem (pad + 0x44) = 1 := by decide +kernel
/-- A task of team 0 whose G1 names a record at 0x4000; a push with it that the scheduler serves next. -/
def spawner (tm : Team) (l : List Host.Cell) : State :=
  let s := teamed tm fun k => { k with task := some rootTask, localq := [(0, 0), (0, 0)], seq := { k.seq with g := [(1, 0x4000)] } }
  { s with cores := [(0, coreAt s 0), (5, { Core.reset with localq := [(0, 0), (0, 0)] })], sys := { mapped with mem := l }, beat := 1 }
def push0 : Push := ⟨0, 0, 3, 0⟩
/-- A record of bundle 0; one with its retried bit set; one with a join record at 0x4040; a queue that is full. -/
theorem witness_SpawnAndJoin :
    let s := spawner queued []
    let bad := spawner queued [(pad + 4, 1)]
    let joins := spawner queued (bytesAt (pad + 16) 8 0x4040)
    let x : Xl := ⟨pad, 1, false⟩
    let r (u : State) : BitVec 512 := BitVec.ofNat 512 (wordAt u pad 64)
    (Plain (gr s 1).toNat 64 ∧ seqTranslate s 0 (gr s 1).toNat false = (s, .ok x) ∧ Single x ∧ (coreAt s 0).mem.pend = [] ∧ (coreAt s 0).mem.sb = [] ∧
      (coreAt s 0).task = some rootTask ∧ teamAt s 0 = some queued ∧ recordOk (r s) = true ∧ recRetried (r s) = false ∧ recField (r s) 16 8 = 0) ∧
    (seqTranslate bad 0 0x4000 false = (bad, .ok x) ∧ recRetried (r bad) = true ∧ Quiet bad) ∧
    (seqTranslate joins 0 0x4000 false = (joins, .ok x) ∧ recordOk (r joins) = true ∧ recRetried (r joins) = false ∧ Plain (recField (r joins) 16 8) 32 ∧
      recField (r joins) 16 8 ≠ 0 ∧ seqTranslate joins 0 (recField (r joins) 16 8) true = (joins, .ok ⟨pad + 0x40, 1, false⟩)) ∧
    (let w := spawner { queued with pushes := [push0] } []
     teamAt w 0 = some { queued with pushes := [push0] } ∧ push0.at_ < w.beat ∧ RunsOn w 0 { queued with pushes := [push0] } 0 0 ∧ queued.front.length + queued.qlen < 4096 ∧
       recField push0.record 16 8 = 0 ∧ (∀ c ∈ queued.place, (coreAt w c).localq.length = 2) ∧
       pavTranslate w queued.asid (queued.rcptr + 0x100000 + 64 * ((queued.qhead + queued.qlen) % 4096)) true = (w, .ok x) ∧
       4096 ≤ ({ queued with qlen := 4096 } : Team).front.length + ({ queued with qlen := 4096 } : Team).qlen) := by
  unfold Single Plain Quiet gr RunsOn; decide +kernel
theorem witness_SpawnAndJoin_waits :
    let x : Xl := ⟨pad, 1, false⟩
    let waits (h : Bool) (l : List Host.Cell) : State :=
      { spawner queued l with cores := [(0, { coreAt (spawner queued l) 0 with run := .running, joinw := [⟨30, 0x4000, h⟩] })] }
    (Plain (gr (spawner queued []) 1).toNat 32 ∧ ∀ p ∈ (coreAt (spawner queued []) 0).mem.pend, pendAcquire p = false) ∧
    ((coreAt (waits false []) 0).joinw = [⟨30, 0x4000, false⟩] ∧ pavTranslate (waits false []) (coreAt (waits false []) 0).ctl.asid.toNat 0x4000 false = (waits false [], .ok x) ∧
      wordAt (waits false []) x.pa 4 = 0 ∧ isHalted (waits false []) 0 = false ∧ (coreAt (waits false []) 0).run = .running ∧ (coreAt (waits false []) 0).ctl.inh = false ∧
      (coreAt (waits false []) 0).mem.pend = []) ∧
    (pavTranslate (waits true [(pad, 2)]) 0 0x4000 false = (waits true [(pad, 2)], .ok x) ∧ wordAt (waits true [(pad, 2)]) x.pa 4 ≠ 0) := by
  unfold Plain gr; decide +kernel
def genned (g : Gen) : Team := { pair with img := { Image.empty with cores := 2, sched := some [] }, gen := some g }
theorem witness_GeneratorServesRequests :
    let tile : Tile := ⟨[0], [1], 1, []⟩
    let s := teamed pair fun k => { k with task := some rootTask }
    let g : Gen := { Gen.reset with current := [(0, tile)], reqs := [] }
    let u := teamed (genned g) fun k => { k with task := some rootTask, seq := { k.seq with g := [(1, 1)] } }
    (teamAt s 0 = some pair ∧ pair.img.sched = none ∧ Quiet s) ∧
    ((genned g).img.sched ≠ none ∧ (genned g).gen = some g ∧ gr u 0 = 0 ∧ gr u 1 ≠ 0 ∧ (gr u 1).extractLsb' 48 16 = 0 ∧ (coreAt u 0).lcore = 0 ∧
      Tab.look g.current 0 = some tile ∧ (gr u 1).setWidth 48 &&& ~~~ (tile.mask &&& ~~~ (Tab.get 0 g.named 0)) = 0) ∧
    ¬ AsksForATile g 0 ∧
    (let q (r : GenReq) (g : Gen) : Team := genned { g with reqs := [r] }
     let z (r : GenReq) (g : Gen) : State := { teamed (q r g) id with beat := 1 }
     let r (k : Nat) : GenReq := ⟨k, 0, 0, 30, 5, 7, [], 0⟩
     (teamAt (z (r 0) Gen.reset) 0 = some (q (r 0) Gen.reset) ∧ (r 0).kind = 0 ∧ (r 0).at_ < (z (r 0) Gen.reset).beat) ∧
     ((r 1).kind = 1 ∧ RunsOn (z (r 1) Gen.reset) 0 (q (r 1) Gen.reset) 0 0) ∧
     ((r 3).kind = 3 ∧ RunsOn (z (r 3) Gen.reset) 0 (q (r 3) Gen.reset) 0 0) ∧
     ((r 4).kind = 4 ∧ (r 4).d < 31 ∧ (r 4).lcore < pair.img.cores ∧ RunsOn (z (r 4) Gen.reset) 0 (q (r 4) Gen.reset) 0 0 ∧
       Gen.reset.doneN + Gen.reset.poisonN = schTotal Gen.reset ∧ Gen.reset.lost = false) ∧
     (let c : Gen := { Gen.reset with claimed := [(0, tile)], poisonN := 5, act := [(13, 1)] }
      c.claimed = [(0, tile)] ∧ c.doneN + c.poisonN ≠ schTotal c ∧ placedCore c 0 = true)) := by
  unfold Quiet gr RunsOn AsksForATile; decide +kernel
/-- Masks of a CVMARK that trap: outside its tile's mask, beyond bit 47, behind a TILENEXT, and without a tile. -/
theorem witness_GeneratorServesRequests_masks :
    let tile : Tile := ⟨[0], [1], 1, []⟩
    let u (g : Gen) (m : Dword) : State := teamed (genned g) fun k => { k with task := some rootTask, seq := { k.seq with g := [(1, m)] } }
    let g : Gen := { Gen.reset with current := [(0, tile)] }
    let h : Gen := { g with reqs := [⟨4, 0, 0, 2, 0, 0, [], 0⟩] }
    (gr (u g 2) 1 ≠ 0 ∧ Quiet (u g 2) ∧ (gr (u g 2) 1).setWidth 48 &&& ~~~ (tile.mask &&& ~~~ (Tab.get 0 g.named 0)) ≠ 0) ∧
    (gr (u g (2 ^ 48)) 1).extractLsb' 48 16 ≠ 0 ∧ AsksForATile h 0 ∧ Tab.look Gen.reset.current 0 = none := by
  unfold Quiet gr AsksForATile; decide +kernel
/-- R292: the mark of a quantum that is not in the tile's mask traps with cause 2. -/
theorem test_cvmark_mask :
    (coreAt (after (teamed (genned { Gen.reset with current := [(0, ⟨[0], [1], 1, []⟩)] }) fun k => { k with task := some rootTask, seq := { k.seq with g := [(1, 2)] } })
      (.cvmark 1)) 0).ctl.cause = 2 := by decide +kernel

/-! ### The Orangery (R322 to R344) -/

/-- Memory holds v at the first byte of the page 0x4000; learner queue 0 is partition 0's. -/
def rewarding (v : Nat) (o : Orangery) (f : Core → Core) : State :=
  let s := lone f
  { s with sys := { mapped with mem := bytesAt pad 64 v }, sched := { Sched.reset with parts := [(0, ⟨0, 0, 1, []⟩)] }, ora := o }
def ringed : LQueue := { LQueue.reset with ring := 0x4080 }
def oraOf (x : LQueue) : Orangery := { Orangery.reset with lq := [(0, x)] }
/-- The header of an episode of key 5, 2 steps, queue 0; one with 0 steps. -/
def header : Nat := 5 + 2 * 2 ^ 96
def place4 : Xl := ⟨pad, 1, false⟩
def asks (q : Nat × Nat × Dword × Dword) (k : Core) : Core := { k with rjq := [q] }
def ep : Episode := ⟨0, 5, 0x4000, 0, 2, 0, 0, some 0, 0, .open_, false, false, false, false, 0, 0, none⟩
def with_ep (v : Nat) (e : Episode) (x : LQueue) : State := rewarding v { oraOf x with table := [e] } id

theorem witness_RewardInstructionsSendRequests :
    let s := rewarding header (oraOf ringed) fun k => { k with seq := { k.seq with g := [(1, 0x4000), (2, 3), (3, 0x4080)] } }
    let z : State := { s with sched := Sched.reset }
    ((coreAt s s.me).rjq.length < 16 ∧ Canonical (gr s 1).toNat ∧ (gr s 1).toNat % 64 = 0 ∧ Single place4 ∧ place4.pa % 64 = 0 ∧ (coreAt s s.me).mem.pend = [] ∧
      (coreAt s s.me).mem.sb = [] ∧ seqTranslate s s.me (gr s 1).toNat true = (s, .ok place4) ∧ seqTranslate s s.me (gr s 1).toNat false = (s, .ok place4) ∧ Quiet z ∧
      seqTranslate z z.me (gr z 1).toNat true = (z, .ok place4) ∧ (gr s 2).toNat < 4 ∧ (gr s 3).toNat % 128 = 0 ∧ Canonical (gr s 3).toNat ∧
      (lqAt s 0).head = (lqAt s 0).tail ∧ (lqAt s 0).shead = (lqAt s 0).stail ∧ (coreAt s s.me).part = 0 ∧
      (let r := rewarding (7 + 2 ^ 64) Orangery.reset fun k => { k with seq := { k.seq with g := [(1, 0x4000)] } }
       bitsOf (wordAt r place4.pa 32) 81 15 = 0 ∧ bitsOf (wordAt r place4.pa 32) 192 64 = 0)) ∧
    Assigned s (coreAt s s.me).part ((byteAt s (place4.pa + 14)).toNat % 16) ∧ ¬ Assigned z (coreAt z z.me).part 0 := by
  refine ⟨?_, ⟨⟨0, 0, 1, []⟩, rfl, by decide +kernel⟩, ?_⟩
  · unfold Canonical Single Quiet gr; decide +kernel
  · rintro ⟨p, h, _⟩; cases h
/-- A control value that fits and one that does not; an operand of RJPOP and an image with a reserved bit. -/
theorem witness_RewardInstructionsSendRequests_traps :
    let s := rewarding (2 ^ 81) (oraOf ringed) fun k => { k with seq := { k.seq with g := [(1, 32), (2, 0x4000)] } }
    Controls s 0 0 5 ∧ ¬ Controls s 3 0 5 ∧ Quiet s ∧ 32 ≤ (gr s 1).toNat ∧ bitsOf (wordAt s place4.pa 32) 81 15 ≠ 0 ∧
      seqTranslate s s.me (gr s 2).toNat false = (s, .ok place4) := by
  refine ⟨.inl ⟨by decide, by decide, ⟨0, 0, 1, []⟩, rfl, by decide +kernel⟩, ?_, by unfold Quiet; decide +kernel, by decide +kernel,
    by decide +kernel, by decide +kernel⟩
  rintro (⟨_, h, _⟩ | ⟨h, _⟩ | ⟨h, _⟩ | ⟨h, _⟩)
  · simp at h
  all_goals cases h
def registering : State := rewarding header (oraOf ringed) (asks (0, 3, 0x4000, 0))
def popping : State := rewarding 0x9000 (oraOf { ringed with tail := 1, ring := 0x4000 }) (asks (2, 3, 0, 0))
/-- The state whose core 0 has sent its only request, which is served now. -/
def served (s : State) : State := modCore (inTick s) 0 fun k => { k with rjq := [] }
def late : Episode := ⟨0, 5, 0x4000, 0, 2, 0, 0, none, 0, .open_, false, false, false, false, 0, 0, none⟩
def withTable (s : State) (l : List Episode) : State := { s with ora := { s.ora with table := l } }
theorem witness_OrangeryServesRequests :
    ((coreAt registering 0).rjq = [(0, 3, 0x4000, 0)] ∧ pavTranslate (served registering) 0 0x4000 false = (served registering, .ok place4) ∧ place4.home = 1 ∧
      taken registering 0 [] = served registering ∧ bitsOf (wordAt (served registering) place4.pa 64) 96 16 = 2 ∧ (lqAt registering 0).ring ≠ 0 ∧ episodeAt registering 0 5 = none ∧
      (registering.ora.table.filter fun e => rjHash e.part e.traj.toNat == rjHash 0 5).length < 8 ∧
      (clearRecord (withTable (served registering) [late]) late).2 = true) ∧
    episodeAt (withTable registering [late]) 0 5 = some late ∧
    (let f := withTable registering (List.replicate 8 { late with part := 1, traj := 5 + 2 ^ 7 })
     episodeAt f 0 5 = none ∧ 8 ≤ (f.ora.table.filter fun e => rjHash e.part e.traj.toNat == rjHash 0 5).length) ∧
    ((coreAt popping 0).rjq = [(2, 3, 0, 0)] ∧ (lqAt popping 0).ring.toNat ≠ 0 ∧ (lqAt popping 0).head ≠ (lqAt popping 0).tail ∧
      pavTranslate (served popping) 0 0x4000 false = (served popping, .ok place4) ∧ wordAt (served popping) place4.pa 8 ≠ 0) ∧
    (coreAt (rewarding 0 Orangery.reset (asks (5, 3, 0, 0))) 0).rjq = [(5, 3, 0, 0)] ∧ (coreAt (rewarding 0 Orangery.reset (asks (3, 240, 9, 0))) 0).rjq = [(3, 240, 9, 0)] ∧
    240 / 16 = 15 := by
  refine ⟨?_, ?_, ?_, ?_, ?_, ?_, ?_⟩ <;> decide +kernel
theorem witness_RewardsReachTheirEpisode :
    let s := with_ep header ep ringed
    let n := inTick s
    (episodeAt s ep.part ep.traj = some ep ∧ (1 : Half).toNat < ep.steps ∧ ep.steps ≤ (2 : Half).toNat ∧ markBit n ep (2 * (1 : Half).toNat) = (n, some false) ∧
      ep.state = .open_ ∧ (thenWrite (recWrite n ep.asid (ep.addr + 64 + 16 * 1) 4 9) fun u => setMark u ep 1 true).2 = true) ∧
    (let d : State := { s with sys := { s.sys with mem := [(pad + 96, 4)] } }
     episodeAt d ep.part ep.traj = some ep ∧ markBit (inTick d) ep (2 * (1 : Half).toNat) = (inTick d, some true)) ∧
    ({ ep with state := EpState.scan }).state ≠ .open_ ∧
    (let f : State := rewarding 0 { Orangery.reset with filter := [⟨0, 5, 0, 0⟩] } id
     episodeAt f 0 5 = none ∧ f.ora.filter = [⟨0, 5, 0, 0⟩] ∧ 5 * f.beat / 9 ≤ 0 + 1000 * f.ora.olife.toNat) ∧
    (let o : State := rewarding 0 { Orangery.reset with orphans := [⟨0, 5, 0, false, 0, 0⟩] } id
     o.ora.orphans = [⟨0, 5, 0, false, 0, 0⟩] ∧ 0 + 1000 * o.ora.olife.toNat ≤ 5 * o.beat / 9 ∧ o.ora.served ≠ some (5 * o.beat / 9) ∧
       (inTick o).ora.served = some (5 * o.beat / 9) ∧ 5 * o.beat / 9 < 0 + 1000 * { o.ora with olife := 1 }.olife.toNat) := by
  decide +kernel
/-- A flit of two messages, the second one malformed (a type that is no reward's), and one with a reserved byte set. -/
theorem witness_RewardsReachTheirEpisode_flits :
    let flit : List Byte := natBytes 256 (1 + 2 * 2 ^ 8 + 0x52 * 2 ^ 128 + 5 * 2 ^ 256 + 0x53 * 2 ^ 512)
    let v := bytesNat flit
    let m (i off n : Nat) : Nat := bitsOf v (8 * (16 + 48 * i + off)) (8 * n)
    (flit.length = 256 ∧ bitsOf v 0 8 = 1 ∧ 1 ≤ bitsOf v 8 8 ∧ bitsOf v 8 8 ≤ 5 ∧ bitsOf v 16 16 = 0 ∧ bitsOf v 112 16 = 0 ∧
      islandAt (with_ep header ep ringed) 21 = .a0) ∧
    (m 0 0 1 = 0x52 ∧ m 0 1 1 < 16 ∧ m 0 2 2 = 0 ∧ m 0 8 8 = 0 ∧ m 0 0x1A 1 < 2 ∧ m 0 0x1B 1 = 0 ∧ m 0 0x28 8 = 0) ∧ m 1 0 1 ≠ 0x52 ∧
    bitsOf (v + 2 ^ 16) 16 16 ≠ 0 := by decide +kernel
/-- R331, R369: of a flit of two rewards both act; one whose header has a reserved byte set does nothing. -/
theorem test_flit :
    let s := with_ep header ep ringed
    let both : Nat := 1 + 2 * 2 ^ 8 + 0x52 * 2 ^ 128 + 5 * 2 ^ 256 + 0x52 * 2 ^ 512 + 5 * 2 ^ 640 + 2 ^ 704
    let filled (v : Nat) : List Nat := (after s (.fabricFlit (natBytes 256 v))).ora.table.map (·.filled)
    filled both = [2] ∧ filled (both + 2 ^ 16) = [0] ∧ filled (both + 2 ^ 112) = [0] := by decide +kernel
theorem witness_RewardsReachTheirEpisode_untouched : Untouched (with_ep header ep ringed) 0 (ep.addr + 80) 4 := by
  have h : recSeen (with_ep header ep ringed) 0 (ep.addr + 80) 4 = List.replicate 4 none := by decide +kernel
  intro p hp
  rw [h] at hp
  exact .inl (List.eq_of_mem_replicate (List.of_mem_zip hp).2)
theorem witness_EpisodesAreReleased :
    let s := with_ep header ep ringed
    (firstDue (5 * s.beat / 9) s.ora.table = some ep ∧ s.ora.served ≠ some (5 * s.beat / 9) ∧ (lqAt s ep.lq).policy.getLsbD 0 = false ∧
      (zeroFill s ep (List.range ep.steps)).2 = true ∧ firstDue (5 * s.beat / 9) ([] : List Episode) = none) ∧
    (lqAt (with_ep 0 ep { ringed with policy := 1 }) ep.lq).policy.getLsbD 0 = true ∧
    (let n : State := { s with sys := MemSys.reset }
     firstDue (5 * n.beat / 9) n.ora.table = some ep ∧ (zeroFill n ep (List.range ep.steps)).2 = false) ∧
    (inTick s).ora.served = some (5 * s.beat / 9) := by
  decide +kernel
/-- Two episodes of two steps that were done in tick 0, whose records stand at 0x4000 and 0x4400: γ = λ = 1, the rewards 1 and 2, the
values 0.5 and 1.5, DONE at the last step. -/
def scanned (traj : Dword) (addr : Nat) : Episode :=
  { ep with traj := traj, addr := addr, state := .scan, coef := some (0x3F800000, 0x3F800000) }
def scanning (x : LQueue) (l : List Episode) : State :=
  let m : Nat := 0x3F800000 * 2 ^ 512 + 0x3F000000 * 2 ^ 544 + 0x40000000 * 2 ^ 640 + 0x3FC00000 * 2 ^ 672 + 0xD * 2 ^ 768
  let s := rewarding 0 { oraOf x with table := l, scans := l.map fun e => (e.part, e.traj) } id
  { s with beat := 2, sys := { mapped with mem := bytesAt pad 128 m } }
theorem witness_EpisodesAreReleased_scan :
    let e := scanned 9 0x4000
    let a := scanning ringed [e]
    (oraRead a e.asid (e.addr + 64 + 16 * 1) 8 = (a, some (0x40000000 + 0x3FC00000 * 2 ^ 32)) ∧ (markBit a e 3).2 = some true ∧
      (recWrite a e.asid (e.addr + 64 + 16 * 1 + 8) 8 0).2 = true) ∧
    (a.ora.scans = [(e.part, e.traj)] ∧ episodeAt a e.part e.traj = some e ∧ e.doneAt < 5 * a.beat / 9 ∧ 5 * 1 / 9 ≤ e.doneAt ∧
      e.coef = some (0x3F800000, 0x3F800000) ∧ oraRead a e.asid (e.addr + 0x10) 4 = (a, some 0) ∧
      (scanSteps a e 0x3F800000 (fMul fp32 .rne 0x3F800000 0x3F800000).1 e.steps 0 0).2 = true ∧ a.ora.held = []) ∧
    (let n : State := { a with sys := { a.sys with tlb := [] } }
     (scanSteps n e 0x3F800000 0x3F800000 e.steps 0 0).2 = false) := by decide +kernel
/-- One episode is scanned and one of its tick and queue is not: the higher TRAJ waits for the lower one. -/
theorem witness_EpisodesAreReleased_order :
    let s (h l : List (Nat × Dword)) : State := let u := scanning ringed [scanned 9 0x4000, scanned 5 0x4400]
      { u with ora := { u.ora with held := h, scans := l } }
    releasable (s [(0, 9)] [(0, 5)]) = none ∧ releasable (s [(0, 9), (0, 5)] []) = some (scanned 5 0x4400) := by decide +kernel
theorem witness_EpisodesAreReleased_rings :
    let s := with_ep header ep ringed
    (let x : LQueue := { ringed with curver := 5, lag := 1 }
     Stale (with_ep 0 ep x) ep ∧ x.sring = 0 ∧
       (let y : LQueue := { x with sring := 0x4100 }
        let t := with_ep 0 ep y
        Stale t ep ∧ ¬ (y.policy.getLsbD 1 = true ∨ y.sring = 0) ∧ ¬ 4096 ≤ y.stail - y.shead ∧ t.ora.waits = [] ∧
          (oraWrite t y.sringAsid (y.sring.toNat + 8 * (y.stail % 4096)) 8 ep.addr).2 = true)) ∧
    (¬ Stale s ep ∧ ringed.tail - ringed.head < 4096 ∧ s.ora.waits = [] ∧ ep.stale = false ∧
      (recWrite s ep.asid (ep.addr + 0x14) 4 0).2 = true ∧ (recWrite s ep.asid (ep.addr + 0x18) 8 0).2 = true ∧
      (oraWrite s ringed.ringAsid (ringed.ring.toNat + 8 * (ringed.tail % 4096)) 8 ep.addr).2 = true) ∧
    (let e : Episode := { ep with state := .wait_ }
     let w := rewarding 0 { oraOf ringed with table := [e], waits := [(0, 5)] } id
     ¬ 4096 ≤ ringed.tail - ringed.head ∧ w.ora.waits = (e.part, e.traj) :: [] ∧ episodeAt w e.part e.traj = some e ∧ e.lq = 0 ∧
       (oraWrite { w with ora := { w.ora with waits := [] } } ringed.ringAsid (ringed.ring.toNat + 8 * (ringed.tail % 4096)) 8 e.addr).2 = true) ∧
    4096 ≤ ({ ringed with tail := 4096 }).tail - ringed.head := by
  unfold Stale; decide +kernel
theorem witness_EpisodesAreReleased_waits :
    RingWaits (rewarding 0 { oraOf ringed with table := [{ ep with state := .wait_ }], waits := [(0, 5)] } id) 0 false ∧ ¬ RingWaits (with_ep header ep ringed) 0 true :=
  ⟨⟨(0, 5), List.mem_singleton.2 rfl, { ep with state := .wait_ }, by decide +kernel, rfl, rfl⟩, by rintro ⟨k, h, -⟩; cases h⟩
/-- R328, R336: the last step's advantage 0.5 and return 2 are carried to the first step: 2.5 and 3. -/
theorem test_scan_two_steps :
    let t := after (scanning ringed [scanned 9 0x4000]) .backwardScan
    (wordAt t (pad + 0x58) 8, wordAt t (pad + 0x48) 8) = (0x3F000000 + 0x40000000 * 2 ^ 32, 0x40200000 + 0x40400000 * 2 ^ 32) := by decide +kernel
/-- R329: TRAJ 9 is scanned first, but 5, of its tick and queue, is released first. -/
theorem test_release_order :
    let one := after (scanning ringed [scanned 9 0x4000, scanned 5 0x4400]) .backwardScan
    let two := after one .backwardScan
    (lqAt one 0).tail = 0 ∧ (lqAt two 0).tail = 2 ∧ wordAt two (pad + 0x80) 8 = 0x4400 ∧ wordAt two (pad + 0x88) 8 = 0x4000 := by decide +kernel
/-- R329, R337: a stale episode is appended to the stale ring. -/
theorem test_stale_ring :
    let t := after (scanning { ringed with curver := 5, lag := 1, sring := 0x4100 } [scanned 9 0x4000]) .backwardScan
    (lqAt t 0).stail = 1 ∧ (lqAt t 0).tail = 0 ∧ wordAt t (pad + 0x100) 8 = 0x4000 ∧ Tab.get 0 t.ora.ctr 3 = 1 := by decide +kernel
/-- R344: a bit above the fields of RJPOP's operand, and a ring that holds entries, are illegal operands; R325: an empty ring is not. -/
theorem test_illegal_operands :
    let s (o : LQueue) : State := rewarding 0 (oraOf o) fun k => { k with seq := { k.seq with g := [(1, 32), (2, 0x4080)] } }
    (coreAt (after (s ringed) (.rjpop 3 1)) 0).ctl.cause = 2 ∧ (coreAt (after (s { ringed with tail := 1 }) (.rjctl 2 6 0)) 0).ctl.cause = 2 ∧
      (coreAt (after (s ringed) (.rjctl 2 6 0)) 0).rjq.length = 1 := by decide +kernel
/-- R334, R327: a reward of step 1 with its done mark: value at 0x50, mark bits 2 and 3 of the mark area at 0x60. -/
theorem test_reward : let t := after (with_ep header ep ringed) (.reward 0 5 1 true 0x3F800000)
    (wordAt t (pad + 0x50) 4, (byteAt t (pad + 0x60)).toNat, t.ora.table.map (·.filled)) = (0x3F800000, 0x0C, [1]) := by decide +kernel
/-- R324, R326: a registration answers 0 and the episode stands in the table with its steps. -/
theorem test_registration : let t := after (rewarding header (oraOf ringed) (asks (0, 3, 0x4000, 0))) (.registrationServe 0)
    (reg t 3, t.ora.table.map (fun e => (e.traj, e.steps))) = (0, [(5, 2)]) := by decide +kernel
/-- R338: where memory holds another byte than the one noted, the Orangery writes a free byte; the others are as computed. -/
theorem test_changed_record : recMix 5 [0, 7] [some 1, some 7] [8, 9] = ([Config.recordByte 5, 9], 6) := rfl

/-! ### Copies, translation, posted stores (R203 to R213, R239 to R257) -/

/-- A template at 0x4000: bytes from 0x4000 to 0x4080 on barrier 1. -/
def template (len : Nat) : Nat := 0x4000 + 0x4080 * 2 ^ 64 + len * 2 ^ 128 + 2 ^ 160
def req0 : CopyReq := ⟨0, 0, 7, 0, 2 ^ 64 - 0xC0000 + 0x4000, 0, none⟩
def job0 : CopyJob := ⟨req0, 0, 0x4000, [0x4080], 0, 0, 64, 0, 0, false, 1, none, [], []⟩
def copying (v : Nat) (ch : Chan) : State :=
  { rewarding v Orangery.reset (fun k => { k with mem := { k.mem with chans := [(2, ch)] }, seq := { k.seq with bars := [(1, ⟨0, 0, 64, false⟩)] } }) with
    sched := { Sched.reset with teams := [(0, pair)] } }
theorem noFollower {s : State} {k : Core} (h : s.cores = [(0, k)]) (hc : k.chain = []) (c : Nat) : ∀ p ∈ s.cores, c ∉ p.2.chain := by
  rw [h]; intro p hp; rw [List.mem_singleton] at hp; subst hp; simp [hc]

theorem witness_CopiesStartAndLand :
    let s := copying (template 64) ⟨[req0], none, false, 0⟩
    let z := copying (template 0) ⟨[req0], none, false, 0⟩
    let n : State := { s with sys := MemSys.reset }
    (chanAt (coreAt s 0) 2 = ⟨[req0], none, false, 0⟩ ∧
      dieTranslate s (dieOf 0) 0 ((req0.rcptr + 0xC0000 + 64 * (req0.word.toNat % 4096)) % 2 ^ 64) false = (s, .ok place4) ∧ Single place4 ∧
      (let f (off n : Nat) : Nat := bitsOf (wordAt s place4.pa 64) (8 * off) (8 * n)
       f 0x16 1 = 0 ∧ f 0x14 2 < 1024 ∧ f 0x17 1 = 0 ∧ f 0x18 1 = 0 ∧ f 0x19 1 = 0 ∧ f 0x1A 2 ≤ 1 ∧ f 0x1C 4 = 0 ∧ f 0x20 8 = 0 ∧ f 0x28 24 = 0 ∧
       f 0x10 4 ≠ 0 ∧ f 0x10 4 % 64 = 0 ∧ f 0 8 % 64 = 0 ∧ f 8 8 % 64 = 0)) ∧
    (chanAt (coreAt z 0) 2 = ⟨[req0], none, false, 0⟩ ∧ dieTranslate z (dieOf 0) 0 0x4000 false = (z, .ok place4) ∧ bitsOf (wordAt z place4.pa 64) 128 32 = 0) ∧
    (chanAt (coreAt n 0) 2 = ⟨[req0], none, false, 0⟩ ∧ teamAt n req0.team = some pair ∧ pair.status = 0 ∧
      (dieTranslate n (dieOf 0) 0 0x4000 false).2.toOption = none) := by
  unfold Single; decide +kernel
/-- A request waits for the release that is on its way; without one it does not wait. -/
theorem witness_CopiesStartAndLand_release :
    let r : CopyReq := { req0 with after := some 3 }
    let s : State := copying (template 64) ⟨[r], none, false, 0⟩
    let w : State := modCore s 0 fun k => { k with mem := { k.mem with pend := [.release ⟨4, 3, none⟩] } }
    chanAt (coreAt w 0) 2 = ⟨[r], none, false, 0⟩ ∧ ReleaseDone s 0 r ∧ ¬ ReleaseDone w 0 r := by
  intro r s w
  refine ⟨by decide +kernel, fun n _ p h => ?_, fun h => h 3 rfl (.release ⟨4, 3, none⟩) ?_ ⟨rfl, rfl⟩⟩
  · cases h
  · exact List.mem_singleton.2 rfl
/-- The 64 bytes of job0 read from their line, or 48 of them, with the last 16 behind a line's end. -/
def holding (l : List Byte) (src : Nat) : CopyJob := { job0 with buf := l, src := src }
theorem witness_CopiesStartAndLand_lands :
    let l := copying 0xABCD ⟨[], some job0, false, 0⟩
    let n : State := { l with sys := MemSys.reset }
    (chanAt (coreAt l 0) 2 = ⟨[], some job0, false, 0⟩ ∧ job0.off < job0.n ∧ (job0.n - job0.off) % 16 = 0 ∧ job0.di < job0.dsts.length ∧ pieceAt job0 % 16 = 0 ∧
      readFrom job0 % 16 = 0 ∧ pieceSize job0 = 64 ∧ job0.buf.length ≤ job0.n - job0.off ∧ dieTranslate l 0 0 0x4000 false = (l, .ok place4) ∧
      dieTranslate l 0 0 (swizzle (pieceAt job0) job0.dstSwz.toNat) true = (l, .ok ⟨pad + 128, 1, false⟩) ∧ sourcePlaces l 0 job0 = [pad / 16, pad / 16 + 1, pad / 16 + 2, pad / 16 + 3] ∧
      64 ≤ (barOf l 0 job0.bar).pend) ∧
    (let j := holding [] 0x4070
     (128 - readFrom j % 128) < pieceSize j ∧ dieTranslate (copying 0 ⟨[], some j, false, 0⟩) 0 0 0x4080 false = (copying 0 ⟨[], some j, false, 0⟩, .ok ⟨pad + 128, 1, false⟩)) ∧
    (dieTranslate n 0 job0.req.asid 0x4000 false).2.toOption = none ∧ job0.buf.length < pieceSize job0 := by
  unfold barOf; decide +kernel
/-- A lone channel has its turn; one beside a channel that has waited for 255 lines has not. -/
theorem witness_CopiesStartAndLand_turns :
    let l := copying 0xABCD ⟨[], some job0, false, 0⟩
    let two : State := { l with cores := [(0, { coreAt l 0 with mem := { (coreAt l 0).mem with chans := [(1, ⟨[], some job0, false, 255⟩), (2, ⟨[], some job0, false, 0⟩)] } })] }
    TurnFree l 0 ∧ lineStands l 0 job0 = false ∧ lineStands (standing l) 0 job0 = true ∧ ((∃ p ∈ readyChans two 0, (p.1, p.2.1) ≠ (0, 2) ∧ (chanAt (coreAt two p.1) p.2.1).job ≠ none ∧ (chanAt (coreAt two p.1) p.2.1).stopped = false) ∧
      ∀ p ∈ readyChans two 0, (p.1, p.2.1) ≠ (0, 2) → 255 ≤ p.2.2) := by
  unfold TurnFree; decide +kernel
theorem witness_CopiesStartAndLand_again :
    WritesAgain { job0 with n := 128, dsts := [0x4080, 0x4080] } ∧ ¬ WritesAgain { job0 with dsts := [0x4080] } := by
  refine ⟨⟨1, by decide, 0x4080, by decide +kernel, by decide, by decide⟩, ?_⟩
  rintro ⟨k, hk, p, _, h, h'⟩
  have : k = 0 := by simpa [job0] using hk
  subst this
  have a : pieceAt { job0 with dsts := [0x4080] } = 0x4080 := by decide +kernel
  have b : pieceSize { job0 with dsts := [0x4080] } = 64 := by decide +kernel
  simp [job0] at a b h h'
  omega
theorem witness_CopiesStartAndLand_no_follower (v : Nat) (ch : Chan) (c : Nat) : ∀ p ∈ (copying v ch).cores, c ∉ p.2.chain :=
  noFollower rfl rfl c
/-- R205, R213: the 64 bytes land at the destination, the barrier's bytes have come, the line is full. -/
theorem test_copy_lands : let t := after (copying 0xABCD ⟨[], some job0, false, 0⟩) (.copyLineLand 0 2)
    (wordAt t (pad + 128) 64, (barOf t 0 1).pend, Tab.get false t.sys.full ((pad + 128) / 128)) = (0xABCD, 0, true) := by
  decide +kernel

/-- A root of two levels in die 0's scratchpads: entry 0 of the page at `pad` leads to the page behind it, whose entry 0 is a leaf of
1 GiB at address 0. -/
def walked : State :=
  { State.reset with
    sys := { MemSys.reset with mem := bytesAt pad 8 (pad + 0x1000 + 1) ++ bytesAt (pad + 0x1000) 8 (2 + 4) }
    pav := { State.reset.pav with asids := [(0, ⟨true, false, pad, 0⟩)] } }
/-- The same with the first level in die 0's walk cache. -/
def deeper : State := { walked with sys := { walked.sys with walks := [⟨0, 0, 39, 0, pad + 0x1000⟩] } }
theorem witness_TranslationsAndPostedStores :
    let s := lone id
    let e : TlbEntry := ⟨0, 0, 0x4000, 4096, padLeaf⟩
    (Canonical 0x4010 ∧ tlbFind s 0 (coreAt s 0).ctl.asid.toNat (0x4010 % 2 ^ 57) = some e ∧ e.leaf.getLsbD 2 = true ∧
      { e with leaf := e.leaf ^^^ 4 }.leaf.getLsbD 2 = false) ∧
    (tlbFind s (128 + 0) 0 0x4010 = some ⟨128, 0, 0x4000, 4096, padLeaf⟩ ∧ tlbFind walked (128 + 0) 0 0x4010 = none ∧
      walk walked 0 0 0x4010 = (deeper, .ok (6, 2 ^ 30)) ∧ walk deeper 0 0 0x4010 = (deeper, .ok (6, 2 ^ 30)) ∧ tlbFind State.reset 128 0 0x4010 = none ∧
      (walk State.reset 0 0 0x4010).2.toOption = none) ∧
    (walked.sys.walks = [] ∧ walked.sys.dir = [] ∧ walked.sys.msgs = [] ∧ asidAt walked 0 = ⟨true, false, pad, (asidAt walked 0).since⟩ ∧ wordAt walked pad 8 % 4096 = 1 ∧
      bitsOf (wordAt walked pad 8) 12 40 * 4096 = pad + 0x1000 ∧ wordAt walked (pad + 0x1000) 8 = 6) ∧
    { MemSys.reset with inval := [(0, 0, 4096)] }.inval = (0, 0, 4096) :: [] ∧ { MemSys.reset with posted := [⟨2 ^ 51, 9, 1⟩] }.posted = ⟨2 ^ 51, 9, 1⟩ :: [] ∧
    pavTranslate s 0 (0x4010 % 2 ^ 64) true = (s, .ok ⟨pad + 16, 1, false⟩) ∧ 8 ≤ 128 - 0x4010 % 128 := by
  unfold Canonical; decide +kernel

/-! ### Deferred faults, Folop's answers, pre-emption, teams (R221 to R233, R295 to R309) -/

/-- Partition 0 of cores 0 and 1, root block 0, with the teams of a list. -/
def scheduled (l : Tab Team) (ks : Tab Core) : State :=
  { State.reset with cores := ks, sys := mapped, sched := { Sched.reset with teams := l, parts := [(0, ⟨0, 3, 0, []⟩)], sweep := true } }
def solo : Team := { pair with place := [0], img := Image.empty }
def running0 (f : Core → Core) : Core := f { Core.reset with run := .running, task := some rootTask }
def deferred0 : Deferred := ⟨0x13, 7, 9, 1⟩
def pageFault : FaultEv := ⟨0, 0, 0, 6, 0x4010, 3, 0, 0⟩
def page : Mapping := ⟨0, 0x4000, 4096, padLeaf, 0⟩
/-- Core 0 waits for Folop; `page` serves its fault under a root table in die 0's first scratchpad. -/
def waiting0 : State :=
  let s := scheduled [(0, solo)] [(0, running0 fun k => { k with run := .waitFolop, ctl := { k.ctl with inh := true, trappc := 3, cause := 6 } })]
  { s with pav := { s.pav with faults := [pageFault], serve := [page], asids := [(0, ⟨true, false, pad, 0⟩)] } }
def low : Region := ⟨0, 0, 0, 8, 1, 0, 0, 0, 0, 0, 0, 0, 0, 0, 0, 0⟩

/-- The next bundle of core 0 has a feed step, the first position of which has faulted. -/
def faulting (f : Core → Core) : State :=
  scheduled [(0, solo)] [(0, running0 fun k => f { k with
    code := [(0, (0 : Word) ++ wordOf (.mov 0 3 0 0) ++ (0 : BitVec 64))], arr := { k.arr with win := ⟨0, 0, 1, 1, .nw⟩ }, ctl := { k.ctl with tvec := 8 }
    edge := { k.edge with loaders := [(0, ⟨some feeding, [⟨0, [.bad 0 5]⟩], []⟩)] } })]
/-- R141, R221: the fault of a feed step of the next bundle is pending at the boundary, beside an older deferred one. -/
theorem witness_FaultsAndFolopsAnswers_feed :
    (let s := faulting id
     earlyFault s 0 = some (0, 0, 0, 5) ∧ boundaryFaults s 0 = [⟨0x12, 0, loaderInfo 0 0 5, 0⟩] ∧ (coreAt s 0).ctl.inh = false ∧ (coreAt s 0).run = .running ∧
       (coreAt s 0).soft = none ∧ (coreAt s 0).chain = [] ∧ (coreAt s 0).fences = [] ∧ (coreAt s 0).seq.pend = [] ∧ (coreAt s 0).mem.pend = [] ∧
       (coreAt s 0).ctl.tvec ≠ 0 ∧ (coreAt s 0).seq.readyAt ≤ (coreAt s 0).seq.cyc ∧ isHalted s 0 = false) ∧
    earlyFault State.reset 0 = none ∧ boundaryFaults State.reset 0 = [] ∧ (coreAt State.reset 0).soft = none ∧
    (coreAt (faulting fun k => { k with soft := some 3 }) 0).soft ≠ none := by decide +kernel
/-- R141, R223: the trap entry takes it, with the bundle as its WAVETAG. -/
theorem test_feed_fault_taken :
    let k := coreAt (after (faulting id) (.trapEntry 0)) 0
    k.ctl.cause = 0x12 ∧ k.ctl.info = loaderInfo 0 0 5 ∧ k.ctl.wavetag = 0 ∧ k.seq.pc = 8 := by decide +kernel
theorem witness_FaultsAndFolopsAnswers :
    (let s := scheduled [(0, solo)] [(0, running0 fun k => { k with deferred := [deferred0], ctl := { k.ctl with tvec := 8 } })]
     (coreAt s 0).ctl.inh = false ∧ (coreAt s 0).run = .running ∧ (coreAt s 0).chain = [] ∧ (coreAt s 0).deferred = [deferred0] ∧ boundaryFaults s 0 = [deferred0] ∧
       (coreAt s 0).soft = none ∧ (coreAt s 0).fences = [] ∧ (coreAt s 0).seq.pend = [] ∧
       (coreAt s 0).mem.pend = [] ∧ (coreAt s 0).ctl.tvec ≠ 0 ∧ (coreAt s 0).seq.readyAt ≤ (coreAt s 0).seq.cyc ∧ isHalted s 0 = false) ∧
    (coreAt State.reset 0).deferred = [] ∧
    (deferred0.at_ < (⟨0x18, 0, 0, 2⟩ : Deferred).at_ ∧ ({ deferred0 with cause := 0x18 } : Deferred).at_ = deferred0.at_ ∧ deferred0.cause ≠ 0x18 ∧
      ({ deferred0 with cause := 0x10 } : Deferred).cause < deferred0.cause) ∧
    (faultOf waiting0 0 = some pageFault ∧ (∀ m ∈ waiting0.pav.maps, holdsFault pageFault m = false) ∧ waiting0.pav.serve.find? (holdsFault pageFault) = some page ∧
      (mapChecked waiting0 page).isSome = true ∧ isHalted waiting0 0 = false ∧ holdsFault pageFault page = true ∧ liveHere waiting0 0 0 = true ∧
      (coreAt waiting0 0).run = .waitFolop ∧ (coreAt waiting0 0).chain = [] ∧ (coreAt waiting0 0).deferred = [] ∧ (coreAt waiting0 0).ctl.trappc.toNat < 16384 ∧
      (coreAt waiting0 0).ctl.trappc.toNat < (coreAt waiting0 0).imemQuota ∧ faultOf State.reset 0 = none) ∧
    (LoneTask waiting0 0 rootTask solo ∧ (coreAt waiting0 0).ctl.cause ≠ 0x18 ∧ (coreAt waiting0 waiting0.me).ctl.inh = true) := by
  unfold LoneTask; decide +kernel

/-- Core 0 of `waiting0`, halted by a swap; one whose page has been mapped; one that was saved. -/
theorem witness_FaultsAndFolopsAnswers_kept :
    let h : State := { waiting0 with sched := { waiting0.sched with halted := [0] } }
    let m : State := { waiting0 with pav := { waiting0.pav with maps := [page] } }
    let z : State := { waiting0 with sched := { waiting0.sched with saved := [(0, coreAt waiting0 0)] } }
    (faultOf h 0 = some pageFault ∧ isHalted h 0 = true ∧ (contextAt h 0 0).run = .waitFolop ∧ ∃ p ∈ m.pav.maps, holdsFault pageFault p = true) ∧
    (liveHere z 0 0 = false ∧ (contextAt z 0 0).run = .waitFolop) := by decide +kernel
/-- R229: a core that a swap has halted keeps Folop's answer; R221: a stall that is not over delays the entry. -/
theorem test_kept_answer :
    let h : State := { waiting0 with sched := { waiting0.sched with halted := [0] } }
    (coreAt (after h (.folopEnd 0)) 0).answer = some false ∧ (coreAt (after h (.folopResume 0)) 0).answer = some true ∧
      (coreAt (after waiting0 (.folopResume 0)) 0).run = .running := by decide +kernel
/-- Team 1 of priority 1 waits; team 0 of priority 0 holds the partition's two cores. -/
def contested : State :=
  let s := scheduled [(0, { pair with place := [0, 1] }), (1, { pair with place := [], state := .waiting, region := 64 })] [(0, running0 id)]
  { s with sched := { s.sched with regions := [(64, low)] } }
def yielding : Team := { solo with state := .yielding, spilled := true }
def yielder : State := scheduled [(0, yielding)] [(0, { running0 id with yield_ := .save })]
def savedCore : Core := running0 fun k => { k with seq := { k.seq with k := [(3, 65535)] } }
def restoring (l : List Post) : State :=
  let s := scheduled [(0, { solo with state := .bound, spilled := true })] []
  { s with sched := { s.sched with saved := [(0, { savedCore with tail := l })] } }
def draining0 (b : Nat) : State :=
  let s := scheduled [(0, { solo with state := .yielding })] [(0, { running0 id with yield_ := .drain })]
  { s with sched := { s.sched with drains := [(0, b)] } }
def swapping (l : Tab Core) : State :=
  let s := scheduled [] [(0, running0 id)]
  { s with sched := { s.sched with parts := [(0, ⟨0, 1, 0, []⟩), (1, ⟨0, 1, 0, []⟩)], shadow := l } }

theorem witness_PreemptionSavesAndRestores :
    (let x : Team := { pair with place := [], state := .waiting, region := 64 }
     let y : Team := { pair with place := [0, 1] }
     teamAt contested 1 = some x ∧ teamAt contested 0 = some y ∧ contested.sched.sweep = true ∧ y.state ≠ .yielding ∧ (firstWaiting contested 0).map (·.1) = some 1 ∧ (firstWaiting contested 0).map (·.1) ≠ some 0 ∧
       placement contested x [] = none ∧ chooseVictims contested x = some [(0, y)] ∧ { contested with sched := { contested.sched with sweep := false } }.sched.sweep = false) ∧
    (bindingOf yielder 0 = some (0, yielding) ∧ liveHere yielder 0 0 = true ∧ (coreAt yielder 0).yield_ = .save ∧ teamDone yielder 0 = false ∧ (coreAt yielder 0).run = .running ∧
      (coreAt yielder 0).seq.readyAt ≤ (coreAt yielder 0).seq.cyc ∧ (coreAt yielder 0).chain = [] ∧ boundaryFaults yielder 0 = [] ∧
      (coreAt yielder 0).soft = none ∧ (coreAt yielder 0).fences = [] ∧ retiring yielding 0 = false ∧ copiesQuiet (coreAt yielder 0) = true ∧ ((coreAt yielder 0).arr.cells.map (·.1)).Nodup) ∧
    (bindingOf (restoring []) 0 = some (0, { solo with state := .bound, spilled := true }) ∧ Tab.look (restoring []).sched.saved 0 = some savedCore ∧
      savedCore.run = .running ∧ savedCore.chain = [] ∧ savedCore.answer = none ∧ savedCore.mem.pend = [] ∧ savedCore.tail = [] ∧
      Tab.look (restoring [⟨0, 0, 1, 0, false, 3, 1⟩]).sched.saved 0 = some { savedCore with tail := [⟨0, 0, 1, 0, false, 3, 1⟩] }) ∧
    ((draining0 0).sched.drains = [(0, 0)] ∧ 0 ≤ (draining0 0).beat ∧ 0 ∈ teamCores (draining0 0) 0 ∧ liveHere (draining0 0) 0 0 = true ∧
      (coreAt (draining0 0) 0).yield_ = .drain ∧ (draining0 1).beat < 1) := by
  decide +kernel
theorem witness_PreemptionSavesAndRestores_swap :
    ((swapping []).sched.swap = none ∧ liveCores (swapping []) 0 = [0] ∧ liveCores (swapping []) 1 = [] ∧ isHalted (swapping []) 0 = false ∧
      (coreAt (swapping []) 0).run = .running ∧ copiesQuiet (coreAt (swapping []) 0) = true ∧ (coreAt (swapping []) 0).chain = [] ∧ 0 ∈ partCores (swapping []) 1 ∧
      (coreAt (swapping []) 0).seq.readyAt ≤ (coreAt (swapping []) 0).seq.cyc ∧ boundaryFaults (swapping []) 0 = [] ∧
      (coreAt (swapping []) 0).soft = none ∧ (coreAt (swapping []) 0).fences = [] ∧ Tab.look (swapping []).sched.shadow 0 = none ∧
      Tab.look (swapping [(0, { savedCore with part := 1 })]).sched.shadow 0 = some { savedCore with part := 1 } ∧
      (let b := modCore (swapping []) 0 fun k => { k with seq := { k.seq with readyAt := 3 } }
       liveCores b 0 = [0] ∧ liveCores b 1 = [] ∧ (coreAt b 0).seq.cyc < (coreAt b 0).seq.readyAt) ∧
      (let w : State := { swapping [] with sched := { (swapping []).sched with swap := some (0, 1) } }
       w.sched.swap = some (0, 1) ∧ ((1, 0) : Nat × Nat) ≠ (0, 1))) := by
  decide +kernel
theorem witness_PreemptionSavesAndRestores_no_chain (l : Tab Core) (c : Nat) : ∀ p ∈ (swapping l).cores, c ∉ p.2.chain :=
  noFollower rfl rfl c
theorem witness_PreemptionSavesAndRestores_no_follower : ∀ m, (coreAt yielder 0).run ≠ .follower m ∧ savedCore.run ≠ .follower m :=
  fun _ => ⟨nofun, nofun⟩

def starting : Team := { solo with state := .waiting, place := [], img := { Image.empty with ents := [(255, 0, [1, 2])] } }
def packet : Pkt := ⟨0, 0, 1, some 0, 0, 0, [], none, true, none⟩
theorem witness_TeamsBindRunAndEnd :
    (let x : Team := { solo with state := .waiting, hasSaved := true }
     let s := scheduled [(0, x)] []
     teamAt s 0 = some x ∧ s.sched.sweep = true ∧ (firstWaiting s x.part).map (·.1) = some 0 ∧ ∀ c ∈ x.place, c ∈ freeCores s x.part) ∧
    (let s0 := scheduled [(0, starting)] []
     let s : State := { s0 with pav := { s0.pav with areas := [(0, 0x80000)] } }
     teamAt s 0 = some starting ∧ (firstWaiting s starting.part).map (·.1) = some 0 ∧ 0 ∈ freeCores s starting.part ∧ Tab.look s.sched.saved 0 = none ∧
       (coreAt s 0).part = starting.part ∧ s.pav.areas = [(starting.asid, 0x80000)]) ∧
    (let x : Team := { solo with state := .bound, releaseAt := some 0 }
     teamAt (scheduled [(0, x)] []) 0 = some x ∧ x.place = [0] ∧ liveHere (scheduled [(0, x)] []) 0 0 = true ∧ 0 ≤ 5 * (scheduled [(0, x)] []).beat / 9 ∧ 5 * (scheduled [(0, x)] []).beat / 9 < 1) ∧
    (teamAt (scheduled [(0, starting)] []) 0 = some starting ∧ starting.gen = none ∧ starting.qlen = 0 ∧ starting.front = [] ∧ starting.place = []) ∧
    (LoneTask (scheduled [(0, solo)] [(0, running0 id)]) 0 rootTask solo ∧ solo.status = 0) ∧
    (let s0 := scheduled [(0, solo)] []
     let s : State := { s0 with pav := { s0.pav with pkts := [(0, packet)] } }
     let b := scheduled [(0, solo)] [(0, running0 id)]
     teamAt s 0 = some solo ∧ pktAt s solo.pkt = some packet ∧ bitsOf packet.bits.toNat 0 8 = 1 ∧ teamDone s 0 = true ∧ teamDone b 0 = false) := by
  unfold LoneTask; decide +kernel
/-- R380: the last task of a team has retired, but a cut of its generator met a map fault: the team does not end. -/
theorem witness_TeamsBindRunAndEnd_lost :
    let x (l : Bool) : Team := { solo with img := { Image.empty with sched := some [] }, gen := some { Gen.reset with lost := l } }
    teamAt (scheduled [(0, x true)] []) 0 = some (x true) ∧ (x true).gen = some { Gen.reset with lost := true } ∧
      teamDone (scheduled [(0, x true)] []) 0 = false ∧ teamDone (scheduled [(0, x false)] []) 0 = true := by decide +kernel

/-! ### The directory (R249 to R252) -/

/-- One entry for line 9, the copies that the dies hold, and the messages in flight. -/
def tracked (e : Option DirEntry) (l : Tab (List L2Line)) (ms : List DirMsg) : State :=
  { State.reset with sys := { MemSys.reset with dir := (match e with | some e => [(9, e)] | none => []), l2 := l, msgs := ms } }
def entry (st : DirState) (sh : BitVec 5) : DirEntry := ⟨st, sh, 0, [], 0⟩
def copyOf9 : L2Line := ⟨9, 0, 0, false, false, false⟩
def copyBeside : L2Line := ⟨139273, 7, 1, true, false, false⟩
/-- Every message that a core's die sends or receives about line 9. -/
def about9 : List DirMsg :=
  [.rds 9 1, .rdx 9 1, .upg 9 1, .ack 9 1, .inv 9 1, .invack 9 1, .rcls 9 1, .rcli 9 1, .fwdio 9 1, .evs 9 1, .wbx 9 1 0 1, .rclack 9 1 true 0 1, .fwdack 9 1 true 0 1]
theorem witness_DirectoryMessagesAct :
    (∀ m ∈ about9, Arriving (tracked none [] [m]) m 9) ∧ (∀ m ∈ about9, m ∉ (tracked none [] []).sys.msgs) ∧
    homeStands { tracked none [] [] with power := { Power.reset with islands := [(16, .ret)] } } 9 = true ∧
    ((tracked none [] about9).sys.msgs.find? (asksFor 9) = some (.rds 9 1) ∧ asksFor 9 (.rdx 9 1) = true ∧ dirAt (tracked none [] about9) 9 = none ∧ ((tracked none [] about9).sys.dir.filter fun p => sameSet p.1 9).length < 16 ∧ WayFree (tracked none [] about9) 1 9) ∧
    ((tracked none [] [.wbx 9 1 0 1, .fwdack 9 1 false 0 0]).sys.msgs.find? (fun x => fromDie x == some (9, 1)) = some (.wbx 9 1 0 1) ∧
      fromDie (.fwdack 9 1 false 0 0) = some (9, 1)) ∧
    (∀ st ∈ [DirState.s, .x, .us 1, .ux 1, .sx (.rdx 2), .xs (.rds 2), .xs .rdio, .xu (.wrio 3 1)],
      (∀ m ∈ about9, Arriving (tracked (some (entry st (bitOf 1))) [] [m]) m 9) ∧ dirAt (tracked (some (entry st (bitOf 1))) [] about9) 9 = some (entry st (bitOf 1)) ∧ (entry st (bitOf 1)).sharers = bitOf 1 ∧ (entry st (bitOf 1)).queue = [] ∧
        (entry st (bitOf 1)).state = st) ∧
    (l2Find (tracked none [(1, [copyOf9])] []) 1 9 = some copyOf9 ∧ l2Find (tracked none [] []) 1 9 = none ∧ (tracked none [] []).sys.setWait = [] ∧ copyOf9.dirty = 0) ∧
    ({ entry (.sx (.rdx 2)) 2 with acks := 1 }.acks = 1 ∧ 1 < { entry (.sx (.rdx 2)) 2 with acks := 2 }.acks) ∧
    { MemSys.reset with hostw := [(9, 3, 1), (8, 0, 0)] }.hostw = (9, 3, 1) :: [(8, 0, 0)] := by
  unfold Arriving WayFree; decide +kernel
/-- A die whose one way for copies holds another line of line 9's set. -/
theorem witness_DirectoryMessagesAct_room :
    let s : State := { tracked none [(1, [copyBeside])] about9 with sys := { (tracked none [(1, [copyBeside])] about9).sys with pinWays := [(1, 15)] } }
    l2Ways s 1 9 ≤ (setOf s 1 9).length ∧ (setOf s 1 9).getLast? = some copyBeside ∧ copyBeside.nc = false := by decide +kernel
/-- No request to line 9 is in flight; a write of the host waits, or none. -/
theorem witness_DirectoryMessagesAct_host :
    let s := tracked none [] []
    let w : State := { s with sys := { s.sys with hostw := [(8, 0, 1), (9, 3, 1)] } }
    NoneBefore s 9 ∧ ¬ WriteWaits s 9 ∧ WriteWaits w 9 ∧ s.sys.hostw = [] := by
  unfold NoneBefore WriteWaits; decide +kernel
theorem witness_DirectoryMessagesAct_transient :
    ∀ st ∈ [DirState.us 1, .ux 1, .sx (.rdx 2), .xs .rdio, .xu .victim], Transient st := by
  intro st h
  simp only [List.mem_cons, List.not_mem_nil, or_false] at h
  rcases h with rfl | rfl | rfl | rfl | rfl <;> simp [Transient]
/-- The 16 ways of line 9's set, held by other lines, in one state. -/
def fullSet (st : DirState) (q : DirMsg) : State :=
  { State.reset with sys := { MemSys.reset with
    msgs := [q, .invack 139273 1, .rclack 139273 1 true 0 1]
    dir := (List.range 16).map fun k => (9 + 139264 * (k + 1), ⟨st, bitOf 1, 1, [], k⟩) } }
theorem witness_DirectoryMessagesAct_victims :
    (∀ st ∈ [DirState.s, .x], Arriving (fullSet st (.rdx 9 2)) (.rdx 9 2) 9 ∧ Arriving (fullSet st (.rds 9 2)) (.rds 9 2) 9 ∧ Arriving (fullSet st (.rds 9 2)) (.invack 139273 1) 139273 ∧ dirAt (fullSet st (.rds 9 2)) 9 = none ∧ dirAt (fullSet st (.rds 9 2)) 139273 = some ⟨st, bitOf 1, 1, [], 0⟩ ∧
      16 ≤ ((fullSet st (.rds 9 2)).sys.dir.filter fun p => sameSet p.1 9).length ∧
      lruEntry st ((fullSet st (.rds 9 2)).sys.dir.filter fun p => sameSet p.1 9) = some (139273, ⟨st, bitOf 1, 1, [], 0⟩)) ∧
    lruEntry .s ((fullSet .x (.rds 9 2)).sys.dir.filter fun p => sameSet p.1 9) = none ∧
    (∀ st ∈ [DirState.sx .victim, .xu .victim],
      let s := { fullSet st (.rds 9 2) with sys := { (fullSet st (.rds 9 2)).sys with setWait := [⟨.rds 9 2, 9, some 139273⟩] } }
      dirAt s 139273 = some ⟨st, bitOf 1, 1, [], 0⟩ ∧ s.sys.setWait = [⟨.rds 9 2, 9, some 139273⟩]) := by
  unfold Arriving; decide +kernel
/-- R253: the victim's last acknowledgement frees its way and lets the request go on. -/
theorem test_victim :
    let s := after (fullSet .s (.rds 9 2)) (.rds 9 2)
    let t := after s (.invack 139273 1)
    (s.sys.msgs.contains (.inv 139273 1), (dirAt s 9).isSome, (dirAt t 139273).isSome, t.sys.msgs.contains (.rds 9 2)) = (true, false, false, true) := by
  decide +kernel
/-- R249: a second reader shares; its grant waits for the acknowledgement. -/
theorem test_rds : let t := after (tracked (some (entry .s 1)) [] [.rds 9 2]) (.rds 9 2)
    ((dirAt t 9).map (·.state), t.sys.msgs) = (some (.us 2), [.ack 9 2]) := by decide +kernel
/-- R252: a request does not pass an older one of its line; one that meets a transient entry waits there. -/
theorem test_queue :
    let s := after (tracked (some (entry (.xs .rdio) 2)) [] [.rds 9 2, .rdx 9 3]) (.rdx 9 3)
    let t := after s (.rds 9 2)
    ((dirAt s 9).map (·.queue), s.sys.msgs, (dirAt t 9).map (·.queue)) = (some [], [.rds 9 2, .rdx 9 3], some [.rds 2]) := by decide +kernel
/-- R252, R261: the owner's answer that it has no copy does not pass its older write-back, whose dirty byte reaches the home. -/
theorem test_no_answer_before_the_write_back :
    let s := tracked (some (entry (.xs .rdio) 2)) [] [.wbx 9 1 5 1, .fwdack 9 1 false 0 0]
    let t := after (after s (.wbx 9 1 5 1)) (.fwdack 9 1 false 0 0)
    after s (.fwdack 9 1 false 0 0) = s ∧ byteAt t (9 * 128) = 5 := by decide +kernel
/-- R250, R256: the owner's line, its dirty byte with it, reaches the I/O agent and the home. -/
theorem test_rdio :
    let s := after (tracked (some (entry .x 2)) [(1, [⟨9, 5, 1, true, false, false⟩])] []) (.rdio 9)
    let t := after (after s (.fwdio 9 1)) (.fwdack 9 1 true 5 1)
    (s.sys.msgs, t.sys.reads, byteAt t (9 * 128), (dirAt t 9).map (·.state)) = ([.fwdio 9 1], [(9, 5)], 5, some .s) := by decide +kernel

/-! ### Queues, packets, graphs, regions (R304, R345 to R363) -/

/-- A number with fields at byte offsets. -/
def fields (l : List (Nat × Nat)) : Nat := (l.map fun f => f.2 * 256 ^ f.1).sum
/-- A queue of 16 packets in page 0x4000 of ASID 0. -/
def ring : Queue := ⟨0x4000, 4, true, 0, 0, 256, 2 ^ 51 + 0x100, 7, 1, 0, 0, 1, none, true⟩
def rootBlock : Region := ⟨0, 0, 0, 255, 0, 4, 0, 0, 0, 0, 0, 0, 0, 0, 0, 0⟩
/-- Queue 5, a started packet 0 of it, root region 256 of partition 0 with two cores, memory v at the page, teams of a list. -/
def pavState (v : Nat) (q : Queue) (p : Option Pkt) (l : Tab Team) : State :=
  { State.reset with
    sys := { mapped with mem := bytesAt pad 512 v }
    sched := { Sched.reset with teams := l, parts := [(0, ⟨256, 3, 0, []⟩)], regions := [(256, rootBlock)] }
    pav := { State.reset.pav with queues := [(5, q)], events := [5], pkts := match p with | some x => [(0, x)] | none => [] } }
def pkt5 (l : List (Nat × Nat)) : Pkt := ⟨5, 0, BitVec.ofNat 512 (fields l), none, 0, 0, [], none, false, none⟩
/-- An image: null section, a team section of one core, one bundle of code. -/
def imageBytes : Nat :=
  fields [(0, 0x464F447F), (4, 1), (6, 2), (0x0C, 3), (0x10, 64), (0x20, 1), (64 + 48 + 4, 15), (64 + 48 + 0x10, 256), (64 + 48 + 0x18, 48),
    (64 + 96 + 4, 1), (64 + 96 + 0x10, 320), (64 + 96 + 0x18, 16), (256 + 4, 1), (256 + 0x21, 255), (256 + 0x24, 2), (256 + 0x28, 1), (320, 0x20)]

theorem witness_QueuesStartAndCompletePackets :
    (let x : Queue := { ring with write := 0 }
     x.state = 1 ∧ x.write < 16 ∧ 16 - x.read ≤ 2 ^ x.logsz ∧ 2 ^ x.logsz < 17 - x.read) ∧
    (let s := pavState 1 ring none []
     s.pav.events = [5] ∧ queueAt s 5 = ring ∧ ring.state = 1 ∧ ring.write = ring.read + 1 ∧ openPackets s 5 = 0 ∧
       (let u : State := { s with pav := { s.pav with events := [], queues := Tab.set .reset s.pav.queues 5 { ring with posted := false } } }
        readNum u 0 (0x4000 + 64 * (ring.read % 2 ^ ring.logsz)) 64 = (u, .ok 1)) ∧ packetError 1 = 0 ∧ packetError 0 ≠ 0 ∧ Nat.testBit 1 14 = false ∧ 1 < 2 ^ 512) ∧
    (let s := pavState (1 + 2 ^ 14) ring (some (pkt5 [(0, 1)])) []
     openPackets s 5 ≠ 0 ∧ openPackets s 5 < 64 ∧ packetError (1 + 2 ^ 14) = 0 ∧ Nat.testBit (1 + 2 ^ 14) 14 = true ∧
       (let n : State := { s with sys := MemSys.reset, pav := { s.pav with events := [], queues := Tab.set .reset s.pav.queues 5 { ring with posted := false } } }
        (readNum n 0 0x4000 64).2.toOption = none ∧ ring.read < ring.write)) ∧
    (part 0 0 1 = 0 ∧ 6 < part 7 0 1) ∧
    (let p : Pkt := { pkt5 [(0, 1), (1, 0x80), (2, 1), (8, 0x4000)] with status := some 0 }
     let s := pavState 1 ring (some p) []
     let u := afterRelease s (bitsOf p.bits.toNat 11 3) p.cores
     pktAt s 0 = some p ∧ p.team = none ∧ p.status = some 0 ∧ 0 < 2 ^ 63 ∧ p.bits.getLsbD 15 = true ∧ p.bits.getLsbD 16 = true ∧
       SeenAt u (queueAt u p.queue).asid (pf p 8 8) true place4 ∧ (queueAt u p.queue).coal = 0 ∧ { ring with coal := 1 }.coal ≠ 0 ∧ ring.irqAt = none ∧
       (pavTranslate { u with sys := MemSys.reset } 0 0x4000 true).2.toOption = none ∧
       (pkt5 [(0, 1)]).bits.getLsbD 15 = false) ∧
    { ring with irqAt := some 0 }.irqAt = some 0 := by
  unfold SeenAt Single; decide +kernel

def launchPkt : Pkt := pkt5 [(0, 1), (0x10, 0x4000)]
def waitPkt : Pkt := pkt5 [(0, 3), (0x10, 0x4000), (0x18, 7), (0x20, 255)]
def signalPkt (op : Nat) : Pkt := pkt5 [(0, 4), (0x10, 0x4000), (0x18, 7), (0x20, op)]
def oneCore : Image := { Image.empty with ents := [(255, 0, [0x20])] }
def noPage (s : State) : State := { s with sys := MemSys.reset }
theorem witness_PacketsDoTheirWork_launch :
    let s := pavState imageBytes ring (some launchPkt) []
    Started s 0 launchPkt 1 ∧ readImage s 0 (pf launchPkt 0x10 8) = (s, .ok (some oneCore)) ∧ oneCore.sched = none ∧ (regionAt s 256).isSome = true ∧
    effAsid s 256 = ring.asid ∧ everBindable s oneCore 256 = true ∧
    (let z := pavState 0 ring (some launchPkt) []
     readNum z 0 (pf launchPkt 0x10 8) 64 = (z, .ok 0) ∧ part 0 0 4 ≠ 0x464F447F) ∧
    (readNum (noPage s) 0 (pf launchPkt 0x10 8) 64 = (noPage s, .error .invalid)) := by
  unfold Started; decide +kernel
theorem witness_PacketsDoTheirWork_waits :
    let s := pavState 7 ring (some waitPkt) []
    let w : Pkt := { waitPkt with begun := true, deadline := some 0 }
    Started s 0 waitPkt 3 ∧ SeenAt { s with pav := { s.pav with pkts := Tab.put s.pav.pkts 0 { waitPkt with begun := true } } } ring.asid (pf waitPkt 0x10 8) false place4 ∧
    pf waitPkt 0x10 8 % 8 = 0 ∧ pf waitPkt 0x28 4 < 3 ∧ condHolds (pf waitPkt 0x28 4) (wordAt s place4.pa 8) (pf waitPkt 0x20 8) (pf waitPkt 0x18 8) ∧
    ¬ condHolds (pf waitPkt 0x28 4) 8 (pf waitPkt 0x20 8) (pf waitPkt 0x18 8) ∧
    (let t := pavState 7 ring (some w) []
     pktAt t 0 = some w ∧ pf w 0 1 = 3 ∧ SeenAt t (queueAt t w.queue).asid (pf w 0x10 8) false place4 ∧ w.deadline = some 0 ∧ 0 ≤ t.beat ∧ t.beat < 1) := by
  unfold Started SeenAt Single condHolds; decide +kernel
theorem witness_PacketsDoTheirWork_stores :
    (let s (op : Nat) := pavState 0xFFFFFFFFFFFFFFFF ring (some (signalPkt op)) []
     Started (s 0) 0 (signalPkt 0) 4 ∧ Started (s 1) 0 (signalPkt 1) 4 ∧ SeenAt (deliverPosted (s 0)) ring.asid (pf (signalPkt 0) 0x10 8) true place4 ∧
       SeenAt (deliverPosted (s 1)) ring.asid (pf (signalPkt 1) 0x10 8) true place4 ∧
       (pavTranslate (deliverPosted (noPage (s 0))) ring.asid (pf (signalPkt 0) 0x10 8) true).2.toOption = none) := by
  unfold Started SeenAt Single; decide +kernel
/-- 128 bytes from 0x4000 to 0x4080; the second source piece lies on no page. -/
def pieces (src dst : Nat) : Pkt := pkt5 [(0, 5), (0x10, src), (0x18, dst), (0x20, 128)]
theorem witness_PacketsDoTheirWork_copies :
    let s (p : Pkt) := pavState 9 ring (some p) []
    let at_ (va i : Nat) : Xl := ⟨pad + va + 64 * i, 1, false⟩
    let good := pieces 0x4000 0x4080
    let cut := pieces 0x4FC0 0x4080
    let v := (pavTranslate (s cut) ring.asid ((pf cut 0x10 8 + 64) % 2 ^ 64) false).1
    (Started (s good) 0 good 5 ∧ pf good 0x20 8 = 64 * 2 ∧ pf good 0x10 8 % 64 = 0) ∧
    (∀ i, i < 2 → SeenAt (s good) ring.asid ((pf good 0x10 8 + 64 * i) % 2 ^ 64) false (at_ 0 i) ∧
      SeenAt (s good) ring.asid ((pf good 0x18 8 + 64 * i) % 2 ^ 64) true (at_ 128 i)) ∧
    (SeenAt (s cut) ring.asid (pf cut 0x10 8 % 2 ^ 64) false (at_ 0xFC0 0) ∧ SeenAt v ring.asid (pf cut 0x18 8 % 2 ^ 64) true (at_ 128 0) ∧
      (pavTranslate (s cut) ring.asid ((pf cut 0x10 8 + 64) % 2 ^ 64) false).2.toOption = none) := by
  unfold Started SeenAt Single; decide +kernel
/-- A destination of no canonical address faults in every state. -/
theorem witness_PacketsDoTheirWork_copies_bad (u : State) :
    Started (pavState 9 ring (some (pieces 0x4000 (2 ^ 60))) []) 0 (pieces 0x4000 (2 ^ 60)) 5 ∧
      pavTranslate u 0 (pf (pieces 0x4000 (2 ^ 60)) 0x18 8 % 2 ^ 64) true = (u, .error .nonCanon) := by
  have h : pf (pieces 0x4000 (2 ^ 60)) 0x18 8 % 2 ^ 64 = 2 ^ 60 := by decide +kernel
  rw [h]
  exact ⟨by unfold Started; decide +kernel, rfl⟩
/-- R359, R205: 128 bytes move by 64, the source's bytes as they were; the lines that the copy ends in are full. -/
theorem test_copy :
    let t := after (pavState (5 + 7 * 2 ^ 512 + 9 * 2 ^ 1024) ring (some (pieces 0x4000 0x4040)) []) (.copy 0)
    ((wordAt t (pad + 64) 8, wordAt t (pad + 128) 8), (pktAt t 0).map (·.status), Tab.get false t.sys.full (pad / 128),
      Tab.get false t.sys.full (pad / 128 + 1)) = ((5, 7), some (some 0), true, true) := by decide +kernel

/-- A graph that stands at 0x4080, where a node of the given fields lies; the page begins with a word. -/
def graphPkt : Pkt := { pkt5 [(0, 2), (0x10, 0x4080)] with begun := true, node := 0x4080 }
def atNode (w : Nat) (l : List (Nat × Nat)) : State := pavState (fields ((0, w) :: l.map fun f => (128 + f.1, f.2))) ring (some graphPkt) []
def loopNode (b c : Nat) : List (Nat × Nat) := [(0, 2), (1, b), (8, 0x4100), (0x10, 0x4140), (0x18, 0x4000), (0x28, 3), (0x2C, c)]
def kernelNode : List (Nat × Nat) := [(0, 1), (0x10, 0x4000), (0x18, 9), (0x20, 256)]
theorem witness_GraphNodesAct :
    Started (pavState 0 ring (some (pkt5 [(0, 2), (0x10, 0x4080)])) []) 0 (pkt5 [(0, 2), (0x10, 0x4080)]) 2 ∧
    ({ graphPkt with node := 0x4081 }).node % 64 ≠ 0 ∧
    (∀ l ∈ [[(0, 5)], [(0, 3), (0x10, 0x4000)], [(0, 4), (0x10, 0x4000), (0x18, 7)], loopNode 1 1, loopNode 1 3, loopNode 0 0, kernelNode],
      AtNode (atNode 1 l) 0 graphPkt (fields l)) ∧
    (readNum (atNode 1 (loopNode 1 1)) 0 0x4000 8 = (atNode 1 (loopNode 1 1), .ok 1) ∧ (writeNum (atNode 1 (loopNode 1 1)) 0 0x40AC 4 2).2.toOption.isSome = true ∧
      (writeNum (atNode 1 (loopNode 1 3)) 0 0x4081 1 0).2.toOption.isSome = true) ∧
    (let a := (writeNum (atNode 1 (loopNode 0 0)) 0 0x4081 1 1).1
     (writeNum (atNode 1 (loopNode 0 0)) 0 0x4081 1 1).2.toOption.isSome = true ∧ (writeNum a 0 0x40AC 4 0).2.toOption.isSome = true) ∧
    SeenAt (deliverPosted (atNode 1 [(0, 4), (0x10, 0x4000), (0x18, 7)])) 0 0x4000 true place4 ∧
    ({ solo with state := .ended, status := 2 }.state = .ended ∧ { solo with status := 2 }.status ≠ 0 ∧ solo.status = 0 ∧ solo.state ≠ .ended) := by
  unfold Started SeenAt Single AtNode; decide +kernel
/-- A kernel node at 0x4200 whose image is at 0x4000. -/
theorem witness_GraphNodesAct_kernel :
    let p : Pkt := { graphPkt with node := 0x4180 }
    let v := fields kernelNode
    let s := pavState (imageBytes + fields (kernelNode.map fun f => (0x180 + f.1, f.2))) ring (some p) []
    AtNode s 0 p v ∧ part v 0 1 = 1 ∧ p.team = none ∧ part v 0x20 8 = 256 ∧ readImage s 0 (part v 0x10 8) = (s, .ok (some oneCore)) ∧
    (regionAt s 256).isSome = true ∧ effAsid s 256 = 0 ∧ everBindable s oneCore 256 = true := by
  unfold AtNode; decide +kernel

/-- A kernel node whose team 3 has ended, or runs on. -/
theorem witness_GraphNodesAct_team :
    let v := fields kernelNode
    let p : Pkt := { graphPkt with team := some 3, cur := BitVec.ofNat 512 v }
    let s (st : TeamState) := pavState 0 ring (some p) [(3, { solo with state := st })]
    (∀ st ∈ [TeamState.ended, .running], AtNode (s st) 0 p v ∧ part v 0 1 = 1 ∧ teamAt (s st) 3 = some { solo with state := st }) := by
  unfold AtNode; decide +kernel

def regionPkt (op a : Nat) : Pkt := pkt5 [(0, 6), (0x10, a), (0x18, 0x4000), (0x20, op)]
/-- A legal child block of 256. -/
def childBlock : Nat := fields [(0, 256), (0x18, 1), (0x1E, 2)]
def leafRegion : Region := { regionOf childBlock with sibling := 0 }
def withChild (op : Nat) (l : Tab Team) : State :=
  let s := pavState childBlock ring (some (regionPkt op 512)) l
  { s with sched := { s.sched with regions := [(256, { rootBlock with child := 512 }), (512, leafRegion)] } }
theorem witness_RegionPacketsAct :
    (let s := pavState childBlock ring (some (regionPkt 0 512)) []
     Started s 0 (regionPkt 0 512) 6 ∧ pf (regionPkt 0 512) 0x20 8 = 0 ∧ ring.priv = true ∧ { ring with priv := false }.priv = false ∧
       readNum s ring.asid (pf (regionPkt 0 512) 0x18 8) 256 = (s, .ok childBlock) ∧ pf (regionPkt 0 512) 0x10 8 ≠ 0 ∧ blockOk childBlock = true ∧
       blockOk (childBlock + 256 ^ 0x31) = false ∧ regionAt s 512 = none ∧ (regionOf childBlock).parent = 256 ∧ regionAt s 256 = some rootBlock ∧
       (regionOf (fields [(0x18, 255), (0x1B, 4)])).parent = 0 ∧ blockOk (fields [(0x18, 255), (0x1B, 4)]) = true) ∧
    (Started (withChild 1 []) 0 (regionPkt 1 512) 6 ∧ readNum (withChild 1 []) ring.asid (pf (regionPkt 1 512) 0x18 8) 256 = (withChild 1 [], .ok childBlock) ∧
      regionAt (withChild 1 []) 512 = some leafRegion ∧ blockOk childBlock = true) ∧
    (Started (withChild 2 []) 0 (regionPkt 2 512) 6 ∧ leafRegion.child = 0 ∧ leafRegion.parent ≠ 512 ∧
      regionAt (withChild 2 []) 256 = some { rootBlock with child := 512 } ∧ rootBlock.sibling ≠ 512) ∧
    (let x : Team := { solo with state := .waiting, place := [], region := 512 }
     Started (withChild 3 [(7, x)]) 0 (regionPkt 3 512) 6 ∧ (withChild 3 [(7, x)]).sched.teams = [(7, x)] ∧ inSubtree (withChild 3 [(7, x)]) 512 x.region = true ∧
       x.qlen = 0 ∧ x.front = [] ∧ x.gen = none) ∧
    (let s := withChild 2 [(7, { solo with region := 512 })]
     regionAt s 512 = some leafRegion ∧ ∃ t ∈ s.sched.teams, t.2.region = 512 ∧ t.2.state ≠ .ended) := by
  unfold Started; decide +kernel
/-- No message of the directory is on its way in these states: what has been delivered to the host window stands at home. -/
theorem witness_packets_settled :
    ∀ s ∈ [pavState 1 ring none [], pavState (1 + 2 ^ 14) ring (some (pkt5 [(0, 1)])) [], pavState imageBytes ring (some launchPkt) [],
      pavState 0 ring (some launchPkt) [], noPage (pavState imageBytes ring (some launchPkt) []), pavState 7 ring (some waitPkt) [],
      pavState 0xFFFFFFFFFFFFFFFF ring (some (signalPkt 0)) [], noPage (pavState 0xFFFFFFFFFFFFFFFF ring (some (signalPkt 0)) []),
      pavState 9 ring (some (pieces 0x4000 0x4080)) [], pavState 9 ring (some (pieces 0x4FC0 0x4080)) [],
      pavState childBlock ring (some (regionPkt 0 512)) [], withChild 1 []], settle s = s := by decide +kernel
/-- R355: a write of the host that its line's home has not seen is performed before a doorbell store acts. -/
theorem test_doorbell_behind_host_writes :
    let s := pavState 0 ring none []
    let w : State := { s with sys := { s.sys with msgs := [.wrio 9 5 1], hostw := [(9, 5, 1)] } }
    byteAt (after w (.doorbellWrite 5 0)) (9 * 128) = 5 := by decide +kernel
/-- R356, R358: the signal word that a completed packet leaves, and a SIGNAL ADD that wraps. -/
theorem test_signal_add : let t := after (pavState 0xFFFFFFFFFFFFFFFF ring (some (signalPkt 1)) []) (.signalAdd 0)
    (wordAt t pad 8, (pktAt t 0).map (·.status)) = (6, some (some 0)) := by decide +kernel
theorem test_packet_complete :
    wordAt (after (pavState 0 ring (some { pkt5 [(0, 1), (1, 0x80), (8, 0x4000)] with status := some 3 }) []) (.packetComplete 0)) pad 8 = 2 ^ 63 + 3 := by decide +kernel

/-! ### Folop's commands (R242 to R246, R366 to R367, R376) -/

/-- Folop has taken a command with tag 1 and these operands. -/
def commanded (code : Half) (args : List Nat) (f : Pav → Pav) : State :=
  let l : Tab Dword := ((List.range args.length).map fun i => (i, BitVec.ofNat 64 (args.getD i 0))).filter fun x => x.2 != 0
  let p : Pav := { Pav.reset with mbox := ⟨code, l, 0, 0, 0, some 1, code, l⟩ }
  { State.reset with sys := mapped, pav := f p, power := { State.reset.power with boot := 3 } }
/-- ASID 1 is live with its root table at 0x10000000, whose entry 0 leads to 0x20000000. -/
def live1 (p : Pav) : Pav := { p with asids := [(1, ⟨true, false, 0x10000000, 0⟩)] }
def root1 (s : State) : State := { s with sys := { s.sys with mem := bytesAt 0x10000000 8 0x20000001 } }
/-- A waiting team of ASID 1, and a core whose copy channel still serves that ASID. -/
def waitingTeam : Team := { solo with asid := 1, state := .waiting, place := [] }
def copying1 : Core := { Core.reset with mem := { Core.reset.mem with chans := [(0, { Chan.reset with queue := [⟨0, 0, 0, 1, 0, 0, none⟩] })] } }
def giga : Mapping := ⟨1, 0x40000000, 2 ^ 30, BitVec.ofNat 64 (6 + 0x80000000), 0⟩
/-- Reading a table in which every key of a list has the same entry. -/
theorem get_const {β : Type} (d v : β) : ∀ (l : List Nat) (a : Nat), a ∈ l → Tab.get d (l.map fun a => (a, v)) a = v := by
  intro l
  induction l with
  | nil => intro a h; cases h
  | cons x t ih =>
    intro a h
    by_cases e : x = a
    · simp [Tab.get, e]
    · rcases List.mem_cons.mp h with h | h
      · exact absurd h.symm e
      · simp only [List.map_cons, Tab.get, if_neg e]; exact ih a h

theorem witness_FolopCommandsAct_asids :
    (Taken (commanded 1 [] id) 1 1 ∧ (asidAt (commanded 1 [] id) 1).v = false ∧ (asidAt (commanded 1 [] id) 1).root = 0 ∧ (commanded 1 [] id).pav.pool % 2 ^ 21 = 0 ∧
      (commanded 1 [] id).pav.pool + 2 ^ 21 ≤ hbmBytes ∧
      (asidAt (commanded 1 [] fun p => { p with asids := [(1, ⟨false, false, 0x10000000, 0⟩)] }) 1).root ≠ 0) ∧
    (Taken (commanded 2 [1] live1) 2 1 ∧ operand (commanded 2 [1] live1) 0 = 1 ∧ Live (commanded 2 [1] live1) 1 ∧ (commanded 2 [1] live1).sched.teams = [] ∧
      (asidAt (commanded 2 [1] id) 1).v = false ∧ operand (commanded 2 [4096] id) 0 = 4096) ∧
    (let d := commanded 2 [1] fun p => { p with asids := [(1, ⟨true, true, 0x10000000, 0⟩)] }
     Taken (commanded 2 [1] live1) 2 1 ∧ waitingTeam.asid = 1 ∧ waitingTeam.state = .waiting ∧ waitingTeam.place = [] ∧ waitingTeam.qlen = 0 ∧ waitingTeam.front = [] ∧
     waitingTeam.gen = none ∧ (∃ p ∈ [(0, copying1)], ∃ c ∈ p.2.mem.chans, ∃ r ∈ c.2.queue, r.asid = 1) ∧
     pktAt { d with pav := { d.pav with pkts := [(0, pkt5 [])] } } 0 = some (pkt5 []) ∧
     (asidAt d 1).dying = true ∧ d.cores = [] ∧ d.pav.maps = [] ∧ Taken d 2 1 ∧ operand d 0 = 1) := by
  unfold Taken Live; decide +kernel
def allTaken : Tab AsidEntry := (List.range 4096).map fun a => (a, ⟨true, false, 1, 0⟩)
def taken (p : Pav) : Pav := { p with asids := allTaken }
theorem witness_FolopCommandsAct_full (a : Nat) (_ : 1 ≤ a) (h : a < 4096) : (asidAt (commanded 1 [] taken) a).v = true := by
  have g : Tab.get AsidEntry.reset allTaken a = ⟨true, false, 1, 0⟩ :=
    get_const AsidEntry.reset ⟨true, false, 1, 0⟩ (List.range 4096) a (List.mem_range.mpr h)
  unfold asidAt commanded taken
  generalize allTaken = l at g
  exact congrArg AsidEntry.v g
/-- ASID 1 is free and has a root table of its own, whose lines stand at home. -/
theorem witness_FolopCommandsAct_root : BlockAtHome (commanded 1 [] fun p => { p with asids := [(1, ⟨false, false, 0x10000000, 0⟩)] }) 0x10000000 (2 ^ 21) :=
  ⟨rfl, rfl, rfl, rfl, rfl, fun i _ => by simp [homeStands, commanded, State.reset, Power.reset, islandAt, Tab.get, speed]⟩
theorem witness_FolopCommandsAct_pages :
    (let s := root1 (commanded 3 [1, 0x40000000, 0x80000000, 2 ^ 30, 7] live1)
     Taken s 3 1 ∧ Live s (operand s 0) ∧ Canonical (operand s 1) ∧ operand s 4 % 4 = 3 ∧ bitsOf (operand s 4) 3 2 ≠ 2 ∧ operand s 1 % 2 ^ 30 = 0 ∧
       operand s 2 % 2 ^ 30 = 0 ∧ operand s 3 = 2 ^ 30 ∧ operand s 2 + operand s 3 ≤ poolBase ∧ s.pav.maps = [] ∧ s.sched.regions = [] ∧ TablesAtHome s 0x10000000 0x20000008 ∧ (asidAt s 1).root % 8 = 0 ∧ wordAt s ((asidAt s 1).root + 8 * (operand s 1 % 2 ^ 57 / 2 ^ 39)) 8 % 4 = 1) ∧
    (operand (commanded 3 [4096] id) 0 = 4096 ∧ ¬ Live (commanded 3 [1] id) 1) ∧
    (let x : Mapping := ⟨2, 0, 4096, 6 + 64 + 0x5000, 0⟩
     let s := commanded 3 [1, 0x8000, 0x5000, 4096, 4] fun p => { live1 p with maps := [x] }
     x.asid ≠ operand s 0 ∧ bitsOf x.leaf.toNat 12 40 * 4096 = operand s 2 ∧ 0 < x.size ∧ x.size ≤ codeSize (operand s 4 % 4) ∧ operand s 3 = codeSize (operand s 4 % 4) ∧
       bitsOf x.leaf.toNat 6 3 ≠ bitsOf (operand s 4) 3 2 + 0) ∧
    (let s := root1 (commanded 4 [1, 0x40000000, 2 ^ 30] fun p => { live1 p with maps := [giga] })
     Taken s 4 1 ∧ s.pav.maps = [giga] ∧ Live s (operand s 0) ∧ giga.asid = operand s 0 ∧ operand s 1 % 2 ^ 57 ≤ giga.va ∧
       giga.va + giga.size ≤ operand s 1 % 2 ^ 57 + operand s 2 ∧ bitsOf giga.leaf.toNat 6 2 ≠ 2 ∧ TablesAtHome s 0x10000000 0x20000008 ∧
       wordAt s ((asidAt s 1).root + 8 * (giga.va / 2 ^ 39 % 2 ^ 18)) 8 % 4 = 1 ∧ giga.va < 0x40000000 + 4096 ∧ 0x40000000 + 4096 < giga.va + giga.size) := by
  unfold Taken Live Canonical TablesAtHome; decide +kernel
theorem witness_FolopCommandsAct_tables :
    (let s := commanded 5 [1, 0x4000, 4, 0, 0, 2 ^ 51, 0] live1
     Taken s 5 1 ∧ Live s (operand s 0) ∧ operand s 2 = 4 ∧ operand s 1 % (64 * 2 ^ 4) = 0 ∧ operand s 5 = 2 ^ 51 ∧ operand s 6 < 2 ^ 32 ∧
       Tab.look s.pav.queues 0 = none ∧ operand (commanded 5 [1, 0x4000, 3] live1) 2 = 3) ∧
    (let s := commanded 6 [5, 1] fun p => { p with queues := [(5, ring)] }
     Taken s 6 1 ∧ operand s 1 ≤ 1 ∧ Tab.look s.pav.queues 5 = some ring ∧ ring.state ≠ 3 ∧ Tab.look s.pav.queues 4 = none) ∧
    (let s0 := commanded 7 [2, 256, 4, 1, 24, 0, 8] id
     let s : State := { s0 with sched := { s0.sched with regions := [(256, { rootBlock with part := 2 })] } }
     Taken s 7 1 ∧ operand s 0 < 16 ∧ operand s 2 = 2 ^ 2 ∧ operand s 3 < 2 ^ 16 ∧ operand s 4 < 2 ^ 40 ∧ operand s 6 < 2 ^ 16 ∧ bitsOf (operand s 4) 0 5 ≤ 24 ∧
       bitsOf (operand s 6) 0 4 ≤ 8 ∧ (∀ i ∈ List.range 16, bitsOf (if i < 8 then operand s 4 else operand s 5) (5 * (i % 8)) 5 ≤ 24) ∧
       (∀ d ∈ List.range 4, bitsOf (operand s 6) (4 * d) 4 ≤ 8) ∧ regionAt s 256 = some { rootBlock with part := 2 } ∧
       24 < bitsOf (operand (commanded 7 [2, 256, 4, 1, 25] id) 4) 0 5 ∧ s.sched.teams = [] ∧ s.sched.parts = [] ∧
       s.pav.pool + 2 ^ 16 + 64 * (5 * 2 ^ 20) ≤ hbmBytes ∧
       (let two : State := { s with sched := { s.sched with parts := [(0, ⟨0, 4, 0, []⟩), (1, ⟨0, 4, 0, []⟩)] } }
        2 ≤ (two.sched.parts.filter fun y => y.1 != 2 && y.2.cores.getLsbD 2).length)) ∧
    Taken (commanded 8 [0, 0] id) 8 1 ∧
    (let s := commanded 9 [5] fun p => { live1 p with queues := [(5, { ring with asid := 1 })] }
     Taken s 9 1 ∧ s.sched.regions = [] ∧ Tab.look s.pav.queues 5 = some { ring with asid := 1 } ∧ s.pav.maps = [] ∧
       (mapPage s ⟨1, 0x7FF0000000000 + 4096 * 5, 4096, BitVec.ofNat 64 (2 + 4 + 3 * 64 + (0x7FF0000000000 + 4096 * 5)), 0⟩).isSome = true) ∧
    (let s := commanded 9 [5] id
     s.power.boot = 3 ∧ (7 : Dword) ≠ s.pav.mbox.done + 1 ∧ (1 : Dword) = s.pav.mbox.done + 1 ∧ { s.pav.mbox with tag := none }.tag = none ∧
       ¬ (1 ≤ (10 : Half).toNat ∧ (10 : Half).toNat ≤ 9)) := by
  unfold Taken Live; decide +kernel
/-- R367, R256: MAP's leaf, as its home sees it; QNEW refuses an IRQADDR outside the host window. -/
theorem test_map :
    let t := after (root1 (commanded 3 [1, 0x40000000, 0x80000000, 2 ^ 30, 7] live1)) .mapPages
    (t.pav.mbox.done, (List.range 8).map fun i => (seenByte t (0x20000008 + i)).toNat) = (1, [6, 0, 0, 0x80, 0, 0, 0, 0]) := by decide +kernel
theorem test_qnew_irqaddr : (after (commanded 5 [1, 0x4000, 4, 0, 0, 0, 0] live1) .qnew).pav.mbox.result = 2 := by decide +kernel

/-! ### Power, errors (R370 to R379) -/

def powered (f : Power → Power) : State := { State.reset with power := f State.reset.power }
/-- Two cores of a chain in clusters 0 and 1, live and in a shadow. -/
def split : State := { State.reset with cores := [(0, { Core.reset with chain := [0, 4] })] }
def splitShadow : State := { State.reset with sched := { State.reset.sched with shadow := [(0, { Core.reset with chain := [0, 4] })] } }
theorem witness_PowerBootAndErrors_islands :
    (State.reset.power.busy = false ∧ (powered fun p => { p with busy := true }).power.busy = true ∧ (∀ k ∈ everyCore State.reset, k.2.chain = []) ∧
      (∃ x ∈ (scheduled [(0, solo)] []).sched.teams, HoldsCores x.2 ∧ (0 < 16 ∧ (∃ c ∈ x.2.place, c / 4 = 0) ∨ 16 ≤ 0 ∧ 0 ≠ 20)) ∧
      (∀ s ∈ [split, splitShadow], ∃ k ∈ everyCore s, ∃ a ∈ k.2.chain, ∃ b ∈ k.2.chain, a / 4 = 1 ∧ b / 4 ≠ 1 ∧ quarters (islandAt s (b / 4)) ≠ quarters .a1) ∧
      (let s := powered fun p => { p with islands := [(3, .a2)], trip := [(1, true)] }
       quarters (islandAt s 3) < quarters .a0 ∧ ∃ x ∈ s.power.trip, x.2 = true) ∧
      islandAt State.reset 3 = .a0 ∧ quarters .a1 < quarters (islandAt State.reset 3) ∧ State.reset.power.trip = [] ∧ State.reset.power.shut = false ∧
      State.reset.sched.teams = []) ∧
    (IslandChange 3 7 0 (.a0, .islandToA0 3 7) ∧ IslandChange 3 7 4 (.off, .islandToOff 3 7) ∧ ¬ stops .a1 ∧ stops .ret ∧ stops .off ∧ HasState 21 .a1 ∧
      HasState 23 .off ∧ ¬ HasState 22 .a2) ∧
    (let s := powered fun p => { p with islands := [(3, .off)], cmd := some (3, .a1, 7), busy := true }
     s.power.cmd = some (3, .a1, 7) ∧ HasState 3 .a1 ∧ (∀ k ∈ everyCore s, k.2.chain = []) ∧ s.power.trip = [] ∧ s.power.shut = false ∧ islandAt s 3 = .off ∧ quarters (islandAt s 3) < quarters .a1 ∧
       quarters .a1 ≤ quarters (islandAt State.reset 3) ∧ State.reset.power.cmd = none ∧ { s.power with shut := true }.shut = true) := by
  refine ⟨⟨?_, ?_, ?_, ?_, ?_, ?_, ?_⟩, ?_, ?_⟩ <;> (try unfold HoldsCores) <;> (try unfold IslandChange) <;> (try unfold stops) <;> (try unfold HasState) <;> decide +kernel
theorem witness_PowerBootAndErrors_budget :
    State.reset.power.loans = [] ∧ 140 + Tab.get 0 State.reset.power.draw 1 ≤ share State.reset 1 ∧ share State.reset 2 < 141 + Tab.get 0 State.reset.power.draw 2 ∧
      Claims.Balanced State.reset ∧
      (∀ s ∈ [powered fun p => { p with pcap := 0 }, powered fun p => { p with draw := [(0, 141)] }],
        allowance s (5 / 16) < max 1 (Tab.get 0 s.power.draw (5 / 16))) ∧
      (let s (n : Nat) := powered fun p => { p with pcap := BitVec.ofNat 10 n }
       share (s 8) 0 < share (s 7) 0 ∧ ∀ d ∈ List.range 4, share (s 7) d ≤ share (s 11) d) := by
  unfold Claims.Balanced; decide +kernel
/-- R374: die 1 has lent to die 2 what die 0 lent it; repaid in full, die 1 calls it back. -/
theorem test_repay_cascade :
    let s := powered fun p => { p with loans := [(0, 1, 140), (1, 2, 280)] }
    (after s (.budgetRepay 1 0 140)).power.loans = [(1, 2, 140)] := by decide +kernel
/-- The loader has run, or Folop is to start; one image stands in flash. -/
def bootAt (b : Word) (l : List (Nat × Nat × Nat × BitVec 384)) (f : List (List Byte)) : State := powered fun p => { p with boot := b, log := l, flash := f }
/-- Core 0 has stopped for a save that reads its context. -/
def halted0 : State :=
  let s := scheduled [(0, solo)] [(0, running0 fun k => { k with task := none })]
  { s with sched := { s.sched with halted := [0] } }
theorem witness_PowerBootAndErrors_boot :
    (OnlyBoots State.reset ∧ State.reset.power.boot.toNat ≤ 1 ∧ State.reset.power.flash.length ≤ State.reset.power.log.length ∧
      (bootAt 0 [] [[1]]).power.flash[(bootAt 0 [] [[1]]).power.log.length]? = some [1] ∧ (bootAt 2 [] []).power.boot = 2 ∧
      (emptyRoot { State.reset with power := { State.reset.power with boot := 3 } } 0).isSome = true) ∧
    (let s := scheduled [(0, solo)] [(0, running0 id)]
     bindingOf s 0 = some (0, solo) ∧ liveHere s 0 0 = true ∧ bindingOf State.reset 0 = none) := by
  unfold OnlyBoots; decide +kernel
/-- Core 0 has halted for a swap, without a task; the shadow of a halted core, and the area of a bound one, hold team 0. -/
theorem witness_PowerBootAndErrors_contexts :
    (ReadsLive halted0 0 0 ∧ OnCoreAlone halted0 0 0 solo ∧ (contextAt halted0 0 0).task = none) ∧
    (let s : State := { scheduled [(0, solo)] [(0, { Core.reset with part := 1 })] with
       sched := { (scheduled [(0, solo)] []).sched with halted := [0], shadow := [(0, running0 fun k => { k with task := none })] } }
     shadowTeam s 0 = some 0 ∧ 1 ≠ 0 ∧ 0 ∈ s.sched.halted ∧ OnCoreAlone s 0 0 solo ∧ (contextAt s 0 0).task = none) ∧
    ReadsArea (restoring []) 0 0 := by
  refine ⟨⟨⟨solo, ?_⟩, ?_⟩, ?_, ⟨{ solo with state := .bound, spilled := true }, ?_⟩⟩ <;> (try unfold OnCoreAlone) <;> decide +kernel
/-- Core 0 has halted with a task whose join record is at 0x4000. -/
def joinedHalt : State :=
  let s := scheduled [(0, solo)] [(0, running0 fun k => { k with task := some { rootTask with join := 0x4000 } })]
  { s with sched := { s.sched with halted := [0] }, sys := { mapped with mem := bytesAt pad 20 (2 + 7 * 2 ^ 96) } }
theorem witness_PowerBootAndErrors_joined :
    let u := release joinedHalt 0 4
    ReadsLive joinedHalt 0 0 ∧ OnCoreAlone joinedHalt 0 0 solo ∧ liveHere joinedHalt 0 0 = true ∧ (coreAt joinedHalt 0).chain = [] ∧
      (coreAt joinedHalt 0).task = some { rootTask with join := 0x4000 } ∧ pavTranslate u solo.asid 0x4000 true = (u, .ok place4) ∧ Single place4 := by
  refine ⟨⟨solo, ?_⟩, ?_, ?_, ?_, ?_, ?_, ?_⟩ <;> (try unfold OnCoreAlone) <;> (try unfold Single) <;> decide +kernel
/-- R234, R300: the lost context counts as killed, COUNT falls, STATUS.LOST is set. -/
theorem test_lost_context :
    let t := after joinedHalt (.eccUncorrectable 0 0 1 0 0 false)
    ((List.range 5).map fun i => wordAt t (pad + 4 * i) 4, (teamAt t 0).map (·.status)) = ([1, 0, 0, 8, 1], some 2) := by decide +kernel
/-- A waiting team whose core's context lies in the first HBM. -/
def stored : State :=
  let s := scheduled [(0, { solo with state := .waiting, hasSaved := true })] []
  { s with sched := { s.sched with parts := [(0, ⟨0, 3, 0, [(0, poolBase)]⟩)], saved := [(0, { savedCore with task := none })] } }
theorem witness_PowerBootAndErrors_stored :
    let x : Team := { solo with state := .waiting, hasSaved := true }
    let j : Core := { savedCore with task := none }
    (∀ k ∈ everyCore stored, k.2.chain = []) ∧ HasState 22 .off ∧ stored.power.busy = false ∧ stored.sched.teams = [(0, x)] ∧ x.state = .waiting ∧ x.place = [0] ∧
      x.qlen = 0 ∧ x.front = [] ∧ x.gen = none ∧ contextsIn stored 22 = [0] ∧ Tab.look stored.sched.saved (64 * 0 + 0) = some j ∧ j.task = none ∧ j.localq = [] ∧
      j.mem.chans = [] := by
  unfold HasState; decide +kernel
/-- R370: with the first HBM off the context is gone and its team is over, killed. -/
theorem test_hbm_off :
    let t := after stored (.islandToOff 22 7)
    (teamAt t 0).map (fun x => (x.status, x.hasSaved)) = some (2, false) ∧ t.sched.saved = [] := by decide +kernel
/-- R371: a cluster that runs again calls the scheduler. -/
theorem test_cluster_wakes :
    (after (powered fun p => { p with islands := [(3, .ret)], cmd := some (3, .a0, 7), busy := true }) .powerCommandDone).sched.sweep = true := by decide +kernel
/-- R228: instruction memory is in no context. -/
theorem test_instruction_memory :
    (teamAt (after joinedHalt (.eccUncorrectable 0 0 2 0 0 false)) 0).map (·.status) = some 0 := by decide +kernel
theorem witness_PowerBootAndErrors_no_context (n c unit b : Nat) (h : ContextRead State.reset n c unit b) : False := by
  unfold ContextRead ReadsLive ReadsArea at h
  split at h
  · obtain ⟨-, h⟩ := h
    split at h
    · obtain ⟨_, h, _⟩ := h; cases h
    · cases h.1
  · obtain ⟨_, h, _⟩ := h; cases h
theorem witness_PowerBootAndErrors_read :
    ContextRead halted0 0 0 1 0 ∧ ContextRead (restoring []) 70 0 0 0 ∧ ∀ b, ¬ ContextRead halted0 0 0 2 b :=
  ⟨⟨by decide, solo, by decide +kernel⟩, ⟨{ solo with state := .bound, spilled := true }, by decide +kernel⟩, fun _ h => h.1 rfl⟩
theorem witness_PowerBootAndErrors_live (unit b : Nat) : ¬ ContextRead (scheduled [(0, solo)] [(0, running0 id)]) 0 0 unit b := by
  have f : bindingOf (scheduled [(0, solo)] [(0, running0 id)]) 0 = some (0, solo) := by decide +kernel
  rintro ⟨-, x, h, _, w⟩
  rw [f] at h; cases h
  revert w; decide +kernel
theorem witness_PowerBootAndErrors_registers :
    (let s := commanded 9 [5] fun p => { p with mbox := { p.mbox with tag := none } }
     s.power.boot = 3 ∧ (1 : Dword) = s.pav.mbox.done + 1 ∧ s.pav.mbox.tag = none ∧ s.pav.mbox.code.toNat = 9 ∧ s.power.powered = true) ∧
    (0xF100 / 8 * 8 = 0xF100 + 8 * 0 ∧ islandAt State.reset 0 = .a0 ∧ 0xE804 / 8 * 8 = 0xE800 ∧ 0x1040 / 8 * 8 = 0x1040 ∧ (0xA0 : Dword).toNat / 32 % 8 = 5) := by
  decide +kernel
theorem witness_PowerBootAndErrors_no_follower : ∀ p ∈ (scheduled [(0, solo)] [(0, running0 id)]).cores, 0 ∉ p.2.chain := noFollower rfl rfl 0
/-- R371, R373: A2 of island 3 is under way; a trip brings an island at A0 to A2. -/
theorem test_island : (let t := after (after State.reset (.islandToA2 3 9)) .powerCommandDone
    (islandAt t 3, t.power.seqDone, t.power.busy)) = (.a2, 9, false) ∧ islandAt (after State.reset (.thermalTrip 21)) 21 = .a2 := by decide +kernel

/-! ### The step (R31 to R33, R59, R60, R114, R128) -/

/-- The state in which the instructions of a list leave the device. -/
def ranTo : State → List Instr → Option State
  | s, [] => some s
  | s, i :: l => match exec i s with | .next u => ranTo u l | _ => none
theorem ranTo_ran : ∀ (l : List Instr) (s t : State), ranTo s l = some t → Ran s l t
  | [], s, t, h => Option.some.inj h
  | i :: l, s, t, h => by
    unfold ranTo at h
    cases e : exec i s with
    | next u => rw [e] at h; exact ⟨u, e, ranTo_ran l u t h⟩
    | fault f => rw [e] at h; cases h
    | refused r => rw [e] at h; cases h
/-- The three parts of a bundle run one after the other. -/
def threeParts (u : State) (b : Bundle) : Bool :=
  match ranTo (modCore (headers u b.y) 0 advanced) (b.y :: slotsBefore b) with
  | none => false
  | some w => match ranTo (stepsFetched w b) (slotsThen b) with
    | none => false
    | some x => (ranTo (if actsFirst b.s = true then x else imxLeft x b.w) (slotsLast b)).isSome
theorem parts_of {u : State} {b : Bundle} (h : threeParts u b = true) :
    ∃ w x t, Ran (modCore (headers u b.y) 0 advanced) (b.y :: slotsBefore b) w ∧
    Ran (stepsFetched w b) (slotsThen b) x ∧ Ran (if actsFirst b.s = true then x else imxLeft x b.w) (slotsLast b) t := by
  unfold threeParts at h
  cases e : ranTo (modCore (headers u b.y) 0 advanced) (b.y :: slotsBefore b) with
  | none => rw [e] at h; cases h
  | some w =>
    rw [e] at h; dsimp only at h
    cases f : ranTo (stepsFetched w b) (slotsThen b) with
    | none => rw [f] at h; cases h
    | some x =>
      rw [f] at h
      obtain ⟨t, g⟩ := Option.isSome_iff_exists.mp h
      exact ⟨w, x, t, ranTo_ran _ _ _ e, ranTo_ran _ _ _ f, ranTo_ran _ _ _ g⟩
def isNext (i : Instr) (s : State) : Bool := match exec i s with | .next _ => true | _ => false
theorem next_of {i : Instr} {s : State} (h : isNext i s = true) : ∃ t, exec i s = .next t := by
  unfold isNext at h
  cases e : exec i s with
  | next u => exact ⟨u, rfl⟩
  | fault f => rw [e] at h; cases h
  | refused r => rw [e] at h; cases h

/-- Core 0 of a running team is next and its bundle 0 is b. -/
def issuing (b : BitVec 128) (f : Core → Core) : State :=
  { scheduled [(0, solo)] [(0, running0 fun k => f { k with code := if b = 0 then [] else [(0, b)], edge := { k.edge with recs := [(0, record)] } })] with
    agenda := [.core 0] }
def issued (b : BitVec 128) (f : Core → Core) : State := setMe (settleAll { issuing b f with agenda := [] }) 0
/-- Words Y, S, W and E of a bundle (R31). -/
def wordsOf (y s w e : Word) : BitVec 128 := e ++ w ++ s ++ y
theorem issues (b : BitVec 128) (f : Core → Core) (h : canIssue (issued b f) 0 = true) (d : (coreAt (issued b f) 0).soft = none)
    (e : boundaryFaults (issued b f) 0 = []) : Issues (issuing b f) (issued b f) 0 := ⟨rfl, ⟨[], rfl, rfl⟩, h, d, .inr e⟩
/-- ADDI G1, G0, 5; with AWIN in S; with LARM in E; with both. -/
def addi5 : BitVec 128 := wordsOf 0 0x08200005 0 0
def shown (b : BitVec 128) (d : Bundle) : Prop :=
  let u := issued b id
  HasBundle u (coreAt u 0).seq.pc ∧ decodeWords (bundleWords (bundleAt (coreAt u 0) (coreAt u 0).seq.pc)) (coreAt u 0).seq.repK = .ok d ∧ Free u 0 d
theorem witness_StepRunsDecodedInstructions_plain :
    shown addi5 ⟨.nopy 0, .addi 1 0 5, .cnop, .nope⟩ ∧ armedEdge .nope = none ∧ setsWindow (.addi 1 0 5) = false := by
  unfold shown HasBundle Free; decide +kernel
theorem witness_StepRunsDecodedInstructions_window :
    shown (wordsOf 0 0x9C000063 0 0) ⟨.nopy 0, .awin 0 0 3 3, .cnop, .nope⟩ ∧ setsWindow (.awin 0 0 3 3) = true := by
  unfold shown HasBundle Free; decide +kernel
theorem witness_StepRunsDecodedInstructions_loader :
    shown (wordsOf 0 0 0 0x07000001) ⟨.nopy 0, .nops, .cnop, .larm 3 0 0 1⟩ ∧ armedEdge (.larm 3 0 0 1) = some 3 ∧ setsWindow .nops = false := by
  unfold shown HasBundle Free; decide +kernel
theorem witness_StepRunsDecodedInstructions_both :
    shown (wordsOf 0 0x9C000063 0 0x07000001) ⟨.nopy 0, .awin 0 0 3 3, .cnop, .larm 3 0 0 1⟩ := by unfold shown HasBundle Free; decide +kernel
theorem witness_StepRunsDecodedInstructions :
    Issues (issuing addi5 id) (issued addi5 id) 0 ∧
    (threeParts (issued addi5 id) ⟨.nopy 0, .addi 1 0 5, .cnop, .nope⟩ = true ∧
      threeParts (issued (wordsOf 0 0x9C000063 0 0x07000001) id) ⟨.nopy 0, .awin 0 0 3 3, .cnop, .larm 3 0 0 1⟩ = true) ∧
    (Issues (issuing (wordsOf 0 0 0 1) id) (issued (wordsOf 0 0 0 1) id) 0 ∧ Quiet (issued (wordsOf 0 0 0 1) id) ∧
      ∃ x, decodeWords (bundleWords (wordsOf 0 0 0 1)) 0 = .error x) ∧ Quiet (issued addi5 id) ∧
    (Issues (issuing 0 fun k => { k with seq := { k.seq with pc := 16384 } }) (issued 0 fun k => { k with seq := { k.seq with pc := 16384 } }) 0 ∧
      ¬ HasBundle (issued 0 fun k => { k with seq := { k.seq with pc := 16384 } }) 16384) ∧
    (let s : State := { State.reset with agenda := [.ev (.thermalTrip 3)] }
     s.power.powered = true ∧ s.agenda = [.ev (.thermalTrip 3)] ∧ encode (.thermalTrip 3) = none ∧ ∃ t, exec (.thermalTrip 3) { s with agenda := [] } = .next t) ∧
    (let s := inUnit [0] []
     s.power.powered = true ∧ s.agenda = [] ∧ (∃ k r, s.cores = [(0, k)] ∧ k.edge.epi = some r ∧ r.words = [0]) ∧ decodeSlot .epilogue ((0 : Half).setWidth 32) = .ok .estop ∧
       ∃ t, exec .estop (setMe s 0) = .next t) := by
  refine ⟨issues _ _ (by decide +kernel) (by decide +kernel) (by decide +kernel), ⟨by decide +kernel, by decide +kernel⟩, ?_, ?_, ⟨issues _ _ (by decide +kernel) (by decide +kernel) (by decide +kernel), ?_⟩,
    ⟨rfl, rfl, rfl, next_of (by decide +kernel)⟩, rfl, rfl, ⟨_, _, rfl, rfl, rfl⟩, by decide +kernel, next_of (by decide +kernel)⟩
  · exact ⟨issues _ _ (by decide +kernel) (by decide +kernel) (by decide +kernel), by unfold Quiet; decide +kernel, ⟨3, 1, .bits⟩, by decide +kernel⟩
  · unfold Quiet; decide +kernel
  · unfold HasBundle; decide +kernel
/-- A core that may not issue, one with a software trap pending and one with the fault of a feed step. -/
theorem witness_StepRunsDecodedInstructions_traps :
    (let s : State := { State.reset with agenda := [.core 0] }
     s.power.powered = true ∧ canIssue (settleAll { s with agenda := [] }) 0 = false) ∧
    (canIssue (issued addi5 fun k => { k with soft := some 3 }) 0 = true ∧ (coreAt (issued addi5 fun k => { k with soft := some 3 }) 0).soft ≠ none) ∧
    (let v := settleAll (faulting id)
     canIssue v 0 = true ∧ (coreAt v 0).ctl.inh = false ∧ boundaryFaults v 0 ≠ []) := by decide +kernel
/-- R221, R141: the step of a core that may issue takes the fault of the next bundle's feed step instead of the bundle. -/
theorem test_step_feed_fault :
    (match step { faulting id with agenda := [.core 0] } with | .next t => ((coreAt t 0).ctl.cause, (coreAt t 0).seq.pc) | _ => (0, 0)) = (0x12, 8) := by
  decide +kernel
theorem witness_StepRunsDecodedInstructions_events :
    (let s : State := { State.reset with agenda := [.ev (.queueEvent 5)], power := { Power.reset with islands := [(20, .ret)] } }
     s.power.powered = true ∧ encode (.queueEvent 5) = none ∧ pavilionRuns (.queueEvent 5) = true ∧ islandHolds s 20 = true ∧ islandHolds State.reset 20 = false) ∧
    orangeryServes (.registrationServe 0) = true ∧ pavilionRuns (.registrationServe 0) = false ∧ encode (.registrationServe 0) = none ∧
    ∃ t, exec (.registrationServe 0) (expire State.reset) = .next t :=
  ⟨by decide +kernel, rfl, rfl, rfl, next_of (by decide +kernel)⟩
theorem witness_StepKeepsMemoryCanonical : Memory.wf State.reset.sys.mem = true ∧ (match step State.reset with | .next _ => true | _ => false) = true := by decide +kernel
theorem witness_WithoutPowerNothingMoves :
    (powered fun p => { p with powered := false }).power.powered = false ∧ (powered fun p => { p with powered := false }).agenda = [] ∧
    { State.reset with agenda := [.ev .powerOnReset] }.agenda = [.ev .powerOnReset] ∧ State.reset.power.powered = true := by decide +kernel
/-- A step runs ADDI G1, G0, 5 from the words of its bundle and moves to bundle 1. -/
theorem test_step_addi : (match step (issuing addi5 id) with | .next t => (reg t 1, (coreAt t 0).seq.pc) | _ => (0, 0)) = (5, 1) := by decide +kernel
/-- The word that withFetchWord places is what the next step runs. -/
theorem test_fetch_word : (match step (State.reset.withFetchWord 32 0x28A089AB) with | .next t => reg t 5 | _ => 0) = 0x89AB := by decide +kernel

end Sys2Proof.Tests
end

/-! PROOFS. Bundles and opcode maps: encoding and decoding, the Y slot, the landing of scalar results, the step. -/

namespace Sys2Proof.Proofs
open Sys2Proof Sys2Proof.Machine Sys2Proof.Claims

/-! ### Every word decodes back -/

open Laws.RoundTrip in
/-- The case split over the instructions: the law of each, in the order of the constructors. -/
theorem roundTrip_all (i : Instr) : Laws.RoundTrip.Statement i :=
  Instr.rec (motive := Laws.RoundTrip.Statement)
    nopy kwait kpost kset barr bwait bexp dly wquiet lwait imx rep xtgt nops aluAdd aluSub aluAnd aluOr aluXor aluShl aluShr
    aluSar aluMul aluMulh aluMulhu aluDiv aluDivu aluRem aluRemu aluMin aluMax aluMinu aluMaxu aluSlt aluSltu aluSeq aluClz
    aluPopc addi andi ori xori shi lui slti sltiu lis fpuFadd fpuFsub fpuFmul fpuFdiv fpuFsqrt fpuFmin fpuFmax fpuFeq fpuFlt
    fpuFle fpuFfma fpuCvtS2d fpuCvtD2s fpuCvtS2i fpuCvtI2s fpuCvtD2i fpuCvtI2d br bl jr jlr bc bef ld ldu st fence cacheWb
    cacheInv cacheWbinv cacheEvict amoAdd amoAnd amoOr amoXor amoMin amoMax amoMinu amoMaxu amoSwap amoCas amoIncw amoFaddb
    amoFaddF32 amoFaddBf16 spclr ctlrd ctlwr schrd schwr schcommit msel efrd awin trap rett retire spawn joinw tilenext cvmark
    rjreg rjpost rjpop rjctl cnop fadd fsub fmul ffma ffms fmin fmax fabs fneg fcmp sel iadd isub imul imac qmul qmac wAnd wOr
    wXor wShl wShr wSar icmp imin imax fdiv fsqrt frcp frsq fexp2 flog2 mov movx movi cvt cvtsr srand lane cpass cinj cscanAdd
    cscanMax cscanMin cscanOr cwr crd cld cst caaddAdd caaddSet cflag psetOnes psetZero psetInv psetLoad psetSave psetAndl
    psetOrl cxfRead cxfClear cxfReadclr cstatRead cstatClear cstatReadclr cstatTest mzero mpush mshift macc maccs mdrain mtrOut
    mtrIn nope larm ldis oset oinc rcflush edrain epld estop epass eadd emul erelu eclmp ecvt wavefrontReach sfDeliver
    traySumLand flagGroupValid scalarResultLand loadReturn recordFetch feedFetch drainWrite epilogueProcess copyStart
    copyLineLand remotePostArrive storeBufferDrain pageWalk amoAtomic trapEntry folopResume folopEnd preemptRequest coreSave
    coreRestore drainDeadline partitionSwap teamKill teamBind teamRelease taskStart joinwComplete teamEnd generatorCut
    schedRegisterServe rds rdx upg wbx evs rdio wrio ack inv invack rcls rcli rclack fwdio fwdack tlbInvalidate
    tlbInvalidateComplete hostPostedDeliver reward registrationServe popServe controlServe deadlineExpiry orphanExpiry
    backwardScan ringAppend fabricFlit doorbellWrite queueEvent launch graph waitsig waitsigPoll waitsigTimeout signalStore
    signalAdd copy regionInsert regionUpdate regionRemove regionKill packetComplete graphKernel graphLoop graphCond graphSignal
    graphEnd irqSend asidDrained asidnew asiddel mapPages unmapPages qnew qctl part attest doorbell islandToA0 islandToA1
    islandToA2 islandToRet islandToOff powerCommandDone tripClear pcapWrite budgetLend budgetRepay thermalTrip thermalShutdown
    powerOnReset eccCorrected eccUncorrectable counterFlush orderlyPowerOff registerWrite ringOutOfSequence pcmdReservedState
    suddenLossOfPower i

/-- Settles O1, by the round trip of each instruction. -/
theorem everyWordDecodesBack : Obligations.EveryWordDecodesBack := by
  unfold Obligations.EveryWordDecodesBack
  exact roundTrip_all

/-- Settles O3: each word is the encoding of its instruction, so it decodes back (O1). -/
theorem specWordsDecode : Obligations.SpecWordsDecode := by
  unfold Obligations.SpecWordsDecode
  exact ⟨everyWordDecodesBack (.aluOr 10 10 14) rfl _ rfl, everyWordDecodesBack (.lis 5 0x89AB) rfl _ rfl,
    everyWordDecodesBack (.fpuFfma 6 7 8 1) rfl _ rfl, everyWordDecodesBack (.bc 5 11 12 6) rfl _ rfl,
    everyWordDecodesBack (.bc 4 14 17 0xFFB) rfl _ rfl, everyWordDecodesBack (.br 0x3FFFFF9) rfl _ rfl,
    everyWordDecodesBack (.larm 3 0 0 1) rfl _ rfl, everyWordDecodesBack (.imx 0 14) rfl _ rfl⟩

/-! ### Every decoded word is the encoding

A word is read off in fields; the encoding writes the same fields side by side, so the word spells it.  What the decoder
does not put into the instruction it compares with a constant, and these are the constants of the encoding. -/

/-- The bits of w from bit lo on spell v. -/
def Spells (w : Word) (lo : Nat) {k : Nat} (v : BitVec k) : Prop := w.toNat / 2 ^ lo % 2 ^ k = v.toNat

theorem Spells.eq {w v : Word} (h : Spells w 0 v) : v = w := by
  apply BitVec.eq_of_toNat_eq
  simp only [Spells, pow_zero, Nat.div_one] at h
  omega

theorem spells_field {w : Word} {lo k : Nat} : Spells w lo (w.extractLsb' lo k) ↔ True := by
  simp [Spells, Nat.shiftRight_eq_div_pow]

theorem spells_const {w : Word} {lo k c : Nat} : Spells w lo (BitVec.ofNat k c) ↔ w.toNat / 2 ^ lo % 2 ^ k = c % 2 ^ k := by
  rw [Spells, BitVec.toNat_ofNat]

theorem spells_append {w : Word} {lo n m : Nat} {x : BitVec n} {y : BitVec m} :
    Spells w lo (x ++ y) ↔ Spells w (lo + m) x ∧ Spells w lo y := by
  have hy := y.isLt
  have hv : (x ++ y).toNat = 2 ^ m * x.toNat + y.toNat := by
    rw [BitVec.toNat_append, Nat.shiftLeft_eq, Nat.mul_comm, Nat.two_pow_add_eq_or_of_lt hy]
  have hw : w.toNat / 2 ^ lo % 2 ^ (n + m) = 2 ^ m * (w.toNat / 2 ^ (lo + m) % 2 ^ n) + w.toNat / 2 ^ lo % 2 ^ m := by
    rw [Nat.add_comm n m, Nat.pow_add 2 m n, Nat.mod_mul, Nat.div_div_eq_div_mul, ← Nat.pow_add, Nat.add_comm]
  unfold Spells
  rw [hv, hw]
  constructor
  · intro h
    have hm := congrArg (· % 2 ^ m) h
    simp only [Nat.mul_add_mod, Nat.mod_mod, Nat.mod_eq_of_lt hy] at hm
    exact ⟨Nat.eq_of_mul_eq_mul_left (Nat.two_pow_pos m) (by omega), hm⟩
  · rintro ⟨hx, hy⟩
    rw [hx, hy]

theorem field_toNat (w : Word) (lo k : Nat) : (w.extractLsb' lo k).toNat = w.toNat / 2 ^ lo % 2 ^ k := by
  rw [BitVec.extractLsb'_toNat, Nat.shiftRight_eq_div_pow]

theorem field_beq {w : Word} {lo k : Nat} {c : BitVec k} : (w.extractLsb' lo k == c) = true ↔ w.toNat / 2 ^ lo % 2 ^ k = c.toNat := by
  rw [beq_iff_eq, ← BitVec.toNat_inj, field_toNat]

/-- What the decoder answers, if it answers an instruction, has the property P. -/
def Answers (P : Instr → Prop) (r : Except Reject Instr) : Prop := ∀ i, r = .ok i → P i

section
variable {P : Instr → Prop}

theorem answers_error {r : Reject} : Answers P (.error r) := fun _ h => nomatch h

theorem answers_ok {i : Instr} (h : P i) : Answers P (.ok i) := by
  rintro _ ⟨⟩
  exact h

theorem answers_ite {c : Bool} {a b : Except Reject Instr} (ha : c = true → Answers P a) (hb : Answers P b) :
    Answers P (if c then a else b) := by
  cases c
  · exact hb
  · exact ha rfl

/-- The two halves of the Y slot, by the header bit (R34, R35). -/
theorem answers_bit {w : Word} {a b : Except Reject Instr} {n : Nat} (ha : (w.extractLsb' n 1).toNat = 1 → Answers P a)
    (hb : (w.extractLsb' n 1).toNat = 0 → Answers P b) : Answers P (if w.getLsbD n then a else b) := by
  have hbit : w.getLsbD n = decide ((w.extractLsb' n 1).toNat = 1) := by
    rw [BitVec.getLsbD, Nat.testBit_eq_decide_div_mod_eq, field_toNat, pow_one]
  have hlt := (w.extractLsb' n 1).isLt
  rw [hbit]
  by_cases h : (w.extractLsb' n 1).toNat = 1
  · rw [decide_eq_true h]
    exact ha h
  · rw [decide_eq_false h]
    exact hb (by omega)

theorem checkFields_eq_ok {r : Except Reject Instr} {i : Instr} : checkFields r = .ok i ↔ r = .ok i ∧ i.wf = true := by
  cases r with
  | error => simp [checkFields]
  | ok j =>
    by_cases hwf : j.wf = true
    · simp only [checkFields, hwf, if_true, Except.ok.injEq]
      exact ⟨fun h => ⟨h, h ▸ hwf⟩, And.left⟩
    · simp only [checkFields, hwf, Except.ok.injEq]
      exact ⟨nofun, fun h => absurd (h.1 ▸ h.2) hwf⟩

theorem checkFields_wf {r : Except Reject Instr} : Answers (fun i => i.wf = true) (checkFields r) :=
  fun _ hi => (checkFields_eq_ok.1 hi).2

theorem answers_checkFields {r : Except Reject Instr} (h : Answers P r) : Answers P (checkFields r) :=
  fun i hi => h i (checkFields_eq_ok.1 hi).1

end

/-- The instruction's encoding is the word w of slot sl. -/
def Encodes (sl : Slot) (w : Word) (i : Instr) : Prop := encode i = some ⟨sl, w⟩

theorem encodes_of_spells {sl : Slot} {w v : Word} {i : Instr} (he : encode i = some ⟨sl, v⟩) (h : Spells w 0 v) : Encodes sl w i :=
  h.eq ▸ he

theorem decodeSlot_wf (sl : Slot) (w : Word) : Answers (fun i => i.wf = true) (decodeSlot sl w) := by
  cases sl with
  | epilogue => exact answers_ite (fun _ => checkFields_wf) answers_error
  | _ => exact checkFields_wf

/-- Every leaf of the decoder: the opcode, the function codes and the reserved fields that lead to it are the constants that the
encoding of its instruction has between the operands. -/
theorem decodeSlot_encodes (sl : Slot) (w : Word) : Answers (Encodes sl w) (decodeSlot sl w) := by
  cases sl
  case' y =>
    refine answers_checkFields (r := rawY w) ?_
    unfold rawY rawSync rawHeader
    refine answers_bit (fun hheader => ?_) (fun hheader => ?_)
  case' s =>
    refine answers_checkFields (r := rawS w) ?_
    unfold rawS rawAlu rawFpu rawCache rawAmo
  case' w =>
    refine answers_checkFields (r := rawW w) ?_
    unfold rawW rawScan rawCaadd rawPset rawCxf rawCstat rawMtr
  case' e =>
    refine answers_checkFields (r := rawE w) ?_
    unfold rawE
  case' epilogue =>
    refine answers_ite (fun hhi => answers_checkFields (r := rawEpilogue (w.extractLsb' 0 16)) ?_) answers_error
    unfold rawEpilogue
    simp (disch := decide) only [Laws.RoundTrip.low16]
  all_goals split
  all_goals repeat' refine answers_ite (fun hz => ?_) ?_
  any_goals exact answers_error
  all_goals
    refine answers_ok (encodes_of_spells rfl ?_)
    simp only [spells_append, spells_field, spells_const, and_true]
    simp only [Bool.and_eq_true, field_beq, field_toNat, BitVec.ofNat_eq_ofNat, BitVec.toNat_ofNat, Nat.reduceAdd, Nat.reducePow] at *
    omega

/-- Settles O2, by the leaves of the decoder. -/
theorem decodedWordIsTheEncoding : Obligations.DecodedWordIsTheEncoding := by
  unfold Obligations.DecodedWordIsTheEncoding
  exact fun sl w i h => ⟨decodeSlot_wf sl w i h, decodeSlot_encodes sl w i h⟩

/-! ### One core changes -/

theorem coreIs_modCore (s : State) (c : Nat) (f : Core → Core) : CoreIs s (modCore s c f) c (f (coreAt s c)) :=
  ⟨coreAt_modCore_same s c f, fun _ h => coreAt_modCore_other s c _ f h, modCore_rest s c f⟩

theorem coreIs_modCore_of {s t : State} {c : Nat} {k : Core} (h : CoreIs s t c k) (f : Core → Core) :
    CoreIs s (modCore t c f) c (f k) := by
  obtain ⟨hk, hother, hrest⟩ := h
  exact ⟨by rw [coreAt_modCore_same, hk], fun d hd => (coreAt_modCore_other t c d f hd).trans (hother d hd), hrest⟩

/-! ### Y instructions -/

theorem syncDone_modSeq (s : State) (st : BitVec 4) (f : Seq → Seq) (hcyc : (f (coreAt s s.me).seq).cyc = (coreAt s s.me).seq.cyc) :
    ∃ t, syncDone (modSeq s s.me f) st = .next t ∧ YDone s t st (f (coreAt s s.me).seq) := by
  refine ⟨_, rfl, ?_⟩
  have h := coreIs_modCore_of (coreIs_modCore s s.me fun k => { k with seq := f k.seq })
    fun k => { k with seq := { k.seq with readyAt := k.seq.cyc + 1 + st.toNat } }
  rw [hcyc] at h
  exact h

theorem syncDone_yDone (s : State) (st : BitVec 4) : ∃ t, syncDone s st = .next t ∧ YDone s t st (coreAt s s.me).seq :=
  ⟨_, rfl, coreIs_modCore s s.me _⟩

/-- Settles O28: each is one change of the sequencer, then the stall. -/
theorem yInstructionsComplete : Obligations.YInstructionsComplete := by
  unfold Obligations.YInstructionsComplete
  refine ⟨fun s st k p4 n i c z x => ?_, fun s => ⟨rfl, rfl, rfl⟩⟩
  simp only [yTable, List.forall_mem_cons, List.not_mem_nil, false_imp_iff, implies_true, and_true]
  exact ⟨syncDone_yDone s st, syncDone_modSeq s st (fun q => { q with k := Tab.set 0 q.k k.toNat n }) rfl,
    syncDone_modSeq s st (fun q => { q with imx := some i }) rfl,
    syncDone_modSeq s st (fun q => { q with rep := some (if c = 0 then 64 else c.toNat) }) rfl,
    syncDone_modSeq s st (fun q => { q with xtgt := some x }) rfl⟩

/-! ### Scalar results -/

theorem firstScalar_eq_none {l : List ScalarRes} (h : firstScalar l = none) : l = [] := by
  cases l with
  | nil => rfl
  | cons x l =>
    unfold firstScalar at h
    split at h
    · cases h
    · split at h <;> cases h

theorem firstScalar_earliest {l : List ScalarRes} {r : ScalarRes} (h : firstScalar l = some r) :
    r ∈ l ∧ ∀ x ∈ l, r.due ≤ x.due := by
  induction l generalizing r with
  | nil => cases h
  | cons y l ih =>
    unfold firstScalar at h
    split at h
    case h_1 hn =>
      cases h
      simp [firstScalar_eq_none hn]
    case h_2 x hx =>
      obtain ⟨hmem, hmin⟩ := ih hx
      split at h <;> cases h
      · exact ⟨.tail _ hmem, List.forall_mem_cons.2 ⟨by omega, hmin⟩⟩
      · exact ⟨.head _, List.forall_mem_cons.2 ⟨le_rfl, fun z hz => by have := hmin z hz; omega⟩⟩

/-- A register file after a result has landed in it; G0 stays 0 (R26, R108). -/
theorem readG_putG (k : Core) (r : Nat) (v : Dword) (x : BitVec 5) :
    readG { k with seq := { k.seq with g := putG k.seq.g r v } } x = if x.toNat = r ∧ x ≠ 0 then v else readG k x := by
  unfold readG putG
  by_cases hx : x = 0
  · rw [if_pos hx, if_neg (fun h => h.2 hx), if_pos hx]
  · have hxr : x.toNat = 0 → x = 0 := fun h => BitVec.eq_of_toNat_eq (by simpa using h)
    rw [if_neg hx, if_neg hx]
    by_cases hr : r = 0
    · rw [if_pos hr, if_neg (fun h => hx (hxr (h.1.trans hr)))]
    · rw [if_neg hr, Tab.get_set]
      simp only [hx, ne_eq, not_false_eq_true, and_true]

theorem landFirst_coreIs {s : State} {c : Nat} {r : ScalarRes} (h : firstScalar (coreAt s c).seq.pend = some r) :
    CoreIs s (landFirst s c) c { coreAt s c with
      seq := { (coreAt s c).seq with g := putG (coreAt s c).seq.g r.reg r.value, pend := (coreAt s c).seq.pend.erase r }
      ctl := { (coreAt s c).ctl with sxf := (coreAt s c).ctl.sxf ||| r.flags } } := by
  unfold landFirst
  rw [h]
  have herase := coreIs_modCore s c fun k => { k with seq := { k.seq with pend := k.seq.pend.erase r } }
  have hwrite := coreIs_modCore_of herase fun k => { k with seq := { k.seq with g := putG k.seq.g r.reg r.value } }
  exact coreIs_modCore_of hwrite fun k => { k with ctl := { k.ctl with sxf := k.ctl.sxf ||| r.flags } }

theorem exec_scalarResultLand (s : State) (c : Nat) :
    exec (.scalarResultLand c) s = .next (if (dueScalar (coreAt s c)).isSome then landFirst s c else s) := rfl

theorem dueScalar_isSome {k : Core} {r : ScalarRes} (h : firstScalar k.seq.pend = some r) :
    (dueScalar k).isSome = decide (r.due ≤ k.seq.cyc) := by
  rw [dueScalar, h, Option.filter_some]
  split <;> simp_all

/-- Settles O7: `landFirst` takes the earliest result, which `dueScalar` lets through once it is due. -/
theorem scalarResultLands : Obligations.ScalarResultLands := by
  unfold Obligations.ScalarResultLands
  refine ⟨fun s c r h => ?_, fun s c h => ?_⟩
  · obtain ⟨hmem, hmin⟩ := firstScalar_earliest h
    refine ⟨hmem, hmin, fun hdue => ?_, fun hearly => ?_⟩
    · have hland := landFirst_coreIs h
      refine ⟨_, _, ?_, hland, fun x => ?_⟩
      · rw [exec_scalarResultLand, dueScalar_isSome h, decide_eq_true hdue, if_pos rfl]
      · rw [hland.1]
        exact readG_putG (coreAt s c) r.reg r.value x
    · rw [exec_scalarResultLand, dueScalar_isSome h, decide_eq_false (by omega), if_neg Bool.false_ne_true]
  · rw [exec_scalarResultLand, dueScalar, h]
    rfl

/-! ### The step of a core -/

theorem step_move {s : State} {m : Move} {rest : List Move} (hp : s.power.powered = true) (ha : s.agenda = m :: rest) :
    step s = .next (runMove { s with agenda := rest } m) := by
  unfold step
  rw [ha, hp]
  rfl

theorem canIssue_setMe (s : State) (c d : Nat) : canIssue (setMe s d) c = canIssue s c := rfl
theorem boundaryFaults_setMe (s : State) (c d : Nat) : boundaryFaults (setMe s d) c = boundaryFaults s c := rfl

theorem boundaryTrap_eq_none {s : State} {c : Nat} (hsoft : (coreAt s c).soft = none)
    (hfault : (coreAt s c).ctl.inh = true ∨ boundaryFaults s c = []) : boundaryTrap s c = none := by
  simp only [boundaryTrap, hsoft]
  rcases hfault with h | h <;> simp [h, firstFault]

theorem firstFault_isSome {l : List Deferred} (h : l ≠ []) : (firstFault l).isSome = true := by
  cases l with
  | nil => exact absurd rfl h
  | cons d l =>
    unfold firstFault
    split
    · rfl
    · split <;> rfl

theorem canIssue_running {s : State} {c : Nat} (h : canIssue s c = true) : (coreAt s c).run = .running ∧
    (coreAt s c).seq.readyAt ≤ (coreAt s c).seq.cyc ∧ isHalted s c = false := by
  simp only [canIssue, Bool.and_eq_true, beq_iff_eq, decide_eq_true_eq, Bool.not_eq_true'] at h
  tauto

/-- What a core that may issue does at its boundary. -/
theorem step_of_issues {s u t : State} {c : Nat} (h : Issues s u c) (ht : issueBundle u = some t) : step s = .next t := by
  obtain ⟨hp, ⟨rest, ha, rfl⟩, hcan, hsoft, hfault⟩ := h
  rw [canIssue_setMe] at hcan
  rw [boundaryFaults_setMe] at hfault
  rw [step_move hp ha]
  have htrap : boundaryTrap (settleAll { s with agenda := rest }) c = none := boundaryTrap_eq_none hsoft hfault
  have hb : boundary (settleAll { s with agenda := rest }) c = some t := by
    rw [boundary, hcan, htrap]
    exact ht
  rw [runMove, hb]
  rfl

theorem boundaryTrap_isSome {s : State} {c : Nat} (hrun : (coreAt s c).run = .running)
    (h : (coreAt s c).soft ≠ none ∨ (coreAt s c).ctl.inh = false ∧ boundaryFaults s c ≠ []) : (boundaryTrap s c).isSome = true := by
  cases hsoft : (coreAt s c).soft with
  | some code => simp [boundaryTrap, hrun, hsoft]
  | none =>
    obtain ⟨hinh, hfault⟩ := h.resolve_left (absurd hsoft)
    simp [boundaryTrap, hrun, hsoft, hinh, firstFault_isSome hfault]

/-! ### Traps of a quiet core -/

/-- The core with its array frozen. -/
def frozenCore (k : Core) : Core := { k with arr := { k.arr with frozen := true } }

theorem coreAt_freezeAll (l : List Nat) (s : State) (d : Nat) :
    coreAt (l.foldl (fun s p => modArr s p fun a => { a with frozen := true }) s) d =
      if d ∈ l then frozenCore (coreAt s d) else coreAt s d := by
  induction l generalizing s with
  | nil => rfl
  | cons p l ih =>
    rw [List.foldl_cons, ih]
    by_cases hp : d = p
    · subst hp
      rw [coreAt_modArr_same]
      simp [frozenCore]
    · rw [coreAt_modArr_other _ _ _ _ hp]
      simp [hp]

theorem freezeAll_rest (l : List Nat) (s : State) :
    { l.foldl (fun s p => modArr s p fun a => { a with frozen := true }) s with cores := s.cores } = s := by
  suffices h : ∀ u : State, { u with cores := s.cores } = s →
      { l.foldl (fun s p => modArr s p fun a => { a with frozen := true }) u with cores := s.cores } = s from h s rfl
  induction l with
  | nil => exact fun _ h => h
  | cons p l ih => exact fun u h => ih _ h

theorem coreAt_freeze (s : State) (c d : Nat) :
    coreAt (freeze s c) d = if d ∈ positions (coreAt s c) c then frozenCore (coreAt s d) else coreAt s d :=
  coreAt_freezeAll _ s d

theorem freeze_rest (s : State) (c : Nat) : { freeze s c with cores := s.cores } = s := freezeAll_rest _ s

theorem mem_positions {k : Core} {c : Nat} (h : k.chain = [] ∨ c ∈ k.chain) : c ∈ positions k c := by
  unfold positions
  rcases h with h | h
  · simp [h]
  · have hne : k.chain ≠ [] := List.ne_nil_of_mem h
    simpa [hne] using h

/-- A quiet core has nothing to bring to an end before a trap. -/
theorem settled_of_quiet {s : State} (h : Quiet s) : fencesAct (quiesce (flushScalars s s.me) s.me) s.me = s := by
  obtain ⟨-, -, hpend, hmem, hfences⟩ := h
  have hflush : flushScalars s s.me = s := by rw [flushScalars, hpend]; rfl
  have hquiesce : quiesce s s.me = s := by rw [quiesce, pendOf, hmem]; rfl
  rw [hflush, hquiesce, fencesAct, hfences]
  rfl

/-- A precise trap of the issuing bundle up to the entry of the handler: the chain frozen, the trap registers set. -/
def trapSet (s : State) (cause : Nat) (info : Dword) : State :=
  modCtl (freeze s s.me) s.me fun x => trapRegs x cause (coreAt s s.me).seq.pc info none (repLeft (coreAt s s.me))

theorem coreAt_trapSet_me {s : State} (h : Quiet s) (cause : Nat) (info : Dword) :
    coreAt (trapSet s cause info) s.me = { coreAt s s.me with
      arr := { (coreAt s s.me).arr with frozen := true }
      ctl := trapRegs (coreAt s s.me).ctl cause (coreAt s s.me).seq.pc info none (repLeft (coreAt s s.me)) } := by
  obtain ⟨-, hchain, -, -, -⟩ := h
  rw [trapSet, coreAt_modCtl_same, coreAt_freeze, if_pos (mem_positions hchain)]
  rfl

theorem coreAt_trapSet_other (s : State) (cause : Nat) (info : Dword) {c : Nat} (hc : c ≠ s.me) :
    coreAt (trapSet s cause info) c =
      if c ∈ positions (coreAt s s.me) s.me then frozenCore (coreAt s c) else coreAt s c := by
  rw [trapSet, coreAt_modCtl_other _ _ _ _ hc, coreAt_freeze]

theorem trapSet_rest (s : State) (cause : Nat) (info : Dword) : { trapSet s cause info with cores := s.cores } = s :=
  freeze_rest s s.me

theorem preciseTrap_of_quiet {s : State} (h : Quiet s) (cause : Nat) (info : Dword) :
    preciseTrap s cause info =
      if (coreAt s s.me).ctl.tvec = 0 then
        modPav (modCore (trapSet s cause info) s.me fun k =>
            { k with run := .waitFolop, seq := { k.seq with pc := (coreAt s s.me).seq.pc, npc := (coreAt s s.me).seq.pc, repK := 0 } })
          fun p => { p with faults := p.faults ++ [faultEvent (trapSet s cause info) s.me] }
      else
        modSeq (trapSet s cause info) s.me fun q =>
          { q with pc := (coreAt s s.me).ctl.tvec.toNat, npc := (coreAt s s.me).ctl.tvec.toNat, repK := 0
                   readyAt := (coreAt s s.me).seq.cyc + 2 } := by
  have htvec : (coreAt (trapSet s cause info) s.me).ctl.tvec = (coreAt s s.me).ctl.tvec := by rw [coreAt_trapSet_me h]; rfl
  have hsettled := settled_of_quiet h
  obtain ⟨hinh, -, -, -, -⟩ := h
  unfold preciseTrap takeTrap
  rw [if_neg (by simp [hinh]), hsettled, ← htvec]
  rfl

/-- A precise trap of a quiet core outside a handler does what the spec says of a trap, and nothing else. -/
theorem preciseTrap_trapTaken {s : State} (h : Quiet s) (cause : Nat) (info : Dword) :
    TrapTaken s (preciseTrap s cause info) cause info := by
  have hme := coreAt_trapSet_me h cause info
  have hother : ∀ c, c ≠ s.me → coreAt (trapSet s cause info) c =
      if c ∈ positions (coreAt s s.me) s.me then frozenCore (coreAt s c) else coreAt s c :=
    fun c hc => coreAt_trapSet_other s cause info hc
  have hrest := trapSet_rest s cause info
  rw [preciseTrap_of_quiet h]
  by_cases htvec : (coreAt s s.me).ctl.tvec = 0
  · rw [if_pos htvec]
    refine ⟨fun c hc => ?_, ?_⟩
    · rw [coreAt_modPav, coreAt_modCore_other _ _ _ _ hc]
      exact hother c hc
    · rw [if_pos htvec]
      refine ⟨?_, ?_, ?_⟩
      · rw [coreAt_modPav, coreAt_modCore_same, hme]
        rfl
      · have hpav : (trapSet s cause info).pav = s.pav := (congrArg State.pav hrest :)
        rw [modPav_pav, modCore_pav, hpav, faultEvent, faultEvent, coreAt_modPav, coreAt_modCore_same]
      · exact (congrArg (fun u : State => { u with pav := { u.pav with faults := s.pav.faults } }) hrest).trans rfl
  · rw [if_neg htvec]
    refine ⟨fun c hc => ?_, ?_⟩
    · rw [coreAt_modSeq_other _ _ _ _ hc]
      exact hother c hc
    · rw [if_neg htvec]
      refine ⟨?_, hrest⟩
      rw [coreAt_modSeq_same, hme]
      rfl

theorem bundleInfo_operandInfo (slot : Nat) (rept : Bool) (w : Word) : bundleInfo slot rept 0 0 0 w = operandInfo slot rept w := by
  simp [bundleInfo, operandInfo]

theorem bundleTrap_trapTaken {s : State} (h : Quiet s) (cause slot : Nat) (w : Word) :
    TrapTaken s (bundleTrap s cause slot 0 0 0 w) cause (operandInfo slot (decide (0 < (coreAt s s.me).seq.repK)) w) := by
  rw [bundleTrap, bundleInfo_operandInfo]
  exact preciseTrap_trapTaken h _ _

/-! ### The bundle at the program counter -/

theorem inImem_eq_true {s : State} {n : Nat} (h : HasBundle s n) : inImem (coreAt s s.me) n = true := by
  obtain ⟨-, hn, hq⟩ := h
  simp only [inImem, Bool.and_eq_true, decide_eq_true_eq]
  omega

theorem inImem_eq_false {s : State} {n : Nat} (h : ¬ HasBundle s n) : inImem (coreAt s s.me) n = false := by
  simp only [HasBundle, not_and] at h
  simp only [inImem, Bool.and_eq_false_iff, decide_eq_false_iff_not]
  omega

theorem me_of_issues {s u : State} {c : Nat} (h : Issues s u c) : u.me = c := by
  obtain ⟨-, ⟨rest, -, rfl⟩, -⟩ := h
  rfl

/-- A bundle that does not decode takes trap 1. -/
theorem step_illegal {s u : State} {c : Nat} {x : BadSlot} (h : Issues s u c) (hq : Quiet u) (hb : HasBundle u (coreAt u c).seq.pc)
    (hx : decodeWords (bundleWords (bundleAt (coreAt u c) (coreAt u c).seq.pc)) (coreAt u c).seq.repK = .error x) :
    ∃ t, step s = .next t ∧ TrapTaken u t 1 (operandInfo x.slot (decide (0 < (coreAt u c).seq.repK)) x.word) := by
  obtain rfl := me_of_issues h
  refine ⟨_, step_of_issues h ?_, bundleTrap_trapTaken hq 1 x.slot x.word⟩
  simp only [issueBundle, inImem_eq_true hb, hx]
  rfl

/-- A program counter without a bundle takes trap 2. -/
theorem step_without_bundle {s u : State} {c : Nat} (h : Issues s u c) (hq : Quiet u) (hb : ¬ HasBundle u (coreAt u c).seq.pc) :
    ∃ t, step s = .next t ∧ TrapTaken u t 2 (operandInfo 0 (decide (0 < (coreAt u c).seq.repK)) 0) := by
  obtain rfl := me_of_issues h
  refine ⟨_, step_of_issues h ?_, bundleTrap_trapTaken hq 2 0 0⟩
  simp only [issueBundle, inImem_eq_false hb]
  rfl

/-! ### The slots of a bundle that issues -/

theorem run_of_next {s t : State} {i : Instr} (h : exec i s = .next t) : run s i = t := by rw [run, h]; rfl

theorem ran_run {s t : State} {i : Instr} {l : List Instr} (h : Ran s (i :: l) t) : Ran (run s i) l t := by
  obtain ⟨u, hu, ht⟩ := h
  rwa [run_of_next hu]

theorem foldl_of_ran {s t : State} {l : List Instr} (h : Ran s l t) : l.foldl run s = t := by
  induction l generalizing s with
  | nil => exact h
  | cons i l ih => exact ih (ran_run h)

theorem advanced_eq (k : Core) : advanced k = { k with seq := stepPc k.seq } := by
  cases hrep : k.seq.rep with
  | none => simp only [advanced, stepPc, hrep]
  | some n =>
    simp only [advanced, stepPc, hrep]
    split <;> rfl

theorem beforeW_eq (s : State) (b : Bundle) : beforeW s b = stepsFetched ((slotsBefore b).foldl run s) b := by
  cases hs : actsFirst b.s <;> cases he : armedEdge b.e <;> simp [slotsBefore, beforeW, stepsFetched, hs, he]

theorem runSlots_eq (s : State) (b : Bundle) {x : State}
    (hx : x = (slotsThen b).foldl run (stepsFetched ((b.y :: slotsBefore b).foldl run s) b)) :
    runSlots s b = (slotsLast b).foldl run (if actsFirst b.s = true then x else imxLeft x b.w) := by
  have himx : ∀ u, imxLeft u b.w = spendImx u b := fun _ => rfl
  subst hx
  cases hs : actsFirst b.s <;> cases he : armedEdge b.e <;>
    simp [runSlots, beforeW_eq, slotsThen, slotsLast, himx, hs, he]

theorem issueDecoded_of_free {u : State} {b : Bundle} (h : Free u u.me b) : issueDecoded u b = some (commitBundle (headers u b.y) b) := by
  obtain ⟨hinh, hdrain, hholds, hload, hstall, htrap⟩ := h
  have hd : drainsHere (coreAt u u.me) b = false := by
    simp only [drainsHere, Bool.and_eq_false_imp, beq_iff_eq]
    exact hdrain
  simp only [issueDecoded, hinh, hd, hholds, hload, hstall, htrap]
  rfl

theorem commitBundle_eq (s : State) (b : Bundle) :
    commitBundle s b = (let t := runSlots (modCore s s.me advanced) b; modCore t t.me (bundleOver b)) := by
  rw [funext advanced_eq]
  rfl

/-- A bundle that nothing holds or traps runs its slots in their order. -/
theorem step_bundle {s u t w x : State} {c : Nat} {b : Bundle} (h : Issues s u c) (hb : HasBundle u (coreAt u c).seq.pc)
    (hdec : decodeWords (bundleWords (bundleAt (coreAt u c) (coreAt u c).seq.pc)) (coreAt u c).seq.repK = .ok b) (hfree : Free u c b)
    (hw : Ran (modCore (headers u b.y) c advanced) (b.y :: slotsBefore b) w) (hx : Ran (stepsFetched w b) (slotsThen b) x)
    (ht : Ran (if actsFirst b.s = true then x else imxLeft x b.w) (slotsLast b) t) : step s = .next (modCore t t.me (bundleOver b)) := by
  obtain rfl := me_of_issues h
  have hthen : x = (slotsThen b).foldl run
      (stepsFetched ((b.y :: slotsBefore b).foldl run (modCore (headers u b.y) u.me advanced)) b) := by
    rw [foldl_of_ran hw, foldl_of_ran hx]
  have hslots : runSlots (modCore (headers u b.y) u.me advanced) b = t := (runSlots_eq _ b hthen).trans (foldl_of_ran ht)
  refine step_of_issues h ?_
  simp only [issueBundle, inImem_eq_true hb, hdec]
  refine (issueDecoded_of_free hfree).trans (congrArg some ?_)
  rw [commitBundle_eq]
  exact congrArg (fun t : State => modCore t t.me (bundleOver b)) hslots

/-! ### The agenda -/

theorem exec_trapEntry (s : State) (c : Nat) :
    exec (.trapEntry c) s = .next (if atBoundary (coreAt s c) && !isHalted s c then (boundaryTrap s c).getD s else s) := rfl

/-- A core that may not issue does nothing, one with a trap pending at its boundary takes it. -/
theorem step_core_trap {s : State} {c : Nat} {rest : List Move} (hp : s.power.powered = true) (ha : s.agenda = .core c :: rest) :
    let v := settleAll { s with agenda := rest }
    (canIssue v c = false → step s = .next v) ∧
    (canIssue v c = true → (coreAt v c).soft ≠ none ∨ (coreAt v c).ctl.inh = false ∧ boundaryFaults v c ≠ [] →
      step s = exec (.trapEntry c) v) := by
  intro v
  have hstep : step s = .next ((boundary v c).getD v) := step_move hp ha
  rw [hstep]
  refine ⟨fun hcan => ?_, fun hcan htrap => ?_⟩
  · rw [boundary, hcan]
    rfl
  · obtain ⟨hrun, hready, hhalt⟩ := canIssue_running hcan
    obtain ⟨t, ht⟩ := Option.isSome_iff_exists.1 (boundaryTrap_isSome hrun htrap)
    have hb : atBoundary (coreAt v c) = true := by simp [atBoundary, hready]
    rw [exec_trapEntry, boundary, hcan, ht, hb, hhalt]
    rfl

theorem eventWaits_iff {s : State} {i : Instr} : eventWaits s i = true ↔
    (pavilionRuns i = true ∧ islandHolds s 20 = true ∨ memoryStands s = true ∧ needsNoMemory i = false ∨
      ∃ c ∈ performsFor s i, bellHeld s c = true) := by
  simp only [eventWaits, Bool.or_eq_true, Bool.and_eq_true, Bool.not_eq_true', List.any_eq_true, or_assoc]

/-- A step without encoding that is next on the agenda waits, or runs after what is due before it. -/
theorem step_event {s t : State} {i : Instr} {rest : List Move} (hp : s.power.powered = true) (ha : s.agenda = .ev i :: rest)
    (he : encode i = none) :
    (eventWaits { s with agenda := rest } i = true → step s = .next { s with agenda := rest }) ∧
    (¬ eventWaits { s with agenda := rest } i = true → exec i (settleFor i { s with agenda := rest }) = .next t →
      step s = .next t) := by
  have hev : isEvent i = true := by rw [isEvent, he]; rfl
  rw [step_move hp ha, runMove, runEvent, hev]
  refine ⟨fun hw => ?_, fun hw ht => ?_⟩
  · rw [hw]
    rfl
  · rw [Bool.not_eq_true] at hw
    rw [hw, run_of_next ht]
    rfl

/-! ### The epilogue unit -/

/-- The instructions whose words the epilogue unit runs (R57). -/
def epilogueWord : Instr → Bool
  | .estop | .epass | .eadd _ | .emul _ | .erelu | .eclmp _ | .ecvt _ _ => true
  | _ => false

theorem decodeSlot_epilogueWord (w : Word) : Answers (fun i => epilogueWord i = true) (decodeSlot .epilogue w) := by
  refine answers_ite (fun _ => answers_checkFields (r := rawEpilogue (w.extractLsb' 0 16)) ?_) answers_error
  unfold rawEpilogue
  split
  all_goals repeat' refine answers_ite (fun _ => ?_) ?_
  any_goals exact answers_error
  all_goals exact answers_ok rfl

theorem runWord_eq_exec {w : Half} {i : Instr} (h : decodeSlot .epilogue (w.setWidth 32) = .ok i) (s : State) :
    runWord w s = exec i s := by
  have hi : epilogueWord i = true := decodeSlot_epilogueWord _ i h
  unfold runWord
  rw [h]
  unfold epilogueWord at hi
  split at hi
  case h_8 => cases hi
  all_goals rfl

theorem anyCore_head {s t : State} {k : Core} {more : Tab Core} {f : Nat → State → Option State} (hc : s.cores = (0, k) :: more)
    (hf : f 0 s = some t) : anyCore f s = some t := by
  simp only [anyCore, coreNumbers, hc, List.map_cons, List.findSome?_cons, hf]

theorem firstOf_head {s t : State} {f : State → Option State} {l : List (State → Option State)} (hf : f s = some t) :
    firstOf (f :: l) s = some t := by
  simp only [firstOf, hf]

theorem step_free_epi {s t : State} (hp : s.power.powered = true) (ha : s.agenda = []) (h : anyCore epiWork s = some t) :
    step s = .next t := by
  have hpick : pickWork s = some t := by
    unfold pickWork fullWork drySteps
    split <;> exact firstOf_head h
  simp only [step, ha, hp, if_true, runFree, hpick]

/-- A word of the epilogue unit runs as its instruction. -/
theorem step_epilogue {s t : State} {k : Core} {more : Tab Core} {r : EpiRun} {w : Half} {ws : List Half} {i : Instr}
    (hp : s.power.powered = true) (ha : s.agenda = []) (hc : s.cores = (0, k) :: more) (he : k.edge.epi = some r)
    (hw : r.words = w :: ws) (hd : decodeSlot .epilogue (w.setWidth 32) = .ok i)
    (ht : exec i (setMe (modCore s 0 fun k => { k with edge := { k.edge with epi := some { r with words := ws } } }) 0) = .next t) :
    step s = .next (setMe t s.me) := by
  have hk : coreAt s 0 = k := by simp only [coreAt, hc, Tab.get, if_true]
  refine step_free_epi hp ha (anyCore_head hc ?_)
  have hstep : stepEpi s 0 = t := by
    have hexec : exec i (modEdge (setMe s 0) 0 fun e => { e with epi := some { r with words := ws } }) = .next t := ht
    simp only [stepEpi, hk, he, hw, runWord_eq_exec hd, hexec]
  simp only [epiWork, hk, he, Option.isSome_some, if_true, hstep]

/-- Settles O57, clause by clause: a bundle, the traps before it, the traps at its boundary, an event, a word of the epilogue unit. -/
theorem stepRunsDecodedInstructions : Obligations.StepRunsDecodedInstructions := by
  unfold Obligations.StepRunsDecodedInstructions
  refine ⟨fun s u t c b h hb hdec hfree w x hw hx ht => step_bundle h hb hdec hfree hw hx ht,
    fun s u c x h hq hb hx => step_illegal h hq hb hx, fun s u c h hq hb => step_without_bundle h hq hb,
    fun s c rest hp ha => step_core_trap hp ha, fun s t i rest hp ha he => ?_,
    fun s t k more r w ws i hp ha hc he hw hd ht => step_epilogue hp ha hc he hw hd ht⟩
  obtain ⟨hwaits, hruns⟩ := step_event (t := t) hp ha he
  exact ⟨fun hw => hwaits (eventWaits_iff.2 hw), fun hw ht => hruns (fun h => hw (eventWaits_iff.1 h)) ht⟩

end Sys2Proof.Proofs

/-! PROOFS. Cell instructions: elements, lanes and flags of a register, the element-by-element operation, compares into P, and the
vector instructions (R84, R85, R89 to R94). -/

namespace Sys2Proof.Proofs
open Sys2Proof Sys2Proof.Machine Sys2Proof.Claims

/-! ### Elements of a register (R15) -/

theorem elem_lt (w : Nat) (x : RegData) (e : Nat) : elem w x e < 2 ^ w := (x.extractLsb' (w * e) w).isLt

/-- Element e lies within the register. -/
theorem elem_fits {w e : Nat} (h : e < 512 / w) : w * e + w ≤ 512 :=
  (Nat.mul_le_mul_left w h).trans (Nat.mul_div_le 512 w)

theorem testBit_elem (w : Nat) (x : RegData) (e i : Nat) :
    (elem w x e).testBit i = (decide (i < w) && x.getLsbD (w * e + i)) := by
  rw [elem, BitVec.testBit_toNat, BitVec.getLsbD_extractLsb']

theorem getLsbD_putElem {i : Nat} (hi : i < 512) (w : Nat) (x : RegData) (e v : Nat) :
    (putElem w x e v).getLsbD i = if w * e ≤ i ∧ i < w * e + w then v.testBit (i - w * e) else x.getLsbD i := by
  have hsub : i - w * e < 512 := by omega
  simp only [putElem, BitVec.getLsbD_or, BitVec.getLsbD_and, BitVec.getLsbD_not, BitVec.getLsbD_shiftLeft, BitVec.getLsbD_ofNat,
    Nat.testBit_two_pow_sub_one, Nat.testBit_mod_two_pow, hi, hsub]
  by_cases hlo : w * e ≤ i
  · have hnlo : ¬ i < w * e := by omega
    have hw : (i < w * e + w) ↔ i - w * e < w := by omega
    by_cases hhi : i - w * e < w <;> simp [hlo, hnlo, hw, hhi]
  · simp [hlo, Nat.lt_of_not_le hlo]

/-- Bit i of element e' lies in element e only if they are one element. -/
theorem elem_disjoint {w e e' i : Nat} (hi : i < w) : w * e ≤ w * e' + i ∧ w * e' + i < w * e + w ↔ e' = e := by
  constructor
  · rintro ⟨hlo, hhi⟩
    have hle : e < e' + 1 := Nat.lt_of_mul_lt_mul_left (a := w) (by rw [Nat.mul_succ]; omega)
    have hge : e' < e + 1 := Nat.lt_of_mul_lt_mul_left (a := w) (by rw [Nat.mul_succ]; omega)
    omega
  · rintro rfl
    omega

/-- The element that a write puts down is read back, the others stay. -/
theorem elem_putElem {w e' : Nat} (he' : e' < 512 / w) (x : RegData) (e v : Nat) :
    elem w (putElem w x e v) e' = if e' = e then v % 2 ^ w else elem w x e' := by
  have hfit := elem_fits he'
  apply Nat.eq_of_testBit_eq
  intro i
  by_cases hi : i < w
  · rw [testBit_elem, getLsbD_putElem (by omega), if_congr (elem_disjoint hi) rfl rfl]
    split
    case isTrue h => simp [h, hi, Nat.testBit_mod_two_pow]
    case isFalse h => rw [testBit_elem]
  · split <;> simp [testBit_elem, hi, Nat.testBit_mod_two_pow]

/-! ### Lanes and flags (R15, R84) -/

/-- The widths of the element types that the vector instructions take (R52). -/
def IsElemWidth (w : Nat) : Prop := w = 32 ∨ w = 16 ∨ w = 8

theorem lowSlice_eq_sliceOf {w : Nat} (hw : IsElemWidth w) (e : Nat) : lowSlice w e = sliceOf w e := by
  rcases hw with rfl | rfl | rfl <;> rfl

theorem sliceOf_lt {w e : Nat} (hw : IsElemWidth w) (he : e < 512 / w) : sliceOf w e < 32 := by
  rcases hw with rfl | rfl | rfl <;> norm_num [sliceOf] at he ⊢ <;> omega

theorem getLsbD_laneMask {j : Nat} (hj : j < 32) (k : CellSt) (p : BitVec 1) : (laneMask p k.p).getLsbD j = Chosen k p j := by
  unfold laneMask Chosen
  by_cases hp : p = 0
  · rw [if_pos hp, BitVec.getLsbD_allOnes, decide_eq_true hj, beq_iff_eq.2 hp, Bool.true_or]
  · rw [if_neg hp, beq_eq_false_iff_ne.2 hp, Bool.false_or]

theorem getLsbD_laneMask_lowSlice {w e : Nat} (hw : IsElemWidth w) (he : e < 512 / w) (k : CellSt) (p : BitVec 1) :
    (laneMask p k.p).getLsbD (lowSlice w e) = Chosen k p (sliceOf w e) := by
  rw [lowSlice_eq_sliceOf hw, getLsbD_laneMask (sliceOf_lt hw he)]

theorem xfAt_or (a b : BitVec 160) (j : Nat) : xfAt (a ||| b) j = xfAt a j ||| xfAt b j := BitVec.extractLsb'_or

theorem xfAt_orXf {j : Nat} (hj : j < 32) (xf : BitVec 160) (i : Nat) (g : Flags5) :
    xfAt (orXf xf i g) j = if i = j then xfAt xf j ||| g else xfAt xf j := by
  rw [orXf, xfAt_or]
  have hentry : xfAt (g.setWidth 160 <<< (5 * i)) j = if i = j then g else 0 := by
    apply BitVec.eq_of_getLsbD_eq
    intro b hb
    simp only [xfAt, BitVec.getLsbD_extractLsb', BitVec.getLsbD_shiftLeft, BitVec.getLsbD_setWidth, hb]
    rcases Nat.lt_trichotomy i j with h | rfl | h
    · have hg : g.getLsbD (5 * j + b - 5 * i) = false := BitVec.getLsbD_of_ge _ _ (by omega)
      simp [hg, Nat.ne_of_lt h]
    · have hlt : 5 * i + b < 160 := by omega
      have hb' : b < 160 := by omega
      simp [hlt, hb']
    · have hlt : 5 * j + b < 5 * i := by omega
      simp [hlt, Nat.ne_of_gt h]
  rw [hentry]
  split <;> simp

/-! ### The element-by-element operation (R84, R85, R89) -/

theorem mapFirst_succ (n w : Nat) (lanes : Word) (old : RegData) (f : Nat → Nat × Flags5) :
    mapFirst (n + 1) w lanes old f =
      if lanes.getLsbD (lowSlice w n) then
        { data := putElem w (mapFirst n w lanes old f).data n (f n).1
          xf := orXf (mapFirst n w lanes old f).xf (lowSlice w n) (f n).2
          all := (mapFirst n w lanes old f).all ||| (f n).2 }
      else mapFirst n w lanes old f := by
  simp only [mapFirst, List.range_succ, List.foldl_append, List.foldl_cons, List.foldl_nil]

theorem entryFlags_succ (k : CellSt) (p : BitVec 1) (n w : Nat) (f : Nat → Nat × Flags5) (j : Nat) :
    entryFlags k p (n + 1) w f j =
      if Chosen k p (sliceOf w n) && sliceOf w n == j then entryFlags k p n w f j ||| (f n).2 else entryFlags k p n w f j := by
  simp only [entryFlags, List.range_succ, List.foldl_append, List.foldl_cons, List.foldl_nil]

theorem allFlags_succ (k : CellSt) (p : BitVec 1) (n w : Nat) (f : Nat → Nat × Flags5) :
    allFlags k p (n + 1) w f =
      if Chosen k p (sliceOf w n) then allFlags k p n w f ||| (f n).2 else allFlags k p n w f := by
  simp only [allFlags, List.range_succ, List.foldl_append, List.foldl_cons, List.foldl_nil]

section
variable {w n : Nat} (hw : IsElemWidth w) (hn : n ≤ 512 / w) (k : CellSt) (p : BitVec 1) (old : RegData) (f : Nat → Nat × Flags5)
include hw hn

theorem elem_mapFirst {e : Nat} (he : e < 512 / w) : elem w (mapFirst n w (laneMask p k.p) old f).data e =
    if e < n ∧ Chosen k p (sliceOf w e) = true then (f e).1 % 2 ^ w else elem w old e := by
  induction n with
  | zero => simp [mapFirst]
  | succ n ih =>
    have ih := ih (by omega)
    rw [mapFirst_succ, getLsbD_laneMask_lowSlice hw (by omega), apply_ite Elems.data, apply_ite (elem w · e), elem_putElem he, ih]
    by_cases hen : e = n
    · subst hen
      simp
    · have hlt : e < n + 1 ↔ e < n := by omega
      simp only [hen, hlt, if_false, ite_self]

theorem xfAt_mapFirst {j : Nat} (hj : j < 32) : xfAt (mapFirst n w (laneMask p k.p) old f).xf j = entryFlags k p n w f j := by
  induction n with
  | zero => simp [mapFirst, entryFlags, xfAt]
  | succ n ih =>
    have ih := ih (by omega)
    rw [mapFirst_succ, getLsbD_laneMask_lowSlice hw (by omega), entryFlags_succ, lowSlice_eq_sliceOf hw]
    by_cases hc : Chosen k p (sliceOf w n) = true
    · simp [hc, xfAt_orXf hj, ih]
    · simp [hc, ih]

theorem all_mapFirst : (mapFirst n w (laneMask p k.p) old f).all = allFlags k p n w f := by
  induction n with
  | zero => rfl
  | succ n ih =>
    have ih := ih (by omega)
    rw [mapFirst_succ, getLsbD_laneMask_lowSlice hw (by omega), allFlags_succ]
    by_cases hc : Chosen k p (sliceOf w n) = true <;> simp [hc, ih]

end

theorem readOperand_eq_operandIs (x : CellIn) (k : CellSt) (a : BitVec 5) : readOperand x k a = operandIs x k a :=
  if_congr Nat.lt_succ_iff.symm rfl rfl

theorem raiseXf_eq (k : CellSt) (nf : BitVec 1) (xf : BitVec 160) :
    raiseXf k nf xf = { k with xf := if nf = 0 then k.xf ||| xf else k.xf } := by
  unfold raiseXf
  split <;> rfl

theorem xfAt_raiseXf (k : CellSt) (nf : BitVec 1) (xf : BitVec 160) (j : Nat) :
    xfAt (raiseXf k nf xf).xf j = if nf = 0 then xfAt k.xf j ||| xfAt xf j else xfAt k.xf j := by
  rw [raiseXf_eq]
  split
  · exact xfAt_or _ _ _
  · rfl

theorem fpFault_eq_fpFaults (x : CellIn) (nf : BitVec 1) (g : Flags5) : fpFault x nf g = fpFaults x.trapen x.row x.col nf g := by
  have hinfo (e : Nat) : cellInfo 3 e x.row x.col 0 = BitVec.ofNat 64 (3 + 8 * e + x.row * 2 ^ 8 + x.col * 2 ^ 16) := by
    rw [cellInfo, Nat.mul_comm e, Nat.zero_mul, Nat.add_zero]
  simp [fpFault, fpFaults, hinfo]

/-- A cell after a write to a destination (R85). -/
theorem dest_writeDst (k : CellSt) (d : BitVec 5) (v : FReg) : dest (writeDst k d v) d = v := by
  unfold dest writeDst
  split
  case isTrue => rfl
  case isFalse => exact Tab.get_set_same _ _ _ _

theorem onlyReg_writeDst (k : CellSt) (d : BitVec 5) (v : FReg) (xf : BitVec 160) : OnlyReg k { writeDst k d v with xf := xf } d := by
  unfold writeDst
  by_cases hd : d = 24
  · rw [if_pos hd]
    exact ⟨fun _ _ => rfl, fun h => absurd hd h, rfl⟩
  · rw [if_neg hd]
    exact ⟨fun n hn => Tab.get_set_other _ _ _ _ _ (hn.resolve_right hd), fun _ => rfl, rfl⟩

theorem onlyDest_writeData (k : CellSt) (d : BitVec 5) (v : RegData) (nf : BitVec 1) (xf : BitVec 160) (l : List (Nat × Dword)) :
    OnlyDest k ⟨raiseXf (writeData k d v) nf xf, l⟩ d := by
  have hside : (dest (writeData k d v) d).side = (dest k d).side :=
    (congrArg FReg.side (dest_writeDst k d { readDst k d with data := v }) :)
  rw [raiseXf_eq]
  exact ⟨hside, onlyReg_writeDst k d _ _⟩

theorem dest_raiseXf_writeData (k : CellSt) (d : BitVec 5) (v : RegData) (nf : BitVec 1) (xf : BitVec 160) :
    (dest (raiseXf (writeData k d v) nf xf) d).data = v := by
  rw [raiseXf_eq]
  exact congrArg FReg.data (dest_writeDst k d _)

theorem writeData_xf (k : CellSt) (d : BitVec 5) (v : RegData) : (writeData k d v).xf = k.xf := by
  unfold writeData writeDst
  split <;> rfl

/-- R89's loop over the first n elements of the destination, its flags and its faults. -/
theorem elementwise_mapFirst {w n : Nat} (hw : IsElemWidth w) (hn : n ≤ 512 / w) (x : CellIn) (k : CellSt) (d : BitVec 5)
    (nf p : BitVec 1) (f : Nat → Nat × Flags5) :
    let r := mapFirst n w (laneMask p k.p) (readDst k d).data f
    Elementwise x k ⟨raiseXf (writeData k d r.data) nf r.xf, fpFault x nf r.all⟩ d nf n w p f := by
  refine ⟨onlyDest_writeData k d _ nf _ _, fun e he => ?_, fun j hj => ?_, ?_⟩
  · rw [dest_raiseXf_writeData, elem_mapFirst hw hn k p _ f he]
    rfl
  · rw [xfAt_raiseXf, writeData_xf, xfAt_mapFirst hw hn k p _ f hj]
  · rw [fpFault_eq_fpFaults, all_mapFirst hw hn k p _ f]

theorem elementwise_typedOp {w : Nat} (hw : IsElemWidth w) (x : CellIn) (k : CellSt) (d : BitVec 5) (nf p : BitVec 1)
    (f : Nat → Nat × Flags5) : Elementwise x k (typedOp x k d nf w p f) d nf (512 / w) w p f :=
  elementwise_mapFirst hw le_rfl x k d nf p f

theorem whenSel_of_sel {x : CellIn} (h : x.sel = true) (k : CellSt) (f : CellSt → CellOut) : whenSel x k f = f k := if_pos h

/-- Instructions that a list pairs with their functions: where each runs its function over the elements, the table of those
functions' values says what each does. -/
theorem elementwise_of_members {β : Type} {members : List (Instr × β)} {table : Nat → List (Instr × (Nat × Flags5))}
    {x : CellIn} {k : CellSt} {d : BitVec 5} {nf p : BitVec 1} {w : Nat} (hw : IsElemWidth w) (g : β → Nat → Nat × Flags5)
    (htable : ∀ e, table e = members.map fun q => (q.1, g q.2 e))
    (hrun : ∀ q ∈ members, cellRun q.1 x k = typedOp x k d nf w p (g q.2)) {l : Nat} (hl : l < members.length) :
    ∃ i f, (∀ e, (table e)[l]? = some (i, f e)) ∧ Elementwise x k (cellRun i x k) d nf (512 / w) w p f := by
  refine ⟨members[l].1, g members[l].2, fun e => ?_, ?_⟩
  · rw [htable, List.getElem?_map, List.getElem?_eq_getElem hl]
    rfl
  · rw [hrun _ (List.getElem_mem hl)]
    exact elementwise_typedOp hw x k d nf p _

/-! ### The types of the elements (R52) -/

/-- A type of the vector floating-point instructions: its format, whose width the elements have. -/
theorem float_ty {t : BitVec 4} (ht : t.toNat ≤ 4) : IsElemWidth (tyWidth t) ∧ (fmtOf t).bits = tyWidth t := by
  unfold IsElemWidth tyWidth fmtOf
  interval_cases t.toNat <;> decide

theorem int_ty {t : BitVec 4} (hlo : 6 ≤ t.toNat) (hhi : t.toNat ≤ 10) : IsElemWidth (tyWidth t) := by
  unfold IsElemWidth tyWidth
  interval_cases t.toNat <;> decide

theorem IsElemWidth.pos {w : Nat} (hw : IsElemWidth w) : 0 < w := by
  rcases hw with rfl | rfl | rfl <;> decide

/-! ### Floating-point vector instructions (R89) -/

/-- Element e of a floating-point operation with the function g. -/
def floatElem (x : CellIn) (k : CellSt) (d a b : BitVec 5) (t : BitVec 4)
    (g : Fmt → RMode → Nat → Nat → Nat → Nat × Flags5) (e : Nat) : Nat × Flags5 :=
  g (fmtOf t) (RMode.ofBits x.frm) (elem (tyWidth t) (operandIs x k a).data e) (elem (tyWidth t) (operandIs x k b).data e)
    (elem (tyWidth t) (dest k d).data e)

theorem floatOp_eq_typedOp (x : CellIn) (k : CellSt) (d a b : BitVec 5) (n : BitVec 1) (t : BitVec 4) (p : BitVec 1)
    (g : Fmt → RMode → Nat → Nat → Nat → Nat × Flags5) :
    floatOp x k d a b n t p g = typedOp x k d n (tyWidth t) p (floatElem x k d a b t g) := by
  simp only [floatOp, readOperand_eq_operandIs]
  rfl

/-- The model's function of each arithmetic member, over the elements of a, b and d. -/
def floatMembers (m : BitVec 4) (d a b : BitVec 5) (n : BitVec 1) (t : BitVec 4) (p : BitVec 1) :
    List (Instr × (Fmt → RMode → Nat → Nat → Nat → Nat × Flags5)) :=
  [(.fadd m d a b n t p, fun f r u v _ => fAdd f r u v), (.fsub m d a b n t p, fun f r u v _ => fSub f r u v),
   (.fmul m d a b n t p, fun f r u v _ => fMul f r u v), (.ffma m d a b n t p, fun f r u v o => fFma f r false u v o),
   (.ffms m d a b n t p, fun f r u v o => fFma f r true u v o), (.fmin m d a b n t p, fun f _ u v _ => fMin f u v),
   (.fmax m d a b n t p, fun f _ u v _ => fMax f u v), (.fabs m d a n t p, fun f _ u _ _ => (f.mag u, 0)),
   (.fneg m d a n t p, fun f _ u _ _ => (fNeg f u, 0))]

theorem cellRun_floatMembers {x : CellIn} (hsel : x.sel = true) (k : CellSt) (m : BitVec 4) (d a b : BitVec 5) (n : BitVec 1)
    (t : BitVec 4) (p : BitVec 1) : ∀ q ∈ floatMembers m d a b n t p, cellRun q.1 x k = floatOp x k d a b n t p q.2 := by
  simp only [floatMembers, List.forall_mem_cons, List.not_mem_nil, false_imp_iff, implies_true, and_true]
  simp only [cellRun, cellFadd, cellFsub, cellFmul, cellFfma, cellFfms, cellFmin, cellFmax, cellFabs, cellFneg, whenSel_of_sel hsel,
    true_and]
  exact ⟨rfl, rfl⟩

theorem fNeg_eq {f : Fmt} {u : Nat} (hf : 0 < f.bits) (hu : u < 2 ^ f.bits) : fNeg f u = (u + 2 ^ (f.bits - 1)) % 2 ^ f.bits := by
  simp only [fNeg, Fmt.sign, Fmt.signBit, Nat.mod_eq_of_lt hu, decide_eq_true_eq]
  rw [← Nat.two_pow_pred_mul_two hf] at hu ⊢
  split
  case isTrue => rw [Nat.mod_eq_sub_mod (by omega), Nat.mod_eq_of_lt (by omega)]; omega
  case isFalse => rw [Nat.mod_eq_of_lt (by omega)]

theorem floatTable_eq_map {f : Fmt} {u : Nat} (hf : 0 < f.bits) (hu : u < 2 ^ f.bits) (m : BitVec 4) (d a b : BitVec 5) (n : BitVec 1)
    (t : BitVec 4) (p : BitVec 1) (r : RMode) (v o : Nat) :
    floatTable m d a b n t p f r u v o = (floatMembers m d a b n t p).map fun q => (q.1, q.2 f r u v o) := by
  simp only [floatTable, floatMembers, List.map_cons, List.map_nil, fNeg_eq hf hu]
  rfl

theorem floatVectorResults : FloatVectorResults := by
  intro x k m d a b n t p hsel ht _ w l hl
  obtain ⟨hw, hbits⟩ := float_ty ht
  refine elementwise_of_members hw (floatElem x k d a b t) (fun e => ?_) (fun q hq => ?_)
    (show l < (floatMembers m d a b n t p).length from hl)
  · exact floatTable_eq_map (hbits ▸ hw.pos) (hbits ▸ elem_lt w _ e) m d a b n t p _ _ _
  · rw [cellRun_floatMembers hsel k m d a b n t p q hq, floatOp_eq_typedOp]

/-! ### Integer and fixed-point vector instructions (R92, R93) -/

theorem sInt_eq_signedOf {w u : Nat} (hu : u < 2 ^ w) : sInt w u = signedOf w u := by
  rw [sInt, signedOf, Nat.mod_eq_of_lt hu, ← ite_not]
  simp only [Nat.not_le]

theorem signedOf_inj {w u v : Nat} (hw : 0 < w) (hu : u < 2 ^ w) (hv : v < 2 ^ w) : signedOf w u = signedOf w v ↔ u = v := by
  have hpow := Nat.two_pow_pred_mul_two hw
  have hcast : (2 : Int) ^ w = ((2 ^ w : Nat) : Int) := by norm_cast
  unfold signedOf
  rw [hcast]
  split <;> split <;> omega

/-- The two bounds of Sat as elements. -/
theorem lowBits_bounds {w : Nat} (hw : 0 < w) :
    lowBits w (2 ^ (w - 1) - 1) = 2 ^ (w - 1) - 1 ∧ lowBits w (-2 ^ (w - 1)) = 2 ^ (w - 1) := by
  have hpow : (2 : Int) ^ w = 2 ^ (w - 1) * 2 := by exact_mod_cast (Nat.two_pow_pred_mul_two hw).symm
  have hnat : (2 : Int) ^ (w - 1) = ((2 ^ (w - 1) : Nat) : Int) := by norm_cast
  have hpos := Nat.two_pow_pos (w - 1)
  have hneg : -(2 : Int) ^ (w - 1) = 2 ^ (w - 1) + 2 ^ (w - 1) * 2 * -1 := by ring
  constructor
  · rw [lowBits, hpow, Int.emod_eq_of_lt (by omega) (by omega)]
    omega
  · rw [lowBits, hpow, hneg, Int.add_mul_emod_self_left, Int.emod_eq_of_lt (by omega) (by omega)]
    omega

theorem satInt_eq_satIs {w : Nat} (hw : 0 < w) (x : Int) : satInt w x = satIs w x := by
  obtain ⟨hhi, hlo⟩ := lowBits_bounds hw
  simp only [satInt, satIs, hhi, hlo]
  rfl

theorem roundHalfUp_eq {w : Nat} (hw : 0 < w) (n : Int) : roundHalfUp n (w - 1) = (2 * n + 2 ^ (w - 1)) / 2 ^ w := by
  rw [roundHalfUp, Nat.sub_add_cancel hw]

/-- Element e of an integer operation with the function g. -/
def intElem (x : CellIn) (k : CellSt) (d a b : BitVec 5) (t : BitVec 4)
    (g : Nat → Bool → Nat → Nat → Nat → Nat × Flags5) (e : Nat) : Nat × Flags5 :=
  g (tyWidth t) (9 ≤ t.toNat) (elem (tyWidth t) (operandIs x k a).data e) (elem (tyWidth t) (operandIs x k b).data e)
    (elem (tyWidth t) (dest k d).data e)

theorem intOp_eq_typedOp (x : CellIn) (k : CellSt) (d a b : BitVec 5) (n : BitVec 1) (t : BitVec 4) (p : BitVec 1)
    (g : Nat → Bool → Nat → Nat → Nat → Nat × Flags5) :
    intOp x k d a b n t p g = typedOp x k d n (tyWidth t) p (intElem x k d a b t g) := by
  simp only [intOp, readOperand_eq_operandIs]
  rfl

/-- The model's function of each integer member, over the elements of a, b and d. -/
def intMembers (m : BitVec 4) (d a b : BitVec 5) (n : BitVec 1) (t : BitVec 4) (p : BitVec 1) :
    List (Instr × (Nat → Bool → Nat → Nat → Nat → Nat × Flags5)) :=
  [(.iadd m d a b n t p, fun w q u v _ => elAdd w q u v), (.isub m d a b n t p, fun w q u v _ => elSub w q u v),
   (.imul m d a b n t p, fun w _ u v _ => elMul w u v), (.imac m d a b n t p, fun w _ u v o => elMac w u v o),
   (.qmul m d a b n t p, fun w _ u v _ => elQmul w u v), (.qmac m d a b n t p, fun w _ u v o => elQmac w u v o),
   (.wAnd m d a b n t p, fun _ _ u v _ => (u &&& v, 0)), (.wOr m d a b n t p, fun _ _ u v _ => (u ||| v, 0)),
   (.wXor m d a b n t p, fun _ _ u v _ => (u ^^^ v, 0)), (.wShl m d a b n t p, fun w _ u v _ => elShl w u v),
   (.wShr m d a b n t p, fun w _ u v _ => elShr w u v), (.wSar m d a b n t p, fun w _ u v _ => elSar w u v),
   (.imin m d a b n t p, fun w _ u v _ => elMin w u v), (.imax m d a b n t p, fun w _ u v _ => elMax w u v)]

theorem cellRun_intMembers {x : CellIn} (hsel : x.sel = true) (k : CellSt) (m : BitVec 4) (d a b : BitVec 5) (n : BitVec 1)
    (t : BitVec 4) (p : BitVec 1) : ∀ q ∈ intMembers m d a b n t p, cellRun q.1 x k = intOp x k d a b n t p q.2 := by
  simp only [intMembers, List.forall_mem_cons, List.not_mem_nil, false_imp_iff, implies_true, and_true]
  simp only [cellRun, cellIadd, cellIsub, cellImul, cellImac, cellQmul, cellQmac, cellWAnd, cellWOr, cellWXor, cellWShl, cellWShr,
    cellWSar, cellImin, cellImax, whenSel_of_sel hsel, true_and]

theorem intTable_eq_map {w u v o : Nat} (hw : 0 < w) (hu : u < 2 ^ w) (hv : v < 2 ^ w) (ho : o < 2 ^ w) (m : BitVec 4) (d a b : BitVec 5)
    (n : BitVec 1) (t : BitVec 4) (p : BitVec 1) (q : Bool) :
    intTable m d a b n t p w q u v o = (intMembers m d a b n t p).map fun y => (y.1, y.2 w q u v o) := by
  simp only [intTable, intMembers, List.map_cons, List.map_nil, elAdd, elSub, elMul, elMac, elQmul, elQmac, elShl, elShr, elSar, elMin,
    elMax, sInt_eq_signedOf hu, sInt_eq_signedOf hv, sInt_eq_signedOf ho, satInt_eq_satIs hw, roundHalfUp_eq hw]
  rfl

theorem integerVectorResults : IntegerVectorResults := by
  intro x k m d a b n t p hsel hlo hhi _ w l hl
  have hw := int_ty hlo hhi
  refine elementwise_of_members hw (intElem x k d a b t) (fun e => ?_) (fun q hq => ?_)
    (show l < (intMembers m d a b n t p).length from hl)
  · exact intTable_eq_map hw.pos (elem_lt w _ e) (elem_lt w _ e) (elem_lt w _ e) m d a b n t p _
  · rw [cellRun_intMembers hsel k m d a b n t p q hq, intOp_eq_typedOp]

/-! ### Compares (R90, R94) -/

/-- The word with bit j set to r. -/
def putBit (x : Word) (j : Nat) (r : Bool) : Word :=
  if r then x ||| BitVec.ofNat 32 (2 ^ j) else x &&& ~~~ (BitVec.ofNat 32 (2 ^ j))

theorem getLsbD_putBit {i : Nat} (hi : i < 32) (x : Word) (j : Nat) (r : Bool) :
    (putBit x j r).getLsbD i = if i = j then r else x.getLsbD i := by
  have hbit : (BitVec.ofNat 32 (2 ^ j)).getLsbD i = decide (i = j) := by
    simp only [BitVec.getLsbD_ofNat, Nat.testBit_two_pow, hi, decide_true, Bool.true_and, eq_comm]
  unfold putBit
  generalize BitVec.ofNat 32 (2 ^ j) = b at hbit ⊢
  cases r
  case true =>
    rw [if_pos rfl, BitVec.getLsbD_or, hbit]
    split <;> simp [*]
  case false =>
    rw [if_neg Bool.false_ne_true, BitVec.getLsbD_and, BitVec.getLsbD_not, hbit]
    split <;> simp [*]

/-- The slice whose bit of P chooses the lane of slice j, and what the lane's elements say. -/
def laneOf (w j : Nat) : Nat := if w = 32 then j / 2 * 2 else j
def laneResult (w : Nat) (f : Nat → Bool) (j : Nat) : Bool :=
  if w = 32 then f (j / 2) else if w = 16 then f j else f (2 * j) && f (2 * j + 1)

/-- What a compare does at slice j. -/
def compareBit (w : Nat) (lanes : Word) (f : Nat → Bool) (x : Word) (j : Nat) : Word :=
  if lanes.getLsbD (laneOf w j) then putBit x j (laneResult w f j) else x

theorem compareP_eq_foldl (w : Nat) (lanes : Word) (f : Nat → Bool) (old : Word) :
    compareP w lanes f old = (List.range 32).foldl (compareBit w lanes f) old := rfl

theorem getLsbD_foldl_compareBit {i : Nat} (hi : i < 32) (w : Nat) (lanes : Word) (f : Nat → Bool) (old : Word) (n : Nat) :
    ((List.range n).foldl (compareBit w lanes f) old).getLsbD i =
      if i < n ∧ lanes.getLsbD (laneOf w i) = true then laneResult w f i else old.getLsbD i := by
  induction n with
  | zero => simp
  | succ n ih =>
    rw [List.range_succ, List.foldl_append, List.foldl_cons, List.foldl_nil, compareBit, apply_ite (BitVec.getLsbD · i),
      getLsbD_putBit hi, ih]
    by_cases hin : i = n
    · subst hin
      simp
    · have hlt : i < n + 1 ↔ i < n := by omega
      simp only [hin, hlt, if_false, ite_self]

/-- The bits of P after a compare, for a condition that the model's test decides. -/
theorem comparesInto_compareP (k : CellSt) (p : BitVec 1) (w : Nat) {f : Nat → Bool} {holds : Nat → Prop}
    (h : ∀ e, f e = true ↔ holds e) : ComparesInto k p w holds (compareP w (laneMask p k.p) f k.p) := by
  intro j hj
  have hlane : laneOf w j < 32 := by unfold laneOf; split <;> omega
  have hbit : (compareP w (laneMask p k.p) f k.p).getLsbD j =
      if Chosen k p (laneOf w j) = true then laneResult w f j else k.p.getLsbD j := by
    rw [compareP_eq_foldl, getLsbD_foldl_compareBit hj, getLsbD_laneMask hlane]
    simp only [hj, true_and]
  refine ⟨fun hc => ?_, fun hc => ?_⟩
  · rw [hbit, laneOf, hc]
    rfl
  · rw [hbit, laneOf, if_pos hc, laneResult]
    simp only [← h, ← Bool.and_eq_true]
    split
    · rfl
    · split <;> rfl

theorem iCompare_iff {w u v : Nat} (hw : 0 < w) (hu : u < 2 ^ w) (hv : v < 2 ^ w) {c : BitVec 5} (hc : c.toNat < 10) :
    iCompare w c.toNat u v = true ↔ icmpHolds c w u v := by
  have hinj := signedOf_inj hw hu hv
  obtain ⟨i, hi, rfl⟩ : ∃ i, i < 10 ∧ c = BitVec.ofNat 5 i := ⟨c.toNat, hc, (BitVec.ofNat_toNat 5 c).symm⟩
  interval_cases i <;> simp [iCompare, icmpHolds, sInt_eq_signedOf hu, sInt_eq_signedOf hv, hinj]

theorem comparesWriteP : ComparesWriteP := by
  intro x k m c a b n t p hsel _ w u v
  refine ⟨fun ht _ => ?_, fun hlo hhi hc => ?_⟩
  · obtain ⟨hw, -⟩ := float_ty ht
    refine ⟨_, rfl, ?_⟩
    simp only [cellRun, cellFcmp, whenSel_of_sel hsel, readOperand_eq_operandIs]
    refine ⟨?_, fun j hj => ?_, ?_, ?_⟩
    · rw [raiseXf_eq]
      exact comparesInto_compareP k p w fun _ => Iff.rfl
    · rw [xfAt_raiseXf, mapElems, xfAt_mapFirst hw le_rfl k p _ _ hj]
    · rw [raiseXf_eq]
    · rw [fpFault_eq_fpFaults, mapElems, all_mapFirst hw le_rfl k p]
  · have hw := int_ty hlo hhi
    refine ⟨_, rfl, ?_⟩
    simp only [cellRun, cellIcmp, whenSel_of_sel hsel, readOperand_eq_operandIs]
    exact ⟨comparesInto_compareP k p w fun e => iCompare_iff hw.pos (elem_lt w _ e) (elem_lt w _ e) hc, rfl, rfl⟩

/-- Settles O26: the model's function of each member is the table's, and the loop over the elements applies it. -/
theorem vectorResults : Obligations.VectorResults := by
  unfold Obligations.VectorResults
  exact ⟨floatVectorResults, integerVectorResults, comparesWriteP⟩

end Sys2Proof.Proofs

/-! PROOFS. Deferred faults and Folop's answers: the boundary of a core, the entry of a handler, the resume, the mapping of a page, and the end
of the task of a team on one core (R141, R221 to R227, R303). -/

namespace Sys2Proof.Proofs
open Sys2Proof Sys2Proof.Machine Sys2Proof.Claims

/-! ### The boundary of a core (R141, R221, R223) -/

theorem faultBefore_iff {a b : Deferred} : faultBefore a b = true ↔
    a.at_ < b.at_ ∨ a.at_ = b.at_ ∧ b.cause ≠ 0x18 ∧ (a.cause = 0x18 ∨ a.cause < b.cause) := by
  simp [faultBefore, and_assoc]

theorem firstFault_pair (d e : Deferred) : firstFault [d, e] = some (if faultBefore e d = true then e else d) := by
  simp only [firstFault]
  split <;> rfl

/-- What "comes first" says of two pending faults. -/
theorem faultBefore_asymm {d e : Deferred}
    (h : d.at_ < e.at_ ∨ d.at_ = e.at_ ∧ (d.cause = 0x18 ∧ e.cause ≠ 0x18 ∨ e.cause ≠ 0x18 ∧ d.cause < e.cause)) :
    faultBefore d e = true ∧ faultBefore e d = false := by
  rw [← Bool.not_eq_true, faultBefore_iff, faultBefore_iff]
  omega

theorem boundaryTrap_of_not_running {s : State} {c : Nat} (h : (coreAt s c).run ≠ .running) : boundaryTrap s c = none := by
  simp [boundaryTrap, h]

theorem boundaryFaults_eq {s : State} {c : Nat} : boundaryFaults s c = (coreAt s c).deferred ++
    ((earlyFault s c).map fun f => (⟨0x12, (coreAt s c).seq.pc, loaderInfo f.2.1 f.2.2.1 f.2.2.2, (coreAt s c).seq.cyc⟩ : Deferred)).toList := by
  unfold boundaryFaults
  cases earlyFault s c <;> simp

/-- The only pending fault leaves no deferred one behind. -/
theorem deferred_erase_of_boundaryFaults {s : State} {c : Nat} {d : Deferred} (h : boundaryFaults s c = [d]) :
    (coreAt s c).deferred.erase d = [] := by
  rw [boundaryFaults_eq] at h
  cases hd : (coreAt s c).deferred with
  | nil => rfl
  | cons x l =>
    rw [hd, List.cons_append] at h
    obtain ⟨rfl, hrest⟩ := List.cons.inj h
    rw [(List.append_eq_nil_iff.1 hrest).1, List.erase_cons_head]

theorem modCore_congr {s : State} {c : Nat} {f g : Core → Core} (h : f (coreAt s c) = g (coreAt s c)) : modCore s c f = modCore s c g := by
  rw [modCore, modCore, h]

/-- At its boundary a core takes the only fault that is pending. -/
theorem boundaryTrap_fault {s : State} {c : Nat} {d : Deferred} (hrun : (coreAt s c).run = .running) (hsoft : (coreAt s c).soft = none)
    (hinh : (coreAt s c).ctl.inh = false) (hf : boundaryFaults s c = [d]) :
    boundaryTrap s c = some (takeTrap (modCore s c fun k => { k with deferred := [] }) c d.cause (coreAt s c).seq.pc d.info
      (some d.wavetag) (repLeft (coreAt s c)) ((coreAt s c).seq.cyc + 2)) := by
  have herase : modCore s c (fun k => { k with deferred := k.deferred.erase d }) = modCore s c fun k => { k with deferred := [] } :=
    modCore_congr (by simp only [deferred_erase_of_boundaryFaults hf])
  simp [boundaryTrap, hrun, hsoft, hinh, hf, firstFault, herase]

/-! ### A trap of a core with nothing to bring to an end -/

theorem positions_unchained {k : Core} (h : k.chain = []) (c : Nat) : positions k c = [c] := by
  simp [positions, h]

theorem fencesAct_eq_self {s : State} {c : Nat} (hpend : (coreAt s c).seq.pend = []) (hmem : (coreAt s c).mem.pend = [])
    (hfences : (coreAt s c).fences = []) : fencesAct (quiesce (flushScalars s c) c) c = s := by
  have hflush : flushScalars s c = s := by rw [flushScalars, hpend]; rfl
  have hquiesce : quiesce s c = s := by rw [quiesce, pendOf, hmem]; rfl
  rw [hflush, hquiesce, fencesAct, hfences]
  rfl

theorem freeze_unchained {s : State} {c : Nat} (h : (coreAt s c).chain = []) :
    freeze s c = modArr s c fun a => { a with frozen := true } := by
  rw [freeze, positions_unchained h]
  rfl

/-- R223: a trap outside a handler of an unchained core that has a handler and nothing to bring to an end. -/
theorem takeTrap_coreIs {s u : State} {c : Nat} {k : Core} (hu : CoreIs s u c k) (hinh : k.ctl.inh = false)
    (hpend : k.seq.pend = []) (hmem : k.mem.pend = []) (hfences : k.fences = []) (hchain : k.chain = []) (htvec : k.ctl.tvec ≠ 0)
    (cause n : Nat) (info : Dword) (wt : Option Nat) (rc start : Nat) :
    CoreIs s (takeTrap u c cause n info wt rc start) c { k with
      arr := { k.arr with frozen := true }
      ctl := trapRegs k.ctl cause n info wt rc
      seq := { k.seq with pc := k.ctl.tvec.toNat, npc := k.ctl.tvec.toNat, repK := 0, readyAt := start } } := by
  have hk : coreAt u c = k := hu.1
  subst hk
  have hset := coreIs_modCore_of (coreIs_modCore_of hu fun k => { k with arr := { k.arr with frozen := true } })
    fun k => { k with ctl := trapRegs k.ctl cause n info wt rc }
  have htake : takeTrap u c cause n info wt rc start =
      modSeq (modCtl (modArr u c fun a => { a with frozen := true }) c fun x => trapRegs x cause n info wt rc) c fun q =>
        { q with pc := (coreAt u c).ctl.tvec.toNat, npc := (coreAt u c).ctl.tvec.toNat, repK := 0, readyAt := start } := by
    have htv : (coreAt (modCtl (modArr u c fun a => { a with frozen := true }) c fun x => trapRegs x cause n info wt rc) c).ctl.tvec =
        (coreAt u c).ctl.tvec := (congrArg (fun k : Core => k.ctl.tvec) hset.1 :)
    rw [takeTrap, hinh, if_neg Bool.false_ne_true, fencesAct_eq_self hpend hmem hfences, freeze_unchained hchain]
    simp only [htv, if_neg htvec]
  rw [htake]
  exact coreIs_modCore_of hset _

/-! ### Folop's answers reach the core, or wait in its context (R225, R229) -/

theorem contextAt_modContext (s : State) (t c : Nat) {f : Core → Core} (hpart : ∀ k, (f k).part = k.part) :
    contextAt (modContext s t c f) t c = f (contextAt s t c) := by
  unfold contextAt modContext
  cases hsaved : Tab.look s.sched.saved (64 * t + c) with
  | some k => simp
  | none =>
    cases hlive : liveHere s t c with
    | true =>
      have hlive' : liveHere (modCore s c f) t c = true := by
        rw [← hlive, liveHere, liveHere, coreAt_modCore_same, hpart]
        rfl
      simp [hsaved, hlive']
    | false =>
      have hlive' : liveHere (modSched s fun d => { d with shadow := Tab.set .reset d.shadow c (f (Tab.get .reset d.shadow c)) }) t c = false := hlive
      simp [hsaved, hlive']

theorem pav_modContext (s : State) (t c : Nat) (f : Core → Core) : (modContext s t c f).pav = s.pav := by
  unfold modContext
  split
  · rfl
  · split <;> rfl

theorem core_of_faultOf {s : State} {c : Nat} {f : FaultEv} (h : faultOf s c = some f) : f.core = c := by
  simpa using List.find?_some h

/-- The state after Folop has taken a fault event from its list. -/
def withoutFault (s : State) (f : FaultEv) : State := modPav s fun p => { p with faults := p.faults.erase f }

theorem contextAt_of_live {s : State} {t c : Nat} (h : liveHere s t c = true) : contextAt s t c = coreAt s c := by
  have hsaved : Tab.look s.sched.saved (64 * t + c) = none := by
    simp only [liveHere, Bool.and_eq_true, Option.isNone_iff_eq_none] at h
    exact h.1
  rw [contextAt, hsaved, h]
  rfl

/-- The answer reaches a core that lives and stands at no swap. -/
theorem answerFault_live {s : State} {f : FaultEv} {c : Nat} (hc : f.core = c) (hlive : liveHere s f.team c = true)
    (hhalt : isHalted s c = false) (hrun : (coreAt s c).run = .waitFolop) (resume : Bool) :
    answerFault s f resume = applyAnswer (withoutFault s f) c resume := by
  subst hc
  have hlive' : liveHere (withoutFault s f) f.team f.core = true := hlive
  have hrun' : (contextAt (withoutFault s f) f.team f.core).run = .waitFolop := by rw [contextAt_of_live hlive']; exact hrun
  have hhalt' : isHalted (withoutFault s f) f.core = false := hhalt
  rw [withoutFault] at hrun' hlive' hhalt' ⊢
  simp [answerFault, hrun', hlive', hhalt']

/-- Else it waits in the context. -/
theorem answerFault_kept {s : State} {f : FaultEv} {c : Nat} (hc : f.core = c)
    (hkept : isHalted s c = true ∨ liveHere s f.team c = false) (hrun : (contextAt s f.team c).run = .waitFolop) (resume : Bool) :
    contextAt (answerFault s f resume) f.team c = { contextAt s f.team c with answer := some resume } ∧
      (answerFault s f resume).pav.faults = s.pav.faults.erase f := by
  subst hc
  have hrun' : (contextAt (withoutFault s f) f.team f.core).run = .waitFolop := hrun
  have hkept' : (liveHere (withoutFault s f) f.team f.core && !isHalted (withoutFault s f) f.core) = false := by
    have h : isHalted (withoutFault s f) f.core = true ∨ liveHere (withoutFault s f) f.team f.core = false := hkept
    rcases h with h | h <;> simp [h]
  have hans : answerFault s f resume = modContext (withoutFault s f) f.team f.core fun k => { k with answer := some resume } := by
    rw [withoutFault] at hrun' hkept' ⊢
    simp [answerFault, hrun', hkept']
  rw [hans]
  exact ⟨contextAt_modContext _ _ _ fun _ => rfl, by rw [pav_modContext]; rfl⟩

/-! ### RESUME (R225, R227) -/

theorem restartChans_unchained {s : State} {c : Nat} (h : (coreAt s c).chain = []) :
    restartChans s c = modMem s c (goOn (coreAt s c)) := by
  rw [restartChans, positions_unchained h]
  rfl

/-- What failed fetches gave is dropped (R141). -/
def withoutFailed (e : EdgeSt) : EdgeSt :=
  { e with loaders := e.loaders.map fun l => (l.1, { l.2 with fetched := l.2.fetched.map fun f =>
    { f with vals := f.vals.takeWhile fun v => match v with | .reg _ => true | .bad .. => false } }) }

theorem dropFailed_unchained {s : State} {c : Nat} (h : (coreAt s c).chain = []) : dropFailed s c = modEdge s c withoutFailed := by
  rw [dropFailed, positions_unchained h]
  rfl

/-- The array after a thaw (R227). -/
def thawed (a : Arr) : Arr := if a.frozen then { a with frozen := false, acyc := a.acyc - 1 } else a

theorem thawed_frozen (a : Arr) : (thawed a).frozen = false := by
  unfold thawed
  split
  · rfl
  · exact Bool.eq_false_of_not_eq_true ‹_›

theorem thaw_unchained {s : State} {c : Nat} (h : (coreAt s c).chain = []) : thaw s c = modArr s c thawed := by
  rw [thaw, positions_unchained h]
  rfl

/-- The core j is the core k after a resume: it runs on at TRAPPC, out of the handler, its array going. -/
def Resumed (k j : Core) : Prop :=
  j.run = .running ∧ j.seq.pc = k.ctl.trappc.toNat ∧ j.ctl = { k.ctl with inh := false, repcnt := 0 } ∧ j.arr.frozen = false ∧
  j.seq.g = k.seq.g

/-- The core that issues the bundle of TRAPPC next, from the repeat that REPCNT gives (R126). -/
def backAt (n rc : Nat) (k : Core) : Core :=
  { k with run := .running, seq := { k.seq with pc := n, npc := n, repK := resumeRepeat (bundleAt k n) rc, readyAt := k.seq.cyc + 1 } }

theorem resumeCore_eq {s : State} {c : Nat} (hchain : (coreAt s c).chain = []) (hdef : (coreAt s c).deferred = []) :
    resumeCore s c = modArr (modCore (modEdge (modCtl (modMem s c (goOn (coreAt s c))) c fun x => { x with inh := false, repcnt := 0 })
      c withoutFailed) c (backAt (coreAt s c).ctl.trappc.toNat (coreAt s c).ctl.repcnt.toNat)) c thawed := by
  unfold resumeCore
  simp only [hdef, firstFault, restartChans_unchained hchain]
  rw [dropFailed_unchained, thaw_unchained]
  · rfl
  · simp [hchain]
  · simp [hchain]

/-- R227: an unchained core with no fault pending resumes, and nothing else changes. -/
theorem resumeCore_unchained {s u : State} {c : Nat} {k : Core} (hu : CoreIs s u c k) (hchain : k.chain = []) (hdef : k.deferred = []) :
    ∃ j, CoreIs s (resumeCore u c) c j ∧ Resumed k j := by
  obtain rfl : coreAt u c = k := hu.1
  rw [resumeCore_eq hchain hdef]
  exact ⟨_, coreIs_modCore_of (coreIs_modCore_of (coreIs_modCore_of (coreIs_modCore_of (coreIs_modCore_of hu _) _) _) _) _,
    rfl, rfl, rfl, thawed_frozen _, rfl⟩

/-- R225: RESUME brings an unchained core back to TRAPPC. -/
theorem applyAnswer_resume {s : State} {c : Nat} (hchain : (coreAt s c).chain = []) (hdef : (coreAt s c).deferred = [])
    (himem : (coreAt s c).ctl.trappc.toNat < 16384) (hquota : (coreAt s c).ctl.trappc.toNat < (coreAt s c).imemQuota) :
    ∃ j, CoreIs s (applyAnswer s c true) c j ∧ Resumed (coreAt s c) j := by
  obtain ⟨j, hj, hres⟩ := resumeCore_unchained (coreIs_modCore s c fun k => { k with answer := none }) hchain hdef
  refine ⟨j, ?_, hres⟩
  simpa [applyAnswer, returnFromTrap, inImem, himem, hquota] using hj

/-! ### Folop maps a page (R225, R243) -/

/-- What the mapping of a page may change: the memory system, the regions' counts, Folop's pool and its list of pages. -/
def Maps (s u : State) : Prop :=
  { u with
    sys := s.sys, sched := { u.sched with regions := s.sched.regions }
    pav := { u.pav with pool := s.pav.pool, maps := s.pav.maps } } = s

theorem Maps.refl (s : State) : Maps s s := rfl

theorem Maps.trans {s t u : State} (h : Maps s t) (k : Maps t u) : Maps s u := by
  unfold Maps at h k ⊢
  rw [← h, ← k]

theorem Maps.of_sysOnly {s t u : State} (h : Maps s t) (k : SysOnly t u) : Maps s u := by
  refine h.trans ?_
  unfold Maps
  rw [← k.1]

theorem agentRead_folopPlace (s : State) (a n : Nat) : SysOnly s (agentRead s (folopPlace a) n).1 := by
  unfold agentRead folopPlace
  simpa using dieRead_sysOnly (SysOnly.refl s) 4 (a / 128) false

theorem agentWrite_folopPlace (s : State) (a : Nat) (bs : List Byte) : SysOnly s (agentWrite s (folopPlace a) bs) := by
  unfold agentWrite folopPlace
  simpa using dieWrite_sysOnly (SysOnly.refl s) 4 (a / 128) _ _ false

theorem writeEntry_sysOnly (s : State) (a v : Nat) : SysOnly s (writeEntry s a v) := agentWrite_folopPlace s a _

theorem takePool_maps {s t : State} {n align a : Nat} (h : takePool s n align = some (t, a)) : Maps s t := by
  simp only [takePool] at h
  split at h
  · cases h; rfl
  · cases h

theorem tableBelow_maps {s t : State} {a n : Nat} (h : tableBelow s a = some (t, n)) : Maps s t := by
  have hread : Maps s (readEntry s a).1 := (Maps.refl s).of_sysOnly (agentRead_folopPlace s a 8)
  simp only [tableBelow] at h
  split at h
  · cases h; exact hread
  · split at h
    · cases h
    · split at h
      · cases h
      · next hpool =>
        cases h
        exact (hread.trans (takePool_maps hpool)).of_sysOnly (writeEntry_sysOnly _ _ _)

theorem leafTable_maps {va : Nat} {l : List (Nat × Nat)} {s t : State} {tbl n : Nat} (h : leafTable s va tbl l = some (t, n)) :
    Maps s t := by
  induction l generalizing s tbl with
  | nil => cases h; rfl
  | cons p l ih =>
    simp only [leafTable] at h
    split at h
    · cases h
    · next htable => exact (tableBelow_maps htable).trans (ih h)

theorem foldl_maps {α : Type} {f : State → α → State} (hf : ∀ s a, Maps s (f s a)) (l : List α) (s : State) : Maps s (l.foldl f s) := by
  induction l generalizing s with
  | nil => rfl
  | cons a l ih => exact (hf s a).trans (ih (f s a))

theorem putLeaf_maps {s t : State} {asid va size leaf : Nat} (h : putLeaf s asid va size leaf = some t) : Maps s t := by
  simp only [putLeaf] at h
  split at h
  · cases h
  · next htable =>
    cases h
    exact (leafTable_maps htable).trans (foldl_maps (fun s j => (Maps.refl s).of_sysOnly (writeEntry_sysOnly _ _ _)) _ _)

theorem chargeRegions_maps (s : State) (a : Nat) (f : Region → Region) : Maps s (chargeRegions s a f) := by
  refine foldl_maps (fun s b => ?_) _ s
  split
  · rfl
  · exact Maps.refl s

theorem mapPage_maps {s u : State} {m : Mapping} (h : mapPage s m = some u) : Maps s u := by
  simp only [mapPage] at h
  split at h
  · cases h
  · next t hleaf =>
    cases h
    refine ((putLeaf_maps hleaf).trans (chargeRegions_maps t m.region fun r => { r with mused := r.mused + m.size })).trans ?_
    unfold dropTlb
    split <;> rfl

theorem mapChecked_maps {s u : State} {m : Mapping} (h : mapChecked s m = some u) : Maps s u := by
  simp only [mapChecked] at h
  split at h
  · exact mapPage_maps h
  · cases h

/-- R225: Folop answers RESUME where the page is served, and only there. -/
theorem serviced_of_pageServed {s u : State} {f : FaultEv} (h : PageServed s u f) : serviced s f = some u ∧ Maps s u := by
  rcases h with ⟨⟨m, hm, hholds⟩, rfl⟩ | ⟨hmaps, m, hserve, hmap⟩
  · have hany : (u.pav.maps.any fun m => holdsFault f m) = true := List.any_eq_true.2 ⟨m, hm, hholds⟩
    exact ⟨by rw [serviced, if_pos hany], Maps.refl u⟩
  · have hany : (s.pav.maps.any fun m => holdsFault f m) = false := by
      rw [List.any_eq_false]
      exact fun m hm => by simp [hmaps m hm]
    refine ⟨?_, mapChecked_maps hmap⟩
    rw [serviced, hany, if_neg Bool.false_ne_true, hserve]
    exact hmap

theorem serviced_eq_none {s : State} {f : FaultEv} (hmaps : ∀ m ∈ s.pav.maps, holdsFault f m = false)
    (hserve : ∀ m ∈ s.pav.serve, holdsFault f m = false) : serviced s f = none := by
  have hany : (s.pav.maps.any fun m => holdsFault f m) = false := by
    rw [List.any_eq_false]
    exact fun m hm => by simp [hmaps m hm]
  have hfind : (s.pav.serve.find? fun m => holdsFault f m) = none := List.find?_eq_none.2 fun m hm => by simp [hserve m hm]
  rw [serviced, hany, if_neg Bool.false_ne_true, hfind]
  rfl

theorem exec_folopResume_none {s : State} {c : Nat} (h : faultOf s c = none) : exec (.folopResume c) s = .next s := by
  simp only [exec, execFolopResume, h]

theorem exec_folopEnd_none {s : State} {c : Nat} (h : faultOf s c = none) : exec (.folopEnd c) s = .next s := by
  simp only [exec, execFolopEnd, h]

theorem exec_folopEnd {s : State} {c : Nat} {f : FaultEv} (h : faultOf s c = some f) :
    exec (.folopEnd c) s = .next (answerFault s f false) := by
  simp only [exec, execFolopEnd, h]

theorem exec_folopResume {s u : State} {c : Nat} {f : FaultEv} (h : faultOf s c = some f) (hs : serviced s f = some u) :
    exec (.folopResume c) s = .next (answerFault u f true) := by
  simp only [exec, execFolopResume, h, hs]

theorem exec_folopResume_unserved {s : State} {c : Nat} {f : FaultEv} (h : faultOf s c = some f) (hs : serviced s f = none) :
    exec (.folopResume c) s = .next s := by
  simp only [exec, execFolopResume, h, hs]

/-! What a mapping keeps. -/

theorem Maps.coreAt {s u : State} (h : Maps s u) (c : Nat) : Machine.coreAt u c = Machine.coreAt s c := by
  rw [← h]; rfl
theorem Maps.liveHere {s u : State} (h : Maps s u) (t c : Nat) : Machine.liveHere u t c = Machine.liveHere s t c := by
  rw [← h]; rfl
theorem Maps.isHalted {s u : State} (h : Maps s u) (c : Nat) : Machine.isHalted u c = Machine.isHalted s c := by
  rw [← h]; rfl
theorem Maps.faults {s u : State} (h : Maps s u) : u.pav.faults = s.pav.faults := by
  rw [← h]

/-! ### Regions keep their tree and their fault domains while their counts change (R304, R305) -/

/-- What a fault domain is looked up by. -/
def domainKey (r : Region) : Nat × Half × Byte := (r.parent, r.ovr, r.flags)
def domainKeyAt (s : State) (a : Nat) : Option (Nat × Half × Byte) := (regionAt s a).map domainKey

/-- No region's parent, overrides or flags changed, and no region was added. -/
def RegionsKept (s u : State) : Prop := (∀ a, domainKeyAt u a = domainKeyAt s a) ∧ regionDepth u ≤ regionDepth s

theorem RegionsKept.of_regions {s u : State} (h : u.sched.regions = s.sched.regions) : RegionsKept s u :=
  ⟨fun a => by rw [domainKeyAt, domainKeyAt, regionAt, regionAt, h], by rw [regionDepth, regionDepth, h]⟩

theorem RegionsKept.trans {s t u : State} (h : RegionsKept s t) (k : RegionsKept t u) : RegionsKept s u :=
  ⟨fun a => (k.1 a).trans (h.1 a), k.2.trans h.2⟩

theorem effDomain_eq (s : State) (a : Nat) : effDomain s a =
    (((regionChain s (regionDepth s) a).filterMap (domainKeyAt s)).find? fun k => k.2.1.getLsbD 4).elim false fun k => k.2.2.getLsbD 0 := by
  have hkeys : (regionChain s (regionDepth s) a).filterMap (domainKeyAt s) =
      ((regionChain s (regionDepth s) a).filterMap (regionAt s)).map domainKey := by rw [List.map_filterMap]; rfl
  rw [hkeys, List.find?_map, effDomain, effective]
  cases h : ((regionChain s (regionDepth s) a).filterMap (regionAt s)).find? fun r => r.ovr.getLsbD 4 with
  | none =>
    have h' : ((regionChain s (regionDepth s) a).filterMap (regionAt s)).find?
      ((fun k : Nat × Half × Byte => k.2.1.getLsbD 4) ∘ domainKey) = none := h
    rw [h']; rfl
  | some r =>
    have h' : ((regionChain s (regionDepth s) a).filterMap (regionAt s)).find?
      ((fun k : Nat × Half × Byte => k.2.1.getLsbD 4) ∘ domainKey) = some r := h
    rw [h']; rfl

theorem regionChain_prefix {s u : State} (h : ∀ a, domainKeyAt u a = domainKeyAt s a) {n m : Nat} (hnm : n ≤ m) (a : Nat) :
    regionChain u n a <+: regionChain s m a := by
  induction n generalizing m a with
  | zero => exact List.nil_prefix
  | succ n ih =>
    obtain ⟨m, rfl⟩ : ∃ k, m = k + 1 := ⟨m - 1, by omega⟩
    have hkey := h a
    unfold domainKeyAt at hkey
    unfold regionChain
    cases hu : regionAt u a with
    | none => exact List.nil_prefix
    | some r =>
      rw [hu] at hkey
      obtain ⟨r', hs, hr⟩ := Option.map_eq_some_iff.1 hkey.symm
      have hparent : r'.parent = r.parent := congrArg Prod.fst hr
      rw [hs]
      dsimp only
      rw [hparent, List.cons_prefix_cons]
      refine ⟨rfl, ?_⟩
      split
      · exact List.nil_prefix
      · exact ih (by omega) _

/-- A region without a fault domain gets none. -/
theorem RegionsKept.effDomain {s u : State} (h : RegionsKept s u) {a : Nat} (hd : Machine.effDomain s a = false) :
    Machine.effDomain u a = false := by
  obtain ⟨hkeys, hdepth⟩ := h
  obtain ⟨l, hl⟩ := regionChain_prefix hkeys hdepth a
  rw [effDomain_eq, ← hl, List.filterMap_append, List.find?_append] at hd
  rw [effDomain_eq, funext hkeys]
  cases hf : ((regionChain u (regionDepth u) a).filterMap (domainKeyAt s)).find? fun k => k.2.1.getLsbD 4 with
  | none => rfl
  | some k => rwa [hf] at hd

theorem length_insert (k : Nat) {β : Type} (v : β) (t : Tab β) : (Tab.insert k v t).length = t.length + 1 := by
  induction t with
  | nil => rfl
  | cons p t ih =>
    unfold Tab.insert
    split
    · rfl
    · simp [ih]

theorem length_erase_le {β : Type} (k : Nat) (t : Tab β) : (Tab.erase k t).length ≤ t.length := by
  induction t with
  | nil => exact le_rfl
  | cons p t ih =>
    unfold Tab.erase
    split
    · simp; omega
    · simpa using ih

theorem length_erase_lt {β : Type} {k : Nat} {t : Tab β} {v : β} (h : Tab.look t k = some v) : (Tab.erase k t).length < t.length := by
  induction t with
  | nil => cases h
  | cons p t ih =>
    unfold Tab.erase
    split
    · have := length_erase_le k t
      simp; omega
    · next hne =>
      rw [Tab.look, if_neg hne] at h
      simpa using ih h

theorem setRegion_kept {s : State} {b : Nat} {r r' : Region} (h : regionAt s b = some r) (hkey : domainKey r' = domainKey r) :
    RegionsKept s (setRegion s b r') := by
  refine ⟨fun a => ?_, ?_⟩
  · have hlook : regionAt (setRegion s b r') a = if a = b then some r' else regionAt s a := Tab.look_put _ _ _ _
    rw [domainKeyAt, domainKeyAt, hlook]
    by_cases hab : a = b
    · subst hab
      rw [if_pos rfl, h]
      exact congrArg some hkey
    · rw [if_neg hab]
  · have hlen : regionDepth (setRegion s b r') = (Tab.erase b s.sched.regions).length + 1 := length_insert _ _ _
    rw [hlen]
    exact length_erase_lt h

theorem chargeRegions_kept (s : State) (a : Nat) {f : Region → Region} (hf : ∀ r, domainKey (f r) = domainKey r) :
    RegionsKept s (chargeRegions s a f) := by
  unfold chargeRegions
  generalize regionChain s (regionDepth s) a = l
  induction l generalizing s with
  | nil => exact .of_regions rfl
  | cons b l ih =>
    refine RegionsKept.trans ?_ (ih _)
    dsimp only
    split
    · next r h => exact setRegion_kept h (hf r)
    · exact .of_regions rfl

/-! ### The end of the task of a team on one core (R224, R303) -/

/-- Team t, as x says, runs on core c alone: no queue, no generator, no fault domain, and the core is unchained and live. -/
structure OnCoreAlone (s : State) (c t : Nat) (x : Team) : Prop where
  team : teamAt s t = some x
  running : x.state = .running
  place : x.place = [c]
  ring : x.qlen = 0
  front : x.front = []
  gen : x.gen = none
  domain : effDomain s x.region = false
  live : liveHere s t c = true
  chain : (coreAt s c).chain = []
  localq : (coreAt s c).localq = []

theorem onCoreAlone_of_loneTask {s : State} {c : Nat} {k : Task} {x : Team} (h : LoneTask s c k x) : OnCoreAlone s c k.team x := by
  obtain ⟨-, -, hchain, hteam, hstate, hplace, hqlen, hfront, hlocal, hgen, hdom, hlive⟩ := h
  exact ⟨hteam, hstate, hplace, hqlen, hfront, hgen, hdom, hlive, hchain, hlocal⟩

/-- It goes on so while only its status and pushes, the core's other fields and the regions' counts change. -/
theorem OnCoreAlone.next {s u : State} {c t : Nat} {x y : Team} (h : OnCoreAlone s c t x) (hteam : teamAt u t = some y)
    (hsame : { y with pushes := x.pushes, status := x.status } = x) (hsaved : u.sched.saved = s.sched.saved)
    (hregions : RegionsKept s u) (hchain : (coreAt u c).chain = (coreAt s c).chain) (hlocal : (coreAt u c).localq = (coreAt s c).localq)
    (hpart : (coreAt u c).part = (coreAt s c).part) : OnCoreAlone u c t y := by
  obtain ⟨hx, hstate, hplace, hqlen, hfront, hgen, hdom, hlive, hch, hlq⟩ := h
  have hypart : y.part = x.part := by rw [← hsame]
  have hyregion : y.region = x.region := by rw [← hsame]
  refine ⟨hteam, by rw [← hstate, ← hsame], by rw [← hplace, ← hsame], by rw [← hqlen, ← hsame], by rw [← hfront, ← hsame],
    by rw [← hgen, ← hsame], by rw [hyregion]; exact hregions.effDomain hdom, ?_, hchain.trans hch, hlocal.trans hlq⟩
  rw [← hlive, liveHere, liveHere, hsaved, hteam, hx, hpart]
  simp only [hypart]

theorem OnCoreAlone.of_modCore {s : State} {c t : Nat} {x : Team} (h : OnCoreAlone s c t x) {f : Core → Core}
    (hchain : (f (coreAt s c)).chain = (coreAt s c).chain) (hlocal : (f (coreAt s c)).localq = (coreAt s c).localq)
    (hpart : (f (coreAt s c)).part = (coreAt s c).part) : OnCoreAlone (modCore s c f) c t x :=
  h.next h.team rfl rfl (.of_regions rfl) (by rw [coreAt_modCore_same, hchain]) (by rw [coreAt_modCore_same, hlocal])
    (by rw [coreAt_modCore_same, hpart])

theorem teamAt_modTeam {s : State} {t : Nat} {x : Team} (h : teamAt s t = some x) (f : Team → Team) :
    teamAt (modTeam s t f) t = some (f x) := by
  unfold modTeam
  rw [h]
  exact Tab.look_put_same _ _ _

@[simp] theorem coreAt_modTeam (s : State) (t : Nat) (f : Team → Team) (c : Nat) : coreAt (modTeam s t f) c = coreAt s c := by
  unfold modTeam
  split <;> rfl
@[simp] theorem modTeam_pav (s : State) (t : Nat) (f : Team → Team) : (modTeam s t f).pav = s.pav := by
  unfold modTeam
  split <;> rfl
@[simp] theorem modTeam_saved (s : State) (t : Nat) (f : Team → Team) : (modTeam s t f).sched.saved = s.sched.saved := by
  unfold modTeam
  split <;> rfl
@[simp] theorem modTeam_regions (s : State) (t : Nat) (f : Team → Team) : (modTeam s t f).sched.regions = s.sched.regions := by
  unfold modTeam
  split <;> rfl

theorem OnCoreAlone.of_modTeam {s : State} {c t : Nat} {x : Team} (h : OnCoreAlone s c t x) {f : Team → Team}
    (hsame : { f x with pushes := x.pushes, status := x.status } = x) : OnCoreAlone (modTeam s t f) c t (f x) :=
  h.next (teamAt_modTeam h.team f) hsame (modTeam_saved s t f) (.of_regions (modTeam_regions s t f)) (by rw [coreAt_modTeam])
    (by rw [coreAt_modTeam]) (by rw [coreAt_modTeam])

/-! What the memory path changes leaves the scheduler and the fault events alone. -/

theorem sched_of_moves {c : Nat} {s u : State} (h : Moves c s u) : u.sched = s.sched := by
  obtain ⟨-, -, hrest, -⟩ := h
  exact (congrArg State.sched hrest :)

theorem faults_of_moves {c : Nat} {s u : State} (h : Moves c s u) : u.pav.faults = s.pav.faults := by
  obtain ⟨-, -, hrest, -⟩ := h
  exact (congrArg (fun u : State => u.pav.faults) hrest :)

theorem OnCoreAlone.of_moves {s u : State} {c t : Nat} {x : Team} (h : OnCoreAlone s c t x) (hm : Moves c s u) :
    OnCoreAlone u c t x := by
  have hsched := sched_of_moves hm
  obtain ⟨-, hcore, -, -⟩ := hm
  refine h.next ?_ rfl (by rw [hsched]) (.of_regions (by rw [hsched])) (congrArg Core.chain hcore :) (congrArg Core.localq hcore :)
    (congrArg Core.part hcore :)
  rw [teamAt, hsched]
  exact h.team

/-- The core with its frozen state discarded (R224). -/
def discarded (k : Core) : Core :=
  { k with arr := discardArr k.arr, edge := dropOwed (disarmAll k.edge), deferred := k.deferred.filter (keepsFault k) }

theorem discardFrozen_unchained {s : State} {c : Nat} (h : (coreAt s c).chain = []) : discardFrozen s c = modCore s c discarded := by
  rw [discardFrozen, positions_unchained h]
  rfl

/-- The core without its task. -/
def idled (k : Core) : Core :=
  { k with
    run := .idle, task := none, joinw := [], fences := [], soft := none, answer := none, rjq := k.rjq.map refuseAnswer
    seq := { k.seq with pend := [], unchk := [], repK := 0 }, ctl := { k.ctl with inh := false } }

@[simp] theorem idled_run (k : Core) : (idled k).run = .idle := rfl
@[simp] theorem idled_task (k : Core) : (idled k).task = none := rfl
@[simp] theorem idled_chain (k : Core) : (idled k).chain = k.chain := rfl
@[simp] theorem idled_localq (k : Core) : (idled k).localq = k.localq := rfl
@[simp] theorem idled_part (k : Core) : (idled k).part = k.part := rfl

theorem makeIdle_unchained {s : State} {c : Nat} (h : (coreAt s c).chain = []) : makeIdle s c = modCore s c idled := by
  rw [makeIdle, positions_unchained h]
  rfl

/-! A kill of such a team whose core has no task any more. -/

theorem killCore_of_no_task {s : State} {c t : Nat} (hlive : liveHere s t c = true) (htask : (coreAt s c).task = none) (e : TaskEnd) :
    killCore s t c e = s := by
  simp [killCore, hlive, htask]

theorem genOf_eq_none {s : State} {t : Nat} {x : Team} (h : teamAt s t = some x) (hgen : x.gen = none) : genOf s t = none := by
  simp only [genOf, h, hgen]

theorem poisonAll_of_no_gen {s : State} {t : Nat} {x : Team} (h : teamAt s t = some x) (hgen : x.gen = none) : poisonAll s t = s := by
  have hmarks : serveMarks s t (fun _ => true) = s := by simp only [serveMarks, genOf_eq_none h hgen]
  simp only [poisonAll, hmarks, h, Option.bind_some, hgen]

theorem coreAt_chargeRegions (s : State) (a : Nat) (f : Region → Region) (c : Nat) : coreAt (chargeRegions s a f) c = coreAt s c :=
  (chargeRegions_maps s a f).coreAt c

/-- The core and its team, and what else a kill looks at, while copies come to their end. -/
theorem OnCoreAlone.copyEnds {c t : Nat} {x : Team} (l : List Nat) {s : State} (h : OnCoreAlone s c t x) :
    OnCoreAlone (l.foldl Machine.copyEnds s) c t x ∧ coreAt (l.foldl Machine.copyEnds s) c = coreAt s c ∧
      (l.foldl Machine.copyEnds s).pav.faults = s.pav.faults := by
  induction l generalizing s with
  | nil => exact ⟨h, rfl, rfl⟩
  | cons a l ih =>
    have hm : Maps s (Machine.copyEnds s a) := chargeRegions_maps s a _
    have hk : RegionsKept s (Machine.copyEnds s a) := chargeRegions_kept s a fun _ => rfl
    have hcore := hm.coreAt c
    have hnext : OnCoreAlone (Machine.copyEnds s a) c t x :=
      h.next ((congrArg (fun u : State => teamAt u t) hm :).trans h.team) rfl (congrArg (fun u : State => u.sched.saved) hm :) hk
        (by rw [hcore]) (by rw [hcore]) (by rw [hcore])
    obtain ⟨h1, h2, h3⟩ := ih hnext
    exact ⟨h1, h2.trans hcore, h3.trans hm.faults⟩

theorem dropStopped_alone {s : State} {c t : Nat} {x : Team} (h : OnCoreAlone s c t x) :
    OnCoreAlone (dropStopped s c) c t x ∧ (coreAt (dropStopped s c) c).task = (coreAt s c).task ∧
      (coreAt (dropStopped s c) c).run = (coreAt s c).run ∧ (dropStopped s c).pav.faults = s.pav.faults := by
  have hmem : OnCoreAlone (modMem s c fun m => { m with chans := m.chans.filter fun p => !p.2.stopped }) c t x := h.of_modCore rfl rfl rfl
  obtain ⟨hal, hcore, hfaults⟩ := hmem.copyEnds (((coreAt s c).mem.chans.filter fun p => p.2.stopped).flatMap fun p => chanRegions p.2)
  rw [coreAt_modMem_same] at hcore
  exact ⟨hal, (congrArg Core.task hcore :), (congrArg Core.run hcore :), hfaults⟩

/-- The core after a kill has gone through its records in place (R303). -/
def clearedCore (k : Core) : Core := { k with localq := [], deferred := [], yield_ := .no, arr := { k.arr with frozen := false } }

theorem killLocal_of_empty {s : State} {c : Nat} (t : Nat) (h : (coreAt s c).localq = []) (e : TaskEnd) :
    killLocal s t c e = modCore s c clearedCore := by
  rw [killLocal, h]
  rfl

theorem killQueue_of_empty (s : State) (t : Nat) (e : TaskEnd) : killQueue s t e 0 = s := rfl

/-- R303: of a team whose one core is idle a kill leaves the status, no generator, and no fault domain to be called. -/
theorem killTeam_alone {s : State} {c t : Nat} {x : Team} (h : OnCoreAlone s c t x) (htask : (coreAt s c).task = none)
    (hrun : (coreAt s c).run = .idle) (status : Nat) (e : TaskEnd) :
    (coreAt (killTeam s t status e) c).task = none ∧ (coreAt (killTeam s t status e) c).run = .idle ∧
      (killTeam s t status e).pav.faults = s.pav.faults ∧ effDomain (killTeam s t status e) x.region = false ∧
      ∃ y, teamAt (killTeam s t status e) t = some y ∧ y.status = max x.status status ∧ y.gen = none := by
  have hqueue : queueLen x = 0 := by rw [queueLen, h.front, h.ring]; rfl
  obtain ⟨hal, hdtask, hdrun, hdfaults⟩ := dropStopped_alone (h.of_modCore (f := clearedCore) rfl h.localq.symm rfl)
  rw [coreAt_modCore_same] at hdtask hdrun
  have hkill : killTeam s t status e = modTeam (dropStopped (modCore s c clearedCore) c) t fun y => { y with
      status := max y.status status, gen := none, hasSaved := false, pushes := []
      releaseAt := none, state := if y.state == .waiting then .ended else .running } := by
    simp [killTeam, h.team, h.running, h.place, killCore_of_no_task h.live htask, hqueue, killQueue_of_empty, h.live,
      killLocal_of_empty t h.localq, poisonAll_of_no_gen hal.team h.gen]
  rw [hkill]
  refine ⟨?_, ?_, ?_, ?_, _, teamAt_modTeam hal.team _, rfl, rfl⟩
  · rw [coreAt_modTeam, hdtask]
    exact htask
  · rw [coreAt_modTeam, hdrun]
    exact hrun
  · rw [modTeam_pav]
    exact hdfaults
  · exact (RegionsKept.of_regions (modTeam_regions _ _ _)).effDomain hal.domain

/-- R303: the fault domain of such a team is called. -/
theorem callDomain_alone {s : State} {c t : Nat} {x : Team} (h : OnCoreAlone s c t x) (htask : (coreAt s c).task = none)
    (hrun : (coreAt s c).run = .idle) : EndedFaulted (callDomain s t) c t ∧ (callDomain s t).pav.faults = s.pav.faults := by
  obtain ⟨hktask, hkrun, hkfaults, hkdom, y, hy, hystatus, hygen⟩ :=
    killTeam_alone (h.of_modTeam (f := fun y => { y with status := 1 }) rfl) (by rw [coreAt_modTeam]; exact htask)
      (by rw [coreAt_modTeam]; exact hrun) 1 (.killed false true)
  have hcall : callDomain s t = killTeam (modTeam s t fun y => { y with status := 1 }) t 1 (.killed false true) := by
    simp only [callDomain, h.team]
    rw [if_neg (by rw [hkdom]; exact Bool.false_ne_true)]
  rw [hcall]
  exact ⟨⟨hktask, hkrun, y, hy, hystatus, hygen⟩, hkfaults.trans (by rw [modTeam_pav])⟩

theorem team_without_gen {x : Team} (h : x.gen = none) (f : Gen → Gen) : { x with gen := x.gen.map f } = x := by
  obtain ⟨img, asid, part, region, pkt, args, state, place, rcptr, qhead, qlen, front, pushes, popped, gen⟩ := x
  cases h
  rfl

theorem OnCoreAlone.of_modGen {s : State} {c t : Nat} {x : Team} (h : OnCoreAlone s c t x) (f : Gen → Gen) :
    OnCoreAlone (modGen s t f) c t x := by
  have hx := team_without_gen h.gen f
  have hmod := h.of_modTeam (f := fun x => { x with gen := x.gen.map f }) (by dsimp only; rw [hx])
  rwa [hx] at hmod

theorem OnCoreAlone.withdrawn {s : State} {c t : Nat} {x : Team} (h : OnCoreAlone s c t x) (l : Nat) :
    OnCoreAlone (withdraw s t l) c t x := h.of_modGen _

theorem OnCoreAlone.forgotten {s : State} {c t : Nat} {x : Team} (h : OnCoreAlone s c t x) (l : Nat) :
    ∃ y, OnCoreAlone (forgetPushes s t l) c t y := by
  unfold forgetPushes
  exact ⟨_, h.of_modTeam rfl⟩

/-- R224, R303: the task of such a team ends as faulted, unless it was 0x18 that ended it. -/
theorem faultTask_alone {s : State} {c : Nat} {k : Task} {x : Team} (halone : OnCoreAlone s c k.team x)
    (htask : (coreAt s c).task = some k) (hjoin : k.join = 0) {cause : Nat} (hcause : cause ≠ 0x18) :
    EndedFaulted (faultTask s c cause) c k.team ∧ (faultTask s c cause).pav.faults = s.pav.faults := by
  have hdis := halone.of_modCore (f := discarded) rfl rfl rfl
  have hmoves := release_moves (Moves.refl c (modCore s c discarded)) 4
  obtain ⟨y, hleft⟩ := ((hdis.of_moves hmoves).withdrawn k.lcore).forgotten k.lcore
  have hfault : faultTask s c cause =
      callDomain (modCore (forgetPushes (withdraw (release (modCore s c discarded) c 4) k.team k.lcore) k.team k.lcore) c idled) k.team := by
    simp [faultTask, htask, hcause, joinEnd, hjoin, makeIdle_unchained hleft.chain, discardFrozen_unchained halone.chain]
  rw [hfault]
  obtain ⟨hended, hfaults⟩ := callDomain_alone (hleft.of_modCore (idled_chain _) (idled_localq _) (idled_part _))
    (by rw [coreAt_modCore_same, idled_task]) (by rw [coreAt_modCore_same, idled_run])
  refine ⟨hended, hfaults.trans ?_⟩
  rw [modCore_pav, forgetPushes, modTeam_pav, withdraw, modGen, modTeam_pav, faults_of_moves hmoves, modCore_pav]

/-! ### The clauses -/

theorem trapEntry_nothing {s : State} {c : Nat} (h : (coreAt s c).run ≠ .running ∨
    (coreAt s c).soft = none ∧ ((coreAt s c).ctl.inh = true ∨ boundaryFaults s c = []) ∨
    (coreAt s c).seq.cyc < (coreAt s c).seq.readyAt ∨ isHalted s c = true) : exec (.trapEntry c) s = .next s := by
  rw [exec_trapEntry]
  by_cases hrun : (coreAt s c).run = .running
  · rcases h.resolve_left (absurd hrun) with ⟨hsoft, hfault⟩ | hcyc | hhalt
    · rw [boundaryTrap_eq_none hsoft hfault, Option.getD_none, ite_self]
    · simp [atBoundary, hrun, hcyc]
    · simp [hhalt]
  · rw [boundaryTrap_of_not_running hrun, Option.getD_none, ite_self]

/-- R221, R223: at its boundary a core takes the only fault that is pending. -/
theorem trapEntry_fault {s : State} {c : Nat} {d : Deferred} (hinh : (coreAt s c).ctl.inh = false) (hrun : (coreAt s c).run = .running)
    (hsoft : (coreAt s c).soft = none) (hchain : (coreAt s c).chain = []) (hf : boundaryFaults s c = [d])
    (hfences : (coreAt s c).fences = []) (hpend : (coreAt s c).seq.pend = []) (hmem : (coreAt s c).mem.pend = [])
    (htvec : (coreAt s c).ctl.tvec ≠ 0) (hready : (coreAt s c).seq.readyAt ≤ (coreAt s c).seq.cyc) (hhalt : isHalted s c = false) :
    ∃ t, exec (.trapEntry c) s = .next t ∧ CoreIs s t c { coreAt s c with
      deferred := []
      arr := { (coreAt s c).arr with frozen := true }
      ctl := trapRegs (coreAt s c).ctl d.cause (coreAt s c).seq.pc d.info (some d.wavetag) (repLeft (coreAt s c))
      seq := { (coreAt s c).seq with
        pc := (coreAt s c).ctl.tvec.toNat, npc := (coreAt s c).ctl.tvec.toNat, repK := 0, readyAt := (coreAt s c).seq.cyc + 2 } } := by
  have hboundary : (atBoundary (coreAt s c) && !isHalted s c) = true := by simp [atBoundary, hready, hhalt]
  rw [exec_trapEntry, if_pos hboundary, boundaryTrap_fault hrun hsoft hinh hf]
  exact ⟨_, rfl, takeTrap_coreIs (coreIs_modCore s c fun k => { k with deferred := [] }) hinh hpend hmem hfences hchain htvec _ _ _ _ _ _⟩

/-- R225: RESUME to a core that waits and lives. -/
theorem folopResume_live {s u : State} {c : Nat} {f : FaultEv} (hfault : faultOf s c = some f) (hserved : PageServed s u f)
    (hlive : liveHere s f.team c = true) (hhalt : isHalted s c = false) (hrun : (coreAt s c).run = .waitFolop)
    (hchain : (coreAt s c).chain = []) (hdef : (coreAt s c).deferred = []) (himem : (coreAt s c).ctl.trappc.toNat < 16384)
    (hquota : (coreAt s c).ctl.trappc.toNat < (coreAt s c).imemQuota) :
    ∃ t, exec (.folopResume c) s = .next t ∧ Resumed (coreAt s c) (coreAt t c) ∧ t.sys = u.sys ∧ t.pav.faults = s.pav.faults.erase f := by
  obtain ⟨hs, hmaps⟩ := serviced_of_pageServed hserved
  have hcore : coreAt (withoutFault u f) c = coreAt s c := hmaps.coreAt c
  obtain ⟨j, ⟨hj, -, hrest⟩, hres⟩ := applyAnswer_resume (s := withoutFault u f) (c := c) (by rw [hcore]; exact hchain)
    (by rw [hcore]; exact hdef) (by rw [hcore]; exact himem) (by rw [hcore]; exact hquota)
  rw [hcore] at hres
  refine ⟨_, exec_folopResume hfault hs, ?_⟩
  rw [answerFault_live (core_of_faultOf hfault) (by rw [hmaps.liveHere]; exact hlive) (by rw [hmaps.isHalted]; exact hhalt)
    (by rw [hmaps.coreAt]; exact hrun), hj]
  refine ⟨hres, (congrArg State.sys hrest :), ?_⟩
  rw [← hmaps.faults]
  exact (congrArg (fun u : State => u.pav.faults) hrest :)

/-- R224, R225: END to a core that waits and lives ends its task. -/
theorem folopEnd_live {s : State} {c : Nat} {f : FaultEv} {k : Task} {x : Team} (hfault : faultOf s c = some f) (hteam : f.team = k.team)
    (h : LoneTask s c k x) (hhalt : isHalted s c = false) (hrun : (coreAt s c).run = .waitFolop) (hcause : (coreAt s c).ctl.cause ≠ 0x18) :
    ∃ t, exec (.folopEnd c) s = .next t ∧ EndedFaulted t c k.team ∧ t.pav.faults = s.pav.faults.erase f := by
  have halone := onCoreAlone_of_loneTask h
  obtain ⟨htask, hjoin, -⟩ := h
  have hwithout : OnCoreAlone (withoutFault s f) c k.team x := halone.next halone.team rfl rfl (.of_regions rfl) rfl rfl rfl
  refine ⟨_, exec_folopEnd hfault, ?_⟩
  rw [answerFault_live (core_of_faultOf hfault) (by rw [hteam]; exact halone.live) hhalt hrun]
  refine faultTask_alone (hwithout.of_modCore (f := fun k => { k with answer := none }) rfl rfl rfl) ?_ hjoin ?_
  · rw [coreAt_modCore_same]
    exact htask
  · rw [coreAt_modCore_same]
    exact fun e => hcause (BitVec.eq_of_toNat_eq e)

/-- R224: RETIRE inside a handler ends the task as faulted. -/
theorem retire_in_handler {s : State} {k : Task} {x : Team} (hinh : (coreAt s s.me).ctl.inh = true) (h : LoneTask s s.me k x) :
    ∃ t, exec .retire s = .next t ∧ EndedFaulted t s.me k.team := by
  have hexec : exec .retire s = .next (faultTask s s.me 0) := if_pos hinh
  obtain ⟨htask, hjoin, -⟩ := id h
  exact ⟨_, hexec, (faultTask_alone (onCoreAlone_of_loneTask h) htask hjoin (by decide)).1⟩

/-- Settles O47: the boundary takes the first pending fault through the trap rule; an answer of Folop acts on a live core, by the resume
rule or the end of the task, and else waits in the context. -/
theorem faultsAndFolopsAnswers : Obligations.FaultsAndFolopsAnswers := by
  unfold Obligations.FaultsAndFolopsAnswers
  refine ⟨fun s c => trapEntry_nothing, fun s c => ⟨fun h => by rw [boundaryFaults_eq, h]; simp, fun p e kind line h => ?_⟩,
    fun s c d hinh hrun hsoft hchain hf hfences hpend hmem htvec hready hhalt =>
      trapEntry_fault hinh hrun hsoft hchain hf hfences hpend hmem htvec hready hhalt,
    fun d e h => ?_, fun s c f hf hmaps hserve => exec_folopResume_unserved hf (serviced_eq_none hmaps hserve),
    fun s u c f hf hserved hlive hhalt hrun hchain hdef himem hquota => ?_,
    fun s c h => ⟨exec_folopResume_none h, exec_folopEnd_none h⟩,
    fun s c f k tm hf hteam hlone hhalt hrun hcause => folopEnd_live hf hteam hlone hhalt hrun hcause,
    fun s u c f hf hkept hrun => ⟨fun hserved hurun => ?_, ?_⟩, fun s k tm hinh hlone => retire_in_handler hinh hlone⟩
  · rw [boundaryFaults_eq, h]
    rfl
  · obtain ⟨hde, hed⟩ := faultBefore_asymm h
    simp [firstFault_pair, hde, hed]
  · obtain ⟨t, ht, ⟨hrun', hpc, hctl, hfrozen, hg⟩, hsys, hfaults⟩ :=
      folopResume_live hf hserved hlive hhalt hrun hchain hdef himem hquota
    exact ⟨t, ht, hrun', hpc, hctl, hfrozen, hg, hsys, hfaults⟩
  · obtain ⟨hs, hmaps⟩ := serviced_of_pageServed hserved
    exact ⟨_, exec_folopResume hf hs,
      answerFault_kept (core_of_faultOf hf) (by rwa [hmaps.isHalted, hmaps.liveHere]) hurun true⟩
  · exact ⟨_, exec_folopEnd hf, answerFault_kept (core_of_faultOf hf) hkept hrun false⟩
end Sys2Proof.Proofs

/-! PROOFS. O36: the loader's reads of lines, the elements and the sidecar of a fetched position, the feed fetch, the bits that a captured
position brings to its lines, the drain write. -/

namespace Sys2Proof.Proofs
open Sys2Proof Sys2Proof.Machine Sys2Proof.Claims

/-! ### Bytes of lists, lines and memory (R4) -/

theorem natBytes_eq_map (n v : Nat) : natBytes n v = (List.range n).map fun i => BitVec.ofNat 8 (v / 256 ^ i) := by
  induction n generalizing v with
  | zero => rfl
  | succ n ih =>
    rw [natBytes, ih, List.range_succ_eq_map, List.map_cons, List.map_map]
    simp [Function.comp_def, Nat.div_div_eq_div_mul, Nat.pow_succ, Nat.mul_comm]

theorem memRead_eq_map (m : List Host.Cell) (pa n : Nat) : memRead m pa n = (List.range n).map fun i => memByte m (pa + i) := by
  induction n generalizing pa with
  | zero => rfl
  | succ n ih =>
    rw [memRead, ih, List.range_succ_eq_map, List.map_cons, List.map_map]
    simp [Function.comp_def, Nat.add_assoc, Nat.add_comm 1]

/-- The bytes of a value, by their place. -/
theorem ofNat_bytesNat_div (bs : List Byte) (i : Nat) : BitVec.ofNat 8 (bytesNat bs / 256 ^ i) = bs.getD i 0 := by
  induction bs generalizing i with
  | nil => simp [bytesNat]
  | cons b t ih =>
    cases i with
    | zero =>
      apply BitVec.eq_of_toNat_eq
      have hb := b.isLt
      simp [bytesNat, Nat.add_mod]
      omega
    | succ i =>
      have hb := b.isLt
      rw [bytesNat, Nat.pow_succ', ← Nat.div_div_eq_div_mul, List.getD_cons_succ, ← ih]
      congr 2
      omega

theorem bytesNat_lt (bs : List Byte) : bytesNat bs < 2 ^ (8 * bs.length) := by
  induction bs with
  | nil => simp [bytesNat]
  | cons b t ih =>
    have hb := b.isLt
    rw [bytesNat, List.length_cons, Nat.mul_succ, Nat.pow_add]
    omega

theorem bytesNat_lt_of_le {bs : List Byte} {n : Nat} (h : 8 * bs.length ≤ n) : bytesNat bs < 2 ^ n :=
  (bytesNat_lt bs).trans_le (Nat.pow_le_pow_right (by decide) h)

theorem toNat_ofNat_of_lt {w n : Nat} (h : n < 2 ^ w) : (BitVec.ofNat w n).toNat = n := by
  rw [BitVec.toNat_ofNat, Nat.mod_eq_of_lt h]

theorem lineByte_eq_ofNat (d : LineData) (i : Nat) : lineByte d i = BitVec.ofNat 8 (d.toNat / 256 ^ i) := by
  apply BitVec.eq_of_toNat_eq
  have hpow : 2 ^ (8 * i) = 256 ^ i := by rw [Nat.pow_mul]
  simp [lineByte, BitVec.extractLsb'_toNat, Nat.shiftRight_eq_div_pow, hpow]

theorem lineBytes_eq_map (d : LineData) (off n : Nat) : lineBytes d off n = (List.range n).map fun i => lineByte d (off + i) := by
  rw [lineBytes, natBytes_eq_map]
  refine List.map_congr_left fun i _ => ?_
  rw [lineByte_eq_ofNat, Nat.div_div_eq_div_mul, ← Nat.pow_add]

/-- Byte i of a line that is made of a list of bytes. -/
theorem lineByte_ofNat_bytesNat {bs : List Byte} (h : bs.length ≤ 128) (i : Nat) :
    lineByte (BitVec.ofNat 1024 (bytesNat bs)) i = bs.getD i 0 := by
  rw [lineByte_eq_ofNat, toNat_ofNat_of_lt (bytesNat_lt_of_le (by omega)), ofNat_bytesNat_div]

/-! ### Reads of lines (R211, R262, R370) -/

theorem singleRead_length (s : State) (x : Xl) (n : Nat) : (singleRead s x n).2.length = n := by
  unfold singleRead
  split
  · simp
  · split
    · simp
    · simp [memRead_eq_map]

theorem clusterRead_length (s : State) (c : Nat) (x : Xl) (n : Nat) : (clusterRead s c x n).2.length = n := by
  unfold clusterRead
  split
  · exact singleRead_length s x n
  · simp [lineBytes_eq_map]

/-- The read waits: a full bit is clear, or the scratchpad stands. -/
def ReadWaits (u : State) (x : Xl) : Prop := (x.home = 1 ∧ fullBit u (x.pa / 128) = false) ∨ scratchStands u x.pa = true

theorem loaderRead_ok {s u : State} {c va : Nat} {x : Xl} (h : loaderTranslate s c va false = (u, .ok x)) (buf : LineBuf) (n : Nat) :
    (ReadWaits u x → loaderRead s buf c va n = (u, buf, .wait)) ∧
    (¬ ReadWaits u x → loaderRead s buf c va n =
      ((bufRead u buf c x n).1, (bufRead u buf c x n).2.1, .ok (bufRead u buf c x n).2.2)) := by
  have hwaits : ((x.home = 1 && !fullBit u (x.pa / 128)) || scratchStands u x.pa) = true ↔ ReadWaits u x := by
    simp [ReadWaits]
  refine ⟨fun hw => ?_, fun hw => ?_⟩
  · simp only [loaderRead, h, if_pos (hwaits.2 hw)]
  · simp only [loaderRead, h, if_neg (hwaits.not.2 hw)]

theorem bufRead_held {buf : LineBuf} {x : Xl} {d : LineData} (u : State) (c n : Nat)
    (h : (buf.find? fun l => l.1 == x.pa / 128) = some (x.pa / 128, d)) :
    bufRead u buf c x n = (u, buf, bytesNat ((List.range n).map fun i => lineByte d (x.pa % 128 + i))) := by
  simp only [bufRead, h, lineBytes_eq_map]

/-- The line that a read of its bytes gives. -/
def lineRead (u : State) (c : Nat) (x : Xl) : LineData :=
  BitVec.ofNat 1024 (bytesNat (clusterRead u c { x with pa := 128 * (x.pa / 128) } 128).2)

theorem bufRead_new {buf : LineBuf} {x : Xl} (u : State) (c n : Nat) (h : (buf.find? fun l => l.1 == x.pa / 128) = none) :
    bufRead u buf c x n = ((clusterRead u c { x with pa := 128 * (x.pa / 128) } 128).1, (x.pa / 128, lineRead u c x) :: buf,
      bytesNat ((List.range n).map fun i => lineByte (lineRead u c x) (x.pa % 128 + i))) := by
  simp only [bufRead, h, lineBytes_eq_map, lineRead, Nat.mul_comm]

theorem linesAreReadOnce : LinesAreReadOnce := by
  intro s u buf c va n x hx _
  obtain ⟨hwait, hread⟩ := loaderRead_ok hx buf n
  refine ⟨hwait, fun hw => ⟨fun d hd => ?_, fun hnone v bs hbs => ⟨lineRead u c x, ?_, fun i hi => ?_⟩⟩⟩
  · rw [hread hw, bufRead_held u c n hd]
  · rw [hread hw, bufRead_new u c n hnone, hbs]
  · have hlen : bs.length = 128 := by rw [← clusterRead_length u c { x with pa := 128 * (x.pa / 128) } 128, hbs]
    have hline : lineRead u c x = BitVec.ofNat 1024 (bytesNat bs) := by rw [lineRead, hbs]
    rw [hline, lineByte_ofNat_bytesNat hlen.le, List.getElem?_eq_getElem (by omega), List.getD_eq_getElem _ _ (by omega)]

/-! ### Where an element of a step stands (R136, R137, R142) -/

theorem strided_cast (base : Nat) (ds : List Nat) (str : Nat → Int) (ix : List Nat) :
    ((strided base ds str ix : Nat) : Int) = ((base : Int) + (ds.map fun d => (ix.getD d 0 : Int) * str d).sum) % 2 ^ 64 := by
  unfold strided
  omega

/-- The step is padding throughout: it lies behind the last tap (R142). -/
def behindTaps (b : Binding) (q : Nat) : Prop := b.unfold = true ∧ recCb b.recd * recTap b.recd 0 * recTap b.recd 1 ≤ q

theorem elemIndex_of_behind {b : Binding} {q : Nat} (h : behindTaps b q) (e l : Nat) :
    elemIndex b q e l = none ∧ elementIndices b q e l = [-1, -1, -1, -1, -1] := by
  obtain ⟨hu, hq⟩ := h
  simp [elemIndex, elementIndices, hu, hq]

theorem elemIndex_of_not_behind {b : Binding} {q : Nat} (h : ¬ behindTaps b q) (e l : Nat) :
    elemIndex b q e l = some (elementIndices b q e l) := by
  unfold behindTaps at h
  cases hu : b.unfold with
  | true =>
    have hq : ¬ recCb b.recd * recTap b.recd 0 * recTap b.recd 1 ≤ q := fun hq => h ⟨hu, hq⟩
    simp only [elemIndex, elementIndices, hu, if_true, if_neg hq]
    rfl
  | false =>
    cases hc : b.column <;> simp [elemIndex, elementIndices, hu, hc]

theorem storedIndex_eq_stored (b : Binding) (q e l : Nat) : storedIndex b q e l = stored b q e l := by
  by_cases h : behindTaps b q
  · obtain ⟨hnone, hix⟩ := elemIndex_of_behind h e l
    have hpad : ((List.range 5).all fun d => decide (0 ≤ (elementIndices b q e l).getD d 0 ∧
        (elementIndices b q e l).getD d 0 < recExt b.recd d)) = false := by
      rw [hix]
      simp [List.range_succ]
    simp only [storedIndex, hnone, stored, hpad]
    rfl
  · simp [storedIndex, stored, elemIndex_of_not_behind h e l, Bool.decide_and]

theorem elemAddr_eq (r : RecBits) (ix : List Nat) : elemAddr r ix = elementAt r ix := by
  have hswz : recSwz r % 8 = recSwz r := Nat.mod_mod _ _
  have hoff : (if recFmt r = 5 then ((ix.getD 0 0 / 2 : Nat) : Int) else (ix.getD 0 0 : Int) * recStr r 0) =
      if recFmt r = 5 then (ix.getD 0 0 : Int) / 2 else (ix.getD 0 0 : Int) * recStr r 0 := rfl
  simp only [elemAddr, elementAt, swizzle, hswz, hoff, strided_cast, Int.emod_add_emod, List.map_cons, List.map_nil, List.sum_cons,
    List.sum_nil, Int.add_zero, ← Int.add_assoc]
/-- The address of the block scale of an element (R138). -/
def scaleAddr (r : RecBits) (ix : List Nat) : Nat :=
  (strided (recSbase r) [1, 2, 3, 4] (recSstr r) ix + if recKind r then 2 * (ix.getD 0 0 / 16) else ix.getD 0 0 / 8) % 2 ^ 64
/-- The address of its band scale in K8. -/
def bandAddr (r : RecBits) (ix : List Nat) : Nat :=
  (strided (recBbase r) [2, 3, 4] (recBstr r) ix + 2 * (ix.getD 1 0 / 64)) % 2 ^ 64

theorem strided_add (base : Nat) (ds : List Nat) (str : Nat → Int) (ix : List Nat) (n : Nat) :
    (strided base ds str ix + n) % 2 ^ 64 = (((base : Int) + n + (ds.map fun d => (ix.getD d 0 : Int) * str d).sum) % 2 ^ 64).toNat := by
  have h := strided_cast base ds str ix
  omega

theorem toNat_emod_add_one (z : Int) : ((z % 2 ^ 64).toNat + 1) % 2 ^ 64 = ((z + 1) % 2 ^ 64).toNat := by
  omega

theorem scalesAt_eq (r : RecBits) (ix : List Nat) : scalesAt r ix =
    if recKind r then [scaleAddr r ix, (scaleAddr r ix + 1) % 2 ^ 64]
    else [scaleAddr r ix, bandAddr r ix, (bandAddr r ix + 1) % 2 ^ 64] := by
  cases hk : recKind r <;>
    simp only [scalesAt, scaleAddr, bandAddr, hk, strided_add, toNat_emod_add_one, List.map_cons, List.map_nil, List.sum_cons, List.sum_nil,
      Int.add_zero, ← Int.add_assoc, if_true, Bool.false_eq_true, if_false, Int.natCast_mul, Int.natCast_ediv, Int.cast_ofNat_Int]

/-! ### A fetched element (R138, R139) -/

/-- The nibble of a byte that an FP4 element takes: the low one for an even index. -/
def nibbleOf (ix : List Nat) (v : Nat) : Nat := if ix.getD 0 0 % 2 = 0 then v % 16 else v / 16

/-- What an element is, whose reads have given some values. -/
def elementOf (b : Binding) (q e l : Nat) (vs : List Nat) : FetchedElem :=
  match stored b q e l with
  | none => ⟨recPad b.recd % 2 ^ fmtBits (recFmt b.recd), true, 0, false, 0, 0⟩
  | some ix =>
    if recFmt b.recd = 5 then
      ⟨nibbleOf ix (vs.getD 0 0), false, vs.getD 1 0, recKind b.recd && (vs.getD 2 0).testBit (ix.getD 0 0 % 16 / 2),
        if recKind b.recd then 0 else vs.getD 2 0 + 256 * vs.getD 3 0, scaleAddr b.recd ix⟩
    else ⟨vs.getD 0 0, false, 0, false, 0, 0⟩

section
variable {b : Binding} {q e l : Nat} {ix : List Nat}

theorem readsOf_padding (h : stored b q e l = none) : readsOf b q e l = [] := by
  simp only [readsOf, h]
theorem readsOf_plain (h : stored b q e l = some ix) (hf : recFmt b.recd ≠ 5) :
    readsOf b q e l = [(elementAt b.recd ix, fmtBits (recFmt b.recd) / 8)] := by
  simp only [readsOf, h, if_neg hf]
theorem readsOf_m16 (h : stored b q e l = some ix) (hf : recFmt b.recd = 5) (hk : recKind b.recd = true) :
    readsOf b q e l = [(elementAt b.recd ix, 1), (scaleAddr b.recd ix, 1), ((scaleAddr b.recd ix + 1) % 2 ^ 64, 1)] := by
  simp [readsOf, h, hf, scalesAt_eq, hk]
theorem readsOf_k8 (h : stored b q e l = some ix) (hf : recFmt b.recd = 5) (hk : recKind b.recd = false) :
    readsOf b q e l = [(elementAt b.recd ix, 1), (scaleAddr b.recd ix, 1), (bandAddr b.recd ix, 1), ((bandAddr b.recd ix + 1) % 2 ^ 64, 1)] := by
  simp [readsOf, h, hf, scalesAt_eq, hk]

end

theorem readsAre_cons {c : Nat} {s t : State × LineBuf} {p : Nat × Nat} {l : List (Nat × Nat)} {vs : List Nat}
    (h : ReadsAre c s (p :: l) t vs) :
    ∃ u v ws, loaderRead s.1 s.2 c p.1 p.2 = (u.1, u.2, .ok v) ∧ ReadsAre c u l t ws ∧ vs = v :: ws := by
  obtain ⟨u, buf, v, ws, hr, hl, rfl⟩ := h
  exact ⟨(u, buf), v, ws, hr, hl, rfl⟩

theorem fetchElem_of_reads {c : Nat} {b : Binding} {q e l : Nat} {s t : State × LineBuf} {vs : List Nat}
    (h : ReadsAre c s (readsOf b q e l) t vs) : fetchElem s.1 s.2 c b q e l = (t.1, t.2, .ok (elementOf b q e l vs)) := by
  unfold fetchElem elementOf
  rw [storedIndex_eq_stored]
  cases hix : stored b q e l with
  | none =>
    rw [readsOf_padding hix] at h
    obtain ⟨rfl, rfl⟩ := h
    rfl
  | some ix =>
    simp only [elemAddr_eq]
    by_cases hf : recFmt b.recd = 5
    · cases hk : recKind b.recd with
      | true =>
        rw [readsOf_m16 hix hf hk] at h
        obtain ⟨u, v, ws, hread, h1, rfl⟩ := readsAre_cons h
        obtain ⟨u1, v1, ws, hread1, h2, rfl⟩ := readsAre_cons h1
        obtain ⟨u2, v2, ws, hread2, ⟨rfl, rfl⟩, rfl⟩ := readsAre_cons h2
        simp only [scaleAddr, hk, if_true] at hread1 hread2
        simp only [hf, ne_eq, not_true_eq_false, if_false, if_true, hread, hread1, hread2, scaleAddr, hk, nibbleOf]
        rfl
      | false =>
        rw [readsOf_k8 hix hf hk] at h
        obtain ⟨u, v, ws, hread, h1, rfl⟩ := readsAre_cons h
        obtain ⟨u1, v1, ws, hread1, h2, rfl⟩ := readsAre_cons h1
        obtain ⟨u2, v2, ws, hread2, h3, rfl⟩ := readsAre_cons h2
        obtain ⟨u3, v3, ws, hread3, ⟨rfl, rfl⟩, rfl⟩ := readsAre_cons h3
        simp only [scaleAddr, bandAddr, hk, Bool.false_eq_true, if_false] at hread1 hread2 hread3
        simp only [hf, ne_eq, not_true_eq_false, if_false, if_true, hread, hread1, hread2, hread3, scaleAddr, hk, Bool.false_eq_true, nibbleOf]
        rfl
    · rw [readsOf_plain hix hf] at h
      obtain ⟨u, v, ws, hread, ⟨rfl, rfl⟩, rfl⟩ := readsAre_cons h
      simp only [hf, ne_eq, not_false_eq_true, if_true, hread, if_false]
      rfl

/-! ### A fetched step -/

theorem fetchElems_of_reads {c : Nat} {b : Binding} {q e : Nat} {st : Nat → State × LineBuf} {vals : Nat → List Nat} (n l : Nat)
    (h : ∀ j, l ≤ j → j < l + n → ReadsAre c (st j) (readsOf b q e j) (st (j + 1)) (vals j)) :
    fetchElems (st l).1 (st l).2 c b q e l n =
      ((st (l + n)).1, (st (l + n)).2, .ok ((List.range' l n).map fun j => elementOf b q e j (vals j))) := by
  induction n generalizing l with
  | zero => rfl
  | succ n ih =>
    have hnext := ih (l + 1) fun j hlo hhi => h j (by omega) (by omega)
    have hsum : l + 1 + n = l + (n + 1) := by omega
    rw [hsum] at hnext
    simp only [fetchElems, fetchElem_of_reads (h l le_rfl (by omega)), hnext, List.range'_succ, List.map_cons]

/-- The elements of position e, the reads of its element l having given vals l. -/
def elementsOf (b : Binding) (q e : Nat) (vals : Nat → List Nat) : List FetchedElem :=
  (List.range (perRegister b)).map fun l => elementOf b q e l (vals l)

theorem fetchPositions_of_reads {c : Nat} {b : Binding} {q : Nat} {st : Nat → Nat → State × LineBuf} {vals : Nat → Nat → List Nat}
    (n e : Nat)
    (hnext : ∀ i, e ≤ i → i < e + n → st (i + 1) 0 = st i (perRegister b))
    (h : ∀ i, e ≤ i → i < e + n → ∀ l, l < perRegister b → ReadsAre c (st i l) (readsOf b q i l) (st i (l + 1)) (vals i l)) :
    fetchPositions (st e 0).1 (st e 0).2 c b q e n =
      ((st (e + n) 0).1, some ((List.range' e n).map fun i => buildReg b (elementsOf b q i (vals i)))) := by
  induction n generalizing e with
  | zero => rfl
  | succ n ih =>
    have hrest := ih (e + 1) (fun i hlo hhi => hnext i (by omega) (by omega)) fun i hlo hhi => h i (by omega) (by omega)
    have hsum : e + 1 + n = e + (n + 1) := by omega
    rw [hsum, hnext e le_rfl (by omega)] at hrest
    have helems := fetchElems_of_reads (perRegister b) 0 fun j _ hj => h e le_rfl (by omega) j (by omega)
    rw [Nat.zero_add] at helems
    have hcount : fmtCount (recFmt b.recd) = perRegister b := rfl
    simp only [fetchPositions, hcount, helems, hrest, List.range'_succ, List.map_cons, elementsOf, List.range_eq_range']

/-! ### Fields side by side in a number -/

/-- Fields of w bits, the first lowest. -/
def packed (w n : Nat) (x : Nat → Nat) : Nat := ((List.range n).map fun i => x i * 2 ^ (w * i)).sum

theorem packed_succ (w n : Nat) (x : Nat → Nat) : packed w (n + 1) x = x 0 + 2 ^ w * packed w n fun i => x (i + 1) := by
  unfold packed
  rw [List.range_succ_eq_map, List.map_cons, List.sum_cons, List.map_map, ← List.sum_map_mul_left]
  simp [Function.comp_def, Nat.mul_succ, Nat.pow_add, Nat.mul_left_comm, Nat.mul_comm]

theorem packed_lt {w n : Nat} {x : Nat → Nat} (h : ∀ i, i < n → x i < 2 ^ w) : packed w n x < 2 ^ (w * n) := by
  induction n generalizing x with
  | zero => simp [packed]
  | succ n ih =>
    have h0 := h 0 (by omega)
    have hrest := ih fun i hi => h (i + 1) (by omega)
    rw [packed_succ, Nat.mul_succ, Nat.pow_add, Nat.mul_comm (2 ^ (w * n))]
    calc x 0 + 2 ^ w * packed w n (fun i => x (i + 1)) < 2 ^ w + 2 ^ w * packed w n fun i => x (i + 1) := by omega
      _ = 2 ^ w * (packed w n (fun i => x (i + 1)) + 1) := by ring
      _ ≤ 2 ^ w * 2 ^ (w * n) := Nat.mul_le_mul_left _ hrest

theorem packed_lt_of_le {w n m : Nat} {x : Nat → Nat} (h : ∀ i, i < n → x i < 2 ^ w) (hm : w * n ≤ m) : packed w n x < 2 ^ m :=
  (packed_lt h).trans_le (Nat.pow_le_pow_right (by decide) hm)

theorem packed_field {w n : Nat} {x : Nat → Nat} (h : ∀ i, i < n → x i < 2 ^ w) {i : Nat} (hi : i < n) :
    packed w n x / 2 ^ (w * i) % 2 ^ w = x i := by
  induction n generalizing x i with
  | zero => omega
  | succ n ih =>
    have h0 := h 0 (by omega)
    rw [packed_succ]
    cases i with
    | zero => simp [Nat.mod_eq_of_lt h0]
    | succ i =>
      have hdiv : (x 0 + 2 ^ w * packed w n fun i => x (i + 1)) / 2 ^ w = packed w n fun i => x (i + 1) := by
        rw [Nat.add_mul_div_left _ _ (Nat.two_pow_pos w), Nat.div_eq_of_lt h0, Nat.zero_add]
      rw [Nat.mul_succ, Nat.add_comm (w * i), Nat.pow_add, ← Nat.div_div_eq_div_mul, hdiv]
      exact ih (fun j hj => h (j + 1) (by omega)) (by omega)

theorem elem_eq_div (w : Nat) (x : RegData) (e : Nat) : elem w x e = x.toNat / 2 ^ (w * e) % 2 ^ w := by
  rw [elem, BitVec.extractLsb'_toNat, Nat.shiftRight_eq_div_pow]

/-- The formats of a record have a width that divides a register and a line. -/
theorem fmtBits_cases {f : Nat} (h : f ≤ 10) :
    fmtBits f = 4 ∧ f = 5 ∨ (fmtBits f = 8 ∨ fmtBits f = 16 ∨ fmtBits f = 32) ∧ f ≠ 5 := by
  interval_cases f <;> decide

/-! ### Groups of scales (R138, R153, R154; log entry 13) -/

/-- In row order the entry y of the positions from lo is that of the first stored element, 0 where none is stored. -/
def FirstStored (b : Binding) (q e : Nat) (f : Nat → Nat) (lo n y : Nat) : Prop :=
  (∃ l, lo ≤ l ∧ l < lo + n ∧ stored b q e l ≠ none ∧ (∀ j, lo ≤ j → j < l → stored b q e j = none) ∧ f l = y) ∨
    ((∀ l, lo ≤ l → l < lo + n → stored b q e l = none) ∧ y = 0)

/-- Their entry: in column order all of them agree on it. -/
def EntryIs (b : Binding) (q e : Nat) (f : Nat → Nat) (lo n y : Nat) : Prop :=
  if b.column = true then ∀ l, lo ≤ l → l < lo + n → f l = y else FirstStored b q e f lo n y

section
variable (b : Binding) (q e : Nat) (vals : Nat → List Nat)

/-- Element l of a position. -/
def elemAt (l : Nat) : FetchedElem := elementOf b q e l (vals l)

theorem elemAt_pad (l : Nat) : (elemAt b q e vals l).pad = true ↔ stored b q e l = none := by
  unfold elemAt elementOf
  cases stored b q e l with
  | none => simp
  | some ix => by_cases hf : recFmt b.recd = 5 <;> simp [hf]

/-- The n elements of a position from lo. -/
def elementsFrom (lo n : Nat) : List FetchedElem := (List.range' lo n).map (elemAt b q e vals)

theorem elementsFrom_drop_take (lo n i m : Nat) (h : i + m ≤ n) :
    ((elementsFrom b q e vals lo n).drop i).take m = elementsFrom b q e vals (lo + i) m := by
  have hsplit : List.range' lo n = List.range' lo i ++ (List.range' (lo + i) m ++ List.range' (lo + i + m) (n - i - m)) := by
    rw [List.range'_append_1, List.range'_append_1]
    congr 1
    omega
  rw [elementsFrom, elementsFrom, ← List.map_drop, ← List.map_take, hsplit, List.drop_left' List.length_range', List.take_left' List.length_range']

/-- The value of the first stored element, d where none is stored. -/
def firstOr (d : Nat) (els : List FetchedElem) (f : FetchedElem → Nat) : Nat :=
  match els.find? fun x => !x.pad with | some x => f x | none => d

theorem firstOr_elementsFrom_iff (f : FetchedElem → Nat) (lo n y : Nat) :
    firstOr 0 (elementsFrom b q e vals lo n) f = y ↔ FirstStored b q e (fun l => f (elemAt b q e vals l)) lo n y := by
  have hpad : ∀ l, (!(elemAt b q e vals l).pad) = true ↔ stored b q e l ≠ none := fun l => by
    rw [Bool.not_eq_true', ← Bool.not_eq_true, elemAt_pad]
  unfold firstOr elementsFrom FirstStored
  rw [List.find?_map]
  cases hfind : (List.range' lo n).find? ((fun x => !x.pad) ∘ elemAt b q e vals) with
  | none =>
    rw [List.find?_range'_eq_none] at hfind
    have hall : ∀ l, lo ≤ l → l < lo + n → stored b q e l = none := fun l hlo hhi => by
      have := hfind l hlo hhi
      rw [← elemAt_pad b q e vals]
      simpa using this
    constructor
    · rintro rfl
      exact .inr ⟨hall, rfl⟩
    · rintro (⟨l, hlo, hhi, hl, -⟩ | ⟨-, rfl⟩)
      · exact absurd (hall l hlo hhi) hl
      · rfl
  | some l =>
    obtain ⟨hl, hmem, hbefore⟩ := List.find?_range'_eq_some.1 hfind
    have hstored : stored b q e l ≠ none := (hpad l).1 hl
    have hnone : ∀ j, lo ≤ j → j < l → stored b q e j = none := fun j hlo hlt => by
      have := hbefore j hlo hlt
      rw [← elemAt_pad b q e vals]
      simpa using this
    obtain ⟨hlo, hhi⟩ := List.mem_range'_1.1 hmem
    constructor
    · rintro rfl
      exact .inl ⟨l, hlo, hhi, hstored, hnone, rfl⟩
    · rintro (⟨j, hjlo, hjhi, hj, hjbefore, rfl⟩ | ⟨hall, -⟩)
      · obtain rfl : l = j := by
          rcases Nat.lt_trichotomy l j with h | h | h
          · exact absurd (hjbefore l hlo h) hstored
          · exact h
          · exact absurd (hnone j hjlo h) hj
        rfl
      · exact absurd (hall l hlo hhi) hstored

theorem bandOf_eq_firstOr (els : List FetchedElem) : bandOf els = firstOr 0 els (·.band) := rfl

theorem groupEntry_ok_iff (f : FetchedElem → Nat) {lo n : Nat} (hn : 0 < n) (y : Nat) :
    groupEntry b.column (elementsFrom b q e vals lo n) f = .ok y ↔ EntryIs b q e (fun l => f (elemAt b q e vals l)) lo n y := by
  cases hc : b.column with
  | false =>
    rw [EntryIs, hc, if_neg Bool.false_ne_true, ← firstOr_elementsFrom_iff]
    exact ⟨fun h => Except.ok.inj h, fun h => congrArg Except.ok h⟩
  | true =>
    obtain ⟨n, rfl⟩ : ∃ k, n = k + 1 := ⟨n - 1, by omega⟩
    rw [EntryIs, hc, if_pos rfl, elementsFrom, List.range'_succ, List.map_cons]
    simp only [groupEntry, if_true]
    cases hfind : (((List.range' (lo + 1) n).map (elemAt b q e vals)).find? fun y => f y != f (elemAt b q e vals lo)) with
    | none =>
      rw [List.find?_eq_none] at hfind
      have hall : ∀ l, lo ≤ l → l < lo + (n + 1) → f (elemAt b q e vals l) = f (elemAt b q e vals lo) := fun l hlo hhi => by
        rcases Nat.eq_or_lt_of_le hlo with rfl | hlt
        · rfl
        · simpa using hfind _ (List.mem_map_of_mem (List.mem_range'_1.2 ⟨hlt, by omega⟩))
      exact ⟨fun h l hlo hhi => (hall l hlo hhi).trans (Except.ok.inj h), fun h => congrArg Except.ok (h lo le_rfl (by omega))⟩
    | some z =>
      obtain ⟨l, hl, rfl⟩ := List.mem_map.1 (List.mem_of_find?_eq_some hfind)
      have hne : f (elemAt b q e vals l) ≠ f (elemAt b q e vals lo) := by simpa using List.find?_some hfind
      obtain ⟨hlo, hhi⟩ := List.mem_range'_1.1 hl
      exact ⟨(nomatch ·), fun h => absurd ((h l (by omega) (by omega)).trans (h lo le_rfl (by omega)).symm) hne⟩

end

/-! ### The sidecar of a position (R138, R154) -/

theorem sideBytes_succ (column kind : Bool) (els : List FetchedElem) (g n : Nat) :
    sideBytes column kind els g (n + 1) =
      match sideBytes column kind els g 1 with
      | .error a => .error a
      | .ok bs => match sideBytes column kind els (g + 1) n with | .error a => .error a | .ok more => .ok (bs ++ more) := by
  rw [sideBytes, sideBytes]
  dsimp only
  split
  · rfl
  · simp only [sideBytes, List.append_nil] <;> rfl

theorem sideBytes_ok_of {column kind : Bool} {els : List FetchedElem} {B : Nat → List Nat} (n g : Nat)
    (h : ∀ i, g ≤ i → i < g + n → sideBytes column kind els i 1 = .ok (B i)) :
    sideBytes column kind els g n = .ok ((List.range' g n).flatMap B) := by
  induction n generalizing g with
  | zero => rfl
  | succ n ih =>
    have hrest := ih (g + 1) fun i hlo hhi => h i (by omega) (by omega)
    simp only [sideBytes_succ (n := n), h g le_rfl (by omega), hrest, List.range'_succ, List.flatMap_cons]

theorem sideBytes_error_of {column kind : Bool} {els : List FetchedElem} (n g i : Nat) (hlo : g ≤ i) (hhi : i < g + n)
    (h : ∀ bs, sideBytes column kind els i 1 ≠ .ok bs) : ∃ a, sideBytes column kind els g n = .error a := by
  induction n generalizing g with
  | zero => omega
  | succ n ih =>
    rw [sideBytes_succ]
    cases hone : sideBytes column kind els g 1 with
    | error a => exact ⟨a, rfl⟩
    | ok bs =>
      have hne : g ≠ i := fun heq => h bs (heq ▸ hone)
      obtain ⟨a, ha⟩ := ih (g + 1) (by omega) (by omega)
      exact ⟨a, by simp only [ha]⟩

/-- The byte of the micro exponents of eight pairs. -/
def microByte (z : Nat → Nat) : Nat := packed 1 8 z

/-- The bit that an entry sets in it. -/
def pairBit (i : Nat) (y : Except Nat Nat) : Nat := match y with | .ok 1 => 2 ^ i | _ => 0

theorem pairs_sum {pairs : List (Except Nat Nat)} {z : Nat → Nat} (hz : ∀ i, i < 8 → z i < 2)
    (h : ∀ i, i < 8 → pairs.getD i (.ok 0) = .ok (z i)) :
    ((List.range 8).map fun i => pairBit i (pairs.getD i (.ok 0))).sum = microByte z := by
  unfold microByte packed
  congr 1
  refine List.map_congr_left fun i hi => ?_
  have hlt := List.mem_range.1 hi
  rw [h i hlt, Nat.one_mul]
  have hzi := hz i hlt
  interval_cases z i
  · exact (Nat.zero_mul _).symm
  · exact (Nat.one_mul _).symm

section
variable (b : Binding) (q e : Nat) (vals : Nat → List Nat)

/-- The scale byte of element l. -/
def scaleOf (l : Nat) : Nat := (elemAt b q e vals l).scale
/-- Its micro exponent as a number. -/
def microOf (l : Nat) : Nat := if (elemAt b q e vals l).micro then 1 else 0

theorem entryIs_unique (f : FetchedElem → Nat) {lo n y z : Nat} (hn : 0 < n)
    (hy : EntryIs b q e (fun l => f (elemAt b q e vals l)) lo n y) (hz : EntryIs b q e (fun l => f (elemAt b q e vals l)) lo n z) : y = z := by
  rw [← groupEntry_ok_iff b q e vals f hn] at hy hz
  exact Except.ok.inj (hy.symm.trans hz)

theorem microOf_lt (l : Nat) : microOf b q e vals l < 2 := by
  unfold microOf
  split <;> decide

theorem entryIs_micro_lt {lo y : Nat} (h : EntryIs b q e (microOf b q e vals) lo 2 y) : y < 2 := by
  unfold EntryIs at h
  split at h
  · exact h lo le_rfl (by omega) ▸ microOf_lt b q e vals lo
  · rcases h with ⟨l, _, _, _, _, rfl⟩ | ⟨_, rfl⟩
    · exact microOf_lt b q e vals l
    · decide

/-- One group of K8. -/
theorem sideBytes_k8 {g : Nat} (hg : g < 16) (bs : List Nat) :
    sideBytes b.column false (elementsFrom b q e vals 0 128) g 1 = .ok bs ↔ ∃ y, EntryIs b q e (scaleOf b q e vals) (8 * g) 8 y ∧ bs = [y] := by
  have hrun := elementsFrom_drop_take b q e vals 0 128 (8 * g) 8 (by omega)
  have hentry := groupEntry_ok_iff b q e vals (·.scale) (lo := 8 * g) (n := 8) (by decide)
  rw [Nat.zero_add] at hrun
  simp only [sideBytes, hrun, Bool.false_eq_true, if_false]
  cases hy : groupEntry b.column (elementsFrom b q e vals (8 * g) 8) (·.scale) with
  | error a =>
    refine ⟨(nomatch ·), fun ⟨y, h, _⟩ => ?_⟩
    exact nomatch hy.symm.trans ((hentry y).2 h)
  | ok y =>
    refine ⟨fun h => ⟨y, (hentry y).1 hy, ?_⟩, ?_⟩
    · simpa using h.symm
    · rintro ⟨z, h, rfl⟩
      rw [entryIs_unique b q e vals (·.scale) (by decide) h ((hentry y).1 hy)]
      rfl

/-- The entries of the eight pairs of the positions from lo. -/
def pairEntries (lo : Nat) : List (Except Nat Nat) :=
  (List.range 8).map fun i => groupEntry b.column (elementsFrom b q e vals (lo + 2 * i) 2) fun y => if y.micro then 1 else 0

theorem pairEntries_eq (lo : Nat) : ((List.range 8).map fun i =>
    groupEntry b.column (((elementsFrom b q e vals lo 16).drop (2 * i)).take 2) fun y => if y.micro then 1 else 0) = pairEntries b q e vals lo := by
  refine List.map_congr_left fun i hi => ?_
  have := List.mem_range.1 hi
  rw [elementsFrom_drop_take b q e vals lo 16 (2 * i) 2 (by omega)]

theorem pairEntries_getD {lo i y : Nat} (hi : i < 8) :
    (pairEntries b q e vals lo).getD i (.ok 0) = .ok y ↔ EntryIs b q e (microOf b q e vals) (lo + 2 * i) 2 y := by
  have hentry := groupEntry_ok_iff b q e vals (fun y => if y.micro then 1 else 0) (lo := lo + 2 * i) (n := 2) (by decide) y
  rw [pairEntries, List.getD_eq_getElem _ _ (by simpa using hi), List.getElem_map, List.getElem_range]
  exact hentry

/-- One group of M16. -/
theorem sideBytes_m16 {g : Nat} (hg : g < 8) (bs : List Nat) :
    sideBytes b.column true (elementsFrom b q e vals 0 128) g 1 = .ok bs ↔
      ∃ y z, EntryIs b q e (scaleOf b q e vals) (16 * g) 16 y ∧
        (∀ i, i < 8 → EntryIs b q e (microOf b q e vals) (16 * g + 2 * i) 2 (z i)) ∧ bs = [y, microByte z] := by
  have hrun := elementsFrom_drop_take b q e vals 0 128 (16 * g) 16 (by omega)
  have hentry := groupEntry_ok_iff b q e vals (·.scale) (lo := 16 * g) (n := 16) (by decide)
  rw [Nat.zero_add] at hrun
  simp only [sideBytes, hrun, pairEntries_eq, if_true]
  cases hy : groupEntry b.column (elementsFrom b q e vals (16 * g) 16) (·.scale) with
  | error a =>
    refine ⟨(nomatch ·), fun ⟨y, _, h, _⟩ => ?_⟩
    exact nomatch hy.symm.trans ((hentry y).2 h)
  | ok y =>
    cases hfind : (pairEntries b q e vals (16 * g)).find? fun y => match y with | .error _ => true | .ok _ => false with
    | some r =>
      obtain ⟨i, hi, hr⟩ := List.mem_iff_getElem.1 (List.mem_of_find?_eq_some hfind)
      cases r with
      | ok z => exact nomatch List.find?_some hfind
      | error a =>
        refine ⟨(nomatch ·), fun ⟨_, z, _, hz, _⟩ => ?_⟩
        have hi8 : i < 8 := by simpa [pairEntries] using hi
        have hok := (pairEntries_getD b q e vals hi8).2 (hz i hi8)
        rw [List.getD_eq_getElem _ _ hi, hr] at hok
        cases hok
    | none =>
      have hall : ∀ i, ∃ z, i < 8 → (pairEntries b q e vals (16 * g)).getD i (.ok 0) = .ok z := fun i => by
        by_cases hi : i < 8
        · have hlen : i < (pairEntries b q e vals (16 * g)).length := by simpa [pairEntries] using hi
          have hmem := List.find?_eq_none.1 hfind _ (List.getElem_mem hlen)
          rw [List.getD_eq_getElem _ _ hlen]
          cases hz : (pairEntries b q e vals (16 * g))[i] with
          | error a => exact absurd (by rw [hz]) hmem
          | ok z => exact ⟨z, fun _ => rfl⟩
        · exact ⟨0, fun h => absurd h hi⟩
      choose z hz using hall
      have hmicro : ∀ i, i < 8 → EntryIs b q e (microOf b q e vals) (16 * g + 2 * i) 2 (z i) := fun i hi =>
        (pairEntries_getD b q e vals hi).1 (hz i hi)
      have hsum := pairs_sum (fun i hi => entryIs_micro_lt b q e vals (hmicro i hi)) hz
      change Except.ok ([y, ((List.range 8).map fun i => pairBit i ((pairEntries b q e vals (16 * g)).getD i (.ok 0))).sum] ++ []) = .ok bs ↔ _
      rw [hsum, List.append_nil]
      refine ⟨fun h => ⟨y, z, (hentry y).1 hy, hmicro, ?_⟩, ?_⟩
      · simpa using h.symm
      · rintro ⟨y', z', hy', hz', rfl⟩
        have hyy := entryIs_unique b q e vals (·.scale) (by decide) hy' ((hentry y).1 hy)
        have hbyte : microByte z' = microByte z := by
          unfold microByte packed
          congr 1
          refine List.map_congr_left fun i hi => ?_
          have hi8 := List.mem_range.1 hi
          have hzz := entryIs_unique b q e vals (fun y => if y.micro then 1 else 0) (by decide) (hz' i hi8) (hmicro i hi8)
          rw [hzz]
        rw [hyy, hbyte]
end

/-! ### The register of a position -/

theorem flatMap_pairs (f : Nat → Nat) (n g : Nat) :
    ((List.range' g n).flatMap fun i => [f (2 * i), f (2 * i + 1)]) = (List.range' (2 * g) (2 * n)).map f := by
  induction n generalizing g with
  | zero => rfl
  | succ n ih =>
    rw [List.range'_succ, List.flatMap_cons, ih, Nat.mul_succ 2 n, List.range'_succ, List.range'_succ, Nat.mul_succ]
    rfl

/-- The elements' bits of a register, side by side. -/
def elementBits (w : Nat) (els : List FetchedElem) : RegData :=
  BitVec.ofNat 512 (packed w els.length fun l => (els.getD l ⟨0, true, 0, false, 0, 0⟩).bits % 2 ^ w)

theorem elem_elementBits {w : Nat} {els : List FetchedElem} (hw : w * els.length ≤ 512) {l : Nat} (hl : l < els.length) :
    elem w (elementBits w els) l = els[l].bits % 2 ^ w := by
  have hlt : ∀ i, i < els.length → (els.getD i ⟨0, true, 0, false, 0, 0⟩).bits % 2 ^ w < 2 ^ w := fun i _ =>
    Nat.mod_lt _ (Nat.two_pow_pos w)
  rw [elem_eq_div, elementBits, toNat_ofNat_of_lt (packed_lt_of_le hlt hw), packed_field hlt hl, List.getD_eq_getElem _ _ hl]

/-- The sidecar that 32 bytes make. -/
def sideOf (bytes : List Nat) : BitVec 256 := BitVec.ofNat 256 (bytesNat (bytes.map (BitVec.ofNat 8)))

theorem elem_sideOf {bytes : List Nat} (h : bytes.length = 32) {i : Nat} (hi : i < 32) :
    elem 8 ((sideOf bytes).setWidth 512) i = bytes.getD i 0 % 256 := by
  have hlt : bytesNat (bytes.map (BitVec.ofNat 8)) < 2 ^ 256 := bytesNat_lt_of_le (by simp [h])
  have hbyte := congrArg BitVec.toNat (ofNat_bytesNat_div (bytes.map (BitVec.ofNat 8)) i)
  rw [BitVec.toNat_ofNat, List.getD_eq_getElem _ _ (by simpa [h] using hi), List.getElem_map, BitVec.toNat_ofNat] at hbyte
  rw [elem_eq_div, sideOf, BitVec.toNat_setWidth_of_le (by decide), toNat_ofNat_of_lt hlt, List.getD_eq_getElem _ _ (by omega), ← hbyte,
    Nat.pow_mul]

/-- The 32 bytes of a sidecar: its groups', its band scales, zeros, KIND. -/
def sideList (kind : Bool) (f : Nat → Nat) (lo hi : Nat) : List Nat :=
  (List.range 16).map f ++ (if kind then [0, 0, 0, 0] else [lo % 256, lo / 256, hi % 256, hi / 256]) ++ List.replicate 11 0 ++
    [if kind then 1 else 0]

theorem sideList_length (kind : Bool) (f : Nat → Nat) (lo hi : Nat) : (sideList kind f lo hi).length = 32 := by
  cases kind <;> simp [sideList]

theorem sideList_group (kind : Bool) (f : Nat → Nat) (lo hi : Nat) {i : Nat} (h : i < 16) : (sideList kind f lo hi).getD i 0 = f i := by
  rw [sideList, List.append_assoc, List.append_assoc, List.getD_append _ _ _ _ (by simpa using h)]
  simp [h]

theorem sideList_rest (kind : Bool) (f : Nat → Nat) (lo hi i : Nat) : (sideList kind f lo hi).getD (16 + i) 0 =
    ((if kind then [0, 0, 0, 0] else [lo % 256, lo / 256, hi % 256, hi / 256]) ++
      (List.replicate 11 0 ++ [if kind then 1 else 0])).getD i 0 := by
  rw [sideList, List.append_assoc, List.append_assoc, List.getD_append_right _ _ _ _ (by simp)]
  simp

theorem sideList_zero (kind : Bool) (f : Nat → Nat) (lo hi : Nat) {i : Nat} (hlo : (if kind then 16 else 20) ≤ i) (hhi : i < 31) :
    (sideList kind f lo hi).getD i 0 = 0 := by
  obtain ⟨j, rfl⟩ : ∃ j, i = 16 + j := ⟨i - 16, by split at hlo <;> omega⟩
  rw [sideList_rest]
  have hj : j < 15 := by omega
  cases kind
  · have : 4 ≤ j := by simp at hlo; omega
    interval_cases j <;> rfl
  · interval_cases j <;> rfl

theorem sideList_kind (kind : Bool) (f : Nat → Nat) (lo hi : Nat) : (sideList kind f lo hi).getD 31 0 = if kind then 1 else 0 := by
  rw [show 31 = 16 + 15 from rfl, sideList_rest]
  cases kind <;> rfl

theorem sideList_band (f : Nat → Nat) (x : Nat → Nat) {h : Nat} (hh : h < 2) :
    (sideList false f (x 0) (x 1)).getD (16 + 2 * h) 0 = x h % 256 ∧ (sideList false f (x 0) (x 1)).getD (17 + 2 * h) 0 = x h / 256 := by
  rw [show 17 + 2 * h = 16 + (2 * h + 1) by omega, sideList_rest, sideList_rest]
  interval_cases h <;> exact ⟨rfl, rfl⟩

theorem buildReg_plain {b : Binding} (h : recFmt b.recd ≠ 5) (els : List FetchedElem) :
    buildReg b els = .reg ⟨elementBits (fmtBits (recFmt b.recd)) els, 0⟩ := by
  unfold buildReg
  exact if_pos h

/-- The halves of a position that have a band scale of their own: in row order both have that of the whole (R138). -/
def halves (column : Bool) (els : List FetchedElem) : List FetchedElem × List FetchedElem :=
  if column then (els.take 64, els.drop 64) else (els, els)

theorem buildReg_conflict {b : Binding} {els : List FetchedElem} {a : Nat} (h : recFmt b.recd = 5)
    (hside : sideBytes b.column (recKind b.recd) els 0 (if recKind b.recd then 8 else 16) = .error a) : buildReg b els = .bad 4 (a / 128) := by
  simp only [buildReg, h, ne_eq, not_true_eq_false, if_false, hside]

theorem buildReg_side {b : Binding} {els : List FetchedElem} {f : Nat → Nat} (h : recFmt b.recd = 5)
    (hside : sideBytes b.column (recKind b.recd) els 0 (if recKind b.recd then 8 else 16) = .ok ((List.range 16).map f)) :
    buildReg b els = .reg ⟨elementBits 4 els,
      sideOf (sideList (recKind b.recd) f (bandOf (halves b.column els).1) (bandOf (halves b.column els).2))⟩ := by
  have hlo : (if b.column then els.take 64 else els) = (halves b.column els).1 := by unfold halves; split <;> rfl
  have hhi : (if b.column then els.drop 64 else els) = (halves b.column els).2 := by unfold halves; split <;> rfl
  have hw : fmtBits 5 = 4 := by decide
  simp only [buildReg, h, ne_eq, not_true_eq_false, if_false, hside, hlo, hhi, hw]
  rfl

/-! ### What a position presents (R136, R138, R153, R154) -/

section
variable (b : Binding) (q e : Nat) (vals : Nat → List Nat)

theorem elementsOf_eq_elementsFrom : elementsOf b q e vals = elementsFrom b q e vals 0 (perRegister b) := by
  rw [elementsOf, elementsFrom, List.range_eq_range']
  rfl

theorem elementsOf_length : (elementsOf b q e vals).length = perRegister b := by
  simp [elementsOf]

theorem elementsOf_getElem {l : Nat} (h : l < (elementsOf b q e vals).length) : (elementsOf b q e vals)[l] = elemAt b q e vals l := by
  simp [elementsOf, elemAt]

theorem perRegister_fp4 {b : Binding} (h : recFmt b.recd = 5) : perRegister b = 128 := by
  rw [perRegister, h]
  decide

theorem fmtBits_mul_perRegister {b : Binding} (h : recFmt b.recd ≤ 10) : fmtBits (recFmt b.recd) * perRegister b = 512 := by
  rw [perRegister]
  generalize recFmt b.recd = f at h
  interval_cases f <;> decide

/-- The bits of element l, of which the register takes the lower ones. -/
def bitsOfElem (l : Nat) : Nat := match stored b q e l with
  | none => recPad b.recd
  | some ix => if recFmt b.recd = 5 then (if ix.getD 0 0 % 2 = 0 then (vals l).getD 0 0 else (vals l).getD 0 0 / 16) else (vals l).getD 0 0

theorem elemAt_bits (l : Nat) :
    (elemAt b q e vals l).bits % 2 ^ fmtBits (recFmt b.recd) = bitsOfElem b q e vals l % 2 ^ fmtBits (recFmt b.recd) := by
  unfold elemAt elementOf bitsOfElem
  cases stored b q e l with
  | none => exact Nat.mod_mod _ _
  | some ix =>
    by_cases hf : recFmt b.recd = 5
    · have hw : fmtBits 5 = 4 := by decide
      simp only [hf, if_true, nibbleOf, hw]
      split <;> omega
    · simp only [if_neg hf]

theorem elem_elementsOf (hf : recFmt b.recd ≤ 10) {l : Nat} (hl : l < perRegister b) :
    elem (fmtBits (recFmt b.recd)) (elementBits (fmtBits (recFmt b.recd)) (elementsOf b q e vals)) l =
      bitsOfElem b q e vals l % 2 ^ fmtBits (recFmt b.recd) := by
  have hw : fmtBits (recFmt b.recd) * (elementsOf b q e vals).length ≤ 512 := by
    rw [elementsOf_length, fmtBits_mul_perRegister hf]
  have hl' : l < (elementsOf b q e vals).length := by rwa [elementsOf_length]
  rw [elem_elementBits hw hl', elementsOf_getElem, elemAt_bits]

/-- The scale byte that the reads of an FP4 element give, 0 for padding. -/
def scaleVal (l : Nat) : Nat := match stored b q e l with | none => 0 | some _ => (vals l).getD 1 0
/-- Its micro exponent (M16). -/
def microVal (l : Nat) : Nat := match stored b q e l with | none => 0 | some ix => (vals l).getD 2 0 / 2 ^ (ix.getD 0 0 % 16 / 2) % 2
/-- Its band scale (K8). -/
def bandVal (l : Nat) : Nat := match stored b q e l with | none => 0 | some _ => (vals l).getD 2 0 + 256 * (vals l).getD 3 0

theorem scaleOf_eq (h : recFmt b.recd = 5) : scaleOf b q e vals = scaleVal b q e vals := by
  funext l
  unfold scaleOf scaleVal elemAt elementOf
  cases stored b q e l with
  | none => rfl
  | some ix => simp only [h, if_true]

theorem microOf_eq (h : recFmt b.recd = 5) (hk : recKind b.recd = true) : microOf b q e vals = microVal b q e vals := by
  funext l
  unfold microOf microVal elemAt elementOf
  cases stored b q e l with
  | none => rfl
  | some ix =>
    simp only [h, hk, if_true, Bool.true_and, Nat.testBit_eq_decide_div_mod_eq, decide_eq_true_eq]
    split <;> omega

theorem band_eq (h : recFmt b.recd = 5) (hk : recKind b.recd = false) : (fun l => (elemAt b q e vals l).band) = bandVal b q e vals := by
  funext l
  unfold bandVal elemAt elementOf
  cases stored b q e l with
  | none => rfl
  | some ix => simp [h, hk]

/-- The positions of a group of scales (R138). -/
def groupSize : Nat := if recKind b.recd = true then 16 else 8

/-- Every group of scales, and every pair of M16, has an entry. -/
def Agrees : Prop :=
  (∀ g, g < 128 / groupSize b → ∃ y, EntryIs b q e (scaleVal b q e vals) (groupSize b * g) (groupSize b) y) ∧
  (recKind b.recd = true → ∀ p, p < 64 → ∃ y, EntryIs b q e (microVal b q e vals) (2 * p) 2 y)

/-- Bytes of a sidecar whose groups have the entries of the position. -/
def HasEntries (byte : Nat → Nat) : Prop :=
  (∀ g, g < 128 / groupSize b → ∀ y, EntryIs b q e (scaleVal b q e vals) (groupSize b * g) (groupSize b) y →
    byte (if recKind b.recd = true then 2 * g else g) = y % 256) ∧
  (recKind b.recd = true → ∀ p, p < 64 → ∀ y, EntryIs b q e (microVal b q e vals) (2 * p) 2 y →
    byte (2 * (p / 8) + 1) / 2 ^ (p % 8) % 2 = y)

variable {b q e vals}

theorem entryIs_scale_unique (h : recFmt b.recd = 5) {lo n y z : Nat} (hn : 0 < n) (hy : EntryIs b q e (scaleVal b q e vals) lo n y)
    (hz : EntryIs b q e (scaleVal b q e vals) lo n z) : y = z := by
  rw [← scaleOf_eq b q e vals h] at hy hz
  exact entryIs_unique b q e vals (·.scale) hn hy hz

theorem entryIs_microVal_unique (h : recFmt b.recd = 5) (hk : recKind b.recd = true) {lo n y z : Nat} (hn : 0 < n)
    (hy : EntryIs b q e (microVal b q e vals) lo n y) (hz : EntryIs b q e (microVal b q e vals) lo n z) : y = z := by
  rw [← microOf_eq b q e vals h hk] at hy hz
  exact entryIs_unique b q e vals (fun y => if y.micro then 1 else 0) hn hy hz

theorem elementsOf_fp4 (h : recFmt b.recd = 5) : elementsOf b q e vals = elementsFrom b q e vals 0 128 := by
  rw [elementsOf_eq_elementsFrom, perRegister_fp4 h]

theorem sides_k8 (h : recFmt b.recd = 5) (hk : recKind b.recd = false) (ha : Agrees b q e vals) :
    ∃ f, sideBytes b.column false (elementsOf b q e vals) 0 16 = .ok ((List.range 16).map f) ∧ HasEntries b q e vals fun i => f i % 256 := by
  have hsize : groupSize b = 8 := by simp [groupSize, hk]
  obtain ⟨hscale, -⟩ := ha
  rw [hsize] at hscale
  have hall : ∀ g, ∃ y, g < 16 → EntryIs b q e (scaleVal b q e vals) (8 * g) 8 y := fun g => by
    by_cases hg : g < 16
    · exact (hscale g hg).imp fun _ hy _ => hy
    · exact ⟨0, fun h => absurd h hg⟩
  choose f hf using hall
  refine ⟨f, ?_, fun g hg y hy => ?_, fun hm => by simp [hk] at hm⟩
  · rw [elementsOf_fp4 h, sideBytes_ok_of (B := fun g => [f g]), ← List.map_eq_flatMap, List.range_eq_range']
    intro g _ hg
    exact (sideBytes_k8 b q e vals (by omega) _).2 ⟨f g, scaleOf_eq b q e vals h ▸ hf g (by omega), rfl⟩
  · rw [hsize] at hg hy
    dsimp only
    rw [hk, if_neg Bool.false_ne_true, entryIs_scale_unique h (by decide) (hf g (by omega)) hy]

theorem conflict_k8 (h : recFmt b.recd = 5) (hk : recKind b.recd = false) (ha : ¬ Agrees b q e vals) :
    ∃ a, sideBytes b.column false (elementsOf b q e vals) 0 16 = .error a := by
  have hsize : groupSize b = 8 := by simp [groupSize, hk]
  have hnone : ∃ g, g < 16 ∧ ∀ y, ¬ EntryIs b q e (scaleVal b q e vals) (8 * g) 8 y := by
    by_contra hno
    push Not at hno
    exact ha ⟨by rw [hsize]; exact hno, fun hm => by simp [hk] at hm⟩
  obtain ⟨g, hg, hg'⟩ := hnone
  rw [elementsOf_fp4 h]
  refine sideBytes_error_of 16 0 g (by omega) (by omega) fun bs hbs => ?_
  obtain ⟨y, hy, -⟩ := (sideBytes_k8 b q e vals hg bs).1 hbs
  exact hg' y (scaleOf_eq b q e vals h ▸ hy)

theorem microByte_lt {z : Nat → Nat} (h : ∀ i, i < 8 → z i < 2) : microByte z < 256 := packed_lt_of_le (w := 1) h (m := 8) (by decide)
theorem microByte_bit {z : Nat → Nat} (h : ∀ i, i < 8 → z i < 2) {i : Nat} (hi : i < 8) : microByte z / 2 ^ i % 2 = z i := by
  have := packed_field (w := 1) h hi
  rwa [Nat.one_mul] at this

/-- The 16 bytes of M16: each group's scale y, then its micro exponents, of pair p the bit z p. -/
def m16Bytes (y z : Nat → Nat) (i : Nat) : Nat := if i % 2 = 0 then y (i / 2) else microByte fun j => z (8 * (i / 2) + j)
theorem m16Bytes_even (y z : Nat → Nat) (g : Nat) : m16Bytes y z (2 * g) = y g := by
  simp [m16Bytes]
theorem m16Bytes_odd (y z : Nat → Nat) (g : Nat) : m16Bytes y z (2 * g + 1) = microByte fun j => z (8 * g + j) := by
  have hdiv : (2 * g + 1) / 2 = g := by omega
  have hmod : (2 * g + 1) % 2 = 1 := by omega
  simp only [m16Bytes, hdiv, hmod, one_ne_zero, if_false]

theorem sides_m16 (h : recFmt b.recd = 5) (hk : recKind b.recd = true) (ha : Agrees b q e vals) :
    ∃ f, sideBytes b.column true (elementsOf b q e vals) 0 8 = .ok ((List.range 16).map f) ∧ HasEntries b q e vals fun i => f i % 256 := by
  have hsize : groupSize b = 16 := by simp [groupSize, hk]
  obtain ⟨hscale, hmicro⟩ := ha
  rw [hsize] at hscale
  have hscales : ∀ g, ∃ y, g < 8 → EntryIs b q e (scaleVal b q e vals) (16 * g) 16 y := fun g => by
    by_cases hg : g < 8
    · exact (hscale g hg).imp fun _ hy _ => hy
    · exact ⟨0, fun h => absurd h hg⟩
  have hpairs : ∀ p, ∃ y, p < 64 → EntryIs b q e (microVal b q e vals) (2 * p) 2 y := fun p => by
    by_cases hp : p < 64
    · exact (hmicro hk p hp).imp fun _ hy _ => hy
    · exact ⟨0, fun h => absurd h hp⟩
  choose y hy using hscales
  choose z hz using hpairs
  have hlt : ∀ g, g < 8 → ∀ i, i < 8 → z (8 * g + i) < 2 := fun g hg i hi =>
    entryIs_micro_lt b q e vals (microOf_eq b q e vals h hk ▸ hz (8 * g + i) (by omega))
  refine ⟨m16Bytes y z, ?_, fun g hg y' hy' => ?_, fun _ p hp y' hy' => ?_⟩
  · rw [elementsOf_fp4 h, sideBytes_ok_of (B := fun g => [m16Bytes y z (2 * g), m16Bytes y z (2 * g + 1)]), flatMap_pairs, List.range_eq_range']
    intro g _ hg
    refine (sideBytes_m16 b q e vals (by omega) _).2 ⟨y g, fun j => z (8 * g + j), ?_, fun i hi => ?_, by rw [m16Bytes_even, m16Bytes_odd]⟩
    · exact scaleOf_eq b q e vals h ▸ hy g (by omega)
    · have hplace : 16 * g + 2 * i = 2 * (8 * g + i) := by omega
      rw [hplace, microOf_eq b q e vals h hk]
      exact hz _ (by omega)
  · rw [hsize] at hg hy'
    rw [hk, if_pos rfl]
    change m16Bytes y z (2 * g) % 256 = y' % 256
    rw [m16Bytes_even, entryIs_scale_unique h (by decide) (hy g (by omega)) hy']
  · have hg : p / 8 < 8 := by omega
    have hi : p % 8 < 8 := by omega
    have hp' : 8 * (p / 8) + p % 8 = p := by omega
    change m16Bytes y z (2 * (p / 8) + 1) % 256 / 2 ^ (p % 8) % 2 = y'
    rw [m16Bytes_odd, Nat.mod_eq_of_lt (microByte_lt (hlt (p / 8) hg)), microByte_bit (hlt (p / 8) hg) hi, hp']
    exact entryIs_microVal_unique h hk (by decide) (hz p hp) hy'

theorem conflict_m16 (h : recFmt b.recd = 5) (hk : recKind b.recd = true) (ha : ¬ Agrees b q e vals) :
    ∃ a, sideBytes b.column true (elementsOf b q e vals) 0 8 = .error a := by
  have hsize : groupSize b = 16 := by simp [groupSize, hk]
  have hnone : ∃ g, g < 8 ∧ ∀ bs, sideBytes b.column true (elementsFrom b q e vals 0 128) g 1 ≠ .ok bs := by
    by_contra hno
    push Not at hno
    refine ha ⟨fun g hg => ?_, fun _ p hp => ?_⟩
    · rw [hsize] at hg ⊢
      obtain ⟨bs, hbs⟩ := hno g (by omega)
      obtain ⟨y, z, hy, -, -⟩ := (sideBytes_m16 b q e vals (by omega) bs).1 hbs
      exact ⟨y, scaleOf_eq b q e vals h ▸ hy⟩
    · obtain ⟨bs, hbs⟩ := hno (p / 8) (by omega)
      obtain ⟨y, z, -, hz, -⟩ := (sideBytes_m16 b q e vals (by omega) bs).1 hbs
      have hplace : 2 * p = 16 * (p / 8) + 2 * (p % 8) := by omega
      rw [hplace]
      exact ⟨z (p % 8), microOf_eq b q e vals h hk ▸ hz (p % 8) (by omega)⟩
  obtain ⟨g, hg, hg'⟩ := hnone
  rw [elementsOf_fp4 h]
  exact sideBytes_error_of 8 0 g (by omega) (by omega) hg'

theorem sides_of_agrees (h : recFmt b.recd = 5) (ha : Agrees b q e vals) :
    ∃ f, sideBytes b.column (recKind b.recd) (elementsOf b q e vals) 0 (if recKind b.recd then 8 else 16) = .ok ((List.range 16).map f) ∧
      HasEntries b q e vals fun i => f i % 256 := by
  cases hk : recKind b.recd with
  | true => exact sides_m16 h hk ha
  | false => exact sides_k8 h hk ha

theorem conflict_of_not_agrees (h : recFmt b.recd = 5) (ha : ¬ Agrees b q e vals) :
    ∃ a, sideBytes b.column (recKind b.recd) (elementsOf b q e vals) 0 (if recKind b.recd then 8 else 16) = .error a := by
  cases hk : recKind b.recd with
  | true => exact conflict_m16 h hk ha
  | false => exact conflict_k8 h hk ha

/-- The band scale of a half of K8. -/
theorem band_half (h : recFmt b.recd = 5) (hk : recKind b.recd = false) {i y : Nat} (hi : i < 2)
    (hy : if b.column = true then FirstStored b q e (bandVal b q e vals) (64 * i) 64 y else FirstStored b q e (bandVal b q e vals) 0 128 y) :
    bandOf (if i = 0 then (halves b.column (elementsOf b q e vals)).1 else (halves b.column (elementsOf b q e vals)).2) = y := by
  rw [← band_eq b q e vals h hk] at hy
  cases hc : b.column with
  | true =>
    rw [hc, if_pos rfl, ← firstOr_elementsFrom_iff b q e vals (·.band)] at hy
    have hlo := elementsFrom_drop_take b q e vals 0 128 0 64 (by omega)
    have hhi := elementsFrom_drop_take b q e vals 0 128 64 64 (by omega)
    rw [List.take_of_length_le (by simp [elementsFrom])] at hhi
    rw [bandOf_eq_firstOr, ← hy, elementsOf_fp4 h, halves, if_pos rfl]
    interval_cases i
    · exact congrArg (firstOr 0 · (·.band)) hlo
    · exact congrArg (firstOr 0 · (·.band)) hhi
  | false =>
    rw [hc, if_neg Bool.false_ne_true, ← firstOr_elementsFrom_iff b q e vals (·.band)] at hy
    rw [bandOf_eq_firstOr, ← hy, elementsOf_fp4 h, halves, if_neg Bool.false_ne_true, ite_self]

variable (b q e vals) in
/-- The sidecar of a position whose groups have the bytes f. -/
def sidecar (f : Nat → Nat) : BitVec 256 :=
  sideOf (sideList (recKind b.recd) f (bandOf (halves b.column (elementsOf b q e vals)).1) (bandOf (halves b.column (elementsOf b q e vals)).2))
/-- Byte i of a sidecar. -/
def sideByte (side : BitVec 256) (i : Nat) : Nat := elem 8 (side.setWidth 512) i

theorem sideByte_group {f : Nat → Nat} {i : Nat} (hi : i < 16) : sideByte (sidecar b q e vals f) i = f i % 256 := by
  rw [sideByte, sidecar, elem_sideOf (sideList_length _ _ _ _) (by omega), sideList_group _ _ _ _ hi]

theorem sideByte_zero {f : Nat → Nat} {i : Nat} (hlo : (if recKind b.recd then 16 else 20) ≤ i) (hhi : i < 31) :
    sideByte (sidecar b q e vals f) i = 0 := by
  rw [sideByte, sidecar, elem_sideOf (sideList_length _ _ _ _) (by omega), sideList_zero _ _ _ _ hlo hhi]

theorem sideByte_kind {f : Nat → Nat} : sideByte (sidecar b q e vals f) 31 = if recKind b.recd then 1 else 0 := by
  rw [sideByte, sidecar, elem_sideOf (sideList_length _ _ _ _) (by omega), sideList_kind]
  split <;> rfl

theorem sideByte_band {f : Nat → Nat} (h : recFmt b.recd = 5) (hk : recKind b.recd = false) {i y : Nat} (hi : i < 2)
    (hy : if b.column = true then FirstStored b q e (bandVal b q e vals) (64 * i) 64 y else FirstStored b q e (bandVal b q e vals) 0 128 y) :
    sideByte (sidecar b q e vals f) (16 + 2 * i) = y % 256 ∧ sideByte (sidecar b q e vals f) (17 + 2 * i) = y / 256 % 256 := by
  obtain ⟨hlow, hhigh⟩ := sideList_band f (fun i => bandOf (if i = 0 then (halves b.column (elementsOf b q e vals)).1
    else (halves b.column (elementsOf b q e vals)).2)) hi
  rw [band_half h hk hi hy] at hlow hhigh
  rw [sideByte, sideByte, sidecar, elem_sideOf (sideList_length _ _ _ _) (by omega), elem_sideOf (sideList_length _ _ _ _) (by omega), hk]
  exact ⟨(congrArg (· % 256) hlow).trans (Nat.mod_mod _ _), congrArg (· % 256) hhigh⟩

theorem hasEntries_sidecar {f : Nat → Nat} (h : HasEntries b q e vals fun i => f i % 256) :
    HasEntries b q e vals (sideByte (sidecar b q e vals f)) := by
  obtain ⟨hscale, hmicro⟩ := h
  refine ⟨fun g hg y hy => ?_, fun hm p hp y hy => ?_⟩
  · have hplace : (if recKind b.recd = true then 2 * g else g) < 16 := by
      cases hk : recKind b.recd <;> simp [groupSize, hk] at hg ⊢ <;> omega
    exact (sideByte_group hplace).trans (hscale g hg y hy)
  · rw [sideByte_group (by omega)]
    exact hmicro hm p hp y hy

theorem presents_buildReg (hf : recFmt b.recd ≤ 10) : Presents b q e vals (buildReg b (elementsOf b q e vals)) := by
  refine ⟨fun x hx l hl => ?_, fun h5 => ⟨_, buildReg_plain h5 _, rfl⟩, fun h5 hno => ?_, fun h5 ha => ?_⟩
  · have hdata : x.data = elementBits (fmtBits (recFmt b.recd)) (elementsOf b q e vals) := by
      by_cases h5 : recFmt b.recd = 5
      · by_cases ha : Agrees b q e vals
        · obtain ⟨f, hside, -⟩ := sides_of_agrees h5 ha
          rw [buildReg_side h5 hside] at hx
          rw [← FetchRes.reg.inj hx, h5]
          rfl
        · obtain ⟨a, hside⟩ := conflict_of_not_agrees h5 ha
          rw [buildReg_conflict h5 hside] at hx
          cases hx
      · rw [buildReg_plain h5] at hx
        rw [← FetchRes.reg.inj hx]
    rw [hdata]
    exact elem_elementsOf b q e vals hf hl
  · obtain ⟨a, hside⟩ := conflict_of_not_agrees h5 (vals := vals) (q := q) (e := e) hno
    exact ⟨_, buildReg_conflict h5 hside⟩
  · obtain ⟨f, hside, hentries⟩ := sides_of_agrees h5 (vals := vals) (q := q) (e := e) ha
    obtain ⟨hscale, hmicro⟩ := hasEntries_sidecar hentries
    exact ⟨_, buildReg_side h5 hside, hscale, hmicro, fun hk i hi y hy => sideByte_band h5 hk hi hy, fun i hlo hhi => sideByte_zero hlo hhi,
      sideByte_kind⟩

end

/-! ### A feed fetch (R139, R226, R262) -/

theorem coreIs_modLoader (u : State) (c e : Nat) (f : Loader → Loader) :
    CoreIs u (modLoader u c e f) c (withLoader (coreAt u c) e (f (loaderAt (coreAt u c).edge e))) := coreIs_modCore u c _

theorem boundStep_of_feeds {s : State} {c e : Nat} {b : Binding} (h : Feeds s c e b) : boundStep (coreAt s c) e = some b := by
  obtain ⟨hbind, hleft, -, -⟩ := h
  simp only [boundStep, hbind, if_pos hleft]

theorem heldVals_of_new {k : Core} {e q : Nat} (h : ∀ f ∈ (loaderAt k.edge e).fetched, f.q ≠ q) : heldVals k e q = [] := by
  have hfind : ((loaderAt k.edge e).fetched.find? fun f => f.q == q) = none := List.find?_eq_none.2 fun f hf => by simpa using h f hf
  simp only [heldVals, hfind]

section
variable {s u : State} {c e q : Nat} {b : Binding}

theorem fetchStep_fetched {vs : List FetchRes} (hfeeds : Feeds s c e b) (hq : nextFetch (coreAt s c) e b = some q)
    (hnew : ∀ f ∈ (loaderAt (coreAt s c).edge e).fetched, f.q ≠ q)
    (h : fetchPositions s [] c b q 0 (edgeLen (coreAt s c).arr.win e) = (u, some vs)) : StepFetched u (fetchStep s c e) c e q vs := by
  have hbound := boundStep_of_feeds hfeeds
  obtain ⟨-, -, hdrain, hfrozen⟩ := hfeeds
  simp only [fetchStep, hbound, hdrain, hfrozen, Bool.or_self, Bool.false_eq_true, if_false, hq, heldVals_of_new hnew,
    List.length_nil, Nat.sub_zero, h, List.nil_append]
  exact coreIs_modLoader u c e _

theorem fetchStep_waits (hfeeds : Feeds s c e b) (hq : nextFetch (coreAt s c) e b = some q)
    (hnew : ∀ f ∈ (loaderAt (coreAt s c).edge e).fetched, f.q ≠ q)
    (h : fetchPositions s [] c b q 0 (edgeLen (coreAt s c).arr.win e) = (u, none)) : fetchStep s c e = s := by
  have hbound := boundStep_of_feeds hfeeds
  obtain ⟨-, -, hdrain, hfrozen⟩ := hfeeds
  simp only [fetchStep, hbound, hdrain, hfrozen, Bool.or_self, Bool.false_eq_true, if_false, hq, heldVals_of_new hnew,
    List.length_nil, Nat.sub_zero, h]

theorem fetchStep_frozen (h : (coreAt s c).arr.frozen = true) : fetchStep s c e = s := by
  unfold fetchStep
  split
  · rfl
  · rw [h, Bool.or_true, if_pos rfl]

end

theorem fetchPositions_length {c : Nat} {b : Binding} {q : Nat} (n : Nat) {e : Nat} {s u : State} {buf : LineBuf} {vs : List FetchRes}
    (h : fetchPositions s buf c b q e n = (u, some vs)) : vs.length = n := by
  induction n generalizing e s buf vs with
  | zero =>
    cases h
    rfl
  | succ n ih =>
    rw [fetchPositions] at h
    dsimp only at h
    split at h
    · cases h
    · split at h
      · cases h
      · rename_i hrest
        cases h
        rw [List.length_cons, ih hrest]

theorem fetchStep_of_reads {s : State} {c e q : Nat} {b : Binding} {st : Nat → Nat → State × LineBuf} {vals : Nat → Nat → List Nat}
    (hfeeds : Feeds s c e b) (hf : recFmt b.recd ≤ 10) (hq : nextFetch (coreAt s c) e b = some q)
    (hnew : ∀ f ∈ (loaderAt (coreAt s c).edge e).fetched, f.q ≠ q) (h0 : st 0 0 = (s, []))
    (hnext : ∀ i, i < edgeLen (coreAt s c).arr.win e → st (i + 1) 0 = st i (perRegister b))
    (hreads : ∀ i, i < edgeLen (coreAt s c).arr.win e → ∀ l, l < perRegister b →
      ReadsAre c (st i l) (readsOf b q i l) (st i (l + 1)) (vals i l)) :
    ∃ vs, StepFetched (st (edgeLen (coreAt s c).arr.win e) 0).1 (fetchStep s c e) c e q vs ∧ vs.length = edgeLen (coreAt s c).arr.win e ∧
      ∀ i, i < edgeLen (coreAt s c).arr.win e → ∃ v, vs[i]? = some v ∧ Presents b q i (vals i) v := by
  have hpos := fetchPositions_of_reads (c := c) (b := b) (q := q) (st := st) (vals := vals) (edgeLen (coreAt s c).arr.win e) 0
    (fun i _ hi => hnext i (by omega)) fun i _ hi => hreads i (by omega)
  rw [h0, Nat.zero_add] at hpos
  refine ⟨_, fetchStep_fetched hfeeds hq hnew hpos, by simp, fun i hi =>
    ⟨buildReg b (elementsOf b q i (vals i)), ?_, presents_buildReg hf⟩⟩
  simp [hi]

/-! ### Reads of a scratchpad -/

/-- The lines that a step holds are those of memory. -/
def Honest (s : State) (buf : LineBuf) : Prop := ∀ l ∈ buf, ∀ i, i < 128 → lineByte l.2 i = byteAt s (128 * l.1 + i)

theorem line_of_region {a z pa : Nat} (ha : a % 128 = 0) (hz : z % 128 = 0) :
    (decide (a ≤ 128 * (pa / 128)) && decide (128 * (pa / 128) < z)) = (decide (a ≤ pa) && decide (pa < z)) := by
  congr 1 <;> rw [decide_eq_decide] <;> omega

theorem inDoorbell_line (pa : Nat) : inDoorbell (128 * (pa / 128)) = inDoorbell pa := line_of_region (by decide) (by decide)
theorem inCounters_line (pa : Nat) : inCounters (128 * (pa / 128)) = inCounters pa := line_of_region (by decide) (by decide)
theorem inHost_line (pa : Nat) : inHost (128 * (pa / 128)) = inHost pa := line_of_region (by decide) (by decide)

section
variable {s : State} {c va : Nat} {write : Bool} {x : Xl}

theorem clusterRead_onPad (h : OnPad s c va write x) :
    clusterRead s c { x with pa := 128 * (x.pa / 128) } 128 = (s, memRead s.sys.mem (128 * (x.pa / 128)) 128) := by
  obtain ⟨-, hhome, -, hbell, hcounters, hhost⟩ := h
  simp [clusterRead, singleRead, hhome, inDoorbell_line, inCounters_line, inHost_line, hbell, hcounters, hhost]

theorem lineByte_lineRead (h : OnPad s c va write x) {i : Nat} (hi : i < 128) :
    lineByte (lineRead s c x) i = byteAt s (128 * (x.pa / 128) + i) := by
  have hread := clusterRead_onPad h
  have hlen : (memRead s.sys.mem (128 * (x.pa / 128)) 128).length = 128 := by simp [memRead_eq_map]
  rw [lineRead, hread, lineByte_ofNat_bytesNat hlen.le, memRead_eq_map, List.getD_eq_getElem _ _ (by simpa using hi), List.getElem_map,
    List.getElem_range]
  rfl

theorem honest_bytes {d : LineData} {pa n : Nat} (h : ∀ i, i < 128 → lineByte d i = byteAt s (128 * (pa / 128) + i))
    (hn : pa % 128 + n ≤ 128) :
    ((List.range n).map fun i => lineByte d (pa % 128 + i)) = (List.range n).map fun i => byteAt s (pa + i) := by
  refine List.map_congr_left fun i hi => ?_
  have hlt := List.mem_range.1 hi
  have hplace : 128 * (pa / 128) + (pa % 128 + i) = pa + i := by omega
  rw [h _ (by omega), hplace]

theorem loaderRead_onPad {buf : LineBuf} {n : Nat} (hpad : OnPad s c va false x) (hn : x.pa % 128 + n ≤ 128)
    (hfull : fullBit s (x.pa / 128) = true) (hbuf : Honest s buf) :
    ∃ buf', loaderRead s buf c va n = (s, buf', .ok (onPad s c (va, n))) ∧ Honest s buf' := by
  have ⟨htr, _, hstands, _⟩ := hpad
  have hgo : ¬ ReadWaits s x := by simp [ReadWaits, hfull, hstands]
  have hval : onPad s c (va, n) = bytesNat ((List.range n).map fun i => byteAt s (x.pa + i)) := by
    simp only [onPad, htr]
  rw [(loaderRead_ok htr buf n).2 hgo, hval]
  cases hfind : buf.find? fun l => l.1 == x.pa / 128 with
  | some l =>
    have hline : l.1 = x.pa / 128 := by simpa using List.find?_some hfind
    have hbytes := hbuf l (List.mem_of_find?_eq_some hfind)
    rw [hline] at hbytes
    rw [bufRead_held s c n (d := l.2) (hfind.trans (by rw [← hline])), honest_bytes hbytes hn]
    exact ⟨buf, rfl, hbuf⟩
  | none =>
    rw [bufRead_new s c n hfind, clusterRead_onPad hpad, honest_bytes (fun i hi => lineByte_lineRead hpad hi) hn]
    refine ⟨_, rfl, fun l hl => ?_⟩
    rcases List.mem_cons.1 hl with rfl | hl
    · exact fun i hi => lineByte_lineRead hpad hi
    · exact hbuf l hl

theorem reads_onPad (ps : List (Nat × Nat)) {buf : LineBuf} (hbuf : Honest s buf)
    (h : ∀ p ∈ ps, ∃ x, OnPad s c p.1 false x ∧ x.pa % 128 + p.2 ≤ 128 ∧ fullBit s (x.pa / 128) = true) :
    ∃ buf', ReadsAre c (s, buf) ps (s, buf') (ps.map (onPad s c)) ∧ Honest s buf' := by
  induction ps generalizing buf with
  | nil => exact ⟨buf, ⟨rfl, rfl⟩, hbuf⟩
  | cons p ps ih =>
    obtain ⟨x, hpad, hn, hfull⟩ := h p List.mem_cons_self
    obtain ⟨buf₁, hread, hbuf₁⟩ := loaderRead_onPad hpad hn hfull hbuf
    obtain ⟨buf₂, hreads, hbuf₂⟩ := ih hbuf₁ fun p' hp' => h p' (List.mem_cons_of_mem _ hp')
    exact ⟨buf₂, ⟨s, buf₁, _, _, hread, hreads, rfl⟩, hbuf₂⟩

end

/-- A row of reads, one after another, from no line held. -/
theorem rows_onPad {s : State} {c : Nat} (reads : Nat → List (Nat × Nat)) (n : Nat)
    (h : ∀ k, k < n → ∀ p ∈ reads k, ∃ x, OnPad s c p.1 false x ∧ x.pa % 128 + p.2 ≤ 128 ∧ fullBit s (x.pa / 128) = true) :
    ∃ bufs : Nat → LineBuf, bufs 0 = [] ∧ Honest s (bufs n) ∧
      ∀ k, k < n → ReadsAre c (s, bufs k) (reads k) (s, bufs (k + 1)) ((reads k).map (onPad s c)) := by
  induction n with
  | zero => exact ⟨fun _ => [], rfl, by simp [Honest], fun k hk => absurd hk (by omega)⟩
  | succ n ih =>
    obtain ⟨bufs, h0, hbuf, hreads⟩ := ih fun k hk => h k (by omega)
    obtain ⟨last, hlast, hhonest⟩ := reads_onPad (reads n) hbuf (h n (by omega))
    refine ⟨Function.update bufs (n + 1) last, by simpa [Function.update] using h0, by simpa using hhonest, fun k hk => ?_⟩
    rw [Function.update_of_ne (by omega)]
    rcases Nat.lt_succ_iff_lt_or_eq.1 hk with hlt | rfl
    · rw [Function.update_of_ne (by omega)]
      exact hreads k hlt
    · rw [Function.update_self]
      exact hlast

theorem nextFetch_none_held {k : Core} {e : Nat} {b : Binding} (hleft : 0 < b.left) (h : (loaderAt k.edge e).fetched = []) :
    nextFetch k e b = some (b.q0 + b.taken) := by
  obtain ⟨n, hn⟩ : ∃ n, min b.left 4 = n + 1 := ⟨min b.left 4 - 1, by omega⟩
  simp [nextFetch, h, hn, List.range_succ_eq_map]

theorem perRegister_pos {b : Binding} (h : recFmt b.recd ≤ 10) : 0 < perRegister b :=
  Nat.pos_of_mul_pos_left (a := fmtBits (recFmt b.recd)) (by rw [fmtBits_mul_perRegister h]; decide)

theorem fetchStep_onPad {s : State} {c e : Nat} {b : Binding} (hfeeds : Feeds s c e b) (hf : recFmt b.recd ≤ 10)
    (hnone : (loaderAt (coreAt s c).edge e).fetched = [])
    (hpad : ∀ i, i < edgeLen (coreAt s c).arr.win e → ∀ l, l < perRegister b → ∀ p ∈ readsOf b (b.q0 + b.taken) i l,
      ∃ x, OnPad s c p.1 false x ∧ x.pa % 128 + p.2 ≤ 128 ∧ fullBit s (x.pa / 128) = true) :
    ∃ vs, StepFetched s (fetchStep s c e) c e (b.q0 + b.taken) vs ∧ vs.length = edgeLen (coreAt s c).arr.win e ∧
      ∀ i, i < edgeLen (coreAt s c).arr.win e → ∃ v, vs[i]? = some v ∧
        Presents b (b.q0 + b.taken) i (fun l => (readsOf b (b.q0 + b.taken) i l).map (onPad s c)) v := by
  have hpos := perRegister_pos hf
  have hplace : ∀ i l, l < perRegister b → (i * perRegister b + l) / perRegister b = i ∧ (i * perRegister b + l) % perRegister b = l :=
    fun i l hl => by
      rw [Nat.mul_comm, Nat.mul_add_div hpos, Nat.div_eq_of_lt hl, Nat.mul_add_mod, Nat.mod_eq_of_lt hl]
      exact ⟨rfl, rfl⟩
  obtain ⟨bufs, h0, -, hreads⟩ := rows_onPad (s := s) (c := c)
    (fun k => readsOf b (b.q0 + b.taken) (k / perRegister b) (k % perRegister b)) (edgeLen (coreAt s c).arr.win e * perRegister b)
    fun k hk => hpad _ (Nat.div_lt_of_lt_mul (by rwa [Nat.mul_comm])) _ (Nat.mod_lt _ hpos)
  have ⟨_, hleft, _⟩ := hfeeds
  refine fetchStep_of_reads (st := fun i l => (s, bufs (i * perRegister b + l))) hfeeds hf (nextFetch_none_held hleft hnone)
    (by simp [hnone]) (by simp [h0]) (fun i _ => by simp [Nat.succ_mul]) fun i hi l hl => ?_
  have hlt : i * perRegister b + l < edgeLen (coreAt s c).arr.win e * perRegister b :=
    calc i * perRegister b + l < (i + 1) * perRegister b := by rw [Nat.succ_mul]; omega
      _ ≤ _ := Nat.mul_le_mul_right _ hi
  obtain ⟨hdiv, hmod⟩ := hplace i l hl
  have hread := hreads _ hlt
  rw [hdiv, hmod] at hread
  exact hread

theorem feedsPresentTheirElements : FeedsPresentTheirElements := by
  refine ⟨fun s c e q b st vals hfeeds hf hq hnew h0 hnext hreads => ?_, fun s c e b hfeeds hf hnone hpad => ?_,
    fun s u c e q b vs hfeeds hq hnew h => ?_, fun s u c e q b => ⟨fun hfeeds hq hnew h => ?_, fun h => ?_⟩⟩
  · obtain ⟨vs, h⟩ := fetchStep_of_reads hfeeds hf hq hnew h0 hnext hreads
    exact ⟨_, vs, rfl, h⟩
  · obtain ⟨vs, h⟩ := fetchStep_onPad hfeeds hf hnone hpad
    exact ⟨_, vs, rfl, h⟩
  · exact ⟨_, rfl, fetchStep_fetched hfeeds hq hnew h, fetchPositions_length _ h⟩
  · exact congrArg Host.Outcome.next (fetchStep_waits hfeeds hq hnew h)
  · exact congrArg Host.Outcome.next (fetchStep_frozen h)

/-! ### Bits of lines and of memory -/

/-- A bit of a field of a number. -/
theorem testBit_field {w j : Nat} (x i : Nat) (hj : j < w) : x.testBit (w * i + j) = (x / 2 ^ (w * i) % 2 ^ w).testBit j := by
  rw [Nat.testBit_mod_two_pow, Nat.testBit_div_two_pow, decide_eq_true hj, Bool.true_and, Nat.add_comm]

/-- Bit k of a field of n bits at a place. -/
theorem testBit_shifted (n at_ v k : Nat) :
    (v % 2 ^ n * 2 ^ at_).testBit k = (decide (at_ ≤ k ∧ k < at_ + n) && v.testBit (k - at_)) := by
  rw [Nat.testBit_mul_two_pow, Nat.testBit_mod_two_pow, ← Bool.and_assoc, ← Bool.decide_and]
  congr 1
  rw [decide_eq_decide]
  omega

theorem testBit_ones_shifted (n at_ k : Nat) : ((2 ^ n - 1) * 2 ^ at_).testBit k = decide (at_ ≤ k ∧ k < at_ + n) := by
  rw [Nat.testBit_mul_two_pow, Nat.testBit_two_pow_sub_one, ← Bool.decide_and, decide_eq_decide]
  omega

theorem maskNat_eq_packed (f : Nat → Bool) (n : Nat) : maskNat f n = packed 8 n fun i => if f i then 255 else 0 := by
  induction n with
  | zero => rfl
  | succ n ih =>
    have hpow : 256 ^ n = 2 ^ (8 * n) := (Nat.pow_mul 2 8 n).symm
    rw [maskNat, ih, packed, packed, List.range_succ, List.map_append, List.sum_append, hpow]
    simp [ite_mul]

theorem maskBits_getLsbD (m : LineMask) {k : Nat} (hk : k < 1024) : (maskBits m).getLsbD k = m.getLsbD (k / 8) := by
  have hlt : ∀ i, i < 128 → (if m.getLsbD i then 255 else 0) < 2 ^ 8 := fun i _ => by split <;> decide
  have hk' : k = 8 * (k / 8) + k % 8 := by omega
  have hj : k % 8 < 8 := by omega
  have hones : (255 : Nat).testBit (k % 8) = true := by
    generalize k % 8 = j at hj
    interval_cases j <;> rfl
  rw [maskBits, maskNat_eq_packed, BitVec.getLsbD_ofNat, decide_eq_true hk, Bool.true_and, hk', testBit_field _ _ hj,
    packed_field hlt (by omega), ← hk']
  cases m.getLsbD (k / 8)
  · simp
  · exact hones

theorem touchedBytes_getLsbD (bits : LineData) {i : Nat} (hi : i < 128) :
    (touchedBytes bits).getLsbD i = decide (bits.extractLsb' (8 * i) 8 ≠ 0) := by
  have hsum : ((List.range 128).map fun i => if bits.extractLsb' (8 * i) 8 = 0 then 0 else 2 ^ i).sum =
      packed 1 128 fun i => if bits.extractLsb' (8 * i) 8 = 0 then 0 else 1 := by
    rw [packed]
    congr 1
    refine List.map_congr_left fun i _ => ?_
    split <;> simp
  have hlt : ∀ i, i < 128 → (if bits.extractLsb' (8 * i) 8 = 0 then 0 else 1) < 2 ^ 1 := fun i _ => by split <;> decide
  have hbit := testBit_field (w := 1) (j := 0) (packed 1 128 fun i => if bits.extractLsb' (8 * i) 8 = 0 then 0 else 1) i (by decide)
  rw [packed_field hlt hi, Nat.one_mul, Nat.add_zero] at hbit
  rw [touchedBytes, hsum, BitVec.getLsbD_ofNat, decide_eq_true hi, Bool.true_and, hbit]
  by_cases hzero : bits.extractLsb' (8 * i) 8 = 0
  · rw [if_pos hzero, decide_eq_false (not_not.2 hzero)]
    rfl
  · rw [if_neg hzero, decide_eq_true hzero]
    rfl

/-- A byte with a written bit is touched. -/
theorem touchedBytes_of_bit {bits : LineData} {k : Nat} (hk : k < 1024) (h : bits.getLsbD k = true) :
    (touchedBytes bits).getLsbD (k / 8) = true := by
  rw [touchedBytes_getLsbD bits (by omega), decide_eq_true_eq]
  intro hzero
  have hbit := congrArg (BitVec.getLsbD · (k % 8)) hzero
  have hk' : 8 * (k / 8) + k % 8 = k := by omega
  have hj : k % 8 < 8 := by omega
  simp [hk', hj, h] at hbit

theorem memByte_memMerge (m : List Host.Cell) (line : Nat) (d : LineData) (mask : LineMask) (n a : Nat) :
    memByte (memMerge m line d mask n) a =
      if 128 * line ≤ a ∧ a < 128 * line + n ∧ mask.getLsbD (a - 128 * line) = true then d.extractLsb' (8 * (a - 128 * line)) 8
      else memByte m a := by
  induction n with
  | zero => rw [memMerge, if_neg (by omega)]
  | succ n ih =>
    rw [memMerge]
    by_cases ha : a = 128 * line + n
    · have hoff : 128 * line + n - 128 * line = n := by omega
      subst ha
      rw [hoff]
      cases hm : mask.getLsbD n with
      | true => rw [if_pos rfl, memByte_set, if_pos rfl, if_pos ⟨by omega, by omega, rfl⟩]
      | false =>
        rw [if_neg Bool.false_ne_true, ih, if_neg (by omega), if_neg (by rintro ⟨_, _, h⟩; cases h)]
    · have hmask : memByte (if mask.getLsbD n then Tab.set 0 (memMerge m line d mask n) (128 * line + n) (d.extractLsb' (8 * n) 8)
          else memMerge m line d mask n) a = memByte (memMerge m line d mask n) a := by
        split
        · rw [memByte_set, if_neg ha]
        · rfl
      have hiff : (a < 128 * line + (n + 1)) ↔ a < 128 * line + n := by omega
      rw [hmask, ih]
      simp only [hiff]

/-- Bit k of memory (R4): bit k mod 8 of byte k div 8. -/
def bitOf (m : List Host.Cell) (k : Nat) : Bool := (memByte m (k / 8)).getLsbD (k % 8)

theorem bitOf_memMerge (m : List Host.Cell) (line : Nat) (d : LineData) (mask : LineMask) (k : Nat) :
    bitOf (memMerge m line d mask 128) k =
      if k / 1024 = line ∧ mask.getLsbD (k % 1024 / 8) = true then d.getLsbD (k % 1024) else bitOf m k := by
  rw [bitOf, memByte_memMerge]
  by_cases hline : k / 1024 = line
  · have hoff : k / 8 - 128 * line = k % 1024 / 8 := by omega
    have hplace : 8 * (k % 1024 / 8) + k % 8 = k % 1024 := by omega
    have hin : 128 * line ≤ k / 8 ∧ k / 8 < 128 * line + 128 := by omega
    rw [hoff]
    by_cases hm : mask.getLsbD (k % 1024 / 8) = true
    · rw [if_pos ⟨hin.1, hin.2, hm⟩, if_pos ⟨hline, hm⟩, BitVec.getLsbD_extractLsb', hplace, decide_eq_true (by omega), Bool.true_and]
    · rw [if_neg (fun h => hm h.2.2), if_neg fun h => hm h.2]
      rfl
  · rw [if_neg (by omega), if_neg fun h => hline h.1]
    rfl

/-! ### The write of a line to a scratchpad (R262) -/

/-- A place of a scratchpad. -/
def PadPlace (x : Xl) : Prop := x.home = 1 ∧ inDoorbell x.pa = false ∧ inCounters x.pa = false ∧ inHost x.pa = false

theorem clusterWrite_pad {x : Xl} (h : PadPlace x) (s : State) (c : Nat) (d : LineData) (m : LineMask) :
    clusterWrite s c x d m = homeMerge s (x.pa / 128) d m := by
  obtain ⟨hhome, hbell, hcounters, hhost⟩ := h
  simp [clusterWrite, singleLine, hhome, hbell, hcounters, hhost]

theorem clusterRead_pad {x : Xl} (h : PadPlace x) (s : State) (c : Nat) :
    clusterRead s c { x with pa := x.pa / 128 * 128 } 128 = (s, memRead s.sys.mem (128 * (x.pa / 128)) 128) := by
  obtain ⟨hhome, hbell, hcounters, hhost⟩ := h
  simp [clusterRead, singleRead, hhome, Nat.mul_comm _ 128, inDoorbell_line, inCounters_line, inHost_line, hbell, hcounters, hhost]

theorem homeMerge_eq (s : State) (line : Nat) (d : LineData) (m : LineMask) :
    homeMerge s line d m = modSys s fun y => { y with mem := memMerge s.sys.mem line d m 128 } := by
  unfold homeMerge
  generalize 128 = n
  rfl

/-- The bits of a line that is read from memory. -/
theorem readLine_getLsbD (m : List Host.Cell) (line : Nat) {k : Nat} (hk : k < 1024) :
    (BitVec.ofNat 1024 (bytesNat (memRead m (128 * line) 128))).getLsbD k = bitOf m (1024 * line + k) := by
  have hlen : (memRead m (128 * line) 128).length = 128 := by simp [memRead_eq_map]
  have hbyte := lineByte_ofNat_bytesNat hlen.le (k / 8)
  rw [memRead_eq_map, List.getD_eq_getElem _ _ (by simp; omega), List.getElem_map, List.getElem_range, ← memRead_eq_map] at hbyte
  have hplace : (1024 * line + k) / 8 = 128 * line + k / 8 := by omega
  have hbit : (1024 * line + k) % 8 = k % 8 := by omega
  have hk' : 8 * (k / 8) + k % 8 = k := by omega
  rw [bitOf, hplace, hbit, ← hbyte, lineByte, BitVec.getLsbD_extractLsb', decide_eq_true (by omega), Bool.true_and, hk']

theorem writeBits_pad (s : State) (c : Nat) {v : LineWrite} (h : PadPlace v.x) :
    ∃ m, writeBits c s v = modSys s (fun y => { y with mem := m }) ∧
      ∀ k, bitOf m k = if k / 1024 = v.x.pa / 128 ∧ v.bits.getLsbD (k % 1024) = true then v.data.getLsbD (k % 1024)
        else bitOf s.sys.mem k := by
  rw [writeBits]
  by_cases hwhole : maskBits (touchedBytes v.bits) = v.bits
  · refine ⟨memMerge s.sys.mem (v.x.pa / 128) v.data (touchedBytes v.bits) 128, ?_, fun k => ?_⟩
    · rw [if_pos hwhole, clusterWrite_pad h, homeMerge_eq]
    · have hbit := maskBits_getLsbD (touchedBytes v.bits) (k := k % 1024) (by omega)
      rw [hwhole] at hbit
      rw [bitOf_memMerge, hbit]
  · refine ⟨memMerge s.sys.mem (v.x.pa / 128)
      ((BitVec.ofNat 1024 (bytesNat (memRead s.sys.mem (128 * (v.x.pa / 128)) 128)) &&& ~~~ v.bits) |||
      (v.data &&& v.bits)) (touchedBytes v.bits) 128, ?_, fun k => ?_⟩
    · rw [if_neg hwhole, clusterRead_pad h, ← homeMerge_eq, ← clusterWrite_pad h s c]
    · have hk : k % 1024 < 1024 := by omega
      rw [bitOf_memMerge]
      by_cases hline : k / 1024 = v.x.pa / 128
      · have hplace : 1024 * (v.x.pa / 128) + k % 1024 = k := by omega
        have hold := readLine_getLsbD s.sys.mem (v.x.pa / 128) hk
        rw [hplace] at hold
        rw [BitVec.getLsbD_or, BitVec.getLsbD_and, BitVec.getLsbD_and, BitVec.getLsbD_not, hold, decide_eq_true hk, Bool.true_and]
        cases hbit : v.bits.getLsbD (k % 1024) with
        | true => simp [hline, touchedBytes_of_bit hk hbit]
        | false => simp
      · rw [if_neg fun h => hline h.1, if_neg fun h => hline h.1]

/-! ### The bits that a position brings to its lines (R136, R140, R262) -/

/-- The write of a line, where there is one. -/
def atLine (ws : List LineWrite) (line : Nat) : Option LineWrite := ws.find? fun v => v.x.pa / 128 == line
/-- Bit k of memory is written. -/
def writesBit (ws : List LineWrite) (k : Nat) : Bool := match atLine ws (k / 1024) with | none => false | some v => v.bits.getLsbD (k % 1024)
/-- What it is written as. -/
def writtenBit (ws : List LineWrite) (k : Nat) : Bool := match atLine ws (k / 1024) with | none => false | some v => v.data.getLsbD (k % 1024)

/-- The field of n bits at a place in a line. -/
def fieldBits (n at_ : Nat) : LineData := BitVec.ofNat 1024 ((2 ^ n - 1) * 2 ^ at_)
/-- The bits of v there. -/
def fieldData (n v at_ : Nat) : LineData := BitVec.ofNat 1024 (v % 2 ^ n * 2 ^ at_)

/-- The write of a line after an element has come to it. -/
def withField (x : Xl) (n v at_ : Nat) : Option LineWrite → LineWrite
  | none => ⟨x, fieldData n v at_, fieldBits n at_⟩
  | some w => { w with data := (w.data &&& ~~~ fieldBits n at_) ||| fieldData n v at_, bits := w.bits ||| fieldBits n at_ }

section
variable (x : Xl) (n v at_ : Nat)

theorem atLine_addBits (ws : List LineWrite) (line : Nat) :
    atLine (addBits x n v at_ ws) line = if x.pa / 128 = line then some (withField x n v at_ (atLine ws line)) else atLine ws line := by
  induction ws with
  | nil =>
    by_cases h : x.pa / 128 = line <;> simp [addBits, atLine, h, withField, fieldData, fieldBits]
  | cons w t ih =>
    unfold atLine at ih ⊢
    rw [addBits]
    by_cases hw : w.x.pa / 128 = x.pa / 128
    · by_cases h : x.pa / 128 = line
      · simp [hw, h, withField, fieldData, fieldBits]
      · simp [hw, h]
    · by_cases h : x.pa / 128 = line
      · have hwl : w.x.pa / 128 ≠ line := h ▸ hw
        rw [if_pos h] at ih ⊢
        simp [hw, hwl, ih]
      · rw [if_neg h] at ih ⊢
        simp [hw, List.find?_cons, ih]

theorem place_addBits {ws : List LineWrite} {w : LineWrite} (h : w ∈ addBits x n v at_ ws) : w.x = x ∨ ∃ u ∈ ws, w.x = u.x := by
  induction ws with
  | nil =>
    rw [List.mem_singleton.1 h]
    exact .inl rfl
  | cons u t ih =>
    rw [addBits] at h
    split at h
    · rcases List.mem_cons.1 h with rfl | h
      · exact .inr ⟨u, List.mem_cons_self, rfl⟩
      · exact .inr ⟨w, List.mem_cons_of_mem _ h, rfl⟩
    · rcases List.mem_cons.1 h with rfl | h
      · exact .inr ⟨w, List.mem_cons_self, rfl⟩
      · exact (ih h).imp_right fun ⟨y, hy, heq⟩ => ⟨y, List.mem_cons_of_mem _ hy, heq⟩

theorem nodup_addBits {ws : List LineWrite} (h : (ws.map fun v => v.x.pa / 128).Nodup) :
    ((addBits x n v at_ ws).map fun v => v.x.pa / 128).Nodup := by
  induction ws with
  | nil => exact List.nodup_singleton _
  | cons w t ih =>
    obtain ⟨hnew, ht⟩ := List.nodup_cons.1 h
    rw [addBits]
    split
    · exact h
    · rename_i hw
      refine List.nodup_cons.2 ⟨fun hmem => ?_, ih ht⟩
      obtain ⟨y, hy, hline⟩ := List.mem_map.1 hmem
      rcases place_addBits x n v at_ hy with hx | ⟨u, hu, hx⟩
      · rw [hx] at hline
        exact hw (beq_iff_eq.2 hline.symm)
      · exact hnew (List.mem_map.2 ⟨u, hu, by rw [← hx]; exact hline⟩)

theorem fieldBits_getLsbD {k : Nat} (hk : k < 1024) : (fieldBits n at_).getLsbD k = decide (at_ ≤ k ∧ k < at_ + n) := by
  rw [fieldBits, BitVec.getLsbD_ofNat, decide_eq_true hk, Bool.true_and, testBit_ones_shifted]
theorem fieldData_getLsbD {k : Nat} (hk : k < 1024) :
    (fieldData n v at_).getLsbD k = (decide (at_ ≤ k ∧ k < at_ + n) && v.testBit (k - at_)) := by
  rw [fieldData, BitVec.getLsbD_ofNat, decide_eq_true hk, Bool.true_and, testBit_shifted]

/-- Bit k of memory lies in the field that an element takes in the line of x. -/
def InField (k : Nat) : Prop := x.pa / 128 = k / 1024 ∧ at_ ≤ k % 1024 ∧ k % 1024 < at_ + n

theorem writesBit_addBits (ws : List LineWrite) (k : Nat) :
    writesBit (addBits x n v at_ ws) k = true ↔ InField x n at_ k ∨ writesBit ws k = true := by
  have hk : k % 1024 < 1024 := by omega
  unfold writesBit InField
  rw [atLine_addBits]
  by_cases h : x.pa / 128 = k / 1024
  · rw [if_pos h]
    cases atLine ws (k / 1024) with
    | none => simp [withField, fieldBits_getLsbD _ _ hk, h]
    | some w => simp [withField, fieldBits_getLsbD _ _ hk, h, or_comm]
  · simp [h]

theorem writtenBit_addBits_in (ws : List LineWrite) {k : Nat} (h : InField x n at_ k) :
    writtenBit (addBits x n v at_ ws) k = v.testBit (k % 1024 - at_) := by
  have hk : k % 1024 < 1024 := by omega
  obtain ⟨hline, hlo, hhi⟩ := h
  unfold writtenBit
  rw [atLine_addBits, if_pos hline]
  cases atLine ws (k / 1024) with
  | none => simp [withField, fieldData_getLsbD _ _ _ hk, hlo, hhi]
  | some w => simp [withField, fieldData_getLsbD _ _ _ hk, fieldBits_getLsbD _ _ hk, hlo, hhi]

theorem writtenBit_addBits_out (ws : List LineWrite) {k : Nat} (h : ¬ InField x n at_ k) :
    writtenBit (addBits x n v at_ ws) k = writtenBit ws k := by
  have hk : k % 1024 < 1024 := by omega
  unfold InField at h
  unfold writtenBit
  rw [atLine_addBits]
  by_cases hline : x.pa / 128 = k / 1024
  · have hout : ¬ (at_ ≤ k % 1024 ∧ k % 1024 < at_ + n) := fun hin => h ⟨hline, hin⟩
    rw [if_pos hline]
    cases atLine ws (k / 1024) with
    | none => simp [withField, fieldData_getLsbD _ _ _ hk, hout]
    | some w =>
      simp [withField, fieldData_getLsbD _ _ _ hk, fieldBits_getLsbD _ _ hk, hout, -BitVec.getLsbD_eq_getElem]
      exact fun _ => hk
  · rw [if_neg hline]

end

/-! ### The lines of a captured position (R136, R140, R196) -/

/-- The data of the position of a capture that is written next. -/
def captured (p : Capture) : RegData := (Tab.get FReg.zero p.regs p.wpos).data

/-- The line writes of a position's first elements, element l translated as xs l. -/
def placed (p : Capture) (xs : Nat → Xl) : Nat → List LineWrite
  | 0 => []
  | l + 1 =>
    match stored p.bind p.q p.wpos l with
    | none => placed p xs l
    | some ix => addBits (xs l) (fmtBits (recFmt p.bind.recd)) (elem (fmtBits (recFmt p.bind.recd)) (captured p) l)
        (elemPlace (recFmt p.bind.recd) ix (xs l).pa) (placed p xs l)

section
variable {p : Capture} {xs : Nat → Xl} {l k : Nat} {ix : List Nat}

theorem placed_padding (h : stored p.bind p.q p.wpos l = none) : placed p xs (l + 1) = placed p xs l := by
  simp only [placed, h]
theorem placed_stored (h : stored p.bind p.q p.wpos l = some ix) : placed p xs (l + 1) =
    addBits (xs l) (fmtBits (recFmt p.bind.recd)) (elem (fmtBits (recFmt p.bind.recd)) (captured p) l)
      (elemPlace (recFmt p.bind.recd) ix (xs l).pa) (placed p xs l) := by
  simp only [placed, h]

theorem takes_padding (h : stored p.bind p.q p.wpos l = none) : ¬ Takes p xs l k := by
  rintro ⟨ix, hix, -⟩
  exact nomatch h.symm.trans hix

theorem takes_stored (h : stored p.bind p.q p.wpos l = some ix) : Takes p xs l k ↔
    startBit p.bind.recd ix (xs l) ≤ k ∧ k < startBit p.bind.recd ix (xs l) + fmtBits (recFmt p.bind.recd) := by
  refine ⟨fun ⟨ix', hix', hk⟩ => ?_, fun hk => ⟨ix, h, hk⟩⟩
  rwa [Option.some.inj (h.symm.trans hix')]

/-- An element lies in one line. -/
theorem field_of_element {r : RecBits} {x : Xl} (hf : recFmt r ≤ 10) (hx : 8 * x.pa % fmtBits (recFmt r) = 0) (k : Nat) :
    (InField x (fmtBits (recFmt r)) (elemPlace (recFmt r) ix x.pa) k ↔ startBit r ix x ≤ k ∧ k < startBit r ix x + fmtBits (recFmt r)) ∧
      (InField x (fmtBits (recFmt r)) (elemPlace (recFmt r) ix x.pa) k → k % 1024 - elemPlace (recFmt r) ix x.pa = k - startBit r ix x) := by
  have hstart : startBit r ix x = 8 * x.pa + elemPlace (recFmt r) ix x.pa - 8 * (x.pa % 128) := by
    have hcond : (recFmt r = 5 && ix.getD 0 0 % 2 == 1) = decide (recFmt r = 5 ∧ ix.getD 0 0 % 2 = 1) := by simp [Bool.decide_and]; rfl
    rw [startBit, elemPlace, hcond]
    simp only [decide_eq_true_eq]
    omega
  have hplace : 8 * (x.pa % 128) ≤ elemPlace (recFmt r) ix x.pa ∧ elemPlace (recFmt r) ix x.pa + fmtBits (recFmt r) ≤ 1024 := by
    unfold elemPlace
    rcases fmtBits_cases hf with ⟨hw, -⟩ | ⟨hw, hne⟩
    · rw [hw]
      split <;> omega
    · rw [if_neg (by simp [hne])]
      rcases hw with hw | hw | hw <;> rw [hw] at hx ⊢ <;> omega
  unfold InField
  omega

theorem writesBit_placed (hf : recFmt p.bind.recd ≤ 10) (n : Nat)
    (hx : ∀ l, l < n → ∀ ix, stored p.bind p.q p.wpos l = some ix → 8 * (xs l).pa % fmtBits (recFmt p.bind.recd) = 0) :
    writesBit (placed p xs n) k = true ↔ ∃ l, l < n ∧ Takes p xs l k := by
  induction n with
  | zero => simp [placed, writesBit, atLine]
  | succ n ih =>
    have ih := ih fun l hl => hx l (by omega)
    have hlast : (∃ l, l < n + 1 ∧ Takes p xs l k) ↔ Takes p xs n k ∨ ∃ l, l < n ∧ Takes p xs l k := by
      constructor
      · rintro ⟨l, hl, htake⟩
        rcases Nat.lt_succ_iff_lt_or_eq.1 hl with hlt | rfl
        · exact .inr ⟨l, hlt, htake⟩
        · exact .inl htake
      · rintro (htake | ⟨l, hl, htake⟩)
        · exact ⟨n, by omega, htake⟩
        · exact ⟨l, by omega, htake⟩
    rw [hlast, ← ih]
    cases hix : stored p.bind p.q p.wpos n with
    | none => simp [placed_padding hix, takes_padding hix]
    | some ix => rw [placed_stored hix, writesBit_addBits, (field_of_element hf (hx n (by omega) ix hix) k).1, takes_stored hix]

theorem writtenBit_placed (hf : recFmt p.bind.recd ≤ 10) (n : Nat)
    (hx : ∀ l, l < n → ∀ ix, stored p.bind p.q p.wpos l = some ix → 8 * (xs l).pa % fmtBits (recFmt p.bind.recd) = 0)
    (hl : l < n) (htake : Takes p xs l k) (hlast : ∀ j, l < j → j < n → ¬ Takes p xs j k) (hix : stored p.bind p.q p.wpos l = some ix) :
    writtenBit (placed p xs n) k = (captured p).getLsbD (fmtBits (recFmt p.bind.recd) * l + (k - startBit p.bind.recd ix (xs l))) := by
  induction n with
  | zero => omega
  | succ n ih =>
    rcases Nat.lt_succ_iff_lt_or_eq.1 hl with hlt | rfl
    · have hrest := ih (fun j hj => hx j (by omega)) hlt fun j hlo hhi => hlast j hlo (by omega)
      have hnot := hlast n hlt (by omega)
      cases hn : stored p.bind p.q p.wpos n with
      | none => rw [placed_padding hn, hrest]
      | some iy =>
        rw [takes_stored hn, ← (field_of_element hf (hx n (by omega) iy hn) k).1] at hnot
        rw [placed_stored hn, writtenBit_addBits_out _ _ _ _ _ hnot, hrest]
    · obtain ⟨hiff, hoff⟩ := field_of_element (ix := ix) hf (hx l (by omega) ix hix) k
      have hin := hiff.2 ((takes_stored hix).1 htake)
      have hwidth : k - startBit p.bind.recd ix (xs l) < fmtBits (recFmt p.bind.recd) := by
        have := hiff.1 hin
        omega
      rw [placed_stored hix, writtenBit_addBits_in _ _ _ _ _ hin, hoff hin, testBit_elem, decide_eq_true hwidth, Bool.true_and]

theorem nodup_placed (n : Nat) : ((placed p xs n).map fun v => v.x.pa / 128).Nodup := by
  induction n with
  | zero => exact List.nodup_nil
  | succ n ih =>
    cases hix : stored p.bind p.q p.wpos n with
    | none => rwa [placed_padding hix]
    | some ix =>
      rw [placed_stored hix]
      exact nodup_addBits _ _ _ _ ih

/-- A line is that of an element. -/
theorem place_placed (n : Nat) {v : LineWrite} (h : v ∈ placed p xs n) :
    ∃ l ix, l < n ∧ stored p.bind p.q p.wpos l = some ix ∧ v.x = xs l := by
  induction n generalizing v with
  | zero => exact absurd h List.not_mem_nil
  | succ n ih =>
    have hrest : ∀ u ∈ placed p xs n, v.x = u.x →
        ∃ l ix, l < n + 1 ∧ stored p.bind p.q p.wpos l = some ix ∧ v.x = xs l := fun u hu heq => by
      obtain ⟨l, ix, hl, hix, hux⟩ := ih hu
      exact ⟨l, ix, by omega, hix, heq.trans hux⟩
    cases hix : stored p.bind p.q p.wpos n with
    | none =>
      rw [placed_padding hix] at h
      exact hrest v h rfl
    | some ix =>
      rw [placed_stored hix] at h
      rcases place_addBits _ _ _ _ h with hx | ⟨u, hu, hux⟩
      · exact ⟨n, ix, by omega, hix, hx⟩
      · exact hrest u hu hux

end

/-- The last of some numbers below a bound. -/
theorem exists_last {P : Nat → Prop} (n : Nat) (h : ∃ l, l < n ∧ P l) : ∃ l, l < n ∧ P l ∧ ∀ j, l < j → j < n → ¬ P j := by
  induction n with
  | zero => exact absurd h (by simp)
  | succ n ih =>
    by_cases hn : P n
    · exact ⟨n, by omega, hn, fun j hlo hhi => by omega⟩
    · obtain ⟨l, hl, hP⟩ := h
      have hne : l ≠ n := fun heq => hn (heq ▸ hP)
      obtain ⟨m, hm, hPm, hlast⟩ := ih ⟨l, by omega, hP⟩
      refine ⟨m, by omega, hPm, fun j hlo hhi => ?_⟩
      rcases Nat.lt_succ_iff_lt_or_eq.1 hhi with hlt | rfl
      · exact hlast j hlo hlt
      · exact hn

/-- In a list of distinct lines a write is the one of its line. -/
theorem atLine_of_mem {ws : List LineWrite} (h : (ws.map fun v => v.x.pa / 128).Nodup) {v : LineWrite} (hv : v ∈ ws) :
    atLine ws (v.x.pa / 128) = some v := by
  induction ws with
  | nil => exact absurd hv List.not_mem_nil
  | cons w t ih =>
    obtain ⟨hnew, ht⟩ := List.nodup_cons.1 h
    unfold atLine at ih ⊢
    rcases List.mem_cons.1 hv with rfl | hmem
    · exact List.find?_cons_of_pos (beq_self_eq_true (v.x.pa / 128))
    · have hne : w.x.pa / 128 ≠ v.x.pa / 128 := fun heq => hnew (List.mem_map.2 ⟨v, hmem, heq.symm⟩)
      rw [List.find?_cons_of_neg (by simpa using hne), ih ht hmem]

/-! ### A drain write (R140, R141, R196) -/

section
variable {s : State} {c e : Nat} {p : Capture} {rest : List Capture}

theorem drainReady_of_drains (h : Drains s c e p rest) : drainReady s c e = some p := by
  obtain ⟨hcaps, hgot, hprog, hblocked, hstands, -⟩ := h
  have hdone : (p.bind.prog.isNone || decide (p.done = p.len)) = true := by
    rcases hprog with h | h <;> simp [h]
  simp [drainReady, writable, hcaps, hgot, hdone, hblocked, hstands]

theorem drainWrites_eq (s : State) (c : Nat) (p : Capture) :
    drainWrites s c p = drainElems s c p.bind p.q p.wpos (captured p) [] (List.range (drained p)) := rfl

theorem drainStep_writes {u : State} {ws : List LineWrite} (h : Drains s c e p rest) (hw : drainWrites s c p = (u, .ok ws)) :
    drainStep s c e = modLoader (ws.foldl (writeBits c) u) c e (positionWritten p) := by
  simp only [drainStep, drainReady_of_drains h, hw]

theorem drainStep_fails {u : State} {kind line : Nat} (h : Drains s c e p rest) (hw : drainWrites s c p = (u, .error (kind, line))) :
    drainStep s c e = drainFails u c e p kind line := by
  simp only [drainStep, drainReady_of_drains h, hw]

theorem drainStep_blocked (h : drainBlocked s c e = true) : drainStep s c e = s := by
  have hready : drainReady s c e = none := by simp [drainReady, h]
  simp only [drainStep, hready]

theorem drainStep_stands (hcaps : (loaderAt (coreAt s c).edge e).caps = p :: rest) (h : drainStands s c p = true) : drainStep s c e = s := by
  have hready : drainReady s c e = none := by
    rw [drainReady, Option.filter_eq_none_iff]
    intro y hy
    have hyp : y = p := by
      simp only [writable, hcaps] at hy
      split at hy
      · exact (Option.some.inj hy).symm
      · cases hy
    simp [hyp, h]
  simp only [drainStep, hready]

theorem drainElems_placed {st : Nat → State} {xs : Nat → Xl} (n l : Nat)
    (hst : ∀ j, l ≤ j → j < l + n → (stored p.bind p.q p.wpos j = none → st (j + 1) = st j) ∧
      ∀ ix, stored p.bind p.q p.wpos j = some ix → loaderTranslate (st j) c (elementAt p.bind.recd ix) true = (st (j + 1), .ok (xs j))) :
    drainElems (st l) c p.bind p.q p.wpos (captured p) (placed p xs l) (List.range' l n) = (st (l + n), .ok (placed p xs (l + n))) := by
  induction n generalizing l with
  | zero => rfl
  | succ n ih =>
    have hrest := ih (l + 1) fun j hlo hhi => hst j (by omega) (by omega)
    have hsum : l + 1 + n = l + (n + 1) := by omega
    rw [hsum] at hrest
    obtain ⟨hpad, helem⟩ := hst l le_rfl (by omega)
    rw [List.range'_succ, drainElems]
    simp only [storedIndex_eq_stored]
    cases hix : stored p.bind p.q p.wpos l with
    | none =>
      rw [hpad hix, placed_padding hix] at hrest
      exact hrest
    | some ix =>
      rw [placed_stored hix] at hrest
      simp only [elemAddr_eq, helem ix hix]
      exact hrest

theorem drainWrites_placed {st : Nat → State} {xs : Nat → Xl} (h0 : st 0 = s)
    (hst : ∀ j, j < drained p → (stored p.bind p.q p.wpos j = none → st (j + 1) = st j) ∧
      ∀ ix, stored p.bind p.q p.wpos j = some ix → loaderTranslate (st j) c (elementAt p.bind.recd ix) true = (st (j + 1), .ok (xs j))) :
    drainWrites s c p = (st (drained p), .ok (placed p xs (drained p))) := by
  have h := drainElems_placed (c := c) (p := p) (st := st) (xs := xs) (drained p) 0 fun j _ hj => hst j (by omega)
  rw [h0, Nat.zero_add, ← List.range_eq_range'] at h
  exact (drainWrites_eq s c p).trans h

theorem loader_positionWritten (h : Drains s c e p rest) :
    positionWritten p (loaderAt (coreAt s c).edge e) = positionDone (loaderAt (coreAt s c).edge e) p rest := by
  obtain ⟨hcaps, -, -, -, -, hids⟩ := h
  have hrest : (rest.map fun x => if x.id == p.id then { x with wpos := x.wpos + 1 } else x) = rest := by
    refine (List.map_congr_left fun x hx => ?_).trans (List.map_id rest)
    rw [if_neg (by simpa using hids x hx)]
    rfl
  unfold positionWritten positionDone
  dsimp only
  rw [hcaps, List.map_cons, if_pos (beq_self_eq_true _), hrest, List.drop_one, List.tail_cons]

/-- The bits of a position are those of its elements. -/
theorem brings_of_placed {xs : Nat → Xl} (hf : recFmt p.bind.recd ≤ 10)
    (hx : ∀ l, l < drained p → ∀ ix, stored p.bind p.q p.wpos l = some ix → 8 * (xs l).pa % fmtBits (recFmt p.bind.recd) = 0) {k : Nat}
    (hk : writesBit (placed p xs (drained p)) k = true) : ∃ l, Brings p xs l k (writtenBit (placed p xs (drained p)) k) := by
  obtain ⟨l, hl, htake, hlast⟩ := exists_last _ ((writesBit_placed hf _ hx).1 hk)
  exact ⟨l, htake, hl, hlast, fun ix hix => writtenBit_placed hf _ hx hl htake hlast hix⟩

theorem bit_of_mem_placed {xs : Nat → Xl} {n k : Nat} {v : LineWrite} (hv : v ∈ placed p xs n) (hk : k < 1024) :
    writesBit (placed p xs n) (1024 * (v.x.pa / 128) + k) = v.bits.getLsbD k ∧
      writtenBit (placed p xs n) (1024 * (v.x.pa / 128) + k) = v.data.getLsbD k := by
  have hline : (1024 * (v.x.pa / 128) + k) / 1024 = v.x.pa / 128 := by omega
  have hbit : (1024 * (v.x.pa / 128) + k) % 1024 = k := by omega
  simp only [writesBit, writtenBit, hline, hbit, atLine_of_mem (nodup_placed n) hv, and_self]

end

/-! ### Writes to scratchpads -/

theorem foldl_writeBits_pad {s : State} (c : Nat) {ws : List LineWrite} (hpads : ∀ v ∈ ws, PadPlace v.x)
    (hd : (ws.map fun v => v.x.pa / 128).Nodup) :
    ∃ m, ws.foldl (writeBits c) s = modSys s (fun y => { y with mem := m }) ∧
      ∀ k, bitOf m k = if writesBit ws k = true then writtenBit ws k else bitOf s.sys.mem k := by
  induction ws generalizing s with
  | nil => exact ⟨s.sys.mem, rfl, fun k => by simp [writesBit, atLine]⟩
  | cons v t ih =>
    obtain ⟨m₁, hv, hbits₁⟩ := writeBits_pad s c (hpads v List.mem_cons_self)
    obtain ⟨hnew, ht⟩ := List.nodup_cons.1 hd
    obtain ⟨m, hfold, hbits⟩ := ih (s := writeBits c s v) (fun u hu => hpads u (List.mem_cons_of_mem _ hu)) ht
    have hmem : (writeBits c s v).sys.mem = m₁ := by rw [hv]; rfl
    refine ⟨m, ?_, fun k => ?_⟩
    · rw [List.foldl_cons, hfold, hv]
      rfl
    · rw [hbits, hmem, hbits₁]
      by_cases hline : v.x.pa / 128 = k / 1024
      · have hnone : atLine t (k / 1024) = none := List.find?_eq_none.2 fun u hu => by
          simp only [beq_iff_eq]
          exact fun heq => hnew (List.mem_map.2 ⟨u, hu, heq.trans hline.symm⟩)
        have hhead : atLine (v :: t) (k / 1024) = some v := List.find?_cons_of_pos (by simpa using hline)
        simp only [writesBit, writtenBit, hnone, hhead, hline, true_and, Bool.false_eq_true, if_false]
      · have htail : atLine (v :: t) (k / 1024) = atLine t (k / 1024) := List.find?_cons_of_neg (by simpa using hline)
        have hne : ¬ (k / 1024 = v.x.pa / 128 ∧ v.bits.getLsbD (k % 1024) = true) := fun h => hline h.1.symm
        have hwrites : writesBit (v :: t) k = writesBit t k := by simp only [writesBit, htail]
        have hwritten : writtenBit (v :: t) k = writtenBit t k := by simp only [writtenBit, htail]
        rw [if_neg hne, hwrites, hwritten]

theorem padPlace_of_onPad {s : State} {c va : Nat} {write : Bool} {x : Xl} (h : OnPad s c va write x) : PadPlace x := by
  obtain ⟨-, hhome, -, hbell, hcounters, hhost⟩ := h
  exact ⟨hhome, hbell, hcounters, hhost⟩

theorem drainStep_onPad {s : State} {c e : Nat} {p : Capture} {rest : List Capture} {xs : Nat → Xl} (hdrains : Drains s c e p rest)
    (hpads : ∀ l, l < drained p → ∀ ix, stored p.bind p.q p.wpos l = some ix → OnPad s c (elementAt p.bind.recd ix) true (xs l)) :
    ∃ m, drainStep s c e = modLoader (modSys s fun y => { y with mem := m }) c e (positionWritten p) ∧
      ∀ k, bitOf m k = if writesBit (placed p xs (drained p)) k = true then writtenBit (placed p xs (drained p)) k else bitOf s.sys.mem k := by
  have hwrites := drainWrites_placed (s := s) (c := c) (p := p) (st := fun _ => s) (xs := xs) rfl
    fun l hl => ⟨fun _ => rfl, fun ix hix => (hpads l hl ix hix).1⟩
  obtain ⟨m, hfold, hbits⟩ := foldl_writeBits_pad (s := s) c (ws := placed p xs (drained p)) (fun v hv => by
    obtain ⟨l, ix, hl, hix, hvx⟩ := place_placed _ hv
    rw [hvx]
    exact padPlace_of_onPad (hpads l hl ix hix)) (nodup_placed _)
  exact ⟨m, by rw [drainStep_writes hdrains hwrites, hfold], hbits⟩

theorem drainElems_sysOnly {s u : State} {c : Nat} {b : Binding} {q e : Nat} {data : RegData} (ls : List Nat) {ws : List LineWrite}
    {r : Except (Nat × Nat) (List LineWrite)} (h : drainElems s c b q e data ws ls = (u, r)) : SysOnly s u := by
  induction ls generalizing s ws with
  | nil =>
    cases h
    exact SysOnly.refl _
  | cons l t ih =>
    rw [drainElems] at h
    split at h
    · exact ih h
    · split at h <;> rename_i htr
      · cases h
        exact loaderTranslate_sysOnly_eq (SysOnly.refl _) htr
      · exact (loaderTranslate_sysOnly_eq (SysOnly.refl _) htr).trans (ih h)

theorem cores_of_sysOnly {s u : State} (h : SysOnly s u) : u.cores = s.cores := by
  obtain ⟨heq, -⟩ := h
  exact (congrArg State.cores heq :)

theorem coreAt_of_cores {s u : State} (h : u.cores = s.cores) (c : Nat) : coreAt u c = coreAt s c := by
  rw [coreAt, h, coreAt]
theorem masterOf_of_cores {s u : State} (h : u.cores = s.cores) (c : Nat) : masterOf u c = masterOf s c := by
  rw [masterOf, h, masterOf]

theorem detect_untagged (u : State) (c cause wavetag : Nat) (info : Dword) :
    CoreIs u (detect u c cause wavetag info none) c { coreAt u c with
      deferred := (coreAt u c).deferred ++ [{ cause := cause, wavetag := wavetag, info := info, at_ := (coreAt u c).seq.cyc }] } := by
  have hdetect : detect u c cause wavetag info none = modCore u c fun k => { k with
      deferred := k.deferred ++ [{ cause := cause, wavetag := wavetag, info := info, at_ := (coreAt u c).seq.cyc }] } := rfl
  rw [hdetect]
  exact coreIs_modCore u c _

theorem drainFails_detects {u : State} {c e kind line : Nat} {p : Capture} (h : (coreAt u (masterOf u c)).task.isSome = true) :
    ∃ d : Deferred, d.cause = 0x12 ∧ d.wavetag = p.bundle ∧ CoreIs u (drainFails u c e p kind line) (masterOf u c)
      { coreAt u (masterOf u c) with deferred := (coreAt u (masterOf u c)).deferred ++ [d] } := by
  rw [drainFails, if_pos h]
  exact ⟨⟨0x12, p.bundle, loaderInfo e kind line, (coreAt u (masterOf u c)).seq.cyc⟩, rfl, rfl,
    detect_untagged u (masterOf u c) 0x12 p.bundle _⟩

/-- The position's bits in memory after a write to scratchpads, and those that stay. -/
theorem bitOf_brings {m m' : List Host.Cell} {p : Capture} {xs : Nat → Xl} (hf : recFmt p.bind.recd ≤ 10)
    (hx : ∀ l, l < drained p → ∀ ix, stored p.bind p.q p.wpos l = some ix → 8 * (xs l).pa % fmtBits (recFmt p.bind.recd) = 0)
    (hbits : ∀ k, bitOf m' k = if writesBit (placed p xs (drained p)) k = true then writtenBit (placed p xs (drained p)) k else bitOf m k) :
    (∀ l k y, Brings p xs l k y → bitOf m' k = y) ∧ (∀ k, (∀ l, l < drained p → ¬ Takes p xs l k) → bitOf m' k = bitOf m k) := by
  refine ⟨fun l k y ⟨htake, hl, hlast, hval⟩ => ?_, fun k hnone => ?_⟩
  · have ⟨ix, hix, _⟩ := htake
    rw [hbits, if_pos ((writesBit_placed hf _ hx).2 ⟨l, hl, htake⟩), writtenBit_placed hf _ hx hl htake hlast hix, hval ix hix]
    rfl
  · have hno : ¬ writesBit (placed p xs (drained p)) k = true := fun h => by
      obtain ⟨l, hl, htake⟩ := (writesBit_placed hf _ hx).1 h
      exact hnone l hl htake
    rw [hbits, if_neg hno]

theorem drainsWriteTheirElements : DrainsWriteTheirElements := by
  refine ⟨fun s c e p rest st xs hdrains hf h0 hst => ?_, fun s c e p rest xs hdrains hf hpads => ?_,
    fun s u c e kind line p rest hdrains herr => ?_, fun s c e => ⟨fun h => ?_, fun p rest hcaps h => ?_⟩⟩
  · have hx : ∀ l, l < drained p → ∀ ix, stored p.bind p.q p.wpos l = some ix → 8 * (xs l).pa % fmtBits (recFmt p.bind.recd) = 0 :=
      fun l hl ix hix => ((hst l hl).2 ix hix).2
    have hwrites := drainWrites_placed h0 fun l hl => ⟨(hst l hl).1, fun ix hix => ((hst l hl).2 ix hix).1⟩
    refine ⟨_, placed p xs (drained p), rfl, drainStep_writes hdrains hwrites, nodup_placed _,
      fun l k hl htake => ?_, fun v hv k hk hbit => ?_⟩
    · have hwritten := (writesBit_placed (k := k) hf _ hx).2 ⟨l, hl, htake⟩
      unfold writesBit at hwritten
      split at hwritten
      · cases hwritten
      · rename_i v hat
        exact ⟨v, List.mem_of_find?_eq_some hat, by simpa using List.find?_some hat, hwritten⟩
    · obtain ⟨hwrites, hwritten⟩ := bit_of_mem_placed hv hk
      rw [← hwritten]
      exact brings_of_placed hf hx (hwrites.trans hbit)
  · obtain ⟨m, hstep, hbits⟩ := drainStep_onPad hdrains fun l hl ix hix => (hpads l hl ix hix).1
    have hx : ∀ l, l < drained p → ∀ ix, stored p.bind p.q p.wpos l = some ix → 8 * (xs l).pa % fmtBits (recFmt p.bind.recd) = 0 :=
      fun l hl ix hix => (hpads l hl ix hix).2
    obtain ⟨hbring, hstay⟩ := bitOf_brings hf hx hbits
    obtain ⟨hcore, hother, hrest⟩ := coreIs_modLoader (modSys s fun y => { y with mem := m }) c e (positionWritten p)
    rw [coreAt_modSys, loader_positionWritten hdrains] at hcore
    refine ⟨_, congrArg Host.Outcome.next hstep, hbring, hstay, hcore, hother, ?_⟩
    exact (congrArg (fun t : State => { t with sys := s.sys }) hrest :)
  · have hsys : SysOnly s u := drainElems_sysOnly _ herr
    have hmaster := masterOf_of_cores (cores_of_sysOnly hsys) c
    have htask : (coreAt u (masterOf u c)).task = (coreAt s (masterOf s c)).task := by
      rw [hmaster, coreAt_of_cores (cores_of_sysOnly hsys)]
    refine ⟨_, congrArg Host.Outcome.next (drainStep_fails hdrains ((drainWrites_eq s c p).trans herr)),
      fun h => drainFails_detects (htask ▸ h), fun h => ?_⟩
    have hloader : positionWritten p (loaderAt (coreAt u c).edge e) = positionDone (loaderAt (coreAt u c).edge e) p rest := by
      rw [coreAt_of_cores (cores_of_sysOnly hsys), loader_positionWritten hdrains]
    have hnone : ¬ (coreAt u (masterOf u c)).task.isSome = true := by simp [htask, h]
    rw [drainFails, if_neg hnone, ← hloader]
    exact coreIs_modLoader u c e _
  · exact congrArg Host.Outcome.next (drainStep_blocked h)
  · exact congrArg Host.Outcome.next (drainStep_stands hcaps h)

/-- Settles O36: the reads of a step give each element's bytes, so each position presents what its elements make; the drain's lines
keep, element by element, the bits that the last of them brings. -/
theorem feedsAndDrains : Obligations.FeedsAndDrains := ⟨linesAreReadOnce, feedsPresentTheirElements, drainsWriteTheirElements⟩

end Sys2Proof.Proofs

/-! PROOFS. Conversions and special functions in a cell: what CVT, CVTSR and SRAND leave, and the entry that a special-function
instruction puts into the cell's pipeline (R166, R168, R176 to R179). -/

namespace Sys2Proof.Proofs
open Sys2Proof Sys2Proof.Machine Sys2Proof.Claims

/-! ### Conversions (R176 to R179) -/

/-- CVT's b names a type of R52 in five bits, ty in four (R175). -/
theorem toNat_setWidth_four {b : BitVec 5} (hb : b.toNat ≤ 10) : (b.setWidth 4).toNat = b.toNat := by
  rw [BitVec.toNat_setWidth, Nat.mod_eq_of_lt (by omega)]

theorem isElemWidth_tyOf {b : BitVec 5} (hb : b.toNat ≤ 4 ∨ 6 ≤ b.toNat ∧ b.toNat ≤ 10) : IsElemWidth (tyOf b.toNat).width := by
  have hcode : (b.setWidth 4).toNat = b.toNat := toNat_setWidth_four (by omega)
  rw [← hcode] at hb ⊢
  obtain hflt | ⟨hlo, hhi⟩ := hb
  · exact (float_ty hflt).1
  · exact int_ty hlo hhi

/-- Elements of the source become those of the destination, up to the smaller count of the two types. -/
theorem elementwise_cvt {x : CellIn} (hsel : x.sel = true) {b : BitVec 5} (hb : IsElemWidth (tyOf b.toNat).width) (k : CellSt)
    (m : BitVec 4) (d a : BitVec 5) (n : BitVec 1) (t : BitVec 4) (p : BitVec 1) :
    Elementwise x k (cellRun (.cvt m d a b n t p) x k) d n (min (512 / tyWidth t) (512 / (tyOf b.toNat).width)) (tyOf b.toNat).width p
      fun e => convert (tyOf t.toNat) (tyOf b.toNat) (RMode.ofBits x.frm) (elem (tyWidth t) (operandIs x k a).data e) := by
  simp only [cellRun, cellCvt, whenSel_of_sel hsel, readOperand_eq_operandIs]
  exact elementwise_mapFirst hb (min_le_right _ _) x k d n p _

/-- The write of a destination and the step of the cell's generator do not meet. -/
theorem writeData_gen (k : CellSt) (d : BitVec 5) (v : RegData) (g : Word) :
    { writeData k d v with gen := g } = writeData { k with gen := g } d v := by
  unfold writeData writeDst
  split <;> rfl

theorem raiseXf_gen (k : CellSt) (nf : BitVec 1) (xf : BitVec 160) : (raiseXf k nf xf).gen = k.gen := by
  rw [raiseXf_eq]

/-- Element e of a stochastic conversion, rounded by its random bits of the generator g (R178). -/
def cvtsrElem (x : CellIn) (k : CellSt) (a b : BitVec 5) (t : BitVec 4) (g : Word) (e : Nat) : Nat × Flags5 :=
  convertSR (fmtOf t) (fmtOf (b.setWidth 4)) (genBits g e) (elem (tyWidth t) (operandIs x k a).data e)

theorem cellRun_cvtsr {x : CellIn} (hsel : x.sel = true) {b : BitVec 5} (hb : b.toNat ≤ 4) (k : CellSt)
    (m : BitVec 4) (d a : BitVec 5) (n : BitVec 1) (t : BitVec 4) (p : BitVec 1) :
    let g := genStep k.gen
    let v := (tyOf b.toNat).width
    let r := mapFirst (min (512 / tyWidth t) (512 / v)) v (laneMask p k.p) (readDst k d).data (cvtsrElem x k a b t g)
    cellRun (.cvtsr m d a b n t p) x k = ⟨raiseXf (writeData { k with gen := g } d r.data) n r.xf, fpFault x n r.all⟩ := by
  have hcode : (b.setWidth 4).toNat = b.toNat := toNat_setWidth_four (by omega)
  simp only [cellRun, cellCvtsr, whenSel_of_sel hsel, readOperand_eq_operandIs, writeData_gen, ← hcode]
  rfl

theorem gen_cvtsr {x : CellIn} (hsel : x.sel = true) {b : BitVec 5} (hb : b.toNat ≤ 4) (k : CellSt)
    (m : BitVec 4) (d a : BitVec 5) (n : BitVec 1) (t : BitVec 4) (p : BitVec 1) :
    (cellRun (.cvtsr m d a b n t p) x k).cell.gen = genStep k.gen := by
  rw [cellRun_cvtsr hsel hb, ← writeData_gen, raiseXf_gen]

/-- The converter's loop runs in the cell whose generator has stepped. -/
theorem elementwise_cvtsr {x : CellIn} (hsel : x.sel = true) {b : BitVec 5} (hb : b.toNat ≤ 4) (k : CellSt)
    (m : BitVec 4) (d a : BitVec 5) (n : BitVec 1) (t : BitVec 4) (p : BitVec 1) :
    Elementwise x { k with gen := genStep k.gen } (cellRun (.cvtsr m d a b n t p) x k) d n
      (min (512 / tyWidth t) (512 / (tyOf b.toNat).width)) (tyOf b.toNat).width p (cvtsrElem x k a b t (genStep k.gen)) := by
  rw [cellRun_cvtsr hsel hb]
  exact elementwise_mapFirst (isElemWidth_tyOf (.inl hb)) (min_le_right _ _) x { k with gen := genStep k.gen } d n p _

theorem cellRun_srand {x : CellIn} (hsel : x.sel = true) (k : CellSt) (m : BitVec 4) (a : BitVec 5) :
    cellRun (.srand m a) x k = ⟨{ k with gen := genSeed ((operandIs x k a).data.setWidth 32) x.row x.col }, []⟩ := by
  simp only [cellRun, cellSrand, whenSel_of_sel hsel, readOperand_eq_operandIs]
  rfl

/-- Settles O18: both conversions are R89's loop over the smaller count of elements, the stochastic one in the cell whose generator
has stepped. -/
theorem conversionsInACell : Obligations.ConversionsInACell := by
  unfold Obligations.ConversionsInACell
  intro x k m d a b n t p hsel _ src v
  exact ⟨fun _ hb => elementwise_cvt hsel (isElemWidth_tyOf hb) k m d a n t p,
    fun _ _ hb => ⟨gen_cvtsr hsel hb k m d a n t p, elementwise_cvtsr hsel hb k m d a n t p⟩,
    cellRun_srand hsel k m a⟩

/-! ### The slices that chosen lanes cover (R15, R166) -/

/-- Both slices of lane i of a 32-bit type join the mask where the lane is chosen. -/
def spreadLane (lanes m : Word) (i : Nat) : Word :=
  if lanes.getLsbD (2 * i) then m ||| BitVec.ofNat 32 (3 * 2 ^ (2 * i)) else m

theorem spreadLanes_eq_foldl (lanes : Word) : spreadLanes 32 lanes = (List.range 16).foldl (spreadLane lanes) 0 := rfl

theorem getLsbD_spreadLane {j : Nat} (hj : j < 32) (lanes m : Word) (i : Nat) :
    (spreadLane lanes m i).getLsbD j = if j / 2 = i then m.getLsbD j || lanes.getLsbD (j / 2 * 2) else m.getLsbD j := by
  have hpair : (BitVec.ofNat 32 (3 * 2 ^ (2 * i))).getLsbD j = decide (j / 2 = i) := by
    rw [BitVec.getLsbD_ofNat, Nat.testBit_mul_two_pow, show 3 = 2 ^ 2 - 1 from rfl, Nat.testBit_two_pow_sub_one, decide_eq_true hj,
      Bool.true_and, ← Bool.decide_and, decide_eq_decide]
    omega
  rw [spreadLane, apply_ite (BitVec.getLsbD · j), BitVec.getLsbD_or, hpair]
  by_cases hi : j / 2 = i
  · subst hi
    rw [Nat.mul_comm 2]
    cases lanes.getLsbD (j / 2 * 2) <;> simp
  · simp [hi]

theorem getLsbD_foldl_spreadLane {j : Nat} (hj : j < 32) (lanes : Word) (n : Nat) :
    ((List.range n).foldl (spreadLane lanes) 0).getLsbD j = (decide (j / 2 < n) && lanes.getLsbD (j / 2 * 2)) := by
  induction n with
  | zero => simp
  | succ n ih =>
    rw [List.range_succ, List.foldl_append, List.foldl_cons, List.foldl_nil, getLsbD_spreadLane hj, ih]
    by_cases hjn : j / 2 = n
    · simp [hjn]
    · have hlt : j / 2 < n + 1 ↔ j / 2 < n := by omega
      simp only [hjn, hlt, if_false]

theorem getLsbD_spreadLanes {j : Nat} (hj : j < 32) (w : Nat) (lanes : Word) :
    (spreadLanes w lanes).getLsbD j = lanes.getLsbD (laneOf w j) := by
  by_cases hw : w = 32
  · subst hw
    have hlane : j / 2 < 16 := by omega
    rw [spreadLanes_eq_foldl, getLsbD_foldl_spreadLane hj, decide_eq_true hlane, Bool.true_and, laneOf, if_pos rfl]
  · rw [spreadLanes, laneOf, if_neg hw, if_neg hw]

/-! ### The entry of a special function (R166, R168) -/

/-- Element e of a special function f over the elements of a and b. -/
def sfElem (x : CellIn) (k : CellSt) (a b : BitVec 5) (t : BitVec 4) (f : Fmt → RMode → Nat → Nat → Nat × Flags5) (e : Nat) :
    Nat × Flags5 :=
  f (fmtOf t) (RMode.ofBits x.frm) (elem (tyWidth t) (operandIs x k a).data e) (elem (tyWidth t) (operandIs x k b).data e)

/-- R168: an operand that sets NPIV: a zero, or a negative number. -/
def isLowOperand (f : Fmt) (u : Nat) : Bool := f.isZero u || (f.sign u && !f.isNaN u)

theorem isLowOperand_iff {f : Fmt} {u : Nat} : isLowOperand f u = true ↔ f.isZero u = true ∨ f.sign u = true ∧ f.isNaN u = false := by
  simp [isLowOperand]

/-- The entry that a special function with the element function g leaves in the pipeline. -/
def sfEntry (x : CellIn) (k : CellSt) (d a : BitVec 5) (nf : BitVec 1) (t : BitVec 4) (p : BitVec 1) (piv : Bool)
    (g : Nat → Nat × Flags5) : SfEntry :=
  let w := tyWidth t
  let lanes := laneMask p k.p
  { due := x.now + 14, tag := x.tag, bundle := x.bundle, d := d.toNat, lanes := spreadLanes w lanes
    data := (mapElems w lanes 0 g).data, xf := (mapElems w lanes 0 g).xf
    npiv := piv && (List.range (512 / w)).any fun e =>
      lanes.getLsbD (lowSlice w e) && isLowOperand (fmtOf t) (elem w (operandIs x k a).data e)
    nf := nf == 1, trapen := x.trapen }

theorem sfOp_eq_sfEntry (x : CellIn) (k : CellSt) (d a b : BitVec 5) (nf : BitVec 1) (t : BitVec 4) (p : BitVec 1) (piv : Bool)
    (f : Fmt → RMode → Nat → Nat → Nat × Flags5) :
    sfOp x k d a b nf t p piv f = ⟨{ k with sfq := k.sfq ++ [sfEntry x k d a nf t p piv (sfElem x k a b t f)] }, []⟩ := by
  simp only [sfOp, readOperand_eq_operandIs]
  rfl

section
variable (x : CellIn) (k : CellSt) (d a : BitVec 5) (nf : BitVec 1) (t : BitVec 4) (p : BitVec 1) (piv : Bool) (g : Nat → Nat × Flags5)

theorem getLsbD_sfEntry_lanes {j : Nat} (hj : j < 32) :
    (sfEntry x k d a nf t p piv g).lanes.getLsbD j = Chosen k p (laneOf (tyWidth t) j) := by
  have hlane : laneOf (tyWidth t) j < 32 := by unfold laneOf; split <;> omega
  exact (getLsbD_spreadLanes hj _ _).trans (getLsbD_laneMask hlane k p)

variable {t} (hw : IsElemWidth (tyWidth t))
include hw

theorem elem_sfEntry_data {e : Nat} (he : e < 512 / tyWidth t) (hc : Chosen k p (sliceOf (tyWidth t) e) = true) :
    elem (tyWidth t) (sfEntry x k d a nf t p piv g).data e = (g e).1 % 2 ^ tyWidth t :=
  (elem_mapFirst hw le_rfl k p 0 g he).trans (if_pos ⟨he, hc⟩)

theorem xfAt_sfEntry_xf {j : Nat} (hj : j < 32) :
    xfAt (sfEntry x k d a nf t p piv g).xf j = entryFlags k p (512 / tyWidth t) (tyWidth t) g j :=
  xfAt_mapFirst hw le_rfl k p 0 g hj

theorem sfEntry_npiv_iff : (sfEntry x k d a nf t p piv g).npiv = true ↔
    piv = true ∧ ∃ e, e < 512 / tyWidth t ∧ Chosen k p (sliceOf (tyWidth t) e) = true ∧
      isLowOperand (fmtOf t) (elem (tyWidth t) (operandIs x k a).data e) = true := by
  simp only [sfEntry, Bool.and_eq_true, List.any_eq_true, List.mem_range]
  refine and_congr_right fun _ => exists_congr fun e => and_congr_right fun he => ?_
  rw [getLsbD_laneMask_lowSlice hw he]

end

/-! ### The six special functions (R165) -/

/-- The model's function of each special function, over the elements of a and b, and whether low operands set NPIV. -/
def sfMembers (m : BitVec 4) (d a b : BitVec 5) (n : BitVec 1) (t : BitVec 4) (p : BitVec 1) (frm : BitVec 2) :
    List (Instr × Bool × (Fmt → RMode → Nat → Nat → Nat × Flags5)) :=
  [(.fdiv m d a b n t p, false, fDiv), (.fsqrt m d a n t p, true, fun f r u _ => fSqrt f r u),
   (.frcp m d a n t p, false, fun f r u _ => fRcp f r u),
   (.frsq m d a n t p, true, fun f r u _ => fRsq f r (Config.sfOther 0 u frm) u),
   (.fexp2 m d a n t p, false, fun f r u _ => fExp2 f r (Config.sfOther 1 u frm) u),
   (.flog2 m d a n t p, false, fun f r u _ => fLog2 f r (Config.sfOther 2 u frm) u)]

theorem sfTable_eq_map (m : BitVec 4) (d a b : BitVec 5) (n : BitVec 1) (t : BitVec 4) (p : BitVec 1) (f : Fmt) (r : RMode)
    (frm : BitVec 2) (u v : Nat) :
    sfTable m d a b n t p f r frm u v = (sfMembers m d a b n t p frm).map fun q => (q.1, q.2.2 f r u v, q.2.1) := rfl

/-- A function of one operand does not depend on the second. -/
theorem sfOp_second (x : CellIn) (k : CellSt) (d a b b' : BitVec 5) (nf : BitVec 1) (t : BitVec 4) (p : BitVec 1) (piv : Bool)
    (f : Fmt → RMode → Nat → Nat × Flags5) :
    sfOp x k d a b nf t p piv (fun g r u _ => f g r u) = sfOp x k d a b' nf t p piv (fun g r u _ => f g r u) := rfl

theorem cellRun_sfMembers {x : CellIn} (hsel : x.sel = true) (k : CellSt) (m : BitVec 4) (d a b : BitVec 5) (n : BitVec 1)
    (t : BitVec 4) (p : BitVec 1) :
    ∀ q ∈ sfMembers m d a b n t p x.frm, cellRun q.1 x k = sfOp x k d a b n t p q.2.1 q.2.2 := by
  simp only [sfMembers, List.forall_mem_cons, List.not_mem_nil, false_imp_iff, implies_true, and_true]
  simp only [cellRun, cellFdiv, cellFsqrt, cellFrcp, cellFrsq, cellFexp2, cellFlog2, whenSel_of_sel hsel,
    sfOp_second _ _ _ a a b, true_and]

/-- Settles O19: each special function appends one entry, whose parts are those of R89's loop and of R168's test. -/
theorem specialFunctionsEnterThePipeline : Obligations.SpecialFunctionsEnterThePipeline := by
  unfold Obligations.SpecialFunctionsEnterThePipeline
  intro x k m d a b n t p hsel ht _ w u l hl
  have hw : IsElemWidth w := (float_ty (by omega)).1
  have hlen : l < (sfMembers m d a b n t p x.frm).length := hl
  obtain ⟨⟨i, piv, f⟩, hq⟩ : ∃ q, (sfMembers m d a b n t p x.frm)[l]? = some q := ⟨_, List.getElem?_eq_getElem hlen⟩
  have hrun : cellRun i x k = sfOp x k d a b n t p piv f := cellRun_sfMembers hsel k m d a b n t p _ (List.mem_of_getElem? hq)
  refine ⟨i, sfElem x k a b t f, piv, fun e => ?_, sfEntry x k d a n t p piv (sfElem x k a b t f), ?_, rfl, rfl, rfl, rfl, rfl, rfl,
    fun j hj => getLsbD_sfEntry_lanes x k d a n t p piv _ hj, fun e he hc => elem_sfEntry_data x k d a n p piv _ hw he hc,
    fun j hj => xfAt_sfEntry_xf x k d a n p piv _ hw hj, ?_⟩
  · rw [sfTable_eq_map, List.getElem?_map, hq]
    rfl
  · rw [hrun, sfOp_eq_sfEntry]
  · simp only [sfEntry_npiv_iff x k d a n p piv _ hw, isLowOperand_iff]
    rfl

end Sys2Proof.Proofs

/-! PROOFS. O10: the address of a channel in the copy aperture, the charge of a region's path, a request stored in its channel, and the
hold of a request that has no place. -/

namespace Sys2Proof.Proofs
open Sys2Proof Sys2Proof.Machine Sys2Proof.Claims

/-! ### The address of a channel (R116, R182) -/

theorem sext_toNat {w : Nat} (hw : 0 < w) (x : BitVec w) : sext w x.toNat = x.toInt := by
  have hpow : 2 ^ w = 2 * 2 ^ (w - 1) := by rw [← Nat.pow_succ', Nat.succ_eq_add_one, Nat.sub_one_add_one hw.ne']
  have hcast : ((2 ^ w : Nat) : Int) = 2 ^ w := Nat.cast_pow 2 w
  rw [sext, Nat.mod_eq_of_lt x.isLt, BitVec.toInt_eq_toNat_cond, ← hcast, hpow]
  split <;> split <;> omega

theorem effAddr_eq_address (s : State) (a : BitVec 5) (o : BitVec 11) (n : Nat) : effAddr s a o n = address s a o n := by
  rw [effAddr, sext_toNat (by decide)]
  rfl

theorem inAperture_channel {ch : Nat} (h : ch < 64) : inAperture (apertureBase + 8 * ch) = true := by
  simp only [inAperture, Bool.and_eq_true, decide_eq_true_eq]
  omega

theorem aligned_channel (ch : Nat) : (apertureBase + 8 * ch) % 8 = 0 := by
  rw [apertureBase]
  omega

theorem channel_of_address (ch : Nat) : (apertureBase + 8 * ch - apertureBase) / 8 = ch := by omega

theorem requestOk_iff_legalRequest (tm : Team) (w : Dword) : requestOk tm.img.templateN w = true ↔ legalRequest tm w := by
  simp only [requestOk, legalRequest, Bool.and_eq_true, decide_eq_true_eq, beq_iff_eq, and_assoc]

/-! ### The charge of a region's path (R305) -/

/-- A path may come back to a region, which is then changed once for each of its places. -/
theorem regionAt_chargeRegions (s : State) (a r : Nat) (f : Region → Region) :
    regionAt (chargeRegions s a f) r = (regionAt s r).map f^[(regionChain s (regionDepth s) a).count r] := by
  unfold chargeRegions
  generalize regionChain s (regionDepth s) a = l
  induction l generalizing s with
  | nil => simp
  | cons b l ih =>
    rw [List.foldl_cons, ih]
    cases hb : regionAt s b with
    | none =>
      by_cases hr : r = b
      · subst hr
        simp [hb]
      · rw [List.count_cons_of_ne (Ne.symm hr)]
    | some x =>
      have hlook : regionAt (setRegion s b (f x)) r = if r = b then some (f x) else regionAt s r := Tab.look_put _ _ _ _
      dsimp only
      rw [hlook]
      by_cases hr : r = b
      · subst hr
        rw [if_pos rfl, hb, List.count_cons_self, Function.iterate_succ]
        rfl
      · rw [if_neg hr, List.count_cons_of_ne (Ne.symm hr)]

/-- Only the regions' blocks differ. -/
def OnlyRegions (s t : State) : Prop := { t with sched := { t.sched with regions := s.sched.regions } } = s

theorem OnlyRegions.trans {s t u : State} (h : OnlyRegions s t) (k : OnlyRegions t u) : OnlyRegions s u := by
  unfold OnlyRegions at h k
  rw [OnlyRegions, ← h, ← k]

theorem chargeRegions_onlyRegions (s : State) (a : Nat) (f : Region → Region) : OnlyRegions s (chargeRegions s a f) := by
  unfold chargeRegions
  generalize regionChain s (regionDepth s) a = l
  induction l generalizing s with
  | nil => rfl
  | cons b l ih =>
    refine OnlyRegions.trans ?_ (ih _)
    dsimp only
    split
    · rfl
    · rfl

/-- A region's charge for one more request. -/
def copyCharged (b : Region) : Region := { b with copyused := b.copyused + 1 }

theorem iterate_copyCharged (n : Nat) (b : Region) : copyCharged^[n] b = { b with copyused := b.copyused + n } := by
  induction n with
  | zero => rfl
  | succ n ih =>
    rw [Function.iterate_succ_apply', ih]
    rfl

/-! ### A request stored in its channel (R182) -/

theorem chanAt_setChan (s : State) (c ch h : Nat) (x : Chan) :
    chanAt (coreAt (setChan s c ch x) c) h = if h = ch then x else chanAt (coreAt s c) h := by
  rw [setChan, coreAt_modMem_same]
  exact Tab.get_set _ _ _ _ _

theorem copyRequest_stores {s : State} {tm : Team} (hteam : teamOf s s.me = some tm) (ch : Nat) (w : Dword) (after : Option Nat) :
    RequestStored s (copyRequest s ch w after) tm ch w after := by
  have hcharge : ∀ c, coreAt (chargeRegions s tm.region copyCharged) c = coreAt s c := coreAt_chargeRegions s tm.region copyCharged
  have heq : copyRequest s ch w after = setChan (chargeRegions s tm.region copyCharged) s.me ch
      { chanAt (coreAt s s.me) ch with queue := (chanAt (coreAt s s.me) ch).queue ++
        [⟨w, teamNumber s s.me, (coreAt s s.me).seq.pc, (coreAt s s.me).ctl.asid.toNat, (coreAt s s.me).ctl.rcptr.toNat, tm.region, after⟩] } := by
    simp only [copyRequest, hteam]
    rfl
  rw [heq]
  refine ⟨?_, fun h hh => ?_, fun r => ?_, ?_, fun c hc => ?_, ?_⟩
  · rw [chanAt_setChan, if_pos rfl]
  · rw [chanAt_setChan, if_neg hh, hcharge]
  · calc
      _ = (regionAt s r).map copyCharged^[(regionChain s (regionDepth s) tm.region).count r] := regionAt_chargeRegions s tm.region r copyCharged
      _ = _ := by rw [funext (iterate_copyCharged _)]
  · rw [setChan, coreAt_modMem_same, hcharge]
  · rw [setChan, coreAt_modMem_other _ _ _ _ hc, hcharge]
  · exact (congrArg (fun u : State => { u with cores := s.cores }) (chargeRegions_onlyRegions s tm.region copyCharged) :)

/-! ### The store that makes a request (R182, R260) -/

theorem me_eq_of_moves {c : Nat} {s t : State} (h : Moves c s t) : t.me = s.me := congrArg (·.me) h.2.2.1

theorem teamOf_eq_of_moves {c : Nat} {s t : State} (h : Moves c s t) (d : Nat) : teamOf t d = teamOf s d := by
  have ⟨hother, hcore, _⟩ := h
  have htask : (coreAt t d).task = (coreAt s d).task := by
    by_cases hd : d = c
    · subst hd
      exact congrArg (·.task) hcore
    · rw [hother d hd]
  simp only [teamOf, teamAt, htask, sched_of_moves h]

section
variable {s : State} {tm : Team} {src a : BitVec 5} {o : BitVec 11} {ch : Nat}
  (haddr : address s a o 8 = apertureBase + 8 * ch) (hch : ch < 64) (hteam : teamOf s s.me = some tm) (hlegal : legalRequest tm (gr s src))
include haddr hch hteam hlegal

theorem execSt_channel (c : BitVec 3) :
    let u := afterAcquires s s.me
    execSt src a c 3 o s = .next (if c = 0 then copyRequest u ch (gr s src) none
      else copyRequest (issueRelease u u.me c.toNat none) ch (gr s src) (some (coreAt u u.me).mem.nextSeq)) := by
  have hok : requestOk tm.img.templateN (srcG s src) = true := (requestOk_iff_legalRequest tm _).2 hlegal
  have hsize : Machine.sizeOf 3 = 8 := rfl
  simp only [execSt, effAddr_eq_address, haddr, hteam, hok, hsize, inAperture_channel hch, aligned_channel, channel_of_address, Bool.true_and, decide_true, if_true]
  rfl

theorem copyHold_channel_iff :
    copyHold s src a 3 o = true ↔ 4 ≤ chanLoad (chanAt (coreAt s s.me) ch) ∨ ¬ copiesLeft s tm := by
  have hok : requestOk tm.img.templateN (srcG s src) = true := (requestOk_iff_legalRequest tm _).2 hlegal
  have hsize : Machine.sizeOf 3 = 8 := rfl
  simp only [copyHold, effAddr_eq_address, haddr, hteam, hok, hsize, inAperture_channel hch, aligned_channel, channel_of_address, sizeD,
    beq_self_eq_true, Bool.true_and, Bool.or_eq_true, decide_eq_true_eq, List.any_eq_true, copiesLeft, not_forall, exists_prop]
  refine or_congr_right (exists_congr fun r => and_congr_right fun _ => ?_)
  cases regionAt s r <;> simp

end

theorem apertureRequestIsQueued : ApertureRequestIsQueued := by
  intro s u tm src a c o ch haddr hch hteam hlegal _ _ hu n v
  have hu : u = afterAcquires s s.me := hu
  have hmoves : Moves s.me s u := hu ▸ afterAcquires_moves (Moves.refl s.me s)
  have hrun : exec (.st src a c 3 o) s = _ := execSt_channel haddr hch hteam hlegal c
  rw [← hu, me_eq_of_moves hmoves] at hrun
  refine ⟨_, hrun, ?_⟩
  by_cases hc : c = 0
  · have hv : v = u := if_pos hc
    have hteam' : teamOf u u.me = some tm := by rw [me_eq_of_moves hmoves, teamOf_eq_of_moves hmoves, hteam]
    rw [if_pos hc, if_pos hc, hv]
    exact copyRequest_stores hteam' ch _ _
  · have hv : v = issueRelease u s.me c.toNat none := if_neg hc
    have hmoves' : Moves s.me s v := hv ▸ issueRelease_moves hmoves c.toNat none
    have hteam' : teamOf v v.me = some tm := by rw [me_eq_of_moves hmoves', teamOf_eq_of_moves hmoves', hteam]
    rw [if_neg hc, if_neg hc, ← hv]
    exact copyRequest_stores hteam' ch _ _

theorem apertureRequestHolds : ApertureRequestHolds := by
  intro s tm src a c o ch b haddr hch hteam hlegal hb hfull
  have hst : sHolds s b.s = true := by
    rw [hb]
    exact (copyHold_channel_iff haddr hch hteam hlegal).2 hfull
  rw [holds, hst, Bool.or_true, Bool.true_or, Bool.true_or, Bool.true_or]

/-- Settles O10: the store is `copyRequest` on the state after the acquires, whose charge counts each region's places on the path; the
hold is R182's and R305's test. -/
theorem apertureStoresQueueARequest : Obligations.ApertureStoresQueueARequest :=
  ⟨apertureRequestIsQueued, apertureRequestHolds⟩

end Sys2Proof.Proofs

/-! PROOFS. The tray of a cell: its elements and quarters, and the matrix moves (R180, R186 to R188, R193, R194). -/

namespace Sys2Proof.Proofs
open Sys2Proof Sys2Proof.Machine Sys2Proof.Claims

/-! ### Elements and quarters of a tray (R180) -/

/-- A field of w bits at lo is replaced, the other bits stay. -/
theorem getLsbD_replaceField {n w lo i : Nat} (hi : i < n) (x v : BitVec n) (hv : ∀ j, w ≤ j → v.getLsbD j = false) :
    ((x &&& ~~~ (BitVec.ofNat n (2 ^ w - 1) <<< lo)) ||| (v <<< lo)).getLsbD i =
      if lo ≤ i ∧ i < lo + w then v.getLsbD (i - lo) else x.getLsbD i := by
  have hsub : i - lo < n := by omega
  simp only [BitVec.getLsbD_or, BitVec.getLsbD_and, BitVec.getLsbD_not, BitVec.getLsbD_shiftLeft, BitVec.getLsbD_ofNat,
    Nat.testBit_two_pow_sub_one, hi, hsub]
  by_cases hlo : lo ≤ i
  · by_cases hhi : i < lo + w
    · have hw : i - lo < w := by omega
      simp [hlo, hhi, hw, Nat.not_lt.2 hlo]
    · have hw : w ≤ i - lo := by omega
      simp [hlo, hhi, Nat.not_lt.2 hw, Nat.not_lt.2 hlo, hv _ hw]
  · simp [hlo, Nat.lt_of_not_le hlo]

theorem trayIs_eq_trayEl (t : Tab TrayData) (n : BitVec 2) : trayIs t n = trayEl (trayAt t n.toNat) := rfl

theorem testBit_trayEl (t : TrayData) (i b : Nat) : (trayEl t i).testBit b = (decide (b < 32) && t.getLsbD (32 * i + b)) := by
  rw [trayEl, BitVec.testBit_toNat, BitVec.getLsbD_extractLsb']

theorem trayEl_zero (i : Nat) : trayEl 0 i = 0 := by
  simp [trayEl]

/-- The element that a write puts down is read back, the others stay. -/
theorem trayEl_putTrayEl {j : Nat} (hj : j < 64) (t : TrayData) (i v : Nat) :
    trayEl (putTrayEl t i v) j = if j = i then v % 2 ^ 32 else trayEl t j := by
  apply Nat.eq_of_testBit_eq
  intro b
  rw [testBit_trayEl, apply_ite (Nat.testBit · b), Nat.testBit_mod_two_pow, testBit_trayEl]
  by_cases hb : b < 32
  · rw [putTrayEl, getLsbD_replaceField (by omega), if_congr (elem_disjoint hb) rfl rfl]
    · split
      case isTrue h =>
        have hin : b < 2048 := by omega
        rw [h, Nat.add_sub_cancel_left, BitVec.getLsbD_ofNat, Nat.testBit_mod_two_pow, decide_eq_true hin, Bool.true_and, Bool.and_self_left]
      case isFalse => rfl
    · intro l hl
      rw [BitVec.getLsbD_ofNat, Nat.testBit_mod_two_pow, decide_eq_false (Nat.not_lt.2 hl), Bool.false_and, Bool.and_false]
  · simp [hb]

theorem elem_quarter {e : Nat} (he : e < 16) (t : TrayData) (q : BitVec 2) :
    elem 32 (quarter t q) e = trayEl t (16 * q.toNat + e) := by
  apply Nat.eq_of_testBit_eq
  intro b
  rw [testBit_elem, testBit_trayEl, quarter, BitVec.getLsbD_extractLsb']
  by_cases hb : b < 32
  · have hin : 32 * e + b < 512 := by omega
    have hplace : 512 * q.toNat + (32 * e + b) = 32 * (16 * q.toNat + e) + b := by omega
    rw [decide_eq_true hin, Bool.true_and, hplace]
  · simp [hb]

theorem trayEl_putQuarter {i : Nat} (hi : i < 64) (t : TrayData) (q : BitVec 2) (v : RegData) :
    trayEl (putQuarter t q v) i = if i / 16 = q.toNat then elem 32 v (i % 16) else trayEl t i := by
  apply Nat.eq_of_testBit_eq
  intro b
  rw [testBit_trayEl, apply_ite (Nat.testBit · b), testBit_elem, testBit_trayEl]
  by_cases hb : b < 32
  · have hquarter : 512 * q.toNat ≤ 32 * i + b ∧ 32 * i + b < 512 * q.toNat + 512 ↔ i / 16 = q.toNat := by omega
    rw [putQuarter, getLsbD_replaceField (by omega), if_congr hquarter rfl rfl]
    · split
      case isTrue h =>
        have hplace : 32 * i + b - 512 * q.toNat = 32 * (i % 16) + b := by omega
        have hin : 32 * (i % 16) + b < 2048 := by omega
        rw [hplace, BitVec.getLsbD_setWidth, decide_eq_true hin, Bool.true_and]
      case isFalse => rfl
    · intro l hl
      rw [BitVec.getLsbD_setWidth, BitVec.getLsbD_of_ge _ _ hl, Bool.and_false]
  · simp [hb]

theorem trayIs_setTray (t : Tab TrayData) (n m : BitVec 2) (v : TrayData) :
    trayIs (setTray t n.toNat v) m = if m = n then trayEl v else trayIs t m := by
  have hget : trayAt (setTray t n.toNat v) m.toNat = if m = n then v else trayAt t m.toNat := by
    rw [trayAt, setTray, Tab.get_set, if_congr BitVec.toNat_inj rfl rfl]
    rfl
  rw [trayIs_eq_trayEl, hget, apply_ite trayEl]
  rfl

/-! ### Quarter writes (R193, R194) -/

theorem trayIs_writeQuarter {i : Nat} (hi : i < 64) (k : CellSt) (r q : BitVec 2) (v : RegData) :
    trayIs (writeQuarter k r q v).t r i = if i / 16 = q.toNat then elem 32 v (i % 16) else trayIs k.t r i := by
  rw [writeQuarter, trayIs_setTray, if_pos rfl, trayEl_putQuarter hi]
  rfl

theorem trayIs_writeQuarter_other {r n : BitVec 2} (h : n ≠ r) (k : CellSt) (q : BitVec 2) (v : RegData) :
    trayIs (writeQuarter k r q v).t n = trayIs k.t n := by
  rw [writeQuarter, trayIs_setTray, if_neg h]

theorem trayIs_zeroQuarter {i : Nat} (hi : i < 64) (k : CellSt) (z : BitVec 1) (r q : BitVec 2) :
    trayIs (zeroQuarter k z r q).t r i = if z = 1 ∧ i / 16 = q.toNat then 0 else trayIs k.t r i := by
  have hzero : elem 32 0 (i % 16) = 0 := by simp [elem]
  unfold zeroQuarter
  by_cases hz : z = 1
  · rw [if_pos hz, trayIs_writeQuarter hi, hzero, if_congr (and_iff_right hz) rfl rfl]
  · rw [if_neg hz, if_neg fun h => hz h.1]

/-- A quarter write changes the trays alone. -/
theorem zeroQuarter_frame (k : CellSt) (z : BitVec 1) (r q : BitVec 2) : { zeroQuarter k z r q with t := k.t, tv := k.tv } = k := by
  unfold zeroQuarter
  split <;> rfl

@[simp] theorem zeroQuarter_f (k : CellSt) (z : BitVec 1) (r q : BitVec 2) : (zeroQuarter k z r q).f = k.f :=
  (congrArg CellSt.f (zeroQuarter_frame k z r q) :)
@[simp] theorem zeroQuarter_c (k : CellSt) (z : BitVec 1) (r q : BitVec 2) : (zeroQuarter k z r q).c = k.c :=
  (congrArg CellSt.c (zeroQuarter_frame k z r q) :)
@[simp] theorem zeroQuarter_xf (k : CellSt) (z : BitVec 1) (r q : BitVec 2) : (zeroQuarter k z r q).xf = k.xf :=
  (congrArg CellSt.xf (zeroQuarter_frame k z r q) :)
@[simp] theorem readF_zeroQuarter (k : CellSt) (z : BitVec 1) (r q : BitVec 2) (n : Nat) : readF (zeroQuarter k z r q) n = readF k n :=
  congrArg (Tab.get FReg.zero · n) (zeroQuarter_f k z r q)

/-! ### The matrix moves (R186 to R188, R193, R194) -/

section
variable {x : CellIn} (hsel : x.sel = true) (k : CellSt) (m : BitVec 4)
include hsel

theorem cellRun_mzero (r : BitVec 2) :
    cellRun (.mzero m r) x k = ⟨{ k with t := setTray k.t r.toNat 0, tv := setTray k.tv r.toNat 0 }, []⟩ := by
  simp only [cellRun, cellMzero, whenSel_of_sel hsel, cellDone]

theorem cellRun_mpush (d a : BitVec 5) :
    cellRun (.mpush m d a) x k = ⟨writeF { k with c := x.nbr (a.toNat - 28) } d.toNat (x.nbr (a.toNat - 28)), []⟩ := if_pos hsel

theorem cellRun_mdrain (z : BitVec 1) (r : BitVec 2) (a : BitVec 5) (q : BitVec 2) :
    cellRun (.mdrain m z r a q) x k = ⟨zeroQuarter { k with c := ⟨quarter (trayAt k.t r.toNat) q, 0⟩ } z r q, []⟩ := if_pos hsel

theorem cellRun_mtrOut (z : BitVec 1) (r : BitVec 2) (a : BitVec 5) (q : BitVec 2) :
    cellRun (.mtrOut m z r a q) x k = ⟨zeroQuarter (writeF k a.toNat ⟨quarter (trayAt k.t r.toNat) q, 0⟩) z r q, []⟩ := by
  simp only [cellRun, cellMtrOut, whenSel_of_sel hsel, cellDone]

theorem cellRun_mtrIn (r : BitVec 2) (a : BitVec 5) (q : BitVec 2) :
    cellRun (.mtrIn m r a q) x k = ⟨writeQuarter k r q (readF k a.toNat).data, []⟩ := by
  simp only [cellRun, cellMtrIn, whenSel_of_sel hsel, cellDone]

end

/-- Settles O21: each move is a write of C, of F or of a tray quarter, whose reads the rules above give. -/
theorem matrixMovesInACell : Obligations.MatrixMovesInACell := by
  unfold Obligations.MatrixMovesInACell
  intro x k m r q d a z hsel nb old
  refine ⟨⟨_, cellRun_mzero hsel k m r, fun i _ => ?_, fun n hn => ?_, rfl⟩,
    ⟨_, cellRun_mpush hsel k m d a, rfl, ?_, fun n hn => ?_, rfl⟩, rfl,
    ⟨_, cellRun_mdrain hsel k m z r a q, ?_, fun e he => ?_, fun i hi => trayIs_zeroQuarter hi _ z r q, zeroQuarter_f _ z r q,
      zeroQuarter_xf _ z r q⟩,
    ⟨_, cellRun_mtrOut hsel k m z r a q, ?_, fun e he => ?_, fun i hi => trayIs_zeroQuarter hi _ z r q, zeroQuarter_c _ z r q,
      fun n hn => ?_⟩,
    ⟨_, cellRun_mtrIn hsel k m r a q, fun i hi => trayIs_writeQuarter hi k r q _, fun n hn => trayIs_writeQuarter_other hn k q _, rfl, rfl⟩⟩
  · simp only [trayIs_setTray, if_true, trayEl_zero, and_self]
  · rw [trayIs_setTray, if_neg hn]
  · rw [readF_writeF, if_pos rfl]
  · rw [readF_writeF, if_neg hn]
    rfl
  · rw [zeroQuarter_c]
  · rw [zeroQuarter_c, elem_quarter he]
    rfl
  · rw [readF_zeroQuarter, readF_writeF, if_pos rfl]
  · rw [readF_zeroQuarter, readF_writeF, if_pos rfl, elem_quarter he]
    rfl
  · rw [readF_zeroQuarter, readF_writeF, if_neg hn]

end Sys2Proof.Proofs

/-! PROOFS. MACC and MACCS in a cell: the products that a tray element takes, the loop over the tray's elements, and the entry that
the adder gets (R158, R189, R191, R192, R195). -/

namespace Sys2Proof.Proofs
open Sys2Proof Sys2Proof.Machine Sys2Proof.Claims

/-! ### The loop over the tray's elements (R189, R195) -/

/-- Element i takes the value of f and its entry of XF the flags, where the mask chooses it. -/
def sumStep (mask : BitVec 64) (f : Nat → Nat × Flags5) (acc : TrayData × BitVec 160) (i : Nat) : TrayData × BitVec 160 :=
  if mask.getLsbD i = true then (putTrayEl acc.1 i (f i).1, orXf acc.2 (i % 32) (f i).2) else acc

/-- The tray and the flags once the first n elements have been summed. -/
def sumLoop (mask : BitVec 64) (f : Nat → Nat × Flags5) (old : TrayData) (n : Nat) : TrayData × BitVec 160 :=
  (List.range n).foldl (sumStep mask f) (old, 0)

section
variable (mask : BitVec 64) (f : Nat → Nat × Flags5) (old : TrayData)

theorem sumLoop_succ (n : Nat) : sumLoop mask f old (n + 1) = sumStep mask f (sumLoop mask f old n) n := by
  simp only [sumLoop, List.range_succ, List.foldl_append, List.foldl_cons, List.foldl_nil]

theorem trayEl_sumLoop {i : Nat} (hi : i < 64) (n : Nat) : trayEl (sumLoop mask f old n).1 i =
    if i < n ∧ mask.getLsbD i = true then (f i).1 % 2 ^ 32 else trayEl old i := by
  induction n with
  | zero => simp [sumLoop]
  | succ n ih =>
    rw [sumLoop_succ, sumStep, apply_ite Prod.fst, apply_ite (trayEl · i), trayEl_putTrayEl hi, ih]
    by_cases hin : i = n
    · subst hin
      simp
    · have hlt : i < n + 1 ↔ i < n := by omega
      simp only [hin, hlt, if_false, ite_self]

/-- The flags that element i gives its entry once the first n elements have been summed. -/
def summedFlags (n i : Nat) : Flags5 := if i < n ∧ mask.getLsbD i = true then (f i).2 else 0

theorem summedFlags_succ (n i : Nat) : summedFlags mask f (n + 1) i =
    summedFlags mask f n i ||| (if i = n ∧ mask.getLsbD n = true then (f n).2 else 0) := by
  unfold summedFlags
  by_cases hin : i = n
  · subst hin
    simp
  · have hlt : i < n + 1 ↔ i < n := by omega
    simp [hin, hlt]

theorem xfAt_sumStep {j : Nat} (hj : j < 32) {n : Nat} (hn : n < 64) (acc : TrayData × BitVec 160) :
    xfAt (sumStep mask f acc n).2 j = xfAt acc.2 j ||| ((if j = n ∧ mask.getLsbD n = true then (f n).2 else 0) |||
      (if j + 32 = n ∧ mask.getLsbD n = true then (f n).2 else 0)) := by
  have hentry : n % 32 = j ↔ j = n ∨ j + 32 = n := by omega
  rw [sumStep, apply_ite Prod.snd, apply_ite (xfAt · j)]
  by_cases hm : mask.getLsbD n = true
  · rw [if_pos hm, xfAt_orXf hj, if_congr hentry rfl rfl]
    by_cases hlow : j = n
    · have hhigh : j + 32 ≠ n := by omega
      simp [hm, hlow]
    · by_cases hhigh : j + 32 = n <;> simp [hm, hlow, hhigh]
  · simp [hm]

theorem xfAt_sumLoop {n : Nat} (hn : n ≤ 64) {j : Nat} (hj : j < 32) :
    xfAt (sumLoop mask f old n).2 j = summedFlags mask f n j ||| summedFlags mask f n (j + 32) := by
  induction n with
  | zero => simp [sumLoop, summedFlags, xfAt]
  | succ n ih =>
    rw [sumLoop_succ, xfAt_sumStep mask f hj hn, ih (by omega), summedFlags_succ, summedFlags_succ]
    ac_rfl

end

/-- P of tray element i is bit i mod 32. -/
theorem getLsbD_trayMask {i : Nat} (hi : i < 64) (k : CellSt) (p : BitVec 1) :
    (trayMask (laneMask p k.p)).getLsbD i = Chosen k p (i % 32) := by
  have hlane : i % 32 < 32 := Nat.mod_lt i (by decide)
  rw [← getLsbD_laneMask hlane, trayMask, BitVec.getLsbD_or, BitVec.getLsbD_shiftLeft, BitVec.getLsbD_setWidth,
    BitVec.getLsbD_setWidth]
  by_cases hlow : i < 32
  · simp [hi, hlow, Nat.mod_eq_of_lt hlow]
  · have hmod : i % 32 = i - 32 := by omega
    have hsub : i - 32 < 64 := by omega
    simp [hi, hlow, hsub, hmod, BitVec.getLsbD_of_ge _ _ (Nat.le_of_not_lt hlow)]

/-! ### The products (R158, R191, R192) -/

/-- The sum of INT8 products wraps to INT32. -/
theorem matrixInt_eq {t : Nat} (ht : t < 2 ^ 32) (ps : List (Nat × Nat)) :
    matrixInt t ps = (((ps.map fun q : Nat × Nat => sInt 8 q.1 * sInt 8 q.2).sum + t) % 2 ^ 32).toNat := by
  have hfold : ∀ (l : List (Nat × Nat)) (c : Int),
      l.foldl (fun acc q => acc + sInt 8 q.1 * sInt 8 q.2) c = (l.map fun q => sInt 8 q.1 * sInt 8 q.2).sum + c := by
    intro l
    induction l with
    | nil => simp
    | cons q l ih =>
      intro c
      rw [List.foldl_cons, ih, List.map_cons, List.sum_cons]
      ring
  have hwrap (u : Int) : (u + sInt 32 t) % 2 ^ 32 = (u + t) % 2 ^ 32 := by
    rw [sInt_eq_signedOf ht, signedOf]
    split
    · rfl
    · omega
  rw [matrixInt, hfold, lowBits, hwrap]

/-- The register that holds the factor of B: F b, or F (b + 1). -/
def bReg (rb : Nat → FReg) (n : Nat) : FReg := if n = 0 then rb 0 else rb 1

theorem bReg_of_lt (rb : Nat → FReg) {n : Nat} (h : n < 2) : bReg rb n = rb n := by
  interval_cases n <;> rfl

/-- The factors at a pair of positions; none stands for a product of +0. -/
def factors (ty : BitVec 4) (a : FReg) (rb : Nat → FReg) : Option (Nat × Nat × Nat) → MVal × MVal
  | some (i, n, j) => (operandVal ty a i, operandVal ty (bReg rb n) j)
  | none => (.fin false .zero, .fin false .zero)

/-- The product of the INT8 elements at a pair of positions. -/
def intProduct (a : FReg) (rb : Nat → FReg) : Option (Nat × Nat × Nat) → Int
  | some (i, n, j) => signedOf 8 (elem 8 a.data i) * signedOf 8 (elem 8 (bReg rb n).data j)
  | none => 0

theorem sumElement_eq {ty : BitVec 4} {t : Nat} (ht : t < 2 ^ 32) (a : FReg) (rb : Nat → FReg) (ps : List (Option (Nat × Nat × Nat))) :
    sumElement ty a (rb 0) (rb 1) t ps =
      if ty = 8 then ((((ps.map (intProduct a rb)).sum + t) % 2 ^ 32).toNat, 0) else matrixSum t (ps.map (factors ty a rb)) := by
  unfold sumElement
  refine if_congr Iff.rfl (congrArg (Prod.mk · 0) ?_) ?_
  · rw [matrixInt_eq ht, List.map_map]
    refine congrArg (fun l : List Int => ((l.sum + t) % 2 ^ 32).toNat) (List.map_congr_left fun q _ => ?_)
    match q with
    | some (i, n, j) => exact congrArg₂ (· * ·) (sInt_eq_signedOf (elem_lt 8 _ i)) (sInt_eq_signedOf (elem_lt 8 _ j))
    | none => rfl
  · rfl

theorem map_factors_densePairs (y : BitVec 4) (a : FReg) (rb : Nat → FReg) (i : Nat) :
    (densePairs (fragK y) (i / 8) (i % 8)).map (factors y a rb) = denseProducts y a (rb 0) i := by
  rw [densePairs, List.map_map]
  rfl

theorem sum_intProduct_densePairs (a : FReg) (rb : Nat → FReg) (t i : Nat) :
    ((((densePairs 8 (i / 8) (i % 8)).map (intProduct a rb)).sum + t) % 2 ^ 32).toNat = intSum t a (rb 0) i := by
  rw [densePairs, List.map_map]
  rfl

/-- R191, R192: kept element j of group g of row r, with the place that its nibble names in column c of B; none in an illegal
group. -/
def keptPair (a : FReg) (k r c g j : Nat) : Option (Nat × Nat × Nat) :=
  let n := Claims.nibbleOf a k r g
  if LegalNibble n then some (k * r + 2 * g + j, keptPos n g j / k, k * c + keptPos n g j % k) else none

theorem sparsePairs_eq (a : FReg) (k r c : Nat) :
    sparsePairs a.side k r c = (List.range (k / 2)).flatMap fun g => (List.range 2).map (keptPair a k r c g) := by
  refine List.flatMap_congr fun g _ => ?_
  by_cases hlegal : LegalNibble (Claims.nibbleOf a k r g)
  · have hmodel : groupLegal (nibble a.side (r * (k / 2) + g)) = true := decide_eq_true hlegal
    simp only [hmodel, List.range_succ, List.range_zero, List.nil_append, List.map_append, List.map_cons, List.map_nil, keptPair,
      if_pos hlegal]
    rfl
  · have hmodel : groupLegal (nibble a.side (r * (k / 2) + g)) = false := decide_eq_false hlegal
    simp only [hmodel, List.range_succ, List.range_zero, List.nil_append, List.map_append, List.map_cons, List.map_nil, keptPair,
      if_neg hlegal]
    rfl

/-- A kept element's place lies in one of the two registers of B. -/
theorem keptPos_div_lt {a : FReg} {k r g : Nat} (hg : g < k / 2) (j : Nat) : keptPos (Claims.nibbleOf a k r g) g j / k < 2 := by
  have hn : Claims.nibbleOf a k r g < 16 := BitVec.isLt _
  rw [Nat.div_lt_iff_lt_mul (by omega), keptPos]
  split <;> omega

theorem map_factors_sparsePairs (y : BitVec 4) (a : FReg) (rb : Nat → FReg) (i : Nat) :
    (sparsePairs a.side (fragK y) (i / 8) (i % 8)).map (factors y a rb) = sparseProducts y a rb i := by
  rw [sparsePairs_eq, List.map_flatMap]
  refine List.flatMap_congr fun g hg => ?_
  rw [List.map_map]
  refine List.map_congr_left fun j _ => ?_
  have hreg := bReg_of_lt rb (keptPos_div_lt (a := a) (r := i / 8) (List.mem_range.1 hg) j)
  rw [Function.comp_apply, keptPair, apply_ite (factors y a rb), factors, hreg]
  rfl

theorem sum_intProduct_sparsePairs (a : FReg) (rb : Nat → FReg) (t i : Nat) :
    ((((sparsePairs a.side 8 (i / 8) (i % 8)).map (intProduct a rb)).sum + t) % 2 ^ 32).toNat = sparseInt t a rb i := by
  have hgroups : ((sparsePairs a.side 8 (i / 8) (i % 8)).map (intProduct a rb)).sum = ((List.range 4).map fun g =>
      intProduct a rb (keptPair a 8 (i / 8) (i % 8) g 0) + intProduct a rb (keptPair a 8 (i / 8) (i % 8) g 1)).sum := by
    rw [sparsePairs_eq, List.map_flatMap, List.flatMap_def, List.sum_flatten, List.map_map]
    refine congrArg List.sum (List.map_congr_left fun g _ => ?_)
    simp only [Function.comp_apply, List.range_succ, List.range_zero, List.nil_append, List.map_append, List.map_cons, List.map_nil,
      List.sum_append, List.sum_singleton]
  have hkept (g j : Nat) (hg : g ∈ List.range 4) : intProduct a rb (keptPair a 8 (i / 8) (i % 8) g j) =
      let n := Claims.nibbleOf a 8 (i / 8) g
      if LegalNibble n then signedOf 8 (elem 8 a.data (8 * (i / 8) + 2 * g + j)) *
        signedOf 8 (elem 8 (rb (keptPos n g j / 8)).data (8 * (i % 8) + keptPos n g j % 8)) else 0 := by
    have hreg := bReg_of_lt rb (keptPos_div_lt (a := a) (k := 8) (r := i / 8) (List.mem_range.1 hg) j)
    rw [keptPair, apply_ite (intProduct a rb), intProduct, hreg]
    rfl
  rw [hgroups]
  exact congrArg (fun l : List Int => ((l.sum + t) % 2 ^ 32).toNat)
    (List.map_congr_left fun g hg => congrArg₂ (· + ·) (hkept g 0 hg) (hkept g 1 hg))

/-- The value and the flags of tray element i over its old value t: R158's sum of the products of MACC, or of MACCS. -/
def traySum (y : BitVec 4) (sparse : Bool) (a : FReg) (rb : Nat → FReg) (t i : Nat) : Nat × Flags5 :=
  if y = 8 then (if sparse = true then sparseInt t a rb i else intSum t a (rb 0) i, 0)
  else matrixSum t (if sparse = true then sparseProducts y a rb i else denseProducts y a (rb 0) i)

theorem sumElement_eq_traySum (y : BitVec 4) (sparse : Bool) (a : FReg) (rb : Nat → FReg) {t : Nat} (ht : t < 2 ^ 32) (i : Nat) :
    sumElement y a (rb 0) (rb 1) t
      (if sparse = true then sparsePairs a.side (fragK y) (i / 8) (i % 8) else densePairs (fragK y) (i / 8) (i % 8)) =
    traySum y sparse a rb t i := by
  have hk : y = 8 → fragK y = 8 := by
    rintro rfl
    rfl
  rw [sumElement_eq ht, traySum]
  by_cases hy : y = 8
  · rw [if_pos hy, if_pos hy, hk hy]
    cases sparse
    · exact congrArg (Prod.mk · 0) (sum_intProduct_densePairs a rb t i)
    · exact congrArg (Prod.mk · 0) (sum_intProduct_sparsePairs a rb t i)
  · rw [if_neg hy, if_neg hy]
    cases sparse
    · exact congrArg (matrixSum t) (map_factors_densePairs y a rb i)
    · exact congrArg (matrixSum t) (map_factors_sparsePairs y a rb i)

/-- R192: SPM is noted exactly if some group of some row is illegal. -/
theorem badMetadata_iff (a : FReg) (k : Nat) :
    badMetadata a.side k = true ↔ ∃ i g, i < 8 ∧ g < k / 2 ∧ ¬ LegalNibble (Claims.nibbleOf a k i g) := by
  have hlegal (i g : Nat) : (!groupLegal (nibble a.side (i * (k / 2) + g))) = true ↔ ¬ LegalNibble (Claims.nibbleOf a k i g) := by
    rw [Bool.not_eq_true', ← Bool.not_eq_true]
    exact not_congr decide_eq_true_iff
  simp only [badMetadata, List.any_eq_true, List.mem_range]
  constructor
  · rintro ⟨n, hn, hbad⟩
    have hpos : 0 < k / 2 := by omega
    have hsplit : n / (k / 2) * (k / 2) + n % (k / 2) = n := Nat.div_add_mod' n (k / 2)
    refine ⟨n / (k / 2), n % (k / 2), (Nat.div_lt_iff_lt_mul hpos).2 hn, Nat.mod_lt n hpos, (hlegal _ _).1 ?_⟩
    rw [hsplit, hbad]
  · rintro ⟨i, g, hi, hg, hbad⟩
    have hle : i * (k / 2) ≤ 7 * (k / 2) := Nat.mul_le_mul_right _ (by omega)
    exact ⟨i * (k / 2) + g, by omega, (hlegal i g).2 hbad⟩

/-! ### The entry of a sum (R189) -/

section
variable (x : CellIn) (k : CellSt) (r : BitVec 2) (a b : BitVec 5) (nf : BitVec 1) (y : BitVec 4) (p : BitVec 1) (sparse : Bool)

/-- The new value and the flags of tray element i, from the tray as the latest earlier instruction leaves it. -/
def cellSum (i : Nat) : Nat × Flags5 :=
  traySum y sparse (operandIs x k a) (fun j => readF k (b.toNat + j)) (trayIs k.tv r i) i

/-- The tray and the flags that the instruction sums up. -/
def cellSums : TrayData × BitVec 160 :=
  sumLoop (trayMask (laneMask p k.p)) (cellSum x k r a b y sparse) (trayAt k.tv r.toNat) 64

/-- The entry that the adder gets. -/
def sumEntry : TrayEntry :=
  { due := x.now + 4, tag := x.tag, bundle := x.bundle, tray := r.toNat, mask := trayMask (laneMask p k.p)
    data := (cellSums x k r a b y p sparse).1, xf := (cellSums x k r a b y p sparse).2
    spm := sparse && badMetadata (operandIs x k a).side (fragK y), nf := nf == 1, trapen := x.trapen }

/-- The cell after the instruction's reach: the tray as the next sum reads it, the entry, and C where A moves on. -/
theorem sumOp_eq (pass : BitVec 1) : sumOp x k pass r a b nf y p sparse =
    ⟨{ k with
        c := if pass = 1 then operandIs x k a else k.c
        tv := setTray k.tv r.toNat (cellSums x k r a b y p sparse).1
        tq := k.tq ++ [sumEntry x k r a b nf y p sparse] }, []⟩ := by
  have hsum (i : Nat) := sumElement_eq_traySum y sparse (operandIs x k a) (fun j => readF k (b.toNat + j))
    (t := trayEl (trayAt k.tv r.toNat) i) (BitVec.isLt _) i
  simp only [sumEntry, cellSums, sumLoop]
  unfold sumStep cellSum
  simp only [trayIs_eq_trayEl, ← hsum, sumOp, readOperand_eq_operandIs]
  split <;> rfl

theorem trayEl_sumEntry_data {i : Nat} (hi : i < 64) : trayEl (sumEntry x k r a b nf y p sparse).data i =
    if Chosen k p (i % 32) = true then (cellSum x k r a b y sparse i).1 % 2 ^ 32 else trayIs k.tv r i :=
  (trayEl_sumLoop _ _ _ hi 64).trans (if_congr (by rw [getLsbD_trayMask hi, and_iff_right hi]) rfl rfl)

theorem summedFlags_cellSum {i : Nat} (hi : i < 64) :
    summedFlags (trayMask (laneMask p k.p)) (cellSum x k r a b y sparse) 64 i =
      if Chosen k p (i % 32) = true then (cellSum x k r a b y sparse i).2 else 0 := by
  rw [summedFlags, getLsbD_trayMask hi, if_congr (and_iff_right hi) rfl rfl]

/-- Entry j of the flags has those of the elements j and j + 32, which one bit of P chooses. -/
theorem xfAt_sumEntry_xf {j : Nat} (hj : j < 32) : xfAt (sumEntry x k r a b nf y p sparse).xf j =
    if Chosen k p j = true then (cellSum x k r a b y sparse j).2 ||| (cellSum x k r a b y sparse (j + 32)).2 else 0 := by
  have hlow : j % 32 = j := Nat.mod_eq_of_lt hj
  have hhigh : (j + 32) % 32 = j := by omega
  refine (xfAt_sumLoop _ _ _ le_rfl hj).trans ?_
  rw [summedFlags_cellSum x k r a b y p sparse (by omega), summedFlags_cellSum x k r a b y p sparse (by omega), hlow, hhigh]
  split
  · rfl
  · exact BitVec.or_zero

theorem sumEntry_spm_iff : (sumEntry x k r a b nf y p sparse).spm = true ↔ sparse = true ∧
    ∃ i g, i < 8 ∧ g < 64 / tyWidth y / 2 ∧ ¬ LegalNibble (Claims.nibbleOf (operandIs x k a) (64 / tyWidth y) i g) := by
  rw [← badMetadata_iff, ← Bool.and_eq_true]
  rfl

end

/-- Settles O22: both instructions are one loop over the tray's elements, whose element function is R158's sum of the products. -/
theorem traySumsEnterTheAdder : Obligations.TraySumsEnterTheAdder := by
  unfold Obligations.TraySumsEnterTheAdder
  intro x k m s r a b n y p hsel _ ra rb w hw products sum
  obtain ⟨i, sparse⟩ := w
  have hrun : cellRun i x k = sumOp x k s r a b n y p sparse := by
    simp only [List.mem_cons, List.not_mem_nil, or_false, Prod.mk.injEq] at hw
    obtain ⟨rfl, rfl⟩ | ⟨rfl, rfl⟩ := hw
    · simp only [cellRun, cellMacc, whenSel_of_sel hsel]
    · simp only [cellRun, cellMaccs, whenSel_of_sel hsel]
  refine ⟨_, sumEntry x k r a b n y p sparse, hrun.trans (sumOp_eq x k r a b n y p sparse s), rfl, rfl, rfl, rfl, rfl, rfl, rfl, rfl, rfl,
    fun i hi => getLsbD_trayMask hi k p, fun i _ => ?_, fun q hq => ?_,
    fun _ => ⟨fun i hi => trayEl_sumEntry_data x k r a b n y p sparse hi, fun j hj => xfAt_sumEntry_xf x k r a b n y p sparse hj⟩,
    sumEntry_spm_iff x k r a b n y p sparse⟩
  · rw [trayIs_setTray, if_pos rfl]
    rfl
  · rw [trayIs_setTray, if_neg hq]

end Sys2Proof.Proofs

/-! PROOFS. The epilogue unit: what each word makes of a working value and of the register in the unit, the register's way out, and a
captured register's way through its program (R57, R196 to R199, R202). -/

namespace Sys2Proof.Proofs
open Sys2Proof Sys2Proof.Machine Sys2Proof.Claims

/-! ### What the words make of a working value (R197, R198) -/

/-- A working value is a NaN, an infinity of its sign, or an exact number. -/
theorem exactVal_cases (ty v : Nat) :
    (exactVal ty v = .nan ∧ exactOf ty v = none ∧ isNaNOf ty v = true ∧ nanVal ty v = quieted ty v) ∨
    (exactVal ty v = .inf (signOf ty v) ∧ exactOf ty v = none ∧ isNaNOf ty v = false) ∨
    ∃ s x, exactVal ty v = .fin s x ∧ exactOf ty v = some (s, x) := by
  unfold exactVal exactOf isNaNOf nanVal quieted signOf
  cases tyOf ty with
  | flt f =>
    by_cases hnan : f.isNaN v = true
    · simp [hnan]
    · by_cases hinf : f.isInf v = true <;> simp [hnan, hinf]
  | int w => exact .inr (.inr ⟨_, _, rfl, rfl⟩)
  | fix w => exact .inr (.inr ⟨_, _, rfl, rfl⟩)

theorem epiAdd_eq (ty imm v : Nat) : epiAdd ty imm v = eaddIs ty imm v := by
  unfold epiAdd eaddIs
  obtain ⟨hv, hx, hnan, hq⟩ | ⟨hv, hx, hnan⟩ | ⟨s, x, hv, hx⟩ := exactVal_cases ty v
  · simp only [hv, hx, hnan, hq, if_true]
  · simp only [hv, hx, hnan, Bool.false_eq_true, if_false]
  · simp only [hv, hx]
    rfl

theorem epiMul_eq (ty imm v : Nat) : epiMul ty imm v = emulIs ty imm v := by
  unfold epiMul emulIs
  obtain ⟨hv, hx, hnan, hq⟩ | ⟨hv, hx, hnan⟩ | ⟨s, x, hv, hx⟩ := exactVal_cases ty v
  · simp only [hv, hx, hnan, hq, if_true]
  · simp only [hv, hx, hnan, Bool.false_eq_true, if_false]
    rfl
  · simp only [hv, hx]
    rfl

theorem epiRelu_eq (ty v : Nat) : epiRelu ty v = ereluIs ty v := by
  unfold epiRelu ereluIs
  obtain ⟨hv, hx, hnan, -⟩ | ⟨hv, hx, hnan⟩ | ⟨s, x, hv, hx⟩ := exactVal_cases ty v
  · simp only [hv, hx, hnan, Bool.true_eq_false, false_and, if_false]
  · simp only [hv, hx, hnan, true_and]
  · simp only [hv, hx]

theorem epiClamp_eq (ty imm v : Nat) : epiClamp ty imm v = eclmpIs ty imm v := by
  unfold epiClamp eclmpIs
  obtain ⟨hv, hx, hnan, hq⟩ | ⟨hv, hx, hnan⟩ | ⟨s, x, hv, hx⟩ := exactVal_cases ty v
  · simp only [hv, hx, hnan, hq, if_true]
  · simp only [hv, hx, hnan, Bool.false_eq_true, if_false]
    cases signOf ty v <;> rfl
  · simp only [hv, hx]
    rfl

/-! ### The words on the register in the unit (R198, R199) -/

/-- The core with a register in its unit and with the unit's generator. -/
def inUnitWith (k : Core) (x : EpiRun × Word) : Core := { k with edge := { k.edge with epi := some x.1, egen := x.2 } }

theorem epiWord_acts {s : State} {r : EpiRun} (hr : (coreAt s s.me).edge.epi = some r) (f : EpiRun → EpiRun) :
    ∃ t, epiWord s f = .next t ∧ CoreIs s t s.me (inUnitWith (coreAt s s.me) (f r, (coreAt s s.me).edge.egen)) := by
  have h := coreIs_modCore s s.me fun k => { k with edge := { k.edge with epi := k.edge.epi.map f } }
  rw [hr] at h
  exact ⟨_, rfl, h⟩

theorem epiWord_idle {s : State} (hr : (coreAt s s.me).edge.epi = none) (f : EpiRun → EpiRun) :
    ∃ t, epiWord s f = .next t ∧ CoreIs s t s.me (coreAt s s.me) := by
  have h := coreIs_modCore s s.me fun k => { k with edge := { k.edge with epi := k.edge.epi.map f } }
  rw [hr, Option.map_none, ← hr] at h
  exact ⟨_, rfl, h⟩

/-- A word that leaves the generator as it is: its function of the register. -/
theorem plainWord_eq (i : BitVec 12) (j : BitVec 11) : ∀ y ∈ [Instr.epass, .eadd i, .emul i, .erelu, .eclmp j],
    ∃ f : EpiRun → EpiRun, (∀ s, exec y s = epiWord s f) ∧ ∀ r g, afterWord y (r, g) = (f r, g) := by
  simp only [List.forall_mem_cons, List.not_mem_nil, false_imp_iff, implies_true, and_true]
  refine ⟨⟨id, fun _ => rfl, fun _ _ => rfl⟩, ⟨fun r => mapVals r 0 (epiAdd r.ty i.toNat), fun _ => rfl, fun r g => ?_⟩,
    ⟨fun r => mapVals r 0 (epiMul r.ty i.toNat), fun _ => rfl, fun r g => ?_⟩,
    ⟨fun r => mapVals r r.ty (epiRelu r.ty), fun _ => rfl, fun r g => ?_⟩,
    ⟨fun r => mapVals r 0 (epiClamp r.ty j.toNat), fun _ => rfl, fun r g => ?_⟩⟩
  · exact congrArg (fun h => (mapVals r 0 h, g)) (funext (epiAdd_eq r.ty i.toNat)).symm
  · exact congrArg (fun h => (mapVals r 0 h, g)) (funext (epiMul_eq r.ty i.toNat)).symm
  · exact congrArg (fun h => (mapVals r r.ty h, g)) (funext (epiRelu_eq r.ty)).symm
  · exact congrArg (fun h => (mapVals r 0 h, g)) (funext (epiClamp_eq r.ty j.toNat)).symm

theorem ecvt_acts {s : State} {r : EpiRun} (hr : (coreAt s s.me).edge.epi = some r) (ty : BitVec 4) (sr : BitVec 1) :
    ∃ t, exec (.ecvt ty sr) s = .next t ∧
      CoreIs s t s.me (inUnitWith (coreAt s s.me) (afterWord (.ecvt ty sr) (r, (coreAt s s.me).edge.egen))) := by
  have hrun (sr : BitVec 1) : exec (.ecvt ty sr) s = execEcvt ty sr s := rfl
  by_cases hsr : sr = 1 ∧ r.ty = 0
  · obtain ⟨rfl, hty⟩ := hsr
    refine ⟨_, ?_, coreIs_modCore s s.me fun k => inUnitWith k (afterWord (.ecvt ty 1) (r, k.edge.egen))⟩
    rw [hrun]
    simp only [execEcvt, hr, hty, afterWord, decide_true, Bool.and_self, if_true, and_self]
    rfl
  · obtain ⟨t, ht, hcore⟩ := epiWord_acts hr fun r => mapVals r ty.toNat fun v => (convert (tyOf r.ty) (tyOf ty.toNat) .rne v).1
    have htest : (decide (sr = 1) && decide (r.ty = 0)) = false := by rw [← Bool.decide_and, decide_eq_false hsr]
    refine ⟨t, ?_, ?_⟩
    · simp only [hrun, execEcvt, hr, htest, Bool.false_eq_true, if_false, ht]
    · rw [afterWord, if_neg hsr]
      exact hcore

/-- A word that the unit runs is ESTOP or one of the six that act on the working values. -/
theorem epilogueWord_cases {y : Instr} (hy : epilogueWord y = true) :
    y = .estop ∨ ∃ i j ty sr, y ∈ [Instr.epass, .eadd i, .emul i, .erelu, .eclmp j, .ecvt ty sr] := by
  unfold epilogueWord at hy
  split at hy
  case h_1 => exact .inl rfl
  case h_2 => exact .inr ⟨0, 0, 0, 0, by simp⟩
  case h_3 i => exact .inr ⟨i, 0, 0, 0, by simp⟩
  case h_4 i => exact .inr ⟨i, 0, 0, 0, by simp⟩
  case h_5 => exact .inr ⟨0, 0, 0, 0, by simp⟩
  case h_6 j => exact .inr ⟨0, j, 0, 0, by simp⟩
  case h_7 ty sr => exact .inr ⟨0, 0, ty, sr, by simp⟩
  case h_8 => cases hy

section
variable {s : State} {y : Instr} {i : BitVec 12} {j : BitVec 11} {ty : BitVec 4} {sr : BitVec 1}
variable (hy : y ∈ [Instr.epass, .eadd i, .emul i, .erelu, .eclmp j, .ecvt ty sr])
include hy

/-- A word is one of the plain ones, or ECVT. -/
theorem plainWord_or_ecvt : y ∈ [Instr.epass, .eadd i, .emul i, .erelu, .eclmp j] ∨ y = .ecvt ty sr := by
  have hsplit : [Instr.epass, .eadd i, .emul i, .erelu, .eclmp j, .ecvt ty sr] =
    [Instr.epass, .eadd i, .emul i, .erelu, .eclmp j] ++ [.ecvt ty sr] := rfl
  rwa [hsplit, List.mem_append, List.mem_singleton] at hy

theorem word_acts {r : EpiRun} (hr : (coreAt s s.me).edge.epi = some r) :
    ∃ t, exec y s = .next t ∧ CoreIs s t s.me (inUnitWith (coreAt s s.me) (afterWord y (r, (coreAt s s.me).edge.egen))) := by
  obtain hplain | rfl := plainWord_or_ecvt hy
  · obtain ⟨f, hrun, hafter⟩ := plainWord_eq i j y hplain
    rw [hrun, hafter]
    exact epiWord_acts hr f
  · exact ecvt_acts hr ty sr

theorem word_idle (hr : (coreAt s s.me).edge.epi = none) : ∃ t, exec y s = .next t ∧ CoreIs s t s.me (coreAt s s.me) := by
  obtain hplain | rfl := plainWord_or_ecvt hy
  · obtain ⟨f, hrun, -⟩ := plainWord_eq i j y hplain
    rw [hrun]
    exact epiWord_idle hr f
  · have hrun : exec (.ecvt ty sr) s = execEcvt ty sr s := rfl
    refine ⟨s, ?_, rfl, fun _ _ => rfl, rfl⟩
    simp only [hrun, execEcvt, hr]

end

/-- What a word makes of the register does not depend on the words that are left to it. -/
theorem afterWord_words (i : BitVec 12) (j : BitVec 11) (ty : BitVec 4) (sr : BitVec 1) (g : Word) (ws : List Half) :
    ∀ y ∈ [Instr.epass, .eadd i, .emul i, .erelu, .eclmp j, .ecvt ty sr], ∀ r : EpiRun,
      afterWord y ({ r with words := ws }, g) = ({ (afterWord y (r, g)).1 with words := ws }, (afterWord y (r, g)).2) := by
  simp only [List.forall_mem_cons, List.not_mem_nil, false_imp_iff, implies_true, and_true]
  refine ⟨fun _ => rfl, fun _ => rfl, fun _ => rfl, fun _ => rfl, fun _ => rfl, fun r => ?_⟩
  by_cases hsr : sr = 1 ∧ r.ty = 0
  · simp only [afterWord, if_pos hsr]
  · simp only [afterWord, if_neg hsr]

/-! ### The register leaves (R196) -/

/-- Value l as it leaves: converted to FMT where the working type differs. -/
def leavingValue (r : EpiRun) (l : Nat) : Nat :=
  (if r.ty = r.fmt then r.vals.getD l 0 else (convert (tyOf r.ty) (tyOf r.fmt) .rne (r.vals.getD l 0)).1) % 2 ^ fmtBits r.fmt

/-- The data of a register that leaves. -/
def leavingData (r : EpiRun) : RegData := BitVec.ofNat 512 (packed (fmtBits r.fmt) 16 (leavingValue r))

theorem leavesAs_leavingData (r : EpiRun) : LeavesAs r (leavingData r) := by
  intro hw l hl
  have hlt : ∀ i, i < 16 → leavingValue r i < 2 ^ fmtBits r.fmt := fun _ _ => Nat.mod_lt _ (Nat.two_pow_pos _)
  rw [elem_eq_div, leavingData, toNat_ofNat_of_lt (packed_lt_of_le hlt (by omega)), packed_field hlt hl, leavingValue]

theorem leaveEpi_leaves {s : State} {c : Nat} {r : EpiRun} (hr : (coreAt s c).edge.epi = some r) :
    CoreIs s (leaveEpi s c) c { coreAt s c with edge := leftUnit (coreAt s c).edge r (leavingData r) } := by
  simp only [leaveEpi, hr]
  exact coreIs_modCore_of (coreIs_modLoader s c r.edge _) _

theorem leaveEpi_idle {s : State} {c : Nat} (hr : (coreAt s c).edge.epi = none) : leaveEpi s c = s := by
  simp only [leaveEpi, hr]

theorem epilogueWordsAct : EpilogueWordsAct := by
  intro s i j ty sr k
  refine ⟨fun y hy => ⟨fun r hr => word_acts hy hr, word_idle hy⟩, fun r hr => ?_, fun hr => ?_⟩
  · exact ⟨_, _, rfl, leaveEpi_leaves hr, leavesAs_leavingData r⟩
  · exact congrArg Host.Outcome.next (leaveEpi_idle hr)

/-! ### A captured register's program (R196, R202) -/

theorem startTy_eq_startsAs (fmt : Nat) : startTy fmt = startsAs fmt := by
  simp only [startTy, startsAs, Bool.or_eq_true, decide_eq_true_eq]

theorem coreIs_setMe_self {s u : State} {c : Nat} {k : Core} (hu : CoreIs s u c k) : CoreIs s (setMe u s.me) c k := by
  obtain ⟨hk, hother, hrest⟩ := hu
  refine ⟨hk, hother, ?_⟩
  calc ({ setMe u s.me with cores := s.cores } : State)
    _ = { ({ u with cores := s.cores } : State) with me := s.me } := rfl
    _ = s := by rw [hrest]

/-- A core that has changed from the state s, whatever core the unit has made the issuing one, changes once more. -/
theorem coreIs_setMe {s u t : State} {c m : Nat} {k k' : Core} (hu : CoreIs s (setMe u s.me) c k) (ht : CoreIs (setMe u m) t c k') :
    CoreIs s (setMe t s.me) c k' := by
  obtain ⟨-, hother, hrest⟩ := hu
  obtain ⟨hk, hother', hrest'⟩ := ht
  refine ⟨hk, fun d hd => (hother' d hd).trans (hother d hd), ?_⟩
  calc ({ setMe t s.me with cores := s.cores } : State)
    _ = { ({ t with cores := (setMe u m).cores } : State) with me := s.me, cores := s.cores } := rfl
    _ = { setMe u s.me with cores := s.cores } := by rw [hrest']; rfl
    _ = s := hrest

theorem runEpi_idle {u : State} {c : Nat} (h : (coreAt u c).edge.epi = none) (n : Nat) : runEpi n u c = u := by
  cases n with
  | zero => rfl
  | succ n => rw [runEpi, h, Option.isNone_none, if_pos rfl]

theorem runEpi_step {u : State} {c : Nat} {r : EpiRun} (h : (coreAt u c).edge.epi = some r) (n : Nat) :
    runEpi (n + 1) u c = runEpi n (stepEpi u c) c := by
  rw [runEpi, h, Option.isNone_some, if_neg Bool.false_ne_true]

/-- The core with the register and the generator x in its unit, and the words ws left to the register. -/
def holding (k : Core) (x : EpiRun × Word) (ws : List Half) : Core := inUnitWith k ({ x.1 with words := ws }, x.2)

/-- The core once the register x has left the unit. -/
def leftCore (k : Core) (x : EpiRun × Word) : Core :=
  { k with edge := leftUnit { k.edge with egen := x.2 } x.1 (leavingData x.1) }

/-- The state in which the unit runs a word: the register is left with the words ws. -/
def wordTaken (u : State) (c : Nat) (r : EpiRun) (ws : List Half) : State :=
  modEdge (setMe u c) c fun e => { e with epi := some { r with words := ws } }

section
variable {u t : State} {c : Nat} {k : Core} {x : EpiRun × Word} {w : Half} {ws : List Half}

theorem epi_of_holding (hk : coreAt u c = holding k x ws) : (coreAt u c).edge.epi = some { x.1 with words := ws } := by
  rw [hk]
  rfl

/-- Neither the data that leave nor their place depend on the words that are left. -/
theorem leaveEpi_holding (hk : coreAt u c = holding k x ws) : CoreIs u (leaveEpi u c) c (leftCore k x) := by
  have h := leaveEpi_leaves (epi_of_holding hk)
  rw [hk] at h
  exact h

theorem wordTaken_holding (hk : coreAt u c = holding k x (w :: ws)) :
    CoreIs (setMe u c) (wordTaken u c x.1 ws) c (holding k x ws) := by
  have hcore : coreAt (setMe u c) c = holding k x (w :: ws) := hk
  have h := coreIs_modCore (setMe u c) c fun k => { k with edge := { k.edge with epi := some { x.1 with words := ws } } }
  rw [hcore] at h
  exact h

/-- The unit takes a word off the register and runs it. -/
theorem runEpi_word (hk : coreAt u c = holding k x (w :: ws)) (ht : runWord w (wordTaken u c x.1 ws) = .next t) (n : Nat) :
    runEpi (n + 1) u c = runEpi n t c := by
  unfold wordTaken at ht
  have hstep : stepEpi u c = t := by simp only [stepEpi, epi_of_holding hk, ht]
  rw [runEpi_step (epi_of_holding hk), hstep]

/-- Past the last word, and at ESTOP, the register leaves. -/
theorem runEpi_leaves (hk : coreAt u c = holding k x ws) (n : Nat) : runEpi n (leaveEpi u c) c = leaveEpi u c := by
  obtain ⟨hcore, -⟩ := leaveEpi_holding hk
  refine runEpi_idle ?_ n
  rw [hcore]
  rfl

theorem runEpi_end (hk : coreAt u c = holding k x []) (n : Nat) : runEpi (n + 1) u c = leaveEpi u c := by
  have hstep : stepEpi u c = leaveEpi u c := by simp only [stepEpi, epi_of_holding hk]
  rw [runEpi_step (epi_of_holding hk), hstep, runEpi_leaves hk]

end

theorem afterProgram_word {w : Half} {y : Instr} (hd : decodeSlot .epilogue (w.setWidth 32) = .ok y) (hy : y ≠ .estop)
    (ws : List Half) (x : EpiRun × Word) : afterProgram (w :: ws) x = afterProgram ws (afterWord y x) := by
  rw [afterProgram, hd]
  split
  case h_1 h => exact absurd (Except.ok.inj h) hy
  case h_2 h => rw [Except.ok.inj h]
  case h_3 h => cases h

/-- A word of a program ends it, or makes y of the register x and leaves the other words to it. -/
theorem runWord_cases {v : State} {c : Nat} {k : Core} {x : EpiRun × Word} {ws : List Half} (hme : v.me = c)
    (hk : coreAt v c = holding k x ws) (w : Half) :
    (runWord w v = .next (leaveEpi v c) ∧ afterProgram (w :: ws) x = x) ∨
    ∃ t y, runWord w v = .next t ∧ CoreIs v t c (holding k y ws) ∧ afterProgram (w :: ws) x = afterProgram ws y := by
  subst hme
  cases hd : decodeSlot .epilogue (w.setWidth 32) with
  | error e => exact .inr ⟨v, x, by simp only [runWord, hd], ⟨hk, fun _ _ => rfl, rfl⟩, by simp only [afterProgram, hd]⟩
  | ok y =>
    have hrun : runWord w v = exec y v := runWord_eq_exec hd v
    obtain rfl | ⟨i, j, ty, sr, hy⟩ := epilogueWord_cases (decodeSlot_epilogueWord _ y hd)
    · exact .inl ⟨hrun, by simp only [afterProgram, hd]⟩
    · have hne : y ≠ .estop := by
        rintro rfl
        simp at hy
      obtain ⟨t, ht, hcore⟩ := word_acts hy (epi_of_holding hk)
      have hgen : (coreAt v v.me).edge.egen = x.2 := by rw [hk]; rfl
      rw [hgen, afterWord_words i j ty sr x.2 ws y hy, hk] at hcore
      exact .inr ⟨t, afterWord y x, hrun.trans ht, hcore, afterProgram_word hd hne ws x⟩

/-- A program of fewer than n words runs over the register x: the core is left by what the program makes of it. -/
theorem runEpi_program {s : State} {c : Nat} {k : Core} (ws : List Half) : ∀ (n : Nat) (u : State) (x : EpiRun × Word), ws.length < n →
    CoreIs s (setMe u s.me) c (holding k x ws) →
    CoreIs s (setMe (runEpi n u c) s.me) c (leftCore k (afterProgram ws x)) := by
  induction ws with
  | nil =>
    intro n u x hn hu
    obtain ⟨n, rfl⟩ := Nat.exists_eq_add_one.2 hn
    have hk : coreAt u c = holding k x [] := hu.1
    rw [runEpi_end hk]
    exact coreIs_setMe (m := u.me) hu (leaveEpi_holding hk)
  | cons w ws ih =>
    intro n u x hn hu
    obtain ⟨n, rfl⟩ := Nat.exists_eq_add_one.2 (Nat.zero_lt_of_lt hn)
    have hk : coreAt u c = holding k x (w :: ws) := hu.1
    have hv := coreIs_setMe hu (wordTaken_holding hk)
    have hkv : coreAt (wordTaken u c x.1 ws) c = holding k x ws := hv.1
    obtain ⟨hrun, hprog⟩ | ⟨t, y, hrun, ht, hprog⟩ := runWord_cases (c := c) rfl hkv w
    · rw [runEpi_word hk hrun, hprog, runEpi_leaves hkv]
      exact coreIs_setMe (m := c) hv (leaveEpi_holding hkv)
    · rw [runEpi_word hk hrun, hprog]
      exact ih n t y (Nat.lt_of_succ_lt_succ hn) (coreIs_setMe (m := c) hv ht)

/-- The next captured register in capture order enters the unit with its program. -/
theorem enterEpi_holding {s : State} {c e cap pos : Nat} {q : List (Nat × Nat × Nat)} {x : Capture} {ws : List Half}
    (hepi : (coreAt s c).edge.epi = none) (hepq : (coreAt s c).edge.epq = (e, cap, pos) :: q)
    (hcap : ((loaderAt (coreAt s c).edge e).caps.find? fun y => y.id == cap) = some x) (hprog : x.bind.prog = some ws) :
    CoreIs s (enterEpi s c) c (holding { coreAt s c with edge := { (coreAt s c).edge with epq := q } }
      (⟨e, cap, pos, [], (List.range 16).map (elem 32 (Tab.get FReg.zero x.regs pos).data), startsAs (recFmt x.bind.recd),
        recFmt x.bind.recd⟩, (coreAt s c).edge.egen) ws) := by
  simp only [enterEpi, hepi, hepq, hcap, hprog, Option.getD_some, startTy_eq_startsAs]
  exact coreIs_modCore_of (coreIs_modCore s c _) _

theorem epilogueProcessesARegister : EpilogueProcessesARegister := by
  intro s c e cap pos q x ws k hepi hepq hcap hprog hlen fmt start r
  have henter := enterEpi_holding hepi hepq hcap hprog
  have hrun := runEpi_program ws 17 (enterEpi s c) (start, k.edge.egen) (by omega) (coreIs_setMe_self henter)
  exact ⟨_, _, rfl, hrun, leavesAs_leavingData r.1⟩

/-- Settles O37: each word is one function of the register in the unit, and the program's run is the words' functions in turn, then the
register's way out. -/
theorem epilogueUnit : Obligations.EpilogueUnit := ⟨epilogueWordsAct, epilogueProcessesARegister⟩

end Sys2Proof.Proofs

/-! PROOFS. Waits, and the counting flags and barriers of the own core: the conditions of the waits, and a post or an arrival at the core
that issues it (R213 to R219). -/

namespace Sys2Proof.Proofs
open Sys2Proof Sys2Proof.Machine Sys2Proof.Claims

/-! ### The waits' conditions (R217) -/

theorem kwaitMet_iff {s : State} {k : BitVec 4} {n : BitVec 16} :
    kwaitMet s k n = true ↔ n.toNat ≤ (flagOf s s.me k.toNat).toNat := decide_eq_true_iff

theorem bwaitMet_iff {s : State} {b : BitVec 10} {ph : BitVec 1} :
    bwaitMet s b ph = true ↔ (barOf s s.me b.toNat).phase ≠ (ph == 1) := bne_iff_ne

theorem dlyMet_iff {s : State} {n : BitVec 16} :
    dlyMet s n = true ↔ (coreAt s s.me).seq.readyAt + n.toNat ≤ (coreAt s s.me).seq.cyc := decide_eq_true_iff

theorem cellsQuiet_iff {a : Arr} :
    cellsQuiet a = true ↔ ∀ p ∈ a.cells, a.win.has (p.1 / 32) (p.1 % 32) = true → p.2.sfq = [] ∧ p.2.tq = [] := by
  simp only [cellsQuiet, List.all_eq_true, Bool.or_eq_true, Bool.not_eq_true', Bool.and_eq_true, List.isEmpty_iff,
    ← Bool.not_eq_true, ← imp_iff_not_or]

theorem arrayEmpty_iff {s : State} {c : Nat} (h : (coreAt s c).chain = []) : arrayEmpty s c = true ↔ ArrayEmpty (coreAt s c) := by
  simp only [arrayEmpty, positions_unchained h, List.all_cons, List.all_nil, Bool.and_true, Bool.and_eq_true, List.isEmpty_iff,
    cellsQuiet_iff, ArrayEmpty]

theorem foldl_max_lt {l : List Nat} {a n : Nat} : l.foldl max a < n ↔ a < n ∧ ∀ x ∈ l, x < n := by
  induction l generalizing a with
  | nil => simp
  | cons x l ih => rw [List.foldl_cons, ih, max_lt_iff, List.forall_mem_cons, and_assoc]

theorem waveDist_unchained {k : Core} (h : k.chain = []) (w : Window) (i j : Nat) :
    waveDist k w 0 i j = distance w.origin w.h w.w i j := by
  simp [waveDist, chainLen, h]

theorem fedDistance_unchained {k : Core} (h : k.chain = []) (w : Window) (e : Nat) :
    fedDistance k w e =
      ((List.range (edgeLen w e)).map fun p => distance w.origin w.h w.w (edgeCell w e p).1 (edgeCell w e p).2).foldl max 0 := by
  unfold fedDistance
  congr 2
  funext p
  split <;> simp_all [edgeCell, waveDist_unchained h]

/-- The last edge position is fed at the largest distance of an edge position. -/
theorem fedDistance_lt_iff {k : Core} (h : k.chain = []) (w : Wave) (e : Nat) : fedDistance k w.win e < w.next ↔ FedEverywhere w e := by
  simp only [fedDistance_unchained h, foldl_max_lt, List.forall_mem_map, List.mem_range, edgeLen, FedEverywhere]

theorem lwaitMet_iff {s : State} (h : (coreAt s s.me).chain = []) (e : BitVec 2) :
    lwaitMet s e = true ↔ (loaderAt (coreAt s s.me).edge e.toNat).caps = [] ∧
      ∀ w ∈ (coreAt s s.me).arr.waves, ∀ f ∈ w.feeds, f.core = s.me → f.edge = e.toNat → FedEverywhere w e.toNat := by
  simp only [lwaitMet, Bool.and_eq_true, List.isEmpty_iff, List.all_eq_true, Bool.or_eq_true, Bool.not_eq_true', decide_eq_true_eq,
    fedDistance_lt_iff h, ← Bool.not_eq_true, ← imp_iff_not_or, beq_iff_eq, and_imp]

/-- A wait with its condition met is the stall after u; with its condition not met it is nothing. -/
theorem wait_holds_or_done {s u : State} {met : Bool} {P : Prop} (hmet : met = true ↔ P) (hu : u.me = s.me) (st : BitVec 4) :
    (¬ P → (if met then syncDone u st else .next s) = .next s) ∧
    (P → ∃ t, (if met then syncDone u st else .next s) = .next t ∧ YDone u t st (coreAt u s.me).seq) := by
  refine ⟨fun h => if_neg fun hm => h (hmet.1 hm), fun h => ?_⟩
  rw [if_pos (hmet.2 h), ← hu]
  exact syncDone_yDone u st

theorem acquire_me (s : State) (c sc : Nat) : (acquire s c sc).me = s.me := me_eq_of_moves (acquire_moves (.refl c s) sc)

/-- Settles O29: each wait tests its condition, then stalls, KWAIT and BWAIT behind the acquire. -/
theorem waitsHoldUntilTheirCondition : Obligations.WaitsHoldUntilTheirCondition := by
  unfold Obligations.WaitsHoldUntilTheirCondition
  intro s st k n b ph e hchain
  simp only [waitTable, List.forall_mem_cons, List.not_mem_nil, false_imp_iff, implies_true, and_true]
  exact ⟨wait_holds_or_done kwaitMet_iff (acquire_me s s.me 4) st, wait_holds_or_done bwaitMet_iff (acquire_me s s.me 4) st,
    wait_holds_or_done dlyMet_iff rfl st, wait_holds_or_done (arrayEmpty_iff hchain) rfl st,
    wait_holds_or_done (lwaitMet_iff hchain e) rfl st⟩

/-! ### Barriers and counting flags (R213 to R215) -/

theorem arrive_open {x : Barrier} (h : x.count < x.target) : arrive x = .ok (arrivedAt x) := by
  rw [arrive, if_neg (by omega), completeBarrier, arrivedAt]
  by_cases hc : x.count + 1 = x.target ∧ x.pend = 0 <;> simp [hc]

theorem arrive_full {x : Barrier} (h : x.target ≤ x.count) : arrive x = .error 2 := if_pos (by omega)

theorem barrierEvent_ok {s : State} {c b : Nat} {f : Barrier → Except Nat Barrier} {x : Barrier} (h : f (barOf s c b) = .ok x)
    (t src bundle : Nat) : barrierEvent s t c b src bundle f = setBarrier s c b x := by
  have h : f (barrierAt (coreAt s c) b) = .ok x := h
  rw [barrierEvent, h]

theorem barrierEvent_error {s : State} {c b kind : Nat} {f : Barrier → Except Nat Barrier} (h : f (barOf s c b) = .error kind)
    (t src bundle : Nat) :
    barrierEvent s t c b src bundle f = barrierFault s t src bundle (barrierInfo b (lcoreOf s c) kind) := by
  have h : f (barrierAt (coreAt s c) b) = .error kind := h
  rw [barrierEvent, h]

theorem barrierFault_live {s : State} {t src : Nat} (h : liveHere s t src = true) (bundle : Nat) (info : Dword) :
    CoreIs s (barrierFault s t src bundle info) src { coreAt s src with
      deferred := (coreAt s src).deferred ++ [⟨0x14, bundle, info, (coreAt s src).seq.cyc⟩] } := by
  rw [barrierFault, if_pos h]
  exact detect_untagged s src 0x14 bundle info

/-! ### Posts and arrivals at the own core (R218, R219) -/

theorem sendPost_own (s : State) (core : BitVec 6) (bar : Bool) (idx n : Nat) :
    sendPost s true core bar idx n =
      applyPost (release s s.me 4) (teamNumber s s.me) s.me s.me (coreAt s s.me).seq.pc bar idx n := if_pos rfl

theorem exec_kpost (s : State) (st k : BitVec 4) (n : BitVec 8) (c : BitVec 6) (own : BitVec 1) :
    exec (.kpost st k n c own) s = execKpost st k n c own s := rfl
theorem exec_barr (s : State) (st : BitVec 4) (b : BitVec 10) (c : BitVec 6) (own : BitVec 1) :
    exec (.barr st b c own) s = execBarr st b c own s := rfl
theorem exec_bexp (s : State) (st : BitVec 4) (b : BitVec 10) (a : BitVec 5) :
    exec (.bexp st b a) s = execBexp st b a s := rfl

theorem exec_kpost_own (s : State) (st k : BitVec 4) (n : BitVec 8) (c : BitVec 6) :
    exec (.kpost st k n c 1) s = syncDone (postK (release s s.me 4) s.me k.toNat n.toNat) st := by
  have hown : ¬ (decide ((1 : BitVec 1) = 0) && decide (teamSize s s.me ≤ c.toNat)) = true := Bool.false_ne_true
  rw [exec_kpost, execKpost, if_neg hown, decide_eq_true rfl, sendPost_own, applyPost, if_neg Bool.false_ne_true]

theorem exec_barr_own (s : State) (st : BitVec 4) (b : BitVec 10) (c : BitVec 6) :
    exec (.barr st b c 1) s =
      syncDone (barrierEvent (release s s.me 4) (teamNumber s s.me) s.me b.toNat s.me (coreAt s s.me).seq.pc arrive) st := by
  have hown : ¬ (decide ((1 : BitVec 1) = 0) && decide (teamSize s s.me ≤ c.toNat)) = true := Bool.false_ne_true
  rw [exec_barr, execBarr, if_neg hown, decide_eq_true rfl, sendPost_own, applyPost, if_pos rfl]

section
variable {u : State} {c : Nat} (hc : u.me = c)
include hc

/-- `syncDone_modSeq` at a core that is the issuing one. -/
theorem syncDone_modSeq_at (st : BitVec 4) (f : Seq → Seq) (hcyc : (f (coreAt u c).seq).cyc = (coreAt u c).seq.cyc) :
    ∃ t, syncDone (modSeq u c f) st = .next t ∧ YDone u t st (f (coreAt u c).seq) := by
  subst hc
  exact syncDone_modSeq u st f hcyc

/-- The stall of a barrier event that the barrier takes. -/
theorem syncDone_barrierEvent {b : Nat} {f : Barrier → Except Nat Barrier} {x : Barrier} (h : f (barOf u c b) = .ok x)
    (st : BitVec 4) (t bundle : Nat) :
    ∃ v, syncDone (barrierEvent u t c b c bundle f) st = .next v ∧
      YDone u v st { (coreAt u c).seq with bars := Tab.set .zero (coreAt u c).seq.bars b x } := by
  rw [barrierEvent_ok h]
  exact syncDone_modSeq_at hc st (fun q => { q with bars := Tab.set .zero q.bars b x }) rfl

/-- The stall of a barrier event that is a fault of the own core. -/
theorem syncDone_barrierEvent_fault {t b kind : Nat} {f : Barrier → Except Nat Barrier} (hlive : liveHere u t c = true)
    (h : f (barOf u c b) = .error kind) (st : BitVec 4) (bundle : Nat) :
    ∃ v, syncDone (barrierEvent u t c b c bundle f) st = .next v ∧ (coreAt v c).seq.bars = (coreAt u c).seq.bars ∧
      ∃ d, (coreAt v c).deferred = (coreAt u c).deferred ++ [d] ∧ d.cause = 0x14 ∧ d.wavetag = bundle := by
  rw [barrierEvent_error h]
  obtain ⟨hcore, -, hrest⟩ := barrierFault_live hlive bundle (barrierInfo b (lcoreOf u c) kind)
  generalize barrierFault u t c bundle (barrierInfo b (lcoreOf u c) kind) = v at hcore hrest
  have hme : v.me = c := (congrArg State.me hrest :).trans hc
  refine ⟨_, rfl, ?_⟩
  rw [applyStall, hme, coreAt_modSeq_same, hcore]
  exact ⟨rfl, _, rfl, rfl, rfl⟩

end

theorem liveHere_of_moves {c : Nat} {s u : State} (h : Moves c s u) (t : Nat) : liveHere u t c = liveHere s t c := by
  have hsched := sched_of_moves h
  obtain ⟨-, hcore, -, -⟩ := h
  have hpart : (coreAt u c).part = (coreAt s c).part := (congrArg Core.part hcore :)
  simp only [liveHere, teamAt, hsched, hpart]

/-- Settles O30: behind its release a post or an arrival at the own core is the event itself; BEXP is one without a release. -/
theorem barriersAndFlagsCount : Obligations.BarriersAndFlagsCount := by
  unfold Obligations.BarriersAndFlagsCount
  intro s st k n c b a u q x q0 y hlive
  have hmoves : Moves s.me s u := release_moves (.refl s.me s) 4
  have hme : u.me = s.me := me_eq_of_moves hmoves
  have hpc : (coreAt s s.me).seq.pc = q.pc := by
    obtain ⟨-, hcore, -, -⟩ := hmoves
    exact (congrArg (fun k : Core => k.seq.pc) hcore.symm :)
  have hlive' : liveHere u (teamNumber s s.me) s.me = true := by rw [liveHere_of_moves hmoves, hlive]
  have hpost : exec (.kpost st k n c 1) s = syncDone (postK u s.me k.toNat n.toNat) st := exec_kpost_own s st k n c
  have hbarr : exec (.barr st b c 1) s = syncDone (barrierEvent u (teamNumber s s.me) s.me b.toNat s.me q.pc arrive) st := by
    rw [exec_barr_own, hpc]
  rw [hpost, hbarr, exec_bexp, execBexp]
  clear_value u
  refine ⟨?_, fun h => ?_, fun h => ?_, fun h => ?_, fun h => ?_⟩
  · exact syncDone_modSeq_at hme st (fun q => { q with
      k := Tab.set 0 q.k k.toNat (BitVec.ofNat 16 (min 65535 ((flagOf u s.me k.toNat).toNat + n.toNat))) }) rfl
  · exact syncDone_barrierEvent hme (arrive_open h) st _ _
  · exact syncDone_barrierEvent_fault hme hlive' (arrive_full h) st _
  · exact syncDone_barrierEvent rfl (if_neg (Nat.not_le.2 h)) st _ _
  · exact syncDone_barrierEvent_fault rfl hlive (if_pos h) st _

end Sys2Proof.Proofs

/-! PROOFS. O31: a post or an arrival at another core: the release that carries it, what the memory path leaves on its way, and the
arrival (R34, R60, R214, R218, R230, R260). -/

namespace Sys2Proof.Proofs
open Sys2Proof Sys2Proof.Machine Sys2Proof.Claims

/-- The posts of the device and the accesses of core c that are on their way. -/
def underWay (c : Nat) (s : State) : List Post × List PendAcc := (s.sys.posts, pendOf s c)

theorem underWay_foldl {α : Type} {c : Nat} {f : State → α → State} (h : ∀ s a, underWay c (f s a) = underWay c s) (l : List α) (s : State) :
    underWay c (l.foldl f s) = underWay c s := by
  induction l generalizing s with
  | nil => rfl
  | cons a l ih => rw [List.foldl_cons, ih, h]

section
variable (c : Nat) (s : State)

/-! The directory and the die L2s. -/

@[simp] theorem underWay_homeMerge (line : Nat) (d : LineData) (m : LineMask) : underWay c (homeMerge s line d m) = underWay c s := rfl
@[simp] theorem underWay_countDie (die reg : Nat) : underWay c (countDie s die reg) = underWay c s := rfl
@[simp] theorem underWay_setL2 (agent : Nat) (xs : List L2Line) : underWay c (setL2 s agent xs) = underWay c s := rfl
@[simp] theorem underWay_l2Drop (agent line : Nat) : underWay c (l2Drop s agent line) = underWay c s := rfl
@[simp] theorem underWay_setDir (line : Nat) (e : DirEntry) : underWay c (setDir s line e) = underWay c s := rfl
@[simp] theorem underWay_freeDir (line : Nat) : underWay c (freeDir s line) = underWay c s := rfl
@[simp] theorem underWay_sendMsg (m : DirMsg) : underWay c (sendMsg s m) = underWay c s := rfl
@[simp] theorem underWay_sendMsgs (l : List DirMsg) : underWay c (sendMsgs s l) = underWay c s := rfl
@[simp] theorem underWay_takeMsg (m : DirMsg) : underWay c (takeMsg s m) = underWay c s := rfl
@[simp] theorem underWay_hostGets (line : Nat) (d : LineData) : underWay c (hostGets s line d) = underWay c s := rfl
@[simp] theorem underWay_enqueue (line : Nat) (e : DirEntry) (r : DirReq) : underWay c (enqueue s line e r) = underWay c s := rfl

@[simp] theorem underWay_l2Out (agent : Nat) (x : L2Line) : underWay c (l2Out s agent x) = underWay c s := by
  unfold l2Out; split <;> simp

@[simp] theorem underWay_l2Put (agent : Nat) (x : L2Line) : underWay c (l2Put s agent x) = underWay c s := by
  simp only [l2Put]; split <;> simp

@[simp] theorem underWay_wake (line : Nat) (q : List DirReq) : underWay c (wake s line q) = underWay c s := by
  unfold wake; split <;> rfl

@[simp] theorem underWay_stable (line : Nat) (e : DirEntry) (st : DirState) (sharers : BitVec 5) :
    underWay c (stable s line e st sharers) = underWay c s := by simp [stable]

@[simp] theorem underWay_toU (line : Nat) (e : DirEntry) : underWay c (toU s line e) = underWay c s := by simp [toU]

@[simp] theorem underWay_installCopy (line die : Nat) (excl : Bool) : underWay c (installCopy s line die excl) = underWay c s := by
  simp [installCopy]

@[simp] theorem underWay_grantCopy (line die : Nat) : underWay c (grantCopy s line die) = underWay c s := by
  unfold grantCopy; split <;> simp

@[simp] theorem underWay_hostNext : underWay c (hostNext s) = underWay c s := by
  unfold hostNext; split
  · rfl
  · dsimp only; split <;> rfl

@[simp] theorem underWay_wrote (r : DirReq) : underWay c (wrote s r) = underWay c s := by unfold wrote; split <;> simp

@[simp] theorem underWay_finishSx (line : Nat) (e : DirEntry) (r : DirReq) : underWay c (finishSx s line e r) = underWay c s := by
  cases r with
  | upg d => simp only [finishSx, underWay_sendMsg, underWay_setDir]; split <;> simp
  | _ => simp [finishSx]

@[simp] theorem underWay_invalidate (line : Nat) (e : DirEntry) (who : List Nat) (r : DirReq) :
    underWay c (invalidate s line e who r) = underWay c s := by unfold invalidate; split <;> simp

@[simp] theorem underWay_evictVictim (line : Nat) (e : DirEntry) : underWay c (evictVictim s line e) = underWay c s := by
  simp only [evictVictim]; split <;> simp

@[simp] theorem underWay_waitForWay (m : DirMsg) (line : Nat) : underWay c (waitForWay s m line) = underWay c s := by
  simp only [waitForWay]; split
  · rw [underWay_evictVictim]; rfl
  · rfl

@[simp] theorem underWay_dirRds (line die : Nat) : underWay c (dirRds s line die) = underWay c s := by
  unfold dirRds; split
  · split <;> simp
  · split <;> simp

@[simp] theorem underWay_dirRdx (line die : Nat) : underWay c (dirRdx s line die) = underWay c s := by
  unfold dirRdx; split
  · split <;> simp
  · split <;> simp

@[simp] theorem underWay_dirUpg (line die : Nat) : underWay c (dirUpg s line die) = underWay c s := by
  unfold dirUpg; split
  · simp
  · split
    · split <;> simp
    · simp
    · simp

@[simp] theorem underWay_dirAck (line die : Nat) : underWay c (dirAck s line die) = underWay c s := by
  unfold dirAck; split
  · rfl
  · split
    · split <;> simp
    · split <;> simp
    · rfl

@[simp] theorem underWay_dirInv (line die : Nat) : underWay c (dirInv s line die) = underWay c s := by simp [dirInv]

@[simp] theorem underWay_dirInvAck (line die : Nat) : underWay c (dirInvAck s line die) = underWay c s := by
  unfold dirInvAck; split
  · rfl
  · split
    · dsimp only; split <;> simp
    · rfl

@[simp] theorem underWay_ownerShares (line die : Nat) : underWay c (ownerShares s line die).1 = underWay c s := by
  unfold ownerShares; split <;> simp

@[simp] theorem underWay_dirRcls (line die : Nat) : underWay c (dirRcls s line die) = underWay c s := by simp [dirRcls]

@[simp] theorem underWay_dirFwdio (line die : Nat) : underWay c (dirFwdio s line die) = underWay c s := by
  simp only [dirFwdio, underWay_sendMsg]; split <;> simp

@[simp] theorem underWay_dirRcli (line die : Nat) : underWay c (dirRcli s line die) = underWay c s := by
  unfold dirRcli; split <;> simp

@[simp] theorem underWay_dirRclAck (line die : Nat) (h : Bool) (d : LineData) (m : LineMask) :
    underWay c (dirRclAck s line die h d m) = underWay c s := by
  have hmerge : underWay c (if h then homeMerge s line d m else s) = underWay c s := by split <;> simp
  unfold dirRclAck
  generalize (if h then homeMerge s line d m else s) = u at hmerge ⊢
  split
  · rfl
  · split
    · dsimp only; split
      · simp [hmerge]
      · rename_i r _ _ _
        have hread : underWay c (if r == .rdio && !h then hostGets u line (memLine u.sys.mem line) else u) = underWay c s := by
          split <;> simp [hmerge]
        generalize (if r == .rdio && !h then hostGets u line (memLine u.sys.mem line) else u) = v at hread ⊢
        split <;> split <;> simp [hread]
    · simp [hmerge]
    · rfl

@[simp] theorem underWay_dirWbx (line die : Nat) (d : LineData) (m : LineMask) : underWay c (dirWbx s line die d m) = underWay c s := by
  unfold dirWbx; split
  · rfl
  · split
    · split <;> simp
    · rfl

@[simp] theorem underWay_dirEvs (line die : Nat) : underWay c (dirEvs s line die) = underWay c s := by
  unfold dirEvs; split
  · rfl
  · split
    · rfl
    · dsimp only; split
      · split <;> simp
      · simp
      · simp

@[simp] theorem underWay_dirRdio (line : Nat) : underWay c (dirRdio s line) = underWay c s := by
  unfold dirRdio; split
  · simp
  · split <;> simp

@[simp] theorem underWay_dirWrite (line : Nat) (d : LineData) (m : LineMask) (r : DirReq) :
    underWay c (dirWrite s line d m r) = underWay c s := by
  unfold dirWrite; split
  · simp
  · split <;> simp

@[simp] theorem underWay_deliverMsg (m : DirMsg) : underWay c (deliverMsg s m) = underWay c s := by cases m <;> simp [deliverMsg]

theorem underWay_runMsgs (n : Nat) : underWay c (runMsgs n s) = underWay c s := by
  induction n generalizing s with
  | zero => rfl
  | succ n ih =>
    unfold runMsgs; split
    · rfl
    · simp [ih]

@[simp] theorem underWay_settle : underWay c (settle s) = underWay c s := underWay_runMsgs c s msgFuel

@[simp] theorem underWay_homeFetch (line : Nat) : underWay c (homeFetch s line) = underWay c s := by
  simp only [homeFetch]; split
  · simp
  · split
    · simp
    · split <;> simp

@[simp] theorem underWay_homeWrite (line : Nat) (d : LineData) (m : LineMask) : underWay c (homeWrite s line d m) = underWay c s := by
  simp [homeWrite]

@[simp] theorem underWay_sliceRead (line : Nat) (nc : Bool) : underWay c (sliceRead s line nc).1 = underWay c s := by
  simp only [sliceRead]; split <;> simp

@[simp] theorem underWay_sliceWrite (line : Nat) (d : LineData) (m : LineMask) (nc : Bool) :
    underWay c (sliceWrite s line d m nc) = underWay c s := by
  unfold sliceWrite; split
  · rfl
  · split <;> simp

@[simp] theorem underWay_dieRead (die line : Nat) (nc : Bool) : underWay c (dieRead s die line nc).1 = underWay c s := by
  unfold dieRead; split
  · simp
  · split
    · split <;> simp
    · split <;> simp

@[simp] theorem underWay_dieWrite (die line : Nat) (d : LineData) (m : LineMask) (nc : Bool) :
    underWay c (dieWrite s die line d m nc) = underWay c s := by
  have hput : ∀ u : State, underWay c (match l2Find u die line with
      | some x => l2Put u die { x with data := mergeLine x.data d m, dirty := x.dirty ||| m }
      | none => homeMerge u line d m) = underWay c u := by intro u; split <;> simp
  unfold dieWrite; split
  · rfl
  · split
    · simp
    · refine (hput _).trans ?_
      split
      · simp
      · dsimp only; split
        · split <;> simp
        · simp

@[simp] theorem underWay_ncWriteBack (die : Nat) : underWay c (ncWriteBack s die) = underWay c s :=
  underWay_foldl (fun s x => by split <;> simp) _ s
@[simp] theorem underWay_ncDrop (die : Nat) : underWay c (ncDrop s die) = underWay c s := rfl

@[simp] theorem underWay_touchPinned (line : Nat) : underWay c (touchPinned s line) = underWay c s := by
  unfold touchPinned; split
  · rfl
  · dsimp only; split <;> rfl

/-! The cluster ways. -/

@[simp] theorem underWay_setWays (g : Nat) (xs : List CLine) : underWay c (setWays s g xs) = underWay c s := rfl

@[simp] theorem underWay_evictWay (g line : Nat) : underWay c (evictWay s g line) = underWay c s := by
  unfold evictWay; split <;> simp

@[simp] theorem underWay_putWay (g : Nat) (x : CLine) : underWay c (putWay s g x) = underWay c s := by
  simp only [putWay]; split <;> simp

@[simp] theorem underWay_wayRead (g line : Nat) (nc : Bool) : underWay c (wayRead s g line nc).1 = underWay c s := by
  unfold wayRead; split
  · split <;> simp
  · simp

@[simp] theorem underWay_wayWrite (g line : Nat) (d : LineData) (m : LineMask) (nc : Bool) :
    underWay c (wayWrite s g line d m nc) = underWay c s := by
  unfold wayWrite; split <;> simp

@[simp] theorem underWay_cleanWay (g : Nat) (toHome : Bool) (x : CLine) : underWay c (cleanWay s g toHome x) = underWay c s := by
  unfold cleanWay; split
  · rfl
  · dsimp only; split
    · split
      · split <;> simp
      · simp
    · simp

@[simp] theorem underWay_cleanWays (g : Nat) (toHome : Bool) : underWay c (cleanWays s g toHome) = underWay c s :=
  underWay_foldl (fun s x => underWay_cleanWay c s g toHome x) _ s
@[simp] theorem underWay_dropCleanWays (g : Nat) : underWay c (dropCleanWays s g) = underWay c s := rfl

/-! Single copies and doorbells. -/

@[simp] theorem underWay_deliverPosted : underWay c (deliverPosted s) = underWay c s := rfl

@[simp] theorem underWay_doorbell (q w : Nat) : underWay c (doorbell s q w) = underWay c s := by
  unfold doorbell; dsimp only; split
  · rfl
  · split
    · rfl
    · unfold postEvent; split <;> rfl

@[simp] theorem underWay_ringBell (q w : Nat) : underWay c (ringBell s q w) = underWay c s := by
  unfold ringBell; split
  · simp
  · rfl

@[simp] theorem underWay_singleWrite (pa : Nat) (d : Dword) (m : Byte) (home : BitVec 2) :
    underWay c (singleWrite s pa d m home) = underWay c s := by
  unfold singleWrite; split
  · split <;> simp
  · split
    · rfl
    · split
      · rfl
      · have htouch : underWay c (if home = 2 then touchPinned s (pa / 128) else s) = underWay c s := by split <;> simp
        exact htouch

/-! The core's L1 and store buffer. -/

theorem underWay_modMem (d : Nat) (f : MemPath → MemPath) (hf : ∀ m, (f m).pend = m.pend) : underWay c (modMem s d f) = underWay c s := by
  have hpend : pendOf (modMem s d f) c = pendOf s c := by
    rw [pendOf, pendOf, modMem, coreAt_modCore]
    split
    · rename_i h
      rw [h, hf]
    · rfl
  rw [underWay, hpend]
  rfl

@[simp] theorem underWay_setL1 (d : Nat) (l : List CLine) : underWay c (setL1 s d l) = underWay c s := underWay_modMem c s d _ fun _ => rfl

@[simp] theorem underWay_evictL1 (d line : Nat) : underWay c (evictL1 s d line) = underWay c s := by
  unfold evictL1; split <;> simp

@[simp] theorem underWay_putL1 (d : Nat) (x : CLine) : underWay c (putL1 s d x) = underWay c s := by
  simp only [putL1]; split <;> simp

@[simp] theorem underWay_l1Read (d line : Nat) (nc : Bool) : underWay c (l1Read s d line nc).1 = underWay c s := by
  unfold l1Read; split
  · split <;> simp
  · simp

@[simp] theorem underWay_l1Write (d line : Nat) (v : LineData) (m : LineMask) (nc : Bool) :
    underWay c (l1Write s d line v m nc) = underWay c s := by simp [l1Write]

@[simp] theorem underWay_cleanL1 (d : Nat) (x : CLine) : underWay c (cleanL1 s d x) = underWay c s := by
  unfold cleanL1; split <;> simp

@[simp] theorem underWay_cleanL1All (d : Nat) : underWay c (cleanL1All s d) = underWay c s :=
  underWay_foldl (fun s x => underWay_cleanL1 c s d x) _ s
@[simp] theorem underWay_dropCleanL1 (d : Nat) : underWay c (dropCleanL1 s d) = underWay c s := underWay_setL1 c s d _

@[simp] theorem underWay_landStore (d : Nat) (e : StoreEnt) : underWay c (landStore s d e) = underWay c s := by
  unfold landStore; split <;> simp

@[simp] theorem underWay_drainSb (d : Nat) : underWay c (drainSb s d) = underWay c s :=
  (underWay_foldl (fun s e => underWay_landStore c s d e) _ _).trans (underWay_modMem c s d _ fun _ => rfl)
@[simp] theorem underWay_drainSome (d : Nat) (f : StoreEnt → Bool) : underWay c (drainSome s d f) = underWay c s :=
  (underWay_foldl (fun s e => underWay_landStore c s d e) _ _).trans (underWay_modMem c s d _ fun _ => rfl)

/-! Releases and acquires. -/

@[simp] theorem underWay_writeBacks (d sc : Nat) : underWay c (writeBacks s d sc) = underWay c s := by
  unfold writeBacks; dsimp only; split
  · simp
  · split
    · simp
    · split <;> simp

theorem underWay_releaseActs (d sc : Nat) : underWay c (releaseActs s d sc) = underWay c s := by simp [releaseActs]

theorem underWay_releaseIf (d sc seq : Nat) : underWay c (releaseIf s d sc seq) = underWay c s := by
  unfold releaseIf; split
  · rfl
  · simp [releaseOlder]

theorem underWay_acquireActs (d sc : Nat) : underWay c (acquireActs s d sc) = underWay c s := by
  unfold acquireActs; dsimp only; split
  · simp
  · split <;> simp

end

/-- A release that is performed sends its post. -/
theorem underWay_performRelease (s : State) (c n seq : Nat) (p : Post) :
    underWay c (performAcc s c (.release ⟨n, seq, some p⟩)) = (s.sys.posts ++ [p], pendOf s c) := by
  have hrel := underWay_releaseIf c s c n seq
  obtain ⟨hposts, hpend⟩ := Prod.mk.inj hrel
  exact Prod.ext (congrArg (· ++ [p]) hposts) hpend

/-- With nothing but a release of a post on its way, a FENCE leaves the post on its way and nothing else. -/
theorem underWay_fenceActs {s : State} {c n seq : Nat} {p : Post} (h : pendOf s c = [.release ⟨n, seq, some p⟩]) (sc : Nat) :
    underWay c (fenceActs s c sc) = (s.sys.posts ++ [p], []) := by
  have hpend : pendOf (modMem s c fun m => { m with pend := [] }) c = [] := by rw [pendOf, coreAt_modMem_same]
  have hrel : underWay c (release s c sc) = (s.sys.posts ++ [p], []) := by
    rw [release, underWay_releaseActs, quiesce, h]
    exact (underWay_performRelease (modMem s c fun m => { m with pend := [] }) c n seq p).trans (by rw [hpend]; rfl)
  have hnone : pendOf (release s c sc) c = [] := (congrArg Prod.snd hrel :)
  rw [fenceActs, acquire, hnone, underWay_acquireActs]
  exact hrel

/-! ### Posts and arrivals at another core (R218, R34, R60) -/

theorem teamSize_eq {s : State} {tm : Team} (h : teamOf s s.me = some tm) : teamSize s s.me = tm.img.cores := by rw [teamSize, h]

theorem sendPost_other {s : State} {core : BitVec 6} (h : physCore s s.me core.toNat ≠ s.me) (bar : Bool) (idx n : Nat) :
    sendPost s false core bar idx n = issueRelease s s.me 4 (some
      ⟨teamNumber s s.me, (coreAt s s.me).seq.pc, s.me, physCore s s.me core.toNat, bar, idx, n⟩) := if_neg h

/-- The two instructions that name another core, each with the event that it sends. -/
theorem exec_remote {s : State} {tm : Team} (hteam : teamOf s s.me = some tm) (st k : BitVec 4) (n : BitVec 8) (c : BitVec 6) (b : BitVec 10) :
    ∀ p ∈ [(Instr.kpost st k n c 0, false, k.toNat, n.toNat), (Instr.barr st b c 0, true, b.toNat, 1)],
      exec p.1 s = if tm.img.cores ≤ c.toNat then .next (illegalOperand s p.1)
        else syncDone (sendPost s false c p.2.1 p.2.2.1 p.2.2.2) st := by
  have hif : ∀ x y : Out, (if (decide ((0 : BitVec 1) = 0) && decide (teamSize s s.me ≤ c.toNat)) = true then x else y) =
      if tm.img.cores ≤ c.toNat then x else y := fun x y => by
    rw [teamSize_eq hteam, decide_eq_true rfl, Bool.true_and]
    exact if_congr decide_eq_true_iff rfl rfl
  have hown : decide ((0 : BitVec 1) = 1) = false := rfl
  simp only [List.forall_mem_cons, List.not_mem_nil, false_imp_iff, implies_true, and_true]
  constructor
  · rw [exec_kpost, execKpost, hif, hown]
  · rw [exec_barr, execBarr, hif, hown]

theorem issueRelease_syncDone (s : State) (st : BitVec 4) (p : Post) :
    ∃ t, syncDone (issueRelease s s.me 4 (some p)) st = .next t ∧ CoreIs s t s.me { coreAt s s.me with
      seq := { (coreAt s s.me).seq with readyAt := (coreAt s s.me).seq.cyc + 1 + st.toNat }
      mem := { (coreAt s s.me).mem with
        nextSeq := (coreAt s s.me).mem.nextSeq + 1
        pend := (coreAt s s.me).mem.pend ++ [.release ⟨4, (coreAt s s.me).mem.nextSeq, some p⟩] } } :=
  ⟨_, rfl, coreIs_modCore_of
    (coreIs_modCore s s.me fun k => { k with mem := { k.mem with
      nextSeq := k.mem.nextSeq + 1
      pend := k.mem.pend ++ [.release ⟨4, k.mem.nextSeq, some p⟩] } })
    fun k => { k with seq := { k.seq with readyAt := k.seq.cyc + 1 + st.toNat } }⟩

theorem encode_remote (st k : BitVec 4) (n : BitVec 8) (c : BitVec 6) (b : BitVec 10) :
    ∀ i ∈ [Instr.kpost st k n c 0, .barr st b c 0], ∃ w, encode i = some ⟨.y, w⟩ := by
  simp only [List.forall_mem_cons, List.not_mem_nil, false_imp_iff, implies_true, and_true]
  exact ⟨⟨_, rfl⟩, ⟨_, rfl⟩⟩

/-- An illegal operand of a Y instruction takes its precise trap. -/
theorem illegalOperand_trapTaken {s : State} (h : Quiet s) {i : Instr} {w : Word} (hi : encode i = some ⟨.y, w⟩) :
    TrapTaken s (illegalOperand s i) 2 (operandInfo 0 (decide (0 < (coreAt s s.me).seq.repK)) w) := by
  rw [illegalOperand, hi]
  exact bundleTrap_trapTaken h 2 0 w

/-! ### The arrival of a post (R218, R230, R214) -/

theorem takePost_oldest {p : Post} {before after : List Post} (h : ∀ q ∈ before, ¬ (q.src = p.src ∧ q.dst = p.dst)) :
    takePost p.src p.dst (before ++ p :: after) = some (p, before ++ after) := by
  induction before with
  | nil => simp [takePost]
  | cons q l ih =>
    obtain ⟨hq, hl⟩ := List.forall_mem_cons.1 h
    rw [List.cons_append, takePost, if_neg (by simpa using hq), ih hl]
    rfl

/-- The state in which a post that has been taken out of the network arrives. -/
def withPosts (s : State) (l : List Post) : State := modSys s fun y => { y with posts := l }

theorem exec_remotePostArrive {s : State} {p : Post} {before after : List Post} (hs : s.sys.posts = before ++ p :: after)
    (h : ∀ q ∈ before, ¬ (q.src = p.src ∧ q.dst = p.dst)) :
    exec (.remotePostArrive p.src p.dst) s = .next (deliverPost (withPosts s (before ++ after)) p) := by
  have hexec : exec (.remotePostArrive p.src p.dst) s = execRemotePostArrive p.src p.dst s := rfl
  rw [hexec, execRemotePostArrive, hs, takePost_oldest h]
  rfl

theorem deliverPost_live {s : State} {p : Post} (h : liveHere s p.team p.dst = true) (l : List Post) :
    deliverPost (withPosts s l) p = applyPost (withPosts s l) p.team p.src p.dst p.bundle p.bar p.idx p.n := if_pos h

theorem flagOf_postK (s : State) (c i n j : Nat) :
    flagOf (postK s c i n) c j = if j = i then BitVec.ofNat 16 (min 65535 ((flagOf s c i).toNat + n)) else flagOf s c j := by
  rw [postK, setK, flagOf, coreAt_modSeq_same]
  exact Tab.get_set _ _ _ _ _

theorem barOf_setBarrier (s : State) (c b : Nat) (x : Barrier) : barOf (setBarrier s c b x) c b = x := by
  rw [setBarrier, barOf, coreAt_modSeq_same]
  exact Tab.get_set_same _ _ _ _

theorem saved_of_live {s : State} {t c : Nat} (h : liveHere s t c = true) : Tab.look s.sched.saved (64 * t + c) = none := by
  simp only [liveHere, Bool.and_eq_true, Option.isNone_iff_eq_none] at h
  exact h.1

/-- A core with one deferred barrier fault more (R214, R221). -/
def withBarrierFault (bundle : Nat) (info : Dword) (k : Core) : Core :=
  { k with deferred := k.deferred ++ [⟨0x14, bundle, info, k.seq.cyc⟩] }

@[simp] theorem withBarrierFault_seq (bundle : Nat) (info : Dword) (k : Core) : (withBarrierFault bundle info k).seq = k.seq := rfl
@[simp] theorem withBarrierFault_part (bundle : Nat) (info : Dword) (k : Core) : (withBarrierFault bundle info k).part = k.part := rfl

/-- A barrier fault joins the deferred ones of its core, wherever that core's context is. -/
theorem barrierFault_eq_modContext (s : State) (t src bundle : Nat) (info : Dword) :
    barrierFault s t src bundle info = modContext s t src (withBarrierFault bundle info) := by
  rw [barrierFault]
  split
  · rename_i hlive
    rw [modContext, saved_of_live hlive, if_pos hlive]
    rfl
  · rfl

theorem modContext_sys (s : State) (t c : Nat) (f : Core → Core) : (modContext s t c f).sys = s.sys := by
  unfold modContext
  split
  · rfl
  · split <;> rfl

theorem barOf_modContext (s : State) (t c : Nat) (f : Core → Core) (hf : ∀ k, (f k).seq = k.seq) (d b : Nat) :
    barOf (modContext s t c f) d b = barOf s d b := by
  have hseq : (coreAt (modContext s t c f) d).seq = (coreAt s d).seq := by
    unfold modContext
    split
    · rfl
    · split
      · rw [coreAt_modCore]
        split
        · rename_i h
          rw [h, hf]
        · rfl
      · rfl
  rw [barOf, hseq, barOf]

section
variable {s : State} {p : Post} {l : List Post}

theorem postArrives (hbar : p.bar = false) (hlive : liveHere s p.team p.dst = true) :
    let t := deliverPost (withPosts s l) p
    t.sys.posts = l ∧ flagOf t p.dst p.idx = BitVec.ofNat 16 (min 65535 ((flagOf s p.dst p.idx).toNat + p.n)) ∧
      ∀ j, j ≠ p.idx → flagOf t p.dst j = flagOf s p.dst j := by
  intro t
  have hflag : ¬ p.bar = true := by simp [hbar]
  have ht : t = postK (withPosts s l) p.dst p.idx p.n := (deliverPost_live hlive l).trans (if_neg hflag)
  rw [ht]
  exact ⟨rfl, (flagOf_postK _ _ _ _ _).trans (if_pos rfl), fun j hj => (flagOf_postK _ _ _ _ _).trans (if_neg hj)⟩

theorem arrivalArrives (hbar : p.bar = true) (hlive : liveHere s p.team p.dst = true)
    (hopen : (barOf s p.dst p.idx).count < (barOf s p.dst p.idx).target) :
    let t := deliverPost (withPosts s l) p
    t.sys.posts = l ∧ barOf t p.dst p.idx = arrivedAt (barOf s p.dst p.idx) := by
  intro t
  have hok : arrive (barOf (withPosts s l) p.dst p.idx) = .ok (arrivedAt (barOf s p.dst p.idx)) := arrive_open hopen
  have ht : t = setBarrier (withPosts s l) p.dst p.idx (arrivedAt (barOf s p.dst p.idx)) := by
    rw [← barrierEvent_ok hok p.team p.src p.bundle]
    exact (deliverPost_live hlive l).trans (if_pos hbar)
  rw [ht]
  exact ⟨rfl, barOf_setBarrier _ _ _ _⟩

theorem arrivalFaults (hbar : p.bar = true) (hlive : liveHere s p.team p.dst = true)
    (hfull : (barOf s p.dst p.idx).target ≤ (barOf s p.dst p.idx).count) :
    let t := deliverPost (withPosts s l) p
    t.sys.posts = l ∧ barOf t p.dst p.idx = barOf s p.dst p.idx ∧
      ∃ d, (contextAt t p.team p.src).deferred = (contextAt s p.team p.src).deferred ++ [d] ∧ d.cause = 0x14 ∧ d.wavetag = p.bundle := by
  intro t
  have herr : arrive (barOf (withPosts s l) p.dst p.idx) = .error 2 := arrive_full hfull
  have ht : t = _ := (deliverPost_live hlive l).trans ((if_pos hbar).trans ((barrierEvent_error herr p.team p.src p.bundle).trans
    (barrierFault_eq_modContext _ _ _ _ _)))
  rw [ht, modContext_sys, barOf_modContext _ _ _ _ (withBarrierFault_seq _ _), contextAt_modContext _ _ _ (withBarrierFault_part _ _)]
  exact ⟨rfl, rfl, _, rfl, rfl, rfl⟩

theorem postWaitsInTail {k : Core} (hk : Tab.look s.sched.saved (64 * p.team + p.dst) = some k) :
    let t := deliverPost (withPosts s l) p
    Tab.look t.sched.saved (64 * p.team + p.dst) = some { k with tail := k.tail ++ [p] } ∧ t.cores = s.cores := by
  intro t
  have hsaved : Tab.look (withPosts s l).sched.saved (64 * p.team + p.dst) = some k := hk
  have hkept : ¬ liveHere (withPosts s l) p.team p.dst = true := fun hlive => by
    rw [saved_of_live hlive] at hsaved
    cases hsaved
  have ht : t = modSched (withPosts s l) fun d =>
      { d with saved := Tab.put d.saved (64 * p.team + p.dst) { k with tail := k.tail ++ [p] } } := by
    change deliverPost (withPosts s l) p = _
    rw [deliverPost, if_neg hkept, modContext, hsaved]
  rw [ht]
  exact ⟨Tab.look_put_same _ _ _, rfl⟩

end

/-- Settles O31: a post to another core is a release that carries it; what performs the release keeps the posts and accesses on their way
(`underWay`), and the arrival takes the oldest post of its two cores. -/
theorem postsTravelInOrder : Obligations.PostsTravelInOrder := by
  unfold Obligations.PostsTravelInOrder
  refine ⟨fun s st k n c b tm hteam => ⟨fun hc hother p hp => ?_, fun hc hquiet i hi => ?_⟩, fun s c n seq p hfence hpend => ?_,
    fun s p before after hs hbefore => ?_⟩
  · rw [exec_remote hteam st k n c b p hp, if_neg (Nat.not_le.2 hc), sendPost_other hother]
    exact issueRelease_syncDone s st _
  · have hexec : exec i s = .next (illegalOperand s i) := by
      obtain ⟨p, hp, rfl⟩ := List.mem_map.1 (show i ∈ List.map Prod.fst
        [(Instr.kpost st k n c 0, false, k.toNat, n.toNat), (Instr.barr st b c 0, true, b.toNat, 1)] from hi)
      rw [exec_remote hteam st k n c b p hp, if_pos hc]
    obtain ⟨w, hw⟩ := encode_remote st k n c b i hi
    exact ⟨_, w, hw, hexec, illegalOperand_trapTaken hquiet hw⟩
  · have hexec : exec (.fence c) s = .next (fenceActs s s.me c.toNat) := congrArg _ (if_neg (by simp [hfence]))
    obtain ⟨hposts, hnone⟩ := Prod.mk.inj (underWay_fenceActs hpend c.toNat)
    exact ⟨_, hexec, hposts, hnone⟩
  · have hexec := exec_remotePostArrive hs hbefore
    refine ⟨fun hbar hlive => ⟨_, hexec, postArrives hbar hlive⟩, fun hbar hlive hopen => ⟨_, hexec, arrivalArrives hbar hlive hopen⟩,
      fun hbar hlive hfull => ?_, fun k hk => ⟨_, hexec, postWaitsInTail hk⟩⟩
    obtain ⟨hposts, hsame, d, hd⟩ := arrivalFaults (l := before ++ after) hbar hlive hfull
    exact ⟨_, d, hexec, hposts, hsame, hd⟩

end Sys2Proof.Proofs

/-! PROOFS. O45: a copy whose first line lands while its next one waits for a scratchpad whose clock stands (R206, R370). -/

namespace Sys2Proof.Proofs
open Sys2Proof Sys2Proof.Machine Sys2Proof.Claims

/-- The leaf entry of a HOME=01 page at an offset in the scratchpad windows (R237, R239). -/
def scratchLeaf (off : Nat) : Dword := BitVec.ofNat 64 (scratchBase + off + 2 + 4 + 64)

/-- A copy of 128 bytes whose first line lands in the page 0x4000, its second one in the page 0x5000. -/
def crossing : CopyJob :=
  { req := ⟨0, 0, 0, 0, 0, 0, none⟩, tmpl := 0, src := 0x4000, dsts := [0x4FC0], srcSwz := 0, dstSwz := 0, n := 128, off := 0, di := 0
    nob := true, bar := 0, post := none, saved := [], buf := [] }

/-- Core 0 makes the copy in channel 2, which has waited for one line: the page 0x4000 is in the scratchpad of cluster 0, the page 0x5000
in that of cluster 1, whose clock stands. -/
def crossingState : State :=
  { State.reset with
    cores := [(0, { Core.reset with mem := { MemPath.reset with chans := [(2, ⟨[], some crossing, false, 1⟩)] } })]
    sys := { MemSys.reset with
      scratch := [(1, 1)]
      tlb := [⟨128, 0, 0x4000, 4096, scratchLeaf 0⟩, ⟨128, 0, 0x5000, 4096, scratchLeaf 0x2000000⟩] }
    power := { State.reset.power with islands := [(1, .ret)] } }

/-- Where the source and the first piece of the destination are. -/
def sourcePlace : Xl := ⟨scratchBase, 1, false⟩
def piecePlace : Xl := ⟨scratchBase + 0xFC0, 1, false⟩

theorem crossing_translates :
    dieTranslate crossingState (dieOf 0) crossing.req.asid (readFrom crossing % 2 ^ 64) false = (crossingState, .ok sourcePlace) ∧
    dieTranslate crossingState (dieOf 0) crossing.req.asid (swizzle (pieceAt crossing) crossing.dstSwz.toNat) true =
      (crossingState, .ok piecePlace) := by decide +kernel

/-- After the landing the channel, which is not ready for its next line, still counts one line. -/
theorem crossing_still_waited :
    (match exec (.copyLineLand 0 2) crossingState with
      | .next t => (chanAt (coreAt t 0) 2).waited
      | _ => 0) = 1 := by decide +kernel

/-- Refutes O45: a landing sets the landed channel's count of waited lines to 0 only where the channel is ready for its next line.  In
`crossingState` the first line of the request lands and the next one waits for the standing scratchpad of cluster 1, so the channel keeps
its count of 1, where the statement has 0. -/
theorem not_copiesStartAndLand : ¬ Obligations.CopiesStartAndLand := by
  unfold Obligations.CopiesStartAndLand
  rintro ⟨-, -, -, -, hland⟩
  have hsingle : Single sourcePlace ∧ Single piecePlace := by unfold Single; decide +kernel
  have hturn : TurnFree crossingState 0 := by unfold TurnFree; decide +kernel
  have hclear : ∀ i, i < pieceSize crossing →
      inLine piecePlace (pieceAt crossing) crossing.dstSwz i / 16 ∉ sourcePlaces crossingState 0 crossing := by decide +kernel
  have hruns : lineStands crossingState 0 crossing = false := by decide +kernel
  have hsize : pieceSize crossing = 64 := by decide +kernel
  have hread : readFrom crossing = 0x4000 := rfl
  obtain ⟨-, -, hlands⟩ := hland crossingState 0 2 1 crossing [] sourcePlace sourcePlace piecePlace (by decide +kernel)
    (by decide) (by decide) (by decide) (by decide +kernel) (by decide) (by decide) rfl rfl (by decide)
    (fun _ => ⟨crossing_translates.1, hsingle.1⟩) (fun h => absurd h (by rw [hsize, hread]; decide))
    crossing_translates.2 hsingle.2 hclear
  obtain ⟨u, hexec, -, -, -, -, -, -, -, hgoes, -⟩ := hlands hturn hruns
  obtain ⟨b, hchan, -⟩ := hgoes (by decide +kernel)
  have hwaited := crossing_still_waited
  rw [hexec] at hwaited
  simp only [hchan] at hwaited
  exact absurd hwaited (by decide)

end Sys2Proof.Proofs

/-! PROOFS. O48: what the write-out of a core leaves alone, the saving and the restoring of a core, the beginning of a pre-emption, the
swap of two partitions (R228 to R230, R233, R307 to R309). -/

namespace Sys2Proof.Proofs
open Sys2Proof Sys2Proof.Machine Sys2Proof.Claims

/-! ### Tables -/

theorem erase_insert {β : Type} (k : Nat) (v : β) (t : Tab β) : Tab.erase k (Tab.insert k v t) = Tab.erase k t := by
  induction t with
  | nil => simp [Tab.insert, Tab.erase]
  | cons p t ih =>
    obtain ⟨j, w⟩ := p
    rw [Tab.insert]
    split
    · simp [Tab.erase]
    · simp only [Tab.erase, ih]

theorem erase_erase {β : Type} (k : Nat) (t : Tab β) : Tab.erase k (Tab.erase k t) = Tab.erase k t := by
  induction t with
  | nil => rfl
  | cons p t ih =>
    obtain ⟨j, w⟩ := p
    by_cases h : j = k
    · simpa [Tab.erase, h] using ih
    · simpa [Tab.erase, h] using ih

/-- A write of one entry leaves the others as they stand in the table. -/
theorem erase_set {β : Type} [DecidableEq β] (d : β) (k : Nat) (t : Tab β) (v : β) : Tab.erase k (Tab.set d t k v) = Tab.erase k t := by
  unfold Tab.set
  split
  · exact erase_erase k t
  · rw [erase_insert, erase_erase]

/-! ### Reads and writes of the agents outside the cores change the memory system alone -/

theorem deliverPosted_sysOnly (s : State) : SysOnly s (deliverPosted s) := ⟨rfl, deliverPosted_memory_wf s⟩

theorem singleRead_sysOnly (s : State) (x : Xl) (n : Nat) : SysOnly s (singleRead s x n).1 := by
  unfold singleRead
  split
  · exact .refl s
  · split
    · exact .refl s
    · dsimp only
      split
      · exact deliverPosted_sysOnly s
      · split
        · exact touchPinned_sysOnly (.refl s) _
        · exact .refl s

theorem deviceWrite_sysOnly (s : State) (x : Xl) (bs : List Byte) : SysOnly s (deviceWrite s x bs) := by
  have htouch : SysOnly s (if x.home = 2 then touchPinned s (x.pa / 128) else s) := by
    split
    · exact touchPinned_sysOnly (.refl s) _
    · exact .refl s
  unfold deviceWrite
  split
  · split
    · exact .refl s
    · split
      · exact modSys_sysOnly (.refl s) _ id
      · exact modSys_sysOnly htouch _ (Memory.wf_memWrite _ _ _)
  · exact sliceWrite_sysOnly (.refl s) _ _ _ _

theorem deviceRead_sysOnly (s : State) (x : Xl) (n : Nat) : SysOnly s (deviceRead s x n).1 := by
  unfold deviceRead
  split
  · exact singleRead_sysOnly s x n
  · exact sliceRead_sysOnly (.refl s) _ _

theorem agentRead_sysOnly (s : State) (x : Xl) (n : Nat) : SysOnly s (agentRead s x n).1 := by
  unfold agentRead
  split
  · exact singleRead_sysOnly s x n
  · dsimp only
    split
    · exact .refl s
    · exact dieRead_sysOnly (.refl s) _ _ _

theorem agentWrite_sysOnly (s : State) (x : Xl) (bs : List Byte) : SysOnly s (agentWrite s x bs) := by
  unfold agentWrite
  split
  · exact deviceWrite_sysOnly s x bs
  · dsimp only
    split
    · exact homeMerge_sysOnly (.refl s) _ _ _
    · exact dieWrite_sysOnly (.refl s) _ _ _ _ _

theorem pavTranslate_sysOnly (s : State) (asid va : Nat) (write : Bool) : SysOnly s (pavTranslate s asid va write).1 :=
  dieTranslate_sysOnly (.refl s) _ _ _ _

/-! ### What the write-out of a core leaves alone (R228) -/

/-- The other cores as they stand in the table, the core's own array, and the scheduler. -/
def beside (c : Nat) (s : State) : Tab Core × Arr × Sched := (Tab.erase c s.cores, (coreAt s c).arr, s.sched)

theorem beside_of_sysOnly (c : Nat) {s u : State} (h : SysOnly s u) : beside c u = beside c s := by
  obtain ⟨heq, -⟩ := h
  exact (congrArg (beside c) heq :)

theorem beside_foldl {α : Type} {c : Nat} {f : State → α → State} (h : ∀ s a, beside c (f s a) = beside c s) (l : List α) (s : State) :
    beside c (l.foldl f s) = beside c s := by
  induction l generalizing s with
  | nil => rfl
  | cons a l ih => rw [List.foldl_cons, ih, h]

theorem beside_modCore (c : Nat) (s : State) {f : Core → Core} (hf : ∀ k, (f k).arr = k.arr) : beside c (modCore s c f) = beside c s := by
  rw [beside, coreAt_modCore_same, hf]
  exact congrArg (fun t => (t, (coreAt s c).arr, s.sched)) (erase_set Core.reset c s.cores _)

section
variable (c : Nat) (s : State)

@[simp] theorem beside_modMem (f : MemPath → MemPath) : beside c (modMem s c f) = beside c s := beside_modCore c s fun _ => rfl
@[simp] theorem beside_modSeq (f : Seq → Seq) : beside c (modSeq s c f) = beside c s := beside_modCore c s fun _ => rfl
@[simp] theorem beside_writeG (d : BitVec 5) (v : Dword) : beside c (writeG s c d v) = beside c s := beside_modSeq c s _
@[simp] theorem beside_modSys (f : MemSys → MemSys) : beside c (modSys s f) = beside c s := rfl
@[simp] theorem beside_modPav (f : Pav → Pav) : beside c (modPav s f) = beside c s := rfl
@[simp] theorem beside_modOra (f : Orangery → Orangery) : beside c (modOra s f) = beside c s := rfl

/-! The caches below the core. -/

@[simp] theorem beside_settle : beside c (settle s) = beside c s := beside_of_sysOnly c (settle_sysOnly (.refl s))
@[simp] theorem beside_sendMsg (m : DirMsg) : beside c (sendMsg s m) = beside c s := rfl
@[simp] theorem beside_homeWrite (line : Nat) (d : LineData) (m : LineMask) : beside c (homeWrite s line d m) = beside c s :=
  beside_of_sysOnly c (homeWrite_sysOnly (.refl s) _ _ _)
@[simp] theorem beside_touchPinned (line : Nat) : beside c (touchPinned s line) = beside c s :=
  beside_of_sysOnly c (touchPinned_sysOnly (.refl s) _)
@[simp] theorem beside_sliceRead (line : Nat) (nc : Bool) : beside c (sliceRead s line nc).1 = beside c s :=
  beside_of_sysOnly c (sliceRead_sysOnly (.refl s) _ _)
@[simp] theorem beside_sliceWrite (line : Nat) (d : LineData) (m : LineMask) (nc : Bool) : beside c (sliceWrite s line d m nc) = beside c s :=
  beside_of_sysOnly c (sliceWrite_sysOnly (.refl s) _ _ _ _)
@[simp] theorem beside_dieRead (die line : Nat) (nc : Bool) : beside c (dieRead s die line nc).1 = beside c s :=
  beside_of_sysOnly c (dieRead_sysOnly (.refl s) _ _ _)
@[simp] theorem beside_dieWrite (die line : Nat) (d : LineData) (m : LineMask) (nc : Bool) :
    beside c (dieWrite s die line d m nc) = beside c s := beside_of_sysOnly c (dieWrite_sysOnly (.refl s) _ _ _ _ _)
@[simp] theorem beside_l2Put (agent : Nat) (x : L2Line) : beside c (l2Put s agent x) = beside c s :=
  beside_of_sysOnly c (l2Put_sysOnly (.refl s) _ _)
@[simp] theorem beside_ncWriteBack (die : Nat) : beside c (ncWriteBack s die) = beside c s :=
  beside_of_sysOnly c (ncWriteBack_sysOnly (.refl s) _)
@[simp] theorem beside_ncDrop (die : Nat) : beside c (ncDrop s die) = beside c s := rfl
@[simp] theorem beside_ncFlush (die line : Nat) : beside c (ncFlush s die line) = beside c s :=
  beside_of_sysOnly c (ncFlush_sysOnly (.refl s) _ _)
@[simp] theorem beside_setWays (g : Nat) (xs : List CLine) : beside c (setWays s g xs) = beside c s := rfl
@[simp] theorem beside_wayRead (g line : Nat) (nc : Bool) : beside c (wayRead s g line nc).1 = beside c s :=
  beside_of_sysOnly c (wayRead_sysOnly (.refl s) _ _ _)
@[simp] theorem beside_wayWrite (g line : Nat) (d : LineData) (m : LineMask) (nc : Bool) : beside c (wayWrite s g line d m nc) = beside c s :=
  beside_of_sysOnly c (wayWrite_sysOnly (.refl s) _ _ _ _ _)
@[simp] theorem beside_cleanWay (g : Nat) (toHome : Bool) (x : CLine) : beside c (cleanWay s g toHome x) = beside c s :=
  beside_of_sysOnly c (cleanWay_sysOnly (.refl s) _ _ _)
@[simp] theorem beside_cleanWays (g : Nat) (toHome : Bool) : beside c (cleanWays s g toHome) = beside c s :=
  beside_of_sysOnly c (cleanWays_sysOnly (.refl s) _ _)
@[simp] theorem beside_dropCleanWays (g : Nat) : beside c (dropCleanWays s g) = beside c s := rfl

/-! Single copies and doorbells. -/

@[simp] theorem beside_deliverPosted : beside c (deliverPosted s) = beside c s := rfl

@[simp] theorem beside_singleRead (x : Xl) (n : Nat) : beside c (singleRead s x n).1 = beside c s :=
  beside_of_sysOnly c (singleRead_sysOnly s x n)

@[simp] theorem beside_doorbell (q w : Nat) : beside c (doorbell s q w) = beside c s := by
  unfold doorbell; dsimp only; split
  · rfl
  · split
    · rfl
    · unfold postEvent; split <;> rfl

@[simp] theorem beside_ringBell (q w : Nat) : beside c (ringBell s q w) = beside c s := by
  unfold ringBell; split <;> simp

@[simp] theorem beside_singleWrite (pa : Nat) (d : Dword) (m : Byte) (home : BitVec 2) :
    beside c (singleWrite s pa d m home) = beside c s := by
  have htouch : beside c (if home = 2 then touchPinned s (pa / 128) else s) = beside c s := by split <;> simp
  unfold singleWrite; split
  · split <;> simp
  · split
    · rfl
    · split
      · rfl
      · exact htouch

/-! The core's L1 and store buffer. -/

@[simp] theorem beside_setL1 (l : List CLine) : beside c (setL1 s c l) = beside c s := beside_modMem c s _

@[simp] theorem beside_evictL1 (line : Nat) : beside c (evictL1 s c line) = beside c s := by
  unfold evictL1; split <;> simp

@[simp] theorem beside_putL1 (x : CLine) : beside c (putL1 s c x) = beside c s := by
  simp only [putL1]; split <;> simp

@[simp] theorem beside_l1Read (line : Nat) (nc : Bool) : beside c (l1Read s c line nc).1 = beside c s := by
  unfold l1Read; split
  · split <;> simp
  · simp

@[simp] theorem beside_l1Write (line : Nat) (v : LineData) (m : LineMask) (nc : Bool) :
    beside c (l1Write s c line v m nc) = beside c s := by simp [l1Write]

@[simp] theorem beside_cleanL1 (x : CLine) : beside c (cleanL1 s c x) = beside c s := by
  unfold cleanL1; split <;> simp

@[simp] theorem beside_cleanL1All : beside c (cleanL1All s c) = beside c s := beside_foldl (fun s x => beside_cleanL1 c s x) _ s
@[simp] theorem beside_dropCleanL1 : beside c (dropCleanL1 s c) = beside c s := beside_setL1 c s _

@[simp] theorem beside_cleanL1Line (line : Nat) : beside c (cleanL1Line s c line) = beside c s := by
  unfold cleanL1Line; split <;> simp

@[simp] theorem beside_cleanWayLine (g : Nat) (toHome : Bool) (line : Nat) : beside c (cleanWayLine s g toHome line) = beside c s := by
  unfold cleanWayLine; split <;> simp

@[simp] theorem beside_landStore (e : StoreEnt) : beside c (landStore s c e) = beside c s := by
  unfold landStore; split <;> simp

@[simp] theorem beside_drainSb : beside c (drainSb s c) = beside c s :=
  (beside_foldl (fun s e => beside_landStore c s e) _ _).trans (beside_modMem c s _)
@[simp] theorem beside_drainSome (f : StoreEnt → Bool) : beside c (drainSome s c f) = beside c s :=
  (beside_foldl (fun s e => beside_landStore c s e) _ _).trans (beside_modMem c s _)
@[simp] theorem beside_drainSbLine (line : Nat) : beside c (drainSbLine s c line) = beside c s := beside_drainSome c s _

/-! Releases, acquires and atomics. -/

@[simp] theorem beside_writeBacks (sc : Nat) : beside c (writeBacks s c sc) = beside c s := by
  unfold writeBacks; dsimp only; split
  · simp
  · split
    · simp
    · split <;> simp

@[simp] theorem beside_releaseActs (sc : Nat) : beside c (releaseActs s c sc) = beside c s := by simp [releaseActs]

@[simp] theorem beside_releaseIf (sc seq : Nat) : beside c (releaseIf s c sc seq) = beside c s := by
  unfold releaseIf; split
  · rfl
  · simp [releaseOlder]

@[simp] theorem beside_acquireActs (sc : Nat) : beside c (acquireActs s c sc) = beside c s := by
  unfold acquireActs; dsimp only; split
  · simp
  · split <;> simp

@[simp] theorem beside_acquireIf (sc : Nat) : beside c (acquireIf s c sc) = beside c s := by
  unfold acquireIf; split <;> simp

@[simp] theorem beside_writeOwnLine (line : Nat) : beside c (writeOwnLine s c line) = beside c s := by simp [writeOwnLine]

@[simp] theorem beside_claimLine (x : Xl) : beside c (claimLine s x) = beside c s := by
  unfold claimLine; split
  · simp
  · split <;> simp

@[simp] theorem beside_atomicDraw (pa fn : Nat) (sr : Bool) : beside c (atomicDraw s pa fn sr).1 = beside c s := by
  unfold atomicDraw; split <;> rfl

@[simp] theorem beside_atomicAt (x : Xl) (fn n v e : Nat) (sr : Bool) : beside c (atomicAt s x fn n v e sr).1 = beside c s := by
  simp only [atomicAt]; split <;> simp

/-! Accesses are performed. -/

@[simp] theorem beside_deviceLine (die line : Nat) (nc : Bool) : beside c (deviceLine s die line nc).1 = beside c s := by
  unfold deviceLine; split
  · rfl
  · split <;> simp

@[simp] theorem beside_scopedRead (line sc : Nat) (nc : Bool) : beside c (scopedRead s c line sc nc).1 = beside c s := by
  unfold scopedRead; split
  · simp
  · split <;> simp

@[simp] theorem beside_loadBytes (x : Xl) (n sc seq : Nat) : beside c (loadBytes s c x n sc seq).1 = beside c s := by
  have hdrain : beside c (if sc = 0 then s else drainSbLine s c (x.pa / 128)) = beside c s := by split <;> simp
  simp only [loadBytes]; split
  · simp [hdrain]
  · split <;> simp

@[simp] theorem beside_patchL1 (line : Nat) (d : LineData) (m : LineMask) : beside c (patchL1 s c line d m) = beside c s := beside_setL1 c s _
@[simp] theorem beside_patchWays (g line : Nat) (d : LineData) (m : LineMask) : beside c (patchWays s g line d m) = beside c s := rfl
@[simp] theorem beside_patchL2 (die line : Nat) (d : LineData) (m : LineMask) : beside c (patchL2 s die line d m) = beside c s := by
  unfold patchL2; split <;> simp

@[simp] theorem beside_scopedWrite (line sc : Nat) (d : LineData) (m : LineMask) (nc : Bool) :
    beside c (scopedWrite s c line sc d m nc) = beside c s := by
  simp only [scopedWrite]; split
  · simp
  · split
    · simp
    · split <;> simp

@[simp] theorem beside_storeScoped (w : PendStore) : beside c (storeScoped s c w) = beside c s := by
  simp only [storeScoped]; split <;> simp

theorem beside_performAcc (p : PendAcc) : beside c (performAcc s c p) = beside c s := by
  cases p with
  | load l => simp [performAcc]
  | amo a => simp [performAcc, apply_ite (beside c)]
  | store w => simp [performAcc]
  | release r => simp only [performAcc]; split <;> simp

theorem beside_performAll (l : List PendAcc) : beside c (performAll s c l) = beside c s := by
  induction l generalizing s with
  | nil => rfl
  | cons p t ih => rw [performAll, ih, beside_performAcc, beside_modMem]

@[simp] theorem beside_quiesce : beside c (quiesce s c) = beside c s := beside_performAll c s _
@[simp] theorem beside_release (sc : Nat) : beside c (release s c sc) = beside c s := by simp [release]
@[simp] theorem beside_acquire (sc : Nat) : beside c (acquire s c sc) = beside c s := by
  unfold acquire; split <;> simp

end

/-! ### The Orangery serves a core's requests (R325 to R343) -/

theorem beside_thenWrite {c : Nat} {s : State} {r : State × Bool} {f : State → State × Bool} (hr : beside c r.1 = beside c s)
    (hf : ∀ u, beside c (f u).1 = beside c u) : beside c (thenWrite r f).1 = beside c s := by
  unfold thenWrite; split
  · exact (hf _).trans hr
  · exact hr

theorem beside_of_eq {α : Type} {c : Nat} {s u : State} {r : State × α} {a : α} (h : r = (u, a)) (hr : beside c r.1 = beside c s) :
    beside c u = beside c s := by
  rw [← hr, h]

section
variable (c : Nat) (s : State)

/-! Counters and tables. -/

@[simp] theorem beside_countLq (q i : Nat) : beside c (countLq s q i) = beside c s := rfl
@[simp] theorem beside_countOra (i : Nat) : beside c (countOra s i) = beside c s := rfl
@[simp] theorem beside_setEpisode (e : Episode) : beside c (setEpisode s e) = beside c s := rfl
@[simp] theorem beside_freeEpisode (e : Episode) : beside c (freeEpisode s e) = beside c s := rfl
@[simp] theorem beside_forgetNotes (asid va n : Nat) : beside c (forgetNotes s asid va n) = beside c s := rfl

@[simp] theorem beside_startScan : beside c (startScan s) = beside c s := by
  unfold startScan; split
  · rfl
  · split
    · rfl
    · split <;> rfl

@[simp] theorem beside_dropBadMap (e : Episode) : beside c (dropBadMap s e) = beside c s := by simp [dropBadMap]
@[simp] theorem beside_toScan (e : Episode) : beside c (toScan s e) = beside c s := by simp [toScan]

/-! The Orangery's reads and writes of memory. -/

@[simp] theorem beside_oraRead (asid va n : Nat) : beside c (oraRead s asid va n).1 = beside c s := by
  have htrans := beside_of_sysOnly c (pavTranslate_sysOnly s asid (va % 2 ^ 64) false)
  unfold oraRead; split <;> rename_i heq <;> rw [heq] at htrans
  · exact htrans
  · exact (beside_of_sysOnly c (agentRead_sysOnly _ _ n)).trans htrans

@[simp] theorem beside_oraPut (asid va : Nat) (bs : List Byte) : beside c (oraPut s asid va bs).1 = beside c s := by
  have htrans := beside_of_sysOnly c (pavTranslate_sysOnly s asid (va % 2 ^ 64) true)
  unfold oraPut; split
  · rfl
  · split <;> rename_i heq <;> rw [heq] at htrans
    · exact htrans
    · exact (beside_of_sysOnly c (agentWrite_sysOnly _ _ bs)).trans htrans

@[simp] theorem beside_oraWrite (asid va n v : Nat) : beside c (oraWrite s asid va n v).1 = beside c s := beside_oraPut c s _ _ _

@[simp] theorem beside_recWrite (asid va n v : Nat) : beside c (recWrite s asid va n v).1 = beside c s := by
  unfold recWrite
  extract_lets m
  have hput := beside_oraPut c s asid va m.1
  split <;> rename_i heq <;> have hu := beside_of_eq heq hput <;> exact hu

@[simp] theorem beside_noteRecord (asid n va : Nat) : beside c (noteRecord asid n va s) = beside c s := by
  induction n generalizing va s with
  | zero => rfl
  | succ n ih =>
    unfold noteRecord
    refine (ih _ _).trans ?_
    split
    · exact beside_modOra c s _
    · rfl

@[simp] theorem beside_markBit (e : Episode) (n : Nat) : beside c (markBit s e n).1 = beside c s := by
  have hread := beside_oraRead c s e.asid (markAddr e n) 1
  unfold markBit; split <;> rename_i heq <;> rw [heq] at hread <;> exact hread

@[simp] theorem beside_setMark (e : Episode) (step : Nat) (done : Bool) : beside c (setMark s e step done).1 = beside c s := by
  have hread := beside_oraRead c s e.asid (markAddr e (2 * step)) 1
  unfold setMark; split <;> rename_i heq <;> rw [heq] at hread
  · exact hread
  · exact (beside_recWrite c _ _ _ _ _).trans hread

/-! Rewards. -/

@[simp] theorem beside_rewardEpisode (e : Episode) (step : Nat) (done : Bool) (value : Word) :
    beside c (rewardEpisode s e step done value) = beside c s := by
  unfold rewardEpisode
  have hmark := beside_markBit c s e (2 * step)
  split
  · rfl
  · split <;> rename_i u heq <;> rw [heq] at hmark
    · exact (beside_dropBadMap c u e).trans hmark
    · exact hmark
    · have hwrite : beside c (thenWrite (recWrite u e.asid (e.addr + 64 + 16 * step) 4 value.toNat) fun s => setMark s e step done).1 = beside c s :=
        beside_thenWrite ((beside_recWrite c u _ _ _ _).trans hmark) fun v => beside_setMark c v e step done
      split
      · exact hmark
      · split <;> rename_i hw <;> rw [hw] at hwrite
        · exact (beside_dropBadMap c _ e).trans hwrite
        · dsimp only; split
          · exact (beside_toScan c _ _).trans hwrite
          · exact hwrite

@[simp] theorem beside_rewardMessage (part : Nat) (traj : Dword) (step : Half) (done : Bool) (value : Word) :
    beside c (rewardMessage s part traj step done value) = beside c s := by
  unfold rewardMessage; split
  · simp
  · split
    · rfl
    · split <;> rfl

theorem beside_joinOrphans (part : Nat) (traj : Dword) (l : List Orphan) : beside c (joinOrphans s part traj l) = beside c s := by
  induction l generalizing s with
  | nil => rfl
  | cons o t ih =>
    rw [joinOrphans, ih]
    split <;> simp

/-! Registrations, pops and control writes. -/

theorem beside_clearMarks (asid n va : Nat) : beside c (clearMarks asid va n s).1 = beside c s := by
  induction n generalizing va s with
  | zero => rfl
  | succ n ih => exact beside_thenWrite (beside_oraWrite c s _ _ _ _) fun u => ih u _

theorem beside_clearRecord (e : Episode) : beside c (clearRecord s e).1 = beside c s :=
  beside_thenWrite (beside_thenWrite (beside_oraWrite c s _ _ _ _) fun u => beside_oraWrite c u _ _ _ _) fun u => beside_clearMarks c u _ _ _

@[simp] theorem beside_register (part asid addr : Nat) : beside c (register s part asid addr).1 = beside c s := by
  have hread := beside_oraRead c s asid addr 64
  unfold register; split <;> rename_i heq <;> rw [heq] at hread
  · exact hread
  · dsimp only; split
    · exact hread
    · split
      · exact hread
      · split
        · exact hread
        · split <;> rename_i hclear <;> have hrec := beside_of_eq hclear (beside_clearRecord c _ _)
          · exact (beside_dropBadMap c _ _).trans (hrec.trans hread)
          · rw [beside_joinOrphans, beside_modOra, beside_noteRecord, beside_forgetNotes]
            exact hrec.trans hread

@[simp] theorem beside_popEntry (q : Nat) (stale : Bool) : beside c (popEntry s q stale).1 = beside c s := by
  unfold popEntry; dsimp only; split
  · rfl
  · split <;> rename_i heq <;> have hu := beside_of_eq heq (beside_oraRead c s _ _ _) <;> exact hu

@[simp] theorem beside_applyControl (field q : Nat) (v : Dword) (asid : Nat) : beside c (applyControl s field q v asid) = beside c s := by
  unfold applyControl; dsimp only; split <;> rfl

@[simp] theorem beside_popRequest : beside c (popRequest s c) = beside c s := beside_modCore c (noteServed s) fun _ => rfl
@[simp] theorem beside_answerCore (d : Nat) (v : Dword) : beside c (answerCore s c d v) = beside c s := beside_modSeq c s _

/-! Expiries. -/

theorem beside_zeroFill (e : Episode) (l : List Nat) : beside c (zeroFill s e l).1 = beside c s := by
  induction l generalizing s with
  | nil => rfl
  | cons t ts ih =>
    have hmark := beside_markBit c s e (2 * t)
    unfold zeroFill; split <;> rename_i u heq <;> rw [heq] at hmark
    · exact hmark
    · exact (ih u).trans hmark
    · exact beside_thenWrite ((beside_recWrite c u _ _ _ _).trans hmark) ih

@[simp] theorem beside_deadlineExpiry : beside c (nextOf s (execDeadlineExpiry s)) = beside c s := by
  unfold execDeadlineExpiry; split
  · rfl
  · rename_i e _
    have hfill := beside_zeroFill c s e (List.range e.steps)
    split
    · rfl
    · split <;> rename_i heq <;> rw [heq] at hfill
      · exact (beside_dropBadMap c _ e).trans hfill
      · exact (beside_toScan c _ _).trans hfill

@[simp] theorem beside_orphanExpiry : beside c (nextOf s (execOrphanExpiry s)) = beside c s := by
  unfold execOrphanExpiry; split <;> rfl

theorem beside_settleExpiries (n : Nat) : beside c (settleExpiries n s) = beside c s := by
  induction n generalizing s with
  | zero => rfl
  | succ n ih =>
    unfold settleExpiries; split
    · rfl
    · rename_i u heq
      have honce : beside c u = beside c s := by
        unfold expireOnce at heq
        split at heq
        · cases heq
        · split at heq
          · cases heq
            exact beside_deadlineExpiry c s
          · split at heq <;> cases heq
            exact beside_orphanExpiry c s
      exact (ih u).trans honce

@[simp] theorem beside_expire : beside c (expire s) = beside c s := beside_settleExpiries c s _

/-! The requests of a core. -/

@[simp] theorem beside_registrationServe : beside c (nextOf s (execRegistrationServe c s)) = beside c s := by
  unfold execRegistrationServe; split
  · split
    · simp only [nextOf]; split <;> simp
    · rfl
  · rfl

@[simp] theorem beside_popServe : beside c (nextOf s (execPopServe c s)) = beside c s := by
  unfold execPopServe; split
  · split
    · simp [nextOf]
    · split
      · simp [nextOf, apply_ite (beside c)]
      · rfl
  · rfl

@[simp] theorem beside_controlServe : beside c (nextOf s (execControlServe c s)) = beside c s := by
  unfold execControlServe; split <;> simp [nextOf]

@[simp] theorem beside_servePost : beside c (servePost s c) = beside c s := by
  unfold servePost; split <;> simp

theorem beside_serveOldest : beside c (serveOldest s c) = beside c s := by
  simp only [serveOldest]; split
  · simp
  · split
    · simp
    · split
      · simp
      · split <;> simp

/-- R228: what a core writes out leaves the other cores, its own array and the scheduler as they were. -/
theorem beside_writeOut : beside c (writeOut s c) = beside c s := by
  rw [writeOut, beside_setL1, beside_release, serveAllRequests]
  exact beside_foldl (fun s _ => beside_serveOldest c s) _ s

end

/-! ### What follows for a core that has been written out -/

theorem mem_of_mem_erase {β : Type} {k : Nat} {p : Nat × β} {t : Tab β} (h : p ∈ Tab.erase k t) : p ∈ t := by
  induction t with
  | nil => exact h
  | cons q t ih =>
    obtain ⟨j, w⟩ := q
    rw [Tab.erase] at h
    split at h
    · exact List.mem_cons_of_mem _ (ih h)
    · rcases List.mem_cons.1 h with rfl | h
      · exact List.mem_cons_self
      · exact List.mem_cons_of_mem _ (ih h)

theorem mem_erase_of_mem {β : Type} {k : Nat} {p : Nat × β} {t : Tab β} (h : p ∈ t) (hk : p.1 ≠ k) : p ∈ Tab.erase k t := by
  induction t with
  | nil => exact h
  | cons q t ih =>
    obtain ⟨j, w⟩ := q
    rw [Tab.erase]
    rcases List.mem_cons.1 h with rfl | h
    · rw [if_neg hk]
      exact List.mem_cons_self
    · split
      · exact ih h
      · exact List.mem_cons_of_mem _ (ih h)

section
variable {c : Nat} {s u : State}

theorem erase_of_beside (h : beside c u = beside c s) : Tab.erase c u.cores = Tab.erase c s.cores := congrArg (fun x => x.1) h

theorem coreAt_of_beside (h : beside c u = beside c s) {d : Nat} (hd : d ≠ c) : coreAt u d = coreAt s d := by
  rw [coreAt, ← Tab.get_erase_other Core.reset c d u.cores hd, erase_of_beside h, Tab.get_erase_other Core.reset c d s.cores hd, coreAt]

theorem arr_of_beside (h : beside c u = beside c s) : (coreAt u c).arr = (coreAt s c).arr := congrArg (fun x => x.2.1) h
theorem sched_of_beside (h : beside c u = beside c s) : u.sched = s.sched := congrArg (fun x => x.2.2) h

end

/-! ### A core is saved (R228, R309) -/

theorem get_of_not_mem {β : Type} (d : β) {t : Tab β} {k : Nat} (h : k ∉ t.map (·.1)) : Tab.get d t k = d := by
  induction t with
  | nil => rfl
  | cons p t ih =>
    obtain ⟨j, v⟩ := p
    rw [List.map_cons, List.mem_cons, not_or] at h
    rw [Tab.get, if_neg (Ne.symm h.1), ih h.2]

/-- The cells of a context without their program areas. -/
def unspilled (cells : Tab CellSt) : Tab CellSt :=
  (cells.map fun p => (p.1, { p.2 with store := [] })).filter fun p => p.2 != CellSt.reset p.1

theorem get_unspilled {cells : Tab CellSt} (h : (cells.map (·.1)).Nodup) (key : Nat) :
    Tab.get (CellSt.reset key) (unspilled cells) key = { Tab.get (CellSt.reset key) cells key with store := [] } := by
  induction cells with
  | nil => rfl
  | cons p cells ih =>
    obtain ⟨i, x⟩ := p
    rw [List.map_cons, List.nodup_cons] at h
    obtain ⟨hi, hrest⟩ := h
    have ih := ih hrest
    by_cases hx : { x with store := [] } = CellSt.reset i
    · have hdrop : unspilled ((i, x) :: cells) = unspilled cells := by simp [unspilled, hx]
      rw [hdrop, ih]
      by_cases hk : i = key
      · subst hk
        rw [get_of_not_mem _ hi, Tab.get, if_pos rfl, hx]
        rfl
      · rw [Tab.get, if_neg hk]
    · have hkeep : unspilled ((i, x) :: cells) = (i, { x with store := [] }) :: unspilled cells := by simp [unspilled, hx]
      rw [hkeep, Tab.get, Tab.get]
      split
      · rfl
      · exact ih

theorem cells_savedImage (spill : Bool) (k : Core) : (savedImage spill k).arr.cells = if spill then k.arr.cells else unspilled k.arr.cells := rfl

theorem savedImage_sameContext (spill : Bool) (k : Core) : SameContext (savedImage spill k) k := ⟨rfl, rfl, rfl, rfl, rfl, rfl, rfl⟩

/-- Spilled or not, a context holds of each cell all but its program area. -/
theorem cellAt_savedImage (spill : Bool) {k : Core} (h : (k.arr.cells.map (·.1)).Nodup) (key : Nat) :
    { cellAt (savedImage spill k).arr key with store := [] } = { cellAt k.arr key with store := [] } := by
  rw [cellAt, cells_savedImage]
  split
  · rfl
  · rw [get_unspilled h]
    rfl

section
variable (s : State) (t : Nat) (spill : Bool) (c : Nat)

theorem look_saveOne : Tab.look (saveOne s t spill c).sched.saved (64 * t + c) = some (savedImage spill (coreAt (writeOut s c) c)) := by
  unfold saveOne
  generalize writeOut s c = u
  exact Tab.look_put_same _ _ _

theorem coreAt_saveOne : coreAt (saveOne s t spill c) c = vacated (coreAt (writeOut s c) c) := coreAt_setCore_same _ _ _

theorem saveOne_sys : (saveOne s t spill c).sys = (writeOut s c).sys := by
  unfold saveOne
  generalize writeOut s c = u
  rfl

end

theorem isFollower_eq_false {k : Core} (h : ∀ m, k.run ≠ .follower m) : isFollower k = false := by
  unfold isFollower
  split
  · exact absurd ‹_› (h _)
  · rfl

theorem atBoundary_of_ready {k : Core} (h : k.run = .running → k.seq.readyAt ≤ k.seq.cyc) : atBoundary k = true := by
  by_cases hrun : k.run = .running
  · simp [atBoundary, h hrun]
  · simp [atBoundary, hrun]

/-- No trap is taken at a boundary where none is pending, or a handler runs. -/
theorem boundaryTrap_of_nothing {s : State} {c : Nat}
    (h : (coreAt s c).run ≠ .running ∨ (coreAt s c).soft = none ∧ ((coreAt s c).ctl.inh = true ∨ boundaryFaults s c = [])) :
    boundaryTrap s c = none := by
  rcases h with hrun | ⟨hsoft, hinh | hf⟩
  · exact boundaryTrap_of_not_running hrun
  · simp [boundaryTrap, hsoft, hinh]
  · simp [boundaryTrap, hsoft, hf, firstFault]

theorem fencesAct_of_none {s : State} {c : Nat} (h : (coreAt s c).fences = []) : fencesAct s c = s := by rw [fencesAct, h]; rfl

/-- The frozen core c of an unchained one. -/
theorem coreAt_freeze_unchained {s : State} {c : Nat} (h : (coreAt s c).chain = []) : coreAt (freeze s c) c = frozenCore (coreAt s c) := by
  rw [coreAt_freeze, positions_unchained h, if_pos (List.mem_singleton_self c)]

/-- The array of a core that has been frozen and written out. -/
theorem arr_writeOut_freeze {s : State} {c : Nat} (h : (coreAt s c).chain = []) :
    (coreAt (writeOut (freeze s c) c) c).arr = { (coreAt s c).arr with frozen := true } := by
  rw [arr_of_beside (beside_writeOut c (freeze s c)), coreAt_freeze_unchained h]
  rfl

/-- The context j in which a core of array a, written out to the core k, is saved. -/
theorem savedImage_holds (spill : Bool) {k : Core} {a : Arr} (h : k.arr = { a with frozen := true }) :
    SameContext (savedImage spill k) k ∧ (savedImage spill k).arr.frozen = true ∧ (savedImage spill k).arr.waves = a.waves ∧
      (savedImage spill k).arr.win = a.win ∧ (spill = true → (savedImage spill k).arr.cells = a.cells) ∧
      ((a.cells.map (·.1)).Nodup → ∀ key, { cellAt (savedImage spill k).arr key with store := [] } = { cellAt a key with store := [] }) := by
  have hcells : k.arr.cells = a.cells := by rw [h]
  refine ⟨savedImage_sameContext spill k, (congrArg Arr.frozen h :), (congrArg Arr.waves h :), (congrArg Arr.win h :), fun hs => ?_,
    fun hnd key => ?_⟩
  · rw [cells_savedImage, if_pos hs, hcells]
  · rw [cellAt_savedImage spill (by rwa [hcells]) key, cellAt, hcells]
    rfl

section
variable {s : State} {c t : Nat} {x : Team} (hb : bindingOf s c = some (t, x)) (hx : x.state = .yielding)
  (hlive : liveHere s t c = true) (hsave : (coreAt s c).yield_ = .save) (hdone : teamDone s t = false)
  (hfol : ∀ m, (coreAt s c).run ≠ .follower m) (hready : (coreAt s c).run = .running → (coreAt s c).seq.readyAt ≤ (coreAt s c).seq.cyc)
  (hchain : (coreAt s c).chain = [])
  (htrap : (coreAt s c).run ≠ .running ∨ (coreAt s c).soft = none ∧ ((coreAt s c).ctl.inh = true ∨ boundaryFaults s c = []))
  (hfences : (coreAt s c).fences = []) (hret : retiring x c = false) (hquiet : copiesQuiet (coreAt s c) = true)
include hb hx hlive hsave hdone hfol hready hchain htrap hfences hret hquiet

theorem coreSave_saves : exec (.coreSave c) s = .next (saveOne (freeze s c) t x.spilled c) := by
  have hexec : exec (.coreSave c) s = execCoreSave c s := rfl
  have hquiet' : copiesQuiet (coreAt (freeze s c) c) = true := by rw [coreAt_freeze_unchained hchain]; exact hquiet
  rw [hexec]
  simp [execCoreSave, hb, hx, hsave, isFollower_eq_false hfol, atBoundary_of_ready hready, hlive, hdone, hret,
    boundaryTrap_of_nothing htrap, positions_unchained hchain, fencesAct_of_none hfences, hquiet']

/-- R228, R309: a yielding core at its boundary writes its context and is vacated. -/
theorem coreSave_keepsContext :
    ∃ v j, exec (.coreSave c) s = .next v ∧ Tab.look v.sched.saved (64 * t + c) = some j ∧
      SameContext j (coreAt (writeOut (freeze s c) c) c) ∧ j.arr.frozen = true ∧ j.arr.waves = (coreAt s c).arr.waves ∧
      j.arr.win = (coreAt s c).arr.win ∧ (x.spilled = true → j.arr.cells = (coreAt s c).arr.cells) ∧
      (((coreAt s c).arr.cells.map (·.1)).Nodup → ∀ key,
        { cellAt j.arr key with store := [] } = { cellAt (coreAt s c).arr key with store := [] }) ∧
      v.sys = (writeOut (freeze s c) c).sys ∧ (coreAt v c).task = none ∧ (coreAt v c).run = .idle ∧ (coreAt v c).mem.l1 = [] := by
  obtain ⟨hctx, hfrozen, hwaves, hwin, hcells, hcell⟩ := savedImage_holds x.spilled (arr_writeOut_freeze hchain)
  have hvacated := coreAt_saveOne (freeze s c) t x.spilled c
  exact ⟨_, _, coreSave_saves hb hx hlive hsave hdone hfol hready hchain htrap hfences hret hquiet, look_saveOne _ t x.spilled c, hctx,
    hfrozen, hwaves, hwin, hcells, hcell, saveOne_sys _ t x.spilled c, by rw [hvacated]; rfl, by rw [hvacated]; rfl, by rw [hvacated]; rfl⟩

end

/-! ### The deadline of a drain (R309) -/

theorem drainDeadline_waits {s : State} {c t b : Nat} (hd : s.sched.drains = [(t, b)]) (h : s.beat < b ∨ (coreAt s c).yield_ ≠ .drain) :
    exec (.drainDeadline c) s = .next s := by
  have hexec : exec (.drainDeadline c) s = execDrainDeadline c s := rfl
  rw [hexec]
  rcases h with h | h
  · simp [execDrainDeadline, hd, Nat.not_le.2 h]
  · simp [execDrainDeadline, h]

theorem drainDeadline_saves {s : State} {c t b : Nat} (hd : s.sched.drains = [(t, b)]) (hlate : b ≤ s.beat) (hc : c ∈ teamCores s t)
    (hlive : liveHere s t c = true) (hdrain : (coreAt s c).yield_ = .drain) :
    exec (.drainDeadline c) s = .next (modCore s c fun k => { k with yield_ := .save }) := by
  have hexec : exec (.drainDeadline c) s = execDrainDeadline c s := rfl
  rw [hexec]
  simp [execDrainDeadline, hd, hlate, hc, hlive, hdrain]

/-! ### Records go to the queues and come from them (R298, R299, R309) -/

theorem sched_of_sysOnly {s u : State} (h : SysOnly s u) : u.sched = s.sched := by
  obtain ⟨heq, -⟩ := h
  exact (congrArg State.sched heq :)

theorem recordAt_sysOnly (s : State) (p : Except XErr Xl) : SysOnly s (recordAt s p).1 := by
  cases p with
  | error e => exact .refl s
  | ok x => exact deviceRead_sysOnly s x 64

theorem readSlot_sysOnly (s : State) (x : Team) (i : Nat) : SysOnly s (readSlot s x i).1 :=
  (pavTranslate_sysOnly s _ _ _).trans (recordAt_sysOnly _ _)

theorem putRecord_sysOnly (s : State) (r : BitVec 512) (p : Except XErr Xl) : SysOnly s (putRecord s r p) := by
  cases p with
  | error e => exact .refl s
  | ok x => exact deviceWrite_sysOnly s x _

theorem writeSlot_sysOnly (s : State) (x : Team) (i : Nat) (r : BitVec 512) : SysOnly s (writeSlot s x i r) :=
  (pavTranslate_sysOnly s _ _ _).trans (putRecord_sysOnly _ _ _)

/-- The cores of u are those of s but for the records that wait in their places, and so are the contexts in their areas. -/
def Dispatched (s u : State) : Prop :=
  (∀ d, { coreAt u d with localq := (coreAt s d).localq } = coreAt s d) ∧ u.sched.saved = s.sched.saved

theorem Dispatched.of_cores {s u : State} (hc : u.cores = s.cores) (hs : u.sched.saved = s.sched.saved) : Dispatched s u :=
  ⟨fun d => by rw [coreAt_of_cores hc], hs⟩

theorem Dispatched.refl (s : State) : Dispatched s s := .of_cores rfl rfl

theorem Dispatched.trans {s t u : State} (h : Dispatched s t) (k : Dispatched t u) : Dispatched s u := by
  obtain ⟨hcore, hsaved⟩ := h
  obtain ⟨kcore, ksaved⟩ := k
  refine ⟨fun d => ?_, ksaved.trans hsaved⟩
  rw [← hcore d, ← kcore d]

theorem modCore_localq_dispatched (s : State) (c : Nat) (f : Core → List (Nat × BitVec 512)) :
    Dispatched s (modCore s c fun k => { k with localq := f k }) := by
  refine ⟨fun d => ?_, rfl⟩
  rw [coreAt_modCore]
  split
  · rename_i h
    rw [h]
  · rfl

theorem modTeam_dispatched (s : State) (t : Nat) (f : Team → Team) : Dispatched s (modTeam s t f) :=
  ⟨fun d => by rw [coreAt_modTeam], modTeam_saved s t f⟩

theorem setTeam_dispatched (s : State) (t : Nat) (x : Team) : Dispatched s (setTeam s t x) := .of_cores rfl rfl

theorem readSlot_dispatched (s : State) (x : Team) (i : Nat) : Dispatched s (readSlot s x i).1 :=
  .of_cores (cores_of_sysOnly (readSlot_sysOnly s x i)) (congrArg Sched.saved (sched_of_sysOnly (readSlot_sysOnly s x i)))

theorem popHead_dispatched (s : State) (t : Nat) : Dispatched s (popHead s t).1 := by
  unfold popHead
  split
  · exact .refl s
  · split
    · exact setTeam_dispatched s t _
    · split
      · exact .refl s
      · have hread := readSlot_dispatched s ‹Team› 0
        generalize readSlot s ‹Team› 0 = p at hread ⊢
        obtain ⟨u, r⟩ := p
        exact hread.trans (modTeam_dispatched u t _)

theorem dispatchOnce_dispatched {s u : State} {t : Nat} (h : dispatchOnce s t = some u) : Dispatched s u := by
  have hgive : ∀ (x : Team) (c : Nat) (v : State), (match popHead s t with
      | (s, some r) => some (modCore s c fun k => { k with localq := k.localq ++ [(x.popped, r)] })
      | (_, none) => none) = some v → Dispatched s v := by
    intro x c v hv
    have hpop := popHead_dispatched s t
    split at hv <;> cases hv
    rename_i heq
    rw [heq] at hpop
    exact hpop.trans (modCore_localq_dispatched _ c fun k => k.localq ++ [(x.popped, _)])
  unfold dispatchOnce at h
  split at h
  · cases h
  · dsimp only at h
    split at h
    · split at h
      · cases h
      · split at h
        · cases h
        · split at h <;> cases h
          exact (modCore_localq_dispatched s _ fun _ => [_]).trans (modCore_localq_dispatched _ _ fun _ => [_])
    · split at h
      · exact hgive _ _ _ h
      · split at h
        · exact hgive _ _ _ h
        · split at h
          · exact hgive _ _ _ h
          · cases h

theorem dispatchFuel_dispatched (n : Nat) (s : State) (t : Nat) : Dispatched s (dispatchFuel n s t) := by
  induction n generalizing s with
  | zero => exact .refl s
  | succ n ih =>
    rw [dispatchFuel]
    split
    · exact .refl s
    · exact (dispatchOnce_dispatched ‹_›).trans (ih _)

theorem dispatchRecords_dispatched (s : State) (t : Nat) : Dispatched s (dispatchRecords s t) := by
  unfold dispatchRecords
  split
  · split
    · exact dispatchFuel_dispatched 256 s t
    · exact .refl s
  · exact .refl s

/-! ### A core is restored (R229, R230) -/

/-- The core k of a context, loaded where the core live was, before what reached its context comes to it. -/
def reloaded (spill thawIt : Bool) (live k : Core) : Core :=
  { k with
    arr := { k.arr with cells := mergeStores spill live.arr.cells k.arr.cells, frozen := !thawIt }
    mem := { k.mem with nextSeq := max k.mem.nextSeq live.mem.nextSeq }
    tail := [], rjq := live.rjq }
def reload (s : State) (t : Nat) (spill thawIt : Bool) (c : Nat) (k : Core) : State :=
  setCore (modSched s fun d => { d with saved := Tab.erase (64 * t + c) d.saved }) c (reloaded spill thawIt (coreAt s c) k)

theorem coreAt_reload (s : State) (t : Nat) (spill thawIt : Bool) (c : Nat) (k : Core) :
    coreAt (reload s t spill thawIt c k) c = reloaded spill thawIt (coreAt s c) k := coreAt_setCore_same _ _ _

/-- But for its place in memory, its records and what is on its way to its cells, core c of the state v is the core j; the context of
team t is no more. -/
def Back (v : State) (t c : Nat) (j : Core) : Prop :=
  { coreAt v c with mem := j.mem, localq := j.localq, arr := { (coreAt v c).arr with ahead := j.arr.ahead } } = j ∧
  Tab.look v.sched.saved (64 * t + c) = none

theorem Back.of_dispatched {s u : State} {t c : Nat} {j : Core} (h : Back s t c j) (hd : Dispatched s u) : Back u t c j := by
  obtain ⟨hcore, hsaved⟩ := h
  obtain ⟨hdcore, hdsaved⟩ := hd
  refine ⟨?_, by rw [hdsaved, hsaved]⟩
  rw [← hcore, ← hdcore c]

theorem Back.of_modMem {s : State} {t c : Nat} {j : Core} (h : Back s t c j) (f : MemPath → MemPath) : Back (modMem s c f) t c j := by
  obtain ⟨hcore, hsaved⟩ := h
  refine ⟨?_, hsaved⟩
  rw [← hcore, coreAt_modMem_same]

theorem Back.of_aheadStores {s : State} {t c : Nat} {j : Core} (h : Back s t c j) (m : Nat) : Back (aheadStores s m c) t c j := by
  obtain ⟨hcore, hsaved⟩ := h
  refine ⟨?_, hsaved⟩
  rw [← hcore, aheadStores, coreAt_modArr_same]

theorem Back.of_sysOnly {s u : State} {t c : Nat} {j : Core} (h : Back s t c j) (hu : SysOnly s u) : Back u t c j :=
  h.of_dispatched (.of_cores (cores_of_sysOnly hu) (congrArg Sched.saved (sched_of_sysOnly hu)))

/-- An acquire with nothing on its way only drops copies. -/
theorem Back.of_acquire {s : State} {t c : Nat} {j : Core} (h : Back s t c j) (hpend : (coreAt s c).mem.pend = []) :
    Back (acquire s c 4) t c j := by
  have hacq : acquire s c 4 = ncDrop (dropCleanWays (dropCleanL1 s c) (clusterOf c)) (dieOf c) := by
    simp [acquire, pendOf, hpend, acquireActs]
  rw [hacq]
  exact (h.of_modMem fun m => { m with l1 := keepDirty (l1Of s c) }).of_sysOnly (ncDrop_sysOnly (dropCleanWays_sysOnly (.refl _) _) _)

section
variable {v : State} {t c : Nat} {j : Core}

theorem Back.saved (h : Back v t c j) : Tab.look v.sched.saved (64 * t + c) = none := by
  obtain ⟨-, hsaved⟩ := h
  exact hsaved

theorem Back.seq (h : Back v t c j) : (coreAt v c).seq = j.seq := by
  obtain ⟨hcore, -⟩ := h
  exact (congrArg Core.seq hcore :)

theorem Back.frozen (h : Back v t c j) : (coreAt v c).arr.frozen = j.arr.frozen := by
  obtain ⟨hcore, -⟩ := h
  exact (congrArg (fun j => j.arr.frozen) hcore :)

theorem Back.cells (h : Back v t c j) : (coreAt v c).arr.cells = j.arr.cells := by
  obtain ⟨hcore, -⟩ := h
  exact (congrArg (fun j => j.arr.cells) hcore :)

theorem Back.sameContext {k : Core} (h : Back v t c j) (hj : SameContext j k) : SameContext (coreAt v c) k := by
  obtain ⟨hcore, -⟩ := h
  rw [← hcore] at hj
  exact hj

end

theorem back_restoreOne {s : State} {t c : Nat} {spill thawIt : Bool} {k j : Core} (hk : Tab.look s.sched.saved (64 * t + c) = some k)
    (hback : Back (applyTail (reload s t spill thawIt c k) c k.tail) t c j)
    (hpend : (coreAt (applyTail (reload s t spill thawIt c k) c k.tail) c).mem.pend = []) :
    Back (restoreOne s t spill thawIt c) t c j := by
  have heq : restoreOne s t spill thawIt c = acquire (if k.ctl.inh || k.run == .waitFolop then applyTail (reload s t spill thawIt c k) c k.tail
      else modMem (applyTail (reload s t spill thawIt c k) c k.tail) c (goOn (coreAt (applyTail (reload s t spill thawIt c k) c k.tail) c))) c 4 := by
    simp only [restoreOne, hk]
    rfl
  rw [heq]
  split
  · exact hback.of_acquire hpend
  · exact (hback.of_modMem _).of_acquire (by rw [coreAt_modMem_same]; exact hpend)

/-- The core k after a post to one of its counting flags (R215). -/
def posted (i n : Nat) (k : Core) : Core :=
  { k with seq := { k.seq with k := Tab.set 0 k.seq.k i (BitVec.ofNat 16 (min 65535 ((readK k i).toNat + n))) } }

section
variable {s : State} {c t : Nat} {x : Team} {k : Core} (hb : bindingOf s c = some (t, x)) (hx : x.state = .bound)
  (hk : Tab.look s.sched.saved (64 * t + c) = some k) (hfol : ∀ m, k.run ≠ .follower m) (hchain : k.chain = []) (hans : k.answer = none)
include hb hx hk hfol hchain hans

theorem back_coreRestore {j : Core} (hback : Back (restoreOne s t x.spilled (!k.ctl.inh) c) t c j) :
    ∃ v, exec (.coreRestore c) s = .next v ∧ Back v t c j := by
  have hexec : exec (.coreRestore c) s = .next (restoreCore s t x c) := by
    have h : exec (.coreRestore c) s = execCoreRestore c s := rfl
    simp [h, execCoreRestore, hb, hx]
  have hahead := hback.of_aheadStores c
  have hrestore : restoreCore s t x c =
      if x.place.all fun p => (Tab.look (aheadStores (restoreOne s t x.spilled (!k.ctl.inh) c) c c).sched.saved (64 * t + p)).isNone then
        dispatchRecords (modTeam (aheadStores (restoreOne s t x.spilled (!k.ctl.inh) c) c c) t fun y =>
          { y with state := if y.state == .bound then .running else y.state, hasSaved := false }) t
      else aheadStores (restoreOne s t x.spilled (!k.ctl.inh) c) c c := by
    cases hrun : k.run with
    | follower m => exact absurd hrun (hfol m)
    | _ => simp only [restoreCore, hk, hrun, hans, positions_unchained hchain, List.foldl_cons, List.foldl_nil]
  refine ⟨_, hexec, ?_⟩
  rw [hrestore]
  split
  · exact (hahead.of_dispatched (modTeam_dispatched _ t _)).of_dispatched (dispatchRecords_dispatched _ t)
  · exact hahead

/-- R229: with no post in its tail the core is the context's. -/
theorem coreRestore_restores (hpend : k.mem.pend = []) (htail : k.tail = []) :
    ∃ v, exec (.coreRestore c) s = .next v ∧ Tab.look v.sched.saved (64 * t + c) = none ∧ SameContext (coreAt v c) k ∧
      (coreAt v c).arr.frozen = k.ctl.inh ∧ (x.spilled = true → (coreAt v c).arr.cells = k.arr.cells) := by
  have hcore := coreAt_reload s t x.spilled (!k.ctl.inh) c k
  have hback : Back (reload s t x.spilled (!k.ctl.inh) c k) t c (reloaded x.spilled (!k.ctl.inh) (coreAt s c) k) :=
    ⟨by rw [hcore], Tab.look_erase_same _ _⟩
  have hone : Back (restoreOne s t x.spilled (!k.ctl.inh) c) t c (reloaded x.spilled (!k.ctl.inh) (coreAt s c) k) := by
    refine back_restoreOne hk ?_ ?_ <;> rw [htail]
    · exact hback
    · rw [applyTail, List.foldl_nil, hcore]
      exact hpend
  obtain ⟨v, hexec, hv⟩ := back_coreRestore hb hx hk hfol hchain hans hone
  refine ⟨v, hexec, hv.saved, hv.sameContext ⟨rfl, rfl, rfl, rfl, rfl, rfl, rfl⟩, ?_, fun hspill => ?_⟩
  · rw [hv.frozen]
    exact Bool.not_not _
  · rw [hv.cells]
    exact if_pos hspill

/-- R230: the post that reached the context comes to the core. -/
theorem coreRestore_posts {p : Post} (hpend : k.mem.pend = []) (htail : k.tail = [p]) (hbar : p.bar = false) :
    ∃ v, exec (.coreRestore c) s = .next v ∧ ∀ j, Tab.get 0 (coreAt v c).seq.k j =
      if j = p.idx then BitVec.ofNat 16 (min 65535 ((Tab.get 0 k.seq.k j).toNat + p.n)) else Tab.get 0 k.seq.k j := by
  have happly : applyTail (reload s t x.spilled (!k.ctl.inh) c k) c [p] =
      modCore (reload s t x.spilled (!k.ctl.inh) c k) c (posted p.idx p.n) := by
    rw [applyTail, List.foldl_cons, List.foldl_nil, applyPost, if_neg (by rw [hbar]; exact Bool.false_ne_true)]
    unfold postK setK modSeq
    exact modCore_congr rfl
  have hcore : coreAt (modCore (reload s t x.spilled (!k.ctl.inh) c k) c (posted p.idx p.n)) c =
      posted p.idx p.n (reloaded x.spilled (!k.ctl.inh) (coreAt s c) k) := by rw [coreAt_modCore_same, coreAt_reload]
  have hone : Back (restoreOne s t x.spilled (!k.ctl.inh) c) t c (posted p.idx p.n (reloaded x.spilled (!k.ctl.inh) (coreAt s c) k)) := by
    refine back_restoreOne hk ?_ ?_ <;> rw [htail, happly]
    · exact ⟨by rw [hcore], Tab.look_erase_same _ _⟩
    · rw [hcore]
      exact hpend
  obtain ⟨v, hexec, hv⟩ := back_coreRestore hb hx hk hfol hchain hans hone
  refine ⟨v, hexec, fun j => ?_⟩
  rw [hv.seq]
  refine (Tab.get_set 0 k.seq.k p.idx j _).trans ?_
  split
  · rename_i h
    rw [h]
    rfl
  · rfl

end

/-! ### The victims of a pre-emption (R307) -/

theorem mem_of_mem_chooseSets {β : Type} {n : Nat} {l set : List β} (h : set ∈ chooseSets n l) : ∀ a ∈ set, a ∈ l := by
  induction l generalizing n set with
  | nil =>
    cases n with
    | zero => rw [chooseSets, List.mem_singleton] at h; simp [h]
    | succ n => rw [chooseSets] at h; cases h
  | cons x l ih =>
    cases n with
    | zero => rw [chooseSets, List.mem_singleton] at h; simp [h]
    | succ n =>
      rw [chooseSets, List.mem_append, List.mem_map] at h
      intro a ha
      rcases h with ⟨set', hset', rfl⟩ | h
      · rcases List.mem_cons.1 ha with rfl | ha
        · exact List.mem_cons_self
        · exact List.mem_cons_of_mem _ (ih hset' a ha)
      · exact List.mem_cons_of_mem _ (ih h a ha)

/-- What a fold picks, element by element, is in the list. -/
theorem mem_of_foldl_pick {β : Type} {f : Option β → β → Option β} (hf : ∀ b x, f b x = some x ∨ f b x = b) {l : List β} {m : β}
    {b : Option β} (h : l.foldl f b = some m) : m ∈ l ∨ b = some m := by
  induction l generalizing b with
  | nil => exact .inr h
  | cons x l ih =>
    rcases ih h with hm | hm
    · exact .inl (List.mem_cons_of_mem _ hm)
    · rcases hf b x with hx | hx <;> rw [hx] at hm
      · cases hm
        exact .inl List.mem_cons_self
      · exact .inr hm

theorem mem_of_victimsOf {s : State} {x : Team} {cand l : List (Nat × Team)} {n : Nat} (h : victimsOf s x cand n = some l) :
    l ∈ chooseSets n cand := by
  have hpick := mem_of_foldl_pick (fun b l => by
    cases b with
    | none => exact .inl rfl
    | some m => dsimp only; split <;> simp) h
  exact (List.mem_filter.1 (hpick.resolve_right nofun)).1

/-- A victim holds cores of the partition at a lower priority. -/
theorem victim_of_chooseVictims {s : State} {x : Team} {l : List (Nat × Team)} (h : chooseVictims s x = some l) {v : Nat × Team} (hv : v ∈ l) :
    v.2.part = x.part ∧ effPrio s v.2.region < teamPrio s x := by
  obtain ⟨n, -, hn⟩ := List.exists_of_findSome?_eq_some h
  have hcand := mem_of_mem_chooseSets (mem_of_victimsOf hn) v hv
  simp only [List.mem_filter, Bool.and_eq_true, beq_iff_eq, decide_eq_true_eq] at hcand
  obtain ⟨-, ⟨hpart, -⟩, hprio⟩ := hcand
  exact ⟨hpart, hprio⟩

/-! ### A core in its place, while the contexts of its team change -/

theorem teams_modContext (s : State) (t c : Nat) (f : Core → Core) : (modContext s t c f).sched.teams = s.sched.teams := by
  unfold modContext
  split
  · rfl
  · split <;> rfl

theorem liveHere_congr {s u : State} {t c : Nat} (hsaved : Tab.look u.sched.saved (64 * t + c) = Tab.look s.sched.saved (64 * t + c))
    (hteam : (teamAt u t).map (·.part) = (teamAt s t).map (·.part)) (hpart : (coreAt u c).part = (coreAt s c).part) :
    liveHere u t c = liveHere s t c := by
  have hlive : ∀ w : State, liveHere w t c = ((Tab.look w.sched.saved (64 * t + c)).isNone &&
      (match (teamAt w t).map (·.part) with | some p => (coreAt w c).part == p | none => true)) := by
    intro w
    rw [liveHere]
    cases teamAt w t <;> rfl
  rw [hlive, hlive, hsaved, hteam, hpart]

section
variable {t c : Nat} {f : Core → Core} (hpart : ∀ k, (f k).part = k.part)
include hpart

/-- A live core stays so, and takes the change that names it. -/
theorem modContext_live {s : State} (hlive : liveHere s t c = true) (d : Nat) :
    liveHere (modContext s t d f) t c = true ∧ coreAt (modContext s t d f) c = if d = c then f (coreAt s c) else coreAt s c := by
  have hnone := saved_of_live hlive
  by_cases hd : d = c
  · subst hd
    rw [if_pos rfl, modContext, hnone, if_pos hlive]
    refine ⟨?_, coreAt_modCore_same s d f⟩
    rw [← hlive]
    exact liveHere_congr rfl rfl (by rw [coreAt_modCore_same, hpart])
  · rw [if_neg hd, modContext]
    split
    · refine ⟨?_, rfl⟩
      rw [← hlive]
      exact liveHere_congr ((Tab.look_put _ _ _ _).trans (if_neg (by omega))) rfl rfl
    · split
      · have hcore := coreAt_modCore_other s d c f (Ne.symm hd)
        refine ⟨?_, hcore⟩
        rw [← hlive]
        exact liveHere_congr rfl rfl (by rw [hcore])
      · exact ⟨hlive, rfl⟩

/-- The same of a change that all cores of a list take, some of them twice. -/
theorem foldl_modContext_live (hidem : ∀ k, f (f k) = f k) (l : List Nat) {s : State} (hlive : liveHere s t c = true) :
    liveHere (l.foldl (fun s d => modContext s t d f) s) t c = true ∧
      coreAt (l.foldl (fun s d => modContext s t d f) s) c = if c ∈ l then f (coreAt s c) else coreAt s c := by
  induction l generalizing s with
  | nil => exact ⟨hlive, rfl⟩
  | cons d l ih =>
    obtain ⟨hnext, hcore⟩ := modContext_live hpart hlive d
    obtain ⟨hend, hcoreEnd⟩ := ih hnext
    refine ⟨hend, hcoreEnd.trans ?_⟩
    rw [hcore]
    by_cases hd : d = c
    · simp [hd, hidem]
    · simp [hd, Ne.symm hd]

end

theorem teams_foldl_modContext (t : Nat) (f : Core → Core) (l : List Nat) (s : State) :
    (l.foldl (fun s d => modContext s t d f) s).sched.teams = s.sched.teams := by
  induction l generalizing s with
  | nil => rfl
  | cons d l ih => exact (ih _).trans (teams_modContext s t d f)

/-! ### Records go back to the head of the queue (R309) -/

/-- From s to u only records joined the queue of team t, for all that its cores see. -/
def Queued (t : Nat) (s u : State) : Prop :=
  u.cores = s.cores ∧ u.sched.saved = s.sched.saved ∧
  (teamAt u t).map (fun x => (x.place, x.part)) = (teamAt s t).map fun x => (x.place, x.part)

theorem Queued.refl (t : Nat) (s : State) : Queued t s s := ⟨rfl, rfl, rfl⟩

theorem Queued.trans {t : Nat} {s u v : State} (h : Queued t s u) (k : Queued t u v) : Queued t s v := by
  obtain ⟨hcores, hsaved, hteam⟩ := h
  obtain ⟨kcores, ksaved, kteam⟩ := k
  exact ⟨kcores.trans hcores, ksaved.trans hsaved, kteam.trans hteam⟩

theorem Queued.of_sysOnly {t : Nat} {s u : State} (h : SysOnly s u) : Queued t s u := by
  have hsched := sched_of_sysOnly h
  exact ⟨cores_of_sysOnly h, by rw [hsched], by rw [teamAt, hsched, teamAt]⟩

theorem queued_setTeam {t : Nat} {s : State} {x y : Team} (h : teamAt s t = some x) (hplace : y.place = x.place) (hpart : y.part = x.part) :
    Queued t s (setTeam s t y) := by
  have hy : teamAt (setTeam s t y) t = some y := Tab.look_put_same _ _ _
  refine ⟨rfl, rfl, ?_⟩
  rw [hy, h, Option.map_some, Option.map_some, hplace, hpart]

theorem pushHead_queued (s : State) (t : Nat) (r : BitVec 512) : Queued t s (pushHead s t r) := by
  unfold pushHead
  split
  · exact .refl t s
  · rename_i x hx
    split
    · exact queued_setTeam hx rfl rfl
    · refine Queued.trans ?_ (.of_sysOnly (writeSlot_sysOnly _ _ _ _))
      exact queued_setTeam hx rfl rfl

theorem foldl_pushHead_queued (t : Nat) (l : List (Nat × BitVec 512)) (s : State) : Queued t s (l.foldl (fun s r => pushHead s t r.2) s) := by
  induction l generalizing s with
  | nil => exact .refl t s
  | cons r l ih => exact (pushHead_queued s t r.2).trans (ih _)

theorem Queued.coreAt {t : Nat} {s u : State} (h : Queued t s u) (c : Nat) : Machine.coreAt u c = Machine.coreAt s c := by
  obtain ⟨hcores, -⟩ := h
  exact coreAt_of_cores hcores c

theorem Queued.liveHere {t : Nat} {s u : State} (h : Queued t s u) (c : Nat) : Machine.liveHere u t c = Machine.liveHere s t c := by
  have hcore := h.coreAt c
  obtain ⟨-, hsaved, hteam⟩ := h
  refine liveHere_congr (by rw [hsaved]) ?_ (by rw [hcore])
  have := congrArg (Option.map Prod.snd) hteam
  simpa only [Option.map_map, Function.comp_def] using this

/-! ### A victim begins to yield (R307, R309) -/

/-- A core whose records have gone back, which is told how it has to yield. -/
def withoutRecords (k : Core) : Core := { k with localq := [] }
def toYield (how : Yield) (k : Core) : Core := { k with yield_ := how }

theorem returnLocal_live {s : State} {t c : Nat} {x : Team} (hc : c ∈ x.place) (hlive : liveHere s t c = true) :
    liveHere (returnLocal s t x) t c = true ∧ coreAt (returnLocal s t x) c = withoutRecords (coreAt s c) := by
  have hmem : c ∈ unsavedCores s t x := by simp [unsavedCores, hc, saved_of_live hlive]
  have hpush := foldl_pushHead_queued t
    (((unsavedCores s t x).flatMap fun c => (contextAt s t c).localq).foldl (fun l r => insertLater r l) [])
    ((unsavedCores s t x).foldl (fun s c => modContext s t c withoutRecords) s)
  obtain ⟨hclear, hcore⟩ := foldl_modContext_live (f := withoutRecords) (fun _ => rfl) (fun _ => rfl) (unsavedCores s t x) hlive
  rw [if_pos hmem] at hcore
  exact ⟨(hpush.liveHere c).trans hclear, (hpush.coreAt c).trans hcore⟩

theorem returnLocal_place {s : State} {t : Nat} {x : Team} (h : teamAt s t = some x) :
    ∃ y, teamAt (returnLocal s t x) t = some y ∧ y.place = x.place := by
  have hpush := foldl_pushHead_queued t
    (((unsavedCores s t x).flatMap fun c => (contextAt s t c).localq).foldl (fun l r => insertLater r l) [])
    ((unsavedCores s t x).foldl (fun s c => modContext s t c withoutRecords) s)
  obtain ⟨-, -, hteam⟩ := hpush
  have hsame : teamAt ((unsavedCores s t x).foldl (fun s c => modContext s t c withoutRecords) s) t = some x := by
    rw [teamAt, teams_foldl_modContext]
    exact h
  rw [hsame, Option.map_some, Option.map_eq_some_iff] at hteam
  obtain ⟨y, hy, hpair⟩ := hteam
  exact ⟨y, hy, congrArg Prod.fst hpair⟩

/-- The state in which the cores of a victim have been told to yield. -/
def told (s : State) (t : Nat) (x : Team) (how : Yield) : State :=
  let u := (unsavedCores (returnLocal s t x) t x).foldl (fun s c => modContext s t c (toYield how)) (returnLocal s t x)
  modTeam u t fun y => { y with state := .yielding, spilled := effCskeep u y.region }

theorem startYield_eq {s : State} {v : Nat × Team} {x : Team} (h : teamAt s v.1 = some x) (deadline : Nat) :
    ∃ g, startYield s deadline v = modSched (told s v.1 x (yieldChoice s v.1 x deadline)) g ∧ ∀ d, (g d).teams = d.teams := by
  simp only [startYield, h]
  split
  · exact ⟨_, rfl, fun _ => rfl⟩
  · exact ⟨id, rfl, fun _ => rfl⟩

theorem told_team {s : State} {t : Nat} {x : Team} (h : teamAt s t = some x) (how : Yield) :
    ∃ z, teamAt (told s t x how) t = some z ∧ z.state = .yielding ∧ z.place = x.place := by
  obtain ⟨y, hy, hplace⟩ := returnLocal_place h
  refine ⟨_, teamAt_modTeam (x := y) ?_ _, rfl, hplace⟩
  rw [teamAt, teams_foldl_modContext]
  exact hy

theorem told_core {s : State} {t c : Nat} {x : Team} (hc : c ∈ x.place) (hlive : liveHere s t c = true) (how : Yield) :
    (coreAt (told s t x how) c).yield_ = how ∧ (coreAt (told s t x how) c).localq = [] := by
  obtain ⟨hret, hcore⟩ := returnLocal_live hc hlive
  have hmem : c ∈ unsavedCores (returnLocal s t x) t x := by simp [unsavedCores, hc, saved_of_live hret]
  obtain ⟨-, htold⟩ := foldl_modContext_live (f := toYield how) (fun _ => rfl) (fun _ => rfl) (unsavedCores (returnLocal s t x) t x) hret
  rw [if_pos hmem, hcore] at htold
  rw [told, coreAt_modTeam, htold]
  exact ⟨rfl, rfl⟩

/-! ### The scheduler asks for a pre-emption (R307) -/

theorem preemptRequest_nothing {s : State} {t : Nat} {x : Team} (hx : teamAt s t = some x)
    (h : s.sched.sweep = false ∨ (firstWaiting s x.part).map (·.1) ≠ some t ∨ (placement s x []).isSome = true ∨ newVictims s x = []) :
    exec (.preemptRequest t) s = .next s := by
  have hexec : exec (.preemptRequest t) s = execPreemptRequest t s := rfl
  rw [hexec]
  simp only [execPreemptRequest, hx]
  split
  · rfl
  · rename_i hgo
    rcases h with h | h | h | h
    · simp [h] at hgo
    · simp [h] at hgo
    · simp [h] at hgo
    · rw [h, List.foldl_nil]

theorem newVictims_of_none {s : State} {x : Team} (h : chooseVictims s x = none) : newVictims s x = [] := by simp [newVictims, h]

theorem newVictims_of_yielding {s : State} {x y : Team} {v : Nat} (h : chooseVictims s x = some [(v, y)]) (hy : y.state = .yielding) :
    newVictims s x = [] := by simp [newVictims, h, hy]

theorem preemptRequest_yields {s : State} {t v : Nat} {x y : Team} (hx : teamAt s t = some x) (hsweep : s.sched.sweep = true)
    (hy : y.state ≠ .yielding) (hfirst : (firstWaiting s x.part).map (·.1) = some t) (hplace : placement s x [] = none)
    (hv : chooseVictims s x = some [(v, y)]) : exec (.preemptRequest t) s = .next (startYield s (effPdl s x.region) (v, y)) := by
  have hexec : exec (.preemptRequest t) s = execPreemptRequest t s := rfl
  have hnew : newVictims s x = [(v, y)] := by simp [newVictims, hv, hy]
  rw [hexec]
  simp only [execPreemptRequest, hx, hnew, List.foldl_cons, List.foldl_nil]
  rw [if_neg]
  simp [hsweep, hfirst, hplace]

/-! ### A partition swap begins, and its core halts (R233) -/

/-- The state in which a swap has begun. -/
def begun (s : State) (a b : Nat) : State := { s with sched := { s.sched with swap := some (a, b) } }

/-- An unchained core has halted for the swap. -/
def standing (s : State) (a b c : Nat) : State :=
  { freeze s c with sched := { s.sched with swap := some (a, b), halted := s.sched.halted ++ [c] } }

theorem partitionSwap_other {s : State} {a b a' b' : Nat} (h : s.sched.swap = some (a', b')) (hne : (a, b) ≠ (a', b')) :
    exec (.partitionSwap a b) s = .next s := by
  have hexec : exec (.partitionSwap a b) s = execPartitionSwap a b s := rfl
  have hcond : ¬ (a' = a ∧ b' = b) := fun ⟨ha, hb⟩ => hne (by rw [ha, hb])
  rw [hexec]
  simp [execPartitionSwap, h, hcond]

theorem partitionSwap_goesOn {s : State} {a b : Nat} (hne : a ≠ b) (h : s.sched.swap = none ∨ s.sched.swap = some (a, b)) :
    exec (.partitionSwap a b) s = .next (swapStep (begun s a b) a b) := by
  have hexec : exec (.partitionSwap a b) s = execPartitionSwap a b s := rfl
  rw [hexec]
  rcases h with h | h
  · simp only [execPartitionSwap, h, if_neg hne]
    rfl
  · have hbegun : begun s a b = s := by rw [begun, ← h]
    simp [execPartitionSwap, h, hbegun]

theorem liveCores_congr {s u : State} (hparts : u.sched.parts = s.sched.parts) (hcore : ∀ d, (coreAt u d).part = (coreAt s d).part) (p : Nat) :
    liveCores u p = liveCores s p := by
  simp only [liveCores, partCores, hparts, hcore]

theorem swapStep_waits {s : State} {a b c : Nat} (hlive : liveCores s a = [c]) (hhalt : isHalted s c = false)
    (hrun : (coreAt s c).run = .running) (hstall : (coreAt s c).seq.cyc < (coreAt s c).seq.readyAt) :
    swapStep (begun s a b) a b = begun s a b := by
  have hlive' : liveCores (begun s a b) a = [c] := hlive
  have hcore : coreAt (begun s a b) c = coreAt s c := rfl
  have hhalt' : isHalted (begun s a b) c = false := hhalt
  have hstays : haltCore (begun s a b) c = begun s a b := by
    simp [haltCore, atBoundary, hcore, hrun, Nat.not_le.2 hstall]
  simp [swapStep, hlive', hstays, hhalt']

section
variable {s : State} {a b c : Nat} (hchain : (coreAt s c).chain = [])
include hchain

theorem haltCore_halts (hhalt : isHalted s c = false) (hfol : ∀ m, (coreAt s c).run ≠ .follower m)
    (hready : (coreAt s c).run = .running → (coreAt s c).seq.readyAt ≤ (coreAt s c).seq.cyc) (hsoft : (coreAt s c).soft = none)
    (hf : boundaryFaults s c = []) (hfences : (coreAt s c).fences = []) : haltCore (begun s a b) c = standing s a b c := by
  have hcore : coreAt (begun s a b) c = coreAt s c := rfl
  have hhalt' : isHalted (begun s a b) c = false := hhalt
  have htrap : boundaryTrap (begun s a b) c = none := boundaryTrap_of_nothing (.inr ⟨hsoft, .inr hf⟩)
  have hact : fencesAct (begun s a b) c = begun s a b := fencesAct_of_none hfences
  have hfreeze : freeze (begun s a b) c = { freeze s c with sched := (begun s a b).sched } := by
    rw [freeze_unchained hchain, freeze_unchained (s := begun s a b) hchain]
    rfl
  simp only [haltCore, hcore, hhalt', isFollower_eq_false hfol, atBoundary_of_ready hready, htrap, hact, hfreeze, positions_unchained hchain]
  rfl

theorem coreAt_standing (d : Nat) : coreAt (standing s a b c) d = if d = c then frozenCore (coreAt s c) else coreAt s d := by
  have hfreeze : coreAt (standing s a b c) d = coreAt (freeze s c) d := rfl
  rw [hfreeze, coreAt_freeze, positions_unchained hchain]
  by_cases hd : d = c
  · simp [hd]
  · simp [hd]

theorem part_standing (d : Nat) : (coreAt (standing s a b c) d).part = (coreAt s d).part := by
  rw [coreAt_standing hchain]
  split
  · rename_i h
    rw [h]
    rfl
  · rfl

theorem liveCores_standing (p : Nat) : liveCores (standing s a b c) p = liveCores s p :=
  liveCores_congr (s := s) (u := standing s a b c) rfl (part_standing hchain) p

/-- Entries of other cores stand in the table as before. -/
theorem cores_standing : Tab.erase c (standing s a b c).cores = Tab.erase c s.cores := by
  have hcores : (standing s a b c).cores = (modArr s c fun a => { a with frozen := true }).cores := by
    rw [← freeze_unchained hchain]
    rfl
  rw [hcores]
  exact erase_set Core.reset c s.cores _

end

theorem isHalted_standing (s : State) (a b c : Nat) : isHalted (standing s a b c) c = true := by
  simp [isHalted, standing]

theorem swapStep_exchanges {s : State} {a b c : Nat} (hlive : liveCores s a = [c]) (hchain : (coreAt s c).chain = [])
    (hhalts : haltCore (begun s a b) c = standing s a b c) (hquiet : copiesQuiet (coreAt s c) = true) :
    swapStep (begun s a b) a b = exchange (standing s a b c) a b := by
  have hlive' : liveCores (begun s a b) a = [c] := hlive
  have hstill : liveCores (standing s a b c) a = [c] := (liveCores_standing hchain a).trans hlive
  have hquiet' : copiesQuiet (coreAt (standing s a b c) c) = true := by
    rw [coreAt_standing hchain, if_pos rfl]
    exact hquiet
  simp [swapStep, hlive', hhalts, hstill, isHalted_standing, hquiet']

/-! ### The exchange (R230 to R233) -/

/-- In the state w core c has been exchanged: its own state is in the shadow, and the core y is in its place. -/
def exchanged (w : State) (c : Nat) (y : Core) : State :=
  setCore (modSched w fun d => { d with
    shadow := Tab.set .reset d.shadow c { coreAt w c with mem := { (coreAt w c).mem with sb := [], l1 := [] } } }) c y

theorem coreAt_exchanged (w : State) (c : Nat) (y : Core) (d : Nat) : coreAt (exchanged w c y) d = if d = c then y else coreAt w d :=
  coreAt_setCore _ c d y

/-- The core from the shadow, when it is the incoming partition's and no post has reached it. -/
theorem swapOne_of_shadow {w : State} {b c : Nat} {y : Core} (h : Tab.look w.sched.shadow c = some y) (hpart : y.part = b) (htail : y.tail = []) :
    swapOne w b c = exchanged w c y := by
  have hy : { y with tail := [] } = y := by rw [← htail]
  subst hpart
  simp only [swapOne, h, if_true, htail, hy]
  rfl

/-- A fresh core, when the shadow holds none. -/
theorem swapOne_of_none {w : State} {b c : Nat} (h : Tab.look w.sched.shadow c = none) :
    swapOne w b c = exchanged w c (freshShadow b (coreAt w c)) := by
  simp only [swapOne, h]
  rfl

/-- The core y thaws with its master m. -/
def thawedWith (m y : Core) : Core := { y with arr := { y.arr with frozen := m.ctl.inh || m.run == .waitFolop } }

theorem coreAt_thawIn {w : State} {c : Nat} (h : (coreAt w c).answer = none) :
    coreAt (thawIn w c) c = thawedWith (coreAt w (masterOf w c)) (coreAt w c) ∧
      (thawIn w c).sched = { w.sched with halted := w.sched.halted.filter (· != c) } := by
  have heq : thawIn w c = modArr (modSched w fun d => { d with halted := d.halted.filter (· != c) }) c fun a =>
      { a with frozen := (coreAt w (masterOf w c)).ctl.inh || (coreAt w (masterOf w c)).run == .waitFolop } := by
    unfold thawIn
    dsimp only
    rw [coreAt_modArr_same, coreAt_modSched, h]
    rfl
  rw [heq, coreAt_modArr_same]
  exact ⟨rfl, rfl⟩

theorem partCores_nodup (s : State) (p : Nat) : (partCores s p).Nodup := by
  unfold partCores
  split
  · exact List.nodup_range.filter _
  · exact List.nodup_nil

/-- The incoming partition runs on core c alone, which has come to it. -/
theorem liveCores_of_arrival {s u : State} {b c : Nat} (hparts : u.sched.parts = s.sched.parts)
    (hother : ∀ d, d ≠ c → (coreAt u d).part = (coreAt s d).part) (hnone : liveCores s b = []) (hc : c ∈ partCores s b) (hpart : (coreAt u c).part = b) : liveCores u b = [c] := by
  have hcores : partCores u b = partCores s b := by rw [partCores, hparts, partCores]
  have hfilter : liveCores u b = (partCores s b).filter (· == c) := by
    rw [liveCores, hcores]
    refine List.filter_congr fun d hd => ?_
    by_cases hdc : d = c
    · simp [hdc, hpart]
    · have hout := List.filter_eq_nil_iff.1 hnone d hd
      rw [hother d hdc, beq_eq_false_iff_ne.2 hdc]
      simpa using hout
  rw [hfilter, List.filter_beq, List.count_eq_one_of_mem (partCores_nodup s b) hc]
  rfl

/-- Core c belongs to no chain of another core. -/
theorem masterOf_of_no_chain {s : State} {c : Nat} (h : ∀ p ∈ s.cores, p.1 ≠ c → c ∉ p.2.chain) : masterOf s c = c := by
  unfold masterOf
  split
  · rename_i p hp
    by_contra hne
    exact h p (List.mem_of_find?_eq_some hp) hne (by simpa using List.find?_some hp)
  · rfl

/-- What core c of the state v has become in a swap that is over: the core y, thawed with its master; the core k is in the shadow. -/
def Swapped (v : State) (c : Nat) (m k y : Core) : Prop :=
  coreAt v c = thawedWith m y ∧ v.sched.swap = none ∧ c ∉ v.sched.halted ∧ SameContext (Tab.get .reset v.sched.shadow c) k

theorem exchange_swaps {s w : State} {a b c : Nat} {y : Core} (hchain : (coreAt s c).chain = []) (ha : liveCores s a = [c])
    (hb : liveCores s b = []) (hc : c ∈ partCores s b) (hw : writeOut (standing s a b c) c = w)
    (hswap : swapOne w b c = exchanged w c y) (hpart : y.part = b) (hans : y.answer = none) :
    Swapped (exchange (standing s a b c) a b) c (coreAt (exchanged w c y) (masterOf (exchanged w c y) c)) (coreAt w c) y := by
  have hbeside : beside c w = beside c (standing s a b c) := hw ▸ beside_writeOut c _
  have hsched := sched_of_beside hbeside
  have hparts : (exchanged w c y).sched.parts = s.sched.parts := (congrArg Sched.parts hsched).trans rfl
  have houts : liveCores (standing s a b c) a = [c] := (liveCores_standing hchain a).trans ha
  have hinc : (partCores w b).contains c = true := by
    rw [partCores, hsched]
    simpa [partCores, standing] using hc
  have hins : liveCores (exchanged w c y) b = [c] := by
    refine liveCores_of_arrival hparts (fun d hd => ?_) hb hc ?_
    · rw [coreAt_exchanged, if_neg hd, coreAt_of_beside hbeside hd, part_standing hchain]
    · rw [coreAt_exchanged, if_pos rfl, hpart]
  have hcore : coreAt (exchanged w c y) c = y := by rw [coreAt_exchanged, if_pos rfl]
  have heq : exchange (standing s a b c) a b = modSched (thawIn (exchanged w c y) c) fun d => { d with swap := none } := by
    simp only [exchange, houts, List.foldl_cons, List.foldl_nil, hw, List.filter_cons, List.filter_nil, hinc, if_true, hswap, hins]
  obtain ⟨hthaw, hthawSched⟩ := coreAt_thawIn (w := exchanged w c y) (c := c) (by rw [hcore, hans])
  rw [hcore] at hthaw
  rw [heq]
  refine ⟨hthaw, rfl, ?_, ?_⟩
  · rw [modSched_sched, hthawSched]
    simp
  · rw [modSched_sched, hthawSched]
    have hshadow : Tab.get Core.reset (exchanged w c y).sched.shadow c = { coreAt w c with mem := { (coreAt w c).mem with sb := [], l1 := [] } } :=
      Tab.get_set_same _ _ _ _
    exact hshadow ▸ ⟨rfl, rfl, rfl, rfl, rfl, rfl, rfl⟩

/-! ### The clauses -/

theorem preemptRequest_yields_victim {s : State} {t v : Nat} {x y : Team} (hx : teamAt s t = some x) (hsweep : s.sched.sweep = true)
    (hy : y.state ≠ .yielding) (hfirst : (firstWaiting s x.part).map (·.1) = some t) (hplace : placement s x [] = none)
    (hv : chooseVictims s x = some [(v, y)]) (hteam : teamAt s v = some y) :
    effPrio s y.region < teamPrio s x ∧ y.part = x.part ∧ ∃ u z, exec (.preemptRequest t) s = .next u ∧ teamAt u v = some z ∧
      z.state = .yielding ∧ z.place = y.place ∧
      ∀ c ∈ y.place, liveHere s v c = true → (coreAt u c).yield_ = yieldChoice s v y (effPdl s x.region) ∧ (coreAt u c).localq = [] := by
  obtain ⟨hpart, hprio⟩ := victim_of_chooseVictims hv (List.mem_singleton_self (v, y))
  obtain ⟨g, hg, hteams⟩ := startYield_eq (v := (v, y)) hteam (effPdl s x.region)
  obtain ⟨z, hz, hstate, hzplace⟩ := told_team hteam (yieldChoice s v y (effPdl s x.region))
  refine ⟨hprio, hpart, _, z, preemptRequest_yields hx hsweep hy hfirst hplace hv, ?_, hstate, hzplace, fun c hc hlive => ?_⟩
  · rw [hg, teamAt, modSched_sched, hteams]
    exact hz
  · rw [hg, coreAt_modSched]
    exact told_core hc hlive _

/-- The swap of a partition that runs on one core, for the core y that comes to it. -/
theorem partitionSwap_swaps {s w : State} {a b c : Nat} {y : Core} (hne : a ≠ b) (hbegin : s.sched.swap = none ∨ s.sched.swap = some (a, b))
    (ha : liveCores s a = [c]) (hb : liveCores s b = []) (hquiet : copiesQuiet (coreAt s c) = true) (hchain : (coreAt s c).chain = [])
    (hhalts : haltCore (begun s a b) c = standing s a b c) (hc : c ∈ partCores s b) (hw : writeOut (standing s a b c) c = w)
    (hswap : swapOne w b c = exchanged w c y) (hpart : y.part = b) (hans : y.answer = none) :
    ∃ v, exec (.partitionSwap a b) s = .next v ∧
      Swapped v c (coreAt (exchanged w c y) (masterOf (exchanged w c y) c)) (coreAt w c) y := by
  refine ⟨_, partitionSwap_goesOn hne hbegin, ?_⟩
  rw [swapStep_exchanges ha hchain hhalts hquiet]
  exact exchange_swaps hchain ha hb hc hw hswap hpart hans

/-- A core that is in no chain is its own master after the exchange. -/
theorem masterOf_exchanged {s w : State} {a b c : Nat} (hchain : (coreAt s c).chain = []) (hno : ∀ p ∈ s.cores, c ∉ p.2.chain)
    (hw : beside c w = beside c (standing s a b c)) (y : Core) : masterOf (exchanged w c y) c = c := by
  refine masterOf_of_no_chain fun p hp hne => hno p ?_
  have hset : Tab.erase c (exchanged w c y).cores = Tab.erase c s.cores :=
    (erase_set Core.reset c w.cores y).trans ((erase_of_beside hw).trans (cores_standing hchain))
  exact mem_of_mem_erase (hset ▸ mem_erase_of_mem hp hne)

section
variable {s : State} {a b c : Nat} (hne : a ≠ b) (hbegin : s.sched.swap = none ∨ s.sched.swap = some (a, b)) (ha : liveCores s a = [c])
  (hb : liveCores s b = []) (hhalt : isHalted s c = false)
  (hready : (coreAt s c).run = .running → (coreAt s c).seq.readyAt ≤ (coreAt s c).seq.cyc) (hfol : ∀ m, (coreAt s c).run ≠ .follower m)
  (hquiet : copiesQuiet (coreAt s c) = true) (hsoft : (coreAt s c).soft = none) (hf : boundaryFaults s c = [])
  (hfences : (coreAt s c).fences = []) (hchain : (coreAt s c).chain = []) (hc : c ∈ partCores s b)
include hne hbegin ha hb hhalt hready hfol hquiet hsoft hf hfences hchain hc

/-- R231, R233: a partition that has not run on the core yet finds it fresh. -/
theorem partitionSwap_fresh (hnone : Tab.look s.sched.shadow c = none) :
    ∃ v, exec (.partitionSwap a b) s = .next v ∧ (coreAt v c).part = b ∧ (coreAt v c).task = none ∧ (coreAt v c).run = .idle ∧
      v.sched.swap = none ∧ c ∉ v.sched.halted ∧
      SameContext (Tab.get .reset v.sched.shadow c) (coreAt (writeOut (standing s a b c) c) c) := by
  have hhalts := haltCore_halts (a := a) (b := b) hchain hhalt hfol hready hsoft hf hfences
  generalize hw : writeOut (standing s a b c) c = w
  have hsched := sched_of_beside (hw ▸ beside_writeOut c (standing s a b c))
  obtain ⟨v, hexec, hcore, hswap, hhalted, hctx⟩ := partitionSwap_swaps hne hbegin ha hb hquiet hchain hhalts hc hw
    (swapOne_of_none (by rw [hsched]; exact hnone)) rfl rfl
  exact ⟨v, hexec, by rw [hcore]; rfl, by rw [hcore]; rfl, by rw [hcore]; rfl, hswap, hhalted, hctx⟩

/-- R230, R233: a partition that has run on the core finds it as it was. -/
theorem partitionSwap_back {y : Core} (hy : Tab.look s.sched.shadow c = some y) (hpart : y.part = b) (htail : y.tail = [])
    (hans : y.answer = none) (hno : ∀ p ∈ s.cores, c ∉ p.2.chain) :
    ∃ v, exec (.partitionSwap a b) s = .next v ∧ coreAt v c = thawedWith y y ∧ v.sched.swap = none ∧ c ∉ v.sched.halted ∧
      SameContext (Tab.get .reset v.sched.shadow c) (coreAt (writeOut (standing s a b c) c) c) := by
  have hhalts := haltCore_halts (a := a) (b := b) hchain hhalt hfol hready hsoft hf hfences
  generalize hw : writeOut (standing s a b c) c = w
  have hbeside : beside c w = beside c (standing s a b c) := hw ▸ beside_writeOut c _
  obtain ⟨v, hexec, hcore, hswap, hhalted, hctx⟩ := partitionSwap_swaps hne hbegin ha hb hquiet hchain hhalts hc hw
    (swapOne_of_shadow (by rw [sched_of_beside hbeside]; exact hy) hpart htail) hpart hans
  rw [masterOf_exchanged hchain hno hbeside, coreAt_exchanged, if_pos rfl] at hcore
  exact ⟨v, hexec, hcore, hswap, hhalted, hctx⟩

end

/-- Settles O48: a victim's cores are told how to yield; what a core writes out leaves its array, the other cores and the scheduler alone,
so that the context that is saved, or exchanged, is the core's; a context that comes back is the core again, with the post that
reached it. -/
theorem preemptionSavesAndRestores : Obligations.PreemptionSavesAndRestores := by
  unfold Obligations.PreemptionSavesAndRestores
  refine ⟨fun s t x hx => ⟨fun h => ?_, fun v y hv hy => ?_, fun v y hsweep hy hfirst hplace hv hteam =>
      preemptRequest_yields_victim hx hsweep hy hfirst hplace hv hteam⟩,
    fun s c t x hb hx hlive hsave hdone hfol hready hchain htrap hfences hret hquiet =>
      coreSave_keepsContext hb hx hlive hsave hdone hfol hready hchain htrap hfences hret hquiet,
    fun s c t x k hb hx hk hfol hchain hans hpend => ⟨fun htail => coreRestore_restores hb hx hk hfol hchain hans hpend htail,
      fun p htail hbar => coreRestore_posts hb hx hk hfol hchain hans hpend htail hbar⟩,
    fun s c t b hd => ⟨drainDeadline_waits hd, fun hlate hc hlive hdrain =>
      ⟨_, drainDeadline_saves hd hlate hc hlive hdrain, coreIs_modCore s c _⟩⟩,
    fun s a b a' b' => partitionSwap_other,
    fun s a b c hne hbegin ha hb hhalt => ⟨fun hrun hstall => ?_, fun hready hfol hquiet hsoft hf hfences hchain hc =>
      ⟨fun hnone => partitionSwap_fresh hne hbegin ha hb hhalt hready hfol hquiet hsoft hf hfences hchain hc hnone,
        fun y hy hpart htail hans hno =>
          partitionSwap_back hne hbegin ha hb hhalt hready hfol hquiet hsoft hf hfences hchain hc hy hpart htail hans hno⟩⟩⟩
  · exact preemptRequest_nothing hx (h.imp_right (Or.imp_right (Or.imp_right newVictims_of_none)))
  · exact preemptRequest_nothing hx (.inr (.inr (.inr (newVictims_of_yielding hv hy))))
  · exact (partitionSwap_goesOn hne hbegin).trans (congrArg _ (swapStep_waits ha hhalt hrun hstall))

end Sys2Proof.Proofs
